-- ==== Sys2Proof/Word.lean ====
section
/-! DEFINITION. Sys2Proof/Word.lean: the words the machine computes on. Registers, addresses and instruction fields are
bit vectors; every other quantity (a register number, a core number, a memory key) is a natural number. -/

namespace Sys2Proof

/-- One byte of memory (R4). -/
abbrev Byte := BitVec 8

/-- A scalar register, an address while it is computed, a control register (R21). -/
abbrev Word := BitVec 64

/-- A vector register: VLEN = 2,048 bits on the Aqtis HN-1 (R21, R103). -/
abbrev VWord := BitVec 2048

/-- A predicate register: one bit for each byte lane (R21). -/
abbrev PWord := BitVec 256

end Sys2Proof
end

