-- ==== Sys2Proof/Syntax.lean ====
section
/-! DEFINITION. Sys2Proof/Syntax.lean: the instructions of the Aqtis HN-1, one constructor of `Instr` for each row of
spec/opcode_table.json. Three kinds of row stand in the table: core-level instructions (R34-R48), agent instructions
(R225-R227) and events, which are the steps that a unit, the host, the firmware or Taproot takes. An event has no
encoding; its operands say which pending operation lands, or what arrives from outside the module. -/

namespace Sys2Proof

/-- Source modes of a register field (R28). -/
inductive Mode where
  | wait | take | chk | raw
deriving DecidableEq, Repr

/-- A scalar register source: its number and its mode (R28, R35). -/
structure Src where
  reg  : Nat
  mode : Mode
deriving DecidableEq, Repr

/-- Element types of R42. Code 7 is reserved. -/
inductive Ety where
  | f32 | bf16 | f16 | e4m3 | e5m2 | bsi8 | bpn | i8 | i16 | i32 | i64 | n8 | n16 | n32 | n64
deriving DecidableEq, Repr

/-- Element and access sizes: 1, 2, 4 or 8 bytes (R41, R229). -/
inductive ESize where
  | s1 | s2 | s4 | s8
deriving DecidableEq, Repr

/-- Rounding field of VCVT (R41, R92). -/
inductive Rnd where
  | rne | rtz | rdn | rup
deriving DecidableEq, Repr

/-- Overflow field of VCVT (R41, R92). -/
inductive Ovf where
  | sat | inf | nan | trap
deriving DecidableEq, Repr

/-- Comparison codes of VCMP (R41, R116). -/
inductive Cmp where
  | eq | ne | lt | le | gt | ge | unord
deriving DecidableEq, Repr

/-- Ordering field of an AMO (R39). -/
inductive AmoOrder where
  | relaxed | acq | rel | acqrel
deriving DecidableEq, Repr

/-- Scope field of a FENCE (R38). -/
inductive Scope where
  | slot | core | cluster | die | module | fabric
deriving DecidableEq, Repr

/-- The long agent instructions (R227, opcodes 0x20-0x2D) as the sequencer keeps them while they run (R235): the fields of
R227, and nothing else. Each stands for the constructor of `Instr` with the same name. -/
inductive LongOp where
  | ctxnew (ka : Nat) (model : BitVec 32)
  | ctxfree (ka : Nat)
  | fork (ka kb : Nat)
  | trim (ka b : Nat)
  | append (ka sb c : Nat)
  | probe (a kb sc : Nat)
  | pin (ka sb c : Nat)
  | unpin (ka b : Nat)
  | score (fa kb sc d : Nat)
  | gen (ka sb c : Nat)
  | sampset (ka b : Nat)
  | maskbind (ka b : Nat)
  | rngjump (ka b : Nat)
  | await (a : Nat) (tag : BitVec 32)
deriving DecidableEq, Repr

/-- A firmware image as Taproot reads it (R346, R349): whether its signature verifies, its security version and version, the
digests of the image, the micro-kernel and the translation-service firmware, the firmware table that it sets up, and the HBM
region that it takes. The layout of an image is not in the spec. -/
structure Image where
  valid  : Bool
  svn    : Nat
  ver    : Nat
  digest : BitVec 256
  micro  : BitVec 256
  xlat   : BitVec 256
  fwroot : Word
  base   : Nat
  limit  : Nat
deriving DecidableEq, Repr

/-- The partition bounds and keys that a PSET command block names (R309, R314, R348). The layout of a command block is not in
the spec. -/
structure Bounds where
  part     : Nat
  pslots   : Nat
  pbanks   : Nat
  glo      : Nat
  ghi      : Nat
  hbmBase  : Nat
  hbmLimit : Nat
  pbnBase  : Nat
  pbnLimit : Nat
  keys     : List Nat
  fabkey   : Nat
  canquota : List Nat
  cdBase   : Nat
  cdLimit  : Nat
deriving DecidableEq, Repr

/-- The instructions and events of spec/opcode_table.json: the core-level instructions, the agent instructions, then those
of both levels that have no operand, then the events, each part in the table's order. -/
inductive Instr where

  /-- ADD: Writes rd = rs1 + rs2 modulo 2^64 as an immediate producer. (R54) -/
  | add (rd : Nat) (a b : Src)
  /-- SUB: Writes rd = rs1 - rs2 modulo 2^64. (R54) -/
  | sub (rd : Nat) (a b : Src)
  /-- AND: Writes rd = rs1 AND rs2. (R54) -/
  | and (rd : Nat) (a b : Src)
  /-- OR: Writes rd = rs1 OR rs2. (R54) -/
  | or (rd : Nat) (a b : Src)
  /-- XOR: Writes rd = rs1 XOR rs2. (R54) -/
  | xor (rd : Nat) (a b : Src)
  /-- SLL: Writes rd = rs1 shifted left by rs2[5:0]. (R54) -/
  | sll (rd : Nat) (a b : Src)
  /-- SRL: Writes rd = rs1 shifted right logically by rs2[5:0]. (R54) -/
  | srl (rd : Nat) (a b : Src)
  /-- SRA: Writes rd = rs1 shifted right arithmetically by rs2[5:0]. (R54) -/
  | sra (rd : Nat) (a b : Src)
  /-- SLT: Writes 1 when s(rs1) < s(rs2), else 0. (R54) -/
  | slt (rd : Nat) (a b : Src)
  /-- SLTU: Writes 1 when u(rs1) < u(rs2), else 0. (R54) -/
  | sltu (rd : Nat) (a b : Src)
  /-- MIN: Writes the signed lesser operand. (R54) -/
  | min (rd : Nat) (a b : Src)
  /-- MAX: Writes the signed greater operand. (R54) -/
  | max (rd : Nat) (a b : Src)
  /-- MINU: Writes the unsigned lesser operand. (R54) -/
  | minu (rd : Nat) (a b : Src)
  /-- MAXU: Writes the unsigned greater operand. (R54) -/
  | maxu (rd : Nat) (a b : Src)
  /-- MUL: Writes the low 64 bits of rs1 x rs2. (R54) -/
  | mul (rd : Nat) (a b : Src)
  /-- MULH: Writes bits [127:64] of the signed product. (R54) -/
  | mulh (rd : Nat) (a b : Src)
  /-- MULHU: Writes bits [127:64] of the unsigned product. (R54) -/
  | mulhu (rd : Nat) (a b : Src)
  /-- DIV: Starts a signed division on the core divider; rd is empty until the divider writes it. (R55) -/
  | div (rd : Nat) (a b : Src)
  /-- DIVU: Starts an unsigned division; rd is deferred. (R55) -/
  | divu (rd : Nat) (a b : Src)
  /-- REM: Starts a signed remainder; rd is deferred. (R55) -/
  | rem (rd : Nat) (a b : Src)
  /-- REMU: Starts an unsigned remainder; rd is deferred. (R55) -/
  | remu (rd : Nat) (a b : Src)
  /-- CLZ: Writes the number of leading zero bits of rs1. (R54) -/
  | clz (rd : Nat) (a : Src)
  /-- CTZ: Writes the number of trailing zero bits of rs1. (R54) -/
  | ctz (rd : Nat) (a : Src)
  /-- POPC: Writes the number of one bits of rs1. (R54) -/
  | popc (rd : Nat) (a : Src)
  /-- ADDSH1: Writes (rs1 << 1) + rs2. (R54) -/
  | addsh1 (rd : Nat) (a b : Src)
  /-- ADDSH2: Writes (rs1 << 2) + rs2. (R54) -/
  | addsh2 (rd : Nat) (a b : Src)
  /-- ADDSH3: Writes (rs1 << 3) + rs2. (R54) -/
  | addsh3 (rd : Nat) (a b : Src)
  /-- ANDN: Writes rs1 AND NOT rs2. (R54) -/
  | andn (rd : Nat) (a b : Src)
  /-- SEXTW: Writes rs1[31:0] sign-extended to 64 bits. (R54) -/
  | sextw (rd : Nat) (a : Src)
  /-- ZEXTW: Writes rs1[31:0] zero-extended to 64 bits. (R54) -/
  | zextw (rd : Nat) (a : Src)
  /-- ADDI: Writes rd = rs1 + sext(imm13). (R56) -/
  | addi (rd : Nat) (a : Src) (imm : BitVec 13)
  /-- ANDI: Writes rd = rs1 AND sext(imm13). (R56) -/
  | andi (rd : Nat) (a : Src) (imm : BitVec 13)
  /-- ORI: Writes rd = rs1 OR sext(imm13). (R56) -/
  | ori (rd : Nat) (a : Src) (imm : BitVec 13)
  /-- XORI: Writes rd = rs1 XOR sext(imm13). (R56) -/
  | xori (rd : Nat) (a : Src) (imm : BitVec 13)
  /-- SLTI: Writes 1 when rs1 is signed-less than sext(imm13). (R56) -/
  | slti (rd : Nat) (a : Src) (imm : BitVec 13)
  /-- SLLI: Shifts rs1 left by an immediate amount. (R56) -/
  | slli (rd : Nat) (a : Src) (amt : BitVec 6)
  /-- SRLI: Shifts rs1 right logically by an immediate amount. (R56) -/
  | srli (rd : Nat) (a : Src) (amt : BitVec 6)
  /-- SRAI: Shifts rs1 right arithmetically by an immediate amount. (R56) -/
  | srai (rd : Nat) (a : Src) (amt : BitVec 6)
  /-- LUI: Writes rd = sext(imm20) << 12. (R36) -/
  | lui (rd : Nat) (imm : BitVec 20)
  /-- ADDPC: Writes rd = pc + (sext(imm20) << 1). (R36) -/
  | addpc (rd : Nat) (imm : BitVec 20)
  /-- LDB: Issues a signed byte load; rd is a deferred destination. (R57) -/
  | ldb (rd : Nat) (a : Src) (imm : BitVec 13)
  /-- LDBU: Issues an unsigned byte load; rd is deferred. (R57) -/
  | ldbu (rd : Nat) (a : Src) (imm : BitVec 13)
  /-- LDH: Issues a signed halfword load; rd is deferred. (R57) -/
  | ldh (rd : Nat) (a : Src) (imm : BitVec 13)
  /-- LDHU: Issues an unsigned halfword load; rd is deferred. (R57) -/
  | ldhu (rd : Nat) (a : Src) (imm : BitVec 13)
  /-- LDW: Issues a signed word load; rd is deferred. (R57) -/
  | ldw (rd : Nat) (a : Src) (imm : BitVec 13)
  /-- LDWU: Issues an unsigned word load; rd is deferred. (R57) -/
  | ldwu (rd : Nat) (a : Src) (imm : BitVec 13)
  /-- LDD: Issues a 64-bit load; rd is deferred. (R57) -/
  | ldd (rd : Nat) (a : Src) (imm : BitVec 13)
  /-- STB: Stores the low byte of rs2. (R57) -/
  | stb (d a : Src) (imm : BitVec 11)
  /-- STH: Stores the low halfword of rs2. (R57) -/
  | sth (d a : Src) (imm : BitVec 11)
  /-- STW: Stores the low word of rs2. (R57) -/
  | stw (d a : Src) (imm : BitVec 11)
  /-- STD: Stores 64 bits of rs2, including window stores into another slot's register. (R57) -/
  | std (d a : Src) (imm : BitVec 11)
  /-- LDF: Sends a load-when-full request to a scratchpad bank; rd is deferred. (R61) -/
  | ldf (rd : Nat) (a : Src) (imm : BitVec 11)
  /-- LDT: Sends a take request that reads a full word and empties it; rd is deferred. (R61) -/
  | ldt (rd : Nat) (a : Src) (imm : BitVec 11)
  /-- LDP: Reads a scratchpad word at once in either state. (R61) -/
  | ldp (rd : Nat) (a : Src) (imm : BitVec 11)
  /-- LDFT: Sends a load-when-full request with the STATUS.WLIM wait limit; rd is deferred. (R61) -/
  | ldft (rd : Nat) (a : Src) (imm : BitVec 11)
  /-- STF: Places a store-when-empty request with its data in the bank; the thread continues. (R62) -/
  | stf (d a : Src) (imm : BitVec 11)
  /-- FEW_F: Sets a scratchpad word's full/empty bit to full. (R63) -/
  | fewF (a : Src) (imm : BitVec 11)
  /-- FEW_E: Sets a scratchpad word's full/empty bit to empty. (R63) -/
  | fewE (a : Src) (imm : BitVec 11)
  /-- AMOADD: Atomically adds rs2 to the word and returns the old value. (R67) -/
  | amoadd (rd : Nat) (a b : Src) (o : AmoOrder)
  /-- AMOSWAP: Atomically swaps rs2 into the word. (R67) -/
  | amoswap (rd : Nat) (a b : Src) (o : AmoOrder)
  /-- AMOCAS: Atomically writes rs2 when the word equals rd's old contents. (R67) -/
  | amocas (rd : Nat) (a b : Src) (o : AmoOrder)
  /-- AMOMIN: Atomic signed minimum. (R67) -/
  | amomin (rd : Nat) (a b : Src) (o : AmoOrder)
  /-- AMOMAX: Atomic signed maximum. (R67) -/
  | amomax (rd : Nat) (a b : Src) (o : AmoOrder)
  /-- AMOMINU: Atomic unsigned minimum. (R67) -/
  | amominu (rd : Nat) (a b : Src) (o : AmoOrder)
  /-- AMOMAXU: Atomic unsigned maximum. (R67) -/
  | amomaxu (rd : Nat) (a b : Src) (o : AmoOrder)
  /-- AMOAND: Atomic bitwise AND. (R67) -/
  | amoand (rd : Nat) (a b : Src) (o : AmoOrder)
  /-- AMOOR: Atomic bitwise OR. (R67) -/
  | amoor (rd : Nat) (a b : Src) (o : AmoOrder)
  /-- AMOXOR: Atomic bitwise XOR. (R67) -/
  | amoxor (rd : Nat) (a b : Src) (o : AmoOrder)
  /-- FENCE_FULL: Issues once every earlier access is performed at the scope and orders all later accesses and fetch. (R68) -/
  | fenceFull (sc : Scope)
  /-- FENCE_ACQ: Issues once earlier reads have returned and orders later accesses after them. (R68) -/
  | fenceAcq (sc : Scope)
  /-- FENCE_REL: Issues once earlier accesses are performed at the scope and orders later writes after them. (R68) -/
  | fenceRel (sc : Scope)
  /-- BEQ: Branches when rs1 equals rs2. (R69) -/
  | beq (a b : Src) (off : BitVec 11)
  /-- BNE: Branches when rs1 differs from rs2. (R69) -/
  | bne (a b : Src) (off : BitVec 11)
  /-- BLT: Branches on signed less-than. (R69) -/
  | blt (a b : Src) (off : BitVec 11)
  /-- BGE: Branches on signed greater-or-equal. (R69) -/
  | bge (a b : Src) (off : BitVec 11)
  /-- BLTU: Branches on unsigned less-than. (R69) -/
  | bltu (a b : Src) (off : BitVec 11)
  /-- BGEU: Branches on unsigned greater-or-equal. (R69) -/
  | bgeu (a b : Src) (off : BitVec 11)
  /-- JAL: Writes rd = pc + 4 and jumps by a halfword offset. (R69) -/
  | jal (rd : Nat) (imm : BitVec 20)
  /-- JALR: Writes rd = pc + 4 and jumps to rs1 + imm, trapping on an odd target. (R69) -/
  | jalr (rd : Nat) (a : Src) (imm : BitVec 13)
  /-- LOOP: Advances within the current chunk or sends a claim on the nest descriptor, unpacking the index or exiting when exhausted. (R71) -/
  | loop (rd : Nat) (a : Src) (imm : BitVec 13)
  /-- SPAWN: Places a launch entry in the core's root-slot queue and returns a launch id, as a release. (R75) -/
  | spawn (rd : Nat) (a : Src)
  /-- JOIN: Creates a group or adds the thread to one, returning the handle or an error code. (R77) -/
  | join (rd : Nat) (a : Src)
  /-- LEAVE: Removes the thread from a group, possibly completing a barrier or dissolving the group. (R77) -/
  | leave (rd : Nat) (a : Src)
  /-- BAR: Arrives at the group's current barrier and leaves the rotation until it completes. (R78) -/
  | bar (rd : Nat) (a b : Src)
  /-- WHOAMI: Writes the identity word, scratchpad address or launch id. (R81) -/
  | whoami (rd : Nat) (a : Src)
  /-- GRPCNT: Writes the group's current member count or an error. (R77) -/
  | grpcnt (rd : Nat) (a : Src)
  /-- WAITTL: Parks until the named timeline's DONE reaches the value, then acquires those operations' effects. (R190) -/
  | waittl (q : Nat) (a : Src)
  /-- QBIND: Binds a queue register to an SFU, Braid or ring port. (R84) -/
  | qbind (q : Nat) (a : Src)
  /-- QFREE: Unbinds a queue register. (R84) -/
  | qfree (q : Nat)
  /-- QSTAT: Returns the binding status and entry counts of a queue register. (R84) -/
  | qstat (q rd : Nat)
  /-- QRD: Pops one entry from the bound port, including Braid dispatch and ring pops. (R84) -/
  | qrd (q rd : Nat)
  /-- QWR: Pushes one entry to the bound port, including Braid completion pushes. (R84) -/
  | qwr (q : Nat) (a : Src)
  /-- CPY: Requests a linear copy on a copy channel with a token register. (R192) -/
  | cpy (tok : Nat) (b : Src) (ch : Nat)
  /-- CPY_RECT: Requests a 2-D strided copy. (R192) -/
  | cpyRect (tok : Nat) (b : Src) (ch : Nat)
  /-- CPY_WIN: Requests a copy into the on-chip window that may write registers. (R192) -/
  | cpyWin (tok : Nat) (b : Src) (ch : Nat)
  /-- CPY_COW: Requests a copy-on-write block copy followed by a released block-table entry write; privileged. (R187) -/
  | cpyCow (tok : Nat) (b : Src) (ch : Nat)
  /-- GATH: Requests a block-table WALK gather. (R194) -/
  | gath (tok : Nat) (b : Src) (ch : Nat)
  /-- GATH_ROWS: Requests an indexed-rows gather. (R194) -/
  | gathRows (tok : Nat) (b : Src) (ch : Nat)
  /-- COLL_ALLRED: Requests an all-reduce collective. (R196) -/
  | collAllred (tok : Nat) (b : Src) (ch : Nat)
  /-- COLL_ALLGATH: Requests an all-gather collective. (R196) -/
  | collAllgath (tok : Nat) (b : Src) (ch : Nat)
  /-- COLL_REDSCAT: Requests a reduce-scatter collective. (R196) -/
  | collRedscat (tok : Nat) (b : Src) (ch : Nat)
  /-- COLL_ALLTOALL: Requests an all-to-all collective. (R196) -/
  | collAlltoall (tok : Nat) (b : Src) (ch : Nat)
  /-- ATSUB: Submits an attention task graph to the die's Braid. (R199) -/
  | atsub (tok : Nat) (b : Src)
  /-- MLEASE: Requests a lease on the cluster's array with a token. (R137) -/
  | mlease (tok : Nat)
  /-- MREL: Ends the lease and its run; the bank frees after accepted commands complete. (R155) -/
  | mrel (l : Nat)
  /-- MZERO: Array command that zeroes a bank and clears its fault flag. (R155) -/
  | mzero (l : Nat)
  /-- MMUL: Array command that accumulates A times a residency into a bank. (R154) -/
  | mmul (l : Nat) (a b : Src)
  /-- MMUL_S: Array command that accumulates A times a streamed BSI8 B tile into a bank. (R154) -/
  | mmulS (l : Nat) (a b : Src)
  /-- MDRAIN: Array command that converts bank rows to a destination tensor and reports through a token. (R156) -/
  | mdrain (l tok : Nat) (b : Src)
  /-- MWAIT: Parks until all earlier commands of the lease complete, then acquires them. (R155) -/
  | mwait (l : Nat)
  /-- RALLOC: Allocates Canopy pages and creates an EMPTY residency. (R150) -/
  | ralloc (pin auto : Bool) (tok : Nat) (b : Src)
  /-- RFILL: Starts filling a residency from a source record. (R150) -/
  | rfill (tok : Nat) (b : Src)
  /-- RPIN: Sets PIN, refilling an evicted residency first. (R150) -/
  | rpin (tok : Nat) (b : Src)
  /-- RUNPIN: Clears PIN. (R150) -/
  | runpin (tok : Nat) (b : Src)
  /-- RREVOKE: Abandons fills, waits for MMULs, frees pages and ends the handle. (R150) -/
  | rrevoke (tok : Nat) (b : Src)
  /-- RQUERY: Returns a residency's state word. (R151) -/
  | rquery (tok : Nat) (b : Src)
  /-- TIDSET: Writes a 64-byte tensor record from memory. (R144) -/
  | tidset (a b : Src)
  /-- TIDGET: Stores a tensor record to memory. (R144) -/
  | tidget (a b : Src)
  /-- TIDPATCH: Writes one dimension of a tensor record indivisibly. (R144) -/
  | tidpatch (dim : Nat) (a b : Src)
  /-- VADD: Vector integer add. (R109) -/
  | vadd (vd va vb pg : Nat) (t : Ety) (z : Bool)
  /-- VSUB: Vector integer subtract. (R109) -/
  | vsub (vd va vb pg : Nat) (t : Ety) (z : Bool)
  /-- VMUL: Vector integer multiply, low half. (R109) -/
  | vmul (vd va vb pg : Nat) (t : Ety) (z : Bool)
  /-- VMULH: Vector integer multiply, high half. (R109) -/
  | vmulh (vd va vb pg : Nat) (t : Ety) (z : Bool)
  /-- VMIN: Vector integer minimum. (R109) -/
  | vmin (vd va vb pg : Nat) (t : Ety) (z : Bool)
  /-- VMAX: Vector integer maximum. (R109) -/
  | vmax (vd va vb pg : Nat) (t : Ety) (z : Bool)
  /-- VAND: Vector bitwise AND. (R109) -/
  | vand (vd va vb pg : Nat) (t : Ety) (z : Bool)
  /-- VOR: Vector bitwise OR. (R109) -/
  | vor (vd va vb pg : Nat) (t : Ety) (z : Bool)
  /-- VXOR: Vector bitwise XOR. (R109) -/
  | vxor (vd va vb pg : Nat) (t : Ety) (z : Bool)
  /-- VSHL: Vector shift left. (R109) -/
  | vshl (vd va vb pg : Nat) (t : Ety) (z : Bool)
  /-- VSHR: Vector logical shift right. (R109) -/
  | vshr (vd va vb pg : Nat) (t : Ety) (z : Bool)
  /-- VSRA: Vector arithmetic shift right. (R109) -/
  | vsra (vd va vb pg : Nat) (t : Ety) (z : Bool)
  /-- VABS: Vector integer absolute value. (R109) -/
  | vabs (vd va pg : Nat) (t : Ety) (z : Bool)
  /-- VNEG: Vector integer negate. (R109) -/
  | vneg (vd va pg : Nat) (t : Ety) (z : Bool)
  /-- VMAC: Vector integer multiply-accumulate into vd. (R109) -/
  | vmac (vd va vb pg : Nat) (t : Ety) (z : Bool)
  /-- VFADD: Vector float add with one rounding. (R110) -/
  | vfadd (vd va vb pg : Nat) (t : Ety) (z : Bool)
  /-- VFSUB: Vector float subtract. (R110) -/
  | vfsub (vd va vb pg : Nat) (t : Ety) (z : Bool)
  /-- VFMUL: Vector float multiply. (R110) -/
  | vfmul (vd va vb pg : Nat) (t : Ety) (z : Bool)
  /-- VFMA: Vector fused multiply-add into vd. (R110) -/
  | vfma (vd va vb pg : Nat) (t : Ety) (z : Bool)
  /-- VFMIN: Vector float minimum. (R110) -/
  | vfmin (vd va vb pg : Nat) (t : Ety) (z : Bool)
  /-- VFMAX: Vector float maximum. (R110) -/
  | vfmax (vd va vb pg : Nat) (t : Ety) (z : Bool)
  /-- VFABS: Clears the sign bit of each active element. (R110) -/
  | vfabs (vd va pg : Nat) (t : Ety) (z : Bool)
  /-- VFNEG: Flips the sign bit of each active element. (R110) -/
  | vfneg (vd va pg : Nat) (t : Ety) (z : Bool)
  /-- VCVT: Converts elements between types with the selected rounding and overflow policy. (R111) -/
  | vcvt (vd va pg : Nat) (dst src : Ety) (r : Rnd) (o : Ovf) (z : Bool)
  /-- VLD: Vector contiguous load; vd is deferred. (R113) -/
  | vld (vd : Nat) (xs : Src) (pg : Nat) (sz : ESize) (z : Bool)
  /-- VST: Vector contiguous store of active elements. (R113) -/
  | vst (vd : Nat) (xs : Src) (pg : Nat) (sz : ESize)
  /-- VGATH: Vector indexed load; vd is deferred. (R114) -/
  | vgath (vd va : Nat) (xs : Src) (pg : Nat) (sz : ESize) (z : Bool)
  /-- VSCAT: Vector indexed store. (R114) -/
  | vscat (vd va : Nat) (xs : Src) (pg : Nat) (sz : ESize)
  /-- VSPLAT: Broadcasts a scalar into active elements. (R113) -/
  | vsplat (vd : Nat) (xs : Src) (pg : Nat) (sz : ESize) (z : Bool)
  /-- VBOUND: Builds a predicate of elements with index + j below the bound. (R108) -/
  | vbound (pd : Nat) (a b : Src) (t : Ety)
  /-- VCMP: Compares elements into a predicate. (R116) -/
  | vcmp (pd va vb pg : Nat) (t : Ety) (cc : Cmp)
  /-- PAND: Predicate AND. (R117) -/
  | pand (pd pa pb : Nat)
  /-- POR: Predicate OR. (R117) -/
  | por (pd pa pb : Nat)
  /-- PNOT: Predicate NOT. (R117) -/
  | pnot (pd pa : Nat)
  /-- PXOR: Predicate XOR. (R117) -/
  | pxor (pd pa pb : Nat)
  /-- PCOUNT: Counts active elements of a predicate. (R118) -/
  | pcount (ps rd : Nat) (t : Ety)
  /-- PFIRST: Returns the index of the first active element. (R118) -/
  | pfirst (ps rd : Nat) (t : Ety)
  /-- VSLIDEUP: Slides elements up by a scalar count. (R119) -/
  | vslideup (vd va : Nat) (xs : Src) (pg : Nat) (sz : ESize) (z : Bool)
  /-- VSLIDEDN: Slides elements down by a scalar count. (R119) -/
  | vslidedn (vd va : Nat) (xs : Src) (pg : Nat) (sz : ESize) (z : Bool)
  /-- VPERM: Permutes elements by an index vector. (R120) -/
  | vperm (vd va vb pg : Nat) (t : Ety) (z : Bool)
  /-- VCOMPRESS: Packs active elements to the front. (R120) -/
  | vcompress (vd va pg : Nat) (t : Ety) (z : Bool)
  /-- VSEL: Selects elements from va or vb by predicate. (R120) -/
  | vsel (vd va vb pg : Nat) (t : Ety)
  /-- VREDADD: Tree sum reduction into element 0. (R122) -/
  | vredadd (vd va vb pg : Nat) (t : Ety)
  /-- VREDMAX: Tree maximum reduction into element 0. (R122) -/
  | vredmax (vd va vb pg : Nat) (t : Ety)
  /-- VREDMIN: Tree minimum reduction into element 0. (R122) -/
  | vredmin (vd va vb pg : Nat) (t : Ety)
  /-- VFREDADD: Ordered float sum reduction into element 0. (R122) -/
  | vfredadd (vd va vb pg : Nat) (t : Ety)
  /-- VEXT: Extracts one element into a scalar. (R121) -/
  | vext (va rd : Nat) (b : Src) (sz : ESize)
  /-- VINS: Inserts a scalar into one element. (R121) -/
  | vins (vd : Nat) (a b : Src) (sz : ESize)
  /-- VRCP: Queues an SFU reciprocal request; vd is deferred. (R123) -/
  | vrcp (vd va pg : Nat) (t : Ety) (z : Bool)
  /-- VRSQ: Queues an SFU reciprocal square root request. (R123) -/
  | vrsq (vd va pg : Nat) (t : Ety) (z : Bool)
  /-- VEXP2: Queues an SFU exp2 request. (R123) -/
  | vexp2 (vd va pg : Nat) (t : Ety) (z : Bool)
  /-- VLOG2: Queues an SFU log2 request. (R123) -/
  | vlog2 (vd va pg : Nat) (t : Ety) (z : Bool)
  /-- VTANH: Queues an SFU tanh request. (R123) -/
  | vtanh (vd va pg : Nat) (t : Ety) (z : Bool)
  /-- VWIDTH: Writes VLEN in bits. (R107) -/
  | vwidth (rd : Nat)
  /-- VTOPK: Starts a sort-unit rank of keyed elements; vd is deferred. (R129) -/
  | vtopk (vd va pg : Nat) (t : Ety)
  /-- VMAXX: Merges two ranked vectors element-wise. (R130) -/
  | vmaxx (vd va vb : Nat) (t : Ety)
  /-- VQUANT: Quantises 48 F32 elements to a BSI8 or BPN run. (R131) -/
  | vquant (vd va vb pg : Nat) (t : Ety)
  /-- VHIST: Starts a sort-unit histogram accumulation; vd is deferred. (R132) -/
  | vhist (vd va pg : Nat) (t : Ety)
  /-- CRD: Reads a control register by selector. (R296) -/
  | crd (rd : Nat) (a : Src)
  /-- CWR: Writes a control register by selector. (R296) -/
  | cwr (a b : Src)
  /-- TRAP: Makes a service call that freezes the thread with class 12. (R297) -/
  | trap (rd : Nat) (a b : Src)
  /-- ERET: Unfreezes a frozen thread and sets its event latch. (R300) -/
  | eret (a : Src)
  /-- SLOTLD: Reads a word of another slot's state. (R299) -/
  | slotld (rd : Nat) (a : Src)
  /-- SLOTST: Writes a word of a frozen or held slot's state. (R299) -/
  | slotst (a b : Src)
  /-- PARK: Sets HELD on a slot's thread. (R301) -/
  | park (a : Src)
  /-- UNPARK: Clears HELD on a slot's thread and sets its latch. (R301) -/
  | unpark (a : Src)
  /-- KILL: Ends a slot's thread, withdrawing its requests and releasing its resources. (R302) -/
  | kill (a : Src)
  /-- SKIPW: Pool header that skips n halfwords after a two-halfword header. (R47) -/
  | skipw (n : BitVec 20)
  /-- C_MOV: Compact register move. (R45) -/
  | cMov (a b : Nat)
  /-- C_ADD: Compact add. (R45) -/
  | cAdd (a b : Nat)
  /-- C_SUB: Compact subtract. (R45) -/
  | cSub (a b : Nat)
  /-- C_AND: Compact AND. (R45) -/
  | cAnd (a b : Nat)
  /-- C_OR: Compact OR. (R45) -/
  | cOr (a b : Nat)
  /-- C_XOR: Compact XOR. (R45) -/
  | cXor (a b : Nat)
  /-- C_SLL: Compact shift left. (R45) -/
  | cSll (a b : Nat)
  /-- C_SRL: Compact logical shift right. (R45) -/
  | cSrl (a b : Nat)
  /-- C_ADDI: Compact add immediate. (R45) -/
  | cAddi (a : Nat) (imm : BitVec 7)
  /-- C_LI: Compact load immediate. (R45) -/
  | cLi (a : Nat) (imm : BitVec 7)
  /-- C_LD: Compact 64-bit load. (R45) -/
  | cLd (a b : Nat) (c : BitVec 3)
  /-- C_ST: Compact 64-bit store. (R45) -/
  | cSt (a b : Nat) (c : BitVec 3)
  /-- C_BEQZ: Compact branch if zero. (R45) -/
  | cBeqz (a : Nat) (imm : BitVec 7)
  /-- C_BNEZ: Compact branch if not zero. (R45) -/
  | cBnez (a : Nat) (imm : BitVec 7)
  /-- C_J: Compact jump. (R45) -/
  | cJ (off : BitVec 11)
  /-- C_JR: Compact jump to register. (R45) -/
  | cJr (a : Nat)
  /-- C_LDT: Compact LDT whose address register is taken. (R85) -/
  | cLdt (a b : Nat) (c : BitVec 3)
  /-- C_STF: Compact STF. (R45) -/
  | cStf (a b : Nat) (c : BitVec 3)
  /-- C_SKIP: One-halfword pool header that skips n halfwords. (R47) -/
  | cSkip (n : BitVec 11)
  /-- C_QRD: Compact queue read. (R45) -/
  | cQrd (a b : Nat)
  /-- C_QWR: Compact queue write. (R45) -/
  | cQwr (a b : Nat)
  /-- AMOVI: Writes a sign-extended immediate into an a register. (R228) -/
  | amovi (a : Nat) (imm : BitVec 32)
  /-- AMOVI_HI: Writes the immediate into bits [63:32] of an a register. (R228) -/
  | amoviHi (a : Nat) (imm : BitVec 32)
  /-- AADD: Agent add. (R228) -/
  | aadd (a b c : Nat)
  /-- ASUB: Agent subtract. (R228) -/
  | asub (a b c : Nat)
  /-- AMUL: Agent multiply. (R228) -/
  | amul (a b c : Nat)
  /-- AADDI: Agent add immediate. (R228) -/
  | aaddi (a b : Nat) (imm : BitVec 32)
  /-- ABEQ: Agent branch if equal. (R228) -/
  | abeq (a b : Nat) (off : BitVec 32)
  /-- ABNE: Agent branch if not equal. (R228) -/
  | abne (a b : Nat) (off : BitVec 32)
  /-- ABLT: Agent signed branch if less. (R228) -/
  | ablt (a b : Nat) (off : BitVec 32)
  /-- ABGE: Agent signed branch if greater or equal. (R228) -/
  | abge (a b : Nat) (off : BitVec 32)
  /-- AJMP: Agent jump. (R228) -/
  | ajmp (off : BitVec 32)
  /-- ACALL: Agent call linking through a31. (R228) -/
  | acall (off : BitVec 32)
  /-- ALD: Loads from agent memory. (R229) -/
  | ald (sz : ESize) (sx : Bool) (a b : Nat) (off : BitVec 32)
  /-- AST: Stores to agent memory. (R229) -/
  | ast (sz : ESize) (a b : Nat) (off : BitVec 32)
  /-- SLOAD: Loads and checks a string descriptor. (R229) -/
  | sload (sa b : Nat) (off : BitVec 32)
  /-- SSTORE: Stores a string descriptor. (R229) -/
  | sstore (sa b : Nat) (off : BitVec 32)
  /-- SJOIN: Appends one token string to another. (R230) -/
  | sjoin (sa sb : Nat)
  /-- SLEN: Reads a string's length. (R230) -/
  | slen (a sb : Nat)
  /-- STOK: Reads one token of a string. (R230) -/
  | stok (a sb c : Nat)
  /-- STOK_W: Writes or appends one token of a string. (R230) -/
  | stokW (a sb c : Nat)
  /-- SSEL: Copies an indexed string descriptor. (R230) -/
  | ssel (sa sb c : Nat)
  /-- SCLEAR: Empties a string. (R230) -/
  | sclear (sa : Nat)
  /-- FMOVI: Writes an F32 bit pattern into a score register. (R231) -/
  | fmovi (fa : Nat) (imm : BitVec 32)
  /-- FBLT: Branches when one score is less than another. (R231) -/
  | fblt (fa fb : Nat) (off : BitVec 32)
  /-- FBITS: Moves a score register's bits into an a register. (R231) -/
  | fbits (a fb : Nat)
  /-- FBITS_F: Moves an a register's low bits into a score register. (R231) -/
  | fbitsF (a fb : Nat)
  /-- CHOOSE: Returns the index of the greatest of n score registers. (R231) -/
  | choose (a fb : Nat) (n : BitVec 32)
  /-- CTXLEN: Reads a context's committed length. (R232) -/
  | ctxlen (a kb : Nat)
  /-- CTXSTAT: Reads a context's status word. (R232) -/
  | ctxstat (a kb : Nat)
  /-- POST: Places a completion record, waiting while the queue is full. (R233) -/
  | post (a : Nat) (tag : BitVec 32)
  /-- AHALT: Frees the agent's contexts, posts HALT and stops the agent. (R233) -/
  | ahalt (a : Nat)
  /-- CTXNEW: Issues context creation, which takes effect at the next snapshot. (R244) -/
  | ctxnew (ka : Nat) (model : BitVec 32)
  /-- CTXFREE: Issues release of a context at the next snapshot. (R245) -/
  | ctxfree (ka : Nat)
  /-- FORK: Issues creation of a context sharing another's blocks. (R246) -/
  | fork (ka kb : Nat)
  /-- TRIM: Issues shortening of a context. (R247) -/
  | trim (ka b : Nat)
  /-- APPEND: Issues an append that matches Graft blocks and prefills in chunks over iterations. (R250) -/
  | append (ka sb c : Nat)
  /-- PROBE: Issues a prefix lookup returning 16 times the matched blocks. (R248) -/
  | probe (a kb sc : Nat)
  /-- PIN: Issues pinning of a matched chain of Graft nodes. (R249) -/
  | pin (ka sb c : Nat)
  /-- UNPIN: Issues removal of nodes from the context's pin set. (R249) -/
  | unpin (ka b : Nat)
  /-- SCORE: Issues scoring of a candidate string over iterations into a score register. (R252) -/
  | score (fa kb sc d : Nat)
  /-- GEN: Issues token generation under a budget over iterations. (R258) -/
  | gen (ka sb c : Nat)
  /-- SAMPSET: Issues a write of the sampling record from agent memory. (R255) -/
  | sampset (ka b : Nat)
  /-- MASKBIND: Issues binding of a grammar-mask provider group. (R262) -/
  | maskbind (ka b : Nat)
  /-- RNGJUMP: Issues an advance of the RNG counter. (R257) -/
  | rngjump (ka b : Nat)
  /-- AWAIT: Waits for a host event with a matching tag. (R264) -/
  | await (a : Nat) (tag : BitVec 32)
  /-- EXIT: Waits for its STFs and AMOs, then withdraws requests, leaves groups, releases its lease and queues, and hands the slot back. (R79) -/
  | exit
  /-- YIELD: Forgoes the slot's next owned turn. (R80) -/
  | yield
  /-- TRIGGER: Marks the thread triggered as a release for dependent populations. (R80) -/
  | trigger
  /-- BRK: Freezes the thread with a breakpoint trap of class 13. (R297) -/
  | brk
  /-- WFE: Waits for the slot's event latch. (R298) -/
  | wfe
  /-- C_NOP: Compact no-op. (R45) -/
  | cNop
  /-- C_YIELD: Compact YIELD. (R45) -/
  | cYield
  /-- C_EXIT: Compact EXIT. (R45) -/
  | cExit
  /-- C_BAR0: Compact barrier of the population group. (R45) -/
  | cBar0
  /-- ANOP: Agent no-op. (R228) -/
  | anop
  /-- ARET: Agent return to a31. (R228) -/
  | aret
  /-- DIVIDE_COMPLETE: The divider writes the quotient or remainder full 36 cycles after issue, counting a division by zero. (R55) -/
  | divideComplete (core : Nat)
  /-- LOAD_RETURN: A load's, AMO's or vector load's data arrives and the producer writes its destination full, setting poison on a deferred error. (R25) -/
  | loadReturn (t idx : Nat)
  /-- LDFT_TIMEOUT: The wait limit of a pending LDFT expires and rd receives all ones with the word unchanged. (R61) -/
  | ldftTimeout (t : Nat)
  /-- LOOP_CLAIM_RESPONSE: The claim response arrives in the slot's claim buffer and the thread becomes ready to issue the LOOP. (R73) -/
  | loopClaimResponse (t : Nat)
  /-- COPY_COMPLETE: A copy operation finishes, writes its token and advances DONE of its timeline. (R192) -/
  | copyComplete (ctx : Nat)
  /-- REMOTE_WRITE_ACK: The destination module acknowledges a remote write operation, letting the source complete it. (R179) -/
  | remoteWriteAck (op : Nat)
  /-- GATHER_COMPLETE: A gather operation finishes and writes its token. (R194) -/
  | gatherComplete (ctx : Nat)
  /-- COLL_CHUNK_RECEIVE: A collective chunk arrives, is checked against TAG, kind, STEP and CHUNKNO, and advances the state. (R197) -/
  | collChunkReceive (ctx : Nat)
  /-- COLL_COMPLETE: A collective finishes its last step, writes final state and its token. (R197) -/
  | collComplete (ctx : Nat)
  /-- LEASE_GRANT: A bank becomes free and the array grants the oldest waiting lease, zeroing the bank. (R137) -/
  | leaseGrant (g bank : Nat)
  /-- ARRAY_RUN_START: With no lease running, the array starts a run for the next waiting lease in rotation. (R138) -/
  | arrayRunStart (g : Nat)
  /-- ARRAY_RUN_LIMIT: A run reaches 64 commands, 65,536 cycles or 256 idle cycles while another lease waits, and ends at the next boundary. (R138) -/
  | arrayRunLimit (g : Nat)
  /-- ARRAY_PASS_START: The array starts the next pass once the previous occupation and latch-load conditions are met. (R135) -/
  | arrayPassStart (g : Nat)
  /-- ARRAY_COMMAND_COMPLETE: A command's last pass or bank access ends; results are performed and the lease timeline advances. (R140) -/
  | arrayCommandComplete (g : Nat)
  /-- AUTOFILL_REFILL_COMPLETE: A refill for a stalled MMUL on an evicted AUTOFILL residency completes or fails, running or abandoning the command. (R146) -/
  | autofillRefillComplete (g h : Nat)
  /-- RESIDENCY_FILL_COMPLETE: A fill completes or fails, setting RESIDENT, STALE and the token, and releasing stalled MMULs. (R150) -/
  | residencyFillComplete (g h : Nat)
  /-- CANOPY_BACKGROUND_REFILL: After switch-in the Canopy refills evicted AUTOFILL residencies as pages allow. (R322) -/
  | canopyBackgroundRefill (g h : Nat)
  /-- NORMALISER_SERVICE_END: A 32-cycle normaliser service ends, writing its destination full and starting the next queued service. (R91) -/
  | normaliserServiceEnd (core : Nat)
  /-- SFU_ACCEPT: At most every 4 cycles the SFU accepts the oldest eligible queued request. (R124) -/
  | sfuAccept (core : Nat)
  /-- SFU_DELIVER: Twelve cycles after acceptance the SFU writes the result or hands it to the normaliser, and pushes a completion word. (R124) -/
  | sfuDeliver (core : Nat)
  /-- SORT_UNIT_COMPLETE: The sort unit writes a VTOPK or VHIST result and becomes free. (R105) -/
  | sortUnitComplete (core : Nat)
  /-- WFE_TIMEOUT: A WFE's WLIM limit expires and the thread continues. (R298) -/
  | wfeTimeout (t : Nat)
  /-- TRAP_RECORD_WRITE: When its trap-queue entry is free, the core writes the next held record and fills word 0x00. (R292) -/
  | trapRecordWrite (core : Nat)
  /-- THREAD_START: The root slot takes up a launch entry, reads and checks its record, and starts threads in free slots. (R75) -/
  | threadStart (core sid : Nat)
  /-- POPULATION_COMPLETE: When all threads have exited and their writes are performed, the root slot STFs SIZE into DONE. (R76) -/
  | populationComplete (pop : Nat)
  /-- LOAD_BALANCE_EXCHANGE: Every 64 us root slots trade launch-queue counts and move entries to lighter neighbours. (R287) -/
  | loadBalanceExchange
  /-- WAIT_PROBE_TICK: Every 10 ms the probe unit sends probes from threads with a standing wait. (R306) -/
  | waitProbeTick
  /-- WAIT_PROBE_ARRIVAL: A probe reaches a thread and is forwarded, dropped, or returns to its origin. (R306) -/
  | waitProbeArrival (core : Nat)
  /-- TRANSLATION_ANSWER: The translation service core finishes a walk, fills TLBs and answers every waiter. (R331) -/
  | translationAnswer (g : Nat)
  /-- LANYARD_FLIT_ARRIVAL: A flit arrives at a port, is key-checked, delivered or parked. (R180) -/
  | lanyardFlitArrival (port : Nat)
  /-- HOST_MEMORY_ACCESS: A host CXL.mem read or write reaches HBM within its window. (R338) -/
  | hostMemoryAccess (fn a : Nat) (wr : Bool) (v : Word)
  /-- LOOKAHEAD_DECODE: The sequencer redecodes an agent's look-ahead window and reserves blocks, plan holds and refills. (R266) -/
  | lookaheadDecode (n : Nat)
  /-- PLAN_HOLD_EXPIRY: A plan hold lapses after 4 iterations. (R268) -/
  | planHoldExpiry (n : Nat)
  /-- ITERATION_SNAPSHOT: The iteration engine snapshots the batch table, applies one-step instructions, builds the batch and launches kernels. (R277) -/
  | iterationSnapshot (p : Nat)
  /-- GRACE_PERIOD_END: Blocks and descriptors two iterations past GRACE or RELEASING become FREE. (R218) -/
  | gracePeriodEnd (p : Nat)
  /-- BATCH_MULTICAST: A group member receives the built batch and launches its shards. (R279) -/
  | batchMulticast (p : Nat)
  /-- SHARD_REPORT: A member reports its shards complete or in error to the lead. (R279) -/
  | shardReport (p : Nat)
  /-- MODEL_GROUP_TIMEOUT: A member fails to report within TLIM and the iteration commits nothing. (R279) -/
  | modelGroupTimeout (p : Nat)
  /-- ITERATION_COMMIT: After every shard reports, placed steps commit in ascending context number. (R277) -/
  | iterationCommit (p : Nat)
  /-- LAUNCH_PACKET: Places a launch entry for a host-supplied record. (R342) -/
  | launchPacket (q : Nat)
  /-- AGENTSTART: Starts an agent on a die. (R342) -/
  | agentstart (q : Nat)
  /-- COPY_PACKET: Performs a linear copy in the tenancy's space. (R342) -/
  | copyPacket (q : Nat)
  /-- SIGNAL_TIMELINE: After earlier packets complete, raises host timeline n as a release. (R342) -/
  | signalTimeline (q : Nat)
  /-- SIGNAL_EVENT: After earlier packets complete, delivers an event to an agent, completing a matching AWAIT. (R342) -/
  | signalEvent (q : Nat)
  /-- WAITTL_PACKET: Holds the queue until a host timeline reaches a value. (R342) -/
  | waittlPacket (q : Nat)
  /-- SWITCHAT_PACKET: Writes SWITCHAT and SWCTL for the queue's partition. (R342) -/
  | switchatPacket (q : Nat)
  /-- FAULT_PACKET: Consumes a device-written FAULT packet by launching the handler queue's record. (R343) -/
  | faultPacket (q : Nat)
  /-- SQPTR_WRITE: A doorbell write advances TAIL or puts the queue in ERROR on an oversized advance. (R340) -/
  | sqptrWrite (q : Nat) (v : Word)
  /-- SQ_ACTIVATE: A STATE 1 write activates a disabled submission queue when its settings are valid. (R339) -/
  | sqActivate (q : Nat) (v : Word)
  /-- SQ_DISABLE: A STATE 0 write disables the queue and resets HEAD and TAIL. (R339) -/
  | sqDisable (q : Nat)
  /-- COMPLETION_RECORD_WRITE: A held completion record is written once the ring has room, firing MSI-X when enabled. (R344) -/
  | completionRecordWrite (fn : Nat)
  /-- XLAT_RESUME: A RESUME answer makes the micro-kernel retry the faulting access. (R334) -/
  | xlatResume (v : Word)
  /-- XLAT_SKIP: A SKIP answer writes XANSVAL into rd, advances pc and resumes. (R334) -/
  | xlatSkip (v : Word)
  /-- XLAT_KILL: A KILL answer treats the translation trap as unhandled. (R334) -/
  | xlatKill (v : Word)
  /-- TP_STAGE: Verifies a new firmware image and sets HOPEND. (R349) -/
  | tpStage (fn : Nat) (img : Image)
  /-- TP_COMMIT: Waits for quiescent root slots and switches every core to the staged image indivisibly. (R349) -/
  | tpCommit (fn : Nat)
  /-- ATTEST: Writes a signed attestation report for a nonce. (R350) -/
  | attest (fn : Nat)
  /-- PSET: Sets a partition's bounds and keys. (R348) -/
  | pset (fn : Nat) (b : Bounds)
  /-- PDESTROY: Destroys a partition. (R348) -/
  | pdestroy (fn p : Nat)
  /-- EXTEND: Extends a measurement register MEAS5-MEAS7. (R348) -/
  | extend (fn n : Nat) (d : BitVec 256)
  /-- UNFREEZE: The PF unfreezes a frozen VF. (R347) -/
  | unfreeze (fn vf : Nat)
  /-- POWER_ON: Taproot boots, verifies and measures firmware, and releases all cores in one cycle. (R346) -/
  | powerOn
  /-- HEALTH_UPDATE: Hourly, Taproot firmware updates LIFE and health data. (R354) -/
  | healthUpdate
  /-- EVENT_COUNTER_CLEAR: A supervisor CWR of 0 clears an event counter. (R100) -/
  | eventCounterClear (core idx : Nat)
  /-- ENGFRZ_UNFREEZE: Writing 1 to an ENGFRZ bit unfreezes that engine context. (R288) -/
  | engfrzUnfreeze (core p q : Nat)
  /-- PARTITION_CONFIG_WRITE: A valid write to ITERCFG, AGCFG or BLKQ takes effect at the next snapshot, possibly evicting Graft nodes. (R309) -/
  | partitionConfigWrite (p reg : Nat) (v : Word)
  /-- RTDATA_WRITE: Writes rank-table entry RTIDX, ignoring invalid entries. (R312) -/
  | rtdataWrite (p : Nat) (v : Word)
  /-- TENCFG_WRITE: Changes resident tenancies; setting a RES bit gives that tenancy fresh state. (R313) -/
  | tencfgWrite (p : Nat) (v : Word)
  /-- MODTAB_WRITE: Makes the sequencer read, check and latch the tenancy's model descriptors at the next snapshot. (R314) -/
  | modtabWrite (p n : Nat) (v : Word)
  /-- AGENT_AREA_WRITE: A BTAREA or SAMPAREA write takes effect at the next snapshot while every descriptor is FREE. (R314) -/
  | agentAreaWrite (p n : Nat) (v : Word)
  /-- SWITCHAT_WRITE: Sets the switch time, moving an armed switch to the new time. (R317) -/
  | switchatWrite (p : Nat) (v : Word)
  /-- SWCTL_ARM: An ARM 1 write checks the target and save areas and starts the preload. (R317) -/
  | swctlArm (p : Nat) (v : Word)
  /-- SWCTL_DISARM: An ARM 0 write sets TGT when idle or cancels an armed switch. (R317) -/
  | swctlDisarm (p : Nat) (v : Word)
  /-- PRELOAD_COMPLETE: The incoming tenancy's state is loaded into shadow state. (R318) -/
  | preloadComplete (p : Nat)
  /-- SWITCH_TIME_REACHED: FTIME reaches an armed or committed switch's T and the handover starts or the switch defers. (R317) -/
  | switchTimeReached (p : Nat)
  /-- SLOT_HANDOVER: At a slot's handover turn the outgoing thread is saved and the incoming thread loaded. (R319) -/
  | slotHandover (p : Nat)
  /-- SWITCH_COMPLETE: Once all state is saved and engines paused, CUR becomes the target. (R321) -/
  | switchComplete (p : Nat)
  /-- GSW_PREPARE: A guest PREPARE checks the target and preloads it. (R326) -/
  | gswPrepare (p tgt : Nat)
  /-- GSW_COMMIT: A guest COMMIT binds the switch at max(GSWTIME, FTIME). (R326) -/
  | gswCommit (p : Nat)
  /-- GSW_ABORT: A guest ABORT discards the preload. (R326) -/
  | gswAbort (p : Nat)
  /-- PTROOT_WRITE: Sets a tenancy's level-1 table and starts an ALL invalidation. (R332) -/
  | ptrootWrite (p n : Nat) (v : Word)
  /-- XINV_WRITE: A GO write starts an invalidation of one page or a whole tenancy and raises SEQ. (R333) -/
  | xinvWrite (p : Nat) (v : Word)
  /-- INVALIDATION_COMPLETE: An invalidation completes, redoing walks and raising DONE. (R333) -/
  | invalidationComplete (p : Nat)
  /-- ELOG_ENTRY_CLEAR: Clearing V frees an error-log entry. (R352) -/
  | elogEntryClear (g n : Nat)
  /-- EINJ_WRITE: Arms error injection for the next write to the target while EN is set. (R352) -/
  | einjWrite (g : Nat) (v : Word)
  /-- REGISTER_WRITE: A write to any register without behaviour of its own sets its RW fields. (R6) -/
  | registerWrite (place reg : Nat) (v : Word)
deriving DecidableEq, Repr

end Sys2Proof
end

