-- ==== Sys2Proof/WellFormed.lean ====
section
/-! DEFINITION. Sys2Proof/WellFormed.lean: which terms of `Instr` stand for an instruction of the hardware: the operand
ranges that the encodings of R34-R45 and R225-R227 allow, and the element types that each vector member accepts (R41,
R106). An event has no encoding; every event term is well formed. -/

namespace Sys2Proof

/-- A scalar source names x0-x31 (R35). -/
def Src.ok (a : Src) : Bool := a.reg < 32

/-- Floating types of the arithmetic members: F32, BF16, F16 (R41, R106). -/
def Ety.isFloat : Ety → Bool
  | .f32 | .bf16 | .f16 => true
  | .e4m3 | .e5m2 | .bsi8 | .bpn | .i8 | .i16 | .i32 | .i64 | .n8 | .n16 | .n32 | .n64 => false

/-- Signed integer types (R42). -/
def Ety.isSigned : Ety → Bool
  | .i8 | .i16 | .i32 | .i64 => true
  | .f32 | .bf16 | .f16 | .e4m3 | .e5m2 | .bsi8 | .bpn | .n8 | .n16 | .n32 | .n64 => false

/-- Integer types, codes 8-15 (R42). -/
def Ety.isInt : Ety → Bool
  | .i8 | .i16 | .i32 | .i64 | .n8 | .n16 | .n32 | .n64 => true
  | .f32 | .bf16 | .f16 | .e4m3 | .e5m2 | .bsi8 | .bpn => false

/-- Codes 0-2 and 8-15: VCMP and the tree reductions (R106). -/
def Ety.isCompute (t : Ety) : Bool := t.isFloat || t.isInt

/-- Codes 0-4 and 8-15: members that only move elements (R106). -/
def Ety.isMove : Ety → Bool
  | .bsi8 | .bpn => false
  | .f32 | .bf16 | .f16 | .e4m3 | .e5m2 | .i8 | .i16 | .i32 | .i64 | .n8 | .n16 | .n32 | .n64 => true

/-- Types of VCVT: codes 5, 6 and 7 are reserved (R41). -/
def Ety.isCvt (t : Ety) : Bool := t.isMove

/-- Keyed element layouts: F32, BF16, F16, I32 (R106, R128). -/
def Ety.isKeyed : Ety → Bool
  | .f32 | .bf16 | .f16 | .i32 => true
  | .e4m3 | .e5m2 | .bsi8 | .bpn | .i8 | .i16 | .i64 | .n8 | .n16 | .n32 | .n64 => false

/-- The instruction has an encoding, or is an event (R34-R46, R106, R225-R227). -/
def Instr.wf : Instr → Bool
  | .add rd a b => decide (rd < 32) && a.ok && b.ok
  | .sub rd a b => decide (rd < 32) && a.ok && b.ok
  | .and rd a b => decide (rd < 32) && a.ok && b.ok
  | .or rd a b => decide (rd < 32) && a.ok && b.ok
  | .xor rd a b => decide (rd < 32) && a.ok && b.ok
  | .sll rd a b => decide (rd < 32) && a.ok && b.ok
  | .srl rd a b => decide (rd < 32) && a.ok && b.ok
  | .sra rd a b => decide (rd < 32) && a.ok && b.ok
  | .slt rd a b => decide (rd < 32) && a.ok && b.ok
  | .sltu rd a b => decide (rd < 32) && a.ok && b.ok
  | .min rd a b => decide (rd < 32) && a.ok && b.ok
  | .max rd a b => decide (rd < 32) && a.ok && b.ok
  | .minu rd a b => decide (rd < 32) && a.ok && b.ok
  | .maxu rd a b => decide (rd < 32) && a.ok && b.ok
  | .mul rd a b => decide (rd < 32) && a.ok && b.ok
  | .mulh rd a b => decide (rd < 32) && a.ok && b.ok
  | .mulhu rd a b => decide (rd < 32) && a.ok && b.ok
  | .div rd a b => decide (rd < 32) && a.ok && b.ok
  | .divu rd a b => decide (rd < 32) && a.ok && b.ok
  | .rem rd a b => decide (rd < 32) && a.ok && b.ok
  | .remu rd a b => decide (rd < 32) && a.ok && b.ok
  | .clz rd a => decide (rd < 32) && a.ok
  | .ctz rd a => decide (rd < 32) && a.ok
  | .popc rd a => decide (rd < 32) && a.ok
  | .addsh1 rd a b => decide (rd < 32) && a.ok && b.ok
  | .addsh2 rd a b => decide (rd < 32) && a.ok && b.ok
  | .addsh3 rd a b => decide (rd < 32) && a.ok && b.ok
  | .andn rd a b => decide (rd < 32) && a.ok && b.ok
  | .sextw rd a => decide (rd < 32) && a.ok
  | .zextw rd a => decide (rd < 32) && a.ok
  | .addi rd a _ => decide (rd < 32) && a.ok
  | .andi rd a _ => decide (rd < 32) && a.ok
  | .ori rd a _ => decide (rd < 32) && a.ok
  | .xori rd a _ => decide (rd < 32) && a.ok
  | .slti rd a _ => decide (rd < 32) && a.ok
  | .slli rd a _ => decide (rd < 32) && a.ok
  | .srli rd a _ => decide (rd < 32) && a.ok
  | .srai rd a _ => decide (rd < 32) && a.ok
  | .lui rd _ => decide (rd < 32)
  | .addpc rd _ => decide (rd < 32)
  | .ldb rd a _ => decide (rd < 32) && a.ok
  | .ldbu rd a _ => decide (rd < 32) && a.ok
  | .ldh rd a _ => decide (rd < 32) && a.ok
  | .ldhu rd a _ => decide (rd < 32) && a.ok
  | .ldw rd a _ => decide (rd < 32) && a.ok
  | .ldwu rd a _ => decide (rd < 32) && a.ok
  | .ldd rd a _ => decide (rd < 32) && a.ok
  | .stb d a _ => d.ok && a.ok
  | .sth d a _ => d.ok && a.ok
  | .stw d a _ => d.ok && a.ok
  | .std d a _ => d.ok && a.ok
  | .ldf rd a _ => decide (rd < 32) && a.ok
  | .ldt rd a _ => decide (rd < 32) && a.ok
  | .ldp rd a _ => decide (rd < 32) && a.ok
  | .ldft rd a _ => decide (rd < 32) && a.ok
  | .stf d a _ => d.ok && a.ok
  | .fewF a _ => a.ok
  | .fewE a _ => a.ok
  | .amoadd rd a b _ => decide (rd < 32) && a.ok && b.ok
  | .amoswap rd a b _ => decide (rd < 32) && a.ok && b.ok
  | .amocas rd a b _ => decide (rd < 32) && a.ok && b.ok
  | .amomin rd a b _ => decide (rd < 32) && a.ok && b.ok
  | .amomax rd a b _ => decide (rd < 32) && a.ok && b.ok
  | .amominu rd a b _ => decide (rd < 32) && a.ok && b.ok
  | .amomaxu rd a b _ => decide (rd < 32) && a.ok && b.ok
  | .amoand rd a b _ => decide (rd < 32) && a.ok && b.ok
  | .amoor rd a b _ => decide (rd < 32) && a.ok && b.ok
  | .amoxor rd a b _ => decide (rd < 32) && a.ok && b.ok
  | .fenceFull _ => true
  | .fenceAcq _ => true
  | .fenceRel _ => true
  | .beq a b _ => a.ok && b.ok
  | .bne a b _ => a.ok && b.ok
  | .blt a b _ => a.ok && b.ok
  | .bge a b _ => a.ok && b.ok
  | .bltu a b _ => a.ok && b.ok
  | .bgeu a b _ => a.ok && b.ok
  | .jal rd _ => decide (rd < 32)
  | .jalr rd a _ => decide (rd < 32) && a.ok
  | .loop rd a _ => decide (1 ≤ rd) && decide (rd ≤ 27) && a.ok
  | .spawn rd a => decide (rd < 32) && a.ok
  | .join rd a => decide (rd < 32) && a.ok
  | .leave rd a => decide (rd < 32) && a.ok
  | .bar rd a b => decide (rd < 32) && a.ok && b.ok
  | .whoami rd a => decide (rd < 32) && a.ok
  | .grpcnt rd a => decide (rd < 32) && a.ok
  | .waittl q a => decide (q < 12) && a.ok
  | .qbind q a => decide (q < 16) && a.ok
  | .qfree q => decide (q < 16)
  | .qstat q rd => decide (q < 16) && decide (rd < 32)
  | .qrd q rd => decide (q < 16) && decide (rd < 32)
  | .qwr q a => decide (q < 16) && a.ok
  | .cpy tok b ch => decide (tok < 32) && b.ok && decide (ch < 2)
  | .cpyRect tok b ch => decide (tok < 32) && b.ok && decide (ch < 2)
  | .cpyWin tok b ch => decide (tok < 32) && b.ok && decide (ch < 2)
  | .cpyCow tok b ch => decide (tok < 32) && b.ok && decide (ch < 2)
  | .gath tok b ch => decide (tok < 32) && b.ok && decide (ch < 2)
  | .gathRows tok b ch => decide (tok < 32) && b.ok && decide (ch < 2)
  | .collAllred tok b ch => decide (tok < 32) && b.ok && decide (ch < 4)
  | .collAllgath tok b ch => decide (tok < 32) && b.ok && decide (ch < 4)
  | .collRedscat tok b ch => decide (tok < 32) && b.ok && decide (ch < 4)
  | .collAlltoall tok b ch => decide (tok < 32) && b.ok && decide (ch < 4)
  | .atsub tok b => decide (tok < 32) && b.ok
  | .mlease tok => decide (tok < 32)
  | .mrel l => decide (l < 4)
  | .mzero l => decide (l < 4)
  | .mmul l a b => decide (l < 4) && a.ok && b.ok
  | .mmulS l a b => decide (l < 4) && a.ok && b.ok
  | .mdrain l tok b => decide (l < 4) && decide (tok < 32) && b.ok
  | .mwait l => decide (l < 4)
  | .ralloc _ _ tok b => decide (tok < 32) && b.ok
  | .rfill tok b => decide (tok < 32) && b.ok
  | .rpin tok b => decide (tok < 32) && b.ok
  | .runpin tok b => decide (tok < 32) && b.ok
  | .rrevoke tok b => decide (tok < 32) && b.ok
  | .rquery tok b => decide (tok < 32) && b.ok
  | .tidset a b => a.ok && b.ok
  | .tidget a b => a.ok && b.ok
  | .tidpatch dim a b => decide (dim < 4) && a.ok && b.ok
  | .vadd vd va vb pg t _ => decide (vd < 16) && decide (va < 16) && decide (vb < 16) && decide (pg < 8) && t.isInt
  | .vsub vd va vb pg t _ => decide (vd < 16) && decide (va < 16) && decide (vb < 16) && decide (pg < 8) && t.isInt
  | .vmul vd va vb pg t _ => decide (vd < 16) && decide (va < 16) && decide (vb < 16) && decide (pg < 8) && t.isInt
  | .vmulh vd va vb pg t _ => decide (vd < 16) && decide (va < 16) && decide (vb < 16) && decide (pg < 8) && t.isInt
  | .vmin vd va vb pg t _ => decide (vd < 16) && decide (va < 16) && decide (vb < 16) && decide (pg < 8) && t.isInt
  | .vmax vd va vb pg t _ => decide (vd < 16) && decide (va < 16) && decide (vb < 16) && decide (pg < 8) && t.isInt
  | .vand vd va vb pg t _ => decide (vd < 16) && decide (va < 16) && decide (vb < 16) && decide (pg < 8) && t.isInt
  | .vor vd va vb pg t _ => decide (vd < 16) && decide (va < 16) && decide (vb < 16) && decide (pg < 8) && t.isInt
  | .vxor vd va vb pg t _ => decide (vd < 16) && decide (va < 16) && decide (vb < 16) && decide (pg < 8) && t.isInt
  | .vshl vd va vb pg t _ => decide (vd < 16) && decide (va < 16) && decide (vb < 16) && decide (pg < 8) && t.isInt
  | .vshr vd va vb pg t _ => decide (vd < 16) && decide (va < 16) && decide (vb < 16) && decide (pg < 8) && t.isInt
  | .vsra vd va vb pg t _ => decide (vd < 16) && decide (va < 16) && decide (vb < 16) && decide (pg < 8) && t.isSigned
  | .vabs vd va pg t _ => decide (vd < 16) && decide (va < 16) && decide (pg < 8) && t.isSigned
  | .vneg vd va pg t _ => decide (vd < 16) && decide (va < 16) && decide (pg < 8) && t.isSigned
  | .vmac vd va vb pg t _ => decide (vd < 16) && decide (va < 16) && decide (vb < 16) && decide (pg < 8) && t.isInt
  | .vfadd vd va vb pg t _ => decide (vd < 16) && decide (va < 16) && decide (vb < 16) && decide (pg < 8) && t.isFloat
  | .vfsub vd va vb pg t _ => decide (vd < 16) && decide (va < 16) && decide (vb < 16) && decide (pg < 8) && t.isFloat
  | .vfmul vd va vb pg t _ => decide (vd < 16) && decide (va < 16) && decide (vb < 16) && decide (pg < 8) && t.isFloat
  | .vfma vd va vb pg t _ => decide (vd < 16) && decide (va < 16) && decide (vb < 16) && decide (pg < 8) && t.isFloat
  | .vfmin vd va vb pg t _ => decide (vd < 16) && decide (va < 16) && decide (vb < 16) && decide (pg < 8) && t.isFloat
  | .vfmax vd va vb pg t _ => decide (vd < 16) && decide (va < 16) && decide (vb < 16) && decide (pg < 8) && t.isFloat
  | .vfabs vd va pg t _ => decide (vd < 16) && decide (va < 16) && decide (pg < 8) && t.isFloat
  | .vfneg vd va pg t _ => decide (vd < 16) && decide (va < 16) && decide (pg < 8) && t.isFloat
  | .vcvt vd va pg dst src _ _ _ => decide (vd < 16) && decide (va < 16) && decide (pg < 8) && dst.isCvt && src.isCvt && decide (dst ≠ src)
  | .vld vd xs pg _ _ => decide (vd < 16) && xs.ok && decide (pg < 8)
  | .vst vd xs pg _ => decide (vd < 16) && xs.ok && decide (pg < 8)
  | .vgath vd va xs pg _ _ => decide (vd < 16) && decide (va < 16) && xs.ok && decide (pg < 8)
  | .vscat vd va xs pg _ => decide (vd < 16) && decide (va < 16) && xs.ok && decide (pg < 8)
  | .vsplat vd xs pg _ _ => decide (vd < 16) && xs.ok && decide (pg < 8)
  | .vbound pd a b t => decide (pd < 8) && a.ok && b.ok && t.isMove
  | .vcmp pd va vb pg t cc => decide (pd < 8) && decide (va < 16) && decide (vb < 16) && decide (pg < 8) && t.isCompute && (cc ≠ .unord || t.isFloat)
  | .pand pd pa pb => decide (pd < 8) && decide (pa < 8) && decide (pb < 8)
  | .por pd pa pb => decide (pd < 8) && decide (pa < 8) && decide (pb < 8)
  | .pnot pd pa => decide (pd < 8) && decide (pa < 8)
  | .pxor pd pa pb => decide (pd < 8) && decide (pa < 8) && decide (pb < 8)
  | .pcount ps rd t => decide (ps < 8) && decide (rd < 32) && t.isMove
  | .pfirst ps rd t => decide (ps < 8) && decide (rd < 32) && t.isMove
  | .vslideup vd va xs pg _ _ => decide (vd < 16) && decide (va < 16) && xs.ok && decide (pg < 8)
  | .vslidedn vd va xs pg _ _ => decide (vd < 16) && decide (va < 16) && xs.ok && decide (pg < 8)
  | .vperm vd va vb pg t _ => decide (vd < 16) && decide (va < 16) && decide (vb < 16) && decide (pg < 8) && t.isInt
  | .vcompress vd va pg t _ => decide (vd < 16) && decide (va < 16) && decide (pg < 8) && t.isMove
  | .vsel vd va vb pg t => decide (vd < 16) && decide (va < 16) && decide (vb < 16) && decide (pg < 8) && t.isMove
  | .vredadd vd va vb pg t => decide (vd < 16) && decide (va < 16) && decide (vb < 16) && decide (pg < 8) && t.isCompute
  | .vredmax vd va vb pg t => decide (vd < 16) && decide (va < 16) && decide (vb < 16) && decide (pg < 8) && t.isCompute
  | .vredmin vd va vb pg t => decide (vd < 16) && decide (va < 16) && decide (vb < 16) && decide (pg < 8) && t.isCompute
  | .vfredadd vd va vb pg t => decide (vd < 16) && decide (va < 16) && decide (vb < 16) && decide (pg < 8) && t.isFloat
  | .vext va rd b _ => decide (va < 16) && decide (rd < 32) && b.ok
  | .vins vd a b _ => decide (vd < 16) && a.ok && b.ok
  | .vrcp vd va pg t _ => decide (vd < 16) && decide (va < 16) && decide (pg < 8) && t.isFloat
  | .vrsq vd va pg t _ => decide (vd < 16) && decide (va < 16) && decide (pg < 8) && t.isFloat
  | .vexp2 vd va pg t _ => decide (vd < 16) && decide (va < 16) && decide (pg < 8) && t.isFloat
  | .vlog2 vd va pg t _ => decide (vd < 16) && decide (va < 16) && decide (pg < 8) && t.isFloat
  | .vtanh vd va pg t _ => decide (vd < 16) && decide (va < 16) && decide (pg < 8) && t.isFloat
  | .vwidth rd => decide (rd < 32)
  | .vtopk vd va pg t => decide (vd < 16) && decide (va < 16) && decide (pg < 8) && t.isKeyed
  | .vmaxx vd va vb t => decide (vd < 16) && decide (va < 16) && decide (vb < 16) && t.isKeyed
  | .vquant vd va vb pg t => decide (vd < 16) && decide (va < 16) && decide (vb < 16) && decide (pg < 8) && (t = .bsi8 || t = .bpn)
  | .vhist vd va pg t => decide (vd < 16) && decide (va < 16) && decide (pg < 8) && (t = .n8 || t = .n16 || t = .n32)
  | .crd rd a => decide (rd < 32) && a.ok
  | .cwr a b => a.ok && b.ok
  | .trap rd a b => decide (rd < 32) && a.ok && b.ok
  | .eret a => a.ok
  | .slotld rd a => decide (rd < 32) && a.ok
  | .slotst a b => a.ok && b.ok
  | .park a => a.ok
  | .unpark a => a.ok
  | .kill a => a.ok
  | .skipw _ => true
  | .cMov a b => decide (a < 16) && decide (b < 16)
  | .cAdd a b => decide (a < 16) && decide (b < 16)
  | .cSub a b => decide (a < 16) && decide (b < 16)
  | .cAnd a b => decide (a < 16) && decide (b < 16)
  | .cOr a b => decide (a < 16) && decide (b < 16)
  | .cXor a b => decide (a < 16) && decide (b < 16)
  | .cSll a b => decide (a < 16) && decide (b < 16)
  | .cSrl a b => decide (a < 16) && decide (b < 16)
  | .cAddi a _ => decide (a < 16)
  | .cLi a _ => decide (a < 16)
  | .cLd a b _ => decide (a < 16) && decide (b < 16)
  | .cSt a b _ => decide (a < 16) && decide (b < 16)
  | .cBeqz a _ => decide (a < 16)
  | .cBnez a _ => decide (a < 16)
  | .cJ _ => true
  | .cJr a => decide (a < 16)
  | .cLdt a b _ => decide (a < 16) && decide (b < 16)
  | .cStf a b _ => decide (a < 16) && decide (b < 16)
  | .cSkip _ => true
  | .cQrd a b => decide (a < 16) && decide (b < 16)
  | .cQwr a b => decide (a < 16) && decide (b < 16)
  | .amovi a _ => decide (a < 32)
  | .amoviHi a _ => decide (a < 32)
  | .aadd a b c => decide (a < 32) && decide (b < 32) && decide (c < 32)
  | .asub a b c => decide (a < 32) && decide (b < 32) && decide (c < 32)
  | .amul a b c => decide (a < 32) && decide (b < 32) && decide (c < 32)
  | .aaddi a b _ => decide (a < 32) && decide (b < 32)
  | .abeq a b _ => decide (a < 32) && decide (b < 32)
  | .abne a b _ => decide (a < 32) && decide (b < 32)
  | .ablt a b _ => decide (a < 32) && decide (b < 32)
  | .abge a b _ => decide (a < 32) && decide (b < 32)
  | .ajmp _ => true
  | .acall _ => true
  | .ald sz sx a b _ => decide (a < 32) && decide (b < 32) && (sz ≠ .s8 || !sx)
  | .ast _ a b _ => decide (a < 32) && decide (b < 32)
  | .sload sa b _ => decide (sa < 16) && decide (b < 32)
  | .sstore sa b _ => decide (sa < 16) && decide (b < 32)
  | .sjoin sa sb => decide (sa < 16) && decide (sb < 16)
  | .slen a sb => decide (a < 32) && decide (sb < 16)
  | .stok a sb c => decide (a < 32) && decide (sb < 16) && decide (c < 32)
  | .stokW a sb c => decide (a < 32) && decide (sb < 16) && decide (c < 32)
  | .ssel sa sb c => decide (sa < 16) && decide (sb < 16) && decide (c < 32)
  | .sclear sa => decide (sa < 16)
  | .fmovi fa _ => decide (fa < 16)
  | .fblt fa fb _ => decide (fa < 16) && decide (fb < 16)
  | .fbits a fb => decide (a < 32) && decide (fb < 16)
  | .fbitsF a fb => decide (a < 32) && decide (fb < 16)
  | .choose a fb n => decide (a < 32) && decide (fb < 16) && decide (1 ≤ n.toNat) && decide (fb + n.toNat ≤ 16)
  | .ctxlen a kb => decide (a < 32) && decide (kb < 16)
  | .ctxstat a kb => decide (a < 32) && decide (kb < 16)
  | .post a _ => decide (a < 32)
  | .ahalt a => decide (a < 32)
  | .ctxnew ka _ => decide (ka < 16)
  | .ctxfree ka => decide (ka < 16)
  | .fork ka kb => decide (ka < 16) && decide (kb < 16)
  | .trim ka b => decide (ka < 16) && decide (b < 32)
  | .append ka sb c => decide (ka < 16) && decide (sb < 16) && decide (c < 32) && decide (c ≠ 0)
  | .probe a kb sc => decide (a < 32) && decide (kb < 16) && decide (sc < 16)
  | .pin ka sb c => decide (ka < 16) && decide (sb < 16) && decide (c < 32)
  | .unpin ka b => decide (ka < 16) && decide (b < 32)
  | .score fa kb sc d => decide (fa < 16) && decide (kb < 16) && decide (sc < 16) && decide (d < 32) && decide (d ≠ 0)
  | .gen ka sb c => decide (ka < 16) && decide (sb < 16) && decide (c < 32) && decide (c ≠ 0)
  | .sampset ka b => decide (ka < 16) && decide (b < 32)
  | .maskbind ka b => decide (ka < 16) && decide (b < 32)
  | .rngjump ka b => decide (ka < 16) && decide (b < 32)
  | .await a _ => decide (a < 32)
  | .exit => true
  | .yield => true
  | .trigger => true
  | .brk => true
  | .wfe => true
  | .cNop => true
  | .cYield => true
  | .cExit => true
  | .cBar0 => true
  | .anop => true
  | .aret => true
  | .divideComplete _ => true
  | .loadReturn _ _ => true
  | .ldftTimeout _ => true
  | .loopClaimResponse _ => true
  | .copyComplete _ => true
  | .remoteWriteAck _ => true
  | .gatherComplete _ => true
  | .collChunkReceive _ => true
  | .collComplete _ => true
  | .leaseGrant _ _ => true
  | .arrayRunStart _ => true
  | .arrayRunLimit _ => true
  | .arrayPassStart _ => true
  | .arrayCommandComplete _ => true
  | .autofillRefillComplete _ _ => true
  | .residencyFillComplete _ _ => true
  | .canopyBackgroundRefill _ _ => true
  | .normaliserServiceEnd _ => true
  | .sfuAccept _ => true
  | .sfuDeliver _ => true
  | .sortUnitComplete _ => true
  | .wfeTimeout _ => true
  | .trapRecordWrite _ => true
  | .threadStart _ _ => true
  | .populationComplete _ => true
  | .loadBalanceExchange => true
  | .waitProbeTick => true
  | .waitProbeArrival _ => true
  | .translationAnswer _ => true
  | .lanyardFlitArrival _ => true
  | .hostMemoryAccess _ _ _ _ => true
  | .lookaheadDecode _ => true
  | .planHoldExpiry _ => true
  | .iterationSnapshot _ => true
  | .gracePeriodEnd _ => true
  | .batchMulticast _ => true
  | .shardReport _ => true
  | .modelGroupTimeout _ => true
  | .iterationCommit _ => true
  | .launchPacket _ => true
  | .agentstart _ => true
  | .copyPacket _ => true
  | .signalTimeline _ => true
  | .signalEvent _ => true
  | .waittlPacket _ => true
  | .switchatPacket _ => true
  | .faultPacket _ => true
  | .sqptrWrite _ _ => true
  | .sqActivate _ _ => true
  | .sqDisable _ => true
  | .completionRecordWrite _ => true
  | .xlatResume _ => true
  | .xlatSkip _ => true
  | .xlatKill _ => true
  | .tpStage _ _ => true
  | .tpCommit _ => true
  | .attest _ => true
  | .pset _ _ => true
  | .pdestroy _ _ => true
  | .extend _ _ _ => true
  | .unfreeze _ _ => true
  | .powerOn => true
  | .healthUpdate => true
  | .eventCounterClear _ _ => true
  | .engfrzUnfreeze _ _ _ => true
  | .partitionConfigWrite _ _ _ => true
  | .rtdataWrite _ _ => true
  | .tencfgWrite _ _ => true
  | .modtabWrite _ _ _ => true
  | .agentAreaWrite _ _ _ => true
  | .switchatWrite _ _ => true
  | .swctlArm _ _ => true
  | .swctlDisarm _ _ => true
  | .preloadComplete _ => true
  | .switchTimeReached _ => true
  | .slotHandover _ => true
  | .switchComplete _ => true
  | .gswPrepare _ _ => true
  | .gswCommit _ => true
  | .gswAbort _ => true
  | .ptrootWrite _ _ _ => true
  | .xinvWrite _ _ => true
  | .invalidationComplete _ => true
  | .elogEntryClear _ _ => true
  | .einjWrite _ _ => true
  | .registerWrite _ _ _ => true

end Sys2Proof
end

