-- ==== Sys2Proof/Decode.lean ====
section
/-! DEFINITION. Sys2Proof/Decode.lean: from bits to instructions, total, every refusal by name (R32-R48, R225-R227), and
after it the encoder, written from the same tables. A core-level word is numbered as R34 numbers it: a 16-bit form is one
number below 2^16, a 32-bit form one number below 2^32 whose upper halfword is fetched first (R32), an agent instruction
one number below 2^64 (R225). -/

namespace Sys2Proof

/-- Why bits are no instruction (R46, R226). -/
inductive DecodeError where
  /-- Major opcodes 0x00 and 0x37-0x3F, and op4 15 (R46 item 1). -/
  | reservedMajor
  /-- A function, kind, type, cc or sub-field value that R37-R45 leave unlisted (R46 item 1), or a register field outside
  the range its instruction allows (R71). -/
  | reservedValue
  /-- A field that must be zero is not (R46 item 2). -/
  | nonZeroField
  /-- Fewer bytes than the instruction has. -/
  | truncated
  /-- An agent opcode that R227 does not list. -/
  | agentOpcode
deriving DecidableEq, Repr

/-- The `k` bits of `w` from bit `lo` upward. -/
def fld (w lo k : Nat) : Nat := w / 2 ^ lo % 2 ^ k

def Mode.ofCode : Nat → Mode
  | 0 => .wait
  | 1 => .take
  | 2 => .chk
  | _ => .raw

def Mode.code : Mode → Nat
  | .wait => 0
  | .take => 1
  | .chk => 2
  | .raw => 3

/-- Element-type codes (R42). -/
def Ety.ofCode : Nat → Option Ety
  | 0 => some .f32
  | 1 => some .bf16
  | 2 => some .f16
  | 3 => some .e4m3
  | 4 => some .e5m2
  | 5 => some .bsi8
  | 6 => some .bpn
  | 8 => some .i8
  | 9 => some .i16
  | 10 => some .i32
  | 11 => some .i64
  | 12 => some .n8
  | 13 => some .n16
  | 14 => some .n32
  | 15 => some .n64
  | _ => none

def Ety.code : Ety → Nat
  | .f32 => 0
  | .bf16 => 1
  | .f16 => 2
  | .e4m3 => 3
  | .e5m2 => 4
  | .bsi8 => 5
  | .bpn => 6
  | .i8 => 8
  | .i16 => 9
  | .i32 => 10
  | .i64 => 11
  | .n8 => 12
  | .n16 => 13
  | .n32 => 14
  | .n64 => 15

def ESize.ofCode : Nat → ESize
  | 0 => .s1
  | 1 => .s2
  | 2 => .s4
  | _ => .s8

def ESize.code : ESize → Nat
  | .s1 => 0
  | .s2 => 1
  | .s4 => 2
  | .s8 => 3

def Rnd.ofCode : Nat → Rnd
  | 0 => .rne
  | 1 => .rtz
  | 2 => .rdn
  | _ => .rup

def Rnd.code : Rnd → Nat
  | .rne => 0
  | .rtz => 1
  | .rdn => 2
  | .rup => 3

def Ovf.ofCode : Nat → Ovf
  | 0 => .sat
  | 1 => .inf
  | 2 => .nan
  | _ => .trap

def Ovf.code : Ovf → Nat
  | .sat => 0
  | .inf => 1
  | .nan => 2
  | .trap => 3

def Cmp.ofCode : Nat → Option Cmp
  | 0 => some .eq
  | 1 => some .ne
  | 2 => some .lt
  | 3 => some .le
  | 4 => some .gt
  | 5 => some .ge
  | 6 => some .unord
  | _ => none

def Cmp.code : Cmp → Nat
  | .eq => 0
  | .ne => 1
  | .lt => 2
  | .le => 3
  | .gt => 4
  | .ge => 5
  | .unord => 6

def AmoOrder.ofCode : Nat → AmoOrder
  | 0 => .relaxed
  | 1 => .acq
  | 2 => .rel
  | _ => .acqrel

def AmoOrder.code : AmoOrder → Nat
  | .relaxed => 0
  | .acq => 1
  | .rel => 2
  | .acqrel => 3

def Scope.ofCode : Nat → Option Scope
  | 0 => some .slot
  | 1 => some .core
  | 2 => some .cluster
  | 3 => some .die
  | 4 => some .module
  | 5 => some .fabric
  | _ => none

def Scope.code : Scope → Nat
  | .slot => 0
  | .core => 1
  | .cluster => 2
  | .die => 3
  | .module => 4
  | .fabric => 5

/-- The answer of a decoder. -/
abbrev Decoded := Except DecodeError Instr

/-- The source whose register field starts at bit `r` and whose mode field starts at bit `m` (R34, R35). -/
def srcAt (w r m : Nat) : Src := ⟨fld w r 5, Mode.ofCode (fld w m 2)⟩

/-- Goes on only when a field that must be zero is zero (R46 item 2). -/
def mustBeZero (x : Nat) (k : Decoded) : Decoded := if x = 0 then k else .error .nonZeroField

/-- Goes on only when a value is one that the instruction accepts (R46 item 1). -/
def mustHold (c : Bool) (k : Decoded) : Decoded := if c then k else .error .reservedValue

/-- Goes on with the element type whose code is `c`, when `ok` accepts it (R42, R106). -/
def withEty (c : Nat) (ok : Ety → Bool) (k : Ety → Decoded) : Decoded :=
  match Ety.ofCode c with
  | some t => mustHold (ok t) (k t)
  | none => .error .reservedValue

/-! ### The 32-bit formats (R34) -/

def decR2 (w : Nat) (c : Nat → Src → Src → Instr) : Decoded := .ok (c (fld w 20 5) (srcAt w 15 13) (srcAt w 8 6))

def decR1 (w : Nat) (c : Nat → Src → Instr) : Decoded :=
  mustBeZero (fld w 6 7) (.ok (c (fld w 20 5) (srcAt w 15 13)))

def decI (w : Nat) (c : Nat → Src → BitVec 13 → Instr) : Decoded :=
  .ok (c (fld w 20 5) (srcAt w 15 13) (BitVec.ofNat 13 (fld w 0 13)))

def decShift (w : Nat) (c : Nat → Src → BitVec 6 → Instr) : Decoded :=
  mustBeZero (fld w 6 5) (.ok (c (fld w 20 5) (srcAt w 15 13) (BitVec.ofNat 6 (fld w 0 6))))

def decU (w : Nat) (c : Nat → BitVec 20 → Instr) : Decoded := .ok (c (fld w 20 5) (BitVec.ofNat 20 (fld w 0 20)))

def decS (w : Nat) (c : Src → Src → BitVec 11 → Instr) : Decoded :=
  .ok (c (srcAt w 20 11) (srcAt w 15 13) (BitVec.ofNat 11 (fld w 0 11)))

def decLS (w : Nat) (c : Nat → Src → BitVec 11 → Instr) : Decoded :=
  .ok (c (fld w 20 5) (srcAt w 15 13) (BitVec.ofNat 11 (fld w 0 11)))

def decAmo (w : Nat) (c : Nat → Src → Src → AmoOrder → Instr) : Decoded :=
  .ok (c (fld w 20 5) (srcAt w 15 13) (srcAt w 8 6) (AmoOrder.ofCode (fld w 0 2)))

def decFence (w : Nat) (c : Scope → Instr) : Decoded :=
  mustBeZero (fld w 13 12) <| mustBeZero (fld w 0 8) <|
    match Scope.ofCode (fld w 10 3) with
    | some sc => .ok (c sc)
    | none => .error .reservedValue

def decB (w : Nat) (c : Src → Src → BitVec 11 → Instr) : Decoded :=
  .ok (c (srcAt w 20 18) (srcAt w 13 11) (BitVec.ofNat 11 (fld w 0 11)))

def decNone (w : Nat) (i : Instr) : Decoded := mustBeZero (fld w 6 19) (.ok i)

def decRS1 (w : Nat) (c : Src → Instr) : Decoded :=
  mustBeZero (fld w 20 5) <| mustBeZero (fld w 6 7) (.ok (c (srcAt w 15 13)))

def decRS2 (w : Nat) (c : Src → Src → Instr) : Decoded :=
  mustBeZero (fld w 20 5) (.ok (c (srcAt w 15 13) (srcAt w 8 6)))

/-! Q format: q [24:21], xa [20:16] with ma [10:9], xb [15:11] with mb [8:7] (R34, R43). -/

def qa (w : Nat) : Src := srcAt w 16 9
def qb (w : Nat) : Src := srcAt w 11 7

def decQA (w : Nat) (c : Nat → Src → Instr) : Decoded :=
  mustBeZero (fld w 11 5) <| mustBeZero (fld w 7 2) (.ok (c (fld w 21 4) (qa w)))

def decQD (w : Nat) (c : Nat → Nat → Instr) : Decoded := mustBeZero (fld w 7 9) (.ok (c (fld w 21 4) (fld w 16 5)))

def decQ0 (w : Nat) (c : Nat → Instr) : Decoded := mustBeZero (fld w 7 14) (.ok (c (fld w 21 4)))

def decTokB (w : Nat) (c : Nat → Src → Instr) : Decoded :=
  mustBeZero (fld w 21 4) <| mustBeZero (fld w 9 2) (.ok (c (fld w 16 5) (qb w)))

def decChan (w ch : Nat) (c : Nat → Src → Nat → Instr) : Decoded :=
  mustBeZero (fld w 21 4) <| mustBeZero (fld w 9 2) (.ok (c (fld w 16 5) (qb w) ch))

def decLease (w : Nat) (c : Nat → Instr) : Decoded :=
  mustBeZero (fld w 23 2) <| mustBeZero (fld w 7 14) (.ok (c (fld w 21 2)))

/-! Vector formats (R34, R41). -/

def decV (w c : Nat) (ok : Ety → Bool) (z : Bool) (k : Nat → Nat → Nat → Nat → Ety → Bool → Instr) : Decoded :=
  withEty c ok fun t => .ok (k (fld w 21 4) (fld w 17 4) (fld w 13 4) (fld w 10 3) t z)

def decV1 (w c : Nat) (ok : Ety → Bool) (z : Bool) (k : Nat → Nat → Nat → Ety → Bool → Instr) : Decoded :=
  mustBeZero (fld w 13 4) <| withEty c ok fun t => .ok (k (fld w 21 4) (fld w 17 4) (fld w 10 3) t z)

def bitAt (w i : Nat) : Bool := fld w i 1 = 1

def decAlu (w : Nat) : Decoded :=
  match fld w 0 6 with
  | 0 => decR2 w .add
  | 1 => decR2 w .sub
  | 2 => decR2 w .and
  | 3 => decR2 w .or
  | 4 => decR2 w .xor
  | 5 => decR2 w .sll
  | 6 => decR2 w .srl
  | 7 => decR2 w .sra
  | 8 => decR2 w .slt
  | 9 => decR2 w .sltu
  | 10 => decR2 w .min
  | 11 => decR2 w .max
  | 12 => decR2 w .minu
  | 13 => decR2 w .maxu
  | 14 => decR2 w .mul
  | 15 => decR2 w .mulh
  | 16 => decR2 w .mulhu
  | 17 => decR2 w .div
  | 18 => decR2 w .divu
  | 19 => decR2 w .rem
  | 20 => decR2 w .remu
  | 21 => decR1 w .clz
  | 22 => decR1 w .ctz
  | 23 => decR1 w .popc
  | 24 => decR2 w .addsh1
  | 25 => decR2 w .addsh2
  | 26 => decR2 w .addsh3
  | 27 => decR2 w .andn
  | 28 => decR1 w .sextw
  | 29 => decR1 w .zextw
  | _ => .error .reservedValue

def decAmoOp (w : Nat) : Decoded :=
  match fld w 2 4 with
  | 0 => decAmo w .amoadd
  | 1 => decAmo w .amoswap
  | 2 => decAmo w .amocas
  | 3 => decAmo w .amomin
  | 4 => decAmo w .amomax
  | 5 => decAmo w .amominu
  | 6 => decAmo w .amomaxu
  | 7 => decAmo w .amoand
  | 8 => decAmo w .amoor
  | 9 => decAmo w .amoxor
  | _ => .error .reservedValue

def decThread (w : Nat) : Decoded :=
  match fld w 0 6 with
  | 0 => decR1 w .spawn
  | 1 => decR1 w .join
  | 2 => decR1 w .leave
  | 3 => decR2 w .bar
  | 4 => decNone w .exit
  | 5 => decNone w .yield
  | 6 => decNone w .trigger
  | 7 => decR1 w .whoami
  | 8 => decR1 w .grpcnt
  | _ => .error .reservedValue

def decSys (w : Nat) : Decoded :=
  match fld w 0 6 with
  | 0 => decR1 w .crd
  | 1 => decRS2 w .cwr
  | 2 => decR2 w .trap
  | 3 => decRS1 w .eret
  | 4 => decR1 w .slotld
  | 5 => decRS2 w .slotst
  | 6 => decRS1 w .park
  | 7 => decRS1 w .unpark
  | 8 => decRS1 w .kill
  | 9 => decNone w .brk
  | 10 => decNone w .wfe
  | _ => .error .reservedValue

def decQop (w : Nat) : Decoded :=
  match fld w 0 7 with
  | 0 => decQA w .qbind
  | 1 => decQ0 w .qfree
  | 2 => decQD w .qstat
  | 3 => decQD w .qrd
  | 4 => decQA w .qwr
  | _ => .error .reservedValue

def decMat (w : Nat) : Decoded :=
  match fld w 0 7 with
  | 0 => mustBeZero (fld w 21 4) <| mustBeZero (fld w 7 9) (.ok (.mlease (fld w 16 5)))
  | 1 => decLease w .mrel
  | 2 => decLease w .mzero
  | 3 => mustBeZero (fld w 24 1) <|
      if bitAt w 23 then .ok (.mmulS (fld w 21 2) (qa w) (qb w)) else .ok (.mmul (fld w 21 2) (qa w) (qb w))
  | 4 => mustBeZero (fld w 23 2) <| mustBeZero (fld w 9 2) (.ok (.mdrain (fld w 21 2) (fld w 16 5) (qb w)))
  | 5 => decLease w .mwait
  | _ => .error .reservedValue

def decRes (w : Nat) : Decoded :=
  match fld w 0 7 with
  | 0 => mustBeZero (fld w 23 2) <| mustBeZero (fld w 9 2)
      (.ok (.ralloc (bitAt w 22) (bitAt w 21) (fld w 16 5) (qb w)))
  | 1 => decTokB w .rfill
  | 2 => decTokB w .rpin
  | 3 => decTokB w .runpin
  | 4 => decTokB w .rrevoke
  | 5 => decTokB w .rquery
  | _ => .error .reservedValue

def decTid (w : Nat) : Decoded :=
  match fld w 0 7 with
  | 0 => mustBeZero (fld w 21 4) (.ok (.tidset (qa w) (qb w)))
  | 1 => mustBeZero (fld w 21 4) (.ok (.tidget (qa w) (qb w)))
  | 2 => mustBeZero (fld w 23 2) (.ok (.tidpatch (fld w 21 2) (qa w) (qb w)))
  | _ => .error .reservedValue

def decVint (w : Nat) : Decoded :=
  match fld w 0 6 with
  | 0 => decV w (8 + fld w 7 3) Ety.isInt (bitAt w 6) .vadd
  | 1 => decV w (8 + fld w 7 3) Ety.isInt (bitAt w 6) .vsub
  | 2 => decV w (8 + fld w 7 3) Ety.isInt (bitAt w 6) .vmul
  | 3 => decV w (8 + fld w 7 3) Ety.isInt (bitAt w 6) .vmulh
  | 4 => decV w (8 + fld w 7 3) Ety.isInt (bitAt w 6) .vmin
  | 5 => decV w (8 + fld w 7 3) Ety.isInt (bitAt w 6) .vmax
  | 6 => decV w (8 + fld w 7 3) Ety.isInt (bitAt w 6) .vand
  | 7 => decV w (8 + fld w 7 3) Ety.isInt (bitAt w 6) .vor
  | 8 => decV w (8 + fld w 7 3) Ety.isInt (bitAt w 6) .vxor
  | 9 => decV w (8 + fld w 7 3) Ety.isInt (bitAt w 6) .vshl
  | 10 => decV w (8 + fld w 7 3) Ety.isInt (bitAt w 6) .vshr
  | 11 => decV w (8 + fld w 7 3) Ety.isSigned (bitAt w 6) .vsra
  | 12 => decV1 w (8 + fld w 7 3) Ety.isSigned (bitAt w 6) .vabs
  | 13 => decV1 w (8 + fld w 7 3) Ety.isSigned (bitAt w 6) .vneg
  | 14 => decV w (8 + fld w 7 3) Ety.isInt (bitAt w 6) .vmac
  | _ => .error .reservedValue

def decVflt (w : Nat) : Decoded :=
  match fld w 0 6 with
  | 0 => decV w (fld w 7 3) Ety.isFloat (bitAt w 6) .vfadd
  | 1 => decV w (fld w 7 3) Ety.isFloat (bitAt w 6) .vfsub
  | 2 => decV w (fld w 7 3) Ety.isFloat (bitAt w 6) .vfmul
  | 3 => decV w (fld w 7 3) Ety.isFloat (bitAt w 6) .vfma
  | 4 => decV w (fld w 7 3) Ety.isFloat (bitAt w 6) .vfmin
  | 5 => decV w (fld w 7 3) Ety.isFloat (bitAt w 6) .vfmax
  | 6 => decV1 w (fld w 7 3) Ety.isFloat (bitAt w 6) .vfabs
  | 7 => decV1 w (fld w 7 3) Ety.isFloat (bitAt w 6) .vfneg
  | _ => .error .reservedValue

def decVcvt (w : Nat) : Decoded :=
  mustBeZero (fld w 0 1) <| withEty (fld w 13 4) Ety.isCvt fun d => withEty (fld w 6 4) Ety.isCvt fun s =>
    mustHold (decide (d ≠ s)) (.ok (.vcvt (fld w 21 4) (fld w 17 4) (fld w 10 3) d s
      (Rnd.ofCode (fld w 4 2)) (Ovf.ofCode (fld w 2 2)) (bitAt w 1)))

def decVmem (w : Nat) : Decoded :=
  match fld w 0 4 with
  | 0 => mustBeZero (fld w 17 4)
      (.ok (.vld (fld w 21 4) (srcAt w 12 10) (fld w 7 3) (ESize.ofCode (fld w 4 2)) (bitAt w 6)))
  | 1 => mustBeZero (fld w 17 4) <| mustBeZero (fld w 6 1)
      (.ok (.vst (fld w 21 4) (srcAt w 12 10) (fld w 7 3) (ESize.ofCode (fld w 4 2))))
  | 2 => .ok (.vgath (fld w 21 4) (fld w 17 4) (srcAt w 12 10) (fld w 7 3) (ESize.ofCode (fld w 4 2)) (bitAt w 6))
  | 3 => mustBeZero (fld w 6 1)
      (.ok (.vscat (fld w 21 4) (fld w 17 4) (srcAt w 12 10) (fld w 7 3) (ESize.ofCode (fld w 4 2))))
  | 4 => mustBeZero (fld w 17 4)
      (.ok (.vsplat (fld w 21 4) (srcAt w 12 10) (fld w 7 3) (ESize.ofCode (fld w 4 2)) (bitAt w 6)))
  | _ => .error .reservedValue

/-- PAND, POR, PXOR: type, cc and pg are 0, and each predicate field has bit 3 clear (R41, R35). -/
def decPL2 (w : Nat) (c : Nat → Nat → Nat → Instr) : Decoded :=
  mustBeZero (fld w 24 1) <| mustBeZero (fld w 20 1) <| mustBeZero (fld w 16 1) <| mustBeZero (fld w 3 10)
    (.ok (c (fld w 21 3) (fld w 17 3) (fld w 13 3)))

def decPQ (w : Nat) (c : Nat → Nat → Ety → Instr) : Decoded :=
  mustBeZero (fld w 24 1) <| mustBeZero (fld w 7 9) <| withEty (fld w 3 4) Ety.isMove fun t =>
    .ok (c (fld w 21 3) (fld w 16 5) t)

def decVpred (w : Nat) : Decoded :=
  match fld w 0 3 with
  | 0 => mustBeZero (fld w 24 1) <| withEty (fld w 3 4) Ety.isMove fun t => .ok (.vbound (fld w 21 3) (qa w) (qb w) t)
  | 1 => mustBeZero (fld w 24 1) <| withEty (fld w 6 4) Ety.isCompute fun t =>
      match Cmp.ofCode (fld w 3 3) with
      | some cc => mustHold (cc ≠ .unord || t.isFloat)
          (.ok (.vcmp (fld w 21 3) (fld w 17 4) (fld w 13 4) (fld w 10 3) t cc))
      | none => .error .reservedValue
  | 2 => decPL2 w .pand
  | 3 => decPL2 w .por
  | 4 => mustBeZero (fld w 24 1) <| mustBeZero (fld w 20 1) <| mustBeZero (fld w 3 14)
      (.ok (.pnot (fld w 21 3) (fld w 17 3)))
  | 5 => decPL2 w .pxor
  | 6 => decPQ w .pcount
  | _ => decPQ w .pfirst

def decVslide (w : Nat) (c : Nat → Nat → Src → Nat → ESize → Bool → Instr) : Decoded :=
  .ok (c (fld w 21 4) (fld w 17 4) (srcAt w 12 10) (fld w 7 3) (ESize.ofCode (fld w 5 2)) (bitAt w 4))

/-- The V-format members of VPERM and VSPEC that have no Z: it must be 0, as must bit 4 (R41, R106). -/
def decVn (w : Nat) (ok : Ety → Bool) (k : Nat → Nat → Nat → Nat → Ety → Instr) : Decoded :=
  mustBeZero (fld w 4 2) <| decV w (fld w 6 4) ok false fun vd va vb pg t _ => k vd va vb pg t

def decVperm (w : Nat) : Decoded :=
  match fld w 0 4 with
  | 0 => decVslide w .vslideup
  | 1 => decVslide w .vslidedn
  | 2 => mustBeZero (fld w 4 1) <| decV w (fld w 6 4) Ety.isInt (bitAt w 5) .vperm
  | 3 => mustBeZero (fld w 4 1) <| decV1 w (fld w 6 4) Ety.isMove (bitAt w 5) .vcompress
  | 4 => decVn w Ety.isMove .vsel
  | 5 => decVn w Ety.isCompute .vredadd
  | 6 => decVn w Ety.isCompute .vredmax
  | 7 => decVn w Ety.isCompute .vredmin
  | 8 => decVn w Ety.isFloat .vfredadd
  | 9 => mustBeZero (fld w 4 1) <| mustBeZero (fld w 9 2)
      (.ok (.vext (fld w 21 4) (fld w 16 5) (qb w) (ESize.ofCode (fld w 5 2))))
  | 10 => mustBeZero (fld w 4 1) (.ok (.vins (fld w 21 4) (qa w) (qb w) (ESize.ofCode (fld w 5 2))))
  | _ => .error .reservedValue

def decVsfu (w : Nat) : Decoded :=
  mustBeZero (fld w 3 2) <|
    match fld w 0 3 with
    | 0 => decV1 w (fld w 6 4) Ety.isFloat (bitAt w 5) .vrcp
    | 1 => decV1 w (fld w 6 4) Ety.isFloat (bitAt w 5) .vrsq
    | 2 => decV1 w (fld w 6 4) Ety.isFloat (bitAt w 5) .vexp2
    | 3 => decV1 w (fld w 6 4) Ety.isFloat (bitAt w 5) .vlog2
    | 4 => decV1 w (fld w 6 4) Ety.isFloat (bitAt w 5) .vtanh
    | _ => .error .reservedValue

def decVspec (w : Nat) : Decoded :=
  match fld w 0 3 with
  | 0 => mustBeZero (fld w 21 4) <| mustBeZero (fld w 3 13) (.ok (.vwidth (fld w 16 5)))
  | 1 => mustBeZero (fld w 3 3) <| decV1 w (fld w 6 4) Ety.isKeyed false fun vd va pg t _ => .vtopk vd va pg t
  | 2 => mustBeZero (fld w 3 3) <| mustBeZero (fld w 10 3) <|
      decV w (fld w 6 4) Ety.isKeyed false fun vd va vb _ t _ => .vmaxx vd va vb t
  | 3 => mustBeZero (fld w 3 3) <|
      decV w (fld w 6 4) (fun t => t = .bsi8 || t = .bpn) false fun vd va vb pg t _ => .vquant vd va vb pg t
  | 4 => mustBeZero (fld w 3 3) <|
      decV1 w (fld w 6 4) (fun t => t = .n8 || t = .n16 || t = .n32) false fun vd va pg t _ => .vhist vd va pg t
  | _ => .error .reservedValue

/-- A 32-bit instruction word (R34, R37). Bit 31 is 1 in every word the fetch unit forms. -/
def decode32 (w : Nat) : Decoded :=
  match fld w 25 6 with
  | 0x01 => decAlu w
  | 0x02 => decI w .addi
  | 0x03 => decI w .andi
  | 0x04 => decI w .ori
  | 0x05 => decI w .xori
  | 0x06 => decI w .slti
  | 0x07 =>
    match fld w 11 2 with
    | 0 => decShift w .slli
    | 1 => decShift w .srli
    | 2 => decShift w .srai
    | _ => .error .reservedValue
  | 0x08 => decU w .lui
  | 0x09 => decU w .addpc
  | 0x0A => decI w .ldb
  | 0x0B => decI w .ldbu
  | 0x0C => decI w .ldh
  | 0x0D => decI w .ldhu
  | 0x0E => decI w .ldw
  | 0x0F => decI w .ldwu
  | 0x10 => decI w .ldd
  | 0x11 => decS w .stb
  | 0x12 => decS w .sth
  | 0x13 => decS w .stw
  | 0x14 => decS w .std
  | 0x15 =>
    match fld w 11 2 with
    | 0 => decLS w .ldf
    | 1 => decLS w .ldt
    | 2 => decLS w .ldp
    | _ => decLS w .ldft
  | 0x16 => decS w .stf
  | 0x17 => mustBeZero (fld w 20 5) <| mustBeZero (fld w 11 1) <|
      if bitAt w 12 then .ok (.fewF (srcAt w 15 13) (BitVec.ofNat 11 (fld w 0 11)))
      else .ok (.fewE (srcAt w 15 13) (BitVec.ofNat 11 (fld w 0 11)))
  | 0x18 => decAmoOp w
  | 0x19 =>
    match fld w 8 2 with
    | 0 => decFence w .fenceFull
    | 1 => decFence w .fenceAcq
    | 2 => decFence w .fenceRel
    | _ => .error .reservedValue
  | 0x1A => decB w .beq
  | 0x1B => decB w .bne
  | 0x1C => decB w .blt
  | 0x1D => decB w .bge
  | 0x1E => decB w .bltu
  | 0x1F => decB w .bgeu
  | 0x20 => decU w .jal
  | 0x21 => decI w .jalr
  | 0x22 => mustHold (decide (1 ≤ fld w 20 5) && decide (fld w 20 5 ≤ 27)) (decI w .loop)
  | 0x23 => decThread w
  | 0x24 => mustBeZero (fld w 0 7) <| mustHold (decide (fld w 21 4 < 12)) (decQA w .waittl)
  | 0x25 => decQop w
  | 0x26 =>
    match fld w 0 6 with
    | 0 => decChan w (fld w 6 1) .cpy
    | 1 => decChan w (fld w 6 1) .cpyRect
    | 2 => decChan w (fld w 6 1) .cpyWin
    | 3 => decChan w (fld w 6 1) .cpyCow
    | _ => .error .reservedValue
  | 0x27 =>
    match fld w 0 6 with
    | 0 => decChan w (fld w 6 1) .gath
    | 1 => decChan w (fld w 6 1) .gathRows
    | _ => .error .reservedValue
  | 0x28 =>
    match fld w 0 5 with
    | 0 => decChan w (fld w 5 2) .collAllred
    | 1 => decChan w (fld w 5 2) .collAllgath
    | 2 => decChan w (fld w 5 2) .collRedscat
    | 3 => decChan w (fld w 5 2) .collAlltoall
    | _ => .error .reservedValue
  | 0x29 => mustBeZero (fld w 0 7) <| decTokB w .atsub
  | 0x2A => decMat w
  | 0x2B => decRes w
  | 0x2C => decTid w
  | 0x2D => decVint w
  | 0x2E => decVflt w
  | 0x2F => decVcvt w
  | 0x30 => decVmem w
  | 0x31 => decVpred w
  | 0x32 => decVperm w
  | 0x33 => decVsfu w
  | 0x34 => decVspec w
  | 0x35 => decSys w
  | 0x36 => mustBeZero (fld w 20 5) (.ok (.skipw (BitVec.ofNat 20 (fld w 0 20))))
  | _ => .error .reservedMajor

/-- A 16-bit form (R45): op4 [14:11], a [10:7], b [6:3], c [2:0]. -/
def decode16 (h : Nat) : Decoded :=
  match fld h 11 4 with
  | 0 =>
    match fld h 0 3 with
    | 0 => .ok (.cMov (fld h 7 4) (fld h 3 4))
    | 1 => .ok (.cAdd (fld h 7 4) (fld h 3 4))
    | 2 => .ok (.cSub (fld h 7 4) (fld h 3 4))
    | 3 => .ok (.cAnd (fld h 7 4) (fld h 3 4))
    | 4 => .ok (.cOr (fld h 7 4) (fld h 3 4))
    | 5 => .ok (.cXor (fld h 7 4) (fld h 3 4))
    | 6 => .ok (.cSll (fld h 7 4) (fld h 3 4))
    | _ => .ok (.cSrl (fld h 7 4) (fld h 3 4))
  | 1 => .ok (.cAddi (fld h 7 4) (BitVec.ofNat 7 (fld h 0 7)))
  | 2 => .ok (.cLi (fld h 7 4) (BitVec.ofNat 7 (fld h 0 7)))
  | 3 => .ok (.cLd (fld h 7 4) (fld h 3 4) (BitVec.ofNat 3 (fld h 0 3)))
  | 4 => .ok (.cSt (fld h 7 4) (fld h 3 4) (BitVec.ofNat 3 (fld h 0 3)))
  | 5 => .ok (.cBeqz (fld h 7 4) (BitVec.ofNat 7 (fld h 0 7)))
  | 6 => .ok (.cBnez (fld h 7 4) (BitVec.ofNat 7 (fld h 0 7)))
  | 7 => .ok (.cJ (BitVec.ofNat 11 (fld h 0 11)))
  | 8 => mustBeZero (fld h 0 7) (.ok (.cJr (fld h 7 4)))
  | 9 => .ok (.cLdt (fld h 7 4) (fld h 3 4) (BitVec.ofNat 3 (fld h 0 3)))
  | 10 => .ok (.cStf (fld h 7 4) (fld h 3 4) (BitVec.ofNat 3 (fld h 0 3)))
  | 11 => .ok (.cSkip (BitVec.ofNat 11 (fld h 0 11)))
  | 12 => mustBeZero (fld h 3 8) <|
    match fld h 0 3 with
    | 0 => .ok .cNop
    | 1 => .ok .cYield
    | 2 => .ok .cExit
    | 3 => .ok .cBar0
    | _ => .error .reservedValue
  | 13 => mustBeZero (fld h 0 3) (.ok (.cQrd (fld h 7 4) (fld h 3 4)))
  | 14 => mustBeZero (fld h 0 3) (.ok (.cQwr (fld h 7 4) (fld h 3 4)))
  | _ => .error .reservedMajor

/-! ### Agent instructions (R225-R227): op [63:56], A [55:51], B [50:46], C [45:41], D [40:36], flags [35:32], imm [31:0].
A field that names a k, s or f register has bit 4 clear, which `kField` checks. -/

def fA (w : Nat) : Nat := fld w 51 5
def fB (w : Nat) : Nat := fld w 46 5
def fC (w : Nat) : Nat := fld w 41 5
def fD (w : Nat) : Nat := fld w 36 5
def fFl (w : Nat) : Nat := fld w 32 4
def fImm (w : Nat) : BitVec 32 := BitVec.ofNat 32 (fld w 0 32)

/-- An agent instruction as the sequencer reads it: a short one is a term of `Instr`, a long one a `LongOp` (R227). -/
inductive AgentCode where
  | short (i : Instr)
  | long (l : LongOp)
deriving DecidableEq, Repr

abbrev AgentDecoded := Except DecodeError AgentCode

def mustBeZeroA (x : Nat) (k : AgentDecoded) : AgentDecoded := if x = 0 then k else .error .nonZeroField

def mustHoldA (c : Bool) (k : AgentDecoded) : AgentDecoded := if c then k else .error .reservedValue

def kField (x : Nat) (k : AgentDecoded) : AgentDecoded := if x < 16 then k else .error .nonZeroField

/-- B, C, D and flags are not used. -/
def onlyA (w : Nat) (k : AgentDecoded) : AgentDecoded :=
  mustBeZeroA (fB w) <| mustBeZeroA (fC w) <| mustBeZeroA (fD w) <| mustBeZeroA (fFl w) k

/-- C, D and flags are not used. -/
def onlyAB (w : Nat) (k : AgentDecoded) : AgentDecoded := mustBeZeroA (fC w) <| mustBeZeroA (fD w) <| mustBeZeroA (fFl w) k

/-- D, flags and imm are not used. -/
def onlyABC (w : Nat) (k : AgentDecoded) : AgentDecoded :=
  mustBeZeroA (fD w) <| mustBeZeroA (fFl w) <| mustBeZeroA (fld w 0 32) k

def noImm (w : Nat) (k : AgentDecoded) : AgentDecoded := mustBeZeroA (fld w 0 32) k

def decodeAgent (w : Nat) : AgentDecoded :=
  match fld w 56 8 with
  | 0x00 => mustBeZeroA (fA w) <| onlyA w <| noImm w (.ok (.short .anop))
  | 0x01 => mustBeZeroA (fB w) <| mustBeZeroA (fC w) <| mustBeZeroA (fD w) <|
      match fFl w with
      | 0 => .ok (.short (.amovi (fA w) (fImm w)))
      | 1 => .ok (.short (.amoviHi (fA w) (fImm w)))
      | _ => .error .nonZeroField
  | 0x02 => onlyABC w (.ok (.short (.aadd (fA w) (fB w) (fC w))))
  | 0x03 => onlyABC w (.ok (.short (.asub (fA w) (fB w) (fC w))))
  | 0x04 => onlyAB w (.ok (.short (.aaddi (fA w) (fB w) (fImm w))))
  | 0x05 => onlyABC w (.ok (.short (.amul (fA w) (fB w) (fC w))))
  | 0x06 => onlyAB w (.ok (.short (.abeq (fA w) (fB w) (fImm w))))
  | 0x07 => onlyAB w (.ok (.short (.abne (fA w) (fB w) (fImm w))))
  | 0x08 => onlyAB w (.ok (.short (.ablt (fA w) (fB w) (fImm w))))
  | 0x09 => onlyAB w (.ok (.short (.abge (fA w) (fB w) (fImm w))))
  | 0x0A => mustBeZeroA (fA w) <| onlyA w (.ok (.short (.ajmp (fImm w))))
  | 0x0B => mustBeZeroA (fA w) <| onlyA w (.ok (.short (.acall (fImm w))))
  | 0x0C => mustBeZeroA (fA w) <| onlyA w <| noImm w (.ok (.short .aret))
  | 0x0D => mustBeZeroA (fC w) <| mustBeZeroA (fD w) <| mustBeZeroA (fld w 35 1) <|
      mustHoldA (ESize.ofCode (fld w 32 2) ≠ .s8 || !bitAt w 34)
        (.ok (.short (.ald (ESize.ofCode (fld w 32 2)) (bitAt w 34) (fA w) (fB w) (fImm w))))
  | 0x0E => mustBeZeroA (fC w) <| mustBeZeroA (fD w) <| mustBeZeroA (fld w 34 2)
      (.ok (.short (.ast (ESize.ofCode (fld w 32 2)) (fA w) (fB w) (fImm w))))
  | 0x0F => kField (fA w) <| onlyAB w (.ok (.short (.sload (fA w) (fB w) (fImm w))))
  | 0x10 => kField (fA w) <| onlyAB w (.ok (.short (.sstore (fA w) (fB w) (fImm w))))
  | 0x11 => kField (fA w) <| kField (fB w) <| onlyAB w <| noImm w (.ok (.short (.sjoin (fA w) (fB w))))
  | 0x12 => kField (fB w) <| onlyAB w <| noImm w (.ok (.short (.slen (fA w) (fB w))))
  | 0x13 => kField (fB w) <| mustBeZeroA (fD w) <| noImm w <|
      match fFl w with
      | 0 => .ok (.short (.stok (fA w) (fB w) (fC w)))
      | 1 => .ok (.short (.stokW (fA w) (fB w) (fC w)))
      | _ => .error .nonZeroField
  | 0x14 => kField (fA w) <| kField (fB w) <| onlyABC w (.ok (.short (.ssel (fA w) (fB w) (fC w))))
  | 0x15 => kField (fA w) <| onlyA w <| noImm w (.ok (.short (.sclear (fA w))))
  | 0x16 => kField (fA w) <| onlyA w (.ok (.short (.fmovi (fA w) (fImm w))))
  | 0x17 => kField (fA w) <| kField (fB w) <| onlyAB w (.ok (.short (.fblt (fA w) (fB w) (fImm w))))
  | 0x18 => kField (fB w) <| mustBeZeroA (fC w) <| mustBeZeroA (fD w) <| noImm w <|
      match fFl w with
      | 0 => .ok (.short (.fbits (fA w) (fB w)))
      | 1 => .ok (.short (.fbitsF (fA w) (fB w)))
      | _ => .error .nonZeroField
  | 0x19 => kField (fB w) <| onlyAB w <|
      mustHoldA (decide (1 ≤ (fImm w).toNat) && decide (fB w + (fImm w).toNat ≤ 16))
        (.ok (.short (.choose (fA w) (fB w) (fImm w))))
  | 0x1A => kField (fB w) <| onlyAB w <| noImm w (.ok (.short (.ctxlen (fA w) (fB w))))
  | 0x1B => kField (fB w) <| onlyAB w <| noImm w (.ok (.short (.ctxstat (fA w) (fB w))))
  | 0x1C => onlyA w (.ok (.short (.post (fA w) (fImm w))))
  | 0x1D => onlyA w <| noImm w (.ok (.short (.ahalt (fA w))))
  | 0x20 => kField (fA w) <| onlyA w (.ok (.long (.ctxnew (fA w) (fImm w))))
  | 0x21 => kField (fA w) <| onlyA w <| noImm w (.ok (.long (.ctxfree (fA w))))
  | 0x22 => kField (fA w) <| kField (fB w) <| onlyAB w <| noImm w (.ok (.long (.fork (fA w) (fB w))))
  | 0x23 => kField (fA w) <| onlyAB w <| noImm w (.ok (.long (.trim (fA w) (fB w))))
  | 0x24 => kField (fA w) <| kField (fB w) <| mustHoldA (decide (fC w ≠ 0)) <|
      onlyABC w (.ok (.long (.append (fA w) (fB w) (fC w))))
  | 0x25 => kField (fB w) <| kField (fC w) <| onlyABC w (.ok (.long (.probe (fA w) (fB w) (fC w))))
  | 0x26 => kField (fA w) <| kField (fB w) <| onlyABC w (.ok (.long (.pin (fA w) (fB w) (fC w))))
  | 0x27 => kField (fA w) <| onlyAB w <| noImm w (.ok (.long (.unpin (fA w) (fB w))))
  | 0x28 => kField (fA w) <| kField (fB w) <| kField (fC w) <| mustHoldA (decide (fD w ≠ 0)) <|
      mustBeZeroA (fFl w) <| noImm w (.ok (.long (.score (fA w) (fB w) (fC w) (fD w))))
  | 0x29 => kField (fA w) <| kField (fB w) <| mustHoldA (decide (fC w ≠ 0)) <|
      onlyABC w (.ok (.long (.gen (fA w) (fB w) (fC w))))
  | 0x2A => kField (fA w) <| onlyAB w <| noImm w (.ok (.long (.sampset (fA w) (fB w))))
  | 0x2B => kField (fA w) <| onlyAB w <| noImm w (.ok (.long (.maskbind (fA w) (fB w))))
  | 0x2C => kField (fA w) <| onlyAB w <| noImm w (.ok (.long (.rngjump (fA w) (fB w))))
  | 0x2D => onlyA w (.ok (.long (.await (fA w) (fImm w))))
  | _ => .error .agentOpcode

/-- The constructor of `Instr` that a long instruction stands for. The compiler cannot build a term of so large a type at
this position, so the definition is for the kernel and for proofs; `step` runs a long instruction through `LongOp`. -/
noncomputable def LongOp.toInstr : LongOp → Instr
  | .ctxnew ka model => .ctxnew ka model
  | .ctxfree ka => .ctxfree ka
  | .fork ka kb => .fork ka kb
  | .trim ka b => .trim ka b
  | .append ka sb c => .append ka sb c
  | .probe a kb sc => .probe a kb sc
  | .pin ka sb c => .pin ka sb c
  | .unpin ka b => .unpin ka b
  | .score fa kb sc d => .score fa kb sc d
  | .gen ka sb c => .gen ka sb c
  | .sampset ka b => .sampset ka b
  | .maskbind ka b => .maskbind ka b
  | .rngjump ka b => .rngjump ka b
  | .await a tag => .await a tag

noncomputable def AgentCode.toInstr : AgentCode → Instr
  | .short i => i
  | .long l => l.toInstr

/-- A 64-bit agent word as a term of `Instr` (R225-R227). -/
noncomputable def decode64 (w : Nat) : Decoded := (decodeAgent w).map AgentCode.toInstr

/-- The number whose little-endian bytes these are (R4). -/
def leNat : List Byte → Nat
  | [] => 0
  | b :: bs => b.toNat + 256 * leNat bs

/-- The `n` little-endian bytes of a number (R4). -/
def leBytes : Nat → Nat → List Byte
  | 0, _ => []
  | n + 1, x => BitVec.ofNat 8 x :: leBytes n (x / 256)

/-- One core-level instruction at the head of a stream of bytes, and its length in bytes (R32). -/
def decodeBytes : List Byte → Except DecodeError (Instr × Nat)
  | b0 :: b1 :: rest =>
    let h := leNat [b0, b1]
    if h < 0x8000 then (decode16 h).map (·, 2)
    else
      match rest with
      | b2 :: b3 :: _ => (decode32 (h * 0x10000 + leNat [b2, b3])).map (·, 4)
      | _ => .error .truncated
  | _ => .error .truncated

/-- One agent instruction at the head of a code image (R225). -/
def decodeAgentBytes : List Byte → AgentDecoded
  | b0 :: b1 :: b2 :: b3 :: b4 :: b5 :: b6 :: b7 :: _ => decodeAgent (leNat [b0, b1, b2, b3, b4, b5, b6, b7])
  | _ => .error .truncated


/-! ### The encoder -/

/-- The bits of an instruction: a halfword (R45), a 32-bit word (R34), an agent word (R225), or none (an event). -/
inductive Code where
  | half  (h : Nat)
  | word  (w : Nat)
  | agent (w : Nat)
  | event
deriving DecidableEq, Repr

noncomputable def Code.decode : Code → Decoded
  | .half h => decode16 h
  | .word w => decode32 w
  | .agent w => decode64 w
  | .event => .error .truncated

/-- Bits [31:25]: bit 31 is 1, the major opcode in [30:25] (R34). -/
def encMajor (op : Nat) : Nat := 2 ^ 31 + op * 2 ^ 25

def encSrc (a : Src) (r m : Nat) : Nat := a.reg * 2 ^ r + a.mode.code * 2 ^ m

def encR2 (op fn rd : Nat) (a b : Src) : Code :=
  .word (encMajor op + rd * 2 ^ 20 + encSrc a 15 13 + encSrc b 8 6 + fn)

def encR1 (op fn rd : Nat) (a : Src) : Code := .word (encMajor op + rd * 2 ^ 20 + encSrc a 15 13 + fn)

def encI (op rd : Nat) (a : Src) (imm : Nat) : Code := .word (encMajor op + rd * 2 ^ 20 + encSrc a 15 13 + imm)

def encU (op rd imm : Nat) : Code := .word (encMajor op + rd * 2 ^ 20 + imm)

def encS (op : Nat) (d a : Src) (imm : Nat) : Code := .word (encMajor op + encSrc d 20 11 + encSrc a 15 13 + imm)

def encB (op : Nat) (a b : Src) (off : Nat) : Code := .word (encMajor op + encSrc a 20 18 + encSrc b 13 11 + off)

def encQ (op q xa ma xb mb fn : Nat) : Code :=
  .word (encMajor op + q * 2 ^ 21 + xa * 2 ^ 16 + xb * 2 ^ 11 + ma * 2 ^ 9 + mb * 2 ^ 7 + fn)

def encV (op vd va vb pg fn : Nat) : Code :=
  .word (encMajor op + vd * 2 ^ 21 + va * 2 ^ 17 + vb * 2 ^ 13 + pg * 2 ^ 10 + fn)

def encVX (op vd va : Nat) (xs : Src) (pg fn : Nat) : Code :=
  .word (encMajor op + vd * 2 ^ 21 + va * 2 ^ 17 + encSrc xs 12 10 + pg * 2 ^ 7 + fn)

def encBit (b : Bool) (i : Nat) : Nat := if b then 2 ^ i else 0

def encA (op a b c d fl imm : Nat) : Code :=
  .agent (op * 2 ^ 56 + a * 2 ^ 51 + b * 2 ^ 46 + c * 2 ^ 41 + d * 2 ^ 36 + fl * 2 ^ 32 + imm)

/-- Types of VINT are the codes 8-15, encoded less 8 (R41). -/
def encInt (t : Ety) : Nat := (t.code - 8) * 2 ^ 7

def encode : Instr → Code
  | .add rd a b => encR2 0x01 0 rd a b
  | .sub rd a b => encR2 0x01 1 rd a b
  | .and rd a b => encR2 0x01 2 rd a b
  | .or rd a b => encR2 0x01 3 rd a b
  | .xor rd a b => encR2 0x01 4 rd a b
  | .sll rd a b => encR2 0x01 5 rd a b
  | .srl rd a b => encR2 0x01 6 rd a b
  | .sra rd a b => encR2 0x01 7 rd a b
  | .slt rd a b => encR2 0x01 8 rd a b
  | .sltu rd a b => encR2 0x01 9 rd a b
  | .min rd a b => encR2 0x01 10 rd a b
  | .max rd a b => encR2 0x01 11 rd a b
  | .minu rd a b => encR2 0x01 12 rd a b
  | .maxu rd a b => encR2 0x01 13 rd a b
  | .mul rd a b => encR2 0x01 14 rd a b
  | .mulh rd a b => encR2 0x01 15 rd a b
  | .mulhu rd a b => encR2 0x01 16 rd a b
  | .div rd a b => encR2 0x01 17 rd a b
  | .divu rd a b => encR2 0x01 18 rd a b
  | .rem rd a b => encR2 0x01 19 rd a b
  | .remu rd a b => encR2 0x01 20 rd a b
  | .clz rd a => encR1 0x01 21 rd a
  | .ctz rd a => encR1 0x01 22 rd a
  | .popc rd a => encR1 0x01 23 rd a
  | .addsh1 rd a b => encR2 0x01 24 rd a b
  | .addsh2 rd a b => encR2 0x01 25 rd a b
  | .addsh3 rd a b => encR2 0x01 26 rd a b
  | .andn rd a b => encR2 0x01 27 rd a b
  | .sextw rd a => encR1 0x01 28 rd a
  | .zextw rd a => encR1 0x01 29 rd a
  | .addi rd a imm => encI 0x02 rd a imm.toNat
  | .andi rd a imm => encI 0x03 rd a imm.toNat
  | .ori rd a imm => encI 0x04 rd a imm.toNat
  | .xori rd a imm => encI 0x05 rd a imm.toNat
  | .slti rd a imm => encI 0x06 rd a imm.toNat
  | .slli rd a amt => encI 0x07 rd a (0 * 2 ^ 11 + amt.toNat)
  | .srli rd a amt => encI 0x07 rd a (1 * 2 ^ 11 + amt.toNat)
  | .srai rd a amt => encI 0x07 rd a (2 * 2 ^ 11 + amt.toNat)
  | .lui rd imm => encU 0x08 rd imm.toNat
  | .addpc rd imm => encU 0x09 rd imm.toNat
  | .ldb rd a imm => encI 0x0A rd a imm.toNat
  | .ldbu rd a imm => encI 0x0B rd a imm.toNat
  | .ldh rd a imm => encI 0x0C rd a imm.toNat
  | .ldhu rd a imm => encI 0x0D rd a imm.toNat
  | .ldw rd a imm => encI 0x0E rd a imm.toNat
  | .ldwu rd a imm => encI 0x0F rd a imm.toNat
  | .ldd rd a imm => encI 0x10 rd a imm.toNat
  | .stb d a imm => encS 0x11 d a imm.toNat
  | .sth d a imm => encS 0x12 d a imm.toNat
  | .stw d a imm => encS 0x13 d a imm.toNat
  | .std d a imm => encS 0x14 d a imm.toNat
  | .ldf rd a imm => encI 0x15 rd a (0 * 2 ^ 11 + imm.toNat)
  | .ldt rd a imm => encI 0x15 rd a (1 * 2 ^ 11 + imm.toNat)
  | .ldp rd a imm => encI 0x15 rd a (2 * 2 ^ 11 + imm.toNat)
  | .ldft rd a imm => encI 0x15 rd a (3 * 2 ^ 11 + imm.toNat)
  | .stf d a imm => encS 0x16 d a imm.toNat
  | .fewF a imm => encI 0x17 0 a (2 ^ 12 + imm.toNat)
  | .fewE a imm => encI 0x17 0 a (0 + imm.toNat)
  | .amoadd rd a b o => encR2 0x18 (0 * 4 + o.code) rd a b
  | .amoswap rd a b o => encR2 0x18 (1 * 4 + o.code) rd a b
  | .amocas rd a b o => encR2 0x18 (2 * 4 + o.code) rd a b
  | .amomin rd a b o => encR2 0x18 (3 * 4 + o.code) rd a b
  | .amomax rd a b o => encR2 0x18 (4 * 4 + o.code) rd a b
  | .amominu rd a b o => encR2 0x18 (5 * 4 + o.code) rd a b
  | .amomaxu rd a b o => encR2 0x18 (6 * 4 + o.code) rd a b
  | .amoand rd a b o => encR2 0x18 (7 * 4 + o.code) rd a b
  | .amoor rd a b o => encR2 0x18 (8 * 4 + o.code) rd a b
  | .amoxor rd a b o => encR2 0x18 (9 * 4 + o.code) rd a b
  | .fenceFull sc => .word (encMajor 0x19 + sc.code * 2 ^ 10 + 0 * 2 ^ 8)
  | .fenceAcq sc => .word (encMajor 0x19 + sc.code * 2 ^ 10 + 1 * 2 ^ 8)
  | .fenceRel sc => .word (encMajor 0x19 + sc.code * 2 ^ 10 + 2 * 2 ^ 8)
  | .beq a b off => encB 0x1A a b off.toNat
  | .bne a b off => encB 0x1B a b off.toNat
  | .blt a b off => encB 0x1C a b off.toNat
  | .bge a b off => encB 0x1D a b off.toNat
  | .bltu a b off => encB 0x1E a b off.toNat
  | .bgeu a b off => encB 0x1F a b off.toNat
  | .jal rd imm => encU 0x20 rd imm.toNat
  | .jalr rd a imm => encI 0x21 rd a imm.toNat
  | .loop rd a imm => encI 0x22 rd a imm.toNat
  | .spawn rd a => encR1 0x23 0 rd a
  | .join rd a => encR1 0x23 1 rd a
  | .leave rd a => encR1 0x23 2 rd a
  | .bar rd a b => encR2 0x23 3 rd a b
  | .whoami rd a => encR1 0x23 7 rd a
  | .grpcnt rd a => encR1 0x23 8 rd a
  | .waittl q a => encQ 0x24 q a.reg a.mode.code 0 0 0
  | .qbind q a => encQ 0x25 q a.reg a.mode.code 0 0 0
  | .qfree q => encQ 0x25 q 0 0 0 0 1
  | .qstat q rd => encQ 0x25 q rd 0 0 0 2
  | .qrd q rd => encQ 0x25 q rd 0 0 0 3
  | .qwr q a => encQ 0x25 q a.reg a.mode.code 0 0 4
  | .cpy tok b ch => encQ 0x26 0 tok 0 b.reg b.mode.code (ch * 2 ^ 6 + 0)
  | .cpyRect tok b ch => encQ 0x26 0 tok 0 b.reg b.mode.code (ch * 2 ^ 6 + 1)
  | .cpyWin tok b ch => encQ 0x26 0 tok 0 b.reg b.mode.code (ch * 2 ^ 6 + 2)
  | .cpyCow tok b ch => encQ 0x26 0 tok 0 b.reg b.mode.code (ch * 2 ^ 6 + 3)
  | .gath tok b ch => encQ 0x27 0 tok 0 b.reg b.mode.code (ch * 2 ^ 6 + 0)
  | .gathRows tok b ch => encQ 0x27 0 tok 0 b.reg b.mode.code (ch * 2 ^ 6 + 1)
  | .collAllred tok b ch => encQ 0x28 0 tok 0 b.reg b.mode.code (ch * 2 ^ 5 + 0)
  | .collAllgath tok b ch => encQ 0x28 0 tok 0 b.reg b.mode.code (ch * 2 ^ 5 + 1)
  | .collRedscat tok b ch => encQ 0x28 0 tok 0 b.reg b.mode.code (ch * 2 ^ 5 + 2)
  | .collAlltoall tok b ch => encQ 0x28 0 tok 0 b.reg b.mode.code (ch * 2 ^ 5 + 3)
  | .atsub tok b => encQ 0x29 0 tok 0 b.reg b.mode.code 0
  | .mlease tok => encQ 0x2A 0 tok 0 0 0 0
  | .mrel l => encQ 0x2A l 0 0 0 0 1
  | .mzero l => encQ 0x2A l 0 0 0 0 2
  | .mmul l a b => encQ 0x2A (l) a.reg a.mode.code b.reg b.mode.code 3
  | .mmulS l a b => encQ 0x2A (l + 4) a.reg a.mode.code b.reg b.mode.code 3
  | .mdrain l tok b => encQ 0x2A l tok 0 b.reg b.mode.code 4
  | .mwait l => encQ 0x2A l 0 0 0 0 5
  | .ralloc pin auto tok b => encQ 0x2B (encBit auto 0 + encBit pin 1) tok 0 b.reg b.mode.code 0
  | .rfill tok b => encQ 0x2B 0 tok 0 b.reg b.mode.code 1
  | .rpin tok b => encQ 0x2B 0 tok 0 b.reg b.mode.code 2
  | .runpin tok b => encQ 0x2B 0 tok 0 b.reg b.mode.code 3
  | .rrevoke tok b => encQ 0x2B 0 tok 0 b.reg b.mode.code 4
  | .rquery tok b => encQ 0x2B 0 tok 0 b.reg b.mode.code 5
  | .tidset a b => encQ 0x2C 0 a.reg a.mode.code b.reg b.mode.code 0
  | .tidget a b => encQ 0x2C 0 a.reg a.mode.code b.reg b.mode.code 1
  | .tidpatch dim a b => encQ 0x2C dim a.reg a.mode.code b.reg b.mode.code 2
  | .vadd vd va vb pg t z => encV 0x2D vd va vb pg (encInt t + encBit z 6 + 0)
  | .vsub vd va vb pg t z => encV 0x2D vd va vb pg (encInt t + encBit z 6 + 1)
  | .vmul vd va vb pg t z => encV 0x2D vd va vb pg (encInt t + encBit z 6 + 2)
  | .vmulh vd va vb pg t z => encV 0x2D vd va vb pg (encInt t + encBit z 6 + 3)
  | .vmin vd va vb pg t z => encV 0x2D vd va vb pg (encInt t + encBit z 6 + 4)
  | .vmax vd va vb pg t z => encV 0x2D vd va vb pg (encInt t + encBit z 6 + 5)
  | .vand vd va vb pg t z => encV 0x2D vd va vb pg (encInt t + encBit z 6 + 6)
  | .vor vd va vb pg t z => encV 0x2D vd va vb pg (encInt t + encBit z 6 + 7)
  | .vxor vd va vb pg t z => encV 0x2D vd va vb pg (encInt t + encBit z 6 + 8)
  | .vshl vd va vb pg t z => encV 0x2D vd va vb pg (encInt t + encBit z 6 + 9)
  | .vshr vd va vb pg t z => encV 0x2D vd va vb pg (encInt t + encBit z 6 + 10)
  | .vsra vd va vb pg t z => encV 0x2D vd va vb pg (encInt t + encBit z 6 + 11)
  | .vabs vd va pg t z => encV 0x2D vd va 0 pg (encInt t + encBit z 6 + 12)
  | .vneg vd va pg t z => encV 0x2D vd va 0 pg (encInt t + encBit z 6 + 13)
  | .vmac vd va vb pg t z => encV 0x2D vd va vb pg (encInt t + encBit z 6 + 14)
  | .vfadd vd va vb pg t z => encV 0x2E vd va vb pg (t.code * 2 ^ 7 + encBit z 6 + 0)
  | .vfsub vd va vb pg t z => encV 0x2E vd va vb pg (t.code * 2 ^ 7 + encBit z 6 + 1)
  | .vfmul vd va vb pg t z => encV 0x2E vd va vb pg (t.code * 2 ^ 7 + encBit z 6 + 2)
  | .vfma vd va vb pg t z => encV 0x2E vd va vb pg (t.code * 2 ^ 7 + encBit z 6 + 3)
  | .vfmin vd va vb pg t z => encV 0x2E vd va vb pg (t.code * 2 ^ 7 + encBit z 6 + 4)
  | .vfmax vd va vb pg t z => encV 0x2E vd va vb pg (t.code * 2 ^ 7 + encBit z 6 + 5)
  | .vfabs vd va pg t z => encV 0x2E vd va 0 pg (t.code * 2 ^ 7 + encBit z 6 + 6)
  | .vfneg vd va pg t z => encV 0x2E vd va 0 pg (t.code * 2 ^ 7 + encBit z 6 + 7)
  | .vcvt vd va pg dst src r o z => encV 0x2F vd va dst.code pg (src.code * 2 ^ 6 + r.code * 2 ^ 4 + o.code * 2 ^ 2 + encBit z 1)
  | .vld vd xs pg sz z => encVX 0x30 vd 0 xs pg (encBit z 6 + sz.code * 2 ^ 4 + 0)
  | .vst vd xs pg sz => encVX 0x30 vd 0 xs pg (sz.code * 2 ^ 4 + 1)
  | .vgath vd va xs pg sz z => encVX 0x30 vd va xs pg (encBit z 6 + sz.code * 2 ^ 4 + 2)
  | .vscat vd va xs pg sz => encVX 0x30 vd va xs pg (sz.code * 2 ^ 4 + 3)
  | .vsplat vd xs pg sz z => encVX 0x30 vd 0 xs pg (encBit z 6 + sz.code * 2 ^ 4 + 4)
  | .vbound pd a b t => encQ 0x31 pd a.reg a.mode.code b.reg b.mode.code (t.code * 2 ^ 3)
  | .vcmp pd va vb pg t cc => encV 0x31 pd va vb pg (t.code * 2 ^ 6 + cc.code * 2 ^ 3 + 1)
  | .pand pd pa pb => encV 0x31 pd pa pb 0 2
  | .por pd pa pb => encV 0x31 pd pa pb 0 3
  | .pnot pd pa => encV 0x31 pd pa 0 0 4
  | .pxor pd pa pb => encV 0x31 pd pa pb 0 5
  | .pcount ps rd t => encQ 0x31 ps rd 0 0 0 (t.code * 2 ^ 3 + 6)
  | .pfirst ps rd t => encQ 0x31 ps rd 0 0 0 (t.code * 2 ^ 3 + 7)
  | .vslideup vd va xs pg sz z => encVX 0x32 vd va xs pg (sz.code * 2 ^ 5 + encBit z 4 + 0)
  | .vslidedn vd va xs pg sz z => encVX 0x32 vd va xs pg (sz.code * 2 ^ 5 + encBit z 4 + 1)
  | .vperm vd va vb pg t z => encV 0x32 vd va vb pg (t.code * 2 ^ 6 + encBit z 5 + 2)
  | .vcompress vd va pg t z => encV 0x32 vd va 0 pg (t.code * 2 ^ 6 + encBit z 5 + 3)
  | .vsel vd va vb pg t => encV 0x32 vd va vb pg (t.code * 2 ^ 6 + 4)
  | .vredadd vd va vb pg t => encV 0x32 vd va vb pg (t.code * 2 ^ 6 + 5)
  | .vredmax vd va vb pg t => encV 0x32 vd va vb pg (t.code * 2 ^ 6 + 6)
  | .vredmin vd va vb pg t => encV 0x32 vd va vb pg (t.code * 2 ^ 6 + 7)
  | .vfredadd vd va vb pg t => encV 0x32 vd va vb pg (t.code * 2 ^ 6 + 8)
  | .vext va rd b sz => encQ 0x32 va rd 0 b.reg b.mode.code (sz.code * 2 ^ 5 + 9)
  | .vins vd a b sz => encQ 0x32 vd a.reg a.mode.code b.reg b.mode.code (sz.code * 2 ^ 5 + 10)
  | .vrcp vd va pg t z => encV 0x33 vd va 0 pg (t.code * 2 ^ 6 + encBit z 5 + 0)
  | .vrsq vd va pg t z => encV 0x33 vd va 0 pg (t.code * 2 ^ 6 + encBit z 5 + 1)
  | .vexp2 vd va pg t z => encV 0x33 vd va 0 pg (t.code * 2 ^ 6 + encBit z 5 + 2)
  | .vlog2 vd va pg t z => encV 0x33 vd va 0 pg (t.code * 2 ^ 6 + encBit z 5 + 3)
  | .vtanh vd va pg t z => encV 0x33 vd va 0 pg (t.code * 2 ^ 6 + encBit z 5 + 4)
  | .vwidth rd => encQ 0x34 0 rd 0 0 0 0
  | .vtopk vd va pg t => encV 0x34 vd va 0 pg (t.code * 2 ^ 6 + 1)
  | .vmaxx vd va vb t => encV 0x34 vd va vb 0 (t.code * 2 ^ 6 + 2)
  | .vquant vd va vb pg t => encV 0x34 vd va vb pg (t.code * 2 ^ 6 + 3)
  | .vhist vd va pg t => encV 0x34 vd va 0 pg (t.code * 2 ^ 6 + 4)
  | .crd rd a => encR1 0x35 0 rd a
  | .cwr a b => encR2 0x35 1 0 a b
  | .trap rd a b => encR2 0x35 2 rd a b
  | .eret a => encR1 0x35 3 0 a
  | .slotld rd a => encR1 0x35 4 rd a
  | .slotst a b => encR2 0x35 5 0 a b
  | .park a => encR1 0x35 6 0 a
  | .unpark a => encR1 0x35 7 0 a
  | .kill a => encR1 0x35 8 0 a
  | .skipw n => encU 0x36 0 n.toNat
  | .cMov a b => .half (a * 2 ^ 7 + b * 2 ^ 3 + 0)
  | .cAdd a b => .half (a * 2 ^ 7 + b * 2 ^ 3 + 1)
  | .cSub a b => .half (a * 2 ^ 7 + b * 2 ^ 3 + 2)
  | .cAnd a b => .half (a * 2 ^ 7 + b * 2 ^ 3 + 3)
  | .cOr a b => .half (a * 2 ^ 7 + b * 2 ^ 3 + 4)
  | .cXor a b => .half (a * 2 ^ 7 + b * 2 ^ 3 + 5)
  | .cSll a b => .half (a * 2 ^ 7 + b * 2 ^ 3 + 6)
  | .cSrl a b => .half (a * 2 ^ 7 + b * 2 ^ 3 + 7)
  | .cAddi a imm => .half (1 * 2 ^ 11 + a * 2 ^ 7 + imm.toNat)
  | .cLi a imm => .half (2 * 2 ^ 11 + a * 2 ^ 7 + imm.toNat)
  | .cLd a b c => .half (3 * 2 ^ 11 + a * 2 ^ 7 + b * 2 ^ 3 + c.toNat)
  | .cSt a b c => .half (4 * 2 ^ 11 + a * 2 ^ 7 + b * 2 ^ 3 + c.toNat)
  | .cBeqz a imm => .half (5 * 2 ^ 11 + a * 2 ^ 7 + imm.toNat)
  | .cBnez a imm => .half (6 * 2 ^ 11 + a * 2 ^ 7 + imm.toNat)
  | .cJ off => .half (7 * 2 ^ 11 + off.toNat)
  | .cJr a => .half (8 * 2 ^ 11 + a * 2 ^ 7)
  | .cLdt a b c => .half (9 * 2 ^ 11 + a * 2 ^ 7 + b * 2 ^ 3 + c.toNat)
  | .cStf a b c => .half (10 * 2 ^ 11 + a * 2 ^ 7 + b * 2 ^ 3 + c.toNat)
  | .cSkip n => .half (11 * 2 ^ 11 + n.toNat)
  | .cQrd a b => .half (13 * 2 ^ 11 + a * 2 ^ 7 + b * 2 ^ 3)
  | .cQwr a b => .half (14 * 2 ^ 11 + a * 2 ^ 7 + b * 2 ^ 3)
  | .amovi a imm => encA 0x01 a 0 0 0 0 imm.toNat
  | .amoviHi a imm => encA 0x01 a 0 0 0 1 imm.toNat
  | .aadd a b c => encA 0x02 a b c 0 0 0
  | .asub a b c => encA 0x03 a b c 0 0 0
  | .amul a b c => encA 0x05 a b c 0 0 0
  | .aaddi a b imm => encA 0x04 a b 0 0 0 imm.toNat
  | .abeq a b off => encA 0x06 a b 0 0 0 off.toNat
  | .abne a b off => encA 0x07 a b 0 0 0 off.toNat
  | .ablt a b off => encA 0x08 a b 0 0 0 off.toNat
  | .abge a b off => encA 0x09 a b 0 0 0 off.toNat
  | .ajmp off => encA 0x0A 0 0 0 0 0 off.toNat
  | .acall off => encA 0x0B 0 0 0 0 0 off.toNat
  | .ald sz sx a b off => encA 0x0D a b 0 0 (sz.code + encBit sx 2) off.toNat
  | .ast sz a b off => encA 0x0E a b 0 0 sz.code off.toNat
  | .sload sa b off => encA 0x0F sa b 0 0 0 off.toNat
  | .sstore sa b off => encA 0x10 sa b 0 0 0 off.toNat
  | .sjoin sa sb => encA 0x11 sa sb 0 0 0 0
  | .slen a sb => encA 0x12 a sb 0 0 0 0
  | .stok a sb c => encA 0x13 a sb c 0 0 0
  | .stokW a sb c => encA 0x13 a sb c 0 1 0
  | .ssel sa sb c => encA 0x14 sa sb c 0 0 0
  | .sclear sa => encA 0x15 sa 0 0 0 0 0
  | .fmovi fa imm => encA 0x16 fa 0 0 0 0 imm.toNat
  | .fblt fa fb off => encA 0x17 fa fb 0 0 0 off.toNat
  | .fbits a fb => encA 0x18 a fb 0 0 0 0
  | .fbitsF a fb => encA 0x18 a fb 0 0 1 0
  | .choose a fb n => encA 0x19 a fb 0 0 0 n.toNat
  | .ctxlen a kb => encA 0x1A a kb 0 0 0 0
  | .ctxstat a kb => encA 0x1B a kb 0 0 0 0
  | .post a tag => encA 0x1C a 0 0 0 0 tag.toNat
  | .ahalt a => encA 0x1D a 0 0 0 0 0
  | .ctxnew ka model => encA 0x20 ka 0 0 0 0 model.toNat
  | .ctxfree ka => encA 0x21 ka 0 0 0 0 0
  | .fork ka kb => encA 0x22 ka kb 0 0 0 0
  | .trim ka b => encA 0x23 ka b 0 0 0 0
  | .append ka sb c => encA 0x24 ka sb c 0 0 0
  | .probe a kb sc => encA 0x25 a kb sc 0 0 0
  | .pin ka sb c => encA 0x26 ka sb c 0 0 0
  | .unpin ka b => encA 0x27 ka b 0 0 0 0
  | .score fa kb sc d => encA 0x28 fa kb sc d 0 0
  | .gen ka sb c => encA 0x29 ka sb c 0 0 0
  | .sampset ka b => encA 0x2A ka b 0 0 0 0
  | .maskbind ka b => encA 0x2B ka b 0 0 0 0
  | .rngjump ka b => encA 0x2C ka b 0 0 0 0
  | .await a tag => encA 0x2D a 0 0 0 0 tag.toNat
  | .exit => .word (encMajor 0x23 + 4)
  | .yield => .word (encMajor 0x23 + 5)
  | .trigger => .word (encMajor 0x23 + 6)
  | .brk => .word (encMajor 0x35 + 9)
  | .wfe => .word (encMajor 0x35 + 10)
  | .cNop => .half (12 * 2 ^ 11 + 0)
  | .cYield => .half (12 * 2 ^ 11 + 1)
  | .cExit => .half (12 * 2 ^ 11 + 2)
  | .cBar0 => .half (12 * 2 ^ 11 + 3)
  | .anop => encA 0x00 0 0 0 0 0 0
  | .aret => encA 0x0C 0 0 0 0 0 0
  | .divideComplete _ => .event
  | .loadReturn _ _ => .event
  | .ldftTimeout _ => .event
  | .loopClaimResponse _ => .event
  | .copyComplete _ => .event
  | .remoteWriteAck _ => .event
  | .gatherComplete _ => .event
  | .collChunkReceive _ => .event
  | .collComplete _ => .event
  | .leaseGrant _ _ => .event
  | .arrayRunStart _ => .event
  | .arrayRunLimit _ => .event
  | .arrayPassStart _ => .event
  | .arrayCommandComplete _ => .event
  | .autofillRefillComplete _ _ => .event
  | .residencyFillComplete _ _ => .event
  | .canopyBackgroundRefill _ _ => .event
  | .normaliserServiceEnd _ => .event
  | .sfuAccept _ => .event
  | .sfuDeliver _ => .event
  | .sortUnitComplete _ => .event
  | .wfeTimeout _ => .event
  | .trapRecordWrite _ => .event
  | .threadStart _ _ => .event
  | .populationComplete _ => .event
  | .loadBalanceExchange => .event
  | .waitProbeTick => .event
  | .waitProbeArrival _ => .event
  | .translationAnswer _ => .event
  | .lanyardFlitArrival _ => .event
  | .hostMemoryAccess _ _ _ _ => .event
  | .lookaheadDecode _ => .event
  | .planHoldExpiry _ => .event
  | .iterationSnapshot _ => .event
  | .gracePeriodEnd _ => .event
  | .batchMulticast _ => .event
  | .shardReport _ => .event
  | .modelGroupTimeout _ => .event
  | .iterationCommit _ => .event
  | .launchPacket _ => .event
  | .agentstart _ => .event
  | .copyPacket _ => .event
  | .signalTimeline _ => .event
  | .signalEvent _ => .event
  | .waittlPacket _ => .event
  | .switchatPacket _ => .event
  | .faultPacket _ => .event
  | .sqptrWrite _ _ => .event
  | .sqActivate _ _ => .event
  | .sqDisable _ => .event
  | .completionRecordWrite _ => .event
  | .xlatResume _ => .event
  | .xlatSkip _ => .event
  | .xlatKill _ => .event
  | .tpStage _ _ => .event
  | .tpCommit _ => .event
  | .attest _ => .event
  | .pset _ _ => .event
  | .pdestroy _ _ => .event
  | .extend _ _ _ => .event
  | .unfreeze _ _ => .event
  | .powerOn => .event
  | .healthUpdate => .event
  | .eventCounterClear _ _ => .event
  | .engfrzUnfreeze _ _ _ => .event
  | .partitionConfigWrite _ _ _ => .event
  | .rtdataWrite _ _ => .event
  | .tencfgWrite _ _ => .event
  | .modtabWrite _ _ _ => .event
  | .agentAreaWrite _ _ _ => .event
  | .switchatWrite _ _ => .event
  | .swctlArm _ _ => .event
  | .swctlDisarm _ _ => .event
  | .preloadComplete _ => .event
  | .switchTimeReached _ => .event
  | .slotHandover _ => .event
  | .switchComplete _ => .event
  | .gswPrepare _ _ => .event
  | .gswCommit _ => .event
  | .gswAbort _ => .event
  | .ptrootWrite _ _ _ => .event
  | .xinvWrite _ _ => .event
  | .invalidationComplete _ => .event
  | .elogEntryClear _ _ => .event
  | .einjWrite _ _ => .event
  | .registerWrite _ _ _ => .event

/-- The instruction that the decoder reads from a row's bits, numbered as spec/opcode_table.json numbers them. A 32-bit
core word and an agent word are one number each; R32 fetches the upper halfword of a 32-bit word first. The table gives agent rows no bits; of an
agent word this reads the short instructions, and `decode64` reads all. -/
def decodeTableWord (nbits w : Nat) : Option Instr :=
  if nbits ≤ 32 then
    match (if nbits ≤ 16 then decode16 (w % 2 ^ 16) else decode32 (w % 2 ^ 32)) with
    | .ok i => some i
    | .error _ => none
  else
    match decodeAgent w with
    | .ok (.short i) => some i
    | _ => none

end Sys2Proof
end

