-- ==== Sys2Proof/Machine/Bits.lean ====
section
/-! DEFINITION. Sys2Proof/Machine/Bits.lean: bit fields of a register word, sign extension, and sign and unsigned readings,
as the pseudocode of the spec writes them. -/

namespace Sys2Proof.Machine

/-- The field [hi:lo] of a word as a number. -/
def bits (w : Word) (hi lo : Nat) : Nat := w.toNat / 2 ^ lo % 2 ^ (hi - lo + 1)

def bit (w : Word) (i : Nat) : Bool := w.toNat / 2 ^ i % 2 = 1

/-- A word from a number (modulo 2^64). -/
def word (n : Nat) : Word := BitVec.ofNat 64 n

/-- The two's-complement value of a word, s(v) of chapter 04. -/
def sv (w : Word) : Int := w.toInt

/-- The unsigned value of a word, u(v) of chapter 04. -/
def uv (w : Word) : Nat := w.toNat

/-- sext of an immediate to 64 bits (R36). -/
def sext {n : Nat} (v : BitVec n) : Word := v.signExtend 64

/-- A word from an integer (modulo 2^64). -/
def ofInt (i : Int) : Word := BitVec.ofInt 64 i

def b2n (b : Bool) : Nat := if b then 1 else 0

/-- Bit `i` of a mask given as a number. -/
def maskBit (m i : Nat) : Bool := m / 2 ^ i % 2 = 1

/-- ceil(a ÷ b). -/
def ceilDiv (a b : Nat) : Nat := (a + b - 1) / b

/-- The numbers of the set bits of a mask below `n`, in rising order. -/
def maskList (m n : Nat) : List Nat := (List.range n).filter (maskBit m)

end Sys2Proof.Machine
end

