-- ==== Sys2Proof/Machine/Float.lean ====
section
/-! DEFINITION. Sys2Proof/Machine/Float.lean: number formats and exact arithmetic (R87-R95, R98, R99): layouts, the exact
value of an encoding, the one rounding of each result, conversions, special functions and the BPN planes. Every operation
computes with integers and rounds once at the end. -/

namespace Sys2Proof

/-! ### Element types as integers (R42, R89, R103) -/

/-- Width of an element in bits (R42, R103). BSI8 and BPN elements are bytes. -/
def Ety.width : Ety → Nat
  | .f32 | .i32 | .n32 => 32
  | .bf16 | .f16 | .i16 | .n16 => 16
  | .e4m3 | .e5m2 | .bsi8 | .bpn | .i8 | .n8 => 8
  | .i64 | .n64 => 64

/-- The two's-complement value of the low `w` bits. -/
def sgn (w v : Nat) : Int := if 2 ^ (w - 1) ≤ v % 2 ^ w then (v % 2 ^ w : Nat) - (2 ^ w : Nat) else (v % 2 ^ w : Nat)

/-- The low `w` bits of an integer. -/
def lowBits (w : Nat) (i : Int) : Nat := (i % (2 ^ w : Nat)).toNat

/-- The value of an integer element: signed for I types, unsigned for N types. -/
def Ety.intVal (t : Ety) (v : Nat) : Int := if t.isSigned then sgn t.width v else (v % 2 ^ t.width : Nat)

/-- Least and greatest value of an integer type. -/
def Ety.lo (t : Ety) : Int := if t.isSigned then -(2 ^ (t.width - 1) : Nat) else 0
def Ety.hi (t : Ety) : Int := if t.isSigned then (2 ^ (t.width - 1) : Nat) - 1 else (2 ^ t.width : Nat) - 1

end Sys2Proof

namespace Sys2Proof.Machine

/-! ### Layouts (R87, R88) -/

/-- A floating-point format: width, exponent bits, fraction bits, bias; `hasInf` is false for E4M3. -/
structure Fmt where
  w      : Nat
  ebits  : Nat
  fbits  : Nat
  bias   : Nat
  hasInf : Bool
deriving DecidableEq, Repr

def fmtF32 : Fmt := ⟨32, 8, 23, 127, true⟩
def fmtBF16 : Fmt := ⟨16, 8, 7, 127, true⟩
def fmtF16 : Fmt := ⟨16, 5, 10, 15, true⟩
def fmtE4M3 : Fmt := ⟨8, 4, 3, 7, false⟩
def fmtE5M2 : Fmt := ⟨8, 5, 2, 15, true⟩

/-- The floating-point layout of a type code, if it has one (R42, R87). -/
def fmtOf : Ety → Option Fmt
  | .f32 => some fmtF32
  | .bf16 => some fmtBF16
  | .f16 => some fmtF16
  | .e4m3 => some fmtE4M3
  | .e5m2 => some fmtE5M2
  | .bsi8 | .bpn | .i8 | .i16 | .i32 | .i64 | .n8 | .n16 | .n32 | .n64 => none

/-- Magnitude bits of infinity; in E4M3 the magnitude bits of its NaN. -/
def Fmt.infMag (f : Fmt) : Nat := if f.hasInf then (2 ^ f.ebits - 1) * 2 ^ f.fbits else 2 ^ (f.w - 1) - 1

/-- The largest finite magnitude. -/
def Fmt.maxMag (f : Fmt) : Nat := f.infMag - 1

def Fmt.signBit (f : Fmt) : Nat := 2 ^ (f.w - 1)

/-- The canonical NaN (R88). -/
def Fmt.cnan (f : Fmt) : Nat := if f.hasInf then f.infMag + 2 ^ (f.fbits - 1) else f.infMag

/-- A signed magnitude. -/
def Fmt.pack (f : Fmt) (neg : Bool) (mag : Nat) : Nat := if neg then f.signBit + mag else mag

/-- ±infinity; the canonical NaN where the format has none. -/
def Fmt.inf (f : Fmt) (neg : Bool) : Nat := if f.hasInf then f.pack neg f.infMag else f.cnan

/-- The exponent of the smallest quantum, 1 − bias − fraction bits. -/
def Fmt.qmin (f : Fmt) : Int := 1 - f.bias - f.fbits

/-- The exact value of an encoding: `fin neg m e` is (−1)^neg × m × 2^e. -/
inductive FVal where
  | nan
  | inf (neg : Bool)
  | fin (neg : Bool) (m : Nat) (e : Int)
deriving DecidableEq, Repr

/-- The value of an encoding (R87, R88). -/
def Fmt.value (f : Fmt) (b : Nat) : FVal :=
  let neg := b / f.signBit % 2 = 1
  let mag := b % f.signBit
  if f.infMag < mag then .nan
  else if mag = f.infMag then (if f.hasInf then .inf neg else .nan)
  else
    let e := mag / 2 ^ f.fbits
    let fr := mag % 2 ^ f.fbits
    if e = 0 then .fin neg fr f.qmin else .fin neg (2 ^ f.fbits + fr) (f.qmin + e - 1)

def FVal.isNan : FVal → Bool
  | .nan => true
  | .inf _ | .fin _ _ _ => false

/-- A non-zero value with an exponent field of zero (R87). -/
def Fmt.isSub (f : Fmt) (b : Nat) : Bool :=
  let mag := b % f.signBit
  decide (0 < mag) && decide (mag < 2 ^ f.fbits)

/-! ### Rounding (R90, R92, R98) -/

/-- floor(log2(num / den)) of a positive fraction. -/
def logFloor (num den : Nat) : Int :=
  let k : Int := num.log2 - den.log2
  if num * 2 ^ (-k).toNat < den * 2 ^ k.toNat then k - 1 else k

/-- num/den × 2^s rounded to an integer; `neg` is the sign of the value, which RDN and RUP look at (R92). -/
def roundInt (mode : Rnd) (neg : Bool) (num den : Nat) (s : Int) : Nat :=
  let n := num * 2 ^ s.toNat
  let d := den * 2 ^ (-s).toNat
  let q := n / d
  let r := n % d
  let up := match mode with
    | .rne => decide (d < 2 * r) || (decide (2 * r = d) && decide (q % 2 = 1))
    | .rtz => false
    | .rdn => neg && decide (0 < r)
    | .rup => !neg && decide (0 < r)
  if up then q + 1 else q

/-- The magnitude bits of the positive value num/den × 2^e rounded to `prec` significant bits, with the coarser of that
quantum and the subnormal quantum (R98). They exceed `maxMag` when the value overflows. -/
def Fmt.roundMag (f : Fmt) (prec : Nat) (mode : Rnd) (neg : Bool) (num den : Nat) (e : Int) : Nat :=
  let top := logFloor num den + e
  let q := max (top - (prec - 1)) f.qmin
  let m := roundInt mode neg num den (e - q)
  let sh := min (f.fbits + 1 - prec) (q - f.qmin).toNat
  (q - f.qmin - sh).toNat * 2 ^ f.fbits + m * 2 ^ sh

/-- The value is below the smallest normal of the format (R91). -/
def Fmt.tiny (f : Fmt) (num den : Nat) (e : Int) : Bool := logFloor num den + e < 1 - f.bias

/-- A result with what it counts (R91, R100): a NaN from operands without one, an overflow, a call on the normaliser. -/
structure FRes where
  bits : Nat
  nanp : Bool
  ovfl : Bool
  norm : Bool
deriving DecidableEq, Repr

def exactRes (b : Nat) : FRes := ⟨b, false, false, false⟩

/-- One rounding to nearest even of a non-zero value, ±infinity on overflow (R90, R98). -/
def Fmt.roundRes (f : Fmt) (prec : Nat) (neg : Bool) (num den : Nat) (e : Int) : FRes :=
  let m := f.roundMag prec .rne neg num den e
  if f.maxMag < m then ⟨f.inf neg, false, true, false⟩
  else ⟨f.pack neg m, false, false, f.tiny num den e⟩

/-! ### Arithmetic (R90) -/

def negV : FVal → FVal
  | .nan => .nan
  | .inf n => .inf (!n)
  | .fin n m e => .fin (!n) m e

/-- m × 2^e as a signed multiple of 2^q, for q ≤ e. -/
def scaled (neg : Bool) (m : Nat) (e q : Int) : Int :=
  let v : Int := m * 2 ^ (e - q).toNat
  if neg then -v else v

/-- Sum of two values, rounded once. `anyNan` says that an operand of the instruction is a NaN. -/
def Fmt.sum (f : Fmt) (anyNan : Bool) (a b : FVal) : FRes :=
  match a, b with
  | .nan, _ | _, .nan => ⟨f.cnan, !anyNan, false, false⟩
  | .inf n, .inf k => if n = k then exactRes (f.inf n) else ⟨f.cnan, true, false, false⟩
  | .inf n, .fin _ _ _ => exactRes (f.inf n)
  | .fin _ _ _, .inf n => exactRes (f.inf n)
  | .fin n m e, .fin k p d =>
    let q := min e d
    let t := scaled n m e q + scaled k p d q
    if t = 0 then exactRes (f.pack (n && k && decide (m = 0)) 0)
    else f.roundRes (f.fbits + 1) (t < 0) t.natAbs 1 q

/-- The exact product; a NaN for zero times infinity. -/
def mulV (a b : FVal) : FVal :=
  match a, b with
  | .nan, _ | _, .nan => .nan
  | .inf n, .inf k => .inf (n != k)
  | .inf n, .fin k m _ => if m = 0 then .nan else .inf (n != k)
  | .fin n m _, .inf k => if m = 0 then .nan else .inf (n != k)
  | .fin n m e, .fin k p d => .fin (n != k) (m * p) (e + d)

def Fmt.ofVal (f : Fmt) (anyNan : Bool) : FVal → FRes
  | .nan => ⟨f.cnan, !anyNan, false, false⟩
  | .inf n => exactRes (f.inf n)
  | .fin n m e => if m = 0 then exactRes (f.pack n 0) else f.roundRes (f.fbits + 1) n m 1 e

/-- The normaliser serves the lane for a subnormal operand as well (R91). -/
def FRes.orNorm (r : FRes) (c : Bool) : FRes := { r with norm := r.norm || c }

def Fmt.add (f : Fmt) (a b : Nat) : FRes :=
  let x := f.value a
  let y := f.value b
  (f.sum (x.isNan || y.isNan) x y).orNorm (f.isSub a || f.isSub b)

def Fmt.sub (f : Fmt) (a b : Nat) : FRes :=
  let x := f.value a
  let y := f.value b
  (f.sum (x.isNan || y.isNan) x (negV y)).orNorm (f.isSub a || f.isSub b)

def Fmt.mul (f : Fmt) (a b : Nat) : FRes :=
  let x := f.value a
  let y := f.value b
  (f.ofVal (x.isNan || y.isNan) (mulV x y)).orNorm (f.isSub a || f.isSub b)

/-- a × b + c with one rounding. -/
def Fmt.fma (f : Fmt) (a b c : Nat) : FRes :=
  let x := f.value a
  let y := f.value b
  let z := f.value c
  (f.sum (x.isNan || y.isNan || z.isNan) (mulV x y) z).orNorm (f.isSub a || f.isSub b || f.isSub c)

/-- An order of all non-NaN encodings, −0 below +0 (R90). -/
def Fmt.key (f : Fmt) (b : Nat) : Int :=
  let mag : Int := (b % f.signBit : Nat)
  if b / f.signBit % 2 = 1 then -mag - 1 else mag

def Fmt.minmax (f : Fmt) (greater : Bool) (a b : Nat) : FRes :=
  exactRes (
    if (f.value a).isNan then (if (f.value b).isNan then f.cnan else b)
    else if (f.value b).isNan then a
    else if greater then (if f.key a < f.key b then b else a)
    else (if f.key b < f.key a then b else a))

/-- VFABS and VFNEG act on the sign bit alone, on NaNs too (R90). -/
def Fmt.abs (f : Fmt) (a : Nat) : FRes := exactRes (a % f.signBit)
def Fmt.neg (f : Fmt) (a : Nat) : FRes :=
  exactRes (if a / f.signBit % 2 = 1 then a % f.signBit else a % f.signBit + f.signBit)

/-- Comparison of R116: −0 equals +0, and a NaN operand makes only NE and UNORD true. -/
def Fmt.cmp (f : Fmt) (cc : Cmp) (a b : Nat) : Bool :=
  let ord := fun x : Nat => if x % f.signBit = 0 then (0 : Int) else f.key x
  let un := (f.value a).isNan || (f.value b).isNan
  match cc with
  | .eq => !un && decide (ord a = ord b)
  | .ne => un || decide (ord a ≠ ord b)
  | .lt => !un && decide (ord a < ord b)
  | .le => !un && decide (ord a ≤ ord b)
  | .gt => !un && decide (ord b < ord a)
  | .ge => !un && decide (ord b ≤ ord a)
  | .unord => un

/-! ### Integers (R89, R116) -/

def intCmp (cc : Cmp) (a b : Int) : Bool :=
  match cc with
  | .eq => a = b
  | .ne => a ≠ b
  | .lt => a < b
  | .le => a ≤ b
  | .gt => b < a
  | .ge => b ≤ a
  | .unord => false

/-! ### Conversion (R92, R93) -/

/-- A converted element: its result, or that the overflow policy traps; CSAT says that a policy acted (R100). -/
structure CvtRes where
  res  : FRes
  csat : Bool
  trap : Bool
deriving DecidableEq, Repr

/-- The overflow policy of a float destination (R92). NAN and INF into E4M3 produce a NaN from an operand that is none. -/
def Fmt.overflow (f : Fmt) (o : Ovf) (neg : Bool) : CvtRes :=
  match o with
  | .sat => ⟨exactRes (f.pack neg f.maxMag), true, false⟩
  | .inf => ⟨⟨f.inf neg, !f.hasInf, false, false⟩, true, false⟩
  | .nan => ⟨⟨f.cnan, true, false, false⟩, true, false⟩
  | .trap => ⟨exactRes 0, false, true⟩

def Fmt.convert (f : Fmt) (r : Rnd) (o : Ovf) : FVal → CvtRes
  | .nan => ⟨exactRes f.cnan, false, false⟩
  | .inf n => if f.hasInf then ⟨exactRes (f.inf n), false, false⟩ else f.overflow o n
  | .fin n m e =>
    if m = 0 then ⟨exactRes (f.pack n 0), false, false⟩
    else
      let b := f.roundMag (f.fbits + 1) r n m 1 e
      if f.maxMag < b then { f.overflow o n with res := ((f.overflow o n).res.orNorm (f.tiny m 1 e)) }
      else ⟨⟨f.pack n b, false, false, f.tiny m 1 e⟩, false, false⟩

/-- Conversion into an integer type: SAT, INF and NAN all deliver the limit on the side of the value (R92, R93). -/
def convertInt (t : Ety) (r : Rnd) (o : Ovf) : FVal → CvtRes
  | .nan => ⟨exactRes 0, o ≠ .trap, o = .trap⟩
  | .inf n => ⟨exactRes (lowBits t.width (if n then t.lo else t.hi)), o ≠ .trap, o = .trap⟩
  | .fin n m e =>
    let a : Int := roundInt r n m 1 e
    let v := if n then -a else a
    if v < t.lo then ⟨exactRes (lowBits t.width t.lo), o ≠ .trap, o = .trap⟩
    else if t.hi < v then ⟨exactRes (lowBits t.width t.hi), o ≠ .trap, o = .trap⟩
    else ⟨exactRes (lowBits t.width v), false, false⟩

/-- One element of VCVT. A subnormal F32, BF16 or F16 operand calls on the normaliser as well (R91). -/
def convertEl (dst src : Ety) (r : Rnd) (o : Ovf) (v : Nat) : CvtRes :=
  let x := match fmtOf src with
    | some f => f.value v
    | none => let i := src.intVal v
      .fin (i < 0) i.natAbs 0
  let sub := match fmtOf src with
    | some f => src.isFloat && f.isSub v
    | none => false
  let c := match fmtOf dst with
    | some f => f.convert r o x
    | none => convertInt dst r o x
  { c with res := c.res.orNorm sub }

/-! ### Special functions (R98, R99) -/

/-- Significant bits of a special-function result (R98). -/
def Fmt.sfuPrec (f : Fmt) : Nat := if f.w = 32 then 12 else f.fbits + 1

/-- floor(sqrt x) for x < 4^n. -/
def isqrt (x : Nat) : Nat → Nat → Nat
  | 0, r => r
  | n + 1, r => if (r + 2 ^ n) * (r + 2 ^ n) ≤ x then isqrt x n (r + 2 ^ n) else isqrt x n r

/-- Fraction bits of the fixed-point approximations below. Their error is below 2^−150, far less than the distance of any
irrational result from a rounding boundary of 12 bits. -/
def fixBits : Nat := 192

/-- ln 2 in fixed point. -/
def fixLn2 : Nat := 80260960185991308862233904206310070533990667611589946606122867505419956976171 / 2 ^ 64

/-- Terms y^k / k! from k = `k`, in fixed point. -/
def expTerms (y : Nat) : Nat → Nat → Nat → Nat
  | 0, _, _ => 0
  | n + 1, k, t => t + expTerms y n (k + 1) (t * y / 2 ^ fixBits / (k + 1))

/-- e^y for 0 ≤ y < 1 in fixed point. -/
def fixExp (y : Nat) : Nat := expTerms y 60 0 (2 ^ fixBits)

/-- Terms z^(2k+1) / (2k+1), in fixed point. -/
def atanhTerms (z2 : Nat) : Nat → Nat → Nat → Nat
  | 0, _, _ => 0
  | n + 1, k, t => t / (2 * k + 1) + atanhTerms z2 n (k + 1) (t * z2 / 2 ^ fixBits)

/-- log2 of r/d for d ≤ r < 2d in fixed point. -/
def fixLog2 (r d : Nat) : Nat :=
  let z := (r - d) * 2 ^ fixBits / (r + d)
  2 * atanhTerms (z * z / 2 ^ fixBits) 70 0 z * 2 ^ fixBits / fixLn2

/-- 1/x. -/
def Fmt.rcp (f : Fmt) : FVal → FRes
  | .nan => exactRes f.cnan
  | .inf n => exactRes (f.pack n 0)
  | .fin n m e => if m = 0 then exactRes (f.inf n) else f.roundRes f.sfuPrec n 1 m (-e)

/-- 1/sqrt x: the fixed-point root carries a sticky last bit, so the rounding is that of the exact value. -/
def Fmt.rsq (f : Fmt) : FVal → FRes
  | .nan => exactRes f.cnan
  | .inf n => if n then ⟨f.cnan, true, false, false⟩ else exactRes 0
  | .fin n m e =>
    if m = 0 then exactRes (f.inf n)
    else if n then ⟨f.cnan, true, false, false⟩
    else
      let odd := e % 2 ≠ 0
      let m := if odd then 2 * m else m
      let e := if odd then e - 1 else e
      let r := isqrt (2 ^ 128 / m) 65 0
      f.roundRes f.sfuPrec false (2 * r + b2n (r * r * m ≠ 2 ^ 128)) (2 ^ 65) (-(e / 2))

/-- 2^x. -/
def Fmt.exp2 (f : Fmt) : FVal → FRes
  | .nan => exactRes f.cnan
  | .inf n => exactRes (if n then 0 else f.inf false)
  | .fin n m e =>
    let num := scaled n (m * 2 ^ e.toNat) 0 0
    let den : Nat := 2 ^ (-e).toNat
    let i := num / (den : Int)
    if num % (den : Int) = 0 then f.roundRes f.sfuPrec false 1 1 (max (min i 1000) (-1000))
    else
      let y := (num % (den : Int)).toNat * fixLn2 / den
      f.roundRes f.sfuPrec false (fixExp y) (2 ^ fixBits) (max (min i 1000) (-1000))

/-- log2 x. -/
def Fmt.lg2 (f : Fmt) : FVal → FRes
  | .nan => exactRes f.cnan
  | .inf n => if n then ⟨f.cnan, true, false, false⟩ else exactRes (f.inf false)
  | .fin n m e =>
    if m = 0 then exactRes (f.inf true)
    else if n then ⟨f.cnan, true, false, false⟩
    else
      let k := m.log2
      let t : Int := (e + k) * (2 ^ fixBits : Nat) + (if m = 2 ^ k then 0 else fixLog2 m (2 ^ k) : Nat)
      if t = 0 then exactRes 0 else f.roundRes f.sfuPrec (t < 0) t.natAbs (2 ^ fixBits) 0

/-- e^(2x) as fixed point times a power of two, for x = m × 2^e < 16. -/
def expDouble (m : Nat) (e : Int) : Nat :=
  let y := m * 2 ^ (e + 1).toNat * 2 ^ fixBits / 2 ^ (-(e + 1)).toNat
  let k := y / fixLn2
  fixExp (y - k * fixLn2) * 2 ^ k

/-- tanh x. Below 2^−40 it lies under x by less than any rounding sees but for the side on which it stands; from 16 on it
rounds to ±1. -/
def Fmt.tanh (f : Fmt) : FVal → FRes
  | .nan => exactRes f.cnan
  | .inf n => f.roundRes f.sfuPrec n 1 1 0
  | .fin n m e =>
    if m = 0 then exactRes (f.pack n 0)
    else
      let top := (m.log2 : Int) + e
      if top < -40 then f.roundRes f.sfuPrec n (m * 2 ^ 64 - 1) 1 (e - 64)
      else if 4 ≤ top then f.roundRes f.sfuPrec n 1 1 0
      else
        let x := expDouble m e
        f.roundRes f.sfuPrec n (x - 2 ^ fixBits) (x + 2 ^ fixBits) 0

/-- The special functions of R123. -/
inductive SfuFn where
  | rcp | rsq | exp2 | lg2 | tanh
deriving DecidableEq, Repr

/-- One element of an SFU form; a subnormal operand calls on the normaliser as well (R91). -/
def sfuEl (f : Fmt) (fn : SfuFn) (v : Nat) : FRes :=
  let x := f.value v
  FRes.orNorm (match fn with
    | .rcp => f.rcp x
    | .rsq => f.rsq x
    | .exp2 => f.exp2 x
    | .lg2 => f.lg2 x
    | .tanh => f.tanh x) (f.isSub v)

/-- VRCP, VRSQ or VLOG2 of a zero (R100). -/
def sfuDivz (f : Fmt) (fn : SfuFn) (v : Nat) : Bool :=
  match fn with
  | .rcp | .rsq | .lg2 => v % f.signBit = 0
  | .exp2 | .tanh => false

/-! ### Quantised bytes (R94-R96, R131) -/

/-- rne(v × 2^(127 − e)) saturated to int8, and whether it saturates or is a NaN (R131). -/
def quantEl (v e : Nat) : Int × Bool :=
  if e = 255 then (0, (fmtF32.value v).isNan)
  else
    match fmtF32.value v with
    | .nan => (0, true)
    | .inf n => (if n then -128 else 127, true)
    | .fin n m k =>
      let a : Int := roundInt .rne n m 1 (k + 127 - e)
      let q := if n then -a else a
      if q < -128 then (-128, true) else if 127 < q then (127, true) else (q, false)

/-- Bytes of one BPN run of 48 elements (R94): bytes 6j to 6j + 5 hold plane 7 − j. -/
def bpnRun (qs : List Nat) : Nat :=
  ((List.range 8).map fun j => ((List.range 48).map fun i => qs.getD i 0 / 2 ^ (7 - j) % 2 * 2 ^ i).sum * 2 ^ (48 * j)).sum

/-- A weight read at `p` planes (R95); `w` is its byte. -/
def planesVal (p w : Nat) : Int :=
  sgn 8 (w / 2 ^ (8 - p) * 2 ^ (8 - p)) + if p < 8 then (2 ^ (7 - p) : Nat) else 0

/-- The byte of element `i` of a BPN run of 48 bytes (R94). -/
def bpnByte (run : List Nat) (i : Nat) : Nat :=
  ((List.range 8).map fun j => run.getD (6 * j + i / 8) 0 / 2 ^ (i % 8) % 2 * 2 ^ (7 - j)).sum

end Sys2Proof.Machine
end

