-- ==== Sys2Proof/Machine/Table.lean ====
section
/-! DEFINITION. Sys2Proof/Machine/Table.lean: a finite map from natural numbers to data, held as a list sorted by key.
Register files, the tables of threads, cores and partitions, and memory are such maps. A key that is not listed reads as a
default that the reader names, so a machine right after reset is written with few entries. -/

namespace Sys2Proof.Machine

/-- A sparse map, sorted by key. -/
abbrev Table (α : Type) := List (Nat × α)

/-- The first entry with the key. -/
def Table.find? {α : Type} : Table α → Nat → Option α
  | [], _ => none
  | (k', v) :: t, k => if k' = k then some v else Table.find? t k

/-- The entry with the key, or the default. -/
def Table.get {α : Type} (t : Table α) (k : Nat) (d : α) : α := (Table.find? t k).getD d

def Table.has {α : Type} (t : Table α) (k : Nat) : Bool := (Table.find? t k).isSome

/-- Puts an entry at its place in the order of keys, in place of an entry with the same key. -/
def Table.set {α : Type} : Table α → Nat → α → Table α
  | [], k, v => [(k, v)]
  | (k', v') :: t, k, v =>
    if k < k' then (k, v) :: (k', v') :: t
    else if k = k' then (k, v) :: t
    else (k', v') :: Table.set t k v

/-- Removes every entry with the key. -/
def Table.erase {α : Type} (t : Table α) (k : Nat) : Table α := t.filter (fun e => e.1 ≠ k)

/-- Applies a function to the entry with the key, or to the default. -/
def Table.modify {α : Type} (t : Table α) (k : Nat) (d : α) (f : α → α) : Table α := Table.set t k (f (Table.get t k d))

/-- Applies a function to every listed entry. -/
def Table.mapVals {α : Type} (t : Table α) (f : α → α) : Table α := t.map (fun e => (e.1, f e.2))

/-- The keys in rising order. -/
def Table.keys {α : Type} (t : Table α) : List Nat := t.map (·.1)

/-- Keys strictly rising. -/
def Table.sorted {α : Type} : Table α → Bool
  | [] => true
  | [_] => true
  | (a, _) :: (b, v) :: t => decide (a < b) && Table.sorted ((b, v) :: t)

end Sys2Proof.Machine
end

