-- ==== Sys2Proof/Machine/Memory.lean ====
section
/-! DEFINITION. Sys2Proof/Machine/Memory.lean: byte memories as lists of cells in one canonical form: addresses strictly
rising, and no cell that holds what an unlisted address reads as. Byte order is decided here once: little-endian (R4). -/

namespace Sys2Proof.Machine

/-- What an address that nothing has written reads as. DESIGN CHOICE (unsafe, log entry 3): 0. The spec gives zero for
scratchpads (R286, R310) and no value for HBM and host memory. -/
def Memory.unwritten : Byte := 0

/-- The canonical form. -/
def Memory.wf (m : List Host.Cell) : Bool := Table.sorted m && m.all (fun c => c.2 ≠ Memory.unwritten)

def Memory.read (m : List Host.Cell) (a : Nat) : Byte := Table.get m a Memory.unwritten

/-- Writing what an unlisted address reads as removes the cell. -/
def Memory.write (m : List Host.Cell) (a : Nat) (b : Byte) : List Host.Cell :=
  if b = Memory.unwritten then Table.erase m a else Table.set m a b

/-- The `n` bytes from `a` upward. -/
def Memory.readBytes (m : List Host.Cell) (a : Nat) : Nat → List Byte
  | 0 => []
  | n + 1 => Memory.read m a :: Memory.readBytes m (a + 1) n

/-- Writes bytes from `a` upward. -/
def Memory.writeBytes (m : List Host.Cell) (a : Nat) : List Byte → List Host.Cell
  | [] => m
  | b :: bs => Memory.writeBytes (Memory.write m a b) (a + 1) bs

/-- The `n` bytes at `a` as a little-endian number. -/
def Memory.readLe (m : List Host.Cell) (a n : Nat) : Nat := leNat (Memory.readBytes m a n)

/-- Stores the low `n` bytes of a number, little-endian. -/
def Memory.writeLe (m : List Host.Cell) (a n v : Nat) : List Host.Cell := Memory.writeBytes m a (leBytes n v)

end Sys2Proof.Machine
end

