-- ==== Sys2Proof/Config.lean ====
section
/-! DEFINITION. Sys2Proof/Config.lean: what one Aqtis HN-1 module fixes (R10), and the values that the spec leaves open.
A value left open is an `opaque` constant: it has no body that Lean can evaluate, so nothing can be proved of it. -/

namespace Sys2Proof.Config

/-- VLEN in bits (R103, R107). -/
def vlen : Nat := 2048
/-- Clusters of the module: two dies of 64 (R10). -/
def clusters : Nat := 128
/-- Cores of the module (R10). -/
def cores : Nat := 1024
/-- HBM of the module in bytes: 384 GiB (R10). -/
def hbmBytes : Nat := 384 * 2 ^ 30
/-- Base of the on-chip window (R16). -/
def windowBase : Nat := 0x7F0000000000
/-- The bytes that the window spans (R17). -/
def windowSpan : Nat := 0x40000000
/-- Scratchpad bytes of a core, and of one of its 16 banks (R10). -/
def padBytes : Nat := 262144
def bankBytes : Nat := 16384
/-- Residency pages of a cluster's Canopy (R10). -/
def canopyPages : Nat := 3072
/-- Requests that one scratchpad bank holds (R64), and that one SFU queue holds (R124). -/
def bankRequests : Nat := 32
def sfuRequests : Nat := 32
/-- Words of an SFU result port (R127). -/
def sfuPortWords : Nat := 16
/-- Entries of a root slot's launch queue (R75). -/
def launchEntries : Nat := 64
/-- Group entries of a partition on one die (R77). -/
def groupEntries : Nat := 1024
/-- Entries of a translation service core's miss queue (R331); of a core TLB and a cluster TLB (R330). -/
def missEntries : Nat := 256
def coreTlbEntries : Nat := 64
def clusterTlbEntries : Nat := 2048
/-- Translation answers that a slot holds for its waiting instruction (R331). -/
def heldAnswers : Nat := 64
/-- The address at which the firmware of a root slot starts. The image gives it (R286), and the spec states no value. -/
def firmwareEntry : Word := 0

/-- The contents of a register that a deferred error poisons (R31): one free value for each reading of the counter. -/
opaque freeWord : Nat → Word
opaque freeVWord : Nat → VWord

/-- Memory encryption (R328): what a 16-byte block that was written under one key slot reads as under another, by the block's number
and its contents. -/
opaque xts (written read block : Nat) (data : BitVec 128) : BitVec 128

/-- What an agent reads of its memory once the host has written it while the agent ran (R213), by physical address and the byte held. -/
opaque tornByte : Nat → Byte → Byte

/-- What a unit that reads HBM by physical address takes from a byte whose unit holds an uncorrectable error, by the address and the
byte held. R351 names what becomes of such an error for threads, arrays and engines only. -/
opaque badByte : Nat → Byte → Byte

/-- Byte i of a save area (R318, R321), whose layout the spec does not give, by the number of the save. -/
opaque saveByte : Nat → Nat → Byte

/-! Taproot's cryptography (R346, R350): the digest of the ROM and of the public-key hash, byte i of the device's signature over a digest,
and byte i of the firmware that an image with a digest holds. -/

opaque romDigest : BitVec 256
opaque signature : BitVec 256 → Nat → Byte
opaque firmwareByte : BitVec 256 → Nat → Byte

/-! The command blocks of the mailbox (R348), whose layout the spec does not give: the bytes of a command's block, taken to be fewer than
2^16, and field i of a block. -/

opaque openLen : Nat → Nat
opaque blockField : Nat → List Byte → Nat → Nat

/-- The bytes of the block of a command (R348). -/
def blockLen (code : Nat) : Nat := openLen code % 65536

/-! What the model kernels compute (R12, R252, R259, R261) is open: free functions of the latched model descriptor, the weights
of its residencies, the planes and the tokens of the prefix, which is what R19 lets them depend on. -/

/-- The logit of a token after a prefix, an F32 value (R259). -/
opaque logit (desc : List Nat) (weights : List (List (List Nat))) (planes : Nat) (toks : List Nat) (tok : Nat) : BitVec 32
/-- The same at draft planes, after committed tokens and draft inputs (R261). -/
opaque draftLogit (desc : List Nat) (weights : List (List (List Nat))) (planes dpl : Nat) (toks drafts : List Nat) (tok : Nat) :
  BitVec 32
/-- The log-probability of a token after a prefix, an F32 value in bits (R252). -/
opaque logProb (desc : List Nat) (weights : List (List (List Nat))) (planes : Nat) (toks : List Nat) (tok : Nat) : BitVec 32
/-- Byte `i` of the block that holds the KV of the last token of a prefix (R216), and the position, modulo 16, to which the
bytes of a block belong. -/
opaque kvByte (desc : List Nat) (weights : List (List (List Nat))) (planes : Nat) (toks : List Nat) (i : Nat) : Byte
opaque kvOwner (desc : List Nat) (i : Nat) : Nat

end Sys2Proof.Config
end

