-- ==== Sys2Proof/Machine/State.lean ====
section
/-! DEFINITION. Sys2Proof/Machine/State.lean: the state of one Aqtis HN-1 module as plain data, its reset value, and the
reasons for which a step can stop. Tables are sparse: an entry that is not listed holds the default that its accessor in
Machine/Ops.lean names, which is the state the spec gives at reset or at partition creation. -/

namespace Sys2Proof.Machine

/-! ### Threads (R21-R23) -/

/-- One register of the x or v file (R21): contents, full bit, poison flag (R31), and whether a deferred producer of the
same thread still has to write it (R24, R25). -/
structure Reg (α : Type) where
  val    : α
  full   : Bool
  poison : Bool
  pend   : Bool
deriving DecidableEq, Repr

/-- One leaf of the page tables as a TLB or an answer holds it (R328, R330). `lg` is the binary logarithm of the page
size; `phys` the physical base of the page; `key` the memory-encryption key slot of an HBM page. -/
structure Leaf where
  va   : Nat
  lg   : Nat
  phys : Nat
  key  : Nat
  host : Bool
  kind : Nat
  w    : Bool
  x    : Bool
  cnt  : Bool
deriving DecidableEq, Repr

/-- A TLB entry: a leaf with its partition and tenancy (R330). -/
structure TlbEntry where
  part : Nat
  ten  : Nat
  leaf : Leaf
deriving DecidableEq, Repr

/-- The answer of the translation service core for one 64 KiB unit of the address space: the leaf, or the failing cause of
R329 (R331). -/
structure Answer where
  page  : Nat
  /-- 0, or the failing cause. -/
  cause : Nat
  leaf  : Leaf
deriving DecidableEq, Repr

/-- Where one byte of an access lives (R16, R17, R328). -/
inductive Place where
  /-- Physical HBM byte, without a key. -/
  | hbm (a : Nat)
  /-- Physical HBM byte reached through a leaf whose page is encrypted under a key slot (R328). -/
  | page (key a : Nat)
  /-- Host physical byte, reached through CXL.mem. -/
  | host (a : Nat)
  /-- Byte of a core's scratchpad. -/
  | pad (core off : Nat)
  /-- Byte of an accumulator bank; banks are numbered 4 g + b. -/
  | acc (bank off : Nat)
  /-- Byte of an x register of a thread. -/
  | xreg (t r off : Nat)
  /-- Byte of a v register of a thread. -/
  | vreg (t r off : Nat)
  /-- A register of an owned slot that holds no running thread: reads zero, discards writes (R18). -/
  | nothing
  /-- Bytes that a pending load has already read, and whether they carry an error: a part of it that what holds the others does not
  hold (R58, R168, R169). -/
  | data (bs : List Byte) (bad : Bool)
deriving DecidableEq, Repr

/-- The kinds of LDSYNC that a bank can hold (R61). -/
inductive SyncKind where
  | ldf | ldt | ldft | stf
deriving DecidableEq, Repr

inductive AmoOp where
  | add | swap | cas | min | max | minu | maxu | and | or | xor
deriving DecidableEq, Repr

/-- A request that a bank holds (R64). `due` is the cycle at which an LDFT's limit expires, 0 for none, and in the saved state of
a thread the cycles that remain of it; `seq` its number in the order of its thread's accesses. -/
structure BankReq where
  k    : SyncKind
  t    : Nat
  rd   : Nat
  v    : Word
  core : Nat
  off  : Nat
  due  : Nat
  seq  : Nat
deriving DecidableEq, Repr

/-- A memory access that has issued and is to be performed (R26, R65). -/
inductive MemOp where
  /-- A scalar load of `n` bytes into `rd`, sign-extended when `sx`; one or two parts of whole bytes (R57, R58). -/
  | load (rd n : Nat) (sx : Bool) (parts : List (Place × Nat))
  /-- A scalar store of the low bytes of `v` (R57). -/
  | store (v : Word) (parts : List (Place × Nat))
  /-- A request to the bank of a scratchpad word (R61, R62); `lim` is the wait limit of an LDFT in cycles. -/
  | sync (k : SyncKind) (rd : Nat) (v : Word) (core off lim : Nat)
  /-- LDP (R61). -/
  | ldp (rd core off : Nat)
  /-- FEW (R63). -/
  | few (full : Bool) (core off : Nat)
  /-- An AMO with its ordering and the value that rd held (R67). -/
  | amo (op : AmoOp) (o : AmoOrder) (rd : Nat) (before v : Word) (p : Place)
  /-- The active elements of a vector load over the value that vd starts from (R113, R114). -/
  | vload (vd w : Nat) (base : VWord) (els : List (Nat × Place))
  /-- The active elements of a vector store (R113, R114). -/
  | vstore (w : Nat) (els : List (Place × Nat))
  /-- A word pushed to the Braid's dispatch port (R199, R200). -/
  | braid (w : Word)
deriving DecidableEq, Repr

/-- An access that has issued and is not performed yet: its number in the thread's order, the access, and the ordering kind of each
of its parts (R58, R166). -/
structure Held where
  seq : Nat
  op  : MemOp
  ks  : List Nat
deriving DecidableEq, Repr

/-- Where a deferred producer writes (R25). -/
inductive Dest where
  | x (r : Nat)
  | v (r : Nat)
deriving DecidableEq, Repr

/-- Who writes a register of a thread: a load or LDSYNC, an AMO, the end of a request that its token names, or a window or engine
write, which is no producer of the thread itself (R18, R25, R30). -/
inductive Writer where
  | load | amo | token | window
deriving DecidableEq, Repr

/-- A write of one of a thread's registers whose data is fixed and which lands at the end of the cycle (R25, R160). -/
structure Return where
  dest   : Dest
  xval   : Word
  vval   : VWord
  poison : Bool
  writer : Writer
deriving DecidableEq, Repr

/-- LOOP's claim, as it waits in the slot's claim buffer (R71-R73). -/
structure Claim where
  pc    : Word
  desc  : Word
  ok    : Bool
  i     : Word
  c     : Word
  total : Word
deriving DecidableEq, Repr

/-- A claim that has been sent and not answered (R73). -/
structure ClaimReq where
  pc    : Word
  desc  : Word
  place : List Place
  /-- The ordering kind of the descriptor's page (R65). -/
  kind  : Nat
  /-- The cycle whose turn the LOOP used to send it (R73). -/
  cycle : Nat
deriving DecidableEq, Repr

/-- An arrival at a barrier (R78): the group, the destination, the length of the instruction, and the count of completed
barriers once the barrier has completed while the thread could not go on. -/
structure BarWait where
  pc    : Word
  group : Nat
  rd    : Nat
  takes : List Nat
  len   : Nat
  done  : Option Word
deriving DecidableEq, Repr

/-- A request in the SFU queue (R124). -/
structure SfuReq where
  t      : Nat
  vd     : Nat
  val    : VWord
  served : Bool
  events : Nat
  seq    : Nat
  queued : Nat
deriving DecidableEq, Repr

/-- Why a thread's latest attempt to issue did not issue (R24, R305). -/
inductive Wait where
  /-- An empty register or a pending destination; the x registers it waits for. -/
  | regs (xs : List Nat)
  /-- EXIT waits for the thread's own STF or AMO (R79). -/
  | exit
  /-- A barrier of a group (R78). -/
  | barrier (group : Nat)
  /-- A MAT command that waits for a run, or for room in the queue, of the lease (R138). -/
  | run (lease : Nat)
  /-- Any other wait: a shared unit, a fence, a queue, a timeline, a translation. -/
  | other
deriving DecidableEq, Repr

/-- One thread with the slot state that R21 lists. Threads are named by a number that is never used again; the root slot
of core k is thread k. -/
structure Thread where
  /-- Slot: 16 × core + slot number, core = 8 g + c. -/
  sid    : Nat
  part   : Nat
  ten    : Nat
  /-- Population, 0 for the root slot; index within it (R22). -/
  pop    : Nat
  index  : Nat
  x      : Table (Reg Word)
  v      : Table (Reg VWord)
  p      : Table PWord
  /-- Poison flags of p0-p7, which only SLOTST sets (R21, R299). -/
  pbad   : BitVec 8
  /-- Port values of bound queue registers (R82); an entry that is not listed is unbound. -/
  q      : Table Word
  pc     : Word
  /-- STATUS.WLIM; the other fields of STATUS are derived (R23). -/
  wlim   : BitVec 16
  latch  : Bool
  lastTl : Word
  claim     : Option Claim
  claimSent : Option ClaimReq
  ext0   : Nat
  ext1   : Nat
  ext2   : Nat
  /-- Completion words of the SFU result port (R127), and the count of SFU requests since the thread started. -/
  sfuWords : List Word
  sfuSeq   : Nat
  held   : Bool
  /-- Class of the trap that froze the thread, and the cycle of that trap (R290). -/
  frozen : Option Nat
  frozeAt : Nat
  /-- The record that is queued again when a switch brings a frozen thread back (R304, R320). -/
  record : Option (List Word)
  /-- WFE: the cycle at which its limit expires, if it has one (R298). -/
  wfe    : Option (Option Nat)
  /-- The normaliser holds the thread (R91). -/
  norm   : Bool
  /-- The thread is not ready before this cycle (R75, R80, R298, R300). -/
  notBefore : Nat
  /-- The first cycle in which its SFU requests may be accepted after the latest ERET (R125). -/
  thaw   : Nat
  wait   : Option Wait
  /-- The cycle since which the present published wait has stood (R306). -/
  waitSince : Nat
  returns  : List Return
  /-- Accesses that wait for an earlier acquire or access of the thread (R26, R65, R67, R171), oldest first. -/
  heldOps  : List Held
  answers  : List Answer
  bar      : Option BarWait
  /-- Handles of the groups that the thread joined (R77). -/
  groups   : List Nat
  triggered : Bool
  /-- A tenancy switch has saved the thread (R319). -/
  saved  : Bool
  /-- Bank requests and SFU requests that a switch withdrew (R66, R126). -/
  savedSync : List BankReq
  savedSfu  : List SfuReq
  /-- Lease, contents and fault flag of a saved bank, and token registers of withdrawn MLEASE requests (R139). -/
  savedBank : Option (Nat × Table (BitVec 32) × Nat)
  savedLease : List Nat
deriving DecidableEq, Repr

/-! ### Populations and groups (R74-R78) -/

/-- One launch and its population (R74-R76). -/
structure Population where
  part    : Nat
  ten     : Nat
  pc      : Word
  seeds   : List Word
  size    : Nat
  quota   : Nat
  after   : Nat
  done    : Word
  started : Nat
  exited  : Nat
  /-- Threads that have executed TRIGGER or exited (R75). -/
  trig    : Nat
  /-- Barriers completed by the population group, and the threads that have arrived at the present one (R78). -/
  bars    : Nat
  arrived : List Nat
  /-- Statistics records that arrivals named: thread, address, and where it leads (R102). -/
  recs    : List (Nat × Word × List (Place × Nat))
  /-- The submission-queue packet that launched it (R342): queue (function × 16 + number) and number of the packet. -/
  packet  : Option (Nat × Nat)
deriving DecidableEq, Repr

/-- A group entry of a partition and die (R77). -/
structure Group where
  members : List Nat
  arrived : List Nat
  bars    : Nat
  recs    : List (Nat × Word × List (Place × Nat))
deriving DecidableEq, Repr

/-- A launch entry of a root slot's queue (R75, R287). -/
structure LaunchEntry where
  pop    : Nat
  addr   : Word
  part   : Nat
  ten    : Nat
  /-- The cluster whose cores CORES names. -/
  g      : Nat
  /-- CORES once the record has been read; 0 before. -/
  cores  : Nat
  taken  : Bool
  /-- Seeds that replace those of the record (a FAULT packet, R343). -/
  seeds  : List Word
  packet : Option (Nat × Nat)
deriving DecidableEq, Repr

/-! ### Shared units of a core (R55, R91, R105, R124) -/

structure DivOp where
  due  : Nat
  t    : Nat
  rd   : Nat
  val  : Word
  zero : Bool
deriving DecidableEq, Repr

/-- A service of the normaliser (R91): the destination and its result, the SFU completion word it ends with, and the cycle in which
the instruction issued. -/
structure NormJob where
  t    : Nat
  vd   : Nat
  val  : VWord
  sfu  : Option Word
  at_  : Nat
  /-- Number of the SFU request in its thread's order (R124), 0 for other instructions. -/
  seq  : Nat
deriving DecidableEq, Repr

structure SortJob where
  due : Nat
  t   : Nat
  vd  : Nat
  val : VWord
deriving DecidableEq, Repr

/-- A probe of the wait-cycle unit (R306): its path, origin first, and the thread it goes to. -/
structure Probe where
  path : List Nat
  dst  : Nat
deriving DecidableEq, Repr

/-- Core state: shared units, root-slot registers, launch queue (R55, R91, R105, R124, R286-R293, R306, R330). -/
structure Core where
  events   : Table Nat
  divs     : List DivOp
  normCur  : Option (NormJob × Nat)
  normQ    : List NormJob
  sfuQ     : List SfuReq
  sfuRun   : List (SfuReq × Nat)
  sfuLast  : Option Nat
  /-- Results that wait for an earlier result of their thread at the normaliser (R124), oldest first. -/
  sfuWait  : List SfuReq
  sort     : Option SortJob
  psel     : Nat
  tqbase   : Word
  tqcnt    : Nat
  /-- Records the root slot has taken (R292). -/
  tqtaken  : Nat
  rvec     : Word
  repc     : Word
  rcause   : Word
  raddr    : Word
  trapcfg  : Word
  records  : List (List Word)
  launch   : List LaunchEntry
  probes   : List Probe
  tlb      : List TlbEntry
  /-- The micro-kernel waits for the fill with which it answers a matrix trap (R206): the trap record, or none. -/
  kfill    : Option (List Word)
  /-- Completion records for which the micro-kernel waits (R344): the function, TAIL once its ring holds the record, and the launch entry
  that is discarded then (R294). -/
  kposts   : List (Nat × Nat × Option Nat)
deriving DecidableEq, Repr

/-! ### Scratchpads (R60-R66) -/

/-- State of one 64-bit scratchpad word that is not as a partition receives it: its bit and its holder (R60, R305). -/
structure PadWord where
  full   : Bool
  holder : Option Nat
deriving DecidableEq, Repr

/-! ### Matrix arrays and residencies (R134-R157) -/

/-- An array command with what it read at acceptance (R152). -/
inductive ArrayOp where
  | mzero
  /-- Streamed flag, handle, planes, K, N, NX, N-tile, first chunk, chunks, first row, rows, A record, B record. -/
  | mmul (s : Bool) (h p k n nx nt kch0 kcn row0 m : Nat) (ra rb : List Word)
  | mdrain (tok row0 m : Nat) (rec : List Word)
deriving DecidableEq, Repr

structure ArrayCmd where
  op     : ArrayOp
  lease  : Nat
  t      : Nat
  sid    : Nat
  part   : Nat
  ten    : Nat
  num    : Nat
  /-- Cycle of acceptance (R135). -/
  acc    : Nat
  /-- Passes that have started. -/
  passes : Nat
  /-- Events already met: NANP, OVFL (R101). -/
  nanp   : Bool
  ovfl   : Bool
  /-- What an MMUL waits for: 0 nothing, 1 the fill in progress when it was accepted (R150), 2 an AUTOFILL refill (R146). -/
  stall  : Nat
  /-- The command is abandoned (R146 item 5, R150). -/
  abandoned : Bool
deriving DecidableEq, Repr

/-- One cluster's array (R134-R139). -/
structure ArrayState where
  /-- Holder of each bank's lease (R137). -/
  holder  : Table Nat
  /-- Banks whose contents go into the saved state of a thread once the accepted commands of the lease complete (R139). -/
  saving  : List (Nat × Nat)
  /-- Saved leases that wait for their bank: bank and thread (R139). -/
  restore : List (Nat × Nat)
  /-- Bank fault flags with their cause (R136). -/
  fault   : Table Nat
  /-- Waiting MLEASE requests: thread and token register, oldest first (R137). -/
  waiting : List (Nat × Nat)
  running : Option Nat
  /-- The lease that ran last (R138). -/
  last    : Nat
  /-- Commands that the run has placed, its first cycle, and the cycle of its latest command (R138). -/
  runCmds : Nat
  runFrom : Nat
  runIdle : Nat
  queue   : List ArrayCmd
  /-- Last cycle of the array's latest occupation, and start of the latest pass (R135). -/
  busyTo  : Nat
  passAt  : Option Nat
  /-- The command at the head of the queue has begun its last pass or bank access, which ends at `busyTo`. -/
  finishing : Bool
deriving DecidableEq, Repr

/-- A RES request that waits for its turn on a residency (R150): member (1 RFILL, 2 RPIN, 3 RUNPIN, 4 RREVOKE, 5 RQUERY),
thread, slot, token register, the tenancy it acts for (R149), and RFILL's TID with the record as read at acceptance (R143). -/
structure ResReq where
  op  : Nat
  t   : Nat
  sid : Nat
  tok : Nat
  ten : Nat
  tid : Nat
  src : List Word
deriving DecidableEq, Repr

/-- A fill in progress (R150): its request, the state to which a failure leads back, the tenancy whose page tables translate the
source (R149), the source record, the generations recorded (R147), the leaf entries marked RSRC with the page of each (R335), and
whether a raise has occurred. -/
structure Fill where
  req    : ResReq
  prior  : Nat
  ten    : Nat
  src    : List Word
  gens   : List (Nat × Nat)
  leaves : List (Nat × Leaf)
  raised : Bool
deriving DecidableEq, Repr

/-- A residency (R145-R151). -/
structure Residency where
  handle   : Nat
  part     : Nat
  ten      : Nat
  pages    : Nat
  /-- 0 EMPTY, 1 FILLING, 2 RESIDENT, 3 EVICTED (R151). -/
  st       : Nat
  pin      : Bool
  auto     : Bool
  stale    : Bool
  srctid   : Nat
  /-- The remembered source record, empty before the first fill, and the tenancy whose page tables translate it (R149). -/
  src      : List Word
  srcTen   : Nat
  /-- Recorded generations of source frames (R147), and the source's leaf entries (R335). -/
  gens     : List (Nat × Nat)
  leaves   : List (Nat × Leaf)
  /-- Weight bytes and scale bytes as loaded, one list for each column N. -/
  wts      : List (List Nat)
  scl      : List (List Nat)
  /-- Use stamp for the least-recently-used order (R146). -/
  used     : Nat
  fill     : Option Fill
  reqs     : List ResReq
  /-- RESIDENT when the tenancy was switched out (R322). -/
  wasRes   : Bool
  /-- Its pages hold an error, of the kinds of `badHbm`, at a byte of the Canopy; 0 for none (R136, R352). -/
  bad      : Nat
  badByte  : Nat
deriving DecidableEq, Repr

/-! ### Engines (R182-R201) -/

/-- A step view (R189). -/
structure View where
  limit : Nat
  table : Nat
  j0    : Nat
  late  : List Nat
deriving DecidableEq, Repr

/-- What an engine request does. -/
inductive EngKind where
  /-- CPY with kind 0 LIN, 1 RECT, 2 WIN, 3 COW. -/
  | copy (k : Nat)
  | gather (rows : Bool)
  /-- COLL with kind 0 ALLRED, 1 ALLGATH, 2 REDSCAT, 3 ALLTOALL. -/
  | coll (k : Nat)
deriving DecidableEq, Repr

/-- A request that an engine context has accepted (R182, R183). -/
structure EngReq where
  /-- Issuing thread, its slot, the partition and tenancy it acts for, and the token register. -/
  t     : Nat
  sid   : Nat
  part  : Nat
  ten   : Nat
  tok   : Nat
  num   : Nat
  kind  : EngKind
  /-- Descriptor words as read at acceptance, and their address. -/
  desc  : List Word
  daddr : Word
  /-- The error found at acceptance, 15 when the context was frozen, 0 for none. -/
  code  : Nat
  /-- The rank-table entries read at acceptance (R312), and the number that remote traffic carries. -/
  entry : List Word
  op    : Nat
  /-- Its remote writes have been sent; the status of the destination's acknowledgement (R179). -/
  sent  : Bool
  acked : Option Nat
  /-- How far a copy or a gather has come (R320): destination bytes, or positions of a WALK; the bytes that a WALK has copied; the
  view and the latest block-table entry that it has read (R188, R194); the 2 MiB groups that it has touched (R336). -/
  at_   : Nat
  bytes : Nat
  view  : Option View
  got   : Option (Nat × Nat)
  seen  : List Nat
  /-- Collective state: the step and chunk reached, and whether the chunks of the step have been sent (R197). -/
  step  : Nat
  chunk : Nat
deriving DecidableEq, Repr

/-- An engine context or lease timeline of a partition's tenancy (R182, R183). -/
structure EngCtx where
  acc    : Nat
  done   : Nat
  frozen : Bool
  queue  : List EngReq
  /-- The page whose translation the context stalls for, and the answers it holds for what it does now (R331). -/
  stall   : Option Nat
  answers : List Answer
deriving DecidableEq, Repr

/-- A graph in the Braid (R199). -/
structure Graph where
  die   : Nat
  part  : Nat
  ten   : Nat
  addr  : Nat
  t     : Nat
  tok   : Nat
  succ  : List Nat
  count : List Nat
  /-- For each task: 0 waiting or ready, 1 dispatched, 2 completed. -/
  stage : List Nat
deriving DecidableEq, Repr

/-- What a Lanyard flit carries (R178-R180, R197, R279). -/
inductive FlitBody where
  | write (op addr : Nat) (bytes : List Byte)
  /-- The last flit of a remote operation: the destination acknowledges it. -/
  | last (op : Nat)
  | ack (op code : Nat)
  /-- Up to 128 bytes of a chunk; `whole` on its last flit, and on the chunk that a port has put together. -/
  | chunk (op tag kind step chunk : Nat) (whole : Bool) (bytes : List Byte)
  /-- The batch of an iteration: model group and iteration number. -/
  | batch (group iter : Nat)
  /-- A member's report for an iteration; 0 for no error. -/
  | report (group iter member code : Nat)
deriving DecidableEq, Repr

/-- A flit of at most 128 bytes of data: port, sending and receiving module, sending and receiving partition, tenancy, key and
channel. -/
structure Flit where
  port   : Nat
  source : Nat
  module : Nat
  sender : Nat
  part   : Nat
  ten    : Nat
  key    : Nat
  vc     : Nat
  body   : FlitBody
deriving DecidableEq, Repr

/-! ### The agent level (R209-R280) -/

/-- A context descriptor that is not FREE (R214, R215). The block table and the sampling record are bytes of HBM. -/
structure Context where
  part    : Nat
  ten     : Nat
  btcap   : Nat
  btab    : Nat
  len     : Nat
  model   : Nat
  rngKey  : Word
  rngCtr  : Word
  totLeft : Nat
  newLeft : Nat
  samp    : Nat
  maskGrp : Nat
  maskOn  : Bool
  owner   : Nat
  late    : Bool
  /-- 1 LIVE, 2 RELEASING; and the iteration at whose snapshot a RELEASING descriptor becomes FREE (R245). -/
  st      : Nat
  freeAt  : Nat
  /-- The committed tokens, and the Graft nodes of the pin set (R249). -/
  toks    : List Nat
  pins    : List Nat
deriving DecidableEq, Repr

/-- A long instruction for which look-ahead has acted (R268): its agent, its apc, and how many instructions that are not complete are
before it there, in a loop. -/
structure Plan where
  agent : Nat
  apc   : Nat
  nth   : Nat
deriving DecidableEq, Repr

/-- A PBN that is not FREE (R218): its count, the iteration in which it became GRACE, and the reservation of R268: for which instruction,
and the order of reservations. Whether it is CACHED follows from the Graft. -/
structure Block where
  count : Nat
  grace : Option Nat
  resv  : Option (Plan × Nat)
deriving DecidableEq, Repr

/-- A node of the Graft (R219). Parent 0 is the root of the tree of its partition, tenancy and model. -/
structure Node where
  id     : Nat
  part   : Nat
  ten    : Nat
  model  : Nat
  parent : Nat
  pbn    : Nat
  toks   : List Nat
  last   : Nat
  /-- Plan holds: for which instruction, and the iteration in which the hold lapses (R268). -/
  holds  : List (Plan × Nat)
deriving DecidableEq, Repr

/-- A long instruction that has issued and not retired (R235, R236). -/
structure LongInst where
  op     : LongOp
  apc    : Nat
  /-- Batch-table entry of the agent's die, none for AWAIT (R271). -/
  entry  : Option Nat
  /-- Its effect is complete: the done bit of R241, or the end of its progress. -/
  done   : Bool
  /-- Held token of a GEN, and scratch blocks of a SCORE or a speculative GEN (R252, R258, R261). -/
  held   : Option Nat
  scratch : List Nat
  /-- SCORE: the next position to compute, once a step of it has been placed (R252, R253). -/
  pos    : Option Nat
  /-- SAMPSET: words 0x00-0x20 of the record as read at issue (R255). -/
  data   : List Word
  /-- Issue order over the whole module. -/
  seq    : Nat
deriving DecidableEq, Repr

/-- An agent (R209, R210, R233-R239). -/
structure Agent where
  die    : Nat
  part   : Nat
  ten    : Nat
  cls    : Nat
  /-- The code image, one word for each instruction. -/
  code   : List Word
  a      : Table Word
  k      : Table Word
  s      : Table Word
  f      : Table (BitVec 32)
  /-- Physical HBM address of its 64 KiB of memory, within the partition's region; and whether the host has written it while the agent
  ran, after which what the agent reads there is not defined (R209, R213). -/
  base   : Nat
  torn   : Bool
  apc    : Nat
  /-- 0 waiting for activation, 1 active, 2 stopped by a fault, 3 halting before the snapshot that frees its contexts,
  4 halting after it, until its HALT record is placed (R233). -/
  st     : Nat
  /-- Order of arrival and of activation (R275). -/
  arrived : Nat
  activated : Nat
  flight : List LongInst
  /-- Done bits of the instructions that were unretired at the last stop (R241). -/
  replay : List Bool
  /-- Host events that are pending: tag and value (R264). -/
  events : List (Nat × Word)
  /-- A fault that the next token boundary takes: code and apc (R242). -/
  fault  : Option (Nat × Nat)
  /-- Value of the AHALT in progress. -/
  halt   : Word
  /-- The look-ahead window has been decoded since the last change (R266). -/
  looked : Bool
  deficit : Nat
  /-- The AGENTSTART packet that completes when the agent becomes active (R342). -/
  packet : Option (Nat × Nat)
deriving DecidableEq, Repr

/-- A batch-table entry that is not FREE (R271). -/
structure BatchEntry where
  ver    : Nat
  host   : Nat
  shver  : Nat
  shhost : Nat
  /-- 1 PENDING, 2 PLACED, 3 DRAINING, 4 HELD. -/
  st     : Nat
  op     : Nat
  agent  : Nat
  ctx    : Nat
  waits  : Nat
  iter   : Nat
  /-- Failures in consecutive iterations; the engine holds the entry (R278). -/
  fails  : Nat
  engHeld : Bool
deriving DecidableEq, Repr

/-- A step that an iteration has placed (R273, R274). -/
structure Step where
  /-- Batch-table entry (die × 8,192 + n), agent, the instruction's issue order, and its context. -/
  entry : Nat
  agent : Nat
  seq   : Nat
  ctx   : Nat
  /-- Entry of the leader of its coalesced set, whose work is that of every member (R270). -/
  lead  : Nat
  /-- Matched tokens, and positions computed (R250, R252). A GEN step that draws for its first held token has 0 positions. -/
  g     : Nat
  c     : Nat
  /-- A speculative step (R261), and its draft scratch blocks. -/
  spec  : Bool
  scratch : List Nat
  /-- Its draft tokens (R261). -/
  drafts : List Nat
  /-- The fault that arose at the build, if any (R242). -/
  fault : Option Nat
  /-- An error ended the step's work (R278). -/
  failed : Bool
deriving DecidableEq, Repr

/-- The time for which a tenancy switch has paused a member of a model group in a batch: what has ended, and since when it stands (R279). -/
structure Pause where
  member : Nat
  total  : Nat
  since  : Option Nat
deriving DecidableEq, Repr

/-- The batch of one model group in an iteration (R274, R279): the model handle, its steps, the number of members whose reports its
commit waits for, the reports received (member and code), and the pauses of members. -/
structure Batch where
  group   : Nat
  steps   : List Step
  members : Nat
  reports : List (Nat × Nat)
  pauses  : List Pause
deriving DecidableEq, Repr

/-- A batch that a lead module has sent and that waits for this member's shards: model group, iteration, lead module, the port towards
it, and the tenancy. -/
structure ShardJob where
  group : Nat
  iter  : Nat
  lead  : Nat
  port  : Nat
  ten   : Nat
  /-- The error that its report names, 0 for none. -/
  code  : Nat
deriving DecidableEq, Repr

/-- The iterations of a partition (R274, R277, R279). -/
structure Iter where
  num     : Nat
  /-- An iteration runs, launched at the cycle and FTIME named; while none runs, the cycle in which the latest ended. -/
  running : Bool
  cycle   : Nat
  time    : Nat
  /-- The batches of its model groups that have not ended. -/
  batches : List Batch
  /-- Entries that the latest iteration placed (R274). -/
  placed  : List Nat
  /-- Round-robin pointer of each model group (R274). -/
  pointers : Table Nat
  /-- A switch has brought the partition's agents in: they issue from the next snapshot on (R324). -/
  rest    : Bool
  jobs    : List ShardJob
deriving DecidableEq, Repr

/-- A latched model descriptor (R217). -/
structure Model where
  planes : Nat
  vocab  : Nat
  blkb   : Nat
  cap    : Nat
  salt   : Word
  tlim   : Nat
  nmod   : Nat
  lead   : Nat
  resl   : List Nat
  ktab   : Nat
  layout : Nat
deriving DecidableEq, Repr

/-! ### Translation (R327-R337) -/

/-- Who waits for a translation (R331): a thread, or an engine context by its key. -/
inductive Requester where
  | thread (t : Nat)
  | engine (k : Nat)
deriving DecidableEq, Repr

/-- An entry of a cluster's miss queue (R331): its key, and the waiters. -/
structure Miss where
  part    : Nat
  ten     : Nat
  page    : Nat
  waiters : List Requester
deriving DecidableEq, Repr

/-- A cluster: TLB, miss queue and its counters (R330-R332), error log and injection (R352, R353), Canopy pages. -/
structure Cluster where
  tlb    : List TlbEntry
  misses : List Miss
  /-- Requesters that found the queue full, in the order of admission (R331 item 4). -/
  admitted  : List Requester
  ovf    : Nat
  /-- Error-log entries: ELOGA and ELOGB of each used entry (R352). -/
  elog   : Table (Word × Word)
  elogsel : Nat
  ecnt   : Word
  einj   : Word
deriving DecidableEq, Repr

/-- A queued invalidation of a partition (R333): tenancy, whether it covers all, the virtual page, and for that of a ROOT write the
leaves of the tables that the tenancy had (R335). -/
structure Inval where
  ten  : Nat
  all  : Bool
  page : Nat
  maps : List Leaf
deriving DecidableEq, Repr

/-! ### Partitions (R308-R326, R332) -/

/-- The registers and switch state of a partition. Words are held in the layouts of R309-R316, R325 and R332. -/
structure Part where
  pslots   : Nat
  pbanks   : Nat
  glo      : Nat
  ghi      : Nat
  hbmBase  : Nat
  hbmLimit : Nat
  pbnBase  : Nat
  pbnLimit : Nat
  keys     : List Nat
  fabkey   : Nat
  cdBase   : Nat
  cdLimit  : Nat
  kvbase   : Word
  itercfg  : Word
  agcfg    : Word
  blkquota : Nat
  canquota : Table Nat
  rtidx    : Nat
  rank     : Table Word
  gmask    : Nat
  /-- Running tenancy 0-3, 4 while suspended (R313). -/
  cur      : Nat
  res      : Nat
  tsave    : Table Word
  switchat : Word
  swErr    : Nat
  /-- 0 IDLE, 1 ARMED, 2 HANDOVER, 3 DRAIN, 4 DEFER (R316). -/
  swState  : Nat
  swTgt    : Nat
  /-- The preload for the armed switch is complete (R318). -/
  loaded   : Bool
  gErr     : Nat
  /-- 0 IDLE, 1 PREPARING, 2 PREPARED, 3 COMMITTED, 4 RUNNING, 5 RESTART (R325). -/
  gState   : Nat
  gTgt     : Nat
  /-- The tenancy that the guest's switch is prepared for, TGT at PREPARE (R326). -/
  gFor     : Nat
  gswtime  : Word
  /-- Time bound by COMMIT (R326). -/
  gBound   : Word
  /-- Slots that have handed over in the present switch, and the tenancy they go to (R319). -/
  handed   : List Nat
  incoming : Nat
  modtab   : Table Word
  btarea   : Word
  samparea : Word
  /-- Values written that take effect at the next snapshot: selector and value (R309, R314). -/
  pendingCfg : List (Nat × Word)
  ptroot   : Table Word
  xinvSeq  : Nat
  xinvDone : Nat
  invals   : List Inval
  cntcfg   : Word
  nqbase   : Word
  nqhead   : Word
  nqtail   : Word
  nqovf    : Nat
  cnttab   : Table Word
deriving DecidableEq, Repr

/-! ### The host interface and Taproot (R338-R350) -/

/-- A packet that has started and whose completion has not been posted (R341, R342): its number among all packets of the queue, which
a disabled queue goes on counting (R339), its index, tag, NOTIFY, and the status once its effect has ended. -/
structure Pkt where
  num    : Nat
  index  : Nat
  tag    : Nat
  notify : Bool
  status : Option Word
deriving DecidableEq, Repr

/-- A submission queue (R339). -/
structure SubQ where
  base : Nat
  part : Nat
  sib  : Nat
  hq   : Bool
  ten  : Nat
  /-- 0 DISABLED, 1 ACTIVE, 2 ERROR. -/
  st   : Nat
  log  : Nat
  /-- SQHND.REC. -/
  hnd  : Nat
  tail : Nat
  head : Nat
  flight : List Pkt
  /-- Packets started so far, in every period in which the queue was active. -/
  num  : Nat
deriving DecidableEq, Repr

/-- A completion ring (R344). -/
structure CompQ where
  base : Nat
  ie   : Bool
  log  : Nat
  tail : Nat
  head : Nat
deriving DecidableEq, Repr

/-! ### The machine -/

/-- What a party outside the module does to it: another module of the pod, or the host's memory. -/
inductive Outside where
  /-- A flit of another module reaches this one (R177, R178). -/
  | flit (f : Flit)
  /-- The host's memory begins, or ceases, to answer for a line with an error response (R31). -/
  | hostError (line : Nat) (on : Bool)
  /-- A core-level fault, a frozen engine channel or an error status ends the model kernels' work on a placed step of a partition, which
  its batch-table entry names (R278). -/
  | stepError (part entry : Nat)
  /-- The same for a batch that this module runs as a member of a model group: its report names the error (R279). -/
  | shardError (part group iter code : Nat)
  /-- A tenancy switch pauses a member of a model group, or brings it back (R279). -/
  | memberPause (part group member : Nat) (on : Bool)
  /-- An error arises in a 64-bit word of a core's scratchpad (key and word number), in a 32-byte unit of HBM, in the copy of a 64-bit
  word of HBM that a memory-side cache or, where `g` names one, a cluster's cache holds, or at a Canopy byte of a residency; with `ue`
  it is uncorrectable (R351). -/
  | padError (core word : Nat) (ue : Bool)
  | hbmError (unit : Nat) (ue : Bool)
  | cacheError (g : Option Nat) (word : Nat) (ue : Bool)
  | canopyError (part handle byte : Nat) (ue : Bool)
  /-- Taproot sets or clears EINJ.EN of a cluster (R352). -/
  | einjEnable (g : Nat) (on : Bool)
deriving DecidableEq, Repr

/-- What moves next. The agenda of State lists moves where the spec leaves their order open; with an empty agenda the
machine's own order applies (Machine/Step.lean). -/
inductive Move where
  /-- An event of spec/opcode_table.json lands. Any other term of `Instr` here changes nothing. -/
  | event (e : Instr)
  /-- The clock goes on although an event could land. -/
  | pass
  /-- The agent sequencer issues the next instruction of an agent (R235). -/
  | agent (n : Nat)
  /-- The micro-kernel of a core takes and disposes of the next trap record (R294). -/
  | kernel (core : Nat)
  /-- Taproot performs the next command of the mailbox (R348). -/
  | taproot
  /-- The operation at the head of a copy or gather context goes on to the next 4 KiB of its destination, or to the next position of
  a WALK (R184, R320). -/
  | engine (k : Nat)
  /-- A party outside the module acts. -/
  | outside (o : Outside)
deriving DecidableEq, Repr

/-- The whole module. -/
structure State where
  agenda   : List Move
  /-- CYCLE of every core (R158), and the first core that has not had its turn in this cycle. -/
  cycle    : Nat
  coreTurn : Nat
  /-- The thread that tries to issue, its instruction word and the word's length in bytes. -/
  cur      : Nat
  insn     : BitVec 32
  insnLen  : Nat
  /-- The counter that free values are drawn by. -/
  freeCtr  : Nat
  /-- The page whose translation the engine access under way does not find; none between two steps (R331). -/
  xmiss    : Option Nat
  /-- Cores whose root slot executes code from memory instead of the described micro-kernel. -/
  rootCode : List Nat
  /-- FTIME at cycle 0, in ns (R5, R288). -/
  ftimeBase : Nat
  fwroot   : Word
  threads  : Table Thread
  nextUid  : Nat
  slots    : Table Nat
  cores    : Table Core
  pops     : Table Population
  nextPop  : Nat
  groups   : Table Group
  pad      : List Host.Cell
  padWords : Table PadWord
  banks    : Table (List BankReq)
  hbm      : List Host.Cell
  hostMem  : List Host.Cell
  /-- The key slot under which each 16-byte block of HBM was last written through a leaf (R328). -/
  hbmKeys  : Table Nat
  /-- 32-byte HBM units and 64-bit scratchpad words (core × 32,768 + word) that hold an error (R351), each with its kind:
  1 corrected when read, 2 uncorrectable; 3 and 4 the same two, injected (R352). -/
  badHbm   : List (Nat × Nat)
  badPad   : List (Nat × Nat)
  /-- 64-bit words of HBM (physical address / 8) that hold an error in a cache, each with its kind: 1 or 2 in the memory-side cache of
  a die, and 4 (g + 1) more in the cache of cluster g (R351). -/
  badCache : List (Nat × Nat)
  /-- Corrected errors of each HBM stack since the cores were released (R352), and the hourly health updates since then (R354). -/
  stackErrs : Table Nat
  healthHours : Nat
  /-- Write generations of registered 64 KiB frames (R335). -/
  gens     : Table Nat
  clusters : Table Cluster
  arrays   : Table ArrayState
  acc      : Table (BitVec 32)
  residencies : List Residency
  useClock : Nat
  tids     : Table (List Word)
  ctxs     : Table EngCtx
  graphs   : List Graph
  /-- Step views and draft views of the current iteration, by context descriptor (R189). -/
  views    : Table View
  drafts   : Table View
  nextOp   : Nat
  /-- Number of the next access that is held or requested at a bank. -/
  nextAcc  : Nat
  contexts : Table Context
  blocks   : Table Block
  nodes    : List Node
  nextNode : Nat
  agents   : Table Agent
  batch    : Table BatchEntry
  iters    : Table Iter
  /-- Bound model descriptors, keyed by ((partition × 4 + tenancy) × 65,536 + handle). -/
  models   : Table Model
  /-- Count of long instructions issued and of agents started or stopped. -/
  nextSeq  : Nat
  /-- Batches and reports that have arrived (R279). -/
  batchIn  : List Flit
  reportIn : List Flit
  /-- Number of this module in the fabric (R312). -/
  moduleNum : Nat
  /-- Flits on their way to this module, those it has sent, those parked (R323), and the acknowledgements received. -/
  linkIn   : List Flit
  linkOut  : List Flit
  parked   : List Flit
  acks     : List (Nat × Nat)
  /-- Remote writes to this module that failed: source module, operation, code (R179). -/
  badWrites : List (Nat × Nat × Nat)
  /-- The groups that a remote operation's writes have counted: source module, operation, groups (R336). -/
  remoteSeen : List (Nat × Nat × List Nat)
  /-- Collective chunks that have arrived and not been taken (R197). -/
  chunksIn : List Flit
  parts    : Table Part
  /-- The image that the latest save of a tenancy (partition × 4 + tenancy) wrote: its address and its number (R321). -/
  saves    : Table (Nat × Nat)
  /-- Completion records that each function's producers hold, oldest first: words 0 (without SEQ) to 7 (R344). -/
  cqHeld   : Table (List (List Word))
  /-- Threads that have tried to issue in the present core's turn (R159). -/
  tried    : List Nat
  /-- Load-balancing exchanges and probe ticks so far (R287, R306). -/
  balances : Nat
  ticks    : Nat
  /-- Lines of host memory for which the host answers with an error (R31). -/
  badHost  : List Nat
  /-- Submission queues (function × 16 + number), completion rings and MSI-X messages of each function, host timelines
  (function × 16 + n), and the answer and mailbox registers (R339, R342, R344, R345, R348). -/
  subqs    : Table SubQ
  cqs      : Table CompQ
  msi      : Table Nat
  htls     : Table Word
  xansval  : Word
  tparg    : Table Word
  tpstat   : Table Nat
  /-- Host functions that Taproot has frozen (R347). -/
  frozenFns : List Nat
  /-- Taproot (R346-R349): every core is released; recovery; the images in package flash, the running image and the staged
  one; the fused minimum SVN; MEAS0-MEAS7; the firmware region; cores that a breach has stopped. -/
  booted   : Bool
  recov    : Bool
  /-- A COMMIT waits for the root slots (R349), and mailbox commands for their turn: function and code, oldest first (R348). -/
  commitWait : Bool
  tpWait   : List (Nat × Nat)
  flash    : List Image
  running  : Option Image
  staged   : Option Image
  fuseSvn  : Nat
  meas     : Table (BitVec 256)
  fwBase   : Nat
  fwLimit  : Nat
  stopped  : List Nat
  /-- Health (R352, R354): LIFE, HSEL, and HDATA of each index. -/
  life     : Word
  hsel     : Nat
  health   : Table Word
deriving DecidableEq, Repr

/-! ### Reset -/

/-- A firmware image whose fields are all zero and whose signature is good (DESIGN CHOICE, unsafe, log entry 6: the spec states no
contents of package flash). -/
def blankImage : Image := ⟨true, 0, 0, 0, 0, 0, 0, 0, 0⟩

/-- The module right after reset (R286, R309-R316, R346): nothing executes before POWER_ON, no partition exists, and a table entry
that is not listed holds the reset state that its accessor in Machine/Ops.lean names. LIFE reads 0xFFFF DAYS (R354). -/
def State.reset : State where
  agenda := []
  cycle := 0
  coreTurn := 0
  cur := 0
  insn := 0
  insnLen := 2
  freeCtr := 0
  xmiss := none
  rootCode := []
  ftimeBase := 0
  fwroot := 0
  threads := []
  nextUid := 1024
  slots := []
  cores := []
  pops := []
  nextPop := 1
  groups := []
  pad := []
  padWords := []
  banks := []
  hbm := []
  hostMem := []
  hbmKeys := []
  badHbm := []
  badPad := []
  badCache := []
  stackErrs := []
  healthHours := 0
  gens := []
  clusters := []
  arrays := []
  acc := []
  residencies := []
  useClock := 0
  tids := []
  ctxs := []
  graphs := []
  views := []
  drafts := []
  nextOp := 0
  nextAcc := 0
  contexts := []
  blocks := []
  nodes := []
  nextNode := 1
  agents := []
  batch := []
  iters := []
  models := []
  nextSeq := 0
  batchIn := []
  reportIn := []
  moduleNum := 0
  linkIn := []
  linkOut := []
  parked := []
  acks := []
  badWrites := []
  remoteSeen := []
  chunksIn := []
  parts := []
  saves := []
  cqHeld := []
  tried := []
  balances := 0
  ticks := 0
  badHost := []
  subqs := []
  cqs := []
  msi := []
  htls := []
  xansval := 0
  tparg := []
  tpstat := []
  frozenFns := []
  booted := false
  recov := false
  commitWait := false
  tpWait := []
  flash := [blankImage, blankImage]
  running := none
  staged := none
  fuseSvn := 0
  meas := []
  fwBase := 0
  fwLimit := 0
  stopped := []
  life := 0xFFFF
  hsel := 0
  health := []

/-- Why a step stops the model. -/
inductive Fault where
  /-- Raised by an access whose HBM physical address lies at or beyond 384 GiB, where R10 gives no byte. Safe. -/
  | noSuchHbm
deriving DecidableEq, Repr

/-- Why the model gives no meaning. -/
inductive Refusal where
  /-- Raised by an arm of `exec` for an instruction whose meaning has not been written. Safe. -/
  | notModelled (mnemonic : String)
deriving DecidableEq, Repr

abbrev Result := Host.Outcome State Fault Refusal

end Sys2Proof.Machine
end

