-- ==== Sys2Proof/Machine/Ops.lean ====
section
/-! DEFINITION. Sys2Proof/Machine/Ops.lean: the named operations over registers, threads, cores and memory that every
meaning is written with; taking an exception and returning from one; and the frame `issue` that R24 and R27 put around
every core-level instruction. -/

namespace Sys2Proof.Machine

/-! ### Names of slots (R17): sid = 16 × core + slot, core = 8 g + c, g = 64 × die + cluster -/

def coreOf (sid : Nat) : Nat := sid / 16
def slotOf (sid : Nat) : Nat := sid % 16
def clusterOf (sid : Nat) : Nat := sid / 128
def dieOf (sid : Nat) : Nat := sid / 8192

/-! ### Threads -/

def zeroReg : Reg Word := ⟨0, true, false, false⟩
def zeroVReg : Reg VWord := ⟨0, true, false, false⟩

/-- A thread as R22 starts it, before its population's values are written. -/
def freshThread (sid part ten : Nat) : Thread where
  sid := sid
  part := part
  ten := ten
  pop := 0
  index := 0
  x := []
  v := []
  p := []
  pbad := 0
  q := []
  pc := 0
  wlim := 0
  latch := false
  lastTl := 0
  claim := none
  claimSent := none
  ext0 := 1
  ext1 := 1
  ext2 := 1
  sfuWords := []
  sfuSeq := 0
  held := false
  frozen := none
  frozeAt := 0
  record := none
  wfe := none
  norm := false
  notBefore := 0
  thaw := 0
  wait := none
  waitSince := 0
  returns := []
  heldOps := []
  answers := []
  bar := none
  groups := []
  triggered := false
  saved := false
  savedSync := []
  savedSfu := []
  savedBank := none
  savedLease := []

/-- The root slot of a core as R286 starts it: every register zero, full and not poisoned, at the firmware entry. -/
def rootThread (core : Nat) : Thread := { freshThread (core * 16) 0 0 with pc := Config.firmwareEntry }

/-- The thread with number `t`. The root slot of core k is thread k (R285). -/
def State.thr (s : State) (t : Nat) : Thread := Table.get s.threads t (rootThread t)

def State.setThr (s : State) (t : Nat) (th : Thread) : State := { s with threads := Table.set s.threads t th }

def State.modThr (s : State) (t : Nat) (f : Thread → Thread) : State := s.setThr t (f (s.thr t))

/-- The thread that tries to issue. -/
def State.me (s : State) : Thread := s.thr s.cur

/-- The thread still exists: it is a root slot, or it has neither exited nor been killed. -/
def State.alive (s : State) (t : Nat) : Bool := decide (t < Config.cores) || Table.has s.threads t

/-- Slot 0 of a core: supervisor mode (R285). -/
def Thread.isRoot (th : Thread) : Bool := th.sid % 16 = 0

/-- The thread that a slot holds. -/
def State.slotThread (s : State) (sid : Nat) : Option Nat :=
  if sid % 16 = 0 then some (sid / 16) else Table.find? s.slots sid

/-! ### Registers (R21, R28) -/

/-- x0 is zero, full and not poisoned in every state. -/
def Thread.getX (th : Thread) (r : Nat) : Reg Word := if r = 0 then zeroReg else Table.get th.x r zeroReg

/-- A write to x0 is discarded. -/
def Thread.setX (th : Thread) (r : Nat) (v : Reg Word) : Thread :=
  if r = 0 then th else { th with x := Table.set th.x r v }

def Thread.getV (th : Thread) (r : Nat) : Reg VWord := Table.get th.v r zeroVReg

def Thread.setV (th : Thread) (r : Nat) (v : Reg VWord) : Thread := { th with v := Table.set th.v r v }

/-- p0 starts as all ones, p1-p7 as zero (R22). -/
def Thread.getP (th : Thread) (r : Nat) : PWord :=
  Table.get th.p r (if r = 0 then BitVec.allOnes 256 else 0)

/-- A write of a predicate clears its poison flag (R31). -/
def Thread.setP (th : Thread) (r : Nat) (v : PWord) : Thread :=
  { th with p := Table.set th.p r v, pbad := th.pbad &&& ~~~(1#8 <<< r) }

/-- The contents of an x register in any state of its full bit (R25). -/
def Thread.xval (th : Thread) (r : Nat) : Word := (th.getX r).val

def Thread.vval (th : Thread) (r : Nat) : VWord := (th.getV r).val

/-- The latest window write of a register that has not landed (R160). -/
def Thread.windowWrite (th : Thread) (d : Dest) : Option Return :=
  th.returns.reverse.find? fun w => w.writer = .window && w.dest = d

/-- The contents of a register as a window load finds them: those of the latest write that is performed (R164, R171). -/
def Thread.xseen (th : Thread) (r : Nat) : Word :=
  if r = 0 then 0 else ((th.windowWrite (.x r)).map (·.xval)).getD (th.xval r)

def Thread.vseen (th : Thread) (r : Nat) : VWord := ((th.windowWrite (.v r)).map (·.vval)).getD (th.vval r)

/-- The value that a source reads (R28). -/
def State.rx (s : State) (a : Src) : Word := s.me.xval a.reg

def State.rv (s : State) (r : Nat) : VWord := s.me.vval r

def State.rp (s : State) (r : Nat) : PWord := s.me.getP r

/-- An immediate producer writes its destination full; any full write clears the poison flag (R25, R31). -/
def State.wx (s : State) (r : Nat) (v : Word) : State := s.modThr s.cur (·.setX r ⟨v, true, false, false⟩)

def State.wv (s : State) (r : Nat) (v : VWord) : State := s.modThr s.cur (·.setV r ⟨v, true, false, false⟩)

def State.wp (s : State) (r : Nat) (v : PWord) : State := s.modThr s.cur (·.setP r v)

/-- A take source is marked empty (R24 step 1); its contents stay readable (R25). -/
def Thread.emptyX (th : Thread) (r : Nat) : Thread := th.setX r { th.getX r with full := false }

/-- A deferred destination is marked empty and pending (R24 step 2, R25). -/
def Thread.deferX (th : Thread) (r : Nat) : Thread := th.setX r { th.getX r with full := false, pend := true }

def Thread.deferV (th : Thread) (r : Nat) : Thread := th.setV r { th.getV r with full := false, pend := true }

def State.deferX (s : State) (r : Nat) : State := s.modThr s.cur (·.deferX r)

def State.deferV (s : State) (r : Nat) : State := s.modThr s.cur (·.deferV r)

/-- STATUS.POIS: some register is full and poisoned (R23, R31). -/
def Thread.anyPoison (th : Thread) : Bool :=
  th.x.any (fun e => e.1 ≠ 0 && e.2.full && e.2.poison) || th.v.any (fun e => e.2.full && e.2.poison) || th.pbad ≠ 0

/-- STATUS in the layout of R23. In the root slot PART and SLOT read 0 (R285). -/
def Thread.status (th : Thread) : Word :=
  word (th.wlim.toNat * 2 ^ 32 + th.part % 16 * 2 ^ 8 + th.sid % 16 * 2 ^ 4 + b2n th.anyPoison * 2 + b2n th.isRoot)

/-- The next pc after an instruction of the length that was fetched. -/
def State.advance (s : State) : State := s.modThr s.cur fun th => { th with pc := th.pc + word s.insnLen }

def State.jump (s : State) (pc : Word) : State := s.modThr s.cur fun th => { th with pc := pc }

/-! ### Cores, clusters and partitions -/

def freshCore : Core where
  events := []
  divs := []
  normCur := none
  normQ := []
  sfuQ := []
  sfuRun := []
  sfuLast := none
  sfuWait := []
  sort := none
  psel := 1
  tqbase := 0
  tqcnt := 0
  tqtaken := 0
  rvec := 0
  repc := 0
  rcause := 0
  raddr := 0
  trapcfg := 0
  records := []
  launch := []
  probes := []
  tlb := []
  kfill := none
  kposts := []

def State.core (s : State) (k : Nat) : Core := Table.get s.cores k freshCore

def State.modCore (s : State) (k : Nat) (f : Core → Core) : State :=
  { s with cores := Table.set s.cores k (f (s.core k)) }

def State.myCore (s : State) : Nat := coreOf s.me.sid

def freshCluster : Cluster where
  tlb := []
  misses := []
  admitted := []
  ovf := 0
  elog := []
  elogsel := 0
  ecnt := 0
  einj := 0

def State.cluster (s : State) (g : Nat) : Cluster := Table.get s.clusters g freshCluster

def State.modCluster (s : State) (g : Nat) (f : Cluster → Cluster) : State :=
  { s with clusters := Table.set s.clusters g (f (s.cluster g)) }

/-- The registers of a partition that Taproot has not created, with the resets of R309-R316, R325 and R332. -/
def freshPart : Part where
  pslots := 0
  pbanks := 0
  glo := 0
  ghi := 0
  hbmBase := 0
  hbmLimit := 0
  pbnBase := 0
  pbnLimit := 0
  keys := [0, 0, 0, 0]
  fabkey := 0
  cdBase := 0
  cdLimit := 0
  kvbase := 0
  itercfg := word (8192 * 2 ^ 32 + 512)
  agcfg := word (4096 * 2 ^ 32 + 65536)
  blkquota := 0xFFFFFFFF
  canquota := []
  rtidx := 0
  rank := []
  gmask := 0
  cur := 0
  res := 1
  tsave := []
  switchat := 0
  swErr := 0
  swState := 0
  swTgt := 0
  loaded := false
  gErr := 0
  gState := 0
  gTgt := 0
  gFor := 0
  gswtime := 0
  gBound := 0
  handed := []
  incoming := 0
  modtab := []
  btarea := 0
  samparea := 0
  pendingCfg := []
  ptroot := []
  xinvSeq := 0
  xinvDone := 0
  invals := []
  cntcfg := 0
  nqbase := 0
  nqhead := 0
  nqtail := 0
  nqovf := 0
  cnttab := []

def State.part (s : State) (p : Nat) : Part := Table.get s.parts p freshPart

def State.modPart (s : State) (p : Nat) (f : Part → Part) : State := { s with parts := Table.set s.parts p (f (s.part p)) }

/-- A partition exists while its PSLOTS is not 0 (R310). -/
def State.partExists (s : State) (p : Nat) : Bool := (s.part p).pslots ≠ 0

/-- A switch of the partition is under way (R317, R326). -/
def Part.switching (p : Part) : Bool := p.swState = 2 || p.swState = 3 || p.gState = 4

/-- Fabric time in ns: 1.1 GHz cycles from the base that the fabric gives (R5, R288). -/
def State.ftime (s : State) : Nat := s.ftimeBase + s.cycle * 10 / 11

/-- An event counter stops at 0xFFFF_FFFF (R100, R101). -/
def State.countEvent (s : State) (core idx : Nat) : State :=
  s.modCore core fun c => { c with events := Table.set c.events idx (min (Table.get c.events idx 0 + 1) 0xFFFFFFFF) }

/-- Counts event `idx` when the condition holds. -/
def State.countIf (s : State) (c : Bool) (core idx : Nat) : State := if c then s.countEvent core idx else s

/-! ### Completion records (R344) -/

/-- Word 0 of a completion record, without SEQ. -/
def recordHead (ty ten part : Nat) : Word := word (ty * 2 ^ 56 + ten % 4 * 2 ^ 20 + part % 16 * 2 ^ 16)

/-- The function that a partition's records go to: its bound VF, or the PF. VF p is bound to partition p while that
partition exists (DESIGN CHOICE, log entry 8). -/
def State.boundFn (s : State) (p : Nat) : Nat := if s.partExists p then p else 0

/-- Holds a completion record for a function, in order (R344). -/
def State.postTo (s : State) (fn : Nat) (r : List Word) : State :=
  { s with cqHeld := Table.set s.cqHeld fn (Table.get s.cqHeld fn [] ++ [r]) }

/-- The completion ring of a function (R344). -/
def freshCq : CompQ := ⟨0, false, 0, 0, 0⟩

def State.cq (s : State) (fn : Nat) : CompQ := Table.get s.cqs fn freshCq

/-! ### Traps (R289-R293) -/

/-- The event counter of a trap class (R289). -/
def trapCounter (cls : Nat) : Option Nat :=
  if cls = 0 then none else if cls ≤ 10 then some (cls + 4) else if cls ≤ 14 then some 15 else none

/-- Word 0x00 of a trap record without SEQ (R291). -/
def recordWord0 (detail cls ten part slot : Nat) : Nat :=
  detail % 65536 * 2 ^ 24 + cls % 256 * 2 ^ 16 + ten % 4 * 2 ^ 14 + part % 16 * 2 ^ 8 + slot % 16 * 2 ^ 4

/-- The run of a thread that no longer drives the array ends (R138 item 3). -/
def State.endRunOf (s : State) (t : Nat) : State :=
  let g := clusterOf (s.thr t).sid
  match Table.find? s.arrays g with
  | some a =>
    match a.running with
    | some l => if Table.find? a.holder l = some t then
        { s with arrays := Table.set s.arrays g { a with running := none, last := l } } else s
    | none => s
  | none => s

/-- The thread waits for no translation any more (R331): no answer reaches it later. -/
def State.forgetMisses (s : State) (t : Nat) : State :=
  { s with clusters := Table.mapVals s.clusters fun cl => { cl with
      admitted := cl.admitted.filter (· ≠ .thread t)
      misses := cl.misses.map fun m => { m with waiters := m.waiters.filter (· ≠ .thread t) } } }

/-- Freezes a thread and queues its record (R290-R292). Its instruction has ended, and with it what that waited for (R331). -/
def State.freeze (s : State) (t cls : Nat) (pc : Word) (rec : List Word) : State :=
  let s := (s.forgetMisses t).modThr t fun th =>
    { th with frozen := some cls, frozeAt := s.cycle, record := some rec, pc := pc, wait := none, answers := [] }
  (s.modCore (coreOf (s.thr t).sid) fun c => { c with records := c.records ++ [rec] }).endRunOf t

/-- The root slot of a core takes an exception: REPC, RCAUSE and RADDR are written, and it goes on at RVEC (R293), bit 0 of
which is left out, as bit 0 of a pc is always zero (R32; DEDUCED, log entry 50). -/
def State.rootTrap (s : State) (t : Nat) (pc : Word) (w0 : Nat) (info : Word) : State :=
  let core := coreOf (s.thr t).sid
  let seq := (s.core core).tqcnt % 2 ^ 24
  let s := (s.forgetMisses t).modCore core fun c => { c with repc := pc, rcause := word (seq * 2 ^ 40 + w0), raddr := info }
  s.modThr t fun th => { th with pc := (s.core core).rvec &&& ~~~1, wait := none, answers := [] }

/-- What `walk` answers where KEY alone makes a leaf MALFORMED: cause 4 in the 16 bits of DETAIL, and a breach of the
partition's bounds (R329, R347). -/
def keyBreach : Nat := 65536 + 4

/-- A user thread's trap that comes of the window, region or key rule (R17, R329, R347). -/
def breach (cls detail : Nat) : Bool := cls = 5 || (cls = 6 && (detail = 5 || detail = keyBreach))

/-- Taproot posts the TAPROOT record of a master that breaks its bounds (R347): event 1, and the master, whose place and form among
the record's details the spec does not give (DESIGN CHOICE, log entry 70). -/
def State.postBreach (s : State) (ten part master : Nat) : State :=
  s.postTo 0 [recordHead 9 ten part, 1, word master, 0, 0, 0, 0, 0]

/-- TAKING AN EXCEPTION. A user slot is frozen from the next cycle with its trap record queued for the root slot of its core;
the root slot writes REPC, RCAUSE and RADDR and goes on at RVEC (R290, R293). The pc that is saved is that of the trapping
instruction, and for TRAP and BRK (classes 12 and 13) that of the next one. A user thread's breach of its bounds is reported
(R347). -/
def State.takeTrap (s : State) (cls detail : Nat) (info : Word) : State :=
  let th := s.me
  let core := coreOf th.sid
  let pc := if cls = 12 ∨ cls = 13 then th.pc + word s.insnLen else th.pc
  let w0 := recordWord0 detail cls th.ten th.part (slotOf th.sid)
  let s := match trapCounter cls with
    | some i => s.countEvent core i
    | none => s
  if th.isRoot then s.rootTrap s.cur pc w0 info
  else
    let s := if breach cls detail then s.postBreach th.ten th.part th.sid else s
    s.freeze s.cur cls pc [word w0, th.pc &&& 0xFFFFFFFFFFFF, s.insn.setWidth 64, info]

/-- RETURNING FROM AN EXCEPTION (R300): a frozen thread is ready from the next cycle, at its saved pc, with its latch set.
A thread that is also held stays held. On a thread that is not frozen it has no effect. -/
def State.eretTo (s : State) (t : Nat) : State :=
  if (s.thr t).frozen.isSome then
    s.modThr t fun th => { th with
        frozen := none, record := none, latch := true, notBefore := max th.notBefore (s.cycle + 1), thaw := s.cycle + 1 }
  else s

/-! ### The frame around every core-level instruction (R24, R27) -/

/-- What an instruction does at a turn once its sources allow it to go on. -/
inductive Verdict where
  /-- It issues, and this is the state after its effects. -/
  | go (s : State)
  /-- It traps (class, DETAIL, INFO) with no effect (R27). -/
  | trap (cls detail : Nat) (info : Word)
  /-- It traps, and the attempt leaves an entry in an error log (R144, R353); `f` adds it to the state before the attempt. -/
  | trapAfter (cls detail : Nat) (info : Word) (f : State → State)
  /-- It does not issue: it waits for a shared resource. `f` adds what the attempt leaves behind (a translation request, a
  claim that has been sent, an arrival) to the state before the attempt. -/
  | park (w : Wait) (f : State → State)
  /-- The model stops. -/
  | stop (f : Fault)

/-- What an instruction reads and writes, as far as R24, R28 and R31 look at it. -/
structure Needs where
  /-- Scalar sources with their modes. -/
  src : List Src := []
  /-- Vector sources; they use wait (R28). -/
  vs  : List Nat := []
  /-- Predicate sources, the governing predicate among them; they always read full (R25). -/
  ps  : List Nat := []
  /-- Scalar and vector destinations. -/
  dx  : List Nat := []
  dv  : List Nat := []

def Src.waits (a : Src) : Bool :=
  match a.mode with
  | .wait | .take => true
  | .chk | .raw => false

/-- The scalar registers that keep the instruction from issuing (R24). -/
def Needs.xBlock (n : Needs) (th : Thread) : List Nat :=
  ((n.src.filter fun a => Src.waits a && !(th.getX a.reg).full).map (·.reg)) ++ n.dx.filter fun r => (th.getX r).pend

/-- Some vector register keeps the instruction from issuing (R24). -/
def Needs.vBlock (n : Needs) (th : Thread) : Bool :=
  n.vs.any (fun r => !(th.getV r).full) || n.dv.any (fun r => (th.getV r).pend)

def Needs.blocked (n : Needs) (th : Thread) : Bool := !(n.xBlock th).isEmpty || n.vBlock th

/-- A chk source is empty (R28). -/
def Needs.chkEmpty (n : Needs) (th : Thread) : Bool :=
  n.src.any fun a => a.mode = .chk && !(th.getX a.reg).full

/-- A source is full and poisoned (R31). -/
def Needs.poisoned (n : Needs) (th : Thread) : Bool :=
  n.src.any (fun a => (th.getX a.reg).full && (th.getX a.reg).poison) ||
    n.vs.any (fun r => (th.getV r).full && (th.getV r).poison) || n.ps.any fun r => th.pbad.getLsbD r

/-- Marks every take source empty (R24 step 1). -/
def Needs.marks (n : Needs) (th : Thread) : Thread :=
  (n.src.filter fun a => a.mode = .take).foldl (fun th a => th.emptyX a.reg) th

def State.take (s : State) (n : Needs) : State := s.modThr s.cur n.marks

/-- The wait that a thread publishes stands on: it is the same, or some register of it still blocks the instruction (R305, R306). -/
def Wait.stands (old new : Wait) : Bool :=
  old = new || match old, new with
    | .regs xs, .regs ys => xs.any ys.contains
    | _, _ => false

/-- Records why the thread did not issue, keeping the cycle since which its published wait has stood (R306). -/
def State.parkOn (s : State) (w : Wait) : State :=
  s.modThr s.cur fun th =>
    { th with wait := some w, waitSince := if th.wait.any (·.stands w) then th.waitSince else s.cycle }

/-- The thread has issued: it waits for nothing, and the answers held for the instruction go (R331). -/
def State.issued (s : State) : State :=
  if s.alive s.cur then s.modThr s.cur fun th => { th with wait := none, answers := [] } else s

/-- Ends an attempt that started in state `s0`. -/
def Verdict.close (v : Verdict) (s0 : State) : Result :=
  match v with
  | .go s => .next s.issued
  | .trap cls detail info => .next (s0.takeTrap cls detail info)
  | .trapAfter cls detail info f => .next ((f s0).takeTrap cls detail info)
  | .park w f => .next ((f s0).parkOn w)
  | .stop f => .fault f

/-- One attempt of the current thread to issue an instruction, in the order of R27: the park of R24, the empty-register
trap, the poison trap, and then the instruction's own checks and effects, which see the take sources marked empty. -/
def issue (n : Needs) (k : State → Verdict) (s : State) : Result :=
  if n.blocked s.me then .next (s.parkOn (.regs (n.xBlock s.me)))
  else if n.chkEmpty s.me then .next (s.takeTrap 7 0 0)
  else if n.poisoned s.me then .next (s.takeTrap 8 0 0)
  else (k (s.take n)).close s

/-- An instruction with no condition beyond R24, R28 and R31: it issues and does `f`, and the pc moves past it. -/
def issueSimple (n : Needs) (f : State → State) (s : State) : Result := issue n (fun s => .go (f s).advance) s

/-- As `issue`, for a member that user mode may not run: the privileged trap comes before any source (R27, R40, R46). -/
def issueRoot (n : Needs) (k : State → Verdict) (s : State) : Result :=
  if s.me.isRoot then issue n k s else .next (s.takeTrap 2 0 0)

/-! ### Deferred producers land (R25) -/

def State.addReturn (s : State) (t : Nat) (r : Return) : State :=
  s.modThr t fun th => { th with returns := th.returns ++ [r] }

/-- A deferred producer of thread `t` writes its x destination full, which sets the slot's event latch (R25, R298). A write
to x0 is discarded, and a write for a thread that has ended lands nowhere. -/
def State.landX (s : State) (t r : Nat) (v : Word) (poison : Bool) : State :=
  if s.alive t && r ≠ 0 then s.modThr t fun th => { (th.setX r ⟨v, true, poison, false⟩) with latch := true } else s

def State.landV (s : State) (t r : Nat) (v : VWord) (poison : Bool) : State :=
  if s.alive t then s.modThr t fun th => { (th.setV r ⟨v, true, poison, false⟩) with latch := true } else s

/-- A token of thread `t` is written in the turn of an instruction: of that instruction's own thread at once, and of another one at
the end of the cycle, so that no later turn of the cycle reads it (R30, R160). -/
def State.answerToken (s : State) (t r : Nat) (v : Word) : State :=
  if t = s.cur then s.landX t r v false
  else if s.alive t then s.addReturn t ⟨.x r, v, 0, false, .token⟩ else s

end Sys2Proof.Machine
end

