-- ==== Sys2Proof/Machine/Braid.lean ====
section
/-! DEFINITION. Sys2Proof/Machine/Braid.lean: the live graphs of the Braid and what a pop or a push of a dispatch port does to them
(R199). -/

namespace Sys2Proof.Machine

/-- Live graphs of a partition in the Braid of a die, in the order of acceptance. -/
def State.liveGraphs (s : State) (die part ten : Nat) : List Graph :=
  s.graphs.filter fun g => g.die = die && g.part = part && g.ten = ten

/-- Ready tasks of a graph: counter 0 and not dispatched. -/
def Graph.ready (g : Graph) : List Nat :=
  (List.range g.stage.length).filter fun i => g.stage.getD i 1 = 0 && g.count.getD i 1 = 0

/-- The task that a pop of the dispatch port takes: the lowest ready index of the earliest graph (R199). -/
def State.braidNext (s : State) (die part ten : Nat) : Option (Graph × Nat) :=
  (s.liveGraphs die part ten).findSome? fun g => g.ready.head?.map fun i => (g, i)

def State.braidHeld (s : State) (die part ten : Nat) : Nat :=
  ((s.liveGraphs die part ten).map fun g => g.ready.length).sum

/-- Replaces the first graph equal to `g`. -/
def replaceGraph (g g' : Graph) : List Graph → List Graph
  | [] => []
  | x :: xs => if x = g then g' :: xs else x :: replaceGraph g g' xs

/-- Dispatches a task: the word is the address of its entry. -/
def State.braidPop (s : State) (g : Graph) (i : Nat) : Word × State :=
  (word (g.addr + 32 + 16 * i), { s with graphs := replaceGraph g { g with stage := g.stage.set i 1 } s.graphs })

/-- A completion push (R199): the successor's counter falls; with every task complete the token receives NTASK. A word that
names no dispatched task is discarded. -/
def State.braidPush (s : State) (die part ten : Nat) (w : Word) : State :=
  let names := fun (g : Graph) => (List.range g.stage.length).find? fun i =>
    g.stage.getD i 0 = 1 && word (g.addr + 32 + 16 * i) = w
  match (s.liveGraphs die part ten).findSome? fun g => (names g).map fun i => (g, i) with
  | none => s
  | some (g, i) =>
    let su := g.succ.getD i 0xFFFF
    let g' := { g with stage := g.stage.set i 2, count := g.count.set su (g.count.getD su 1 - 1) }
    if g'.stage.all (· = 2) then
      State.answerToken { s with graphs := s.graphs.erase g } g.t g.tok (word g.stage.length)
    else { s with graphs := replaceGraph g g' s.graphs }

end Sys2Proof.Machine
end

