-- ==== Sys2Proof/Machine/Access.lean ====
section
/-! DEFINITION. Sys2Proof/Machine/Access.lean: memory accesses: where an address leads (R16, R17, R327-R331, R355), reading
and writing bytes there with their error states (R31, R351-R353) and write generations (R147, R335), the full/empty requests
of scratchpad banks (R60-R66), and the order in which one thread's accesses are performed (R26, R65). -/

namespace Sys2Proof.Machine

/-! ### Errors (R351-R353) -/

/-- Who makes an access, as the error log names it (R352). -/
structure Ctx where
  /-- The core of the master (R347); an engine is one of its cluster's. -/
  core : Nat
  part : Nat
  ten  : Nat
  /-- KIND [7] and ID [6:0] of ELOGB. -/
  id   : Nat

/-- The cluster whose error log names the access. -/
def Ctx.g (c : Ctx) : Nat := c.core / 8

def Thread.ctx (th : Thread) : Ctx := ⟨coreOf th.sid, th.part, th.ten, th.sid % 128⟩

/-- The lowest-numbered free entry of an error log of 16: one whose V is 0 (R352, R353). -/
def freeLog (t : Table (Word × Word)) : Option Nat := (List.range 16).find? fun i => !bit (Table.get t i (0, 0)).1 63

/-- Saturating counters of ECNT: OVF [63:48], UE [47:32], CE [31:0] (R352). -/
def ecntAdd (w : Word) (ovf ue ce : Nat) : Word :=
  word (min (bits w 63 48 + ovf) 0xFFFF * 2 ^ 48 + min (bits w 47 32 + ue) 0xFFFF * 2 ^ 32 + min (bits w 31 0 + ce) 0xFFFFFFFF)

/-- The HBM stack of a physical address: stacks of 48 GiB in rising order (R10; DESIGN CHOICE, log entry 76: the spec gives no order). -/
def stackOf (a : Nat) : Nat := a / (48 * 2 ^ 30)

/-- A corrected error of HBM counts for its stack, whose DRIFT reads the errors of a day (R352, R354). -/
def State.countStack (s : State) (ue : Bool) (unit a : Nat) : State :=
  if !ue && unit = 3 then { s with stackErrs := Table.set s.stackErrs (stackOf a) (Table.get s.stackErrs (stackOf a) 0 + 1) } else s

/-- Logs and counts one error (R353). An uncorrectable one also posts an MERR record to the PF: the log entry from word 1 on (R344).
The syndrome is a free value. Units: 1 scratchpad, 2 Canopy, 3 HBM, 4 array operand, 5 cluster cache, 6 memory-side cache. -/
def State.logError (s : State) (c : Ctx) (ue inj : Bool) (unit addr : Nat) : State :=
  let synd := bits (Config.freeWord s.freeCtr) 7 0
  let a := word (2 ^ 63 + b2n ue * 2 ^ 62 + b2n inj * 2 ^ 61 + unit * 2 ^ 56 + addr % 2 ^ 48)
  let b := word (synd * 2 ^ 24 + c.ten % 4 * 2 ^ 22 + c.part % 16 * 2 ^ 16 + c.id % 256)
  let cl := s.cluster c.g
  let s := match freeLog cl.elog with
    | some i => s.modCluster c.g fun cl => { cl with
        elog := Table.set cl.elog i (a, b), ecnt := ecntAdd cl.ecnt 0 (b2n ue) (b2n (!ue)) }
    | none => s.modCluster c.g fun cl => { cl with ecnt := ecntAdd cl.ecnt 1 (b2n ue) (b2n (!ue)) }
  let s := State.countStack { s with freeCtr := s.freeCtr + 1 } ue unit addr
  if ue then s.postTo 0 [recordHead 10 c.ten c.part, a, b, 0, 0, 0, 0, 0] else s

/-- The 32-byte units of HBM that `n` bytes from `a` touch, and the 64-bit words of a scratchpad (R351). -/
def units (sz a n : Nat) : List Nat := (List.range ((a + n - 1) / sz - a / sz + 1)).map (a / sz + ·)

/-- Kinds of errors in units (State): 1 and 3 are corrected when read, 2 and 4 uncorrectable; 3 and 4 are injected. -/
def uncorrectable (k : Nat) : Bool := k % 2 = 0
def injected (k : Nat) : Bool := 3 ≤ k

/-- Errors in the units named. -/
def errorsIn (l : List (Nat × Nat)) (us : List Nat) : List (Nat × Nat) := l.filter fun e => us.contains e.1

/-- Window offset of a scratchpad byte within its cluster block (R17). -/
def padOffset (core off : Nat) : Nat := core % 8 * 0x40000 + off

/-! ### Places -/

def Place.add : Place → Nat → Place
  | .hbm a, k => .hbm (a + k)
  | .page key a, k => .page key (a + k)
  | .host a, k => .host (a + k)
  | .pad c o, k => .pad c (o + k)
  | .acc b o, k => .acc b (o + k)
  | .xreg t r o, k => .xreg t r (o + k)
  | .vreg t r o, k => .vreg t r (o + k)
  | .nothing, _ => .nothing
  | .data bs bad, k => .data (bs.drop k) bad

/-- The physical HBM address of a place. -/
def Place.phys : Place → Option Nat
  | .hbm a | .page _ a => some a
  | .host _ | .pad _ _ | .acc _ _ | .xreg _ _ _ | .vreg _ _ _ | .nothing | .data _ _ => none

/-- Two runs of bytes share one: `n` bytes at the first place and `m` at the second. -/
def Place.meets : Place → Nat → Place → Nat → Bool
  | .hbm a, n, q, m | .page _ a, n, q, m =>
    match q.phys with
    | some b => decide (a < b + m) && decide (b < a + n) && decide (0 < n) && decide (0 < m)
    | none => false
  | .host a, n, .host b, m => decide (a < b + m) && decide (b < a + n) && decide (0 < n) && decide (0 < m)
  | .pad c a, n, .pad d b, m => c = d && decide (a < b + m) && decide (b < a + n) && decide (0 < n) && decide (0 < m)
  | .acc c a, n, .acc d b, m => c = d && decide (a < b + m) && decide (b < a + n) && decide (0 < n) && decide (0 < m)
  | .xreg t r _, _, .xreg u q _, _ => t = u && r = q
  | .vreg t r _, _, .vreg u q _, _ => t = u && r = q
  | .host _, _, _, _ | .pad _ _, _, _, _ | .acc _ _, _, _, _ | .xreg _ _ _, _, _, _ | .vreg _ _ _, _, _, _
  | .nothing, _, _, _ | .data _ _, _, _, _ => false

/-- Elements of an accumulator bank: 131,072 F32 values, +0 when not listed (R136). -/
def State.accAt (s : State) (bank i : Nat) : BitVec 32 := Table.get s.acc (bank * 131072 + i) 0

/-- A 16-byte block of HBM as it reads under a key slot (R328): one that was last written under another slot reads as a free
function of the two slots, the block and its contents. An access without a key, and a block that no leaf has written, meet the
bytes as they were written (DESIGN CHOICE, log entry 60). -/
def State.blockUnder (s : State) (key u : Nat) : List Byte :=
  match Table.find? s.hbmKeys u with
  | some k =>
    if k = key then Memory.readBytes s.hbm (16 * u) 16
    else leBytes 16 (Config.xts k key u (BitVec.ofNat 128 (Memory.readLe s.hbm (16 * u) 16))).toNat
  | none => Memory.readBytes s.hbm (16 * u) 16

/-- Before a write under a key slot, each block that it touches comes under that slot: what stays of a block reads as it did. -/
def State.rekey (s : State) (key a n : Nat) : State :=
  (units 16 a n).foldl (fun s u =>
    if Table.find? s.hbmKeys u = some key then s
    else { s with hbmKeys := Table.set s.hbmKeys u key, hbm := Memory.writeBytes s.hbm (16 * u) (s.blockUnder key u) }) s

def State.readByte (s : State) : Place → Byte
  | .hbm a => Memory.read s.hbm a
  | .page key a =>
    if (Table.find? s.hbmKeys (a / 16)).all (· = key) then Memory.read s.hbm a
    else (s.blockUnder key (a / 16)).getD (a % 16) 0
  | .host a => Memory.read s.hostMem a
  | .pad c o => Memory.read s.pad (c * Config.padBytes + o)
  | .acc b o => BitVec.ofNat 8 ((s.accAt b (o / 4)).toNat / 256 ^ (o % 4))
  | .xreg t r o => BitVec.ofNat 8 (((s.thr t).xseen r).toNat / 256 ^ o)
  | .vreg t r o => BitVec.ofNat 8 (((s.thr t).vseen r).toNat / 256 ^ o)
  | .nothing => 0
  | .data bs _ => bs.headD 0

def State.readAt (s : State) (p : Place) : Nat → List Byte
  | 0 => []
  | n + 1 => s.readByte p :: s.readAt (p.add 1) n

/-- The accumulator bank's fault flag: its cause, 0 when clear (R136). -/
def State.bankFault (s : State) (bank : Nat) : Nat :=
  match Table.find? s.arrays (bank / 4) with
  | some a => Table.get a.fault (bank % 4) 0
  | none => 0

/-- Bytes of one host response: a line of 64 bytes, for which the host answers with an error as a whole (DESIGN CHOICE, log entry
51: the spec states no size). -/
def hostLine : Nat := 64

/-- The bytes carry an uncorrectable error, an error response of the host, a bank fault, or a poisoned register (R31, R136,
R351). -/
def State.badAt (s : State) (p : Place) (n : Nat) : Bool :=
  match p with
  | .hbm a | .page _ a => (s.badHbm.any fun e => uncorrectable e.2 && (units 32 a n).contains e.1) ||
      s.badCache.any fun e => uncorrectable e.2 && (units 8 a n).contains e.1
  | .pad c o => s.badPad.any fun e => uncorrectable e.2 && (units 8 (c * 262144 + o) n).contains e.1
  | .acc b _ => s.bankFault b ≠ 0
  | .xreg t r _ => ((s.thr t).windowWrite (.x r)).isNone && ((s.thr t).getX r).full && ((s.thr t).getX r).poison
  | .vreg t r _ => ((s.thr t).windowWrite (.v r)).isNone && ((s.thr t).getV r).full && ((s.thr t).getV r).poison
  | .host a => s.badHost.any fun u => (units hostLine a n).contains u
  | .data _ bad => bad
  | .nothing => false

/-- An error response of the host is logged as an uncorrectable error (R31, R32, R144). R352 numbers no unit for the host: UNIT is a
free value (DESIGN CHOICE, log entry 51). -/
def State.logHostError (s : State) (c : Ctx) (addr : Nat) : State :=
  State.logError { s with freeCtr := s.freeCtr + 1 } c true false (bits (Config.freeWord s.freeCtr) 3 0) addr

/-- An error of a cache (State): a memory-side cache's is logged in the cluster whose access finds it, and that of a cluster's cache in
that cluster (R353). -/
def State.logCache (s : State) (c : Ctx) (e : Nat × Nat) : State :=
  if e.2 < 4 then s.logError c (uncorrectable e.2) false 6 (e.1 * 8)
  else s.logError { c with core := (e.2 / 4 - 1) * 8 } (uncorrectable e.2) false 5 (e.1 * 8)

/-- A read that finds errors logs each of them (R351, R353). -/
def State.noteRead (s : State) (c : Ctx) (p : Place) (n : Nat) : State :=
  match p with
  | .host a => ((units hostLine a n).filter s.badHost.contains).foldl (fun s u => s.logHostError c (u * hostLine)) s
  | .hbm a | .page _ a => (errorsIn s.badCache (units 8 a n)).foldl (fun s e => s.logCache c e)
      ((errorsIn s.badHbm (units 32 a n)).foldl (fun s e => s.logError c (uncorrectable e.2) (injected e.2) 3 (e.1 * 32)) s)
  | .pad k o => (errorsIn s.badPad (units 8 (k * 262144 + o) n)).foldl
      (fun s e => s.logError { c with core := k % 1024 } (uncorrectable e.2) (injected e.2) 1 (padOffset k (e.1 % 32768 * 8))) s
  | .acc _ _ | .xreg _ _ _ | .vreg _ _ _ | .nothing | .data _ _ => s

/-- Raises the write generation of a registered frame, which makes stale every residency that remembers an older one
(R147, R335). -/
def State.raise (s : State) (frame : Nat) : State :=
  match Table.find? s.gens frame with
  | some n => { s with
      gens := Table.set s.gens frame (n + 1)
      residencies := s.residencies.map fun r =>
        let older := fun (l : List (Nat × Nat)) => l.any fun e => e.1 = frame && decide (e.2 < n + 1)
        let r := if older r.gens then { r with stale := true } else r
        match r.fill with
        | some f => if older f.gens then { r with stale := true, fill := some { f with raised := true } } else r
        | none => r }
  | none => s

/-- A unit that a write covers whole. -/
def covered (sz a n u : Nat) : Bool := decide (a ≤ u * sz) && decide (u * sz + sz ≤ a + n)

/-- EINJ: EN [61], ARM [60], UNIT [59:56], BITS [49:48], OFF [47:0] (R352). The number of inverted check bits when an armed
injection targets one of the bytes written. -/
def injects (w : Word) (unit off n : Nat) : Option Nat :=
  if bit w 61 && bit w 60 && decide (bits w 59 56 = unit) && decide (off < bits w 47 0 + 8) && decide (bits w 47 0 < off + n)
  then some (bits w 49 48) else none

def disarm (w : Word) : Word := word (w.toNat - (if bit w 60 then 2 ^ 60 else 0))

/-- The kind of an injected error with `k` inverted check bits; 0 and 3 arm nothing (R352). -/
def injKind (k : Nat) : Option Nat := if k = 1 then some 3 else if k = 2 then some 4 else none

/-- The error list after a write of `n` bytes at `a`: a unit that the write covers whole is clean, and one that it covers in
part stays uncorrectable if it was (R351). -/
def healAll (sz a n : Nat) (l : List (Nat × Nat)) : List (Nat × Nat) :=
  l.filter fun e => !(units sz a n).contains e.1 || (uncorrectable e.2 && !covered sz a n e.1)

/-- A write of part of a unit reads it, and finds its errors (R351). -/
def partlyHit (sz a n : Nat) (l : List (Nat × Nat)) : List (Nat × Nat) :=
  (errorsIn l (units sz a n)).filter fun e => !covered sz a n e.1

/-- The unit holds the injected error, but for one that a write has left uncorrectable, which stays so (R351). -/
def injectUnit (u k : Nat) (l : List (Nat × Nat)) : List (Nat × Nat) :=
  if l.any fun e => e.1 = u && uncorrectable e.2 then l else (u, k) :: l.filter fun e => e.1 ≠ u

/-- An armed injection of a cluster meets a write (R352): ARM clears, and the unit holds the error. -/
def State.injectHbm (s : State) (g a n : Nat) : State :=
  match (injects (s.cluster g).einj 3 a n).bind injKind with
  | some k =>
    let u := bits (s.cluster g).einj 47 0 / 32
    let s := s.modCluster g fun cl => { cl with einj := disarm cl.einj }
    { s with badHbm := injectUnit u k s.badHbm }
  | none => s

/-- A root slot's write to the firmware region, its own or that of an engine that works for it (R347). -/
def State.firmwareHit (s : State) (c : Ctx) (a n : Nat) : Bool :=
  c.part = 0 && s.booted && decide (a < s.fwLimit) && decide (s.fwBase < a + n)

/-- The core stops until a hand-over commit or a reset, and Taproot posts a TAPROOT record (R347). -/
def State.stopCore (s : State) (core : Nat) : State :=
  if s.stopped.contains core then s
  else State.postBreach { s with stopped := s.stopped ++ [core] } 0 0 core

/-- Writes bytes into HBM: error units, write generations and injection (R147, R335, R351, R352). -/
def State.writeHbm (s : State) (c : Ctx) (a : Nat) (bs : List Byte) : State :=
  if bs.isEmpty then s
  else
    let n := bs.length
    let s := (partlyHit 32 a n s.badHbm).foldl
      (fun s e => s.logError c (uncorrectable e.2) (injected e.2) 3 (e.1 * 32)) s
    let s := (partlyHit 8 a n s.badCache).foldl (fun s e => s.logCache c e) s
    let s := { s with
      badHbm := healAll 32 a n s.badHbm, badCache := healAll 8 a n s.badCache, hbm := Memory.writeBytes s.hbm a bs }
    let s := (Table.keys s.clusters).foldl (fun s g => s.injectHbm g a n) s
    (units 65536 a n).foldl State.raise s

/-- Writes zeros into whole pages of 64 KiB of HBM: `n` bytes from `a`. -/
def State.zeroHbm (s : State) (a n : Nat) : State :=
  let within := fun x => decide (a ≤ x) && decide (x < a + n)
  let s := { s with
    badHbm := s.badHbm.filter fun e => !within (e.1 * 32), badCache := s.badCache.filter fun e => !within (e.1 * 8)
    hbm := s.hbm.filter fun c => !within c.1 }
  let s := (Table.keys s.clusters).foldl (fun s g => s.injectHbm g a n) s
  (units 65536 a n).foldl State.raise s

/-- Writes bytes into a scratchpad; the full/empty bits stay (R57). -/
def State.writePad (s : State) (c : Ctx) (core off : Nat) (bs : List Byte) : State :=
  if bs.isEmpty then s
  else
    let n := bs.length
    let a := core * Config.padBytes + off
    let g := core % 1024 / 8
    let s := (partlyHit 8 a n s.badPad).foldl
      (fun s e => s.logError { c with core := core % 1024 } (uncorrectable e.2) (injected e.2) 1 (padOffset core (e.1 % 32768 * 8))) s
    let s := { s with badPad := healAll 8 a n s.badPad, pad := Memory.writeBytes s.pad a bs }
    match (injects (s.cluster g).einj 1 (padOffset core off) n).bind injKind with
    | some k =>
      let u := core * 32768 + bits (s.cluster g).einj 47 0 % 0x40000 / 8
      let s := s.modCluster g fun cl => { cl with einj := disarm cl.einj }
      { s with badPad := injectUnit u k s.badPad }
    | none => s

/-- A whole-register write by another party (R18). It is performed now, for every window load that follows it (R164, R171), and lands
at the end of the cycle, so that no instruction that issues in that cycle reads it (R160). One to a thread that has ended is
discarded. -/
def State.writeXreg (s : State) (t r : Nat) (v : Word) : State :=
  if s.alive t then s.addReturn t ⟨.x r, v, 0, false, .window⟩ else s

def State.writeVreg (s : State) (t r : Nat) (v : VWord) : State :=
  if s.alive t then s.addReturn t ⟨.v r, 0, v, false, .window⟩ else s

/-- Writes bytes at a place. A register is written whole (R18, R21); writes to accumulator banks do not come here (R136). -/
def State.writeAt (s : State) (c : Ctx) (p : Place) (bs : List Byte) : State :=
  match p with
  | .hbm a => s.writeHbm c a bs
  | .page key a =>
    if bs.isEmpty then s else if s.firmwareHit c a bs.length then s.stopCore c.core else (s.rekey key a bs.length).writeHbm c a bs
  | .host a => { s with hostMem := Memory.writeBytes s.hostMem a bs }
  | .pad k o => s.writePad c k o bs
  | .xreg t r _ => s.writeXreg t r (word (leNat bs))
  | .vreg t r _ => s.writeVreg t r (BitVec.ofNat 2048 (leNat bs))
  | .acc _ _ | .nothing | .data _ _ => s

/-! ### Translation (R327-R331) -/

/-- The levels of a walk: lowest index bit and number of index bits (R327). -/
def walkLevels : List (Nat × Nat) := [(39, 9), (30, 9), (21, 9), (16, 5)]

/-- A byte of HBM as a unit reads it by its physical address: a translation service core, an agent sequencer, the iteration engine,
a queue of the host. One in a unit with an uncorrectable error has no value that the spec states (DESIGN CHOICE, log entry 71). -/
def State.rawByte (s : State) (a : Nat) : Byte :=
  let b := Memory.read s.hbm a
  if s.badAt (.hbm a) 1 then Config.badByte a b else b

def State.rawBytes (s : State) (a n : Nat) : List Byte := (List.range n).map fun i => s.rawByte (a + i)

def State.rawLe (s : State) (a n : Nat) : Nat := leNat (s.rawBytes a n)

/-- Reads an 8-byte table entry as a physical address (R327). -/
def State.tableEntry (s : State) (a : Nat) : Nat := s.rawLe a 8

/-- A leaf entry is well formed for its page size (R328). -/
def leafOk (keys : Option (List Nat)) (e lg : Nat) : Bool :=
  let addr := e / 2 ^ 8 % 2 ^ 40 * 2 ^ 8
  let key := e / 2 ^ 56
  let host := e / 2 ^ 48 % 2 = 1
  decide (e / 2 ^ 49 % 2 ^ 7 = 0) && decide (e / 4 % 4 ≠ 3) && decide (addr % 2 ^ lg = 0) &&
    (if host then decide (key = 0) else match keys with
      | some ks => ks.contains key
      | none => true)

def leafOf (va e lg : Nat) : Leaf where
  va := va / 2 ^ lg * 2 ^ lg
  lg := lg
  phys := e / 2 ^ 8 % 2 ^ 40 * 2 ^ 8
  key := e / 2 ^ 56
  host := e / 2 ^ 48 % 2 = 1
  kind := e / 4 % 4
  w := e / 16 % 2 = 1
  x := e / 32 % 2 = 1
  cnt := e / 128 % 2 = 1

/-- The walk from a table downward (R327-R329): the leaf, or the cause. `keys` and `region` are the partition's, and none
for the root slot's firmware table. -/
def State.walkFrom (s : State) (keys : Option (List Nat)) (region : Option (Nat × Nat)) (va : Nat) :
    List (Nat × Nat) → Nat → Nat → Except Nat Leaf
  | [], _, _ => .error 4
  | (lo, k) :: rest, table, level =>
    let e := s.tableEntry (table + 8 * (va / 2 ^ lo % 2 ^ k))
    if e % 2 = 0 then .error 1
    else if e / 2 % 2 = 1 then
      if level = 1 || !leafOk none e lo then .error 4
      else if !leafOk keys e lo then .error keyBreach
      else
        let l := leafOf va e lo
        match region with
        | some (b, lim) =>
          if l.host || (decide (b * 2 ^ 21 ≤ l.phys) && decide (l.phys + 2 ^ lo ≤ lim * 2 ^ 21)) then .ok l else .error 5
        | none => .ok l
    else
      let addr := e / 2 ^ 8 % 2 ^ 40 * 2 ^ 8
      let next := if level = 3 then 256 else 4096
      if level = 4 || e / 2 ^ 48 ≠ 0 || e / 2 % 2 ^ 7 ≠ 0 || addr % next ≠ 0 then .error 4
      else s.walkFrom keys region va rest addr (level + 1)

/-- The level-1 table of a partition's tenancy (R327); partition 0 is the root slot, which translates through FWROOT (R329). -/
def State.rootTable (s : State) (part ten : Nat) : Nat :=
  bits (if part = 0 then s.fwroot else Table.get (s.part part).ptroot ten 0) 47 12 * 4096

/-- The walk for a partition's tenancy. -/
def State.walk (s : State) (part ten va : Nat) : Except Nat Leaf :=
  if part = 0 then s.walkFrom none none va walkLevels (s.rootTable part ten) 1
  else
    let p := s.part part
    s.walkFrom (some p.keys) (some (p.hbmBase, p.hbmLimit)) va walkLevels (s.rootTable part ten) 1

def Leaf.covers (l : Leaf) (va : Nat) : Bool := va / 2 ^ l.lg = l.va / 2 ^ l.lg

def tlbFind (tlb : List TlbEntry) (part ten va : Nat) : Option Leaf :=
  (tlb.find? fun e => e.part = part && e.ten = ten && e.leaf.covers va).map (·.leaf)

/-- A thread's translation of an address: an answer it holds, the core TLB, the cluster TLB, or a miss (R330, R331). -/
def State.lookup (s : State) (th : Thread) (va : Nat) : Option (Except Nat Leaf) :=
  match th.answers.find? fun a => a.page = va / 65536 with
  | some a => some (if a.cause = 0 then .ok a.leaf else .error a.cause)
  | none =>
    match tlbFind (s.core (coreOf th.sid)).tlb th.part th.ten va with
    | some l => some (.ok l)
    | none => (tlbFind (s.cluster (clusterOf th.sid)).tlb th.part th.ten va).map .ok

/-- A requester that presents its miss again: an engine context, or a thread that is neither frozen, held nor saved. -/
def State.presents (s : State) : Requester → Bool
  | .thread t => s.alive t && (s.thr t).frozen.isNone && !(s.thr t).held && !(s.thr t).saved
  | .engine _ => true

/-- The entry is that of a page of a tenancy. -/
def Miss.isFor (m : Miss) (part ten page : Nat) : Bool := m.part = part && m.ten = ten && m.page = page

/-- A miss joins the queued entry with the same key, or is queued, or finds the queue full and its requester is recorded in the
admission list (R331). -/
def State.queueMiss (s : State) (g part ten page : Nat) (r : Requester) : State :=
  s.modCluster g fun cl =>
    if cl.misses.any fun m => m.isFor part ten page then
      { cl with
        misses := cl.misses.map fun m =>
          if m.isFor part ten page && !m.waiters.contains r then { m with waiters := m.waiters ++ [r] } else m
        admitted := cl.admitted.filter (· ≠ r) }
    else
      let free := Config.missEntries - cl.misses.length
      let ahead := ((cl.admitted.takeWhile (· ≠ r)).filter s.presents).length
      if ahead < free then { cl with misses := cl.misses ++ [⟨part, ten, page, [r]⟩], admitted := cl.admitted.filter (· ≠ r) }
      else if cl.admitted.contains r then cl
      else { cl with admitted := cl.admitted ++ [r], ovf := (cl.ovf + 1) % 2 ^ 32 }

/-- A miss of a thread. -/
def State.miss (s : State) (t va : Nat) : State :=
  s.queueMiss (clusterOf (s.thr t).sid) (s.thr t).part (s.thr t).ten (va / 65536) (.thread t)

/-! ### Where an address leads (R16-R18, R59, R60, R67, R136, R355) -/

/-- What an access does, as far as its target matters. -/
inductive Use where
  /-- A scalar or vector load, or the read of a record. -/
  | read
  /-- STD, the only store that writes an x register. -/
  | std
  /-- Any other store. -/
  | write
  /-- LDSYNC, STF, FEW, a LOOP claim: a scratchpad word in the window. -/
  | sync
  | amo
  | fetch
deriving DecidableEq, Repr

def Use.writes : Use → Bool
  | .std | .write | .amo => true
  | .read | .sync | .fetch => false

/-- The clusters that a thread reaches through the window (R17, R18, R309). -/
def State.admits (s : State) (part g : Nat) : Bool :=
  part = 0 || (decide ((s.part part).glo ≤ g) && decide (g ≤ (s.part part).ghi))

/-- The scratchpad banks that a partition reaches; the root slot reaches all (R286, R309). -/
def State.admitsBank (s : State) (part bank : Nat) : Bool :=
  part = 0 || (decide (bank < 15) && maskBit (s.part part).pbanks bank)

/-- The slots whose registers a thread in slot `sid` reaches (R18). -/
def State.admitsSlot (s : State) (part sid target : Nat) : Bool :=
  if part = 0 then decide (target % 16 ≠ 0) || decide (target = sid)
  else decide (target % 16 ≠ 0) && maskBit (s.part part).pslots (target % 16)

/-- The lease of a bank is held by a thread of the partition (R136 item 3). -/
def State.bankHeldBy (s : State) (part ten bank : Nat) : Bool :=
  match Table.find? s.arrays (bank / 4) with
  | some a => match Table.find? a.holder (bank % 4) with
    | some t => (s.thr t).part = part && (part = 0 || (s.thr t).ten = ten)
    | none => false
  | none => false

/-- The thread that a switch is bringing into a slot that has still to hand over: to the tenancy that comes in, whose engines and first
threads run already, the slot's registers are those of its own thread (R315, R320; DEDUCED, log entry 77). -/
def State.incomingThread (s : State) (part ten target : Nat) : Option Nat :=
  let p := s.part part
  if part ≠ 0 && p.switching && p.incoming = ten then
    (List.find? (fun (e : Nat × Thread) => e.2.saved && e.2.part = part && e.2.ten = ten && e.2.sid = target) s.threads).map (·.1)
  else none

/-- The register file part of a cluster block (R17): x registers at 0x0000, v registers at 0x1000 of a slot's 8 KiB. -/
def State.regPlace (s : State) (part ten target o : Nat) : Option Place :=
  let mine := match (s.slotThread target).filter fun t => part = 0 || (s.thr t).ten = ten with
    | some t => some t
    | none => s.incomingThread part ten target
  if o < 0x100 then
    some (match mine with
      | some t => .xreg t (o / 8) (o % 8)
      | none => .nothing)
  else if 0x1000 ≤ o then
    some (match mine with
      | some t => .vreg t ((o - 0x1000) / 256) (o % 256)
      | none => .nothing)
  else none

/-- The partition that owns a scratchpad bank (R309, R310), 0 for none. -/
def State.bankOwner (s : State) (bank : Nat) : Nat :=
  ((List.range 16).find? fun p => decide (0 < p) && maskBit (s.part p).pbanks bank).getD 0

/-- The scratchpad key of a core's bank for a partition's tenancy: each tenancy has its own contents of its banks (R315). The
root slot reaches those of the running tenancy, 4 while the partition is suspended; bank 15 has one. -/
def State.padOf (s : State) (part ten core bank : Nat) : Nat :=
  if part = 0 then
    if 15 ≤ bank then core
    else
      let p := s.bankOwner bank
      if p = 0 then core else (s.part p).cur * 1024 + core
  else ten * 1024 + core

def State.windowPlace (s : State) (part ten sid : Nat) (u : Use) (va : Nat) : Option Place :=
  let off := va - Config.windowBase
  let g := off / 0x800000
  let co := off % 0x800000
  if Config.windowSpan ≤ off || !s.admits part g then none
  else if co < 0x200000 then
    let po := co % 0x40000
    if u ≠ .fetch && s.admitsBank part (po / Config.bankBytes) then
      some (.pad (s.padOf part ten (g * 8 + co / 0x40000) (po / Config.bankBytes)) po) else none
  else if co < 0x400000 then
    let b := g * 4 + (co - 0x200000) / 0x80000
    if u = .read && s.bankHeldBy part ten b then some (.acc b (co % 0x80000)) else none
  else if co < 0x500000 then
    let r := co - 0x400000
    let target := (g * 8 + r / 0x20000) * 16 + r % 0x20000 / 0x2000
    let o := r % 0x2000
    if !s.admitsSlot part sid target then none
    else if u = .read then s.regPlace part ten target o
    else if u = .std && target ≠ sid && o < 0x100 then s.regPlace part ten target o
    else none
  else none

def inWindow (va : Nat) : Bool := decide (Config.windowBase ≤ va) && decide (va < 0x800000000000)

/-- Where an access leads. -/
inductive Target where
  /-- The parts in rising order, each with its number of bytes, and the ordering kind of each part's page (R166; window 1). -/
  | ok (parts : List (Place × Nat)) (kinds : List Nat) (leaf : Option Leaf)
  | trap (cls detail : Nat) (info : Word)
  /-- A translation is missing for the thread. -/
  | miss (va : Nat)
  | stop (f : Fault)

/-- The place of one translated byte. -/
def leafPlace (l : Leaf) (va : Nat) : Place :=
  if l.host then .host (l.phys + (va - l.va)) else .page l.key (l.phys + (va - l.va))

/-- One access within one page: the translation, its W and X checks, and the AMO's host check (R329, R355). -/
def State.pageTarget (s : State) (th : Thread) (u : Use) (wr : Bool) (va n : Nat) : Target :=
  if 2 ^ 48 ≤ va then .trap 3 0 (word va)
  else
    match s.lookup th va with
    | none => .miss va
    | some (.error c) => .trap 6 c (word va)
    | some (.ok l) =>
      if wr && !l.w then .trap 6 2 (word va)
      else if u = .fetch && !l.x then .trap 6 3 (word va)
      else if u = .amo && l.host then .trap 3 0 (word va)
      else if !l.host && Config.hbmBytes < l.phys + (va - l.va) + n then .stop .noSuchHbm
      else .ok [(leafPlace l va, n)] [l.kind] (some l)

/-- An access is counted: its leaf has CNT = 1, and its group lies between VABASE and VABASE + NGRP groups (R336). -/
def State.counts (s : State) (c : Ctx) (va : Nat) (l : Leaf) : Bool :=
  let base := bits (s.part c.part).cntcfg 47 21
  l.cnt && decide (base ≤ va / 2 ^ 21) &&
    decide (va / 2 ^ 21 < base + bits (Table.get (s.part c.part).cnttab c.ten 0) 63 48)

/-- The leaf by which an access over a page boundary counts, which it does once (R336): that of its lower part, unless only the other
one counts it. -/
def State.countedLeaf (s : State) (c : Ctx) (va : Nat) (lower upper : Option Leaf) : Option Leaf :=
  match lower, upper with
  | some l, some u => if s.counts c va l || !s.counts c u.va u then lower else upper
  | l, _ => l

/-- Where an access of `n` bytes at `va` leads, with the first check that fails in the order of R355. `alw` and `alp` are
the alignments that the access needs in the window and in a page. An access over a page boundary is split there, and its
lower part is checked first (R58). An access that runs from the last page below the window into it is split there too, and its upper
part is a window access of its own size: one of 3, 5, 6 or 7 bytes takes the alignment trap (DESIGN CHOICE, log entry 52: R58 speaks
of page boundaries only). -/
def State.target (s : State) (th : Thread) (u : Use) (wr : Bool) (ea : Word) (n alw alp : Nat) : Target :=
  let va := ea.toNat
  if 2 ^ 48 ≤ va then .trap 3 0 ea
  else if inWindow va then
    match s.windowPlace th.part th.ten th.sid u va with
    | none => .trap 5 0 ea
    | some p => if va % alw ≠ 0 then .trap 4 0 ea else .ok [(p, n)] [1] none
  else if va % alp ≠ 0 then .trap 4 0 ea
  else if u = .sync && !wr then .trap 5 0 ea
  else
    let low := 65536 - va % 65536
    if n ≤ low then s.pageTarget th u wr va n
    else
      match s.pageTarget th u wr va low with
      | .ok ps ks l =>
        if inWindow (va + low) then
          match s.windowPlace th.part th.ten th.sid u (va + low) with
          | none => .trap 5 0 (word (va + low))
          | some p => if (n - low) ∈ [1, 2, 4, 8] then .ok (ps ++ [(p, n - low)]) (ks ++ [1]) l else .trap 4 0 (word (va + low))
        else
          match s.pageTarget th u wr (va + low) (n - low) with
          | .ok qs js u => .ok (ps ++ qs) (ks ++ js) (s.countedLeaf th.ctx va l u)
          | r => r
      | r => r

/-! ### Access counters (R336, R337) -/

/-- One counted access of a partition's running tenancy. COUNT has 16 bits: with notification off it goes on from 0 after 0xFFFF
(DEDUCED, log entry 72). -/
def State.countAccess (s : State) (c : Ctx) (va : Nat) (l : Leaf) : State :=
  let p := s.part c.part
  let tab := Table.get p.cnttab c.ten 0
  let base := bits p.cntcfg 47 21
  let grp := va / 2 ^ 21
  if !s.counts c va l then s
  else
    let a := bits tab 47 12 * 4096 + 4 * (grp - base)
    let w := s.rawLe a 4
    let q := w / 2 ^ 31
    let cnt := w % 65536
    if q = 1 then s.writeHbm c a (leBytes 4 (2 ^ 31 + min (cnt + 1) 0xFFFF))
    else
      let thr := bits p.cntcfg 15 0
      if thr ≠ 0 && thr ≤ cnt + 1 then
        let lg := bits p.nqbase 3 0
        if lg ≠ 0 && p.nqtail.toNat - p.nqhead.toNat < 2 ^ lg then
          let e := bits p.nqbase 47 12 * 4096 + 16 * (p.nqtail.toNat % 2 ^ lg)
          let s := s.writeHbm c e (leBytes 8 ((cnt + 1) % 65536 * 2 ^ 48 + grp * 2 ^ 21 + b2n l.host * 4 + c.ten % 4) ++
            leBytes 8 s.ftime)
          (s.modPart c.part fun p => { p with nqtail := p.nqtail + 1 }).writeHbm c a (leBytes 4 (2 ^ 31 + (cnt + 1) % 65536))
        else (s.modPart c.part fun p => { p with nqovf := min (p.nqovf + 1) 0xFFFFFFFF }).writeHbm c a (leBytes 4 0)
      else s.writeHbm c a (leBytes 4 ((cnt + 1) % 65536))

/-- Counts a scalar access at `va` through the leaf that counts it, which is that of its upper part where it does not cover `va`. -/
def State.countLeaf (s : State) (c : Ctx) (va : Nat) : Option Leaf → State
  | some l => s.countAccess c (if l.covers va then va else l.va) l
  | none => s

/-- An access of several parts counts once for each 2 MiB group that it touches (R336): the parts by address and leaf. -/
def State.countGroups (s : State) (c : Ctx) (l : List (Nat × Option Leaf)) : State :=
  (l.foldl (fun (acc : State × List Nat) e =>
    if acc.2.contains (e.1 / 2 ^ 21) then acc
    else
      match e.2 with
      | some l => if l.cnt then (acc.1.countAccess c e.1 l, (e.1 / 2 ^ 21) :: acc.2) else acc
      | none => acc) (s, [])).1

/-! ### Performing an access (R57-R67) -/

/-- Signed or unsigned extension of an `n`-byte value (R57). -/
def extend (sx : Bool) (n v : Nat) : Word :=
  if sx && decide (2 ^ (8 * n - 1) ≤ v) then ofInt (v - 2 ^ (8 * n)) else word v

/-- The bytes of all parts of an access in order, whether they carry an error, and the state after the errors are logged. -/
def State.readParts (s : State) (c : Ctx) : List (Place × Nat) → List Byte × Bool × State
  | [] => ([], false, s)
  | (p, n) :: ps =>
    let (bs, bad, s') := (s.noteRead c p n).readParts c ps
    (s.readAt p n ++ bs, s.badAt p n || bad, s')

def State.writeParts (s : State) (c : Ctx) : List (Place × Nat) → List Byte → State
  | [], _ => s
  | (p, n) :: ps, bs => (s.writeAt c p (bs.take n)).writeParts c ps (bs.drop n)

/-- The combination of R67. -/
def amoCombine (op : AmoOp) (old before v : Word) : Word :=
  match op with
  | .add => old + v
  | .swap => v
  | .cas => if old = before then v else old
  | .min => if old.toInt ≤ v.toInt then old else v
  | .max => if old.toInt ≤ v.toInt then v else old
  | .minu => if old.toNat ≤ v.toNat then old else v
  | .maxu => if old.toNat ≤ v.toNat then v else old
  | .and => old &&& v
  | .or => old ||| v
  | .xor => old ^^^ v

def padKey (core off : Nat) : Nat := core * 32768 + off / 8

/-- Words of bank 15 are empty and every other word full until something changes them; no word has a holder (R286, R310). -/
def State.padWord (s : State) (core off : Nat) : PadWord :=
  Table.get s.padWords (padKey core off) ⟨decide (off < 15 * Config.bankBytes), none⟩

/-- Changes a word's bit; the holder is the thread that changed it, and none for a root slot, an engine or the host (R305). -/
def State.setPadFull (s : State) (core off : Nat) (full : Bool) (holder : Option Nat) : State :=
  let h := holder.filter fun t => !(s.thr t).isRoot
  { s with padWords := Table.set s.padWords (padKey core off) ⟨full, h⟩ }

def bankKey (core off : Nat) : Nat := core * 16 + off / Config.bankBytes

def State.bank (s : State) (k : Nat) : List BankReq := Table.get s.banks k []

/-- Elements of a vector load over its base value: element i of width w bits (R103, R113). -/
def vset (v : VWord) (w i : Nat) (x : Nat) : VWord :=
  BitVec.ofNat 2048 (v.toNat - v.toNat / 2 ^ (w * i) % 2 ^ w * 2 ^ (w * i) + x % 2 ^ w * 2 ^ (w * i))

def vget (v : VWord) (w i : Nat) : Nat := v.toNat / 2 ^ (w * i) % 2 ^ w

def State.readEls (s : State) (c : Ctx) (w : Nat) : List (Nat × Place) → VWord → VWord × Bool × State
  | [], v => (v, false, s)
  | (i, p) :: es, v =>
    let x := leNat (s.readAt p (w / 8))
    let b := s.badAt p (w / 8)
    let (v', b', s') := (s.noteRead c p (w / 8)).readEls c w es (vset v w i x)
    (v', b || b', s')

/-- Bytes of the elements of a store, but for those whose place a later element names: it is written once, with the value of the
higher element (R114). Elements are aligned, so that two of them share all bytes or none (R112). -/
def storeBytes (w : Nat) : List (Place × Nat) → List (Place × List Byte)
  | [] => []
  | (p, x) :: es =>
    if es.any fun e => p.meets (w / 8) e.1 (w / 8) then storeBytes w es else (p, leBytes (w / 8) x) :: storeBytes w es

/-- Performs one access of thread `t`. Deferred results wait in the thread's list of returns (R25). An AMO whose read finds an
uncorrectable error delivers poison and writes nothing (DESIGN CHOICE, log entry 53: no rule says whether it writes). -/
def State.perform (s : State) (t : Nat) (op : MemOp) : State :=
  let c := (s.thr t).ctx
  match op with
  | .load rd n sx parts =>
    let (bs, bad, s) := s.readParts c parts
    let s := if bad then { s with freeCtr := s.freeCtr + 1 } else s
    s.addReturn t ⟨.x rd, if bad then Config.freeWord s.freeCtr else extend sx n (leNat bs), 0, bad, .load⟩
  | .store v parts => s.writeParts c parts (leBytes 8 v.toNat)
  | .sync k rd v core off lim =>
    { s with
      nextAcc := s.nextAcc + 1
      banks := Table.set s.banks (bankKey core off) (s.bank (bankKey core off) ++
        [⟨k, t, rd, v, core, off, if lim = 0 then 0 else s.cycle + lim, s.nextAcc⟩]) }
  | .ldp rd core off =>
    let bad := s.badAt (.pad core off) 8
    let v := word (leNat (s.readAt (.pad core off) 8))
    let s := s.noteRead c (.pad core off) 8
    let s := if bad then { s with freeCtr := s.freeCtr + 1 } else s
    s.addReturn t ⟨.x rd, if bad then Config.freeWord s.freeCtr else v, 0, bad, .load⟩
  | .few full core off => if (s.padWord core off).full = full then s else s.setPadFull core off full (some t)
  | .amo op _ rd before v p =>
    let bad := s.badAt p 8
    let old := word (leNat (s.readAt p 8))
    let s := s.noteRead c p 8
    if bad then State.addReturn { s with freeCtr := s.freeCtr + 1 } t ⟨.x rd, Config.freeWord s.freeCtr, 0, true, .amo⟩
    else (s.writeAt c p (leBytes 8 (amoCombine op old before v).toNat)).addReturn t ⟨.x rd, old, 0, false, .amo⟩
  | .vload vd w base els =>
    let (v, bad, s) := s.readEls c w els base
    let s := if bad then { s with freeCtr := s.freeCtr + 1 } else s
    s.addReturn t ⟨.v vd, 0, if bad then Config.freeVWord s.freeCtr else v, bad, .load⟩
  | .vstore w els => (storeBytes w els).foldl (fun s e => s.writeAt c e.1 e.2) s
  | .braid w => s.braidPush (dieOf (s.thr t).sid) (s.thr t).part (s.thr t).ten w

/-! ### Serving the banks (R64) and the order of one thread's accesses (R26, R65, R67, R171) -/

/-- Requests of kinds LDF, LDT and LDFT act as acquires when they are served (R65). -/
def SyncKind.acquires : SyncKind → Bool
  | .ldf | .ldt | .ldft => true
  | .stf => false

def MemOp.isSync : MemOp → Bool
  | .sync _ _ _ _ _ _ => true
  | .load _ _ _ _ | .store _ _ | .ldp _ _ _ | .few _ _ _ | .amo _ _ _ _ _ _ | .vload _ _ _ _ | .vstore _ _
  | .braid _ => false

/-- The bytes of an access, one run for each of its parts. A FEW reads and writes none (R63). -/
def MemOp.spans : MemOp → List (Place × Nat)
  | .load _ _ _ ps | .store _ ps => ps
  | .sync _ _ _ core off _ | .ldp _ core off => [(.pad core off, 8)]
  | .few _ core off => [(.pad core off, 0)]
  | .amo _ _ _ _ _ p => [(p, 8)]
  | .vload _ w _ els => els.map fun e => (e.2, w / 8)
  | .vstore w els => els.map fun e => (e.1, w / 8)
  | .braid _ => []

/-- An AMO with acquire ordering (R67). -/
def MemOp.acquires : MemOp → Bool
  | .amo _ o _ _ _ _ => o = .acq || o = .acqrel
  | .load _ _ _ _ | .store _ _ | .sync _ _ _ _ _ _ | .ldp _ _ _ | .few _ _ _ | .vload _ _ _ _ | .vstore _ _ | .braid _ => false

/-- An AMO with release ordering, a window store to a register, and a completion push to the Braid (R67, R171, R200). -/
def MemOp.releases : MemOp → Bool
  | .amo _ o _ _ _ _ => o = .rel || o = .acqrel
  | .store _ ps => ps.any fun p => match p.1 with
    | .xreg _ _ _ => true
    | _ => false
  | .braid _ => true
  | .load _ _ _ _ | .sync _ _ _ _ _ _ | .ldp _ _ _ | .few _ _ _ | .vload _ _ _ _ | .vstore _ _ => false

/-- Requests of a thread before access `q` of its order that no bank has served: at a bank, or in its saved state (R64, R66). -/
def State.requestsBefore (s : State) (t q : Nat) : List BankReq :=
  ((s.thr t).savedSync ++ (s.banks.flatMap (·.2)).filter fun r => r.t = t).filter fun r => decide (r.seq < q)

def State.heldBefore (s : State) (t q : Nat) : List Held := (s.thr t).heldOps.filter fun h => decide (h.seq < q)

/-- The thread has an acquire before access `q` of its order that has not been performed: an LDF, LDT or LDFT, or an AMO. -/
def State.acquiringBefore (s : State) (t q : Nat) : Bool :=
  (s.requestsBefore t q).any (·.k.acquires) || (s.heldBefore t q).any (·.op.acquires)

/-- The thread has an acquire that has not been performed. -/
def State.acquiring (s : State) (t : Nat) : Bool := s.acquiringBefore t s.nextAcc

/-- Every access of the thread before access `q` that a release orders is performed: those to S and RC pages, scratchpads and the
window (R65, R67, R168). -/
def State.doneBefore (s : State) (t q : Nat) : Bool :=
  (s.requestsBefore t q).isEmpty && (s.heldBefore t q).all fun h => h.ks.all (· = 2)

/-- Every access that the thread has issued is performed (R68, R164). -/
def State.performed (s : State) (t : Nat) : Bool := (s.requestsBefore t s.nextAcc).isEmpty && (s.thr t).heldOps.isEmpty

/-- Access `q` may be performed on `n` bytes at a place that a page of kind `k` holds: no acquire is before it, unless its page is
of kind U (R65, R168), no earlier access of the thread to an S page waits, where its own page is of kind S (R166), and no earlier
access of the thread to one of the bytes waits (R26). -/
def State.spanFree (s : State) (t q k : Nat) (p : Place) (n : Nat) : Bool :=
  (k = 2 || !s.acquiringBefore t q) && (k ≠ 0 || (s.heldBefore t q).all fun h => !h.ks.contains 0) &&
    !((s.heldBefore t q).any fun h => h.op.spans.any fun x => p.meets n x.1 x.2) &&
    !(s.requestsBefore t q).any fun r => p.meets n (.pad r.core r.off) 8

/-- Access `q` of the thread may be performed. -/
def State.opFree (s : State) (t q : Nat) (op : MemOp) (ks : List Nat) : Bool :=
  (op.spans.zip ks).all (fun x => s.spanFree t q x.2 x.1.1 x.1.2) && (!op.releases || s.doneBefore t q)

/-- The order of R162: an access to the thread's own core's scratchpad is performed as it issues, so that it does not issue before it
may be performed. -/
def State.mustWait (s : State) (op : MemOp) (ks : List Nat) : Bool :=
  !op.isSync && !s.opFree s.cur s.nextAcc op ks && op.spans.any fun x => match x.1 with
    | .pad c _ => c % 1024 = coreOf s.me.sid
    | _ => false

/-- A request is eligible when no earlier request of its thread to its word is pending and the word's state allows it (R64 rule 1),
no acquire is before it (R65), and no earlier access to the word waits (R26). An STF is a release: every earlier access of its thread
is performed first (R65). -/
def State.eligible (s : State) (before : List BankReq) (r : BankReq) : Bool :=
  !(before.any fun q => decide (q.t = r.t) && decide (q.core = r.core) && decide (q.off = r.off)) &&
    (s.padWord r.core r.off).full != (r.k == .stf) && s.spanFree r.t r.seq 1 (.pad r.core r.off) 8 &&
    (r.k != .stf || s.doneBefore r.t r.seq)

/-- The oldest eligible request of a bank, with the requests before and after it. -/
def State.oldest (s : State) : List BankReq → List BankReq → Option (List BankReq × BankReq × List BankReq)
  | _, [] => none
  | before, r :: rest =>
    if s.eligible before r then some (before, r, rest) else s.oldest (before ++ [r]) rest

/-- The root slot takes a trap record with LDT on word 0x00 of its entry (R292). -/
def State.noteTaken (s : State) (t core off : Nat) : State :=
  let base := (s.core core).tqbase.toNat
  if t = core && base ≠ 0 && decide (base % Config.padBytes ≤ off) && decide (off < base % Config.padBytes + 2048) &&
      decide (off % 32 = 0) then
    s.modCore core fun c => { c with tqtaken := c.tqtaken + 1 }
  else s

/-- The effect of a served request (R61, R62). -/
def State.serve (s : State) (r : BankReq) : State :=
  let c := (s.thr r.t).ctx
  let bad := s.badAt (.pad r.core r.off) 8
  let v := word (leNat (s.readAt (.pad r.core r.off) 8))
  match r.k with
  | .stf => (s.writePad c r.core r.off (leBytes 8 r.v.toNat)).setPadFull r.core r.off true (some r.t)
  | .ldf | .ldft | .ldt =>
    let s := s.noteRead c (.pad r.core r.off) 8
    let s := if bad then { s with freeCtr := s.freeCtr + 1 } else s
    let s := s.addReturn r.t ⟨.x r.rd, if bad then Config.freeWord s.freeCtr else v, 0, bad, .load⟩
    if r.k = .ldt then (s.setPadFull r.core r.off false (some r.t)).noteTaken r.t r.core r.off else s

/-- Serves one request of some bank, if one is eligible. -/
def State.serveOne (s : State) : List (Nat × List BankReq) → Option State
  | [] => none
  | (k, rs) :: rest =>
    match s.oldest [] rs with
    | some (a, r, b) => some (State.serve { s with banks := Table.set s.banks k (a ++ b) } r)
    | none => s.serveOne rest

/-- Performs the oldest access of some thread that waited and may be performed now, if there is one. The accesses of a thread that a
switch has saved go on waiting (R66). -/
def State.releaseOne (s : State) : List (Nat × Thread) → Option State
  | [] => none
  | (t, th) :: rest =>
    match (if th.saved then none else th.heldOps.find? fun h => s.opFree t h.seq h.op h.ks) with
    | some h => some ((s.setThr t { th with heldOps := th.heldOps.filter fun x => x.seq ≠ h.seq }).perform t h.op)
    | none => s.releaseOne rest

/-- Serves and releases until nothing more can happen. -/
def State.settleFor : Nat → State → State
  | 0, s => s
  | n + 1, s =>
    match s.serveOne s.banks with
    | some s' => State.settleFor n s'
    | none => match s.releaseOne s.threads with
      | some s' => State.settleFor n s'
      | none => s

/-- As many rounds as there are requests and waiting accesses. -/
def State.settle (s : State) : State :=
  State.settleFor ((s.banks.map fun e => e.2.length).sum + (s.threads.map fun e => e.2.heldOps.length).sum) s

/-- The parts of an access that lie on pages of several kinds go on apart, each under its own kind (R58, R169). -/
def storeParts : Word → List (Place × Nat) → List Nat → List (MemOp × List Nat)
  | v, (p, n) :: ps, k :: ks => (.store v [(p, n)], [k]) :: storeParts (v >>> (8 * n)) ps ks
  | _, _, _ => []

/-- The elements of a store go on apart, but for those whose bytes a later element names (R114). -/
def elementParts (w : Nat) : List (Place × Nat) → List Nat → List (MemOp × List Nat)
  | e :: es, k :: ks =>
    if es.any fun x => e.1.meets (w / 8) x.1 (w / 8) then elementParts w es ks
    else (.vstore w [e], [k]) :: elementParts w es ks
  | _, _ => []

def MemOp.split (op : MemOp) (ks : List Nat) : List (MemOp × List Nat) :=
  if ks.all (· = ks.headD 1) then [(op, ks)]
  else
    match op with
    | .store v ps => storeParts v ps ks
    | .vstore w els => elementParts w els ks
    | .load _ _ _ _ | .sync _ _ _ _ _ _ | .ldp _ _ _ | .few _ _ _ | .amo _ _ _ _ _ _ | .vload _ _ _ _ | .braid _ => [(op, ks)]

/-- A part of a waiting load that may be read is read at once, whatever its other parts wait for (R58, R168, R169). From then on it
waits for nothing and holds nothing back, as a part on a U page. -/
def State.readEarly (s : State) (t : Nat) : List (Place × Nat) → List Nat → List (Place × Nat) × List Nat × State
  | (p, n) :: ps, k :: ks =>
    let (ps', ks', s') := (if s.spanFree t s.nextAcc k p n then s.noteRead (s.thr t).ctx p n else s).readEarly t ps ks
    if s.spanFree t s.nextAcc k p n then ((.data (s.readAt p n) (s.badAt p n), n) :: ps', 2 :: ks', s')
    else ((p, n) :: ps', k :: ks', s')
  | ps, ks => (ps, ks, s)

def State.early (s : State) (t : Nat) (op : MemOp) (ks : List Nat) : MemOp × List Nat × State :=
  match op with
  | .load rd n sx ps =>
    let (ps, ks, s) := s.readEarly t ps ks
    (.load rd n sx ps, ks, s)
  | .vload vd w base els =>
    let (ps, ks, s) := s.readEarly t (els.map fun e => (e.2, w / 8)) ks
    (.vload vd w base (List.zipWith (fun e p => (e.1, p.1)) els ps), ks, s)
  | .store _ _ | .sync _ _ _ _ _ _ | .ldp _ _ _ | .few _ _ _ | .amo _ _ _ _ _ _ | .vstore _ _ | .braid _ => (op, ks, s)

/-- The access waits until it may be performed. -/
def State.holdOp (s : State) (t : Nat) (op : MemOp) (ks : List Nat) : State :=
  let (op, ks, s) := s.early t op ks
  State.modThr { s with nextAcc := s.nextAcc + 1 } t fun th => { th with heldOps := th.heldOps ++ [⟨s.nextAcc, op, ks⟩] }

/-- Submits an access of thread `t`, whose parts lie on pages of the kinds `ks`: performed now, or waiting (R26, R65). A request of
R61 or R62 enters its bank at once and waits there (R64). -/
def State.submit (s : State) (t : Nat) (op : MemOp) (ks : List Nat) : State :=
  (op.split ks).foldl (fun s x =>
    if x.1.isSync || s.opFree t s.nextAcc x.1 x.2 then (s.perform t x.1).settle else s.holdOp t x.1 x.2) s

end Sys2Proof.Machine
end

