-- ==== Sys2Proof/Machine/Operands.lean ====
section
/-! DEFINITION. Sys2Proof/Machine/Operands.lean: operand forms and scalar results: effective addresses and displacements
(R36, R57), the results of the ALU table (R54, R55), and how an instruction goes on from the target of its access. -/

namespace Sys2Proof.Machine

/-- Wait-mode source of a 16-bit form (R28, R45). -/
def cs (r : Nat) : Src := ⟨r, .wait⟩

/-! ### Displacements (R36) -/

/-- EA of a load, in bytes (R57). -/
def eaLoad (s : State) (a : Src) (imm : BitVec 13) : Word := s.rx a + sext imm

/-- EA of a store or of a full/empty instruction: the displacement counts units of the access size (R36, R57, R61). -/
def eaScaled (s : State) (a : Src) (imm : BitVec 11) (size : Nat) : Word := s.rx a + sext imm * word size

/-- EA of the 16-bit memory forms: xb + 8 c (R45). -/
def eaCompact (s : State) (b : Nat) (c : BitVec 3) : Word := s.rx (cs b) + word (8 * c.toNat)

/-! ### ALU results (R54, R55) -/

/-- The shift amount is the low six bits (R54). -/
def shamt (b : Word) : Nat := b.toNat % 64

def boolWord (c : Bool) : Word := if c then 1 else 0

def mulhs (a b : Word) : Word := ofInt (a.toInt * b.toInt / 2 ^ 64)
def mulhu (a b : Word) : Word := word (a.toNat * b.toNat / 2 ^ 64)

/-- Quotients truncate toward zero; the divisor zero gives all ones (R55). -/
def divs (a b : Word) : Word := if b = 0 then BitVec.allOnes 64 else ofInt (a.toInt.tdiv b.toInt)
def divu (a b : Word) : Word := if b = 0 then BitVec.allOnes 64 else word (a.toNat / b.toNat)

/-- The remainder takes the sign of the dividend; the divisor zero gives the dividend (R55). -/
def rems (a b : Word) : Word := if b = 0 then a else ofInt (a.toInt.tmod b.toInt)
def remu (a b : Word) : Word := if b = 0 then a else word (a.toNat % b.toNat)

/-- Leading zero bits, 64 for zero (R54). -/
def clz64 (a : Word) : Word := if a = 0 then 64 else word (63 - a.toNat.log2)

/-- Trailing zero bits, 64 for zero (R54). -/
def ctzFrom (a : Word) : Nat → Nat → Nat
  | 0, _ => 64
  | n + 1, i => if bit a i then i else ctzFrom a n (i + 1)

def ctz64 (a : Word) : Word := word (ctzFrom a 64 0)

/-- Number of one bits (R54). -/
def popc64 (a : Word) : Word := word ((List.range 64).filter (bit a)).length

def minS (a b : Word) : Word := if a.toInt ≤ b.toInt then a else b
def maxS (a b : Word) : Word := if a.toInt ≤ b.toInt then b else a
def minU (a b : Word) : Word := if a.toNat ≤ b.toNat then a else b
def maxU (a b : Word) : Word := if a.toNat ≤ b.toNat then b else a

def sextw (a : Word) : Word := (a.setWidth 32).signExtend 64
def zextw (a : Word) : Word := (a.setWidth 32).setWidth 64

/-! ### Accesses -/

/-- Goes on with the target of an access, or takes its trap, or waits for its translation (R27, R331, R355). -/
def withTarget (s : State) (u : Use) (wr : Bool) (ea : Word) (n alw alp : Nat)
    (k : List (Place × Nat) → List Nat → Option Leaf → Verdict) : Verdict :=
  match s.target s.me u wr ea n alw alp with
  | .ok ps ks l => k ps ks l
  | .trap cls d i => .trap cls d i
  | .miss va => .park .other fun s => s.miss s.cur va
  | .stop f => .stop f

/-- The instruction issues with its access, unless the access must be performed as it issues and may not be yet (R162). -/
def accessing (s : State) (op : MemOp) (ks : List Nat) (v : State) : Verdict :=
  if s.mustWait op ks then .park .other id else .go v

/-- A release orders every earlier access of the thread first: it waits while one of them is not performed (R30, R65, R168). -/
def afterHeld (s : State) (v : Verdict) : Verdict := if s.performed s.cur then v else .park .other id

/-- The first place of an access. -/
def place1 : List (Place × Nat) → Place
  | (p, _) :: _ => p
  | [] => .nothing

end Sys2Proof.Machine
end

