-- ==== Sys2Proof/Machine/LoadStore.lean ====
section
/-! DEFINITION. Sys2Proof/Machine/LoadStore.lean: loads and stores (R57-R59), scratchpad full/empty words (R60-R66), AMOs
(R67) and fences (R68), their 16-bit forms (R45, R85), and the events by which deferred results land (R25, R61). -/

namespace Sys2Proof.Machine

/-! ### Loads and stores (R57, R58) -/

/-- A load of `n` bytes at an address into rd (R57): a deferred producer. -/
def loadFrom (src : List Src) (rd n : Nat) (sx : Bool) (ea : State → Word) : State → Result :=
  issue { src := src, dx := [rd] } fun s =>
    withTarget s .read false (ea s) n n 1 fun ps ks l => accessing s (.load rd n sx ps) ks
      (((s.deferX rd).submit s.cur (.load rd n sx ps) ks).countLeaf s.me.ctx (ea s).toNat l).advance

/-- A store of the low `n` bytes (R57). Only an 8-byte store may write an x register through the window (R59). -/
def storeTo (src : List Src) (n : Nat) (v ea : State → Word) : State → Result :=
  issue { src := src } fun s =>
    withTarget s (if n = 8 then .std else .write) true (ea s) n n 1 fun ps ks l => accessing s (.store (v s) ps) ks
      ((s.submit s.cur (.store (v s) ps) ks).countLeaf s.me.ctx (ea s).toNat l).advance

def execLdb (rd : Nat) (a : Src) (imm : BitVec 13) (s : State) : Result := loadFrom [a] rd 1 true (eaLoad · a imm) s
def execLdbu (rd : Nat) (a : Src) (imm : BitVec 13) (s : State) : Result := loadFrom [a] rd 1 false (eaLoad · a imm) s
def execLdh (rd : Nat) (a : Src) (imm : BitVec 13) (s : State) : Result := loadFrom [a] rd 2 true (eaLoad · a imm) s
def execLdhu (rd : Nat) (a : Src) (imm : BitVec 13) (s : State) : Result := loadFrom [a] rd 2 false (eaLoad · a imm) s
def execLdw (rd : Nat) (a : Src) (imm : BitVec 13) (s : State) : Result := loadFrom [a] rd 4 true (eaLoad · a imm) s
def execLdwu (rd : Nat) (a : Src) (imm : BitVec 13) (s : State) : Result := loadFrom [a] rd 4 false (eaLoad · a imm) s
def execLdd (rd : Nat) (a : Src) (imm : BitVec 13) (s : State) : Result := loadFrom [a] rd 8 false (eaLoad · a imm) s

def execStb (d a : Src) (imm : BitVec 11) (s : State) : Result := storeTo [d, a] 1 (·.rx d) (eaScaled · a imm 1) s
def execSth (d a : Src) (imm : BitVec 11) (s : State) : Result := storeTo [d, a] 2 (·.rx d) (eaScaled · a imm 2) s
def execStw (d a : Src) (imm : BitVec 11) (s : State) : Result := storeTo [d, a] 4 (·.rx d) (eaScaled · a imm 4) s
def execStd (d a : Src) (imm : BitVec 11) (s : State) : Result := storeTo [d, a] 8 (·.rx d) (eaScaled · a imm 8) s

/-- C.LD is LDD xa, [xb + 8c]; C.ST is STD. -/
def execCLd (a b : Nat) (c : BitVec 3) (s : State) : Result := loadFrom [cs b] a 8 false (eaCompact · b c) s
def execCSt (a b : Nat) (c : BitVec 3) (s : State) : Result := storeTo [cs a, cs b] 8 (·.rx (cs a)) (eaCompact · b c) s

/-! ### Results that land (R25, R61) -/

/-- A window or engine write of a register lands: whole, full and clean. It leaves a pending producer of the thread pending, and sets
the slot's event latch (R18, R171, R298). A write to x0 is discarded. -/
def Thread.landWrite (th : Thread) (r : Return) : Thread :=
  match r.dest with
  | .x rd => { (th.setX rd { th.getX rd with val := r.xval, full := true, poison := false }) with latch := true }
  | .v vd => { (th.setV vd { th.getV vd with val := r.vval, full := true, poison := false }) with latch := true }

/-- The return that lands where number `idx` is named: window writes of one register land in the order in which they were
performed (R165). -/
def Thread.landing (th : Thread) (idx : Nat) : Nat :=
  match th.returns[idx]? with
  | some r => if r.writer = .window then (th.returns.findIdx? fun w => w.writer = .window && w.dest = r.dest).getD idx else idx
  | none => idx

/-- LOAD_RETURN (R25): the thread's return number `idx` writes its destination full. -/
def execLoadReturn (t idx : Nat) (s : State) : Result :=
  let k := (s.thr t).landing idx
  match (s.thr t).returns[k]? with
  | some r =>
    let s := s.modThr t fun th => { th with returns := th.returns.eraseIdx k }
    if r.writer = .window then .next (s.modThr t (·.landWrite r))
    else
      match r.dest with
      | .x rd => .next (s.landX t rd r.xval r.poison)
      | .v vd => .next (s.landV t vd r.vval r.poison)
  | none => .next s

/-- An LDFT of the thread whose limit has expired: its bank and its place there (R61). -/
def State.expired (s : State) (t : Nat) : List (Nat × List BankReq) → Option (Nat × BankReq)
  | [] => none
  | (k, rs) :: rest =>
    match rs.find? fun r => r.t = t && r.k = .ldft && r.due ≠ 0 && decide (r.due ≤ s.cycle) with
    | some r => some (k, r)
    | none => s.expired t rest

/-- LDFT_TIMEOUT (R61): the request goes, rd receives all ones, and the word keeps its state. It carries no ordering
beyond R26 (R65). -/
def execLdftTimeout (t : Nat) (s : State) : Result :=
  match s.expired t s.banks with
  | some (k, r) =>
    let s := { s with banks := Table.set s.banks k ((s.bank k).erase r) }
    .next ((s.landX t r.rd (BitVec.allOnes 64) false).settle)
  | none => .next s

/-! ### Scratchpad full/empty words (R60-R64) -/

/-- The scratchpad word of an LDSYNC, STF or FEW (R60): the window trap unless the address is one, then the alignment trap. -/
def withPadWord (s : State) (ea : Word) (k : Nat → Nat → Verdict) : Verdict :=
  withTarget s .sync false ea 8 8 1 fun ps _ _ =>
    match place1 ps with
    | .pad core off => k core off
    | _ => .trap 5 0 ea

/-- A request does not issue while its bank holds 32 (R64 rule 4). -/
def State.bankRoom (s : State) (core off : Nat) : Bool := decide ((s.bank (bankKey core off)).length < Config.bankRequests)

/-- LDF, LDT, LDFT (R61): deferred producers of rd. The limit of an LDFT is STATUS.WLIM × 1,024 cycles, read at issue. -/
def ldsync (src : List Src) (k : SyncKind) (rd : Nat) (ea : State → Word) : State → Result :=
  issue { src := src, dx := [rd] } fun s =>
    withPadWord s (ea s) fun core off =>
      if s.bankRoom core off then
        let lim := if k = .ldft then s.me.wlim.toNat * 1024 else 0
        .go ((s.deferX rd).submit s.cur (.sync k rd 0 core off lim) [1]).advance
      else .park .other id

/-- STF (R62): the bank keeps the request with its data; the thread does not wait. -/
def stfTo (src : List Src) (v ea : State → Word) : State → Result :=
  issue { src := src } fun s =>
    withPadWord s (ea s) fun core off =>
      if s.bankRoom core off then .go (s.submit s.cur (.sync .stf 0 (v s) core off 0) [1]).advance
      else .park .other id

def execLdf (rd : Nat) (a : Src) (imm : BitVec 11) (s : State) : Result := ldsync [a] .ldf rd (eaScaled · a imm 8) s
def execLdt (rd : Nat) (a : Src) (imm : BitVec 11) (s : State) : Result := ldsync [a] .ldt rd (eaScaled · a imm 8) s
def execLdft (rd : Nat) (a : Src) (imm : BitVec 11) (s : State) : Result := ldsync [a] .ldft rd (eaScaled · a imm 8) s

/-- LDP acts at acceptance in either state of the word (R61, R64 rule 3). Like every LDSYNC it does not issue while its bank is full
(R64 rule 4). -/
def execLdp (rd : Nat) (a : Src) (imm : BitVec 11) (s : State) : Result :=
  issue { src := [a], dx := [rd] } (fun s =>
    withPadWord s (eaScaled s a imm 8) fun core off =>
      if s.bankRoom core off then
        accessing s (.ldp rd core off) [1] ((s.deferX rd).submit s.cur (.ldp rd core off) [1]).advance
      else .park .other id) s

def execStf (d a : Src) (imm : BitVec 11) (s : State) : Result := stfTo [d, a] (·.rx d) (eaScaled · a imm 8) s

/-- FEW (R63): sets the word's bit and leaves its data. -/
def few (full : Bool) (a : Src) (imm : BitVec 11) : State → Result :=
  issue { src := [a] } fun s =>
    withPadWord s (eaScaled s a imm 8) fun core off =>
      accessing s (.few full core off) [1] (s.submit s.cur (.few full core off) [1]).advance

def execFewF (a : Src) (imm : BitVec 11) (s : State) : Result := few true a imm s
def execFewE (a : Src) (imm : BitVec 11) (s : State) : Result := few false a imm s

/-- C.LDT reads its address register in take mode (R85). -/
def execCLdt (a b : Nat) (c : BitVec 3) (s : State) : Result := ldsync [⟨b, .take⟩] .ldt a (eaCompact · b c) s
def execCStf (a b : Nat) (c : BitVec 3) (s : State) : Result :=
  stfTo [cs a, cs b] (·.rx (cs a)) (eaCompact · b c) s

/-! ### Atomics (R67) -/

/-- An AMO reads rd in wait mode as well, and is a deferred producer of it (R67). With rel it is performed after every earlier access
of the thread that R67 names, and with acq before every later one. -/
def amoOp (op : AmoOp) (rd : Nat) (a b : Src) (o : AmoOrder) : State → Result :=
  issue { src := [a, b, ⟨rd, .wait⟩], dx := [rd] } fun s =>
    withTarget s .amo true (s.rx a) 8 8 8 fun ps ks l =>
      let m := MemOp.amo op o rd (s.me.xval rd) (s.rx b) (place1 ps)
      accessing s m ks (((s.deferX rd).submit s.cur m ks).countLeaf s.me.ctx (s.rx a).toNat l).advance

def execAmoadd (rd : Nat) (a b : Src) (o : AmoOrder) (s : State) : Result := amoOp .add rd a b o s
def execAmoswap (rd : Nat) (a b : Src) (o : AmoOrder) (s : State) : Result := amoOp .swap rd a b o s
def execAmocas (rd : Nat) (a b : Src) (o : AmoOrder) (s : State) : Result := amoOp .cas rd a b o s
def execAmomin (rd : Nat) (a b : Src) (o : AmoOrder) (s : State) : Result := amoOp .min rd a b o s
def execAmomax (rd : Nat) (a b : Src) (o : AmoOrder) (s : State) : Result := amoOp .max rd a b o s
def execAmominu (rd : Nat) (a b : Src) (o : AmoOrder) (s : State) : Result := amoOp .minu rd a b o s
def execAmomaxu (rd : Nat) (a b : Src) (o : AmoOrder) (s : State) : Result := amoOp .maxu rd a b o s
def execAmoand (rd : Nat) (a b : Src) (o : AmoOrder) (s : State) : Result := amoOp .and rd a b o s
def execAmoor (rd : Nat) (a b : Src) (o : AmoOrder) (s : State) : Result := amoOp .or rd a b o s
def execAmoxor (rd : Nat) (a b : Src) (o : AmoOrder) (s : State) : Result := amoOp .xor rd a b o s

/-! ### Fences (R68) -/

/-- Accesses that return a value to a register. -/
def MemOp.reads : MemOp → Bool
  | .load _ _ _ _ | .ldp _ _ _ | .amo _ _ _ _ _ _ | .vload _ _ _ _ => true
  | .store _ _ | .sync _ _ _ _ _ _ | .few _ _ _ | .vstore _ _ | .braid _ => false

/-- Every load, LDSYNC and AMO of the thread has returned (R68). -/
def State.returned (s : State) (t : Nat) : Bool :=
  ((s.thr t).returns.all fun r => r.writer ≠ .load && r.writer ≠ .amo) && !((s.requestsBefore t s.nextAcc).any (·.k.acquires)) && !((s.thr t).heldOps.any (·.op.reads))

/-- Every access of the thread that a FENCE of the scope orders is performed: at module or fabric scope those of every kind, and at a
narrower scope those to U pages are none of its business (R68, R168). -/
def State.performedAt (s : State) (t : Nat) (sc : Scope) : Bool :=
  match sc with
  | .module | .fabric => s.performed t
  | .slot | .core | .cluster | .die => s.doneBefore t s.nextAcc

/-- A FENCE issues once its condition holds, and has no other effect on the thread (R68). What the scope distinguishes,
other observers see (DESIGN CHOICE, log entry 2). -/
def fenceWhen (c : State → Bool) : State → Result :=
  issue {} fun s => if c s then .go s.advance else .park .other id

def execFenceFull (sc : Scope) (s : State) : Result := fenceWhen (fun s => s.performedAt s.cur sc && s.returned s.cur) s
def execFenceAcq (_sc : Scope) (s : State) : Result := fenceWhen (fun s => s.returned s.cur) s
def execFenceRel (sc : Scope) (s : State) : Result := fenceWhen (fun s => s.performedAt s.cur sc) s

end Sys2Proof.Machine
end

