-- ==== Sys2Proof/Machine/Control.lean ====
section
/-! DEFINITION. Sys2Proof/Machine/Control.lean: branches and jumps (R69), LOOP and its claims (R70-R73), pool headers (R47),
and their 16-bit forms (R45). -/

namespace Sys2Proof.Machine

/-! ### Branches and jumps (R69) -/

/-- Taken, the next pc is pc + sext(off) × 2; otherwise the next instruction follows. -/
def branch {n : Nat} (a b : Src) (off : BitVec n) (c : Word → Word → Bool) : State → Result :=
  issue { src := [a, b] } fun s =>
    .go (if c (s.rx a) (s.rx b) then s.jump (s.me.pc + (sext off <<< 1)) else s.advance)

def execBeq (a b : Src) (off : BitVec 11) (s : State) : Result := branch a b off (fun x y => x = y) s
def execBne (a b : Src) (off : BitVec 11) (s : State) : Result := branch a b off (fun x y => x ≠ y) s
def execBlt (a b : Src) (off : BitVec 11) (s : State) : Result := branch a b off (fun x y => x.toInt < y.toInt) s
def execBge (a b : Src) (off : BitVec 11) (s : State) : Result := branch a b off (fun x y => y.toInt ≤ x.toInt) s
def execBltu (a b : Src) (off : BitVec 11) (s : State) : Result := branch a b off (fun x y => x.toNat < y.toNat) s
def execBgeu (a b : Src) (off : BitVec 11) (s : State) : Result := branch a b off (fun x y => y.toNat ≤ x.toNat) s

/-- C.BEQZ is BEQ xa, x0; C.BNEZ is BNE xa, x0. -/
def execCBeqz (a : Nat) (imm : BitVec 7) (s : State) : Result := branch (cs a) (cs 0) imm (fun x y => x = y) s
def execCBnez (a : Nat) (imm : BitVec 7) (s : State) : Result := branch (cs a) (cs 0) imm (fun x y => x ≠ y) s

/-- rd = pc + the instruction's length, and a jump by a displacement in halfwords (R69). -/
def jumpLink {n : Nat} (rd : Nat) (off : BitVec n) : State → Result :=
  issue { dx := [rd] } fun s =>
    .go ((s.wx rd (s.me.pc + word s.insnLen)).jump (s.me.pc + (sext off <<< 1)))

def execJal (rd : Nat) (imm : BitVec 20) (s : State) : Result := jumpLink rd imm s

/-- C.J is JAL x0, target. -/
def execCJ (off : BitVec 11) (s : State) : Result := jumpLink 0 off s

/-- JALR takes the alignment trap when bit 0 of its target is set, and changes nothing (R69). -/
def jumpReg (rd : Nat) (a : Src) (imm : Word) : State → Result :=
  issue { src := [a], dx := [rd] } fun s =>
    let t := s.rx a + imm
    if bit t 0 then .trap 4 0 t else .go ((s.wx rd (s.me.pc + word s.insnLen)).jump t)

def execJalr (rd : Nat) (a : Src) (imm : BitVec 13) (s : State) : Result := jumpReg rd a (sext imm) s

/-- C.JR is JALR x0, xa, 0. -/
def execCJr (a : Nat) (s : State) : Result := jumpReg 0 (cs a) 0 s

/-! ### Pool headers (R47) -/

/-- The next pc lies beyond the header and its `n` halfwords. -/
def skipPool (n : Nat) : State → Result :=
  issue {} fun s => .go (s.jump (s.me.pc + word s.insnLen + word (2 * n)))

def execSkipw (n : BitVec 20) (s : State) : Result := skipPool n.toNat s
def execCSkip (n : BitVec 11) (s : State) : Result := skipPool n.toNat s

/-! ### LOOP (R70-R73) -/

/-- T = EXT0 × EXT1 × EXT2 of the extents word (R70, R72). -/
def nestTotal (e : Nat) : Nat := e % 2 ^ 32 * (e / 2 ^ 32 % 2 ^ 16) * (e / 2 ^ 48 % 2 ^ 16)

/-- The claim of R72 on NEXT, the extents word and the ACTIVE | MINCH word: the answer, and the two words that change. -/
def claimStep (next ext am : Nat) : Option (Nat × Nat) × Nat × Nat :=
  let t := nestTotal ext
  let rem := t - next
  let active := am / 2 ^ 32
  let minch := am % 2 ^ 32
  if rem = 0 then (none, next, (active - 1) * 2 ^ 32 + minch)
  else
    let a := max active 1
    let c := min (max (ceilDiv rem (2 * a)) (max minch 1)) rem
    (some (next, c), (next + c) % 2 ^ 64, am)

/-- The places of a descriptor's bytes 0-23 (R70). -/
def claimPlaces (p : Place) : List Place := [p, p.add 8, p.add 16]

/-- The claim may be performed: it is an access of the thread under the kind of the descriptor's page (R26, R65). -/
def State.claimFree (s : State) (t : Nat) (r : ClaimReq) : Bool := r.place.all fun p => s.spanFree t s.nextAcc r.kind p 8

/-- One word of a descriptor, and the state after its errors are logged. What a claim finds in a word with an uncorrectable error is a
free value (DESIGN CHOICE, log entry 54: no rule states it). -/
def State.claimWord (s : State) (c : Ctx) (p : Place) : Nat × State :=
  let v := leNat (s.readAt p 8)
  let bad := s.badAt p 8
  let s := s.noteRead c p 8
  if bad then ((Config.freeWord s.freeCtr).toNat, { s with freeCtr := s.freeCtr + 1 }) else (v, s)

/-- LOOP_CLAIM_RESPONSE (R72, R73): the memory performs the claim, and the answer enters the slot's claim buffer. -/
def execLoopClaimResponse (t : Nat) (s : State) : Result :=
  match (s.thr t).claimSent with
  | some r =>
    if !s.claimFree t r then .next s
    else
      let c := (s.thr t).ctx
      let at_ := fun i => (r.place[i]?).getD .nothing
      let (w0, s) := s.claimWord c (at_ 0)
      let (w1, s) := s.claimWord c (at_ 1)
      let (w2, s) := s.claimWord c (at_ 2)
      let (ans, next, am) := claimStep w0 w1 w2
      let s := (s.writeAt c (at_ 0) (leBytes 8 next)).writeAt c (at_ 2) (leBytes 8 am)
      let total := word (nestTotal w1)
      let b : Claim := match ans with
        | some (i, n) => ⟨r.pc, r.desc, true, word i, word n, total⟩
        | none => ⟨r.pc, r.desc, false, 0, 0, total⟩
      .next (s.modThr t fun th => { th with
        claim := some b, claimSent := none
        ext0 := w1 % 2 ^ 32, ext1 := w1 / 2 ^ 32 % 2 ^ 16, ext2 := w1 / 2 ^ 48 % 2 ^ 16 })
  | none => .next s

/-- The five registers of a LOOP with index `i` (R71). An index by an extent of 0, which a claim on an empty nest left and a program
combines with a chunk of its own, has no value that the spec states: it is free (DESIGN CHOICE, log entry 55). -/
def loopWrite (s : State) (rd : Nat) (i : Word) (last : Option Word) : State :=
  let th := s.me
  let n := i.toNat
  let e := match last with
    | some e => e
    | none => th.xval (rd + 1)
  let by_ := fun d v k => if d = 0 then Config.freeWord (s.freeCtr + k) else word v
  let i0 := by_ th.ext0 (n % th.ext0) 0
  let i1 := by_ (th.ext0 * th.ext1) (n / th.ext0 % th.ext1) 1
  let i2 := by_ (th.ext0 * th.ext1) (n / (th.ext0 * th.ext1)) 2
  let s := ((((s.wx (rd + 1) e).wx rd i).wx (rd + 2) i0).wx (rd + 3) i1).wx (rd + 4) i2
  if th.ext0 * th.ext1 = 0 then { s with freeCtr := s.freeCtr + 3 } else s

/-- The buffered claim that a LOOP at `pc` with descriptor `desc` may use. Any other is discarded by this LOOP, whichever way it goes
on (R73). -/
def Thread.claimAt (th : Thread) (pc desc : Word) : Option Claim := th.claim.filter fun c => c.pc = pc && c.desc = desc

/-- LOOP (R71, R73). An index left in the chunk is unpacked with the kept extents; such a LOOP makes no memory access, and so no check
of its descriptor's address (R71; DEDUCED, log entry 56). Otherwise the claim buffer answers, or the LOOP uses its turn to send a claim and
parks until the answer has arrived. -/
def execLoop (rd : Nat) (a : Src) (imm : BitVec 13) (s : State) : Result :=
  issue { src := [⟨rd, .wait⟩, ⟨rd + 1, .wait⟩, a], dx := [rd, rd + 1, rd + 2, rd + 3, rd + 4] } (fun s =>
    let th := s.me
    let n := th.xval rd + 1
    let desc := s.rx a
    let mine := th.claimAt th.pc desc
    if n.toNat < (th.xval (rd + 1)).toNat then
      .go (loopWrite (s.modThr s.cur fun th => { th with claim := mine }) rd n none).advance
    else
      match mine with
      | some c =>
        let s := s.modThr s.cur fun th => { th with claim := none }
        if c.ok then .go (loopWrite s rd c.i (some (c.i + c.c))).advance
        else .go (((s.wx rd c.total).wx (rd + 1) c.total).jump (th.pc + (sext imm <<< 1)))
      | none =>
        match th.claimSent with
        | some _ => .park .other id
        | none =>
          withTarget s .sync true desc 32 32 32 fun ps ks l =>
            .park .other fun s => (s.modThr s.cur fun th => { th with
              claim := none, claimSent := some ⟨th.pc, desc, claimPlaces (place1 ps), ks.headD 1, s.cycle⟩ }).countLeaf
                s.me.ctx desc.toNat l) s

end Sys2Proof.Machine
end

