-- ==== Sys2Proof/Machine/Threads.lean ====
section
/-! DEFINITION. Sys2Proof/Machine/Threads.lean: the THREAD family: launches, groups, barriers, EXIT, YIELD, TRIGGER, WHOAMI
(R74-R81), the statistics of a barrier (R102), and how a thread ends (R79, R302). -/

namespace Sys2Proof.Machine

/-! ### Accesses of whole records -/

/-- Where a record of `n` 8-byte words at `ea` leads, word by word, with the first check that fails (R102, R144, R355). -/
def State.wordTargets (s : State) (th : Thread) (u : Use) (wr : Bool) (ea : Word) : Nat → Target
  | 0 => .ok [] [] none
  | n + 1 =>
    match s.target th u wr ea 8 8 8 with
    | .ok ps ks l =>
      match s.wordTargets th u wr (ea + 8) n with
      | .ok qs js _ => .ok (ps ++ qs) (ks ++ js) l
      | r => r
    | r => r

/-- A record of `n` 8-byte words at `ea` counts once for each 2 MiB group that it touches (R336; DEDUCED, log entry 72: the rule names no
records). -/
def State.countWords (s : State) (c : Ctx) (th : Thread) (u : Use) (wr : Bool) (ea : Word) (n : Nat) : State :=
  s.countGroups c ((List.range n).map fun i => ((ea + word (8 * i)).toNat,
    match s.target th u wr (ea + word (8 * i)) 8 8 8 with
    | .ok _ _ l => l
    | _ => none))

/-- Joins parts that stand side by side in one memory, so that they are read and written as one (R143, R351). -/
def joinParts : List (Place × Nat) → List (Place × Nat)
  | [] => []
  | (p, n) :: rest =>
    match joinParts rest with
    | (q, m) :: more => if q = p.add n then (p, n + m) :: more else (p, n) :: (q, m) :: more
    | [] => [(p, n)]

/-- One access of `n` 64-bit words. -/
def withWords (s : State) (u : Use) (wr : Bool) (ea : Word) (n : Nat) (k : List (Place × Nat) → List Nat → Verdict) : Verdict :=
  match s.wordTargets s.me u wr ea n with
  | .ok ps ks _ => k (joinParts ps) ks
  | .trap cls d i => .trap cls d i
  | .miss va => .park .other fun s => s.miss s.cur va
  | .stop f => .stop f

/-! ### Leases end (R137-R139) -/

def State.array (s : State) (g : Nat) : Option ArrayState := Table.find? s.arrays g

/-- The thread's waiting MLEASE is withdrawn, its run ends, and its lease ends: the bank is free once the last command
accepted under it completes (R137, R139). -/
def State.dropLease (s : State) (t : Nat) : State :=
  let g := clusterOf (s.thr t).sid
  match (s.endRunOf t).array g with
  | some a =>
    { (s.endRunOf t) with arrays := Table.set s.arrays g { a with
        waiting := a.waiting.filter fun w => w.1 ≠ t
        restore := a.restore.filter fun r => r.2 ≠ t
        holder := a.holder.filter fun e => e.2 ≠ t } }
  | none => s

/-! ### Groups and barriers (R77, R78, R102) -/

/-- Key of a group entry: groups belong to a tenancy, with 1,024 entries on each die (R77, R315). -/
def groupKey (part ten die entry : Nat) : Nat := ((part * 4 + ten) * 2 + die) * 1024 + entry

/-- The key that a handle names for a thread: bit 15 set, the die in bit 10, the entry in [9:0], all other bits 0 (R77). -/
def handleKey (th : Thread) (h : Word) : Option Nat :=
  if bit h 15 && decide (h.toNat < 65536) && decide (bits h 14 11 = 0) then
    some (groupKey th.part th.ten (bits h 10 10) (bits h 9 0))
  else none

def groupStatus (code : Nat) : Word := word (2 ^ 63 + code)

/-- Writes the statistics record of R102: the 16 counters summed over the distinct cores of the members. -/
def statRecord (s : State) (cores : List Nat) : List Byte :=
  let cnt := fun k n => Table.get (s.core k).events n 0
  let sat := ((List.range 16).map fun n => if cores.any fun k => cnt k n = 0xFFFFFFFF then 2 ^ n else 0).sum
  leBytes 8 cores.length ++ leBytes 8 sat ++
    (List.range 16).flatMap fun n => leBytes 8 ((cores.map fun k => cnt k n).sum % 2 ^ 64)

/-- Writes the record once at each distinct address (R78, R102), also at one that only a member named which was killed before the barrier
completed (DESIGN CHOICE, log entry 81). -/
def State.writeStats (s : State) (recs : List (Nat × Word × List (Place × Nat))) (members : List Nat) : State :=
  let bytes := statRecord s ((members.map fun t => coreOf (s.thr t).sid).eraseDups)
  let distinct := recs.foldl (fun acc r => if acc.any fun q => q.2.1 = r.2.1 then acc else acc ++ [r])
    ([] : List (Nat × Word × List (Place × Nat)))
  distinct.foldl (fun s r => s.writeParts (s.thr r.1).ctx r.2.2 bytes) s

/-- A waiting member goes on: xd is written and the pc moves past its BAR. A member that is frozen or saved does so when
its BAR issues again (R27, R78, R290). -/
def State.release (s : State) (t : Nat) (n : Word) : State :=
  s.modThr t fun th =>
    match th.bar with
    | some b =>
      if th.frozen.isSome || th.saved || th.pc ≠ b.pc then { th with bar := some { b with done := some n } }
      else
        let th := b.takes.foldl (fun th r => th.emptyX r) th
        { (th.setX b.rd ⟨n, true, false, false⟩) with
          bar := none, wait := none, answers := [], pc := th.pc + word b.len, notBefore := max th.notBefore (s.cycle + 1) }
    | none => th

/-- Completes the barrier of a group when every current member has arrived (R77, R78). -/
def State.tryGroup (s : State) (key : Nat) : State :=
  match Table.find? s.groups key with
  | some g =>
    if g.arrived ≠ [] && g.members.all g.arrived.contains then
      let n := word g.bars
      let s := s.writeStats g.recs g.members
      let s := { s with groups := Table.set s.groups key { g with arrived := [], recs := [], bars := g.bars + 1 } }
      g.arrived.foldl (fun s t => s.release t n) s
    else s
  | none => s

/-- Members of a population group: every thread that has not exited, started or not (R77). -/
def Population.members (p : Population) : Nat := p.size - p.exited

def State.tryPop (s : State) (id : Nat) : State :=
  match Table.find? s.pops id with
  | some p =>
    if p.arrived ≠ [] && decide (p.arrived.length = p.members) then
      let n := word p.bars
      let s := s.writeStats p.recs p.arrived
      let s := { s with pops := Table.set s.pops id { p with arrived := [], recs := [], bars := p.bars + 1 } }
      p.arrived.foldl (fun s t => s.release t n) s
    else s
  | none => s

/-- The thread leaves a group; an empty group dissolves; a barrier that only it kept open completes (R77). The address that it named for
the present barrier's record stays (log entry 81). -/
def State.leaveGroup (s : State) (t key : Nat) : State :=
  match Table.find? s.groups key with
  | some g =>
    let members := g.members.filter (· ≠ t)
    let s := s.modThr t fun th => { th with groups := th.groups.filter (· ≠ key) }
    if members = [] then { s with groups := Table.erase s.groups key }
    else
      let g := { g with members := members, arrived := g.arrived.filter (· ≠ t) }
      ({ s with groups := Table.set s.groups key g }).tryGroup key
  | none => s

/-! ### How a thread ends (R79, R302) -/

/-- Accesses that were held behind an acquire and still take effect: plain stores, FEW and vector stores. EXIT has waited for
STFs and AMOs. -/
def MemOp.survives : MemOp → Bool
  | .store _ _ | .few _ _ _ | .vstore _ _ | .braid _ => true
  | .load _ _ _ _ | .sync _ _ _ _ _ _ | .ldp _ _ _ | .amo _ _ _ _ _ _ | .vload _ _ _ _ => false

/-- Removes a thread: its unserved requests are withdrawn, the stores that it issued are performed, it leaves its groups and
its lease, and its slot is empty (R66, R79, R126, R302). It counts as exited (R76). -/
def State.endThread (s : State) (t : Nat) : State :=
  let th := s.thr t
  let core := coreOf th.sid
  let s := { s with banks := Table.mapVals s.banks fun rs => rs.filter fun r => r.t ≠ t }
  let s := s.modThr t fun th => { th with heldOps := [] }
  let s := (th.heldOps.filter fun h => h.op.survives).foldl (fun s h => s.perform t h.op) s
  let s := th.groups.foldl (fun s k => s.leaveGroup t k) s
  let s := s.dropLease t
  let s := s.modCore core fun c => { c with sfuQ := c.sfuQ.filter fun r => r.t ≠ t }
  let s := match Table.find? s.pops th.pop with
    | some p => { s with pops := Table.set s.pops th.pop { p with
        exited := p.exited + 1
        trig := if th.triggered then p.trig else p.trig + 1
        arrived := p.arrived.filter (· ≠ t) } }
    | none => s
  let s := s.forgetMisses t
  let s := { s with threads := Table.erase s.threads t
                    slots := s.slots.filter fun e => e.2 ≠ t }
  (s.tryPop th.pop).settle

/-! ### Launches (R74-R76) -/

def emptyPop (part ten : Nat) (pkt : Option (Nat × Nat)) : Population where
  part := part
  ten := ten
  pc := 0
  seeds := []
  size := 0
  quota := 0
  after := 0
  done := 0
  started := 0
  exited := 0
  trig := 0
  bars := 0
  arrived := []
  recs := []
  packet := pkt

/-- Places a launch entry in the queue of a core's root slot, and answers the launch id (R75). -/
def State.placeLaunch (s : State) (core part ten : Nat) (addr : Word) (seeds : List Word) (pkt : Option (Nat × Nat)) :
    Nat × State :=
  let id := s.nextPop + 1
  let s := { s with nextPop := id, pops := Table.set s.pops id (emptyPop part ten pkt) }
  (id, s.modCore core fun c => { c with launch := c.launch ++ [⟨id, addr, part, ten, core / 8, 0, false, seeds, pkt⟩] })

/-- SPAWN (R75): an immediate producer of the launch id, or of the full status. -/
def execSpawn (rd : Nat) (a : Src) (s : State) : Result :=
  issue { src := [a], dx := [rd] } (fun s => afterHeld s <|
    let th := s.me
    let core := coreOf th.sid
    if Config.launchEntries ≤ (s.core core).launch.length then .go (s.wx rd 0x8000000000000001).advance
    else
      let (id, s) := s.placeLaunch core th.part th.ten (s.rx a) [] none
      .go (s.wx rd (word id)).advance) s

/-- JOIN (R77): failures are reported in the order of the rule. The entry taken is the lowest free one of the die, which R77
does not say (DESIGN CHOICE, log entry 63). -/
def execJoin (rd : Nat) (a : Src) (s : State) : Result :=
  issueSimple { src := [a], dx := [rd] } (fun s =>
    let th := s.me
    let h := s.rx a
    let die := dieOf th.sid
    if h = 0 then
      if 4 ≤ th.groups.length then s.wx rd (groupStatus 3)
      else
        match (List.range Config.groupEntries).find? fun e => !Table.has s.groups (groupKey th.part th.ten die e) with
        | none => s.wx rd (groupStatus 1)
        | some e =>
          let k := groupKey th.part th.ten die e
          let s := { s with groups := Table.set s.groups k ⟨[s.cur], [], 0, []⟩ }
          (s.modThr s.cur fun th => { th with groups := th.groups ++ [k] }).wx rd (word (2 ^ 15 + die * 2 ^ 10 + e))
    else
      match (handleKey th h).bind fun k => (Table.find? s.groups k).map fun g => (k, g) with
      | none => s.wx rd (groupStatus 2)
      | some (k, g) =>
        if g.members.contains s.cur then s.wx rd h
        else if 4 ≤ th.groups.length then s.wx rd (groupStatus 3)
        else
          let s := { s with groups := Table.set s.groups k { g with members := g.members ++ [s.cur] } }
          (s.modThr s.cur fun th => { th with groups := th.groups ++ [k] }).wx rd h) s

/-- LEAVE (R77): xd is the number of members that remain. -/
def execLeave (rd : Nat) (a : Src) (s : State) : Result :=
  issue { src := [a], dx := [rd] } (fun s => afterHeld s <|
    let th := s.me
    match (handleKey th (s.rx a)).bind fun k => (Table.find? s.groups k).map fun g => (k, g) with
    | none => .go (s.wx rd (groupStatus 2)).advance
    | some (k, g) =>
      if g.members.contains s.cur then
        let n := (g.members.filter (· ≠ s.cur)).length
        .go ((s.leaveGroup s.cur k).wx rd (word n)).advance
      else .go (s.wx rd (groupStatus 4)).advance) s

/-- GRPCNT (R77). Handle 0 names the population group. -/
def execGrpcnt (rd : Nat) (a : Src) (s : State) : Result :=
  issueSimple { src := [a], dx := [rd] } (fun s =>
    let th := s.me
    let h := s.rx a
    if h = 0 then
      match Table.find? s.pops th.pop with
      | some p => s.wx rd (word p.members)
      | none => s.wx rd (groupStatus 2)
    else
      match (handleKey th h).bind fun k => Table.find? s.groups k with
      | some g => s.wx rd (word g.members.length)
      | none => s.wx rd (groupStatus 2)) s

/-- The current thread's BAR with the barrier complete: take marks were made, xd is written, the pc moves on. -/
def barFinish (s : State) (rd : Nat) (n : Word) : Verdict :=
  .go ((s.modThr s.cur fun th => { th with bar := none }).wx rd n).advance

/-- The arrival of the current thread at the barrier of a group it belongs to: it parks, or completes the barrier. -/
def barArrive (s : State) (rd : Nat) (takes : List Nat) (wait : Nat) (arrive : State → State) (complete : State → Bool)
    (tryIt : State → State) (count : Word) : Verdict :=
  let w : BarWait := ⟨s.me.pc, wait, rd, takes, s.insnLen, none⟩
  if complete (arrive s) then barFinish (tryIt (arrive s)) rd count
  else .park (.barrier wait) fun s => (arrive s).modThr s.cur fun th => { th with bar := some w }

/-- BAR on a group handle or on the population group (R78). The arrival is a release; a BAR that is none waits for nothing. -/
def barrier (rd : Nat) (a b : Src) : State → Result :=
  issue { src := [a, b], dx := [rd] } fun s =>
    let th := s.me
    let h := s.rx a
    let xr := s.rx b
    let takes := ([a, b].filter fun x => x.mode = .take).map (·.reg)
    match th.bar.filter fun w => w.pc = th.pc with
    | some w =>
      match w.done with
      | some n => barFinish s rd n
      | none => .park (.barrier w.group) id
    | none =>
      let go := fun (recs : List (Nat × Word × List (Place × Nat))) (count : State → State) =>
        if h = 0 then
          match Table.find? s.pops th.pop with
          | none => .go (s.wx rd (groupStatus 2)).advance
          | some p => afterHeld s <|
            barArrive s rd takes (2 ^ 62 + th.pop)
              (fun s => count { s with pops := Table.set s.pops th.pop { p with
                arrived := p.arrived ++ [s.cur], recs := p.recs ++ recs } })
              (fun _ => decide (p.arrived.length + 1 = p.members)) (·.tryPop th.pop) (word p.bars)
        else
          match (handleKey th h).bind fun k => (Table.find? s.groups k).map fun g => (k, g) with
          | none => .go (s.wx rd (groupStatus 2)).advance
          | some (k, g) =>
            if g.members.contains s.cur then afterHeld s <|
              barArrive s rd takes k
                (fun s => count { s with groups := Table.set s.groups k { g with
                  arrived := g.arrived ++ [s.cur], recs := g.recs ++ recs } })
                (fun _ => g.members.all fun m => m = s.cur || g.arrived.contains m) (·.tryGroup k) (word g.bars)
            else .go (s.wx rd (groupStatus 4)).advance
      if xr = 0 then go [] id
      else withWords s .write true xr 18 fun ps _ => go [(s.cur, xr, ps)] fun s => s.countWords th.ctx th .write true xr 18

def execBar (rd : Nat) (a b : Src) (s : State) : Result := barrier rd a b s

/-- C.BAR0 is BAR x0, x0, x0. -/
def execCBar0 (s : State) : Result := barrier 0 (cs 0) (cs 0) s

/-- Unserved STF requests of a thread (R79). -/
def State.ownStf (s : State) (t : Nat) : Bool := s.banks.any fun e => e.2.any fun r => r.t = t && r.k = .stf

/-- AMOs of a thread that have not completed (R79). -/
def State.ownAmo (s : State) (t : Nat) : Bool :=
  ((s.thr t).returns.any fun r => r.writer = .amo) || (s.thr t).heldOps.any fun h => match h.op with
    | .amo _ _ _ _ _ _ => true
    | _ => false

/-- EXIT (R79). The root slot has no population; its EXIT leaves it as it is but for its pc (DESIGN CHOICE, log entry 10). -/
def exitThread : State → Result :=
  issue {} fun s =>
    if s.ownStf s.cur then .park .exit id
    else if s.ownAmo s.cur then .park .other id
    else if s.me.isRoot then .go s.advance
    else .go (s.endThread s.cur)

def execExit (s : State) : Result := exitThread s
def execCExit (s : State) : Result := exitThread s

/-- YIELD (R80): the thread is not ready until the cycle after its slot's next owned turn. -/
def yieldTurn : State → Result :=
  issueSimple {} fun s =>
    let slot := slotOf s.me.sid
    let next := s.cycle + 1 + (slot + 16 - (s.cycle + 1) % 16) % 16
    s.modThr s.cur fun th => { th with notBefore := next + 1 }

def execYield (s : State) : Result := yieldTurn s
def execCYield (s : State) : Result := yieldTurn s

/-- TRIGGER (R80): the first one counts for a dependent population; it is a release. A later one has no effect. -/
def execTrigger (s : State) : Result :=
  issue {} (fun s =>
    let th := s.me
    if th.triggered then .go s.advance
    else afterHeld s <|
      let s := s.modThr s.cur fun th => { th with triggered := true }
      match Table.find? s.pops th.pop with
      | some p => .go ({ s with pops := Table.set s.pops th.pop { p with trig := p.trig + 1 } }).advance
      | none => .go s.advance) s

/-- The identity word of WHOAMI 0 (R81). -/
def identity (th : Thread) : Word :=
  word (th.sid % 16 + th.sid / 16 % 8 * 2 ^ 4 + clusterOf th.sid * 2 ^ 7 + th.part * 2 ^ 14)

/-- WHOAMI (R81). A population that a LAUNCH packet launched has id 0 here. -/
def execWhoami (rd : Nat) (a : Src) (s : State) : Result :=
  issueSimple { src := [a], dx := [rd] } (fun s =>
    let th := s.me
    let sel := s.rx a
    s.wx rd (
      if sel = 0 then identity th
      else if sel = 1 then word (Config.windowBase + clusterOf th.sid * 0x800000 + th.sid / 16 % 8 * 0x40000)
      else if sel = 2 then
        match Table.find? s.pops th.pop with
        | some p => if p.packet.isSome then 0 else word th.pop
        | none => 0
      else 0)) s

end Sys2Proof.Machine
end

