-- ==== Sys2Proof/Machine/Transfer.lean ====
section
/-! DEFINITION. Sys2Proof/Machine/Transfer.lean: how engines reach memory (R17, R18, R136, R185, R192, R329): the place of
each run of bytes, moves of whole ranges that stop at the first failing byte, and engine contexts with their timelines
(R182, R183). -/

namespace Sys2Proof.Machine

/-! ### Engine contexts and timelines (R182, R183) -/

/-- Key of an engine context or lease timeline: timeline q of R43, in a cluster (q 0-3, 8-11) or on a die (q 4-7). -/
def ctxKey (part ten q place : Nat) : Nat := ((part * 4 + ten) * 16 + q) * 128 + place

/-- The cluster or die that a timeline of a slot belongs to. -/
def ctxPlace (q sid : Nat) : Nat := if 4 ≤ q ∧ q < 8 then dieOf sid else clusterOf sid

def Thread.ctxKeyOf (th : Thread) (q : Nat) : Nat := ctxKey th.part th.ten q (ctxPlace q th.sid)

def freshEngCtx : EngCtx := ⟨0, 0, false, [], none, []⟩

def State.engCtx (s : State) (k : Nat) : EngCtx := Table.get s.ctxs k freshEngCtx

def State.modEngCtx (s : State) (k : Nat) (f : EngCtx → EngCtx) : State :=
  { s with ctxs := Table.set s.ctxs k (f (s.engCtx k)) }

/-- Status words of R30 and R185. -/
def errorStatus (code : Nat) : Word := word (2 ^ 63 + code)

/-- Bytes that lie whole in the partition's HBM region (R314). -/
def State.inRegion (s : State) (part a n : Nat) : Bool :=
  decide ((s.part part).hbmBase * 2 ^ 21 ≤ a) && decide (a + n ≤ (s.part part).hbmLimit * 2 ^ 21)

/-! ### Places -/

/-- For whom an engine works: slot of the issuing thread, partition and tenancy, its id in error logs, and the engine context that
waits for its translations, if it has one (R331). -/
structure Eng where
  sid  : Nat
  part : Nat
  ten  : Nat
  id   : Nat
  key  : Option Nat

def Eng.ctx (e : Eng) : Ctx := ⟨coreOf e.sid, e.part, e.ten, e.id⟩

/-- The timeline number q in a context key. Numbers 12 and 13 stand for the Braid and the iteration engine of a die, which have no
timeline. -/
def keyQ (k : Nat) : Nat := k / 128 % 16

/-- Partition and tenancy of a key of which each tenancy has `per`: an engine context (2,048), a tensor record, or a model. -/
def keyOwner (per k : Nat) : Nat × Nat := (k / per / 4, k / per % 4)

/-- The cluster whose translation service core a context uses: its own for copies, gathers and the array, and cluster 0 of its die
for collectives, the Braid and the iteration engine (R330). -/
def ctxTsc (k : Nat) : Nat := if (4 ≤ keyQ k ∧ keyQ k < 8) ∨ 12 ≤ keyQ k then k % 128 * 64 else k % 128

/-- The code of an engine access whose translation is not there yet. No operation ends with it: `State.engTry`. -/
def missing : Nat := 16

/-- The translation that an engine uses. A context uses an answer that it holds or the TLB of its cluster, and else the access
misses (R330, R331). A unit that is no engine context of R182 (the Canopy, a port, Taproot) has its walk made at once, which the
spec leaves open (DESIGN CHOICE, log entry 61). -/
def State.engLookup (s : State) (e : Eng) (va : Nat) : Except Nat Leaf :=
  match e.key with
  | some k =>
    match (s.engCtx k).answers.find? fun a => a.page = va / 65536 with
    | some a => if a.cause = 0 then .ok a.leaf else .error 2
    | none =>
      match tlbFind (s.cluster (ctxTsc k)).tlb e.part e.ten va with
      | some l => .ok l
      | none => .error missing
  | none =>
    match tlbFind (s.cluster (clusterOf e.sid)).tlb e.part e.ten va with
    | some l => .ok l
    | none =>
      match s.walk e.part e.ten va with
      | .ok l => .ok l
      | .error _ => .error 2

/-- An access of a context whose translation is missing is noted in the state. -/
def State.noteMiss (s : State) (va c : Nat) : State := if c = missing then { s with xmiss := some (va / 65536) } else s

/-- What an engine is about to do has met no missing translation. -/
def State.noMiss (s : State) : State := { s with xmiss := none }

/-- A context stalls for the translation of a page (R331). -/
def State.engMiss (s : State) (k page : Nat) : State :=
  let (part, ten) := keyOwner 2048 k
  (s.modEngCtx k fun c => { c with stall := some page }).queueMiss (ctxTsc k) part ten page (.engine k)

/-- A context gives up the answers that it holds. -/
def State.dropAnswers (s : State) (k : Nat) : State :=
  if (s.engCtx k).answers.isEmpty then s else s.modEngCtx k fun c => { c with answers := [] }

/-- A context makes accesses all of whose translations it holds, and gives the answers up; or it stalls for one that is missing and
makes none of them. -/
def State.engTry (s : State) (k : Nat) (f : State → State) : State :=
  let r := f s
  match r.xmiss with
  | some page => s.engMiss k page
  | none => r.dropAnswers k

/-- What an engine access may touch. -/
inductive EngUse where
  | read
  /-- Any write but that of WIN: registers and banks are forbidden. -/
  | write
  /-- The destination of WIN, which may be registers (R192). -/
  | win
deriving DecidableEq, Repr

/-- Registers that an engine request may name: those of R18, the issuing slot's own among them (R192). -/
def State.engReg (s : State) (e : Eng) (off : Nat) : Option Place :=
  let g := off / 0x800000
  let r := off % 0x800000 - 0x400000
  let target := (g * 8 + r / 0x20000) * 16 + r % 0x20000 / 0x2000
  if s.admitsSlot e.part e.sid target then s.regPlace e.part e.ten target (r % 0x2000) else none

def inRegs (va : Nat) : Bool :=
  let co := (va - Config.windowBase) % 0x800000
  decide (0x400000 ≤ co) && decide (co < 0x500000)

/-- The byte belongs to a register of R17: the slot's block also has reserved offsets, and nothing lies beyond the span. -/
def isRegister (va : Nat) : Bool :=
  inWindow va && decide (va - Config.windowBase < Config.windowSpan) && inRegs va &&
    (decide (va % 0x2000 < 0x100) || decide (0x1000 ≤ va % 0x2000))

/-- Bytes from `va` to the end of what one place covers: a register, 16 KiB of the rest of the window (a bank), or 64 KiB. -/
def runLength (va : Nat) : Nat :=
  if inWindow va then
    if inRegs va then (if va % 0x2000 < 0x1000 then 8 - va % 8 else 256 - va % 256)
    else Config.bankBytes - va % Config.bankBytes
  else 65536 - va % 65536

/-- The place of the byte at `va` for an engine, with the leaf it was translated by; or the status code of R185. A leaf that leads
beyond the module's 384 GiB of HBM ends the operation with XLAT (DESIGN CHOICE, log entry 9: R10 has no such byte, and only the
root slot's firmware table, which no region bounds, can hold such a leaf). -/
def State.engPlace (s : State) (e : Eng) (u : EngUse) (va : Nat) : Except Nat (Place × Option Leaf) :=
  if 2 ^ 48 ≤ va then .error 2
  else if inWindow va then
    let off := va - Config.windowBase
    if inRegs va then
      if u = .write || Config.windowSpan ≤ off || !s.admits e.part (off / 0x800000) then .error 3
      else
        match s.engReg e off with
        | some p => .ok (p, none)
        | none => .error 3
    else
      match s.windowPlace e.part e.ten e.sid (if u = .read then .read else .write) va with
      | some p => .ok (p, none)
      | none => .error 3
  else
    match s.engLookup e va with
    | .ok l =>
      if (u ≠ .read && !l.w) || (!l.host && Config.hbmBytes ≤ l.phys + (va - l.va)) then .error 2
      else .ok (leafPlace l va, some l)
    | .error c => .error c

/-! ### Moving bytes -/

/-- A transfer in progress: the state, the 2 MiB groups whose access has been counted (R336), and the status code so far. -/
structure Xfer where
  s    : State
  seen : List Nat
  code : Nat
  /-- Bytes done. -/
  done : Nat

/-- Counts an engine access once for each group that the operation touches (R336). -/
def Xfer.count (x : Xfer) (c : Ctx) (va : Nat) : Option Leaf → Xfer
  | some l =>
    if l.cnt && !x.seen.contains (va / 2 ^ 21) then
      { x with s := x.s.countAccess c va l, seen := va / 2 ^ 21 :: x.seen }
    else x
  | none => x

/-- The first byte of a run that carries an error (R185 DATA). -/
def State.firstBad (s : State) (p : Place) (n : Nat) : Option Nat :=
  if s.badAt p n then (List.range n).find? fun i => s.badAt (p.add i) 1 else none

/-- Reads `n` bytes from `va` in runs. The bytes before a failing one are returned, with its code. -/
def Xfer.read (e : Eng) : Nat → Nat → Nat → Xfer → List Byte × Xfer
  | 0, _, _, x => ([], x)
  | fuel + 1, va, n, x =>
    if n = 0 then ([], x)
    else
      match x.s.engPlace e .read va with
      | .error c => ([], { x with code := c, s := x.s.noteMiss va c })
      | .ok (p, l) =>
        let k := min n (runLength va)
        let x := x.count e.ctx va l
        match x.s.firstBad p k with
        | some i => (x.s.readAt p i, { x with s := x.s.noteRead e.ctx p k, code := 4 })
        | none =>
          let bs := x.s.readAt p k
          let (rest, x) := Xfer.read e fuel (va + k) (n - k) { x with s := x.s.noteRead e.ctx p k }
          (bs ++ rest, x)

def Xfer.readAll (e : Eng) (va n : Nat) (x : Xfer) : List Byte × Xfer := Xfer.read e (n + 1) va n x

/-- Writes bytes from `va` in runs, up to the first failing byte. -/
def Xfer.write (e : Eng) (u : EngUse) : Nat → Nat → List Byte → Xfer → Xfer
  | 0, _, _, x => x
  | fuel + 1, va, bs, x =>
    if bs.isEmpty then x
    else
      match x.s.engPlace e u va with
      | .error c => { x with code := c, s := x.s.noteMiss va c }
      | .ok (p, l) =>
        let k := min bs.length (runLength va)
        let x := x.count e.ctx va l
        Xfer.write e u fuel (va + k) (bs.drop k)
          { x with s := x.s.writeAt e.ctx p (bs.take k), done := x.done + k }

def Xfer.writeAll (e : Eng) (u : EngUse) (va : Nat) (bs : List Byte) (x : Xfer) : Xfer :=
  Xfer.write e u (bs.length + 1) va bs x

/-- Moves `n` bytes; those before the first failing byte, of the source or of the destination, are written (R185). -/
def Xfer.move (e : Eng) (src dst n : Nat) (x : Xfer) : Xfer :=
  let (bs, y) := Xfer.readAll e src n x
  let z := Xfer.writeAll e .write dst bs { y with code := 0 }
  if z.code ≠ 0 then z else { z with code := y.code }

/-- The piece of rows of `width` bytes that starts at byte `o` of their row-major order: its row, its column, and as much of `n` bytes
as the row has left. -/
def rowPiece (width o n : Nat) : Nat × Nat × Nat := (o / width, o % width, min n (width - o % width))

/-- `n` bytes of a copy from byte `o` on, in row-major order; a failing byte ends it. -/
def Xfer.rows (e : Eng) (src dst sstr dstr width : Nat) : Nat → Nat → Nat → Xfer → Xfer
  | 0, _, _, x => x
  | fuel + 1, o, n, x =>
    if n = 0 then x
    else
      let (r, c, k) := rowPiece width o n
      let x := x.move e (src + r * sstr + c) (dst + r * dstr + c) k
      if x.code ≠ 0 then x else Xfer.rows e src dst sstr dstr width fuel (o + k) (n - k) x

/-- Pieces that `n` bytes of rows can take. -/
def rowFuel (width n : Nat) : Nat := n / max width 1 + 2

/-- Two runs of bytes share one. -/
def runsMeet (a n b m : Nat) : Bool := decide (a < b + m) && decide (b < a + n) && decide (0 < n) && decide (0 < m)

/-- Two footprints share a byte (R185 OVERLAP). -/
def footprintsMeet (a sa b sb rows width : Nat) : Bool :=
  decide (0 < width) && (List.range rows).any fun r =>
    let lo := a + r * sa
    (List.range rows).any fun q => decide (lo < b + q * sb + width) && decide (b + q * sb < lo + width)

/-- Reads `n` 64-bit words, or the status code of the first byte that fails. -/
def Xfer.words (e : Eng) (va n : Nat) (x : Xfer) : Except Nat (List Word) × Xfer :=
  let (bs, x) := Xfer.readAll e va (8 * n) x
  if x.code ≠ 0 then (.error x.code, x)
  else (.ok ((List.range n).map fun i => word (leNat ((bs.drop (8 * i)).take 8))), x)

/-- The same, as an operation of its own. -/
def State.engWords (s : State) (e : Eng) (va n : Nat) : Except Nat (List Word) × State :=
  let (r, x) := Xfer.words e va n ⟨s, [], 0, 0⟩
  (r, x.s)

end Sys2Proof.Machine
end

