-- ==== Sys2Proof/Machine/Engine.lean ====
section
/-! DEFINITION. Sys2Proof/Machine/Engine.lean: the engines (R176-R201): WAITTL, copies, gathers, collectives, the Braid, and
the Lanyard flits that carry their remote traffic. An operation takes the effect that is left of it at the event that completes it,
or goes on before that by 4 KiB or one position of a WALK (`Move.engine`): these are among the orders that R184 allows. -/

namespace Sys2Proof.Machine

/-! ### Common parts -/

/-- The engines work for the tenancy now: it runs, or a switch brings it in; those of the tenancy that goes out pause at the
time of the switch (R313, R320). Partition 0 stands for the root slots. -/
def State.tenRuns (s : State) (part ten : Nat) : Bool :=
  part = 0 || (if (s.part part).switching then (s.part part).incoming = ten else (s.part part).cur = ten)

/-- A remote flit enters the link, or comes back to the module that sent it (R312). -/
def State.send (s : State) (f : Flit) : State :=
  if f.module = s.moduleNum then { s with linkIn := s.linkIn ++ [f] } else { s with linkOut := s.linkOut ++ [f] }

/-- Rank-table entry: VALID [31], DPART [29:26], PORT [18:14], MODULE [13:0] (R312). -/
def State.rankEntry (s : State) (part r : Nat) : Word := Table.get (s.part part).rank r 0

def State.flitTo (s : State) (r : EngReq) (entry : Word) (vc : Nat) (body : FlitBody) : Flit where
  port := bits entry 18 14
  source := s.moduleNum
  module := bits entry 13 0
  sender := r.part
  part := bits entry 29 26
  ten := r.ten
  key := (s.part r.part).fabkey
  vc := vc
  body := body

/-- The engine of a request; its id in error logs is that of R352. -/
def EngReq.eng (r : EngReq) (k : Nat) : Eng :=
  ⟨r.sid, r.part, r.ten, 128 + (if keyQ k < 4 then 8 + keyQ k else 12), some k⟩

/-- A status that freezes its context: WINDOW, PBN or FABKEY (R185). -/
def freezes (status : Word) : Bool := bit status 63 && [3, 6, 8].contains (bits status 15 0)

/-- Completes the oldest request of a context: token, then DONE (R183). WINDOW, PBN and FABKEY freeze it, which is reported (R185,
R347). -/
def State.finishReq (s : State) (k : Nat) (status : Word) : State :=
  match (s.engCtx k).queue with
  | r :: rest =>
    let s := s.landX r.t r.tok status false
    let s := if freezes status then s.postBreach r.ten r.part k else s
    s.modEngCtx k fun c => { c with queue := rest, done := r.num, frozen := c.frozen || freezes status }
  | [] => s

/-- The head of a context can go on: it does not stall for a translation (R331), and its tenancy runs. -/
def State.engRuns (s : State) (k : Nat) (r : EngReq) : Bool := (s.engCtx k).stall.isNone && s.tenRuns r.part r.ten

/-! ### WAITTL (R190) -/

def execWaittl (q : Nat) (a : Src) (s : State) : Result :=
  issue { src := [a] } (fun s =>
    if (s.rx a).toNat ≤ (s.engCtx (s.me.ctxKeyOf q)).done then .go s.advance else .park .other id) s

/-! ### Collectives: layout and steps (R195, R196) -/

/-- Fields of a collective descriptor. -/
structure CollDesc where
  src : Nat
  count : Nat
  dst : Nat
  rop : Nat
  ty : Nat
  me : Nat
  nr : Nat
  rbase : Nat
  tag : Nat
  chunk : Nat

def collOf (d : List Word) : CollDesc :=
  let w := fun i => d.getD i 0
  ⟨bits (w 0) 47 0, bits (w 2) 63 32, bits (w 1) 47 0, bits (w 2) 9 8, bits (w 2) 3 0, bits (w 3) 61 48, bits (w 3) 46 32,
    bits (w 3) 13 0, bits (w 4) 63 32, bits (w 4) 31 0⟩

/-- Element types by code (R42). -/
def etyOf : Nat → Option Ety
  | 0 => some .f32
  | 1 => some .bf16
  | 2 => some .f16
  | 3 => some .e4m3
  | 4 => some .e5m2
  | 5 => some .bsi8
  | 6 => some .bpn
  | 8 => some .i8
  | 9 => some .i16
  | 10 => some .i32
  | 11 => some .i64
  | 12 => some .n8
  | 13 => some .n16
  | 14 => some .n32
  | 15 => some .n64
  | _ => none

def elSize (ty : Nat) : Nat := ((etyOf ty).map (·.width)).getD 8 / 8

/-- Bytes of `n` elements; BSI8 and BPN move whole runs of 48. -/
def elBytes (ty n : Nat) : Nat := if ty = 5 ∨ ty = 6 then ceilDiv n 48 * 48 else n * elSize ty

/-- Steps of a collective (R196). -/
def collSteps (kind nr : Nat) : Nat := if kind = 0 then 2 * (nr - 1) else nr - 1

/-- Byte offset and length of segment or block `i` (modulo NR). -/
def collSeg (kind : Nat) (d : CollDesc) (i : Nat) : Nat × Nat :=
  let i := i % d.nr
  if kind = 0 then
    let per := ceilDiv d.count d.nr
    let lo := min (i * per) d.count
    let hi := min (lo + per) d.count
    (elBytes d.ty lo, elBytes d.ty hi - elBytes d.ty lo)
  else (i * elBytes d.ty d.count, elBytes d.ty d.count)

/-- What a step sends: source address and length, and the distance of the receiver. -/
def collSends (kind : Nat) (d : CollDesc) (step : Nat) : Nat × Nat × Nat :=
  let n := d.nr
  match kind with
  | 0 =>
    if step < n - 1 then
      let (o, l) := collSeg 0 d (d.me + 2 * n - 1 - step)
      ((if step = 0 then d.src else d.dst) + o, l, 1)
    else
      let (o, l) := collSeg 0 d (d.me + 2 * n - (step - (n - 1)))
      (d.dst + o, l, 1)
  | 1 =>
    let (o, l) := collSeg 1 d (d.me + 2 * n - step)
    (d.dst + o, l, 1)
  | 2 =>
    let (o, l) := collSeg 2 d (d.me + 2 * n - 1 - step)
    (if step = 0 then d.src + o else d.dst, l, 1)
  | _ =>
    let (o, l) := collSeg 3 d (d.me + step + 1)
    (d.src + o, l, step + 1)

/-- What a step receives: destination address, length, and the own source that it is reduced with. -/
def collTakes (kind : Nat) (d : CollDesc) (step : Nat) : Nat × Nat × Option Nat :=
  let n := d.nr
  match kind with
  | 0 =>
    if step < n - 1 then
      let (o, l) := collSeg 0 d (d.me + 2 * n - 2 - step)
      (d.dst + o, l, some (d.src + o))
    else
      let (o, l) := collSeg 0 d (d.me + 2 * n - 1 - (step - (n - 1)))
      (d.dst + o, l, none)
  | 1 =>
    let (o, l) := collSeg 1 d (d.me + 2 * n - 1 - step)
    (d.dst + o, l, none)
  | 2 =>
    let (o, l) := collSeg 2 d (d.me + 2 * n - 2 - step)
    (d.dst, l, some (d.src + o))
  | _ =>
    let (o, l) := collSeg 3 d (d.me + n - 1 - step)
    (d.dst + o, l, none)

/-- One reduction of two elements (R196). -/
def collReduce (ty rop a b : Nat) : Nat :=
  match etyOf ty with
  | some t =>
    match fmtOf t with
    | some f => if rop = 0 then (f.add a b).bits else (f.minmax (rop = 1) a b).bits
    | none =>
      let x := t.intVal a
      let y := t.intVal b
      lowBits t.width (if rop = 0 then x + y else if rop = 1 then max x y else min x y)
  | none => b

/-- Reduces two byte strings element by element. -/
def reduceBytes (ty rop : Nat) : Nat → List Byte → List Byte → List Byte
  | 0, _, _ => []
  | n + 1, xs, ys =>
    let k := elSize ty
    leBytes k (collReduce ty rop (leNat (xs.take k)) (leNat (ys.take k))) ++ reduceBytes ty rop n (xs.drop k) (ys.drop k)

/-- Bytes that SRC holds and that DST receives (R196). -/
def collSpans (kind : Nat) (d : CollDesc) : Nat × Nat :=
  let one := elBytes d.ty d.count
  let all := d.nr * one
  match kind with
  | 0 => (one, one)
  | 1 => (one, all)
  | 2 => (all, one)
  | _ => (all, all)

/-- The entries that a collective sends through: the next participant's, or in ALLTOALL those of all others in order. -/
def State.collEntries (s : State) (part kind : Nat) (d : CollDesc) : List Word :=
  let nth := fun k => s.rankEntry part (d.rbase + (d.me + k) % d.nr)
  if d.nr ≤ 1 then [] else if kind = 3 then (List.range (d.nr - 1)).map fun i => nth (i + 1) else [nth 1]

/-- The code of a descriptor that R195, R181 or R185 refuses, 0 when it is accepted. -/
def State.collCheck (s : State) (part kind : Nat) (w : List Word) : Nat :=
  let d := collOf w
  let g := fun i => w.getD i 0
  let reserved := bits (g 0) 63 48 ≠ 0 || bits (g 1) 63 48 ≠ 0 || bits (g 2) 31 10 ≠ 0 || bits (g 2) 7 4 ≠ 0 ||
    bits (g 3) 63 62 ≠ 0 || bit (g 3) 47 || bits (g 3) 31 14 ≠ 0 || g 6 ≠ 0 || g 7 ≠ 0
  let red := decide (kind = 0) || decide (kind = 2)
  let (sl, dl) := collSpans kind d
  let own := s.rankEntry part (d.rbase + d.me)
  if reserved || d.ty = 7 || (red && (decide (3 ≤ d.ty) && decide (d.ty ≤ 7) || decide (d.rop = 3))) || d.nr = 0 ||
      16384 < d.nr || d.nr ≤ d.me || d.chunk = 0 || d.chunk % 128 ≠ 0 then 1
  else if 16384 < d.rbase + d.nr || !bit own 31 || !((s.collEntries part kind d).all fun e => bit e 31) then 7
  else if bits own 13 0 ≠ s.moduleNum then 1
  else if !(decide (kind = 0) && decide (d.src = d.dst)) && runsMeet d.src sl d.dst dl then 5
  else if collSteps kind d.nr < bits (g 5) 63 32 then 9
  else 0

/-- Bytes that one flit carries (R178). -/
def flitBytes : Nat := 128

/-- Data in pieces of at most 128 bytes, at least one; the last is marked. -/
def flitsOf : Nat → List Byte → List (List Byte × Bool)
  | 0, bs => [(bs, true)]
  | fuel + 1, bs =>
    if bs.length ≤ flitBytes then [(bs, true)] else (bs.take flitBytes, false) :: flitsOf fuel (bs.drop flitBytes)

/-- Sends one chunk as a train of flits. -/
def State.sendChunk (s : State) (r : EngReq) (entry : Word) (vc kind step i : Nat) (bs : List Byte) : State :=
  (flitsOf (bs.length / flitBytes) bs).foldl (fun s f =>
    s.send (s.flitTo r entry vc (.chunk r.op (collOf r.desc).tag kind step i f.2 f.1))) s

/-- Sends the chunks of the current step that follow the chunk reached (R197). -/
def State.collSend (s : State) (k : Nat) (r : EngReq) (kind : Nat) : Xfer :=
  let d := collOf r.desc
  let (a, l, dist) := collSends kind d r.step
  let entry := r.entry.getD (dist - 1) 0
  let (bs, x) := Xfer.readAll (r.eng k) a l ⟨s, r.seen, 0, 0⟩
  if x.code ≠ 0 then x
  else
    { x with s := (List.range (ceilDiv l d.chunk)).foldl (fun s i =>
        if i < r.chunk then s
        else s.sendChunk r entry (keyQ k - 2) kind r.step i ((bs.drop (i * d.chunk)).take d.chunk)) x.s }

/-- Updates the request at the head of a context. -/
def State.modHead (s : State) (k : Nat) (f : EngReq → EngReq) : State :=
  s.modEngCtx k fun c => { c with queue := match c.queue with
    | r :: rest => f r :: rest
    | [] => [] }

/-- Starts the step that a collective has reached: it sends its chunks, and passes over steps that receive nothing. -/
def State.collStart (s : State) (k kind : Nat) : Nat → State
  | 0 => s
  | fuel + 1 =>
    match (s.engCtx k).queue with
    | r :: _ =>
      let d := collOf r.desc
      if r.code ≠ 0 || r.sent || collSteps kind d.nr ≤ r.step then s
      else
        let x := s.collSend k r kind
        let s := x.s.modHead k fun r => { r with code := x.code, seen := x.seen }
        if x.code ≠ 0 then s
        else
          let (_, l, _) := collTakes kind d r.step
          if l = 0 then (s.modHead k fun r => { r with step := r.step + 1, chunk := 0 }).collStart k kind fuel
          else s.modHead k fun r => { r with sent := true }
    | [] => s

/-- The local block that ALLGATH and ALLTOALL place before their first step. -/
def State.collLocal (s : State) (k : Nat) (r : EngReq) (kind : Nat) : Xfer :=
  let d := collOf r.desc
  let one := elBytes d.ty d.count
  let e := r.eng k
  let x : Xfer := ⟨s, r.seen, 0, 0⟩
  if r.step ≠ 0 || r.chunk ≠ 0 || d.nr ≤ 1 then x
  else if kind = 1 then x.move e d.src (d.dst + d.me * one) one
  else if kind = 3 then x.move e (d.src + d.me * one) (d.dst + d.me * one) one
  else x

/-- A request has come to the head of its context, or the translation that it stalled for is there: a collective places its local
block and starts its first step. -/
def State.startHead (s : State) (k : Nat) : State :=
  match (s.engCtx k).queue with
  | r :: _ =>
    match r.kind with
    | .coll kind =>
      if r.code ≠ 0 || r.sent || !s.engRuns k r then s
      else
        s.engTry k fun s =>
          let x := s.collLocal k r kind
          let s := x.s.modHead k fun r => { r with code := x.code, seen := x.seen }
          if x.code ≠ 0 then s else s.collStart k kind (collSteps kind (collOf r.desc).nr + 1)
    | .copy _ | .gather _ => s
  | [] => s

/-- Completes the head of a context and starts the next request. -/
def State.endReq (s : State) (k : Nat) (status : Word) : State := (s.finishReq k status).startHead k

/-! ### Requests (R182, R183, R192, R194, R196, R201) -/

/-- Words of the descriptor of a kind. -/
def EngKind.words : EngKind → Nat
  | .copy _ => 4
  | .gather _ | .coll _ => 8

/-- Reads the descriptor at acceptance, with the checks that do not need the operation to run. -/
def State.acceptDesc (s : State) (e : Eng) (kind : EngKind) (a : Word) : List Word × Nat × List Word × Xfer :=
  let (r, x) := Xfer.words e a.toNat kind.words ⟨s, [], 0, 0⟩
  match r with
  | .error c => ([], c, [], x)
  | .ok ws =>
    match kind with
    | .copy _ =>
      let d1 := ws.getD 1 0
      (ws, 0, if bit d1 63 then [x.s.rankEntry e.part (bits d1 61 48)] else [], x)
    | .gather _ => (ws, 0, [], x)
    | .coll k =>
      let c := x.s.collCheck e.part k ws
      (ws, c, if c = 0 then x.s.collEntries e.part k (collOf ws) else [], x)

/-- The acceptance of a request by its context: it is numbered, LASTTL receives the number, and its descriptor is read. A
frozen context reads nothing (R185). -/
def State.accept (s : State) (k q tok : Nat) (kind : EngKind) (a : Word) : State :=
  let th := s.me
  let c := s.engCtx k
  let num := c.acc + 1
  let e : Eng := ⟨th.sid, th.part, th.ten, 128 + (if q < 4 then 8 + q else 12), some k⟩
  let (ws, code, entry, x) := if c.frozen then ([], 15, [], ⟨s, [], 0, 0⟩) else s.acceptDesc e kind a
  let s := x.s
  let st := bits (ws.getD 5 0) 63 32
  let ch := bits (ws.getD 5 0) 31 0
  let isColl := match kind with
    | .coll _ => true
    | .copy _ | .gather _ => false
  let r : EngReq := { t := s.cur, sid := th.sid, part := th.part, ten := th.ten, tok := tok, num := num, kind := kind,
                      desc := ws, daddr := a, code := code, entry := entry, op := s.nextOp, sent := false, acked := none,
                      at_ := 0, bytes := 0, view := none, got := none, seen := x.seen
                      step := if isColl then st else 0, chunk := if isColl then ch else 0 }
  let s := { s with nextOp := s.nextOp + 1 }
  let s := s.modEngCtx k fun c => { c with acc := num, queue := c.queue ++ [r] }
  s.modThr s.cur fun th => { th with lastTl := word num }

/-- The instruction issues with what an engine does as it accepts it; while the engine's translation of what it reads is missing, the
instruction does not issue (R331). -/
def accepting (k : Nat) (t : State) : Verdict :=
  match t.xmiss with
  | some page => .park .other fun s => s.engMiss k page
  | none => .go ((t.dropAnswers k).startHead k).advance

/-- An engine request (R201): the alignment of its descriptor, then the wait for a full queue of 16, and for earlier
accesses of the thread that it must observe (R30). -/
def requestOf (q tok : Nat) (b : Src) (kind : EngKind) (s : State) : Verdict :=
  let a := s.rx b
  let k := s.me.ctxKeyOf q
  if a.toNat % 8 ≠ 0 then .trap 4 0 a
  else afterHeld s (if 16 ≤ (s.engCtx k).queue.length then .park .other id
    else accepting k ((s.noMiss.deferX tok).accept k q tok kind a))

def engineRequest (q tok : Nat) (b : Src) (kind : EngKind) : State → Result :=
  issue { src := [b], dx := [tok] } (requestOf q tok b kind)

def execCpy (tok : Nat) (b : Src) (ch : Nat) (s : State) : Result := engineRequest ch tok b (.copy 0) s
def execCpyRect (tok : Nat) (b : Src) (ch : Nat) (s : State) : Result := engineRequest ch tok b (.copy 1) s
def execCpyWin (tok : Nat) (b : Src) (ch : Nat) (s : State) : Result := engineRequest ch tok b (.copy 2) s
/-- In user mode, COW takes the privileged trap (R44, R46). -/
def execCpyCow (tok : Nat) (b : Src) (ch : Nat) (s : State) : Result :=
  issueRoot { src := [b], dx := [tok] } (requestOf ch tok b (.copy 3)) s
def execGath (tok : Nat) (b : Src) (ch : Nat) (s : State) : Result := engineRequest (2 + ch) tok b (.gather false) s
def execGathRows (tok : Nat) (b : Src) (ch : Nat) (s : State) : Result := engineRequest (2 + ch) tok b (.gather true) s
def execCollAllred (tok : Nat) (b : Src) (ch : Nat) (s : State) : Result := engineRequest (4 + ch) tok b (.coll 0) s
def execCollAllgath (tok : Nat) (b : Src) (ch : Nat) (s : State) : Result := engineRequest (4 + ch) tok b (.coll 1) s
def execCollRedscat (tok : Nat) (b : Src) (ch : Nat) (s : State) : Result := engineRequest (4 + ch) tok b (.coll 2) s
def execCollAlltoall (tok : Nat) (b : Src) (ch : Nat) (s : State) : Result := engineRequest (4 + ch) tok b (.coll 3) s

/-! ### Copies (R187, R191, R192) -/

/-- The block-table area of a partition (R314): physical bytes from BASE, MAXENT entries for each descriptor. -/
def Part.btRange (p : Part) : Nat × Nat :=
  let base := bits p.btarea 47 0
  (base, base + 4 * bits p.btarea 63 48 * (p.cdLimit - p.cdBase))

/-- The partition whose block table a COW writes: the issuing one, and for the root slot the one that PSEL names
(DESIGN CHOICE, log entry 14). -/
def State.cowPart (s : State) (r : EngReq) : Nat := if r.part = 0 then (s.core (coreOf r.sid)).psel else r.part

/-- The descriptor keeps its layout (R191). -/
def State.copyOk (s : State) (kind : Nat) (r : EngReq) : Bool :=
  let w := fun i => r.desc.getD i 0
  let remote := bit (w 1) 63
  decide (bits (w 0) 63 48 = 0) && !bit (w 1) 62 && (remote || decide (bits (w 1) 61 48 = 0)) &&
    (!remote || decide (kind < 2)) &&
    (if kind = 3 then
      let (lo, hi) := (s.part (s.cowPart r)).btRange
      let e := bits (w 3) 47 0
      decide (bits (w 3) 63 48 = 0) && decide (e % 4 = 0) && decide (lo ≤ e) && decide (e + 4 ≤ hi)
    else if kind = 1 then true
    else decide (bits (w 2) 63 32 = 1) && decide (w 3 = 0))

/-- WIN covers part of a register (R192). -/
def cutsRegister (dst n : Nat) : Bool :=
  let start := fun a : Nat => if a % 0x2000 < 0x1000 then decide (a % 8 = 0) else decide (a % 256 = 0)
  decide (0 < n) && ((isRegister dst && !start dst) || (isRegister (dst + n - 1) && !start (dst + n)))

/-- WIN: bytes that are not registers are written as they come; the registers are collected for the end. -/
def Xfer.win (e : Eng) : Nat → Nat → List Byte → List (Place × List Byte) → Xfer → List (Place × List Byte) × Xfer
  | 0, _, _, regs, x => (regs, x)
  | fuel + 1, va, bs, regs, x =>
    if bs.isEmpty then (regs, x)
    else
      match x.s.engPlace e .win va with
      | .error c => (regs, { x with code := c, s := x.s.noteMiss va c })
      | .ok (p, l) =>
        let k := min bs.length (runLength va)
        let x := x.count e.ctx va l
        if inWindow va && inRegs va then Xfer.win e fuel (va + k) (bs.drop k) (regs ++ [(p, bs.take k)]) x
        else Xfer.win e fuel (va + k) (bs.drop k) regs { x with s := x.s.writeAt e.ctx p (bs.take k) }

/-- WIN (R192). A destination that cuts a register ends with DESC before any byte moves, whatever other place its range meets (DESIGN
CHOICE, log entry 78: the spec gives DESC and WINDOW no order). -/
def Xfer.copyWin (e : Eng) (src dst n : Nat) (x : Xfer) : State × Word :=
  if cutsRegister dst n then (x.s, errorStatus 1)
  else
    let (bs, x) := Xfer.readAll e src n x
    let (regs, y) := Xfer.win e (n + 1) dst bs [] { x with code := 0 }
    if y.code ≠ 0 then (y.s, errorStatus y.code)
    else if x.code ≠ 0 then (y.s, errorStatus x.code)
    else (regs.foldl (fun s r => s.writeAt e.ctx r.1 r.2) y.s, word n)

/-- Reads and sends `n` bytes of a remote copy from byte `o` on, as remote writes of at most 128 bytes each (R178, R179). -/
def Xfer.sendRows (k : Nat) (r : EngReq) (src dst sstr dstr width : Nat) : Nat → Nat → Nat → Xfer → Xfer
  | 0, _, _, x => x
  | fuel + 1, o, n, x =>
    if n = 0 then x
    else
      let (row, c, room) := rowPiece width o n
      let m := min room flitBytes
      let (bs, x) := Xfer.readAll (r.eng k) (src + row * sstr + c) m x
      let f := x.s.flitTo r (r.entry.getD 0 0) (keyQ k) (.write r.op (dst + row * dstr + c) bs)
      let x := if bs.isEmpty then x else { x with s := x.s.send f }
      if x.code ≠ 0 then x else Xfer.sendRows k r src dst sstr dstr width fuel (o + m) (n - m) x

/-- The fields of a copy descriptor: source, destination, source stride, destination stride, width, rows (R191). -/
structure CopyDesc where
  src   : Nat
  dst   : Nat
  sstr  : Nat
  dstr  : Nat
  width : Nat
  rows  : Nat

def copyDesc (kind : Nat) (d : List Word) : CopyDesc :=
  let w := fun i => d.getD i 0
  { src := bits (w 0) 47 0, dst := bits (w 1) 47 0, sstr := if kind = 1 then bits (w 3) 31 0 else 0
    dstr := if kind = 1 then bits (w 3) 63 32 else 0, width := bits (w 2) 31 0
    rows := if kind = 1 then bits (w 2) 63 32 else 1 }

/-- The entry write with which a COW ends, a release of 4 bytes at a physical address (R187), checked against the partition's HBM
region (R314). -/
def State.cowEntry (s : State) (k : Nat) (r : EngReq) : State × Word :=
  let w := fun i => r.desc.getD i 0
  let a := bits (w 3) 47 0
  if s.inRegion (s.cowPart r) a 4 then (s.writeHbm (r.eng k).ctx a (leBytes 4 (bits (w 2) 63 32)), word (bits (w 2) 31 0))
  else (s, errorStatus 2)

/-- A local copy goes on by up to `lim` bytes, and completes or ends with an error (R192). -/
def State.copyLocal (s : State) (k kind lim : Nat) (r : EngReq) : State :=
  let d := copyDesc kind r.desc
  let total := d.rows * d.width
  if footprintsMeet d.src d.sstr d.dst d.dstr d.rows d.width then s.endReq k (errorStatus 5)
  else if kind = 2 then
    let (s, st) := Xfer.copyWin (r.eng k) d.src d.dst d.width ⟨s, r.seen, 0, 0⟩
    s.endReq k st
  else
    let n := min lim (total - r.at_)
    let x := Xfer.rows (r.eng k) d.src d.dst d.sstr d.dstr d.width (rowFuel d.width n) r.at_ n ⟨s, r.seen, 0, 0⟩
    if x.code ≠ 0 then x.s.endReq k (errorStatus x.code)
    else if r.at_ + n < total then x.s.modHead k fun r => { r with at_ := r.at_ + n, seen := x.seen }
    else if kind = 3 then
      let (s, st) := x.s.cowEntry k r
      s.endReq k st
    else x.s.endReq k (word total)

/-- A remote copy sends up to `lim` bytes more, and with the last of them, or at an error, the flit that asks for the
acknowledgement. It completes once that has come, with its own error first (R179, R185). -/
def State.copyRemote (s : State) (k kind lim : Nat) (r : EngReq) : State :=
  let d := copyDesc kind r.desc
  let total := d.rows * d.width
  match r.acked with
  | some c => s.endReq k (if r.code ≠ 0 then errorStatus r.code else if c ≠ 0 then errorStatus c else word total)
  | none =>
    if r.sent then s
    else if !bit (r.entry.getD 0 0) 31 then s.endReq k (errorStatus 7)
    else
      let n := min lim (total - r.at_)
      let x := Xfer.sendRows k r d.src d.dst d.sstr d.dstr d.width (n / flitBytes + rowFuel d.width n) r.at_ n ⟨s, r.seen, 0, 0⟩
      if x.code = 0 && decide (r.at_ + n < total) then x.s.modHead k fun r => { r with at_ := r.at_ + n, seen := x.seen }
      else
        (x.s.send (x.s.flitTo r (r.entry.getD 0 0) (keyQ k) (.last r.op))).modHead k fun r => { r with sent := true, code := x.code }

/-- A copy goes on by up to `lim` bytes of its destination (R183, R185, R192). -/
def State.runCopy (s : State) (k kind lim : Nat) (r : EngReq) : State :=
  if r.code ≠ 0 && !r.sent then s.endReq k (errorStatus r.code)
  else if !s.copyOk kind r then s.endReq k (errorStatus 1)
  else if bit (r.desc.getD 1 0) 63 then s.copyRemote k kind lim r
  else s.copyLocal k kind lim r

/-- Bytes that a copy can have (R191). -/
def copyMost : Nat := 2 ^ 64

/-- COPY_COMPLETE (R183, R192): the oldest request of a copy context completes. -/
def execCopyComplete (ctx : Nat) (s : State) : Result :=
  match (s.engCtx ctx).queue with
  | r :: _ =>
    match r.kind with
    | .copy kind => if s.engRuns ctx r then .next (s.noMiss.engTry ctx fun s => s.runCopy ctx kind copyMost r) else .next s
    | .gather _ | .coll _ => .next s
  | [] => .next s

/-- REMOTE_WRITE_ACK (R179): an acknowledgement that has arrived lets its operation complete. One that tells of a refused key
(R180) or of a collective's mismatch (R197) ends it. -/
def execRemoteWriteAck (op : Nat) (s : State) : Result :=
  match s.acks.find? fun a => a.1 = op with
  | some (_, code) =>
    .next { s with
      acks := s.acks.filter fun a => a.1 ≠ op
      ctxs := Table.mapVals s.ctxs fun c => { c with queue := c.queue.map fun r =>
        if r.op = op then { r with acked := some code, code := if code = 8 ∨ code = 9 then code else r.code } else r } }
  | none => .next s

/-! ### Gathers (R188, R189, R193, R194) -/

/-- The view that a WALK reads: limit, table and overlay; none ends it with DESC (R188, R189). -/
def State.walkView (s : State) (part ctx : Nat) (stepv draft : Bool) : Option View :=
  let p := s.part part
  if ctx < p.cdBase || p.cdLimit ≤ ctx then none
  else
    match Table.find? s.contexts ctx with
    | some c =>
      if c.st ≠ 1 then none
      else if stepv then Table.find? (if draft then s.drafts else s.views) ctx
      else some ⟨c.len, c.btab, 0, []⟩
    | none => none

/-- A physical read of a block-table entry, within the partition's HBM region (R314). -/
def State.tableWord (s : State) (part a : Nat) : Option Nat :=
  let p := s.part part
  if p.hbmBase * 2 ^ 21 ≤ a ∧ a + 4 ≤ p.hbmLimit * 2 ^ 21 then some (s.rawLe a 4) else none

/-- Positions of a WALK in ascending order; `got` keeps the entry of the latest block, which is read once. -/
def Xfer.walk (e : Eng) (v : View) (dst kvb blkb loff pos0 pb : Nat) : Nat → Nat → Option (Nat × Nat) → Nat → Xfer →
    Nat × Option (Nat × Nat) × Xfer
  | 0, _, got, n, x => (n, got, x)
  | fuel + 1, i, got, n, x =>
    let p := pos0 + i
    let d := dst + i * pb
    if v.limit ≤ p then
      let x := Xfer.writeAll e .write d (List.replicate pb 0) x
      if x.code ≠ 0 then (n, got, x) else Xfer.walk e v dst kvb blkb loff pos0 pb fuel (i + 1) got n x
    else
      let j := p / 16
      let entry := match got.filter fun g => g.1 = j with
        | some g => some g.2
        | none =>
          if v.j0 ≤ j ∧ j < v.j0 + v.late.length then v.late[j - v.j0]? else x.s.tableWord e.part (v.table + 4 * j)
      match entry with
      | none => (n, got, { x with code := 2 })
      | some pbn =>
        if pbn < (x.s.part e.part).pbnBase ∨ (x.s.part e.part).pbnLimit ≤ pbn then (n, got, { x with code := 6 })
        else
          let x := Xfer.move e (kvb + pbn * blkb + loff + p % 16 * pb) d pb x
          if x.code ≠ 0 then (n, got, x) else Xfer.walk e v dst kvb blkb loff pos0 pb fuel (i + 1) (some (j, pbn)) (n + pb) x

/-- A WALK keeps its layout (R193). -/
def walkOk (w : Nat → Word) : Bool :=
  !(bits (w 0) 63 20 ≠ 0 || (bit (w 0) 19 && !bit (w 0) 18) || bits (w 1) 63 48 ≠ 0 || bits (w 2) 63 48 ≠ 0 ||
    bits (w 5) 63 16 ≠ 0 || w 6 ≠ 0 || w 7 ≠ 0 || bits (w 5) 15 0 = 0 || bits (w 3) 63 32 < bits (w 3) 31 0 + 16 * bits (w 5) 15 0)

/-- A WALK goes on by up to `lim` positions, and completes or ends with an error. It reads its limit and table once (R188, R194). -/
def State.runWalk (s : State) (k lim : Nat) (r : EngReq) : State :=
  let w := fun i => r.desc.getD i 0
  let e := r.eng k
  let view := match r.view with
    | some v => some v
    | none => s.walkView e.part (bits (w 0) 17 0) (bit (w 0) 18) (bit (w 0) 19)
  match view.filter fun _ => walkOk w with
  | none => s.endReq k (errorStatus 1)
  | some v =>
    let n := min lim (bits (w 4) 63 32 - r.at_)
    let (bytes, got, x) := Xfer.walk e v (bits (w 1) 47 0) (bits (w 2) 47 0) (bits (w 3) 63 32) (bits (w 3) 31 0)
      (bits (w 4) 31 0) (bits (w 5) 15 0) n r.at_ r.got r.bytes ⟨s, r.seen, 0, 0⟩
    if x.code ≠ 0 then x.s.endReq k (errorStatus x.code)
    else if r.at_ + n < bits (w 4) 63 32 then
      x.s.modHead k fun r => { r with at_ := r.at_ + n, bytes := bytes, view := some v, got := got, seen := x.seen }
    else x.s.endReq k (word bytes)

/-- `n` bytes of an indexed gather from byte `o` of its rows on. -/
def Xfer.gatherRows (e : Eng) (src dst idx rstr rb : Nat) : Nat → Nat → Nat → Xfer → Xfer
  | 0, _, _, x => x
  | fuel + 1, o, n, x =>
    if n = 0 then x
    else
      let (i, c, m) := rowPiece rb o n
      let (bs, x) := Xfer.readAll e (idx + 4 * i) 4 x
      if x.code ≠ 0 then x
      else
        let x := x.move e (src + leNat bs * rstr + c) (dst + i * rb + c) m
        if x.code ≠ 0 then x else Xfer.gatherRows e src dst idx rstr rb fuel (o + m) (n - m) x

/-- GATH.ROWS goes on by up to `lim` bytes, and completes or ends with an error (R194). -/
def State.runRows (s : State) (k lim : Nat) (r : EngReq) : State :=
  let w := fun i => r.desc.getD i 0
  let rb := bits (w 3) 31 0
  let total := bits (w 4) 31 0 * rb
  let idx := bits (w 2) 47 0
  let bad := bits (w 0) 63 48 ≠ 0 || bits (w 1) 63 48 ≠ 0 || bits (w 2) 63 48 ≠ 0 || bits (w 4) 63 32 ≠ 0 || w 5 ≠ 0 ||
    w 6 ≠ 0 || w 7 ≠ 0 || idx % 4 ≠ 0
  if bad then s.endReq k (errorStatus 1)
  else
    let n := min lim (total - r.at_)
    let x := Xfer.gatherRows (r.eng k) (bits (w 0) 47 0) (bits (w 1) 47 0) idx (bits (w 3) 63 32) rb (rowFuel rb n) r.at_ n
      ⟨s, r.seen, 0, 0⟩
    if x.code ≠ 0 then x.s.endReq k (errorStatus x.code)
    else if r.at_ + n < total then x.s.modHead k fun r => { r with at_ := r.at_ + n, seen := x.seen }
    else x.s.endReq k (word total)

/-- A gather goes on by up to `lim` positions of a WALK, or bytes of rows. -/
def State.runGather (s : State) (k lim : Nat) (rows : Bool) (r : EngReq) : State :=
  if r.code ≠ 0 then s.endReq k (errorStatus r.code) else if rows then s.runRows k lim r else s.runWalk k lim r

/-- GATHER_COMPLETE (R183, R194). -/
def execGatherComplete (ctx : Nat) (s : State) : Result :=
  match (s.engCtx ctx).queue with
  | r :: _ =>
    match r.kind with
    | .gather rows => if s.engRuns ctx r then .next (s.noMiss.engTry ctx fun s => s.runGather ctx copyMost rows r) else .next s
    | .copy _ | .coll _ => .next s
  | [] => .next s

/-- Bytes from byte `o` of a destination to the next 4 KiB written (R320). -/
def pauseBytes (o : Nat) : Nat := 4096 - o % 4096

/-- The operation at the head of a copy or gather context goes on to the place at which it could next pause (R184, R320). A WIN,
which writes its registers at its end, moves as a whole. -/
def State.engStep (s : State) (k : Nat) : State :=
  match (s.engCtx k).queue with
  | r :: _ =>
    if !s.engRuns k r then s
    else
      match r.kind with
      | .copy kind => if kind = 2 then s else s.noMiss.engTry k fun s => s.runCopy k kind (pauseBytes r.at_) r
      | .gather rows => s.noMiss.engTry k fun s => s.runGather k (if rows then pauseBytes r.at_ else 1) rows r
      | .coll _ => s
  | [] => s

/-! ### Collectives in progress (R197) -/

/-- A chunk of which every flit has arrived, or any other body. -/
def FlitBody.isWhole : FlitBody → Bool
  | .chunk _ _ _ _ _ whole _ => whole
  | .write _ _ _ | .last _ | .ack _ _ | .batch _ _ | .report _ _ _ _ => true

/-- A chunk comes from the participant that sends to this one in the present step: in ALLTOALL a faster peer's chunk of a later step
waits for its own (R196, R197 item 5). -/
def EngReq.comesFrom (r : EngReq) (f : Flit) : Bool :=
  match r.kind with
  | .coll 3 =>
    let entry := r.entry.getD ((collOf r.desc).nr - 2 - r.step) 0
    f.source = bits entry 13 0 && f.sender = bits entry 29 26
  | .coll _ | .copy _ | .gather _ => true

/-- The chunk that waits for a context: a whole one of its partition, tenancy and channel, of the step's sender; one with its TAG
first. -/
def State.chunkFor (s : State) (k : Nat) (r : EngReq) : Option Flit :=
  let mine := s.chunksIn.filter fun f =>
    f.body.isWhole && f.part = r.part && f.ten = r.ten && f.vc + 2 = keyQ k && r.comesFrom f
  let tag := (collOf r.desc).tag
  match mine.find? fun f => match f.body with
      | .chunk _ t _ _ _ _ _ => t = tag
      | _ => false with
  | some f => some f
  | none => mine.head?

/-- The acknowledgement of an operation goes back to its sender, or a port tells it how the operation ends. -/
def State.sendAck (s : State) (f : Flit) (op code : Nat) : State :=
  s.send { f with source := s.moduleNum, module := f.source, sender := f.part, part := f.sender, vc := 7, body := .ack op code }

/-- A whole chunk reaches the collective at the head of a context: it is checked, and written, reduced where the kind says so. When it
does not fit the collective's state, both operations end with MISMATCH, of which the sender is told (R197). -/
def State.takeChunk (s : State) (k kind : Nat) (r : EngReq) (f : Flit) : State :=
  match f.body with
  | .chunk op tag kd st ch _ bs =>
    let s := { s with chunksIn := s.chunksIn.erase f }
    let d := collOf r.desc
    let (a, l, own) := collTakes kind d r.step
    let lo := r.chunk * d.chunk
    let n := min d.chunk (l - lo)
    if tag ≠ d.tag || kd ≠ kind || st ≠ r.step || ch ≠ r.chunk || bs.length ≠ n then
      (s.sendAck f op 9).modHead k fun r => { r with code := 9 }
    else
      let (mine, x) := match own with
        | some o => Xfer.readAll (r.eng k) (o + lo) n ⟨s, r.seen, 0, 0⟩
        | none => ([], ⟨s, r.seen, 0, 0⟩)
      let out := if own.isSome then reduceBytes d.ty d.rop (n / elSize d.ty) bs mine else bs
      let y := Xfer.writeAll (r.eng k) .write (a + lo) (if x.code ≠ 0 then [] else out) { x with code := 0 }
      let code := if x.code ≠ 0 then x.code else y.code
      let s := y.s.modHead k fun r => { r with code := code, seen := y.seen }
      if code ≠ 0 then s
      else if (r.chunk + 1) * d.chunk < l then s.modHead k fun r => { r with chunk := r.chunk + 1 }
      else
        (s.modHead k fun r => { r with step := r.step + 1, chunk := 0, sent := false }).collStart k kind (collSteps kind d.nr + 1)
  | .write _ _ _ | .last _ | .ack _ _ | .batch _ _ | .report _ _ _ _ => s

/-- The collective at the head of a context takes chunks: it has begun, and its steps are not over. -/
def State.collTaking (s : State) (k kind : Nat) (r : EngReq) : Bool :=
  r.code = 0 && r.sent && decide (r.step < collSteps kind (collOf r.desc).nr) && s.engRuns k r

/-- COLL_CHUNK_RECEIVE (R197). -/
def execCollChunkReceive (ctx : Nat) (s : State) : Result :=
  match (s.engCtx ctx).queue with
  | r :: _ =>
    match r.kind with
    | .coll kind =>
      match (if s.collTaking ctx kind r then s.chunkFor ctx r else none) with
      | none => .next s
      | some f => .next (s.noMiss.engTry ctx fun s => s.takeChunk ctx kind r f)
    | .copy _ | .gather _ => .next s
  | [] => .next s

/-- The collective at the head of a context can complete. -/
def State.collReady (s : State) (k : Nat) (r : EngReq) : Bool :=
  match r.kind with
  | .coll kind => (r.code ≠ 0 || decide (collSteps kind (collOf r.desc).nr ≤ r.step)) && s.engRuns k r
  | .copy _ | .gather _ => false

/-- A collective completes: the final state goes into the descriptor, and the status is the bytes written to DST (R196, R197). -/
def State.endColl (s : State) (k kind : Nat) (r : EngReq) : State :=
  let d := collOf r.desc
  let bytes := (collSpans kind d).2
  if r.code ≠ 0 then s.endReq k (errorStatus r.code)
  else
    let x : Xfer := ⟨s, r.seen, 0, 0⟩
    let x := if d.nr = 1 && decide (d.src ≠ d.dst) then x.move (r.eng k) d.src d.dst bytes else x
    if x.code ≠ 0 then x.s.endReq k (errorStatus x.code)
    else
      let y := Xfer.writeAll (r.eng k) .write (r.daddr.toNat + 0x28) (leBytes 8 (collSteps kind d.nr * 2 ^ 32)) x
      y.s.endReq k (if y.code ≠ 0 then errorStatus y.code else word bytes)

/-- COLL_COMPLETE (R196, R197). -/
def execCollComplete (ctx : Nat) (s : State) : Result :=
  match (s.engCtx ctx).queue with
  | r :: _ =>
    match r.kind with
    | .coll kind => if s.collReady ctx r then .next (s.noMiss.engTry ctx fun s => s.endColl ctx kind r) else .next s
    | .copy _ | .gather _ => .next s
  | [] => .next s

/-! ### Lanyard (R178-R180, R323) -/

/-- The flits of a chunk that have arrived are put together; the last one makes it whole (R320). -/
def addChunk (f : Flit) (op st ch : Nat) (whole : Bool) (bs : List Byte) : List Flit → List Flit
  | [] => [f]
  | q :: qs =>
    match q.body with
    | .chunk o t kd st' ch' false bs' =>
      if q.source = f.source && q.vc = f.vc && o = op && st' = st && ch' = ch then
        { q with body := .chunk o t kd st' ch' whole (bs' ++ bs) } :: qs
      else q :: addChunk f op st ch whole bs qs
    | _ => q :: addChunk f op st ch whole bs qs

/-- A remote write that failed ends its operation's writes: no later byte of it is written (R185). -/
def State.writeFailed (s : State) (f : Flit) (op : Nat) : Bool := s.badWrites.any fun b => b.1 = f.source && b.2.1 = op

def State.failWrite (s : State) (f : Flit) (op code : Nat) : State := { s with badWrites := s.badWrites ++ [(f.source, op, code)] }

/-- The groups that the writes of a remote operation have counted here (R336). -/
def State.remoteGroups (s : State) (f : Flit) (op : Nat) : List Nat :=
  ((s.remoteSeen.find? fun e => e.1 = f.source && e.2.1 = op).map (·.2.2)).getD []

def State.keepGroups (s : State) (f : Flit) (op : Nat) (seen : List Nat) : State :=
  if seen = [] then s
  else { s with remoteSeen := (f.source, op, seen) :: s.remoteSeen.filter fun e => e.1 ≠ f.source || e.2.1 ≠ op }

/-- The last flit of a remote operation has come. -/
def State.forgetWrites (s : State) (f : Flit) (op : Nat) : State :=
  { s with
    badWrites := s.badWrites.filter fun b => b.1 ≠ f.source || b.2.1 ≠ op
    remoteSeen := s.remoteSeen.filter fun b => b.1 ≠ f.source || b.2.1 ≠ op }

/-- A flit of a running tenancy is delivered. -/
def State.deliver (s : State) (f : Flit) : State :=
  match f.body with
  | .write op a bs =>
    if s.writeFailed f op then s
    else
      let x := Xfer.writeAll ⟨0, f.part, f.ten, 140, none⟩ .write a bs ⟨s, s.remoteGroups f op, 0, 0⟩
      let s := x.s.keepGroups f op x.seen
      if x.code ≠ 0 then s.failWrite f op x.code else s
  | .last op =>
    let code := ((s.badWrites.find? fun b => b.1 = f.source && b.2.1 = op).map (·.2.2)).getD 0
    (s.forgetWrites f op).sendAck f op code
  | .ack op code => { s with acks := s.acks ++ [(op, code)] }
  | .chunk op _ _ st ch whole bs => { s with chunksIn := addChunk f op st ch whole bs s.chunksIn }
  | .batch _ _ => { s with batchIn := s.batchIn ++ [f] }
  | .report _ _ _ _ => { s with reportIn := s.reportIn ++ [f] }

/-- The operation whose packet a port drops ends with FABKEY: the port tells the sender (R180), for a remote write with the operation's
acknowledgement, and its later writes are not performed. A dropped acknowledgement ends no operation. -/
def State.refuseKey (s : State) (f : Flit) : State :=
  match f.body with
  | .last op => (s.forgetWrites f op).sendAck f op 8
  | .chunk op _ _ _ _ _ _ => s.sendAck f op 8
  | .write op _ _ => if s.writeFailed f op then s else s.failWrite f op 8
  | .ack _ _ | .batch _ _ | .report _ _ _ _ => s

/-- Flits of a tenancy that neither runs nor comes in are parked (R323). -/
def State.parks (s : State) (f : Flit) : Bool :=
  let p := s.part f.part
  p.cur ≠ f.ten && !(p.switching && decide (p.incoming = f.ten))

/-- Flits of one source module, destination module and virtual channel stay in order (R178). -/
def Flit.sameTriple (f q : Flit) : Bool := f.source = q.source && f.module = q.module && f.vc = q.vc

/-- Parked flits whose tenancy runs again, or comes in: their port re-injects them, past the key check that they have met (R323). -/
def State.unparked (s : State) : List Flit := s.parked.filter fun f => !s.parks f

/-- The first flit of a port in a list, unless an earlier one of its source, destination and channel is still under way to another
port. -/
def portFirst (port : Nat) (l : List Flit) : Option Flit :=
  match l.find? fun f => f.port = port with
  | some f => if (l.takeWhile (· ≠ f)).any f.sameTriple then none else some f
  | none => none

/-- The flit that a port re-injects next (R323). -/
def State.parkedNext (s : State) (port : Nat) : Option Flit := portFirst port s.unparked

/-- The next flit that comes to a port. Re-injected flits go ahead of every newer one of their source, destination and channel. -/
def State.portNext (s : State) (port : Nat) : Option Flit :=
  (portFirst port s.linkIn).filter fun f => !s.unparked.any f.sameTriple

/-- A full park buffer withholds credit (R323). -/
def State.parkFull (s : State) (port : Nat) : Bool := decide (4096 ≤ (s.parked.filter fun p => p.port = port).length)

/-- The flit that a port takes next (R178, R180, R323). -/
def State.flitReady (s : State) (port : Nat) : Option Flit :=
  (s.portNext port).filter fun f => f.key ≠ (s.part f.part).fabkey || !s.parks f || !s.parkFull port

/-- LANYARD_FLIT_ARRIVAL (R180, R323): a parked flit whose tenancy runs again is delivered; else the next flit of a port is checked
against the key of its partition, and delivered or parked. -/
def execLanyardFlitArrival (port : Nat) (s : State) : Result :=
  match s.parkedNext port, s.flitReady port with
  | some f, _ => .next (State.deliver { s with parked := s.parked.erase f } f)
  | none, none => .next s
  | none, some f =>
    let s := { s with linkIn := s.linkIn.erase f }
    if f.key ≠ (s.part f.part).fabkey then .next (s.refuseKey f)
    else if s.parks f then .next { s with parked := s.parked ++ [f] }
    else .next (s.deliver f)

/-! ### The Braid (R198-R200) -/

/-- A malformed graph (R198). -/
def graphBad (ws : List Word) (n : Nat) : Bool :=
  let succ := fun i => bits (ws.getD (2 * i) 0) 31 16
  let seq := fun i => bits (ws.getD (2 * i) 0) 47 32
  let deps := fun i => bits (ws.getD (2 * i) 0) 15 0
  (List.range n).any fun i =>
    let preds := (List.range n).filter fun j => succ j = i
    decide (bits (ws.getD (2 * i) 0) 63 48 ≠ 0) || (decide (succ i ≠ 0xFFFF) && (decide (succ i ≤ i) || decide (n ≤ succ i))) ||
      decide (deps i ≠ preds.length) || !((List.range preds.length).all fun q => preds.any fun j => seq j = q)

/-- Reads and checks a graph (R198, R199): the live graph, or the code with which the ATSUB ends. -/
def State.readGraph (s : State) (e : Eng) (t tok : Nat) (a : Nat) : Except Nat Graph × State :=
  let (h, x) := Xfer.words e a 4 ⟨s, [], 0, 0⟩
  match h with
  | .error c => (.error c, x.s)
  | .ok hw =>
    let n := bits (hw.getD 0 0) 12 0
    if bits (hw.getD 0 0) 63 13 ≠ 0 || bits (hw.getD 1 0) 63 48 ≠ 0 || hw.getD 2 0 ≠ 0 || hw.getD 3 0 ≠ 0 || n = 0 ||
        4096 < n then (.error 1, x.s)
    else
      let (ws, x) := Xfer.words e (a + 32) (2 * n) x
      match ws with
      | .error c => (.error c, x.s)
      | .ok ws =>
        if graphBad ws n then (.error 1, x.s)
        else
          (.ok { die := dieOf e.sid, part := e.part, ten := e.ten, addr := a, t := t, tok := tok
                 succ := (List.range n).map fun i => bits (ws.getD (2 * i) 0) 31 16
                 count := (List.range n).map fun i => bits (ws.getD (2 * i) 0) 15 0
                 stage := List.replicate n 0 }, x.s)

/-- ATSUB (R199): with 64 graphs live it does not issue; a malformed graph ends with DESC and dispatches nothing. -/
def execAtsub (tok : Nat) (b : Src) (s : State) : Result :=
  issue { src := [b], dx := [tok] } (fun s =>
    let th := s.me
    let a := s.rx b
    if a.toNat % 8 ≠ 0 then .trap 4 0 a
    else afterHeld s (
      if 64 ≤ (s.liveGraphs (dieOf th.sid) th.part th.ten).length then .park .other id
      else
        let k := ctxKey th.part th.ten 12 (dieOf th.sid)
        let (g, u) := (s.noMiss.deferX tok).readGraph ⟨th.sid, th.part, th.ten, 140, some k⟩ s.cur tok a.toNat
        accepting k (match g with
          | .error c => u.landX u.cur tok (errorStatus c) false
          | .ok g => { u with graphs := u.graphs ++ [g] }))) s

end Sys2Proof.Machine
end

