-- ==== Sys2Proof/Machine/Vector.lean ====
section
/-! DEFINITION. Sys2Proof/Machine/Vector.lean: the vector families (R103-R122): lanes and destinations, VINT, VFLT, VCVT,
VMEM, predicates, permutes and reductions, and the shared normaliser (R91). -/

namespace Sys2Proof.Machine

/-! ### Lanes (R103, R104) -/

/-- Number of elements of width `w` bits. -/
def laneCount (w : Nat) : Nat := Config.vlen / w

/-- Element `i` is active when bit i × w/8 of the governing predicate is 1. -/
def laneOn (p : PWord) (w i : Nat) : Bool := maskBit p.toNat (i * (w / 8))

def activeLanes (p : PWord) (w : Nat) : List Nat := (List.range (laneCount w)).filter (laneOn p w)

/-- A register from its elements, element 0 first; those beyond the list are 0. -/
def packLanes (w : Nat) : List Nat → Nat
  | [] => 0
  | x :: xs => x % 2 ^ w + 2 ^ w * packLanes w xs

def vectorOf (w : Nat) (xs : List Nat) : VWord := BitVec.ofNat 2048 (packLanes w xs)

/-- The destination of R104 over `n` elements: active elements by `f`, the others kept or zeroed. -/
def mergeLanes (n w pw : Nat) (z : Bool) (old : VWord) (p : PWord) (f : Nat → Nat) : VWord :=
  vectorOf w ((List.range n).map fun i => if laneOn p pw i then f i else if z then 0 else vget old w i)

/-- A merging member reads vd as well (R104). -/
def vsrc (z : Bool) (vd : Nat) (vs : List Nat) : List Nat := if z then vs else vs ++ [vd]

/-! ### The shared normaliser (R91) -/

/-- A service starts: it lasts 32 cycles and ends in the cycle named. The thread is held. -/
def State.startNorm (s : State) (core : Nat) (j : NormJob) (due : Nat) : State :=
  let s := s.modCore core fun c => { c with normCur := some (j, due) }
  if s.alive j.t then s.modThr j.t fun th => { th with norm := true } else s

/-- Puts a call among those that wait, in the order of issue (R91). A core issues one instruction in a cycle. -/
def queueNorm (j : NormJob) : List NormJob → List NormJob
  | [] => [j]
  | k :: ks => if j.at_ < k.at_ then j :: k :: ks else k :: queueNorm j ks

/-- An instruction of the thread that is no SFU form waits for the normaliser, and holds it (R91). -/
def Core.heldNorm (c : Core) (t : Nat) : Bool := c.normQ.any fun j => j.t = t && j.sfu.isNone

/-- A call waits; one that is no SFU form holds its thread. -/
def State.waitNorm (s : State) (core : Nat) (j : NormJob) : State :=
  let s := s.modCore core fun c => { c with normQ := queueNorm j c.normQ }
  if j.sfu.isNone then s.modThr j.t fun th => { th with norm := true } else s

/-- An instruction calls on the normaliser (SUBN counts it). One that is no SFU form holds its thread from the cycle after its issue.
Calls are served in the order of issue: an SFU form that comes in the cycle before the next service starts goes before a later-issued
instruction that was to start it (R91). -/
def State.callNorm (s : State) (core : Nat) (j : NormJob) : State :=
  let s := s.countEvent core 2
  match (s.core core).normCur with
  | none => s.startNorm core j (s.cycle + 32)
  | some (k, due) =>
    if due = s.cycle + 32 && j.sfu.isSome && decide (j.at_ < k.at_) then
      let s := if s.alive k.t then s.modThr k.t fun th => { th with norm := k.sfu.isNone || (s.core core).heldNorm k.t } else s
      (s.waitNorm core k).startNorm core j due
    else s.waitNorm core j

/-- What a vector instruction writes and counts. -/
structure VOut where
  val  : VWord
  nanp : Bool := false
  ovfl : Bool := false
  csat : Bool := false
  norm : Bool := false

/-- Writes vd, at once or at the end of a normaliser service, and counts (R91, R101, R105). -/
def State.finishV (s : State) (vd : Nat) (o : VOut) : State :=
  let k := s.myCore
  let s := ((s.countIf o.nanp k 0).countIf o.ovfl k 1).countIf o.csat k 3
  if o.norm then (s.deferV vd).callNorm k ⟨s.cur, vd, o.val, none, s.cycle, 0⟩ else s.wv vd o.val

/-- A vector instruction that computes its result from its sources. -/
def vectorOp (n : Needs) (vd : Nat) (f : State → VOut) : State → Result :=
  issueSimple { n with dv := [vd] } fun s => s.finishV vd (f s)

/-! ### VINT (R109) -/

/-- Elements are computed modulo 2^w; `f` sees the vd, va and vb elements. -/
def vint (vd va vb pg : Nat) (t : Ety) (z mac : Bool) (f : Nat → Nat → Nat → Nat) : State → Result :=
  vectorOp { vs := vsrc (z && !mac) vd [va, vb], ps := [pg] } vd fun s =>
    let w := t.width
    { val := mergeLanes (laneCount w) w w z (s.rv vd) (s.rp pg)
        fun i => f (vget (s.rv vd) w i) (vget (s.rv va) w i) (vget (s.rv vb) w i) }

/-- The vb field of VABS and VNEG is 0 and names no source (R109). -/
def vint1 (vd va pg : Nat) (t : Ety) (z : Bool) (f : Nat → Nat) : State → Result :=
  vectorOp { vs := vsrc z vd [va], ps := [pg] } vd fun s =>
    let w := t.width
    { val := mergeLanes (laneCount w) w w z (s.rv vd) (s.rp pg) fun i => f (vget (s.rv va) w i) }

/-- An operation on integer values, narrowed to the element. -/
def intOp (t : Ety) (f : Int → Int → Int) (a b : Nat) : Nat := lowBits t.width (f (t.intVal a) (t.intVal b))

/-- Shift amount: the low log2 w bits (R109). -/
def vshamt (t : Ety) (b : Nat) : Nat := b % t.width

def execVadd (vd va vb pg : Nat) (t : Ety) (z : Bool) (s : State) : Result :=
  vint vd va vb pg t z false (fun _ a b => intOp t (fun x y => x + y) a b) s
def execVsub (vd va vb pg : Nat) (t : Ety) (z : Bool) (s : State) : Result :=
  vint vd va vb pg t z false (fun _ a b => intOp t (fun x y => x - y) a b) s
def execVmul (vd va vb pg : Nat) (t : Ety) (z : Bool) (s : State) : Result :=
  vint vd va vb pg t z false (fun _ a b => intOp t (fun x y => x * y) a b) s
def execVmulh (vd va vb pg : Nat) (t : Ety) (z : Bool) (s : State) : Result :=
  vint vd va vb pg t z false (fun _ a b => intOp t (fun x y => x * y / (2 ^ t.width : Nat)) a b) s
def execVmin (vd va vb pg : Nat) (t : Ety) (z : Bool) (s : State) : Result :=
  vint vd va vb pg t z false (fun _ a b => intOp t (fun x y => min x y) a b) s
def execVmax (vd va vb pg : Nat) (t : Ety) (z : Bool) (s : State) : Result :=
  vint vd va vb pg t z false (fun _ a b => intOp t (fun x y => max x y) a b) s
def execVand (vd va vb pg : Nat) (t : Ety) (z : Bool) (s : State) : Result :=
  vint vd va vb pg t z false (fun _ a b => a &&& b) s
def execVor (vd va vb pg : Nat) (t : Ety) (z : Bool) (s : State) : Result :=
  vint vd va vb pg t z false (fun _ a b => a ||| b) s
def execVxor (vd va vb pg : Nat) (t : Ety) (z : Bool) (s : State) : Result :=
  vint vd va vb pg t z false (fun _ a b => a ^^^ b) s
def execVshl (vd va vb pg : Nat) (t : Ety) (z : Bool) (s : State) : Result :=
  vint vd va vb pg t z false (fun _ a b => a * 2 ^ vshamt t b) s
def execVshr (vd va vb pg : Nat) (t : Ety) (z : Bool) (s : State) : Result :=
  vint vd va vb pg t z false (fun _ a b => a / 2 ^ vshamt t b) s
def execVsra (vd va vb pg : Nat) (t : Ety) (z : Bool) (s : State) : Result :=
  vint vd va vb pg t z false (fun _ a b => lowBits t.width (sgn t.width a / (2 ^ vshamt t b : Nat))) s
def execVabs (vd va pg : Nat) (t : Ety) (z : Bool) (s : State) : Result :=
  vint1 vd va pg t z (fun a => (t.intVal a).natAbs) s
def execVneg (vd va pg : Nat) (t : Ety) (z : Bool) (s : State) : Result :=
  vint1 vd va pg t z (fun a => lowBits t.width (-t.intVal a)) s
def execVmac (vd va vb pg : Nat) (t : Ety) (z : Bool) (s : State) : Result :=
  vint vd va vb pg t z true (fun d a b => d + a * b) s

/-! ### VFLT (R110) -/

/-- The format of a float member; the checks of R46 and R106 leave only these. -/
def Ety.fmtD (t : Ety) : Fmt := (fmtOf t).getD fmtF32

/-- The result of elementwise float results, with the events of the active elements (R91, R101). -/
def floatOut (w : Nat) (z : Bool) (old : VWord) (p : PWord) (f : Nat → FRes) : VOut :=
  let rs := (activeLanes p w).map f
  { val := mergeLanes (laneCount w) w w z old p fun i => (f i).bits
    nanp := rs.any (·.nanp)
    ovfl := rs.any (·.ovfl)
    norm := rs.any (·.norm) }

def vflt (vd va vb pg : Nat) (t : Ety) (z fma : Bool) (f : Fmt → Nat → Nat → Nat → FRes) : State → Result :=
  vectorOp { vs := vsrc (z && !fma) vd [va, vb], ps := [pg] } vd fun s =>
    let w := (Ety.fmtD t).w
    floatOut w z (s.rv vd) (s.rp pg) fun i =>
      f (Ety.fmtD t) (vget (s.rv vd) w i) (vget (s.rv va) w i) (vget (s.rv vb) w i)

def vflt1 (vd va pg : Nat) (t : Ety) (z : Bool) (f : Fmt → Nat → FRes) : State → Result :=
  vectorOp { vs := vsrc z vd [va], ps := [pg] } vd fun s =>
    let w := (Ety.fmtD t).w
    floatOut w z (s.rv vd) (s.rp pg) fun i => f (Ety.fmtD t) (vget (s.rv va) w i)

def execVfadd (vd va vb pg : Nat) (t : Ety) (z : Bool) (s : State) : Result :=
  vflt vd va vb pg t z false (fun f _ a b => f.add a b) s
def execVfsub (vd va vb pg : Nat) (t : Ety) (z : Bool) (s : State) : Result :=
  vflt vd va vb pg t z false (fun f _ a b => f.sub a b) s
def execVfmul (vd va vb pg : Nat) (t : Ety) (z : Bool) (s : State) : Result :=
  vflt vd va vb pg t z false (fun f _ a b => f.mul a b) s
def execVfma (vd va vb pg : Nat) (t : Ety) (z : Bool) (s : State) : Result :=
  vflt vd va vb pg t z true (fun f d a b => f.fma a b d) s
def execVfmin (vd va vb pg : Nat) (t : Ety) (z : Bool) (s : State) : Result :=
  vflt vd va vb pg t z false (fun f _ a b => f.minmax false a b) s
def execVfmax (vd va vb pg : Nat) (t : Ety) (z : Bool) (s : State) : Result :=
  vflt vd va vb pg t z false (fun f _ a b => f.minmax true a b) s
def execVfabs (vd va pg : Nat) (t : Ety) (z : Bool) (s : State) : Result := vflt1 vd va pg t z (fun f a => f.abs a) s
def execVfneg (vd va pg : Nat) (t : Ety) (z : Bool) (s : State) : Result := vflt1 vd va pg t z (fun f a => f.neg a) s

/-! ### VCVT (R111) -/

/-- One VCVT: its elements lie on the grid of the wider type, and destination elements beyond it are 0. A conversion that overflows counts
CSAT and not OVFL (DESIGN CHOICE, log entry 80). -/
def convertAll (s : State) (vd va pg : Nat) (dst src : Ety) (r : Rnd) (o : Ovf) (z : Bool) : VOut × Bool :=
  let w := max src.width dst.width
  let f := fun i => convertEl dst src r o (vget (s.rv va) src.width i)
  let rs := (activeLanes (s.rp pg) w).map f
  ({ val := mergeLanes (laneCount w) dst.width w z (s.rv vd) (s.rp pg) fun i => (f i).res.bits
     nanp := rs.any (·.res.nanp)
     csat := rs.any (·.csat)
     norm := rs.any (·.res.norm) }, rs.any (·.trap))

/-- The conversion trap of an active element leaves vd unwritten (R93). -/
def execVcvt (vd va pg : Nat) (dst src : Ety) (r : Rnd) (o : Ovf) (z : Bool) (s : State) : Result :=
  issue { vs := vsrc z vd [va], ps := [pg], dv := [vd] } (fun s =>
    let (out, trap) := convertAll s vd va pg dst src r o z
    if trap then .trap 10 0 0 else .go (s.finishV vd out).advance) s

/-! ### VMEM (R112-R115) -/

def ESize.bits : ESize → Nat
  | .s1 => 8
  | .s2 => 16
  | .s4 => 32
  | .s8 => 64

/-- The targets of all active elements, checked in ascending order. -/
inductive ElTargets where
  /-- Element, place, address and leaf of each, and the ordering kind of each. -/
  | ok (els : List (Nat × Place × Nat × Option Leaf)) (kinds : List Nat)
  | trap (cls detail : Nat) (info : Word)
  /-- Elements whose translation is missing. -/
  | miss (vas : List Nat)
  | stop (f : Fault)

/-- Checks and translates every address (R112 item 3). The lowest failing element decides the trap (R355), so a failing
element behind a missing translation waits for it. -/
def State.elTargets (s : State) (u : Use) (wr : Bool) (n : Nat) : List (Nat × Word) → ElTargets
  | [] => .ok [] []
  | (i, ea) :: es =>
    match s.target s.me u wr ea n n n with
    | .ok ps ks l =>
      match s.elTargets u wr n es with
      | .ok els js => .ok ((i, place1 ps, ea.toNat, l) :: els) (ks.headD 1 :: js)
      | r => r
    | .trap c d info => .trap c d info
    | .miss va =>
      match s.elTargets u wr n es with
      | .miss vas => .miss (va :: vas)
      | _ => .miss [va]
    | .stop f => .stop f

/-- A vector access counts once for each 2 MiB group that it touches (R336). -/
def State.countEls (s : State) (c : Ctx) (els : List (Nat × Place × Nat × Option Leaf)) : State :=
  s.countGroups c (els.map (·.2.2))

def withEls (s : State) (u : Use) (wr : Bool) (n : Nat) (eas : List (Nat × Word))
    (k : List (Nat × Place × Nat × Option Leaf) → List Nat → Verdict) : Verdict :=
  match s.elTargets u wr n eas with
  | .ok els ks => k els ks
  | .trap cls d i => .trap cls d i
  | .miss vas => .park .other fun s => vas.foldl (fun s va => s.miss s.cur va) s
  | .stop f => .stop f

/-- Base values of inactive elements of a load (R104). -/
def loadBase (s : State) (vd : Nat) (z : Bool) : VWord := if z then 0 else s.rv vd

def vload (vd : Nat) (vs : List Nat) (xs : Src) (pg : Nat) (sz : ESize) (z : Bool) (ea : State → Nat → Word) :
    State → Result :=
  issue { src := [xs], vs := vsrc z vd vs, ps := [pg], dv := [vd] } fun s =>
    let w := ESize.bits sz
    withEls s .read false (w / 8) ((activeLanes (s.rp pg) w).map fun i => (i, ea s i)) fun els ks =>
      let m := MemOp.vload vd w (loadBase s vd z) (els.map fun e => (e.1, e.2.1))
      accessing s m ks (((s.deferV vd).submit s.cur m ks).countEls s.me.ctx els).advance

def vstore (vd : Nat) (vs : List Nat) (xs : Src) (pg : Nat) (sz : ESize) (ea : State → Nat → Word) : State → Result :=
  issue { src := [xs], vs := vd :: vs, ps := [pg] } fun s =>
    let w := ESize.bits sz
    withEls s .write true (w / 8) ((activeLanes (s.rp pg) w).map fun i => (i, ea s i)) fun els ks =>
      let m := MemOp.vstore w (els.map fun e => (e.2.1, vget (s.rv vd) w e.1))
      accessing s m ks ((s.submit s.cur m ks).countEls s.me.ctx els).advance

/-- Address of element i of a contiguous access. -/
def eaUnit (xs : Src) (sz : ESize) (s : State) (i : Nat) : Word := s.rx xs + word (i * (ESize.bits sz / 8))

/-- Address of element i of an indexed access: xs + sext(va[i]) × w/8. -/
def eaIndexed (xs : Src) (va : Nat) (sz : ESize) (s : State) (i : Nat) : Word :=
  let w := ESize.bits sz
  s.rx xs + ofInt (sgn w (vget (s.rv va) w i) * (w / 8 : Nat))

def execVld (vd : Nat) (xs : Src) (pg : Nat) (sz : ESize) (z : Bool) (s : State) : Result :=
  vload vd [] xs pg sz z (eaUnit xs sz) s
def execVst (vd : Nat) (xs : Src) (pg : Nat) (sz : ESize) (s : State) : Result := vstore vd [] xs pg sz (eaUnit xs sz) s
def execVgath (vd va : Nat) (xs : Src) (pg : Nat) (sz : ESize) (z : Bool) (s : State) : Result :=
  vload vd [va] xs pg sz z (eaIndexed xs va sz) s
/-- Where two elements address the same bytes, the higher element's are written, and once (R114). -/
def execVscat (vd va : Nat) (xs : Src) (pg : Nat) (sz : ESize) (s : State) : Result :=
  vstore vd [va] xs pg sz (eaIndexed xs va sz) s

def execVsplat (vd : Nat) (xs : Src) (pg : Nat) (sz : ESize) (z : Bool) (s : State) : Result :=
  vectorOp { src := [xs], vs := vsrc z vd [], ps := [pg] } vd (fun s =>
    let w := ESize.bits sz
    { val := mergeLanes (laneCount w) w w z (s.rv vd) (s.rp pg) fun _ => (s.rx xs).toNat }) s

/-! ### Width, bounds and predicates (R107, R108, R116-R118) -/

/-- VWIDTH (R107). -/
def execVwidth (rd : Nat) (s : State) : Result := issueSimple { dx := [rd] } (fun s => s.wx rd (word Config.vlen)) s

/-- A predicate with all w/8 bits of element j equal to `f j` (R108, R116). -/
def predOf (w : Nat) (f : Nat → Bool) : PWord :=
  BitVec.ofNat 256 (((List.range (laneCount w)).map fun j =>
    if f j then (2 ^ (w / 8) - 1) * 2 ^ (j * (w / 8)) else 0).sum)

/-- The sum and the comparison are exact (R108). -/
def execVbound (pd : Nat) (a b : Src) (t : Ety) (s : State) : Result :=
  issueSimple { src := [a, b] } (fun s =>
    s.wp pd (predOf t.width fun j => (s.rx a).toInt + j < (s.rx b).toInt)) s

/-- Comparison of two elements by the type (R116). -/
def elCmp (t : Ety) (cc : Cmp) (a b : Nat) : Bool :=
  match fmtOf t with
  | some f => f.cmp cc a b
  | none => intCmp cc (t.intVal a) (t.intVal b)

def execVcmp (pd va vb pg : Nat) (t : Ety) (cc : Cmp) (s : State) : Result :=
  issueSimple { vs := [va, vb], ps := [pg] } (fun s =>
    let w := t.width
    s.wp pd (predOf w fun i => laneOn (s.rp pg) w i && elCmp t cc (vget (s.rv va) w i) (vget (s.rv vb) w i))) s

/-- Predicate logic over all 256 bits (R117). -/
def predOp (pd pa pb : Nat) (f : PWord → PWord → PWord) : State → Result :=
  issueSimple { ps := [pa, pb] } fun s => s.wp pd (f (s.rp pa) (s.rp pb))

def execPand (pd pa pb : Nat) (s : State) : Result := predOp pd pa pb (fun x y => x &&& y) s
def execPor (pd pa pb : Nat) (s : State) : Result := predOp pd pa pb (fun x y => x ||| y) s
def execPnot (pd pa : Nat) (s : State) : Result := predOp pd pa pa (fun x _ => ~~~x) s
def execPxor (pd pa pb : Nat) (s : State) : Result := predOp pd pa pb (fun x y => x ^^^ y) s

def execPcount (ps rd : Nat) (t : Ety) (s : State) : Result :=
  issueSimple { ps := [ps], dx := [rd] } (fun s => s.wx rd (word (activeLanes (s.rp ps) t.width).length)) s

def execPfirst (ps rd : Nat) (t : Ety) (s : State) : Result :=
  issueSimple { ps := [ps], dx := [rd] } (fun s =>
    s.wx rd (word ((activeLanes (s.rp ps) t.width).headD (laneCount t.width)))) s

/-! ### Permutes (R119-R121) -/

def vslide (vd va : Nat) (xs : Src) (pg : Nat) (sz : ESize) (z : Bool) (f : Nat → Nat → Nat → Option Nat) : State → Result :=
  vectorOp { src := [xs], vs := vsrc z vd [va], ps := [pg] } vd fun s =>
    let w := ESize.bits sz
    let n := laneCount w
    { val := mergeLanes n w w z (s.rv vd) (s.rp pg) fun i =>
        match f n (s.rx xs).toNat i with
        | some j => vget (s.rv va) w j
        | none => 0 }

def execVslideup (vd va : Nat) (xs : Src) (pg : Nat) (sz : ESize) (z : Bool) (s : State) : Result :=
  vslide vd va xs pg sz z (fun _ k i => if k ≤ i then some (i - k) else none) s
def execVslidedn (vd va : Nat) (xs : Src) (pg : Nat) (sz : ESize) (z : Bool) (s : State) : Result :=
  vslide vd va xs pg sz z (fun n k i => if i + k < n then some (i + k) else none) s

def execVperm (vd va vb pg : Nat) (t : Ety) (z : Bool) (s : State) : Result :=
  vectorOp { vs := vsrc z vd [va, vb], ps := [pg] } vd (fun s =>
    let w := t.width
    let n := laneCount w
    { val := mergeLanes n w w z (s.rv vd) (s.rp pg) fun i =>
        let j := vget (s.rv vb) w i
        if j < n then vget (s.rv va) w j else 0 }) s

/-- The active elements come first; the rest of vd is kept or zeroed. -/
def execVcompress (vd va pg : Nat) (t : Ety) (z : Bool) (s : State) : Result :=
  vectorOp { vs := vsrc z vd [va], ps := [pg] } vd (fun s =>
    let w := t.width
    let xs := (activeLanes (s.rp pg) w).map (vget (s.rv va) w)
    { val := vectorOf w (xs ++ ((List.range (laneCount w)).drop xs.length).map fun i => if z then 0 else vget (s.rv vd) w i) }) s

def execVsel (vd va vb pg : Nat) (t : Ety) (s : State) : Result :=
  vectorOp { vs := [va, vb], ps := [pg] } vd (fun s =>
    let w := t.width
    { val := vectorOf w ((List.range (laneCount w)).map fun i =>
        if laneOn (s.rp pg) w i then vget (s.rv va) w i else vget (s.rv vb) w i) }) s

def execVext (va rd : Nat) (b : Src) (sz : ESize) (s : State) : Result :=
  issueSimple { src := [b], vs := [va], dx := [rd] } (fun s =>
    let w := ESize.bits sz
    let i := (s.rx b).toNat
    s.wx rd (if i < laneCount w then word (vget (s.rv va) w i) else 0)) s

def execVins (vd : Nat) (a b : Src) (sz : ESize) (s : State) : Result :=
  vectorOp { src := [a, b], vs := [vd] } vd (fun s =>
    let w := ESize.bits sz
    let i := (s.rx b).toNat
    { val := if i < laneCount w then vset (s.rv vd) w i (s.rx a).toNat else s.rv vd }) s

/-! ### Reductions (R122) -/

/-- One level of the pairwise tree and those below it, over the upper and lower halves of the list. -/
def treeReduce (f : FRes → FRes → FRes) : Nat → List FRes → FRes
  | 0, ts => ts.headD (exactRes 0)
  | n + 1, ts =>
    let h := ts.length / 2
    if h = 0 then ts.headD (exactRes 0) else treeReduce f n (List.zipWith f (ts.take h) (ts.drop h))

/-- Joins the events of both operands to those of the operation. -/
def FRes.join (r a b : FRes) : FRes :=
  ⟨r.bits, r.nanp || a.nanp || b.nanp, r.ovfl || a.ovfl || b.ovfl, r.norm || a.norm || b.norm⟩

/-- The reductions over the fixed tree. Their float sums never call on the normaliser. -/
def vreduce (vd va vb pg : Nat) (t : Ety) (ident : Nat) (f : Nat → Nat → FRes) : State → Result :=
  vectorOp { vs := [va, vb], ps := [pg] } vd fun s =>
    let w := t.width
    let g := fun a b => (f a.bits b.bits).join a b
    let ts := (List.range (laneCount w)).map fun i =>
      exactRes (if laneOn (s.rp pg) w i then vget (s.rv va) w i else ident)
    let r := g (treeReduce g 8 ts) (exactRes (vget (s.rv vb) w 0))
    { val := vectorOf w [r.bits], nanp := r.nanp, ovfl := r.ovfl }

def execVredadd (vd va vb pg : Nat) (t : Ety) (s : State) : Result :=
  (match fmtOf t with
    | some f => vreduce vd va vb pg t f.signBit (fun a b => f.add a b)
    | none => vreduce vd va vb pg t 0 (fun a b => exactRes (intOp t (fun x y => x + y) a b))) s
def execVredmax (vd va vb pg : Nat) (t : Ety) (s : State) : Result :=
  (match fmtOf t with
    | some f => vreduce vd va vb pg t (f.inf true) (fun a b => f.minmax true a b)
    | none => vreduce vd va vb pg t (lowBits t.width t.lo) (fun a b => exactRes (intOp t (fun x y => max x y) a b))) s
def execVredmin (vd va vb pg : Nat) (t : Ety) (s : State) : Result :=
  (match fmtOf t with
    | some f => vreduce vd va vb pg t (f.inf false) (fun a b => f.minmax false a b)
    | none => vreduce vd va vb pg t (lowBits t.width t.hi) (fun a b => exactRes (intOp t (fun x y => min x y) a b))) s

/-- VFREDADD adds in element order, and calls on the normaliser. A subnormal vb[0] is an operand of its first sum, whichever lane that
sum takes (DEDUCED, log entry 59: R91 speaks of operands in an active lane, and vb[0] is added whatever the predicate of lane 0). -/
def execVfredadd (vd va vb pg : Nat) (t : Ety) (s : State) : Result :=
  vectorOp { vs := [va, vb], ps := [pg] } vd (fun s =>
    let f := Ety.fmtD t
    let r := (activeLanes (s.rp pg) f.w).foldl
      (fun acc i => (f.add acc.bits (vget (s.rv va) f.w i)).join acc acc) (exactRes (vget (s.rv vb) f.w 0))
    { val := vectorOf f.w [r.bits], nanp := r.nanp, ovfl := r.ovfl, norm := r.norm }) s

end Sys2Proof.Machine
end

