-- ==== Sys2Proof/Machine/Special.lean ====
section
/-! DEFINITION. Sys2Proof/Machine/Special.lean: the special-function unit and its result port (R123-R127), the sort unit
(R105, R128-R130, R132), quantisation (R131), and the events by which these units and the normaliser finish (R91). -/

namespace Sys2Proof.Machine

/-! ### The special-function unit (R123-R127) -/

/-- A queue register of the thread is bound to the SFU result port (R82, R127). -/
def Thread.sfuBound (th : Thread) : Bool := th.q.any fun e => bits e.2 63 60 = 1

/-- An SFU form (R123): it reads its sources at issue and queues one request. With the queue full it does not issue. -/
def sfuOp (vd va pg : Nat) (t : Ety) (z : Bool) (fn : SfuFn) : State → Result :=
  issue { vs := vsrc z vd [va], ps := [pg], dv := [vd] } fun s =>
    let core := s.myCore
    if Config.sfuRequests ≤ (s.core core).sfuQ.length then .park .other id
    else
      let f := Ety.fmtD t
      let o := floatOut f.w z (s.rv vd) (s.rp pg) fun i => sfuEl f fn (vget (s.rv va) f.w i)
      let dz := (activeLanes (s.rp pg) f.w).any fun i => sfuDivz f fn (vget (s.rv va) f.w i)
      let ev := b2n o.nanp + 2 * b2n o.ovfl + 4 * b2n o.norm + 8 * b2n dz
      let r : SfuReq := ⟨s.cur, vd, o.val, o.norm, ev, s.me.sfuSeq, s.cycle⟩
      .go (((s.deferV vd).modCore core fun c => { c with sfuQ := c.sfuQ ++ [r] }).modThr s.cur
        fun th => { th with sfuSeq := th.sfuSeq + 1 }).advance

def execVrcp (vd va pg : Nat) (t : Ety) (z : Bool) (s : State) : Result := sfuOp vd va pg t z .rcp s
def execVrsq (vd va pg : Nat) (t : Ety) (z : Bool) (s : State) : Result := sfuOp vd va pg t z .rsq s
def execVexp2 (vd va pg : Nat) (t : Ety) (z : Bool) (s : State) : Result := sfuOp vd va pg t z .exp2 s
def execVlog2 (vd va pg : Nat) (t : Ety) (z : Bool) (s : State) : Result := sfuOp vd va pg t z .lg2 s
def execVtanh (vd va pg : Nat) (t : Ety) (z : Bool) (s : State) : Result := sfuOp vd va pg t z .tanh s

/-- Requests of a thread at the normaliser (R91). -/
def Core.sfuNorm (c : Core) (t : Nat) : List NormJob :=
  ((c.normCur.map (·.1)).toList ++ c.normQ).filter fun j => j.t = t && j.sfu.isSome

/-- Requests of a thread that the SFU has accepted and not landed, those at the normaliser among them (R127). -/
def Core.sfuOpen (c : Core) (t : Nat) : Nat :=
  (c.sfuRun.filter fun r => r.1.t = t).length + (c.sfuNorm t).length + (c.sfuWait.filter fun r => r.t = t).length

/-- A request is eligible when its thread is neither frozen, which it is from the cycle after its trap (R290), nor switched out, from the
cycle after the ERET that resumed it, and its port has room (R124, R125, R127). -/
def State.sfuEligible (s : State) (c : Core) (r : SfuReq) : Bool :=
  let th := s.thr r.t
  (th.frozen.isNone || th.frozeAt = s.cycle) && !th.saved && decide (th.thaw ≤ s.cycle) && decide (r.queued < s.cycle) &&
    decide (th.sfuWords.length + c.sfuOpen r.t < Config.sfuPortWords)

/-- The oldest eligible request of a core's queue. -/
def State.sfuNext (s : State) (core : Nat) : Option SfuReq :=
  let c := s.core core
  if (c.sfuLast.map fun l => decide (l + 4 ≤ s.cycle)).getD true then c.sfuQ.find? (s.sfuEligible c) else none

/-- SFU_ACCEPT (R124): at most one request every 4 cycles, and never in the cycle in which it was queued. -/
def execSfuAccept (core : Nat) (s : State) : Result :=
  match s.sfuNext core with
  | some r => .next (s.modCore core fun c => { c with
      sfuQ := c.sfuQ.erase r, sfuRun := c.sfuRun ++ [(r, s.cycle + 12)], sfuLast := some s.cycle })
  | none => .next s

/-- The completion word of R127. -/
def sfuWord (r : SfuReq) : Word := word (r.seq % 65536 * 2 ^ 16 + r.vd * 2 ^ 12 + r.events)

/-- A result of the SFU lands, with its completion word when the port is bound (R127). -/
def State.landSfu (s : State) (t vd : Nat) (v : VWord) (w : Word) : State :=
  let s := s.landV t vd v false
  if s.alive t then
    s.modThr t fun th => if th.sfuBound then { th with sfuWords := th.sfuWords ++ [w] } else th
  else s

/-- The results of one thread land in its issue order (R124): an earlier one is still at the normaliser, or waits for such a one. -/
def Core.sfuBehind (c : Core) (r : SfuReq) : Bool :=
  ((c.sfuNorm r.t).any fun j => decide (j.seq < r.seq)) || c.sfuWait.any fun w => w.t = r.t && decide (w.seq < r.seq)

/-- A result that needs no service lands, unless it waits for an earlier one. -/
def State.landPlain (s : State) (core : Nat) (r : SfuReq) : State :=
  if (s.core core).sfuBehind r then s.modCore core fun c => { c with sfuWait := c.sfuWait ++ [r] }
  else s.landSfu r.t r.vd r.val (sfuWord r)

/-- Results that waited go on in their order, in the cycle in which the service that they waited for ends (DESIGN CHOICE, log entry 82: R124
gives their order). -/
def State.landWaiting (s : State) (core : Nat) : State :=
  (s.core core).sfuWait.foldl (fun s r => s.landPlain core r) (s.modCore core fun c => { c with sfuWait := [] })

/-- SFU_DELIVER (R124): in the 12th cycle after acceptance the result is written, or handed to the normaliser. Events count
here (R101). The result of a thread that has ended is discarded (R126). -/
def execSfuDeliver (core : Nat) (s : State) : Result :=
  match (s.core core).sfuRun with
  | (r, due) :: rest =>
    if s.cycle < due then .next s
    else
      let s := s.modCore core fun c => { c with sfuRun := rest }
      if !s.alive r.t then .next s
      else
      let s := ((s.countIf (maskBit r.events 0) core 0).countIf (maskBit r.events 1) core 1).countIf (maskBit r.events 3) core 4
      if r.served then .next (s.callNorm core ⟨r.t, r.vd, r.val, some (sfuWord r), r.queued, r.seq⟩)
      else .next (s.landPlain core r)
  | [] => .next s

/-- NORMALISER_SERVICE_END (R91): the destination is written, results of the SFU that waited for it land (R124), and the next service
starts in the following cycle. -/
def execNormaliserServiceEnd (core : Nat) (s : State) : Result :=
  match (s.core core).normCur with
  | some (j, due) =>
    if s.cycle < due then .next s
    else
      let s := match j.sfu with
        | some w => s.landSfu j.t j.vd j.val w
        | none => s.landV j.t j.vd j.val false
      let q := (s.core core).normQ
      let s := s.modCore core fun c => { c with normCur := none, normQ := q.drop 1 }
      let s := if s.alive j.t then s.modThr j.t fun th => { th with norm := (s.core core).heldNorm j.t } else s
      let s := s.landWaiting core
      match q with
      | k :: _ => .next (s.startNorm core k (due + 32))
      | [] => .next s
  | none => .next s

/-! ### The sort unit (R105, R128, R129, R132) -/

/-- Layout of a keyed element: its width, and the format of a float key (R128). -/
def keyedWidth : Ety → Nat
  | .bf16 | .f16 => 32
  | _ => 64

/-- The order of keys: NaN below everything, −0 equal to +0 (R128). -/
def keyRank (t : Ety) (k : Nat) : Int :=
  match fmtOf t with
  | some f => if (f.value k).isNan then -(2 ^ 64 : Nat) else if k % f.signBit = 0 then 0 else f.key k
  | none => sgn 32 k

/-- `a` ranks before `b`. -/
def ranksBefore (t : Ety) (a b : Nat) : Bool :=
  let h := keyedWidth t / 2
  let ka := keyRank t (a / 2 ^ h)
  let kb := keyRank t (b / 2 ^ h)
  decide (kb < ka) || (decide (ka = kb) && decide (a % 2 ^ h < b % 2 ^ h))

/-- The filler element. -/
def filler (t : Ety) : Nat :=
  let h := keyedWidth t / 2
  (match fmtOf t with
    | some f => f.cnan
    | none => 2 ^ 31) * 2 ^ h + (2 ^ h - 1)

/-- Inserts an element behind those that rank before it and those equal to it. -/
def insertRanked (t : Ety) (x : Nat) : List Nat → List Nat
  | [] => [x]
  | y :: ys => if ranksBefore t x y then x :: y :: ys else y :: insertRanked t x ys

def rankAll (t : Ety) (xs : List Nat) : List Nat := xs.foldl (fun acc x => insertRanked t x acc) []

/-- An instruction of the sort unit: it does not issue while the unit is busy (R105). -/
def sortOp (vs : List Nat) (pg vd lat : Nat) (f : State → VWord) : State → Result :=
  issue { vs := vs, ps := [pg], dv := [vd] } fun s =>
    let core := s.myCore
    match (s.core core).sort with
    | some _ => .park .other id
    | none =>
      .go ((s.deferV vd).modCore core fun c => { c with sort := some ⟨s.cycle + lat, s.cur, vd, f s⟩ }).advance

/-- VTOPK (R129): active elements in rank order, then fillers. -/
def execVtopk (vd va pg : Nat) (t : Ety) (s : State) : Result :=
  sortOp [va] pg vd 24 (fun s =>
    let w := keyedWidth t
    let xs := rankAll t ((activeLanes (s.rp pg) w).map (vget (s.rv va) w))
    vectorOf w (xs ++ List.replicate (laneCount w - xs.length) (filler t))) s

/-- VHIST (R132): bins beyond the number of elements are not counted, and a bin saturates. -/
def execVhist (vd va pg : Nat) (t : Ety) (s : State) : Result :=
  sortOp [va, vd] pg vd 16 (fun s =>
    let w := t.width
    let xs := (activeLanes (s.rp pg) w).map (vget (s.rv va) w)
    vectorOf w ((List.range (laneCount w)).map fun b =>
      min (vget (s.rv vd) w b + (xs.filter (· = b)).length) (2 ^ w - 1))) s

/-- SORT_UNIT_COMPLETE (R105). -/
def execSortUnitComplete (core : Nat) (s : State) : Result :=
  match (s.core core).sort with
  | some j =>
    if s.cycle < j.due then .next s
    else .next ((s.modCore core fun c => { c with sort := none }).landV j.t j.vd j.val false)
  | none => .next s

/-! ### VMAXX and VQUANT (R130, R131) -/

/-- VMAXX takes the element that ranks first, and va's when both are equal. -/
def execVmaxx (vd va vb : Nat) (t : Ety) (s : State) : Result :=
  vectorOp { vs := [va, vb] } vd (fun s =>
    let w := keyedWidth t
    let n := laneCount w
    { val := vectorOf w ((List.range n).map fun i =>
        let a := vget (s.rv va) w i
        let b := vget (s.rv vb) w (n - 1 - i)
        if ranksBefore t b a then b else a) }) s

/-- VQUANT (R131): 48 F32 elements into bytes, or into one BPN run; the rest of vd is 0. -/
def execVquant (vd va vb pg : Nat) (t : Ety) (s : State) : Result :=
  vectorOp { vs := [va, vb], ps := [pg] } vd (fun s =>
    let e := vget (s.rv vb) 8 0
    let qs := (List.range 48).map fun i =>
      if laneOn (s.rp pg) 32 i then quantEl (vget (s.rv va) 32 i) e else (0, false)
    let bytes := qs.map fun q => lowBits 8 q.1
    { val := if t = .bpn then BitVec.ofNat 2048 (bpnRun bytes) else vectorOf 8 bytes
      csat := qs.any (·.2) }) s

end Sys2Proof.Machine
end

