-- ==== Sys2Proof/Machine/Queue.lean ====
section
/-! DEFINITION. Sys2Proof/Machine/Queue.lean: the QOP family and its 16-bit forms (R29, R82-R84): queue registers bound to
the SFU result port, the Braid dispatch port, or a scratchpad ring. -/

namespace Sys2Proof.Machine

/-- What a queue register is bound to (R82). -/
inductive Port where
  | sfu
  | braid
  /-- A ring descriptor at an offset of a core's scratchpad. -/
  | ring (core off : Nat)

/-- The port that a port value names for a thread, or none: the queue trap (R82). -/
def State.portOf (s : State) (th : Thread) (w : Word) : Option Port :=
  let arg := bits w 47 0
  if bits w 59 48 ≠ 0 then none
  else if bits w 63 60 = 1 then (if arg = 0 then some .sfu else none)
  else if bits w 63 60 = 2 then (if arg = 0 then some .braid else none)
  else if bits w 63 60 = 3 && inWindow arg && decide (arg % 32 = 0) then
    match s.windowPlace th.part th.ten th.sid .sync arg with
    | some (.pad core off) => some (.ring core off)
    | _ => none
  else none

/-- The fields of a ring descriptor (R83). -/
structure Ring where
  head : Nat
  tail : Nat
  /-- Offset of the entry array in the scratchpad, and the number of entries minus 1. -/
  base : Nat
  mask : Nat

def State.padWordAt (s : State) (core off : Nat) : Nat := leNat (s.readAt (.pad core off) 8)

/-- The banks of a scratchpad that `n` bytes from `o` lie in. -/
def bankRun (o n : Nat) : List Nat := units Config.bankBytes o n

/-- The ring at a descriptor, or none when the descriptor breaks the layout of R83. An entry array that starts inside the scratchpad
and runs past its end breaks it too (DEDUCED, log entry 57: its entries would lie outside the scratchpad). -/
def State.ringAt (s : State) (core off : Nat) : Option Ring :=
  let base := s.padWordAt core (off + 16)
  let m := s.padWordAt core (off + 24)
  let pad := Config.windowBase + core % 1024 / 8 * 0x800000 + core % 8 * 0x40000
  if m < 65536 && decide (1 ≤ m) && 2 ^ (m + 1).log2 = m + 1 && decide (base % 8 = 0) && decide (pad ≤ base) &&
      decide (base + 8 * (m + 1) ≤ pad + Config.padBytes) then
    some ⟨s.padWordAt core off, s.padWordAt core (off + 8), base - pad, m⟩
  else none

/-- The thread reaches every bank of the ring's entry array (R161, R309). -/
def State.ringAdmits (s : State) (th : Thread) (r : Ring) : Bool :=
  (bankRun r.base (8 * (r.mask + 1))).all fun b => s.admitsBank th.part b

/-- A ring as a thread finds it: a broken layout, or entries in a bank outside the partition's mask, is the queue trap (DEDUCED, log
entry 57: R83 gives a push or pop no other trap). -/
def State.ringFor (s : State) (th : Thread) (core off : Nat) : Option Ring :=
  (s.ringAt core off).filter (s.ringAdmits th)

/-- Entries that a ring holds. A ring whose HEAD a program set above TAIL counts as empty (DESIGN CHOICE, log entry 58: TAIL −
HEAD is negative there, and R83 states no case for it): a pop waits and a push goes on. -/
def Ring.count (r : Ring) : Nat := r.tail - r.head

def Ring.slot (r : Ring) (n : Nat) : Nat := r.base + 8 * (n % (r.mask + 1))

/-- Held and free entries of a port, each as QSTAT reports it before it saturates. -/
def State.portCounts (s : State) (th : Thread) : Port → Option (Nat × Nat)
  | .sfu => some (th.sfuWords.length, Config.sfuPortWords - th.sfuWords.length)
  | .braid => some (s.braidHeld (dieOf th.sid) th.part th.ten, 65535)
  | .ring core off => (s.ringFor th core off).map fun r => (r.count, r.mask + 1 - r.count)

/-- The binding of a queue register that an access uses, or the queue trap (R29). -/
def withPort (s : State) (q : Nat) (k : Word → Port → Verdict) : Verdict :=
  match Table.find? s.me.q q with
  | none => .trap 9 0 0
  | some w =>
    match s.portOf s.me w with
    | some p => k w p
    | none => .trap 9 0 0

/-- QBIND (R82, R84). -/
def execQbind (q : Nat) (a : Src) (s : State) : Result :=
  issue { src := [a] } (fun s =>
    let w := s.rx a
    if Table.has s.me.q q then .trap 9 0 0
    else
      match s.portOf s.me w with
      | some _ => .go (s.modThr s.cur fun th => { th with q := Table.set th.q q w }).advance
      | none => .trap 9 0 0) s

/-- QFREE (R84): entries stay in the port. -/
def execQfree (q : Nat) (s : State) : Result :=
  issueSimple {} (fun s => s.modThr s.cur fun th => { th with q := Table.erase th.q q }) s

/-- The 32 bytes of a ring descriptor may be read: no earlier acquire of the thread is unserved, and no earlier access of it to those
bytes waits (R26, R65). -/
def State.descFree (s : State) (core off : Nat) : Bool := s.spanFree s.cur s.nextAcc 1 (.pad core off) 32

/-- An instruction that reads the descriptor of a ring waits until it may. -/
def afterDesc (s : State) (p : Port) (v : Verdict) : Verdict :=
  match p with
  | .ring core off => if s.descFree core off then v else .park .other id
  | .sfu | .braid => v

/-- QSTAT (R84). A broken ring descriptor takes the queue trap (R83). -/
def execQstat (q rd : Nat) (s : State) : Result :=
  issue { dx := [rd] } (fun s =>
    if !Table.has s.me.q q then .go (s.wx rd 0).advance
    else
      withPort s q fun w p => afterDesc s p <|
        match s.portCounts s.me p with
        | none => .trap 9 0 0
        | some (held, free) =>
          .go (s.wx rd (word (2 ^ 63 + bits w 63 60 * 2 ^ 56 + min free 65535 * 2 ^ 16 + min held 65535))).advance) s

/-- A pop of one entry into rd (R29, R83, R127, R199). A pop of a ring reads its descriptor and its entry, and waits until it may
(R26, R65). An entry whose scratchpad bytes hold an uncorrectable error poisons
rd (R31). -/
def popInto (q rd : Nat) : State → Result :=
  issue { dx := [rd] } fun s =>
    withPort s q fun _ p => afterDesc s p <|
      let th := s.me
      match p with
      | .sfu =>
        match th.sfuWords with
        | [] => .park .other id
        | w :: ws => .go ((s.modThr s.cur fun th => { th with sfuWords := ws }).wx rd w).advance
      | .braid =>
        match s.braidNext (dieOf th.sid) th.part th.ten with
        | none => .park .other id
        | some (g, i) =>
          let (w, s) := s.braidPop g i
          .go (s.wx rd w).advance
      | .ring core off =>
        match s.ringFor th core off with
        | none => .trap 9 0 0
        | some r =>
          if r.tail ≤ r.head || !s.spanFree s.cur s.nextAcc 1 (.pad core (r.slot r.head)) 8 then .park .other id
          else
            let at_ := r.slot r.head
            let bad := s.badAt (.pad core at_) 8
            let v := word (s.padWordAt core at_)
            let s := s.noteRead th.ctx (.pad core at_) 8
            let s := s.writePad th.ctx core off (leBytes 8 (r.head + 1))
            if bad then
              .go (State.modThr { s with freeCtr := s.freeCtr + 1 } s.cur
                (·.setX rd ⟨Config.freeWord s.freeCtr, true, true, false⟩)).advance
            else .go (s.wx rd v).advance

def execQrd (q rd : Nat) (s : State) : Result := popInto q rd s

/-- C.QRD xa, qN (R45). -/
def execCQrd (a b : Nat) (s : State) : Result := popInto b a s

/-- A push of a register (R29). A ring push is a release: it waits for the thread's earlier accesses (R65, R83). A completion
push to the Braid never parks (R199): it is taken at once, and acts once the thread's earlier accesses are performed (R200). A
push to the SFU result port leaves room for the requests that the SFU has accepted (R127). -/
def pushFrom (q : Nat) (a : Src) : State → Result :=
  issue { src := [a] } fun s =>
    withPort s q fun _ p => afterDesc s p <|
      let th := s.me
      let v := s.rx a
      match p with
      | .sfu =>
        if Config.sfuPortWords ≤ th.sfuWords.length + (s.core (coreOf th.sid)).sfuOpen s.cur then .park .other id
        else .go (s.modThr s.cur fun th => { th with sfuWords := th.sfuWords ++ [v] }).advance
      | .braid => .go (s.submit s.cur (.braid v) []).advance
      | .ring core off =>
        match s.ringFor th core off with
        | none => .trap 9 0 0
        | some r =>
          if r.mask < r.count then .park .other id
          else
            afterHeld s (.go ((s.writePad th.ctx core (r.slot r.tail) (leBytes 8 v.toNat)).writePad th.ctx core (off + 8)
              (leBytes 8 (r.tail + 1))).advance)

def execQwr (q : Nat) (a : Src) (s : State) : Result := pushFrom q a s

/-- C.QWR qN, xa (R45). -/
def execCQwr (a b : Nat) (s : State) : Result := pushFrom b (cs a) s

end Sys2Proof.Machine
end

