-- ==== Sys2Proof/Machine/Sys.lean ====
section
/-! DEFINITION. Sys2Proof/Machine/Sys.lean: TRAP, BRK and WFE (R297, R298), and the root slot's instructions over other slots:
ERET, SLOTLD, SLOTST, PARK, UNPARK, KILL (R295, R299-R302), with the events of WFE and of the trap queue (R292, R298). -/

namespace Sys2Proof.Machine

/-- TRAP (R297): its sources are read, and the take sources marked; it completes and freezes the thread with class 12 and
the service number in INFO. In the root slot it goes to RVEC (R293). -/
def execTrap (rd : Nat) (a b : Src) (s : State) : Result :=
  issue { src := [a, b], dx := [rd] } (fun s => .go ((s.takeTrap 12 0 (s.rx a)))) s

/-- BRK (R297): class 13. -/
def execBrk (s : State) : Result := issue {} (fun s => .go (s.takeTrap 13 0 0)) s

/-- WFE (R298): with the latch set it clears it and goes on; otherwise the thread waits, at most WLIM × 1,024 cycles from
the cycle of issue when WLIM is not 0. -/
def execWfe (s : State) : Result :=
  issueSimple {} (fun s => s.modThr s.cur fun th =>
    if th.latch then { th with latch := false }
    else { th with wfe := some (if th.wlim = 0 then none else some (s.cycle + th.wlim.toNat * 1024)) }) s

/-- The thread leaves WFE: the latch is cleared (R298). -/
def Thread.wake (th : Thread) : Thread := { th with wfe := none, latch := false }

/-- WFE_TIMEOUT (R298): the limit has passed. -/
def execWfeTimeout (t : Nat) (s : State) : Result :=
  match (s.thr t).wfe with
  | some (some due) => if due ≤ s.cycle then .next (s.modThr t Thread.wake) else .next s
  | _ => .next s

/-! ### Instructions over another slot of the core (R295) -/

/-- The slot operand: xs[3:0] in 1-15 with xs[63:4] = 0; otherwise the illegal-instruction trap (R295). -/
def withSlot (s : State) (a : Src) (k : Nat → Verdict) : Verdict :=
  let v := s.rx a
  if 1 ≤ v.toNat && v.toNat ≤ 15 then k (s.myCore * 16 + v.toNat) else .trap 1 0 0

/-- Does `f` on the thread of a slot; an empty slot has no effect. -/
def slotMember (a : Src) (f : State → Nat → State) : State → Result :=
  issueRoot { src := [a] } fun s => withSlot s a fun sid =>
    match s.slotThread sid with
    | some t => .go (f s t).advance
    | none => .go s.advance

def execEret (a : Src) (s : State) : Result := slotMember a (fun s t => s.eretTo t) s

/-- PARK sets HELD from the next cycle (R301). -/
def execPark (a : Src) (s : State) : Result :=
  slotMember a (fun s t => s.modThr t fun th => { th with held := true }) s

/-- UNPARK clears HELD and sets the slot's event latch (R298, R301). -/
def execUnpark (a : Src) (s : State) : Result :=
  slotMember a (fun s t => s.modThr t fun th =>
    { th with held := false, latch := true, notBefore := max th.notBefore (s.cycle + 1) }) s

/-- KILL ends the slot's thread, whatever its state (R302). -/
def execKill (a : Src) (s : State) : Result := slotMember a (fun s t => s.endThread t) s

/-! ### Slot selectors (R299) -/

/-- SLOT [19:16], FILE [15:12], INDEX [11:0]; a selector out of range is none (R299). -/
def slotSel (w : Word) : Option (Nat × Nat × Nat) :=
  let slot := bits w 19 16
  let file := bits w 15 12
  let idx := bits w 11 0
  let ok := match file with
    | 0 => decide (idx < 32)
    | 1 => decide (idx < 512)
    | 2 => decide (idx < 32)
    | 3 => decide (idx < 4)
    | 4 => decide (idx < 2) || (decide (16 ≤ idx) && decide (idx < 32))
    | _ => false
  if decide (w.toNat < 2 ^ 20) && decide (slot ≠ 0) && ok then some (slot, file, idx) else none

def flagWord (n : Nat) (f : Nat → Bool) : Nat := ((List.range n).map fun i => if f i then 2 ^ i else 0).sum

/-- The 64-bit word that FILE and INDEX name (R299). Predicates always read full (R25). -/
def slotWord (th : Thread) (file idx : Nat) : Word :=
  match file with
  | 0 => th.xval idx
  | 1 => word ((th.vval (idx / 32)).toNat / 2 ^ (64 * (idx % 32)))
  | 2 => word ((th.getP (idx / 4)).toNat / 2 ^ (64 * (idx % 4)))
  | 3 =>
    match idx with
    | 0 => word (flagWord 32 fun r => (th.getX r).full)
    | 1 => word (flagWord 16 (fun r => (th.getV r).full) + 0xFF0000)
    | 2 => word (flagWord 32 fun r => (th.getX r).poison)
    | _ => word (flagWord 16 (fun r => (th.getV r).poison) + th.pbad.toNat * 2 ^ 16)
  | _ => if idx = 0 then th.pc else if idx = 1 then th.status else Table.get th.q (idx - 16) 0

/-- Replaces 64-bit lane `d` of a wide register. -/
def setLane (v d x : Nat) : Nat := v - v / 2 ^ (64 * d) % 2 ^ 64 * 2 ^ (64 * d) + x * 2 ^ (64 * d)

/-- The write of a selected word (R299); `none` is the illegal-instruction trap of a bad pc. -/
def setSlotWord (th : Thread) (file idx : Nat) (w : Word) : Option Thread :=
  match file with
  | 0 => some (th.setX idx { th.getX idx with val := w, full := true, poison := false })
  | 1 => some (th.setV (idx / 32) { th.getV (idx / 32) with
      val := BitVec.ofNat 2048 (setLane (th.vval (idx / 32)).toNat (idx % 32) w.toNat), full := true, poison := false })
  | 2 => some (th.setP (idx / 4) (BitVec.ofNat 256 (setLane (th.getP (idx / 4)).toNat (idx % 4) w.toNat)))
  | 3 =>
    some (match idx with
      | 0 => (List.range 32).foldl (fun th r => th.setX r { th.getX r with full := bit w r }) th
      | 1 => (List.range 16).foldl (fun th r => th.setV r { th.getV r with full := bit w r }) th
      | 2 => (List.range 32).foldl (fun th r => th.setX r { th.getX r with poison := bit w r }) th
      | _ => { (List.range 16).foldl (fun th r => th.setV r { th.getV r with poison := bit w r }) th with
          pbad := BitVec.ofNat 8 (bits w 23 16) })
  | _ =>
    if idx = 0 then (if bit w 0 || decide (bits w 63 48 ≠ 0) then none else some { th with pc := w })
    else if idx = 1 then some { th with wlim := BitVec.ofNat 16 (bits w 47 32) }
    else some th

/-- SLOTLD (R299): the selected word of any slot; 0 for an empty slot. It never poisons xd. -/
def execSlotld (rd : Nat) (a : Src) (s : State) : Result :=
  issueRoot { src := [a], dx := [rd] } (fun s =>
    match slotSel (s.rx a) with
    | none => .trap 1 0 0
    | some (slot, file, idx) =>
      match s.slotThread (s.myCore * 16 + slot) with
      | some t => .go (s.wx rd (slotWord (s.thr t) file idx)).advance
      | none => .go (s.wx rd 0).advance) s

/-- SLOTST (R299): acts only on a frozen or held thread. A pc that is odd or above 48 bits traps whatever the slot holds. -/
def execSlotst (a b : Src) (s : State) : Result :=
  issueRoot { src := [a, b] } (fun s =>
    match slotSel (s.rx a) with
    | none => .trap 1 0 0
    | some (slot, file, idx) =>
      if file = 4 && idx = 0 && (bit (s.rx b) 0 || decide (bits (s.rx b) 63 48 ≠ 0)) then .trap 1 0 0
      else
        match s.slotThread (s.myCore * 16 + slot) with
        | some t =>
          let th := s.thr t
          if th.frozen.isSome || th.held then
            match setSlotWord th file idx (s.rx b) with
            | some th' => .go (s.setThr t th').advance
            | none => .trap 1 0 0
          else .go s.advance
        | none => .go s.advance) s

/-! ### The trap queue (R292) -/

/-- Scratchpad offset of word `w` of entry `n mod 64` of the trap queue. -/
def tqOffset (base n w : Nat) : Nat := base % Config.padBytes + n % 64 * 32 + w * 8

/-- The next record of the trap queue can be written: TQBASE is not 0, word 0 of its entry is empty, and for n ≥ 64 the root slot has
taken record n − 63 (R292). -/
def State.recordReady (s : State) (core : Nat) : Bool :=
  let c := s.core core
  !c.records.isEmpty && c.tqbase ≠ 0 && !(s.padWord core (tqOffset c.tqbase.toNat c.tqcnt 0)).full &&
    !(decide (64 ≤ c.tqcnt) && decide (c.tqtaken + 62 < c.tqcnt))

/-- The frozen thread that a record of a core is about holds it with its SEQ (R291, R294). -/
def State.numberRecord (s : State) (core : Nat) (old new : List Word) : State :=
  match s.slotThread (core * 16 + bits (old.getD 0 0) 7 4) with
  | some t => if (s.thr t).record = some old then s.modThr t fun th => { th with record := some new } else s
  | none => s

/-- TRAP_RECORD_WRITE (R292): record n is written when its entry's word 0 is empty and, for n ≥ 64, the root slot has taken
record n − 63; bytes 0x08-0x1F first, then word 0 as an STF. Writing a record sets the root slot's latch (R298). -/
def execTrapRecordWrite (core : Nat) (s : State) : Result :=
  let c := s.core core
  match c.records with
  | rec :: rest =>
    let off := tqOffset c.tqbase.toNat c.tqcnt 0
    if !s.recordReady core then .next s
    else
      let cx : Ctx := ⟨core, 0, 0, core % 8 * 16⟩
      let w : Nat → Word := fun i => rec.getD i 0
      let s := s.writePad cx core (off + 8) (leBytes 8 (w 1).toNat ++ leBytes 8 (w 2).toNat ++ leBytes 8 (w 3).toNat)
      let w0 := word (c.tqcnt % 2 ^ 24 * 2 ^ 40 + bits (w 0) 39 0)
      let s := s.writePad cx core off (leBytes 8 w0.toNat)
      let s := (s.setPadFull core off true none).modCore core fun c => { c with records := rest, tqcnt := c.tqcnt + 1 }
      let s := (s.modThr core fun th => { th with latch := true }).numberRecord core rec (w0 :: rec.drop 1)
      .next s.settle
  | [] => .next s

end Sys2Proof.Machine
end

