-- ==== Sys2Proof/Machine/Residency.lean ====
section
/-! DEFINITION. Sys2Proof/Machine/Residency.lean: tensor records and the TID family (R141-R144), and Canopy residencies with
the RES family (R145-R151), their fills (R147, R150), eviction (R146) and background refills (R322). A fill reads its source
in one piece when it completes; the generations that it recorded at its start show every store made in between (R147). -/

namespace Sys2Proof.Machine

/-! ### Tensor records (R141, R142) -/

/-- Key of a tensor record: each tenancy has its own table (R141, R311). -/
def tidKey (part ten tid : Nat) : Nat := (part * 4 + ten) * 4096 + tid

/-- The eight words of a record; zero at creation (R141). Tenancy 4 stands for none: a suspended partition runs no tenancy, and a
RES request of the root slot finds no record there. -/
def State.tidRec (s : State) (part ten tid : Nat) : List Word :=
  if 4 ≤ ten then List.replicate 8 0 else Table.get s.tids (tidKey part ten tid) (List.replicate 8 0)

/-- The fields of a record (R141). -/
structure Tensor where
  fmt    : Nat
  planes : Nat
  sstr   : Nat
  dim0   : Nat
  dim1   : Nat
  dim2   : Nat
  dim3   : Nat
  str1   : Nat
  base   : Nat
  scale  : Nat
  /-- A reserved bit is set. -/
  bad    : Bool

def tensorOf (r : List Word) : Tensor :=
  let w := fun i => r.getD i 0
  { fmt := bits (w 0) 3 0, planes := bits (w 0) 7 4, sstr := bits (w 0) 63 32
    dim0 := bits (w 1) 31 0, dim1 := bits (w 1) 63 32, dim2 := bits (w 2) 31 0, dim3 := bits (w 2) 63 32
    str1 := (w 3).toNat, base := bits (w 6) 47 0, scale := bits (w 7) 47 0
    bad := decide (bits (w 0) 31 8 ≠ 0) || decide (bits (w 6) 63 48 ≠ 0) || decide (bits (w 7) 63 48 ≠ 0) }

/-- The checks that a user of a record makes (R142). -/
def Tensor.ok (d : Tensor) : Bool :=
  decide (d.fmt ≠ 7) && !d.bad &&
    (if d.fmt = 5 ∨ d.fmt = 6 then
      (if d.fmt = 5 then decide (d.planes = 8) else decide (2 ≤ d.planes) && decide (d.planes ≤ 8)) &&
        decide (d.dim0 ≠ 0) && decide (d.dim0 % 48 = 0) && decide (d.scale ≠ 0) && decide (d.dim0 / 48 ≤ d.sstr)
    else decide (d.planes = 0) && decide (d.scale = 0) && decide (d.sstr = 0))

/-- Address of the data of row `i1`, and of its scales (R142). BPN runs follow one another as BSI8 blocks do. -/
def Tensor.row (d : Tensor) (i1 : Nat) : Nat := d.base + i1 * d.str1
def Tensor.scaleRow (d : Tensor) (i1 : Nat) : Nat := d.scale + i1 * d.sstr

/-- A TID operand, or the matrix trap with cause BOUNDS (R144). -/
def withTid (s : State) (a : Src) (k : Nat → Verdict) : Verdict :=
  if (s.rx a).toNat < 4096 then k (s.rx a).toNat else .trap 11 3 0

/-- Splits bytes into 64-bit words. -/
def wordsOf (n : Nat) (bs : List Byte) : List Word := (List.range n).map fun i => word (leNat ((bs.drop (8 * i)).take 8))

/-- TIDSET (R143, R144): an uncorrectable error in the 64 bytes takes the poison trap and is logged. -/
def execTidset (a b : Src) (s : State) : Result :=
  issue { src := [a, b] } (fun s =>
    withTid s a fun tid =>
      withWords s .read false (s.rx b) 8 fun ps _ => afterHeld s <|
        let (bs, bad, s') := s.readParts s.me.ctx ps
        let ws := wordsOf 8 bs
        if bad then .trapAfter 8 0 0 fun s => (s.readParts s.me.ctx ps).2.2
        else if (tensorOf ws).bad || (tensorOf ws).fmt = 7 then .trap 11 4 0
        else .go (State.countWords { s' with tids := Table.set s'.tids (tidKey s.me.part s.me.ten tid) ws } s.me.ctx s.me .read false
          (s.rx b) 8).advance) s

/-- TIDGET (R143, R144): a 64-byte store that is not STD. -/
def execTidget (a b : Src) (s : State) : Result :=
  issue { src := [a, b] } (fun s =>
    withTid s a fun tid =>
      withWords s .write true (s.rx b) 8 fun ps _ => afterHeld s <|
        let bs := (s.tidRec s.me.part s.me.ten tid).flatMap fun w => leBytes 8 w.toNat
        .go ((s.writeParts s.me.ctx ps bs).countWords s.me.ctx s.me .write true (s.rx b) 8).advance) s

/-- TIDPATCH (R143, R144). -/
def execTidpatch (d : Nat) (a b : Src) (s : State) : Result :=
  issue { src := [a, b] } (fun s =>
    withTid s a fun tid =>
      let v := s.rx b
      if bits v 63 32 ≠ 0 then .trap 11 5 0
      else afterHeld s <|
        let r := s.tidRec s.me.part s.me.ten tid
        let w := r.getD (1 + d / 2) 0
        let w' := if d % 2 = 0 then word (bits w 63 32 * 2 ^ 32 + bits v 31 0) else word (bits v 31 0 * 2 ^ 32 + bits w 31 0)
        .go { s with tids := Table.set s.tids (tidKey s.me.part s.me.ten tid) (r.set (1 + d / 2) w') }.advance) s

/-! ### Residencies (R145, R146) -/

/-- A live residency of a partition. -/
def State.residency (s : State) (part h : Nat) : Option Residency :=
  s.residencies.find? fun r => r.part = part && r.handle = h

def State.modRes (s : State) (part h : Nat) (f : Residency → Residency) : State :=
  { s with residencies := s.residencies.map fun r => if r.part = part && r.handle = h then f r else r }

def resCluster (h : Nat) : Nat := h / 512

/-- The residency pages that weights of K × N need (R145). -/
def pagesFor (k n : Nat) : Nat := ceilDiv k 192 * ceilDiv n 128

/-- Free pages of a cluster: an EVICTED residency holds none. -/
def State.freePages (s : State) (g : Nat) : Nat :=
  Config.canopyPages - ((s.residencies.filter fun r => resCluster r.handle = g && r.st ≠ 3).map (·.pages)).sum

/-- Pages charged to a tenancy in a cluster (R145). -/
def State.charged (s : State) (part ten g : Nat) : Nat :=
  ((s.residencies.filter fun r => r.part = part && r.ten = ten && resCluster r.handle = g).map (·.pages)).sum

/-- The command is an MMUL that reads the residency of a partition. -/
def ArrayCmd.readsRes (c : ArrayCmd) (part h : Nat) : Bool :=
  c.part = part && !c.abandoned && match c.op with
    | .mmul st h' _ _ _ _ _ _ _ _ _ _ _ => !st && decide (h' = h)
    | .mzero | .mdrain _ _ _ _ => false

/-- An accepted MMUL whose wait (`ArrayCmd.stall`) passes the test still has to read the residency. -/
def State.resReader (s : State) (part h : Nat) (p : Nat → Bool) : Bool :=
  match s.array (resCluster h) with
  | some a => a.queue.any fun c => c.readsRes part h && p c.stall
  | none => false

/-- An accepted command still reads the residency (R146 item 1, R150): every accepted MMUL that is not stalled on its fill, those
that wait for an AUTOFILL refill among them. -/
def State.resBusy (s : State) (part h : Nat) : Bool := s.resReader part h (· ≠ 1)

/-- The MMUL at the head of an array's queue for which the array refills a residency (R146 item 5). -/
def State.refillHead (s : State) (g : Nat) : Option ArrayCmd :=
  match (s.array g).bind (·.queue.head?) with
  | some c => if c.stall = 2 && !c.abandoned then some c else none
  | none => none

/-- A residency that may give up its pages for a tenancy (R146 item 1). -/
def State.evictable (s : State) (g part ten : Nat) (r : Residency) : Bool :=
  resCluster r.handle = g && !r.pin && (r.st = 0 || r.st = 2) && (r.part ≠ part || r.ten ≠ ten) && !s.resBusy r.part r.handle

/-- The least recently used residency that may give up its pages. -/
def State.victim (s : State) (g part ten : Nat) : Option Residency :=
  (s.residencies.filter (s.evictable g part ten)).foldl (fun best r =>
    match best with
    | some b => if r.used < b.used then some r else some b
    | none => some r) none

/-- Evicts until `n` pages are free, or gives none when that cannot be (R146 item 2). -/
def State.makeRoom (s : State) (g part ten n : Nat) : Nat → Option State
  | 0 => if n ≤ s.freePages g then some s else none
  | fuel + 1 =>
    if n ≤ s.freePages g then some s
    else
      match s.victim g part ten with
      | some v => (s.modRes v.part v.handle fun r => { r with st := 3, wts := [], scl := [] }).makeRoom g part ten n fuel
      | none => none

def State.room (s : State) (g part ten n : Nat) : Option State := s.makeRoom g part ten n s.residencies.length

/-- A fill or an accepted MMUL is a use (R146 item 2). -/
def State.useRes (s : State) (part h : Nat) : State :=
  State.modRes { s with useClock := s.useClock + 1 } part h fun r => { r with used := s.useClock + 1 }

/-! ### Sources (R147, R149, R335) -/

/-- Physical address of the leaf entry that translates `va`. -/
def State.leafEntry (s : State) (va : Nat) : List (Nat × Nat) → Nat → Nat
  | [], table => table
  | (lo, k) :: rest, table =>
    let a := table + 8 * (va / 2 ^ lo % 2 ^ k)
    let e := s.tableEntry a
    if e / 2 % 2 = 1 then a else s.leafEntry va rest (e / 2 ^ 8 % 2 ^ 40 * 2 ^ 8)

/-- The runs of a column that are read: address and length. Of a BPN run of 48 bytes, only the bytes of its planes are (R95, R150). -/
def Tensor.runs (d : Tensor) (c : Nat) : List (Nat × Nat) :=
  if d.fmt = 6 then (List.range (d.dim0 / 48)).map fun j => (d.row c + 48 * j, 6 * d.planes) else [(d.row c, d.dim0)]

/-- The 64 KiB units of the address space that a source occupies. -/
def Tensor.spans (d : Tensor) : List Nat :=
  ((List.range d.dim1).flatMap fun c => (d.runs c ++ [(d.scaleRow c, d.dim0 / 48)]).flatMap fun r => units 65536 r.1 r.2).eraseDups

/-- Source pages: leaf entry and leaf of each, or none for SOURCE (R149). -/
def State.sourcePages (s : State) (part ten : Nat) : List Nat → Option (List (Nat × Leaf))
  | [] => some []
  | u :: us =>
    let va := u * 65536
    if 2 ^ 48 ≤ va || inWindow va then none
    else
      match s.walk part ten va with
      | .error _ => none
      | .ok l =>
        if l.host then none
        else
          let a := s.leafEntry va walkLevels (s.rootTable part ten)
          (s.sourcePages part ten us).map fun ps => if ps.any fun p => p.1 = a then ps else (a, l) :: ps

/-- The pages of a source record. A BASE or SCALE in the window is SOURCE, also where the record names no column (R149). -/
def State.source (s : State) (part ten : Nat) (d : Tensor) : Option (List (Nat × Leaf)) :=
  if inWindow d.base || inWindow d.scale then none else s.sourcePages part ten d.spans

/-- The 64 KiB frames of a page. -/
def Leaf.frames (l : Leaf) : List Nat := (List.range (2 ^ l.lg / 65536)).map (l.phys / 65536 + ·)

/-- Sets or clears RSRC in a leaf entry that still maps the page (R335). -/
def State.markRsrc (s : State) (c : Ctx) (on : Bool) (leaf : Nat × Leaf) : State :=
  let e := s.tableEntry leaf.1
  if e % 4 = 3 && decide (e / 2 ^ 8 % 2 ^ 40 * 2 ^ 8 = leaf.2.phys) && decide ((e / 64 % 2 = 1) ≠ (on = true)) then
    s.writeHbm c leaf.1 (leBytes 8 (if on then e + 64 else e - 64))
  else s

/-- Registers the frames of source pages and marks their leaves; a new frame starts at generation 0 (R335). -/
def State.register (s : State) (c : Ctx) (ps : List (Nat × Leaf)) : State :=
  let frames := ps.flatMap fun p => p.2.frames
  let s := ps.foldl (fun s p => s.markRsrc c true p) s
  { s with gens := frames.foldl (fun t f => if Table.has t f then t else Table.set t f 0) s.gens }

/-- Frames and leaves that no residency remembers any more are given up (R335). -/
def State.unregister (s : State) (c : Ctx) (frames : List Nat) (leaves : List (Nat × Leaf)) : State :=
  let kept := fun f : Nat => s.residencies.any fun r =>
    r.gens.any (fun e => e.1 = f) || (r.fill.map fun q => q.gens.any fun e => e.1 = f).getD false
  let keptLeaf := fun l : Nat × Leaf => s.residencies.any fun r =>
    r.leaves.contains l || (r.fill.map fun q => q.leaves.contains l).getD false
  let s := { s with gens := s.gens.filter fun e => !frames.contains e.1 || kept e.1 }
  leaves.foldl (fun s l => if keptLeaf l then s else s.markRsrc c false l) s

/-- Reads runs of bytes one after another, each for itself: a failing one gives its code at the end. -/
def Xfer.readRuns (e : Eng) : List (Nat × Nat) → Xfer → List (List Nat) × Xfer
  | [], x => ([], x)
  | (a, n) :: rs, x =>
    let (bs, y) := Xfer.readAll e a n { x with code := 0 }
    let (rest, z) := Xfer.readRuns e rs { y with code := if x.code ≠ 0 then x.code else y.code }
    (bs.map (·.toNat) :: rest, z)

/-- One column of a source: its weights read at PLANES, and its scales. A code is SOURCE. -/
def readColumn (e : Eng) (d : Tensor) (c : Nat) (x : Xfer) : (List Nat × List Nat) × Xfer :=
  let (bs, x) := Xfer.readRuns e (d.runs c ++ [(d.scaleRow c, d.dim0 / 48)]) x
  let ns := if d.fmt = 6 then (List.range d.dim0).map fun i => bpnByte (bs.getD (i / 48) []) (i % 48) else bs.headD []
  ((ns, bs.getLastD []), x)

def readEach (e : Eng) (d : Tensor) : Nat → Nat → Xfer → List (List Nat × List Nat) × Xfer
  | 0, _, x => ([], x)
  | n + 1, c, x =>
    let (col, x) := readColumn e d c x
    if x.code ≠ 0 then ([], x)
    else
      let (cols, x) := readEach e d n (c + 1) x
      (col :: cols, x)

/-- The columns of a source from `c` on, as one operation: none is SOURCE. -/
def readColumns (e : Eng) (d : Tensor) (n c : Nat) (s : State) : Option (List (List Nat × List Nat)) × State :=
  let (cols, x) := readEach e d n c ⟨s, [], 0, 0⟩
  (if x.code ≠ 0 then none else some cols, x.s)

/-- Bytes read from a source (R150). -/
def Tensor.sourceBytes (d : Tensor) : Nat := d.dim1 * ((if d.fmt = 6 then 6 * d.planes else 48) * (d.dim0 / 48) + d.dim0 / 48)

/-- The engine that reads a source for a residency: its partition and the tenancy that the request acts for, in its cluster. -/
def Residency.engFor (r : Residency) (ten : Nat) : Eng := ⟨resCluster r.handle * 128, r.part, ten, 140, none⟩

def Residency.eng (r : Residency) : Eng := r.engFor r.ten

/-- The armed injection of a cluster's Canopy that the pages of a fill meet: the kind of its error. Which pages of the Canopy a
residency has is not in the spec, so that a free value says whether they hold the byte that OFF names (R352; DESIGN CHOICE, log
entry 43). -/
def State.canopyHit (s : State) (g : Nat) : Option Nat :=
  let w := (s.cluster g).einj
  if bit w 61 && bit w 60 && decide (bits w 59 56 = 2) && decide (bits w 47 0 < Config.canopyPages * 24576) &&
      bit (Config.freeWord s.freeCtr) 0 then injKind (bits w 49 48) else none

/-- Loads weights into a residency, with an armed Canopy injection of the cluster (R352). A refill of the remembered source under an
RFILL that waits (R150) leaves the residency FILLING, and its pages then hold weights to which a failure of that fill leads back. -/
def State.loadWeights (s : State) (part h : Nat) (cols : List (List Nat × List Nat)) : State :=
  let g := resCluster h
  let hit := s.canopyHit g
  let byte := bits (s.cluster g).einj 47 0
  let s := State.modCluster { s with freeCtr := s.freeCtr + 1 } g fun cl =>
    { cl with einj := if hit.isSome then disarm cl.einj else cl.einj }
  (s.modRes part h fun r => { r with
    st := if r.fill.isSome then 1 else 2, fill := r.fill.map fun f => { f with prior := 2 }
    wts := cols.map (·.1), scl := cols.map (·.2), bad := hit.getD 0, badByte := byte, wasRes := false }).useRes part h

/-! ### Commands that wait for a residency (R146 item 5, R150) -/

/-- Changes the MMULs of a residency in its cluster's queue. -/
def State.modMmuls (s : State) (part h : Nat) (f : ArrayCmd → ArrayCmd) : State :=
  match s.array (resCluster h) with
  | some a => { s with arrays := Table.set s.arrays (resCluster h) { a with queue := a.queue.map fun c =>
      match c.op with
      | .mmul st h' _ _ _ _ _ _ _ _ _ _ _ => if !st && h' = h && c.part = part then f c else c
      | .mzero | .mdrain _ _ _ _ => c } }
  | none => s

/-- The command is abandoned (R146 item 5, R150): it makes no pass and occupies the array for one cycle after this one (R135). -/
def ArrayCmd.abandon (c : ArrayCmd) (cycle : Nat) : ArrayCmd := { c with abandoned := true, acc := max c.acc cycle }

/-- The commands stalled on a fill are abandoned when it fails or is abandoned. -/
def State.abandonStalled (s : State) (part h : Nat) : State :=
  s.modMmuls part h fun c => if c.stall = 1 then c.abandon s.cycle else c

/-- The array abandons the command for which it refills a residency (R146 item 5). -/
def State.abandonHead (s : State) (g : Nat) : State :=
  match s.array g with
  | some a => { s with arrays := Table.set s.arrays g { a with queue := match a.queue with
      | c :: rest => c.abandon s.cycle :: rest
      | [] => [] } }
  | none => s

/-- An MMUL accepted while its residency was EVICTED fits the weights that a fill has loaded. -/
def fitsWeights (c : ArrayCmd) (d : Tensor) : Bool :=
  match c.op with
  | .mmul _ _ p k n _ _ _ _ _ _ _ _ => decide (k = d.dim0) && decide (n = d.dim1) && decide (p ≤ d.planes)
  | .mzero | .mdrain _ _ _ _ => true

/-- The weights are resident: commands whose wait passes the test go on from here, and the latch load of one starts in the next cycle at the
earliest (DESIGN CHOICE, log entry 85). -/
def State.resumeStalled (s : State) (part h : Nat) (d : Tensor) (p : Nat → Bool) : State :=
  s.modMmuls part h fun c =>
    if c.stall = 0 || !p c.stall then c
    else { c with stall := 0, acc := max c.acc s.cycle, abandoned := c.abandoned || !fitsWeights c d }

/-- Cycles for which a command with no pass occupies the array (R135). An MDRAIN of no row takes one, as a command with no pass does (DESIGN
CHOICE, log entry 85). -/
def ArrayCmd.plainCycles (c : ArrayCmd) : Nat :=
  match c.op with
  | .mzero => 64
  | .mdrain _ _ m _ => max (4 * m) 1
  | .mmul _ _ _ _ _ _ _ _ _ _ _ _ _ => 1

/-- Passes that a command makes (R154). -/
def ArrayCmd.passCount (c : ArrayCmd) : Nat :=
  match c.op with
  | .mmul _ _ _ _ _ _ _ _ kcn _ m _ _ => if m = 0 || c.abandoned then 0 else kcn
  | .mzero | .mdrain _ _ _ _ => 0

/-- The command at the head of the queue starts its occupation when it makes no pass; a pass starts by its own event. An MDRAIN that waits for
a translation at its end stays at the head while its occupation is over, so that the cycles of an MZERO or MDRAIN behind it run from
that end and a pass behind it does not start (DESIGN CHOICE, log entry 85). -/
def State.startCommand (s : State) (g : Nat) : State :=
  match s.array g with
  | some a =>
    match a.queue with
    | c :: _ =>
      if a.finishing || (c.stall ≠ 0 && !c.abandoned) || c.passCount ≠ 0 then s
      else { s with arrays := Table.set s.arrays g { a with finishing := true, busyTo := max a.busyTo c.acc + c.plainCycles } }
    | [] => s
  | none => s

/-! ### Requests (R149, R150) -/

def resErr (code : Nat) : Word := errorStatus code

/-- The token of a request is written. -/
def State.answerRes (s : State) (r : ResReq) (status : Word) : State := s.answerToken r.t r.tok status

/-- The token of a fill that ends by its own event, behind the turns of the cycle. -/
def State.landRes (s : State) (r : ResReq) (status : Word) : State := s.landX r.t r.tok status false

/-- An abandoned fill (R150): the residency is as it was, the token of the RFILL or RPIN reports HANDLE, and the commands stalled on
it are abandoned. -/
def State.abandonFill (s : State) (part h : Nat) : State :=
  match (s.residency part h).bind (·.fill) with
  | some f =>
    let s := s.modRes part h fun r => { r with st := f.prior, fill := none }
    let s := s.unregister ⟨resCluster h * 8, part, 0, 140⟩ (f.gens.map (·.1)) f.leaves
    ((s.answerRes f.req (resErr 1)).abandonStalled part h).startCommand (resCluster h)
  | none => s

/-- An abandoned refill (R150): the head command for which the array refills the residency is abandoned. -/
def State.abandonRefill (s : State) (part h : Nat) : State :=
  match (s.refillHead (resCluster h)).filter fun c => c.readsRes part h with
  | some _ => (s.abandonHead (resCluster h)).startCommand (resCluster h)
  | none => s

/-- Starts an RFILL, or the refill of an RPIN, from a source record that tenancy `ten` translates; a residency that was never filled
remembers none, and its refill has no SOURCE. One that fails changes nothing (R149): pages are given up for it only once its source
pages are found. -/
def State.startFill (s : State) (part h : Nat) (req : ResReq) (ten : Nat) (src : List Word) : State :=
  match s.residency part h with
  | none => s.answerRes req (resErr 1)
  | some r =>
    let room := if r.st = 3 then s.room (resCluster h) r.part r.ten r.pages else some s
    match room, (if src = [] then none else s.source r.part ten (tensorOf src)) with
    | none, _ => s.answerRes req (resErr 3)
    | some _, none => s.answerRes req (resErr 7)
    | some s, some ps =>
      let s := s.register (r.engFor ten).ctx ps
      let gens := (ps.flatMap fun p => p.2.frames).map fun f => (f, Table.get s.gens f 0)
      s.modRes part h fun r => { r with st := 1, fill := some ⟨req, r.st, ten, src, gens, ps, false⟩ }

/-- The TID of the last RFILL, the one in progress among them (R151). -/
def Residency.lastTid (r : Residency) : Nat :=
  match r.fill with
  | some f => if f.req.op = 1 then f.req.tid else r.srctid
  | none => r.srctid

/-- The state word of RQUERY (R151). -/
def Residency.query (r : Residency) : Word :=
  word (r.lastTid * 2 ^ 32 + b2n r.auto * 2 ^ 17 + b2n r.pin * 2 ^ 16 + b2n r.stale * 2 ^ 15 + r.st * 2 ^ 12 + r.pages % 3072)

/-- A request that has come to its turn (R150). `none`: it has to wait. -/
def State.actRes (s : State) (r : Residency) (q : ResReq) : Option State :=
  match q.op with
  | 1 =>
    if r.fill.isSome then none
    else
      let d := tensorOf q.src
      if !d.ok || (d.fmt ≠ 5 && d.fmt ≠ 6) || d.dim2 ≠ 1 || d.dim3 ≠ 1 then some (s.answerRes q (resErr 5))
      else if r.pages < pagesFor d.dim0 d.dim1 then some (s.answerRes q (resErr 6))
      else some (s.startFill r.part r.handle q q.ten q.src)
  | 2 =>
    if r.st = 3 then
      some (s.startFill r.part r.handle q r.srcTen r.src)
    else some ((s.modRes r.part r.handle fun r => { r with pin := true }).answerRes q 0)
  | 3 => some ((s.modRes r.part r.handle fun r => { r with pin := false }).answerRes q 0)
  | 4 =>
    if s.resBusy r.part r.handle then none
    else
      let s := { s with residencies := s.residencies.filter fun x => x.part ≠ r.part || x.handle ≠ r.handle }
      let s := s.unregister r.eng.ctx (r.gens.map (·.1)) r.leaves
      let s := (r.reqs.filter (· ≠ q)).foldl (fun s w => s.answerRes w (resErr 1)) s
      some ((s.answerRes q (word r.pages)).startCommand (resCluster r.handle))
  | _ => some (s.answerRes q r.query)

/-- Requests that wait on a residency act in order as far as they can. -/
def State.pumpRes (s : State) (part h : Nat) : Nat → State
  | 0 => s
  | fuel + 1 =>
    match s.residency part h with
    | none => s
    | some r =>
      match r.reqs with
      | [] => s
      | q :: rest =>
        let s := if q.op = 4 then s.abandonFill part h else s
        match s.actRes ((s.residency part h).getD r) q with
        | none => s
        | some s => (s.modRes part h fun r => { r with reqs := rest }).pumpRes part h fuel

def State.pump (s : State) (part h : Nat) : State := s.pumpRes part h (((s.residency part h).map (·.reqs.length)).getD 0)

/-- A request has to queue: an earlier one of its thread has not taken effect, or it fills or revokes (R150). -/
def Residency.queues (r : Residency) (q : ResReq) : Bool :=
  r.reqs.any (fun p => p.t = q.t) || (r.fill.map fun f => f.req.op = 2 && f.req.t = q.t).getD false ||
    (q.op = 1 && (r.fill.isSome || !r.reqs.isEmpty)) || q.op = 4

/-- The partition and tenancy that a RES request acts for: the root slot's are those that PSEL names (R149). -/
def State.resFor (s : State) : Nat × Nat :=
  let th := s.me
  if th.isRoot then
    let p := (s.core (coreOf th.sid)).psel
    (p, (s.part p).cur)
  else (th.part, th.ten)

/-- RALLOC: COUNT, QUOTA, NOINDEX, NOPAGES, in that order (R149, R150). -/
def State.allocRes (s : State) (g n : Nat) (pin auto : Bool) : Word × State :=
  let (part, ten) := s.resFor
  let quota := if part = 0 then 0 else Table.get (s.part part).canquota ten 0
  if n = 0 || 3072 < n then (resErr 9, s)
  else if part = 0 || quota < s.charged part ten g + n then (resErr 2, s)
  else
    match (List.range 512).find? fun i => (s.residency part (g * 512 + i)).isNone with
    | none => (resErr 4, s)
    | some i =>
      match s.room g part ten n with
      | none => (resErr 3, s)
      | some s =>
        let r : Residency := { handle := g * 512 + i, part := part, ten := ten, pages := n, st := 0, pin := pin, auto := auto,
                               stale := false, srctid := 0, src := [], srcTen := ten, gens := [], leaves := [], wts := [], scl := [],
                               used := s.useClock, fill := none, reqs := [], wasRes := false, bad := 0, badByte := 0 }
        (word r.handle, { s with residencies := s.residencies ++ [r] })

/-- A RES request that names a residency by its pack (R149). -/
def State.requestRes (s : State) (op tok : Nat) (w : Word) : State :=
  let (part, ten) := s.resFor
  let g := clusterOf s.me.sid
  let q : ResReq := ⟨op, s.cur, s.me.sid, tok, ten, bits w 27 16, if op = 1 then s.tidRec part ten (bits w 27 16) else []⟩
  let h := bits w 15 0
  if bits w 63 28 ≠ 0 || (op ≠ 1 && bits w 27 16 ≠ 0) then s.answerRes q (resErr 8)
  else
    match (s.residency part h).filter fun _ => op = 5 || resCluster h = g with
    | none => s.answerRes q (resErr 1)
    | some r =>
      if r.queues q then
        let s := if op = 4 then (s.abandonFill part h).abandonRefill part h else s
        (s.modRes part h fun r => { r with reqs := r.reqs ++ [q] }).pump part h
      else (s.actRes r q).getD s

/-- A RES member: it observes the thread's earlier accesses (R30), and its token register is empty until the answer. -/
def resMember (tok : Nat) (b : Src) (f : State → Word → State) : State → Result :=
  issue { src := [b], dx := [tok] } fun s => afterHeld s (.go (f (s.deferX tok) (s.rx b)).advance)

def execRalloc (pin auto : Bool) (tok : Nat) (b : Src) (s : State) : Result :=
  resMember tok b (fun s w =>
    let (st, s) := s.allocRes (clusterOf s.me.sid) w.toNat pin auto
    s.landX s.cur tok st false) s

def execRfill (tok : Nat) (b : Src) (s : State) : Result := resMember tok b (fun s w => s.requestRes 1 tok w) s
def execRpin (tok : Nat) (b : Src) (s : State) : Result := resMember tok b (fun s w => s.requestRes 2 tok w) s
def execRunpin (tok : Nat) (b : Src) (s : State) : Result := resMember tok b (fun s w => s.requestRes 3 tok w) s
def execRrevoke (tok : Nat) (b : Src) (s : State) : Result := resMember tok b (fun s w => s.requestRes 4 tok w) s
def execRquery (tok : Nat) (b : Src) (s : State) : Result := resMember tok b (fun s w => s.requestRes 5 tok w) s

/-! ### Fills end (R146, R147, R150, R322) -/

/-- The residency that an event names: handles are unique within a partition, and the event names the cluster and the
index; the first residency of the cluster with the index whose condition holds. -/
def State.resAt (s : State) (g h : Nat) (p : Residency → Bool) : Option Residency :=
  s.residencies.find? fun r => resCluster r.handle = g && r.handle % 512 = h % 512 && p r

/-- A fill can complete: no accepted MMUL has still to read the old weights (R150; the refill of an RPIN loads the same source,
and waits only for those that run), and the tenancy runs that it acts for (R315); one that goes out still completes what its
accepted commands wait for (R320). -/
def State.fillReady (s : State) (r : Residency) : Bool :=
  match r.fill with
  | some f => !s.resReader r.part r.handle (fun st => st = 0 || (f.req.op = 1 && st = 2)) &&
      (s.tenRuns r.part f.req.ten || (s.part r.part).cur = f.req.ten)
  | none => false

/-- RESIDENCY_FILL_COMPLETE (R147, R150). -/
def execResidencyFillComplete (g h : Nat) (s : State) : Result :=
  match s.resAt g h s.fillReady with
  | none => .next s
  | some r =>
    match r.fill with
    | none => .next s
    | some f =>
      let d := tensorOf f.src
      let ok := (s.source r.part f.ten d).isSome
      let (cols, s) := if ok then readColumns (r.engFor f.ten) d d.dim1 0 s else (none, s)
      match cols with
      | none =>
        let s := s.modRes r.part r.handle fun r => { r with st := f.prior, fill := none }
        let s := s.unregister r.eng.ctx (f.gens.map (·.1)) f.leaves
        let s := (s.landRes f.req (resErr 7)).abandonStalled r.part r.handle
        .next ((s.startCommand g).pump r.part r.handle)
      | some cols =>
        let s := s.modRes r.part r.handle fun r => { r with
          fill := none, src := f.src, srcTen := f.ten, gens := f.gens, leaves := f.leaves
          srctid := if f.req.op = 1 then f.req.tid else r.srctid
          pin := r.pin || f.req.op = 2
          stale := if f.req.op = 1 then f.raised else r.stale }
        let s := (s.loadWeights r.part r.handle cols).unregister r.eng.ctx (r.gens.map (·.1)) r.leaves
        let s := s.landRes f.req (if f.req.op = 1 then word d.sourceBytes else 0)
        .next (((s.resumeStalled r.part r.handle d fun _ => true).startCommand g).pump r.part r.handle)

/-- Pages for a refill: an EVICTED residency needs them; one that an RFILL has made FILLING holds them already. -/
def State.refillRoom (s : State) (r : Residency) : Option State :=
  if r.st = 3 then s.room (resCluster r.handle) r.part r.ten r.pages else some s

/-- A refill from the remembered source (R146 item 5, R322): pages, translation, data, and whether it succeeded. One that fails
changes nothing but the error log, which records an uncorrectable error met in the source (R352). It records the source's
generations anew and leaves STALE as it is: a stale residency stays stale (R147). -/
def State.refill (s : State) (r : Residency) : State × Bool :=
  let d := tensorOf r.src
  let e := r.engFor r.srcTen
  match s.refillRoom r, (if r.src = [] then none else s.source r.part r.srcTen d) with
  | some _, some ps =>
    match readColumns e d d.dim1 0 s with
    | (none, s) => (s, false)
    | (some cols, s) =>
      let s := ((s.refillRoom r).getD s).register e.ctx ps
      let gens := (ps.flatMap fun p => p.2.frames).map fun f => (f, Table.get s.gens f 0)
      let s := s.modRes r.part r.handle fun r => { r with gens := gens, leaves := ps }
      ((s.unregister e.ctx (r.gens.map (·.1)) r.leaves).loadWeights r.part r.handle cols, true)
  | _, _ => (s, false)

/-- The residency that the array refills for the MMUL at the head of its queue: EVICTED, or made FILLING since by a request that
waits for that MMUL (R150). -/
def State.refillWanted (s : State) (g : Nat) : Option Residency :=
  match s.refillHead g with
  | some c =>
    match c.op with
    | .mmul false h _ _ _ _ _ _ _ _ _ _ _ => (s.residency c.part h).filter fun r => r.st = 3 || r.fill.isSome
    | .mmul true _ _ _ _ _ _ _ _ _ _ _ _ | .mzero | .mdrain _ _ _ _ => none
  | none => none

/-- AUTOFILL_REFILL_COMPLETE (R146 item 5): the command runs with the refilled weights, or it is abandoned. -/
def execAutofillRefillComplete (g h : Nat) (s : State) : Result :=
  match (s.refillWanted g).filter fun r => r.handle % 512 = h % 512 with
  | none => .next s
  | some r =>
    match s.refill r with
    | (s, true) => .next (((s.resumeStalled r.part r.handle (tensorOf r.src) (· = 2)).startCommand g).pump r.part r.handle)
    | (s, false) => .next (((s.abandonHead g).startCommand g).pump r.part r.handle)

/-- CANOPY_BACKGROUND_REFILL (R322): after switch-in, as far as pages can be had, which other tenancies give up for it (R146 item 2).
A refill that fails is not tried again (DESIGN CHOICE, log entry 86). -/
def execCanopyBackgroundRefill (g h : Nat) (s : State) : Result :=
  match s.resAt g h (fun r => r.st = 3 && r.auto && r.wasRes && s.tenRuns r.part r.ten && (s.refillRoom r).isSome) with
  | none => .next s
  | some r =>
    match s.refill r with
    | (s, true) => .next ((s.resumeStalled r.part r.handle (tensorOf r.src) (· = 2)).startCommand g)
    | (s, false) => .next (s.modRes r.part r.handle fun r => { r with wasRes := false })

end Sys2Proof.Machine
end

