-- ==== Sys2Proof/Machine/Matrix.lean ====
section
/-! DEFINITION. Sys2Proof/Machine/Matrix.lean: leases and runs of a cluster's array (R137-R140), the MAT family with its checks
(R152-R157), and the events by which the array works: grants, runs, passes, completions (R134-R139). -/

namespace Sys2Proof.Machine

def freshArray : ArrayState where
  holder := []
  saving := []
  restore := []
  fault := []
  waiting := []
  running := none
  last := 3
  runCmds := 0
  runFrom := 0
  runIdle := 0
  queue := []
  busyTo := 0
  passAt := none
  finishing := false

def State.arr (s : State) (g : Nat) : ArrayState := (s.array g).getD freshArray

def State.modArr (s : State) (g : Nat) (f : ArrayState → ArrayState) : State :=
  { s with arrays := Table.set s.arrays g (f (s.arr g)) }

/-! ### Leases (R137, R139) -/

/-- The lease that a thread holds on its cluster's array. -/
def ArrayState.leaseOf (a : ArrayState) (t : Nat) : Option Nat := (List.find? (fun e => e.2 = t) a.holder).map (·.1)

/-- The thread holds the lease, or a switch-in has still to restore it. -/
def ArrayState.holds (a : ArrayState) (t l : Nat) : Bool := a.leaseOf t = some l || a.restore.contains (l, t)

/-- A bank is free once no thread holds its lease and no command accepted under it remains (R139). -/
def ArrayState.free (a : ArrayState) (b : Nat) : Bool :=
  decide (b < 4) && !Table.has a.holder b && !(a.queue.any fun c => c.lease = b) && !(a.saving.any fun e => e.1 = b)

/-- The lowest-numbered free bank. -/
def ArrayState.freeBank (a : ArrayState) : Option Nat := (List.range 4).find? a.free

def State.clearBank (s : State) (g b : Nat) : State :=
  { s with acc := s.acc.filter fun e => e.1 / 131072 ≠ g * 4 + b }

/-- Puts saved contents into a bank. -/
def State.loadBank (s : State) (g b : Nat) (els : Table (BitVec 32)) : State :=
  { s with acc := els.foldl (fun t e => Table.set t ((g * 4 + b) * 131072 + e.1) e.2) (s.clearBank g b).acc }

/-- The contents of a bank, keyed from 0. -/
def State.bankContents (s : State) (g b : Nat) : Table (BitVec 32) :=
  (s.acc.filter fun e => e.1 / 131072 = g * 4 + b).map fun e => (e.1 % 131072, e.2)

/-- Waiting MLEASE requests of a thread that now holds a lease receive its number (R137). -/
def State.answerWaiting (s : State) (g t l : Nat) : State :=
  let mine := (s.arr g).waiting.filter fun w => w.1 = t
  let s := s.modArr g fun a => { a with waiting := a.waiting.filter fun w => w.1 ≠ t }
  mine.foldl (fun s w => s.landX t w.2 (word l) false) s

/-- MLEASE (R137), a request that observes the thread's earlier accesses (R30): a thread that holds a lease gets its number at once;
one whose saved lease a switch-in has still to restore parks until it is (R139); otherwise the request joins the array's queue. -/
def execMlease (tok : Nat) (s : State) : Result :=
  issue { dx := [tok] } (fun s => afterHeld s <|
    let g := clusterOf s.me.sid
    match (s.arr g).leaseOf s.cur, (s.arr g).restore.find? fun r => r.2 = s.cur with
    | some l, _ => .go ((s.deferX tok).landX s.cur tok (word l) false).advance
    | none, some (l, _) => .park (.run l) id
    | none, none => .go ((s.deferX tok).modArr g fun a => { a with waiting := a.waiting ++ [(s.cur, tok)] }).advance) s

/-- LEASE_GRANT (R136, R137, R139): a saved lease whose bank is free comes first; then the oldest waiting MLEASE gets the
lowest-numbered free bank, with every element +0 and the fault flag clear. -/
def execLeaseGrant (g bank : Nat) (s : State) : Result :=
  let a := s.arr g
  if !a.free bank then .next s
  else
    match a.restore.find? fun r => r.1 = bank with
    | some (_, t) =>
      let (els, f) := match (s.thr t).savedBank with
        | some (_, els, f) => (els, f)
        | none => ([], 0)
      let s := (s.loadBank g bank els).modThr t fun th => { th with savedBank := none }
      let s := s.modArr g fun a => { a with
        restore := a.restore.filter (· ≠ (bank, t)), holder := Table.set a.holder bank t, fault := Table.set a.fault bank f }
      .next (s.answerWaiting g t bank)
    | none =>
      match a.waiting with
      | [] => .next s
      | (t, tok) :: rest =>
        if a.freeBank ≠ some bank then .next s
        else
          let s := (s.clearBank g bank).modArr g fun a => { a with
            waiting := rest, holder := Table.set a.holder bank t, fault := Table.erase a.fault bank }
          .next ((s.landX t tok (word bank) false).answerWaiting g t bank)

/-- MREL (R138, R139, R155): the run ends and the lease ends. -/
def execMrel (l : Nat) (s : State) : Result :=
  issue {} (fun s =>
    let g := clusterOf s.me.sid
    let a := s.arr g
    if !a.holds s.cur l then .trap 11 1 0
    else if a.restore.contains (l, s.cur) then .park (.run l) id
    else .go ((s.endRunOf s.cur).modArr g fun a => { a with holder := Table.erase a.holder l }).advance) s

/-! ### Runs (R138) -/

/-- A held lease whose holder is parked at an array command. -/
def State.waitsRun (s : State) (g l : Nat) : Bool :=
  match Table.find? (s.arr g).holder l with
  | some t => (s.thr t).wait = some (.run l)
  | none => false

/-- The lease for which the next run starts: ascending from the lease that ran last. -/
def State.nextRun (s : State) (g : Nat) : Option Nat :=
  ((List.range 4).map fun i => ((s.arr g).last + 1 + i) % 4).find? (s.waitsRun g)

/-- ARRAY_RUN_START (R138). -/
def execArrayRunStart (g : Nat) (s : State) : Result :=
  match (s.arr g).running, s.nextRun g with
  | none, some l => .next (s.modArr g fun a => { a with
      running := some l, last := l, runCmds := 0, runFrom := s.cycle, runIdle := s.cycle })
  | _, _ => .next s

/-- The running run has reached a limit while another lease waits (R138 items 2 and 4). -/
def State.runOver (s : State) (g : Nat) : Bool :=
  let a := s.arr g
  match a.running with
  | some l => ((List.range 4).any fun k => decide (k ≠ l) && s.waitsRun g k) &&
      (decide (64 ≤ a.runCmds) || decide (a.runFrom + 65536 ≤ s.cycle) || decide (a.runIdle + 256 ≤ s.cycle))
  | none => false

/-- ARRAY_RUN_LIMIT (R138 items 2 and 4): the run ends at a command boundary. -/
def execArrayRunLimit (g : Nat) (s : State) : Result :=
  if s.runOver g then .next (s.modArr g fun a => { a with running := none }) else .next s

/-! ### Acceptance (R138, R140, R152) -/

/-- An array command: NOLEASE, then the wait for the thread's earlier accesses (R30), for its run and for room (R138), then
the checks of R157, which read the records. -/
def arrayCommand (l : Nat) (s : State) (k : Verdict) : Verdict :=
  let a := s.arr (clusterOf s.me.sid)
  if !a.holds s.cur l then .trap 11 1 0
  else afterHeld s (if a.running ≠ some l || a.leaseOf s.cur ≠ some l || 8 ≤ a.queue.length then .park (.run l) id else k)

/-- Acceptance: the command is numbered on its lease's timeline, and LASTTL receives the number (R23, R140). -/
def State.acceptCmd (s : State) (l : Nat) (op : ArrayOp) (stall : Nat) : State :=
  let th := s.me
  let g := clusterOf th.sid
  let k := th.ctxKeyOf (8 + l)
  let num := (s.engCtx k).acc + 1
  let c : ArrayCmd := { op := op, lease := l, t := s.cur, sid := th.sid, part := th.part, ten := th.ten, num := num
                        acc := s.cycle, passes := 0, nanp := false, ovfl := false, stall := stall, abandoned := false }
  let s := (s.modEngCtx k fun c => { c with acc := num }).modThr s.cur fun th => { th with lastTl := word num }
  (s.modArr g fun a => { a with queue := a.queue ++ [c], runCmds := a.runCmds + 1, runIdle := s.cycle }).startCommand g

/-- The lowest matrix-trap cause whose condition holds (R157). -/
def firstCause (cs : List (Nat × Bool)) : Option Nat := (cs.find? (·.2)).map (·.1)

def withoutCause (cs : List (Nat × Bool)) (k : Verdict) : Verdict :=
  match firstCause cs with
  | some c => .trap 11 c 0
  | none => k

/-- MZERO (R155). -/
def execMzero (l : Nat) (s : State) : Result :=
  issue {} (fun s => arrayCommand l s (.go (s.acceptCmd l .mzero 0).advance)) s

/-- `n` bytes at `a` lie in scratchpads of the cluster that the partition reaches (R153, R157 SPACE). -/
def State.inPads (s : State) (part ten sid g a n : Nat) : Bool :=
  let inPad := fun x : Nat =>
    inWindow x && match s.windowPlace part ten sid .sync x with
      | some (.pad core _) => core % 1024 / 8 = g
      | _ => false
  inPad a && inPad (a + n - 1) && (List.range (n / 16384)).all fun i => inPad (a + i * 16384)

/-- A BSI8 operand: BASE, SCALE and the rows that the command reads, with their scales. -/
def State.operandInPads (s : State) (part ten sid g : Nat) (d : Tensor) (rows : List Nat) : Bool :=
  s.inPads part ten sid g d.base 1 && s.inPads part ten sid g d.scale 1 &&
    rows.all fun r => s.inPads part ten sid g (d.row r) d.dim0 && s.inPads part ten sid g (d.scaleRow r) (d.dim0 / 48)

/-- Columns of a pass (R134). -/
def passWidth (st : Bool) (p : Nat) : Nat := if st then 128 else if 5 ≤ p then 128 else if 3 ≤ p then 256 else 512

/-- The rows of a command: the pack's M, or what R153 takes for 0. -/
def packRows (mf row0 dim1 : Nat) : Nat := if mf = 0 then min 256 (dim1 - row0) else mf

/-- MMUL (R153, R154, R157). The checks of K, N and PLANES use the source record of the fill in progress, or the remembered
source; a residency that was never filled has neither, and only its state is checked. The bounds are checked against the record's
dimensions whether or not the record passes R142, since the lowest code is reported. -/
def mmulOp (l : Nat) (a b : Src) (st : Bool) : State → Result :=
  issue { src := [a, b] } fun s => arrayCommand l s (
    let th := s.me
    let g := clusterOf th.sid
    let wa := s.rx a
    let wb := s.rx b
    let row0 := bits wa 36 21
    let mf := bits wa 20 12
    let ra := s.tidRec th.part th.ten (bits wa 11 0)
    let da := tensorOf ra
    let aOk := da.ok && decide (da.fmt = 5)
    let m := packRows mf row0 da.dim1
    let p := bits wb 19 16
    let h := bits wb 15 0
    let res := if st then none else (s.residency th.part h).filter fun r => resCluster r.handle = g
    let rb := if st then s.tidRec th.part th.ten (bits wb 11 0)
      else match res with
        | some r => match r.fill with
          | some f => f.src
          | none => r.src
        | none => []
    let db := tensorOf rb
    let bOk := if st then db.ok && decide (db.fmt = 5) else decide (rb ≠ [])
    let bDims := st || decide (rb ≠ [])
    let k := db.dim0
    let n := db.dim1
    let nx := passWidth st p
    let nt := bits wb 31 20
    let kch0 := bits wb 43 32
    let kcn := if bits wb 55 44 = 0 then ceilDiv k 192 - kch0 else bits wb 55 44
    let cols := (List.range (min 128 (n - nt * 128))).map (nt * 128 + ·)
    withoutCause [
      (2, decide (bits wa 63 37 ≠ 0) || decide (bits wb 63 56 ≠ 0) ||
        (st && (decide (p ≠ 0) || decide (bits wb 15 12 ≠ 0)))),
      (3, decide (256 < mf) || decide (da.dim1 < row0 + m) ||
        (bDims && (decide (k ≤ kch0 * 192) || decide (ceilDiv k 192 < kch0 + kcn) || decide (n ≤ nt * nx)))),
      (4, !aOk || (st && !bOk)),
      (6, aOk && bOk && decide (da.dim0 ≠ k)),
      (7, !(s.operandInPads th.part th.ten th.sid g da ((List.range m).map (row0 + ·))) ||
        (st && !(s.operandInPads th.part th.ten th.sid g db cols))),
      (8, !st && (decide (p < 2) || decide (8 < p) || (bOk && decide (db.planes < p)))),
      (9, !st && res.isNone),
      (10, !st && (res.map (·.stale)).getD false),
      (11, !st && (res.map fun r => r.st = 0 || (r.st = 3 && !r.auto)).getD false)]
      (let op : ArrayOp := .mmul st h p k n nx nt kch0 kcn row0 m ra rb
       let stall := match res with
         | some r => if r.st = 1 then 1 else if r.st = 3 then 2 else 0
         | none => 0
       let s := if st then s else s.useRes th.part h
       .go (s.acceptCmd l op stall).advance))

def execMmul (l : Nat) (a b : Src) (s : State) : Result := mmulOp l a b false s
def execMmulS (l : Nat) (a b : Src) (s : State) : Result := mmulOp l a b true s

/-- MDRAIN (R156). -/
def execMdrain (l tok : Nat) (b : Src) (s : State) : Result :=
  issue { src := [b], dx := [tok] } (fun s => arrayCommand l s (
    let th := s.me
    let w := s.rx b
    let row0 := bits w 36 21
    let mf := bits w 20 12
    let r := s.tidRec th.part th.ten (bits w 11 0)
    let d := tensorOf r
    let ok := d.ok && decide (d.fmt < 3)
    let m := packRows mf row0 d.dim1
    withoutCause [
      (2, decide (bits w 63 37 ≠ 0)),
      (3, decide (256 < mf) || decide (d.dim1 < row0 + m)),
      (4, !ok),
      (6, decide (d.dim0 = 0) || decide (512 < d.dim0))]
      (.go ((s.deferX tok).acceptCmd l (.mdrain tok row0 m r) 0).advance))) s

/-- MWAIT (R155): every command accepted under the lease has completed. -/
def execMwait (l : Nat) (s : State) : Result :=
  issue {} (fun s =>
    let a := s.arr (clusterOf s.me.sid)
    if !a.holds s.cur l then .trap 11 1 0
    else if a.restore.contains (l, s.cur) then .park (.run l) id
    else if a.queue.any fun c => c.lease = l then .park .other id
    else .go s.advance) s

/-! ### Passes (R134, R135, R154) -/

/-- Cycles of one pass of the command. -/
def ArrayCmd.passCycles (c : ArrayCmd) : Nat :=
  match c.op with
  | .mmul st _ _ _ _ _ _ _ _ _ m _ _ => if st then 4 * (m + 12) else m + 12
  | .mzero | .mdrain _ _ _ _ => 0

/-- The head command has a pass to start, and this is a cycle in which R135 lets it start. -/
def ArrayState.passReady (a : ArrayState) (cycle : Nat) : Bool :=
  match a.queue with
  | c :: _ =>
    !a.finishing && (c.stall = 0 || c.abandoned) && decide (c.passes < c.passCount) && decide (a.busyTo < cycle) &&
      decide (c.acc + 9 ≤ cycle) && (a.passAt.map fun p => decide (p + 20 ≤ cycle)).getD true
  | [] => false

/-- The array as it names itself in error logs (R352). -/
def ArrayCmd.ctx (c : ArrayCmd) : Ctx := ⟨coreOf c.sid, c.part, c.ten, 128 + c.lease⟩

/-- Reads operand bytes of a scratchpad: their values, whether an error is uncorrectable, and the state with the errors
logged as operand errors. -/
def State.operandBytes (s : State) (c : Ctx) (part ten sid a n : Nat) : List Nat × Bool × State :=
  (List.range (ceilDiv n 16384 + 1)).foldl (fun (acc : List Nat × Bool × State) i =>
    let (bs, bad, s) := acc
    let x := if i = 0 then a else (a / 16384 + i) * 16384
    let hi := min (a + n) ((a / 16384 + i + 1) * 16384)
    if hi ≤ x then acc
    else
      match s.windowPlace part ten sid .sync x with
      | some (.pad core off) =>
        let k := hi - x
        let s' := (errorsIn s.badPad (units 8 (core * 262144 + off) k)).foldl
          (fun s e => s.logError c (uncorrectable e.2) (injected e.2) 4 (padOffset core (e.1 % 32768 * 8))) s
        (bs ++ (s.readAt (.pad core off) k).map (·.toNat), bad || s.badAt (.pad core off) k, s')
      | _ => (bs ++ List.replicate (hi - x) 0, true, s)) ([], false, s)

/-- A row or column of an operand over the blocks of a pass: block bytes with the block's scale, and whether its contribution
is lost to an error. -/
structure Strip where
  blocks : List (List Nat × Nat)
  bad    : Bool

def stripOf (ws sc : List Nat) (nb : Nat) (bad : Bool) : Strip :=
  ⟨(List.range nb).map fun j => ((ws.drop (48 * j)).take 48, sc.getD j 255), bad⟩

/-- Reads the strips of a BSI8 tensor in scratchpads, from block `j0` on. -/
def State.readStrips (s : State) (c : ArrayCmd) (d : Tensor) (j0 nb : Nat) : List Nat → List Strip × State
  | [] => ([], s)
  | r :: rs =>
    let (ws, b1, s) := s.operandBytes c.ctx c.part c.ten c.sid (d.row r + 48 * j0) (48 * nb)
    let (sc, b2, s) := s.operandBytes c.ctx c.part c.ten c.sid (d.scaleRow r + j0) nb
    let (rest, s) := s.readStrips c d j0 nb rs
    (stripOf ws sc nb (b1 || b2) :: rest, s)

/-- P of R97: the exact sum of 48 products. -/
def blockSum (p : Nat) : List Nat → List Nat → Int
  | a :: as, b :: bs => sgn 8 a * planesVal p b + blockSum p as bs
  | _, _ => 0

/-- Adds one block to an accumulator element (R97): bits, NANP, OVFL. The canonical NaN that stands for a lost contribution (R136 item 5)
counts no NANP (DESIGN CHOICE, log entry 80). -/
def blockStep (p : Nat) (lost : Bool) (c : Nat) (a b : List Nat × Nat) : Nat × Bool × Bool :=
  let v : FRes :=
    if lost then ⟨fmtF32.cnan, false, false, false⟩
    else if a.2 = 255 ∨ b.2 = 255 then ⟨fmtF32.cnan, true, false, false⟩
    else
      let q := blockSum p a.1 b.1
      if q = 0 then ⟨0, false, false, false⟩
      else fmtF32.roundRes 24 (q < 0) q.natAbs 1 ((a.2 : Int) + b.2 - 254)
  let r := fmtF32.add c v.bits
  (r.bits, v.nanp || r.nanp, v.ovfl || r.ovfl)

/-- One accumulator element over the blocks of a pass, in ascending K. -/
def elementPass (p : Nat) (lost : Bool) : Nat → List (List Nat × Nat) → List (List Nat × Nat) → Nat × Bool × Bool
  | c, a :: as, b :: bs =>
    let (c, n1, o1) := blockStep p lost c a b
    let (c, n2, o2) := elementPass p lost c as bs
    (c, n1 || n2, o1 || o2)
  | c, _, _ => (c, false, false)

def State.setAcc (s : State) (bank i v : Nat) : State :=
  if v = 0 then { s with acc := Table.erase s.acc (bank * 131072 + i) }
  else { s with acc := Table.set s.acc (bank * 131072 + i) (BitVec.ofNat 32 v) }

/-- The products of one row with every column of the pass. -/
def State.rowPass (s : State) (p bank m : Nat) (a : Strip) : Nat → List Strip → Bool → Bool → State × Bool × Bool
  | _, [], n, o => (s, n, o)
  | c, b :: bs, n, o =>
    let (v, n1, o1) := elementPass p (a.bad || b.bad) (s.accAt bank (m * 512 + c)).toNat a.blocks b.blocks
    (s.setAcc bank (m * 512 + c) v).rowPass p bank m a (c + 1) bs (n || n1) (o || o1)

def State.rowsPass (s : State) (p bank : Nat) (cols : List Strip) : Nat → List Strip → Bool → Bool → State × Bool × Bool
  | _, [], n, o => (s, n, o)
  | m, a :: as, n, o =>
    let (s, n, o) := s.rowPass p bank m a 0 cols n o
    s.rowsPass p bank cols (m + 1) as n o

/-- Columns of a residency over the blocks of a pass. -/
def Residency.strips (r : Residency) (j0 nb : Nat) (cols : List Nat) : List Strip :=
  cols.map fun c => stripOf (((r.wts.getD c []).drop (48 * j0)).take (48 * nb)) ((r.scl.getD c []).drop j0) nb
    (r.bad ≠ 0 && uncorrectable r.bad)

/-- The arithmetic of the next pass of an MMUL (R154, R97), with the errors it meets (R136 item 5). Cause 1 replaces a cause that the
bank's flag holds (DESIGN CHOICE, log entry 84). -/
def State.doPass (s : State) (g : Nat) (c : ArrayCmd) : State × Bool × Bool :=
  match c.op with
  | .mmul st h p k n nx nt kch0 _ row0 m ra rb =>
    let bank := g * 4 + c.lease
    let j0 := 4 * (kch0 + c.passes)
    let nb := min 4 (k / 48 - j0)
    let cols := (List.range (min nx (n - nt * nx))).map (nt * nx + ·)
    let (as, s) := s.readStrips c (tensorOf ra) j0 nb ((List.range m).map (row0 + ·))
    let (bs, s) :=
      if st then s.readStrips c (tensorOf rb) j0 nb cols
      else
        match s.residency c.part h with
        | some r =>
          (r.strips j0 nb cols, if r.bad = 0 then s else
            s.logError c.ctx (uncorrectable r.bad) (injected r.bad) 2 r.badByte)
        | none => (cols.map fun _ => stripOf [] [] nb true, s)
    let s := if as.any (·.bad) || bs.any (·.bad) then s.modArr g fun a => { a with fault := Table.set a.fault c.lease 1 } else s
    s.rowsPass (if st then 8 else p) bank bs 0 as false false
  | .mzero | .mdrain _ _ _ _ => (s, false, false)

/-- Updates the command at the head of the queue. -/
def ArrayState.modHead (a : ArrayState) (f : ArrayCmd → ArrayCmd) : ArrayState :=
  { a with queue := match a.queue with
    | c :: rest => f c :: rest
    | [] => [] }

/-- ARRAY_PASS_START (R135, R154): one pass, over one K-chunk. -/
def execArrayPassStart (g : Nat) (s : State) : Result :=
  match (s.arr g).queue with
  | c :: _ =>
    if !(s.arr g).passReady s.cycle then .next s
    else
      let (s, n, o) := s.doPass g c
      .next (s.modArr g fun a => { (a.modHead fun c => { c with
          passes := c.passes + 1, nanp := c.nanp || n, ovfl := c.ovfl || o }) with
        busyTo := s.cycle + c.passCycles - 1, passAt := some s.cycle
        finishing := decide (c.passCount ≤ c.passes + 1) })
  | [] => .next s

/-! ### Completion (R135, R140, R156) -/

/-- The engine of a command's MDRAIN writes. -/
def ArrayCmd.eng (c : ArrayCmd) : Eng :=
  ⟨c.sid, c.part, c.ten, 128 + c.lease, some (ctxKey c.part c.ten (8 + c.lease) (clusterOf c.sid))⟩

/-- The code with which the first or the last byte of an element cannot be written, with its address; 0 when both can. -/
def State.drainBad (s : State) (e : Eng) (a n : Nat) : Nat × Nat :=
  match s.engPlace e .write a, s.engPlace e .write (a + n - 1) with
  | .error c, _ => (c, a)
  | .ok _, .error c => (c, a + n - 1)
  | .ok _, .ok _ => (0, a)

/-- Writes the elements of one bank row, up to the first whose address fails. -/
def Xfer.drainRow (e : Eng) (f : Fmt) (bank m a n : Nat) : Nat → Nat → Xfer → Xfer
  | 0, _, x => x
  | fuel + 1, c, x =>
    let (code, bad) := x.s.drainBad e (a + c * n) n
    if code ≠ 0 then { x with code := 3, s := x.s.noteMiss bad code }
    else
      let v := (f.convert .rne .inf (fmtF32.value (x.s.accAt bank (m * 512 + c)).toNat)).res.bits
      Xfer.drainRow e f bank m a n fuel (c + 1) (Xfer.writeAll e .write (a + c * n) (leBytes n v) x)

def Xfer.drain (e : Eng) (f : Fmt) (bank : Nat) (d : Tensor) (row0 n : Nat) : Nat → Nat → Xfer → Xfer
  | 0, _, x => x
  | fuel + 1, m, x =>
    let x := Xfer.drainRow e f bank m (d.row (row0 + m)) n d.dim0 0 x
    if x.code ≠ 0 then x else Xfer.drain e f bank d row0 n fuel (m + 1) x

/-- MDRAIN's writes and its status (R156). -/
def State.runDrain (s : State) (g : Nat) (c : ArrayCmd) (row0 m : Nat) (r : List Word) : State × Word :=
  let d := tensorOf r
  let f := if d.fmt = 0 then fmtF32 else if d.fmt = 1 then fmtBF16 else fmtF16
  let n := if d.fmt = 0 then 4 else 2
  let x := Xfer.drain c.eng f (g * 4 + c.lease) d row0 n m 0 ⟨s, [], 0, 0⟩
  let fault := Table.get (s.arr g).fault c.lease 0
  (x.s, if x.code ≠ 0 then errorStatus 3 else if fault ≠ 0 then errorStatus fault else word (m * d.dim0 * n))

/-- The bank effects with which a command ends. A conversion of MDRAIN that overflows counts no OVFL (DESIGN CHOICE, log entry 80), and the
cause of an abandoned command replaces one that the bank's flag holds (DESIGN CHOICE, log entry 84). -/
def State.endCommand (s : State) (g : Nat) (c : ArrayCmd) : State :=
  match c.op with
  | .mzero => (s.clearBank g c.lease).modArr g fun a => { a with fault := Table.erase a.fault c.lease }
  | .mdrain tok row0 m r =>
    let (s, st) := s.runDrain g c row0 m r
    s.landX c.t tok st false
  | .mmul _ _ _ _ _ _ _ _ _ _ _ _ _ =>
    if c.abandoned then s.modArr g fun a => { a with fault := Table.set a.fault c.lease 2 }
    else (s.countIf c.nanp (coreOf c.sid) 0).countIf c.ovfl (coreOf c.sid) 1

/-- A bank that a switch saves goes into the thread's saved state once no command of its lease remains (R139). -/
def State.saveBanks (s : State) (g : Nat) : State :=
  let done := (s.arr g).saving.filter fun e => !((s.arr g).queue.any fun c => c.lease = e.1)
  done.foldl (fun s e =>
    let els := s.bankContents g e.1
    let f := Table.get (s.arr g).fault e.1 0
    let s := s.clearBank g e.1
    let s := if s.alive e.2 then s.modThr e.2 fun th => { th with savedBank := some (e.1, els, f) } else s
    s.modArr g fun a => { a with saving := a.saving.erase e, fault := Table.erase a.fault e.1 }) s

/-- The residency of a command. -/
def ArrayCmd.handle (c : ArrayCmd) : Option Nat :=
  match c.op with
  | .mmul false h _ _ _ _ _ _ _ _ _ _ _ => some h
  | .mmul true _ _ _ _ _ _ _ _ _ _ _ _ | .mzero | .mdrain _ _ _ _ => none

/-- The command at the head of the queue can complete: its occupation ends in this cycle or has ended, and its lease's context does not
stall for the translation of an MDRAIN's destination (R331). -/
def State.commandEnds (s : State) (g : Nat) : Bool :=
  (s.arr g).finishing && decide ((s.arr g).busyTo ≤ s.cycle) &&
    match (s.arr g).queue with
    | c :: _ => (s.engCtx (ctxKey c.part c.ten (8 + c.lease) g)).stall.isNone
    | [] => false

/-- ARRAY_COMMAND_COMPLETE (R135, R140): bank and destination first, then the token, then the timeline. -/
def execArrayCommandComplete (g : Nat) (s : State) : Result :=
  match (s.arr g).queue with
  | c :: rest =>
    if !s.commandEnds g then .next s
    else
      .next (s.noMiss.engTry (ctxKey c.part c.ten (8 + c.lease) g) fun s =>
        let s := s.endCommand g c
        let s := s.modArr g fun a => { a with queue := rest, finishing := false }
        let s := s.modEngCtx (ctxKey c.part c.ten (8 + c.lease) g) fun k => { k with done := c.num }
        let s := match c.handle with
          | some h => s.pump c.part h
          | none => s
        (s.saveBanks g).startCommand g)
  | [] => .next s

end Sys2Proof.Machine
end

