-- ==== Sys2Proof/Machine/Translate.lean ====
section
/-! DEFINITION. Sys2Proof/Machine/Translate.lean: the translation service core (R330, R331), its registers (R332), and
invalidation with the raises that it brings (R333, R335). -/

namespace Sys2Proof.Machine

/-! ### The translation service core (R330, R331) -/

/-- Adds an entry to a TLB of `n` entries; the oldest leaves. Replacement is not architectural. -/
def tlbAdd (n : Nat) (tlb : List TlbEntry) (e : TlbEntry) : List TlbEntry :=
  let rest := tlb.filter (· ≠ e)
  (if n ≤ rest.length then rest.drop (rest.length + 1 - n) else rest) ++ [e]

/-- A slot holds an answer for its waiting instruction (R331). -/
def Thread.hear (th : Thread) (a : Answer) : Thread :=
  let rest := th.answers.filter fun b => b.page ≠ a.page
  { th with answers := (if Config.heldAnswers ≤ rest.length then rest.drop 1 else rest) ++ [a] }

def noLeaf : Leaf := ⟨0, 16, 0, 0, false, 0, false, false, false⟩

/-- Answers one waiter: a slot holds the answer for its waiting instruction; an engine context holds it for what it does, and goes on
(R331). -/
def State.tell (s : State) (a : Answer) : Requester → State
  | .thread t => if s.alive t && !(s.thr t).saved then s.modThr t (·.hear a) else s
  | .engine k => (s.modEngCtx k fun c => { c with stall := none, answers := c.answers ++ [a] }).startHead k

/-- Answers every waiter of a served entry. -/
def State.tellWaiters (s : State) (m : Miss) (a : Answer) : State := m.waiters.foldl (fun s w => s.tell a w) s

/-- As entries free, the next misses of the listed engine contexts enter the queue, in list order. A listed thread presents its miss
again at its turn, and an entry is kept for each one that is ahead (R331 item 4). -/
def State.admitNext (s : State) (g : Nat) : State :=
  (s.cluster g).admitted.foldl (fun s r =>
    match r with
    | .engine k =>
      match (s.engCtx k).stall with
      | some page => s.engMiss k page
      | none => s.modCluster g fun cl => { cl with admitted := cl.admitted.filter (· ≠ r) }
    | .thread _ => s) s

/-- The walk of an entry whose leaf is found: the cluster TLB and the TLB of each waiting core receive it, and every queued
entry that it covers completes (R331 item 2). -/
def State.fillTlbs (s : State) (g : Nat) (m : Miss) (l : Leaf) : State :=
  let cl := s.cluster g
  let covered := cl.misses.filter fun q => q.part = m.part && q.ten = m.ten && l.covers (q.page * 65536)
  let e : TlbEntry := ⟨m.part, m.ten, l⟩
  let s := s.modCluster g fun cl => { cl with
    tlb := tlbAdd Config.clusterTlbEntries cl.tlb e, misses := cl.misses.filter fun q => !covered.contains q }
  covered.foldl (fun s q =>
    let s := q.waiters.foldl (fun s w =>
      match w with
      | .thread t =>
        if s.alive t then s.modCore (coreOf (s.thr t).sid) fun c => { c with tlb := tlbAdd Config.coreTlbEntries c.tlb e } else s
      | .engine _ => s) s
    s.tellWaiters q ⟨q.page, 0, l⟩) s

/-- Addresses of the entries that a walk reads. -/
def State.walkReads (s : State) (va : Nat) : List (Nat × Nat) → Nat → List Nat
  | [], _ => []
  | (lo, k) :: rest, table =>
    let a := table + 8 * (va / 2 ^ lo % 2 ^ k)
    let e := s.tableEntry a
    a :: if e % 4 = 1 then s.walkReads va rest (e / 2 ^ 8 % 2 ^ 40 * 2 ^ 8) else []

/-- The walk of a queued entry logs the errors that it finds (R351, R353). -/
def State.noteWalk (s : State) (g : Nat) (m : Miss) : State :=
  (s.walkReads (m.page * 65536) walkLevels (s.rootTable m.part m.ten)).foldl
    (fun s a => s.noteRead ⟨g * 8, m.part, m.ten, 140⟩ (.hbm a) 8) s

/-- TRANSLATION_ANSWER (R331): the translation service core serves the oldest entry of its queue. -/
def execTranslationAnswer (g : Nat) (s : State) : Result :=
  match (s.cluster g).misses with
  | [] => .next s
  | m :: rest =>
    let u := s.noteWalk g m
    match s.walk m.part m.ten (m.page * 65536) with
    | .ok l => .next ((u.fillTlbs g m l).admitNext g)
    | .error c =>
      .next (((u.modCluster g fun cl => { cl with misses := rest }).tellWaiters m ⟨m.page, c, noLeaf⟩).admitNext g)

/-! ### Invalidation (R333, R335) -/

/-- The invalidation covers a translation of the address. -/
def Inval.covers (i : Inval) (l : Leaf) : Bool := i.all || l.covers (i.page * 65536)

/-- Removes the entries of a TLB that an invalidation covers. -/
def Inval.sweep (i : Inval) (part : Nat) (tlb : List TlbEntry) : List TlbEntry :=
  tlb.filter fun e => e.part ≠ part || e.ten ≠ i.ten || !i.covers e.leaf

/-- The translations to registered frames that an invalidation removes: those of the TLBs, those of the sources that a residency of the
tenancy remembers, and after a ROOT write those of the tables that the tenancy had (R335). -/
def State.swept (s : State) (part : Nat) (i : Inval) : List Leaf :=
  let tlbs := s.cores.flatMap (·.2.tlb) ++ s.clusters.flatMap (·.2.tlb)
  let held := (tlbs.filter fun e => e.part = part && e.ten = i.ten && i.covers e.leaf).map (·.leaf)
  let srcs := (s.residencies.filter fun r => r.part = part).flatMap fun r =>
    ((if r.srcTen = i.ten then r.leaves else []) ++
      ((r.fill.filter fun f => f.ten = i.ten).map (·.leaves)).getD []).map (·.2)
  held ++ srcs.filter i.covers ++ i.maps

/-- A place that a translation gave. -/
def Place.translated : Place → Bool
  | .hbm _ | .page _ _ | .host _ => true
  | .pad _ _ | .acc _ _ | .xreg _ _ _ | .vreg _ _ _ | .nothing | .data _ _ => false

/-- A held access that went through a translation. -/
def MemOp.translated : MemOp → Bool
  | .load _ _ _ ps | .store _ ps => ps.any fun p => p.1.translated
  | .amo _ _ _ _ _ p => p.translated
  | .vload _ _ _ els => els.any fun e => e.2.translated
  | .vstore _ els => els.any fun e => e.1.translated
  | .sync _ _ _ _ _ _ | .ldp _ _ _ | .few _ _ _ | .braid _ => false

/-- The thread holds an access that was translated and has not been performed: one that waits, or a claim that it has sent. -/
def Thread.holdsPlaces (th : Thread) : Bool :=
  th.heldOps.any (fun h => h.op.translated) || th.claimSent.any fun r => r.place.any Place.translated

/-- A statistics record that a barrier is still to write goes through a translation (R102). -/
def recsTranslated (recs : List (Nat × Word × List (Place × Nat))) : Bool :=
  recs.any fun r => r.2.2.any fun p => p.1.translated

/-- No thread of the tenancy holds an access that was translated and has not been performed, and no barrier of it a record. -/
def State.drained (s : State) (part ten : Nat) : Bool :=
  (s.threads.all fun e => e.2.part ≠ part || e.2.ten ≠ ten || !e.2.holdsPlaces) &&
    (s.pops.all fun e => e.2.part ≠ part || e.2.ten ≠ ten || !recsTranslated e.2.recs) &&
    s.groups.all fun e => e.1 / 2048 ≠ part * 4 + ten || !recsTranslated e.2.recs

/-- Answers that an invalidation leaves. -/
def Inval.keeps (i : Inval) (as : List Answer) : List Answer :=
  as.filter fun a => !(i.all || decide (a.page = i.page) || a.leaf.covers (i.page * 65536))

/-- INVALIDATION_COMPLETE (R333): every TLB entry and held answer that the oldest invalidation covers goes, the frames of the
translations removed are raised, and DONE rises. It waits until every access that the tenancy's threads have translated is
performed; an engine performs its accesses in the step in which it has all their translations. -/
def execInvalidationComplete (p : Nat) (s : State) : Result :=
  match (s.part p).invals with
  | [] => .next s
  | i :: rest =>
    if !s.drained p i.ten then .next s else
    let frames := ((s.swept p i).filter fun l => !l.host).flatMap fun l =>
      (s.gens.filter fun e => decide (l.phys / 65536 ≤ e.1) && decide (e.1 < (l.phys + 2 ^ l.lg) / 65536)).map (·.1)
    let s := frames.eraseDups.foldl State.raise s
    let s := { s with
      cores := Table.mapVals s.cores fun c => { c with tlb := i.sweep p c.tlb }
      clusters := Table.mapVals s.clusters fun c => { c with tlb := i.sweep p c.tlb }
      threads := Table.mapVals s.threads fun th =>
        if th.part = p && th.ten = i.ten then { th with answers := i.keeps th.answers } else th
      ctxs := s.ctxs.map fun (e : Nat × EngCtx) =>
        (e.1, if keyOwner 2048 e.1 = (p, i.ten) then { e.2 with answers := i.keeps e.2.answers } else e.2) }
    .next (s.modPart p fun q => { q with invals := rest, xinvDone := q.xinvDone + 1 })

/-- Starts an invalidation: SEQ rises (R333). -/
def State.invalidate (s : State) (p : Nat) (i : Inval) : State :=
  s.modPart p fun q => { q with invals := q.invals ++ [i], xinvSeq := q.xinvSeq + 1 }

/-- Every leaf below a table. -/
def State.leavesUnder (s : State) : List (Nat × Nat) → Nat → Nat → List Leaf
  | [], _, _ => []
  | (lo, k) :: rest, table, va =>
    (List.range (2 ^ k)).flatMap fun i =>
      let e := s.tableEntry (table + 8 * i)
      if e % 2 = 0 then []
      else if e / 2 % 2 = 1 then [leafOf (va + i * 2 ^ lo) e lo]
      else s.leavesUnder rest (e / 2 ^ 8 % 2 ^ 40 * 2 ^ 8) (va + i * 2 ^ lo)

/-- The leaves by which a tenancy maps HBM; the frames that are registered when the ROOT write completes are raised (R335). -/
def State.mapsFrames (s : State) (p ten : Nat) : List Leaf :=
  (s.leavesUnder walkLevels (s.rootTable p ten) 0).filter fun l => !l.host && match s.walk p ten l.va with
    | .ok m => m = l
    | .error _ => false

/-- A write of PTROOTn: the table, and an ALL invalidation of the tenancy (R332). -/
def State.writePtroot (s : State) (p n : Nat) (v : Word) : State :=
  (s.modPart p fun q => { q with ptroot := Table.set q.ptroot n (word (bits v 47 12 * 4096)) }).invalidate p
    ⟨n, true, 0, s.mapsFrames p n⟩

def execPtrootWrite (p n : Nat) (v : Word) (s : State) : Result := .next (s.writePtroot p n v)

/-- A write of XINV; with GO = 0 it does nothing (R332). -/
def State.writeXinv (s : State) (p : Nat) (v : Word) : State :=
  if bit v 0 then s.invalidate p ⟨bits v 3 2, bit v 1, bits v 47 16, []⟩ else s

def execXinvWrite (p : Nat) (v : Word) (s : State) : Result := .next (s.writeXinv p v)

/-! ### Registers (R332) -/

/-- Reads a translation register; `p` is the partition that PSEL names, and `g` the reader's cluster. -/
def State.readXlat (s : State) (g p sel : Nat) : Option Word :=
  let q := s.part p
  let own : Word → Word := fun w => if p = 0 then 0 else w
  if 0x500 ≤ sel && sel < 0x504 then some (own (Table.get q.ptroot (sel - 0x500) 0))
  else if sel = 0x504 then some 0
  else if sel = 0x505 then some (own (word q.xinvSeq))
  else if sel = 0x506 then some (own (word q.xinvDone))
  else if sel = 0x508 then some (own q.cntcfg)
  else if sel = 0x509 then some (own q.nqbase)
  else if sel = 0x50A then some (own q.nqhead)
  else if sel = 0x50B then some (own q.nqtail)
  else if sel = 0x50C then some (own (word q.nqovf))
  else if sel = 0x50F then some s.fwroot
  else if 0x510 ≤ sel && sel < 0x514 then some (own (Table.get q.cnttab (sel - 0x510) 0))
  else if sel = 0x518 then some (word ((s.cluster g).ovf * 2 ^ 32 + (s.cluster g).misses.length))
  else none

/-- Writes a translation register of the partition that PSEL names. -/
def State.writeXlat (s : State) (p sel : Nat) (v : Word) : State :=
  if p = 0 then s
  else if 0x500 ≤ sel && sel < 0x504 then s.writePtroot p (sel - 0x500) v
  else if sel = 0x504 then s.writeXinv p v
  else if sel = 0x508 then s.modPart p fun q => { q with cntcfg := word (bits v 47 21 * 2 ^ 21 + bits v 15 0) }
  else if sel = 0x509 then
    if decide (1 ≤ bits v 3 0) && decide (bits v 3 0 ≤ 3) then s
    else s.modPart p fun q => { q with nqbase := word (bits v 47 12 * 4096 + bits v 3 0) }
  else if sel = 0x50A then
    let q := s.part p
    if v.toNat < q.nqhead.toNat || q.nqtail.toNat < v.toNat then s else s.modPart p fun q => { q with nqhead := v }
  else if sel = 0x50C then s.modPart p fun q => { q with nqovf := bits v 31 0 }
  else if 0x510 ≤ sel && sel < 0x514 then
    s.modPart p fun q => { q with cnttab := Table.set q.cnttab (sel - 0x510) (word (bits v 63 48 * 2 ^ 48 + bits v 47 12 * 4096)) }
  else s

end Sys2Proof.Machine
end

