-- ==== Sys2Proof/Machine/Launch.lean ====
section
/-! DEFINITION. Sys2Proof/Machine/Launch.lean: what the root slots do by themselves: launches (R74-R76), load balancing (R287),
the micro-kernel's disposition of trap records (R206, R294, R304, R334), and the wait-cycle probe (R305-R307). -/

namespace Sys2Proof.Machine

/-! ### Packets that end (R341, R342) -/

def freshSubQ : SubQ := ⟨0, 0, 0, false, 0, 0, 0, 0, 0, 0, [], 0⟩

/-- Submission queue q of function fn has number 16 fn + q. SIB starts as 0 with every other field. -/
def State.subq (s : State) (q : Nat) : SubQ := Table.get s.subqs q freshSubQ

def State.modSubq (s : State) (q : Nat) (f : SubQ → SubQ) : State := { s with subqs := Table.set s.subqs q (f (s.subq q)) }

/-- Partition that a queue acts for: a VF's own, a PF queue's PART (R339). -/
def State.queuePart (s : State) (q : Nat) : Nat := if q / 16 = 0 then (s.subq q).part else q / 16

/-- Word 1 of a PACKET record (R343, R344). -/
def packetId (cause q idx : Nat) : Word := word (cause * 2 ^ 56 + q % 16 * 2 ^ 32 + idx)

/-- Posts completions in ring order: the oldest packets whose effect has ended (R342). A partition's records go to its bound function,
whichever function's queue the packet came from (R344). -/
def State.drainPackets (s : State) (q : Nat) : Nat → State
  | 0 => s
  | n + 1 =>
    match (s.subq q).flight with
    | p :: rest =>
      match p.status with
      | some st =>
        let s := if p.notify || bit st 63 then
            s.postTo (s.boundFn (s.queuePart q)) [recordHead 1 (s.subq q).ten (s.queuePart q), packetId 0 q p.index, st, word p.tag, 0, 0, 0, 0]
          else s
        State.drainPackets (s.modSubq q fun x => { x with flight := rest }) q n
      | none => s
    | [] => s

/-- A packet's effect has ended with a status. -/
def State.completePacket (s : State) (pk : Nat × Nat) (st : Word) : State :=
  let s := s.modSubq pk.1 fun x => { x with flight := x.flight.map fun p =>
    if p.num = pk.2 && p.status.isNone then { p with status := some st } else p }
  s.drainPackets pk.1 (s.subq pk.1).flight.length

def State.completeIf (s : State) (pk : Option (Nat × Nat)) (st : Word) : State :=
  match pk with
  | some p => s.completePacket p st
  | none => s

/-! ### Launch records (R74, R75) -/

/-- The root slots start threads of the tenancy: it runs, and no switch is under way (R315). -/
def State.startsFor (s : State) (part ten : Nat) : Bool :=
  part = 0 || ((s.part part).cur = ten && !(s.part part).switching)

/-- A word of a launch record, or the code with which it cannot be read. -/
def State.recordWord (s : State) (e : Eng) (va : Nat) : Except Nat Word × State :=
  let (r, s) := s.engWords e va 1
  match r with
  | .ok [w] => (.ok w, s)
  | .ok _ => (.error 1, s)
  | .error c => (.error c, s)

def State.recordWords (s : State) (e : Eng) (va : Nat) : Nat → List (Except Nat Word) × State
  | 0 => ([], s)
  | n + 1 =>
    let (r, s) := s.recordWord e va
    let (rs, s) := s.recordWords e (va + 8) n
    (r :: rs, s)

/-- The scratchpad word that DONE names: 8-aligned, admitted by the window registers and the bank mask (R74). -/
def State.donePlace (s : State) (e : Eng) (w : Word) : Option (Nat × Nat) :=
  if w.toNat % 8 = 0 && inWindow w.toNat then
    match s.windowPlace e.part e.ten e.sid .sync w.toNat with
    | some (.pad core off) => some (core, off)
    | _ => none
  else none

def okWord : Except Nat Word → Option Word
  | .ok w => some w
  | .error _ => none

/-- The fields of a record that keeps R74, or none. -/
structure LaunchRec where
  pc    : Word
  seeds : List Word
  size  : Nat
  quota : Nat
  cores : Nat
  after : Word
  done  : Word

def launchOf (ws : List Word) (doneOk : Bool) : Option LaunchRec :=
  let w := fun i => ws.getD i 0
  let shape := w 5
  let ok := ws.length = 8 && bits (w 0) 63 48 = 0 && !bit (w 0) 0 && bits shape 63 48 = 0 && bits shape 31 24 = 0 &&
    bits shape 23 0 ≠ 0 && bits shape 39 32 ≠ 0 && bits shape 39 32 ≤ 15 && bits shape 47 40 ≠ 0 && (w 7 = 0 || doneOk)
  if ok then some ⟨w 0, [w 1, w 2, w 3, w 4], bits shape 23 0, bits shape 39 32, bits shape 47 40, w 6, w 7⟩ else none

/-- A root slot's STF (R62, R75, R76). -/
def State.rootStf (s : State) (root core off : Nat) (v : Word) : State := (s.perform root (.sync .stf 0 v core off 0)).settle

/-- Status of a LAUNCH packet whose record is malformed (R342). -/
def launchError (ws : List (Except Nat Word)) : Word :=
  if ws.any fun r => match r with | .error c => c = 2 | .ok _ => false then errorStatus 2
  else if ws.any fun r => match r with | .error c => c = 4 | .ok _ => false then errorStatus 4
  else errorStatus 1

/-- Discards a launch entry with its population. -/
def State.discardEntry (s : State) (core pop : Nat) : State :=
  State.modCore { s with pops := Table.erase s.pops pop } core fun c => { c with launch := c.launch.filter fun x => x.pop ≠ pop }

/-- The root slot takes up a launch entry: it reads the record, or reports a malformed one and discards the entry (R75), which the
micro-kernel does once it has posted a record of class 15 (R294). While the bank of the DONE word of a malformed record is full, the
root slot's STF does not issue (R64): none. -/
def State.takeUp (s : State) (core : Nat) (e : LaunchEntry) : Option State :=
  let eng : Eng := ⟨core * 16, e.part, e.ten, core % 8 * 16, none⟩
  let (rs, s) := s.recordWords eng e.addr.toNat 8
  let ws := rs.filterMap okWord
  let done := (rs[7]?).bind okWord
  let donePl := done.bind (s.donePlace eng)
  match (if e.addr.toNat % 8 = 0 then launchOf ws donePl.isSome else none) with
  | some r =>
    let s := s.modCore core fun c => { c with launch := c.launch.map fun x =>
      if x.pop = e.pop then { x with taken := true, cores := r.cores } else x }
    some { s with pops := Table.modify s.pops e.pop (emptyPop e.part e.ten e.packet) fun p =>
        { p with pc := r.pc, seeds := if e.seeds = [] then r.seeds else e.seeds, size := r.size, quota := r.quota,
                 after := r.after.toNat, done := r.done } }
  | none =>
    if !(donePl.all fun d => s.bankRoom d.1 d.2) then none
    else if donePl.isNone && e.packet.isNone then
      let s := s.modCore core fun c => { c with
        records := c.records ++ [[word (recordWord0 0 15 e.ten e.part 0), 0, 0, e.addr]]
        launch := c.launch.map fun x => if x.pop = e.pop then { x with taken := true } else x }
      some (if s.rootCode.contains core then s.discardEntry core e.pop else s)
    else
      let s := s.discardEntry core e.pop
      let s := match donePl with
        | some (c, off) => s.rootStf core c off 0x8000000000000002
        | none => s
      some (s.completeIf e.packet (launchError rs))

/-- Running threads of a population on a core. -/
def State.popOnCore (s : State) (pop core : Nat) : Nat :=
  (s.threads.filter fun e => e.2.pop = pop && coreOf e.2.sid = core).length

/-- The population that AFTER names has triggered, or is not live (R75). -/
def State.afterDone (s : State) (p : Population) : Bool :=
  match Table.find? s.pops p.after with
  | some q => q.part ≠ p.part || q.ten ≠ p.ten || (q.size ≠ 0 && q.trig = q.size)
  | none => true

/-- A root slot may start a thread of the entry on a slot (R75). -/
def State.canStart (s : State) (e : LaunchEntry) (sid : Nat) : Bool :=
  match Table.find? s.pops e.pop with
  | some p =>
    e.taken && s.startsFor e.part e.ten && decide (p.started < p.size) && s.afterDone p && clusterOf sid = e.g &&
      maskBit e.cores (coreOf sid % 8) && sid % 16 ≠ 0 && maskBit (s.part e.part).pslots (sid % 16) &&
      (s.slotThread sid).isNone && decide (s.popOnCore e.pop (coreOf sid) < p.quota)
  | none => false

/-- A thread as R22 starts it. -/
def startedThread (p : Population) (pop sid : Nat) : Thread :=
  let sd := fun i => p.seeds.getD i 0
  let th := { freshThread sid p.part p.ten with pop := pop, index := p.started, pc := p.pc }
  [(10, sd 0), (11, sd 1), (12, sd 2), (13, sd 3), (14, word p.started), (15, word p.size)].foldl
    (fun th e => th.setX e.1 ⟨e.2, true, false, false⟩) th

/-- THREAD_START (R22, R75): the root slot of a core takes up the first entry that it has not taken up, or starts the next
thread of the first entry that allows one on the slot. The thread is ready no earlier than the next cycle. -/
def execThreadStart (core sid : Nat) (s : State) : Result :=
  let q := (s.core core).launch
  match q.find? fun e => !e.taken && s.startsFor e.part e.ten with
  | some e => .next ((s.takeUp core e).getD s)
  | none =>
    match q.find? fun e => s.canStart e sid with
    | none => .next s
    | some e =>
      match Table.find? s.pops e.pop with
      | none => .next s
      | some p =>
        let t := s.nextUid
        let th := { startedThread p e.pop sid with notBefore := s.cycle + 1 }
        let s := { s with nextUid := t + 1, threads := Table.set s.threads t th, slots := Table.set s.slots sid t
                          pops := Table.set s.pops e.pop { p with started := p.started + 1 } }
        .next (if p.started + 1 = p.size then
            s.modCore core fun c => { c with launch := c.launch.filter fun x => x.pop ≠ e.pop } else s)

/-- A population is complete: every thread has exited (R76). -/
def Population.complete (p : Population) : Bool := p.size ≠ 0 && p.exited = p.size

/-- The DONE word of a population, where it has one that its partition reaches. -/
def State.popDone (s : State) (p : Population) : Option (Nat × Nat) :=
  if p.done = 0 then none else s.donePlace ⟨0, p.part, p.ten, 0, none⟩ p.done

/-- A population is complete, and the bank of its DONE word has room for the root slot's STF (R64, R76). -/
def State.popEnds (s : State) (p : Population) : Bool := p.complete && (s.popDone p).all fun d => s.bankRoom d.1 d.2

/-- POPULATION_COMPLETE (R76): SIZE goes to DONE by an STF of the root slot of the core that holds the DONE word (DESIGN CHOICE, log entry
79: R76 says no more than the root slot), and a LAUNCH packet completes. A DONE word that the partition's window
registers or bank mask no longer allow receives nothing (DESIGN CHOICE, log entry 62: R76 states no case for it). -/
def execPopulationComplete (pop : Nat) (s : State) : Result :=
  match (Table.find? s.pops pop).filter s.popEnds with
  | none => .next s
  | some p =>
    let s := { s with pops := Table.erase s.pops pop }
    let s := match s.popDone p with
      | some (c, off) => s.rootStf (c % 1024) c off (word p.size)
      | none => s
    .next (s.completeIf p.packet (word p.size))

/-! ### Load balancing (R287) -/

/-- Launch entries of which no thread has started. -/
def State.unstarted (s : State) (core : Nat) : List LaunchEntry :=
  (s.core core).launch.filter fun e => ((Table.find? s.pops e.pop).map fun p => decide (p.started = 0)).getD true

/-- The same core of the cluster to the north, east, south or west on the die (clusters number 8 × row + column, R17). Rows
are counted from the north (DESIGN CHOICE, log entry 17). -/
def neighbours (core : Nat) : List Nat :=
  let g := core / 8
  let row := g % 64 / 8
  let col := g % 8
  let at_ := fun (g' : Nat) => g' * 8 + core % 8
  (if row = 0 then [] else [at_ (g - 8)]) ++ (if col = 7 then [] else [at_ (g + 1)]) ++
    (if row = 7 then [] else [at_ (g + 8)]) ++ (if col = 0 then [] else [at_ (g - 1)])

/-- Moves up to `n` of the youngest movable entries to another queue, in their order. -/
def State.moveEntries (s : State) (src dst n : Nat) : State :=
  let mov := (s.unstarted src).filter fun e => e.taken && e.cores = 0xFF
  let room := Config.launchEntries - (s.core dst).launch.length
  let k := min (min n room) mov.length
  let picked := mov.drop (mov.length - k)
  let s := s.modCore src fun c => { c with launch := c.launch.filter fun e => !picked.contains e }
  s.modCore dst fun c => { c with launch := c.launch ++ picked.map fun e => { e with g := dst / 8 } }

/-- The moves of one root slot, against the counts that were traded. -/
def State.balanceCore (s : State) (traded : Nat → Nat) (core : Nat) : State :=
  let out := (neighbours core).foldl (fun (acc : State × Nat) nb =>
    let (s, own) := acc
    if own > traded nb + 8 then
      let before := (s.core core).launch.length
      let s := s.moveEntries core nb ((own - traded nb) / 4)
      (s, own - (before - (s.core core).launch.length))
    else acc) (s, traded core)
  out.1

/-- LOAD_BALANCE_EXCHANGE (R287): every root slot trades its count and moves entries, every 64 µs. -/
def execLoadBalanceExchange (s : State) : Result :=
  let traded := fun core => (s.unstarted core).length
  let cores := (s.cores.filter fun e => !e.2.launch.isEmpty).map (·.1)
  .next { (cores.foldl (fun s c => s.balanceCore traded c) s) with balances := s.ftime / 64000 }

/-! ### The micro-kernel (R206, R294, R304, R334) -/

/-- Fields of word 0 of a trap record. -/
def recClass (r : List Word) : Nat := bits (r.getD 0 0) 23 16
def recDetail (r : List Word) : Nat := bits (r.getD 0 0) 39 24
def recPart (r : List Word) : Nat := bits (r.getD 0 0) 11 8
def recTen (r : List Word) : Nat := bits (r.getD 0 0) 15 14
def recSlot (r : List Word) : Nat := bits (r.getD 0 0) 7 4

/-- The instruction of a record. -/
def recInsn (r : List Word) : Option Instr :=
  let w := (r.getD 2 0).toNat
  match (if 2 ^ 31 ≤ w then decode32 w else decode16 w) with
  | .ok i => some i
  | .error _ => none

/-- The frozen thread that a record is about: none when the slot is empty, or a switch has saved the thread since (R304). -/
def State.recThread (s : State) (core : Nat) (r : List Word) : Option Nat :=
  (s.slotThread (core * 16 + recSlot r)).filter fun t =>
    (s.thr t).ten = recTen r && (s.thr t).frozen.isSome && recSlot r ≠ 0

/-- The micro-kernel of a core posts a record, and waits until its ring holds it (R344). With it goes a launch entry that is discarded
then (R294). -/
def State.kernelPost (s : State) (core fn : Nat) (r : List Word) (e : Option Nat) : State :=
  let s := s.postTo fn r
  s.modCore core fun c => { c with
    kposts := c.kposts ++ [(fn, ((s.cq fn).tail + (Table.get s.cqHeld fn []).length) % 2 ^ 32, e)] }

/-- The micro-kernel of a core waits: a record that it posted is still held (R344). Its launches go on (DEDUCED, log entry 87). -/
def State.kernelWaits (s : State) (core : Nat) : Bool :=
  (s.core core).kposts.any fun w =>
    let d := (w.2.1 + 2 ^ 32 - (s.cq w.1).tail) % 2 ^ 32
    decide (1 ≤ d) && decide (d ≤ (Table.get s.cqHeld w.1 []).length)

/-- The micro-kernel goes on behind the records that it posted. -/
def State.kernelPosted (s : State) (core : Nat) : State :=
  let s' := s.modCore core fun c => { c with kposts := [] }
  (s.core core).kposts.foldl (fun s w => match w.2.2 with
    | some pop => s.discardEntry core pop
    | none => s) s'

/-- A TRAP record to the partition's completion queue (R294, R344). -/
def State.postTrap (s : State) (core : Nat) (r : List Word) (e : Option Nat) : State :=
  s.kernelPost core (s.boundFn (recPart r)) (recordHead 5 (recTen r) (recPart r) :: r ++ [0, 0, 0]) e

/-- Unhandled: the fault record is posted and the thread is killed (R294). -/
def State.unhandled (s : State) (core t : Nat) (r : List Word) : State := (s.postTrap core r none).endThread t

/-- The oldest launch entry that a record of class 15 is about: one that was taken up and names no cores. -/
def State.reported (s : State) (core : Nat) (r : List Word) : Option Nat :=
  ((s.core core).launch.find? fun e => e.taken && decide (e.cores = 0) && decide (e.part = recPart r) && decide (e.ten % 4 = recTen r) &&
    decide (e.addr = r.getD 3 0)).map (·.pop)

/-- The service call (R294). -/
def State.serviceCall (s : State) (core t rd xt : Nat) (r : List Word) : State :=
  let th := s.thr t
  let svc := r.getD 3 0
  let id := match Table.find? s.pops th.pop with
    | some p => if p.packet.isSome then 0 else word th.pop
    | none => 0
  let s := if svc = 0 then
      s.kernelPost core (s.boundFn th.part) [recordHead 11 th.ten th.part, id, th.xval xt, identity th, 0, 0, 0, 0] none
    else s
  (s.modThr t (·.setX rd ⟨if svc = 0 then 0 else 0x8000000000000001, true, false, false⟩)).eretTo t

/-- Answers STALE or MISSING (R206): PSEL becomes the thread's partition, RQUERY is made, and the fill is started; a handle that names
no residency, or one that is EMPTY, leaves the trap unhandled. The micro-kernel's token is x1 of the root slot (DESIGN CHOICE, log
entry 16). -/
def State.answerMatrix (s : State) (core : Nat) (t : Nat) (xb : Nat) (r : List Word) : State :=
  let th := s.thr t
  let h := bits (th.xval xb) 15 0
  let s := s.modCore core fun c => { c with psel := th.part }
  match (s.residency th.part h).filter fun q => resCluster q.handle = core / 8 && q.st ≠ 0 with
  | none => s.unhandled core t r
  | some q =>
    let ten := (s.part th.part).cur
    let req : ResReq := ⟨1, core, core * 16, 1, ten, q.lastTid, s.tidRec th.part ten q.lastTid⟩
    let s := (s.modCore core fun c => { c with kfill := some r }).modThr core (·.deferX 1)
    if q.queues req then (s.modRes th.part h fun x => { x with reqs := x.reqs ++ [req] }).pump th.part h else (s.actRes q req).getD s

/-- The micro-kernel goes on with a matrix trap once its token is full (R206 steps 4 and 5). -/
def State.endMatrix (s : State) (core : Nat) (r : List Word) : State :=
  let s' := s.modCore core fun c => { c with kfill := none }
  match s.recThread core r with
  | none => s'
  | some t => if bit ((s.thr core).xval 1) 63 then s'.unhandled core t r else s'.eretTo t

/-- Disposes of one record (R294, R206, R304, R334). -/
def State.dispose (s : State) (core : Nat) (r : List Word) : State :=
  if recClass r = 15 then s.postTrap core r (s.reported core r)
  else
    match s.recThread core r with
    | none => s
    | some t =>
      match recClass r with
      | 6 => s.kernelPost core 0 ([recordHead 8 (recTen r) (recPart r)] ++ r ++ [identity (s.thr t), 0, 0]) none
      | 11 =>
        match recInsn r with
        | some (.mmul _ _ b) =>
          if recDetail r = 10 || recDetail r = 11 then s.answerMatrix core t b.reg r else s.unhandled core t r
        | _ => s.unhandled core t r
      | 12 =>
        match recInsn r with
        | some (.trap rd _ b) => s.serviceCall core t rd b.reg r
        | _ => s.unhandled core t r
      | 13 => if bit (s.core core).trapcfg (recPart r) then s.postTrap core r none else s.unhandled core t r
      | _ => s.unhandled core t r

/-- Where the micro-kernel of a core puts its trap queue: at the start of bank 15 (DESIGN CHOICE, log entry 65: the firmware chooses
the place within bank 15, and the spec states none). -/
def kernelTqbase (core : Nat) : Word :=
  word (Config.windowBase + core / 8 * 0x800000 + core % 8 * 0x40000 + 15 * Config.bankBytes)

/-- The entry of the trap queue that a core's micro-kernel takes next holds a record (R292). -/
def State.recordWaits (s : State) (core : Nat) : Bool :=
  let c := s.core core
  c.tqbase ≠ 0 && decide (c.tqtaken < c.tqcnt) && (s.padWord core (tqOffset c.tqbase.toNat c.tqtaken 0)).full

/-- The micro-kernel takes a record: it reads the entry of the trap queue and empties its word 0 (R292). -/
def State.takeRecord (s : State) (core : Nat) : List Word × State :=
  let c := s.core core
  let off := tqOffset c.tqbase.toNat c.tqtaken 0
  let r := (List.range 4).map fun i => word (leNat (s.readAt (.pad core (off + 8 * i)) 8))
  (r, (s.setPadFull core off false none).modCore core fun c => { c with tqtaken := c.tqtaken + 1 })

/-- The micro-kernel of a core sets TQBASE when its first trap finds it 0, takes the next record of the trap queue, or goes on with the
matrix trap in hand; while a completion ring keeps it waiting it does none of these (R303, R344). It stands for the firmware of a root slot that executes no code of its own in the model. -/
def State.kernelStep (s : State) (core : Nat) : State :=
  if s.rootCode.contains core || s.stopped.contains core || s.kernelWaits core then s
  else
    let s := s.kernelPosted core
    let c := s.core core
    match c.kfill with
    | some r => if ((s.thr core).getX 1).full then s.endMatrix core r else s
    | none =>
      if c.tqbase = 0 then (if c.records.isEmpty then s else s.modCore core fun c => { c with tqbase := kernelTqbase core })
      else if s.recordWaits core then
        let (r, s) := s.takeRecord core
        s.dispose core r
      else s

/-- The micro-kernel of a core has something to do: it acts in the root slot's own turns (R303). -/
def State.kernelReady (s : State) (core : Nat) : Bool :=
  !s.rootCode.contains core && !s.stopped.contains core && !s.kernelWaits core && s.cycle % 16 = 0 &&
    (!(s.core core).kposts.isEmpty || match (s.core core).kfill with
      | some _ => ((s.thr core).getX 1).full
      | none => if (s.core core).tqbase = 0 then !(s.core core).records.isEmpty else s.recordWaits core)

/-! ### Answers to translation traps (R334, R345) -/

/-- The frozen thread that an XANSID names: its core and the thread, when a class-6 trap froze it (R345). -/
def State.xansThread (s : State) (v : Word) : Option (Nat × Nat) :=
  let core := bits v 13 7 * 8 + bits v 6 4
  ((s.slotThread (core * 16 + bits v 3 0)).filter fun t =>
    (s.thr t).frozen = some 6 && (s.thr t).part = bits v 17 14).map fun t => (core, t)

/-- XLAT_RESUME (R334): the access is tried again from the start. -/
def execXlatResume (v : Word) (s : State) : Result :=
  match s.xansThread v with
  | some (_, t) => .next (s.eretTo t)
  | none => .next s

/-- XLAT_KILL (R334): the trap is handled as unhandled. -/
def execXlatKill (v : Word) (s : State) : Result :=
  match s.xansThread v with
  | some (core, t) => .next (s.unhandled core t ((s.thr t).record.getD []))
  | none => .next s

/-- What SKIP does for an instruction (R334): the register that receives the value and the length, or none where SKIP does not
answer. A store receives none: x0 stands for it, and a write to x0 is discarded. -/
def skipTarget : Instr → Option (Nat × Nat)
  | .ldb rd _ _ | .ldbu rd _ _ | .ldh rd _ _ | .ldhu rd _ _ | .ldw rd _ _ | .ldwu rd _ _ | .ldd rd _ _ => some (rd, 4)
  | .stb _ _ _ | .sth _ _ _ | .stw _ _ _ | .std _ _ _ => some (0, 4)
  | .amoadd rd _ _ _ | .amoswap rd _ _ _ | .amocas rd _ _ _ | .amomin rd _ _ _ | .amomax rd _ _ _ | .amominu rd _ _ _
  | .amomaxu rd _ _ _ | .amoand rd _ _ _ | .amoor rd _ _ _ | .amoxor rd _ _ _ => some (rd, 4)
  | .cLd a _ _ => some (a, 2)
  | .cSt _ _ _ => some (0, 2)
  | _ => none

/-- XLAT_SKIP (R334): rd receives XANSVAL, the pc moves past the instruction, and the thread resumes. A SKIP that R334 does
not let answer the trap is ignored (R345). -/
def execXlatSkip (v : Word) (s : State) : Result :=
  match s.xansThread v with
  | none => .next s
  | some (_, t) =>
    let r := (s.thr t).record.getD []
    match (recInsn r).bind skipTarget with
    | some (rd, n) =>
      .next ((s.modThr t fun th => { (th.setX rd ⟨s.xansval, true, false, false⟩) with
        pc := r.getD 1 0 + word n }).eretTo t)
    | none => .next s

/-! ### The wait-cycle probe (R305-R307) -/

/-- A request on a scratchpad word that publishes a wait: LDF, LDT, or LDFT without a limit. -/
def publishes (k : SyncKind) (due : Nat) : Bool := k = .ldf || k = .ldt || (k = .ldft && due = 0)

/-- Words that a thread's unserved requests with destinations among `xs` wait for; `stf` asks for its STFs instead. -/
def State.waitWords (s : State) (t : Nat) (xs : List Nat) (stf : Bool) : List (Nat × Nat) :=
  s.banks.flatMap fun e => (e.2.filter fun r => r.t = t &&
    (if stf then r.k = .stf else publishes r.k r.due && xs.contains r.rd)).map fun r => (r.core, r.off)

/-- Threads to which a thread's published wait leads (R305). -/
def State.edges (s : State) (t : Nat) : List Nat :=
  let th := s.thr t
  let a := s.arr (clusterOf th.sid)
  let holders := fun (ws : List (Nat × Nat)) => ws.filterMap fun w => (s.padWord w.1 w.2).holder
  if th.frozen.isSome || th.saved then []
  else
    match th.wait with
    | some (.regs xs) =>
      holders (s.waitWords t xs false) ++
        (if a.waiting.any fun w => w.1 = t && xs.contains w.2 then a.holder.map (·.2) else [])
    | some .exit => holders (s.waitWords t [] true)
    | some (.barrier g) =>
      if 2 ^ 62 ≤ g then
        match Table.find? s.pops (g - 2 ^ 62) with
        | some p => ((s.threads.filter fun e => e.2.pop = g - 2 ^ 62).map (·.1)).filter fun u => !p.arrived.contains u
        | none => []
      else
        match Table.find? s.groups g with
        | some q => q.members.filter fun u => !q.arrived.contains u
        | none => []
    | some (.run _) =>
      match a.running.bind (Table.find? a.holder) with
      | some u => [u]
      | none => []
    | some .other | none => []

/-- Sends a probe along each edge of a thread; it waits at the core of its destination. -/
def State.sendProbes (s : State) (path : List Nat) (t : Nat) : State :=
  (s.edges t).eraseDups.foldl (fun s u =>
    if s.alive u then s.modCore (coreOf (s.thr u).sid) fun c => { c with probes := c.probes ++ [⟨path, u⟩] } else s) s

/-- Cycles of 10 ms of fabric time. -/
def probeCycles : Nat := 11000000

/-- A published wait that has no edge at the end of a cycle starts anew (R306). -/
def State.restartWaits (s : State) : State :=
  { s with threads := s.threads.map fun (e : Nat × Thread) =>
      (e.1, if e.2.wait.isSome && e.2.wait ≠ some .other && (s.edges e.1).isEmpty then { e.2 with waitSince := s.cycle + 1 } else e.2) }

/-- WAIT_PROBE_TICK (R306): every thread that has kept one published wait with an edge for 10 ms sends a probe. -/
def execWaitProbeTick (s : State) : Result :=
  let old := (s.threads.filter fun e => decide (e.2.waitSince + probeCycles ≤ s.cycle) && !(s.edges e.1).isEmpty).map (·.1)
  .next { (old.foldl (fun s t => s.sendProbes [t] t) s) with ticks := s.ftime / 10000000 }

/-- Reads a halfword of code for a trap record, without a trap. -/
def State.peekHalf (s : State) (th : Thread) (va : Nat) : Nat :=
  match s.walk th.part th.ten va with
  | .ok l => leNat (s.readAt (leafPlace l va) 2)
  | .error _ => 0

/-- The instruction word at a thread's pc, as a trap record holds it (R291). -/
def State.peekInsn (s : State) (th : Thread) : Nat :=
  let h := s.peekHalf th th.pc.toNat
  if 2 ^ 15 ≤ h then h * 65536 + s.peekHalf th (th.pc.toNat + 2) else h

/-- Each member of a returned path still waits for the next one, and the last for the first; a member that a trap has frozen since
keeps its place (R307). -/
def State.cycleStands (s : State) (path : List Nat) : Bool :=
  (path.zip (path.drop 1 ++ path.take 1)).all fun e => s.alive e.1 && ((s.thr e.1).frozen.isSome || (s.edges e.1).contains e.2)

/-- WAITCYCLE for one thread of a wait cycle (R307): DETAIL is the length of the path, INFO the identity of its origin. A root slot
goes to RVEC (R293). -/
def State.waitCycle (s : State) (n origin t : Nat) : State :=
  let th := s.thr t
  if th.frozen.isSome then s
  else
    let info := word ((identity (s.thr origin)).toNat % 2 ^ 14)
    let w0 := recordWord0 n 14 th.ten th.part (slotOf th.sid)
    let s := s.countEvent (coreOf th.sid) 15
    if th.isRoot then s.rootTrap t th.pc w0 info
    else s.freeze t 14 th.pc [word w0, th.pc, word (s.peekInsn th), info]

/-- WAIT_PROBE_ARRIVAL (R306, R307): the first probe that waits at a core arrives. -/
def execWaitProbeArrival (core : Nat) (s : State) : Result :=
  match (s.core core).probes with
  | [] => .next s
  | p :: rest =>
    let s := s.modCore core fun c => { c with probes := rest }
    if (s.edges p.dst).isEmpty || 64 ≤ p.path.length then .next s
    else if p.path.head? = some p.dst then
      .next (if s.cycleStands p.path then p.path.foldl (fun s t => s.waitCycle p.path.length p.dst t) s else s)
    else if p.path.contains p.dst then .next s
    else .next (s.sendProbes (p.path ++ [p.dst]) p.dst)

end Sys2Proof.Machine
end

