-- ==== Sys2Proof/Machine/Graft.lean ====
section
/-! DEFINITION. Sys2Proof/Machine/Graft.lean: what lies under the contexts of agents: KV blocks with their counts (R216, R218,
R268), block tables (R314), the Graft (R219-R222), and context descriptors as they are created and released (R244-R246). -/

namespace Sys2Proof.Machine

/-- A block-table entry that holds no block (R216). -/
def noBlock : Nat := 0xFFFFFFFF

/-- The die whose iteration engine serves the model groups of a partition (R10, R279). The spec says that it is one die of the lead
module, and not which: the model takes the first on which the partition has clusters (DESIGN CHOICE, log entry 67). -/
def State.iterDie (s : State) (part : Nat) : Nat := if 64 ≤ (s.part part).glo then 1 else 0

/-- The iteration engine as a maker of accesses for a tenancy. -/
def State.iterEng (s : State) (part ten : Nat) : Eng :=
  ⟨s.iterDie part * 8192, part, ten, 140, some (ctxKey part ten 13 (s.iterDie part))⟩

/-! ### Blocks (R218) -/

def freshBlock : Block := ⟨0, none, none⟩

def State.block (s : State) (pbn : Nat) : Block := Table.get s.blocks pbn freshBlock

def State.modBlock (s : State) (pbn : Nat) (f : Block → Block) : State :=
  { s with blocks := Table.set s.blocks pbn (f (s.block pbn)) }

/-- The Graft node that maps a PBN of a partition. -/
def State.mapped (s : State) (part pbn : Nat) : Option Node := s.nodes.find? fun n => n.part = part && n.pbn = pbn

/-- A PBN of a partition is not FREE. -/
def State.usedBlocks (s : State) (part : Nat) : List (Nat × Block) :=
  s.blocks.filter fun e => decide ((s.part part).pbnBase ≤ e.1) && decide (e.1 < (s.part part).pbnLimit)

/-- One more entry, or scratch use, holds the block. -/
def State.raiseBlock (s : State) (pbn : Nat) : State :=
  s.modBlock pbn fun b => { count := b.count + 1, grace := none, resv := none }

/-- One entry gives the block up in iteration `it`; at count 0 it is CACHED when a node maps it, and GRACE otherwise. -/
def State.lowerBlock (s : State) (part it pbn : Nat) : State :=
  let b := s.block pbn
  let n := b.count - 1
  s.modBlock pbn fun b => { b with count := n, grace := if n = 0 && (s.mapped part pbn).isNone then some it else none }

/-- FREE PBNs of a partition. -/
def State.freeBlocks (s : State) (part : Nat) : List Nat :=
  ((List.range ((s.part part).pbnLimit - (s.part part).pbnBase)).map ((s.part part).pbnBase + ·)).filter fun b =>
    !Table.has s.blocks b

/-- A FREE PBN within the block quota. Which one it is, R218 leaves open: the model draws it. -/
def State.takeFree (s : State) (part : Nat) : Option (Nat × State) :=
  let fs := s.freeBlocks part
  if fs.isEmpty || (s.part part).blkquota ≤ (s.usedBlocks part).length then none
  else some (fs.getD ((Config.freeWord s.freeCtr).toNat % fs.length) 0, { s with freeCtr := s.freeCtr + 1 })

/-- The youngest reservation of a partition (R268). -/
def State.youngest (s : State) (part : Nat) : Option Nat :=
  ((s.usedBlocks part).foldl (fun best e =>
    match e.2.resv with
    | some (_, o) => match best with
      | some (o', b) => if o' < o then some (o, e.1) else some (o', b)
      | none => some (o, e.1)
    | none => best) none).map (·.2)

/-- An allocation for an agent's instruction: a PBN that the sequencer reserved for it, else a FREE one, else that of the
youngest reservation; none is AQUOTA (R218, R268). The caller raises its count. -/
def State.allocBlock (s : State) (part agent apc : Nat) : Option (Nat × State) :=
  let own := List.find? (fun e : Nat × Block => match e.2.resv with
    | some (p, _) => p = ⟨agent, apc, 0⟩
    | none => false) s.blocks
  match own with
  | some e => some (e.1, s.modBlock e.1 fun b => { b with resv := none })
  | none =>
    match s.takeFree part with
    | some r => some r
    | none => (s.youngest part).map fun b => (b, s.modBlock b fun x => { x with resv := none })

/-- What look-ahead took for instructions: the reservations that `f` answers with none return to FREE, and such plan holds end; the
others stand for the instruction that `f` names (R268). -/
def State.mapPlans (s : State) (f : Plan → Option Plan) : State :=
  { s with
    blocks := s.blocks.filterMap fun e => match e.2.resv with
      | some (p, o) => (f p).map fun q => (e.1, { e.2 with resv := some (q, o) })
      | none => some e
    nodes := s.nodes.map fun x => { x with holds := x.holds.filterMap fun h => (f h.1).map fun q => (q, h.2) } }

/-- An agent stops: its instructions leave the window (R268). -/
def State.dropPlans (s : State) (n : Nat) : State := s.mapPlans fun p => if p.agent = n then none else some p

/-- The next instruction of an agent at `apc` completes: what was taken for it and not used goes back, and the next instruction there is
the one after it (R268). -/
def State.endPlan (s : State) (n apc : Nat) : State :=
  s.mapPlans fun p => if p.agent = n ∧ p.apc = apc then (if p.nth = 0 then none else some { p with nth := p.nth - 1 }) else some p

/-! ### Contexts (R214, R216) -/

def State.context (s : State) (d : Nat) : Option Context := Table.find? s.contexts d

def State.setCtx (s : State) (d : Nat) (c : Context) : State := { s with contexts := Table.set s.contexts d c }

def State.modCtx (s : State) (d : Nat) (f : Context → Context) : State :=
  match s.context d with
  | some c => s.setCtx d (f c)
  | none => s

/-- Its block table and sampling record lie in the partition's region, where the engine reads and writes them (R314). -/
def State.ctxInRegion (s : State) (c : Context) : Bool :=
  s.inRegion c.part c.btab (4 * c.btcap) && s.inRegion c.part c.samp 64

/-- Entry j of a context's block table. -/
def State.entry (s : State) (c : Context) (j : Nat) : Nat :=
  if j < c.btcap then (s.tableWord c.part (c.btab + 4 * j)).getD noBlock else noBlock

/-- A physical write of the iteration engine within the partition's region (R314). -/
def State.iterWrite (s : State) (part ten a : Nat) (bs : List Byte) : State :=
  if s.inRegion part a bs.length then s.writeHbm (s.iterEng part ten).ctx a bs else s

/-- Writes an entry in iteration `it`: the new block's count rises, and that of the old one falls (R218). -/
def State.setEntry (s : State) (it : Nat) (c : Context) (j pbn : Nat) : State :=
  let old := s.entry c j
  let s := s.iterWrite c.part c.ten (c.btab + 4 * j) (leBytes 4 pbn)
  let s := if pbn ≠ noBlock then s.raiseBlock pbn else s
  if old ≠ noBlock then s.lowerBlock c.part it old else s

/-- Clears the entries from j on. -/
def State.clearFrom (s : State) (it : Nat) (c : Context) (j : Nat) : State :=
  ((List.range c.btcap).filter fun i => decide (j ≤ i) && s.entry c i ≠ noBlock).foldl (fun s i => s.setEntry it c i noBlock) s

/-! ### The Graft (R219-R222, R248) -/

/-- Nodes of one tree: partition, tenancy of the binding, and model handle. -/
def State.tree (s : State) (part ten model : Nat) : List Node :=
  s.nodes.filter fun n => n.part = part && n.ten = ten && n.model = model

/-- Groups of 16 tokens, whole ones only. -/
def blocksOf : Nat → List Nat → List (List Nat)
  | 0, _ => []
  | n + 1, ts => if ts.length < 16 then [] else ts.take 16 :: blocksOf n (ts.drop 16)

/-- The node of the first `n` blocks of a context, root 0: one path whose PBNs are the entries (R248). -/
def pathNode (tree : List Node) (entry : Nat → Nat) : Nat → Option Nat
  | 0 => some 0
  | n + 1 => (pathNode tree entry n).bind fun p => (tree.find? fun x => x.parent = p && x.pbn = entry n).map (·.id)

/-- The chain of children under a node that matches blocks of tokens; all 16 tokens are compared (R219, R248). -/
def chainUnder (tree : List Node) : Nat → List (List Nat) → List Node
  | _, [] => []
  | p, b :: bs =>
    match tree.find? fun x => x.parent = p && x.toks = b with
    | some n => n :: chainUnder tree n.id bs
    | none => []

/-- The node of a context at its length, none when it is not on its tree (R248). -/
def State.nodeAt (s : State) (c : Context) : Option Nat :=
  if c.len % 16 = 0 then pathNode (s.tree c.part c.ten c.model) (s.entry c) (c.len / 16) else none

/-- The chain that tokens match under a context's node (R248, R250). -/
def State.chain (s : State) (c : Context) (toks : List Nat) : List Node :=
  match s.nodeAt c with
  | some p => chainUnder (s.tree c.part c.ten c.model) p (blocksOf (toks.length / 16) toks)
  | none => []

/-- Contexts whose pin sets contain a node (R249). -/
def State.pinCount (s : State) (id : Nat) : Nat := min (s.contexts.filter fun e => e.2.pins.contains id).length 65535

/-- A leaf that R221 may evict in iteration `it`. The parent of a node that is being inserted stays; a plan hold that has lasted 4
iterations keeps no node (R268). -/
def State.mayEvict (s : State) (it keep : Nat) (n : Node) : Bool :=
  n.id ≠ keep && n.last ≠ it && (n.holds.all fun h => decide (h.2 < it)) && s.pinCount n.id = 0 &&
    !s.nodes.any fun x => x.parent = n.id

/-- Removes nodes in iteration `it`: a CACHED block of one becomes GRACE, and a HELD one stays with its contexts (R218, R221). -/
def State.dropNodes (s : State) (it : Nat) (f : Node → Bool) : State :=
  let gone := s.nodes.filter f
  gone.foldl (fun s n =>
    if Table.has s.blocks n.pbn && (s.block n.pbn).count = 0 then s.modBlock n.pbn fun b => { b with grace := some it } else s)
    { s with nodes := s.nodes.filter fun x => !f x }

/-- Removes one node of a tree in iteration `it`: the leaf with the oldest last use, ties to the smaller PBN (R221). -/
def State.evictNode (s : State) (part ten model it keep : Nat) : Option State :=
  let best := ((s.tree part ten model).filter (s.mayEvict it keep)).foldl (fun best n =>
    match best with
    | some b => if n.last < b.last || (n.last = b.last && n.pbn < b.pbn) then some n else some b
    | none => some n) none
  best.map fun (n : Node) => s.dropNodes it fun x => x.id = n.id

/-- Evicts until the tree holds at most `cap` nodes, or no leaf qualifies. -/
def State.shrinkTree (s : State) (part ten model it keep cap : Nat) : Nat → State
  | 0 => s
  | fuel + 1 =>
    if (s.tree part ten model).length ≤ cap then s
    else
      match s.evictNode part ten model it keep with
      | some s => s.shrinkTree part ten model it keep cap fuel
      | none => s

/-- GRAFTCAP (R309). -/
def State.graftCap (s : State) (part : Nat) : Nat := bits (s.part part).agcfg 63 32

/-- Insertion of block j of a context at a commit (R220). -/
def State.insertNode (s : State) (c : Context) (j it : Nat) : State :=
  let toks := (c.toks.drop (16 * j)).take 16
  let pbn := s.entry c j
  let tree := s.tree c.part c.ten c.model
  match pathNode tree (s.entry c) j with
  | none => s
  | some p =>
    if toks.length < 16 || pbn = noBlock || (s.mapped c.part pbn).isSome ||
        tree.any (fun x => x.parent = p && x.toks = toks) || s.graftCap c.part = 0 then s
    else
      let s := s.shrinkTree c.part c.ten c.model it p (s.graftCap c.part - 1) tree.length
      if (s.tree c.part c.ten c.model).length < s.graftCap c.part then
        { s with nextNode := s.nextNode + 1
                 nodes := s.nodes ++ [⟨s.nextNode, c.part, c.ten, c.model, p, pbn, toks, it, []⟩] }
      else s

/-- Changes the nodes named. -/
def State.modNodes (s : State) (ids : List Nat) (f : Node → Node) : State :=
  { s with nodes := s.nodes.map fun n => if ids.contains n.id then f n else n }

/-- A node with those above it, itself first. -/
def pathUp (tree : List Node) : Nat → Nat → List Nat
  | 0, _ => []
  | fuel + 1, id =>
    match tree.find? fun x => x.id = id with
    | some n => n.id :: pathUp tree fuel n.parent
    | none => []

/-- Index of the block that a node stands for. -/
def State.nodeDepth (s : State) (id : Nat) : Nat := (pathUp s.nodes s.nodes.length id).length - 1

/-! ### Creating and releasing contexts (R244-R246) -/

def modelKey (part ten h : Nat) : Nat := (part * 4 + ten) * 65536 + h

/-- A bound model of a tenancy (R217). -/
def State.model (s : State) (part ten h : Nat) : Option Model := if h < 65536 then Table.find? s.models (modelKey part ten h) else none

/-- The reset values of a sampling record (R254): TOPP and INVT 1.0, MAXNEW all ones. -/
def freshRecord : List Word := [word 0x3F8000003F800000, 0, word 0xFFFFFFFF, 0, 0, 0, 0, 0]

def wordBytes (ws : List Word) : List Byte := ws.flatMap fun w => leBytes 8 w.toNat

/-- The lowest FREE descriptor of a partition with its block table and sampling record, for `n` entries; none is AQUOTA
(R244, R314). -/
def State.newDesc (s : State) (part n : Nat) : Option (Nat × Nat × Nat) :=
  let p := s.part part
  match (List.range (p.cdLimit - p.cdBase)).find? fun i => !Table.has s.contexts (p.cdBase + i) with
  | none => none
  | some i =>
    let maxent := bits p.btarea 63 48
    let tab := bits p.btarea 47 0 + 4 * maxent * i
    let rec_ := bits p.samparea 47 0 + 64 * i
    if maxent < n || !s.inRegion part tab (4 * maxent) || !s.inRegion part rec_ 64 then none
    else some (p.cdBase + i, tab, rec_)

/-- The sampling record of a context, as words (R254); nothing of it is read outside the partition's region (R314). -/
def State.sampling (s : State) (c : Context) : List Word :=
  (List.range 8).map fun i => if s.inRegion c.part c.samp 64 then word (s.rawLe (c.samp + 8 * i) 8) else 0

/-- Creates a context for CTXNEW (R244): the state and the descriptor, or none for AQUOTA. -/
def State.createCtx (s : State) (part ten owner handle : Nat) (m : Model) : Option (Nat × State) :=
  let n := m.cap / 16
  (s.newDesc part n).map fun (d, tab, rec_) =>
    let s := s.iterWrite part ten tab (List.replicate (4 * n) 0xFF)
    let s := s.iterWrite part ten rec_ (wordBytes freshRecord)
    (d, s.setCtx d { part := part, ten := ten, btcap := n, btab := tab, len := 0, model := handle, rngKey := 0, rngCtr := 0
                     totLeft := 16 * n, newLeft := 0xFFFFFFFF, samp := rec_, maskGrp := 0, maskOn := false, owner := owner
                     late := false, st := 1, freeAt := 0, toks := [], pins := [] })

/-- Creates a context for FORK in iteration `it` (R246). What it copies must lie in the region too (R314). -/
def State.forkCtx (s : State) (owner it : Nat) (c : Context) : Option (Nat × State) :=
  (if s.ctxInRegion c then s.newDesc c.part c.btcap else none).map fun (d, tab, rec_) =>
    let new := { c with btab := tab, samp := rec_, maskGrp := 0, maskOn := false, owner := owner, pins := [] }
    let ents := (List.range c.btcap).map (s.entry c)
    let rcd := (s.sampling c).set 5 0
    let s := s.iterWrite c.part c.ten tab (List.replicate (4 * c.btcap) 0xFF)
    let s := (List.range c.btcap).foldl (fun s j =>
      if ents.getD j noBlock = noBlock then s else s.setEntry it new j (ents.getD j noBlock)) s
    (d, (s.iterWrite c.part c.ten rec_ (wordBytes rcd)).setCtx d new)

/-- CTXFREE's effect in iteration `it` (R245): RELEASING, no pins, every block given up; FREE two iterations later. -/
def State.releaseCtx (s : State) (it d : Nat) : State :=
  match s.context d with
  | none => s
  | some c =>
    let ents := ((List.range c.btcap).map (s.entry c)).filter (· ≠ noBlock)
    let s := ents.foldl (fun s b => s.lowerBlock c.part it b) s
    s.setCtx d { c with st := 2, freeAt := it + 2, pins := [] }

/-- Blocks in GRACE and RELEASING descriptors of a partition whose time has come at the snapshot of iteration `it` become FREE
(R218, R245). -/
def State.endGrace (s : State) (part it : Nat) : State :=
  let p := s.part part
  { s with
    blocks := s.blocks.filter fun e => !(decide (p.pbnBase ≤ e.1) && decide (e.1 < p.pbnLimit) &&
      match e.2.grace with
      | some g => decide (g + 2 ≤ it)
      | none => false)
    contexts := s.contexts.filter fun e => !(e.2.part = part && e.2.st = 2 && decide (e.2.freeAt ≤ it)) }

/-- Something waits for the end of its grace period. -/
def State.inGrace (s : State) (part : Nat) : Bool :=
  (s.usedBlocks part).any (fun e => e.2.grace.isSome) || s.contexts.any fun e => e.2.part = part && e.2.st = 2

def State.graceDue (s : State) (part it : Nat) : Bool :=
  (s.usedBlocks part).any (fun e => match e.2.grace with
    | some g => decide (g + 2 ≤ it)
    | none => false) || s.contexts.any fun e => e.2.part = part && e.2.st = 2 && decide (e.2.freeAt ≤ it)

end Sys2Proof.Machine
end

