-- ==== Sys2Proof/Machine/Agent.lean ====
section
/-! DEFINITION. Sys2Proof/Machine/Agent.lean: agents (R209-R213): how they issue and retire, stop, fault and are activated
(R234-R239, R275), and every short instruction (R228-R233). An agent instruction acts for the agent whose number stands in
`cur`. -/

namespace Sys2Proof.Machine

/-! ### Registers and memory (R209, R211) -/

def Agent.getA (g : Agent) (r : Nat) : Word := if r = 0 then 0 else Table.get g.a r 0

/-- A write to a0 is discarded (R209). -/
def Agent.setA (g : Agent) (r : Nat) (v : Word) : Agent := if r = 0 then g else { g with a := Table.set g.a r v }

def Agent.getK (g : Agent) (r : Nat) : Word := Table.get g.k r 0
def Agent.setK (g : Agent) (r : Nat) (v : Word) : Agent := { g with k := Table.set g.k r v }
def Agent.getS (g : Agent) (r : Nat) : Word := Table.get g.s r 0
def Agent.setS (g : Agent) (r : Nat) (v : Word) : Agent := { g with s := Table.set g.s r v }
def Agent.getF (g : Agent) (r : Nat) : BitVec 32 := Table.get g.f r 0
def Agent.setF (g : Agent) (r : Nat) (v : BitVec 32) : Agent := { g with f := Table.set g.f r v }

/-- Fields of an s register (R211). -/
def strLen (w : Word) : Nat := bits w 47 32
def strCap (w : Word) : Nat := bits w 31 16
def strBase (w : Word) : Nat := bits w 15 0

/-- An s register with another LEN. -/
def strWith (w : Word) (len : Nat) : Word := word (len * 2 ^ 32 + bits w 31 0)

/-- A descriptor is well formed (R211). -/
def strOk (w : Word) : Bool :=
  decide (bits w 63 48 = 0) && decide (strBase w % 4 = 0) && decide (strLen w ≤ strCap w) &&
    decide (strBase w + 4 * strCap w ≤ 65536)

/-- The sequencer of an agent's die as a maker of accesses for the agent. -/
def Agent.ctx (g : Agent) : Ctx := ⟨g.die * 512, g.part, g.ten, 140⟩

/-- `n` bytes of agent memory as the agent reads them (R209, R213): the bytes of HBM, or after a host write while the agent ran what
the spec does not define. -/
def State.recall (s : State) (g : Agent) (off n : Nat) : List Byte :=
  (List.range n).map fun i =>
    let b := s.rawByte (g.base + off + i)
    if g.torn then Config.tornByte (g.base + off + i) b else b

def State.recallLe (s : State) (g : Agent) (off n : Nat) : Nat := leNat (s.recall g off n)

/-- Writes agent memory: offsets with their bytes, in order. -/
def State.store (s : State) (g : Agent) (ws : List (Nat × List Byte)) : State :=
  ws.foldl (fun s w => s.writeHbm g.ctx (g.base + w.1) w.2) s

/-- Tokens of a string. -/
def State.tokens (s : State) (g : Agent) (r : Nat) : List Nat :=
  (List.range (strLen (g.getS r))).map fun i => s.recallLe g (strBase (g.getS r) + 4 * i) 4

/-- Tokens to be written at position `i` of a string's buffer. -/
def tokensAt (w : Word) (i : Nat) (ts : List Nat) : Nat × List Byte := (strBase w + 4 * i, ts.flatMap (leBytes 4))

def State.agent (s : State) (n : Nat) : Option Agent := Table.find? s.agents n

def State.setAgent (s : State) (n : Nat) (g : Agent) : State := { s with agents := Table.set s.agents n g }

def State.modAgent (s : State) (n : Nat) (f : Agent → Agent) : State :=
  match s.agent n with
  | some g => s.setAgent n (f g)
  | none => s

def freshIter : Iter := ⟨0, false, 0, 0, [], [], [], false, []⟩

def State.iter (s : State) (p : Nat) : Iter := Table.get s.iters p freshIter

def State.modIter (s : State) (p : Nat) (f : Iter → Iter) : State := { s with iters := Table.set s.iters p (f (s.iter p)) }

/-- A ring in HBM meets the region rule (R339): a VF's lies within its partition's region. -/
def State.ringOk (s : State) (fn base bytes : Nat) : Bool :=
  if fn = 0 then decide (base + bytes ≤ Config.hbmBytes) else s.inRegion fn base bytes

/-- The completion ring of a function takes a record now (R344). -/
def State.cqRoom (s : State) (fn : Nat) : Bool :=
  let q := s.cq fn
  decide (q.log ≠ 0) && s.ringOk fn q.base (64 * 2 ^ q.log) && decide ((q.tail + 2 ^ 32 - q.head) % 2 ^ 32 < 2 ^ q.log)

/-! ### Operands of the long instructions (R234) -/

/-- Registers named: file (0 a, 1 k, 2 s, 3 f) and number. -/
def opRegs : LongOp → List (Nat × Nat)
  | .ctxnew ka _ | .ctxfree ka => [(1, ka)]
  | .fork ka kb => [(1, ka), (1, kb)]
  | .trim ka b | .unpin ka b | .sampset ka b | .maskbind ka b | .rngjump ka b => [(1, ka), (0, b)]
  | .append ka sb c | .pin ka sb c | .gen ka sb c => [(1, ka), (2, sb), (0, c)]
  | .probe a kb sc => [(0, a), (1, kb), (2, sc)]
  | .score fa kb sc d => [(3, fa), (1, kb), (2, sc), (0, d)]
  | .await a _ => [(0, a)]

/-- The k register whose context the batch entry names. -/
def opKreg : LongOp → Option Nat
  | .ctxnew ka _ | .ctxfree ka | .trim ka _ | .unpin ka _ | .sampset ka _ | .maskbind ka _ | .rngjump ka _ | .append ka _ _
  | .pin ka _ _ | .gen ka _ _ => some ka
  | .fork _ kb | .probe _ kb _ | .score _ kb _ _ => some kb
  | .await _ _ => none

/-- Bits [5:0] of the opcode (R227, R271). -/
def opCode : LongOp → Nat
  | .ctxnew _ _ => 0x20
  | .ctxfree _ => 0x21
  | .fork _ _ => 0x22
  | .trim _ _ => 0x23
  | .append _ _ _ => 0x24
  | .probe _ _ _ => 0x25
  | .pin _ _ _ => 0x26
  | .unpin _ _ => 0x27
  | .score _ _ _ _ => 0x28
  | .gen _ _ _ => 0x29
  | .sampset _ _ => 0x2A
  | .maskbind _ _ => 0x2B
  | .rngjump _ _ => 0x2C
  | .await _ _ => 0x2D

/-- APPEND, SCORE and GEN (R240). -/
def opStepped (o : LongOp) : Bool := opCode o = 0x24 || opCode o = 0x28 || opCode o = 0x29

def opAwaits (o : LongOp) : Bool := opCode o = 0x2D

/-- Context numbers that the valid k registers of an operation hold. -/
def Agent.ctxsOf (g : Agent) (o : LongOp) : List Nat :=
  (opRegs o).filterMap fun r => if r.1 = 1 && bit (g.getK r.2) 63 then some (bits (g.getK r.2) 17 0) else none

/-- Buffers of the s operands that are not empty: first byte and end. -/
def Agent.bufsOf (g : Agent) (o : LongOp) : List (Nat × Nat) :=
  (opRegs o).filterMap fun r =>
    let w := g.getS r.2
    if r.1 = 2 && strCap w ≠ 0 then some (strBase w, strBase w + 4 * strCap w) else none

/-- One long instruction depends on another (R234). a0 makes no dependence. -/
def Agent.depends (g : Agent) (x y : LongOp) : Bool :=
  (opRegs x).any (fun r => r ≠ (0, 0) && (opRegs y).contains r) || (g.ctxsOf x).any (g.ctxsOf y).contains ||
    (g.bufsOf x).any fun a => (g.bufsOf y).any fun b => decide (a.1 < b.2) && decide (b.1 < a.2)

/-- A long instruction that names a context is unretired (INFLT of R215). -/
def State.inFlight (s : State) (d : Nat) : Bool :=
  s.agents.any fun e => e.2.flight.any fun l => (e.2.ctxsOf l.op).contains d

/-- STATUS of a context (R215). -/
def State.ctxStatus (s : State) (d : Nat) (c : Context) : Word :=
  word (c.owner % 65536 * 2 ^ 16 + c.part % 16 * 2 ^ 12 + b2n c.late * 2 ^ 5 + b2n (s.inFlight d) * 2 ^ 4 + c.st)

/-- The live context that a k register names; none is ACTX (R212, R238). -/
def State.ctxOf (s : State) (g : Agent) (k : Nat) : Option (Nat × Context) :=
  let w := g.getK k
  if bit w 63 then
    ((s.context (bits w 17 0)).filter fun c => c.st = 1 && c.part = g.part && c.ten = g.ten).map fun c => (bits w 17 0, c)
  else none

/-! ### Retiring, stopping, activating (R236, R238, R239, R275) -/

/-- Retires from the front while the oldest instruction is complete (R236). -/
def retireFlight : List LongInst → List LongInst
  | l :: rest => if l.done then retireFlight rest else l :: rest
  | [] => []

/-- Scratch blocks enter GRACE in the partition's present iteration (R243). -/
def State.dropScratch (s : State) (part : Nat) (l : List Nat) : State :=
  l.foldl (fun s b => s.lowerBlock part (s.iter part).num b) s

/-- Stops an agent at a token boundary (R238, R239, R243): the work that is not committed goes, apc becomes that of the oldest
unretired instruction, and the done bits stay as its replay record (R241). -/
def State.stopAgent (s : State) (n st : Nat) : State :=
  match s.agent n with
  | none => s
  | some g =>
    let s := s.dropScratch g.part (g.flight.flatMap (·.scratch))
    let s := s.dropPlans n
    s.setAgent n { g with st := st, apc := (g.flight.head?.map fun l => l.apc).getD g.apc
                          replay := (g.flight.map fun l => l.done) ++ g.replay, flight := [], fault := none, looked := false }

/-- The active-agent limit (R275, R309). -/
def State.actLimit (s : State) (p : Nat) : Nat := bits (s.part p).agcfg 16 0

def State.activeAgents (s : State) (p : Nat) : List (Nat × Agent) := s.agents.filter fun e => e.2.part = p && e.2.st = 1

/-- The waiting agent that R275 activates first, of the tenancy that runs. -/
def State.nextWaiting (s : State) (p : Nat) : Option (Nat × Agent) :=
  (s.agents.filter fun e => e.2.part = p && e.2.st = 0 && s.startsFor p e.2.ten).foldl (fun best e =>
    match best with
    | some b => if e.2.cls < b.2.cls || (e.2.cls = b.2.cls && e.2.arrived < b.2.arrived) then some e else some b
    | none => some e) none

/-- The active agent that R275 pre-empts first. -/
def State.nextVictim (s : State) (p : Nat) : Option (Nat × Agent) :=
  (s.activeAgents p).foldl (fun best e =>
    match best with
    | some b => if b.2.cls < e.2.cls || (e.2.cls = b.2.cls && b.2.activated < e.2.activated) then some e else some b
    | none => some e) none

/-- Activates waiting agents within the limit; at a token boundary a lower class is pre-empted for a higher one (R275). -/
def State.activate (s : State) (p : Nat) (atBoundary : Bool) : Nat → State
  | 0 => s
  | fuel + 1 =>
    match s.nextWaiting p with
    | none => s
    | some (n, g) =>
      let go := fun (s : State) =>
        (State.setAgent { s with nextSeq := s.nextSeq + 1 } n
          { g with st := 1, activated := s.nextSeq, looked := false, packet := none }).completeIf g.packet (word n)
      if (s.activeAgents p).length < s.actLimit p then (go s).activate p atBoundary fuel
      else
        match s.nextVictim p with
        | some (v, gv) =>
          if atBoundary && decide (g.cls < gv.cls) then (go (s.stopAgent v 0)).activate p atBoundary fuel else s
        | none => s

/-- Activation wherever it can happen now. -/
def State.wakeAgents (s : State) (p : Nat) : State :=
  s.activate p (!(s.iter p).running) (2 * s.agents.length + 1)

/-- Takes the fault that is pending for an agent (R238). -/
def State.takeFault (s : State) (n : Nat) : State :=
  match s.agent n with
  | some g =>
    match g.fault with
    | some (code, apc) =>
      let s := s.stopAgent n 2
      let new := match g.flight.head? with
        | some l => l.apc
        | none => apc
      let s := s.modAgent n fun g => { g with apc := new }
      s.postTo (s.boundFn g.part) [recordHead 4 g.ten g.part, word n, word code, word apc, word new, 0, 0, 0]
    | none => s
  | none => s

/-- A token boundary of a partition (R240): pending faults, then pre-emption and activation. -/
def State.boundary (s : State) (p : Nat) : State :=
  let s := ((s.agents.filter fun e => e.2.part = p && e.2.fault.isSome).map (·.1)).foldl State.takeFault s
  s.wakeAgents p

/-- A fault of an agent: it is taken at the next token boundary, at once when nothing of the agent is in flight or no iteration
runs (R238, R242). -/
def State.faultAgent (s : State) (n code apc : Nat) : State :=
  match s.agent n with
  | none => s
  | some g =>
    let s := s.setAgent n { g with fault := if g.fault.isSome then g.fault else some (code, apc) }
    if g.flight.isEmpty || !(s.iter g.part).running then (s.takeFault n).wakeAgents g.part else s

/-- Agent fault codes (R238). -/
def aIllegal : Nat := 1
def aBounds : Nat := 2
def aCtx : Nat := 3
def aQuota : Nat := 4
def aMaskLate : Nat := 5
def aLimit : Nat := 6

/-- The sequencer may issue for the agent: it is active, its tenancy runs and has seen a snapshot since it was switched in (R324), and
no fault waits. -/
def State.issues (s : State) (g : Agent) : Bool :=
  g.st = 1 && g.fault.isNone && s.startsFor g.part g.ten && !(s.iter g.part).rest

/-- What a short instruction comes to: a fault, or the agent after its effect, with apc moved, and what it stores in agent memory. -/
abbrev Effect := Except Nat (Agent × List (Nat × List Byte))

/-- A short instruction (R235, R236): it issues when every older instruction has retired, completes and retires at once, or
faults with no effect. -/
def shortOp (f : State → Agent → Effect) (s : State) : Result :=
  match s.agent s.cur with
  | none => .next s
  | some g =>
    if !s.issues g || !g.flight.isEmpty then .next s
    else
      match f s g with
      | .error c => .next (s.faultAgent s.cur c g.apc)
      | .ok (g', ws) => .next ((s.store g ws).setAgent s.cur { g' with looked := false })

/-- The instruction after this one. -/
def Agent.past (g : Agent) : Agent := { g with apc := (g.apc + 8) % 2 ^ 32 }

/-- The target of an offset in instructions (R225). apc has 32 bits (R209). -/
def Agent.hop (g : Agent) (off : BitVec 32) : Agent := { g with apc := (BitVec.ofNat 32 g.apc + off * 8).toNat }

def Agent.branch (g : Agent) (c : Bool) (off : BitVec 32) : Agent := if c then g.hop off else g.past

/-- A short instruction that cannot fault. -/
def plainOp (f : Agent → Agent) : State → Result := shortOp fun _ g => .ok (f g, [])

/-- A short instruction that stores nothing in agent memory. -/
def readOp (f : State → Agent → Except Nat Agent) : State → Result := shortOp fun s g => (f s g).map fun g => (g, [])

/-! ### Effects of the short instructions (R228-R231) -/

def Agent.alu (g : Agent) (a b c : Nat) (f : Word → Word → Word) : Agent := (g.setA a (f (g.getA b) (g.getA c))).past

/-- AMOVI.HI writes bits [63:32] (R228). -/
def Agent.movHi (g : Agent) (a : Nat) (imm : BitVec 32) : Agent :=
  (g.setA a (word (imm.toNat * 2 ^ 32 + bits (g.getA a) 31 0))).past

/-- ARET (R228). -/
def Agent.ret (g : Agent) : Except Nat Agent :=
  let r := g.getA 31
  if bits r 63 32 ≠ 0 || bits r 2 0 ≠ 0 then .error aBounds else .ok { g with apc := r.toNat }

/-- The offset in agent memory that an access of `n` bytes names, or ABOUNDS (R229). -/
def Agent.ea (g : Agent) (b : Nat) (off : BitVec 32) (n : Nat) : Except Nat Nat :=
  let e : Int := (g.getA b).toNat + off.toInt
  if e < 0 then .error aBounds
  else if e.toNat % n ≠ 0 || decide (65536 < e.toNat + n) then .error aBounds
  else .ok e.toNat

/-- Bytes of a size. -/
def ESize.bytes : ESize → Nat
  | .s1 => 1
  | .s2 => 2
  | .s4 => 4
  | .s8 => 8

/-- ALD (R229). -/
def State.ald (s : State) (g : Agent) (sz : ESize) (sx : Bool) (a b : Nat) (off : BitVec 32) : Except Nat Agent :=
  (g.ea b off (ESize.bytes sz)).map fun e =>
    (g.setA a (extend sx (ESize.bytes sz) (s.recallLe g e (ESize.bytes sz)))).past

/-- AST and SSTORE of the low `n` bytes of a value (R229). -/
def Agent.ast (g : Agent) (n : Nat) (v : Word) (b : Nat) (off : BitVec 32) : Effect :=
  (g.ea b off n).map fun e => (g.past, [(e, leBytes n v.toNat)])

/-- SLOAD (R229). -/
def State.sload (s : State) (g : Agent) (sa b : Nat) (off : BitVec 32) : Except Nat Agent :=
  (g.ea b off 8).bind fun e =>
    let w := word (s.recallLe g e 8)
    if strOk w then .ok (g.setS sa w).past else .error aBounds

/-- SJOIN (R230): all tokens of sB are read first. -/
def State.join (s : State) (g : Agent) (sa sb : Nat) : Effect :=
  let w := g.getS sa
  let ts := s.tokens g sb
  if strCap w < strLen w + ts.length then .error aLimit
  else .ok ((g.setS sa (strWith w (strLen w + ts.length))).past, [tokensAt w (strLen w) ts])

/-- STOK (R230). -/
def State.stok (s : State) (g : Agent) (a sb c : Nat) : Except Nat Agent :=
  let w := g.getS sb
  let i := (g.getA c).toNat
  if strLen w ≤ i then .error aBounds
  else .ok (g.setA a (word (s.recallLe g (strBase w + 4 * i) 4))).past

/-- STOK.W (R230). -/
def Agent.stokW (g : Agent) (a sb c : Nat) : Effect :=
  let w := g.getS sb
  let i := (g.getA c).toNat
  if strLen w < i then .error aBounds
  else if i = strLen w && i = strCap w then .error aLimit
  else .ok ((if i = strLen w then g.setS sb (strWith w (i + 1)) else g).past, [tokensAt w i [bits (g.getA a) 31 0]])

/-- SSEL (R230). -/
def Agent.ssel (g : Agent) (sa sb c : Nat) : Except Nat Agent :=
  let i := (g.getA c).toNat
  if 15 < sb + i then .error aBounds else .ok (g.setS sa (g.getS (sb + i))).past

/-- The order in which CHOOSE takes F32 values: a NaN counts as −infinity, and −0 equals +0 (R231). -/
def chooseKey (v : Nat) : Int :=
  let v := if (fmtF32.value v).isNan then fmtF32.inf true else v
  if v % fmtF32.signBit = 0 then 0 else fmtF32.key v

/-- The index of the greatest of the keys, ties to the lowest (R231). -/
def greatest : List Int → Nat
  | [] => 0
  | k :: ks => (ks.foldl (fun (acc : Nat × Nat × Int) x =>
      if acc.2.2 < x then (acc.1 + 1, acc.1, x) else (acc.1 + 1, acc.2)) (1, 0, k)).2.1

def Agent.choose (g : Agent) (a fb n : Nat) : Agent :=
  (g.setA a (word (greatest ((List.range n).map fun i => chooseKey (g.getF (fb + i)).toNat)))).past

/-! ### The short instructions -/

def execAnop (s : State) : Result := plainOp Agent.past s
def execAmovi (a : Nat) (imm : BitVec 32) (s : State) : Result := plainOp (fun g => (g.setA a (sext imm)).past) s
def execAmoviHi (a : Nat) (imm : BitVec 32) (s : State) : Result := plainOp (fun g => g.movHi a imm) s
def execAadd (a b c : Nat) (s : State) : Result := plainOp (fun g => g.alu a b c (· + ·)) s
def execAsub (a b c : Nat) (s : State) : Result := plainOp (fun g => g.alu a b c (· - ·)) s
def execAmul (a b c : Nat) (s : State) : Result := plainOp (fun g => g.alu a b c (· * ·)) s
def execAaddi (a b : Nat) (imm : BitVec 32) (s : State) : Result :=
  plainOp (fun g => (g.setA a (g.getA b + sext imm)).past) s
def execAbeq (a b : Nat) (off : BitVec 32) (s : State) : Result := plainOp (fun g => g.branch (g.getA a = g.getA b) off) s
def execAbne (a b : Nat) (off : BitVec 32) (s : State) : Result := plainOp (fun g => g.branch (g.getA a ≠ g.getA b) off) s
def execAblt (a b : Nat) (off : BitVec 32) (s : State) : Result :=
  plainOp (fun g => g.branch ((g.getA a).toInt < (g.getA b).toInt) off) s
def execAbge (a b : Nat) (off : BitVec 32) (s : State) : Result :=
  plainOp (fun g => g.branch ((g.getA b).toInt ≤ (g.getA a).toInt) off) s
def execAjmp (off : BitVec 32) (s : State) : Result := plainOp (fun g => g.hop off) s
def execAcall (off : BitVec 32) (s : State) : Result := plainOp (fun g => (g.setA 31 (word (g.apc + 8))).hop off) s
def execAret (s : State) : Result := readOp (fun _ g => g.ret) s

def execAld (sz : ESize) (sx : Bool) (a b : Nat) (off : BitVec 32) (s : State) : Result :=
  readOp (fun s g => s.ald g sz sx a b off) s
def execAst (sz : ESize) (a b : Nat) (off : BitVec 32) (s : State) : Result :=
  shortOp (fun _ g => g.ast (ESize.bytes sz) (g.getA a) b off) s
def execSload (sa b : Nat) (off : BitVec 32) (s : State) : Result := readOp (fun s g => s.sload g sa b off) s
def execSstore (sa b : Nat) (off : BitVec 32) (s : State) : Result := shortOp (fun _ g => g.ast 8 (g.getS sa) b off) s

def execSjoin (sa sb : Nat) (s : State) : Result := shortOp (fun s g => s.join g sa sb) s
def execSlen (a sb : Nat) (s : State) : Result := plainOp (fun g => (g.setA a (word (strLen (g.getS sb)))).past) s
def execStok (a sb c : Nat) (s : State) : Result := readOp (fun s g => s.stok g a sb c) s
def execStokW (a sb c : Nat) (s : State) : Result := shortOp (fun _ g => g.stokW a sb c) s
def execSsel (sa sb c : Nat) (s : State) : Result := readOp (fun _ g => g.ssel sa sb c) s
def execSclear (sa : Nat) (s : State) : Result := plainOp (fun g => (g.setS sa (strWith (g.getS sa) 0)).past) s

def execFmovi (fa : Nat) (imm : BitVec 32) (s : State) : Result := plainOp (fun g => (g.setF fa imm).past) s
def execFblt (fa fb : Nat) (off : BitVec 32) (s : State) : Result :=
  plainOp (fun g => g.branch (fmtF32.cmp .lt (g.getF fa).toNat (g.getF fb).toNat) off) s
def execFbits (a fb : Nat) (s : State) : Result := plainOp (fun g => (g.setA a (word (g.getF fb).toNat)).past) s
def execFbitsF (a fb : Nat) (s : State) : Result := plainOp (fun g => (g.setF fb ((g.getA a).setWidth 32)).past) s
def execChoose (a fb : Nat) (n : BitVec 32) (s : State) : Result := plainOp (fun g => g.choose a fb n.toNat) s

/-- A query of a live context, or ACTX (R232). -/
def queryCtx (a kb : Nat) (f : State → Nat → Context → Word) : State → Result :=
  readOp fun s g =>
    match s.ctxOf g kb with
    | some (d, c) => .ok (g.setA a (f s d c)).past
    | none => .error aCtx

def execCtxlen (a kb : Nat) (s : State) : Result := queryCtx a kb (fun _ _ c => word c.len) s
def execCtxstat (a kb : Nat) (s : State) : Result := queryCtx a kb State.ctxStatus s

/-- POST (R233): it does not issue while the completion queue is full. -/
def execPost (a : Nat) (tag : BitVec 32) (s : State) : Result :=
  match s.agent s.cur with
  | none => .next s
  | some g =>
    let fn := s.boundFn g.part
    if !s.issues g || !g.flight.isEmpty || !s.cqRoom fn || !(Table.get s.cqHeld fn []).isEmpty then .next s
    else
      let r := [recordHead 2 g.ten g.part, word s.cur, word tag.toNat, g.getA a, 0, 0, 0, 0]
      .next ((s.setAgent s.cur { g.past with looked := false }).postTo fn r)

/-- AHALT (R233): the rest follows at the next snapshot, and apc stays at the AHALT, which has not retired. A halting agent is not
active (R275). -/
def execAhalt (a : Nat) (s : State) : Result :=
  match s.agent s.cur with
  | none => .next s
  | some g =>
    if !s.issues g || !g.flight.isEmpty then .next s
    else
      let s' := (s.setAgent s.cur { g with st := 3, halt := g.getA a }).dropPlans s.cur
      .next (s'.wakeAgents g.part)

end Sys2Proof.Machine
end

