-- ==== Sys2Proof/Machine/AgentLong.lean ====
section
/-! DEFINITION. Sys2Proof/Machine/AgentLong.lean: the long agent instructions as they issue (R240-R242, R271) with the checks of
R265, and the effects that one-step instructions take at the snapshot (R244-R249, R254-R257, R262). -/

namespace Sys2Proof.Machine

/-! ### The sampling record (R254, R255) -/

/-- A field of a sampling record. -/
def recField (r : List Word) (w hi lo : Nat) : Nat := bits (r.getD w 0) hi lo

/-- The record keeps every range of R254 for a model with the planes named (R255). -/
def recordOk (r : List Word) (planes : Nat) : Bool :=
  let f := recField r
  let pl := f 1 23 20
  f 1 47 24 = 0 && !bit (r.getD 1 0) 11 && f 4 31 1 = 0 && decide (0 < f 0 63 32) && decide (f 0 63 32 ≤ 0x3F800000) &&
    decide (f 0 31 0 < 0x7F800000) && (pl = 0 || (decide (2 ≤ pl) && decide (pl ≤ planes))) && f 1 9 8 ≠ 3 &&
    decide (f 1 7 0 ≤ 64) &&
    (!bit (r.getD 1 0) 16 || (f 1 19 17 ≠ 0 && decide (2 ≤ f 1 15 12) && decide (f 1 15 12 ≤ 7) &&
      decide (f 1 15 12 < (if pl = 0 then planes else pl))))

/-- The model of a context. -/
def State.modelOf (s : State) (c : Context) : Option Model := s.model c.part c.ten c.model

/-- Planes at which a context's positions run (R254). -/
def State.planesOf (s : State) (c : Context) (m : Model) : Nat :=
  let pl := recField (s.sampling c) 1 23 20
  if pl = 0 then m.planes else pl

/-! ### Checks at issue (R241, R265) -/

/-- What the issue of a long instruction comes to. -/
inductive Start where
  /-- A check fails (R242). -/
  | fault (code : Nat)
  /-- Its progress is done, or its effect is complete at issue: it has nothing left to do. -/
  | done (g : Agent)
  /-- It goes on, with the words that SAMPSET has read. -/
  | run (data : List Word)

def Start.faults : Start → Bool
  | .fault _ => true
  | .done _ | .run _ => false

/-- The mask area that MASKBIND names lies whole in one scratchpad that the bank mask admits (R262). -/
def State.maskAreaOk (s : State) (g : Agent) (a vocab : Nat) : Bool :=
  let n := 64 + ceilDiv vocab 8
  let last := a + n - 1
  let off := a - Config.windowBase
  let part := g.part
  a % 64 = 0 && inWindow a && decide (off % 0x800000 < 0x200000) && off / 0x40000 = (last - Config.windowBase) / 0x40000 &&
    s.admits part (off / 0x800000) && decide (off < Config.windowSpan) &&
    (units Config.bankBytes (off % 0x40000) n).all (s.admitsBank part)

/-- The group handle of a mask provider names a live group of the partition (R77, R262). -/
def State.liveGroup (s : State) (g : Agent) (h : Nat) : Bool :=
  h / 2 ^ 15 % 2 = 1 && h / 2 ^ 11 % 16 = 0 && Table.has s.groups (groupKey g.part g.ten (h / 2 ^ 10 % 2) (h % 2 ^ 10))

/-- A context operand, or ACTX. -/
def State.withCtx (s : State) (g : Agent) (k : Nat) (f : Nat → Context → Model → Start) : Start :=
  match s.ctxOf g k with
  | none => .fault aCtx
  | some (d, c) =>
    match s.modelOf c with
    | none => .fault aCtx
    | some m => f d c m

/-- A long instruction is an AWAIT that has no event yet. -/
def LongInst.waits (l : LongInst) : Bool := opAwaits l.op && !l.done

/-- The agent counts as stopped for the host's accesses to its memory: it is not active, or its oldest unretired instruction is an
AWAIT that waits and no other is in progress (R213, R264). -/
def Agent.stopped (g : Agent) : Bool :=
  g.st ≠ 1 || match g.flight with
    | l :: rest => l.waits && rest.all (·.done)
    | [] => false

/-- An AWAIT of the agent waits. -/
def Agent.waits (g : Agent) : Bool := g.flight.any LongInst.waits

/-- The agent at its next instruction: apc stays at an AWAIT that waits, and what issues next stands behind it (DEDUCED, log entry
11). -/
def Agent.toIssue (g : Agent) : Agent :=
  if g.flight.any fun l => l.waits && l.apc = g.apc then { g with apc := (g.apc + 8) % 2 ^ 32 } else g

/-- The oldest pending event that an AWAIT takes (R264). -/
def Agent.pending (g : Agent) (tag : Nat) : Option (Nat × Word) := g.events.find? fun e => e.1 = tag || tag = 0

/-- The pending event that an instruction waits for, if it is an AWAIT. -/
def Agent.awaited (g : Agent) : LongOp → Option (Nat × Word)
  | .await _ t => g.pending t.toNat
  | _ => none

/-- An AWAIT takes an event. -/
def Agent.takeEvent (g : Agent) (a : Nat) (e : Nat × Word) : Agent := { g with events := g.events.erase e }.setA a e.2

/-- The issue of a long instruction; `rep` is its done bit (R241). -/
def State.startLong (s : State) (g : Agent) (op : LongOp) (rep : Bool) : Start :=
  match op with
  | .append ka sb c =>
    let ts := (s.tokens g sb).drop (g.getA c).toNat
    if ts.isEmpty then .done g
    else s.withCtx g ka fun _ x m =>
      if ts.any fun t => decide (m.vocab ≤ t) then .fault aBounds
      else if 16 * x.btcap < x.len + ts.length || x.totLeft < ts.length then .fault aLimit
      else .run []
  | .score _ kb sc d =>
    let ts := s.tokens g sc
    if ts.length ≤ (g.getA d).toNat then .done g
    else s.withCtx g kb fun _ x m =>
      if x.len = 0 then .fault aCtx
      else if ts.any fun t => decide (m.vocab ≤ t) then .fault aBounds
      else if m.cap < x.len + ts.length - 1 then .fault aLimit
      else .run []
  | .gen ka _ c =>
    if g.getA c = 0 then .done g
    else s.withCtx g ka fun _ x _ =>
      if x.len = 0 then .fault aCtx
      else if x.newLeft = 0 || x.totLeft = 0 then .done (g.setA c 0)
      else .run []
  | .await a tag =>
    if rep then .done g
    else match g.pending tag.toNat with
      | some e => .done (g.takeEvent a e)
      | none => .run []
  | .ctxnew ka model =>
    if rep then .done g
    else if bit (g.getK ka) 63 || (s.model g.part g.ten model.toNat).isNone then .fault aCtx
    else .run []
  | .fork ka kb =>
    if rep then .done g
    else if bit (g.getK ka) 63 then .fault aCtx
    else s.withCtx g kb fun _ _ _ => .run []
  | .ctxfree ka | .trim ka _ | .unpin ka _ | .rngjump ka _ =>
    if rep then .done g else s.withCtx g ka fun _ _ _ => .run []
  | .probe _ kb _ => if rep then .done g else s.withCtx g kb fun _ _ _ => .run []
  | .pin ka sb c =>
    if rep then .done g
    else s.withCtx g ka fun _ _ _ => if strLen (g.getS sb) < (g.getA c).toNat then .fault aBounds else .run []
  | .sampset ka b =>
    if rep then .done g
    else s.withCtx g ka fun _ _ m =>
      let o := (g.getA b).toNat
      if o % 8 ≠ 0 || 65536 < o + 64 then .fault aBounds
      else
        let r := (List.range 5).map fun i => word (s.recallLe g (o + 8 * i) 8)
        if recordOk r m.planes then .run r else .fault aIllegal
  | .maskbind ka b =>
    if rep then .done g
    else s.withCtx g ka fun _ _ m =>
      let v := g.getA b
      if v = 0 || (s.liveGroup g (bits v 63 48) && s.maskAreaOk g (bits v 47 0) m.vocab) then .run [] else .fault aIllegal

/-! ### Issue (R235, R271) -/

/-- The lowest FREE batch-table entry of a die (R271): one of the first, since so many entries are not FREE. -/
def State.freeEntry (s : State) (die : Nat) : Option Nat :=
  ((List.range (min 8192 (s.batch.length + 1))).map (die * 8192 + ·)).find? fun n => !Table.has s.batch n

/-- The agent leaves an AWAIT that has taken its event, if apc is still there. -/
def Agent.leaveAwait (g : Agent) (seq : Nat) : Agent :=
  if g.flight.any fun l => l.seq = seq && l.waits && l.apc = g.apc then g.past else g

/-- Marks an instruction complete and retires what can retire (R236). -/
def State.finishLong (s : State) (n seq : Nat) : State :=
  match s.agent n with
  | none => s
  | some g =>
    let fl := g.flight.map fun l => if l.seq = seq then { l with done := true } else l
    let s := s.setAgent n { g.leaveAwait seq with flight := retireFlight fl, looked := false }
    match g.flight.find? fun l => l.seq = seq with
    | some l => s.endPlan n l.apc
    | none => s

/-- A long instruction of the current agent issues: it enters the flight, complete or not, and retires at once where it can. -/
def State.addInst (s : State) (g : Agent) (op : LongOp) (entry : Option Nat) (done : Bool) (data : List Word) : State :=
  let l : LongInst := ⟨op, g.apc, entry, done, none, [], none, data, s.nextSeq⟩
  let g' := if opAwaits op && !done then g else g.past
  let s := State.setAgent { s with nextSeq := s.nextSeq + 1 } s.cur
    { g' with flight := retireFlight (g.flight ++ [l]), replay := g.replay.drop 1, looked := false }
  if done then s.endPlan s.cur g.apc else s

/-- The context number that a batch-table entry shows (R271). -/
def Agent.entryCtx (g : Agent) (op : LongOp) : Nat :=
  match opKreg op with
  | some k => bits (g.getK k) 17 0
  | none => 0

/-- A batch-table entry as the sequencer allocates it (R271): PENDING, or DRAINING where the instruction is complete at issue (R243). -/
def BatchEntry.fresh (op agent ctx iter : Nat) (done : Bool) : BatchEntry :=
  ⟨0, 0, 0, 0, if done then 3 else 1, op, agent, ctx, 0, iter % 2 ^ 32, 0, false⟩

/-- The issue of a long instruction that has a batch-table entry, if it needs one: its checks, then its place in the flight
(R241, R242). -/
def State.issueLong (s : State) (g : Agent) (op : LongOp) (entry : Option Nat) : State :=
  let add := fun (g' : Agent) (done : Bool) (data : List Word) =>
    let e := BatchEntry.fresh (opCode op) s.cur (g.entryCtx op) (s.iter g.part).num done
    let batch := match entry with
      | some n => Table.set s.batch n e
      | none => s.batch
    State.addInst { s with batch := batch } g' op entry done data
  match s.startLong g op (g.replay.head?.getD false) with
  | .fault c => s.faultAgent s.cur c g.apc
  | .done g' => add g' true []
  | .run data => add g false data

/-- A long instruction issues when at most 3 older ones are unretired, it depends on none of them, and a batch-table entry is
FREE, which AWAIT needs none of (R235, R271). One whose checks fail is held back while an AWAIT of the agent waits, as an encoding
fault is (R226; DEDUCED, log entry 11: in R282 the CTXNEW behind a waiting AWAIT depends on nothing, and its fault would stop the
agent). -/
def longOp (op : LongOp) (s : State) : Result :=
  match s.agent s.cur with
  | none => .next s
  | some h =>
    let g := h.toIssue
    if !s.issues g || 4 ≤ g.flight.length || g.flight.any (fun l => g.depends op l.op) ||
        (g.waits && (s.startLong g op (g.replay.head?.getD false)).faults) then .next s
    else if opAwaits op then .next (s.issueLong g op none)
    else
      match s.freeEntry g.die with
      | none => .next s
      | some n => .next (s.issueLong g op (some n))

def execCtxnew (ka : Nat) (model : BitVec 32) (s : State) : Result := longOp (.ctxnew ka model) s
def execCtxfree (ka : Nat) (s : State) : Result := longOp (.ctxfree ka) s
def execFork (ka kb : Nat) (s : State) : Result := longOp (.fork ka kb) s
def execTrim (ka b : Nat) (s : State) : Result := longOp (.trim ka b) s
def execAppend (ka sb c : Nat) (s : State) : Result := longOp (.append ka sb c) s
def execProbe (a kb sc : Nat) (s : State) : Result := longOp (.probe a kb sc) s
def execPin (ka sb c : Nat) (s : State) : Result := longOp (.pin ka sb c) s
def execUnpin (ka b : Nat) (s : State) : Result := longOp (.unpin ka b) s
def execScore (fa kb sc d : Nat) (s : State) : Result := longOp (.score fa kb sc d) s
def execGen (ka sb c : Nat) (s : State) : Result := longOp (.gen ka sb c) s
def execSampset (ka b : Nat) (s : State) : Result := longOp (.sampset ka b) s
def execMaskbind (ka b : Nat) (s : State) : Result := longOp (.maskbind ka b) s
def execRngjump (ka b : Nat) (s : State) : Result := longOp (.rngjump ka b) s
def execAwait (a : Nat) (tag : BitVec 32) (s : State) : Result := longOp (.await a tag) s

/-- Delivers an event to an agent, and completes a matching AWAIT (R264). -/
def State.deliverEvent (s : State) (n tag : Nat) (v : Word) : State :=
  match s.agent n with
  | none => s
  | some g =>
    let g := { g with events := g.events ++ [(tag, v)] }
    match g.flight.find? fun l => l.waits && (g.awaited l.op).isSome with
    | some l =>
      match l.op, g.awaited l.op with
      | .await a _, some e => (s.setAgent n (g.takeEvent a e)).finishLong n l.seq
      | _, _ => s.setAgent n g
    | none => s.setAgent n g

/-! ### One-step effects at the snapshot of iteration `it` (R240) -/

/-- A fault that arises in progress waits for the token boundary (R242). -/
def State.pendFault (s : State) (n code apc : Nat) : State :=
  s.modAgent n fun g => { g with fault := if g.fault.isSome then g.fault else some (code, apc) }

/-- Creates a context and names it in a k register, or AQUOTA. -/
def State.nameCtx (s : State) (n : Nat) (l : LongInst) (ka : Nat) (r : Option (Nat × State)) : State :=
  match r with
  | some (d, s) => (s.modAgent n (·.setK ka (word (2 ^ 63 + d)))).finishLong n l.seq
  | none => s.pendFault n aQuota l.apc

/-- TRIM (R247). -/
def State.trimCtx (s : State) (it d n : Nat) (c : Context) : State :=
  if c.len ≤ n then s
  else
    let s := s.clearFrom it c (ceilDiv n 16)
    s.setCtx d { c with len := n, totLeft := c.totLeft + (c.len - n), toks := c.toks.take n }

/-- The nodes that PIN adds: the matched chain, and those of the path above the context's node (R249). -/
def State.pinNodes (s : State) (c : Context) (toks : List Nat) : List Nat :=
  match s.nodeAt c with
  | none => []
  | some p =>
    let tree := s.tree c.part c.ten c.model
    (chainUnder tree p (blocksOf (toks.length / 16) toks)).map (·.id) ++ (pathUp tree tree.length p).drop 1

/-- SAMPSET's effect (R255). -/
def State.setSampling (s : State) (d : Nat) (c : Context) (r : List Word) : State :=
  let s := s.iterWrite c.part c.ten c.samp (wordBytes r)
  let c := { c with newLeft := recField r 2 31 0 }
  s.setCtx d (if bit (r.getD 1 0) 10 then { c with rngKey := r.getD 3 0, rngCtr := 0 } else c)

/-- MASKBIND's effect (R262). -/
def State.bindMask (s : State) (d : Nat) (c : Context) (v : Word) : State :=
  let s := s.iterWrite c.part c.ten (c.samp + 0x28) (leBytes 8 (bits v 47 0))
  s.setCtx d { c with maskOn := v ≠ 0, maskGrp := bits v 63 48 }

/-- The effect of one instruction. A context that it names is there, since R235 holds back its release; and so is the model of a
CTXNEW, since settings take effect after the one-step instructions of a snapshot. -/
def State.oneStep (s : State) (it n : Nat) (g : Agent) (l : LongInst) : State :=
  let on := fun k (f : Nat → Context → State) => match s.ctxOf g k with
    | some (d, c) => (f d c).finishLong n l.seq
    | none => s.finishLong n l.seq
  match l.op with
  | .ctxnew ka h => s.nameCtx n l ka ((s.model g.part g.ten h.toNat).bind fun m => s.createCtx g.part g.ten n h.toNat m)
  | .fork ka kb => s.nameCtx n l ka ((s.ctxOf g kb).bind fun x => s.forkCtx n it x.2)
  | .ctxfree ka => on ka fun d _ => (s.releaseCtx it d).modAgent n (·.setK ka 0)
  | .trim ka b => on ka fun d c => s.trimCtx it d (g.getA b).toNat c
  | .probe a kb sc => on kb fun _ c => s.modAgent n (·.setA a (word (16 * (s.chain c (s.tokens g sc)).length)))
  | .pin ka sb c => on ka fun d x =>
      let ids := s.pinNodes x ((s.tokens g sb).take ((g.getA c).toNat / 16 * 16))
      s.setCtx d { x with pins := x.pins ++ ids.filter fun i => !x.pins.contains i }
  | .unpin ka b => on ka fun d c => s.setCtx d { c with pins := c.pins.filter fun i => decide (16 * s.nodeDepth i < (g.getA b).toNat) }
  | .sampset ka _ => on ka fun d c => s.setSampling d c l.data
  | .maskbind ka b => on ka fun d c => s.bindMask d c (g.getA b)
  | .rngjump ka b => on ka fun d c => s.setCtx d { c with rngCtr := c.rngCtr + g.getA b }
  | .append _ _ _ | .score _ _ _ _ | .gen _ _ _ | .await _ _ => s

end Sys2Proof.Machine
end

