-- ==== Sys2Proof/Machine/Alu.lean ====
section
/-! DEFINITION. Sys2Proof/Machine/Alu.lean: the ALU family (R54, R55), the immediates, LUI and ADDPC (R56), their 16-bit
forms (R45, R85), and the divider's completion (R55). -/

namespace Sys2Proof.Machine

/-- An ALU instruction of two sources: an immediate producer of rd (R54). -/
def alu2 (rd : Nat) (a b : Src) (f : Word → Word → Word) : State → Result :=
  issueSimple { src := [a, b], dx := [rd] } fun s => s.wx rd (f (s.rx a) (s.rx b))

/-- An ALU instruction of one source (R54). -/
def alu1 (rd : Nat) (a : Src) (f : Word → Word) : State → Result :=
  issueSimple { src := [a], dx := [rd] } fun s => s.wx rd (f (s.rx a))

/-- A division: a deferred producer that the core's divider writes 36 cycles after issue (R55). -/
def divide (rd : Nat) (a b : Src) (f : Word → Word → Word) : State → Result :=
  issueSimple { src := [a, b], dx := [rd] } fun s =>
    (s.deferX rd).modCore s.myCore fun c =>
      { c with divs := c.divs ++ [⟨s.cycle + 36, s.cur, rd, f (s.rx a) (s.rx b), s.rx b = 0⟩] }

def execAdd (rd : Nat) (a b : Src) (s : State) : Result := alu2 rd a b (fun x y => x + y) s
def execSub (rd : Nat) (a b : Src) (s : State) : Result := alu2 rd a b (fun x y => x - y) s
def execAnd (rd : Nat) (a b : Src) (s : State) : Result := alu2 rd a b (fun x y => x &&& y) s
def execOr (rd : Nat) (a b : Src) (s : State) : Result := alu2 rd a b (fun x y => x ||| y) s
def execXor (rd : Nat) (a b : Src) (s : State) : Result := alu2 rd a b (fun x y => x ^^^ y) s
def execSll (rd : Nat) (a b : Src) (s : State) : Result := alu2 rd a b (fun x y => x <<< shamt y) s
def execSrl (rd : Nat) (a b : Src) (s : State) : Result := alu2 rd a b (fun x y => x >>> shamt y) s
def execSra (rd : Nat) (a b : Src) (s : State) : Result := alu2 rd a b (fun x y => x.sshiftRight (shamt y)) s
def execSlt (rd : Nat) (a b : Src) (s : State) : Result := alu2 rd a b (fun x y => boolWord (x.toInt < y.toInt)) s
def execSltu (rd : Nat) (a b : Src) (s : State) : Result := alu2 rd a b (fun x y => boolWord (x.toNat < y.toNat)) s
def execMin (rd : Nat) (a b : Src) (s : State) : Result := alu2 rd a b minS s
def execMax (rd : Nat) (a b : Src) (s : State) : Result := alu2 rd a b maxS s
def execMinu (rd : Nat) (a b : Src) (s : State) : Result := alu2 rd a b minU s
def execMaxu (rd : Nat) (a b : Src) (s : State) : Result := alu2 rd a b maxU s
def execMul (rd : Nat) (a b : Src) (s : State) : Result := alu2 rd a b (fun x y => x * y) s
def execMulh (rd : Nat) (a b : Src) (s : State) : Result := alu2 rd a b mulhs s
def execMulhu (rd : Nat) (a b : Src) (s : State) : Result := alu2 rd a b mulhu s
def execDiv (rd : Nat) (a b : Src) (s : State) : Result := divide rd a b divs s
def execDivu (rd : Nat) (a b : Src) (s : State) : Result := divide rd a b divu s
def execRem (rd : Nat) (a b : Src) (s : State) : Result := divide rd a b rems s
def execRemu (rd : Nat) (a b : Src) (s : State) : Result := divide rd a b remu s
def execClz (rd : Nat) (a : Src) (s : State) : Result := alu1 rd a clz64 s
def execCtz (rd : Nat) (a : Src) (s : State) : Result := alu1 rd a ctz64 s
def execPopc (rd : Nat) (a : Src) (s : State) : Result := alu1 rd a popc64 s
def execAddsh1 (rd : Nat) (a b : Src) (s : State) : Result := alu2 rd a b (fun x y => (x <<< 1) + y) s
def execAddsh2 (rd : Nat) (a b : Src) (s : State) : Result := alu2 rd a b (fun x y => (x <<< 2) + y) s
def execAddsh3 (rd : Nat) (a b : Src) (s : State) : Result := alu2 rd a b (fun x y => (x <<< 3) + y) s
def execAndn (rd : Nat) (a b : Src) (s : State) : Result := alu2 rd a b (fun x y => x &&& ~~~y) s
def execSextw (rd : Nat) (a : Src) (s : State) : Result := alu1 rd a sextw s
def execZextw (rd : Nat) (a : Src) (s : State) : Result := alu1 rd a zextw s

/-- DIVIDE_COMPLETE (R55): the core's divider writes the oldest result that is due, and counts a division by zero. -/
def execDivideComplete (core : Nat) (s : State) : Result :=
  match (s.core core).divs with
  | d :: rest =>
    if d.due ≤ s.cycle then
      .next (((s.modCore core fun c => { c with divs := rest }).landX d.t d.rd d.val false).countIf d.zero core 4)
    else .next s
  | [] => .next s

/-! ### Immediates (R56) -/

def execAddi (rd : Nat) (a : Src) (imm : BitVec 13) (s : State) : Result := alu1 rd a (fun x => x + sext imm) s
def execAndi (rd : Nat) (a : Src) (imm : BitVec 13) (s : State) : Result := alu1 rd a (fun x => x &&& sext imm) s
def execOri (rd : Nat) (a : Src) (imm : BitVec 13) (s : State) : Result := alu1 rd a (fun x => x ||| sext imm) s
def execXori (rd : Nat) (a : Src) (imm : BitVec 13) (s : State) : Result := alu1 rd a (fun x => x ^^^ sext imm) s
def execSlti (rd : Nat) (a : Src) (imm : BitVec 13) (s : State) : Result :=
  alu1 rd a (fun x => boolWord (x.toInt < (sext imm).toInt)) s
def execSlli (rd : Nat) (a : Src) (amt : BitVec 6) (s : State) : Result := alu1 rd a (fun x => x <<< amt.toNat) s
def execSrli (rd : Nat) (a : Src) (amt : BitVec 6) (s : State) : Result := alu1 rd a (fun x => x >>> amt.toNat) s
def execSrai (rd : Nat) (a : Src) (amt : BitVec 6) (s : State) : Result := alu1 rd a (fun x => x.sshiftRight amt.toNat) s

/-- rd = sext(imm20, 64) << 12 (R36). -/
def execLui (rd : Nat) (imm : BitVec 20) (s : State) : Result :=
  issueSimple { dx := [rd] } (fun s => s.wx rd (sext imm <<< 12)) s

/-- rd = pc + (sext(imm20, 64) << 1), with the pc of the ADDPC itself (R36). -/
def execAddpc (rd : Nat) (imm : BitVec 20) (s : State) : Result :=
  issueSimple { dx := [rd] } (fun s => s.wx rd (s.me.pc + (sext imm <<< 1))) s

/-! ### 16-bit forms (R45, R85) -/

/-- C.MOV is ADD xa, xb, x0. -/
def execCMov (a b : Nat) (s : State) : Result := alu2 a (cs b) (cs 0) (fun x y => x + y) s
def execCAdd (a b : Nat) (s : State) : Result := alu2 a (cs a) (cs b) (fun x y => x + y) s
def execCSub (a b : Nat) (s : State) : Result := alu2 a (cs a) (cs b) (fun x y => x - y) s
def execCAnd (a b : Nat) (s : State) : Result := alu2 a (cs a) (cs b) (fun x y => x &&& y) s
def execCOr (a b : Nat) (s : State) : Result := alu2 a (cs a) (cs b) (fun x y => x ||| y) s
def execCXor (a b : Nat) (s : State) : Result := alu2 a (cs a) (cs b) (fun x y => x ^^^ y) s
def execCSll (a b : Nat) (s : State) : Result := alu2 a (cs a) (cs b) (fun x y => x <<< shamt y) s
def execCSrl (a b : Nat) (s : State) : Result := alu2 a (cs a) (cs b) (fun x y => x >>> shamt y) s
def execCAddi (a : Nat) (imm : BitVec 7) (s : State) : Result := alu1 a (cs a) (fun x => x + sext imm) s
/-- C.LI is ADDI xa, x0, imm. -/
def execCLi (a : Nat) (imm : BitVec 7) (s : State) : Result := alu1 a (cs 0) (fun x => x + sext imm) s
/-- C.NOP is ADD x0, x0, x0. -/
def execCNop (s : State) : Result := alu2 0 (cs 0) (cs 0) (fun x y => x + y) s

end Sys2Proof.Machine
end

