-- ==== Sys2Proof/Machine/Sampler.lean ====
section
/-! DEFINITION. Sys2Proof/Machine/Sampler.lean: what an iteration computes for its steps: the outputs of the model kernels as free
functions (R12, R19, R252), the RNG stream (R256), a draw (R259), the grammar mask (R262, R263), and the KV bytes of positions
(R216). The kernel table from which an iteration launches them belongs to the kernel image (R217), whose contents no rule gives: the
kernels' threads and their timing are left out (DESIGN CHOICE, log entry 18). -/

namespace Sys2Proof.Machine

/-! ### The model kernels -/

/-- What identifies a model to its kernels (R217). -/
def Model.desc (m : Model) : List Nat := [m.planes, m.vocab, m.blkb, m.cap, m.salt.toNat, m.ktab, m.layout]

/-- Columns of weights, each with its scales. -/
def columnData (cols : List (List Nat × List Nat)) : List (List Nat) := cols.flatMap fun c => [c.1, c.2]

/-- Weights and scales of a residency as an MMUL finds them: those loaded, those that an AUTOFILL refill loads (R146), those of the
fill that the MMUL stalls for (R150), or on a stale or missing one those that the micro-kernel's RFILL loads (R206). None when the
MMUL faults. -/
def State.resWeights (s : State) (part h : Nat) : Option (List (List Nat)) :=
  let from_ := fun (r : Residency) (ten : Nat) (src : List Word) =>
    ((readColumns (r.engFor ten) (tensorOf src) (tensorOf src).dim1 0 s).1).map columnData
  match s.residency part h with
  | none => none
  | some r =>
    match r.st, r.fill with
    | 1, some f => from_ r f.ten f.src
    | 0, _ => none
    | st, _ =>
      if r.stale || (st = 3 && !r.auto) then from_ r r.ten (s.tidRec r.part r.ten r.srctid)
      else if st = 3 then from_ r r.srcTen r.src
      else if r.bad = 2 || r.bad = 4 then none
      else some (columnData (r.wts.zip r.scl))

/-- The weights of a model; none when a residency of it cannot be used. -/
def State.weights (s : State) (part : Nat) (m : Model) : Option (List (List (List Nat))) := m.resl.mapM (s.resWeights part)

/-! ### The RNG stream (R256) -/

/-- x[63:40] for a key and a counter. -/
def uniformBits (key c : Word) : Nat :=
  let x := key ^^^ (c * 0x9E3779B97F4A7C15)
  let x := (x ^^^ (x >>> 31)) * 0xD6E8FEB86659FD93
  let x := (x ^^^ (x >>> 29)) * 0xA5A356254F6A3B8D
  bits (x ^^^ (x >>> 32)) 63 40

/-- U as an F32 value. -/
def uniform (key c : Word) : Nat := (fmtF32.ofVal false (.fin false (uniformBits key c) (-24))).bits

/-! ### A draw (R259) -/

/-- The 64 highest-ranked (logit, token) elements, as keyed F32 elements of R128. -/
def topTokens (logits : Nat → BitVec 32) : Nat → List Nat
  | 0 => []
  | v + 1 => (insertRanked .f32 ((logits v).toNat * 2 ^ 32 + v) (topTokens logits v)).take 64

/-- The arithmetic of one candidate: the running sum with its weight, and every result on the way (R259). -/
def weigh (top invt acc l : Nat) : Nat × List FRes :=
  let d := fmtF32.sub l top
  let z := fmtF32.mul d.bits invt
  let w := sfuEl fmtF32 .exp2 z.bits
  let c := fmtF32.add acc w.bits
  (c.bits, [d, z, w, c])

/-- Running sums of the candidates' weights, and the results on the way. -/
def cumulate (top invt : Nat) : Nat → List Nat → List Nat × List FRes
  | _, [] => ([], [])
  | acc, l :: ls =>
    let (acc, rs) := weigh top invt acc l
    let (cs, qs) := cumulate top invt acc ls
    (acc :: cs, rs ++ qs)

/-- The choice among candidates (logit, token) that are not empty: the nucleus, and the variate U (R259). -/
def nucleus (r : List Word) (u : Nat) (cand : List (Nat × Nat)) : Nat × List FRes :=
  let topk := recField r 1 7 0
  let cand := cand.take (if topk = 0 then 64 else topk)
  let first := cand.head?.getD (0, 0)
  let invt := recField r 0 31 0
  if invt = 0 then (first.2, [])
  else
    let (cum, rs) := cumulate first.1 invt 0 (cand.map (·.1))
    let thr := fmtF32.mul (recField r 0 63 32) (cum.getLast?.getD 0)
    let m := (cum.findIdx? fun c => fmtF32.cmp .ge c thr.bits).getD (cum.length - 1)
    let t := fmtF32.mul u (cum.getD m 0)
    let i := ((cum.take (m + 1)).findIdx? fun c => fmtF32.cmp .gt c t.bits).getD m
    ((cand.getD i (0, 0)).2, rs ++ [thr, t])

/-- One draw: the record, the mask if one is applied, the variate, and the logits of a vocabulary. It gives the token, and the results
of its arithmetic, which count events. -/
def drawToken (r : List Word) (mask : Option (Nat → Bool)) (u vocab : Nat) (logits : Nat → BitVec 32) : Nat × List FRes :=
  let all := (topTokens logits vocab).map fun e => (e / 2 ^ 32, e % 2 ^ 32)
  let cand := all.filter fun e => !(fmtF32.value e.1).isNan && e.1 ≠ fmtF32.inf true
  let cand := match mask with
    | some f => cand.filter fun e => f e.2
    | none => cand
  match cand with
  | [] => (recField r 2 63 32, [])
  | (l, t) :: _ => if l = fmtF32.inf false then (t, []) else nucleus r u cand

/-- The events of draws count in the cores whose threads run them, which R259 leaves open: the model draws a core of the partition.
Each operation of R259 counts as one instruction (DESIGN CHOICE, log entry 18). -/
def State.countDraw (s : State) (part : Nat) (rs : List FRes) : State :=
  let p := s.part part
  let core := p.glo * 8 + (Config.freeWord s.freeCtr).toNat % ((p.ghi + 1 - p.glo) * 8)
  rs.foldl (fun s r => ((s.countIf r.nanp core 0).countIf r.ovfl core 1).countIf r.norm core 2)
    { s with freeCtr := s.freeCtr + 1 }

/-- What the kernels of a context's model are given: the model, its weights, and the context. -/
structure Kernel where
  m : Model
  w : List (List (List Nat))
  c : Context

/-- The kernels for a context, none when its model is not bound or a residency cannot be used. -/
def State.kernel (s : State) (c : Context) : Option Kernel :=
  (s.modelOf c).bind fun m => (s.weights c.part m).map fun w => ⟨m, w, c⟩

/-- The draw for the position after `extra` tokens that follow the committed ones (R256, R258, R261). -/
def State.drawAfter (s : State) (k : Kernel) (mask : Option (Nat → Bool)) (extra : List Nat) : Nat × List FRes :=
  let c := k.c
  let u := uniform c.rngKey (c.rngCtr + word extra.length)
  drawToken (s.sampling c) mask u k.m.vocab (Config.logit k.m.desc k.w (s.planesOf c k.m) (c.toks ++ extra))

/-- Draft tokens g[1] … g[n] after the held token (R261). -/
def State.draftTokens (s : State) (k : Kernel) (t0 : Nat) : Nat → List Nat × List FRes
  | 0 => ([], [])
  | n + 1 =>
    let (g, rs) := s.draftTokens k t0 n
    let c := k.c
    let r := s.sampling c
    let u := uniform c.rngKey (c.rngCtr + word (n + 1))
    let (t, qs) := drawToken r none u k.m.vocab (Config.draftLogit k.m.desc k.w (s.planesOf c k.m) (recField r 1 15 12)
      c.toks (t0 :: g))
    (g ++ [t], rs ++ qs)

/-- The verification's draws u[1] … u[DN + 1], how many draft tokens they accept, and the results of their arithmetic. -/
def State.verify (s : State) (k : Kernel) (t0 : Nat) (g : List Nat) : List Nat × Nat × List FRes :=
  let ds := (List.range (g.length + 1)).map fun i => s.drawAfter k none (t0 :: g.take i)
  let us := ds.map (·.1)
  (us, ((g.zip us).takeWhile fun p => p.1 = p.2).length, ds.flatMap (·.2))

/-! ### Grammar masks (R262, R263) -/

/-- The scratchpad place of an address of a mask area, for the partition's tenancy. -/
def State.maskPlace (s : State) (c : Context) (a : Nat) : Option (Nat × Nat) :=
  match s.windowPlace c.part c.ten 0 .sync a with
  | some (.pad core off) => some (core, off)
  | _ => none

/-- MASKA of a context's record. -/
def State.maskArea (s : State) (c : Context) : Nat := recField (s.sampling c) 5 47 0

/-- The launch of a masked draw for position `p`: READY empty, then REQUEST by an STF (R263). -/
def State.askMask (s : State) (d : Nat) (c : Context) (p : Nat) : State :=
  match s.maskPlace c (s.maskArea c), s.maskPlace c (s.maskArea c + 8) with
  | some (k, o), some (k', o') => ((s.setPadFull k o false none).settle).rootStf (k' % 1024) k' o' (word (p * 2 ^ 32 + d))
  | _, _ => s

/-- READY is full, or the sampler's wait limit has passed since the launch cycle (R263). -/
def State.maskSettled (s : State) (c : Context) (launch : Nat) : Bool :=
  let lim := recField (s.sampling c) 1 63 48
  match s.maskPlace c (s.maskArea c) with
  | some (k, o) => (s.padWord k o).full || (lim ≠ 0 && decide (launch + lim * 1024 ≤ s.cycle))
  | none => true

/-- The mask for position `p`, or none when it is late. -/
def State.maskFor (s : State) (c : Context) (p : Nat) : Option (Nat → Bool) :=
  match s.maskPlace c (s.maskArea c) with
  | some (k, o) =>
    if (s.padWord k o).full && leNat (s.readAt (.pad k o) 8) = p && !s.badAt (.pad k o) 8 then
      some fun t => (s.readByte (.pad k (o + 64 + t / 8))).toNat / 2 ^ (t % 8) % 2 = 1
    else none
  | none => none

/-! ### KV bytes (R12, R216) -/

/-- Writes the KV of the last of `toks` at the planes given into the block `pbn`; the status code of R185 so far is carried on. -/
def State.writeKv (s : State) (k : Kernel) (pl : Nat) (toks : List Nat) (pbn : Nat) (x : Nat) : Nat × State :=
  let p := toks.length - 1
  let e := s.iterEng k.c.part k.c.ten
  let base := bits (s.part k.c.part).kvbase 47 0 + pbn * k.m.blkb
  (List.range k.m.blkb).foldl (fun (acc : Nat × State) i =>
    if acc.1 ≠ 0 || Config.kvOwner k.m.desc i % 16 ≠ p % 16 then acc
    else
      match acc.2.engPlace e .write (base + i) with
      | .error code => (code, acc.2.noteMiss (base + i) code)
      | .ok (at_, _) => (0, acc.2.writeAt e.ctx at_ [Config.kvByte k.m.desc k.w pl toks i])) (x, s)

/-- Writes the KV of the positions that follow `before`, with inputs `ins`; `blk` gives the block of a position. -/
def State.writeKvs (s : State) (k : Kernel) (pl : Nat) (blk : Nat → Nat) (before : List Nat) : List Nat → Nat → Nat × State
  | [], x => (x, s)
  | t :: ts, x =>
    let toks := before ++ [t]
    let (x, s) := s.writeKv k pl toks (blk (before.length / 16)) x
    s.writeKvs k pl blk toks ts x

end Sys2Proof.Machine
end

