-- ==== Sys2Proof/Machine/Iterate.lean ====
section
/-! DEFINITION. Sys2Proof/Machine/Iterate.lean: the iterations of a partition (R12, R240, R269-R279): the snapshot with the
settings that take effect at it (R309, R314, R217), the batch table (R271, R272), placement (R273, R274), the build (R223, R224,
R250, R252, R258, R261, R270), step views (R189), the work of the kernels, and the commit. The model groups of a partition share its
snapshots and token boundaries, of which R218, R240, R277 and R309 speak for the whole partition; each has a batch of its own, which
is placed, waited for, committed or failed by itself (R274, R279; DEDUCED, log entry 68). -/

namespace Sys2Proof.Machine

/-- Sorts by an order in which the first argument may stand before the second; equal elements keep their order. -/
def insertBy {α : Type} (le : α → α → Bool) (x : α) : List α → List α
  | [] => [x]
  | y :: ys => if le y x then y :: insertBy le x ys else x :: y :: ys

def sortBy {α : Type} (le : α → α → Bool) (l : List α) : List α := l.foldl (fun acc x => insertBy le x acc) []

/-! ### Settings that take effect at a snapshot (R217, R309, R314) -/

/-- A physical read of the sequencer in the partition's region. -/
def State.areaWord (s : State) (a : Nat) : Word := word (s.rawLe a 8)

/-- The model that 64 bytes of a model table bind, if they keep R217. -/
def State.readModel (s : State) (part a : Nat) : Option Model :=
  let w := fun i => s.areaWord (a + 8 * i)
  let nres := bits (w 4) 63 48
  let resl := bits (w 4) 47 0
  let m : Model :=
    { planes := bits (w 0) 35 32, vocab := bits (w 0) 31 0, blkb := bits (w 1) 63 32, cap := bits (w 1) 31 0, salt := w 2
      tlim := bits (w 3) 63 32, nmod := bits (w 3) 22 16, lead := bits (w 3) 13 0
      resl := (List.range nres).map fun i => s.rawLe (resl + 4 * i) 4 % 65536
      ktab := bits (w 5) 47 0, layout := bits (w 6) 47 0 }
  let reserved := bits (w 0) 62 36 = 0 && bits (w 3) 31 23 = 0 && bits (w 3) 15 14 = 0 && bits (w 5) 63 48 = 0 &&
    bits (w 6) 63 48 = 0 && w 7 = 0
  if bit (w 0) 63 && reserved && decide (2 ≤ m.planes) && decide (m.planes ≤ 8) && m.vocab ≠ 0 && m.blkb ≠ 0 &&
      m.blkb % 64 = 0 && m.cap % 16 = 0 && decide (16 ≤ m.cap) && decide (m.cap ≤ 1048560) && m.tlim ≠ 0 && m.nmod ≠ 0 &&
      decide (m.nmod ≤ 128) && decide (m.lead < 12288) && s.inRegion part resl (4 * nres) then some m else none

/-- Latches the models of a tenancy at the snapshot of iteration `it` (R217, R314); a write that would change or unbind a model that a
context names is ignored whole. The tree of a handle whose model changes goes with it: a tree is that of a model (R219). -/
def State.latchModels (s : State) (part ten it : Nat) (v : Word) : State :=
  let base := bits v 47 6 * 64
  let count := bits v 63 48
  let whole := s.inRegion part base (64 * count)
  let new := fun h => if whole && decide (1 ≤ h) && decide (h ≤ count) then s.readModel part (base + 64 * (h - 1)) else none
  let clash := s.contexts.any fun e => e.2.part = part && e.2.ten = ten && new e.2.model ≠ s.model part ten e.2.model
  if clash then s
  else
    let others := s.models.filter fun e => e.1 / 65536 ≠ part * 4 + ten
    let models := (List.range count).foldl (fun t i => match new (i + 1) with
      | some m => Table.set t (modelKey part ten (i + 1)) m
      | none => t) others
    let s := s.dropNodes it fun n =>
      n.part = part && n.ten = ten && Table.find? models (modelKey part ten n.model) ≠ s.model part ten n.model
    State.modPart { s with models := models } part fun p => { p with modtab := Table.set p.modtab ten v }

/-- Every descriptor of a partition is FREE (R314). -/
def State.allFree (s : State) (part : Nat) : Bool := !s.contexts.any fun e => e.2.part = part

/-- One setting takes effect. -/
def State.applySetting (s : State) (part it : Nat) (e : Nat × Word) : State :=
  match e.1 with
  | 0x409 => s.modPart part fun p => { p with itercfg := e.2 }
  | 0x40A => s.modPart part fun p => { p with agcfg := e.2 }
  | 0x40B => s.modPart part fun p => { p with blkquota := bits e.2 31 0 }
  | 0x429 => if s.allFree part then s.modPart part fun p => { p with btarea := e.2 } else s
  | 0x42A => if s.allFree part then s.modPart part fun p => { p with samparea := e.2 } else s
  | sel => if 0x424 ≤ sel && sel < 0x428 then s.latchModels part (sel - 0x424) it e.2 else s

def State.applySettings (s : State) (part it : Nat) : State :=
  let l := (s.part part).pendingCfg
  l.foldl (fun s e => s.applySetting part it e) (s.modPart part fun p => { p with pendingCfg := [] })

/-- Every tree of the partition falls to GRAFTCAP, as far as leaves qualify (R309). -/
def State.fitTrees (s : State) (part it : Nat) : State :=
  let trees := ((s.nodes.filter fun n => n.part = part).map fun n => (n.ten, n.model)).eraseDups
  trees.foldl (fun s t => s.shrinkTree part t.1 t.2 it 0 (s.graftCap part) s.nodes.length) s

/-! ### The batch table (R271, R272) -/

def State.modEntry (s : State) (n : Nat) (f : BatchEntry → BatchEntry) : State :=
  match Table.find? s.batch n with
  | some e => { s with batch := Table.set s.batch n (f e) }
  | none => s

/-- Changes every entry, and every agent. -/
def State.mapBatch (s : State) (f : Nat → BatchEntry → BatchEntry) : State := { s with batch := s.batch.map fun e => (e.1, f e.1 e.2) }
def State.mapAgents (s : State) (f : Nat → Agent → Agent) : State := { s with agents := s.agents.map fun e => (e.1, f e.1 e.2) }

/-- The flight entry that a batch-table entry stands for: agent number, agent, instruction. -/
def State.entryInst (s : State) (n : Nat) (e : BatchEntry) : Option (Agent × LongInst) :=
  (s.agent e.agent).bind fun g => (g.flight.find? fun l => l.entry = some n).map fun l => (g, l)

/-- Entries of agents of a partition. -/
def State.entriesOf (s : State) (part : Nat) : List (Nat × BatchEntry) :=
  s.batch.filter fun e => match s.agent e.2.agent with
    | some g => g.part = part
    | none => true

/-- Entries whose instruction has retired, or whose agent has stopped, become FREE (R271). -/
def State.freeEntries (s : State) (part : Nat) : State :=
  let gone := ((s.entriesOf part).filter fun e => (s.entryInst e.1 e.2).isNone).map (·.1)
  { s with batch := s.batch.filter fun e => !gone.contains e.1 }

def stableVer (v : Nat) : Bool := v % 2 = 0

/-- The snapshot reads an entry (R272). It is one read of all three words here, so the version is stable unless it is odd. -/
def BatchEntry.shadow (e : BatchEntry) : BatchEntry := if stableVer e.ver then { e with shver := e.ver, shhost := e.host } else e

def BatchEntry.hold (e : BatchEntry) : Bool := maskBit e.shhost 8

/-- HOLD 1 makes an entry HELD, and HOLD 0 makes a HELD entry PENDING (R277). One that the engine holds itself needs HOLD 1
before HOLD 0 (R278). -/
def BatchEntry.holdStep (e : BatchEntry) : BatchEntry :=
  if e.hold && (e.st = 1 || e.st = 2 || e.st = 4) then { e with st := 4, engHeld := false }
  else if !e.hold && e.st = 4 && !e.engHeld then { e with st := 1, fails := 0 }
  else e

/-! ### Placement (R273, R274) -/

/-- A runnable entry with what placement looks at. -/
structure Run where
  key   : Nat
  agent : Nat
  apc   : Nat
  seq   : Nat
  op    : LongOp
  ctx   : Nat
  /-- Model handle: its model group (R279). -/
  group : Nat
  w     : Nat
  waits : Nat
  /-- Matched tokens; largest step in positions; for a GEN, tokens of a speculative step, or 1. -/
  g     : Nat
  max   : Nat
  /-- What members of a coalesced set share, and the matched and first left tokens of its largest step (R269). -/
  sig   : List Nat
  rest  : List Nat
deriving DecidableEq, Repr

def weightOf (cls : Nat) : Nat := 8 / 2 ^ cls

/-- CHUNK and BUDGET (R309). -/
def State.chunkOf (s : State) (part : Nat) : Nat := bits (s.part part).itercfg 9 0
def State.budgetOf (s : State) (part : Nat) : Nat := bits (s.part part).itercfg 48 32

/-- DN of a context's record (R254). -/
def State.draftsOf (s : State) (c : Context) : Nat := recField (s.sampling c) 1 19 17

/-- DN + 1 for a step that may speculate, else 1 (R261, R273). Speculation needs a held token, no mask, and positions within the
block table. -/
def State.genCost (s : State) (c : Context) (l : LongInst) : Nat :=
  if bit ((s.sampling c).getD 1 0) 16 && !c.maskOn && l.held.isSome && decide (c.len + s.draftsOf c < 16 * c.btcap) then
    s.draftsOf c + 1
  else 1

/-- The first position of a SCORE step (R252, R253). -/
def scoreStart (c : Context) (m : Nat) (l : LongInst) : Nat := l.pos.getD (c.len - 1 + (if m = 0 then 0 else 1))

/-- A runnable entry (R273). An agent whose fault waits for the token boundary is still active. -/
def State.runOf (s : State) (part : Nat) (e : Nat × BatchEntry) : Option Run :=
  match s.entryInst e.1 e.2 with
  | none => none
  | some (g, l) =>
    if !opStepped l.op || !(e.2.st = 1 || e.2.st = 2) || e.2.hold || g.st ≠ 1 || l.done then none
    else
      match s.context e.2.ctx with
      | none => none
      | some c =>
        let mk := fun gm mx sig rest => some
          { key := e.1, agent := e.2.agent, apc := l.apc, seq := l.seq, op := l.op, ctx := e.2.ctx, group := c.model
            w := weightOf (if maskBit e.2.shhost 2 then e.2.shhost % 4 else g.cls), waits := e.2.waits
            g := gm, max := mx, sig := sig, rest := rest : Run }
        match l.op with
        | .append _ sb k =>
          let rest := (s.tokens g sb).drop (g.getA k).toNat
          let gm := 16 * (s.chain c rest).length
          let pl := ((s.modelOf c).map (s.planesOf c)).getD 0
          mk gm (min (rest.length - gm) (s.chunkOf part)) ([c.ten, c.model, c.len, pl, gm] ++
            (List.range (ceilDiv c.len 16)).map (s.entry c)) rest
        | .score _ _ sc k =>
          let n := (s.tokens g sc).length
          mk 0 (min (c.len + n - 1 - scoreStart c (g.getA k).toNat l) (s.chunkOf part)) [] []
        | .gen _ _ _ => mk 0 (s.genCost c l) [] []
        | _ => none

/-- Every runnable entry of a partition. -/
def State.runs (s : State) (part : Nat) : List Run := (s.entriesOf part).filterMap (s.runOf part)

def Run.isAppend (r : Run) : Bool := opCode r.op = 0x24
def Run.isGen (r : Run) : Bool := opCode r.op = 0x29

/-- Progress of a placement: placed groups with their size, what is left of the budget, the agents' deficits, the agents whose turn in
the present pass has come, and whether that is the aging pass. -/
structure Placing where
  placed  : List (List Run × Nat)
  budget  : Nat
  deficit : Table Nat
  last    : Option Nat
  turns   : List Nat
  aging   : Bool

def Placing.has (p : Placing) (r : Run) : Bool := p.placed.any fun g => g.1.contains r

/-- The largest step of an entry that costs at most `lim` (R274). -/
def Run.fits (r : Run) (lim : Nat) : Option Nat :=
  if r.isGen then (if r.max ≤ lim then some r.max else if 1 ≤ lim then some 1 else none)
  else if r.max = 0 then some 0
  else if lim = 0 then none
  else some (min r.max lim)

/-- The deficit of an agent at its turn in the present pass (R274). -/
def Placing.due (p : Placing) (all : List Run) (a : Nat) : Nat :=
  let w := ((all.filter fun r => r.agent = a).map (·.w)).foldl max 0
  let d := Table.get p.deficit a 0
  if p.turns.contains a then d else min (d + 64 * w) (512 * w)

/-- The step that an entry takes by itself: its least one in the aging pass once it has waited, else the largest that its agent's deficit and
the budget allow (R274). -/
def Placing.own (p : Placing) (all : List Run) (r : Run) : Option Nat :=
  if p.aging && decide (3 ≤ r.waits) then (if p.budget = 0 then none else some (min 1 r.max))
  else r.fits (min (p.due all r.agent) p.budget)

/-- Places a step of a size, and with an APPEND every other member of its coalesced set: those that take the same chunk by themselves and
hold the same tokens in it (R269). The budget is charged once. -/
def Placing.put (p : Placing) (all : List Run) (r : Run) (size cost : Nat) : Placing :=
  let mates := if r.isAppend then all.filter fun o => o.isAppend && o ≠ r && !p.has o && o.sig = r.sig && p.own all o = some size &&
    o.rest.take (r.g + size) = r.rest.take (r.g + size) else []
  { p with placed := p.placed ++ [(r :: mates, size)], budget := p.budget - cost }

/-- The order of the aging pass: descending WAITS, then agent, then issue order (R274). -/
def Run.older (a b : Run) : Bool :=
  decide (b.waits < a.waits) || (a.waits = b.waits && (decide (a.agent < b.agent) ||
    (a.agent = b.agent && decide (a.seq ≤ b.seq))))

/-- The aging pass (R274): each least step costs 1, one that only takes matched blocks too. -/
def agingPass (all : List Run) (p : Placing) : Placing :=
  (sortBy Run.older (all.filter fun r => decide (3 ≤ r.waits))).foldl
    (fun p r => if p.has r || p.budget = 0 then p else p.put all r (min 1 r.max) 1) p

/-- One agent's share of a pass (R274). -/
def agentPass (all : List Run) (p : Placing) (a : Nat) : Placing :=
  let mine := sortBy (fun x y => decide (x.seq ≤ y.seq)) (all.filter fun r => r.agent = a)
  if mine.all p.has then p
  else
    let p := { p with deficit := Table.set p.deficit a (p.due all a), turns := p.turns ++ [a] }
    mine.foldl (fun p r =>
      if p.has r then p
      else
        let d := Table.get p.deficit a 0
        match r.fits (min d p.budget) with
        | some size => { p.put all r size size with deficit := Table.set p.deficit a (d - size), last := some a }
        | none => p) p

/-- Passes until one places nothing (R274). -/
def robinPasses (all : List Run) (order : List Nat) : Nat → Placing → Placing
  | 0, p => p
  | fuel + 1, p =>
    let q := order.foldl (agentPass all) { p with turns := [], aging := false }
    if q.placed.length = p.placed.length then q else robinPasses all order fuel q

/-- Places the steps of one model group with the partition's budget, from deficits that the groups of the partition share (R274). -/
def State.placeGroup (s : State) (part : Nat) (all : List Run) (deficit : Table Nat) (h : Nat) : Placing :=
  let all := all.filter fun r => r.group = h
  let agents := sortBy (fun a b => decide (a ≤ b)) (all.map (·.agent)).eraseDups
  let ptr := Table.get (s.iter part).pointers h 0
  let order := agents.filter (fun a => decide (ptr ≤ a)) ++ agents.filter fun a => decide (a < ptr)
  robinPasses all order (all.length + 1) (agingPass all ⟨[], s.budgetOf part, deficit, none, [], true⟩)

/-- Places the steps of an iteration: the placement of each model group that has a runnable entry, and the agents' deficits. -/
def State.place (s : State) (part : Nat) : List (Nat × Placing) × Table Nat :=
  let all := s.runs part
  let start : Table Nat := (sortBy (fun a b => decide (a ≤ b)) (all.map (·.agent)).eraseDups).map fun a =>
    (a, ((s.agent a).map (·.deficit)).getD 0)
  (sortBy (fun a b => decide (a ≤ b)) (all.map (·.group)).eraseDups).foldl (fun acc h =>
    let p := s.placeGroup part all acc.2 h
    (acc.1 ++ [(h, p)], p.deficit)) ([], start)

/-! ### The build (R223, R224, R250, R252, R258, R261, R270) -/

/-- A step as it is placed. -/
def Run.step (r : Run) (size held : Nat) : Step where
  entry := r.key
  agent := r.agent
  seq := r.seq
  ctx := r.ctx
  lead := r.key
  g := r.g
  c := if r.isGen then held else size
  spec := r.isGen && decide (1 < size)
  scratch := []
  drafts := []
  fault := none
  failed := false

/-- The instruction of a step. -/
def State.stepInst (s : State) (t : Step) : Option (Agent × LongInst) :=
  (s.agent t.agent).bind fun g => (g.flight.find? fun l => l.seq = t.seq).map fun l => (g, l)

/-- Copies a block for copy-on-write; true when an error ended the copy (R187, R223). -/
def State.copyBlock (s : State) (c : Context) (m : Model) (old new : Nat) : Bool × State :=
  let base := bits (s.part c.part).kvbase 47 0
  let x := Xfer.move (s.iterEng c.part c.ten) (base + old * m.blkb) (base + new * m.blkb) m.blkb ⟨s, [], 0, 0⟩
  (x.code ≠ 0, x.s)

/-- Sets fault or failure in every step of a group. -/
def markAll (fault : Option Nat) (failed : Bool) (l : List Step) : List Step :=
  l.map fun t => { t with fault := if t.fault.isSome then t.fault else fault, failed := t.failed || failed }

/-- A step of a group has met a fault or an error. -/
def lost (l : List Step) : Bool := l.any fun t => t.fault.isSome || t.failed

/-- A step whose context has its block table or sampling record outside the partition's region, or whose model is not bound, ends with
an error (R278, R314). -/
def State.reachable (s : State) (l : List Step) : List Step :=
  markAll none (l.any fun t => match s.context t.ctx with
    | some c => !s.ctxInRegion c || (s.modelOf c).isNone
    | none => true) l

/-- The instruction of a step, as look-ahead names it: no other at its apc is older. -/
def State.planKey (s : State) (t : Step) : Option Plan := (s.stepInst t).map fun x => ⟨t.agent, x.2.apc, 0⟩

/-- The plan holds of instructions end. -/
def State.dropHolds (s : State) (ps : List Plan) : State :=
  { s with nodes := s.nodes.map fun x => { x with holds := x.holds.filter fun h => !ps.contains h.1 } }

/-- Graft matches of a group (R250): entries take the nodes' blocks, the nodes' last use becomes this iteration, and the plan holds of the
members end (R268). -/
def State.buildMatch (s : State) (it : Nat) (l : List Step) : State :=
  match l.head? with
  | none => s
  | some t =>
    if lost l then s else
    match s.stepInst t, s.context t.ctx with
    | some (g, i), some c =>
      match i.op with
      | .append _ sb k =>
        let ns := s.chain c ((s.tokens g sb).drop (g.getA k).toNat)
        let s := s.modNodes (ns.map (·.id)) fun n => { n with last := it }
        let s := s.dropHolds (l.filterMap s.planKey)
        l.foldl (fun s t => match s.context t.ctx with
          | some c => ((List.range ns.length).zip ns).foldl (fun s e => s.setEntry it c (c.len / 16 + e.1) e.2.pbn) s
          | none => s) s
      | _ => s
    | _, _ => s

/-- The positions that a group computes in its contexts: first and count. A SCORE, and a GEN step without a held token, compute
none there. -/
def State.groupSpan (s : State) (t : Step) : Nat × Nat :=
  match s.stepInst t, s.context t.ctx with
  | some (_, i), some c =>
    match i.op with
    | .append _ _ _ => (c.len + t.g, t.c)
    | .gen _ _ _ => (c.len, if t.c = 0 then 0 else if t.spec then s.draftsOf c + 1 else 1)
    | _ => (0, 0)
  | _, _ => (0, 0)

/-- A group's block j may not be written in place: other entries hold it, or a node maps it (R223, R270). -/
def State.mustCopy (s : State) (part members pbn : Nat) : Bool :=
  pbn ≠ noBlock && (decide (members < (s.block pbn).count) || (s.mapped part pbn).isSome)

/-- Gives block j of every member a new block; the old contents are copied first when they hold committed positions. The entries are
switched last, and not when an error ended the copy: the new block is then FREE again (R187, R223). -/
def State.newBlock (s : State) (it : Nat) (m : Model) (l : List Step) (c : Context) (agent apc j : Nat) :
    Option Nat × Bool × State :=
  match s.allocBlock c.part agent apc with
  | none => (some aQuota, false, s)
  | some (b, s) =>
    let old := s.entry c j
    let (bad, s) := if old ≠ noBlock && 16 * j < c.len then s.copyBlock c m old b else (false, s)
    if bad then (none, true, { s with blocks := Table.erase s.blocks b })
    else (none, false, l.foldl (fun s t => match s.context t.ctx with
      | some c => s.setEntry it c j b
      | none => s) s)

/-- The copy-on-write decision of a group (R223, R224): its first block. -/
def State.buildCow (s : State) (it : Nat) (l : List Step) : List Step × State :=
  match l.head? with
  | none => (l, s)
  | some t =>
    let (p, n) := s.groupSpan t
    match s.stepInst t, s.context t.ctx with
    | some (_, i), some c =>
      match s.modelOf c with
      | some m =>
        if !lost l && n ≠ 0 && s.mustCopy c.part l.length (s.entry c (p / 16)) then
          let (f, bad, s) := s.newBlock it m l c t.agent i.apc (p / 16)
          (markAll f bad l, s)
        else (l, s)
      | none => (markAll none true l, s)
    | _, _ => (l, s)

/-- Allocates scratch blocks until a list has `n`; each is counted while it is held (R218). -/
def State.growScratch (s : State) (part agent apc : Nat) : Nat → List Nat → Option Nat × List Nat × State
  | 0, l => (none, l, s)
  | n + 1, l =>
    match s.allocBlock part agent apc with
    | none => (some aQuota, l, s)
    | some (b, s) => (s.raiseBlock b).growScratch part agent apc n (l ++ [b])

/-- Changes an instruction in flight. -/
def State.modInst (s : State) (t : Step) (f : LongInst → LongInst) : State :=
  s.modAgent t.agent fun g => { g with flight := g.flight.map fun l => if l.seq = t.seq then f l else l }

/-- Scratch blocks of a SCORE step (R252): the copy of the partial last block, and those that the step's positions need. When the
copy fails, nothing of them is kept, and the next try copies again. -/
def State.buildScore (s : State) (t : Step) (g : Agent) (i : LongInst) (c : Context) (m : Model) (k : Nat) :
    Option Nat × Bool × State :=
  let pos := scoreStart c (g.getA k).toNat i
  let top := pos + t.c - 1
  let need := max (if c.len ≤ top && t.c ≠ 0 then top / 16 - c.len / 16 + 1 else 0) (b2n (c.len % 16 ≠ 0))
  let (f, scr, s) := s.growScratch c.part t.agent i.apc (need - i.scratch.length) i.scratch
  let (bad, s) := if i.scratch.isEmpty && c.len % 16 ≠ 0 && !scr.isEmpty then
      s.copyBlock c m (s.entry c (c.len / 16)) (scr.getD 0 0) else (false, s)
  if bad then (f, true, s.dropScratch c.part scr)
  else (f, false, s.modInst t fun l => { l with scratch := scr, pos := if f.isSome then l.pos else some pos })

/-- Allocations of a group (R250, R252, R258, R261, R270). -/
def State.buildAlloc (s : State) (it : Nat) (l : List Step) : List Step × State :=
  match l.head? with
  | none => (l, s)
  | some t =>
    if lost l then (l, s)
    else
      match s.stepInst t, s.context t.ctx with
      | some (g, i), some c =>
        match s.modelOf c with
        | none => (markAll none true l, s)
        | some m =>
          match i.op with
          | .score _ _ _ k =>
            let (f, bad, s) := s.buildScore t g i c m k
            (markAll f bad l, s)
          | _ =>
            let (p, n) := s.groupSpan t
            let blocks := if n = 0 then [] else (List.range ((p + n - 1) / 16 - p / 16 + 1)).map (p / 16 + ·)
            let (l, s) := blocks.foldl (fun (acc : List Step × State) j =>
              let (l, s) := acc
              let e := s.entry c j
              if lost l || (e ≠ noBlock && !s.mustCopy c.part l.length e) then acc
              else
                let (f, bad, s) := s.newBlock it m l c t.agent i.apc j
                (markAll f bad l, s)) (l, s)
            if t.spec && !lost l then
              let (f, scr, s) := s.growScratch c.part t.agent i.apc (ceilDiv (c.len + s.draftsOf c) 16 - ceilDiv c.len 16) []
              (markAll f false (l.map fun t => { t with scratch := scr }), s)
            else (l, s)
      | _, _ => (l, s)

/-- Publishes the view of a step, and the draft view of a speculative one (R189). -/
def State.publish (s : State) (t : Step) : State :=
  match s.stepInst t, s.context t.ctx with
  | some (_, i), some c =>
    let view := fun (s : State) lim j0 late => { s with views := Table.set s.views t.ctx ⟨lim, c.btab, j0, late⟩ }
    match i.op with
    | .append _ _ _ => view s (c.len + t.g + t.c) 0 []
    | .score _ _ _ _ =>
      let top := i.pos.getD 0 + t.c
      view s (max top c.len) (c.len / 16) i.scratch
    | _ =>
      let dn := s.draftsOf c
      if t.spec then
        let s := view s (c.len + dn + 1) 0 []
        { s with drafts := Table.set s.drafts t.ctx ⟨c.len + dn, c.btab, ceilDiv c.len 16, t.scratch⟩ }
      else view s (c.len + t.c) 0 []
  | _, _ => s

/-! ### The work of the kernels (R12 steps 3 and 4, R13, R250, R252, R258, R261) -/

/-- The block of a context at index `j`, with an overlay from `j0` on (R189). -/
def State.overlaid (s : State) (c : Context) (j0 : Nat) (lay : List Nat) (j : Nat) : Nat :=
  if j0 ≤ j then lay.getD (j - j0) noBlock else s.entry c j

/-- The tokens of the positions of a SCORE step that write KV: the tokens before them, and their inputs (R252). -/
def scoreInputs (c : Context) (pos n : Nat) (cand : List Nat) : List Nat × List Nat :=
  let wr := ((List.range n).map (pos + ·)).filter fun q => decide (c.len ≤ q)
  let from_ := (wr.head?.getD c.len) - c.len
  (c.toks ++ cand.take from_, (cand.drop from_).take wr.length)

/-- The kernels' work on a group of steps, once for its leader (R270): the KV of every position that it computes, where the group's step
views show it. A speculative step first drafts at DPL planes into its scratch blocks. -/
def State.runKernels (s : State) (l : List Step) : List Step × State :=
  match l.head? with
  | none => (l, s)
  | some t =>
    match (if lost l then none else s.stepInst t), s.context t.ctx with
    | some (g, i), some c =>
      match s.kernel c with
      | none => (markAll none true l, s)
      | some k =>
        let pl := s.planesOf c k.m
        match i.op with
        | .append _ sb r =>
          let ts := ((s.tokens g sb).drop (g.getA r).toNat).take (t.g + t.c)
          let (x, s) := s.writeKvs k pl (s.entry c) (c.toks ++ ts.take t.g) (ts.drop t.g) 0
          (markAll none (x ≠ 0) l, s)
        | .score _ _ sc _ =>
          let (before, ins) := scoreInputs c (i.pos.getD 0) t.c (s.tokens g sc)
          let (x, s) := s.writeKvs k pl (s.overlaid c (c.len / 16) i.scratch) before ins 0
          (markAll none (x ≠ 0) l, s)
        | .gen _ _ _ =>
          match i.held with
          | none => (l, s)
          | some t0 =>
            if t.spec then
              let dn := s.draftsOf c
              let (gs, rs) := s.draftTokens k t0 dn
              let s := s.countDraw c.part rs
              let (x, s) := s.writeKvs k (recField (s.sampling c) 1 15 12) (s.overlaid c (ceilDiv c.len 16) t.scratch) c.toks
                (t0 :: gs.take (dn - 1)) 0
              let (x, s) := s.writeKvs k pl (s.entry c) c.toks (t0 :: gs) x
              (markAll none (x ≠ 0) (l.map fun t => { t with drafts := gs }), s)
            else
              let (x, s) := s.writeKvs k pl (s.entry c) c.toks [t0] 0
              (markAll none (x ≠ 0) l, s)
        | _ => (l, s)
    | _, _ => (l, s)

/-- The launch of a step asks for its mask (R263). -/
def State.launchStep (s : State) (t : Step) : State :=
  match s.stepInst t, s.context t.ctx with
  | some (_, i), some c =>
    if opCode i.op = 0x29 && c.maskOn && t.fault.isNone && !t.failed then s.askMask t.ctx c (c.len + t.c) else s
  | _, _ => s

/-- The least context of a group. -/
def groupCtx (l : List Step) : Nat := (l.map (·.ctx)).foldl min 262144

/-- A coalesced set with its leader, the first, noted in every member (R270). -/
def ledBy (l : List Step) : List Step := l.map fun t => { t with lead := (l.head?.map (·.entry)).getD t.entry }

/-- Members in ascending context number; the first leads (R270). -/
def leadFirst (l : List Step) : List Step := sortBy (fun a b => decide (a.ctx ≤ b.ctx)) l

/-- Folds a phase of the build over the groups in ascending context number. -/
def State.phase (s : State) (f : State → List Step → List Step × State) (gs : List (List Step)) : List (List Step) × State :=
  gs.foldl (fun acc l =>
    let (l', s) := f acc.2 l
    (acc.1 ++ [l'], s)) ([], s)

/-- Further modules of a model group of the running tenancy (R279). -/
def State.groupMembers (s : State) (part h : Nat) : Nat :=
  match s.model part (s.part part).cur h with
  | some m => m.nmod - 1
  | none => 0

/-- The built batch goes to every member on virtual channel 6 (R279). The flit stands for the multicast: its module number 16,384
names no single module. -/
def State.multicast (s : State) (part it : Nat) (bs : List Batch) : State :=
  (bs.filter fun b => b.members ≠ 0).foldl (fun s b => s.send
    { port := 0, source := s.moduleNum, module := 16384, sender := part, part := part, ten := (s.part part).cur
      key := (s.part part).fabkey, vc := 6, body := .batch b.group it }) s

/-- The batch-table entries of a partition as a build leaves them: those placed are PLACED; a failure counts only in consecutive
iterations (R271, R278). -/
def State.markPlaced (s : State) (part : Nat) (keys : List Nat) : State :=
  let mine := (s.entriesOf part).map (·.1)
  s.mapBatch fun n e =>
    if keys.contains n then { e with st := 2, waits := 0 }
    else if mine.contains n then { e with st := if e.st = 2 then 1 else e.st, fails := 0 }
    else e

/-- Builds and launches the batches of iteration `it` (R12 steps 2 to 4, R277). -/
def State.build (s : State) (part it : Nat) : State :=
  let (ps, deficit) := s.place part
  let heldOf := fun (r : Run) => match (s.agent r.agent).bind fun g => g.flight.find? fun l => l.seq = r.seq with
    | some l => b2n l.held.isSome
    | none => 0
  let groups := ps.flatMap fun p => p.2.placed.map fun g => ledBy (leadFirst (g.1.map fun r => r.step g.2 (heldOf r)))
  let groups := (sortBy (fun a b => decide (groupCtx a ≤ groupCtx b)) groups).map s.reachable
  let keys := groups.flatMap fun l => l.map (·.entry)
  let s := s.markPlaced part keys
  let s := s.mapAgents fun n g => if g.part = part then { g with deficit := Table.get deficit n 0 } else g
  let s := groups.foldl (fun s l => s.buildMatch it l) s
  let (groups, s) := s.phase (fun s l => s.buildCow it l) groups
  let (groups, s) := s.phase (fun s l => s.buildAlloc it l) groups
  let s := groups.flatten.foldl State.publish s
  let (groups, s) := s.phase State.runKernels groups
  let steps := leadFirst groups.flatten
  let batches := ps.map fun p =>
    { group := p.1, steps := steps.filter fun t => ((s.context t.ctx).map (·.model)) = some p.1
      members := s.groupMembers part p.1, reports := [], pauses := [] : Batch }
  let s := s.modIter part fun i => { i with
    num := it, running := true, cycle := s.cycle, time := s.ftime, batches := batches, placed := keys, rest := false
    pointers := ps.foldl (fun t p => match p.2.last with
      | some a => Table.set t p.1 (a + 1)
      | none => t) i.pointers }
  (steps.foldl State.launchStep s).multicast part it batches

/-! ### The snapshot (R277 step 1) -/

/-- Frees the contexts of a halting agent and posts its HALT record (R233). -/
def State.haltAgent (s : State) (it n : Nat) : State :=
  match s.agent n with
  | none => s
  | some g =>
    let ds := (s.contexts.filter fun e => e.2.owner = n && e.2.part = g.part && e.2.ten = g.ten && e.2.st = 1).map (·.1)
    let s := ds.foldl (fun s d => s.releaseCtx it d) s
    (s.setAgent n { g with st := 4, k := [] }).postTo (s.boundFn g.part)
      [recordHead 3 g.ten g.part, word n, g.halt, 0, 0, 0, 0, 0]

/-- One-step instructions that have issued, in ascending agent number and issue order (R240, R277). -/
def State.pendingSteps (s : State) (part : Nat) : List (Nat × Nat) :=
  (s.agents.filter fun e => e.2.part = part && e.2.st = 1).flatMap fun e =>
    (e.2.flight.filter fun l => !opStepped l.op && !opAwaits l.op && !l.done).map fun l => (e.1, l.seq)

/-- Applies one of them. It gives up its entry at once (R271). -/
def State.takeStep (s : State) (it : Nat) (x : Nat × Nat) : State :=
  match s.agent x.1 with
  | none => s
  | some g =>
    match g.flight.find? fun l => l.seq = x.2 with
    | some l =>
      let s := match l.entry with
        | some n => { s with batch := Table.erase s.batch n }
        | none => s
      let s := s.modAgent x.1 fun g => { g with flight := g.flight.map fun y => if y.seq = x.2 then { y with entry := none } else y }
      s.oneStep it x.1 g l
    | none => s

/-- Reads every entry (R272) and counts WAITS for each runnable one that the previous iteration did not place (R274). -/
def State.readEntries (s : State) (part : Nat) : State :=
  let mine := (s.entriesOf part).map (·.1)
  let s := s.mapBatch fun n e => if mine.contains n then e.shadow else e
  let run := (s.runs part).map (·.key)
  let placed := (s.iter part).placed
  s.mapBatch fun n e => if run.contains n && !placed.contains n then { e with waits := min (e.waits + 1) 255 } else e

/-- The engine context of the partition's iteration engine (R279, R331). -/
def State.iterKey (s : State) (p : Nat) : Nat := ctxKey p (s.part p).cur 13 (s.iterDie p)

/-- The tenancy's agents run, and the engine stands between iterations and waits for no translation. -/
def State.mayIterate (s : State) (part : Nat) : Bool :=
  part ≠ 0 && !(s.iter part).running && decide ((s.part part).cur < 4) && !(s.part part).switching &&
    (s.engCtx (s.iterKey part)).stall.isNone

/-- The snapshot, the build and the launch of iteration `it`. Blocks leave GRACE first. The settings that wait take effect behind the
one-step instructions, an order that R277 does not give (DESIGN CHOICE, log entry 68): so no setting takes the model from a CTXNEW
that has issued. -/
def State.snapshot (s : State) (p it : Nat) : State :=
  let s := s.modIter p fun i => { i with num := it }
  let s := s.endGrace p it
  let halts := (s.agents.filter fun e => e.2.part = p && e.2.st = 3).map (·.1)
  let s := halts.foldl (fun s n => s.haltAgent it n) s
  let s := (s.freeEntries p).readEntries p
  let s := (s.pendingSteps p).foldl (fun s x => s.takeStep it x) s
  let s := (s.applySettings p it).fitTrees p it
  let mine := (s.entriesOf p).map (·.1)
  let s := s.mapBatch fun n e => if mine.contains n then e.holdStep else e
  s.build p it

/-- ITERATION_SNAPSHOT (R12, R277): the partition's next iteration starts, or its engine stalls for a translation (R331) and tries again
once it has the answer. -/
def execIterationSnapshot (p : Nat) (s : State) : Result :=
  if s.mayIterate p then .next (s.noMiss.engTry (s.iterKey p) fun s => s.snapshot p ((s.iter p).num + 1)) else .next s

/-- GRACE_PERIOD_END (R218, R245, R277): blocks and descriptors leave GRACE and RELEASING at a snapshot and as its first act, so the
event lands as that snapshot. -/
def execGracePeriodEnd (p : Nat) (s : State) : Result :=
  if s.graceDue p ((s.iter p).num + 1) then execIterationSnapshot p s else .next s

/-- Work that waits for a snapshot: entries, halts, settings, agents that a switch has brought in, and what waits in GRACE. -/
def State.wantsIteration (s : State) (p : Nat) : Bool :=
  s.mayIterate p && (!(s.entriesOf p).isEmpty || s.agents.any (fun e => e.2.part = p && e.2.st = 3) ||
    !(s.part p).pendingCfg.isEmpty || (s.iter p).rest || s.inGrace p)

/-! ### The commit (R12, R250, R252, R258, R260, R277, R278) -/

/-- Gives up what a step built beyond its context's committed length, and its draft blocks (R243). -/
def State.discard (s : State) (it : Nat) (t : Step) : State :=
  match s.stepInst t, s.context t.ctx with
  | some (g, i), some c =>
    let s := s.dropScratch g.part t.scratch
    if opCode i.op = 0x28 then s else s.clearFrom it c (ceilDiv c.len 16)
  | _, _ => s

/-- A step that commits nothing because its work failed (R278): its entry is PENDING again, and HELD after the third time. -/
def State.failStep (s : State) (p it : Nat) (t : Step) : State :=
  let s := s.discard it t
  match Table.find? s.batch t.entry with
  | none => s
  | some e =>
    if 3 ≤ e.fails + 1 then
      let s := s.modEntry t.entry fun e => { e with st := 4, fails := 0, engHeld := true }
      s.postTo (s.boundFn p) [recordHead 6 (s.part p).cur p, word (t.entry / 8192), word (t.entry % 8192), 0, 0, 0, 0, 0]
    else s.modEntry t.entry fun e => { e with st := 1, fails := e.fails + 1 }

/-- A step whose instruction takes a fault commits nothing (R242). -/
def State.faultStep (s : State) (it : Nat) (t : Step) (code : Nat) : State :=
  match s.stepInst t with
  | some (_, i) => (s.discard it t).pendFault t.agent code i.apc
  | none => s

/-- The step has not failed: the count of consecutive failures starts again (R278). -/
def State.stepOk (s : State) (t : Step) : State := s.modEntry t.entry fun e => { e with fails := 0 }

/-- The entry of a completed instruction is DRAINING, and its scratch blocks enter GRACE (R243, R277). -/
def State.completeStep (s : State) (p : Nat) (t : Step) : State :=
  match s.stepInst t with
  | some (_, i) =>
    let s := s.dropScratch p i.scratch
    let s := s.modInst t fun l => { l with scratch := [], held := none, pos := none }
    (s.modEntry t.entry fun e => { e with st := 3 }).finishLong t.agent t.seq
  | none => s

/-- Graft insertion of the blocks that a commit completed (R220). -/
def State.insertBlocks (s : State) (it d before : Nat) : State :=
  match s.context d with
  | some c => ((List.range (c.len / 16)).filter fun j => decide (before / 16 ≤ j)).foldl (fun s j => s.insertNode c j it) s
  | none => s

/-- Commit of an APPEND step (R250). -/
def State.commitAppend (s : State) (p it : Nat) (t : Step) (g : Agent) (c : Context) (sb k : Nat) : State :=
  let i := (g.getA k).toNat
  let n := t.g + t.c
  let ts := ((s.tokens g sb).drop i).take n
  let s := s.stepOk t
  let s := s.setCtx t.ctx { c with len := c.len + n, totLeft := c.totLeft - n, toks := c.toks ++ ts }
  let s := s.modAgent t.agent (·.setA k (word (i + n)))
  let s := s.insertBlocks it t.ctx c.len
  if strLen (g.getS sb) ≤ i + n then s.completeStep p t else s

/-- The sums of a SCORE step over its positions: fA and aD (R252, R253). -/
def scoreSums (lam : Nat → BitVec 32) (len : Nat) : List Nat → Nat × Nat → Nat × Nat
  | [], acc => acc
  | p :: ps, (f, m) =>
    let j := p + 1 - len
    if j < m then scoreSums lam len ps (f, m)
    else scoreSums lam len ps ((fmtF32.add f (lam j).toNat).bits, m + 1)

/-- Commit of a SCORE step (R252, R253). -/
def State.commitScore (s : State) (p : Nat) (t : Step) (g : Agent) (i : LongInst) (kn : Kernel) (fa sc k : Nat) : State :=
  let c := kn.c
  let cand := s.tokens g sc
  let pos := i.pos.getD 0
  let lam := fun j => Config.logProb kn.m.desc kn.w (s.planesOf c kn.m) (c.toks ++ cand.take j) (cand.getD j 0)
  let (f, n) := scoreSums lam c.len ((List.range t.c).map (pos + ·)) ((g.getF fa).toNat, (g.getA k).toNat)
  let s := (s.stepOk t).modAgent t.agent fun g => (g.setF fa (BitVec.ofNat 32 f)).setA k (word n)
  let s := s.modInst t fun l => { l with pos := some (pos + t.c) }
  if cand.length ≤ n then s.completeStep p t else s

/-- How many tokens of a proposed list a GEN commits (R260). -/
def genCount (r : List Word) (budget : Nat) (c : Context) (ts : List Nat) : Nat :=
  let stop := match ts.findIdx? (· = recField r 4 63 32) with
    | some i => if bit (r.getD 4 0) 0 then i + 1 else ts.length
    | none => ts.length
  min (min (min ts.length budget) (min c.newLeft c.totLeft)) stop

/-- Commits a proposed list of tokens, with LATE in the context's status if the draw was late; the next held token is `next` unless GEN
completes (R258, R260, R263). With more tokens than sB has room for, it commits nothing. -/
def State.commitTokens (s : State) (p it : Nat) (t : Step) (g : Agent) (c : Context) (late : Bool) (sb k : Nat) (ts : List Nat)
    (next : Nat) : State :=
  let r := s.sampling c
  let w := g.getS sb
  let n := genCount r (g.getA k).toNat c ts
  let ts := ts.take n
  if strCap w < strLen w + n then s.faultStep it t aLimit
  else
    let c' := { c with len := c.len + n, toks := c.toks ++ ts, rngCtr := c.rngCtr + word n, newLeft := c.newLeft - n
                       totLeft := c.totLeft - n, late := c.late || late }
    let stopped := bit (r.getD 4 0) 0 && ts.getLast? = some (recField r 4 63 32)
    let left := if stopped then 0 else (g.getA k).toNat - n
    let done := left = 0 || c'.newLeft = 0 || c'.totLeft = 0
    let s := ((s.stepOk t).dropScratch p t.scratch).setCtx t.ctx c'
    let s := (s.store g [tokensAt w (strLen w) ts]).modAgent t.agent fun g =>
      (g.setS sb (strWith w (strLen w + n))).setA k (word (if done then 0 else left))
    let s := (s.insertBlocks it t.ctx c.len).clearFrom it c' (ceilDiv c'.len 16)
    if done then s.completeStep p t else s.modInst t fun l => { l with held := some next }

/-- Commit of a GEN step (R258, R261, R263). -/
def State.commitGen (s : State) (p it : Nat) (t : Step) (g : Agent) (i : LongInst) (kn : Kernel) (sb k : Nat) : State :=
  let c := kn.c
  let pol := recField (s.sampling c) 1 9 8
  let mask := if c.maskOn then s.maskFor c (c.len + t.c) else none
  let late := c.maskOn && mask.isNone
  if late && pol = 1 then (s.stepOk t).discard it t
  else if late && pol = 2 then s.faultStep it t aMaskLate
  else
    match i.held with
    | none =>
      let (tok, rs) := s.drawAfter kn mask []
      let s := (s.stepOk t).countDraw p rs
      (s.modCtx t.ctx fun c => { c with late := c.late || late }).modInst t fun l => { l with held := some tok }
    | some t0 =>
      if t.spec then
        let (us, j, rs) := s.verify kn t0 t.drafts
        (s.countDraw p rs).commitTokens p it t g c late sb k (t0 :: t.drafts.take j) (us.getD j 0)
      else
        let (tok, rs) := s.drawAfter kn mask [t0]
        (s.countDraw p rs).commitTokens p it t g c late sb k [t0] tok

/-- Commits one step (R277 step 6). -/
def State.commitStep (s : State) (p it : Nat) (t : Step) : State :=
  match s.stepInst t, s.context t.ctx with
  | some (g, i), some c =>
    match t.fault with
    | some code => s.faultStep it t code
    | none =>
      match (if t.failed then none else s.kernel c) with
      | none => s.failStep p it t
      | some kn =>
        match i.op with
        | .append _ sb k => s.commitAppend p it t g c sb k
        | .score fa _ sc k => s.commitScore p t g i kn fa sc k
        | .gen _ sb k => s.commitGen p it t g i kn sb k
        | _ => s
  | _, _ => s

/-- The step views of a batch's contexts go (R189). -/
def State.dropViews (s : State) (b : Batch) : State :=
  let ds := b.steps.map (·.ctx)
  { s with views := s.views.filter fun e => !ds.contains e.1, drafts := s.drafts.filter fun e => !ds.contains e.1 }

/-- A batch has ended: its views go, and with the last one the iteration ends and the token boundary follows (R189, R240). -/
def State.endBatch (s : State) (p : Nat) (b : Batch) : State :=
  let rest := (s.iter p).batches.filter (·.group ≠ b.group)
  let s := (s.dropViews b).modIter p fun i => { i with
    running := !rest.isEmpty, batches := rest, cycle := if rest.isEmpty then s.cycle else i.cycle }
  if rest.isEmpty then s.boundary p else s

/-- Members that have reported. -/
def Batch.heard (b : Batch) : List Nat := (b.reports.map (·.1)).eraseDups

/-- Members that have not reported. -/
def Batch.missing (b : Batch) : Nat := b.members - b.heard.length

/-- A member has reported an error (R279). -/
def Batch.erred (b : Batch) : Bool := b.reports.any fun r => r.2 ≠ 0

/-- Every masked draw has its mask, or its wait limit has passed (R263). -/
def State.masksSettled (s : State) (launch : Nat) (b : Batch) : Bool :=
  b.steps.all fun t => match s.context t.ctx, s.stepInst t with
    | some c, some (_, l) => opCode l.op ≠ 0x29 || !c.maskOn || t.fault.isSome || t.failed || s.maskSettled c launch
    | _, _ => true

/-- A batch can end: a member has reported an error, or every member has reported its shards complete and the sampler has run. -/
def State.batchEnds (s : State) (p : Nat) (b : Batch) : Bool :=
  b.erred || (b.missing = 0 && s.masksSettled (s.iter p).cycle b)

/-- The batch that commits next; an iteration without one ends with an empty batch. -/
def State.nextBatch (s : State) (p : Nat) : Option Batch :=
  let i := s.iter p
  if !i.running then none
  else if i.batches.isEmpty then some ⟨0, [], 0, [], []⟩
  else i.batches.find? (s.batchEnds p)

/-- Some batch of the running iteration can commit. -/
def State.mayCommit (s : State) (p : Nat) : Bool := (s.nextBatch p).isSome

/-- Commits nothing for any step of a batch, and counts a failure against each (R279). -/
def State.failBatch (s : State) (p : Nat) (b : Batch) : State :=
  (b.steps.foldl (fun s t => s.failStep p (s.iter p).num t) s).endBatch p b

/-- ITERATION_COMMIT (R12, R277, R279): the placed steps of a model group commit in ascending context number, unless a member reported
an error. -/
def execIterationCommit (p : Nat) (s : State) : Result :=
  match s.nextBatch p with
  | none => .next s
  | some b =>
    .next (if b.erred then s.failBatch p b
      else (b.steps.foldl (fun s t => s.commitStep p (s.iter p).num t) s).endBatch p b)

/-- An iteration that a tenancy switch interrupts commits nothing, and counts no failure (R324). -/
def State.abortIteration (s : State) (p : Nat) : State :=
  let i := s.iter p
  if !i.running then s
  else
    let s := i.batches.foldl (fun s b =>
      (b.steps.foldl (fun s t => (s.discard i.num t).modEntry t.entry fun e => { e with st := 1 }) s).dropViews b) s
    s.modIter p fun i => { i with running := false, batches := [] }

/-! ### Model groups (R279) -/

/-- Changes the running batch of a model group. -/
def State.modBatch (s : State) (p h : Nat) (f : Batch → Batch) : State :=
  s.modIter p fun i => { i with batches := i.batches.map fun b => if b.group = h then f b else b }

/-- The kernels' work on a placed step ends with a fault or an error: that of every member of its coalesced set (R270, R278). -/
def State.stepError (s : State) (p n : Nat) : State :=
  s.modIter p fun i => { i with batches := i.batches.map fun b =>
    let leads := (b.steps.filter fun t => t.entry = n).map (·.lead)
    { b with steps := b.steps.map fun t => if leads.contains t.lead then { t with failed := true } else t } }

/-- A tenancy switch pauses a member at the time named, or brings it back. -/
def Batch.pause (b : Batch) (now member : Nat) (on : Bool) : Batch :=
  let x := (b.pauses.find? fun x => x.member = member).getD ⟨member, 0, none⟩
  let x' : Pause := match x.since with
    | some t => if on then x else { x with total := x.total + (now - t), since := none }
    | none => if on then { x with since := some now } else x
  { b with pauses := b.pauses.filter (fun y => y.member ≠ member) ++ [x'] }

/-- A member of a model group is paused by a tenancy switch, or goes on. -/
def State.memberPause (s : State) (p h member : Nat) (on : Bool) : State := s.modBatch p h fun b => b.pause s.ftime member on

/-- The work on a batch that this module runs as a member ends with an error. -/
def State.shardError (s : State) (p h it code : Nat) : State :=
  s.modIter p fun i => { i with jobs := i.jobs.map fun j => if j.group = h && j.iter = it then { j with code := code } else j }

/-- BATCH_MULTICAST (R279): this module, as a member of a group of partition `p`, takes the next batch and launches its shards. -/
def execBatchMulticast (p : Nat) (s : State) : Result :=
  match s.batchIn.find? fun f => f.part = p && s.tenRuns p f.ten with
  | some f =>
    let s := { s with batchIn := s.batchIn.erase f }
    match f.body with
    | .batch g it => .next (s.modIter p fun i => { i with jobs := i.jobs ++ [⟨g, it, f.source, f.port, f.ten, 0⟩] })
    | _ => .next s
  | none => .next s

/-- The oldest batch whose shards this module can report: while its tenancy is switched out, it waits (R324). -/
def State.nextJob (s : State) (p : Nat) : Option ShardJob := (s.iter p).jobs.find? fun j => s.tenRuns p j.ten

/-- SHARD_REPORT (R279): a member reports the oldest batch whose shards it has completed; on the lead, a report arrives. -/
def execShardReport (p : Nat) (s : State) : Result :=
  match s.nextJob p with
  | some j =>
    let s := s.modIter p fun i => { i with jobs := i.jobs.erase j }
    .next (s.send { port := j.port, source := s.moduleNum, module := j.lead, sender := p, part := p, ten := j.ten
                    key := (s.part p).fabkey, vc := 7, body := .report j.group j.iter s.moduleNum j.code })
  | none =>
    match s.reportIn.find? fun f => f.part = p with
    | some f =>
      let s := { s with reportIn := s.reportIn.erase f }
      match f.body with
      | .report g it member code =>
        .next (if (s.iter p).running && (s.iter p).num = it then
            s.modBatch p g fun b => { b with reports := b.reports ++ [(member, code)] } else s)
      | _ => .next s
    | none => .next s

/-- TLIM of a group of the running iteration, in ns (R217, R279). -/
def State.groupLimit (s : State) (p h : Nat) : Nat :=
  match s.model p (s.part p).cur h with
  | some m => m.tlim * 1000
  | none => 0

/-- A pause excuses its member at a time that is `limit` after the batch's launch: it stands, or has lasted so long that the member has had
less than its limit (R279). -/
def Pause.excuses (x : Pause) (limit now : Nat) : Bool := x.since.isSome || decide (now < limit + x.total)

/-- A member has not reported within the group's time limit, which does not run while a tenancy switch pauses the member. -/
def State.batchLate (s : State) (p : Nat) (b : Batch) : Bool :=
  let limit := (s.iter p).time + s.groupLimit p b.group
  decide ((b.pauses.filter fun x => !b.heard.contains x.member && x.excuses limit s.ftime).length < b.missing) && decide (limit ≤ s.ftime)

def State.lateBatch (s : State) (p : Nat) : Option Batch :=
  if (s.iter p).running then (s.iter p).batches.find? (s.batchLate p) else none

/-- Some group has not reported within its time limit. -/
def State.groupLate (s : State) (p : Nat) : Bool := (s.lateBatch p).isSome

/-- MODEL_GROUP_TIMEOUT (R279). -/
def execModelGroupTimeout (p : Nat) (s : State) : Result :=
  match s.lateBatch p with
  | some b => .next (s.failBatch p b)
  | none => .next s

end Sys2Proof.Machine
end

