-- ==== Sys2Proof/Machine/LookAhead.lean ====
section
/-! DEFINITION. Sys2Proof/Machine/LookAhead.lean: the agent sequencer fetches and issues the next instruction of an agent (R226,
R235), and looks ahead (R266-R268). -/

namespace Sys2Proof.Machine

/-! ### Fetch (R226) -/

/-- The instruction word at an agent's apc, or none at CODELEN or above. -/
def Agent.fetch (g : Agent) : Option Nat := if g.apc % 8 = 0 then (g.code[g.apc / 8]?).map (·.toNat) else none

/-- The encoding fault that the word or its apc decides alone (R226). -/
def Agent.encodingFault (g : Agent) : Option Nat :=
  match g.fetch with
  | none => some aBounds
  | some w => match decodeAgent w with
    | .ok _ => none
    | .error _ => some aIllegal

/-- An encoding fault is taken when every older instruction has retired (R226). -/
def State.takeEncodingFault (s : State) (n : Nat) : State :=
  match s.agent n with
  | some g =>
    match g.encodingFault with
    | some c => if s.issues g && g.flight.isEmpty then s.faultAgent n c g.apc else s
    | none => s
  | none => s

/-! ### The window (R266) -/

/-- Registers that a short instruction reads, and those that it writes: file (0 a, 2 s, 3 f) and number. -/
def shortRegs : Instr → List (Nat × Nat) × List (Nat × Nat)
  | .amovi a _ => ([], [(0, a)])
  | .amoviHi a _ => ([(0, a)], [(0, a)])
  | .aadd a b c | .asub a b c | .amul a b c => ([(0, b), (0, c)], [(0, a)])
  | .aaddi a b _ => ([(0, b)], [(0, a)])
  | .abeq a b _ | .abne a b _ | .ablt a b _ | .abge a b _ => ([(0, a), (0, b)], [])
  | .acall _ => ([], [(0, 31)])
  | .aret => ([(0, 31)], [])
  | .ald _ _ a b _ => ([(0, b)], [(0, a)])
  | .ast _ a b _ => ([(0, a), (0, b)], [])
  | .sload sa b _ => ([(0, b)], [(2, sa)])
  | .sstore sa b _ => ([(2, sa), (0, b)], [])
  | .sjoin sa sb => ([(2, sa), (2, sb)], [(2, sa)])
  | .slen a sb => ([(2, sb)], [(0, a)])
  | .stok a sb c => ([(2, sb), (0, c)], [(0, a)])
  | .stokW a sb c => ([(0, a), (2, sb), (0, c)], [(2, sb)])
  | .ssel sa sb c => ((0, c) :: (List.range (16 - sb)).map fun i => (2, sb + i), [(2, sa)])
  | .sclear sa => ([(2, sa)], [(2, sa)])
  | .fmovi fa _ => ([], [(3, fa)])
  | .fblt fa fb _ => ([(3, fa), (3, fb)], [])
  | .fbits a fb => ([(3, fb)], [(0, a)])
  | .fbitsF a fb => ([(0, a)], [(3, fb)])
  | .choose a fb n => ((List.range n.toNat).map fun i => (3, fb + i), [(0, a)])
  | .ctxlen a kb | .ctxstat a kb => ([(1, kb)], [(0, a)])
  | _ => ([], [])

/-- The effect of a short instruction on the private copy, with what it would store; POST and ANOP only move on. -/
def shortEffect (s : State) (g : Agent) : Instr → Effect
  | .amovi a imm => .ok ((g.setA a (sext imm)).past, [])
  | .amoviHi a imm => .ok (g.movHi a imm, [])
  | .aadd a b c => .ok (g.alu a b c (· + ·), [])
  | .asub a b c => .ok (g.alu a b c (· - ·), [])
  | .amul a b c => .ok (g.alu a b c (· * ·), [])
  | .aaddi a b imm => .ok ((g.setA a (g.getA b + sext imm)).past, [])
  | .abeq a b off => .ok (g.branch (g.getA a = g.getA b) off, [])
  | .abne a b off => .ok (g.branch (g.getA a ≠ g.getA b) off, [])
  | .ablt a b off => .ok (g.branch ((g.getA a).toInt < (g.getA b).toInt) off, [])
  | .abge a b off => .ok (g.branch ((g.getA b).toInt ≤ (g.getA a).toInt) off, [])
  | .ajmp off => .ok (g.hop off, [])
  | .acall off => .ok ((g.setA 31 (word (g.apc + 8))).hop off, [])
  | .aret => g.ret.map (·, [])
  | .ald sz sx a b off => (s.ald g sz sx a b off).map (·, [])
  | .ast sz a b off => g.ast (ESize.bytes sz) (g.getA a) b off
  | .sload sa b off => (s.sload g sa b off).map (·, [])
  | .sstore sa b off => g.ast 8 (g.getS sa) b off
  | .sjoin sa sb => s.join g sa sb
  | .slen a sb => .ok ((g.setA a (word (strLen (g.getS sb)))).past, [])
  | .stok a sb c => (s.stok g a sb c).map (·, [])
  | .stokW a sb c => g.stokW a sb c
  | .ssel sa sb c => (g.ssel sa sb c).map (·, [])
  | .sclear sa => .ok ((g.setS sa (strWith (g.getS sa) 0)).past, [])
  | .fmovi fa imm => .ok ((g.setF fa imm).past, [])
  | .fblt fa fb off => .ok (g.branch (fmtF32.cmp .lt (g.getF fa).toNat (g.getF fb).toNat) off, [])
  | .fbits a fb => .ok ((g.setA a (word (g.getF fb).toNat)).past, [])
  | .fbitsF a fb => .ok ((g.setF fb ((g.getA a).setWidth 32)).past, [])
  | .choose a fb n => .ok (g.choose a fb n.toNat, [])
  | .ctxlen a kb => match s.ctxOf g kb with
    | some (_, c) => .ok ((g.setA a (word c.len)).past, [])
    | none => .error aCtx
  | .ctxstat a kb => match s.ctxOf g kb with
    | some (d, c) => .ok ((g.setA a (s.ctxStatus d c)).past, [])
    | none => .error aCtx
  | _ => .ok (g.past, [])

/-- Bytes of agent memory: first and end. -/
abbrev Span := Nat × Nat

def Span.meets (a b : Span) : Bool := decide (a.1 < b.2) && decide (b.1 < a.2)

/-- All of agent memory. -/
def wholeMemory : Span := (0, 65536)

/-- The bytes from an offset of an access on, in a copy whose registers are known. -/
def Agent.spanAt (g : Agent) (b n : Nat) (off : BitVec 32) : Span :=
  match g.ea b off n with
  | .ok e => (e, e + n)
  | .error _ => (0, 0)

/-- The bytes of agent memory whose values a short instruction's register results come from. -/
def Agent.readSpan (g : Agent) : Instr → Span
  | .ald sz _ _ b off => g.spanAt b (ESize.bytes sz) off
  | .sload _ b off => g.spanAt b 8 off
  | .stok _ sb c => (strBase (g.getS sb) + 4 * (g.getA c).toNat, strBase (g.getS sb) + 4 * (g.getA c).toNat + 4)
  | _ => (0, 0)

/-- The bytes of a string's tokens. -/
def strSpan (w : Word) : Span := (strBase w, strBase w + 4 * strLen w)

/-- Short instructions that store in agent memory. -/
def storesMem : Instr → Bool
  | .ast _ _ _ _ | .sstore _ _ _ | .sjoin _ _ | .stokW _ _ _ => true
  | _ => false

/-- Instructions that end the window when an operand is unknown. -/
def endsUnknown : Instr → Bool
  | .abeq _ _ _ | .abne _ _ _ | .ablt _ _ _ | .abge _ _ _ | .fblt _ _ _ | .aret => true
  | _ => false

def isHalt : Instr → Bool
  | .ahalt _ => true
  | _ => false

/-- The context that CTXLEN and CTXSTAT ask after. -/
def Agent.asks (g : Agent) : Instr → List Nat
  | .ctxlen _ kb | .ctxstat _ kb => [bits (g.getK kb) 17 0]
  | _ => []

/-- Registers that a long instruction writes (R266); with GEN's sB and the k register that CTXFREE clears, which it writes too (R245,
R260; DEDUCED, log entry 69). -/
def longWrites : LongOp → List (Nat × Nat)
  | .append _ _ c => [(0, c)]
  | .gen _ sb c => [(2, sb), (0, c)]
  | .score fa _ _ d => [(3, fa), (0, d)]
  | .probe a _ _ => [(0, a)]
  | .ctxnew ka _ | .fork ka _ | .ctxfree ka => [(1, ka)]
  | _ => []

/-- Agent memory that a long instruction writes: the buffer to which GEN appends (R258). -/
def Agent.longSpans (g : Agent) : LongOp → List Span
  | .gen _ sb _ => [(strBase (g.getS sb), strBase (g.getS sb) + 4 * strCap (g.getS sb))]
  | _ => []

/-- What the window does not know: registers, bytes of agent memory, and contexts that an older long instruction can still change. -/
structure Unknown where
  regs : List (Nat × Nat)
  mem  : List Span
  ctxs : List Nat

/-- A long instruction of the window whose context and strings are known: the private copy as it stands before it, and whether its
progress is known too. -/
structure Planned where
  op   : LongOp
  g    : Agent
  /-- How many instructions at the same apc the window holds before it. -/
  nth  : Nat
  sure : Bool

/-- The operands of a long instruction that select its context and its strings are known, the strings' tokens too. -/
def Unknown.knows (u : Unknown) (g : Agent) (l : LongOp) : Bool :=
  (opRegs l).all fun r => (r.1 ≠ 1 && r.1 ≠ 2) || (!u.regs.contains r &&
    (r.1 ≠ 2 || opCode l = 0x29 || !u.mem.any (strSpan (g.getS r.2)).meets))

/-- What is unknown behind a long instruction that is not complete. -/
def Unknown.behind (u : Unknown) (g : Agent) (l : LongOp) : Unknown :=
  { regs := u.regs ++ (longWrites l).filter (· ≠ (0, 0))
    mem := u.mem ++ if (opRegs l).any u.regs.contains then (g.longSpans l).map fun _ => wholeMemory else g.longSpans l
    ctxs := u.ctxs ++ g.ctxsOf l }

/-- The registers that a short instruction reads in a given copy are unknown. SSEL reads the one register that it selects, when its index
is known. -/
def Unknown.blind (u : Unknown) (g : Agent) (i : Instr) : Bool :=
  (match i with
    | .ssel _ sb c => u.regs.contains (0, c) || u.regs.contains (2, sb + (g.getA c).toNat)
    | _ => (shortRegs i).1.any u.regs.contains) || (g.asks i).any u.ctxs.contains || u.mem.any (g.readSpan i).meets

/-- The registers that a short instruction writes; a0 holds nothing. -/
def shortWrites (i : Instr) : List (Nat × Nat) := (shortRegs i).2.filter (· ≠ (0, 0))

/-- The planned long instructions of the window (R266, R268). The unretired ones come first, in order; `seen` holds the apc of those that
the window has decoded and that are not complete. -/
def State.window (s : State) : Nat → List LongInst → List Nat → Agent → Unknown → List Planned
  | 0, _, _, _, _ => []
  | fuel + 1, flight, seen, g, u =>
    match g.fetch with
    | none => []
    | some w =>
      match decodeAgent w with
      | .error _ => []
      | .ok (.short i) =>
        let wr := shortWrites i
        let blind := u.blind g i
        if isHalt i || (blind && endsUnknown i) then []
        else if blind then
          s.window fuel flight seen g.past { u with regs := u.regs ++ wr, mem := if storesMem i then wholeMemory :: u.mem else u.mem }
        else
          match shortEffect s g i with
          | .error _ => []
          | .ok (g', ws) => s.window fuel flight seen g' { u with
              regs := u.regs.filter fun r => !wr.contains r
              mem := u.mem ++ ws.map fun w => (w.1, w.1 + w.2.length) }
      | .ok (.long l) =>
        if opAwaits l then []
        else if (flight.head?.map (·.done)) = some true then s.window fuel (flight.drop 1) seen g.past u
        else
          let rest := s.window fuel (flight.drop 1) (g.apc :: seen) g.past (u.behind g l)
          if u.knows g l then ⟨l, g, seen.count g.apc, !(opRegs l).any u.regs.contains⟩ :: rest else rest

/-! ### Actions (R268) -/

/-- Reserves up to `n` FREE blocks for an instruction. A reservation that finds none is not made. -/
def State.reserve (s : State) (part : Nat) (p : Plan) : Nat → State
  | 0 => s
  | n + 1 =>
    match s.takeFree part with
    | none => s
    | some (b, s) =>
      (State.modBlock { s with nextSeq := s.nextSeq + 1 } b fun _ => ⟨0, none, some (p, s.nextSeq)⟩).reserve part p n

def State.reservedFor (s : State) (p : Plan) : Nat := (s.blocks.filter fun e => e.2.resv.any fun x => x.1 = p).length

/-- Blocks that the next step of an instruction needs, and Graft nodes that it will match. What an APPEND needs follows from its
progress, so nothing is reserved for one whose aC is unknown. -/
def State.planOf (s : State) (p : Planned) (c : Context) : Nat × List Nat :=
  let g := p.g
  match p.op with
  | .append _ sb k =>
    if !p.sure then (0, [])
    else
      let rest := (s.tokens g sb).drop (g.getA k).toNat
      let ns := s.chain c rest
      let q := c.len + 16 * ns.length
      let n := min (rest.length - 16 * ns.length) (s.chunkOf c.part)
      let blocks := if n = 0 then [] else (List.range ((q + n - 1) / 16 - q / 16 + 1)).map (q / 16 + ·)
      ((blocks.filter fun j => s.entry c j = noBlock || s.mustCopy c.part 1 (s.entry c j)).length, ns.map (·.id))
  | .score _ _ sc _ =>
    let held := match (if p.nth = 0 then g.flight.find? fun x => x.apc = g.apc else none) with
      | some x => x.scratch.length
      | none => 0
    (ceilDiv (c.len % 16 + strLen (g.getS sc)) 16 - held, [])
  | .gen _ _ _ => (b2n (s.entry c ((c.len + s.draftsOf c) / 16) = noBlock), [])
  | _ => (0, [])

/-- Refills of the EVICTED residencies of a model (R146, R268). A refill loads every plane of its source, those of the sampling record
among them, since look-ahead changes no result (R267; DEDUCED, log entry 69). -/
def State.refillModel (s : State) (part : Nat) (m : Model) : State :=
  m.resl.foldl (fun s h => match (s.residency part h).filter fun r => r.st = 3 with
    | some r => match s.refill r with
      | (s, true) => (s.resumeStalled part h (tensorOf r.src) (· = 2)).startCommand (resCluster h)
      | (s, false) => s
    | none => s) s

/-- The live context of a stepped instruction. -/
def State.planCtx (s : State) (p : Planned) : Option Context :=
  if opStepped p.op then ((opKreg p.op).bind (s.ctxOf p.g)).map (·.2) else none

/-- The name of an instruction of an agent's window. -/
def Planned.plan (p : Planned) (n : Nat) : Plan := ⟨n, p.g.apc, p.nth⟩

/-- The actions for one long instruction of the window. -/
def State.planFor (s : State) (n : Nat) (p : Planned) : State :=
  match s.planCtx p with
  | none => s
  | some c =>
    let (need, ids) := s.planOf p c
    let k := p.plan n
    let s := s.reserve c.part k (need - s.reservedFor k)
    let lapse := (s.iter c.part).num + 4
    let s := s.modNodes ids fun x => { x with holds := if x.holds.any (fun h => h.1 = k) then x.holds else x.holds ++ [(k, lapse)] }
    match s.modelOf c with
    | some m => s.refillModel c.part m
    | none => s

/-- Plan holds of an agent on nodes that their APPEND of its window will not match go: the window has dropped it (R268). -/
def State.windowHolds (s : State) (n : Nat) (ps : List Planned) : State :=
  let kept := ps.flatMap fun p => match s.planCtx p with
    | some c => (s.planOf p c).2.map fun id => (id, p.plan n)
    | none => []
  { s with nodes := s.nodes.map fun x => { x with holds := x.holds.filter fun h => h.1.agent ≠ n || kept.contains (x.id, h.1) } }

/-- The private copy starts at the oldest unretired instruction (R266). -/
def Agent.atOldest (g : Agent) : Agent := { g with apc := (g.flight.head?.map fun l => l.apc).getD g.apc }

/-- LOOKAHEAD_DECODE (R266-R268): decodes the window of an active agent and takes its actions. -/
def execLookaheadDecode (n : Nat) (s : State) : Result :=
  match s.agent n with
  | none => .next s
  | some g =>
    if g.st ≠ 1 || g.looked || !s.startsFor g.part g.ten then .next s
    else
      let ps := s.window 8 g.flight [] g.atOldest ⟨[], [], []⟩
      .next ((ps.foldl (fun s p => s.planFor n p) (s.windowHolds n ps)).modAgent n fun g => { g with looked := true })

/-- A plan hold has lasted 4 iterations and is not marked so yet (R268). -/
def Iter.lapsed (i : Iter) (b : Nat) : Bool := b ≠ 0 && (decide (b < i.num) || (b = i.num && !i.running))

/-- A plan hold that has lapsed leaves the mark 0. -/
def Iter.expire (i : Iter) (h : Plan × Nat) : Plan × Nat := if i.lapsed h.2 then (h.1, 0) else h

/-- PLAN_HOLD_EXPIRY (R268): the plan holds of node `n` that have lasted 4 iterations lapse. The mark 0 that they leave excludes the node
from no eviction, and keeps the same window from placing them again. -/
def execPlanHoldExpiry (n : Nat) (s : State) : Result :=
  match s.nodes.find? fun x => x.id = n with
  | none => .next s
  | some x => .next (s.modNodes [n] fun y => { y with holds := y.holds.map (s.iter x.part).expire })

end Sys2Proof.Machine
end

