-- ==== Sys2Proof/Machine/Partition.lean ====
section
/-! DEFINITION. Sys2Proof/Machine/Partition.lean: partitions and tenancies (R308-R315), the gang switch with its state machine,
handover and completion (R316-R324), and the guest switch (R325, R326). -/

namespace Sys2Proof.Machine

/-! ### Fresh tenancies (R310, R311) -/

/-- Scratchpad keys of a tenancy's banks: the pad (tenancy × 1,024 + core), and an offset in bytes. -/
def ownsPad (p : Part) (ten pad off : Nat) : Bool := pad / 1024 = ten && maskBit p.pbanks (off / Config.bankBytes)

/-- Forgets every residency that a test names, and with it the sources that only it remembered (R335). -/
def State.dropResidencies (s : State) (f : Residency → Bool) : State :=
  (s.residencies.filter f).foldl (fun s r =>
    State.unregister { s with residencies := s.residencies.filter fun q => q ≠ r } r.eng.ctx (r.gens.map (·.1)) r.leaves) s

/-- The engine contexts of a tenancy wait for no translation any more (R331). -/
def State.forgetContexts (s : State) (p ten : Nat) : State :=
  let stays : Requester → Bool
    | .thread _ => true
    | .engine k => keyOwner 2048 k ≠ (p, ten)
  { s with clusters := Table.mapVals s.clusters fun cl => { cl with
      admitted := cl.admitted.filter stays, misses := cl.misses.map fun m => { m with waiters := m.waiters.filter stays } } }

/-- Gives a tenancy of a partition the state of R310: empty slots, zero and full banks, timelines at 0, zero tensor records, no
group, graph, launch entry, agent or bound model. What R311 names as partition-wide stays. -/
def State.freshTenancy (s : State) (p ten : Nat) : State :=
  let q := s.part p
  let mine := fun (th : Thread) => th.part = p && th.ten = ten
  let gone := (s.threads.filter fun e => mine e.2).map (·.1)
  let s := (s.dropNodes (s.iter p).num fun n => n.part = p && n.ten = ten).forgetContexts p ten
  let s := gone.foldl (fun s t => (s.dropLease t).forgetMisses t) s
  let s := s.dropResidencies fun r => r.part = p && r.ten = ten
  { s with
    saves := Table.erase s.saves (p * 4 + ten)
    threads := s.threads.filter fun e => !mine e.2
    slots := s.slots.filter fun e => !gone.contains e.2
    pops := s.pops.filter fun e => e.2.part ≠ p || e.2.ten ≠ ten
    groups := s.groups.filter fun e => e.1 / 2048 ≠ p * 4 + ten
    graphs := s.graphs.filter fun g => g.part ≠ p || g.ten ≠ ten
    ctxs := s.ctxs.filter fun e => keyOwner 2048 e.1 ≠ (p, ten)
    tids := s.tids.filter fun e => keyOwner 4096 e.1 ≠ (p, ten)
    models := s.models.filter fun e => keyOwner 65536 e.1 ≠ (p, ten)
    agents := s.agents.filter fun e => e.2.part ≠ p || e.2.ten ≠ ten
    cores := Table.mapVals s.cores fun c => { c with
      launch := c.launch.filter fun e => e.part ≠ p || e.ten ≠ ten, sfuQ := c.sfuQ.filter fun r => !gone.contains r.t }
    banks := Table.mapVals s.banks fun rs => rs.filter fun r => !gone.contains r.t
    pad := s.pad.filter fun e => !ownsPad q ten (e.1 / Config.padBytes) (e.1 % Config.padBytes)
    padWords := s.padWords.filter fun e => !ownsPad q ten (e.1 / 32768) (e.1 % 32768 * 8)
    badPad := s.badPad.filter fun e => !ownsPad q ten (e.1 / 32768) (e.1 % 32768 * 8) }

/-! ### Tenancy registers (R313) -/

/-- No switch of the partition is under way or armed (R313). -/
def Part.still (p : Part) : Bool := p.swState = 0 && p.gState = 0

/-- TENCFG as it reads. -/
def Part.tencfg (p : Part) : Word := word (p.gmask * 256 + p.cur * 16 + p.res)

/-- A write of TENCFG (R313): it is ignored when it clears the bit of CUR, or changes RES while a switch is not IDLE. -/
def State.writeTencfg (s : State) (p : Nat) (v : Word) : State :=
  let q := s.part p
  let res := bits v 3 0
  if (decide (q.cur < 4) && !maskBit res q.cur) || (decide (res ≠ q.res) && !q.still) then s
  else
    let new := (List.range 4).filter fun t => maskBit res t && !maskBit q.res t
    let s := new.foldl (fun s t => s.freshTenancy p t) s
    s.modPart p fun q => { q with gmask := bits v 11 8, res := res }

def execTencfgWrite (p : Nat) (v : Word) (s : State) : Result := .next (s.writeTencfg p v)

/-- Set bits of a mask below 16. -/
def popCount16 (m : Nat) : Nat := (maskList m 16).length

/-- SAVESZ (R313). -/
def Part.saveSize (p : Part) : Nat :=
  1024 * (8192 * popCount16 p.pslots + 16640 * popCount16 p.pbanks) + 268435456 + 1048576

/-- A tenancy's save area lies whole within the region. -/
def State.saveOk (s : State) (p t : Nat) : Bool :=
  s.inRegion p (bits (Table.get (s.part p).tsave t 0) 47 21 * 2 ^ 21) (s.part p).saveSize

/-! ### Settings that wait for a snapshot (R309, R314) -/

/-- The value that a register with a pending write reads as: the value last written. -/
def Part.pendingOr (p : Part) (sel : Nat) (now : Word) : Word :=
  ((p.pendingCfg.reverse.find? fun e => e.1 = sel).map (·.2)).getD now

def State.queueCfg (s : State) (p sel : Nat) (v : Word) : State :=
  s.modPart p fun q => { q with pendingCfg := q.pendingCfg ++ [(sel, v)] }

/-- A write of ITERCFG, AGCFG or BLKQ (R309); one with a field out of range is ignored whole. -/
def State.writeConfig (s : State) (p sel : Nat) (v : Word) : State :=
  if sel = 0x409 then
    let b := bits v 48 32
    let c := bits v 9 0
    if 4096 ≤ b ∧ b ≤ 65536 ∧ 1 ≤ c ∧ c ≤ 512 then s.queueCfg p sel (word (b * 2 ^ 32 + c)) else s
  else if sel = 0x40A then
    let a := bits v 16 0
    if 1 ≤ a ∧ a ≤ 65536 then s.queueCfg p sel (word (bits v 63 32 * 2 ^ 32 + a)) else s
  else if sel = 0x40B then s.queueCfg p sel (word (bits v 31 0))
  else s

/-- PARTITION_CONFIG_WRITE (R309). -/
def execPartitionConfigWrite (p reg : Nat) (v : Word) (s : State) : Result := .next (s.writeConfig p reg v)

/-- A write of MODTABt takes effect at the next snapshot (R314). -/
def State.writeModtab (s : State) (p t : Nat) (v : Word) : State :=
  s.queueCfg p (0x424 + t) (word (bits v 63 48 * 2 ^ 48 + bits v 47 6 * 64))

def execModtabWrite (p n : Nat) (v : Word) (s : State) : Result := .next (s.writeModtab p n v)

/-- A write of BTAREA (0x429) or SAMPAREA (0x42A) is ignored while a descriptor of the partition is not FREE (R314). BASE of
BTAREA is 4-aligned. -/
def State.writeArea (s : State) (p sel : Nat) (v : Word) : State :=
  if !s.allFree p then s
  else if sel = 0x429 then s.queueCfg p sel (word (bits v 63 48 * 2 ^ 48 + bits v 47 2 * 4))
  else if sel = 0x42A then s.queueCfg p sel (word (bits v 47 6 * 64))
  else s

def execAgentAreaWrite (p n : Nat) (v : Word) (s : State) : Result := .next (s.writeArea p n v)

/-- RTDATA (R312): a write with VALID and DPART 0 or MODULE ≥ 12,288 is ignored. -/
def State.writeRtdata (s : State) (p : Nat) (v : Word) : State :=
  if bit v 31 && (decide (bits v 29 26 = 0) || decide (12288 ≤ bits v 13 0)) then s
  else
    let e := word (b2n (bit v 31) * 2 ^ 31 + bits v 29 26 * 2 ^ 26 + bits v 18 14 * 2 ^ 14 + bits v 13 0)
    s.modPart p fun q => { q with rank := Table.set q.rank q.rtidx e }

def execRtdataWrite (p : Nat) (v : Word) (s : State) : Result := .next (s.writeRtdata p v)

/-! ### The guest switch (R325, R326) -/

/-- GSWCTL as it reads. -/
def Part.gswctl (p : Part) : Word := word (p.gErr * 256 + p.gState * 32 + p.gTgt)

def State.guestErr (s : State) (p e : Nat) : State := s.modPart p fun q => { q with gErr := e }

/-- The checks of PREPARE, in order: 0 when it goes on. -/
def State.guestCheck (s : State) (p tgt : Nat) : Nat :=
  let q := s.part p
  if !maskBit q.gmask tgt || !maskBit q.res tgt then 1
  else if q.cur = tgt then 4
  else if 4 ≤ q.cur then 5
  else if !s.saveOk p tgt || !s.saveOk p q.cur then 2
  else 0

/-- Checks a target and starts its preload, or waits in RESTART while the hypervisor's switch is not IDLE. `fail` is the state
in which a refusal leaves the guest switch. -/
def State.prepare (s : State) (p tgt fail : Nat) : State :=
  let e := s.guestCheck p tgt
  if e ≠ 0 then s.modPart p fun q => { q with gErr := e, gState := fail }
  else s.modPart p fun q => { q with gErr := 0, gFor := tgt, gState := if q.swState = 0 then 1 else 5 }

/-- A write of GSWCTL.TGT, which is RW (R6, R325). A switch that is under way keeps the target of its PREPARE. -/
def State.guestTgt (s : State) (p tgt : Nat) : State := s.modPart p fun q => { q with gTgt := tgt % 4 }

/-- GSW_PREPARE (R326): accepted in IDLE and PREPARED. -/
def State.guestPrepare (s : State) (p tgt : Nat) : State :=
  let g := (s.part p).gState
  if g = 0 || g = 2 then (s.guestTgt p tgt).prepare p (tgt % 4) g else s.guestErr p 3

/-- GSW_COMMIT (R326): T is the later of GSWTIME and FTIME. -/
def State.guestCommit (s : State) (p : Nat) : State :=
  if (s.part p).gState = 2 then
    s.modPart p fun q => { q with gErr := 0, gState := 3, gBound := word (max q.gswtime.toNat s.ftime) }
  else s.guestErr p 3

/-- GSW_ABORT (R326). -/
def State.guestAbort (s : State) (p : Nat) : State :=
  let g := (s.part p).gState
  if g = 1 || g = 2 || g = 5 then s.modPart p fun q => { q with gErr := 0, gState := 0 } else s.guestErr p 3

def execGswPrepare (p tgt : Nat) (s : State) : Result := .next (s.guestPrepare p tgt)
def execGswCommit (p : Nat) (s : State) : Result := .next (s.guestCommit p)
def execGswAbort (p : Nat) (s : State) : Result := .next (s.guestAbort p)

/-- A write of GSWCTL: CMD [4:3], TGT [1:0]. CMD 0 does nothing (R325), and TGT is written as an RW field, but by a write whose command
the state does not accept, which changes nothing but ERR (R326; DEDUCED, log entry 29). -/
def State.writeGswctl (s : State) (p : Nat) (v : Word) : State :=
  let g := (s.part p).gState
  match bits v 4 3 with
  | 1 => s.guestPrepare p (bits v 1 0)
  | 2 => (if g = 2 then s.guestTgt p (bits v 1 0) else s).guestCommit p
  | 3 => (if g = 1 || g = 2 || g = 5 then s.guestTgt p (bits v 1 0) else s).guestAbort p
  | _ => s.guestTgt p (bits v 1 0)

/-- The hypervisor arms a switch: a guest's preload is discarded (R326). -/
def State.guestRestart (s : State) (p : Nat) : State :=
  s.modPart p fun q => if q.gState = 1 || q.gState = 2 then { q with gState := 5 } else q

/-- The hypervisor's switch has been cancelled: a guest in RESTART runs PREPARE again, and is IDLE when that refuses (R326). -/
def State.guestRetry (s : State) (p : Nat) : State := if (s.part p).gState = 5 then s.prepare p (s.part p).gFor 0 else s

/-- The hypervisor's switch has completed: a guest in RESTART runs PREPARE again unless the partition is suspended (R326). -/
def State.guestResume (s : State) (p : Nat) : State := if (s.part p).cur ≠ 4 then s.guestRetry p else s

/-! ### The switch registers (R316, R317) -/

/-- SWCTL as it reads. -/
def Part.swctl (p : Part) : Word := word (p.swErr * 256 + p.swState * 32 + p.swTgt)

/-- A write of SWITCHAT: an armed switch moves to the new T. -/
def State.writeSwitchat (s : State) (p : Nat) (v : Word) : State := s.modPart p fun q => { q with switchat := v }

def execSwitchatWrite (p : Nat) (v : Word) (s : State) : Result := .next (s.writeSwitchat p v)

/-- The checks of an ARM: 3 reserved target, 1 target not resident, 2 invalid save area, 0 none. -/
def State.armCheck (s : State) (p tgt : Nat) : Nat :=
  let q := s.part p
  if 4 < tgt then 3
  else if tgt < 4 && !maskBit q.res tgt then 1
  else if (tgt < 4 && !s.saveOk p tgt) || (decide (q.cur < 4) && !s.saveOk p q.cur) then 2
  else 0

/-- A SWCTL write with ARM 1 (R317). -/
def State.arm (s : State) (p tgt : Nat) : State :=
  if 2 ≤ (s.part p).swState then s.modPart p fun q => { q with swErr := 4 }
  else
    let e := s.armCheck p tgt
    if e ≠ 0 then
      let armed := (s.part p).swState = 1
      let s := s.modPart p fun q => { q with swErr := e, swState := 0, loaded := false }
      if armed then s.guestRetry p else s
    else (s.modPart p fun q => { q with swErr := 0, swTgt := tgt, swState := 1, loaded := false }).guestRestart p

/-- A SWCTL write with ARM 0 (R317): it writes TGT in IDLE, and cancels the preload in ARMED. -/
def State.disarm (s : State) (p tgt : Nat) : State :=
  let q := s.part p
  if 2 ≤ q.swState then s.modPart p fun q => { q with swErr := 4 }
  else if q.swState = 1 then (s.modPart p fun q => { q with swErr := 0, swState := 0, loaded := false }).guestRetry p
  else s.modPart p fun q => { q with swErr := 0, swTgt := tgt }

def State.writeSwctl (s : State) (p : Nat) (v : Word) : State :=
  if bit v 4 then s.arm p (bits v 2 0) else s.disarm p (bits v 2 0)

def execSwctlArm (p : Nat) (v : Word) (s : State) : Result := .next (s.arm p (bits v 2 0))
def execSwctlDisarm (p : Nat) (v : Word) (s : State) : Result := .next (s.disarm p (bits v 2 0))

/-! ### The preload (R318) -/

/-- A preload of the hypervisor's switch can complete: no guest switch has still to run before it. -/
def Part.preloading (p : Part) : Bool :=
  !p.loaded && (p.swState = 1 || p.swState = 2 || p.swState = 3 || (p.swState = 4 && p.gState ≠ 3 && p.gState ≠ 4))

/-- The save area that TSAVE names for a tenancy holds what its latest save wrote. A tenancy that no switch has saved has the fresh
state of R311 and no image. -/
def State.areaHolds (s : State) (p ten : Nat) : Bool :=
  match Table.find? s.saves (p * 4 + ten) with
  | some (a, n) => a = bits (Table.get (s.part p).tsave ten 0) 47 21 * 2 ^ 21 &&
      (List.range (s.part p).saveSize).all fun i => Memory.read s.hbm (a + i) = Config.saveByte n i
  | none => true

/-- A thread as it is restored from an area that holds something else: its registers, predicates and pc are free values, as the layout
of the area is not in the spec (R318; DESIGN CHOICE, log entry 30). -/
def Thread.lost (th : Thread) (n : Nat) : Thread :=
  let i := n + 512 * th.sid
  { th with
    x := (List.range 32).map fun r => (r, ⟨Config.freeWord (i + r), true, false, false⟩)
    v := (List.range 32).map fun r => (r, ⟨Config.freeVWord (i + r), true, false, false⟩)
    p := (List.range 8).map fun r => (r, (Config.freeVWord (i + 32 + r)).setWidth 256)
    pc := Config.freeWord (i + 32) &&& 0xFFFFFFFFFFFE }

/-- The free bytes of a tenancy's banks of one core. -/
def State.losePad (s : State) (q : Part) (ten core : Nat) : State :=
  (maskList q.pbanks 15).foldl (fun s b =>
    let a := (ten * 1024 + core) * Config.padBytes + b * Config.bankBytes
    { s with
      freeCtr := s.freeCtr + 1
      pad := Memory.writeBytes s.pad a ((List.range Config.bankBytes).map (Config.saveByte s.freeCtr)) }) s

/-- The preload reads a save area that does not hold what the tenancy's save wrote. -/
def State.loseTenancy (s : State) (p ten : Nat) : State :=
  let q := s.part p
  let n := s.freeCtr
  let s := (List.range (8 * (q.ghi + 1 - q.glo))).foldl (fun s i => s.losePad q ten (8 * q.glo + i)) { s with freeCtr := n + 512 * 16384 }
  { s with threads := Table.mapVals s.threads fun th => if th.part = p && th.ten = ten && th.saved then th.lost n else th }

/-- The preload copies the incoming tenancy's state from its save area (R318). -/
def State.preload (s : State) (p ten : Nat) : State := if 4 ≤ ten || s.areaHolds p ten then s else s.loseTenancy p ten

/-- PRELOAD_COMPLETE (R317, R318, R326). -/
def execPreloadComplete (p : Nat) (s : State) : Result :=
  let q := s.part p
  if q.gState = 1 then .next ((s.preload p q.gFor).modPart p fun q => { q with gState := 2 })
  else if q.preloading then .next ((s.preload p q.swTgt).modPart p fun q => { q with loaded := true })
  else .next s

/-! ### The switch begins (R317, R319, R324) -/

/-- What happens at c_T besides the handover: the iteration in progress commits nothing, the agents of the outgoing tenancy
stop, one that halts among them, and the handover starts. The parked flits of the incoming tenancy are free to go on (R323). -/
def State.beginSwitch (s : State) (p tgt : Nat) : State :=
  let out := (s.part p).cur
  let s := s.abortIteration p
  let live := (s.agents.filter fun e => e.2.part = p && e.2.ten = out && (e.2.st = 1 || e.2.st = 3)).map (·.1)
  let s := live.foldl (fun s n => s.stopAgent n 0) s
  s.modPart p fun q => { q with incoming := tgt, handed := [] }

/-- The switch of a partition whose time has come: 1 the hypervisor's, 2 the guest's, 3 a deferred one, 0 none. -/
def State.switchDue (s : State) (p : Nat) : Nat :=
  let q := s.part p
  if q.swState = 1 && decide (q.switchat.toNat ≤ s.ftime) then 1
  else if q.gState = 3 && decide (q.gBound.toNat ≤ s.ftime) then 2
  else if q.swState = 4 && q.gState ≠ 3 && q.gState ≠ 4 && q.loaded then 3
  else 0

/-- The hypervisor's handover starts. -/
def State.startHandover (s : State) (p : Nat) : State :=
  (s.beginSwitch p (s.part p).swTgt).modPart p fun q => { q with swState := 2 }

/-- The guest's switch starts. -/
def State.startGuest (s : State) (p : Nat) : State :=
  (s.beginSwitch p (s.part p).gFor).modPart p fun q => { q with gState := 4 }

/-- SWITCH_TIME_REACHED (R317, R326). -/
def execSwitchTimeReached (p : Nat) (s : State) : Result :=
  let q := s.part p
  match s.switchDue p with
  | 1 =>
    if q.swTgt = q.cur then .next ((s.modPart p fun q => { q with swState := 0, loaded := false }).guestResume p)
    else if q.gState = 3 then
      .next ((s.startGuest p).modPart p fun q => { q with swState := 4, loaded := false })
    else if q.gState = 4 then .next (s.modPart p fun q => { q with swState := 4, loaded := false })
    else .next (s.startHandover p)
  | 2 => .next (s.startGuest p)
  | 3 => .next (s.startHandover p)
  | _ => .next s

/-! ### Handover of a slot (R66, R126, R139, R319, R320) -/

/-- A request of a bank as the saved state keeps it; an LDFT keeps what remains of its limit. -/
def BankReq.saved (r : BankReq) (cycle : Nat) : BankReq := { r with due := if r.due = 0 then 0 else max 1 (r.due - cycle) }

/-- A saved request enters its bank again, behind every request that is pending there (R66). -/
def State.reenter (s : State) (r : BankReq) : State :=
  { s with banks := Table.set s.banks (bankKey r.core r.off) (s.bank (bankKey r.core r.off) ++
      [{ r with due := if r.due = 0 then 0 else s.cycle + r.due }]) }

/-- Saves the thread of a slot: its unserved requests, SFU requests and waiting MLEASE are withdrawn into the saved state, and
its lease goes once the commands accepted under it complete. -/
def State.saveThread (s : State) (t : Nat) : State :=
  let th := s.thr t
  let g := clusterOf th.sid
  let reqs := s.banks.flatMap fun (e : Nat × List BankReq) => e.2.filter fun r => r.t = t
  let sfu := (s.core (coreOf th.sid)).sfuQ.filter fun r => r.t = t
  let s := (s.endRunOf t).forgetMisses t
  let toks := ((s.arr g).waiting.filter fun w => w.1 = t).map (·.2)
  let s : State := { s with
    banks := Table.mapVals s.banks fun rs => rs.filter fun r => r.t ≠ t
    slots := Table.erase s.slots th.sid }
  let s := if sfu.isEmpty then s else s.modCore (coreOf th.sid) fun c => { c with sfuQ := c.sfuQ.filter fun r => r.t ≠ t }
  let s := match s.array g with
    | some _ => s.modArr g fun a => { a with
        saving := a.saving ++ (a.leaseOf t).toList.map fun l => (l, t)
        holder := a.holder.filter fun e => e.2 ≠ t
        waiting := a.waiting.filter fun w => w.1 ≠ t
        restore := a.restore.filter fun r => r.2 ≠ t }
    | none => s
  let s := s.modThr t fun th => { th with
    saved := true, wait := none, answers := [], savedLease := toks, savedSfu := sfu
    savedSync := reqs.map fun r => r.saved s.cycle }
  match s.array g with
  | some _ => s.saveBanks g
  | none => s

/-- Brings a saved thread in: it is ready from the next cycle, unless it is frozen, held or parked; a frozen one queues a fresh
record, and withdrawn requests enter again behind every request already pending; an SFU queue without room for them grows beyond its 32
(DESIGN CHOICE, log entry 83). -/
def State.restoreThread (s : State) (t : Nat) : State :=
  let th := s.thr t
  let g := clusterOf th.sid
  let core := coreOf th.sid
  let s := s.modThr t fun th => { th with
    saved := false, notBefore := max th.notBefore (s.cycle + 1), latch := th.latch || th.wfe.isSome
    savedSync := [], savedSfu := [], savedLease := [] }
  let s : State := { s with slots := Table.set s.slots th.sid t }
  let s := match th.frozen, th.record with
    | some _, some r => s.modCore core fun c => { c with records := c.records ++ [r] }
    | _, _ => s
  let s := th.savedSync.foldl State.reenter s
  let s := if th.savedSfu.isEmpty then s else s.modCore core fun c => { c with
    sfuQ := c.sfuQ ++ th.savedSfu }
  let back := match th.savedBank with
    | some (b, _, _) => [(b, t)]
    | none => []
  let s := if back.isEmpty && th.savedLease.isEmpty then s else s.modArr g fun a => { a with
    restore := a.restore ++ back, waiting := a.waiting ++ th.savedLease.map fun tok => (t, tok) }
  s.settle

/-- A handover is under way, and the slot number of this cycle has still to be handed over. -/
def State.handsOver (s : State) (p : Nat) : Bool :=
  let q := s.part p
  (q.swState = 2 || q.gState = 4) && maskBit q.pslots (s.cycle % 16) && !q.handed.contains (s.cycle % 16)

/-- SLOT_HANDOVER (R319): the slot whose turn this cycle is, in every core. -/
def execSlotHandover (p : Nat) (s : State) : Result :=
  if !s.handsOver p then .next s
  else
    let slot := s.cycle % 16
    let q := s.part p
    let out := (s.slots.filter fun e => e.1 % 16 = slot).map (·.2)
    let s := out.foldl State.saveThread s
    let inn := (s.threads.filter fun e => e.2.saved && e.2.part = p && e.2.ten = q.incoming && e.2.sid % 16 = slot).map (·.1)
    let s := inn.foldl State.restoreThread s
    let handed := q.handed ++ [slot]
    let all := (maskList q.pslots 16).all handed.contains
    .next (s.modPart p fun q => { q with handed := handed, swState := if all && q.swState = 2 then 3 else q.swState })

/-! ### The switch completes (R321-R324) -/

/-- The engine contexts of a partition's tenancy. -/
def State.ctxsOf (s : State) (p ten : Nat) : List Nat := (s.ctxs.filter fun e => keyOwner 2048 e.1 = (p, ten)).map (·.1)

/-- A collective that is in progress pauses: it writes STEP and CHUNKNO into its descriptor, and on resume it continues from that
state (R197). The write's translation is had at once: the switch waits for it. -/
def State.pauseColl (s : State) (k : Nat) : State :=
  match (s.engCtx k).queue with
  | r :: _ =>
    match r.kind with
    | .coll _ =>
      if r.code ≠ 0 then s
      else
        (Xfer.writeAll { r.eng k with key := none } .write (r.daddr.toNat + 0x28) (leBytes 8 (r.step * 2 ^ 32 + r.chunk)) ⟨s, [], 0, 0⟩).s
    | .copy _ | .gather _ => s
  | [] => s

/-- Threads for which a unit of a core still has to write a register: the divider, the normaliser, the SFU, the sort unit. -/
def Core.owes (c : Core) : List Nat :=
  c.divs.map (·.t) ++ c.normCur.toList.map (·.1.t) ++ c.normQ.map (·.t) ++ c.sfuRun.map (·.1.t) ++ c.sfuWait.map (·.t) ++
    c.sort.toList.map (·.t)

/-- Nothing is pending for the outgoing tenancy: the results of its deferred producers have landed, its accepted array commands are
complete and their banks saved (R320). -/
def State.settledFor (s : State) (p ten : Nat) : Bool :=
  let out := fun t => (s.thr t).part = p && (s.thr t).ten = ten
  (s.cores.all fun e => e.2.owes.all fun t => !out t) && (s.threads.all fun e => !out e.1 || e.2.returns.isEmpty) &&
    s.arrays.all fun e => (e.2.saving.all fun b => !out b.2) && e.2.queue.all fun c => c.part ≠ p || c.ten ≠ ten

/-- Every outgoing slot is handed over, its tenancy's work is settled, and none of its flits is left in this module's send queues
(R321). -/
def State.drainDone (s : State) (p : Nat) : Bool :=
  let q := s.part p
  (maskList q.pslots 16).all q.handed.contains && s.settledFor p q.cur &&
    s.linkIn.all fun f => f.source ≠ s.moduleNum || f.sender ≠ p || f.ten ≠ q.cur

/-- The switch that can complete: 1 the hypervisor's, once its preload is complete, 2 the guest's. -/
def State.switchEnds (s : State) (p : Nat) : Nat :=
  let q := s.part p
  if q.swState = 3 && q.loaded && s.drainDone p then 1
  else if q.gState = 4 && s.drainDone p then 2
  else 0

/-- The outgoing tenancy's state is written to its save area (R321). The layout of the area is not in the spec, so its bytes are free
values, and a switch restores what it saved while the area holds them (DESIGN CHOICE, log entry 30). -/
def State.writeSave (s : State) (p : Nat) : State :=
  let q := s.part p
  let a := bits (Table.get q.tsave q.cur 0) 47 21 * 2 ^ 21
  if q.cur < 4 && s.saveOk p q.cur then
    State.writeHbm { s with freeCtr := s.freeCtr + 1, saves := Table.set s.saves (p * 4 + q.cur) (a, s.freeCtr) }
      ⟨q.glo * 8, p, q.cur, 140⟩ a ((List.range q.saveSize).map (Config.saveByte s.freeCtr))
  else s

/-- A suspended partition has zero and full banks (R318). -/
def State.clearSuspended (s : State) (p : Nat) : State :=
  let q := s.part p
  { s with
    pad := s.pad.filter fun e => !ownsPad q 4 (e.1 / Config.padBytes) (e.1 % Config.padBytes)
    padWords := s.padWords.filter fun e => !ownsPad q 4 (e.1 / 32768) (e.1 % 32768 * 8)
    badPad := s.badPad.filter fun e => !ownsPad q 4 (e.1 / 32768) (e.1 % 32768 * 8) }

/-- CUR becomes the target: the outgoing tenancy is in its save area, its residencies that are RESIDENT are marked for refill (R322), and
a target SUSPEND finds zero banks. -/
def State.finishSwitch (s : State) (p : Nat) : State :=
  let q := s.part p
  let s := ((s.ctxsOf p q.cur).foldl State.pauseColl s).writeSave p
  let s : State := { s with residencies := s.residencies.map fun r =>
    if r.part = p && r.ten = q.cur then { r with wasRes := decide (r.st = 2) } else r }
  let s := if q.incoming = 4 then s.clearSuspended p else s
  s.modPart p fun q => { q with cur := q.incoming, handed := [] }

/-- After CUR has changed and no switch is under way: engines go on, and the agents of the incoming tenancy are activated, which issue
from the next snapshot (R324). -/
def State.resume (s : State) (p : Nat) : State :=
  (((s.ctxsOf p (s.part p).cur).foldl State.startHead s).modIter p fun i => { i with rest := true }).wakeAgents p

/-- SWITCH_COMPLETE (R317, R321, R326). -/
def execSwitchComplete (p : Nat) (s : State) : Result :=
  match s.switchEnds p with
  | 1 =>
    let s := (s.finishSwitch p).modPart p fun q => { q with swState := 0, loaded := false }
    .next ((s.resume p).guestResume p)
  | 2 => .next (((s.finishSwitch p).modPart p fun q => { q with gState := 0 }).resume p)
  | _ => .next s

end Sys2Proof.Machine
end

