-- ==== Sys2Proof/Machine/Ctrl.lean ====
section
/-! DEFINITION. Sys2Proof/Machine/Ctrl.lean: the control registers (R6, R288, R308-R316, R325, R332, R352) and the two
instructions that reach them (R40, R296). -/

namespace Sys2Proof.Machine

/-! ### Which selectors there are, and who may read them (R40, R288, R308, R332, R352) -/

def between (lo hi n : Nat) : Bool := decide (lo ≤ n) && decide (n ≤ hi)

/-- Selectors that a row of the control register map lists. -/
def ctlListed (sel : Nat) : Bool :=
  between 0 3 sel || between 0x010 0x01F sel || between 0x020 0x02B sel || between 0x030 0x03B sel ||
    between 0x101 0x10F sel || between 0x111 0x11F sel || between 0x120 0x127 sel ||
    between 0x400 0x411 sel || between 0x418 0x41D sel || between 0x420 0x42A sel ||
    between 0x500 0x506 sel || between 0x508 0x50C sel || sel = 0x50F || between 0x510 0x513 sel || sel = 0x518 ||
    between 0x600 0x601 sel || between 0x610 0x62F sel || between 0x640 0x643 sel || sel = 0x648 || between 0x650 0x652 sel

/-- Selectors that a user thread may read. -/
def ctlUserReads (sel : Nat) : Bool :=
  decide (sel < 0x100) || between 0x401 0x405 sel || between 0x408 0x40F sel || sel = 0x418

/-! ### Reading (R288, R308) -/

/-- SLOTSTATEs (R288). An empty slot for which a switch keeps a thread reads 5 with that thread's HELD and CLASS; TEN is then the
tenancy that the partition runs, or a switch brings in, so that it differs from that of a trap record of the saved thread (R304;
DEDUCED, log entry 64), and the saved thread's while the partition is suspended. -/
def State.slotState (s : State) (sid : Nat) : Word :=
  let owner := ((List.range 16).find? fun p => decide (0 < p) && maskBit (s.part p).pslots (sid % 16)).getD 0
  let show_ := fun (th : Thread) (ten st : Nat) =>
    word (th.frozen.getD 0 * 2 ^ 16 + owner * 2 ^ 8 + ten % 4 * 2 ^ 4 + b2n th.held * 8 + st)
  match s.slotThread sid with
  | some t => show_ (s.thr t) (s.thr t).ten (if (s.thr t).frozen.isSome then 3 else 1)
  | none =>
    match List.find? (fun e => e.2.saved && e.2.sid = sid) s.threads with
    | some (_, th) =>
      let q := s.part owner
      let now := if q.switching then q.incoming else q.cur
      show_ th (if now < 4 then now else th.ten) 5
    | none => word (owner * 2 ^ 8)

/-- Context q of a partition's running tenancy, as the reader's core reaches it (R288); a suspended partition has none. -/
def State.frzKey (s : State) (core p q : Nat) : Option Nat :=
  if (s.part p).cur < 4 then some (ctxKey p (s.part p).cur q (ctxPlace q (core * 16))) else none

/-- ENGFRZp. -/
def State.engFrz (s : State) (core p : Nat) : Word :=
  word (((List.range 8).map fun q => if (s.frzKey core p q).any fun k => (s.engCtx k).frozen then 2 ^ q else 0).sum)

/-- The registers of a core (selectors below 0x400). -/
def State.readCore (s : State) (th : Thread) (sel : Nat) : Word :=
  let core := coreOf th.sid
  let c := s.core core
  if sel = 0 then th.status
  else if sel = 1 then th.lastTl
  else if sel = 2 then word s.cycle
  else if sel = 3 then word s.ftime
  else if sel < 0x020 then word (Table.get c.events (sel - 0x010) 0)
  else if sel < 0x030 then word (s.engCtx (th.ctxKeyOf (sel - 0x020))).acc
  else if sel < 0x100 then word (s.engCtx (th.ctxKeyOf (sel - 0x030))).done
  else if sel < 0x110 then s.engFrz core (sel - 0x100)
  else if sel < 0x120 then s.slotState (core * 16 + (sel - 0x110))
  else
    match sel with
    | 0x120 => c.tqbase
    | 0x121 => word c.tqcnt
    | 0x122 => c.rvec
    | 0x123 => c.repc
    | 0x124 => c.rcause
    | 0x125 => c.raddr
    | 0x126 => c.trapcfg
    | _ => word (s.unstarted core).length

/-- The registers of a partition (0x401-0x42A); `g` is the reader's cluster. -/
def State.readPart (s : State) (g p sel : Nat) : Word :=
  let q := s.part p
  match sel with
  | 0x401 => word q.pslots
  | 0x402 => word q.pbanks
  | 0x403 => word (q.ghi * 2 ^ 8 + q.glo)
  | 0x404 => word (q.hbmLimit * 2 ^ 32 + q.hbmBase)
  | 0x405 => word (q.pbnLimit * 2 ^ 32 + q.pbnBase)
  | 0x406 => word (q.keys.getD 3 0 * 2 ^ 24 + q.keys.getD 2 0 * 2 ^ 16 + q.keys.getD 1 0 * 2 ^ 8 + q.keys.getD 0 0)
  | 0x407 => word q.fabkey
  | 0x408 => q.kvbase
  | 0x409 => q.pendingOr 0x409 q.itercfg
  | 0x40A => q.pendingOr 0x40A q.agcfg
  | 0x40B => word ((s.usedBlocks p).length * 2 ^ 32 + bits (q.pendingOr 0x40B (word q.blkquota)) 31 0)
  | 0x410 => word q.rtidx
  | 0x411 => Table.get q.rank q.rtidx 0
  | 0x418 => q.tencfg
  | 0x41D => word q.saveSize
  | 0x420 => q.switchat
  | 0x421 => q.swctl
  | 0x422 => q.gswctl
  | 0x423 => q.gswtime
  | 0x428 => word (q.cdLimit * 2 ^ 32 + q.cdBase)
  | 0x429 => q.pendingOr 0x429 q.btarea
  | 0x42A => q.pendingOr 0x42A q.samparea
  | _ =>
    if between 0x40C 0x40F sel then
      word (s.charged p (sel - 0x40C) g * 2 ^ 16 + Table.get q.canquota (sel - 0x40C) 0)
    else if between 0x419 0x41C sel then Table.get q.tsave (sel - 0x419) 0
    else q.pendingOr sel (Table.get q.modtab (sel - 0x424) 0)

/-- The registers of the module and of the reader's cluster (0x600-0x652). -/
def State.readModule (s : State) (g sel : Nat) : Word :=
  let cl := s.cluster g
  match sel with
  | 0x600 =>
    match s.running with
    | some i => word (i.svn % 2 ^ 16 * 2 ^ 48 + i.ver % 2 ^ 32)
    | none => 0
  | 0x601 => word (b2n s.staged.isSome * 2 + b2n s.recov)
  | 0x640 => word cl.elogsel
  | 0x641 => (Table.get cl.elog cl.elogsel (0, 0)).1
  | 0x642 => (Table.get cl.elog cl.elogsel (0, 0)).2
  | 0x643 => cl.ecnt
  | 0x648 => cl.einj
  | 0x650 => s.life
  | 0x651 => word s.hsel
  | 0x652 => Table.get s.health s.hsel 0
  | _ => word ((Table.get s.meas ((sel - 0x610) / 4) 0).toNat / 2 ^ (64 * ((sel - 0x610) % 4)))

/-- The partition that selectors 0x401-0x42A and those of R332 address for a reader: PSEL names it in the root slot, and a user
thread reads its own (R308). -/
def State.ctlPart (s : State) (th : Thread) : Nat := if th.isRoot then (s.core (coreOf th.sid)).psel else th.part

/-- The value of a listed control register for a reader. -/
def State.readCtl (s : State) (th : Thread) (sel : Nat) : Word :=
  let g := clusterOf th.sid
  let p := s.ctlPart th
  if sel < 0x400 then s.readCore th sel
  else if sel = 0x400 then word (s.core (coreOf th.sid)).psel
  else if sel < 0x500 then (if p = 0 then 0 else s.readPart g p sel)
  else if sel < 0x600 then (s.readXlat g p sel).getD 0
  else s.readModule g sel

/-! ### Writing (R6, R7, R288) -/

/-- CWR 0 clears an event counter; any other value is ignored (R100). -/
def State.clearEvent (s : State) (core n : Nat) : State := s.modCore core fun c => { c with events := Table.erase c.events n }

def execEventCounterClear (core idx : Nat) (s : State) : Result := .next (s.clearEvent core idx)

/-- Unfreezes a context (R288). Requests that it accepted while it was frozen still end with FROZEN (R185). -/
def State.unfreezeCtx (s : State) (core p q : Nat) : State :=
  match s.frzKey core p q with
  | some k => if (s.engCtx k).frozen then s.modEngCtx k fun c => { c with frozen := false } else s
  | none => s

def execEngfrzUnfreeze (core p q : Nat) (s : State) : Result := .next (if q < 8 then s.unfreezeCtx core p q else s)

/-- A write of ENGFRZp: each 1 unfreezes a context; bits 8-11 do nothing. -/
def State.writeEngfrz (s : State) (core p : Nat) (v : Word) : State :=
  (maskList (bits v 7 0) 8).foldl (fun s q => s.unfreezeCtx core p q) s

/-- A value that TQBASE can hold: 0, or a 2,048-aligned window address in bank 15 of the core's own scratchpad. Any other write
is ignored (DEDUCED, log entry 19). -/
def tqbaseOk (core : Nat) (v : Word) : Bool :=
  let pad := Config.windowBase + core / 8 * 0x800000 + core % 8 * 0x40000
  v = 0 || (decide (v.toNat % 2048 = 0) && decide (pad + 15 * Config.bankBytes ≤ v.toNat) && decide (v.toNat < pad + Config.padBytes))

/-- A core register: TQBASE, RVEC and TRAPCFG take values; the others are read-only but for the effects above. -/
def State.writeCore (s : State) (core sel : Nat) (v : Word) : State :=
  if sel = 0 then s.modThr core fun th => { th with wlim := BitVec.ofNat 16 (bits v 47 32) }
  else if between 0x010 0x01F sel then (if v = 0 then s.clearEvent core (sel - 0x010) else s)
  else if between 0x101 0x10F sel then s.writeEngfrz core (sel - 0x100) v
  else
    match sel with
    | 0x120 => if tqbaseOk core v then s.modCore core fun c => { c with tqbase := v } else s
    | 0x122 => s.modCore core fun c => { c with rvec := v }
    | 0x126 => s.modCore core fun c => { c with trapcfg := word (bits v 15 1 * 2) }
    | _ => s

/-- A register of a partition. Fields that Taproot sets are read-only (R308), and GSWCTL and GSWTIME are the guest's (R325). -/
def State.writePart (s : State) (p sel : Nat) (v : Word) : State :=
  match sel with
  | 0x408 => s.modPart p fun q => { q with kvbase := word (bits v 47 0) }
  | 0x409 | 0x40A | 0x40B => s.writeConfig p sel v
  | 0x410 => s.modPart p fun q => { q with rtidx := bits v 13 0 }
  | 0x411 => s.writeRtdata p v
  | 0x418 => s.writeTencfg p v
  | 0x420 => s.writeSwitchat p v
  | 0x421 => s.writeSwctl p v
  | 0x422 => s.writeGswctl p v
  | 0x423 => s.modPart p fun q => { q with gswtime := v }
  | 0x429 | 0x42A => s.writeArea p sel v
  | _ =>
    if between 0x419 0x41C sel then
      s.modPart p fun q => { q with tsave := Table.set q.tsave (sel - 0x419) (word (bits v 47 21 * 2 ^ 21)) }
    else if between 0x424 0x427 sel then s.writeModtab p (sel - 0x424) v
    else s

/-- Frees an error-log entry: V clears, and the read-only fields stay until the next error takes the entry (R352, R353). -/
def State.clearElog (s : State) (g n : Nat) : State :=
  s.modCluster g fun c => { c with elog := match Table.find? c.elog n with
    | some e => Table.set c.elog n (word (bits e.1 62 0), e.2)
    | none => c.elog }

def execElogEntryClear (g n : Nat) (s : State) : Result := .next (s.clearElog g n)

/-- A write of EINJ: ignored while EN is 0; BITS 0 and 3 arm nothing; OFF is 8-aligned (R352). -/
def State.writeEinj (s : State) (g : Nat) (v : Word) : State :=
  if bit (s.cluster g).einj 61 then
    let n := bits v 49 48
    let arm := b2n (bit v 60 && (n = 1 || n = 2))
    s.modCluster g fun c => { c with
      einj := word (2 ^ 61 + arm * 2 ^ 60 + bits v 59 56 * 2 ^ 56 + n * 2 ^ 48 + bits v 47 3 * 8) }
  else s

def execEinjWrite (g : Nat) (v : Word) (s : State) : Result := .next (s.writeEinj g v)

def State.writeModule (s : State) (g sel : Nat) (v : Word) : State :=
  match sel with
  | 0x640 => s.modCluster g fun c => { c with elogsel := bits v 3 0 }
  | 0x641 => if bit v 63 then s.clearElog g (s.cluster g).elogsel else s
  | 0x643 => s.modCluster g fun c => { c with ecnt := v }
  | 0x648 => s.writeEinj g v
  | 0x651 => { s with hsel := bits v 7 0 }
  | _ => s

/-- A root slot's write to a control register (R288, R308). -/
def State.writeCtl (s : State) (core sel : Nat) (v : Word) : State :=
  let p := (s.core core).psel
  if sel < 0x400 then s.writeCore core sel v
  else if sel = 0x400 then s.modCore core fun c => { c with psel := bits v 3 0 }
  else if sel < 0x500 then (if p = 0 then s else s.writePart p sel v)
  else if sel < 0x600 then s.writeXlat p sel v
  else s.writeModule (core / 8) sel v

/-! ### CRD and CWR (R40, R296) -/

/-- The selector of xs, or the illegal-instruction trap; then the privileged trap when user mode may not. -/
def withCtl (s : State) (a : Src) (user : Nat → Bool) (k : Nat → Verdict) : Verdict :=
  let sel := (s.rx a).toNat
  if !ctlListed sel then .trap 1 0 0
  else if !s.me.isRoot && !user sel then .trap 2 0 0
  else k sel

/-- CRD (R296). -/
def execCrd (rd : Nat) (a : Src) (s : State) : Result :=
  issue { src := [a], dx := [rd] } (fun s => withCtl s a ctlUserReads fun sel =>
    .go (s.wx rd (s.readCtl s.me sel)).advance) s

/-- CWR (R296). A user thread writes WLIM of STATUS and nothing else (R40). -/
def execCwr (a b : Src) (s : State) : Result :=
  issue { src := [a, b] } (fun s => withCtl s a (fun sel => sel = 0) fun sel =>
    if s.me.isRoot then .go (s.writeCtl s.myCore sel (s.rx b)).advance
    else .go (s.modThr s.cur fun th => { th with wlim := BitVec.ofNat 16 (bits (s.rx b) 47 32) }).advance) s

end Sys2Proof.Machine
end

