-- ==== Sys2Proof/Machine/Host.lean ====
section
/-! DEFINITION. Sys2Proof/Machine/Host.lean: the host interface (R338-R345, R347): submission queues and their packets, the
completion rings, host timelines, host accesses to memory, and the registers of a function's BAR. Queue q of function fn has the
number 16 fn + q; function 0 is the PF, and function p the VF that is bound to partition p. -/

namespace Sys2Proof.Machine

/-! ### Breaches (R347) -/

/-- Taproot freezes a host function that breaks its bounds, and posts a TAPROOT record. -/
def State.freezeFn (s : State) (fn : Nat) : State :=
  if s.frozenFns.contains fn then s
  else State.postBreach { s with frozenFns := s.frozenFns ++ [fn] } 0 0 fn

/-! ### Submission queues (R339, R340) -/

/-- SIB names the queue itself, or a handler queue of the function with the same TEN and PART. -/
def State.sibOk (s : State) (q : Nat) (x : SubQ) : Bool :=
  x.sib = q % 16 || (let y := s.subq (q / 16 * 16 + x.sib)
    y.hq && y.ten = x.ten && (decide (q / 16 ≠ 0) || y.part = x.part))

/-- A write of SQCTL (R339): STATE 0 disables a queue, whose HEAD and TAIL go to 0; on a DISABLED queue the fields are written, and
STATE 1 activates it when its settings are valid. -/
def State.writeSqctl (s : State) (q : Nat) (v : Word) : State :=
  let x := s.subq q
  if x.st ≠ 0 then
    (if bits v 9 8 = 0 then s.modSubq q fun x => { x with st := 0, head := 0, tail := 0 } else s)
  else
    let y := { x with part := if q / 16 = 0 then bits v 27 24 else x.part, sib := bits v 23 20, hq := bit v 18
                      ten := bits v 17 16, log := bits v 3 0
                      tail := if bits v 9 8 = 0 then 0 else x.tail, head := if bits v 9 8 = 0 then 0 else x.head }
    let ok := bits v 9 8 = 1 && decide (4 ≤ y.log) && decide (y.log ≤ 12) && s.ringOk (q / 16) y.base (64 * 2 ^ y.log) &&
      s.sibOk q y
    s.modSubq q fun _ => { y with st := b2n ok }

def execSqActivate (q : Nat) (v : Word) (s : State) : Result :=
  .next (if bits v 9 8 = 1 then s.writeSqctl q v else s)

/-- SQ_DISABLE (R339): STATE 0, whatever the queue's state was. -/
def execSqDisable (q : Nat) (s : State) : Result :=
  .next (s.modSubq q fun x => { x with st := 0, head := 0, tail := 0 })

/-- SQCTL as it reads. -/
def State.readSqctl (s : State) (q : Nat) : Word :=
  let x := s.subq q
  word ((if q / 16 = 0 then x.part else q / 16) * 2 ^ 24 + x.sib * 2 ^ 20 + b2n x.hq * 2 ^ 18 + x.ten * 2 ^ 16 + x.st * 2 ^ 8 + x.log)

/-- SQPTR_WRITE (R340): the doorbell. An oversized advance leaves TAIL, puts the queue in ERROR and posts a QERROR record. -/
def execSqptrWrite (q : Nat) (v : Word) (s : State) : Result :=
  let x := s.subq q
  let t := bits v 63 32
  if x.hq then .next s
  else if 2 ^ x.log < (t + 2 ^ 32 - x.head) % 2 ^ 32 ∨ 2 ^ x.log < (t + 2 ^ 32 - x.tail) % 2 ^ 32 then
    let s := s.modSubq q fun x => { x with st := 2 }
    .next (s.postTo (s.boundFn (s.queuePart q)) [recordHead 7 x.ten (s.queuePart q), word (q % 16), word t, word x.head, 0, 0, 0, 0])
  else .next (s.modSubq q fun x => { x with tail := t })

/-! ### Packets (R341-R343) -/

/-- Physical address of a packet of a ring. -/
def SubQ.slot (x : SubQ) (i : Nat) : Nat := x.base + 64 * (i % 2 ^ x.log)

/-- The eight words of a packet. -/
def State.packetWords (s : State) (x : SubQ) (i : Nat) : List Word :=
  (List.range 8).map fun k => word (s.rawLe (x.slot i + 8 * k) 8)

def pktType (ws : List Word) : Nat := bits (ws.getD 0 0) 63 56
def pktTag (ws : List Word) : Nat := bits (ws.getD 0 0) 47 16

/-- The next packet of a queue that may start (R339, R341, R347): the queue is ACTIVE and not empty, its ring lies within the region
of its function, its tenancy runs, its function is not frozen, and with BARRIER every earlier packet has completed. -/
def State.startable (s : State) (q : Nat) : Option (List Word) :=
  let x := s.subq q
  if x.st = 1 && x.head ≠ x.tail && s.booted && s.queuePart q ≠ 0 && s.startsFor (s.queuePart q) x.ten &&
      !s.frozenFns.contains (q / 16) && s.ringOk (q / 16) x.base (64 * 2 ^ x.log) then
    let ws := s.packetWords x x.head
    if bit (ws.getD 0 0) 0 && !x.flight.isEmpty then none else some ws
  else none

/-- Some word is not 0. -/
def anySet (ws : List Word) (l : List Nat) : Bool := l.any fun i => ws.getD i 0 ≠ 0

/-- CAUSE 2: reserved header bits, and payload bits that the type does not use. An address uses bits [47:0]. -/
def unusedSet (ws : List Word) : Bool :=
  let w := fun i => ws.getD i 0
  bits (w 0) 55 48 ≠ 0 || bits (w 0) 15 2 ≠ 0 ||
    match pktType ws with
    | 1 => bits (w 1) 63 48 ≠ 0 || bits (w 2) 63 7 ≠ 0 || anySet ws [3, 4, 5, 6, 7]
    | 2 => bits (w 1) 63 48 ≠ 0 || bits (w 3) 63 48 ≠ 0 || bits (w 4) 63 42 ≠ 0 || bits (w 4) 39 33 ≠ 0 ||
        bits (w 4) 31 17 ≠ 0 || anySet ws [5, 6, 7]
    | 3 => bits (w 1) 63 48 ≠ 0 || bits (w 2) 63 48 ≠ 0 || anySet ws [4, 5, 6, 7]
    | 4 => bits (w 1) 62 16 ≠ 0 || bits (w 3) 63 32 ≠ 0 || anySet ws [4, 5, 6, 7]
    | 5 => bits (w 1) 63 16 ≠ 0 || anySet ws [3, 4, 5, 6, 7]
    | 6 => bits (w 2) 63 5 ≠ 0 || bit (w 2) 3 || anySet ws [3, 4, 5, 6, 7]
    | _ => false

/-- CAUSE 3: operand limits. -/
def State.overLimit (s : State) (q : Nat) (ws : List Word) : Bool :=
  let w := fun i => ws.getD i 0
  let p := s.part (s.queuePart q)
  match pktType ws with
  | 1 => bits (w 1) 2 0 ≠ 0 || decide (bits (w 2) 6 0 < p.glo) || decide (p.ghi < bits (w 2) 6 0)
  | 2 =>
    let len := bits (w 2) 31 0
    let entry := bits (w 2) 63 32
    len = 0 || len % 8 ≠ 0 || decide (len ≤ entry) || entry % 8 ≠ 0 || decide (65536 < bits (w 4) 16 0)
  | 3 => decide (2 ^ 40 < (w 3).toNat)
  | 4 =>
    if bit (w 1) 63 then
      match s.agent (bits (w 1) 15 0) with
      | some g => g.part ≠ s.queuePart q
      | none => false
    else decide (15 < bits (w 1) 15 0)
  | 5 => decide (15 < bits (w 1) 15 0)
  | _ => false

/-- The CAUSE of a malformed packet, 0 for a good one (R343). A FAULT packet is good in a handler queue. -/
def State.malformed (s : State) (q : Nat) (ws : List Word) : Nat :=
  let ty := pktType ws
  if ty = 0x80 && (s.subq q).hq then 0
  else if ty = 0 || 6 < ty then 1
  else if unusedSet ws then 2
  else if s.overLimit q ws then 3
  else if ty = 6 && q / 16 ≠ 0 then 4
  else 0

/-- Counts the next packet as started, with its place in the order of completions. -/
def State.startPkt (s : State) (q : Nat) (ws : List Word) : State :=
  s.modSubq q fun x => { x with
    head := (x.head + 1) % 2 ^ 32, num := x.num + 1
    flight := x.flight ++ [⟨x.num, x.head, pktTag ws, bit (ws.getD 0 0) 1, none⟩] }

/-- Starts a packet whose effect `f` is whole at once, with its status. -/
def State.packetNow (s : State) (q : Nat) (ws : List Word) (f : State → State × Word) : State :=
  let i := (s.subq q).num
  let (s, st) := f (s.startPkt q ws)
  s.completePacket (q, i) st

/-- Status of a malformed packet (R342). -/
def malformedStatus (cause : Nat) : Word := word (2 ^ 63 + cause * 2 ^ 16 + 1)

/-- The device as a writer of rings for a queue. -/
def State.queueCtx (s : State) (q : Nat) : Ctx := ⟨0, s.queuePart q, (s.subq q).ten, 140⟩

/-- Disposes of a malformed packet (R343): a FAULT packet at the sibling's TAIL, for which the queue waits while the sibling
takes none; without a sibling the queue enters ERROR. -/
def State.rejectPacket (s : State) (q : Nat) (ws : List Word) (cause : Nat) : State :=
  let x := s.subq q
  let sq := q / 16 * 16 + x.sib
  let y := s.subq sq
  if x.sib = q % 16 then (s.packetNow q ws fun s => (s, malformedStatus cause)).modSubq q fun x => { x with st := 2 }
  else if y.st ≠ 1 || 2 ^ y.log ≤ (y.tail + 2 ^ 32 - y.head) % 2 ^ 32 then s
  else
    let body := [word (0x80 * 2 ^ 56 + pktTag ws * 2 ^ 16), packetId cause q x.head, ws.getD 0 0, ws.getD 1 0, ws.getD 2 0,
      0, 0, 0]
    s.packetNow q ws fun s =>
      ((s.writeHbm (s.queueCtx q) (y.slot y.tail) (wordBytes body)).modSubq sq fun y => { y with tail := (y.tail + 1) % 2 ^ 32 },
        malformedStatus cause)

/-- A packet event of one type: the next packet of the queue starts if it may, and has this type. A malformed one is disposed
of, whatever type the event names. -/
def packetEvent (ok : List Word → Bool) (q : Nat) (f : List Word → State → State) (s : State) : Result :=
  match s.startable q with
  | none => .next s
  | some ws =>
    let c := s.malformed q ws
    if c ≠ 0 then .next (s.rejectPacket q ws c)
    else if ok ws then .next (f ws s)
    else .next s

def isType (n : Nat) (ws : List Word) : Bool := pktType ws = n

/-- The lowest core that CORES of a record names, in a cluster; core 0 when the record gives none (R342). -/
def State.launchCore (s : State) (g part ten a : Nat) : Nat :=
  let (r, _) := s.engWords ⟨g * 128, part, ten, 140, none⟩ (a + 0x28) 1
  let cores := match r with
    | .ok (w :: _) => bits w 47 40
    | .ok [] => 0
    | .error _ => 0
  g * 8 + ((List.range 8).find? (maskBit cores)).getD 0

/-- Places the launch entry of a packet, or waits while the root slot's queue is full (R342). -/
def State.launchFrom (s : State) (q g : Nat) (ws : List Word) (a : Word) (seeds : List Word) : State :=
  let part := s.queuePart q
  let ten := (s.subq q).ten
  let core := s.launchCore g part ten a.toNat
  if Config.launchEntries ≤ (s.core core).launch.length then s
  else ((s.startPkt q ws).placeLaunch core part ten a seeds (some (q, (s.subq q).num))).2

/-- LAUNCH (R342). -/
def execLaunchPacket (q : Nat) (s : State) : Result :=
  packetEvent (isType 1) q (fun ws s => s.launchFrom q (bits (ws.getD 2 0) 6 0) ws (ws.getD 1 0) []) s

/-- FAULT (R343): the handler queue's record is launched with SEED0-SEED3 replaced by w1-w4. It names no cluster: the model takes
the partition's first (DESIGN CHOICE, log entry 20). -/
def execFaultPacket (q : Nat) (s : State) : Result :=
  packetEvent (isType 0x80) q (fun ws s =>
    s.launchFrom q (s.part (s.queuePart q)).glo ws (word (s.subq q).hnd) [ws.getD 1 0, ws.getD 2 0, ws.getD 3 0, ws.getD 4 0]) s

/-- The lowest free agent number of the module. -/
def State.freeAgent (s : State) : Option Nat :=
  (List.range (s.agents.length + 1)).find? fun n => !Table.has s.agents n && decide (n < 65536)

/-- An agent as R210 starts it. -/
def newAgent (die part ten cls entry : Nat) (code : List Word) (base arrived : Nat) (pk : Nat × Nat) : Agent where
  die := die
  part := part
  ten := ten
  cls := cls
  code := code
  a := []
  k := []
  s := []
  f := []
  base := base
  torn := false
  apc := entry
  st := 0
  arrived := arrived
  activated := 0
  flight := []
  replay := []
  events := []
  fault := none
  halt := 0
  looked := false
  deficit := 0
  packet := some pk

/-- Half-open ranges that share nothing. -/
def apart (a b c d : Nat) : Bool := decide (b ≤ a) || decide (d ≤ c) || decide (b ≤ c) || decide (d ≤ a)

/-- Every table below a root. -/
def State.tablesUnder (s : State) : List (Nat × Nat) → Nat → List Nat
  | [], _ => []
  | (_, k) :: rest, table =>
    table :: (List.range (2 ^ k)).flatMap fun i =>
      let e := s.tableEntry (table + 8 * i)
      if e % 4 = 1 then s.tablesUnder rest (e / 2 ^ 8 % 2 ^ 40 * 2 ^ 8) else []

/-- The areas of a partition that its registers and queues name, the pages that its tenancies map, and their tables: first byte and
length. -/
def State.areas (s : State) (part : Nat) : List (Nat × Nat) :=
  let p := s.part part
  let nd := p.cdLimit - p.cdBase
  let roots := p.ptroot.map (·.1)
  [(bits p.btarea 47 0, 4 * bits p.btarea 63 48 * nd), (bits p.samparea 47 0, 64 * nd),
    (bits p.nqbase 47 12 * 4096, if bits p.nqbase 3 0 = 0 then 0 else 16 * 2 ^ bits p.nqbase 3 0)] ++
    p.modtab.map (fun e => (bits e.2 47 0, 64 * bits e.2 63 48)) ++ p.cnttab.map (fun e => (bits e.2 47 12 * 4096, 4 * bits e.2 63 48)) ++
    p.tsave.map (fun e => (bits e.2 47 21 * 2 ^ 21, p.saveSize)) ++
    (s.models.filter fun e => e.1 / 262144 = part).map (fun e =>
      (bits p.kvbase 47 0 + p.pbnBase * e.2.blkb, (p.pbnLimit - p.pbnBase) * e.2.blkb)) ++
    s.subqs.map (fun e => (e.2.base, 64 * 2 ^ e.2.log)) ++ s.cqs.map (fun e => (e.2.base, if e.2.log = 0 then 0 else 64 * 2 ^ e.2.log)) ++
    roots.flatMap (fun t => (s.mapsFrames part t).map fun l => (l.phys, 2 ^ l.lg)) ++
    roots.flatMap fun t => (s.tablesUnder walkLevels (s.rootTable part t)).map fun a => (a, 4096)

/-- The 64 KiB frame of HBM in which a new agent's memory lies (R209): one of the partition's region that no agent of the module has and
that no other party of the partition reaches (R213). The spec leaves open which one it is: a free value chooses (DESIGN CHOICE, log entry
23). None when there is none. -/
def State.agentFrame (s : State) (part : Nat) : Option Nat :=
  let p := s.part part
  let used := s.agents.map (fun e => (e.2.base, 65536)) ++ s.areas part
  let fs := ((List.range ((p.hbmLimit - p.hbmBase) * 32)).map fun i => (p.hbmBase * 32 + i) * 65536).filter fun a =>
    used.all fun u => apart a (a + 65536) u.1 (u.1 + u.2)
  fs[(Config.freeWord s.freeCtr).toNat % fs.length]?

/-- Agent memory holds the data of the image, followed by zeros (R210). -/
def State.fillAgent (s : State) (n : Nat) (data : List Byte) : State :=
  match s.agent n with
  | some g => (s.zeroHbm g.base 65536).store g [(0, data)]
  | none => s

/-- Starts an agent: its code and data are read through the tenancy's tables; an error ends the packet. -/
def State.startAgent (s : State) (q n base : Nat) (ws : List Word) : State :=
  let w := fun i => ws.getD i 0
  let part := s.queuePart q
  let ten := (s.subq q).ten
  let die := bits (w 4) 32 32
  let e : Eng := ⟨die * 8192, part, ten, 140, none⟩
  let i := (s.subq q).num
  let s := s.startPkt q ws
  let (code, x) := Xfer.words e (w 1).toNat (bits (w 2) 31 0 / 8) ⟨s, [], 0, 0⟩
  match code with
  | .error c => x.s.completePacket (q, i) (errorStatus c)
  | .ok code =>
    let (data, x) := Xfer.readAll e (w 3).toNat (bits (w 4) 16 0) x
    if x.code ≠ 0 then x.s.completePacket (q, i) (errorStatus x.code)
    else
      let g := newAgent die part ten (bits (w 4) 41 40) (bits (w 2) 63 32) code base x.s.nextSeq (q, i)
      ((State.setAgent { x.s with nextSeq := x.s.nextSeq + 1, freeCtr := x.s.freeCtr + 1 } n g).fillAgent n data).wakeAgents part

/-- AGENTSTART (R210, R342). While every agent number is taken, or the partition's region has no room for its memory, the packet
waits. -/
def execAgentstart (q : Nat) (s : State) : Result :=
  packetEvent (isType 2) q (fun ws s => match s.freeAgent, s.agentFrame (s.queuePart q) with
    | some n, some base => s.startAgent q n base ws
    | _, _ => s) s

/-- COPY (R342): a linear copy in the tenancy's space. -/
def execCopyPacket (q : Nat) (s : State) : Result :=
  packetEvent (isType 3) q (fun ws s => s.packetNow q ws fun s =>
    let src := (ws.getD 1 0).toNat
    let dst := (ws.getD 2 0).toNat
    let n := (ws.getD 3 0).toNat
    if footprintsMeet src 0 dst 0 1 n then (s, errorStatus 5)
    else
      let x := Xfer.move ⟨0, s.queuePart q, (s.subq q).ten, 140, none⟩ src dst n ⟨s, [], 0, 0⟩
      (x.s, if x.code ≠ 0 then errorStatus x.code else word n)) s

/-- Host timeline n of a function. -/
def State.htl (s : State) (fn n : Nat) : Word := Table.get s.htls (fn * 16 + n) 0

/-- A SIGNAL of a kind, with every earlier packet of its queue complete. -/
def State.signalReady (s : State) (q : Nat) (kind : Bool) (ws : List Word) : Bool :=
  isType 4 ws && bit (ws.getD 1 0) 63 = kind && (s.subq q).flight.isEmpty

/-- SIGNAL, KIND 0: HTLn rises to the value (R342). -/
def execSignalTimeline (q : Nat) (s : State) : Result :=
  packetEvent (s.signalReady q false) q (fun ws s => s.packetNow q ws fun s =>
    let n := bits (ws.getD 1 0) 15 0
    let v := max (s.htl (q / 16) n).toNat (ws.getD 2 0).toNat
    ({ s with htls := Table.set s.htls (q / 16 * 16 + n) (word v) }, 0)) s

/-- The agent takes events: it was started, and it has not halted. -/
def State.takesEvents (s : State) (n : Nat) : Bool := ((s.agent n).map fun g => decide (g.st ≠ 4)).getD false

/-- SIGNAL, KIND 1: an event for an agent; it is dropped when the number holds none (R264, R342). -/
def execSignalEvent (q : Nat) (s : State) : Result :=
  packetEvent (s.signalReady q true) q (fun ws s => s.packetNow q ws fun s =>
    let n := bits (ws.getD 1 0) 15 0
    if s.takesEvents n then (s.deliverEvent n (bits (ws.getD 3 0) 31 0) (ws.getD 2 0), 0) else (s, 1)) s

/-- WAITTL: it starts, and completes, once the timeline has reached the value (R342). -/
def execWaittlPacket (q : Nat) (s : State) : Result :=
  packetEvent (fun ws => isType 5 ws && decide ((ws.getD 2 0).toNat ≤ (s.htl (q / 16) (bits (ws.getD 1 0) 3 0)).toNat)) q
    (fun ws s => s.packetNow q ws fun s => (s, 0)) s

/-- SWITCHAT: writes SWITCHAT and then SWCTL of the queue's partition; the status is SWCTL after the write (R342). -/
def execSwitchatPacket (q : Nat) (s : State) : Result :=
  packetEvent (isType 6) q (fun ws s => s.packetNow q ws fun s =>
    let p := s.queuePart q
    let s := (s.writeSwitchat p (ws.getD 1 0)).writeSwctl p (ws.getD 2 0)
    (s, (s.part p).swctl)) s

/-! ### Completion rings (R344) -/

/-- An agent's HALT record is placed: the AHALT retires and the agent's number is free (R233). -/
def State.halted (s : State) (n : Nat) : State :=
  match s.agent n with
  | some g => if g.st = 4 then State.wakeAgents { s with agents := Table.erase s.agents n } g.part else s
  | none => s

/-- COMPLETION_RECORD_WRITE (R344): the oldest record held for a function goes into its ring; SEQ is TAIL modulo 2^16. -/
def execCompletionRecordWrite (fn : Nat) (s : State) : Result :=
  match Table.get s.cqHeld fn [] with
  | [] => .next s
  | r :: rest =>
    if !s.cqRoom fn then .next s
    else
      let q := s.cq fn
      let w0 := (r.getD 0 0).toNat + q.tail % 65536
      let s := s.writeHbm ⟨0, fn, 0, 140⟩ (q.base + 64 * (q.tail % 2 ^ q.log)) (wordBytes (word w0 :: r.drop 1))
      let s : State := { s with
        cqHeld := Table.set s.cqHeld fn rest
        cqs := Table.set s.cqs fn { q with tail := (q.tail + 1) % 2 ^ 32 }
        msi := if q.ie then Table.modify s.msi fn 0 (· + 1) else s.msi }
      .next (if w0 / 2 ^ 56 = 3 then s.halted (r.getD 1 0).toNat else s)

/-! ### Host accesses to memory (R338, R347) -/

/-- A host write to the memory of an agent that is not stopped leaves undefined what the agent reads there from then on (R213, R264). -/
def State.tear (s : State) (a n : Nat) : State :=
  s.mapAgents fun _ g =>
    if !g.stopped && decide (a < g.base + 65536) && decide (g.base < a + n) then { g with torn := true } else g

/-- HOST_MEMORY_ACCESS: 8 bytes of HBM. An access outside the function's window is a breach. What a read returns leaves the module;
its errors are logged. -/
def execHostMemoryAccess (fn a : Nat) (wr : Bool) (v : Word) (s : State) : Result :=
  let c : Ctx := ⟨0, fn, 0, 140⟩
  if s.frozenFns.contains fn then .next s
  else if !s.ringOk fn a 8 then .next (s.freezeFn fn)
  else if wr then .next ((s.writeHbm c a (leBytes 8 v.toNat)).tear a 8)
  else .next (s.noteRead c (.hbm a) 8)

/-! ### The registers of a BAR (R338) -/

/-- A function may reach a batch-table entry: the PF every one, a VF those of its partition (R271, R338). -/
def State.entryOf (s : State) (fn n : Nat) : Option BatchEntry :=
  (Table.find? s.batch n).filter fun e => fn = 0 || ((s.agent e.agent).map (·.part)).getD 0 = fn

/-- The 64-bit word of a batch-table entry (R271). -/
def BatchEntry.read (e : BatchEntry) (off : Nat) : Word :=
  match off with
  | 0x00 => word e.ver
  | 0x08 => word e.host
  | 0x10 => word e.shver
  | 0x18 => word e.shhost
  | 0x20 => word (e.st * 2 ^ 61 + e.op * 2 ^ 48 + e.agent * 2 ^ 32 + e.ctx)
  | 0x28 => word (e.waits * 2 ^ 56 + e.iter)
  | _ => 0

/-- The host's writes to an entry: VER, and the HOST word (R271). -/
def BatchEntry.write (e : BatchEntry) (off : Nat) (v : Word) : BatchEntry :=
  match off with
  | 0x00 => { e with ver := bits v 31 0 }
  | 0x08 => { e with host := bits v 8 8 * 256 + bits v 2 0 }
  | _ => e

/-- The register of a submission queue. -/
def State.readSq (s : State) (q off : Nat) : Word :=
  let x := s.subq q
  match off with
  | 0x00 => word x.base
  | 0x08 => s.readSqctl q
  | 0x10 => word x.hnd
  | _ => word (x.tail * 2 ^ 32 + x.head)

/-- DONE of a function (R348): no command of it waits to be performed, or to act. -/
def State.tpIdle (s : State) (fn : Nat) : Bool := !(s.tpWait.any fun c => c.1 = fn) && !(fn = 0 && s.commitWait)

/-- TPARG and TPSTAT of a function (R348): TPSTAT reads DONE with the code of the latest command, and DONE 0 until it ends. -/
def State.readMailbox (s : State) (fn off : Nat) : Word :=
  match off with
  | 0x718 => Table.get s.tparg fn 0
  | 0x720 => if s.tpIdle fn then word (2 ^ 63 + Table.get s.tpstat fn 0) else 0
  | _ => 0

def inMailbox (off : Nat) : Bool := between 0x710 0x727 off

/-- What a function reads at an 8-aligned BAR offset. A frozen function reads all ones, except the mailbox (R347). -/
def State.barRead (s : State) (fn off : Nat) : Word :=
  let cq := s.cq fn
  if inMailbox off then s.readMailbox fn off
  else if s.frozenFns.contains fn then BitVec.allOnes 64
  else if off < 0x200 then s.readSq (fn * 16 + off / 32) (off % 32)
  else if between 0x500 0x57F off then s.htl fn ((off - 0x500) / 8)
  else if 0x100000 ≤ off then
    match s.entryOf fn ((off - 0x100000) / 0x80000 * 8192 + (off - 0x100000) % 0x80000 / 64) with
    | some e => e.read (off % 64)
    | none => 0
  else
    match off with
    | 0x400 => word cq.base
    | 0x408 => word (b2n cq.ie * 16 + cq.log)
    | 0x410 => word (cq.tail * 2 ^ 32 + cq.head)
    | 0x600 => if s.partExists fn then (s.part fn).gswctl else 0
    | 0x608 => if s.partExists fn then (s.part fn).gswtime else 0
    | _ => 0

def State.modCq (s : State) (fn : Nat) (f : CompQ → CompQ) : State := { s with cqs := Table.set s.cqs fn (f (s.cq fn)) }

/-- A write of the completion ring's registers (R344). -/
def State.writeCq (s : State) (fn off : Nat) (v : Word) : State :=
  match off with
  | 0x400 => s.modCq fn fun q => { q with base := bits v 47 12 * 4096 }
  | 0x408 =>
    let l := bits v 3 0
    s.modCq fn fun q => { q with ie := bit v 4, log := if l = 0 ∨ (4 ≤ l ∧ l ≤ 12) then l else q.log }
  | 0x410 =>
    s.modCq fn fun q =>
      if (bits v 31 0 + 2 ^ 32 - q.head) % 2 ^ 32 ≤ (q.tail + 2 ^ 32 - q.head) % 2 ^ 32 then { q with head := bits v 31 0 } else q
  | _ => s

/-- The state that a result reaches. -/
def State.orSame (s : State) : Result → State
  | .next s' => s'
  | _ => s

/-- A write of a submission queue's registers (R339, R340). -/
def State.writeSq (s : State) (q off : Nat) (v : Word) : State :=
  match off with
  | 0x00 => s.modSubq q fun x => { x with base := bits v 47 12 * 4096 }
  | 0x08 => s.writeSqctl q v
  | 0x10 => s.modSubq q fun x => { x with hnd := bits v 47 0 }
  | _ => s.orSame (execSqptrWrite q v s)

/-- A write of XANSID (R345). -/
def State.writeXans (s : State) (v : Word) : State :=
  s.orSame (match bits v 63 62 with
    | 1 => execXlatResume v s
    | 2 => execXlatSkip v s
    | 3 => execXlatKill v s
    | _ => .next s)

/-- A host write at an 8-aligned BAR offset. A frozen function writes nothing but the mailbox. A write of TPCMD hands a command to Taproot,
and does nothing while DONE = 0 (R348). -/
def State.barWrite (s : State) (fn off : Nat) (v : Word) : State :=
  if off = 0x718 then { s with tparg := Table.set s.tparg fn v }
  else if off = 0x710 then (if s.tpIdle fn then { s with tpWait := s.tpWait ++ [(fn, v.toNat)] } else s)
  else if s.frozenFns.contains fn || !s.booted then s
  else if off < 0x200 then s.writeSq (fn * 16 + off / 32) (off % 32) v
  else if between 0x400 0x410 off then s.writeCq fn off v
  else if 0x100000 ≤ off then
    let n := (off - 0x100000) / 0x80000 * 8192 + (off - 0x100000) % 0x80000 / 64
    if (s.entryOf fn n).isSome then s.modEntry n fun e => e.write (off % 64) v else s
  else
    match off with
    | 0x600 => if s.partExists fn then s.writeGswctl fn v else s
    | 0x608 => if s.partExists fn then s.modPart fn fun q => { q with gswtime := v } else s
    | 0x700 => if fn = 0 then s.writeXans v else s
    | 0x708 => if fn = 0 then { s with xansval := v } else s
    | _ => s

/-- REGISTER_WRITE (R6): a write to a control register of a core's root slot (places 0-1023), or to a BAR register of the function
place − 1024. -/
def execRegisterWrite (place reg : Nat) (v : Word) (s : State) : Result :=
  .next (if place < 1024 then (if ctlListed reg then s.writeCtl place reg v else s)
    else if place < 1040 && reg % 8 = 0 then s.barWrite (place - 1024) reg v else s)

end Sys2Proof.Machine
end

