-- ==== Sys2Proof/Machine/Sha.lean ====
section
/-! DEFINITION. Sys2Proof/Machine/Sha.lean: SHA-256, by which Taproot measures (R346) and signs (R350). The spec names the function and
does not restate it: constants and rounds are those of the standard (PRESUMED, log entry 40). -/

namespace Sys2Proof.Machine

abbrev ShaWord := BitVec 32

/-- The round constants, in four parts. -/
def shaK0 : List ShaWord :=
  [0x428a2f98, 0x71374491, 0xb5c0fbcf, 0xe9b5dba5, 0x3956c25b, 0x59f111f1, 0x923f82a4, 0xab1c5ed5,
   0xd807aa98, 0x12835b01, 0x243185be, 0x550c7dc3, 0x72be5d74, 0x80deb1fe, 0x9bdc06a7, 0xc19bf174]
def shaK1 : List ShaWord :=
  [0xe49b69c1, 0xefbe4786, 0x0fc19dc6, 0x240ca1cc, 0x2de92c6f, 0x4a7484aa, 0x5cb0a9dc, 0x76f988da,
   0x983e5152, 0xa831c66d, 0xb00327c8, 0xbf597fc7, 0xc6e00bf3, 0xd5a79147, 0x06ca6351, 0x14292967]
def shaK2 : List ShaWord :=
  [0x27b70a85, 0x2e1b2138, 0x4d2c6dfc, 0x53380d13, 0x650a7354, 0x766a0abb, 0x81c2c92e, 0x92722c85,
   0xa2bfe8a1, 0xa81a664b, 0xc24b8b70, 0xc76c51a3, 0xd192e819, 0xd6990624, 0xf40e3585, 0x106aa070]
def shaK3 : List ShaWord :=
  [0x19a4c116, 0x1e376c08, 0x2748774c, 0x34b0bcb5, 0x391c0cb3, 0x4ed8aa4a, 0x5b9cca4f, 0x682e6ff3,
   0x748f82ee, 0x78a5636f, 0x84c87814, 0x8cc70208, 0x90befffa, 0xa4506ceb, 0xbef9a3f7, 0xc67178f2]

/-- The eight working variables. -/
structure ShaRegs where
  a : ShaWord
  b : ShaWord
  c : ShaWord
  d : ShaWord
  e : ShaWord
  f : ShaWord
  g : ShaWord
  h : ShaWord
deriving DecidableEq, Repr

def shaStart : ShaRegs :=
  ⟨0x6a09e667, 0xbb67ae85, 0x3c6ef372, 0xa54ff53a, 0x510e527f, 0x9b05688c, 0x1f83d9ab, 0x5be0cd19⟩

def ShaRegs.add (x y : ShaRegs) : ShaRegs :=
  ⟨x.a + y.a, x.b + y.b, x.c + y.c, x.d + y.d, x.e + y.e, x.f + y.f, x.g + y.g, x.h + y.h⟩

/-- One round, with the constant and the word of the schedule. -/
def ShaRegs.round (r : ShaRegs) (k w : ShaWord) : ShaRegs :=
  let t1 := r.h + (r.e.rotateRight 6 ^^^ r.e.rotateRight 11 ^^^ r.e.rotateRight 25) + ((r.e &&& r.f) ^^^ (~~~r.e &&& r.g)) + k + w
  let t2 := (r.a.rotateRight 2 ^^^ r.a.rotateRight 13 ^^^ r.a.rotateRight 22) + ((r.a &&& r.b) ^^^ (r.a &&& r.c) ^^^ (r.b &&& r.c))
  ⟨t1 + t2, r.a, r.b, r.c, r.d + t1, r.e, r.f, r.g⟩

/-- The word of the schedule that follows 16 others. -/
def shaNext (w : List ShaWord) : ShaWord :=
  let x := w.getD 1 0
  let y := w.getD 14 0
  w.getD 0 0 + (x.rotateRight 7 ^^^ x.rotateRight 18 ^^^ x >>> 3) + w.getD 9 0 + (y.rotateRight 17 ^^^ y.rotateRight 19 ^^^ y >>> 10)

/-- The rounds of a block, over the 16 next words of the schedule. -/
def shaRounds : List ShaWord → List ShaWord → ShaRegs → ShaRegs
  | [], _, r => r
  | k :: ks, w, r => shaRounds ks (w.drop 1 ++ [shaNext w]) (r.round k (w.getD 0 0))

/-- A number of `n` bytes, the most significant one first, and back. -/
def beNat (bs : List Byte) : Nat := bs.foldl (fun v b => v * 256 + b.toNat) 0

def beBytes (n v : Nat) : List Byte := (leBytes n v).reverse

def shaBlock (r : ShaRegs) (block : List Byte) : ShaRegs :=
  let w := (List.range 16).map fun i => BitVec.ofNat 32 (beNat ((block.drop (4 * i)).take 4))
  r.add (shaRounds (shaK0 ++ shaK1 ++ shaK2 ++ shaK3) w r)

/-- The message with its padding: a one bit, zeros to whole blocks of 64 bytes, and its length in bits. -/
def shaPad (m : List Byte) : List Byte :=
  m ++ 0x80 :: List.replicate ((119 - m.length % 64) % 64) 0 ++ beBytes 8 (8 * m.length)

def shaBlocks : Nat → List Byte → ShaRegs → ShaRegs
  | 0, _, r => r
  | n + 1, m, r => shaBlocks n (m.drop 64) (shaBlock r (m.take 64))

/-- SHA-256. Byte i of the digest is bits [8i + 7:8i] (DEDUCED, log entry 39). -/
def sha256 (m : List Byte) : BitVec 256 :=
  let p := shaPad m
  let r := shaBlocks (p.length / 64) p shaStart
  BitVec.ofNat 256 (leNat ([r.a, r.b, r.c, r.d, r.e, r.f, r.g, r.h].flatMap fun w => beBytes 4 w.toNat))

end Sys2Proof.Machine
end

