-- ==== Sys2Proof/Machine/Taproot.lean ====
section
/-! DEFINITION. Sys2Proof/Machine/Taproot.lean: Taproot (R346-R350, R354): power-on, the mailbox commands with partition creation
(R310), the hand-over to a new image, attestation, and the hourly health update. -/

namespace Sys2Proof.Machine

/-! ### Measurements (R346) -/

/-- The bytes of a digest. -/
def digestBytes (d : BitVec 256) : List Byte := leBytes 32 d.toNat

/-- extend(m, d) = SHA-256(m ‖ d). -/
def extendMeas (m d : BitVec 256) : BitVec 256 := sha256 (digestBytes m ++ digestBytes d)

def State.measure (s : State) (n : Nat) : BitVec 256 := Table.get s.meas n 0

def State.setMeas (s : State) (n : Nat) (d : BitVec 256) : State := { s with meas := Table.set s.meas n d }

def State.extendTo (s : State) (n : Nat) (d : BitVec 256) : State := s.setMeas n (extendMeas (s.measure n) d)

/-! ### Boot (R346) -/

/-- Step 3: the signature, and the fused minimum SVN. -/
def State.verifies (s : State) (i : Image) : Bool := i.valid && decide (s.fuseSvn ≤ i.svn)

/-- The firmware of an image enters its HBM region. What its bytes are is open (log entry 40). -/
def State.storeFirmware (s : State) (i : Image) : State :=
  s.writeHbm ⟨0, 0, 0, 140⟩ i.base ((List.range (i.limit - i.base)).map (Config.firmwareByte i.digest))

/-- Steps 4 and 5: the image is measured and loaded, FWROOT is set, and every core is released, in cycle 0 of each (R158). -/
def State.load (s : State) (i : Image) : State :=
  let s := (((s.extendTo 1 i.digest).extendTo 2 i.micro).extendTo 3 i.xlat).storeFirmware i
  { s with
    running := some i, staged := none, fwroot := i.fwroot, fwBase := i.base, fwLimit := i.limit, booted := true, recov := false
    ftimeBase := s.ftime, cycle := 0, coreTurn := 0, tried := [], stackErrs := [], healthHours := 0 }

/-- POWER_ON (R346): the primary copy, then the secondary; with neither, recovery. -/
def execPowerOn (s : State) : Result :=
  if s.booted || s.recov then .next s
  else
    let s := s.extendTo 0 Config.romDigest
    match s.flash.find? s.verifies with
    | some i => .next (s.load i)
    | none => .next { s with recov := true }

/-! ### The mailbox (R348) -/

def State.tpDone (s : State) (fn code : Nat) : State := { s with tpstat := Table.set s.tpstat fn code }

/-- The bytes of the block at TPARG of a function's command. -/
def State.tpBlock (s : State) (fn code : Nat) : List Byte := s.rawBytes (Table.get s.tparg fn 0).toNat (Config.blockLen code)

/-- The block at TPARG lies in the function's region (R348). -/
def State.blockOk (s : State) (fn code : Nat) : Bool := s.ringOk fn (Table.get s.tparg fn 0).toNat (Config.blockLen code)

/-- A command that only the PF may issue. From a VF it ends with code 4 and is a breach (R347, R348). While a COMMIT waits, Taproot performs
no other command: its commands are one at a time. In recovery the PF serves STAGE and COMMIT only (R346). -/
def State.pfCommand (s : State) (fn : Nat) (inRecovery : Bool) (f : State → State) : Result :=
  if s.commitWait then .next s
  else if fn ≠ 0 then .next ((s.tpDone fn 4).freezeFn fn)
  else if !s.booted && !inRecovery then .next s
  else .next (f s)

/-- The same with a block, which ends with code 1 where the block lies outside the function's region. A right that lacks goes before it
(DESIGN CHOICE, log entry 88). -/
def State.blockCommand (s : State) (fn code : Nat) (inRecovery : Bool) (f : State → State) : Result :=
  s.pfCommand fn inRecovery fun s => if s.blockOk fn code then f s else s.tpDone fn 1

/-- A code that the spec leaves open: a free value. -/
def State.tpOpen (s : State) (fn : Nat) : State :=
  State.tpDone { s with freeCtr := s.freeCtr + 1 } fn (bits (Config.freeWord s.freeCtr) 15 0)

/-! ### Hand-over (R349) -/

/-- TP_STAGE (R349). -/
def execTpStage (fn : Nat) (img : Image) (s : State) : Result :=
  s.blockCommand fn 1 true fun s =>
    let newer := (s.running.map fun r => decide (r.svn ≤ img.svn)).getD true
    if s.verifies img && newer then
      (State.postTo { s with staged := some img } 0 [recordHead 9 0 0, 2, word img.ver, 0, 0, 0, 0, 0]).tpDone fn 0
    else s.tpDone fn 2

/-- A root slot has no record in hand: its micro-kernel waits for none, or its code is parked on the LDT of the trap queue. That of a core
that a breach has stopped, until a hand-over commit (R347), holds up none. -/
def State.rootQuiet (s : State) (core : Nat) : Bool :=
  let c := s.core core
  if s.stopped.contains core then true
  else if s.rootCode.contains core then
    let base := c.tqbase.toNat % Config.padBytes
    match (s.thr core).wait with
    | some (.regs _) => s.banks.any fun e => e.2.any fun r =>
        r.t = core && r.k = .ldt && decide (base ≤ r.off) && decide (r.off < base + 2048) && r.off % 32 = 0
    | _ => false
  else c.kfill.isNone && c.kposts.isEmpty

/-- Every core that has executed anything is quiet; the walks of the translation service cores are single steps. -/
def State.quiet (s : State) : Bool := (s.cores.map (·.1) ++ s.rootCode).all s.rootQuiet

/-- Every core goes to the staged image in one step (R349): translations of the firmware table that FWROOT named before go with it, and
a root slot that runs code goes on where it stands (DESIGN CHOICE, log entry 73). -/
def State.handOver (s : State) (i : Image) : State :=
  let s := ((s.setMeas 1 (extendMeas 0 i.digest)).extendTo 5 i.digest).storeFirmware i
  let s : State := { s with
    running := some i, staged := none, fwroot := i.fwroot, fwBase := i.base, fwLimit := i.limit, stopped := [], commitWait := false
    cores := Table.mapVals s.cores fun c => { c with tlb := c.tlb.filter fun e => e.part ≠ 0 }
    clusters := Table.mapVals s.clusters fun c => { c with tlb := c.tlb.filter fun e => e.part ≠ 0 }
    threads := Table.mapVals s.threads fun th => if th.part = 0 then { th with answers := [] } else th }
  (s.postTo 0 [recordHead 9 0 0, 3, word i.ver, 0, 0, 0, 0, 0]).tpDone 0 0

/-- A hand-over of the running module waits until every root slot is quiet (R349). -/
def State.commitImage (s : State) (i : Image) : State := if s.quiet then s.handOver i else { s with commitWait := true }

/-- TP_COMMIT (R349): the command, or the hand-over that it waits for. Without a staged image the spec names no code, and the code is a
free value. -/
def execTpCommit (fn : Nat) (s : State) : Result :=
  match (if fn = 0 && s.commitWait then s.staged else none) with
  | some i => .next (s.commitImage i)
  | none =>
    s.pfCommand fn true fun s =>
      match s.staged with
      | none => s.tpOpen fn
      | some i =>
        if s.booted then s.commitImage i
        else (((s.load i).extendTo 5 i.digest).postTo 0 [recordHead 9 0 0, 3, word i.ver, 0, 0, 0, 0, 0]).tpDone fn 0

/-! ### Attestation (R350) -/

/-- Bytes 0x000-0x157 of the report. -/
def State.report (s : State) (fn : Nat) (nonce : List Byte) : List Byte :=
  leBytes 8 (s.readModule 0 0x600).toNat ++ leBytes 8 (b2n s.staged.isSome + fn % 16 * 256) ++
    leBytes 8 ((s.staged.map (·.ver)).getD 0) ++ (List.range 8).flatMap (fun n => digestBytes (s.measure n)) ++ nonce ++
    [0x405, 0x404, 0x407, 0x406].flatMap fun r => leBytes 8 (if fn = 0 then 0 else (s.readPart 0 fn r).toNat)

/-- ATTEST (R348, R350): every function may issue it. The block must lie in the function's region. While a COMMIT waits it is not performed:
commands are performed one at a time. -/
def execAttest (fn : Nat) (s : State) : Result :=
  if !s.booted || s.commitWait then .next s
  else
    let a := (Table.get s.tparg fn 0).toNat
    if !s.ringOk fn a (64 + 0x158 + 384) then .next (s.tpDone fn 1)
    else
      let r := s.report fn (s.rawBytes a 32)
      let sig := (List.range 384).map (Config.signature (sha256 r))
      .next ((s.writeHbm ⟨0, fn, 0, 140⟩ (a + 64) (r ++ sig)).tpDone fn 0)

/-! ### Partitions (R310, R314, R348) -/

/-- The block holds values that the registers can hold. -/
def Bounds.ok (b : Bounds) : Bool :=
  decide (1 ≤ b.part) && decide (b.part ≤ 15) && b.pslots ≠ 0 && decide (b.pslots < 2 ^ 16) && b.pslots % 2 = 0 &&
    decide (b.pbanks < 2 ^ 15) && decide (b.glo ≤ b.ghi) && decide (b.ghi < Config.clusters) && decide (b.hbmBase ≤ b.hbmLimit) &&
    decide (b.hbmLimit * 2 ^ 21 ≤ Config.hbmBytes) && decide (b.pbnBase ≤ b.pbnLimit) && decide (b.pbnLimit < 2 ^ 32) &&
    decide (b.keys.length = 4) && b.keys.all (fun k => decide (k < 256)) && decide (b.fabkey < 65536) &&
    decide (b.canquota.length = 4) && b.canquota.all (fun q => decide (q ≤ Config.canopyPages)) &&
    decide (b.cdBase ≤ b.cdLimit) && decide (b.cdLimit ≤ 262144)

/-- The bounds share nothing with another partition, and the region nothing with the firmware's (R310, R314, R346). -/
def State.disjoint (s : State) (b : Bounds) : Bool :=
  (s.parts.all fun e => e.1 = b.part ||
    (decide (e.2.pslots &&& b.pslots = 0) && decide (e.2.pbanks &&& b.pbanks = 0) &&
      apart e.2.hbmBase e.2.hbmLimit b.hbmBase b.hbmLimit && apart e.2.pbnBase e.2.pbnLimit b.pbnBase b.pbnLimit &&
      apart e.2.cdBase e.2.cdLimit b.cdBase b.cdLimit)) &&
    apart s.fwBase s.fwLimit (b.hbmBase * 2 ^ 21) (b.hbmLimit * 2 ^ 21)

/-- The bounds as the registers of a partition hold them. -/
def Bounds.apply (b : Bounds) (p : Part) : Part :=
  { p with
    pslots := b.pslots, pbanks := b.pbanks, glo := b.glo, ghi := b.ghi, hbmBase := b.hbmBase, hbmLimit := b.hbmLimit
    pbnBase := b.pbnBase, pbnLimit := b.pbnLimit, keys := b.keys, fabkey := b.fabkey
    canquota := (List.range 4).map fun t => (t, b.canquota.getD t 0)
    cdBase := b.cdBase, cdLimit := b.cdLimit }

/-- Everything of a partition returns to the state of R310, under its present bounds. -/
def State.clearPart (s : State) (p : Nat) : State :=
  let q := s.part p
  let s := [0, 1, 2, 3].foldl (fun s t => s.freshTenancy p t) s
  let mine := fun (e : Nat × BatchEntry) => ((s.agent e.2.agent).map (·.part)).getD p = p
  { s with
    contexts := s.contexts.filter fun e => e.2.part ≠ p
    blocks := s.blocks.filter fun e => !(decide (q.pbnBase ≤ e.1) && decide (e.1 < q.pbnLimit))
    batch := s.batch.filter fun e => !mine e
    iters := Table.erase s.iters p }

/-- A partition command has been performed: MEAS4 is extended with the SHA-256 of its block (R346), as it was when Taproot read it. -/
def State.partDone (s : State) (fn : Nat) (block : List Byte) : State := (s.extendTo 4 (sha256 block)).tpDone fn 0

/-- PSET (R310, R348): it creates a partition, or gives an existing one new bounds. -/
def execPset (fn : Nat) (b : Bounds) (s : State) : Result :=
  s.blockCommand fn 4 false fun s =>
    let block := s.tpBlock fn 4
    if !Bounds.ok b then s.tpDone fn 1
    else if !s.disjoint b then s.tpDone fn 3
    else if s.partExists b.part then (s.modPart b.part (Bounds.apply b)).partDone fn block
    else
      let s : State := { s with parts := Table.set s.parts b.part (Bounds.apply b freshPart) }
      (s.clearPart b.part).partDone fn block

/-- PDESTROY (R348). -/
def execPdestroy (fn p : Nat) (s : State) : Result :=
  s.blockCommand fn 5 false fun s =>
    let block := s.tpBlock fn 5
    if p = 0 || 15 < p || !s.partExists p then s.tpDone fn 1
    else
      let s := s.clearPart p
      State.partDone { s with parts := Table.erase s.parts p } fn block

/-- EXTEND (R348): MEAS5-MEAS7 only. -/
def execExtend (fn n : Nat) (d : BitVec 256) (s : State) : Result :=
  s.blockCommand fn 6 false fun s => if n < 5 || 7 < n then s.tpDone fn 1 else (s.extendTo n d).tpDone fn 0

/-- UNFREEZE (R347, R348): of a VF; the PF is unfrozen only by reset. -/
def execUnfreeze (fn vf : Nat) (s : State) : Result :=
  s.blockCommand fn 7 false fun s =>
    if vf = 0 || 15 < vf then s.tpDone fn 1
    else State.tpDone { s with frozenFns := s.frozenFns.filter (· ≠ vf) } fn 0

/-! ### Commands from the mailbox (R348) -/

/-- The operands that a block names, field by field. -/
def blockImage (f : Nat → Nat) : Image :=
  ⟨decide (f 0 ≠ 0), f 1, f 2, BitVec.ofNat 256 (f 3), BitVec.ofNat 256 (f 4), BitVec.ofNat 256 (f 5), word (f 6), f 7, f 8⟩

def blockBounds (f : Nat → Nat) : Bounds where
  part := f 0
  pslots := f 1
  pbanks := f 2
  glo := f 3
  ghi := f 4
  hbmBase := f 5
  hbmLimit := f 6
  pbnBase := f 7
  pbnLimit := f 8
  keys := [f 9, f 10, f 11, f 12]
  fabkey := f 13
  canquota := [f 14, f 15, f 16, f 17]
  cdBase := f 18
  cdLimit := f 19

/-- Taproot performs a command, with the operands of the block at TPARG. An unknown code is no right of a VF; from the PF it ends with a code
that the spec leaves open. -/
def State.tpCommand (s : State) (fn code : Nat) : Result :=
  let f := Config.blockField code (s.tpBlock fn code)
  match code with
  | 1 => execTpStage fn (blockImage f) s
  | 2 => execTpCommit fn s
  | 3 => execAttest fn s
  | 4 => execPset fn (blockBounds f) s
  | 5 => execPdestroy fn (f 0) s
  | 6 => execExtend fn (f 0) (BitVec.ofNat 256 (f 1)) s
  | 7 => execUnfreeze fn (f 0) s
  | _ => s.pfCommand fn false (·.tpOpen fn)

/-- Taproot performs the oldest command that waits, one at a time: a COMMIT that waits for the root slots goes first. -/
def State.tpNext (s : State) : Option State :=
  if s.commitWait then (if s.quiet then some (s.orSame (execTpCommit 0 s)) else none)
  else
    match s.tpWait with
    | (fn, code) :: rest => some (State.orSame s (State.tpCommand { s with tpWait := rest } fn code))
    | [] => none

/-! ### Health (R352, R354) -/

/-- Drift of an index of HSEL. -/
def driftOf (w : Word) : Nat := bits w 31 16

/-- The first index with the greatest drift. -/
def worstOf (l : List (Nat × Word)) : Nat :=
  (l.foldl (fun (best : Nat × Nat) e => if best.2 < driftOf e.2 then (e.1, driftOf e.2) else best)
    (((l.head?.map (·.1)).getD 0), ((l.head?.map fun e => driftOf e.2).getD 0))).1

/-- An hour of operation has passed since the latest update (R354). -/
def State.healthDue (s : State) : Bool := decide ((s.healthHours + 1) * 3600 * 10 ^ 9 ≤ s.ftime - s.ftimeBase)

/-- HDATA of an index: a cluster's oscillator has a free drift and frequency; a stack's drift is its corrected errors per day, saturating,
and its VAL is 0 (R352; the average since the cores were released, DESIGN CHOICE, log entry 76). -/
def State.healthOf (s : State) (i : Nat) : Word :=
  if i < 128 then word (bits (Config.freeWord (s.freeCtr + i)) 31 0)
  else word (min (Table.get s.stackErrs (i - 128) 0 * 24 / (s.healthHours + 1)) 0xFFFF * 2 ^ 16)

/-- HEALTH_UPDATE (R354), once an hour: the oscillators' figures and the prediction are free values; DAYS stays 0xFFFF in the first
72 hours and never exceeds 0xFFFE after. -/
def execHealthUpdate (s : State) : Result :=
  if !s.booted || !s.healthDue then .next s
  else
    let h := (List.range 136).map fun i => (i, s.healthOf i)
    let days := if s.ftime - s.ftimeBase < 72 * 3600 * 10 ^ 9 then 0xFFFF
      else min (bits (Config.freeWord (s.freeCtr + 128)) 15 0) 0xFFFE
    .next { s with
      health := h, life := word (worstOf h * 2 ^ 40 + days), freeCtr := s.freeCtr + 129, healthHours := s.healthHours + 1 }

end Sys2Proof.Machine
end

