-- ==== Sys2Proof/Machine/Dispatch.lean ====
section
/-! DEFINITION. Sys2Proof/Machine/Dispatch.lean: one arm for each constructor of `Instr`, each one direct call of the
instruction's meaning. -/

namespace Sys2Proof.Machine

def exec (i : Instr) (s : State) : Host.Outcome State Fault Refusal :=
  match i with
  | .add rd a b => Sys2Proof.Machine.execAdd rd a b s
  | .sub rd a b => Sys2Proof.Machine.execSub rd a b s
  | .and rd a b => Sys2Proof.Machine.execAnd rd a b s
  | .or rd a b => Sys2Proof.Machine.execOr rd a b s
  | .xor rd a b => Sys2Proof.Machine.execXor rd a b s
  | .sll rd a b => Sys2Proof.Machine.execSll rd a b s
  | .srl rd a b => Sys2Proof.Machine.execSrl rd a b s
  | .sra rd a b => Sys2Proof.Machine.execSra rd a b s
  | .slt rd a b => Sys2Proof.Machine.execSlt rd a b s
  | .sltu rd a b => Sys2Proof.Machine.execSltu rd a b s
  | .min rd a b => Sys2Proof.Machine.execMin rd a b s
  | .max rd a b => Sys2Proof.Machine.execMax rd a b s
  | .minu rd a b => Sys2Proof.Machine.execMinu rd a b s
  | .maxu rd a b => Sys2Proof.Machine.execMaxu rd a b s
  | .mul rd a b => Sys2Proof.Machine.execMul rd a b s
  | .mulh rd a b => Sys2Proof.Machine.execMulh rd a b s
  | .mulhu rd a b => Sys2Proof.Machine.execMulhu rd a b s
  | .div rd a b => Sys2Proof.Machine.execDiv rd a b s
  | .divu rd a b => Sys2Proof.Machine.execDivu rd a b s
  | .rem rd a b => Sys2Proof.Machine.execRem rd a b s
  | .remu rd a b => Sys2Proof.Machine.execRemu rd a b s
  | .clz rd a => Sys2Proof.Machine.execClz rd a s
  | .ctz rd a => Sys2Proof.Machine.execCtz rd a s
  | .popc rd a => Sys2Proof.Machine.execPopc rd a s
  | .addsh1 rd a b => Sys2Proof.Machine.execAddsh1 rd a b s
  | .addsh2 rd a b => Sys2Proof.Machine.execAddsh2 rd a b s
  | .addsh3 rd a b => Sys2Proof.Machine.execAddsh3 rd a b s
  | .andn rd a b => Sys2Proof.Machine.execAndn rd a b s
  | .sextw rd a => Sys2Proof.Machine.execSextw rd a s
  | .zextw rd a => Sys2Proof.Machine.execZextw rd a s
  | .addi rd a imm => Sys2Proof.Machine.execAddi rd a imm s
  | .andi rd a imm => Sys2Proof.Machine.execAndi rd a imm s
  | .ori rd a imm => Sys2Proof.Machine.execOri rd a imm s
  | .xori rd a imm => Sys2Proof.Machine.execXori rd a imm s
  | .slti rd a imm => Sys2Proof.Machine.execSlti rd a imm s
  | .slli rd a amt => Sys2Proof.Machine.execSlli rd a amt s
  | .srli rd a amt => Sys2Proof.Machine.execSrli rd a amt s
  | .srai rd a amt => Sys2Proof.Machine.execSrai rd a amt s
  | .lui rd imm => Sys2Proof.Machine.execLui rd imm s
  | .addpc rd imm => Sys2Proof.Machine.execAddpc rd imm s
  | .ldb rd a imm => Sys2Proof.Machine.execLdb rd a imm s
  | .ldbu rd a imm => Sys2Proof.Machine.execLdbu rd a imm s
  | .ldh rd a imm => Sys2Proof.Machine.execLdh rd a imm s
  | .ldhu rd a imm => Sys2Proof.Machine.execLdhu rd a imm s
  | .ldw rd a imm => Sys2Proof.Machine.execLdw rd a imm s
  | .ldwu rd a imm => Sys2Proof.Machine.execLdwu rd a imm s
  | .ldd rd a imm => Sys2Proof.Machine.execLdd rd a imm s
  | .stb d a imm => Sys2Proof.Machine.execStb d a imm s
  | .sth d a imm => Sys2Proof.Machine.execSth d a imm s
  | .stw d a imm => Sys2Proof.Machine.execStw d a imm s
  | .std d a imm => Sys2Proof.Machine.execStd d a imm s
  | .ldf rd a imm => Sys2Proof.Machine.execLdf rd a imm s
  | .ldt rd a imm => Sys2Proof.Machine.execLdt rd a imm s
  | .ldp rd a imm => Sys2Proof.Machine.execLdp rd a imm s
  | .ldft rd a imm => Sys2Proof.Machine.execLdft rd a imm s
  | .stf d a imm => Sys2Proof.Machine.execStf d a imm s
  | .fewF a imm => Sys2Proof.Machine.execFewF a imm s
  | .fewE a imm => Sys2Proof.Machine.execFewE a imm s
  | .amoadd rd a b o => Sys2Proof.Machine.execAmoadd rd a b o s
  | .amoswap rd a b o => Sys2Proof.Machine.execAmoswap rd a b o s
  | .amocas rd a b o => Sys2Proof.Machine.execAmocas rd a b o s
  | .amomin rd a b o => Sys2Proof.Machine.execAmomin rd a b o s
  | .amomax rd a b o => Sys2Proof.Machine.execAmomax rd a b o s
  | .amominu rd a b o => Sys2Proof.Machine.execAmominu rd a b o s
  | .amomaxu rd a b o => Sys2Proof.Machine.execAmomaxu rd a b o s
  | .amoand rd a b o => Sys2Proof.Machine.execAmoand rd a b o s
  | .amoor rd a b o => Sys2Proof.Machine.execAmoor rd a b o s
  | .amoxor rd a b o => Sys2Proof.Machine.execAmoxor rd a b o s
  | .fenceFull sc => Sys2Proof.Machine.execFenceFull sc s
  | .fenceAcq sc => Sys2Proof.Machine.execFenceAcq sc s
  | .fenceRel sc => Sys2Proof.Machine.execFenceRel sc s
  | .beq a b off => Sys2Proof.Machine.execBeq a b off s
  | .bne a b off => Sys2Proof.Machine.execBne a b off s
  | .blt a b off => Sys2Proof.Machine.execBlt a b off s
  | .bge a b off => Sys2Proof.Machine.execBge a b off s
  | .bltu a b off => Sys2Proof.Machine.execBltu a b off s
  | .bgeu a b off => Sys2Proof.Machine.execBgeu a b off s
  | .jal rd imm => Sys2Proof.Machine.execJal rd imm s
  | .jalr rd a imm => Sys2Proof.Machine.execJalr rd a imm s
  | .loop rd a imm => Sys2Proof.Machine.execLoop rd a imm s
  | .spawn rd a => Sys2Proof.Machine.execSpawn rd a s
  | .join rd a => Sys2Proof.Machine.execJoin rd a s
  | .leave rd a => Sys2Proof.Machine.execLeave rd a s
  | .bar rd a b => Sys2Proof.Machine.execBar rd a b s
  | .whoami rd a => Sys2Proof.Machine.execWhoami rd a s
  | .grpcnt rd a => Sys2Proof.Machine.execGrpcnt rd a s
  | .waittl q a => Sys2Proof.Machine.execWaittl q a s
  | .qbind q a => Sys2Proof.Machine.execQbind q a s
  | .qfree q => Sys2Proof.Machine.execQfree q s
  | .qstat q rd => Sys2Proof.Machine.execQstat q rd s
  | .qrd q rd => Sys2Proof.Machine.execQrd q rd s
  | .qwr q a => Sys2Proof.Machine.execQwr q a s
  | .cpy tok b ch => Sys2Proof.Machine.execCpy tok b ch s
  | .cpyRect tok b ch => Sys2Proof.Machine.execCpyRect tok b ch s
  | .cpyWin tok b ch => Sys2Proof.Machine.execCpyWin tok b ch s
  | .cpyCow tok b ch => Sys2Proof.Machine.execCpyCow tok b ch s
  | .gath tok b ch => Sys2Proof.Machine.execGath tok b ch s
  | .gathRows tok b ch => Sys2Proof.Machine.execGathRows tok b ch s
  | .collAllred tok b ch => Sys2Proof.Machine.execCollAllred tok b ch s
  | .collAllgath tok b ch => Sys2Proof.Machine.execCollAllgath tok b ch s
  | .collRedscat tok b ch => Sys2Proof.Machine.execCollRedscat tok b ch s
  | .collAlltoall tok b ch => Sys2Proof.Machine.execCollAlltoall tok b ch s
  | .atsub tok b => Sys2Proof.Machine.execAtsub tok b s
  | .mlease tok => Sys2Proof.Machine.execMlease tok s
  | .mrel l => Sys2Proof.Machine.execMrel l s
  | .mzero l => Sys2Proof.Machine.execMzero l s
  | .mmul l a b => Sys2Proof.Machine.execMmul l a b s
  | .mmulS l a b => Sys2Proof.Machine.execMmulS l a b s
  | .mdrain l tok b => Sys2Proof.Machine.execMdrain l tok b s
  | .mwait l => Sys2Proof.Machine.execMwait l s
  | .ralloc pin auto tok b => Sys2Proof.Machine.execRalloc pin auto tok b s
  | .rfill tok b => Sys2Proof.Machine.execRfill tok b s
  | .rpin tok b => Sys2Proof.Machine.execRpin tok b s
  | .runpin tok b => Sys2Proof.Machine.execRunpin tok b s
  | .rrevoke tok b => Sys2Proof.Machine.execRrevoke tok b s
  | .rquery tok b => Sys2Proof.Machine.execRquery tok b s
  | .tidset a b => Sys2Proof.Machine.execTidset a b s
  | .tidget a b => Sys2Proof.Machine.execTidget a b s
  | .tidpatch dim a b => Sys2Proof.Machine.execTidpatch dim a b s
  | .vadd vd va vb pg t z => Sys2Proof.Machine.execVadd vd va vb pg t z s
  | .vsub vd va vb pg t z => Sys2Proof.Machine.execVsub vd va vb pg t z s
  | .vmul vd va vb pg t z => Sys2Proof.Machine.execVmul vd va vb pg t z s
  | .vmulh vd va vb pg t z => Sys2Proof.Machine.execVmulh vd va vb pg t z s
  | .vmin vd va vb pg t z => Sys2Proof.Machine.execVmin vd va vb pg t z s
  | .vmax vd va vb pg t z => Sys2Proof.Machine.execVmax vd va vb pg t z s
  | .vand vd va vb pg t z => Sys2Proof.Machine.execVand vd va vb pg t z s
  | .vor vd va vb pg t z => Sys2Proof.Machine.execVor vd va vb pg t z s
  | .vxor vd va vb pg t z => Sys2Proof.Machine.execVxor vd va vb pg t z s
  | .vshl vd va vb pg t z => Sys2Proof.Machine.execVshl vd va vb pg t z s
  | .vshr vd va vb pg t z => Sys2Proof.Machine.execVshr vd va vb pg t z s
  | .vsra vd va vb pg t z => Sys2Proof.Machine.execVsra vd va vb pg t z s
  | .vabs vd va pg t z => Sys2Proof.Machine.execVabs vd va pg t z s
  | .vneg vd va pg t z => Sys2Proof.Machine.execVneg vd va pg t z s
  | .vmac vd va vb pg t z => Sys2Proof.Machine.execVmac vd va vb pg t z s
  | .vfadd vd va vb pg t z => Sys2Proof.Machine.execVfadd vd va vb pg t z s
  | .vfsub vd va vb pg t z => Sys2Proof.Machine.execVfsub vd va vb pg t z s
  | .vfmul vd va vb pg t z => Sys2Proof.Machine.execVfmul vd va vb pg t z s
  | .vfma vd va vb pg t z => Sys2Proof.Machine.execVfma vd va vb pg t z s
  | .vfmin vd va vb pg t z => Sys2Proof.Machine.execVfmin vd va vb pg t z s
  | .vfmax vd va vb pg t z => Sys2Proof.Machine.execVfmax vd va vb pg t z s
  | .vfabs vd va pg t z => Sys2Proof.Machine.execVfabs vd va pg t z s
  | .vfneg vd va pg t z => Sys2Proof.Machine.execVfneg vd va pg t z s
  | .vcvt vd va pg dst src r o z => Sys2Proof.Machine.execVcvt vd va pg dst src r o z s
  | .vld vd xs pg sz z => Sys2Proof.Machine.execVld vd xs pg sz z s
  | .vst vd xs pg sz => Sys2Proof.Machine.execVst vd xs pg sz s
  | .vgath vd va xs pg sz z => Sys2Proof.Machine.execVgath vd va xs pg sz z s
  | .vscat vd va xs pg sz => Sys2Proof.Machine.execVscat vd va xs pg sz s
  | .vsplat vd xs pg sz z => Sys2Proof.Machine.execVsplat vd xs pg sz z s
  | .vbound pd a b t => Sys2Proof.Machine.execVbound pd a b t s
  | .vcmp pd va vb pg t cc => Sys2Proof.Machine.execVcmp pd va vb pg t cc s
  | .pand pd pa pb => Sys2Proof.Machine.execPand pd pa pb s
  | .por pd pa pb => Sys2Proof.Machine.execPor pd pa pb s
  | .pnot pd pa => Sys2Proof.Machine.execPnot pd pa s
  | .pxor pd pa pb => Sys2Proof.Machine.execPxor pd pa pb s
  | .pcount ps rd t => Sys2Proof.Machine.execPcount ps rd t s
  | .pfirst ps rd t => Sys2Proof.Machine.execPfirst ps rd t s
  | .vslideup vd va xs pg sz z => Sys2Proof.Machine.execVslideup vd va xs pg sz z s
  | .vslidedn vd va xs pg sz z => Sys2Proof.Machine.execVslidedn vd va xs pg sz z s
  | .vperm vd va vb pg t z => Sys2Proof.Machine.execVperm vd va vb pg t z s
  | .vcompress vd va pg t z => Sys2Proof.Machine.execVcompress vd va pg t z s
  | .vsel vd va vb pg t => Sys2Proof.Machine.execVsel vd va vb pg t s
  | .vredadd vd va vb pg t => Sys2Proof.Machine.execVredadd vd va vb pg t s
  | .vredmax vd va vb pg t => Sys2Proof.Machine.execVredmax vd va vb pg t s
  | .vredmin vd va vb pg t => Sys2Proof.Machine.execVredmin vd va vb pg t s
  | .vfredadd vd va vb pg t => Sys2Proof.Machine.execVfredadd vd va vb pg t s
  | .vext va rd b sz => Sys2Proof.Machine.execVext va rd b sz s
  | .vins vd a b sz => Sys2Proof.Machine.execVins vd a b sz s
  | .vrcp vd va pg t z => Sys2Proof.Machine.execVrcp vd va pg t z s
  | .vrsq vd va pg t z => Sys2Proof.Machine.execVrsq vd va pg t z s
  | .vexp2 vd va pg t z => Sys2Proof.Machine.execVexp2 vd va pg t z s
  | .vlog2 vd va pg t z => Sys2Proof.Machine.execVlog2 vd va pg t z s
  | .vtanh vd va pg t z => Sys2Proof.Machine.execVtanh vd va pg t z s
  | .vwidth rd => Sys2Proof.Machine.execVwidth rd s
  | .vtopk vd va pg t => Sys2Proof.Machine.execVtopk vd va pg t s
  | .vmaxx vd va vb t => Sys2Proof.Machine.execVmaxx vd va vb t s
  | .vquant vd va vb pg t => Sys2Proof.Machine.execVquant vd va vb pg t s
  | .vhist vd va pg t => Sys2Proof.Machine.execVhist vd va pg t s
  | .crd rd a => Sys2Proof.Machine.execCrd rd a s
  | .cwr a b => Sys2Proof.Machine.execCwr a b s
  | .trap rd a b => Sys2Proof.Machine.execTrap rd a b s
  | .eret a => Sys2Proof.Machine.execEret a s
  | .slotld rd a => Sys2Proof.Machine.execSlotld rd a s
  | .slotst a b => Sys2Proof.Machine.execSlotst a b s
  | .park a => Sys2Proof.Machine.execPark a s
  | .unpark a => Sys2Proof.Machine.execUnpark a s
  | .kill a => Sys2Proof.Machine.execKill a s
  | .skipw n => Sys2Proof.Machine.execSkipw n s
  | .cMov a b => Sys2Proof.Machine.execCMov a b s
  | .cAdd a b => Sys2Proof.Machine.execCAdd a b s
  | .cSub a b => Sys2Proof.Machine.execCSub a b s
  | .cAnd a b => Sys2Proof.Machine.execCAnd a b s
  | .cOr a b => Sys2Proof.Machine.execCOr a b s
  | .cXor a b => Sys2Proof.Machine.execCXor a b s
  | .cSll a b => Sys2Proof.Machine.execCSll a b s
  | .cSrl a b => Sys2Proof.Machine.execCSrl a b s
  | .cAddi a imm => Sys2Proof.Machine.execCAddi a imm s
  | .cLi a imm => Sys2Proof.Machine.execCLi a imm s
  | .cLd a b c => Sys2Proof.Machine.execCLd a b c s
  | .cSt a b c => Sys2Proof.Machine.execCSt a b c s
  | .cBeqz a imm => Sys2Proof.Machine.execCBeqz a imm s
  | .cBnez a imm => Sys2Proof.Machine.execCBnez a imm s
  | .cJ off => Sys2Proof.Machine.execCJ off s
  | .cJr a => Sys2Proof.Machine.execCJr a s
  | .cLdt a b c => Sys2Proof.Machine.execCLdt a b c s
  | .cStf a b c => Sys2Proof.Machine.execCStf a b c s
  | .cSkip n => Sys2Proof.Machine.execCSkip n s
  | .cQrd a b => Sys2Proof.Machine.execCQrd a b s
  | .cQwr a b => Sys2Proof.Machine.execCQwr a b s
  | .amovi a imm => Sys2Proof.Machine.execAmovi a imm s
  | .amoviHi a imm => Sys2Proof.Machine.execAmoviHi a imm s
  | .aadd a b c => Sys2Proof.Machine.execAadd a b c s
  | .asub a b c => Sys2Proof.Machine.execAsub a b c s
  | .amul a b c => Sys2Proof.Machine.execAmul a b c s
  | .aaddi a b imm => Sys2Proof.Machine.execAaddi a b imm s
  | .abeq a b off => Sys2Proof.Machine.execAbeq a b off s
  | .abne a b off => Sys2Proof.Machine.execAbne a b off s
  | .ablt a b off => Sys2Proof.Machine.execAblt a b off s
  | .abge a b off => Sys2Proof.Machine.execAbge a b off s
  | .ajmp off => Sys2Proof.Machine.execAjmp off s
  | .acall off => Sys2Proof.Machine.execAcall off s
  | .ald sz sx a b off => Sys2Proof.Machine.execAld sz sx a b off s
  | .ast sz a b off => Sys2Proof.Machine.execAst sz a b off s
  | .sload sa b off => Sys2Proof.Machine.execSload sa b off s
  | .sstore sa b off => Sys2Proof.Machine.execSstore sa b off s
  | .sjoin sa sb => Sys2Proof.Machine.execSjoin sa sb s
  | .slen a sb => Sys2Proof.Machine.execSlen a sb s
  | .stok a sb c => Sys2Proof.Machine.execStok a sb c s
  | .stokW a sb c => Sys2Proof.Machine.execStokW a sb c s
  | .ssel sa sb c => Sys2Proof.Machine.execSsel sa sb c s
  | .sclear sa => Sys2Proof.Machine.execSclear sa s
  | .fmovi fa imm => Sys2Proof.Machine.execFmovi fa imm s
  | .fblt fa fb off => Sys2Proof.Machine.execFblt fa fb off s
  | .fbits a fb => Sys2Proof.Machine.execFbits a fb s
  | .fbitsF a fb => Sys2Proof.Machine.execFbitsF a fb s
  | .choose a fb n => Sys2Proof.Machine.execChoose a fb n s
  | .ctxlen a kb => Sys2Proof.Machine.execCtxlen a kb s
  | .ctxstat a kb => Sys2Proof.Machine.execCtxstat a kb s
  | .post a tag => Sys2Proof.Machine.execPost a tag s
  | .ahalt a => Sys2Proof.Machine.execAhalt a s
  | .ctxnew ka model => Sys2Proof.Machine.execCtxnew ka model s
  | .ctxfree ka => Sys2Proof.Machine.execCtxfree ka s
  | .fork ka kb => Sys2Proof.Machine.execFork ka kb s
  | .trim ka b => Sys2Proof.Machine.execTrim ka b s
  | .append ka sb c => Sys2Proof.Machine.execAppend ka sb c s
  | .probe a kb sc => Sys2Proof.Machine.execProbe a kb sc s
  | .pin ka sb c => Sys2Proof.Machine.execPin ka sb c s
  | .unpin ka b => Sys2Proof.Machine.execUnpin ka b s
  | .score fa kb sc d => Sys2Proof.Machine.execScore fa kb sc d s
  | .gen ka sb c => Sys2Proof.Machine.execGen ka sb c s
  | .sampset ka b => Sys2Proof.Machine.execSampset ka b s
  | .maskbind ka b => Sys2Proof.Machine.execMaskbind ka b s
  | .rngjump ka b => Sys2Proof.Machine.execRngjump ka b s
  | .await a tag => Sys2Proof.Machine.execAwait a tag s
  | .exit => Sys2Proof.Machine.execExit s
  | .yield => Sys2Proof.Machine.execYield s
  | .trigger => Sys2Proof.Machine.execTrigger s
  | .brk => Sys2Proof.Machine.execBrk s
  | .wfe => Sys2Proof.Machine.execWfe s
  | .cNop => Sys2Proof.Machine.execCNop s
  | .cYield => Sys2Proof.Machine.execCYield s
  | .cExit => Sys2Proof.Machine.execCExit s
  | .cBar0 => Sys2Proof.Machine.execCBar0 s
  | .anop => Sys2Proof.Machine.execAnop s
  | .aret => Sys2Proof.Machine.execAret s
  | .divideComplete core => Sys2Proof.Machine.execDivideComplete core s
  | .loadReturn t idx => Sys2Proof.Machine.execLoadReturn t idx s
  | .ldftTimeout t => Sys2Proof.Machine.execLdftTimeout t s
  | .loopClaimResponse t => Sys2Proof.Machine.execLoopClaimResponse t s
  | .copyComplete ctx => Sys2Proof.Machine.execCopyComplete ctx s
  | .remoteWriteAck op => Sys2Proof.Machine.execRemoteWriteAck op s
  | .gatherComplete ctx => Sys2Proof.Machine.execGatherComplete ctx s
  | .collChunkReceive ctx => Sys2Proof.Machine.execCollChunkReceive ctx s
  | .collComplete ctx => Sys2Proof.Machine.execCollComplete ctx s
  | .leaseGrant g bank => Sys2Proof.Machine.execLeaseGrant g bank s
  | .arrayRunStart g => Sys2Proof.Machine.execArrayRunStart g s
  | .arrayRunLimit g => Sys2Proof.Machine.execArrayRunLimit g s
  | .arrayPassStart g => Sys2Proof.Machine.execArrayPassStart g s
  | .arrayCommandComplete g => Sys2Proof.Machine.execArrayCommandComplete g s
  | .autofillRefillComplete g h => Sys2Proof.Machine.execAutofillRefillComplete g h s
  | .residencyFillComplete g h => Sys2Proof.Machine.execResidencyFillComplete g h s
  | .canopyBackgroundRefill g h => Sys2Proof.Machine.execCanopyBackgroundRefill g h s
  | .normaliserServiceEnd core => Sys2Proof.Machine.execNormaliserServiceEnd core s
  | .sfuAccept core => Sys2Proof.Machine.execSfuAccept core s
  | .sfuDeliver core => Sys2Proof.Machine.execSfuDeliver core s
  | .sortUnitComplete core => Sys2Proof.Machine.execSortUnitComplete core s
  | .wfeTimeout t => Sys2Proof.Machine.execWfeTimeout t s
  | .trapRecordWrite core => Sys2Proof.Machine.execTrapRecordWrite core s
  | .threadStart core sid => Sys2Proof.Machine.execThreadStart core sid s
  | .populationComplete pop => Sys2Proof.Machine.execPopulationComplete pop s
  | .loadBalanceExchange => Sys2Proof.Machine.execLoadBalanceExchange s
  | .waitProbeTick => Sys2Proof.Machine.execWaitProbeTick s
  | .waitProbeArrival core => Sys2Proof.Machine.execWaitProbeArrival core s
  | .translationAnswer g => Sys2Proof.Machine.execTranslationAnswer g s
  | .lanyardFlitArrival port => Sys2Proof.Machine.execLanyardFlitArrival port s
  | .hostMemoryAccess fn a wr v => Sys2Proof.Machine.execHostMemoryAccess fn a wr v s
  | .lookaheadDecode n => Sys2Proof.Machine.execLookaheadDecode n s
  | .planHoldExpiry n => Sys2Proof.Machine.execPlanHoldExpiry n s
  | .iterationSnapshot p => Sys2Proof.Machine.execIterationSnapshot p s
  | .gracePeriodEnd p => Sys2Proof.Machine.execGracePeriodEnd p s
  | .batchMulticast p => Sys2Proof.Machine.execBatchMulticast p s
  | .shardReport p => Sys2Proof.Machine.execShardReport p s
  | .modelGroupTimeout p => Sys2Proof.Machine.execModelGroupTimeout p s
  | .iterationCommit p => Sys2Proof.Machine.execIterationCommit p s
  | .launchPacket q => Sys2Proof.Machine.execLaunchPacket q s
  | .agentstart q => Sys2Proof.Machine.execAgentstart q s
  | .copyPacket q => Sys2Proof.Machine.execCopyPacket q s
  | .signalTimeline q => Sys2Proof.Machine.execSignalTimeline q s
  | .signalEvent q => Sys2Proof.Machine.execSignalEvent q s
  | .waittlPacket q => Sys2Proof.Machine.execWaittlPacket q s
  | .switchatPacket q => Sys2Proof.Machine.execSwitchatPacket q s
  | .faultPacket q => Sys2Proof.Machine.execFaultPacket q s
  | .sqptrWrite q v => Sys2Proof.Machine.execSqptrWrite q v s
  | .sqActivate q v => Sys2Proof.Machine.execSqActivate q v s
  | .sqDisable q => Sys2Proof.Machine.execSqDisable q s
  | .completionRecordWrite fn => Sys2Proof.Machine.execCompletionRecordWrite fn s
  | .xlatResume v => Sys2Proof.Machine.execXlatResume v s
  | .xlatSkip v => Sys2Proof.Machine.execXlatSkip v s
  | .xlatKill v => Sys2Proof.Machine.execXlatKill v s
  | .tpStage fn img => Sys2Proof.Machine.execTpStage fn img s
  | .tpCommit fn => Sys2Proof.Machine.execTpCommit fn s
  | .attest fn => Sys2Proof.Machine.execAttest fn s
  | .pset fn b => Sys2Proof.Machine.execPset fn b s
  | .pdestroy fn p => Sys2Proof.Machine.execPdestroy fn p s
  | .extend fn n d => Sys2Proof.Machine.execExtend fn n d s
  | .unfreeze fn vf => Sys2Proof.Machine.execUnfreeze fn vf s
  | .powerOn => Sys2Proof.Machine.execPowerOn s
  | .healthUpdate => Sys2Proof.Machine.execHealthUpdate s
  | .eventCounterClear core idx => Sys2Proof.Machine.execEventCounterClear core idx s
  | .engfrzUnfreeze core p q => Sys2Proof.Machine.execEngfrzUnfreeze core p q s
  | .partitionConfigWrite p reg v => Sys2Proof.Machine.execPartitionConfigWrite p reg v s
  | .rtdataWrite p v => Sys2Proof.Machine.execRtdataWrite p v s
  | .tencfgWrite p v => Sys2Proof.Machine.execTencfgWrite p v s
  | .modtabWrite p n v => Sys2Proof.Machine.execModtabWrite p n v s
  | .agentAreaWrite p n v => Sys2Proof.Machine.execAgentAreaWrite p n v s
  | .switchatWrite p v => Sys2Proof.Machine.execSwitchatWrite p v s
  | .swctlArm p v => Sys2Proof.Machine.execSwctlArm p v s
  | .swctlDisarm p v => Sys2Proof.Machine.execSwctlDisarm p v s
  | .preloadComplete p => Sys2Proof.Machine.execPreloadComplete p s
  | .switchTimeReached p => Sys2Proof.Machine.execSwitchTimeReached p s
  | .slotHandover p => Sys2Proof.Machine.execSlotHandover p s
  | .switchComplete p => Sys2Proof.Machine.execSwitchComplete p s
  | .gswPrepare p tgt => Sys2Proof.Machine.execGswPrepare p tgt s
  | .gswCommit p => Sys2Proof.Machine.execGswCommit p s
  | .gswAbort p => Sys2Proof.Machine.execGswAbort p s
  | .ptrootWrite p n v => Sys2Proof.Machine.execPtrootWrite p n v s
  | .xinvWrite p v => Sys2Proof.Machine.execXinvWrite p v s
  | .invalidationComplete p => Sys2Proof.Machine.execInvalidationComplete p s
  | .elogEntryClear g n => Sys2Proof.Machine.execElogEntryClear g n s
  | .einjWrite g v => Sys2Proof.Machine.execEinjWrite g v s
  | .registerWrite place reg v => Sys2Proof.Machine.execRegisterWrite place reg v s

end Sys2Proof.Machine
end

