-- ==== Sys2Proof/Machine/Order.lean ====
section
/-! DEFINITION. Sys2Proof/Machine/Order.lean: what a step does when the agenda names no move: the machine's own order of events
and turns (DESIGN CHOICE, log entry 2), which thread issues in a cycle (R158, R159), the fetch of its instruction (R32), and the
turn of an agent (R226, R235). -/

namespace Sys2Proof.Machine

/-! ### Fetch (R32) -/

/-- What the fetch unit delivers. -/
inductive Fetched where
  /-- A word, its length in bytes, and the state with the corrected errors of its halfwords logged. -/
  | word (w n : Nat) (s : State)
  /-- The thread cannot go on at its pc: it traps, or it waits for a translation. -/
  | no (v : Verdict)

/-- One halfword: address and window traps, then the translation trap, then the poison trap. Where R33 lets a fetch before the
FENCE return the old or the new halfword, this one returns the bytes that memory holds now (DESIGN CHOICE, log entry 66). -/
def State.fetchHalf (s : State) (ea : Word) (k : Nat → State → Fetched) : Fetched :=
  match s.target s.me .fetch false ea 2 1 1 with
  | .ok ps _ _ =>
    match ps with
    | (p, _) :: _ =>
      if s.badAt p 2 then .no (.trapAfter 8 0 ea fun s => s.noteRead s.me.ctx p 2)
      else k (leNat (s.readAt p 2)) (s.noteRead s.me.ctx p 2)
    | [] => .no (.trap 3 0 ea)
  | .trap cls d i => .no (.trap cls d i)
  | .miss va => .no (.park .other fun s => s.miss s.cur va)
  | .stop f => .no (.stop f)

/-- The instruction word at the current thread's pc. -/
def State.fetch (s : State) : Fetched :=
  s.fetchHalf s.me.pc fun h s =>
    if h < 2 ^ 15 then .word h 2 s
    else s.fetchHalf (s.me.pc + 2) fun l s => .word (h * 65536 + l) 4 s

/-- The core-level instruction of a fetched word. -/
def decodeWord (w n : Nat) : Decoded := if n = 2 then decode16 w else decode32 w

/-- The state in which the fetched instruction of the current thread executes. -/
def State.withInsn (s : State) (w n : Nat) : State := { s with insn := BitVec.ofNat 32 w, insnLen := n }

/-- What an attempt of the current thread comes to before an instruction executes: the instruction, or the end of the attempt. A
word that is no instruction takes the illegal-instruction trap (R46). -/
def State.attempt (s : State) : Instr × State ⊕ Result :=
  let s := s.withInsn 0 2
  match s.fetch with
  | .no v => .inr (v.close s)
  | .word w n s =>
    match decodeWord w n with
    | .ok i => .inl (i, s.withInsn w n)
    | .error _ => .inr (.next ((s.withInsn w n).takeTrap 1 0 0))

/-! ### Which thread issues (R158, R159) -/

/-- The preload of an incoming tenancy is complete (R319). -/
def State.preloaded (s : State) (part ten : Nat) : Bool :=
  let p := s.part part
  !(p.swState = 2 || p.swState = 3) || p.incoming ≠ ten || p.loaded

/-- Its BAR has issued, and the thread is out of the rotation until the barrier completes (R78). -/
def Thread.atBarrier (th : Thread) : Bool := match th.wait, th.bar with
  | some (.barrier _), some w => w.pc = th.pc && w.done.isNone
  | _, _ => false

/-- A thread may try to issue: it is not frozen, held, saved, waiting in WFE with a clear latch, held for the normaliser, waiting at
a barrier, or before the first cycle in which it is ready. A parked thread tries again. -/
def State.mayTry (s : State) (t : Nat) : Bool :=
  let th := s.thr t
  s.alive t && th.frozen.isNone && !th.held && !th.saved && !th.norm && (th.wfe.isNone || th.latch) &&
    !th.atBarrier && decide (th.notBefore ≤ s.cycle) && (th.isRoot || s.preloaded th.part th.ten)

/-- The partition that owns a slot number. -/
def State.slotOwner (s : State) (slot : Nat) : Nat :=
  ((List.range 16).find? fun p => decide (0 < p) && maskBit (s.part p).pslots slot).getD 0

/-- Slots 1-15 in rotation order from slot `o`. -/
def rotation (o : Nat) : List Nat := (List.range 15).map fun i => (o + i - 1) % 15 + 1

/-- The thread that tries next in the present cycle of a core: the owner's, or while that parks the next one of its partition.
An owner slot that holds no thread gives its turn to nobody, and the root slot's turn passes to nobody. A core that a breach has
stopped issues nothing (R347). -/
def State.turnOf (s : State) (core : Nat) : Option Nat :=
  let o := s.cycle % 16
  let may := fun t => s.mayTry t && !s.tried.contains t
  if s.stopped.contains core then none
  else if o = 0 then (if s.rootCode.contains core && may core then some core else none)
  else
    match s.slotThread (core * 16 + o) with
    | none => none
    | some _ =>
      let p := s.slotOwner o
      (((rotation o).filter fun x => maskBit (s.part p).pslots x).filterMap fun x => s.slotThread (core * 16 + x)).find? may

/-- Every thread that has tried in the present turn parked, so that the turn is still open. An arrival at a barrier has issued, and
a LOOP that sends a claim uses the turn (R73). -/
def State.turnOpen (s : State) : Bool := s.tried.all fun t =>
  s.alive t && (s.thr t).wait.isSome && !(s.thr t).atBarrier && !((s.thr t).claimSent.any fun r => r.cycle = s.cycle)

/-- Cores on which some slot holds a thread, or whose root slot executes code. -/
def State.activeCores (s : State) : List Nat := (s.slots.map fun e => coreOf e.1) ++ s.rootCode

/-- The least of a list. -/
def least : List Nat → Option Nat
  | [] => none
  | x :: xs => match least xs with
    | some y => some (min x y)
    | none => some x

/-- The first core from `k` on in which a thread can try. -/
def State.nextCore (s : State) (k : Nat) : Option (Nat × Nat) :=
  (least (s.activeCores.filter fun c => decide (k ≤ c) && decide (c < Config.cores) && (s.turnOf c).isSome)).bind fun c =>
    (s.turnOf c).map fun t => (c, t)

/-- The core and the thread of the next attempt of this cycle, and the threads that have tried in the same turn. -/
def State.nextTurn (s : State) : Option (Nat × Nat × List Nat) :=
  let fresh := fun k => (State.nextCore { s with tried := [] } k).map fun x => (x.1, x.2, [])
  if s.tried.isEmpty then fresh s.coreTurn
  else
    match (if s.turnOpen then s.turnOf s.coreTurn else none) with
    | some t => some (s.coreTurn, t, s.tried)
    | none => fresh (s.coreTurn + 1)

/-- The thread tries: it is current, and a thread that leaves WFE clears its latch (R298). -/
def State.beginTry (s : State) (core t : Nat) (before : List Nat) : State :=
  let s : State := { s with cur := t, coreTurn := core, tried := before ++ [t] }
  if (s.thr t).wfe.isSome then s.modThr t Thread.wake else s

/-! ### Events that are enabled (DESIGN CHOICE, log entry 2) -/

/-- The first element with a property, and what it does. -/
def firstOf {α : Type} (l : List α) (c : α → Bool) (f : α → Result) : Option Result := (l.find? c).map f

/-- Switches (R317-R321). -/
def State.switchEvent (s : State) : Option Result :=
  let ps := Table.keys s.parts
  [firstOf ps (fun p => s.switchDue p ≠ 0) fun p => execSwitchTimeReached p s,
   firstOf ps s.handsOver fun p => execSlotHandover p s,
   firstOf ps (fun p => (s.part p).gState = 1 || (s.part p).preloading) fun p => execPreloadComplete p s,
   firstOf ps (fun p => s.switchEnds p ≠ 0) fun p => execSwitchComplete p s].findSome? id

/-- Accesses and translations (R25, R73, R331, R333). -/
def State.accessEvent (s : State) : Option Result :=
  let ts := Table.keys s.threads ++ s.rootCode
  [firstOf ts (fun t => !(s.thr t).returns.isEmpty) fun t => execLoadReturn t 0 s,
   firstOf ts (fun t => match (s.thr t).claimSent with
     | some r => s.claimFree t r
     | none => false) fun t => execLoopClaimResponse t s,
   firstOf (Table.keys s.clusters) (fun g => !(s.cluster g).misses.isEmpty) fun g => execTranslationAnswer g s,
   firstOf (Table.keys s.parts) (fun p => match (s.part p).invals with
     | i :: _ => s.drained p i.ten
     | [] => false) fun p => execInvalidationComplete p s].findSome? id

/-- The operation at the head of a context, when its kind is `f`'s and it can go on. -/
def State.headReady (s : State) (k : Nat) (f : EngReq → Bool) : Bool :=
  match (s.engCtx k).queue with
  | r :: _ => s.engRuns k r && f r
  | [] => false

/-- The head of a copy context can complete, or send its remote writes; behind them it waits for the acknowledgement (R179). -/
def State.copyReady (s : State) (k : Nat) : Bool :=
  s.headReady k fun r => match r.kind with
    | .copy _ => !(r.sent && r.acked.isNone)
    | .gather _ | .coll _ => false

def State.gatherReady (s : State) (k : Nat) : Bool :=
  s.headReady k fun r => match r.kind with
    | .gather _ => true
    | .copy _ | .coll _ => false

def State.chunkReady (s : State) (k : Nat) : Bool :=
  s.headReady k fun r => match r.kind with
    | .coll kind => s.collTaking k kind r && (s.chunkFor k r).isSome
    | .copy _ | .gather _ => false

def State.collEnds (s : State) (k : Nat) : Bool := s.headReady k (s.collReady k)

/-- Engines and links (R179, R183, R197). -/
def State.engineEvent (s : State) : Option Result :=
  let ks := Table.keys s.ctxs
  [firstOf ((s.parked ++ s.linkIn).map (·.port)) (fun p => (s.parkedNext p).isSome || (s.flitReady p).isSome) fun p => execLanyardFlitArrival p s,
   firstOf (s.acks.map (·.1)) (fun _ => true) fun op => execRemoteWriteAck op s,
   firstOf ks s.copyReady fun k => execCopyComplete k s,
   firstOf ks s.gatherReady fun k => execGatherComplete k s,
   firstOf ks s.chunkReady fun k => execCollChunkReceive k s,
   firstOf ks s.collEnds fun k => execCollComplete k s].findSome? id

/-- A bank that LEASE_GRANT grants. -/
def State.grantBank (s : State) (g : Nat) : Option Nat :=
  let a := s.arr g
  match a.restore.find? fun r => a.free r.1 with
  | some (b, _) => some b
  | none => if a.waiting.isEmpty then none else a.freeBank

/-- Arrays and residencies (R137, R138, R146, R150, R322). -/
def State.arrayEvent (s : State) : Option Result :=
  let gs := Table.keys s.arrays
  [(gs.find? fun g => (s.grantBank g).isSome).bind fun g => (s.grantBank g).map fun b => execLeaseGrant g b s,
   firstOf gs (fun g => (s.arr g).running.isNone && (s.nextRun g).isSome) fun g => execArrayRunStart g s,
   firstOf gs s.runOver fun g => execArrayRunLimit g s,
   (gs.findSome? s.refillWanted).map fun r => execAutofillRefillComplete (resCluster r.handle) r.handle s,
   (s.residencies.find? s.fillReady).map fun r => execResidencyFillComplete (resCluster r.handle) r.handle s,
   (s.residencies.find? fun r => r.st = 3 && r.auto && r.wasRes && s.tenRuns r.part r.ten && (s.refillRoom r).isSome).map fun r =>
        execCanopyBackgroundRefill (resCluster r.handle) r.handle s,
   firstOf gs (fun g => (s.arr g).passReady s.cycle) fun g => execArrayPassStart g s].findSome? id

/-- The slot on which a core's root slot starts its next thread (R75): the first in the order of entries, cores and slots. -/
def State.startSlot (s : State) (core : Nat) : Option Nat :=
  (s.core core).launch.findSome? fun e =>
    if !e.taken then (if s.startsFor e.part e.ten && (s.takeUp core e).isSome then some 0 else none)
    else ((maskList e.cores 8).flatMap fun c => (List.range 15).map fun i => (e.g * 8 + c) * 16 + i + 1).find? (s.canStart e)

/-- Root slots and the units of a core (R76, R124, R292, R303, R306). -/
def State.coreEvent (s : State) : Option Result :=
  let cs := Table.keys s.cores
  [firstOf cs s.recordReady fun k => execTrapRecordWrite k s,
   (cs.find? s.kernelReady).map fun k => .next (s.kernelStep k),
   (if s.cycle % 16 = 0 then (cs.filter fun k => !s.stopped.contains k).findSome? fun k =>
      (s.startSlot k).map fun sid => execThreadStart k sid s else none),
   ((List.find? (fun (e : Nat × Population) => s.popEnds e.2) s.pops).map (·.1)).map fun p => execPopulationComplete p s,
   firstOf cs (fun k => !(s.core k).probes.isEmpty) fun k => execWaitProbeArrival k s,
   firstOf cs (fun k => (s.sfuNext k).isSome) fun k => execSfuAccept k s].findSome? id

/-- Iterations and look-ahead (R266-R268, R277, R279): one iteration of a partition starts in a cycle at most, and commits in a
later one; the agents move at the token boundary between (R240). A grace period ends with the snapshot. -/
def State.agentEvent (s : State) : Option Result :=
  let ps := Table.keys s.parts
  [((List.find? (fun (e : Nat × Agent) => e.2.st = 1 && !e.2.looked && s.startsFor e.2.part e.2.ten) s.agents).map (·.1)).map fun n =>
      execLookaheadDecode n s,
   (s.nodes.find? fun x => x.holds.any fun h => Iter.lapsed (s.iter x.part) h.2).map fun x => execPlanHoldExpiry x.id s,
   firstOf ps (fun p => s.batchIn.any fun f => f.part = p && s.tenRuns p f.ten) fun p => execBatchMulticast p s,
   firstOf ps (fun p => (s.nextJob p).isSome || s.reportIn.any fun f => f.part = p) fun p => execShardReport p s,
   firstOf ps (fun p => s.wantsIteration p && decide ((s.iter p).cycle < s.cycle)) fun p => execIterationSnapshot p s,
   firstOf ps (fun p => s.mayCommit p && decide ((s.iter p).cycle < s.cycle)) fun p => execIterationCommit p s,
   firstOf ps s.groupLate fun p => execModelGroupTimeout p s].findSome? id

/-- What the next packet of a queue does, if it can start. -/
def State.packetMove (s : State) (q : Nat) : Option State :=
  match s.startable q with
  | none => none
  | some ws =>
    let r := match pktType ws with
      | 2 => execAgentstart q s
      | 3 => execCopyPacket q s
      | 4 => if bit (ws.getD 1 0) 63 then execSignalEvent q s else execSignalTimeline q s
      | 5 => execWaittlPacket q s
      | 6 => execSwitchatPacket q s
      | 0x80 => execFaultPacket q s
      | _ => execLaunchPacket q s
    match r with
    | .next s' => if (s'.subq q).head = (s.subq q).head then none else some s'
    | _ => none

/-- Host queues and rings (R342, R344). -/
def State.hostEvent (s : State) : Option Result :=
  [((Table.keys s.subqs).findSome? s.packetMove).map .next,
   firstOf (Table.keys s.cqHeld) (fun fn => !(Table.get s.cqHeld fn []).isEmpty && s.cqRoom fn) fun fn =>
      execCompletionRecordWrite fn s,
   s.tpNext.map .next].findSome? id

/-- The event that lands next, each of which changes the state. -/
def State.dueEvent (s : State) : Option Result :=
  [s.accessEvent, s.engineEvent, s.arrayEvent, s.coreEvent, s.agentEvent, s.hostEvent].findSome? id

/-! ### The end of a cycle -/

/-- Results that are due in this cycle: they read from the next one on (R160). -/
def State.timedEvent (s : State) : Option Result :=
  let cs := Table.keys s.cores
  let ts := Table.keys s.threads ++ s.rootCode
  [firstOf cs (fun k => match (s.core k).divs with
     | d :: _ => decide (d.due ≤ s.cycle)
     | [] => false) fun k => execDivideComplete k s,
   firstOf cs (fun k => match (s.core k).normCur with
     | some (_, due) => decide (due ≤ s.cycle)
     | none => false) fun k => execNormaliserServiceEnd k s,
   firstOf cs (fun k => match (s.core k).sfuRun with
     | (_, due) :: _ => decide (due ≤ s.cycle)
     | [] => false) fun k => execSfuDeliver k s,
   firstOf cs (fun k => match (s.core k).sort with
     | some j => decide (j.due ≤ s.cycle)
     | none => false) fun k => execSortUnitComplete k s,
   firstOf (Table.keys s.arrays) s.commandEnds fun g => execArrayCommandComplete g s,
   firstOf ts (fun t => (s.expired t s.banks).isSome) fun t => execLdftTimeout t s,
   firstOf ts (fun t => match (s.thr t).wfe with
     | some (some due) => decide (due ≤ s.cycle) && !(s.thr t).saved
     | _ => false) fun t => execWfeTimeout t s,
   (if s.balances < s.ftime / 64000 then some (execLoadBalanceExchange s) else none),
   (if s.ticks < s.ftime / 10000000 then some (execWaitProbeTick s) else none),
   (if s.healthDue then some (execHealthUpdate s) else none)].findSome? id

/-- The cycle ends, and every agent that may issue gets one move in the next. -/
def State.tick (s : State) : State :=
  let s := s.restartWaits
  let ns := (s.agents.filter fun e => s.issues e.2).map (·.1)
  { s with cycle := s.cycle + 1, coreTurn := 0, tried := [], agenda := ns.map .agent }

/-- The event that lands before anything else: a switch, which stops a slot's thread in the turn at which it is handed over
(R319), and behind the turns of the cycle any other, so that no thread reads before the next cycle what an event writes in this
one (R160). -/
def State.nextEvent (s : State) : Option Result :=
  match s.switchEvent with
  | some r => some r
  | none => if s.coreTurn < Config.cores then none else s.dueEvent

/-- With no turn left in the cycle: its end begins, results land, and the next cycle follows. In recovery only time goes on. -/
def State.endCycle (s : State) : Result :=
  if s.coreTurn < Config.cores then .next { s with coreTurn := Config.cores, tried := [] }
  else
    match (if s.booted then s.timedEvent else none) with
    | some r => r
    | none => .next s.tick

/-! ### Agents (R226, R235) -/

/-- An agent's instruction as `exec` takes it, or a long operation. -/
def State.agentInsn (s : State) (n : Nat) : Option AgentCode :=
  match (s.agent n).bind fun g => g.toIssue.fetch with
  | some w => match decodeAgent w with
    | .ok c => some c
    | .error _ => none
  | none => none

/-- A term of `Instr` that is an event, which the agenda may name. -/
def isEvent (i : Instr) : Bool := encode i = .event

end Sys2Proof.Machine
end

