-- ==== Sys2Proof/Machine/Turn.lean ====
section
/-! DEFINITION. Sys2Proof/Machine/Turn.lean: one step of the module: the head of the agenda, or with an empty agenda what the
machine's own order gives (Machine/Order.lean, log entry 2): a switch that is due, the next attempt of a thread, what else is due at the
end of the cycle. And how one instruction is placed for the next step. -/

namespace Sys2Proof.Machine

/-- The current thread of `s` tries: `exec` of the instruction at its pc, or the end of the attempt. -/
def State.runTurn (s : State) : Result :=
  match s.attempt with
  | .inl (i, s) => exec i s
  | .inr r => r

/-- The next attempt of a thread, or the end of the cycle. -/
def State.turn (s : State) : Result :=
  match s.nextTurn with
  | some (core, t, before) => (s.beginTry core t before).runTurn
  | none => s.endCycle

/-- One move of an agent: its encoding fault, or its next instruction (R226, R235). -/
def State.agentMove (s : State) (n : Nat) : Result :=
  let s : State := { s with cur := n }
  match s.agentInsn n with
  | some (.short i) => exec i s
  | some (.long op) => longOp op s
  | none => .next (s.takeEncodingFault n)

/-- A HOST line of 64 bytes answers with an error from now on, or no more (R31; DESIGN CHOICE, log entry 51). -/
def State.hostLine (s : State) (line : Nat) (bad : Bool) : State :=
  { s with badHost := if bad then s.badHost.filter (· ≠ line) ++ [line] else s.badHost.filter (· ≠ line) }

/-- The kind of an error that arises by itself. -/
def errorKind (ue : Bool) : Nat := if ue then 2 else 1

/-- A Canopy byte of a residency takes an error; an uncorrectable one stays until a fill rewrites its page (R351). -/
def State.canopyError (s : State) (part h byte : Nat) (ue : Bool) : State :=
  s.modRes part h fun r => if r.bad ≠ 0 && uncorrectable r.bad then r else { r with bad := errorKind ue, badByte := byte }

/-- Taproot alone writes EINJ.EN (R347, R352). -/
def State.enableEinj (s : State) (g : Nat) (on : Bool) : State :=
  s.modCluster g fun cl => { cl with einj := word (cl.einj.toNat - b2n (bit cl.einj 61) * 2 ^ 61 + b2n on * 2 ^ 61) }

/-- What comes from outside the module, or from kernels that the model does not run; errors of the memories; and Taproot's firmware,
when it lets a cluster's errors be injected. -/
def State.outside (s : State) : Outside → State
  | .flit f => { s with linkIn := s.linkIn ++ [f] }
  | .hostError a on => s.hostLine a on
  | .stepError p n => s.stepError p n
  | .shardError p h it code => s.shardError p h it code
  | .memberPause p h m on => s.memberPause p h m on
  | .padError core w ue => { s with badPad := injectUnit (core * 32768 + w) (errorKind ue) s.badPad }
  | .hbmError u ue => { s with badHbm := injectUnit u (errorKind ue) s.badHbm }
  | .cacheError g w ue =>
    { s with badCache := injectUnit w (errorKind ue + (g.map fun g => 4 * (g + 1)).getD 0) s.badCache }
  | .canopyError p h byte ue => s.canopyError p h byte ue
  | .einjEnable g on => s.enableEinj g on

/-- A move that the agenda names. -/
def State.move (s : State) : Move → Result
  | .event e => if isEvent e then exec e s else .next s
  | .pass => s.turn
  | .agent n => s.agentMove n
  | .kernel core => .next (s.kernelStep core)
  | .taproot => .next (s.tpNext.getD s)
  | .engine k => .next (s.engStep k)
  | .outside o => .next (s.outside o)

/-- Before POWER_ON nothing else happens. In recovery the mailbox is served, and time goes on (R346). -/
def State.unbooted (s : State) : Result :=
  if s.recov then
    match s.tpNext with
    | some u => .next u
    | none => s.endCycle
  else execPowerOn s

/-- One step: the head of the agenda, or with an empty agenda what the machine's own order gives. -/
def State.advanceOne (s : State) : Result :=
  match s.agenda with
  | m :: ms => State.move { s with agenda := ms } m
  | [] =>
    if s.booted then
      match s.nextEvent with
      | some r => r
      | none => s.turn
    else s.unbooted

/-! ### Placing one instruction for the next step -/

/-- The bytes of a core-level instruction whose bits are numbered as spec/opcode_table.json numbers them: halfwords, the one with
the opcode first, each little-endian (R32). -/
def insnBytes (nbits w : Nat) : List Byte :=
  if nbits ≤ 16 then leBytes 2 w else leBytes 2 (w / 65536) ++ leBytes 2 w

/-- An active agent of partition 1's tenancy 0 whose code is one word. -/
def placedAgent (w : Nat) : Agent where
  die := 0
  part := 1
  ten := 0
  cls := 0
  code := [word w]
  a := []
  k := []
  s := []
  f := []
  base := 0
  torn := false
  apc := 0
  st := 1
  arrived := 0
  activated := 0
  flight := []
  replay := []
  events := []
  fault := none
  halt := 0
  looked := true
  deficit := 0
  packet := none

/-- The module after POWER_ON, with root slot 0 executing code from memory at pc 0, which a TLB entry maps to HBM address 0; the
bytes are stored there. For 64 bits: an agent whose code is the one word, and whose move is next. -/
def State.placeInsn (s : State) (nbits w : Nat) : State :=
  if nbits ≤ 32 then
    { s with
      agenda := [.pass]
      booted := true
      cycle := 0
      coreTurn := 0
      tried := []
      stopped := []
      rootCode := [0]
      hbm := Memory.writeBytes s.hbm 0 (insnBytes nbits w)
      threads := Table.set s.threads 0 { s.thr 0 with
        pc := 0, frozen := none, held := false, saved := false, norm := false, wfe := none, notBefore := 0, answers := [] }
      cores := Table.set s.cores 0 { s.core 0 with tlb := [⟨0, 0, ⟨0, 16, 0, 0, false, 1, true, true, false⟩⟩] } }
  else
    { s with
      agenda := [.agent 0]
      agents := Table.set s.agents 0 (placedAgent w)
      parts := Table.set s.parts 1 { s.part 1 with cur := 0, swState := 0, gState := 0 }
      iters := Table.set s.iters 1 { s.iter 1 with rest := false } }

end Sys2Proof.Machine
end

