-- ==== Sys2Proof/Machine/Step.lean ====
section
/-! DEFINITION. Sys2Proof/Machine/Step.lean: the step of the module, and a state in which it runs one given instruction. -/

namespace Sys2Proof.Machine

/-- One step of the module (Machine/Turn.lean). -/
def step (s : State) : Host.Outcome State Fault Refusal := s.advanceOne

/-- The state in which the next step fetches and runs the instruction whose bits are given (DESIGN CHOICE, log entry 21). -/
def State.withFetchWord (s : State) (nbits w : Nat) : State := s.placeInsn nbits w

end Sys2Proof.Machine
end

