-- ==== Sys2Proof/Safety.lean ====
section
/-! DEFINITION. Sys2Proof/Safety.lean: what a well-formed state and a safe run are, and when an instruction is ready to issue, in
the words that claims use. -/

namespace Sys2Proof.Machine

/-- Every byte memory has its canonical form (DESIGN CHOICE, log entry 3). -/
abbrev State.MemOk (s : State) : Prop := Memory.wf s.hbm = true ∧ Memory.wf s.hostMem = true ∧ Memory.wf s.pad = true

/-- A run from `s` that no fault and no refusal ends. -/
def Safe (s : State) : Prop := ∀ n, ∃ t, Host.Core.run Sys2Proof.core n s = .next t

/-- A scalar source lets its instruction go on (R24, R28, R31): it is full unless it is read raw, and it is not full and
poisoned. -/
def SrcOk (th : Thread) (a : Src) : Prop :=
  (a.mode ≠ .raw → (th.getX a.reg).full = true) ∧ ((th.getX a.reg).full = true → (th.getX a.reg).poison = false)

/-- The current thread exists, and the registers that an instruction names let it issue (R24, R28, R31). -/
structure Ready (s : State) (n : Needs) : Prop where
  alive : s.alive s.cur = true
  src : ∀ a ∈ n.src, SrcOk s.me a
  vs : ∀ r ∈ n.vs, (s.me.getV r).full = true ∧ (s.me.getV r).poison = false
  ps : ∀ r ∈ n.ps, s.me.pbad.getLsbD r = false
  dx : ∀ r ∈ n.dx, (s.me.getX r).pend = false
  dv : ∀ r ∈ n.dv, (s.me.getV r).pend = false

/-- The state in which the current thread alone has changed: its take sources are empty, `f` has been done to it, and it waits
for nothing. -/
def State.after (s : State) (n : Needs) (f : Thread → Thread) : State :=
  s.setThr s.cur { f (n.marks s.me) with wait := none, answers := [] }

/-- The pc lies beyond an instruction of `len` bytes. -/
def Thread.past (th : Thread) (len : Nat) : Thread := { th with pc := th.pc + word len }

/-- A register receives a value, full and clean. -/
def Thread.gets (th : Thread) (r : Nat) (v : Word) : Thread := th.setX r ⟨v, true, false, false⟩

/-- A vector register receives a value, full and clean. -/
def Thread.getsV (th : Thread) (r : Nat) (v : VWord) : Thread := th.setV r ⟨v, true, false, false⟩

/-- No bank keeps a request, and no access waits for an earlier one. -/
structure Quiet (s : State) : Prop where
  banks : ∀ e ∈ s.banks, e.2 = []
  held : ∀ e ∈ s.threads, e.2.heldOps = []
  acq : ∀ t, (s.thr t).savedSync = []

/-- No memory holds an error, and no line of the host answers with one. -/
structure Clean (s : State) : Prop where
  hbm : s.badHbm = []
  pad : s.badPad = []
  cache : s.badCache = []
  host : s.badHost = []

/-- From `s` to `t` the bytes `bs` were stored at `b` of HBM under a key slot: read under it, they stand there and every other byte
reads as before; a 16-byte block that holds none of them reads as before under every slot (R328). -/
def Stored (s t : State) (key b : Nat) (bs : List Byte) : Prop :=
  (∀ h, t.readByte (.page key h) = if b ≤ h ∧ h < b + bs.length then bs.getD (h - b) 0 else s.readByte (.page key h)) ∧
  ∀ k h, h / 16 < b / 16 ∨ (b + bs.length - 1) / 16 < h / 16 → t.readByte (.page k h) = s.readByte (.page k h)

/-- The access leaves no count behind: it is one to the window, or to a page whose accesses are not counted (R336). -/
def Uncounted (l : Option Leaf) : Prop := ∀ x, l = some x → x.cnt = false

end Sys2Proof.Machine
end

