-- ==== Sys2Proof/Certificates/Slice0/Obligations.lean ====
section
/-! DEFINITION. Sys2Proof/Certificates/Slice0/Obligations.lean: the statements for the provers, from the numbered rules of spec/ as
each docstring says. -/

open Sys2Proof Sys2Proof.Machine

/-- R286, R309, R313, R316, R332: what reset leaves. In every root slot each x and v register is zero, full and not poisoned, p0 is
all ones, p1-p7 are zero and no q register is bound; the control registers of a core and the registers of a partition have their
reset values; every word of every scratchpad is empty without a holder, and the memories have their canonical form. The model's
choice where the spec gives no value: TQBASE, RVEC, REPC, RCAUSE and RADDR are 0 (log entry 6), and the words of the banks 0-14 are
empty (log entry 36). -/
def Obligations.ResetState : Prop :=
  let s := State.reset
  s.MemOk ∧ s.cycle = 0 ∧ s.booted = false ∧
  (∀ k, (s.thr k).isRoot = true ∧ (s.thr k).sid = 16 * k ∧ (∀ r, (s.thr k).getX r = ⟨0, true, false, false⟩) ∧
    (∀ r, (s.thr k).getV r = ⟨0, true, false, false⟩) ∧ (s.thr k).getP 0 = BitVec.allOnes 256 ∧
    (∀ r, r ≠ 0 → (s.thr k).getP r = 0) ∧ (∀ q, Table.find? (s.thr k).q q = none) ∧ (s.thr k).wlim = 0) ∧
  (∀ k, let c := s.core k
    (∀ i, Table.get c.events i 0 = 0) ∧ c.psel = 1 ∧ c.tqbase = 0 ∧ c.tqcnt = 0 ∧ c.rvec = 0 ∧ c.repc = 0 ∧ c.rcause = 0 ∧
    c.raddr = 0 ∧ c.trapcfg = 0) ∧
  (∀ core off, s.padWord core off = ⟨false, none⟩) ∧
  ∀ p, let q := s.part p
    q.pslots = 0 ∧ q.pbanks = 0 ∧ q.itercfg = BitVec.ofNat 64 (8192 * 2 ^ 32 + 512) ∧
    q.agcfg = BitVec.ofNat 64 (4096 * 2 ^ 32 + 65536) ∧ q.blkquota = 0xFFFFFFFF ∧ q.gmask = 0 ∧ q.cur = 0 ∧ q.res = 1 ∧
    q.swState = 0 ∧ q.swErr = 0 ∧ q.gState = 0 ∧ q.gErr = 0 ∧ q.switchat = 0 ∧ q.xinvSeq = 0 ∧ q.xinvDone = 0

/-- R32: a step in which a thread has its turn fetches at the thread's pc, decodes, and is exec of the decoded instruction, in the
state that records the word and its length; one in which the agenda names an event, or an agent whose next word is a short
instruction, is exec of that. -/
def Obligations.StepRunsDecoded : Prop :=
  (∀ (s u v : State) (ms : List Move) (core t : Nat) (before : List Nat) (w n : Nat) (i : Instr),
    (s.agenda = .pass :: ms ∧ u = { s with agenda := ms } ∨ s.agenda = [] ∧ s.booted = true ∧ s.nextEvent = none ∧ u = s) →
    u.nextTurn = some (core, t, before) → ((u.beginTry core t before).withInsn 0 2).fetch = .word w n v →
    decodeWord w n = .ok i → step s = exec i (v.withInsn w n)) ∧
  (∀ (s : State) (ms : List Move) (i : Instr), s.agenda = .event i :: ms → isEvent i = true →
    step s = exec i { s with agenda := ms }) ∧
  ∀ (s : State) (ms : List Move) (n : Nat), s.agenda = .agent n :: ms →
    let u := { s with agenda := ms, cur := n }
    (∀ i, u.agentInsn n = some (.short i) → step s = exec i u) ∧ ∀ op, u.agentInsn n = some (.long op) →
      step s = exec (LongOp.toInstr op) u

/-- Encodings of R34-R45 and R225: the bytes of these words, written out from the spec's panels, decode to the instruction that the
panel names. -/
def Obligations.DecodeWords : Prop :=
  decodeBytes [0x95, 0x82, 0x50, 0x0B] = .ok (.mulhu 9 ⟨10, .wait⟩ ⟨11, .take⟩, 4) ∧
  decodeBytes [0x32, 0x84, 0xFB, 0x1F] = .ok (.addi 3 ⟨4, .wait⟩ (-5), 4) ∧
  decodeBytes [0x71, 0xA6, 0xFD, 0x07] = .ok (.stw ⟨7, .wait⟩ ⟨2, .wait⟩ (-3), 4) ∧
  decodeBytes [0x50, 0xB6, 0xF6, 0xD7] = .ok (.bne ⟨5, .wait⟩ ⟨6, .chk⟩ (-10), 4) ∧
  decodeBytes [0x10, 0xC0, 0x00, 0x02] = .ok (.jal 1 512, 4) ∧
  decodeBytes [0x62, 0xDC, 0x43, 0x48] = .ok (.vfma 3 1 2 2 .f32 true, 4) ∧
  decodeBytes [0x80, 0xE0, 0xA0, 0x94] = .ok (.vld 4 ⟨9, .take⟩ 1 .s4 false, 4) ∧
  decodeBytes [0x09, 0xCC, 0x00, 0x40] = .ok (.cpy 9 ⟨8, .wait⟩ 0, 4) ∧
  decodeBytes [0x03, 0x60] = .ok (.cBar0, 2) ∧
  decodeAgentBytes [0xFD, 0xFF, 0xFF, 0xFF, 0x00, 0x80, 0x29, 0x04] = .ok (.short (.aaddi 5 6 (-3))) ∧
  decodeAgentBytes [0x00, 0x00, 0x00, 0x00, 0x00, 0xC8, 0x10, 0x24] = .ok (.long (.append 2 3 4))

/-- R34-R45, R225-R227: no bit of an encoding is dropped. For every well-formed instruction that has an encoding, the decoder gives
it back from its word, with every operand at every value that the encoding admits. -/
def Obligations.DecodeOfEncode : Prop :=
 ∀ i : Instr, i.wf = true → encode i ≠ .event → (encode i).decode = .ok i

/-- The invariant of the memories: a step from any state whose byte memories have their canonical form (addresses rise, no byte
equal to what an unlisted address reads as, log entry 3) leads to such a state. -/
def Obligations.StepKeepsMemory : Prop :=
 ∀ s t : State, s.MemOk → step s = .next t → t.MemOk

/-- The frame of the instructions that work on registers. Each leaves every x register but its destination with its contents, and
with its full and poison bits where it is no source; every v and p register but its destination; every q register and WLIM;
every other thread; every byte of every memory, accumulator and full/empty bit; the partition and agent registers, and of every
cluster its TLB and error registers (a trap ends what the thread waits for in its miss queue, R331);
every other core, and of its own core the control registers but for REPC, RCAUSE and RADDR, which a trap of the root slot
writes (R293). -/
def Obligations.RegisterOnlyFrame : Prop :=
  ∀ (s : State) (rd vd va vb pd pa pb pg : Nat) (a b : Src) (i13 : BitVec 13) (i20 : BitVec 20) (i11 : BitVec 11) (i7 : BitVec 7)
    (i6 : BitVec 6) (y y2 : Ety) (cc : Cmp) (rn : Rnd) (ov : Ovf) (sz : ESize) (z : Bool) (i : Instr) (dx dv dp : List Nat),
    (i, dx, dv, dp) ∈ ([.add rd a b, .sub rd a b, .and rd a b, .or rd a b, .xor rd a b, .sll rd a b, .srl rd a b, .sra rd a b,
        .slt rd a b, .sltu rd a b, .min rd a b, .max rd a b, .minu rd a b, .maxu rd a b, .mul rd a b, .mulh rd a b, .mulhu rd a b,
        .div rd a b, .divu rd a b, .rem rd a b, .remu rd a b, .clz rd a, .ctz rd a, .popc rd a, .addsh1 rd a b, .addsh2 rd a b,
        .addsh3 rd a b, .andn rd a b, .sextw rd a, .zextw rd a, .addi rd a i13, .andi rd a i13, .ori rd a i13, .xori rd a i13,
        .slti rd a i13, .slli rd a i6, .srli rd a i6, .srai rd a i6, .lui rd i20, .addpc rd i20, .jal rd i20, .jalr rd a i13,
        .whoami rd a, .crd rd a, .pcount pa rd y, .pfirst pa rd y, .vext va rd b sz, .vwidth rd].map
        (fun j : Instr => (j, [rd], ([] : List Nat), ([] : List Nat)))) ++
      ([.cMov rd va, .cAdd rd va, .cSub rd va, .cAnd rd va, .cOr rd va, .cXor rd va, .cSll rd va, .cSrl rd va, .cAddi rd i7,
        .cLi rd i7].map fun j : Instr => (j, [rd], [], [])) ++
      ([.beq a b i11, .bne a b i11, .blt a b i11, .bge a b i11, .bltu a b i11, .bgeu a b i11, .cBeqz rd i7, .cBnez rd i7, .cJ i11,
        .cJr rd, .skipw i20, .cSkip i11, .cNop, .waittl pa a].map fun j : Instr => (j, [], [], [])) ++
      ([.vadd vd va vb pg y z, .vsub vd va vb pg y z, .vmul vd va vb pg y z, .vmulh vd va vb pg y z, .vmin vd va vb pg y z,
        .vmax vd va vb pg y z, .vand vd va vb pg y z, .vor vd va vb pg y z, .vxor vd va vb pg y z, .vshl vd va vb pg y z,
        .vshr vd va vb pg y z, .vsra vd va vb pg y z, .vabs vd va pg y z, .vneg vd va pg y z, .vmac vd va vb pg y z,
        .vfadd vd va vb pg y z, .vfsub vd va vb pg y z, .vfmul vd va vb pg y z, .vfma vd va vb pg y z, .vfmin vd va vb pg y z,
        .vfmax vd va vb pg y z, .vfabs vd va pg y z, .vfneg vd va pg y z, .vcvt vd va pg y y2 rn ov z, .vsplat vd a pg sz z,
        .vslideup vd va a pg sz z, .vslidedn vd va a pg sz z, .vperm vd va vb pg y z, .vcompress vd va pg y z, .vsel vd va vb pg y,
        .vredadd vd va vb pg y, .vredmax vd va vb pg y, .vredmin vd va vb pg y, .vfredadd vd va vb pg y, .vins vd a b sz,
        .vmaxx vd va vb y, .vquant vd va vb pg y].map fun j : Instr => (j, [], [vd], [])) ++
      ([.vbound pd a b y, .vcmp pd va vb pg y cc, .pand pd pa pb, .por pd pa pb, .pxor pd pa pb, .pnot pd pa].map
        fun j : Instr => (j, [], [], [pd])) →
    ∀ t, exec i s = .next t →
    (∀ r, r ∉ dx → t.me.xval r = s.me.xval r) ∧ (∀ r, r ∉ dx → r ≠ a.reg → r ≠ b.reg → t.me.getX r = s.me.getX r) ∧
    (∀ r, r ∉ dv → t.me.getV r = s.me.getV r) ∧ (∀ r, r ∉ dp → t.me.getP r = s.me.getP r) ∧
    (∀ r, r ∉ dp → t.me.pbad.getLsbD r = s.me.pbad.getLsbD r) ∧ t.me.q = s.me.q ∧
    t.me.wlim = s.me.wlim ∧ (∀ u, u ≠ s.cur → t.thr u = s.thr u) ∧
    t.hbm = s.hbm ∧ t.hostMem = s.hostMem ∧ t.pad = s.pad ∧ t.padWords = s.padWords ∧ t.acc = s.acc ∧
    t.parts = s.parts ∧ t.agents = s.agents ∧
    (∀ g, let c := s.cluster g; let d := t.cluster g
      d.tlb = c.tlb ∧ d.ovf = c.ovf ∧ d.elog = c.elog ∧ d.elogsel = c.elogsel ∧ d.ecnt = c.ecnt ∧ d.einj = c.einj) ∧
    (∀ k, k ≠ s.me.sid / 16 → t.core k = s.core k) ∧
    let c := s.core (s.me.sid / 16)
    let d := t.core (s.me.sid / 16)
    d.psel = c.psel ∧ d.tqbase = c.tqbase ∧ d.tqcnt = c.tqcnt ∧ d.rvec = c.rvec ∧ d.trapcfg = c.trapcfg ∧
    (s.me.isRoot = false → d.repc = c.repc ∧ d.rcause = c.rcause ∧ d.raddr = c.raddr)

/-- R54: an ALU instruction of two sources writes its function of them to rd, full and clean; nothing else changes but the take
sources, which become empty, and the pc, which moves past the instruction. A write to x0 is discarded (R21). R54: CLZ, CTZ and
POPC count, and SEXT.W and ZEXT.W extend the low 32 bits; the counts are those of the bits of the source. R36 and R56: the
immediate forms extend their immediate by its sign; LUI shifts it by 12; ADDPC adds twice the immediate to the pc of the ADDPC
itself. -/
def Obligations.AluResults : Prop :=
  (∀ (s : State) (rd : Nat) (a b : Src), Ready s { src := [a, b], dx := [rd] } →
     let x := s.rx a
     let y := s.rx b
     let gives := fun (i : Instr) (v : Word) =>
       exec i s = .next (s.after { src := [a, b], dx := [rd] } fun th => (th.gets rd v).past s.insnLen)
     gives (.add rd a b) (x + y) ∧ gives (.sub rd a b) (x - y) ∧ gives (.and rd a b) (x &&& y) ∧
     gives (.or rd a b) (x ||| y) ∧ gives (.xor rd a b) (x ^^^ y) ∧ gives (.andn rd a b) (x &&& ~~~y) ∧
     gives (.sll rd a b) (x <<< (y.toNat % 64)) ∧ gives (.srl rd a b) (x >>> (y.toNat % 64)) ∧
     gives (.sra rd a b) (x.sshiftRight (y.toNat % 64)) ∧
     gives (.slt rd a b) (if x.toInt < y.toInt then 1 else 0) ∧ gives (.sltu rd a b) (if x.toNat < y.toNat then 1 else 0) ∧
     gives (.min rd a b) (if x.toInt ≤ y.toInt then x else y) ∧ gives (.max rd a b) (if x.toInt ≤ y.toInt then y else x) ∧
     gives (.minu rd a b) (if x.toNat ≤ y.toNat then x else y) ∧ gives (.maxu rd a b) (if x.toNat ≤ y.toNat then y else x) ∧
     gives (.mul rd a b) (BitVec.ofNat 64 (x.toNat * y.toNat)) ∧
     gives (.mulh rd a b) (BitVec.ofInt 64 (x.toInt * y.toInt / 2 ^ 64)) ∧
     gives (.mulhu rd a b) (BitVec.ofNat 64 (x.toNat * y.toNat / 2 ^ 64)) ∧
     gives (.addsh1 rd a b) (x * 2 + y) ∧ gives (.addsh2 rd a b) (x * 4 + y) ∧ gives (.addsh3 rd a b) (x * 8 + y)) ∧
  (∀ (s : State) (rd : Nat) (a : Src), Ready s { src := [a], dx := [rd] } →
     let x := s.rx a
     ∃ lz tz pc : Nat,
       (x = 0 → lz = 64 ∧ tz = 64) ∧ (x ≠ 0 → lz < 64 ∧ x.toNat / 2 ^ (63 - lz) = 1) ∧
       (x ≠ 0 → tz < 64 ∧ x.toNat / 2 ^ tz % 2 = 1 ∧ x.toNat % 2 ^ tz = 0) ∧
       pc = ((List.range 64).filter fun i => x.getLsbD i).length ∧
       let gives := fun (i : Instr) (v : Word) =>
         exec i s = .next (s.after { src := [a], dx := [rd] } fun th => (th.gets rd v).past s.insnLen)
       gives (.clz rd a) (BitVec.ofNat 64 lz) ∧ gives (.ctz rd a) (BitVec.ofNat 64 tz) ∧ gives (.popc rd a) (BitVec.ofNat 64 pc) ∧
       gives (.sextw rd a) (BitVec.ofInt 64 (x.setWidth 32).toInt) ∧ gives (.zextw rd a) (BitVec.ofNat 64 (x.toNat % 2 ^ 32))) ∧
  ∀ (s : State) (rd : Nat) (a : Src) (imm : BitVec 13) (amt : BitVec 6) (big : BitVec 20),
    Ready s { src := [a], dx := [rd] } →
    let x := s.rx a
    let c := BitVec.ofInt 64 imm.toInt
    let gives := fun (i : Instr) (v : Word) =>
      exec i s = .next (s.after { src := [a], dx := [rd] } fun th => (th.gets rd v).past s.insnLen)
    let makes := fun (i : Instr) (v : Word) =>
      exec i s = .next (s.after { dx := [rd] } fun th => (th.gets rd v).past s.insnLen)
    gives (.addi rd a imm) (x + c) ∧ gives (.andi rd a imm) (x &&& c) ∧ gives (.ori rd a imm) (x ||| c) ∧
    gives (.xori rd a imm) (x ^^^ c) ∧ gives (.slti rd a imm) (if x.toInt < imm.toInt then 1 else 0) ∧
    gives (.slli rd a amt) (x <<< amt.toNat) ∧ gives (.srli rd a amt) (x >>> amt.toNat) ∧
    gives (.srai rd a amt) (x.sshiftRight amt.toNat) ∧
    makes (.lui rd big) (BitVec.ofInt 64 (big.toInt * 4096)) ∧
    makes (.addpc rd big) (s.me.pc + BitVec.ofInt 64 (big.toInt * 2))

/-- R45 and R85: the 16-bit ALU forms read their registers in wait mode. C.MOV and C.LI ignore what xa holds, C.NOP changes the pc
alone. -/
def Obligations.CompactAluResults : Prop :=
  ∀ (s : State) (a b : Nat) (imm : BitVec 7),
    let x := s.me.xval a
    let y := s.me.xval b
    let moves := fun (i : Instr) (v : Word) =>
      Ready s { src := [⟨b, .wait⟩], dx := [a] } →
        exec i s = .next (s.after {} fun th => (th.gets a v).past s.insnLen)
    let combines := fun (i : Instr) (v : Word) =>
      Ready s { src := [⟨a, .wait⟩, ⟨b, .wait⟩], dx := [a] } →
        exec i s = .next (s.after {} fun th => (th.gets a v).past s.insnLen)
    moves (.cMov a b) y ∧ combines (.cAdd a b) (x + y) ∧ combines (.cSub a b) (x - y) ∧ combines (.cAnd a b) (x &&& y) ∧
    combines (.cOr a b) (x ||| y) ∧ combines (.cXor a b) (x ^^^ y) ∧ combines (.cSll a b) (x <<< (y.toNat % 64)) ∧
    combines (.cSrl a b) (x >>> (y.toNat % 64)) ∧
    (Ready s { src := [⟨a, .wait⟩], dx := [a] } →
      exec (.cAddi a imm) s = .next (s.after {} fun th => (th.gets a (x + BitVec.ofInt 64 imm.toInt)).past s.insnLen)) ∧
    (Ready s { dx := [a] } →
      exec (.cLi a imm) s = .next (s.after {} fun th => (th.gets a (BitVec.ofInt 64 imm.toInt)).past s.insnLen)) ∧
    (Ready s {} → exec .cNop s = .next (s.after {} fun th => th.past s.insnLen))

/-- R55: a division empties rd and the core's divider holds the quotient or remainder until 36 cycles later; DIVIDE_COMPLETE writes
it full. The divisor zero gives all ones, or the dividend as remainder; quotients truncate toward zero. -/
def Obligations.DivisionResults : Prop :=
  (∀ (s : State) (rd : Nat) (a b : Src), Ready s { src := [a, b], dx := [rd] } →
    let x := s.rx a
    let y := s.rx b
    let starts := fun (i : Instr) (v : Word) =>
      exec i s = .next ((s.after { src := [a, b], dx := [rd] } fun th => (th.deferX rd).past s.insnLen).modCore s.myCore
        fun c => { c with divs := c.divs ++ [⟨s.cycle + 36, s.cur, rd, v, decide (y = 0)⟩] })
    starts (.div rd a b) (if y = 0 then BitVec.allOnes 64 else BitVec.ofInt 64 (x.toInt.tdiv y.toInt)) ∧
    starts (.divu rd a b) (if y = 0 then BitVec.allOnes 64 else BitVec.ofNat 64 (x.toNat / y.toNat)) ∧
    starts (.rem rd a b) (if y = 0 then x else BitVec.ofInt 64 (x.toInt.tmod y.toInt)) ∧
    starts (.remu rd a b) (if y = 0 then x else BitVec.ofNat 64 (x.toNat % y.toNat))) ∧
  ∀ (s : State) (core : Nat) (d : DivOp) (rest : List DivOp), (s.core core).divs = d :: rest → d.due ≤ s.cycle →
    ∃ t, exec (.divideComplete core) s = .next t ∧ (t.core core).divs = rest ∧ t.hbm = s.hbm ∧ t.pad = s.pad ∧
      (s.alive d.t = true → d.rd ≠ 0 → t.thr d.t = { s.thr d.t with
        x := Table.set (s.thr d.t).x d.rd ⟨d.val, true, false, false⟩, latch := true }) ∧
      (t.core core).events = if d.zero then Table.set (s.core core).events 4
        (min (Table.get (s.core core).events 4 0 + 1) 0xFFFFFFFF) else (s.core core).events

/-- R69: a branch goes to pc + 2 × its sign-extended offset when its condition holds, and to pc + 4 otherwise; it writes no
register. C.BEQZ and C.BNEZ compare with zero and go on at pc + 2. R69 and R47: JAL and JALR write pc + 4 to rd and go to their
target; the pool headers C.SKIP and SKIPW go to pc + 2 + 2n and pc + 4 + 2n. R69: a JALR whose target has bit 0 set takes the
alignment trap and writes nothing: the state is the trap's alone. -/
def Obligations.BranchesAndJumps : Prop :=
  (∀ (s : State) (a b : Src) (off : BitVec 11) (xa : Nat) (imm : BitVec 7),
     let x := s.rx a
     let y := s.rx b
     let jumps := fun (i : Instr) (c : Prop) [Decidable c] =>
       Ready s { src := [a, b] } → s.insnLen = 4 → exec i s = .next (s.after { src := [a, b] } fun th =>
         { th with pc := if c then th.pc + BitVec.ofInt 64 (off.toInt * 2) else th.pc + 4 })
     let hops := fun (i : Instr) (c : Prop) [Decidable c] =>
       Ready s { src := [⟨xa, .wait⟩] } → s.insnLen = 2 → exec i s = .next (s.after {} fun th =>
         { th with pc := if c then th.pc + BitVec.ofInt 64 (imm.toInt * 2) else th.pc + 2 })
     jumps (.beq a b off) (x = y) ∧ jumps (.bne a b off) (x ≠ y) ∧ jumps (.blt a b off) (x.toInt < y.toInt) ∧
     jumps (.bge a b off) (y.toInt ≤ x.toInt) ∧ jumps (.bltu a b off) (x.toNat < y.toNat) ∧
     jumps (.bgeu a b off) (y.toNat ≤ x.toNat) ∧
     hops (.cBeqz xa imm) (s.me.xval xa = 0) ∧ hops (.cBnez xa imm) (s.me.xval xa ≠ 0)) ∧
  (∀ (s : State) (rd xa : Nat) (a : Src) (off : BitVec 13) (far : BitVec 20) (near : BitVec 11),
     let back := s.me.pc + 4
     (Ready s { dx := [rd] } → s.insnLen = 4 → exec (.jal rd far) s = .next (s.after {} fun th =>
       { th.gets rd back with pc := th.pc + BitVec.ofInt 64 (far.toInt * 2) })) ∧
     (Ready s {} → exec (.cJ near) s = .next (s.after {} fun th => { th with pc := th.pc + BitVec.ofInt 64 (near.toInt * 2) })) ∧
     (Ready s { src := [a], dx := [rd] } → (s.rx a + BitVec.ofInt 64 off.toInt).getLsbD 0 = false → s.insnLen = 4 →
       exec (.jalr rd a off) s = .next (s.after { src := [a], dx := [rd] } fun th =>
         { th.gets rd back with pc := s.rx a + BitVec.ofInt 64 off.toInt })) ∧
     (Ready s { src := [⟨xa, .wait⟩] } → (s.me.xval xa).getLsbD 0 = false →
       exec (.cJr xa) s = .next (s.after {} fun th => { th with pc := s.me.xval xa })) ∧
     (Ready s {} → s.insnLen = 4 → exec (.skipw far) s = .next (s.after {} fun th =>
       { th with pc := th.pc + 4 + BitVec.ofNat 64 (2 * far.toNat) })) ∧
     (Ready s {} → s.insnLen = 2 → exec (.cSkip near) s = .next (s.after {} fun th =>
       { th with pc := th.pc + 2 + BitVec.ofNat 64 (2 * near.toNat) }))) ∧
  ∀ (s : State) (rd : Nat) (a : Src) (off : BitVec 13), Ready s { src := [a], dx := [rd] } →
    (s.rx a + BitVec.ofInt 64 off.toInt).getLsbD 0 = true →
    exec (.jalr rd a off) s = .next (s.takeTrap 4 0 (s.rx a + BitVec.ofInt 64 off.toInt)) ∧
    ∀ t, exec (.jalr rd a off) s = .next t → t.me.x = s.me.x ∧ t.me.v = s.me.v ∧ t.hbm = s.hbm ∧ t.pad = s.pad

/-- R57: a load issues when its registers are ready and its access has a target: it empties rd, submits the read of its bytes,
counts the access (R336) and moves the pc past itself. R57 and R59: a store issues when its registers are ready and its access
has a target: it submits the write of the low bytes of its data register. Its displacement counts units of the access size
(R36). An access to the thread's own core's scratchpad that an earlier access of the thread holds back is parked, as it is performed
where it issues (the model's reading of R162's order, log entry 46). -/
def Obligations.LoadsAndStoresIssue : Prop :=
  (∀ (s : State) (rd base : Nat) (a : Src) (imm : BitVec 13) (c : BitVec 3),
     let goes := fun (src : List Src) (ea : Word) (n : Nat) (sx : Bool) (i : Instr) =>
       Ready s { src := src, dx := [rd] } → ∀ ps ks l,
         let u := s.take { src := src, dx := [rd] }
         u.target u.me .read false ea n n 1 = .ok ps ks l →
         (u.mustWait (.load rd n sx ps) ks = false →
           exec i s = .next (((((u.deferX rd).submit s.cur (.load rd n sx ps) ks).countLeaf s.me.ctx ea.toNat l).advance).issued)) ∧
         (u.mustWait (.load rd n sx ps) ks = true → exec i s = .next (s.parkOn .other))
     let ea := s.rx a + BitVec.ofInt 64 imm.toInt
     goes [a] ea 1 true (.ldb rd a imm) ∧ goes [a] ea 1 false (.ldbu rd a imm) ∧ goes [a] ea 2 true (.ldh rd a imm) ∧
     goes [a] ea 2 false (.ldhu rd a imm) ∧ goes [a] ea 4 true (.ldw rd a imm) ∧ goes [a] ea 4 false (.ldwu rd a imm) ∧
     goes [a] ea 8 false (.ldd rd a imm) ∧
     goes [⟨base, .wait⟩] (s.me.xval base + BitVec.ofNat 64 (8 * c.toNat)) 8 false (.cLd rd base c)) ∧
  ∀ (s : State) (data base : Nat) (d a : Src) (imm : BitVec 11) (c : BitVec 3),
    let goes := fun (src : List Src) (v ea : Word) (n : Nat) (u : Use) (i : Instr) =>
      Ready s { src := src } → ∀ ps ks l,
        let t := s.take { src := src }
        t.target t.me u true ea n n 1 = .ok ps ks l →
        (t.mustWait (.store v ps) ks = false →
          exec i s = .next ((((t.submit s.cur (.store v ps) ks).countLeaf s.me.ctx ea.toNat l).advance).issued)) ∧
        (t.mustWait (.store v ps) ks = true → exec i s = .next (s.parkOn .other))
    let ea := fun (n : Int) => s.rx a + BitVec.ofInt 64 (imm.toInt * n)
    goes [d, a] (s.rx d) (ea 1) 1 .write (.stb d a imm) ∧ goes [d, a] (s.rx d) (ea 2) 2 .write (.sth d a imm) ∧
    goes [d, a] (s.rx d) (ea 4) 4 .write (.stw d a imm) ∧ goes [d, a] (s.rx d) (ea 8) 8 .std (.std d a imm) ∧
    goes [⟨data, .wait⟩, ⟨base, .wait⟩] (s.me.xval data) (s.me.xval base + BitVec.ofNat 64 (8 * c.toNat)) 8 .std (.cSt data base c)

/-- R57: with no request at a bank and nothing held, a load of one part whose bytes carry no error answers the bytes in memory as a
little-endian number, extended as its mnemonic says, and leaves every byte of every memory, every accumulator, every full/empty
bit and every other thread as it was. -/
def Obligations.LoadsReadMemory : Prop :=
  ∀ (s : State) (rd : Nat) (a : Src) (imm : BitVec 13) (n : Nat) (sx : Bool) (i : Instr),
    (i, n, sx) ∈ [(Instr.ldb rd a imm, 1, true), (.ldbu rd a imm, 1, false), (.ldh rd a imm, 2, true), (.ldhu rd a imm, 2, false),
      (.ldw rd a imm, 4, true), (.ldwu rd a imm, 4, false), (.ldd rd a imm, 8, false)] →
    Ready s { src := [a], dx := [rd] } → Quiet s → ∀ p k l,
    (s.take { src := [a], dx := [rd] }).target (s.take { src := [a], dx := [rd] }).me .read false
      (s.rx a + BitVec.ofInt 64 imm.toInt) n n 1 = .ok [(p, n)] [k] l → Uncounted l →
    Clean s → (∀ b o, p ≠ .acc b o) → (∀ t r o, p ≠ .xreg t r o) → (∀ t r o, p ≠ .vreg t r o) →
    ∃ t, exec i s = .next t ∧
      t.me.returns = s.me.returns ++ [⟨.x rd,
        (let v := leNat (s.readAt p n)
         BitVec.ofInt 64 (if sx = true ∧ 2 ^ (8 * n - 1) ≤ v then (v : Int) - 2 ^ (8 * n) else v)), 0, false, .load⟩] ∧
      t.me.pc = s.me.pc + BitVec.ofNat 64 s.insnLen ∧
      t.hbm = s.hbm ∧ t.hostMem = s.hostMem ∧ t.pad = s.pad ∧ t.acc = s.acc ∧ t.padWords = s.padWords ∧
      (∀ u, u ≠ s.cur → t.thr u = s.thr u) ∧ (∀ q, q ≠ rd → t.me.xval q = s.me.xval q) ∧ t.me.v = s.me.v ∧ t.me.p = s.me.p

/-- The frame of the stores: with no request at a bank and nothing held, the bytes from the address that the access names hold the
low bytes of the data register, least significant first, and every other byte of every memory reads as before (R328: a byte of
HBM through a page of the same key slot, and beyond the 16-byte blocks that are written through any). No accumulator, no full/empty
bit, no partition register and no other thread changes. -/
def Obligations.StoresWriteOnlyTheirBytes : Prop :=
  ∀ (s : State) (d a : Src) (imm : BitVec 11) (n : Nat) (i : Instr),
    (i, n) ∈ [(Instr.stb d a imm, 1), (.sth d a imm, 2), (.stw d a imm, 4), (.std d a imm, 8)] →
    Ready s { src := [d, a] } → Quiet s → ∀ p k l,
    (s.take { src := [d, a] }).target (s.take { src := [d, a] }).me (if n = 8 then .std else .write) true
      (s.rx a + BitVec.ofInt 64 (imm.toInt * n)) n n 1 = .ok [(p, n)] [k] l → Uncounted l →
    (∀ t r o, p ≠ .xreg t r o) → (∀ t r o, p ≠ .vreg t r o) → (∀ k h, p = .page k h → s.firmwareHit s.me.ctx h n = false) →
    ∃ t, exec i s = .next t ∧
      (match p with
        | .page k b => Stored s t k b (leBytes n (s.rx d).toNat)
        | _ => t.hbm = s.hbm ∧ t.hbmKeys = s.hbmKeys) ∧
      (∀ h, Memory.read t.hostMem h = match p with
        | .host b => if b ≤ h ∧ h < b + n then BitVec.ofNat 8 ((s.rx d).toNat / 256 ^ (h - b)) else Memory.read s.hostMem h
        | _ => Memory.read s.hostMem h) ∧
      (∀ h, Memory.read t.pad h = match p with
        | .pad k o => if k * 262144 + o ≤ h ∧ h < k * 262144 + o + n
            then BitVec.ofNat 8 ((s.rx d).toNat / 256 ^ (h - (k * 262144 + o))) else Memory.read s.pad h
        | _ => Memory.read s.pad h) ∧
      t.acc = s.acc ∧ t.padWords = s.padWords ∧ t.parts = s.parts ∧ (∀ u, u ≠ s.cur → t.thr u = s.thr u) ∧
      (∀ q, t.me.xval q = s.me.xval q) ∧ t.me.v = s.me.v ∧ t.me.p = s.me.p

/-- R61-R63: the full/empty instructions issue at a scratchpad word (and, but for FEW, while its bank holds fewer than 32
requests; and an LDP or FEW of the thread's own core once no earlier access of the thread holds it back) and submit their
request; the limit of an LDFT is STATUS.WLIM × 1,024 cycles. R61 and R62: with no other request outstanding, an LDF or LDT of a
full word is served at once and answers the word, the LDT leaving it empty; an STF of an empty word is served at once, stores
its data and leaves the word full. Each, an LDFT too, stays at its bank while the word is in the other state, its destination empty.
No other byte of the scratchpads and no other word's bit changes. The parked LDP and FEW are the model's reading of R162 (log entry
46). -/
def Obligations.FullEmptyResults : Prop :=
  (∀ (s : State) (rd base : Nat) (d a : Src) (imm : BitVec 11) (c : BitVec 3) (core off : Nat),
     let goes := fun (n : Needs) (ea : Word) (room : Bool) (f : State → State) (op : MemOp) (i : Instr) =>
       Ready s n → ∀ ks l, (s.take n).target (s.take n).me .sync false ea 8 8 1 = .ok [(.pad core off, 8)] ks l →
         (room = true → (s.bank (core * 16 + off / 16384)).length < 32) → (s.take n).mustWait op [1] = false →
         exec i s = .next ((((f (s.take n)).submit s.cur op [1]).advance).issued)
     let ea := s.rx a + BitVec.ofInt 64 (imm.toInt * 8)
     let eb := s.me.xval base + BitVec.ofNat 64 (8 * c.toNat)
     let reads : Needs := { src := [a], dx := [rd] }
     goes reads ea true (·.deferX rd) (.sync .ldf rd 0 core off 0) (.ldf rd a imm) ∧
     goes reads ea true (·.deferX rd) (.sync .ldt rd 0 core off 0) (.ldt rd a imm) ∧
     goes reads ea true (·.deferX rd) (.sync .ldft rd 0 core off (s.me.wlim.toNat * 1024)) (.ldft rd a imm) ∧
     goes reads ea true (·.deferX rd) (.ldp rd core off) (.ldp rd a imm) ∧
     goes { src := [d, a] } ea true id (.sync .stf 0 (s.rx d) core off 0) (.stf d a imm) ∧
     goes { src := [a] } ea false id (.few true core off) (.fewF a imm) ∧
     goes { src := [a] } ea false id (.few false core off) (.fewE a imm) ∧
     goes { src := [⟨base, .take⟩], dx := [rd] } eb true (·.deferX rd) (.sync .ldt rd 0 core off 0) (.cLdt rd base c) ∧
     goes { src := [⟨rd, .wait⟩, ⟨base, .wait⟩] } eb true id (.sync .stf 0 (s.me.xval rd) core off 0) (.cStf rd base c)) ∧
  ∀ (s : State) (rd : Nat) (d a : Src) (imm : BitVec 11) (core off : Nat) (ks : List Nat) (l : Option Leaf), Quiet s → s.badPad = [] →
    s.alive s.cur = true → s.me.isRoot = false →
    let ea := s.rx a + BitVec.ofInt 64 (imm.toInt * 8)
    let at8 := fun (n : Needs) =>
      Ready s n ∧ (s.take n).target (s.take n).me .sync false ea 8 8 1 = .ok [(.pad core off, 8)] ks l
    let word8 := BitVec.ofNat 64 (leNat (s.readAt (.pad core off) 8))
    (at8 { src := [a], dx := [rd] } → (s.padWord core off).full = true →
      (∃ t, exec (.ldf rd a imm) s = .next t ∧ t.me.returns = s.me.returns ++ [⟨.x rd, word8, 0, false, .load⟩] ∧
        t.padWords = s.padWords ∧ t.pad = s.pad) ∧
      ∃ t, exec (.ldt rd a imm) s = .next t ∧ t.me.returns = s.me.returns ++ [⟨.x rd, word8, 0, false, .load⟩] ∧
        t.padWords = Table.set s.padWords (core * 32768 + off / 8) ⟨false, some s.cur⟩ ∧ t.pad = s.pad) ∧
    (at8 { src := [a], dx := [rd] } → (s.padWord core off).full = false →
      ∀ e ∈ [(Instr.ldf rd a imm, SyncKind.ldf, 0), (.ldt rd a imm, .ldt, 0),
          (.ldft rd a imm, .ldft, if s.me.wlim = 0 then 0 else s.cycle + s.me.wlim.toNat * 1024)],
        ∃ t, exec e.1 s = .next t ∧ t.me.returns = s.me.returns ∧ t.padWords = s.padWords ∧ t.pad = s.pad ∧
          (t.me.getX rd).full = (decide (rd = 0) && (s.me.getX rd).full) ∧
          (t.bank (core * 16 + off / 16384)).map (fun r => (r.k, r.t, r.rd, r.core, r.off, r.due)) =
            [(e.2.1, s.cur, rd, core, off, e.2.2)]) ∧
    (at8 { src := [d, a] } → (s.padWord core off).full = false →
      ∃ t, exec (.stf d a imm) s = .next t ∧
        t.padWords = Table.set s.padWords (core * 32768 + off / 8) ⟨true, some s.cur⟩ ∧
        t.pad = Memory.writeBytes s.pad (core * 262144 + off) (leBytes 8 (s.rx d).toNat)) ∧
    (at8 { src := [d, a] } → (s.padWord core off).full = true →
      ∃ t, exec (.stf d a imm) s = .next t ∧ t.padWords = s.padWords ∧ t.pad = s.pad ∧
        (t.bank (core * 16 + off / 16384)).map (fun r => (r.k, r.t, r.v, r.core, r.off)) = [(.stf, s.cur, s.rx d, core, off)])

/-- R67: an AMO issues when its registers, rd among them, are ready and its 8-byte access has a target: it empties rd and submits
the operation with the value that rd held; one to the own core's scratchpad that an earlier access holds back is parked (the model's
reading of R162's order, log entry 46). R67: with no request outstanding, an AMO on a clean HBM or scratchpad word answers
the old word, and the word becomes the combination that its mnemonic names; no other byte of HBM or of the scratchpads changes. -/
def Obligations.AmoResults : Prop :=
  (∀ (s : State) (rd : Nat) (a b : Src) (o : AmoOrder) (op : AmoOp) (i : Instr),
     (i, op) ∈ [(Instr.amoadd rd a b o, AmoOp.add), (.amoswap rd a b o, .swap), (.amocas rd a b o, .cas), (.amomin rd a b o, .min),
       (.amomax rd a b o, .max), (.amominu rd a b o, .minu), (.amomaxu rd a b o, .maxu), (.amoand rd a b o, .and),
       (.amoor rd a b o, .or), (.amoxor rd a b o, .xor)] →
     let n : Needs := { src := [a, b, ⟨rd, .wait⟩], dx := [rd] }
     Ready s n → ∀ p q ks l, (s.take n).target (s.take n).me .amo true (s.rx a) 8 8 8 = .ok (p :: q) ks l →
       let m := MemOp.amo op o rd (s.me.xval rd) (s.rx b) p.1
       ((s.take n).mustWait m ks = false →
         exec i s = .next (((((s.take n).deferX rd).submit s.cur m ks).countLeaf s.me.ctx (s.rx a).toNat l).advance).issued) ∧
       ((s.take n).mustWait m ks = true → exec i s = .next (s.parkOn .other))) ∧
  ∀ (s : State) (rd : Nat) (a b : Src) (o : AmoOrder) (i : Instr) (f : Word → Word → Word → Word),
    (i, f) ∈ [(Instr.amoadd rd a b o, fun old _ v => old + v), (.amoswap rd a b o, fun _ _ v => v),
      (.amocas rd a b o, fun old x v => if old = x then v else old),
      (.amomin rd a b o, fun old _ v => if old.toInt ≤ v.toInt then old else v),
      (.amomax rd a b o, fun old _ v => if old.toInt ≤ v.toInt then v else old),
      (.amominu rd a b o, fun old _ v => if old.toNat ≤ v.toNat then old else v),
      (.amomaxu rd a b o, fun old _ v => if old.toNat ≤ v.toNat then v else old),
      (.amoand rd a b o, fun old _ v => old &&& v), (.amoor rd a b o, fun old _ v => old ||| v),
      (.amoxor rd a b o, fun old _ v => old ^^^ v)] →
    let n : Needs := { src := [a, b, ⟨rd, .wait⟩], dx := [rd] }
    Ready s n → Quiet s → Clean s → ∀ p k l,
    (s.take n).target (s.take n).me .amo true (s.rx a) 8 8 8 = .ok [(p, 8)] [k] l → Uncounted l →
    let old := BitVec.ofNat 64 (leNat (s.readAt p 8))
    let new := leBytes 8 (f old (s.me.xval rd) (s.rx b)).toNat
    (∀ k off, p = .pad k off → ∃ t, exec i s = .next t ∧ t.me.returns = s.me.returns ++ [⟨.x rd, old, 0, false, .amo⟩] ∧
      t.pad = Memory.writeBytes s.pad (k * 262144 + off) new ∧ t.hbm = s.hbm ∧ t.hostMem = s.hostMem) ∧
    (∀ k h, p = .page k h → s.firmwareHit s.me.ctx h 8 = false →
      ∃ t, exec i s = .next t ∧ t.me.returns = s.me.returns ++ [⟨.x rd, old, 0, false, .amo⟩] ∧
      Stored s t k h new ∧ t.pad = s.pad ∧ t.hostMem = s.hostMem)

/-- R25: a return writes its register full and sets the event latch, unless it is for x0 or its thread has ended; an LDFT whose
limit has expired answers all ones and leaves the word as it was (R61). R18, R165, R171: a write of another party to a register lands
full and clean, and leaves a pending producer pending; of several to one register the first one lands, whichever is named. -/
def Obligations.DeferredResultsLand : Prop :=
  (∀ (s : State) (t idx r : Nat) (v : Word) (w : VWord) (bad : Bool) (by_ : Writer),
    (s.thr t).returns[idx]? = some ⟨.x r, v, w, bad, by_⟩ → by_ ≠ .window →
    ∃ u, exec (.loadReturn t idx) s = .next u ∧ u.hbm = s.hbm ∧ u.pad = s.pad ∧
      (s.alive t = true → r ≠ 0 → u.thr t = { s.thr t with
        returns := (s.thr t).returns.eraseIdx idx, x := Table.set (s.thr t).x r ⟨v, true, bad, false⟩, latch := true })) ∧
  (∀ (s : State) (t idx first : Nat) (d : Dest) (v v' : Word) (w w' : VWord) (bad bad' : Bool),
    (s.thr t).returns[idx]? = some ⟨d, v, w, bad, .window⟩ → (s.thr t).returns[first]? = some ⟨d, v', w', bad', .window⟩ →
    (∀ i e, i < first → (s.thr t).returns[i]? = some e → e.writer = .window → e.dest ≠ d) →
    ∃ u, exec (.loadReturn t idx) s = .next u ∧ u.hbm = s.hbm ∧ u.pad = s.pad ∧
      (∀ r, d = .x r → r ≠ 0 → u.thr t = { s.thr t with
        returns := (s.thr t).returns.eraseIdx first
        x := Table.set (s.thr t).x r ⟨v', true, false, ((s.thr t).getX r).pend⟩, latch := true }) ∧
      ∀ r, d = .v r → u.thr t = { s.thr t with
        returns := (s.thr t).returns.eraseIdx first
        v := Table.set (s.thr t).v r ⟨w', true, false, ((s.thr t).getV r).pend⟩, latch := true }) ∧
  (∀ (s : State) (t idx r : Nat) (v : Word) (w : VWord) (bad : Bool) (by_ : Writer),
    (s.thr t).returns[idx]? = some ⟨.v r, v, w, bad, by_⟩ → by_ ≠ .window → s.alive t = true →
    ∃ u, exec (.loadReturn t idx) s = .next u ∧ u.hbm = s.hbm ∧ u.pad = s.pad ∧
      u.thr t = { s.thr t with
        returns := (s.thr t).returns.eraseIdx idx, v := Table.set (s.thr t).v r ⟨w, true, bad, false⟩, latch := true }) ∧
  ∀ (s : State) (t k : Nat) (r : BankReq), s.expired t s.banks = some (k, r) →
    exec (.ldftTimeout t) s = .next ((State.landX { s with banks := Table.set s.banks k ((s.bank k).erase r) } t r.rd
      (BitVec.allOnes 64) false).settle)

/-- R68: a FENCE issues when its condition holds and changes the pc alone; while it does not hold, the thread waits. A release
at module or fabric scope waits for every access of the thread, one at a narrower scope for those to pages of the kinds S and RC
(R168). R298: WFE with the event latch set clears it and goes on; with it clear the thread waits, until WLIM × 1,024 cycles from
issue have passed when WLIM is not 0, and then WFE_TIMEOUT lets it go on. -/
def Obligations.FencesAndWaits : Prop :=
  (∀ (s : State) (sc : Scope), Ready s {} →
     let past := s.after {} fun th => th.past s.insnLen
     let mine := s.requestsBefore s.cur s.nextAcc
     let performed := mine = [] ∧
       if sc = .module ∨ sc = .fabric then s.me.heldOps = [] else ∀ h ∈ s.me.heldOps, h.seq < s.nextAcc → ∀ k ∈ h.ks, k = 2
     let returned := (∀ r ∈ s.me.returns, r.writer ≠ .load ∧ r.writer ≠ .amo) ∧ (∀ r ∈ mine, r.k = .stf) ∧ ∀ h ∈ s.me.heldOps, h.op.reads = false
     (performed → returned → exec (.fenceFull sc) s = .next past) ∧
     (returned → exec (.fenceAcq sc) s = .next past) ∧ (performed → exec (.fenceRel sc) s = .next past) ∧
     (¬ (performed ∧ returned) → exec (.fenceFull sc) s = .next (s.parkOn .other)) ∧
     (¬ returned → exec (.fenceAcq sc) s = .next (s.parkOn .other)) ∧
     (¬ performed → exec (.fenceRel sc) s = .next (s.parkOn .other))) ∧
  (∀ (s : State), Ready s {} →
    exec .wfe s = .next (s.after {} fun th => if th.latch then { th.past s.insnLen with latch := false } else
      { th.past s.insnLen with wfe := some (if th.wlim = 0 then none else some (s.cycle + th.wlim.toNat * 1024)) })) ∧
  ∀ (s : State) (t due : Nat), (s.thr t).wfe = some (some due) → due ≤ s.cycle →
    exec (.wfeTimeout t) s = .next (s.setThr t { s.thr t with wfe := none, latch := false })

/-- R71-R73: LOOP unpacks the next index of its chunk; with the chunk used up, it takes the answer in the claim buffer, or
leaves the loop when the answer is that nothing is left, or sends its claim and waits. A buffered claim of another pc or
descriptor address goes. A LOOP with an index left, or answered from the claim buffer, looks at no descriptor (the model's reading,
log entry 56). LOOP_CLAIM_RESPONSE performs the claim on a descriptor without errors: with work left NEXT rises by the chunk, and
with none ACTIVE falls by one; no other byte of the descriptor's memory changes. An index by a kept extent of 0 is free (log entry
55). -/
def Obligations.LoopSteps : Prop :=
  (∀ (s : State) (rd : Nat) (a : Src) (imm : BitVec 13),
    let n : Needs := { src := [⟨rd, .wait⟩, ⟨rd + 1, .wait⟩, a], dx := [rd, rd + 1, rd + 2, rd + 3, rd + 4] }
    Ready s n → rd ≠ 0 →
    let th := s.me
    let by_ := fun (d v k : Nat) => if d = 0 then Config.freeWord (s.freeCtr + k) else BitVec.ofNat 64 v
    let unpack := fun (i : Nat) (e : Word) (th : Thread) =>
      ((((th.gets (rd + 1) e).gets rd (BitVec.ofNat 64 i)).gets (rd + 2) (by_ th.ext0 (i % th.ext0) 0)).gets (rd + 3)
        (by_ (th.ext0 * th.ext1) (i / th.ext0 % th.ext1) 1)).gets (rd + 4) (by_ (th.ext0 * th.ext1) (i / (th.ext0 * th.ext1)) 2)
    let then_ : State := { s with freeCtr := if th.ext0 * th.ext1 = 0 then s.freeCtr + 3 else s.freeCtr }
    let mine := fun c : Claim => c.pc = th.pc ∧ c.desc = s.rx a
    let left := (th.xval rd + 1).toNat < (th.xval (rd + 1)).toNat
    (left → (th.claim = none ∨ ∃ c, th.claim = some c ∧ ¬ mine c) →
      exec (.loop rd a imm) s = .next (then_.after n fun th =>
        { (unpack (th.xval rd + 1).toNat (th.xval (rd + 1)) th).past s.insnLen with claim := none })) ∧
    (left → ∀ c, th.claim = some c → mine c →
      exec (.loop rd a imm) s = .next (then_.after n fun th =>
        (unpack (th.xval rd + 1).toNat (th.xval (rd + 1)) th).past s.insnLen)) ∧
    (¬ left → ∀ c, th.claim = some c → mine c →
      (c.ok = true → exec (.loop rd a imm) s = .next (then_.after n fun th =>
        { (unpack c.i.toNat (c.i + c.c) th).past s.insnLen with claim := none })) ∧
      (c.ok = false → exec (.loop rd a imm) s = .next (s.after n fun th =>
        { (th.gets rd c.total).gets (rd + 1) c.total with
          claim := none, pc := th.pc + BitVec.ofInt 64 (imm.toInt * 2) }))) ∧
    (¬ left → (∀ c, th.claim = some c → ¬ mine c) → th.claimSent = none → ∀ p ks l,
      (s.take n).target (s.take n).me .sync true (s.rx a) 32 32 32 = .ok [(p, 32)] ks l →
      exec (.loop rd a imm) s = .next (((s.modThr s.cur fun th => { th with
        claim := none, claimSent := some ⟨th.pc, s.rx a, [p, p.add 8, p.add 16], ks.headD 1, s.cycle⟩ }).countLeaf s.me.ctx
          (s.rx a).toNat l).parkOn .other))) ∧
  ∀ (s : State) (t : Nat) (r : ClaimReq) (p : Place), (s.thr t).claimSent = some r → s.claimFree t r = true →
    Clean s → (∀ b o, p ≠ .acc b o) → (∀ t r o, p ≠ .xreg t r o) →
    (∀ t r o, p ≠ .vreg t r o) → (∀ bs bad, p ≠ .data bs bad) → r.place = [p, p.add 8, p.add 16] →
    let next := leNat (s.readAt p 8)
    let ext := leNat (s.readAt (p.add 8) 8)
    let am := leNat (s.readAt (p.add 16) 8)
    let total := ext % 2 ^ 32 * (ext / 2 ^ 32 % 2 ^ 16) * (ext / 2 ^ 48 % 2 ^ 16)
    let chunk := min (max ((total - next + 2 * max (am / 2 ^ 32) 1 - 1) / (2 * max (am / 2 ^ 32) 1)) (max (am % 2 ^ 32) 1))
      (total - next)
    let next' := leBytes 8 (if next < total then (next + chunk) % 2 ^ 64 else next)
    let am' := leBytes 8 (if next < total then am else (am / 2 ^ 32 - 1) * 2 ^ 32 + am % 2 ^ 32)
    ∃ u, exec (.loopClaimResponse t) s = .next u ∧ (u.thr t).claimSent = none ∧
      (u.thr t).ext0 = ext % 2 ^ 32 ∧ (u.thr t).ext1 = ext / 2 ^ 32 % 2 ^ 16 ∧ (u.thr t).ext2 = ext / 2 ^ 48 % 2 ^ 16 ∧
      (total ≤ next → ∃ c, (u.thr t).claim = some c ∧ c.pc = r.pc ∧ c.desc = r.desc ∧ c.ok = false ∧
        c.total = BitVec.ofNat 64 total) ∧
      (next < total → ∃ c, (u.thr t).claim = some c ∧ c.pc = r.pc ∧ c.desc = r.desc ∧ c.ok = true ∧
        c.i = BitVec.ofNat 64 next ∧ c.c = BitVec.ofNat 64 chunk) ∧
      (∀ k off, p = .pad k off → u.hbm = s.hbm ∧ u.hostMem = s.hostMem ∧
        u.pad = Memory.writeBytes (Memory.writeBytes s.pad (k * 262144 + off) next') (k * 262144 + (off + 16)) am') ∧
      ∀ k h, p = .page k h → s.firmwareHit (s.thr t).ctx h 24 = false → u.pad = s.pad ∧ u.hostMem = s.hostMem ∧
        ∀ b, u.readByte (.page k b) = if h ≤ b ∧ b < h + 8 then next'.getD (b - h) 0
          else if h + 16 ≤ b ∧ b < h + 24 then am'.getD (b - (h + 16)) 0 else s.readByte (.page k b)

/-- R75: SPAWN answers 0x8000_0000_0000_0001 when the launch queue of its core holds 64 entries, and otherwise a new launch id, and
places the entry at the end of the queue; the id is the count of launches, and JOIN takes the lowest free entry (the model's choices,
log entries 47 and 63). R77: JOIN. Handle 0 makes a group in a free entry of the thread's die, with the thread as its only member; any other handle names a group to enter. A failure answers 0x8000_0000_0000_0000 + its code: 1
no free entry, 2 no such group, 3 four groups already. R77: LEAVE takes the thread out of the group and answers the number of
members that remain; a group without members is gone. A handle of no group answers code 2, one of a group that the thread is
not in code 4. GRPCNT answers the number of members, and for handle 0 the members of the population. -/
def Obligations.SpawnAndGroups : Prop :=
  (∀ (s : State) (rd : Nat) (a : Src), Ready s { src := [a], dx := [rd] } → s.performed s.cur = true →
     let q := (s.core s.myCore).launch
     (64 ≤ q.length → exec (.spawn rd a) s = .next (s.after { src := [a], dx := [rd] } fun th =>
       (th.gets rd 0x8000000000000001).past s.insnLen)) ∧
     (q.length < 64 → ∃ t, exec (.spawn rd a) s = .next t ∧ t.nextPop = s.nextPop + 1 ∧
       t.me = { ((Needs.marks { src := [a], dx := [rd] } s.me).gets rd (BitVec.ofNat 64 (s.nextPop + 1))).past s.insnLen with
         wait := none, answers := [] } ∧
       (t.core s.myCore).launch = q ++ [⟨s.nextPop + 1, s.rx a, s.me.part, s.me.ten, s.myCore / 8, 0, false, [], none⟩] ∧
       t.hbm = s.hbm ∧ t.pad = s.pad ∧ t.slots = s.slots ∧ ∀ u, u ≠ s.cur → t.thr u = s.thr u)) ∧
  (∀ (s : State) (rd : Nat) (a : Src), Ready s { src := [a], dx := [rd] } →
     let h := s.rx a
     let th := s.me
     let die := th.sid / 8192
     let key := fun die e => ((th.part * 4 + th.ten) * 2 + die) * 1024 + e
     let named := bit h 15 = true ∧ h.toNat < 65536 ∧ bits h 14 11 = 0
     let k := key (bits h 10 10) (bits h 9 0)
     let answers := fun (v : Word) => exec (.join rd a) s = .next (s.after { src := [a], dx := [rd] } fun th =>
       (th.gets rd v).past s.insnLen)
     let enters := fun (k : Nat) (g : Group) (v : Word) => exec (.join rd a) s = .next (State.after
       { s with groups := Table.set s.groups k g } { src := [a], dx := [rd] } fun th =>
         (Thread.gets { th with groups := th.groups ++ [k] } rd v).past s.insnLen)
     (h = 0 → 4 ≤ th.groups.length → answers (BitVec.ofNat 64 (2 ^ 63 + 3))) ∧
     (h = 0 → th.groups.length < 4 → (∀ e, e < 1024 → Table.has s.groups (key die e) = true) →
       answers (BitVec.ofNat 64 (2 ^ 63 + 1))) ∧
     (h = 0 → th.groups.length < 4 → ∀ e, e < 1024 → Table.has s.groups (key die e) = false →
       (∀ d, d < e → Table.has s.groups (key die d) = true) →
       enters (key die e) ⟨[s.cur], [], 0, []⟩ (BitVec.ofNat 64 (2 ^ 15 + die * 2 ^ 10 + e))) ∧
     (h ≠ 0 → (named → Table.find? s.groups k = none) → answers (BitVec.ofNat 64 (2 ^ 63 + 2))) ∧
     (h ≠ 0 → named → ∀ g, Table.find? s.groups k = some g →
       (s.cur ∈ g.members → answers h) ∧
       (s.cur ∉ g.members → 4 ≤ th.groups.length → answers (BitVec.ofNat 64 (2 ^ 63 + 3))) ∧
       (s.cur ∉ g.members → th.groups.length < 4 → enters k { g with members := g.members ++ [s.cur] } h))) ∧
  ∀ (s : State) (rd : Nat) (a : Src), Ready s { src := [a], dx := [rd] } →
    let h := s.rx a
    let th := s.me
    let named := bit h 15 = true ∧ h.toNat < 65536 ∧ bits h 14 11 = 0
    let k := ((th.part * 4 + th.ten) * 2 + bits h 10 10) * 1024 + bits h 9 0
    let answers := fun (i : Instr) (v : Word) => exec i s = .next (s.after { src := [a], dx := [rd] } fun th =>
      (th.gets rd v).past s.insnLen)
    (s.performed s.cur = true → (named → Table.find? s.groups k = none) →
      answers (.leave rd a) (BitVec.ofNat 64 (2 ^ 63 + 2))) ∧
    (s.performed s.cur = true → named → ∀ g, Table.find? s.groups k = some g →
      (s.cur ∉ g.members → answers (.leave rd a) (BitVec.ofNat 64 (2 ^ 63 + 4))) ∧
      (s.cur ∈ g.members → g.recs = [] → ∃ t, exec (.leave rd a) s = .next t ∧
        (rd ≠ 0 → t.me.getX rd = ⟨BitVec.ofNat 64 (g.members.filter (· ≠ s.cur)).length, true, false, false⟩) ∧
        k ∉ t.me.groups ∧ t.hbm = s.hbm ∧ t.pad = s.pad ∧
        (Table.find? t.groups k).map (·.members) =
          if g.members.filter (· ≠ s.cur) = [] then none else some (g.members.filter (· ≠ s.cur)))) ∧
    (h = 0 → ∀ p, Table.find? s.pops th.pop = some p → answers (.grpcnt rd a) (BitVec.ofNat 64 (p.size - p.exited))) ∧
    (h = 0 → Table.find? s.pops th.pop = none → answers (.grpcnt rd a) (BitVec.ofNat 64 (2 ^ 63 + 2))) ∧
    (h ≠ 0 → (named → Table.find? s.groups k = none) → answers (.grpcnt rd a) (BitVec.ofNat 64 (2 ^ 63 + 2))) ∧
    (h ≠ 0 → named → ∀ g, Table.find? s.groups k = some g → answers (.grpcnt rd a) (BitVec.ofNat 64 g.members.length))

/-- R81: WHOAMI 0 answers the slot, core, cluster and partition, WHOAMI 1 the window address of the core's scratchpad, WHOAMI 2 the
launch id, and any other selector 0. The model's choice: 0 for a thread that a packet launched (R342), a FAULT packet's handler among
them (log entry 20), and for a thread without a population. -/
def Obligations.WhoamiResults : Prop :=
  ∀ (s : State) (rd : Nat) (a : Src), Ready s { src := [a], dx := [rd] } →
    let sid := s.me.sid
    let answers := fun (v : Nat) => exec (.whoami rd a) s = .next (s.after { src := [a], dx := [rd] } fun th =>
      (th.gets rd (BitVec.ofNat 64 v)).past s.insnLen)
    (s.rx a = 0 → answers (sid % 16 + sid / 16 % 8 * 16 + sid / 128 * 128 + s.me.part * 16384)) ∧
    (s.rx a = 1 → answers (0x7F0000000000 + sid / 128 * 0x800000 + sid / 16 % 8 * 0x40000)) ∧
    (s.rx a = 2 → answers (match Table.find? s.pops s.me.pop with
      | some p => if p.packet.isSome then 0 else s.me.pop
      | none => 0)) ∧
    (3 ≤ (s.rx a).toNat → answers 0)

/-- R78: the last member to arrive at a barrier of its population completes it: it writes the count of completed barriers to xd and
goes on, and so does every member that waits; an earlier arrival waits at its BAR. A statistics address of 0 writes no byte.
C.BAR0 is BAR x0, x0, x0. -/
def Obligations.BarrierCompletes : Prop :=
  ∀ (s : State) (rd : Nat) (a b : Src) (p : Population), Ready s { src := [a, b], dx := [rd] } → s.rx a = 0 → s.rx b = 0 →
    s.performed s.cur = true → s.me.bar = none → Table.find? s.pops s.me.pop = some p → p.recs = [] →
    let goesOn := fun (i : Instr) (rd : Nat) => ∃ t, exec i s = .next t ∧
      (rd ≠ 0 → t.me.getX rd = ⟨BitVec.ofNat 64 p.bars, true, false, false⟩) ∧
      t.me.pc = s.me.pc + BitVec.ofNat 64 s.insnLen ∧
      Table.find? t.pops s.me.pop = some { p with arrived := [], recs := [], bars := p.bars + 1 } ∧
      t.hbm = s.hbm ∧ t.pad = s.pad ∧
      ∀ u w, u ∈ p.arrived → u ≠ s.cur → (s.thr u).bar = some w → w.pc = (s.thr u).pc → (s.thr u).frozen = none →
        (s.thr u).saved = false →
        (t.thr u).pc = w.pc + BitVec.ofNat 64 w.len ∧ (t.thr u).bar = none ∧ (t.thr u).wait = none ∧
        (w.rd ≠ 0 → (t.thr u).getX w.rd = ⟨BitVec.ofNat 64 p.bars, true, false, false⟩)
    let waits := fun (i : Instr) => ∃ t, exec i s = .next t ∧ t.me.pc = s.me.pc ∧ t.me.x = s.me.x ∧
      t.me.wait = some (.barrier (2 ^ 62 + s.me.pop)) ∧
      Table.find? t.pops s.me.pop = some { p with arrived := p.arrived ++ [s.cur] } ∧ t.hbm = s.hbm ∧ t.pad = s.pad
    (p.arrived.length + 1 = p.size - p.exited → goesOn (.bar rd a b) rd ∧ goesOn .cBar0 0) ∧
    (p.arrived.length + 1 ≠ p.size - p.exited → waits (.bar rd a b) ∧ waits .cBar0)

/-- R79: EXIT of a user thread with no STF, AMO, held access or group of its own removes the thread: its slot is empty, and its
population counts one more exit. C.EXIT is EXIT. In a root slot, which has no population, EXIT moves the pc alone (the model's
choice, log entry 10). R80: a thread that yields is not ready before the cycle after its slot's next owned turn. The first
TRIGGER of a thread counts in its population, and a later one changes the pc alone. -/
def Obligations.ExitYieldTrigger : Prop :=
  (∀ (s : State), Ready s {} → Quiet s → s.ownAmo s.cur = false →
     (s.me.isRoot = true → exec .exit s = .next (s.after {} fun th => th.past s.insnLen) ∧
       exec .cExit s = .next (s.after {} fun th => th.past s.insnLen)) ∧
     (s.me.isRoot = false → s.me.groups = [] → 1024 ≤ s.cur → ∀ p, Table.find? s.pops s.me.pop = some p → p.recs = [] →
       p.arrived = [] →
       let ends := fun i => ∃ t, exec i s = .next t ∧ t.alive s.cur = false ∧ (∀ e ∈ t.slots, e.2 ≠ s.cur) ∧
         t.hbm = s.hbm ∧ t.pad = s.pad ∧ (∀ u, u ≠ s.cur → t.thr u = s.thr u) ∧
         Table.find? t.pops s.me.pop = some { p with
           exited := p.exited + 1, trig := if s.me.triggered then p.trig else p.trig + 1 }
       ends .exit ∧ ends .cExit)) ∧
  ∀ (s : State), Ready s {} →
    let slot := s.me.sid % 16
    let yields := fun i => ∃ n, s.cycle < n ∧ n ≤ s.cycle + 16 ∧ n % 16 = slot ∧
      exec i s = .next (s.after {} fun th => { th.past s.insnLen with notBefore := n + 1 })
    yields .yield ∧ yields .cYield ∧
    (s.me.triggered = true → exec .trigger s = .next (s.after {} fun th => th.past s.insnLen)) ∧
    (s.performed s.cur = true → s.me.triggered = false → ∀ p, Table.find? s.pops s.me.pop = some p →
      exec .trigger s = .next (State.after { s with pops := Table.set s.pops s.me.pop { p with trig := p.trig + 1 } } {}
        fun th => { th.past s.insnLen with triggered := true }))

/-- R290, R291: a trap in a user slot freezes the thread with its class, queues the record (word 0 without SEQ, the pc of the
instruction, its word, INFO) for the root slot of the core and counts the class; no register and no byte of memory changes. The
pc that ERET resumes at is that of the trapping instruction, but for TRAP and BRK (classes 12 and 13) that of the next. -/
def Obligations.UserTrapEntry : Prop :=
  ∀ (s : State) (cls detail : Nat) (info : Word), s.me.isRoot = false →
    let th := s.me
    let t := s.takeTrap cls detail info
    let core := th.sid / 16
    t.me.frozen = some cls ∧ t.me.pc = (if cls = 12 ∨ cls = 13 then th.pc + BitVec.ofNat 64 s.insnLen else th.pc) ∧
    (t.core core).records = (s.core core).records ++ [[BitVec.ofNat 64 (detail % 65536 * 2 ^ 24 + cls % 256 * 2 ^ 16 +
      th.ten % 4 * 2 ^ 14 + th.part % 16 * 2 ^ 8 + th.sid % 16 * 2 ^ 4), th.pc &&& 0xFFFFFFFFFFFF, s.insn.setWidth 64, info]] ∧
    (∀ i, Table.get (t.core core).events i 0 = if (1 ≤ cls ∧ cls ≤ 10 ∧ i = cls + 4) ∨ (11 ≤ cls ∧ cls ≤ 14 ∧ i = 15)
      then min (Table.get (s.core core).events i 0 + 1) 0xFFFFFFFF else Table.get (s.core core).events i 0) ∧
    t.me.x = th.x ∧ t.me.v = th.v ∧ t.me.p = th.p ∧ t.hbm = s.hbm ∧ t.hostMem = s.hostMem ∧ t.pad = s.pad ∧ t.acc = s.acc ∧
    (∀ u, u ≠ s.cur → t.thr u = s.thr u)

/-- R293: a trap in the root slot writes REPC, RCAUSE (the record's word 0 with the count of records as SEQ) and RADDR, and goes
on at RVEC, without its bit 0 (R32; the model's reading, log entry 50); the class is counted (R101), nothing is queued and the
thread is not frozen. -/
def Obligations.RootTrapEntry : Prop :=
  ∀ (s : State) (cls detail : Nat) (info : Word), s.me.isRoot = true →
    let th := s.me
    let t := s.takeTrap cls detail info
    let c := s.core (th.sid / 16)
    let d := t.core (th.sid / 16)
    d.repc = (if cls = 12 ∨ cls = 13 then th.pc + BitVec.ofNat 64 s.insnLen else th.pc) ∧
    d.rcause = BitVec.ofNat 64 (c.tqcnt % 2 ^ 24 * 2 ^ 40 + (detail % 65536 * 2 ^ 24 + cls % 256 * 2 ^ 16 +
      th.ten % 4 * 2 ^ 14 + th.part % 16 * 2 ^ 8)) ∧
    (∀ i, Table.get d.events i 0 = if (1 ≤ cls ∧ cls ≤ 10 ∧ i = cls + 4) ∨ (11 ≤ cls ∧ cls ≤ 14 ∧ i = 15)
      then min (Table.get c.events i 0 + 1) 0xFFFFFFFF else Table.get c.events i 0) ∧
    d.raddr = info ∧ t.me.pc = c.rvec &&& ~~~1 ∧ t.me.frozen = th.frozen ∧ d.records = c.records ∧ d.rvec = c.rvec ∧
    t.me.x = th.x ∧ t.hbm = s.hbm ∧ t.pad = s.pad ∧ (∀ u, u ≠ s.cur → t.thr u = s.thr u)

/-- R297: TRAP and BRK complete by taking the trap of class 12, with the service number as INFO, and of class 13. TRAP marks its take
sources empty and writes no register; while a write of its destination is pending it waits (the model's reading of R24, log entry
41). R46, R295: an instruction of the root slot traps in user mode with class 2, before its sources are looked at. R295: a slot
operand outside 1-15 is an illegal instruction in the root slot, and changes nothing else; so is a slot selector that R299 does not
list: SLOT 0, a FILE of 5-15, an INDEX out of range or a reserved bit that is set. -/
def Obligations.TrapsOfSystemInstructions : Prop :=
  (∀ (s : State) (rd : Nat) (a b : Src),
     (Ready s { src := [a, b], dx := [rd] } →
       exec (.trap rd a b) s = .next (((s.take { src := [a, b] }).takeTrap 12 0 (s.rx a)).issued) ∧
       (s.me.isRoot = false → ∃ t, exec (.trap rd a b) s = .next t ∧ t.me.frozen = some 12 ∧
         t.me.pc = s.me.pc + BitVec.ofNat 64 s.insnLen ∧ ∀ r, t.me.xval r = s.me.xval r)) ∧
     ((s.me.getX rd).pend = true →
       ∃ t, exec (.trap rd a b) s = .next t ∧ t.me.pc = s.me.pc ∧ t.me.x = s.me.x ∧ t.me.frozen = s.me.frozen ∧
         t.me.wait.isSome = true) ∧
     (Ready s {} → exec .brk s = .next (((s.take {}).takeTrap 13 0 0).issued) ∧
       (s.me.isRoot = false → ∃ t, exec .brk s = .next t ∧ t.me.frozen = some 13 ∧
         t.me.pc = s.me.pc + BitVec.ofNat 64 s.insnLen ∧ t.me.x = s.me.x))) ∧
  (∀ (s : State) (rd : Nat) (a b : Src) (i : Instr), s.me.isRoot = false →
     i ∈ [Instr.eret a, .park a, .unpark a, .kill a, .slotld rd a, .slotst a b] →
     exec i s = .next (s.takeTrap 2 0 0)) ∧
  ∀ (s : State) (rd : Nat) (a b : Src), s.me.isRoot = true →
    (Ready s { src := [a] } → ((s.rx a).toNat = 0 ∨ 15 < (s.rx a).toNat) → ∀ i ∈ [Instr.eret a, .park a, .unpark a, .kill a],
      exec i s = .next (s.takeTrap 1 0 0)) ∧
    (Ready s { src := [a], dx := [rd] } → ((s.rx a).toNat < 65536 ∨ 2 ^ 20 ≤ (s.rx a).toNat) →
      exec (.slotld rd a) s = .next (s.takeTrap 1 0 0)) ∧
    (Ready s { src := [a, b] } → ((s.rx a).toNat < 65536 ∨ 2 ^ 20 ≤ (s.rx a).toNat) →
      exec (.slotst a b) s = .next (s.takeTrap 1 0 0)) ∧
    ∀ slot file idx, 0 < slot → slot < 16 → file < 16 → idx < 4096 → s.rx a = BitVec.ofNat 64 (slot * 65536 + file * 4096 + idx) →
      ¬ (file = 0 ∧ idx < 32 ∨ file = 1 ∧ idx < 512 ∨ file = 2 ∧ idx < 32 ∨ file = 3 ∧ idx < 4 ∨
        file = 4 ∧ (idx < 2 ∨ 16 ≤ idx ∧ idx < 32)) →
      (Ready s { src := [a], dx := [rd] } → exec (.slotld rd a) s = .next (s.takeTrap 1 0 0)) ∧
      (Ready s { src := [a, b] } → exec (.slotst a b) s = .next (s.takeTrap 1 0 0))

/-- R300-R302: in the root slot, ERET lets a frozen thread go on at its saved pc from the next cycle with its latch set, and leaves
one that is not frozen alone; PARK sets HELD, UNPARK clears it and sets the latch, KILL ends the thread; on an empty slot each
moves the pc alone. The thread's own registers stay as they are. R299: SLOTLD answers the selected word of another slot: a
register's contents whatever its full bit, a 64-bit lane of a v register or a predicate, the full and poison bits, the pc,
STATUS, a queue port. R299: SLOTST writes the selected word of a frozen or held slot, and leaves any other slot alone. A pc
that is odd or beyond 48 bits is an illegal instruction. -/
def Obligations.SlotInstructions : Prop :=
  (∀ (s : State) (a : Src), s.me.isRoot = true → Ready s { src := [a] } → 1 ≤ (s.rx a).toNat → (s.rx a).toNat ≤ 15 →
     let past := s.after { src := [a] } fun th => th.past s.insnLen
     let slot := s.slotThread (s.me.sid / 16 * 16 + (s.rx a).toNat)
     (slot = none → ∀ i ∈ [Instr.eret a, .park a, .unpark a, .kill a], exec i s = .next past) ∧
     (∀ u, slot = some u → u ≠ s.cur →
       ((s.thr u).frozen ≠ none → exec (.eret a) s = .next (past.setThr u { s.thr u with
         frozen := none, record := none, latch := true, notBefore := max (s.thr u).notBefore (s.cycle + 1),
         thaw := s.cycle + 1 })) ∧
       ((s.thr u).frozen = none → exec (.eret a) s = .next past) ∧
       exec (.park a) s = .next (past.setThr u { s.thr u with held := true }) ∧
       exec (.unpark a) s = .next (past.setThr u { s.thr u with
         held := false, latch := true, notBefore := max (s.thr u).notBefore (s.cycle + 1) }) ∧
       ∃ t, exec (.kill a) s = .next t ∧
         (Quiet s → (s.thr u).groups = [] → Table.find? s.pops (s.thr u).pop = none → 1024 ≤ u →
           t.alive u = false ∧ t.hbm = s.hbm ∧ t.pad = s.pad ∧ t.me.pc = s.me.pc + BitVec.ofNat 64 s.insnLen))) ∧
  (∀ (s : State) (rd : Nat) (a : Src) (slot file idx u : Nat), s.me.isRoot = true → Ready s { src := [a], dx := [rd] } →
     0 < slot → slot < 16 → s.rx a = BitVec.ofNat 64 (slot * 65536 + file * 4096 + idx) →
     s.slotThread (s.me.sid / 16 * 16 + slot) = some u → u ≠ s.cur →
     let th := s.thr u
     let answers := fun (v : Word) => exec (.slotld rd a) s = .next (s.after { src := [a], dx := [rd] } fun th =>
       (th.gets rd v).past s.insnLen)
     (file = 0 → idx < 32 → answers (th.xval idx)) ∧
     (file = 1 → idx < 512 → answers (BitVec.ofNat 64 ((th.vval (idx / 32)).toNat / 2 ^ (64 * (idx % 32))))) ∧
     (file = 2 → idx < 32 → answers (BitVec.ofNat 64 ((th.getP (idx / 4)).toNat / 2 ^ (64 * (idx % 4))))) ∧
     (file = 3 → idx < 4 → ∃ v, answers v ∧
       (idx = 3 → ∀ r, r < 8 → v.getLsbD (16 + r) = th.pbad.getLsbD r) ∧
       (idx = 0 → ∀ r, r < 32 → v.getLsbD r = (th.getX r).full) ∧
       (idx = 1 → ∀ r, r < 16 → v.getLsbD r = (th.getV r).full) ∧
       (idx = 2 → ∀ r, r < 32 → v.getLsbD r = (th.getX r).poison) ∧
       (idx = 3 → ∀ r, r < 16 → v.getLsbD r = (th.getV r).poison)) ∧
     (file = 4 → idx = 0 → answers th.pc) ∧ (file = 4 → idx = 1 → answers th.status) ∧
     (file = 4 → 16 ≤ idx → idx < 32 → answers (Table.get th.q (idx - 16) 0))) ∧
  ∀ (s : State) (a b : Src) (slot file idx u : Nat), s.me.isRoot = true → Ready s { src := [a, b] } →
    0 < slot → slot < 16 → s.rx a = BitVec.ofNat 64 (slot * 65536 + file * 4096 + idx) →
    s.slotThread (s.me.sid / 16 * 16 + slot) = some u → u ≠ s.cur →
    let th := s.thr u
    let w := s.rx b
    let past := s.after { src := [a, b] } fun th => th.past s.insnLen
    let live := th.frozen.isSome = true ∨ th.held = true
    let writes := fun (th : Thread) => exec (.slotst a b) s = .next (past.setThr u th)
    (file = 0 → idx < 32 → live → writes (th.setX idx ⟨w, true, false, (th.getX idx).pend⟩)) ∧
    (file = 4 → idx = 0 → live → w.getLsbD 0 = false → w.toNat < 2 ^ 48 → writes { th with pc := w }) ∧
    (file = 4 → idx = 0 → (w.getLsbD 0 = true ∨ 2 ^ 48 ≤ w.toNat) → exec (.slotst a b) s = .next (s.takeTrap 1 0 0)) ∧
    (file = 4 → idx = 1 → live → writes { th with wlim := BitVec.ofNat 16 (w.toNat / 2 ^ 32) }) ∧
    (file = 4 → 16 ≤ idx → idx < 32 → live → writes th) ∧
    (file < 3 → idx < 32 → ¬ live → exec (.slotst a b) s = .next past)

/-- R292: with the entry's word empty and the record before the last 63 taken, the trap queue receives the oldest record: its words
at the entry's offset, SEQ in bits 63-40 of the first, and the first word full; the count goes up and the record leaves the
queue. R291: the record that the frozen thread holds carries the same SEQ. -/
def Obligations.TrapRecordWritten : Prop :=
  ∀ (s : State) (core : Nat) (w0 w1 w2 w3 : Word) (rest : List (List Word)), Quiet s →
    let c := s.core core
    let off := c.tqbase.toNat % 262144 + c.tqcnt % 64 * 32
    let at0 := core * 262144 + off
    c.records = [w0, w1, w2, w3] :: rest → c.tqbase ≠ 0 → (s.padWord core off).full = false →
    (c.tqcnt < 64 ∨ c.tqcnt ≤ c.tqtaken + 62) →
    ∃ t, exec (.trapRecordWrite core) s = .next t ∧
      (∀ j, Memory.read t.pad j = if at0 ≤ j ∧ j < at0 + 8
          then BitVec.ofNat 8 ((c.tqcnt % 2 ^ 24 * 2 ^ 40 + w0.toNat % 2 ^ 40) / 256 ^ (j - at0))
        else if at0 + 8 ≤ j ∧ j < at0 + 16 then BitVec.ofNat 8 (w1.toNat / 256 ^ (j - (at0 + 8)))
        else if at0 + 16 ≤ j ∧ j < at0 + 24 then BitVec.ofNat 8 (w2.toNat / 256 ^ (j - (at0 + 16)))
        else if at0 + 24 ≤ j ∧ j < at0 + 32 then BitVec.ofNat 8 (w3.toNat / 256 ^ (j - (at0 + 24)))
        else Memory.read s.pad j) ∧
      (t.padWord core off).full = true ∧ (t.core core).records = rest ∧ (t.core core).tqcnt = c.tqcnt + 1 ∧
      (t.thr core).latch = true ∧ t.hbm = s.hbm ∧
      ∀ u, s.slotThread (core * 16 + bits w0 7 4) = some u → (s.thr u).record = some [w0, w1, w2, w3] →
        (t.thr u).record = some [BitVec.ofNat 64 (c.tqcnt % 2 ^ 24 * 2 ^ 40 + w0.toNat % 2 ^ 40), w1, w2, w3]

/-- R40, R296: CRD of a listed selector that its thread may read answers the register; the named values are those of R288. R40,
R296: CWR by the root slot writes the register; a user thread writes WLIM of its STATUS, and takes the privileged trap on any other
listed selector. The model's reading (log entry 33): RVEC and TRAPCFG are writable, and TQCNT, REPC, RCAUSE, RADDR and LQCNT keep
their value. -/
def Obligations.ControlRegisters : Prop :=
  (∀ (s : State) (rd : Nat) (a : Src), Ready s { src := [a], dx := [rd] } →
     let n : Needs := { src := [a], dx := [rd] }
     let sel := (s.rx a).toNat
     let c := s.core (s.me.sid / 16)
     let answers := fun (v : Word) => exec (.crd rd a) s = .next (s.after n fun th => (th.gets rd v).past s.insnLen)
     (ctlListed sel = true → (s.me.isRoot = true ∨ ctlUserReads sel = true) → answers ((s.take n).readCtl (s.take n).me sel)) ∧
     (sel = 0 → answers (n.marks s.me).status) ∧ (sel = 1 → answers s.me.lastTl) ∧
     (sel = 2 → answers (BitVec.ofNat 64 s.cycle)) ∧ (sel = 3 → answers (BitVec.ofNat 64 s.ftime)) ∧
     (∀ i, i < 16 → sel = 0x10 + i → answers (BitVec.ofNat 64 (Table.get c.events i 0))) ∧
     (s.me.isRoot = true → (sel = 0x120 → answers c.tqbase) ∧ (sel = 0x121 → answers (BitVec.ofNat 64 c.tqcnt)) ∧
       (sel = 0x122 → answers c.rvec) ∧ (sel = 0x123 → answers c.repc) ∧ (sel = 0x124 → answers c.rcause) ∧
       (sel = 0x125 → answers c.raddr) ∧ (sel = 0x126 → answers c.trapcfg) ∧ (sel = 0x400 → answers (BitVec.ofNat 64 c.psel))) ∧
     (ctlListed sel = false → exec (.crd rd a) s = .next (s.takeTrap 1 0 0)) ∧
     (ctlListed sel = true → s.me.isRoot = false → ctlUserReads sel = false → exec (.crd rd a) s = .next (s.takeTrap 2 0 0))) ∧
  ∀ (s : State) (a b : Src), Ready s { src := [a, b] } →
    let n : Needs := { src := [a, b] }
    let sel := (s.rx a).toNat
    let v := s.rx b
    let core := s.me.sid / 16
    let root := fun (u : State) => exec (.cwr a b) s = .next ((u.advance).issued)
    (s.me.isRoot = true → ctlListed sel = true → root ((s.take n).writeCtl core sel v)) ∧
    (s.me.isRoot = true →
      (∀ i, i < 16 → sel = 0x10 + i → v = 0 →
        root ((s.take n).modCore core fun c => { c with events := Table.erase c.events i })) ∧
      (∀ i, i < 16 → sel = 0x10 + i → v ≠ 0 → root (s.take n)) ∧
      (sel = 0x122 → root ((s.take n).modCore core fun c => { c with rvec := v })) ∧
      (sel = 0x126 → root ((s.take n).modCore core fun c => { c with trapcfg := BitVec.ofNat 64 (v.toNat / 2 % 2 ^ 15 * 2) })) ∧
      (sel = 0x400 → root ((s.take n).modCore core fun c => { c with psel := v.toNat % 16 })) ∧
      (sel ∈ [1, 2, 3, 0x121, 0x123, 0x124, 0x125, 0x127] → root (s.take n))) ∧
    (s.me.isRoot = false → sel = 0 → exec (.cwr a b) s = .next (s.after n fun th =>
      { th.past s.insnLen with wlim := BitVec.ofNat 16 (v.toNat / 2 ^ 32) })) ∧
    (s.me.isRoot = false → sel ≠ 0 → ctlListed sel = true → exec (.cwr a b) s = .next (s.takeTrap 2 0 0)) ∧
    (ctlListed sel = false → exec (.cwr a b) s = .next (s.takeTrap 1 0 0))

/-- R82, R84: QBIND binds an unbound queue register to a port that its value names (TYPE 1 or 2 with the other bits 0, or TYPE 3 with
a ring descriptor that the thread reaches), and takes the queue trap otherwise; QFREE unbinds it; QSTAT answers 0 for an unbound
one and TYPE, the free and the held entries of its port for a bound one. The SFU port holds the words and keeps room for the accepted
requests (the model's reading of R127, log entry 45), and the Braid's shows 65,535 free. R29, R83, R127: a pop takes the oldest
entry of its port into its register, and a push adds one at the end: of the SFU result port in the slot, of a ring in the
scratchpad, where HEAD or TAIL moves on by one. An empty port holds a pop back, and a full one a push. An access through an
unbound queue register takes the queue trap. R199: a push to the Braid's port always issues. -/
def Obligations.QueueRegisters : Prop :=
  (∀ (s : State) (q rd : Nat) (a : Src),
     (Ready s { src := [a] } → Table.has s.me.q q = false → ((s.take { src := [a] }).portOf (s.take { src := [a] }).me (s.rx a)).isSome →
       exec (.qbind q a) s = .next (s.after { src := [a] } fun th =>
         Thread.past { th with q := Table.set th.q q (s.rx a) } s.insnLen)) ∧
     (Ready s { src := [a] } → Table.has s.me.q q = true → exec (.qbind q a) s = .next (s.takeTrap 9 0 0)) ∧
     (Ready s { src := [a] } → (s.take { src := [a] }).portOf (s.take { src := [a] }).me (s.rx a) = none →
       exec (.qbind q a) s = .next (s.takeTrap 9 0 0)) ∧
     (Ready s { src := [a] } → ((s.rx a).toNat / 2 ^ 60 ∉ [1, 2, 3] ∨ (s.rx a).toNat / 2 ^ 48 % 2 ^ 12 ≠ 0 ∨
         (s.rx a).toNat / 2 ^ 60 ≠ 3 ∧ (s.rx a).toNat % 2 ^ 48 ≠ 0 ∨
         (s.rx a).toNat / 2 ^ 60 = 3 ∧ ((s.rx a).toNat % 32 ≠ 0 ∨ inWindow ((s.rx a).toNat % 2 ^ 48) = false)) →
       exec (.qbind q a) s = .next (s.takeTrap 9 0 0)) ∧
     (Ready s { src := [a] } → Table.has s.me.q q = false → (s.rx a = 2 ^ 60 ∨ s.rx a = 2 ^ 61) →
       exec (.qbind q a) s = .next (s.after { src := [a] } fun th =>
         Thread.past { th with q := Table.set th.q q (s.rx a) } s.insnLen)) ∧
     (Ready s {} → exec (.qfree q) s = .next (s.after {} fun th => Thread.past { th with q := Table.erase th.q q } s.insnLen)) ∧
     (Ready s { dx := [rd] } → Table.find? s.me.q q = none →
       exec (.qstat q rd) s = .next (s.after {} fun th => (th.gets rd 0).past s.insnLen)) ∧
     (Ready s { dx := [rd] } → Table.find? s.me.q q = some (BitVec.ofNat 64 (2 ^ 60)) →
       exec (.qstat q rd) s = .next (s.after {} fun th => (th.gets rd (BitVec.ofNat 64 (2 ^ 63 + 2 ^ 56 +
         min (16 - s.me.sfuWords.length) 65535 * 2 ^ 16 + min s.me.sfuWords.length 65535))).past s.insnLen)) ∧
     (Ready s { dx := [rd] } → Table.find? s.me.q q = some (BitVec.ofNat 64 (2 ^ 61)) →
       exec (.qstat q rd) s = .next (s.after {} fun th => (th.gets rd (BitVec.ofNat 64 (2 ^ 63 + 2 ^ 57 + 65535 * 2 ^ 16 +
         min (((s.graphs.filter fun g => g.die = s.me.sid / 8192 && g.part = s.me.part && g.ten = s.me.ten).map
           fun g => g.ready.length).sum) 65535))).past s.insnLen)) ∧
     (Ready s { dx := [rd] } → s.performed s.cur = true → ∀ w core off r, Table.find? s.me.q q = some w → w.toNat / 2 ^ 60 = 3 →
       (s.take { dx := [rd] }).portOf (s.take { dx := [rd] }).me w = some (.ring core off) → s.ringFor s.me core off = some r →
       exec (.qstat q rd) s = .next (s.after {} fun th => (th.gets rd (BitVec.ofNat 64 (2 ^ 63 + 3 * 2 ^ 56 +
         min (r.mask + 1 - (r.tail - r.head)) 65535 * 2 ^ 16 + min (r.tail - r.head) 65535))).past s.insnLen))) ∧
  ∀ (s : State) (q rd : Nat) (a : Src) (v : Word) (ws : List Word) (core off : Nat) (r : Ring),
    let sfu := Table.find? s.me.q q = some (BitVec.ofNat 64 (2 ^ 60))
    let pops := fun (i : Instr) => Ready s { dx := [rd] } →
      (sfu → s.me.sfuWords = v :: ws → exec i s = .next (s.after {} fun th =>
        (Thread.gets { th with sfuWords := ws } rd v).past s.insnLen)) ∧
      (sfu → s.me.sfuWords = [] → exec i s = .next (s.parkOn .other)) ∧
      (Table.find? s.me.q q = none → exec i s = .next (s.takeTrap 9 0 0)) ∧
      (∀ w, Table.find? s.me.q q = some w →
        (s.take { dx := [rd] }).portOf (s.take { dx := [rd] }).me w = some (.ring core off) → s.ringFor s.me core off = some r →
        Quiet s → (r.tail ≤ r.head → exec i s = .next (s.parkOn .other)) ∧ (r.head < r.tail → s.badPad = [] → ∃ t, exec i s = .next t ∧
          (rd ≠ 0 → t.me.getX rd = ⟨BitVec.ofNat 64 (leNat (s.readAt (.pad core (r.base + 8 * (r.head % (r.mask + 1)))) 8)),
            true, false, false⟩) ∧
          t.pad = Memory.writeBytes s.pad (core * 262144 + off) (leBytes 8 (r.head + 1)) ∧ t.hbm = s.hbm ∧
          t.me.pc = s.me.pc + BitVec.ofNat 64 s.insnLen))
    let pushes := fun (i : Instr) (x : Src) => Ready s { src := [x] } →
      (sfu → s.me.sfuWords.length + (s.core (s.me.sid / 16)).sfuOpen s.cur < 16 → exec i s = .next (s.after { src := [x] } fun th =>
        Thread.past { th with sfuWords := th.sfuWords ++ [s.rx x] } s.insnLen)) ∧
      (sfu → 16 ≤ s.me.sfuWords.length + (s.core (s.me.sid / 16)).sfuOpen s.cur → exec i s = .next (s.parkOn .other)) ∧
      (Table.find? s.me.q q = none → exec i s = .next (s.takeTrap 9 0 0)) ∧
      (∀ w, Table.find? s.me.q q = some w → (s.take { src := [x] }).portOf (s.take { src := [x] }).me w = some (.ring core off) →
        s.ringFor s.me core off = some r → s.performed s.cur = true → (r.mask < r.tail - r.head → exec i s = .next (s.parkOn .other)) ∧
        (r.tail - r.head ≤ r.mask → ∃ t, exec i s = .next t ∧
          t.pad = Memory.writeBytes (Memory.writeBytes s.pad (core * 262144 + (r.base + 8 * (r.tail % (r.mask + 1))))
            (leBytes 8 (s.rx x).toNat)) (core * 262144 + (off + 8)) (leBytes 8 (r.tail + 1)) ∧ t.hbm = s.hbm ∧
          t.me.pc = s.me.pc + BitVec.ofNat 64 s.insnLen)) ∧
      (Table.find? s.me.q q = some (BitVec.ofNat 64 (2 ^ 61)) →
        exec i s = .next ((((s.take { src := [x] }).submit s.cur (.braid (s.rx x)) []).advance).issued))
    pops (.qrd q rd) ∧ pops (.cQrd rd q) ∧ pushes (.qwr q a) a ∧ pushes (.cQwr rd q) ⟨rd, .wait⟩

/-- R182, R183, R190, R201: an engine request whose descriptor address is 8-aligned and whose context has room is accepted, once
the thread's earlier accesses are performed and the translations of its descriptor are there (R331; else it waits for one): rd
is emptied, the context numbers the request, and LASTTL receives the number. WAITTL issues once the timeline has reached its
value. R199: ATSUB accepts a well-formed graph of at most 4,096 tasks while fewer than 64 are live; a graph whose header is
malformed ends it at once with code 1. A pop of the dispatch port takes the lowest ready task of the earliest graph and answers
the address of its entry, and waits while no task is ready. -/
def Obligations.EngineRequestsIssue : Prop :=
  ((∀ (s : State) (tok : Nat) (b : Src) (ch : Nat),
     let n : Needs := { src := [b], dx := [tok] }
     Ready s n → s.performed s.cur = true → (s.rx b).toNat % 8 = 0 →
     let accepts := fun (i : Instr) (q : Nat) (kind : EngKind) =>
       let k := s.me.ctxKeyOf q
       let v := ((s.take n).noMiss.deferX tok).accept k q tok kind (s.rx b)
       (s.engCtx k).queue.length < 16 →
       (v.xmiss = none → exec i s = .next (((((v.dropAnswers k).startHead k).advance).issued))) ∧
       (∀ page, v.xmiss = some page → exec i s = .next ((s.engMiss k page).parkOn .other)) ∧
       (v.xmiss = none → ((∀ c, kind ≠ .coll c) ∨ (s.engCtx k).frozen = true ∨ (s.engCtx k).queue ≠ []) →
         (∀ r ∈ (s.engCtx k).queue, ∀ c, r.kind = .coll c → r.sent = true) →
         ∃ t, exec i s = .next t ∧ (t.engCtx k).acc = (s.engCtx k).acc + 1 ∧
         (t.engCtx k).queue.length = (s.engCtx k).queue.length + 1 ∧ t.me.lastTl = BitVec.ofNat 64 ((s.engCtx k).acc + 1) ∧
         (tok ≠ 0 → (t.me.getX tok).full = false ∧ (t.me.getX tok).pend = true) ∧
         t.me.pc = s.me.pc + BitVec.ofNat 64 s.insnLen ∧ t.pad = s.pad)
     accepts (.cpy tok b ch) ch (.copy 0) ∧ accepts (.cpyRect tok b ch) ch (.copy 1) ∧ accepts (.cpyWin tok b ch) ch (.copy 2) ∧
     (s.me.isRoot = true → accepts (.cpyCow tok b ch) ch (.copy 3)) ∧
     accepts (.gath tok b ch) (2 + ch) (.gather false) ∧ accepts (.gathRows tok b ch) (2 + ch) (.gather true) ∧
     accepts (.collAllred tok b ch) (4 + ch) (.coll 0) ∧ accepts (.collAllgath tok b ch) (4 + ch) (.coll 1) ∧
     accepts (.collRedscat tok b ch) (4 + ch) (.coll 2) ∧ accepts (.collAlltoall tok b ch) (4 + ch) (.coll 3)) ∧
   (∀ (s : State) (tok : Nat) (b : Src) (ch : Nat), s.me.isRoot = false → exec (.cpyCow tok b ch) s = .next (s.takeTrap 2 0 0)) ∧
   ∀ (s : State) (q : Nat) (a : Src), Ready s { src := [a] } →
     ((s.rx a).toNat ≤ (s.engCtx (s.me.ctxKeyOf q)).done →
       exec (.waittl q a) s = .next (s.after { src := [a] } fun th => th.past s.insnLen)) ∧
     ((s.engCtx (s.me.ctxKeyOf q)).done < (s.rx a).toNat → exec (.waittl q a) s = .next (s.parkOn .other))) ∧
  (∀ (s : State) (tok : Nat) (b : Src), Ready s { src := [b], dx := [tok] } → s.performed s.cur = true →
    (s.rx b).toNat % 8 = 0 → (s.liveGraphs (s.me.sid / 8192) s.me.part s.me.ten).length < 64 →
    let u := (s.take { src := [b], dx := [tok] }).noMiss.deferX tok
    let k := ((s.me.part * 4 + s.me.ten) * 16 + 12) * 128 + s.me.sid / 8192
    let e : Eng := ⟨s.me.sid, s.me.part, s.me.ten, 140, some k⟩
    (∀ g v, u.readGraph e s.cur tok (s.rx b).toNat = (.ok g, v) → v.xmiss = none →
      exec (.atsub tok b) s = .next ((((State.dropAnswers { v with graphs := v.graphs ++ [g] } k).startHead k).advance).issued)) ∧
    (∀ c v, u.readGraph e s.cur tok (s.rx b).toNat = (.error c, v) → v.xmiss = none →
      exec (.atsub tok b) s = .next (((((v.landX v.cur tok (BitVec.ofNat 64 (2 ^ 63 + c)) false).dropAnswers k).startHead k).advance).issued)) ∧
    ∀ h x, Xfer.words e (s.rx b).toNat 4 ⟨u, [], 0, 0⟩ = (.ok h, x) → x.s.xmiss = none →
      let w := fun i => (h.getD i 0).toNat
      (w 0 / 2 ^ 13 ≠ 0 ∨ w 1 / 2 ^ 48 ≠ 0 ∨ w 2 ≠ 0 ∨ w 3 ≠ 0 ∨ w 0 = 0 ∨ 4096 < w 0) →
      exec (.atsub tok b) s = .next
        (((((x.s.landX x.s.cur tok 0x8000000000000001 false).dropAnswers k).startHead k).advance).issued)) ∧
  ∀ (s : State) (q rd : Nat) (i : Instr), i ∈ [Instr.qrd q rd, .cQrd rd q] → Ready s { dx := [rd] } →
    Table.find? s.me.q q = some (BitVec.ofNat 64 (2 ^ 61)) →
    let live := s.graphs.filter fun g => g.die = s.me.sid / 8192 && g.part = s.me.part && g.ten = s.me.ten
    let ready := fun (g : Graph) (n : Nat) => n < g.stage.length ∧ g.stage.getD n 1 = 0 ∧ g.count.getD n 1 = 0
    ((∀ g ∈ live, ∀ n, ¬ ready g n) → exec i s = .next (s.parkOn .other)) ∧
    ∀ pre g post n, live = pre ++ g :: post → (∀ p ∈ pre, ∀ m, ¬ ready p m) → ready g n → (∀ m, m < n → ¬ ready g m) →
      exec i s = .next (State.after { s with graphs := replaceGraph g { g with stage := g.stage.set n 1 } s.graphs } {}
        fun th => (th.gets rd (BitVec.ofNat 64 (g.addr + 32 + 16 * n))).past s.insnLen)

/-- R183, R185: the oldest request of a context that ends with an error found at acceptance, or because the context was frozen
then, completes with the status 0x8000_0000_0000_0000 + code: its token receives it, the timeline reaches its number, and the
request leaves the queue; codes 3, 6 and 8 freeze the context. R192: a LIN copy whose source and destination are two places of
one run each, free of errors, moves its bytes from the one to the other: the destination holds what the source held, every other
byte stays, and the token receives the number of bytes. R187, R192-R194: RECT, WIN, COW, a WALK and GATH.ROWS, from their start
and with every byte reached, complete with the bytes moved and that number as their status; COW writes its block-table entry
last. -/
def Obligations.EnginesComplete : Prop :=
  (∀ (s : State) (k : Nat) (r : EngReq) (code : Nat), (s.engCtx k).queue = [r] → s.tenRuns r.part r.ten = true →
     (s.engCtx k).stall = none → (∀ c, r.kind = .copy c → r.sent = false) → r.code = code → code ≠ 0 → code < 65536 →
     let i := match r.kind with
       | .copy _ => Instr.copyComplete k
       | .gather _ => .gatherComplete k
       | .coll _ => .collComplete k
     ∃ t, exec i s = .next t ∧ (t.engCtx k).queue = [] ∧ (t.engCtx k).done = r.num ∧
       (t.engCtx k).frozen = ((s.engCtx k).frozen || decide (code ∈ [3, 6, 8])) ∧
       (s.alive r.t = true → r.tok ≠ 0 → (t.thr r.t).getX r.tok = ⟨BitVec.ofNat 64 (2 ^ 63 + code), true, false, false⟩) ∧
       t.hbm = s.hbm ∧ t.pad = s.pad) ∧
  (∀ (s : State) (k : Nat) (r : EngReq), (s.engCtx k).queue = [r] → s.tenRuns r.part r.ten = true → (s.engCtx k).stall = none →
    r.code = 0 → r.at_ = 0 → r.seen = [] → r.view = none → r.got = none → r.bytes = 0 →
    let w := fun i => r.desc.getD i 0
    let addr := fun i => bits (w i) 47 0
    let e := r.eng k
    let start : Xfer := ⟨s.noMiss, [], 0, 0⟩
    let ends := fun (i : Instr) (u : State) (n : Nat) => n < 2 ^ 63 → u.xmiss = none →
      ∃ t, exec i s = .next t ∧ (t.engCtx k).queue = [] ∧ (t.engCtx k).done = r.num ∧
        (s.alive r.t = true → r.tok ≠ 0 → (t.thr r.t).getX r.tok = ⟨BitVec.ofNat 64 n, true, false, false⟩) ∧
        t.hbm = u.hbm ∧ t.pad = u.pad ∧ t.hostMem = u.hostMem
    let width := bits (w 2) 31 0
    (∀ rows x, r.kind = .copy 1 → s.copyOk 1 r = true → bit (w 1) 63 = false → rows = bits (w 2) 63 32 →
      footprintsMeet (addr 0) (bits (w 3) 31 0) (addr 1) (bits (w 3) 63 32) rows width = false →
      x = Xfer.rows e (addr 0) (addr 1) (bits (w 3) 31 0) (bits (w 3) 63 32) width (rowFuel width (rows * width)) 0 (rows * width)
        start → x.code = 0 → ends (.copyComplete k) x.s (rows * width)) ∧
    (∀ u, r.kind = .copy 2 → s.copyOk 2 r = true → footprintsMeet (addr 0) 0 (addr 1) 0 1 width = false →
      Xfer.copyWin e (addr 0) (addr 1) width start = (u, BitVec.ofNat 64 width) → ends (.copyComplete k) u width) ∧
    (∀ x u, r.kind = .copy 3 → s.copyOk 3 r = true → bit (w 1) 63 = false →
      footprintsMeet (addr 0) 0 (addr 1) 0 1 width = false →
      x = Xfer.rows e (addr 0) (addr 1) 0 0 width (rowFuel width width) 0 width start → x.code = 0 →
      x.s.inRegion (s.cowPart r) (addr 3) 4 = true → u = x.s.writeHbm e.ctx (addr 3) (leBytes 4 (bits (w 2) 63 32)) →
      ends (.copyComplete k) u width) ∧
    (∀ x, r.kind = .gather true → bits (w 0) 63 48 = 0 → bits (w 1) 63 48 = 0 → bits (w 2) 63 48 = 0 → bits (w 4) 63 32 = 0 →
      w 5 = 0 → w 6 = 0 → w 7 = 0 → addr 2 % 4 = 0 →
      let rb := bits (w 3) 31 0
      let total := bits (w 4) 31 0 * rb
      x = Xfer.gatherRows e (addr 0) (addr 1) (addr 2) (bits (w 3) 63 32) rb (rowFuel rb total) 0 total start → x.code = 0 →
      ends (.gatherComplete k) x.s total) ∧
    ∀ v n g x, r.kind = .gather false → walkOk w = true →
      s.walkView r.part (bits (w 0) 17 0) (bit (w 0) 18) (bit (w 0) 19) = some v →
      Xfer.walk e v (addr 1) (addr 2) (bits (w 3) 63 32) (bits (w 3) 31 0) (bits (w 4) 31 0) (bits (w 5) 15 0) (bits (w 4) 63 32) 0 none 0
        start = (n, g, x) → x.code = 0 → ends (.gatherComplete k) x.s n) ∧
  ∀ (s : State) (k : Nat) (r : EngReq) (src dst n : Nat) (p : Place), (s.engCtx k).queue = [r] → s.tenRuns r.part r.ten = true →
    (s.engCtx k).stall = none → r.kind = .copy 0 → r.code = 0 → r.at_ = 0 →
    r.desc = [BitVec.ofNat 64 src, BitVec.ofNat 64 dst, BitVec.ofNat 64 (2 ^ 32 + n), 0] →
    0 < n → n < 65536 → src < 2 ^ 48 → dst < 2 ^ 48 → (src + n ≤ dst ∨ dst + n ≤ src) → n ≤ runLength src → n ≤ runLength dst →
    Clean s → (∀ b o, p ≠ .acc b o) → (∀ t r o, p ≠ .xreg t r o) →
    (∀ t r o, p ≠ .vreg t r o) → (∀ bs bad, p ≠ .data bs bad) →
    s.engPlace (r.eng k) .read src = .ok (p, none) → ∀ c o, s.engPlace (r.eng k) .write dst = .ok (.pad c o, none) →
    ∃ t, exec (.copyComplete k) s = .next t ∧
      t.pad = Memory.writeBytes s.pad (c * 262144 + o) (s.readAt p n) ∧ t.hbm = s.hbm ∧ t.hostMem = s.hostMem ∧
      (t.engCtx k).queue = [] ∧ (t.engCtx k).done = r.num ∧
      (s.alive r.t = true → r.tok ≠ 0 → (t.thr r.t).getX r.tok = ⟨BitVec.ofNat 64 n, true, false, false⟩)

/-- R179, R180, R197, R323: an acknowledgement that has arrived reaches the request that waits for it. A flit whose key is not that of its
partition is not delivered; a chunk, a batch, a report or an acknowledgement of a tenancy that runs is kept for its receiver, a remote
write stores its bytes, its last flit is acknowledged, and a flit of any other tenancy is parked, and delivered without a new check of its
key once its tenancy runs. The model's reading (log entry 15): the port tells a sender of a refused key or of a collective's mismatch by
an acknowledgement of code 8 or 9 on channel 7, which ends the operation, and an acknowledgement is held to the key of the partition that
receives it. R196, R197: the chunk that a collective waits for is written where its step receives it, reduced with the own source where
the step reduces, and the collective goes on to the next chunk or step; one that does not match the tag, kind and step ends it with code
9, which the sender is told. With every step done, COLL_COMPLETE ends a collective. -/
def Obligations.RemoteTraffic : Prop :=
  ((∀ (s : State) (op code : Nat), s.acks.find? (fun a => a.1 = op) = some (op, code) →
     ∃ t, exec (.remoteWriteAck op) s = .next t ∧ (∀ a ∈ t.acks, a.1 ≠ op) ∧ t.hbm = s.hbm ∧
       ∀ k c, (k, c) ∈ t.ctxs → ∀ r ∈ c.queue, r.op = op → r.acked = some code ∧ (code = 8 ∨ code = 9 → r.code = code)) ∧
   (∀ (s : State) (f : Flit) (rest : List Flit), s.linkIn = f :: rest → s.unparked = [] → f.key ≠ (s.part f.part).fabkey →
     ∃ t, exec (.lanyardFlitArrival f.port) s = .next t ∧ t.hbm = s.hbm ∧ t.pad = s.pad ∧ t.chunksIn = s.chunksIn ∧
       t.parked = s.parked ∧ t.acks = s.acks ∧ t.batchIn = s.batchIn ∧ t.reportIn = s.reportIn) ∧
   (∀ (s : State) (f : Flit) (rest : List Flit), s.linkIn = f :: rest → s.unparked = [] → f.key = (s.part f.part).fabkey →
     (s.part f.part).cur ≠ f.ten → (s.part f.part).switching = false →
     (s.parked.filter fun q => q.port = f.port).length < 4096 →
     exec (.lanyardFlitArrival f.port) s = .next { s with linkIn := rest, parked := s.parked ++ [f] }) ∧
   (∀ (s : State) (f : Flit) (g it m c : Nat), s.parked = [f] → (s.part f.part).cur = f.ten → f.body = .report g it m c →
     exec (.lanyardFlitArrival f.port) s = .next { s with parked := [], reportIn := s.reportIn ++ [f] }) ∧
   ∀ (s : State) (f : Flit) (rest : List Flit), s.linkIn = f :: rest → s.unparked = [] → f.key = (s.part f.part).fabkey →
     (s.part f.part).cur = f.ten →
     (∀ op tag kind st ch w bs, f.body = .chunk op tag kind st ch w bs → (∀ q ∈ s.chunksIn, q.body.isWhole = true) →
       exec (.lanyardFlitArrival f.port) s = .next { s with linkIn := rest, chunksIn := s.chunksIn ++ [f] }) ∧
     (∀ g it m c, f.body = .report g it m c → exec (.lanyardFlitArrival f.port) s =
       .next { s with linkIn := rest, reportIn := s.reportIn ++ [f] }) ∧
     (∀ op a bs x, f.body = .write op a bs → s.writeFailed f op = false →
       x = Xfer.writeAll ⟨0, f.part, f.ten, 140, none⟩ .write a bs ⟨{ s with linkIn := rest }, s.remoteGroups f op, 0, 0⟩ → x.code = 0 →
       exec (.lanyardFlitArrival f.port) s = .next (x.s.keepGroups f op x.seen)) ∧
     (∀ op, f.body = .last op → s.badWrites = [] → s.remoteSeen = [] →
       exec (.lanyardFlitArrival f.port) s = .next (State.send { s with linkIn := rest, remoteSeen := [] } { f with
         source := s.moduleNum, module := f.source, sender := f.part, part := f.sender, vc := 7, body := .ack op 0 })) ∧
     (∀ op c, f.body = .ack op c → exec (.lanyardFlitArrival f.port) s = .next { s with linkIn := rest, acks := s.acks ++ [(op, c)] }) ∧
     (∀ g it, f.body = .batch g it → exec (.lanyardFlitArrival f.port) s =
       .next { s with linkIn := rest, batchIn := s.batchIn ++ [f] })) ∧
  (∀ (s : State) (k : Nat) (r : EngReq) (kind : Nat) (f : Flit) (op tag kd st ch : Nat) (w : Bool) (bs : List Byte),
    (s.engCtx k).queue = [r] → r.kind = .coll kind → r.code = 0 → r.sent = true → (s.engCtx k).stall = none →
    s.tenRuns r.part r.ten = true → r.step < collSteps kind (collOf r.desc).nr → s.chunkFor k r = some f →
    f.body = .chunk op tag kd st ch w bs → (tag ≠ (collOf r.desc).tag ∨ kd ≠ kind ∨ st ≠ r.step ∨ ch ≠ r.chunk) →
    let g : Flit := { f with source := s.moduleNum, module := f.source, sender := f.part, part := f.sender, vc := 7, body := .ack op 9 }
    ∃ t, exec (.collChunkReceive k) s = .next t ∧ (t.engCtx k).queue = [{ r with code := 9 }] ∧
      (f.source = s.moduleNum → t.linkIn = s.linkIn ++ [g]) ∧ (f.source ≠ s.moduleNum → t.linkOut = s.linkOut ++ [g]) ∧
      t.chunksIn = s.chunksIn.erase f ∧ t.hbm = s.hbm ∧ t.pad = s.pad) ∧
  (∀ (s : State) (k : Nat) (r : EngReq) (kind : Nat) (f : Flit) (op : Nat) (w : Bool) (bs : List Byte) (a l : Nat) (own : Option Nat),
    (s.engCtx k).queue = [r] → r.kind = .coll kind → r.code = 0 → r.sent = true → (s.engCtx k).stall = none →
    s.tenRuns r.part r.ten = true →
    let d := collOf r.desc
    r.step < collSteps kind d.nr → s.chunkFor k r = some f → f.body = .chunk op d.tag kind r.step r.chunk w bs →
    collTakes kind d r.step = (a, l, own) → bs.length = min d.chunk (l - r.chunk * d.chunk) →
    let u : State := { s.noMiss with chunksIn := s.chunksIn.erase f }
    let goes := fun (y : Xfer) (f : EngReq → EngReq) => exec (.collChunkReceive k) s = .next ((y.s.modHead k f).dropAnswers k)
    let put := fun (y : Xfer) => y.code = 0 → y.s.xmiss = none →
      ((r.chunk + 1) * d.chunk < l → goes y fun r => { r with chunk := r.chunk + 1, seen := y.seen }) ∧
      (l ≤ (r.chunk + 1) * d.chunk → collSteps kind d.nr ≤ r.step + 1 →
        goes y fun r => { r with step := r.step + 1, chunk := 0, sent := false, seen := y.seen })
    (own = none → put (Xfer.writeAll (r.eng k) .write (a + r.chunk * d.chunk) bs ⟨u, r.seen, 0, 0⟩)) ∧
    ∀ o mine x, own = some o → Xfer.readAll (r.eng k) (o + r.chunk * d.chunk) bs.length ⟨u, r.seen, 0, 0⟩ = (mine, x) → x.code = 0 →
      put (Xfer.writeAll (r.eng k) .write (a + r.chunk * d.chunk) (reduceBytes d.ty d.rop (bs.length / elSize d.ty) bs mine) x)) ∧
  ∀ (s : State) (k : Nat) (r : EngReq) (kind : Nat),
    (s.engCtx k).queue = [r] → r.kind = .coll kind → (s.engCtx k).stall = none → s.tenRuns r.part r.ten = true →
    (r.code ≠ 0 ∨ collSteps kind (collOf r.desc).nr ≤ r.step) → (s.noMiss.endColl k kind r).xmiss = none →
    ∃ t, exec (.collComplete k) s = .next t ∧ (t.engCtx k).queue = [] ∧ (t.engCtx k).done = r.num

/-- R91, R101, R105: how a vector result is written. A result that needs the shared normaliser leaves vd empty and holds the
thread, and an idle normaliser takes it for 32 cycles, a busy one after the calls issued before; any other is written full at
once. NaN-producing, overflowing and saturating results count in event counters 0, 1 and 3, a call on the normaliser in counter
2. -/
def Obligations.VectorResultsAreWritten : Prop :=
  ∀ (s : State) (vd : Nat) (o : VOut),
    let k := s.me.sid / 16
    let t := s.finishV vd o
    let n := fun (u : State) i => Table.get (u.core k).events i 0
    (o.norm = false → t.me = s.me.getsV vd o.val) ∧
    (o.norm = true → s.alive s.cur = true → (s.core k).normCur = none →
      (t.core k).normCur = some (⟨s.cur, vd, o.val, none, s.cycle, 0⟩, s.cycle + 32) ∧ (t.me.getV vd).full = false ∧
      (t.me.getV vd).pend = true ∧ t.me.norm = true) ∧
    (o.norm = true → (s.core k).normCur ≠ none → (∀ q ∈ (s.core k).normQ, q.at_ ≤ s.cycle) →
      (t.core k).normCur = (s.core k).normCur ∧ (t.core k).normQ = (s.core k).normQ ++ [⟨s.cur, vd, o.val, none, s.cycle, 0⟩] ∧
      (t.me.getV vd).full = false ∧ t.me.norm = true) ∧
    n t 0 = (if o.nanp then min (n s 0 + 1) 0xFFFFFFFF else n s 0) ∧ n t 1 = (if o.ovfl then min (n s 1 + 1) 0xFFFFFFFF else n s 1) ∧
    n t 3 = (if o.csat then min (n s 3 + 1) 0xFFFFFFFF else n s 3) ∧ n t 2 = (if o.norm then min (n s 2 + 1) 0xFFFFFFFF else n s 2) ∧
    t.hbm = s.hbm ∧ t.pad = s.pad ∧ t.me.x = s.me.x ∧ t.me.p = s.me.p ∧ (∀ u, u ≠ s.cur → t.thr u = s.thr u)

/-- R104, R109: an integer vector instruction computes each active element modulo 2^w from the elements of its sources; an inactive
one keeps the old element of vd, or is zero with Z. -/
def Obligations.VectorIntegerResults : Prop :=
  ∀ (s : State) (vd va vb pg : Nat) (t : Ety) (z : Bool),
    let w := t.width
    let x := fun (r j : Nat) => vget (s.rv r) w j
    let gives := fun (i : Instr) (vs : List Nat) (f : Nat → Int) => Ready s { vs := vs, ps := [pg], dv := [vd] } →
      ∃ val : VWord, exec i s = .next (s.after {} fun th => (th.getsV vd val).past s.insnLen) ∧
        ∀ j, j < 2048 / w → (vget val w j : Int) =
          if (s.rp pg).getLsbD (j * (w / 8)) then f j % 2 ^ w else if z then 0 else (x vd j : Int)
    let two := if z then [va, vb] else [va, vb, vd]
    let one := if z then [va] else [va, vd]
    let sv := fun (r j : Nat) => t.intVal (x r j)
    gives (.vadd vd va vb pg t z) two (fun j => x va j + x vb j) ∧
    gives (.vsub vd va vb pg t z) two (fun j => x va j - x vb j) ∧
    gives (.vmul vd va vb pg t z) two (fun j => x va j * x vb j) ∧
    gives (.vmulh vd va vb pg t z) two (fun j => sv va j * sv vb j / 2 ^ w) ∧
    gives (.vmin vd va vb pg t z) two (fun j => min (sv va j) (sv vb j)) ∧
    gives (.vmax vd va vb pg t z) two (fun j => max (sv va j) (sv vb j)) ∧
    gives (.vand vd va vb pg t z) two (fun j => ((x va j &&& x vb j : Nat) : Int)) ∧
    gives (.vor vd va vb pg t z) two (fun j => ((x va j ||| x vb j : Nat) : Int)) ∧
    gives (.vxor vd va vb pg t z) two (fun j => ((x va j ^^^ x vb j : Nat) : Int)) ∧
    gives (.vshl vd va vb pg t z) two (fun j => x va j * 2 ^ (x vb j % w)) ∧
    gives (.vshr vd va vb pg t z) two (fun j => ((x va j / 2 ^ (x vb j % w) : Nat) : Int)) ∧
    gives (.vsra vd va vb pg t z) two (fun j => sgn w (x va j) / 2 ^ (x vb j % w)) ∧
    gives (.vabs vd va pg t z) one (fun j => (sv va j).natAbs) ∧
    gives (.vneg vd va pg t z) one (fun j => - (x va j : Int)) ∧
    gives (.vmac vd va vb pg t z) [va, vb, vd] (fun j => x vd j + x va j * x vb j)

/-- R110: a floating-point vector instruction computes each active element with the operation of its format, and finishes as R91
and R105 say; an inactive one keeps the old element of vd, or is zero with Z. R93, R111: VCVT converts each active element on
the grid of the wider type; destination elements beyond the grid are 0. With a conversion trap on an active element it traps
with class 10 and leaves vd unwritten. -/
def Obligations.VectorFloatResults : Prop :=
  (∀ (s : State) (vd va vb pg : Nat) (t : Ety) (f : Fmt) (z : Bool), fmtOf t = some f →
     let w := f.w
     let x := fun (r j : Nat) => vget (s.rv r) w j
     let on := fun j => (s.rp pg).getLsbD (j * (w / 8))
     let gives := fun (i : Instr) (vs : List Nat) (g : Nat → FRes) => Ready s { vs := vs, ps := [pg], dv := [vd] } →
       ∃ o : VOut, exec i s = .next ((((s.take {}).finishV vd o).advance).issued) ∧
         (∀ j, j < 2048 / w → vget o.val w j = if on j then (g j).bits % 2 ^ w else if z then 0 else x vd j) ∧
         (o.nanp = true ↔ ∃ j, j < 2048 / w ∧ on j = true ∧ (g j).nanp = true) ∧
         (o.ovfl = true ↔ ∃ j, j < 2048 / w ∧ on j = true ∧ (g j).ovfl = true) ∧
         (o.norm = true ↔ ∃ j, j < 2048 / w ∧ on j = true ∧ (g j).norm = true)
     let two := if z then [va, vb] else [va, vb, vd]
     let one := if z then [va] else [va, vd]
     gives (.vfadd vd va vb pg t z) two (fun j => f.add (x va j) (x vb j)) ∧
     gives (.vfsub vd va vb pg t z) two (fun j => f.sub (x va j) (x vb j)) ∧
     gives (.vfmul vd va vb pg t z) two (fun j => f.mul (x va j) (x vb j)) ∧
     gives (.vfma vd va vb pg t z) [va, vb, vd] (fun j => f.fma (x va j) (x vb j) (x vd j)) ∧
     gives (.vfmin vd va vb pg t z) two (fun j => f.minmax false (x va j) (x vb j)) ∧
     gives (.vfmax vd va vb pg t z) two (fun j => f.minmax true (x va j) (x vb j)) ∧
     gives (.vfabs vd va pg t z) one (fun j => f.abs (x va j)) ∧ gives (.vfneg vd va pg t z) one (fun j => f.neg (x va j))) ∧
  ∀ (s : State) (vd va pg : Nat) (dst src : Ety) (r : Rnd) (o : Ovf) (z : Bool),
    Ready s { vs := if z then [va] else [va, vd], ps := [pg], dv := [vd] } →
    let w := max src.width dst.width
    let on := fun j => (s.rp pg).getLsbD (j * (w / 8))
    let c := fun j => convertEl dst src r o (vget (s.rv va) src.width j)
    ((∀ j, j < 2048 / w → on j = true → (c j).trap = false) →
      ∃ out : VOut, exec (.vcvt vd va pg dst src r o z) s = .next ((((s.take {}).finishV vd out).advance).issued) ∧
        ∀ j, j < 2048 / dst.width → vget out.val dst.width j =
          if 2048 / w ≤ j then 0 else if on j then (c j).res.bits % 2 ^ dst.width else if z then 0 else vget (s.rv vd) dst.width j) ∧
    ((∃ j, j < 2048 / w ∧ on j = true ∧ (c j).trap = true) →
      exec (.vcvt vd va pg dst src r o z) s = .next (s.takeTrap 10 0 0))

/-- R112-R114: a vector load or store issues when every active element has a target; the addresses are those of its form. One to the
thread's own core's scratchpad that an earlier access of the thread holds back waits (the model's reading of R162's order, log entry 46).
VSPLAT writes the low bits of its scalar to every active element. -/
def Obligations.VectorMemoryIssues : Prop :=
  ∀ (s : State) (vd va : Nat) (xs : Src) (pg : Nat) (sz : ESize) (z : Bool),
    let w := ESize.bits sz
    let lanes := (List.range (2048 / w)).filter fun j => (s.rp pg).getLsbD (j * (w / 8))
    let unit := lanes.map fun j => (j, s.rx xs + BitVec.ofNat 64 (j * (w / 8)))
    let indexed := lanes.map fun j => (j, s.rx xs + BitVec.ofInt 64 (sgn w (vget (s.rv va) w j) * (w / 8)))
    let loads := fun (i : Instr) (vs : List Nat) (eas : List (Nat × Word)) =>
      let n : Needs := { src := [xs], vs := vs, ps := [pg], dv := [vd] }
      Ready s n → ∀ els ks, (s.take n).elTargets .read false (w / 8) eas = .ok els ks →
        let m := MemOp.vload vd w (if z then 0 else s.rv vd) (els.map fun e => (e.1, e.2.1))
        ((s.take n).mustWait m ks = false →
          exec i s = .next ((((((s.take n).deferV vd).submit s.cur m ks).countEls s.me.ctx els).advance).issued)) ∧
        ((s.take n).mustWait m ks = true → exec i s = .next (s.parkOn .other))
    let stores := fun (i : Instr) (vs : List Nat) (eas : List (Nat × Word)) =>
      let n : Needs := { src := [xs], vs := vs, ps := [pg] }
      Ready s n → ∀ els ks, (s.take n).elTargets .write true (w / 8) eas = .ok els ks →
        let m := MemOp.vstore w (els.map fun e => (e.2.1, vget (s.rv vd) w e.1))
        ((s.take n).mustWait m ks = false →
          exec i s = .next (((((s.take n).submit s.cur m ks).countEls s.me.ctx els).advance).issued)) ∧
        ((s.take n).mustWait m ks = true → exec i s = .next (s.parkOn .other))
    loads (.vld vd xs pg sz z) (if z then [] else [vd]) unit ∧ stores (.vst vd xs pg sz) [vd] unit ∧
    loads (.vgath vd va xs pg sz z) (if z then [va] else [va, vd]) indexed ∧ stores (.vscat vd va xs pg sz) [vd, va] indexed ∧
    (Ready s { src := [xs], vs := if z then [] else [vd], ps := [pg], dv := [vd] } →
      ∃ val : VWord, exec (.vsplat vd xs pg sz z) s = .next (s.after { src := [xs] } fun th => (th.getsV vd val).past s.insnLen) ∧
        ∀ j, j < 2048 / w → vget val w j =
          if (s.rp pg).getLsbD (j * (w / 8)) then (s.rx xs).toNat % 2 ^ w else if z then 0 else vget (s.rv vd) w j)

/-- R108, R116-R118: predicate results. VBOUND and VCMP set all bits of an element's lane together; PCOUNT counts the active
elements and PFIRST answers the lowest, or the number of elements when none is active. -/
def Obligations.PredicateResults : Prop :=
  ∀ (s : State) (pd pa pb va vb pg rd : Nat) (a b : Src) (t : Ety) (cc : Cmp),
    let w := t.width
    let x := fun (r j : Nat) => vget (s.rv r) w j
    let sets := fun (i : Instr) (n : Needs) (c : Nat → Bool) => Ready s n →
      ∃ val : PWord, exec i s = .next (s.after n fun th => (th.setP pd val).past s.insnLen) ∧
        ∀ k, k < 256 → val.getLsbD k = c (k / (w / 8))
    let logic := fun (i : Instr) (ps : List Nat) (v : PWord) => Ready s { ps := ps } →
      exec i s = .next (s.after {} fun th => (th.setP pd v).past s.insnLen)
    sets (.vbound pd a b t) { src := [a, b] } (fun j => decide ((s.rx a).toInt + j < (s.rx b).toInt)) ∧
    sets (.vcmp pd va vb pg t cc) { vs := [va, vb], ps := [pg] } (fun j =>
      (s.rp pg).getLsbD (j * (w / 8)) && (match fmtOf t with
        | some f => f.cmp cc (x va j) (x vb j)
        | none => intCmp cc (t.intVal (x va j)) (t.intVal (x vb j)))) ∧
    logic (.pand pd pa pb) [pa, pb] (s.rp pa &&& s.rp pb) ∧ logic (.por pd pa pb) [pa, pb] (s.rp pa ||| s.rp pb) ∧
    logic (.pxor pd pa pb) [pa, pb] (s.rp pa ^^^ s.rp pb) ∧ logic (.pnot pd pa) [pa] (~~~ s.rp pa) ∧
    (Ready s { ps := [pa], dx := [rd] } → exec (.pcount pa rd t) s = .next (s.after {} fun th => (th.gets rd (BitVec.ofNat 64
      ((List.range (2048 / w)).filter fun j => (s.rp pa).getLsbD (j * (w / 8))).length)).past s.insnLen)) ∧
    (Ready s { ps := [pa], dx := [rd] } → ∃ k, exec (.pfirst pa rd t) s = .next (s.after {} fun th =>
        (th.gets rd (BitVec.ofNat 64 k)).past s.insnLen) ∧ k ≤ 2048 / w ∧
      (∀ j, j < k → (s.rp pa).getLsbD (j * (w / 8)) = false) ∧ (k < 2048 / w → (s.rp pa).getLsbD (k * (w / 8)) = true))

/-- R107, R119-R121: permutes. Slides move elements by the scalar and bring in zeros, VPERM takes the element that its index names
and zero beyond the last, VCOMPRESS gathers the active elements at the low end, VSEL chooses by the predicate, VEXT and VINS
read and write one element; VWIDTH answers 2,048. R122: a reduction leaves its result in element 0 of vd and zeros in the
others. VREDADD of an integer type is the sum of the active elements and element 0 of vb, modulo 2^w; VREDMAX and VREDMIN are
the greatest and the least of them. -/
def Obligations.VectorPermutes : Prop :=
  (∀ (s : State) (vd va vb pg rd : Nat) (a b : Src) (t : Ety) (sz : ESize) (z : Bool),
     let gives := fun (i : Instr) (n : Needs) (w : Nat) (f : Nat → Nat) => Ready s n →
       ∃ val : VWord, exec i s = .next (s.after n fun th => (th.getsV vd val).past s.insnLen) ∧
         ∀ j, j < 2048 / w → vget val w j = f j
     let q := ESize.bits sz
     let w := t.width
     let merge := fun (w j new : Nat) =>
       if (s.rp pg).getLsbD (j * (w / 8)) then new else if z then 0 else vget (s.rv vd) w j
     let old := fun (l : List Nat) => if z then l else l ++ [vd]
     let actives := (List.range (2048 / w)).filter fun j => (s.rp pg).getLsbD (j * (w / 8))
     gives (.vslideup vd va a pg sz z) { src := [a], vs := old [va], ps := [pg], dv := [vd] } q (fun j => merge q j
       (if (s.rx a).toNat ≤ j then vget (s.rv va) q (j - (s.rx a).toNat) else 0)) ∧
     gives (.vslidedn vd va a pg sz z) { src := [a], vs := old [va], ps := [pg], dv := [vd] } q (fun j => merge q j
       (if j + (s.rx a).toNat < 2048 / q then vget (s.rv va) q (j + (s.rx a).toNat) else 0)) ∧
     gives (.vperm vd va vb pg t z) { vs := old [va, vb], ps := [pg], dv := [vd] } w (fun j => merge w j
       (if vget (s.rv vb) w j < 2048 / w then vget (s.rv va) w (vget (s.rv vb) w j) else 0)) ∧
     gives (.vcompress vd va pg t z) { vs := old [va], ps := [pg], dv := [vd] } w (fun j => match actives[j]? with
       | some i => vget (s.rv va) w i
       | none => if z then 0 else vget (s.rv vd) w j) ∧
     gives (.vsel vd va vb pg t) { vs := [va, vb], ps := [pg], dv := [vd] } w (fun j =>
       if (s.rp pg).getLsbD (j * (w / 8)) then vget (s.rv va) w j else vget (s.rv vb) w j) ∧
     gives (.vins vd a b sz) { src := [a, b], vs := [vd], dv := [vd] } q (fun j =>
       if j = (s.rx b).toNat then (s.rx a).toNat % 2 ^ q else vget (s.rv vd) q j) ∧
     (Ready s { src := [b], vs := [va], dx := [rd] } → exec (.vext va rd b sz) s = .next (s.after { src := [b] } fun th =>
       (th.gets rd (if (s.rx b).toNat < 2048 / q then BitVec.ofNat 64 (vget (s.rv va) q (s.rx b).toNat) else 0)).past s.insnLen)) ∧
     (Ready s { dx := [rd] } → exec (.vwidth rd) s = .next (s.after {} fun th => (th.gets rd 2048).past s.insnLen))) ∧
  ∀ (s : State) (vd va vb pg : Nat) (t : Ety), Ready s { vs := [va, vb], ps := [pg], dv := [vd] } →
    let w := t.width
    let actives := (List.range (2048 / w)).filter fun j => (s.rp pg).getLsbD (j * (w / 8))
    let els := actives.map fun j => t.intVal (vget (s.rv va) w j)
    let last := t.intVal (vget (s.rv vb) w 0)
    let reduces := fun (i : Instr) (w : Nat) (c : Nat → Prop) =>
      ∃ o : VOut, exec i s = .next ((((s.take {}).finishV vd o).advance).issued) ∧
        (∀ j, 0 < j → j < 2048 / w → vget o.val w j = 0) ∧ c (vget o.val w 0)
    reduces (.vredadd vd va vb pg t) w (fun r => fmtOf t = none → (r : Int) = (els.sum + last) % 2 ^ w) ∧
    reduces (.vredmax vd va vb pg t) w (fun r => fmtOf t = none → t.intVal r = els.foldl max last) ∧
    reduces (.vredmin vd va vb pg t) w (fun r => fmtOf t = none → t.intVal r = els.foldl min last) ∧
    (∀ f, fmtOf t = some f → reduces (.vfredadd vd va vb pg t) f.w (fun r => actives = [] → r = vget (s.rv vb) f.w 0))

/-- R123-R127: an SFU form issues while its core's queue holds fewer than 32 requests: vd becomes empty, and the queue receives the
request, with the function of each active element (an inactive one keeps the old element of vd, or is zero with Z). SFU_ACCEPT
takes the oldest eligible request, at most once in 4 cycles: its thread is not frozen (from the cycle after its trap on, R290) nor
switched out, nor resumed by an ERET of this cycle, it was queued in an earlier cycle, and the thread's result port has room; 12
cycles later SFU_DELIVER writes vd, unless an earlier result of the
thread has still to land (R124). R91: when the service of the
normaliser ends, its vector register is written full, and the next service starts, to end 32 cycles later. R105: when the sort
unit ends, its register is written full and the unit is free. -/
def Obligations.SpecialFunctions : Prop :=
  ((∀ (s : State) (vd va pg : Nat) (t : Ety) (f : Fmt) (z : Bool) (i : Instr) (fn : SfuFn), fmtOf t = some f →
     (i, fn) ∈ [(Instr.vrcp vd va pg t z, SfuFn.rcp), (.vrsq vd va pg t z, .rsq), (.vexp2 vd va pg t z, .exp2),
       (.vlog2 vd va pg t z, .lg2), (.vtanh vd va pg t z, .tanh)] →
     Ready s { vs := if z then [va] else [va, vd], ps := [pg], dv := [vd] } →
     let k := s.me.sid / 16
     let on := fun j => (s.rp pg).getLsbD (j * (f.w / 8))
     (32 ≤ (s.core k).sfuQ.length → exec i s = .next (s.parkOn .other)) ∧
     ((s.core k).sfuQ.length < 32 → ∃ r : SfuReq,
       exec i s = .next ((s.after {} fun th => { (th.deferV vd).past s.insnLen with sfuSeq := th.sfuSeq + 1 }).modCore k
         fun c => { c with sfuQ := c.sfuQ ++ [r] }) ∧
       r.t = s.cur ∧ r.vd = vd ∧ r.seq = s.me.sfuSeq ∧ r.queued = s.cycle ∧
       ∀ j, j < 2048 / f.w → vget r.val f.w j = if on j then (sfuEl f fn (vget (s.rv va) f.w j)).bits % 2 ^ f.w
         else if z then 0 else vget (s.rv vd) f.w j)) ∧
   (∀ (s : State) (core : Nat),
     let c := s.core core
     let eligible := fun (q : SfuReq) => ((s.thr q.t).frozen = none ∨ (s.thr q.t).frozeAt = s.cycle) ∧ (s.thr q.t).saved = false ∧
       (s.thr q.t).thaw ≤ s.cycle ∧ q.queued < s.cycle ∧ (s.thr q.t).sfuWords.length + c.sfuOpen q.t < 16
     (∀ pre r post, (∀ l, c.sfuLast = some l → l + 4 ≤ s.cycle) → c.sfuQ = pre ++ r :: post → (∀ q ∈ pre, ¬ eligible q) →
       eligible r → exec (.sfuAccept core) s = .next (s.modCore core fun c => { c with
         sfuQ := pre ++ post, sfuRun := c.sfuRun ++ [(r, s.cycle + 12)], sfuLast := some s.cycle })) ∧
     ((∀ q ∈ c.sfuQ, ¬ eligible q) → exec (.sfuAccept core) s = .next s) ∧
     ∀ l, c.sfuLast = some l → s.cycle < l + 4 → exec (.sfuAccept core) s = .next s) ∧
   ∀ (s : State) (core due : Nat) (r : SfuReq) (rest : List (SfuReq × Nat)), (s.core core).sfuRun = (r, due) :: rest →
     due ≤ s.cycle → r.served = false → s.alive r.t = true →
     ∃ u, exec (.sfuDeliver core) s = .next u ∧ (u.core core).sfuRun = rest ∧ u.hbm = s.hbm ∧ u.pad = s.pad ∧
       ((s.core core).sfuBehind r = true → (u.core core).sfuWait = (s.core core).sfuWait ++ [r] ∧ u.thr r.t = s.thr r.t) ∧
       ((s.core core).sfuBehind r = false → (u.thr r.t).getV r.vd = ⟨r.val, true, false, false⟩ ∧ (u.thr r.t).latch = true ∧
       (u.thr r.t).sfuWords = (if (s.thr r.t).sfuBound then (s.thr r.t).sfuWords ++
         [BitVec.ofNat 64 (r.seq % 65536 * 2 ^ 16 + r.vd * 2 ^ 12 + r.events)] else (s.thr r.t).sfuWords))) ∧
  (∀ (s : State) (core due : Nat) (j : NormJob), (s.core core).normCur = some (j, due) → due ≤ s.cycle → j.sfu = none →
    s.alive j.t = true → (s.core core).sfuWait = [] →
    ∃ u, exec (.normaliserServiceEnd core) s = .next u ∧ (u.thr j.t).getV j.vd = ⟨j.val, true, false, false⟩ ∧
      ((s.core core).normQ = [] → (u.core core).normCur = none ∧ (u.thr j.t).norm = false) ∧
      (∀ k rest, (s.core core).normQ = k :: rest → (u.core core).normCur = some (k, due + 32) ∧ (u.core core).normQ = rest) ∧
      u.hbm = s.hbm ∧ u.pad = s.pad) ∧
  ∀ (s : State) (core : Nat) (j : SortJob), (s.core core).sort = some j → j.due ≤ s.cycle → s.alive j.t = true →
    exec (.sortUnitComplete core) s = .next ((s.modCore core fun c => { c with sort := none }).setThr j.t
      { (s.thr j.t).getsV j.vd j.val with latch := true })

/-- R128-R132: VTOPK leaves the active elements in rank order and fillers behind them, after 24 cycles of the sort unit; VHIST adds
to each bin the number of active elements that name it, saturating, after 16; VMAXX takes the element that ranks first of va's
and of vb's from the other end; VQUANT makes the quantised bytes of its first 48 elements. A busy unit holds VTOPK and VHIST
back. -/
def Obligations.SortAndQuantise : Prop :=
  ∀ (s : State) (vd va vb pg : Nat) (t : Ety),
    let k := s.me.sid / 16
    let starts := fun (i : Instr) (lat : Nat) (val : VWord) =>
      exec i s = .next ((s.after {} fun th => (th.deferV vd).past s.insnLen).modCore k
        fun c => { c with sort := some ⟨s.cycle + lat, s.cur, vd, val⟩ })
    let w := keyedWidth t
    let lanes := fun w => (List.range (2048 / w)).filter fun j => (s.rp pg).getLsbD (j * (w / 8))
    (Ready s { vs := [va], ps := [pg], dv := [vd] } →
      ((s.core k).sort = none → ∃ (val : VWord) (xs : List Nat), starts (.vtopk vd va pg t) 24 val ∧
        xs.Perm ((lanes w).map (vget (s.rv va) w)) ∧ xs.Pairwise (fun a b => ranksBefore t b a = false) ∧
        ∀ j, j < 2048 / w → vget val w j = xs.getD j (filler t)) ∧
      ((s.core k).sort ≠ none → exec (.vtopk vd va pg t) s = .next (s.parkOn .other))) ∧
    (Ready s { vs := [va, vd], ps := [pg], dv := [vd] } →
      ((s.core k).sort = none → ∃ val : VWord, starts (.vhist vd va pg t) 16 val ∧
        ∀ j, j < 2048 / t.width → vget val t.width j = min (vget (s.rv vd) t.width j +
          ((lanes t.width).filter fun i => vget (s.rv va) t.width i = j).length) (2 ^ t.width - 1)) ∧
      ((s.core k).sort ≠ none → exec (.vhist vd va pg t) s = .next (s.parkOn .other))) ∧
    (Ready s { vs := [va, vb], dv := [vd] } →
      ∃ val : VWord, exec (.vmaxx vd va vb t) s = .next (s.after {} fun th => (th.getsV vd val).past s.insnLen) ∧
        ∀ j, j < 2048 / w → vget val w j =
          if ranksBefore t (vget (s.rv vb) w (2048 / w - 1 - j)) (vget (s.rv va) w j)
          then vget (s.rv vb) w (2048 / w - 1 - j) else vget (s.rv va) w j) ∧
    (Ready s { vs := [va, vb], ps := [pg], dv := [vd] } →
      ∃ o : VOut, exec (.vquant vd va vb pg t) s = .next ((((s.take {}).finishV vd o).advance).issued) ∧ o.norm = false ∧
        let q := fun j => if (s.rp pg).getLsbD (j * 4) then (quantEl (vget (s.rv va) 32 j) (vget (s.rv vb) 8 0)).1 % 256 else 0
        (∀ j, j < 48 → t ≠ .bpn → (vget o.val 8 j : Int) = q j) ∧
        (∀ j b, j < 48 → b < 8 → t = .bpn → o.val.getLsbD (48 * b + j) = decide (q j / 2 ^ (7 - b) % 2 = 1)) ∧
        ∀ b, 384 ≤ b → o.val.getLsbD b = false)

/-- R137: MLEASE of a thread that holds a lease answers its number at once, and one whose saved lease has still to be restored
waits for that (R139); any other joins the array's queue with its token register empty. R139: MREL gives up the lease and ends
the thread's run. A lease that the thread does not hold is the matrix trap, cause 1. MWAIT issues once no command of the lease
remains. R136-R139: LEASE_GRANT gives the lowest free bank to the oldest request, its elements +0 and its fault flag clear, and
the token its number; ARRAY_RUN_START starts the run of the next waiting lease above the one that ran last; ARRAY_RUN_LIMIT ends
a run that has reached a limit while another lease waits. -/
def Obligations.ArrayLeases : Prop :=
  (∀ (s : State) (tok l : Nat),
     let a := s.arr (s.me.sid / 128)
     (Ready s { dx := [tok] } → s.performed s.cur = true → ∀ h, a.leaseOf s.cur = some h →
       ∃ t, exec (.mlease tok) s = .next t ∧ (tok ≠ 0 → t.me.getX tok = ⟨BitVec.ofNat 64 h, true, false, false⟩) ∧
         t.me.pc = s.me.pc + BitVec.ofNat 64 s.insnLen ∧ t.arrays = s.arrays ∧ t.acc = s.acc ∧
         (∀ q, q ≠ tok → t.me.getX q = s.me.getX q) ∧ t.hbm = s.hbm ∧ t.pad = s.pad) ∧
     (Ready s { dx := [tok] } → s.performed s.cur = true → a.leaseOf s.cur = none → ∀ r ∈ a.restore, r.2 = s.cur →
       ∃ r' ∈ a.restore, r'.2 = s.cur ∧ exec (.mlease tok) s = .next (s.parkOn (.run r'.1))) ∧
     (Ready s { dx := [tok] } → s.performed s.cur = true → a.leaseOf s.cur = none → (∀ r ∈ a.restore, r.2 ≠ s.cur) →
       exec (.mlease tok) s = .next (((s.after {} fun th => (th.deferX tok).past s.insnLen)).modArr (s.me.sid / 128)
         fun a => { a with waiting := a.waiting ++ [(s.cur, tok)] })) ∧
     (Ready s {} → a.leaseOf s.cur ≠ some l → (l, s.cur) ∉ a.restore → ∀ i ∈ [Instr.mrel l, .mwait l, .mzero l],
       exec i s = .next (s.takeTrap 11 1 0)) ∧
     (Ready s {} → a.leaseOf s.cur = some l → (l, s.cur) ∉ a.restore →
       (∃ t, exec (.mrel l) s = .next t ∧ (t.arr (s.me.sid / 128)).holder = Table.erase a.holder l ∧
         (t.arr (s.me.sid / 128)).running = (if a.running.bind (Table.find? a.holder) = some s.cur then none else a.running) ∧
         (t.arr (s.me.sid / 128)).queue = a.queue ∧ t.acc = s.acc ∧ t.me = { s.me.past s.insnLen with wait := none, answers := [] } ∧
         t.hbm = s.hbm ∧ t.pad = s.pad) ∧
       ((∀ c ∈ a.queue, c.lease ≠ l) → exec (.mwait l) s = .next (s.after {} fun th => th.past s.insnLen)) ∧
       ((∃ c ∈ a.queue, c.lease = l) → exec (.mwait l) s = .next (s.parkOn .other)))) ∧
  (∀ (s : State) (g b t tok : Nat) (rest : List (Nat × Nat)), (s.arr g).restore = [] → (s.arr g).waiting = (t, tok) :: rest →
    (∀ w ∈ rest, w.1 ≠ t) → b < 4 → (s.arr g).free b = true → (∀ c, c < b → (s.arr g).free c = false) →
    ∃ u, exec (.leaseGrant g b) s = .next u ∧ Table.find? (u.arr g).holder b = some t ∧ (u.arr g).waiting = rest ∧
      Table.find? (u.arr g).fault b = none ∧ (∀ i, i < 131072 → Table.get u.acc ((g * 4 + b) * 131072 + i) 0 = 0) ∧
      (∀ k, k / 131072 ≠ g * 4 + b → Table.find? u.acc k = Table.find? s.acc k) ∧
      (s.alive t = true → tok ≠ 0 → (u.thr t).getX tok = ⟨BitVec.ofNat 64 b, true, false, false⟩) ∧
      u.hbm = s.hbm ∧ u.pad = s.pad) ∧
  (∀ (s : State) (g l i : Nat), (s.arr g).running = none → i < 4 → l = ((s.arr g).last + 1 + i) % 4 → s.waitsRun g l = true →
    (∀ j, j < i → s.waitsRun g (((s.arr g).last + 1 + j) % 4) = false) →
    exec (.arrayRunStart g) s = .next (s.modArr g fun a => { a with
      running := some l, last := l, runCmds := 0, runFrom := s.cycle, runIdle := s.cycle })) ∧
  ∀ (s : State) (g l k : Nat), (s.arr g).running = some l → k < 4 → k ≠ l → s.waitsRun g k = true →
    (64 ≤ (s.arr g).runCmds ∨ (s.arr g).runFrom + 65536 ≤ s.cycle ∨ (s.arr g).runIdle + 256 ≤ s.cycle) →
    exec (.arrayRunLimit g) s = .next (s.modArr g fun a => { a with running := none })

/-- R138, R140, R152-R157: an array command of the running lease, with room in the queue, is accepted when no condition of R157
holds: it gets the next number of its lease's timeline, LASTTL receives it, and the array's queue the command; MDRAIN empties
its token register. Otherwise the instruction takes the matrix trap, whose detail is the lowest cause that holds: PACK 2, BOUNDS 3,
TIDREC 4, SHAPE 6, SPACE 7, PLANES 8, HANDLE 9, STALE 10, MISSING 11. -/
def Obligations.ArrayCommandsAreAccepted : Prop :=
  ∀ (s : State) (l tok : Nat) (a b : Src),
    let g := s.me.sid / 128
    let k := s.me.ctxKeyOf (8 + l)
    let num := (s.engCtx k).acc + 1
    let rec_ := fun w : Word => s.tidRec s.me.part s.me.ten (bits w 11 0)
    let d := fun w : Word => tensorOf (rec_ w)
    let m := fun (w : Word) => if bits w 20 12 = 0 then min 256 ((d w).dim1 - bits w 36 21) else bits w 20 12
    let inPads := fun (x : Tensor) (rows : List Nat) => s.operandInPads s.me.part s.me.ten s.me.sid g x rows
    let accepts := fun (i : Instr) (n : Needs) (defer : Bool) (op : ArrayOp) (stall : Nat) =>
      ∃ t, exec i s = .next t ∧ (t.engCtx k).acc = num ∧ t.me.lastTl = BitVec.ofNat 64 num ∧
        t.me.pc = s.me.pc + BitVec.ofNat 64 s.insnLen ∧
        (t.arr g).queue = (s.arr g).queue ++ [⟨op, l, s.cur, s.me.sid, s.me.part, s.me.ten, num, s.cycle, 0, false, false, stall,
          false⟩] ∧ (defer = true → tok ≠ 0 → (t.me.getX tok).full = false ∧ (t.me.getX tok).pend = true) ∧
        (∀ r, (defer = true → r ≠ tok) → t.me.getX r = (n.marks s.me).getX r) ∧ t.acc = s.acc ∧ t.hbm = s.hbm ∧ t.pad = s.pad
    let traps := fun (i : Instr) (cause : Nat → Prop) => ∀ c, cause c → (∀ c', c' < c → ¬ cause c') →
      exec i s = .next (s.takeTrap 11 c 0)
    (s.arr g).running = some l → (s.arr g).leaseOf s.cur = some l → (s.arr g).queue.length < 8 → s.performed s.cur = true →
    (Ready s {} → accepts (.mzero l) {} false .mzero 0) ∧
    (Ready s { src := [b], dx := [tok] } →
      let w := s.rx b
      let cause : Nat → Prop := fun c => match c with
        | 2 => bits w 63 37 ≠ 0
        | 3 => 256 < bits w 20 12 ∨ (d w).dim1 < bits w 36 21 + m w
        | 4 => (d w).ok = false ∨ 3 ≤ (d w).fmt
        | 6 => (d w).dim0 = 0 ∨ 512 < (d w).dim0
        | _ => False
      ((∀ c, ¬ cause c) → accepts (.mdrain l tok b) { src := [b], dx := [tok] } true (.mdrain tok (bits w 36 21) (m w) (rec_ w)) 0) ∧
      traps (.mdrain l tok b) cause) ∧
    (Ready s { src := [a, b] } → ∀ st : Bool,
      let i : Instr := if st then .mmulS l a b else .mmul l a b
      let w := s.rx a
      let v := s.rx b
      let p := bits v 19 16
      let res := (s.residency s.me.part (bits v 15 0)).filter fun r => r.handle / 512 = g
      let source := if st then rec_ v else (res.map fun r => (r.fill.map (·.src)).getD r.src).getD []
      let known := st = true ∨ source ≠ []
      let bd := tensorOf source
      let nx := if st then 128 else if 5 ≤ p then 128 else if 3 ≤ p then 256 else 512
      let nt := bits v 31 20
      let kch0 := bits v 43 32
      let kcn := if bits v 55 44 = 0 then (bd.dim0 + 191) / 192 - kch0 else bits v 55 44
      let cols := (List.range (min 128 (bd.dim1 - nt * 128))).map (nt * 128 + ·)
      let aOk := (d w).ok = true ∧ (d w).fmt = 5
      let bOk := if st then bd.ok = true ∧ bd.fmt = 5 else source ≠ []
      let cause : Nat → Prop := fun c => match c with
        | 2 => bits w 63 37 ≠ 0 ∨ bits v 63 56 ≠ 0 ∨ (st = true ∧ (p ≠ 0 ∨ bits v 15 12 ≠ 0))
        | 3 => 256 < bits w 20 12 ∨ (d w).dim1 < bits w 36 21 + m w ∨
            (known ∧ (bd.dim0 ≤ kch0 * 192 ∨ (bd.dim0 + 191) / 192 < kch0 + kcn ∨ bd.dim1 ≤ nt * nx))
        | 4 => ¬ aOk ∨ (st = true ∧ ¬ bOk)
        | 6 => aOk ∧ bOk ∧ (d w).dim0 ≠ bd.dim0
        | 7 => inPads (d w) ((List.range (m w)).map (bits w 36 21 + ·)) = false ∨ (st = true ∧ inPads bd cols = false)
        | 8 => st = false ∧ (p < 2 ∨ 8 < p ∨ (bOk ∧ bd.planes < p))
        | 9 => st = false ∧ res = none
        | 10 => st = false ∧ ∃ r, res = some r ∧ r.stale = true
        | 11 => st = false ∧ ∃ r, res = some r ∧ (r.st = 0 ∨ (r.st = 3 ∧ r.auto = false))
        | _ => False
      ((∀ c, ¬ cause c) → accepts i { src := [a, b] } false (.mmul st (bits v 15 0) p bd.dim0 bd.dim1 nx nt kch0 kcn
        (bits w 36 21) (m w) (rec_ w) source) (if st then 0 else (res.map fun r => if r.st = 1 then 1 else if r.st = 3 then 2 else 0).getD 0)) ∧
      traps i cause)

/-- R97, R135, R136, R140, R154-R156: how an array works. A pass starts as soon as R135 allows it and not before, occupies the array for
M + 12 cycles, four times that when B is streamed, and adds to each accumulator element of its rows and columns the blocks of its
K-chunk, in ascending order, each the exact sum of 48 products scaled and rounded to F32 (the canonical NaN under a scale of 255). A
command completes at its head, its timeline reaching its number: MZERO with its bank +0 and the flag clear, MMUL with its events
counted or, abandoned, with cause 2, MDRAIN with its elements converted and written up to the first whose address fails, and its
token the bytes written or code 3, 1 or 2. -/
def Obligations.ArrayWorks : Prop :=
  (∀ (s : State) (g : Nat) (c : ArrayCmd) (rest : List ArrayCmd) (st : Bool) (h p k n nx nt kch0 kcn row0 m : Nat) (ra rb : List Word),
    (s.arr g).queue = c :: rest → c.op = .mmul st h p k n nx nt kch0 kcn row0 m ra rb →
    let bank := g * 4 + c.lease
    let starts := (s.arr g).finishing = false ∧ c.stall = 0 ∧ c.abandoned = false ∧ m ≠ 0 ∧ c.passes < kcn ∧
      (s.arr g).busyTo < s.cycle ∧ c.acc + 9 ≤ s.cycle ∧ ∀ q, (s.arr g).passAt = some q → q + 20 ≤ s.cycle
    (¬ starts → exec (.arrayPassStart g) s = .next s) ∧
    (starts → ∃ t n1 o1, exec (.arrayPassStart g) s = .next t ∧
      (t.arr g).queue = { c with passes := c.passes + 1, nanp := n1, ovfl := o1 } :: rest ∧
      (t.arr g).busyTo = s.cycle + (if st then 4 * (m + 12) else m + 12) - 1 ∧ (t.arr g).passAt = some s.cycle ∧
      (t.arr g).finishing = decide (kcn ≤ c.passes + 1) ∧ t.threads = s.threads ∧ t.hbm = s.hbm ∧ t.pad = s.pad ∧
      let j0 := 4 * (kch0 + c.passes)
      let nb := min 4 (k / 48 - j0)
      let width := min nx (n - nt * nx)
      let strip := fun (x : Tensor) (r : Nat) (ws sc : List Nat) => ∃ w1 o1 w2 o2,
        s.windowPlace c.part c.ten c.sid .sync (x.row r + 48 * j0) = some (.pad w1 o1) ∧ (x.row r + 48 * j0) % 16384 + 48 * nb ≤ 16384 ∧
        s.windowPlace c.part c.ten c.sid .sync (x.scaleRow r + j0) = some (.pad w2 o2) ∧ (x.scaleRow r + j0) % 16384 + nb ≤ 16384 ∧
        ws = (s.readAt (.pad w1 o1) (48 * nb)).map (·.toNat) ∧ sc = (s.readAt (.pad w2 o2) nb).map (·.toNat)
      m ≤ 256 → nx ≤ 512 →
      (∀ key, key / 131072 ≠ bank → Table.find? t.acc key = Table.find? s.acc key) ∧
      (∀ i, i < 131072 → (m ≤ i / 512 ∨ width ≤ i % 512) → t.accAt bank i = s.accAt bank i) ∧
      ∀ (aw as bw bs : Nat → List Nat), s.badPad = [] → (∀ i, i < m → strip (tensorOf ra) (row0 + i) (aw i) (as i)) →
        (st = true → ∀ j, j < width → strip (tensorOf rb) (nt * nx + j) (bw j) (bs j)) →
        (st = false → ∃ r, s.residency c.part h = some r ∧ r.bad = 0 ∧ ∀ j, j < width →
          bw j = ((r.wts.getD (nt * nx + j) []).drop (48 * j0)).take (48 * nb) ∧ bs j = (r.scl.getD (nt * nx + j) []).drop j0) →
        Table.get (t.arr g).fault c.lease 0 = Table.get (s.arr g).fault c.lease 0 ∧
        ∀ i j, i < m → j < width → t.accAt bank (i * 512 + j) = BitVec.ofNat 32 ((List.range nb).foldl (fun e q =>
          (blockStep (if st then 8 else p) false e (((aw i).drop (48 * q)).take 48, (as i).getD q 255)
            (((bw j).drop (48 * q)).take 48, (bs j).getD q 255)).1) (s.accAt bank (i * 512 + j)).toNat))) ∧
  (∀ (p e : Nat) (as bs : List Nat) (ea eb : Nat), as.length = 48 → bs.length = 48 → 2 ≤ p → p ≤ 8 →
    let weight := fun w : Nat => sgn 8 (w / 2 ^ (8 - p) * 2 ^ (8 - p)) + (if p < 8 then (2 ^ (7 - p) : Nat) else 0 : Int)
    let q := ((List.range 48).map fun i => sgn 8 (as.getD i 0) * weight (bs.getD i 0)).sum
    (ea = 255 ∨ eb = 255 → (blockStep p false e (as, ea) (bs, eb)).1 = (fmtF32.add e fmtF32.cnan).bits ∧
      (blockStep p false e (as, ea) (bs, eb)).2.1 = true) ∧
    (ea ≠ 255 → eb ≠ 255 → (blockStep p false e (as, ea) (bs, eb)).1 = (fmtF32.add e (if q = 0 then 0 else
      (fmtF32.roundRes 24 (q < 0) q.natAbs 1 ((ea : Int) + eb - 254)).bits)).bits)) ∧
  ∀ (s : State) (g : Nat) (c : ArrayCmd), (s.arr g).queue = [c] → (s.arr g).finishing = true →
    (s.arr g).busyTo ≤ s.cycle → (s.arr g).saving = [] → (s.engCtx (ctxKey c.part c.ten (8 + c.lease) g)).stall = none →
    let completes := fun (u : State) => exec (.arrayCommandComplete g) s = .next u ∧ (u.arr g).queue = [] ∧
      (u.engCtx (ctxKey c.part c.ten (8 + c.lease) g)).done = c.num ∧ u.hbm = s.hbm
    (c.op = .mzero → ∃ u, completes u ∧ u.threads = s.threads ∧ u.pad = s.pad ∧ Table.find? (u.arr g).fault c.lease = none ∧
      (∀ i, i < 131072 → Table.get u.acc ((g * 4 + c.lease) * 131072 + i) 0 = 0) ∧
      (∀ k, k / 131072 ≠ g * 4 + c.lease → Table.find? u.acc k = Table.find? s.acc k)) ∧
    (∀ st h p k n nx nt kch0 kcn row0 m ra rb, c.op = .mmul st h p k n nx nt kch0 kcn row0 m ra rb →
      (st = false → ∀ r, s.residency c.part h = some r → r.reqs = []) →
      ∃ u, completes u ∧ u.acc = s.acc ∧ u.pad = s.pad ∧ u.threads = s.threads ∧
        (c.abandoned = true → Table.get (u.arr g).fault c.lease 0 = 2 ∧ u.cores = s.cores) ∧
        (c.abandoned = false → (u.arr g).fault = (s.arr g).fault ∧
          u.cores = ((s.countIf c.nanp (c.sid / 16) 0).countIf c.ovfl (c.sid / 16) 1).cores)) ∧
    ∀ tok row0 m r, c.op = .mdrain tok row0 m r →
      let d := tensorOf r
      let n := if d.fmt = 0 then 4 else 2
      let f := if d.fmt = 0 then fmtF32 else if d.fmt = 1 then fmtBF16 else fmtF16
      let addr := fun q => d.row (row0 + q / d.dim0) + q % d.dim0 * n
      let value := fun q => (f.convert .rne .inf (fmtF32.value (s.accAt (g * 4 + c.lease) (q / d.dim0 * 512 + q % d.dim0)).toNat)).res.bits
      let fault := Table.get (s.arr g).fault c.lease 0
      ∀ (count : Nat) (w o : Nat → Nat), 0 < d.dim0 → d.dim0 ≤ 512 →
        (∀ q, q < count → n ≤ runLength (addr q) ∧ ∀ x, x < n → s.engPlace c.eng .write (addr q + x) = .ok (.pad (w q) (o q + x), none)) →
        (count = m * d.dim0 ∨ (count < m * d.dim0 ∧ ∃ e, (e = 2 ∨ e = 3) ∧ s.engPlace c.eng .write (addr count) = .error e)) →
        ∃ u, completes u ∧ u.acc = s.acc ∧ (u.arr g).fault = (s.arr g).fault ∧
          u.pad = (List.range count).foldl (fun mem q => Memory.writeBytes mem (w q * 262144 + o q) (leBytes n (value q))) s.pad ∧
          (s.alive c.t = true → tok ≠ 0 → (u.thr c.t).getX tok = ⟨BitVec.ofNat 64 (if count < m * d.dim0 then 2 ^ 63 + 3
            else if fault ≠ 0 then 2 ^ 63 + fault else m * d.dim0 * n), true, false, false⟩)

/-- R143, R144: TIDSET loads the 64 bytes at its address into a tensor record, TIDGET stores the record there, TIDPATCH writes one
32-bit dimension of it. A TID of 4,096 or more is the matrix trap, cause 3; a dimension beyond 32 bits cause 5. R149-R151: the
RES requests on a residency with no fill and no earlier request. RALLOC answers a fresh handle of the cluster or the lowest
code of COUNT 9, QUOTA 2, NOINDEX 4; RFILL starts a fill; RPIN and RUNPIN set and clear the pin; RREVOKE removes the residency
and answers its pages; RQUERY answers its state word. A pack with a reserved bit answers code 8, one that names no residency 1.
That RALLOC, RQUERY, RPIN and RUNPIN write their token in the step in which they issue, and that a handle is looked up within its
partition, is the model's reading (log entry 42). -/
def Obligations.TensorsAndResidencies : Prop :=
  (∀ (s : State) (a b : Src) (d : Nat), Ready s { src := [a, b] } →
     let u := s.take { src := [a, b] }
     let tid := (s.rx a).toNat
     let key := (s.me.part * 4 + s.me.ten) * 4096 + tid
     let r := s.tidRec s.me.part s.me.ten tid
     (4096 ≤ tid → ∀ i ∈ [Instr.tidset a b, .tidget a b, .tidpatch d a b], exec i s = .next (s.takeTrap 11 3 0)) ∧
     (tid < 4096 → s.performed s.cur = true → ∀ ps kind l bs v,
       u.wordTargets u.me .read false (s.rx b) 8 = .ok ps kind l → u.readParts u.me.ctx (joinParts ps) = (bs, false, v) →
       let ws := (List.range 8).map fun i => BitVec.ofNat 64 (leNat ((bs.drop (8 * i)).take 8))
       (tensorOf ws).bad = false → (tensorOf ws).fmt ≠ 7 →
       exec (.tidset a b) s = .next (((State.countWords { v with tids := Table.set v.tids key ws } u.me.ctx u.me .read false (s.rx b)
         8).advance).issued)) ∧
     (tid < 4096 → s.performed s.cur = true → ∀ ps kind l,
       u.wordTargets u.me .write true (s.rx b) 8 = .ok ps kind l →
       exec (.tidget a b) s = .next ((((u.writeParts u.me.ctx (joinParts ps) (r.flatMap fun w => leBytes 8 w.toNat)).countWords u.me.ctx u.me
         .write true (s.rx b) 8).advance).issued)) ∧
     (tid < 4096 → 2 ^ 32 ≤ (s.rx b).toNat → exec (.tidpatch d a b) s = .next (s.takeTrap 11 5 0)) ∧
     (tid < 4096 → (s.rx b).toNat < 2 ^ 32 → s.performed s.cur = true →
       let w := (r.getD (1 + d / 2) 0).toNat
       exec (.tidpatch d a b) s = .next (State.after { s with tids := Table.set s.tids key (r.set (1 + d / 2) (BitVec.ofNat 64
         (if d % 2 = 0 then w / 2 ^ 32 * 2 ^ 32 + (s.rx b).toNat else (s.rx b).toNat * 2 ^ 32 + w % 2 ^ 32))) }
         { src := [a, b] } fun th => th.past s.insnLen))) ∧
  ∀ (s : State) (tok : Nat) (b : Src), Ready s { src := [b], dx := [tok] } → s.performed s.cur = true → s.me.isRoot = false →
    let w := s.rx b
    let g := s.me.sid / 128
    let p := s.me.part
    let h := bits w 15 0
    let n := w.toNat
    let gets := fun (t : State) (v : Word) => (tok ≠ 0 → t.me.getX tok = ⟨v, true, false, false⟩) ∧
      t.me.pc = s.me.pc + BitVec.ofNat 64 s.insnLen ∧ (∀ q, q ≠ tok → t.me.getX q = (Needs.marks { src := [b], dx := [tok] } s.me).getX q)
    let answers := fun (i : Instr) (v : Word) (res : List Residency) =>
      ∃ t, exec i s = .next t ∧ gets t v ∧ t.residencies = res ∧ t.hbm = s.hbm ∧ t.pad = s.pad
    let err := fun c => BitVec.ofNat 64 (2 ^ 63 + c)
    let quota := Table.get (s.part p).canquota s.me.ten 0
    (∀ pin auto,
      (n = 0 ∨ 3072 < n → answers (.ralloc pin auto tok b) (err 9) s.residencies) ∧
      (0 < n → n ≤ 3072 → (p = 0 ∨ quota < s.charged p s.me.ten g + n) → answers (.ralloc pin auto tok b) (err 2) s.residencies) ∧
      (0 < n → n ≤ 3072 → p ≠ 0 → s.charged p s.me.ten g + n ≤ quota → (∀ i, i < 512 → (s.residency p (g * 512 + i)).isSome = true) →
        answers (.ralloc pin auto tok b) (err 4) s.residencies) ∧
      (0 < n → p ≠ 0 → s.charged p s.me.ten g + n ≤ quota → n ≤ s.freePages g → ∀ i, i < 512 → n ≤ 3072 →
        s.residency p (g * 512 + i) = none → (∀ j, j < i → (s.residency p (g * 512 + j)).isSome = true) →
        answers (.ralloc pin auto tok b) (BitVec.ofNat 64 (g * 512 + i)) (s.residencies ++ [{
          handle := g * 512 + i, part := p, ten := s.me.ten, pages := n, st := 0, pin := pin, auto := auto, stale := false,
          srctid := 0, src := [], srcTen := s.me.ten, gens := [], leaves := [], wts := [], scl := [], used := s.useClock,
            fill := none, reqs := [],
          wasRes := false, bad := 0, badByte := 0 }]))) ∧
    (∀ i ∈ [Instr.rfill tok b, .rpin tok b, .runpin tok b, .rrevoke tok b, .rquery tok b],
      (2 ^ 28 ≤ n → answers i (err 8) s.residencies) ∧
      (n < 2 ^ 16 → s.residency p h = none → answers i (err 1) s.residencies)) ∧
    ∀ r, s.residency p h = some r → r.fill = none → r.reqs = [] → n < 2 ^ 28 →
      (n < 2 ^ 16 → answers (.rquery tok b) (BitVec.ofNat 64 (r.srctid * 2 ^ 32 + (if r.auto then 2 ^ 17 else 0) +
        (if r.pin then 2 ^ 16 else 0) + (if r.stale then 2 ^ 15 else 0) + r.st * 2 ^ 12 + r.pages % 3072)) s.residencies) ∧
      (h / 512 = g → n < 2 ^ 16 → r.st ≠ 3 → answers (.rpin tok b) 0
        (s.residencies.map fun x => if x.part = p ∧ x.handle = h then { x with pin := true } else x)) ∧
      (h / 512 = g → n < 2 ^ 16 → answers (.runpin tok b) 0
        (s.residencies.map fun x => if x.part = p ∧ x.handle = h then { x with pin := false } else x)) ∧
      (h / 512 = g → n < 2 ^ 16 → s.resBusy p h = false → ∃ t, exec (.rrevoke tok b) s = .next t ∧
        gets t (BitVec.ofNat 64 r.pages) ∧ t.residency p h = none) ∧
      let tid := bits w 27 16
      let d := tensorOf (s.tidRec p s.me.ten tid)
      (h / 512 = g → (d.ok = false ∨ (d.fmt ≠ 5 ∧ d.fmt ≠ 6) ∨ d.dim2 ≠ 1 ∨ d.dim3 ≠ 1) →
        answers (.rfill tok b) (err 5) s.residencies) ∧
      (h / 512 = g → d.ok = true → (d.fmt = 5 ∨ d.fmt = 6) → d.dim2 = 1 → d.dim3 = 1 → pagesFor d.dim0 d.dim1 ≤ r.pages →
        r.st ≠ 3 → (s.source p s.me.ten d).isSome = true →
        ∃ t, exec (.rfill tok b) s = .next t ∧ (t.residency p h).map (·.st) = some 1 ∧
          ((t.residency p h).bind (·.fill)).map (fun f => (f.src, f.ten, f.req.tok, f.req.t)) =
            some (s.tidRec p s.me.ten tid, s.me.ten, tok, s.cur) ∧
          (tok ≠ 0 → (t.me.getX tok).full = false ∧ (t.me.getX tok).pend = true) ∧
          t.me.pc = s.me.pc + BitVec.ofNat 64 s.insnLen)

/-- R146, R147, R150, R322: how fills end. RESIDENCY_FILL_COMPLETE leaves the residency RESIDENT with the columns that its source
holds and answers the bytes read, or as it was with code 7 when the source cannot be reached. A refill that fails abandons the
command at the head of the array's queue; that one in the background is not tried again is the model's choice (log entry 86). -/
def Obligations.FillsEnd : Prop :=
  (∀ (s : State) (g h : Nat) (r : Residency) (f : Fill), s.resAt g h s.fillReady = some r → s.residency r.part r.handle = some r →
    r.fill = some f → r.reqs = [] → f.req.op = 1 → s.array g = none →
    let d := tensorOf f.src
    (∀ cols v, (s.source r.part f.ten d).isSome = true → readColumns (r.engFor f.ten) d d.dim1 0 s = (some cols, v) →
      ∃ t, exec (.residencyFillComplete g h) s = .next t ∧
        (t.residency r.part r.handle).map (fun x => (x.st, x.wts, x.scl, x.src, x.srctid, x.fill.isSome)) =
          some (2, cols.map (·.1), cols.map (·.2), f.src, f.req.tid, false) ∧
        (s.alive f.req.t = true → f.req.tok ≠ 0 → (t.thr f.req.t).getX f.req.tok =
          ⟨BitVec.ofNat 64 d.sourceBytes, true, false, false⟩)) ∧
    (s.source r.part f.ten d = none →
      ∃ t, exec (.residencyFillComplete g h) s = .next t ∧
        (t.residency r.part r.handle).map (fun x => (x.st, x.wts, x.src, x.fill.isSome)) = some (f.prior, r.wts, r.src, false) ∧
        (s.alive f.req.t = true → f.req.tok ≠ 0 → (t.thr f.req.t).getX f.req.tok =
          ⟨BitVec.ofNat 64 (2 ^ 63 + 7), true, false, false⟩))) ∧
  (∀ (s : State) (g h : Nat) (r : Residency), s.refillWanted g = some r → r.handle % 512 = h % 512 →
    (∀ v, s.refill r = (v, true) → exec (.autofillRefillComplete g h) s =
      .next (((v.resumeStalled r.part r.handle (tensorOf r.src) (· = 2)).startCommand g).pump r.part r.handle)) ∧
    (∀ v, s.refill r = (v, false) → r.reqs = [] → s.residency r.part r.handle = some r →
      ∃ t, exec (.autofillRefillComplete g h) s = .next t ∧
      ((t.arr g).queue.map (·.abandoned)).head? = some true ∧ (t.arr g).queue.length = (s.arr g).queue.length ∧
      t.residencies = v.residencies ∧ t.hbm = v.hbm ∧ t.pad = v.pad)) ∧
  ∀ (s : State) (g h : Nat) (r : Residency), s.resAt g h (fun r => r.st = 3 && r.auto && r.wasRes && s.tenRuns r.part r.ten &&
      (s.refillRoom r).isSome) = some r →
    (∀ v, s.refill r = (v, true) → exec (.canopyBackgroundRefill g h) s =
      .next ((v.resumeStalled r.part r.handle (tensorOf r.src) (· = 2)).startCommand g)) ∧
    (∀ v, s.refill r = (v, false) → exec (.canopyBackgroundRefill g h) s =
      .next (v.modRes r.part r.handle fun r => { r with wasRes := false }))

/-- R225, R228, R232, R236: a short agent instruction whose agent may issue and has nothing in flight completes and retires at
once, and changes its agent alone: the register it names and apc, which moves on by 8 or to its target. R231: CHOOSE answers
the index of the greatest of its F32 registers, and the lowest of several equal ones; a NaN counts as minus infinity and -0 as
+0. -/
def Obligations.AgentShortResults : Prop :=
  (∀ (s : State) (g : Agent) (a b c : Nat) (imm : BitVec 32), s.agent s.cur = some g → s.issues g = true → g.flight = [] →
     let x := fun r => g.getA r
     let gives := fun (i : Instr) (g' : Agent) => exec i s = .next (s.setAgent s.cur { g' with looked := false })
     let past := fun (g : Agent) => { g with apc := (g.apc + 8) % 2 ^ 32 }
     let sets := fun (i : Instr) (v : Word) => gives i (past (if a = 0 then g else { g with a := Table.set g.a a v }))
     let target := (g.apc + 8 * imm.toNat) % 2 ^ 32
     let hops := fun (i : Instr) (p : Prop) [Decidable p] =>
       g.apc < 2 ^ 32 → gives i { g with apc := if p then target else (g.apc + 8) % 2 ^ 32 }
     gives .anop (past g) ∧ sets (.amovi a imm) (BitVec.ofInt 64 imm.toInt) ∧
     sets (.amoviHi a imm) (BitVec.ofNat 64 (imm.toNat * 2 ^ 32 + (x a).toNat % 2 ^ 32)) ∧
     sets (.aadd a b c) (x b + x c) ∧ sets (.asub a b c) (x b - x c) ∧ sets (.amul a b c) (x b * x c) ∧
     sets (.aaddi a b imm) (x b + BitVec.ofInt 64 imm.toInt) ∧
     hops (.abeq a b imm) (x a = x b) ∧ hops (.abne a b imm) (x a ≠ x b) ∧ hops (.ablt a b imm) ((x a).toInt < (x b).toInt) ∧
     hops (.abge a b imm) ((x b).toInt ≤ (x a).toInt) ∧ hops (.ajmp imm) True ∧
     hops (.fblt a b imm) (fmtF32.cmp .lt (g.getF a).toNat (g.getF b).toNat = true) ∧
     (g.apc < 2 ^ 32 → gives (.acall imm) { g with a := Table.set g.a 31 (BitVec.ofNat 64 (g.apc + 8)), apc := target }) ∧
     ((x 31).toNat < 2 ^ 32 → (x 31).toNat % 8 = 0 → gives .aret { g with apc := (x 31).toNat }) ∧
     sets (.slen a b) (BitVec.ofNat 64 (bits (g.getS b) 47 32)) ∧
     gives (.sclear a) (past { g with s := Table.set g.s a (BitVec.ofNat 64 ((g.getS a).toNat % 2 ^ 32)) }) ∧
     gives (.fmovi a imm) (past { g with f := Table.set g.f a imm }) ∧
     sets (.fbits a b) (BitVec.ofNat 64 (g.getF b).toNat) ∧
     gives (.fbitsF a b) (past { g with f := Table.set g.f b (BitVec.ofNat 32 (x a).toNat) }) ∧
     (∀ d y, s.ctxOf g b = some (d, y) → sets (.ctxlen a b) (BitVec.ofNat 64 y.len) ∧
       sets (.ctxstat a b) (BitVec.ofNat 64 (y.owner % 65536 * 2 ^ 16 + y.part % 16 * 2 ^ 12 + (if y.late then 2 ^ 5 else 0) +
         (if s.inFlight d then 2 ^ 4 else 0) + y.st)))) ∧
  ∀ (s : State) (g : Agent) (a fb : Nat) (n : BitVec 32), s.agent s.cur = some g → s.issues g = true → g.flight = [] →
    0 < n.toNat → a ≠ 0 →
    let key := fun i => chooseKey (g.getF (fb + i)).toNat
    ∃ k, k < n.toNat ∧ (∀ i, i < k → key i < key k) ∧ (∀ i, k ≤ i → i < n.toNat → key i ≤ key k) ∧
      exec (.choose a fb n) s = .next (s.setAgent s.cur { g with
        a := Table.set g.a a (BitVec.ofNat 64 k), apc := (g.apc + 8) % 2 ^ 32, looked := false })

/-- R209, R229, R230: agent loads and stores work on the 64 KiB memory of the agent, which is bytes of HBM from the agent's base on,
at the sum of register and offset, which is aligned to the access and inside that memory; the string instructions work on the tokens
of an s register. What a form reads it reads as the agent does (where a host write met the running agent, a free value); what it
stores changes those bytes of HBM alone, and no thread and no agent. -/
def Obligations.AgentMemoryResults : Prop :=
  ∀ (s : State) (g : Agent) (a b c : Nat) (off : BitVec 32), s.agent s.cur = some g → s.issues g = true → g.flight = [] →
    let gives := fun (i : Instr) (g' : Agent) =>
      exec i s = .next (s.setAgent s.cur { g' with apc := (g.apc + 8) % 2 ^ 32, looked := false })
    let sets := fun (i : Instr) (v : Word) => gives i (if a = 0 then g else { g with a := Table.set g.a a v })
    let stores := fun (i : Instr) (e : Nat) (bs : List Byte) (g' : Agent) => ∃ t : State, t = s.store g [(e, bs)] ∧
      exec i s = .next (t.setAgent s.cur { g' with apc := (g.apc + 8) % 2 ^ 32, looked := false }) ∧
      (∀ j, j < g.base + e ∨ g.base + e + bs.length ≤ j → Memory.read t.hbm j = Memory.read s.hbm j) ∧
      (∀ j, j < bs.length → Memory.read t.hbm (g.base + e + j) = bs.getD j 0) ∧ t.threads = s.threads ∧ t.agents = s.agents ∧
      t.pad = s.pad ∧ t.hostMem = s.hostMem
    let w := g.getS b
    let len := bits w 47 32
    let cap := bits w 31 16
    let base := bits w 15 0
    let i := (g.getA c).toNat
    (∀ e : Nat, ((g.getA b).toNat : Int) + off.toInt = e →
      (∀ sz : ESize, e % ESize.bytes sz = 0 → e + ESize.bytes sz ≤ 65536 →
        let n := ESize.bytes sz
        let v := s.recallLe g e n
        sets (.ald sz false a b off) (BitVec.ofNat 64 v) ∧
        sets (.ald sz true a b off) (BitVec.ofInt 64 (if 2 ^ (8 * n - 1) ≤ v then (v : Int) - 2 ^ (8 * n) else v)) ∧
        stores (.ast sz a b off) e (leBytes n (g.getA a).toNat) g) ∧
      (e % 8 = 0 → e + 8 ≤ 65536 →
        stores (.sstore a b off) e (leBytes 8 (g.getS a).toNat) g ∧
        (strOk (BitVec.ofNat 64 (s.recallLe g e 8)) = true →
          gives (.sload a b off) { g with s := Table.set g.s a (BitVec.ofNat 64 (s.recallLe g e 8)) }))) ∧
    (i < len → sets (.stok a b c) (BitVec.ofNat 64 (s.recallLe g (base + 4 * i) 4))) ∧
    (i < len → stores (.stokW a b c) (base + 4 * i) (leBytes 4 ((g.getA a).toNat % 2 ^ 32)) g) ∧
    (i = len → len < cap → stores (.stokW a b c) (base + 4 * i) (leBytes 4 ((g.getA a).toNat % 2 ^ 32)) { g with
      s := Table.set g.s b (BitVec.ofNat 64 ((len + 1) * 2 ^ 32 + w.toNat % 2 ^ 32)) }) ∧
    (b + i ≤ 15 → gives (.ssel a b c) { g with s := Table.set g.s a (g.getS (b + i)) }) ∧
    let v := g.getS a
    (bits v 47 32 + len ≤ bits v 31 16 → stores (.sjoin a b) (bits v 15 0 + 4 * bits v 47 32)
      (((List.range len).map fun j => s.recallLe g (base + 4 * j) 4).flatMap (leBytes 4)) { g with
      s := Table.set g.s a (BitVec.ofNat 64 ((bits v 47 32 + len) * 2 ^ 32 + v.toNat % 2 ^ 32)) })

/-- R229, R230, R232, R238: a short agent instruction that fails changes neither a register nor memory: with no iteration under way
its agent stops with the code (2 ABOUNDS, 3 ACTX, 6 ALIMIT), its apc at the instruction, and a record goes to its function.
R233: POST with room in the completion queue places a record of type 2 with the agent's number, its tag and its value; AHALT
makes its agent halt. The model's readings: a sum that would wrap is an integer beyond the memory, and so ABOUNDS (log entry 22), and
a halting agent keeps its apc and leaves the active set at once (log entry 11). -/
def Obligations.AgentFaultsPostHalt : Prop :=
  (∀ (s : State) (g : Agent) (a b c : Nat) (off : BitVec 32), s.agent s.cur = some g → s.issues g = true → g.flight = [] →
     (s.iter g.part).running = false →
     let e : Int := (g.getA b).toNat + off.toInt
     let w := g.getS b
     let i := (g.getA c).toNat
     let v := g.getS a
     let fails := fun (i : Instr) (code : Nat) => exec i s = .next (s.faultAgent s.cur code g.apc) ∧
       (g.fault = none → s.nextWaiting g.part = none → ∃ t, exec i s = .next t ∧ t.hbm = s.hbm ∧
         (t.agent s.cur).map (fun x => (x.st, x.apc, x.a, x.s, x.base)) = some (2, g.apc, g.a, g.s, g.base) ∧
         t.cqHeld = Table.set s.cqHeld (s.boundFn g.part) (Table.get s.cqHeld (s.boundFn g.part) [] ++
           [[BitVec.ofNat 64 (4 * 2 ^ 56 + g.ten % 4 * 2 ^ 20 + g.part % 16 * 2 ^ 16), BitVec.ofNat 64 s.cur, BitVec.ofNat 64 code,
             BitVec.ofNat 64 g.apc, BitVec.ofNat 64 g.apc, 0, 0, 0]]))
     (∀ sz : ESize, (e < 0 ∨ e % ESize.bytes sz ≠ 0 ∨ 65536 < e + ESize.bytes sz) →
       fails (.ald sz false a b off) 2 ∧ fails (.ald sz true a b off) 2 ∧ fails (.ast sz a b off) 2) ∧
     ((e < 0 ∨ e % 8 ≠ 0 ∨ 65536 < e + 8) → fails (.sload a b off) 2 ∧ fails (.sstore a b off) 2) ∧
     ((2 ^ 32 ≤ (g.getA 31).toNat ∨ (g.getA 31).toNat % 8 ≠ 0) → fails .aret 2) ∧
     (bits w 47 32 ≤ i → fails (.stok a b c) 2) ∧ (bits w 47 32 < i → fails (.stokW a b c) 2) ∧
     (i = bits w 47 32 → bits w 31 16 = i → fails (.stokW a b c) 6) ∧ (15 < b + i → fails (.ssel a b c) 2) ∧
     (bits v 31 16 < bits v 47 32 + bits w 47 32 → fails (.sjoin a b) 6) ∧
     (s.ctxOf g b = none → fails (.ctxlen a b) 3 ∧ fails (.ctxstat a b) 3)) ∧
  ∀ (s : State) (g : Agent) (a : Nat) (tag : BitVec 32), s.agent s.cur = some g → s.issues g = true → g.flight = [] →
    let fn := s.boundFn g.part
    (s.cqRoom fn = true → Table.get s.cqHeld fn [] = [] →
      exec (.post a tag) s = .next (State.setAgent { s with cqHeld := Table.set s.cqHeld fn [[BitVec.ofNat 64 (2 * 2 ^ 56 +
        g.ten % 4 * 2 ^ 20 + g.part % 16 * 2 ^ 16), BitVec.ofNat 64 s.cur, BitVec.ofNat 64 tag.toNat, g.getA a, 0, 0, 0, 0]] }
        s.cur { g with apc := (g.apc + 8) % 2 ^ 32, looked := false })) ∧
    (s.cqRoom fn = false → exec (.post a tag) s = .next s) ∧
    (s.nextWaiting g.part = none → ∃ t, exec (.ahalt a) s = .next t ∧
      t.agent s.cur = some { g with st := 3, halt := g.getA a } ∧ (∀ n, n ≠ s.cur → t.agent n = s.agent n) ∧
      t.hbm = s.hbm ∧ t.threads = s.threads)

/-- R234-R236, R243, R271: a long agent instruction issues while at most 3 older ones are unretired, it depends on none of them,
and a batch-table entry is FREE. With its checks passed it takes the lowest FREE entry of its die, PENDING, and is in flight; an
AWAIT takes no entry. One that has nothing left to do retires at once, and what was reserved for it is FREE again; a failed
check faults its agent; without a FREE entry it does not issue. The model's readings: apc stays at an AWAIT that waits, until
something issues behind it, and an instruction whose check fails does not issue while an AWAIT of its agent waits (log entry 11);
one with nothing left to do shows its entry as DRAINING (log entry 26); SAMPSET reads its record at issue (log entry 25). R241, R265: the checks of the long instructions with a clear
done bit: k registers name live contexts of the agent's own partition and tenancy (ACTX 3), or none where one is made; tokens
lie within the vocabulary and lengths within the context (ABOUNDS 2, ALIMIT 6); a GEN with no budget, an APPEND and a SCORE with
nothing left have nothing to do. -/
def Obligations.AgentLongIssue : Prop :=
  (∀ (s : State) (g : Agent) (a b c d : Nat) (imm : BitVec 32),
     s.agent s.cur = some g → s.issues g = true → g.flight.length < 4 →
     let issues := fun (i : Instr) (op : LongOp) =>
       (∀ l ∈ g.flight, l.done = false ∧ g.depends op l.op = false) →
       let here := if ∃ l ∈ g.flight, opAwaits l.op = true ∧ l.apc = g.apc then (g.apc + 8) % 2 ^ 32 else g.apc
       let st := s.startLong { g with apc := here } op (g.replay.head?.getD false)
       let inst := fun entry data => (⟨op, here, entry, false, none, [], none, data, s.nextSeq⟩ : LongInst)
       let past := (here + 8) % 2 ^ 32
       let name := match opKreg op with
         | some k => bits (g.getK k) 17 0
         | none => 0
       let takes := fun n status => Table.set s.batch n
         (⟨0, 0, 0, 0, status, opCode op, s.cur, name, 0, (s.iter g.part).num % 2 ^ 32, 0, false⟩ : BatchEntry)
       (∀ data n, st = .run data → opAwaits op = false → s.freeEntry g.die = some n →
         exec i s = .next (State.setAgent { s with nextSeq := s.nextSeq + 1, batch := takes n 1 } s.cur
           { g with apc := past, flight := g.flight ++ [inst (some n) data], replay := g.replay.drop 1, looked := false })) ∧
       (opAwaits op = false → s.freeEntry g.die = none → exec i s = .next s) ∧
       (∀ data, st = .run data → opAwaits op = true → exec i s = .next (State.setAgent { s with nextSeq := s.nextSeq + 1 } s.cur
         { g with apc := here, flight := g.flight ++ [inst none data], replay := g.replay.drop 1, looked := false })) ∧
       (∀ g', st = .done g' → g.flight = [] →
         let ends := fun (s' : State) => exec i s = .next ((s'.setAgent s.cur { g' with
           apc := past, flight := [], replay := g.replay.drop 1, looked := false }).endPlan s.cur g.apc)
         (∀ n, opAwaits op = false → s.freeEntry g.die = some n →
           ends { s with nextSeq := s.nextSeq + 1, batch := takes n 3 }) ∧
         (opAwaits op = true → ends { s with nextSeq := s.nextSeq + 1 })) ∧
       (∀ k n, st = .fault k → s.freeEntry g.die = some n → (∀ l ∈ g.flight, opAwaits l.op = false) →
         exec i s = .next (s.faultAgent s.cur k g.apc)) ∧
       (∀ k, st = .fault k → (∃ l ∈ g.flight, opAwaits l.op = true) → exec i s = .next s)
     issues (.ctxnew a imm) (.ctxnew a imm) ∧ issues (.ctxfree a) (.ctxfree a) ∧ issues (.fork a b) (.fork a b) ∧
     issues (.trim a b) (.trim a b) ∧ issues (.append a b c) (.append a b c) ∧ issues (.probe a b c) (.probe a b c) ∧
     issues (.pin a b c) (.pin a b c) ∧ issues (.unpin a b) (.unpin a b) ∧ issues (.score a b c d) (.score a b c d) ∧
     issues (.gen a b c) (.gen a b c) ∧ issues (.sampset a b) (.sampset a b) ∧ issues (.maskbind a b) (.maskbind a b) ∧
     issues (.rngjump a b) (.rngjump a b) ∧ issues (.await a imm) (.await a imm)) ∧
  ∀ (s : State) (g : Agent) (a b c d : Nat) (imm : BitVec 32),
    let start := fun op => s.startLong g op false
    let free := bit (g.getK a) 63 = false
    (free → (s.model g.part g.ten imm.toNat).isSome = true → start (.ctxnew a imm) = .run []) ∧
    (¬ free ∨ s.model g.part g.ten imm.toNat = none → start (.ctxnew a imm) = .fault 3) ∧
    (∀ e x m, s.ctxOf g b = some (e, x) → s.modelOf x = some m →
      (free → start (.fork a b) = .run []) ∧ start (.probe a b c) = .run [] ∧
      ((∀ t ∈ s.tokens g c, t < m.vocab) → (g.getA d).toNat < (s.tokens g c).length → x.len ≠ 0 →
        x.len + (s.tokens g c).length - 1 ≤ m.cap → start (.score a b c d) = .run [])) ∧
    ((s.tokens g c).length ≤ (g.getA d).toNat → start (.score a b c d) = .done g) ∧
    (∀ e x m, s.ctxOf g a = some (e, x) → s.modelOf x = some m →
      start (.ctxfree a) = .run [] ∧ start (.trim a b) = .run [] ∧ start (.unpin a b) = .run [] ∧ start (.rngjump a b) = .run [] ∧
      ((g.getA c).toNat ≤ bits (g.getS b) 47 32 → start (.pin a b c) = .run []) ∧
      (bits (g.getS b) 47 32 < (g.getA c).toNat → start (.pin a b c) = .fault 2) ∧
      (g.getA c ≠ 0 → x.len ≠ 0 → x.newLeft ≠ 0 → x.totLeft ≠ 0 → start (.gen a b c) = .run []) ∧
      (g.getA c ≠ 0 → x.len ≠ 0 → (x.newLeft = 0 ∨ x.totLeft = 0) →
        start (.gen a b c) = .done { g with a := Table.set g.a c 0 }) ∧
      (g.getA c ≠ 0 → x.len = 0 → start (.gen a b c) = .fault 3) ∧
      (let ts := (s.tokens g b).drop (g.getA c).toNat
       ts ≠ [] → (∀ t ∈ ts, t < m.vocab) → x.len + ts.length ≤ 16 * x.btcap → ts.length ≤ x.totLeft →
        start (.append a b c) = .run []) ∧
      (g.getA b = 0 → start (.maskbind a b) = .run []) ∧
      (let o := (g.getA b).toNat
       let r := (List.range 5).map fun i => BitVec.ofNat 64 (s.recallLe g (o + 8 * i) 8)
       o % 8 = 0 → o + 64 ≤ 65536 → recordOk r m.planes = true → start (.sampset a b) = .run r)) ∧
    (s.ctxOf g a = none → ∀ op ∈ [LongOp.ctxfree a, .trim a b, .unpin a b, .rngjump a b, .pin a b c, .sampset a b, .maskbind a b],
      start op = .fault 3) ∧
    (g.getA c = 0 → start (.gen a b c) = .done g) ∧
    (g.pending imm.toNat = none → start (.await a imm) = .run []) ∧
    (∀ e, g.pending imm.toNat = some e → start (.await a imm) = .done { g with
      events := g.events.erase e, a := if a = 0 then g.a else Table.set g.a a e.2 })

/-- R244-R249, R255, R257, R262: what the one-step instructions have done once the snapshot has taken them; SAMPSET writes the record
that it has read at its issue (the model's reading, log entry 25). R250, R252, R258, R260, R261, R263: what the commit of a batch's step
does. APPEND: LEN, TOTLEFT and the tokens go on by the step's, and the progress register with them. SCORE: the f register takes the
sum over the step's positions in ascending order, the progress register their number, and the context nothing. GEN: the first commit
draws the held token and changes no register; a later one commits the tokens up to its limits and up to STOP, which LEN, RNGCTR,
NEWLEFT, TOTLEFT and the s register follow, and the budget register falls by as many, or to 0 when the GEN is complete; with more
tokens than the s register has room for, nothing changes. -/
def Obligations.AgentSnapshotEffects : Prop :=
  (∀ (s : State) (it n a b c : Nat) (imm : BitVec 32) (g : Agent) (l : LongInst), s.agent n = some g →
    let t := s.oneStep it n g l
    let has := fun (P : Agent → Prop) => ∃ g', t.agent n = some g' ∧ P g'
    (l.op = .ctxnew a imm → ∀ m e u, s.model g.part g.ten imm.toNat = some m → s.createCtx g.part g.ten n imm.toNat m = some (e, u) →
      has (fun g' => g'.getK a = BitVec.ofNat 64 (2 ^ 63 + e)) ∧
      (t.context e).map (fun x => (x.len, x.model, x.owner, x.st, x.btcap, x.totLeft, x.part, x.ten)) =
        some (0, imm.toNat, n, 1, m.cap / 16, 16 * (m.cap / 16), g.part, g.ten)) ∧
    ∀ e x, s.ctxOf g a = some (e, x) →
      (l.op = .ctxfree a → has (fun g' => g'.getK a = 0) ∧
        (t.context e).map (fun y => (y.st, y.freeAt, y.pins)) = some (2, it + 2, [])) ∧
      (l.op = .fork b a → ∀ d u, s.forkCtx n it x = some (d, u) → has (fun g' => g'.getK b = BitVec.ofNat 64 (2 ^ 63 + d)) ∧
        (t.context d).map (fun y => (y.len, y.toks, y.owner, y.pins, y.maskOn, y.st)) = some (x.len, x.toks, n, [], false, x.st)) ∧
      (l.op = .trim a b → (g.getA b).toNat < x.len →
        (t.context e).map (fun y => (y.len, y.totLeft, y.toks)) =
          some ((g.getA b).toNat, x.totLeft + (x.len - (g.getA b).toNat), x.toks.take (g.getA b).toNat)) ∧
      (l.op = .trim a b → x.len ≤ (g.getA b).toNat → t.context e = some x) ∧
      (l.op = .unpin a b → (t.context e).map (·.pins) =
        some (x.pins.filter fun i => decide (16 * s.nodeDepth i < (g.getA b).toNat))) ∧
      (l.op = .rngjump a b → (t.context e).map (·.rngCtr) = some (x.rngCtr + g.getA b)) ∧
      (l.op = .maskbind a b → (t.context e).map (fun y => (y.maskOn, y.maskGrp)) =
        some (decide (g.getA b ≠ 0), bits (g.getA b) 63 48)) ∧
      (l.op = .sampset a b → (t.context e).map (·.newLeft) = some (recField l.data 2 31 0)) ∧
      (l.op = .pin a b c → (t.context e).map (·.pins) = some (x.pins ++ (s.pinNodes x ((s.tokens g b).take
        ((g.getA c).toNat / 16 * 16))).filter fun i => !x.pins.contains i)) ∧
      (l.op = .probe b a c → b ≠ 0 → has fun g' => g'.getA b = BitVec.ofNat 64 (16 * (s.chain x (s.tokens g c)).length))) ∧
  ∀ (s : State) (p : Nat) (b : Batch) (t : Step) (g : Agent) (i : LongInst) (c : Context) (kn : Kernel)
    (ka kb sb k : Nat),
    s.nextBatch p = some b → b.erred = false → b.steps = [t] → s.stepInst t = some (g, i) → s.context t.ctx = some c →
    t.fault = none → t.failed = false → s.kernel c = some kn → k ≠ 0 →
    let commits := fun (P : Context → Agent → Prop) => ∃ u c' g', exec (.iterationCommit p) s = .next u ∧
      u.context t.ctx = some c' ∧ u.agent t.agent = some g' ∧ P c' g'
    let done := (g.getA k).toNat
    (i.op = .append ka sb k → commits fun c' g' =>
      let n := t.g + t.c
      c' = { c with len := c.len + n, totLeft := c.totLeft - n, toks := c.toks ++ ((s.tokens g sb).drop done).take n } ∧
      g'.getA k = BitVec.ofNat 64 (done + n) ∧ g'.s = g.s ∧ g'.f = g.f) ∧
    (i.op = .score ka kb sb k → c.len ≤ i.pos.getD 0 + 1 → commits fun c' g' =>
      let cand := s.tokens g sb
      let js := ((List.range t.c).map fun x => i.pos.getD 0 + x + 1 - c.len).filter (done ≤ ·)
      c' = c ∧ g'.getA k = BitVec.ofNat 64 (done + js.length) ∧ g'.s = g.s ∧
      g'.getF ka = BitVec.ofNat 32 (js.foldl (fun f j => (fmtF32.add f (Config.logProb kn.m.desc kn.w (s.planesOf c kn.m)
        (c.toks ++ cand.take j) (cand.getD j 0)).toNat).bits) (g.getF ka).toNat)) ∧
    (i.op = .gen ka sb k →
      let r := s.sampling c
      let late := c.maskOn = true ∧ s.maskFor c (c.len + t.c) = none
      ¬ (late ∧ (recField r 1 9 8 = 1 ∨ recField r 1 9 8 = 2)) →
      let late' := c.late || (c.maskOn && (s.maskFor c (c.len + t.c)).isNone)
      (i.held = none → commits fun c' g' => c' = { c with late := late' } ∧ g'.a = g.a ∧ g'.s = g.s ∧ g'.f = g.f) ∧
      ∀ t0, i.held = some t0 →
        let ts := if t.spec then t0 :: t.drafts.take (s.verify kn t0 t.drafts).2.1 else [t0]
        let stop := recField r 4 63 32
        let stops := bit (r.getD 4 0) 0
        let n := min (min (min ts.length done) (min c.newLeft c.totLeft)) (if stops then ts.findIdx (· = stop) + 1 else ts.length)
        let w := g.getS sb
        let left := if stops = true ∧ (ts.take n).getLast? = some stop then 0 else done - n
        (bits w 47 32 + n ≤ bits w 31 16 → commits fun c' g' =>
          c' = { c with len := c.len + n, toks := c.toks ++ ts.take n, rngCtr := c.rngCtr + BitVec.ofNat 64 n, newLeft := c.newLeft - n,
                        totLeft := c.totLeft - n, late := late' } ∧
          g'.getS sb = BitVec.ofNat 64 ((bits w 47 32 + n) * 2 ^ 32 + w.toNat % 2 ^ 32) ∧ g'.f = g.f ∧
          g'.getA k = BitVec.ofNat 64 (if left = 0 ∨ c.newLeft = n ∨ c.totLeft = n then 0 else left)) ∧
        (bits w 31 16 < bits w 47 32 + n → commits fun c' g' => c' = c ∧ g'.a = g.a ∧ g'.s = g.s ∧ g'.f = g.f))

/-- R12, R218, R240, R245, R268, R277, R279, R324, R331: the iteration engine. ITERATION_SNAPSHOT of a partition between
iterations starts the next one, unless its engine needs a translation that it does not hold: it stalls for it then, and nothing
else happens. ITERATION_COMMIT and MODEL_GROUP_TIMEOUT end the batch of a model group, and with the last one the iteration; with
an error reported, or too late, no context changes. GRACE_PERIOD_END is the snapshot at which two iterations have passed for
something in GRACE, which then becomes FREE; PLAN_HOLD_EXPIRY ends the holds that have lasted long enough; LOOKAHEAD_DECODE
looks once at each window. That each model group has a batch of its own, which ends by itself, is the model's reading (log entry 68),
and the code that a member's report carries is its choice (log entry 24). R279: a member takes the batch that has arrived for a partition whose tenancy runs, and reports it to
the lead when its shards are done and its tenancy runs; on the lead a report of the running iteration is kept. -/
def Obligations.Iterations : Prop :=
  (∀ (s : State) (p : Nat),
     let it := (s.iter p).num + 1
     let u := s.noMiss.snapshot p it
     let ends := fun (i : Instr) (b : Batch) => ∃ t, exec i s = .next t ∧
       (t.iter p).batches = (s.iter p).batches.filter (fun x => decide (x.group ≠ b.group)) ∧
       (t.iter p).running = !(t.iter p).batches.isEmpty ∧ (t.iter p).num = (s.iter p).num
     let keeps := fun (i : Instr) => ∀ t, exec i s = .next t → t.contexts = s.contexts ∧ t.models = s.models
     (s.mayIterate p = true →
       (u.xmiss = none → exec (.iterationSnapshot p) s = .next (u.dropAnswers (s.iterKey p)) ∧
         (u.iter p).running = true ∧ (u.iter p).num = it ∧ (u.iter p).rest = false) ∧
       (∀ page, u.xmiss = some page → exec (.iterationSnapshot p) s = .next (s.noMiss.engMiss (s.iterKey p) page))) ∧
     (s.mayIterate p = false → exec (.iterationSnapshot p) s = .next s) ∧
     (∀ b, s.nextBatch p = some b → ends (.iterationCommit p) b ∧ (b.erred = true → keeps (.iterationCommit p))) ∧
     (s.nextBatch p = none → exec (.iterationCommit p) s = .next s) ∧
     (∀ b, s.lateBatch p = some b → ends (.modelGroupTimeout p) b ∧ keeps (.modelGroupTimeout p)) ∧
     (s.lateBatch p = none → exec (.modelGroupTimeout p) s = .next s) ∧
     (s.graceDue p it = true → exec (.gracePeriodEnd p) s = exec (.iterationSnapshot p) s) ∧
     (s.graceDue p it = false → exec (.gracePeriodEnd p) s = .next s) ∧
     s.endGrace p it = { s with
       blocks := s.blocks.filter fun e => !(decide ((s.part p).pbnBase ≤ e.1) && decide (e.1 < (s.part p).pbnLimit) &&
         match e.2.grace with
         | some g => decide (g + 2 ≤ it)
         | none => false)
       contexts := s.contexts.filter fun e => !(e.2.part = p && e.2.st = 2 && decide (e.2.freeAt ≤ it)) } ∧
     (∀ n x, s.nodes.find? (fun x => x.id = n) = some x → exec (.planHoldExpiry n) s = .next { s with
       nodes := s.nodes.map fun y => if y.id = n then { y with holds := y.holds.map fun h =>
         if h.2 ≠ 0 ∧ (h.2 < (s.iter x.part).num ∨ (h.2 = (s.iter x.part).num ∧ (s.iter x.part).running = false))
         then (h.1, 0) else h } else y }) ∧
     (∀ n g, s.agent n = some g → g.st = 1 → g.looked = false → s.startsFor g.part g.ten = true →
       let ps := s.window 8 g.flight [] g.atOldest ⟨[], [], []⟩
       exec (.lookaheadDecode n) s = .next ((ps.foldl (fun s x => s.planFor n x) (s.windowHolds n ps)).modAgent n
         fun g => { g with looked := true }))) ∧
  (∀ (s : State) (p g it : Nat) (f : Flit), s.batchIn.find? (fun f => f.part = p && s.tenRuns p f.ten) = some f →
    f.body = .batch g it → exec (.batchMulticast p) s = .next (State.modIter { s with batchIn := s.batchIn.erase f } p
      fun i => { i with jobs := i.jobs ++ [⟨g, it, f.source, f.port, f.ten, 0⟩] })) ∧
  (∀ (s : State) (p : Nat) (j : ShardJob), (s.iter p).jobs.find? (fun j => s.tenRuns p j.ten) = some j →
    exec (.shardReport p) s = .next (State.send (s.modIter p fun i => { i with jobs := i.jobs.erase j })
      { port := j.port, source := s.moduleNum, module := j.lead, sender := p, part := p, ten := j.ten, key := (s.part p).fabkey, vc := 7
        body := .report j.group j.iter s.moduleNum j.code })) ∧
  ∀ (s : State) (p g it member code : Nat) (f : Flit), (s.iter p).jobs.find? (fun j => s.tenRuns p j.ten) = none →
    s.reportIn.find? (fun f => f.part = p) = some f → f.body = .report g it member code →
    exec (.shardReport p) s = .next (
      let u : State := { s with reportIn := s.reportIn.erase f }
      if (s.iter p).running = true ∧ (s.iter p).num = it then u.modIter p fun i => { i with
        batches := i.batches.map fun b => if b.group = g then { b with reports := b.reports ++ [(member, code)] } else b }
      else u)

/-- R288, R308, R309, R312-R314, R332, R352: writes of partition and module registers. Settings of the iteration engine wait for
the next snapshot, in the order of the writes; a write with a field out of range is ignored whole; so is one of TENCFG that
would take away the tenancy that runs, and one of EINJ while EN is 0. A 1 written to a bit of ENGFRZ unfreezes the context of
the tenancy that runs, if one runs. The model's readings: low bits that an address has not are cleared (log entry 33), the requests
of an unfrozen context keep the ends that they have (log entry 34), and the frames that a write of PTROOT ends are those that the
tenancy maps (log entry 74). -/
def Obligations.RegisterWrites : Prop :=
  ∀ (s : State) (p n : Nat) (v : Word),
    let q := s.part p
    let waits := fun (i : Instr) (sel : Nat) (w : Nat) =>
      exec i s = .next (s.modPart p fun q => { q with pendingCfg := q.pendingCfg ++ [(sel, BitVec.ofNat 64 w)] })
    let lo := v.toNat % 2 ^ 48
    (4096 ≤ bits v 48 32 → bits v 48 32 ≤ 65536 → 1 ≤ bits v 9 0 → bits v 9 0 ≤ 512 →
      waits (.partitionConfigWrite p 0x409 v) 0x409 (bits v 48 32 * 2 ^ 32 + bits v 9 0)) ∧
    ((bits v 48 32 < 4096 ∨ 65536 < bits v 48 32 ∨ bits v 9 0 = 0 ∨ 512 < bits v 9 0) →
      exec (.partitionConfigWrite p 0x409 v) s = .next s) ∧
    (1 ≤ bits v 16 0 → bits v 16 0 ≤ 65536 →
      waits (.partitionConfigWrite p 0x40A v) 0x40A (v.toNat / 2 ^ 32 * 2 ^ 32 + bits v 16 0)) ∧
    waits (.partitionConfigWrite p 0x40B v) 0x40B (v.toNat % 2 ^ 32) ∧
    waits (.modtabWrite p n v) (0x424 + n) (v.toNat / 64 * 64) ∧
    ((∀ e ∈ s.contexts, e.2.part ≠ p) → waits (.agentAreaWrite p 0x429 v) 0x429 (v.toNat / 4 * 4) ∧
      waits (.agentAreaWrite p 0x42A v) 0x42A (lo / 64 * 64)) ∧
    ((∃ e ∈ s.contexts, e.2.part = p) → exec (.agentAreaWrite p n v) s = .next s) ∧
    (bit v 31 = true → (bits v 29 26 = 0 ∨ 12288 ≤ bits v 13 0) → exec (.rtdataWrite p v) s = .next s) ∧
    ((bit v 31 = false ∨ (bits v 29 26 ≠ 0 ∧ bits v 13 0 < 12288)) → exec (.rtdataWrite p v) s = .next (s.modPart p fun q =>
      { q with rank := Table.set q.rank q.rtidx (BitVec.ofNat 64 ((if bit v 31 then 2 ^ 31 else 0) + bits v 29 26 * 2 ^ 26 +
        bits v 18 14 * 2 ^ 14 + bits v 13 0)) })) ∧
    (q.cur < 4 → (bits v 3 0).testBit q.cur = false → exec (.tencfgWrite p v) s = .next s) ∧
    (bits v 3 0 = q.res → (4 ≤ q.cur ∨ q.res.testBit q.cur = true) →
      exec (.tencfgWrite p v) s = .next (s.modPart p fun q => { q with gmask := bits v 11 8 })) ∧
    exec (.ptrootWrite p n v) s = .next (s.modPart p fun q => { q with
      ptroot := Table.set q.ptroot n (BitVec.ofNat 64 (lo / 4096 * 4096)), invals := q.invals ++ [⟨n, true, 0, s.mapsFrames p n⟩]
      xinvSeq := q.xinvSeq + 1 }) ∧
    (bit v 0 = true → exec (.xinvWrite p v) s = .next (s.modPart p fun q => { q with
      invals := q.invals ++ [⟨bits v 3 2, bit v 1, bits v 47 16, []⟩], xinvSeq := q.xinvSeq + 1 })) ∧
    (bit v 0 = false → exec (.xinvWrite p v) s = .next s) ∧
    (bit (s.cluster n).einj 61 = false → exec (.einjWrite n v) s = .next s) ∧
    (bit (s.cluster n).einj 61 = true → exec (.einjWrite n v) s = .next (s.modCluster n fun c => { c with
      einj := BitVec.ofNat 64 (2 ^ 61 + (if bit v 60 = true ∧ (bits v 49 48 = 1 ∨ bits v 49 48 = 2) then 2 ^ 60 else 0) +
        bits v 59 56 * 2 ^ 56 + bits v 49 48 * 2 ^ 48 + lo / 8 * 8) })) ∧
    (∀ e, Table.find? (s.cluster p).elog n = some e → exec (.elogEntryClear p n) s = .next (s.modCluster p fun c =>
      { c with elog := Table.set c.elog n (BitVec.ofNat 64 (e.1.toNat % 2 ^ 63), e.2) })) ∧
    (Table.find? (s.cluster p).elog n = none → exec (.elogEntryClear p n) s = .next (s.modCluster p id)) ∧
    exec (.eventCounterClear p n) s = .next (s.modCore p fun c => { c with events := Table.erase c.events n }) ∧
    (∀ c, c < 8 →
      (∀ k, s.frzKey p n c = some k →
        ((s.engCtx k).frozen = true → exec (.engfrzUnfreeze p n c) s = .next (s.modEngCtx k fun x => { x with frozen := false })) ∧
        ((s.engCtx k).frozen = false → exec (.engfrzUnfreeze p n c) s = .next s)) ∧
      (4 ≤ (s.part n).cur → exec (.engfrzUnfreeze p n c) s = .next s)) ∧
    (p < 1024 → ctlListed n = true → exec (.registerWrite p n v) s = .next (s.writeCtl p n v)) ∧
    (1024 ≤ p → p < 1040 → n % 8 = 0 → exec (.registerWrite p n v) s = .next (s.barWrite (p - 1024) n v))

/-- R316, R317, R325, R326: the commands of the switch machines. ARM checks in the order reserved target 3, not resident 1, save
area 2, and is refused with 4 from HANDOVER on; a disarm in ARMED goes back to IDLE, where a guest in RESTART runs PREPARE again,
which a suspended partition refuses with 5. PREPARE, COMMIT and ABORT of the guest are refused with 3 in a state that does not take
them. The model's readings (log entry 29): an accepted guest command sets ERR to 0, a failed ARM leaves TGT, and GSWCTL.TGT is
written as an RW field by PREPARE and by a write with CMD 0, while a guest switch keeps the target of its PREPARE. -/
def Obligations.SwitchCommands : Prop :=
  ∀ (s : State) (p tgt : Nat) (v : Word),
    let q := s.part p
    let t := bits v 2 0
    let becomes := fun (i : Instr) (f : Part → Part) => exec i s = .next (s.modPart p f)
    becomes (.switchatWrite p v) (fun q => { q with switchat := v }) ∧
    (2 ≤ q.swState → becomes (.swctlArm p v) (fun q => { q with swErr := 4 }) ∧
      becomes (.swctlDisarm p v) (fun q => { q with swErr := 4 })) ∧
    (q.swState = 0 → becomes (.swctlDisarm p v) (fun q => { q with swErr := 0, swTgt := t })) ∧
    (q.swState = 1 → q.gState ≠ 5 →
      becomes (.swctlDisarm p v) (fun q => { q with swErr := 0, swState := 0, loaded := false })) ∧
    (q.swState = 1 → q.gState = 5 → 4 ≤ q.cur → q.gFor < 4 → q.gmask.testBit q.gFor = true → q.res.testBit q.gFor = true →
      becomes (.swctlDisarm p v) (fun q => { q with swErr := 0, swState := 0, loaded := false, gErr := 5, gState := 0 })) ∧
    (q.swState = 0 →
      (4 < t → becomes (.swctlArm p v) (fun q => { q with swErr := 3, swState := 0, loaded := false })) ∧
      (t < 4 → q.res.testBit t = false →
        becomes (.swctlArm p v) (fun q => { q with swErr := 1, swState := 0, loaded := false }))) ∧
    (q.swState < 2 → t < 4 → q.res.testBit t = true → s.saveOk p t = true → (q.cur < 4 → s.saveOk p q.cur = true) →
      ∃ u, exec (.swctlArm p v) s = .next u ∧ (u.part p).swErr = 0 ∧ (u.part p).swTgt = t ∧ (u.part p).swState = 1 ∧
        (u.part p).loaded = false ∧ (u.part p).cur = q.cur ∧
        (u.part p).gState = if q.gState = 1 ∨ q.gState = 2 then 5 else q.gState) ∧
    (q.gState = 2 → becomes (.gswCommit p) (fun q => { q with
      gErr := 0, gState := 3, gBound := BitVec.ofNat 64 (max q.gswtime.toNat s.ftime) })) ∧
    (q.gState ≠ 2 → becomes (.gswCommit p) (fun q => { q with gErr := 3 })) ∧
    ((q.gState = 1 ∨ q.gState = 2 ∨ q.gState = 5) → becomes (.gswAbort p) (fun q => { q with gErr := 0, gState := 0 })) ∧
    (q.gState ≠ 1 → q.gState ≠ 2 → q.gState ≠ 5 → becomes (.gswAbort p) (fun q => { q with gErr := 3 })) ∧
    (q.gState ≠ 0 → q.gState ≠ 2 → becomes (.gswPrepare p tgt) (fun q => { q with gErr := 3 })) ∧
    ((q.gState = 0 ∨ q.gState = 2) → tgt < 4 → (q.gmask.testBit tgt = false ∨ q.res.testBit tgt = false) →
      becomes (.gswPrepare p tgt) (fun q => { q with gErr := 1, gTgt := tgt })) ∧
    ((q.gState = 0 ∨ q.gState = 2) → tgt < 4 → q.gmask.testBit tgt = true → q.res.testBit tgt = true → q.cur ≠ tgt → q.cur < 4 →
      s.saveOk p tgt = true → s.saveOk p q.cur = true →
      becomes (.gswPrepare p tgt) (fun q => { q with gErr := 0, gTgt := tgt, gFor := tgt, gState := if q.swState = 0 then 1 else 5 })) ∧
    (bits v 4 3 = 0 → s.writeGswctl p v = s.modPart p fun q => { q with gTgt := bits v 1 0 })

/-- R317-R321, R326: how a switch goes on. A preload completes; at T an armed switch to another tenancy starts the handover, and
one to the tenancy that runs ends at once; a slot that changes hands is held back until its turn; with every slot handed over,
the outgoing tenancy's work settled and the preload complete, CUR becomes the target. While the save area holds what the tenancy's
save wrote, the preload gives back exactly that; what it reads from an area that holds something else are free values (the model's
choice, log entry 30). -/
def Obligations.SwitchProgress : Prop :=
  ∀ (s : State) (p : Nat),
    let q := s.part p
    (q.gState = 1 → ∃ t, exec (.preloadComplete p) s = .next t ∧ t.part p = { q with gState := 2 } ∧ t.hbm = s.hbm ∧
      (s.areaHolds p q.gFor = true → t = s.modPart p fun q => { q with gState := 2 })) ∧
    (q.gState ≠ 1 → q.swState = 1 → q.loaded = false →
      ∃ t, exec (.preloadComplete p) s = .next t ∧ t.part p = { q with loaded := true } ∧ t.hbm = s.hbm ∧
      (4 ≤ q.swTgt ∨ s.areaHolds p q.swTgt = true → t = s.modPart p fun q => { q with loaded := true })) ∧
    (q.swState = 1 → q.switchat.toNat ≤ s.ftime → q.swTgt = q.cur → q.gState ≠ 5 → exec (.switchTimeReached p) s =
      .next (s.modPart p fun q => { q with swState := 0, loaded := false })) ∧
    (q.swState = 1 → q.switchat.toNat ≤ s.ftime → q.swTgt ≠ q.cur → q.gState ≠ 3 → q.gState ≠ 4 →
      ∃ t, exec (.switchTimeReached p) s = .next t ∧ (t.part p).swState = 2 ∧ (t.part p).incoming = q.swTgt ∧
        (t.part p).handed = [] ∧ (t.part p).cur = q.cur ∧ t.threads = s.threads) ∧
    (s.handsOver p = true →
      ∃ t, exec (.slotHandover p) s = .next t ∧ (t.part p).handed = q.handed ++ [s.cycle % 16] ∧
        (q.swState = 2 → (t.part p).swState = if ∀ i, i < 16 → q.pslots.testBit i = true → i ∈ q.handed ++ [s.cycle % 16]
          then 3 else 2)) ∧
    (s.handsOver p = false → exec (.slotHandover p) s = .next s) ∧
    (q.swState = 3 → q.loaded = true → s.drainDone p = true → q.gState ≠ 5 →
      ∃ t, exec (.switchComplete p) s = .next t ∧ (t.part p).swState = 0 ∧ (t.part p).cur = q.incoming) ∧
    (q.swState ≠ 3 → q.gState = 4 → s.drainDone p = true →
      ∃ t, exec (.switchComplete p) s = .next t ∧ (t.part p).gState = 0 ∧ (t.part p).cur = q.incoming)

/-- R22, R75, R76, R287: the root slots. With no entry to take up, THREAD_START starts the next thread of the first entry that
allows one: SEED0-SEED3, its index and SIZE in x10-x15, its pc that of the record, ready no earlier than the next cycle. A
population whose threads have all exited is gone, its size stored to its DONE word by an STF and its packet complete; that the STF
is that of the root slot of the core that holds the word is the model's choice (log entry 79).
LOAD_BALANCE_EXCHANGE moves from a queue that is alone in holding entries, more than 8 of them, the youngest quarter to the
first neighbour; with no entry queued it moves none. R305-R307: the wait-cycle probe. A tick sends a probe for each thread that
has waited for 10 ms; with none, it sends none. A probe that comes back to its origin while each thread of its path waits for
the next one freezes each of them with class 14; one that meets a thread without an edge, a thread of its path, or 64 threads
ends; any other goes on. -/
def Obligations.LaunchesAndProbes : Prop :=
  ((∀ (s : State) (core sid : Nat) (e : LaunchEntry) (p : Population),
     (∀ x ∈ (s.core core).launch, x.taken = true ∨ s.startsFor x.part x.ten = false) →
     (s.core core).launch.find? (fun e => s.canStart e sid) = some e → Table.find? s.pops e.pop = some p → 1024 ≤ s.nextUid →
     ∃ t, exec (.threadStart core sid) s = .next t ∧ t.alive s.nextUid = true ∧ t.nextUid = s.nextUid + 1 ∧
       Table.find? t.slots sid = some s.nextUid ∧
       Table.find? t.pops e.pop = some { p with started := p.started + 1 } ∧
       (let th := t.thr s.nextUid
        th.sid = sid ∧ th.part = p.part ∧ th.ten = p.ten ∧ th.pc = p.pc ∧ th.index = p.started ∧ th.notBefore = s.cycle + 1 ∧
        (∀ i, i < 4 → th.getX (10 + i) = ⟨p.seeds.getD i 0, true, false, false⟩) ∧
        th.getX 14 = ⟨BitVec.ofNat 64 p.started, true, false, false⟩ ∧
        th.getX 15 = ⟨BitVec.ofNat 64 p.size, true, false, false⟩ ∧
        (∀ r, (r < 10 ∨ 16 ≤ r) → th.getX r = ⟨0, true, false, false⟩) ∧ th.getP 0 = BitVec.allOnes 256 ∧
        (∀ r, r ≠ 0 → th.getP r = 0)) ∧
       t.hbm = s.hbm ∧ t.pad = s.pad) ∧
   (∀ (s : State) (pop : Nat) (p : Population), Table.find? s.pops pop = some p → p.size ≠ 0 → p.exited = p.size →
     let u : State := { s with pops := Table.erase s.pops pop }
     let size := BitVec.ofNat 64 p.size
     (p.done = 0 → exec (.populationComplete pop) s = .next (u.completeIf p.packet size)) ∧
     ∀ c off, s.popDone p = some (c, off) → s.bankRoom c off = true →
       exec (.populationComplete pop) s = .next ((u.rootStf (c % 1024) c off size).completeIf p.packet size)) ∧
   (∀ (s : State), (∀ e ∈ s.cores, e.2.launch = []) →
     exec .loadBalanceExchange s = .next { s with balances := s.ftime / 64000 }) ∧
   ∀ (s : State) (core nb : Nat), core < 1024 → (s.cores.filter fun e => !e.2.launch.isEmpty) = [(core, s.core core)] →
     (neighbours core).head? = some nb → (∀ e ∈ (s.core core).launch, e.taken = true ∧ e.cores = 255) →
     let l := s.unstarted core
     8 < l.length → l.length ≤ 64 →
     ∃ t, exec .loadBalanceExchange s = .next t ∧ t.balances = s.ftime / 64000 ∧
       (t.core nb).launch = (l.drop (l.length - l.length / 4)).map (fun e => { e with g := nb / 8 }) ∧
       t.threads = s.threads ∧ t.hbm = s.hbm ∧ t.pad = s.pad) ∧
  (∀ (s : State),
    let old := (s.threads.filter fun e => decide (e.2.waitSince + 11000000 ≤ s.cycle) && !(s.edges e.1).isEmpty).map (·.1)
    (old = [] → exec .waitProbeTick s = .next { s with ticks := s.ftime / 10000000 }) ∧
    ∃ u, exec .waitProbeTick s = .next u ∧ u.ticks = s.ftime / 10000000 ∧ u.threads = s.threads ∧ u.pad = s.pad ∧ u.hbm = s.hbm ∧
      ∀ c, (u.core c).probes = (s.core c).probes ++ old.flatMap fun t => ((s.edges t).eraseDups.filter fun w =>
        s.alive w = true ∧ (s.thr w).sid / 16 = c).map fun w => ⟨[t], w⟩) ∧
  ∀ (s : State) (core : Nat) (p : Probe) (rest : List Probe), (s.core core).probes = p :: rest →
    let u := s.modCore core fun c => { c with probes := rest }
    (s.edges p.dst = [] → exec (.waitProbeArrival core) s = .next u) ∧
    (s.edges p.dst ≠ [] → p.path.length < 64 → p.path.head? = some p.dst →
      let stands := ∀ e ∈ p.path.zip (p.path.drop 1 ++ p.path.take 1),
        s.alive e.1 = true ∧ ((s.thr e.1).frozen ≠ none ∨ e.2 ∈ s.edges e.1)
      (stands → exec (.waitProbeArrival core) s = .next (p.path.foldl (fun s t => s.waitCycle p.path.length p.dst t) u)) ∧
      (¬ stands → exec (.waitProbeArrival core) s = .next u)) ∧
    (p.path.head? ≠ some p.dst → p.dst ∈ p.path → exec (.waitProbeArrival core) s = .next u) ∧
    (64 ≤ p.path.length → exec (.waitProbeArrival core) s = .next u) ∧
    (s.edges p.dst ≠ [] → p.dst ∉ p.path → p.path.length < 64 →
      exec (.waitProbeArrival core) s = .next (u.sendProbes (p.path ++ [p.dst]) p.dst))

/-- R331, R333: the translation service core serves the oldest miss of its cluster: its leaf reaches the cluster's TLB, or each
waiting thread and engine context holds the walk's failure. INVALIDATION_COMPLETE takes what it covers out of every TLB and
raises DONE by one, once every translated access of the tenancy is performed. R334, R345: XLAT_RESUME and XLAT_SKIP of a thread
that a translation trap froze let it go on at once: RESUME at the instruction, SKIP of a load behind it with the host's value in
its register. XLAT_KILL ends the thread. -/
def Obligations.Translation : Prop :=
  ((∀ (s : State) (g : Nat) (m : Miss) (rest : List Miss), (s.cluster g).misses = m :: rest →
     let threads := fun (l : List Requester) => ∀ w ∈ l, ∃ x, w = .thread x
     let hears := fun (t : State) (q : Miss) (a : Answer) => ∀ x, .thread x ∈ q.waiters → s.alive x = true →
       (s.thr x).saved = false → a ∈ (t.thr x).answers
     (∀ c, s.walk m.part m.ten (m.page * 65536) = .error c →
       exec (.translationAnswer g) s = .next ((((s.noteWalk g m).modCluster g fun cl => { cl with misses := rest }).tellWaiters m
         ⟨m.page, c, noLeaf⟩).admitNext g) ∧
       (threads m.waiters → threads (s.cluster g).admitted →
         ∃ t, exec (.translationAnswer g) s = .next t ∧ (t.cluster g).misses = rest ∧ (t.cluster g).tlb = (s.cluster g).tlb ∧
           hears t m ⟨m.page, c, noLeaf⟩ ∧ t.hbm = s.hbm ∧ t.pad = s.pad)) ∧
     (∀ l, s.walk m.part m.ten (m.page * 65536) = .ok l → l.covers (m.page * 65536) = true →
       exec (.translationAnswer g) s = .next (((s.noteWalk g m).fillTlbs g m l).admitNext g) ∧
       ((∀ q ∈ (s.cluster g).misses, threads q.waiters) → threads (s.cluster g).admitted →
         ∃ t, exec (.translationAnswer g) s = .next t ∧ ⟨m.part, m.ten, l⟩ ∈ (t.cluster g).tlb ∧ m ∉ (t.cluster g).misses ∧
           t.hbm = s.hbm ∧ t.pad = s.pad))) ∧
   ∀ (s : State) (p : Nat) (i : Inval) (rest : List Inval), (s.part p).invals = i :: rest → s.drained p i.ten = true →
     ∃ t, exec (.invalidationComplete p) s = .next t ∧ (t.part p).invals = rest ∧
       (t.part p).xinvDone = (s.part p).xinvDone + 1 ∧ t.hbm = s.hbm ∧ t.pad = s.pad ∧
       (∀ k e, e ∈ (t.core k).tlb → ¬ (e.part = p ∧ e.ten = i.ten ∧ i.covers e.leaf = true)) ∧
       ∀ g e, e ∈ (t.cluster g).tlb → ¬ (e.part = p ∧ e.ten = i.ten ∧ i.covers e.leaf = true)) ∧
  ∀ (s : State) (v : Word) (core t : Nat), s.xansThread v = some (core, t) →
    (∃ u, exec (.xlatResume v) s = .next u ∧ (u.thr t).frozen = none ∧ (u.thr t).pc = (s.thr t).pc ∧ (u.thr t).x = (s.thr t).x ∧
      (u.thr t).latch = true ∧ u.hbm = s.hbm ∧ u.pad = s.pad ∧ ∀ o, o ≠ t → u.thr o = s.thr o) ∧
    (∀ r i rd n, (s.thr t).record = some r → recInsn r = some i → skipTarget i = some (rd, n) →
      ∃ u, exec (.xlatSkip v) s = .next u ∧ (u.thr t).frozen = none ∧ (u.thr t).pc = r.getD 1 0 + BitVec.ofNat 64 n ∧
        (rd ≠ 0 → (u.thr t).getX rd = ⟨s.xansval, true, false, false⟩) ∧ (∀ q, q ≠ rd → (u.thr t).getX q = (s.thr t).getX q) ∧
        u.hbm = s.hbm ∧ u.pad = s.pad) ∧
    (1024 ≤ t → (s.thr t).groups = [] → Table.find? s.pops (s.thr t).pop = none → Quiet s →
      ∃ u, exec (.xlatKill v) s = .next u ∧ u.alive t = false ∧ u.hbm = s.hbm ∧ u.pad = s.pad)

/-- R341-R343: a good packet at HEAD of a queue that may start one takes its effect and completes, with the status that R342
gives: a SIGNAL raises its host timeline, or delivers its event; a WAITTL completes once its timeline has reached the value;
SWITCHAT writes SWITCHAT and SWCTL of the queue's partition; a COPY whose footprints meet answers OVERLAP. A LAUNCH or FAULT
packet places a launch entry; AGENTSTART waits while every agent number is taken or the region has no room for the agent's
memory. R343: a malformed packet, whatever its event, goes as a FAULT packet to the sibling queue, or with none completes with
the status 0x8000_0000_0000_0001 + cause × 2^16 and puts its queue in ERROR. No packet starts in a queue that may not start one.
The model's readings: a FAULT packet's handler is launched in the partition's cluster GLO (log entry 20, its choice), a COPY packet's
OVERLAP is that of its two runs of bytes (log entry 37), and an agent's memory is a frame that nothing of its partition names (log
entry 23). -/
def Obligations.PacketResults : Prop :=
  (∀ (s : State) (q : Nat) (ws : List Word), s.startable q = some ws → s.malformed q ws = 0 →
     let w := fun i => ws.getD i 0
     let fn := q / 16
     let p := s.queuePart q
     let u := s.startPkt q ws
     let pk := (q, (s.subq q).num)
     (pktType ws = 4 → (s.subq q).flight = [] → bit (w 1) 63 = false →
       let n := bits (w 1) 15 0
       let v := BitVec.ofNat 64 (max (s.htl fn n).toNat (w 2).toNat)
       exec (.signalTimeline q) s = .next (State.completePacket { u with htls := Table.set u.htls (fn * 16 + n) v } pk 0)) ∧
     (pktType ws = 4 → (s.subq q).flight = [] → bit (w 1) 63 = true → s.takesEvents (bits (w 1) 15 0) = true →
       exec (.signalEvent q) s = .next ((u.deliverEvent (bits (w 1) 15 0) (bits (w 3) 31 0) (w 2)).completePacket pk 0)) ∧
     (pktType ws = 4 → (s.subq q).flight ≠ [] → exec (.signalTimeline q) s = .next s ∧ exec (.signalEvent q) s = .next s) ∧
     (pktType ws = 5 → (w 2).toNat ≤ (s.htl fn (bits (w 1) 3 0)).toNat → exec (.waittlPacket q) s = .next (u.completePacket pk 0)) ∧
     (pktType ws = 5 → (s.htl fn (bits (w 1) 3 0)).toNat < (w 2).toNat → exec (.waittlPacket q) s = .next s) ∧
     (pktType ws = 6 →
       let v := (State.modPart u p fun x => { x with switchat := w 1 }).writeSwctl p (w 2)
       exec (.switchatPacket q) s = .next (v.completePacket pk (v.part p).swctl)) ∧
     (pktType ws = 3 → footprintsMeet (w 1).toNat 0 (w 2).toNat 0 1 (w 3).toNat = true →
       exec (.copyPacket q) s = .next (u.completePacket pk (BitVec.ofNat 64 (2 ^ 63 + 5)))) ∧
     (pktType ws = 3 → footprintsMeet (w 1).toNat 0 (w 2).toNat 0 1 (w 3).toNat = false →
       let x := Xfer.move ⟨0, p, (s.subq q).ten, 140, none⟩ (w 1).toNat (w 2).toNat (w 3).toNat ⟨u, [], 0, 0⟩
       exec (.copyPacket q) s = .next (x.s.completePacket pk (if x.code ≠ 0 then BitVec.ofNat 64 (2 ^ 63 + x.code) else w 3))) ∧
     (∀ i g a seeds, ((i = Instr.launchPacket q ∧ pktType ws = 1 ∧ g = bits (w 2) 6 0 ∧ a = w 1 ∧ seeds = []) ∨
         (i = .faultPacket q ∧ pktType ws = 0x80 ∧ g = (s.part p).glo ∧ a = BitVec.ofNat 64 (s.subq q).hnd ∧
           seeds = [w 1, w 2, w 3, w 4])) →
       let c := s.launchCore g p (s.subq q).ten a.toNat
       (64 ≤ (s.core c).launch.length → exec i s = .next s) ∧
       ((s.core c).launch.length < 64 → ∃ t, exec i s = .next t ∧ t.nextPop = s.nextPop + 1 ∧
         (t.core c).launch = (s.core c).launch ++ [⟨s.nextPop + 1, a, p, (s.subq q).ten, c / 8, 0, false, seeds, some pk⟩] ∧
         (t.subq q).head = ((s.subq q).head + 1) % 2 ^ 32 ∧ t.hbm = s.hbm ∧ t.pad = s.pad ∧ t.threads = s.threads)) ∧
     (pktType ws = 2 → (∀ n b, s.freeAgent = some n → s.agentFrame p = some b →
         exec (.agentstart q) s = .next (s.startAgent q n b ws)) ∧
       ((s.freeAgent = none ∨ s.agentFrame p = none) → exec (.agentstart q) s = .next s))) ∧
  ∀ (s : State) (q : Nat) (i : Instr), i ∈ [Instr.launchPacket q, .agentstart q, .copyPacket q, .signalTimeline q, .signalEvent q,
      .waittlPacket q, .switchatPacket q, .faultPacket q] →
    (s.startable q = none → exec i s = .next s) ∧
    ∀ ws c, s.startable q = some ws → c = s.malformed q ws → c ≠ 0 → (s.subq q).sib = q % 16 → (s.subq q).flight = [] →
      ∃ t, exec i s = .next t ∧ (t.subq q).st = 2 ∧ (t.subq q).flight = [] ∧ (t.subq q).head = ((s.subq q).head + 1) % 2 ^ 32 ∧
        Table.get t.cqHeld (s.boundFn (s.queuePart q)) [] = Table.get s.cqHeld (s.boundFn (s.queuePart q)) [] ++ [[BitVec.ofNat 64
          (2 ^ 56 + (s.subq q).ten % 4 * 2 ^ 20 + s.queuePart q % 16 * 2 ^ 16), BitVec.ofNat 64 (q % 16 * 2 ^ 32 + (s.subq q).head),
          BitVec.ofNat 64 (2 ^ 63 + c * 2 ^ 16 + 1), BitVec.ofNat 64 (pktTag ws), 0, 0, 0, 0]] ∧
        t.hbm = s.hbm ∧ t.pad = s.pad

/-- R339, R340, R344, R347: submission and completion queues. A doorbell within the ring moves TAIL; an oversized one puts the
queue in ERROR and posts a QERROR record; SQCTL with valid settings activates a DISABLED queue, and STATE 0 disables a queue.
The oldest held record goes to TAIL of its function's ring with SEQ, and TAIL moves on. R338, R347: a host write of 8 bytes
within its function's window changes those bytes of HBM and no other; one outside it is a breach, for which Taproot freezes the
function and posts a record, whose operands are the model's choice (log entry 70). A frozen function changes nothing. That SQPTR is
checked in every state of its queue, that STATE 1 writes the other fields too, and that a host access has 8 bytes, are the model's
readings (log entry 38). -/
def Obligations.HostQueues : Prop :=
  (∀ (s : State) (q fn : Nat) (v : Word),
     let x := s.subq q
     let tail := v.toNat / 2 ^ 32
     let big := 2 ^ x.log < (tail + 2 ^ 32 - x.head) % 2 ^ 32 ∨ 2 ^ x.log < (tail + 2 ^ 32 - x.tail) % 2 ^ 32
     (x.hq = true → exec (.sqptrWrite q v) s = .next s) ∧
     (x.hq = false → ¬ big → exec (.sqptrWrite q v) s = .next (s.modSubq q fun x => { x with tail := tail })) ∧
     (x.hq = false → big → ∃ t, exec (.sqptrWrite q v) s = .next t ∧ t.subq q = { x with st := 2 } ∧
       Table.get t.cqHeld (s.boundFn (s.queuePart q)) [] = Table.get s.cqHeld (s.boundFn (s.queuePart q)) [] ++ [[BitVec.ofNat 64 (7 * 2 ^ 56 + x.ten % 4 * 2 ^ 20 +
         s.queuePart q % 16 * 2 ^ 16), BitVec.ofNat 64 (q % 16), BitVec.ofNat 64 tail, BitVec.ofNat 64 x.head, 0, 0, 0, 0]]) ∧
     exec (.sqDisable q) s = .next (s.modSubq q fun x => { x with st := 0, head := 0, tail := 0 }) ∧
     (x.st = 0 → bits v 9 8 = 1 → 4 ≤ bits v 3 0 → bits v 3 0 ≤ 12 → s.ringOk fn x.base (64 * 2 ^ bits v 3 0) = true → fn = q / 16 →
       bits v 23 20 = q % 16 → exec (.sqActivate q v) s = .next (s.modSubq q fun x => { x with
         part := if fn = 0 then bits v 27 24 else x.part, sib := bits v 23 20, hq := bit v 18, ten := bits v 17 16
         log := bits v 3 0, st := 1 })) ∧
     ∀ r rest, Table.get s.cqHeld fn [] = r :: rest → s.cqRoom fn = true →
       let c := s.cq fn
       let w0 := (r.getD 0 0).toNat + c.tail % 65536
       w0 / 2 ^ 56 ≠ 3 →
       ∃ t, exec (.completionRecordWrite fn) s = .next t ∧ Table.get t.cqHeld fn [] = rest ∧
         t.cq fn = { c with tail := (c.tail + 1) % 2 ^ 32 } ∧ t.pad = s.pad ∧ t.threads = s.threads ∧
         t.hbm = (s.writeHbm ⟨0, fn, 0, 140⟩ (c.base + 64 * (c.tail % 2 ^ c.log))
           ((BitVec.ofNat 64 w0 :: r.drop 1).flatMap fun w => leBytes 8 w.toNat)).hbm) ∧
  ∀ (s : State) (fn a : Nat) (v : Word),
    (fn ∈ s.frozenFns → ∀ wr, exec (.hostMemoryAccess fn a wr v) s = .next s) ∧
    (fn ∉ s.frozenFns → s.ringOk fn a 8 = false → ∀ wr, ∃ t, exec (.hostMemoryAccess fn a wr v) s = .next t ∧
      fn ∈ t.frozenFns ∧ t.hbm = s.hbm ∧ t.threads = s.threads ∧ Table.get t.cqHeld 0 [] = Table.get s.cqHeld 0 [] ++
        [[BitVec.ofNat 64 (9 * 2 ^ 56), 1, BitVec.ofNat 64 fn, 0, 0, 0, 0, 0]]) ∧
    (fn ∉ s.frozenFns → s.ringOk fn a 8 = true →
      (∃ t, exec (.hostMemoryAccess fn a false v) s = .next t ∧ t.hbm = s.hbm ∧ t.pad = s.pad ∧ t.threads = s.threads) ∧
      (∃ t, exec (.hostMemoryAccess fn a true v) s = .next t ∧ t.pad = s.pad ∧ t.threads = s.threads ∧
          ∀ h, Memory.read t.hbm h = if a ≤ h ∧ h < a + 8 then BitVec.ofNat 8 (v.toNat / 256 ^ (h - a)) else Memory.read s.hbm h))

/-- R158, R346, R354: POWER_ON measures the boot code and the first image copy that verifies, loads it, sets FWROOT and releases the
module, whose cycle count starts, or enters recovery; a later one changes nothing. HEALTH_UPDATE, once an hour, gives each figure anew,
its prediction 0xFFFF days in the first 72 hours and at most 0xFFFE after; a stack's drift is its corrected errors per day. The
constants of SHA-256 and the bytes of the firmware are not in the spec (log entry 40); that a stack's drift is an average since the
cores were released is the model's choice (log entry 76). -/
def Obligations.PowerOnAndHealth : Prop :=
  (∀ (s : State), s.booted = false → s.recov = false →
    let ext := fun (m d : BitVec 256) => sha256 (leBytes 32 m.toNat ++ leBytes 32 d.toNat)
    (∀ i, s.flash.find? (fun i => i.valid && decide (s.fuseSvn ≤ i.svn)) = some i →
      ∃ t, exec .powerOn s = .next t ∧ t.booted = true ∧ t.running = some i ∧ t.fwroot = i.fwroot ∧ t.cycle = 0 ∧
        t.measure 0 = ext (s.measure 0) Config.romDigest ∧ t.measure 1 = ext (s.measure 1) i.digest ∧
        t.measure 2 = ext (s.measure 2) i.micro ∧ t.measure 3 = ext (s.measure 3) i.xlat ∧
        t.hbm = Memory.writeBytes s.hbm i.base ((List.range (i.limit - i.base)).map (Config.firmwareByte i.digest))) ∧
    (s.flash.find? (fun i => i.valid && decide (s.fuseSvn ≤ i.svn)) = none →
      ∃ t, exec .powerOn s = .next t ∧ t.booted = false ∧ t.recov = true ∧ t.hbm = s.hbm ∧
        t.measure 0 = ext (s.measure 0) Config.romDigest)) ∧
  (∀ (s : State), (s.booted = true ∨ s.recov = true) → exec .powerOn s = .next s) ∧
  ∀ (s : State),
    let due := (s.healthHours + 1) * 3600 * 10 ^ 9 ≤ s.ftime - s.ftimeBase
    (s.booted = true → due → ∃ t, exec .healthUpdate s = .next t ∧ t.health.length = 136 ∧ t.healthHours = s.healthHours + 1 ∧
      t.hbm = s.hbm ∧ t.threads = s.threads ∧
      (s.ftime - s.ftimeBase < 72 * 3600 * 10 ^ 9 → t.life.toNat % 2 ^ 16 = 0xFFFF) ∧
      (72 * 3600 * 10 ^ 9 ≤ s.ftime - s.ftimeBase → t.life.toNat % 2 ^ 16 ≤ 0xFFFE) ∧
      ∀ k, k < 8 → Table.find? t.health (128 + k) = some (BitVec.ofNat 64
        (min (Table.get s.stackErrs k 0 * 24 / (s.healthHours + 1)) 0xFFFF * 2 ^ 16))) ∧
    (s.booted = false ∨ ¬ due → exec .healthUpdate s = .next s)

/-- R310, R314, R346-R350: mailbox commands. Each but ATTEST is the PF's: from a VF it ends with code 4 and freezes the VF (the freezing
is the model's reading, log entry 38). A block outside the function's region ends a command with code 1, but for one whose right lacks
(the model's choice, log entry 88). PSET of bounds that clash answers 3, and malformed ones 1; of a new partition it leaves its
registers at the reset values under those bounds; PDESTROY takes a partition away, whose state is then that of a fresh one (the
model's reading, log entry 39); both extend MEAS4 by the SHA-256 of their block. EXTEND extends MEAS5-MEAS7; UNFREEZE lets a VF go on;
STAGE keeps a good image of no lower SVN; COMMIT makes the staged image the running one, at once in recovery and else once every root
slot is quiet (what quiet is, is the model's choice, log entry 70), and extends MEAS5 by it. ATTEST writes the report and a signature
of its SHA-256 into the block. -/
def Obligations.TaprootCommands : Prop :=
  (∀ (s : State) (fn : Nat) (img : Image) (b : Bounds) (n : Nat) (d : BitVec 256) (i : Instr), fn ≠ 0 → fn ∉ s.frozenFns →
    s.commitWait = false →
    i ∈ [Instr.tpStage fn img, .tpCommit fn, .pset fn b, .pdestroy fn n, .extend fn n d, .unfreeze fn n] →
    ∃ t, exec i s = .next t ∧ Table.find? t.tpstat fn = some 4 ∧ fn ∈ t.frozenFns ∧ t.hbm = s.hbm ∧ t.parts = s.parts ∧
      t.meas = s.meas ∧ t.staged = s.staged ∧ t.running = s.running) ∧
  ∀ (s : State) (img : Image) (b : Bounds) (n : Nat) (d : BitVec 256), s.commitWait = false →
    let code := fun (i : Instr) (c : Nat) => exec i s = .next { s with tpstat := Table.set s.tpstat 0 c }
    let at_ := (Table.get s.tparg 0 0).toNat
    let inside := fun c => s.ringOk 0 at_ (Config.blockLen c) = true
    let ext := fun (m d : BitVec 256) => sha256 (leBytes 32 m.toNat ++ leBytes 32 d.toNat)
    let blockHash := fun c => sha256 (s.rawBytes at_ (Config.blockLen c))
    let stored := Memory.writeBytes s.hbm img.base ((List.range (img.limit - img.base)).map (Config.firmwareByte img.digest))
    (s.booted = false → s.staged = some img → ∃ t, exec (.tpCommit 0) s = .next t ∧ t.booted = true ∧ t.recov = false ∧
      t.running = some img ∧ t.staged = none ∧ t.fwroot = img.fwroot ∧ t.measure 1 = ext (s.measure 1) img.digest ∧
      t.measure 5 = ext (s.measure 5) img.digest ∧ Table.find? t.tpstat 0 = some 0 ∧ t.hbm = stored) ∧
    (s.booted = true →
    (∀ x ∈ [(1, Instr.tpStage 0 img), (4, .pset 0 b), (5, .pdestroy 0 n), (6, .extend 0 n d), (7, .unfreeze 0 n)],
      ¬ inside x.1 → code x.2 1) ∧
    (inside 4 →
      (Bounds.ok b = false → code (.pset 0 b) 1) ∧
      (Bounds.ok b = true → s.disjoint b = false → code (.pset 0 b) 3) ∧
      (Bounds.ok b = true → s.disjoint b = true → (s.part b.part).pslots = 0 → s.residencies = [] →
        ∃ t, exec (.pset 0 b) s = .next t ∧ t.part b.part = Bounds.apply b freshPart ∧ Table.find? t.tpstat 0 = some 0 ∧
          t.measure 4 = ext (s.measure 4) (blockHash 4))) ∧
    (inside 5 →
      ((n = 0 ∨ 15 < n ∨ (s.part n).pslots = 0) → code (.pdestroy 0 n) 1) ∧
      (1 ≤ n → n ≤ 15 → (s.part n).pslots ≠ 0 → s.residencies = [] →
        ∃ t, exec (.pdestroy 0 n) s = .next t ∧ t.part n = freshPart ∧ Table.find? t.tpstat 0 = some 0 ∧
          t.measure 4 = ext (s.measure 4) (blockHash 5) ∧ ∀ e ∈ t.threads, e.2.part ≠ n ∨ 4 ≤ e.2.ten)) ∧
    (inside 6 →
      ((n < 5 ∨ 7 < n) → code (.extend 0 n d) 1) ∧
      (5 ≤ n → n ≤ 7 → exec (.extend 0 n d) s = .next { s with
        tpstat := Table.set s.tpstat 0 0, meas := Table.set s.meas n (ext (s.measure n) d) })) ∧
    (inside 7 →
      ((n = 0 ∨ 15 < n) → code (.unfreeze 0 n) 1) ∧
      (1 ≤ n → n ≤ 15 → exec (.unfreeze 0 n) s = .next { s with
        tpstat := Table.set s.tpstat 0 0, frozenFns := s.frozenFns.filter (· ≠ n) })) ∧
    (inside 1 →
      (img.valid = true → s.fuseSvn ≤ img.svn → (∀ r, s.running = some r → r.svn ≤ img.svn) →
        ∃ t, exec (.tpStage 0 img) s = .next t ∧ t.staged = some img ∧ Table.find? t.tpstat 0 = some 0 ∧ t.running = s.running) ∧
      ((img.valid = false ∨ img.svn < s.fuseSvn ∨ ∃ r, s.running = some r ∧ img.svn < r.svn) → code (.tpStage 0 img) 2)) ∧
    (s.staged = some img → s.quiet = true → ∃ t, exec (.tpCommit 0) s = .next t ∧ t.running = some img ∧ t.staged = none ∧
      t.fwroot = img.fwroot ∧ Table.find? t.tpstat 0 = some 0 ∧ t.measure 1 = ext 0 img.digest ∧
      t.measure 5 = ext (s.measure 5) img.digest ∧ t.stopped = [] ∧ t.hbm = stored) ∧
    (s.staged = some img → s.quiet = false → exec (.tpCommit 0) s = .next { s with commitWait := true }) ∧
    let a := (Table.get s.tparg n 0).toNat
    (s.ringOk n a 792 = false → exec (.attest n) s = .next { s with tpstat := Table.set s.tpstat n 1 }) ∧
    (s.ringOk n a 792 = true → ∃ t, exec (.attest n) s = .next t ∧ Table.find? t.tpstat n = some 0 ∧
      let r := s.report n (s.rawBytes a 32)
      r.length = 344 ∧ t.hbm = Memory.writeBytes s.hbm (a + 64) (r ++ (List.range 384).map (Config.signature (sha256 r)))))
end

