-- ==== Sys2Proof/Laws/Table.lean ====
section
/-! SUPPORT. Sys2Proof/Laws/Table.lean: read after write on sparse maps, and the order of keys. -/

namespace Sys2Proof.Machine

variable {α : Type}

@[simp] theorem Table.find_nil (k : Nat) : Table.find? ([] : Table α) k = none := rfl

@[simp] theorem Table.find_set_same (t : Table α) (k : Nat) (v : α) : Table.find? (Table.set t k v) k = some v := by
  induction t with
  | nil => simp [Table.set, Table.find?]
  | cons e t ih =>
    obtain ⟨k', v'⟩ := e
    unfold Table.set
    split
    · simp [Table.find?]
    · split
      · simp [Table.find?]
      · rename_i h
        simp [Table.find?, Ne.symm h, ih]

theorem Table.find_set_other (t : Table α) {j k : Nat} (v : α) (h : j ≠ k) :
    Table.find? (Table.set t k v) j = Table.find? t j := by
  induction t with
  | nil => simp [Table.set, Table.find?, Ne.symm h]
  | cons e t ih =>
    obtain ⟨k', v'⟩ := e
    unfold Table.set
    split
    · simp [Table.find?, Ne.symm h]
    · split
      · rename_i h'
        subst h'
        simp [Table.find?, Ne.symm h]
      · simp [Table.find?, ih]

@[simp] theorem Table.get_set_same (t : Table α) (k : Nat) (v d : α) : Table.get (Table.set t k v) k d = v := by
  simp [Table.get]

theorem Table.get_set_other (t : Table α) {j k : Nat} (v d : α) (h : j ≠ k) :
    Table.get (Table.set t k v) j d = Table.get t j d := by
  simp [Table.get, Table.find_set_other t v h]

@[simp] theorem Table.set_set (t : Table α) (k : Nat) (v w : α) : Table.set (Table.set t k v) k w = Table.set t k w := by
  induction t with
  | nil => simp [Table.set]
  | cons e t ih =>
    obtain ⟨k', v'⟩ := e
    by_cases h1 : k < k'
    · simp [Table.set, h1]
    · by_cases h2 : k = k'
      · simp [Table.set, h2]
      · simp [Table.set, h1, h2, ih]

@[simp] theorem Table.has_set_same (t : Table α) (k : Nat) (v : α) : Table.has (Table.set t k v) k = true := by
  simp [Table.has]

theorem Table.has_set (t : Table α) (j k : Nat) (v : α) :
    Table.has (Table.set t k v) j = (decide (j = k) || Table.has t j) := by
  by_cases h : j = k
  · simp [h]
  · simp [Table.has, Table.find_set_other t v h, h]

theorem Table.mem_set {t : Table α} {k : Nat} {v : α} {e : Nat × α} (h : e ∈ Table.set t k v) : e = (k, v) ∨ e ∈ t := by
  induction t with
  | nil => simpa [Table.set] using h
  | cons x t ih =>
    obtain ⟨k', v'⟩ := x
    unfold Table.set at h
    split at h
    · simpa using h
    · split at h
      · rcases List.mem_cons.1 h with h | h
        · exact .inl h
        · exact .inr (List.mem_cons_of_mem _ h)
      · rcases List.mem_cons.1 h with h | h
        · exact .inr (by simp [h])
        · rcases ih h with h | h
          · exact .inl h
          · exact .inr (List.mem_cons_of_mem _ h)

/-! ### Rising keys -/

/-- Every key of the table lies beyond `k`. -/
theorem Table.sorted_cons (k : Nat) (v : α) (t : Table α) :
    Table.sorted ((k, v) :: t) = (t.all (fun e => decide (k < e.1)) && Table.sorted t) := by
  induction t generalizing k v with
  | nil => rfl
  | cons e t ih =>
    obtain ⟨k', v'⟩ := e
    have h1 : Table.sorted ((k, v) :: (k', v') :: t) = (decide (k < k') && Table.sorted ((k', v') :: t)) := rfl
    rw [h1, ih k' v', List.all_cons, Bool.eq_iff_iff]
    simp only [Bool.and_eq_true, decide_eq_true_eq, List.all_eq_true]
    constructor
    · rintro ⟨h, ha, hs⟩
      exact ⟨⟨h, fun e he => Nat.lt_trans h (ha e he)⟩, ha, hs⟩
    · rintro ⟨⟨h, -⟩, ha, hs⟩
      exact ⟨h, ha, hs⟩

theorem Table.all_set (t : Table α) (k : Nat) (v : α) (c : Nat × α → Bool) (h : t.all c = true) (hv : c (k, v) = true) :
    (Table.set t k v).all c = true := by
  induction t with
  | nil => simp [Table.set, hv]
  | cons e t ih =>
    obtain ⟨k', v'⟩ := e
    simp only [List.all_cons, Bool.and_eq_true] at h
    unfold Table.set
    split
    · simp [hv, h.1, h.2]
    · split
      · simp [hv, h.2]
      · simp [h.1, ih h.2]

theorem Table.sorted_set (t : Table α) (k : Nat) (v : α) (h : Table.sorted t = true) :
    Table.sorted (Table.set t k v) = true := by
  induction t with
  | nil => rfl
  | cons e t ih =>
    obtain ⟨k', v'⟩ := e
    have hs := h
    rw [Table.sorted_cons, Bool.and_eq_true] at h
    unfold Table.set
    split
    · rename_i hk
      rw [Table.sorted_cons, hs, Bool.and_true, List.all_cons, Bool.and_eq_true]
      refine ⟨by simpa using hk, ?_⟩
      rw [List.all_eq_true] at *
      intro e he
      have := h.1 e he
      simp only [decide_eq_true_eq] at this ⊢
      omega
    · split
      · rename_i hk hkk
        subst hkk
        rw [Table.sorted_cons, h.1, h.2]
        rfl
      · rename_i hk hne
        rw [Table.sorted_cons, ih h.2, Bool.and_true]
        refine Table.all_set t k v _ h.1 ?_
        simp only [decide_eq_true_eq]
        omega

theorem Table.sorted_filter (t : Table α) (c : Nat × α → Bool) (h : Table.sorted t = true) :
    Table.sorted (t.filter c) = true := by
  induction t with
  | nil => rfl
  | cons e t ih =>
    obtain ⟨k', v'⟩ := e
    rw [Table.sorted_cons, Bool.and_eq_true] at h
    rw [List.filter_cons]
    split
    · rw [Table.sorted_cons, ih h.2, Bool.and_true, List.all_eq_true]
      intro e he
      have := h.1
      rw [List.all_eq_true] at this
      exact this e (List.mem_filter.mp he).1
    · exact ih h.2

theorem Table.find_erase (t : Table α) (j k : Nat) :
    Table.find? (Table.erase t k) j = if j = k then none else Table.find? t j := by
  induction t with
  | nil => simp [Table.erase]
  | cons e t ih =>
    obtain ⟨k', v'⟩ := e
    unfold Table.erase at *
    rw [List.filter_cons]
    by_cases h : k' = k
    · simp only [h, ne_eq, not_true, decide_false, Bool.false_eq_true, if_false, ih, Table.find?]
      by_cases hj : j = k
      · simp [hj]
      · simp [hj, Ne.symm hj]
    · simp only [ne_eq, h, not_false_eq_true, decide_true, if_true, Table.find?, ih]
      by_cases hj : k' = j
      · subst hj; simp [h]
      · simp [hj]

end Sys2Proof.Machine
end

