-- ==== Sys2Proof/Laws/Memory.lean ====
section
/-! SUPPORT. Sys2Proof/Laws/Memory.lean: a write is read back, leaves every other byte alone, and keeps the canonical form. -/

namespace Sys2Proof.Machine

theorem Memory.read_write (m : List Host.Cell) (a j : Nat) (b : Byte) :
    Memory.read (Memory.write m a b) j = if j = a then b else Memory.read m j := by
  unfold Memory.write Memory.read
  split
  · rename_i h
    by_cases hj : j = a
    · simp [Table.get, Table.find_erase, hj, h]
    · simp [Table.get, Table.find_erase, hj]
  · by_cases hj : j = a
    · simp [hj]
    · simp [Table.get_set_other m b _ hj, hj]

@[simp] theorem Memory.read_write_same (m : List Host.Cell) (a : Nat) (b : Byte) : Memory.read (Memory.write m a b) a = b := by
  simp [Memory.read_write]

theorem Memory.read_write_other (m : List Host.Cell) {a j : Nat} (b : Byte) (h : j ≠ a) :
    Memory.read (Memory.write m a b) j = Memory.read m j := by
  simp [Memory.read_write, h]

theorem Memory.read_writeBytes_outside (m : List Host.Cell) (a j : Nat) (bs : List Byte) (h : j < a ∨ a + bs.length ≤ j) :
    Memory.read (Memory.writeBytes m a bs) j = Memory.read m j := by
  induction bs generalizing m a with
  | nil => rfl
  | cons b bs ih =>
    rw [List.length_cons] at h
    unfold Memory.writeBytes
    rw [ih _ _ (by omega), Memory.read_write_other _ _ (by omega)]

theorem Memory.read_writeBytes_inside (m : List Host.Cell) (a i : Nat) (bs : List Byte) (h : i < bs.length) :
    Memory.read (Memory.writeBytes m a bs) (a + i) = bs[i] := by
  induction bs generalizing m a i with
  | nil => simp at h
  | cons b bs ih =>
    unfold Memory.writeBytes
    cases i with
    | zero => rw [Memory.read_writeBytes_outside _ _ _ _ (by omega)]; simp
    | succ i =>
      rw [List.length_cons] at h
      have := ih (Memory.write m a b) (a + 1) i (by omega)
      rw [show a + (i + 1) = a + 1 + i by omega, this]
      rfl

theorem Memory.wf_write (m : List Host.Cell) (a : Nat) (b : Byte) (h : Memory.wf m = true) :
    Memory.wf (Memory.write m a b) = true := by
  unfold Memory.wf at *
  rw [Bool.and_eq_true] at *
  unfold Memory.write
  split
  · refine ⟨Table.sorted_filter _ _ h.1, ?_⟩
    rw [List.all_eq_true] at *
    exact fun e he => h.2 e (List.mem_filter.mp he).1
  · rename_i hb
    exact ⟨Table.sorted_set _ _ _ h.1, Table.all_set _ _ _ _ h.2 (by simpa using hb)⟩

theorem Memory.wf_writeBytes (m : List Host.Cell) (a : Nat) (bs : List Byte) (h : Memory.wf m = true) :
    Memory.wf (Memory.writeBytes m a bs) = true := by
  induction bs generalizing m a with
  | nil => exact h
  | cons b bs ih => exact ih _ _ (Memory.wf_write _ _ _ h)

theorem Memory.wf_filter (m : List Host.Cell) (c : Host.Cell → Bool) (h : Memory.wf m = true) :
    Memory.wf (m.filter c) = true := by
  unfold Memory.wf at *
  rw [Bool.and_eq_true] at *
  refine ⟨Table.sorted_filter _ _ h.1, ?_⟩
  rw [List.all_eq_true] at *
  exact fun e he => h.2 e (List.mem_filter.mp he).1

end Sys2Proof.Machine
end

