-- ==== Sys2Proof/Laws/State.lean ====
section
/-! SUPPORT. Sys2Proof/Laws/State.lean: what each named update of the state and of a thread leaves alone, one lemma for each field,
so that no proof unfolds a record update. -/

namespace Sys2Proof.Machine

variable (s : State) (th : Thread)

/-! ### setThr -/

@[simp] theorem State.setThr_agenda (t : Nat) (x : Thread) : (s.setThr t x).agenda = s.agenda := rfl
@[simp] theorem State.setThr_cycle (t : Nat) (x : Thread) : (s.setThr t x).cycle = s.cycle := rfl
@[simp] theorem State.setThr_coreTurn (t : Nat) (x : Thread) : (s.setThr t x).coreTurn = s.coreTurn := rfl
@[simp] theorem State.setThr_cur (t : Nat) (x : Thread) : (s.setThr t x).cur = s.cur := rfl
@[simp] theorem State.setThr_insn (t : Nat) (x : Thread) : (s.setThr t x).insn = s.insn := rfl
@[simp] theorem State.setThr_insnLen (t : Nat) (x : Thread) : (s.setThr t x).insnLen = s.insnLen := rfl
@[simp] theorem State.setThr_freeCtr (t : Nat) (x : Thread) : (s.setThr t x).freeCtr = s.freeCtr := rfl
@[simp] theorem State.setThr_rootCode (t : Nat) (x : Thread) : (s.setThr t x).rootCode = s.rootCode := rfl
@[simp] theorem State.setThr_ftimeBase (t : Nat) (x : Thread) : (s.setThr t x).ftimeBase = s.ftimeBase := rfl
@[simp] theorem State.setThr_fwroot (t : Nat) (x : Thread) : (s.setThr t x).fwroot = s.fwroot := rfl
@[simp] theorem State.setThr_nextUid (t : Nat) (x : Thread) : (s.setThr t x).nextUid = s.nextUid := rfl
@[simp] theorem State.setThr_slots (t : Nat) (x : Thread) : (s.setThr t x).slots = s.slots := rfl
@[simp] theorem State.setThr_cores (t : Nat) (x : Thread) : (s.setThr t x).cores = s.cores := rfl
@[simp] theorem State.setThr_pops (t : Nat) (x : Thread) : (s.setThr t x).pops = s.pops := rfl
@[simp] theorem State.setThr_nextPop (t : Nat) (x : Thread) : (s.setThr t x).nextPop = s.nextPop := rfl
@[simp] theorem State.setThr_groups (t : Nat) (x : Thread) : (s.setThr t x).groups = s.groups := rfl
@[simp] theorem State.setThr_pad (t : Nat) (x : Thread) : (s.setThr t x).pad = s.pad := rfl
@[simp] theorem State.setThr_padWords (t : Nat) (x : Thread) : (s.setThr t x).padWords = s.padWords := rfl
@[simp] theorem State.setThr_banks (t : Nat) (x : Thread) : (s.setThr t x).banks = s.banks := rfl
@[simp] theorem State.setThr_hbm (t : Nat) (x : Thread) : (s.setThr t x).hbm = s.hbm := rfl
@[simp] theorem State.setThr_hostMem (t : Nat) (x : Thread) : (s.setThr t x).hostMem = s.hostMem := rfl
@[simp] theorem State.setThr_badHbm (t : Nat) (x : Thread) : (s.setThr t x).badHbm = s.badHbm := rfl
@[simp] theorem State.setThr_badPad (t : Nat) (x : Thread) : (s.setThr t x).badPad = s.badPad := rfl
@[simp] theorem State.setThr_badCache (t : Nat) (x : Thread) : (s.setThr t x).badCache = s.badCache := rfl
@[simp] theorem State.setThr_stackErrs (t : Nat) (x : Thread) : (s.setThr t x).stackErrs = s.stackErrs := rfl
@[simp] theorem State.setThr_healthHours (t : Nat) (x : Thread) : (s.setThr t x).healthHours = s.healthHours := rfl
@[simp] theorem State.setThr_gens (t : Nat) (x : Thread) : (s.setThr t x).gens = s.gens := rfl
@[simp] theorem State.setThr_clusters (t : Nat) (x : Thread) : (s.setThr t x).clusters = s.clusters := rfl
@[simp] theorem State.setThr_arrays (t : Nat) (x : Thread) : (s.setThr t x).arrays = s.arrays := rfl
@[simp] theorem State.setThr_acc (t : Nat) (x : Thread) : (s.setThr t x).acc = s.acc := rfl
@[simp] theorem State.setThr_residencies (t : Nat) (x : Thread) : (s.setThr t x).residencies = s.residencies := rfl
@[simp] theorem State.setThr_useClock (t : Nat) (x : Thread) : (s.setThr t x).useClock = s.useClock := rfl
@[simp] theorem State.setThr_tids (t : Nat) (x : Thread) : (s.setThr t x).tids = s.tids := rfl
@[simp] theorem State.setThr_ctxs (t : Nat) (x : Thread) : (s.setThr t x).ctxs = s.ctxs := rfl
@[simp] theorem State.setThr_graphs (t : Nat) (x : Thread) : (s.setThr t x).graphs = s.graphs := rfl
@[simp] theorem State.setThr_views (t : Nat) (x : Thread) : (s.setThr t x).views = s.views := rfl
@[simp] theorem State.setThr_drafts (t : Nat) (x : Thread) : (s.setThr t x).drafts = s.drafts := rfl
@[simp] theorem State.setThr_nextOp (t : Nat) (x : Thread) : (s.setThr t x).nextOp = s.nextOp := rfl
@[simp] theorem State.setThr_nextAcc (t : Nat) (x : Thread) : (s.setThr t x).nextAcc = s.nextAcc := rfl
@[simp] theorem State.setThr_contexts (t : Nat) (x : Thread) : (s.setThr t x).contexts = s.contexts := rfl
@[simp] theorem State.setThr_blocks (t : Nat) (x : Thread) : (s.setThr t x).blocks = s.blocks := rfl
@[simp] theorem State.setThr_nodes (t : Nat) (x : Thread) : (s.setThr t x).nodes = s.nodes := rfl
@[simp] theorem State.setThr_nextNode (t : Nat) (x : Thread) : (s.setThr t x).nextNode = s.nextNode := rfl
@[simp] theorem State.setThr_agents (t : Nat) (x : Thread) : (s.setThr t x).agents = s.agents := rfl
@[simp] theorem State.setThr_batch (t : Nat) (x : Thread) : (s.setThr t x).batch = s.batch := rfl
@[simp] theorem State.setThr_iters (t : Nat) (x : Thread) : (s.setThr t x).iters = s.iters := rfl
@[simp] theorem State.setThr_models (t : Nat) (x : Thread) : (s.setThr t x).models = s.models := rfl
@[simp] theorem State.setThr_nextSeq (t : Nat) (x : Thread) : (s.setThr t x).nextSeq = s.nextSeq := rfl
@[simp] theorem State.setThr_batchIn (t : Nat) (x : Thread) : (s.setThr t x).batchIn = s.batchIn := rfl
@[simp] theorem State.setThr_reportIn (t : Nat) (x : Thread) : (s.setThr t x).reportIn = s.reportIn := rfl
@[simp] theorem State.setThr_moduleNum (t : Nat) (x : Thread) : (s.setThr t x).moduleNum = s.moduleNum := rfl
@[simp] theorem State.setThr_linkIn (t : Nat) (x : Thread) : (s.setThr t x).linkIn = s.linkIn := rfl
@[simp] theorem State.setThr_linkOut (t : Nat) (x : Thread) : (s.setThr t x).linkOut = s.linkOut := rfl
@[simp] theorem State.setThr_parked (t : Nat) (x : Thread) : (s.setThr t x).parked = s.parked := rfl
@[simp] theorem State.setThr_acks (t : Nat) (x : Thread) : (s.setThr t x).acks = s.acks := rfl
@[simp] theorem State.setThr_badWrites (t : Nat) (x : Thread) : (s.setThr t x).badWrites = s.badWrites := rfl
@[simp] theorem State.setThr_remoteSeen (t : Nat) (x : Thread) : (s.setThr t x).remoteSeen = s.remoteSeen := rfl
@[simp] theorem State.setThr_chunksIn (t : Nat) (x : Thread) : (s.setThr t x).chunksIn = s.chunksIn := rfl
@[simp] theorem State.setThr_parts (t : Nat) (x : Thread) : (s.setThr t x).parts = s.parts := rfl
@[simp] theorem State.setThr_saves (t : Nat) (x : Thread) : (s.setThr t x).saves = s.saves := rfl
@[simp] theorem State.setThr_cqHeld (t : Nat) (x : Thread) : (s.setThr t x).cqHeld = s.cqHeld := rfl
@[simp] theorem State.setThr_tried (t : Nat) (x : Thread) : (s.setThr t x).tried = s.tried := rfl
@[simp] theorem State.setThr_balances (t : Nat) (x : Thread) : (s.setThr t x).balances = s.balances := rfl
@[simp] theorem State.setThr_ticks (t : Nat) (x : Thread) : (s.setThr t x).ticks = s.ticks := rfl
@[simp] theorem State.setThr_subqs (t : Nat) (x : Thread) : (s.setThr t x).subqs = s.subqs := rfl
@[simp] theorem State.setThr_cqs (t : Nat) (x : Thread) : (s.setThr t x).cqs = s.cqs := rfl
@[simp] theorem State.setThr_msi (t : Nat) (x : Thread) : (s.setThr t x).msi = s.msi := rfl
@[simp] theorem State.setThr_htls (t : Nat) (x : Thread) : (s.setThr t x).htls = s.htls := rfl
@[simp] theorem State.setThr_xansval (t : Nat) (x : Thread) : (s.setThr t x).xansval = s.xansval := rfl
@[simp] theorem State.setThr_tparg (t : Nat) (x : Thread) : (s.setThr t x).tparg = s.tparg := rfl
@[simp] theorem State.setThr_tpstat (t : Nat) (x : Thread) : (s.setThr t x).tpstat = s.tpstat := rfl
@[simp] theorem State.setThr_frozenFns (t : Nat) (x : Thread) : (s.setThr t x).frozenFns = s.frozenFns := rfl
@[simp] theorem State.setThr_booted (t : Nat) (x : Thread) : (s.setThr t x).booted = s.booted := rfl
@[simp] theorem State.setThr_recov (t : Nat) (x : Thread) : (s.setThr t x).recov = s.recov := rfl
@[simp] theorem State.setThr_xmiss (t : Nat) (x : Thread) : (s.setThr t x).xmiss = s.xmiss := rfl
@[simp] theorem State.setThr_hbmKeys (t : Nat) (x : Thread) : (s.setThr t x).hbmKeys = s.hbmKeys := rfl
@[simp] theorem State.setThr_badHost (t : Nat) (x : Thread) : (s.setThr t x).badHost = s.badHost := rfl
@[simp] theorem State.setThr_commitWait (t : Nat) (x : Thread) : (s.setThr t x).commitWait = s.commitWait := rfl
@[simp] theorem State.setThr_tpWait (t : Nat) (x : Thread) : (s.setThr t x).tpWait = s.tpWait := rfl
@[simp] theorem State.setThr_flash (t : Nat) (x : Thread) : (s.setThr t x).flash = s.flash := rfl
@[simp] theorem State.setThr_running (t : Nat) (x : Thread) : (s.setThr t x).running = s.running := rfl
@[simp] theorem State.setThr_staged (t : Nat) (x : Thread) : (s.setThr t x).staged = s.staged := rfl
@[simp] theorem State.setThr_fuseSvn (t : Nat) (x : Thread) : (s.setThr t x).fuseSvn = s.fuseSvn := rfl
@[simp] theorem State.setThr_meas (t : Nat) (x : Thread) : (s.setThr t x).meas = s.meas := rfl
@[simp] theorem State.setThr_fwBase (t : Nat) (x : Thread) : (s.setThr t x).fwBase = s.fwBase := rfl
@[simp] theorem State.setThr_fwLimit (t : Nat) (x : Thread) : (s.setThr t x).fwLimit = s.fwLimit := rfl
@[simp] theorem State.setThr_stopped (t : Nat) (x : Thread) : (s.setThr t x).stopped = s.stopped := rfl
@[simp] theorem State.setThr_life (t : Nat) (x : Thread) : (s.setThr t x).life = s.life := rfl
@[simp] theorem State.setThr_hsel (t : Nat) (x : Thread) : (s.setThr t x).hsel = s.hsel := rfl
@[simp] theorem State.setThr_health (t : Nat) (x : Thread) : (s.setThr t x).health = s.health := rfl

/-! ### modThr -/

@[simp] theorem State.modThr_agenda (t : Nat) (f : Thread → Thread) : (s.modThr t f).agenda = s.agenda := rfl
@[simp] theorem State.modThr_cycle (t : Nat) (f : Thread → Thread) : (s.modThr t f).cycle = s.cycle := rfl
@[simp] theorem State.modThr_coreTurn (t : Nat) (f : Thread → Thread) : (s.modThr t f).coreTurn = s.coreTurn := rfl
@[simp] theorem State.modThr_cur (t : Nat) (f : Thread → Thread) : (s.modThr t f).cur = s.cur := rfl
@[simp] theorem State.modThr_insn (t : Nat) (f : Thread → Thread) : (s.modThr t f).insn = s.insn := rfl
@[simp] theorem State.modThr_insnLen (t : Nat) (f : Thread → Thread) : (s.modThr t f).insnLen = s.insnLen := rfl
@[simp] theorem State.modThr_freeCtr (t : Nat) (f : Thread → Thread) : (s.modThr t f).freeCtr = s.freeCtr := rfl
@[simp] theorem State.modThr_rootCode (t : Nat) (f : Thread → Thread) : (s.modThr t f).rootCode = s.rootCode := rfl
@[simp] theorem State.modThr_ftimeBase (t : Nat) (f : Thread → Thread) : (s.modThr t f).ftimeBase = s.ftimeBase := rfl
@[simp] theorem State.modThr_fwroot (t : Nat) (f : Thread → Thread) : (s.modThr t f).fwroot = s.fwroot := rfl
@[simp] theorem State.modThr_nextUid (t : Nat) (f : Thread → Thread) : (s.modThr t f).nextUid = s.nextUid := rfl
@[simp] theorem State.modThr_slots (t : Nat) (f : Thread → Thread) : (s.modThr t f).slots = s.slots := rfl
@[simp] theorem State.modThr_cores (t : Nat) (f : Thread → Thread) : (s.modThr t f).cores = s.cores := rfl
@[simp] theorem State.modThr_pops (t : Nat) (f : Thread → Thread) : (s.modThr t f).pops = s.pops := rfl
@[simp] theorem State.modThr_nextPop (t : Nat) (f : Thread → Thread) : (s.modThr t f).nextPop = s.nextPop := rfl
@[simp] theorem State.modThr_groups (t : Nat) (f : Thread → Thread) : (s.modThr t f).groups = s.groups := rfl
@[simp] theorem State.modThr_pad (t : Nat) (f : Thread → Thread) : (s.modThr t f).pad = s.pad := rfl
@[simp] theorem State.modThr_padWords (t : Nat) (f : Thread → Thread) : (s.modThr t f).padWords = s.padWords := rfl
@[simp] theorem State.modThr_banks (t : Nat) (f : Thread → Thread) : (s.modThr t f).banks = s.banks := rfl
@[simp] theorem State.modThr_hbm (t : Nat) (f : Thread → Thread) : (s.modThr t f).hbm = s.hbm := rfl
@[simp] theorem State.modThr_hostMem (t : Nat) (f : Thread → Thread) : (s.modThr t f).hostMem = s.hostMem := rfl
@[simp] theorem State.modThr_badHbm (t : Nat) (f : Thread → Thread) : (s.modThr t f).badHbm = s.badHbm := rfl
@[simp] theorem State.modThr_badPad (t : Nat) (f : Thread → Thread) : (s.modThr t f).badPad = s.badPad := rfl
@[simp] theorem State.modThr_badCache (t : Nat) (f : Thread → Thread) : (s.modThr t f).badCache = s.badCache := rfl
@[simp] theorem State.modThr_stackErrs (t : Nat) (f : Thread → Thread) : (s.modThr t f).stackErrs = s.stackErrs := rfl
@[simp] theorem State.modThr_healthHours (t : Nat) (f : Thread → Thread) : (s.modThr t f).healthHours = s.healthHours := rfl
@[simp] theorem State.modThr_gens (t : Nat) (f : Thread → Thread) : (s.modThr t f).gens = s.gens := rfl
@[simp] theorem State.modThr_clusters (t : Nat) (f : Thread → Thread) : (s.modThr t f).clusters = s.clusters := rfl
@[simp] theorem State.modThr_arrays (t : Nat) (f : Thread → Thread) : (s.modThr t f).arrays = s.arrays := rfl
@[simp] theorem State.modThr_acc (t : Nat) (f : Thread → Thread) : (s.modThr t f).acc = s.acc := rfl
@[simp] theorem State.modThr_residencies (t : Nat) (f : Thread → Thread) : (s.modThr t f).residencies = s.residencies := rfl
@[simp] theorem State.modThr_useClock (t : Nat) (f : Thread → Thread) : (s.modThr t f).useClock = s.useClock := rfl
@[simp] theorem State.modThr_tids (t : Nat) (f : Thread → Thread) : (s.modThr t f).tids = s.tids := rfl
@[simp] theorem State.modThr_ctxs (t : Nat) (f : Thread → Thread) : (s.modThr t f).ctxs = s.ctxs := rfl
@[simp] theorem State.modThr_graphs (t : Nat) (f : Thread → Thread) : (s.modThr t f).graphs = s.graphs := rfl
@[simp] theorem State.modThr_views (t : Nat) (f : Thread → Thread) : (s.modThr t f).views = s.views := rfl
@[simp] theorem State.modThr_drafts (t : Nat) (f : Thread → Thread) : (s.modThr t f).drafts = s.drafts := rfl
@[simp] theorem State.modThr_nextOp (t : Nat) (f : Thread → Thread) : (s.modThr t f).nextOp = s.nextOp := rfl
@[simp] theorem State.modThr_nextAcc (t : Nat) (f : Thread → Thread) : (s.modThr t f).nextAcc = s.nextAcc := rfl
@[simp] theorem State.modThr_contexts (t : Nat) (f : Thread → Thread) : (s.modThr t f).contexts = s.contexts := rfl
@[simp] theorem State.modThr_blocks (t : Nat) (f : Thread → Thread) : (s.modThr t f).blocks = s.blocks := rfl
@[simp] theorem State.modThr_nodes (t : Nat) (f : Thread → Thread) : (s.modThr t f).nodes = s.nodes := rfl
@[simp] theorem State.modThr_nextNode (t : Nat) (f : Thread → Thread) : (s.modThr t f).nextNode = s.nextNode := rfl
@[simp] theorem State.modThr_agents (t : Nat) (f : Thread → Thread) : (s.modThr t f).agents = s.agents := rfl
@[simp] theorem State.modThr_batch (t : Nat) (f : Thread → Thread) : (s.modThr t f).batch = s.batch := rfl
@[simp] theorem State.modThr_iters (t : Nat) (f : Thread → Thread) : (s.modThr t f).iters = s.iters := rfl
@[simp] theorem State.modThr_models (t : Nat) (f : Thread → Thread) : (s.modThr t f).models = s.models := rfl
@[simp] theorem State.modThr_nextSeq (t : Nat) (f : Thread → Thread) : (s.modThr t f).nextSeq = s.nextSeq := rfl
@[simp] theorem State.modThr_batchIn (t : Nat) (f : Thread → Thread) : (s.modThr t f).batchIn = s.batchIn := rfl
@[simp] theorem State.modThr_reportIn (t : Nat) (f : Thread → Thread) : (s.modThr t f).reportIn = s.reportIn := rfl
@[simp] theorem State.modThr_moduleNum (t : Nat) (f : Thread → Thread) : (s.modThr t f).moduleNum = s.moduleNum := rfl
@[simp] theorem State.modThr_linkIn (t : Nat) (f : Thread → Thread) : (s.modThr t f).linkIn = s.linkIn := rfl
@[simp] theorem State.modThr_linkOut (t : Nat) (f : Thread → Thread) : (s.modThr t f).linkOut = s.linkOut := rfl
@[simp] theorem State.modThr_parked (t : Nat) (f : Thread → Thread) : (s.modThr t f).parked = s.parked := rfl
@[simp] theorem State.modThr_acks (t : Nat) (f : Thread → Thread) : (s.modThr t f).acks = s.acks := rfl
@[simp] theorem State.modThr_badWrites (t : Nat) (f : Thread → Thread) : (s.modThr t f).badWrites = s.badWrites := rfl
@[simp] theorem State.modThr_remoteSeen (t : Nat) (f : Thread → Thread) : (s.modThr t f).remoteSeen = s.remoteSeen := rfl
@[simp] theorem State.modThr_chunksIn (t : Nat) (f : Thread → Thread) : (s.modThr t f).chunksIn = s.chunksIn := rfl
@[simp] theorem State.modThr_parts (t : Nat) (f : Thread → Thread) : (s.modThr t f).parts = s.parts := rfl
@[simp] theorem State.modThr_saves (t : Nat) (f : Thread → Thread) : (s.modThr t f).saves = s.saves := rfl
@[simp] theorem State.modThr_cqHeld (t : Nat) (f : Thread → Thread) : (s.modThr t f).cqHeld = s.cqHeld := rfl
@[simp] theorem State.modThr_tried (t : Nat) (f : Thread → Thread) : (s.modThr t f).tried = s.tried := rfl
@[simp] theorem State.modThr_balances (t : Nat) (f : Thread → Thread) : (s.modThr t f).balances = s.balances := rfl
@[simp] theorem State.modThr_ticks (t : Nat) (f : Thread → Thread) : (s.modThr t f).ticks = s.ticks := rfl
@[simp] theorem State.modThr_subqs (t : Nat) (f : Thread → Thread) : (s.modThr t f).subqs = s.subqs := rfl
@[simp] theorem State.modThr_cqs (t : Nat) (f : Thread → Thread) : (s.modThr t f).cqs = s.cqs := rfl
@[simp] theorem State.modThr_msi (t : Nat) (f : Thread → Thread) : (s.modThr t f).msi = s.msi := rfl
@[simp] theorem State.modThr_htls (t : Nat) (f : Thread → Thread) : (s.modThr t f).htls = s.htls := rfl
@[simp] theorem State.modThr_xansval (t : Nat) (f : Thread → Thread) : (s.modThr t f).xansval = s.xansval := rfl
@[simp] theorem State.modThr_tparg (t : Nat) (f : Thread → Thread) : (s.modThr t f).tparg = s.tparg := rfl
@[simp] theorem State.modThr_tpstat (t : Nat) (f : Thread → Thread) : (s.modThr t f).tpstat = s.tpstat := rfl
@[simp] theorem State.modThr_frozenFns (t : Nat) (f : Thread → Thread) : (s.modThr t f).frozenFns = s.frozenFns := rfl
@[simp] theorem State.modThr_booted (t : Nat) (f : Thread → Thread) : (s.modThr t f).booted = s.booted := rfl
@[simp] theorem State.modThr_recov (t : Nat) (f : Thread → Thread) : (s.modThr t f).recov = s.recov := rfl
@[simp] theorem State.modThr_xmiss (t : Nat) (f : Thread → Thread) : (s.modThr t f).xmiss = s.xmiss := rfl
@[simp] theorem State.modThr_hbmKeys (t : Nat) (f : Thread → Thread) : (s.modThr t f).hbmKeys = s.hbmKeys := rfl
@[simp] theorem State.modThr_badHost (t : Nat) (f : Thread → Thread) : (s.modThr t f).badHost = s.badHost := rfl
@[simp] theorem State.modThr_commitWait (t : Nat) (f : Thread → Thread) : (s.modThr t f).commitWait = s.commitWait := rfl
@[simp] theorem State.modThr_tpWait (t : Nat) (f : Thread → Thread) : (s.modThr t f).tpWait = s.tpWait := rfl
@[simp] theorem State.modThr_flash (t : Nat) (f : Thread → Thread) : (s.modThr t f).flash = s.flash := rfl
@[simp] theorem State.modThr_running (t : Nat) (f : Thread → Thread) : (s.modThr t f).running = s.running := rfl
@[simp] theorem State.modThr_staged (t : Nat) (f : Thread → Thread) : (s.modThr t f).staged = s.staged := rfl
@[simp] theorem State.modThr_fuseSvn (t : Nat) (f : Thread → Thread) : (s.modThr t f).fuseSvn = s.fuseSvn := rfl
@[simp] theorem State.modThr_meas (t : Nat) (f : Thread → Thread) : (s.modThr t f).meas = s.meas := rfl
@[simp] theorem State.modThr_fwBase (t : Nat) (f : Thread → Thread) : (s.modThr t f).fwBase = s.fwBase := rfl
@[simp] theorem State.modThr_fwLimit (t : Nat) (f : Thread → Thread) : (s.modThr t f).fwLimit = s.fwLimit := rfl
@[simp] theorem State.modThr_stopped (t : Nat) (f : Thread → Thread) : (s.modThr t f).stopped = s.stopped := rfl
@[simp] theorem State.modThr_life (t : Nat) (f : Thread → Thread) : (s.modThr t f).life = s.life := rfl
@[simp] theorem State.modThr_hsel (t : Nat) (f : Thread → Thread) : (s.modThr t f).hsel = s.hsel := rfl
@[simp] theorem State.modThr_health (t : Nat) (f : Thread → Thread) : (s.modThr t f).health = s.health := rfl

/-! ### modCore -/

@[simp] theorem State.modCore_agenda (k : Nat) (f : Core → Core) : (s.modCore k f).agenda = s.agenda := rfl
@[simp] theorem State.modCore_cycle (k : Nat) (f : Core → Core) : (s.modCore k f).cycle = s.cycle := rfl
@[simp] theorem State.modCore_coreTurn (k : Nat) (f : Core → Core) : (s.modCore k f).coreTurn = s.coreTurn := rfl
@[simp] theorem State.modCore_cur (k : Nat) (f : Core → Core) : (s.modCore k f).cur = s.cur := rfl
@[simp] theorem State.modCore_insn (k : Nat) (f : Core → Core) : (s.modCore k f).insn = s.insn := rfl
@[simp] theorem State.modCore_insnLen (k : Nat) (f : Core → Core) : (s.modCore k f).insnLen = s.insnLen := rfl
@[simp] theorem State.modCore_freeCtr (k : Nat) (f : Core → Core) : (s.modCore k f).freeCtr = s.freeCtr := rfl
@[simp] theorem State.modCore_rootCode (k : Nat) (f : Core → Core) : (s.modCore k f).rootCode = s.rootCode := rfl
@[simp] theorem State.modCore_ftimeBase (k : Nat) (f : Core → Core) : (s.modCore k f).ftimeBase = s.ftimeBase := rfl
@[simp] theorem State.modCore_fwroot (k : Nat) (f : Core → Core) : (s.modCore k f).fwroot = s.fwroot := rfl
@[simp] theorem State.modCore_threads (k : Nat) (f : Core → Core) : (s.modCore k f).threads = s.threads := rfl
@[simp] theorem State.modCore_nextUid (k : Nat) (f : Core → Core) : (s.modCore k f).nextUid = s.nextUid := rfl
@[simp] theorem State.modCore_slots (k : Nat) (f : Core → Core) : (s.modCore k f).slots = s.slots := rfl
@[simp] theorem State.modCore_pops (k : Nat) (f : Core → Core) : (s.modCore k f).pops = s.pops := rfl
@[simp] theorem State.modCore_nextPop (k : Nat) (f : Core → Core) : (s.modCore k f).nextPop = s.nextPop := rfl
@[simp] theorem State.modCore_groups (k : Nat) (f : Core → Core) : (s.modCore k f).groups = s.groups := rfl
@[simp] theorem State.modCore_pad (k : Nat) (f : Core → Core) : (s.modCore k f).pad = s.pad := rfl
@[simp] theorem State.modCore_padWords (k : Nat) (f : Core → Core) : (s.modCore k f).padWords = s.padWords := rfl
@[simp] theorem State.modCore_banks (k : Nat) (f : Core → Core) : (s.modCore k f).banks = s.banks := rfl
@[simp] theorem State.modCore_hbm (k : Nat) (f : Core → Core) : (s.modCore k f).hbm = s.hbm := rfl
@[simp] theorem State.modCore_hostMem (k : Nat) (f : Core → Core) : (s.modCore k f).hostMem = s.hostMem := rfl
@[simp] theorem State.modCore_badHbm (k : Nat) (f : Core → Core) : (s.modCore k f).badHbm = s.badHbm := rfl
@[simp] theorem State.modCore_badPad (k : Nat) (f : Core → Core) : (s.modCore k f).badPad = s.badPad := rfl
@[simp] theorem State.modCore_badCache (k : Nat) (f : Core → Core) : (s.modCore k f).badCache = s.badCache := rfl
@[simp] theorem State.modCore_stackErrs (k : Nat) (f : Core → Core) : (s.modCore k f).stackErrs = s.stackErrs := rfl
@[simp] theorem State.modCore_healthHours (k : Nat) (f : Core → Core) : (s.modCore k f).healthHours = s.healthHours := rfl
@[simp] theorem State.modCore_gens (k : Nat) (f : Core → Core) : (s.modCore k f).gens = s.gens := rfl
@[simp] theorem State.modCore_clusters (k : Nat) (f : Core → Core) : (s.modCore k f).clusters = s.clusters := rfl
@[simp] theorem State.modCore_arrays (k : Nat) (f : Core → Core) : (s.modCore k f).arrays = s.arrays := rfl
@[simp] theorem State.modCore_acc (k : Nat) (f : Core → Core) : (s.modCore k f).acc = s.acc := rfl
@[simp] theorem State.modCore_residencies (k : Nat) (f : Core → Core) : (s.modCore k f).residencies = s.residencies := rfl
@[simp] theorem State.modCore_useClock (k : Nat) (f : Core → Core) : (s.modCore k f).useClock = s.useClock := rfl
@[simp] theorem State.modCore_tids (k : Nat) (f : Core → Core) : (s.modCore k f).tids = s.tids := rfl
@[simp] theorem State.modCore_ctxs (k : Nat) (f : Core → Core) : (s.modCore k f).ctxs = s.ctxs := rfl
@[simp] theorem State.modCore_graphs (k : Nat) (f : Core → Core) : (s.modCore k f).graphs = s.graphs := rfl
@[simp] theorem State.modCore_views (k : Nat) (f : Core → Core) : (s.modCore k f).views = s.views := rfl
@[simp] theorem State.modCore_drafts (k : Nat) (f : Core → Core) : (s.modCore k f).drafts = s.drafts := rfl
@[simp] theorem State.modCore_nextOp (k : Nat) (f : Core → Core) : (s.modCore k f).nextOp = s.nextOp := rfl
@[simp] theorem State.modCore_nextAcc (k : Nat) (f : Core → Core) : (s.modCore k f).nextAcc = s.nextAcc := rfl
@[simp] theorem State.modCore_contexts (k : Nat) (f : Core → Core) : (s.modCore k f).contexts = s.contexts := rfl
@[simp] theorem State.modCore_blocks (k : Nat) (f : Core → Core) : (s.modCore k f).blocks = s.blocks := rfl
@[simp] theorem State.modCore_nodes (k : Nat) (f : Core → Core) : (s.modCore k f).nodes = s.nodes := rfl
@[simp] theorem State.modCore_nextNode (k : Nat) (f : Core → Core) : (s.modCore k f).nextNode = s.nextNode := rfl
@[simp] theorem State.modCore_agents (k : Nat) (f : Core → Core) : (s.modCore k f).agents = s.agents := rfl
@[simp] theorem State.modCore_batch (k : Nat) (f : Core → Core) : (s.modCore k f).batch = s.batch := rfl
@[simp] theorem State.modCore_iters (k : Nat) (f : Core → Core) : (s.modCore k f).iters = s.iters := rfl
@[simp] theorem State.modCore_models (k : Nat) (f : Core → Core) : (s.modCore k f).models = s.models := rfl
@[simp] theorem State.modCore_nextSeq (k : Nat) (f : Core → Core) : (s.modCore k f).nextSeq = s.nextSeq := rfl
@[simp] theorem State.modCore_batchIn (k : Nat) (f : Core → Core) : (s.modCore k f).batchIn = s.batchIn := rfl
@[simp] theorem State.modCore_reportIn (k : Nat) (f : Core → Core) : (s.modCore k f).reportIn = s.reportIn := rfl
@[simp] theorem State.modCore_moduleNum (k : Nat) (f : Core → Core) : (s.modCore k f).moduleNum = s.moduleNum := rfl
@[simp] theorem State.modCore_linkIn (k : Nat) (f : Core → Core) : (s.modCore k f).linkIn = s.linkIn := rfl
@[simp] theorem State.modCore_linkOut (k : Nat) (f : Core → Core) : (s.modCore k f).linkOut = s.linkOut := rfl
@[simp] theorem State.modCore_parked (k : Nat) (f : Core → Core) : (s.modCore k f).parked = s.parked := rfl
@[simp] theorem State.modCore_acks (k : Nat) (f : Core → Core) : (s.modCore k f).acks = s.acks := rfl
@[simp] theorem State.modCore_badWrites (k : Nat) (f : Core → Core) : (s.modCore k f).badWrites = s.badWrites := rfl
@[simp] theorem State.modCore_remoteSeen (k : Nat) (f : Core → Core) : (s.modCore k f).remoteSeen = s.remoteSeen := rfl
@[simp] theorem State.modCore_chunksIn (k : Nat) (f : Core → Core) : (s.modCore k f).chunksIn = s.chunksIn := rfl
@[simp] theorem State.modCore_parts (k : Nat) (f : Core → Core) : (s.modCore k f).parts = s.parts := rfl
@[simp] theorem State.modCore_saves (k : Nat) (f : Core → Core) : (s.modCore k f).saves = s.saves := rfl
@[simp] theorem State.modCore_cqHeld (k : Nat) (f : Core → Core) : (s.modCore k f).cqHeld = s.cqHeld := rfl
@[simp] theorem State.modCore_tried (k : Nat) (f : Core → Core) : (s.modCore k f).tried = s.tried := rfl
@[simp] theorem State.modCore_balances (k : Nat) (f : Core → Core) : (s.modCore k f).balances = s.balances := rfl
@[simp] theorem State.modCore_ticks (k : Nat) (f : Core → Core) : (s.modCore k f).ticks = s.ticks := rfl
@[simp] theorem State.modCore_subqs (k : Nat) (f : Core → Core) : (s.modCore k f).subqs = s.subqs := rfl
@[simp] theorem State.modCore_cqs (k : Nat) (f : Core → Core) : (s.modCore k f).cqs = s.cqs := rfl
@[simp] theorem State.modCore_msi (k : Nat) (f : Core → Core) : (s.modCore k f).msi = s.msi := rfl
@[simp] theorem State.modCore_htls (k : Nat) (f : Core → Core) : (s.modCore k f).htls = s.htls := rfl
@[simp] theorem State.modCore_xansval (k : Nat) (f : Core → Core) : (s.modCore k f).xansval = s.xansval := rfl
@[simp] theorem State.modCore_tparg (k : Nat) (f : Core → Core) : (s.modCore k f).tparg = s.tparg := rfl
@[simp] theorem State.modCore_tpstat (k : Nat) (f : Core → Core) : (s.modCore k f).tpstat = s.tpstat := rfl
@[simp] theorem State.modCore_frozenFns (k : Nat) (f : Core → Core) : (s.modCore k f).frozenFns = s.frozenFns := rfl
@[simp] theorem State.modCore_booted (k : Nat) (f : Core → Core) : (s.modCore k f).booted = s.booted := rfl
@[simp] theorem State.modCore_recov (k : Nat) (f : Core → Core) : (s.modCore k f).recov = s.recov := rfl
@[simp] theorem State.modCore_xmiss (k : Nat) (f : Core → Core) : (s.modCore k f).xmiss = s.xmiss := rfl
@[simp] theorem State.modCore_hbmKeys (k : Nat) (f : Core → Core) : (s.modCore k f).hbmKeys = s.hbmKeys := rfl
@[simp] theorem State.modCore_badHost (k : Nat) (f : Core → Core) : (s.modCore k f).badHost = s.badHost := rfl
@[simp] theorem State.modCore_commitWait (k : Nat) (f : Core → Core) : (s.modCore k f).commitWait = s.commitWait := rfl
@[simp] theorem State.modCore_tpWait (k : Nat) (f : Core → Core) : (s.modCore k f).tpWait = s.tpWait := rfl
@[simp] theorem State.modCore_flash (k : Nat) (f : Core → Core) : (s.modCore k f).flash = s.flash := rfl
@[simp] theorem State.modCore_running (k : Nat) (f : Core → Core) : (s.modCore k f).running = s.running := rfl
@[simp] theorem State.modCore_staged (k : Nat) (f : Core → Core) : (s.modCore k f).staged = s.staged := rfl
@[simp] theorem State.modCore_fuseSvn (k : Nat) (f : Core → Core) : (s.modCore k f).fuseSvn = s.fuseSvn := rfl
@[simp] theorem State.modCore_meas (k : Nat) (f : Core → Core) : (s.modCore k f).meas = s.meas := rfl
@[simp] theorem State.modCore_fwBase (k : Nat) (f : Core → Core) : (s.modCore k f).fwBase = s.fwBase := rfl
@[simp] theorem State.modCore_fwLimit (k : Nat) (f : Core → Core) : (s.modCore k f).fwLimit = s.fwLimit := rfl
@[simp] theorem State.modCore_stopped (k : Nat) (f : Core → Core) : (s.modCore k f).stopped = s.stopped := rfl
@[simp] theorem State.modCore_life (k : Nat) (f : Core → Core) : (s.modCore k f).life = s.life := rfl
@[simp] theorem State.modCore_hsel (k : Nat) (f : Core → Core) : (s.modCore k f).hsel = s.hsel := rfl
@[simp] theorem State.modCore_health (k : Nat) (f : Core → Core) : (s.modCore k f).health = s.health := rfl

/-! ### modCluster -/

@[simp] theorem State.modCluster_agenda (g : Nat) (f : Cluster → Cluster) : (s.modCluster g f).agenda = s.agenda := rfl
@[simp] theorem State.modCluster_cycle (g : Nat) (f : Cluster → Cluster) : (s.modCluster g f).cycle = s.cycle := rfl
@[simp] theorem State.modCluster_coreTurn (g : Nat) (f : Cluster → Cluster) : (s.modCluster g f).coreTurn = s.coreTurn := rfl
@[simp] theorem State.modCluster_cur (g : Nat) (f : Cluster → Cluster) : (s.modCluster g f).cur = s.cur := rfl
@[simp] theorem State.modCluster_insn (g : Nat) (f : Cluster → Cluster) : (s.modCluster g f).insn = s.insn := rfl
@[simp] theorem State.modCluster_insnLen (g : Nat) (f : Cluster → Cluster) : (s.modCluster g f).insnLen = s.insnLen := rfl
@[simp] theorem State.modCluster_freeCtr (g : Nat) (f : Cluster → Cluster) : (s.modCluster g f).freeCtr = s.freeCtr := rfl
@[simp] theorem State.modCluster_rootCode (g : Nat) (f : Cluster → Cluster) : (s.modCluster g f).rootCode = s.rootCode := rfl
@[simp] theorem State.modCluster_ftimeBase (g : Nat) (f : Cluster → Cluster) : (s.modCluster g f).ftimeBase = s.ftimeBase := rfl
@[simp] theorem State.modCluster_fwroot (g : Nat) (f : Cluster → Cluster) : (s.modCluster g f).fwroot = s.fwroot := rfl
@[simp] theorem State.modCluster_threads (g : Nat) (f : Cluster → Cluster) : (s.modCluster g f).threads = s.threads := rfl
@[simp] theorem State.modCluster_nextUid (g : Nat) (f : Cluster → Cluster) : (s.modCluster g f).nextUid = s.nextUid := rfl
@[simp] theorem State.modCluster_slots (g : Nat) (f : Cluster → Cluster) : (s.modCluster g f).slots = s.slots := rfl
@[simp] theorem State.modCluster_cores (g : Nat) (f : Cluster → Cluster) : (s.modCluster g f).cores = s.cores := rfl
@[simp] theorem State.modCluster_pops (g : Nat) (f : Cluster → Cluster) : (s.modCluster g f).pops = s.pops := rfl
@[simp] theorem State.modCluster_nextPop (g : Nat) (f : Cluster → Cluster) : (s.modCluster g f).nextPop = s.nextPop := rfl
@[simp] theorem State.modCluster_groups (g : Nat) (f : Cluster → Cluster) : (s.modCluster g f).groups = s.groups := rfl
@[simp] theorem State.modCluster_pad (g : Nat) (f : Cluster → Cluster) : (s.modCluster g f).pad = s.pad := rfl
@[simp] theorem State.modCluster_padWords (g : Nat) (f : Cluster → Cluster) : (s.modCluster g f).padWords = s.padWords := rfl
@[simp] theorem State.modCluster_banks (g : Nat) (f : Cluster → Cluster) : (s.modCluster g f).banks = s.banks := rfl
@[simp] theorem State.modCluster_hbm (g : Nat) (f : Cluster → Cluster) : (s.modCluster g f).hbm = s.hbm := rfl
@[simp] theorem State.modCluster_hostMem (g : Nat) (f : Cluster → Cluster) : (s.modCluster g f).hostMem = s.hostMem := rfl
@[simp] theorem State.modCluster_badHbm (g : Nat) (f : Cluster → Cluster) : (s.modCluster g f).badHbm = s.badHbm := rfl
@[simp] theorem State.modCluster_badPad (g : Nat) (f : Cluster → Cluster) : (s.modCluster g f).badPad = s.badPad := rfl
@[simp] theorem State.modCluster_badCache (g : Nat) (f : Cluster → Cluster) : (s.modCluster g f).badCache = s.badCache := rfl
@[simp] theorem State.modCluster_stackErrs (g : Nat) (f : Cluster → Cluster) : (s.modCluster g f).stackErrs = s.stackErrs := rfl
@[simp] theorem State.modCluster_healthHours (g : Nat) (f : Cluster → Cluster) : (s.modCluster g f).healthHours = s.healthHours := rfl
@[simp] theorem State.modCluster_gens (g : Nat) (f : Cluster → Cluster) : (s.modCluster g f).gens = s.gens := rfl
@[simp] theorem State.modCluster_arrays (g : Nat) (f : Cluster → Cluster) : (s.modCluster g f).arrays = s.arrays := rfl
@[simp] theorem State.modCluster_acc (g : Nat) (f : Cluster → Cluster) : (s.modCluster g f).acc = s.acc := rfl
@[simp] theorem State.modCluster_residencies (g : Nat) (f : Cluster → Cluster) : (s.modCluster g f).residencies = s.residencies := rfl
@[simp] theorem State.modCluster_useClock (g : Nat) (f : Cluster → Cluster) : (s.modCluster g f).useClock = s.useClock := rfl
@[simp] theorem State.modCluster_tids (g : Nat) (f : Cluster → Cluster) : (s.modCluster g f).tids = s.tids := rfl
@[simp] theorem State.modCluster_ctxs (g : Nat) (f : Cluster → Cluster) : (s.modCluster g f).ctxs = s.ctxs := rfl
@[simp] theorem State.modCluster_graphs (g : Nat) (f : Cluster → Cluster) : (s.modCluster g f).graphs = s.graphs := rfl
@[simp] theorem State.modCluster_views (g : Nat) (f : Cluster → Cluster) : (s.modCluster g f).views = s.views := rfl
@[simp] theorem State.modCluster_drafts (g : Nat) (f : Cluster → Cluster) : (s.modCluster g f).drafts = s.drafts := rfl
@[simp] theorem State.modCluster_nextOp (g : Nat) (f : Cluster → Cluster) : (s.modCluster g f).nextOp = s.nextOp := rfl
@[simp] theorem State.modCluster_nextAcc (g : Nat) (f : Cluster → Cluster) : (s.modCluster g f).nextAcc = s.nextAcc := rfl
@[simp] theorem State.modCluster_contexts (g : Nat) (f : Cluster → Cluster) : (s.modCluster g f).contexts = s.contexts := rfl
@[simp] theorem State.modCluster_blocks (g : Nat) (f : Cluster → Cluster) : (s.modCluster g f).blocks = s.blocks := rfl
@[simp] theorem State.modCluster_nodes (g : Nat) (f : Cluster → Cluster) : (s.modCluster g f).nodes = s.nodes := rfl
@[simp] theorem State.modCluster_nextNode (g : Nat) (f : Cluster → Cluster) : (s.modCluster g f).nextNode = s.nextNode := rfl
@[simp] theorem State.modCluster_agents (g : Nat) (f : Cluster → Cluster) : (s.modCluster g f).agents = s.agents := rfl
@[simp] theorem State.modCluster_batch (g : Nat) (f : Cluster → Cluster) : (s.modCluster g f).batch = s.batch := rfl
@[simp] theorem State.modCluster_iters (g : Nat) (f : Cluster → Cluster) : (s.modCluster g f).iters = s.iters := rfl
@[simp] theorem State.modCluster_models (g : Nat) (f : Cluster → Cluster) : (s.modCluster g f).models = s.models := rfl
@[simp] theorem State.modCluster_nextSeq (g : Nat) (f : Cluster → Cluster) : (s.modCluster g f).nextSeq = s.nextSeq := rfl
@[simp] theorem State.modCluster_batchIn (g : Nat) (f : Cluster → Cluster) : (s.modCluster g f).batchIn = s.batchIn := rfl
@[simp] theorem State.modCluster_reportIn (g : Nat) (f : Cluster → Cluster) : (s.modCluster g f).reportIn = s.reportIn := rfl
@[simp] theorem State.modCluster_moduleNum (g : Nat) (f : Cluster → Cluster) : (s.modCluster g f).moduleNum = s.moduleNum := rfl
@[simp] theorem State.modCluster_linkIn (g : Nat) (f : Cluster → Cluster) : (s.modCluster g f).linkIn = s.linkIn := rfl
@[simp] theorem State.modCluster_linkOut (g : Nat) (f : Cluster → Cluster) : (s.modCluster g f).linkOut = s.linkOut := rfl
@[simp] theorem State.modCluster_parked (g : Nat) (f : Cluster → Cluster) : (s.modCluster g f).parked = s.parked := rfl
@[simp] theorem State.modCluster_acks (g : Nat) (f : Cluster → Cluster) : (s.modCluster g f).acks = s.acks := rfl
@[simp] theorem State.modCluster_badWrites (g : Nat) (f : Cluster → Cluster) : (s.modCluster g f).badWrites = s.badWrites := rfl
@[simp] theorem State.modCluster_remoteSeen (g : Nat) (f : Cluster → Cluster) : (s.modCluster g f).remoteSeen = s.remoteSeen := rfl
@[simp] theorem State.modCluster_chunksIn (g : Nat) (f : Cluster → Cluster) : (s.modCluster g f).chunksIn = s.chunksIn := rfl
@[simp] theorem State.modCluster_parts (g : Nat) (f : Cluster → Cluster) : (s.modCluster g f).parts = s.parts := rfl
@[simp] theorem State.modCluster_saves (g : Nat) (f : Cluster → Cluster) : (s.modCluster g f).saves = s.saves := rfl
@[simp] theorem State.modCluster_cqHeld (g : Nat) (f : Cluster → Cluster) : (s.modCluster g f).cqHeld = s.cqHeld := rfl
@[simp] theorem State.modCluster_tried (g : Nat) (f : Cluster → Cluster) : (s.modCluster g f).tried = s.tried := rfl
@[simp] theorem State.modCluster_balances (g : Nat) (f : Cluster → Cluster) : (s.modCluster g f).balances = s.balances := rfl
@[simp] theorem State.modCluster_ticks (g : Nat) (f : Cluster → Cluster) : (s.modCluster g f).ticks = s.ticks := rfl
@[simp] theorem State.modCluster_subqs (g : Nat) (f : Cluster → Cluster) : (s.modCluster g f).subqs = s.subqs := rfl
@[simp] theorem State.modCluster_cqs (g : Nat) (f : Cluster → Cluster) : (s.modCluster g f).cqs = s.cqs := rfl
@[simp] theorem State.modCluster_msi (g : Nat) (f : Cluster → Cluster) : (s.modCluster g f).msi = s.msi := rfl
@[simp] theorem State.modCluster_htls (g : Nat) (f : Cluster → Cluster) : (s.modCluster g f).htls = s.htls := rfl
@[simp] theorem State.modCluster_xansval (g : Nat) (f : Cluster → Cluster) : (s.modCluster g f).xansval = s.xansval := rfl
@[simp] theorem State.modCluster_tparg (g : Nat) (f : Cluster → Cluster) : (s.modCluster g f).tparg = s.tparg := rfl
@[simp] theorem State.modCluster_tpstat (g : Nat) (f : Cluster → Cluster) : (s.modCluster g f).tpstat = s.tpstat := rfl
@[simp] theorem State.modCluster_frozenFns (g : Nat) (f : Cluster → Cluster) : (s.modCluster g f).frozenFns = s.frozenFns := rfl
@[simp] theorem State.modCluster_booted (g : Nat) (f : Cluster → Cluster) : (s.modCluster g f).booted = s.booted := rfl
@[simp] theorem State.modCluster_recov (g : Nat) (f : Cluster → Cluster) : (s.modCluster g f).recov = s.recov := rfl
@[simp] theorem State.modCluster_xmiss (g : Nat) (f : Cluster → Cluster) : (s.modCluster g f).xmiss = s.xmiss := rfl
@[simp] theorem State.modCluster_hbmKeys (g : Nat) (f : Cluster → Cluster) : (s.modCluster g f).hbmKeys = s.hbmKeys := rfl
@[simp] theorem State.modCluster_badHost (g : Nat) (f : Cluster → Cluster) : (s.modCluster g f).badHost = s.badHost := rfl
@[simp] theorem State.modCluster_commitWait (g : Nat) (f : Cluster → Cluster) : (s.modCluster g f).commitWait = s.commitWait := rfl
@[simp] theorem State.modCluster_tpWait (g : Nat) (f : Cluster → Cluster) : (s.modCluster g f).tpWait = s.tpWait := rfl
@[simp] theorem State.modCluster_flash (g : Nat) (f : Cluster → Cluster) : (s.modCluster g f).flash = s.flash := rfl
@[simp] theorem State.modCluster_running (g : Nat) (f : Cluster → Cluster) : (s.modCluster g f).running = s.running := rfl
@[simp] theorem State.modCluster_staged (g : Nat) (f : Cluster → Cluster) : (s.modCluster g f).staged = s.staged := rfl
@[simp] theorem State.modCluster_fuseSvn (g : Nat) (f : Cluster → Cluster) : (s.modCluster g f).fuseSvn = s.fuseSvn := rfl
@[simp] theorem State.modCluster_meas (g : Nat) (f : Cluster → Cluster) : (s.modCluster g f).meas = s.meas := rfl
@[simp] theorem State.modCluster_fwBase (g : Nat) (f : Cluster → Cluster) : (s.modCluster g f).fwBase = s.fwBase := rfl
@[simp] theorem State.modCluster_fwLimit (g : Nat) (f : Cluster → Cluster) : (s.modCluster g f).fwLimit = s.fwLimit := rfl
@[simp] theorem State.modCluster_stopped (g : Nat) (f : Cluster → Cluster) : (s.modCluster g f).stopped = s.stopped := rfl
@[simp] theorem State.modCluster_life (g : Nat) (f : Cluster → Cluster) : (s.modCluster g f).life = s.life := rfl
@[simp] theorem State.modCluster_hsel (g : Nat) (f : Cluster → Cluster) : (s.modCluster g f).hsel = s.hsel := rfl
@[simp] theorem State.modCluster_health (g : Nat) (f : Cluster → Cluster) : (s.modCluster g f).health = s.health := rfl

/-! ### modPart -/

@[simp] theorem State.modPart_agenda (p : Nat) (f : Part → Part) : (s.modPart p f).agenda = s.agenda := rfl
@[simp] theorem State.modPart_cycle (p : Nat) (f : Part → Part) : (s.modPart p f).cycle = s.cycle := rfl
@[simp] theorem State.modPart_coreTurn (p : Nat) (f : Part → Part) : (s.modPart p f).coreTurn = s.coreTurn := rfl
@[simp] theorem State.modPart_cur (p : Nat) (f : Part → Part) : (s.modPart p f).cur = s.cur := rfl
@[simp] theorem State.modPart_insn (p : Nat) (f : Part → Part) : (s.modPart p f).insn = s.insn := rfl
@[simp] theorem State.modPart_insnLen (p : Nat) (f : Part → Part) : (s.modPart p f).insnLen = s.insnLen := rfl
@[simp] theorem State.modPart_freeCtr (p : Nat) (f : Part → Part) : (s.modPart p f).freeCtr = s.freeCtr := rfl
@[simp] theorem State.modPart_rootCode (p : Nat) (f : Part → Part) : (s.modPart p f).rootCode = s.rootCode := rfl
@[simp] theorem State.modPart_ftimeBase (p : Nat) (f : Part → Part) : (s.modPart p f).ftimeBase = s.ftimeBase := rfl
@[simp] theorem State.modPart_fwroot (p : Nat) (f : Part → Part) : (s.modPart p f).fwroot = s.fwroot := rfl
@[simp] theorem State.modPart_threads (p : Nat) (f : Part → Part) : (s.modPart p f).threads = s.threads := rfl
@[simp] theorem State.modPart_nextUid (p : Nat) (f : Part → Part) : (s.modPart p f).nextUid = s.nextUid := rfl
@[simp] theorem State.modPart_slots (p : Nat) (f : Part → Part) : (s.modPart p f).slots = s.slots := rfl
@[simp] theorem State.modPart_cores (p : Nat) (f : Part → Part) : (s.modPart p f).cores = s.cores := rfl
@[simp] theorem State.modPart_pops (p : Nat) (f : Part → Part) : (s.modPart p f).pops = s.pops := rfl
@[simp] theorem State.modPart_nextPop (p : Nat) (f : Part → Part) : (s.modPart p f).nextPop = s.nextPop := rfl
@[simp] theorem State.modPart_groups (p : Nat) (f : Part → Part) : (s.modPart p f).groups = s.groups := rfl
@[simp] theorem State.modPart_pad (p : Nat) (f : Part → Part) : (s.modPart p f).pad = s.pad := rfl
@[simp] theorem State.modPart_padWords (p : Nat) (f : Part → Part) : (s.modPart p f).padWords = s.padWords := rfl
@[simp] theorem State.modPart_banks (p : Nat) (f : Part → Part) : (s.modPart p f).banks = s.banks := rfl
@[simp] theorem State.modPart_hbm (p : Nat) (f : Part → Part) : (s.modPart p f).hbm = s.hbm := rfl
@[simp] theorem State.modPart_hostMem (p : Nat) (f : Part → Part) : (s.modPart p f).hostMem = s.hostMem := rfl
@[simp] theorem State.modPart_badHbm (p : Nat) (f : Part → Part) : (s.modPart p f).badHbm = s.badHbm := rfl
@[simp] theorem State.modPart_badPad (p : Nat) (f : Part → Part) : (s.modPart p f).badPad = s.badPad := rfl
@[simp] theorem State.modPart_badCache (p : Nat) (f : Part → Part) : (s.modPart p f).badCache = s.badCache := rfl
@[simp] theorem State.modPart_stackErrs (p : Nat) (f : Part → Part) : (s.modPart p f).stackErrs = s.stackErrs := rfl
@[simp] theorem State.modPart_healthHours (p : Nat) (f : Part → Part) : (s.modPart p f).healthHours = s.healthHours := rfl
@[simp] theorem State.modPart_gens (p : Nat) (f : Part → Part) : (s.modPart p f).gens = s.gens := rfl
@[simp] theorem State.modPart_clusters (p : Nat) (f : Part → Part) : (s.modPart p f).clusters = s.clusters := rfl
@[simp] theorem State.modPart_arrays (p : Nat) (f : Part → Part) : (s.modPart p f).arrays = s.arrays := rfl
@[simp] theorem State.modPart_acc (p : Nat) (f : Part → Part) : (s.modPart p f).acc = s.acc := rfl
@[simp] theorem State.modPart_residencies (p : Nat) (f : Part → Part) : (s.modPart p f).residencies = s.residencies := rfl
@[simp] theorem State.modPart_useClock (p : Nat) (f : Part → Part) : (s.modPart p f).useClock = s.useClock := rfl
@[simp] theorem State.modPart_tids (p : Nat) (f : Part → Part) : (s.modPart p f).tids = s.tids := rfl
@[simp] theorem State.modPart_ctxs (p : Nat) (f : Part → Part) : (s.modPart p f).ctxs = s.ctxs := rfl
@[simp] theorem State.modPart_graphs (p : Nat) (f : Part → Part) : (s.modPart p f).graphs = s.graphs := rfl
@[simp] theorem State.modPart_views (p : Nat) (f : Part → Part) : (s.modPart p f).views = s.views := rfl
@[simp] theorem State.modPart_drafts (p : Nat) (f : Part → Part) : (s.modPart p f).drafts = s.drafts := rfl
@[simp] theorem State.modPart_nextOp (p : Nat) (f : Part → Part) : (s.modPart p f).nextOp = s.nextOp := rfl
@[simp] theorem State.modPart_nextAcc (p : Nat) (f : Part → Part) : (s.modPart p f).nextAcc = s.nextAcc := rfl
@[simp] theorem State.modPart_contexts (p : Nat) (f : Part → Part) : (s.modPart p f).contexts = s.contexts := rfl
@[simp] theorem State.modPart_blocks (p : Nat) (f : Part → Part) : (s.modPart p f).blocks = s.blocks := rfl
@[simp] theorem State.modPart_nodes (p : Nat) (f : Part → Part) : (s.modPart p f).nodes = s.nodes := rfl
@[simp] theorem State.modPart_nextNode (p : Nat) (f : Part → Part) : (s.modPart p f).nextNode = s.nextNode := rfl
@[simp] theorem State.modPart_agents (p : Nat) (f : Part → Part) : (s.modPart p f).agents = s.agents := rfl
@[simp] theorem State.modPart_batch (p : Nat) (f : Part → Part) : (s.modPart p f).batch = s.batch := rfl
@[simp] theorem State.modPart_iters (p : Nat) (f : Part → Part) : (s.modPart p f).iters = s.iters := rfl
@[simp] theorem State.modPart_models (p : Nat) (f : Part → Part) : (s.modPart p f).models = s.models := rfl
@[simp] theorem State.modPart_nextSeq (p : Nat) (f : Part → Part) : (s.modPart p f).nextSeq = s.nextSeq := rfl
@[simp] theorem State.modPart_batchIn (p : Nat) (f : Part → Part) : (s.modPart p f).batchIn = s.batchIn := rfl
@[simp] theorem State.modPart_reportIn (p : Nat) (f : Part → Part) : (s.modPart p f).reportIn = s.reportIn := rfl
@[simp] theorem State.modPart_moduleNum (p : Nat) (f : Part → Part) : (s.modPart p f).moduleNum = s.moduleNum := rfl
@[simp] theorem State.modPart_linkIn (p : Nat) (f : Part → Part) : (s.modPart p f).linkIn = s.linkIn := rfl
@[simp] theorem State.modPart_linkOut (p : Nat) (f : Part → Part) : (s.modPart p f).linkOut = s.linkOut := rfl
@[simp] theorem State.modPart_parked (p : Nat) (f : Part → Part) : (s.modPart p f).parked = s.parked := rfl
@[simp] theorem State.modPart_acks (p : Nat) (f : Part → Part) : (s.modPart p f).acks = s.acks := rfl
@[simp] theorem State.modPart_badWrites (p : Nat) (f : Part → Part) : (s.modPart p f).badWrites = s.badWrites := rfl
@[simp] theorem State.modPart_remoteSeen (p : Nat) (f : Part → Part) : (s.modPart p f).remoteSeen = s.remoteSeen := rfl
@[simp] theorem State.modPart_saves (p : Nat) (f : Part → Part) : (s.modPart p f).saves = s.saves := rfl
@[simp] theorem State.modPart_chunksIn (p : Nat) (f : Part → Part) : (s.modPart p f).chunksIn = s.chunksIn := rfl
@[simp] theorem State.modPart_cqHeld (p : Nat) (f : Part → Part) : (s.modPart p f).cqHeld = s.cqHeld := rfl
@[simp] theorem State.modPart_tried (p : Nat) (f : Part → Part) : (s.modPart p f).tried = s.tried := rfl
@[simp] theorem State.modPart_balances (p : Nat) (f : Part → Part) : (s.modPart p f).balances = s.balances := rfl
@[simp] theorem State.modPart_ticks (p : Nat) (f : Part → Part) : (s.modPart p f).ticks = s.ticks := rfl
@[simp] theorem State.modPart_subqs (p : Nat) (f : Part → Part) : (s.modPart p f).subqs = s.subqs := rfl
@[simp] theorem State.modPart_cqs (p : Nat) (f : Part → Part) : (s.modPart p f).cqs = s.cqs := rfl
@[simp] theorem State.modPart_msi (p : Nat) (f : Part → Part) : (s.modPart p f).msi = s.msi := rfl
@[simp] theorem State.modPart_htls (p : Nat) (f : Part → Part) : (s.modPart p f).htls = s.htls := rfl
@[simp] theorem State.modPart_xansval (p : Nat) (f : Part → Part) : (s.modPart p f).xansval = s.xansval := rfl
@[simp] theorem State.modPart_tparg (p : Nat) (f : Part → Part) : (s.modPart p f).tparg = s.tparg := rfl
@[simp] theorem State.modPart_tpstat (p : Nat) (f : Part → Part) : (s.modPart p f).tpstat = s.tpstat := rfl
@[simp] theorem State.modPart_frozenFns (p : Nat) (f : Part → Part) : (s.modPart p f).frozenFns = s.frozenFns := rfl
@[simp] theorem State.modPart_booted (p : Nat) (f : Part → Part) : (s.modPart p f).booted = s.booted := rfl
@[simp] theorem State.modPart_recov (p : Nat) (f : Part → Part) : (s.modPart p f).recov = s.recov := rfl
@[simp] theorem State.modPart_xmiss (p : Nat) (f : Part → Part) : (s.modPart p f).xmiss = s.xmiss := rfl
@[simp] theorem State.modPart_hbmKeys (p : Nat) (f : Part → Part) : (s.modPart p f).hbmKeys = s.hbmKeys := rfl
@[simp] theorem State.modPart_badHost (p : Nat) (f : Part → Part) : (s.modPart p f).badHost = s.badHost := rfl
@[simp] theorem State.modPart_commitWait (p : Nat) (f : Part → Part) : (s.modPart p f).commitWait = s.commitWait := rfl
@[simp] theorem State.modPart_tpWait (p : Nat) (f : Part → Part) : (s.modPart p f).tpWait = s.tpWait := rfl
@[simp] theorem State.modPart_flash (p : Nat) (f : Part → Part) : (s.modPart p f).flash = s.flash := rfl
@[simp] theorem State.modPart_running (p : Nat) (f : Part → Part) : (s.modPart p f).running = s.running := rfl
@[simp] theorem State.modPart_staged (p : Nat) (f : Part → Part) : (s.modPart p f).staged = s.staged := rfl
@[simp] theorem State.modPart_fuseSvn (p : Nat) (f : Part → Part) : (s.modPart p f).fuseSvn = s.fuseSvn := rfl
@[simp] theorem State.modPart_meas (p : Nat) (f : Part → Part) : (s.modPart p f).meas = s.meas := rfl
@[simp] theorem State.modPart_fwBase (p : Nat) (f : Part → Part) : (s.modPart p f).fwBase = s.fwBase := rfl
@[simp] theorem State.modPart_fwLimit (p : Nat) (f : Part → Part) : (s.modPart p f).fwLimit = s.fwLimit := rfl
@[simp] theorem State.modPart_stopped (p : Nat) (f : Part → Part) : (s.modPart p f).stopped = s.stopped := rfl
@[simp] theorem State.modPart_life (p : Nat) (f : Part → Part) : (s.modPart p f).life = s.life := rfl
@[simp] theorem State.modPart_hsel (p : Nat) (f : Part → Part) : (s.modPart p f).hsel = s.hsel := rfl
@[simp] theorem State.modPart_health (p : Nat) (f : Part → Part) : (s.modPart p f).health = s.health := rfl

/-! ### Registers of a thread -/

@[simp] theorem Thread.setX_sid (r : Nat) (x : Reg Word) : (th.setX r x).sid = th.sid := by unfold Thread.setX; split <;> rfl
@[simp] theorem Thread.setX_part (r : Nat) (x : Reg Word) : (th.setX r x).part = th.part := by unfold Thread.setX; split <;> rfl
@[simp] theorem Thread.setX_ten (r : Nat) (x : Reg Word) : (th.setX r x).ten = th.ten := by unfold Thread.setX; split <;> rfl
@[simp] theorem Thread.setX_pop (r : Nat) (x : Reg Word) : (th.setX r x).pop = th.pop := by unfold Thread.setX; split <;> rfl
@[simp] theorem Thread.setX_index (r : Nat) (x : Reg Word) : (th.setX r x).index = th.index := by unfold Thread.setX; split <;> rfl
@[simp] theorem Thread.setX_v (r : Nat) (x : Reg Word) : (th.setX r x).v = th.v := by unfold Thread.setX; split <;> rfl
@[simp] theorem Thread.setX_p (r : Nat) (x : Reg Word) : (th.setX r x).p = th.p := by unfold Thread.setX; split <;> rfl
@[simp] theorem Thread.setX_q (r : Nat) (x : Reg Word) : (th.setX r x).q = th.q := by unfold Thread.setX; split <;> rfl
@[simp] theorem Thread.setX_pc (r : Nat) (x : Reg Word) : (th.setX r x).pc = th.pc := by unfold Thread.setX; split <;> rfl
@[simp] theorem Thread.setX_wlim (r : Nat) (x : Reg Word) : (th.setX r x).wlim = th.wlim := by unfold Thread.setX; split <;> rfl
@[simp] theorem Thread.setX_latch (r : Nat) (x : Reg Word) : (th.setX r x).latch = th.latch := by unfold Thread.setX; split <;> rfl
@[simp] theorem Thread.setX_lastTl (r : Nat) (x : Reg Word) : (th.setX r x).lastTl = th.lastTl := by unfold Thread.setX; split <;> rfl
@[simp] theorem Thread.setX_claim (r : Nat) (x : Reg Word) : (th.setX r x).claim = th.claim := by unfold Thread.setX; split <;> rfl
@[simp] theorem Thread.setX_claimSent (r : Nat) (x : Reg Word) : (th.setX r x).claimSent = th.claimSent := by unfold Thread.setX; split <;> rfl
@[simp] theorem Thread.setX_ext0 (r : Nat) (x : Reg Word) : (th.setX r x).ext0 = th.ext0 := by unfold Thread.setX; split <;> rfl
@[simp] theorem Thread.setX_ext1 (r : Nat) (x : Reg Word) : (th.setX r x).ext1 = th.ext1 := by unfold Thread.setX; split <;> rfl
@[simp] theorem Thread.setX_ext2 (r : Nat) (x : Reg Word) : (th.setX r x).ext2 = th.ext2 := by unfold Thread.setX; split <;> rfl
@[simp] theorem Thread.setX_sfuWords (r : Nat) (x : Reg Word) : (th.setX r x).sfuWords = th.sfuWords := by unfold Thread.setX; split <;> rfl
@[simp] theorem Thread.setX_sfuSeq (r : Nat) (x : Reg Word) : (th.setX r x).sfuSeq = th.sfuSeq := by unfold Thread.setX; split <;> rfl
@[simp] theorem Thread.setX_held (r : Nat) (x : Reg Word) : (th.setX r x).held = th.held := by unfold Thread.setX; split <;> rfl
@[simp] theorem Thread.setX_frozen (r : Nat) (x : Reg Word) : (th.setX r x).frozen = th.frozen := by unfold Thread.setX; split <;> rfl
@[simp] theorem Thread.setX_record (r : Nat) (x : Reg Word) : (th.setX r x).record = th.record := by unfold Thread.setX; split <;> rfl
@[simp] theorem Thread.setX_wfe (r : Nat) (x : Reg Word) : (th.setX r x).wfe = th.wfe := by unfold Thread.setX; split <;> rfl
@[simp] theorem Thread.setX_norm (r : Nat) (x : Reg Word) : (th.setX r x).norm = th.norm := by unfold Thread.setX; split <;> rfl
@[simp] theorem Thread.setX_notBefore (r : Nat) (x : Reg Word) : (th.setX r x).notBefore = th.notBefore := by unfold Thread.setX; split <;> rfl
@[simp] theorem Thread.setX_wait (r : Nat) (x : Reg Word) : (th.setX r x).wait = th.wait := by unfold Thread.setX; split <;> rfl
@[simp] theorem Thread.setX_waitSince (r : Nat) (x : Reg Word) : (th.setX r x).waitSince = th.waitSince := by unfold Thread.setX; split <;> rfl
@[simp] theorem Thread.setX_returns (r : Nat) (x : Reg Word) : (th.setX r x).returns = th.returns := by unfold Thread.setX; split <;> rfl
@[simp] theorem Thread.setX_heldOps (r : Nat) (x : Reg Word) : (th.setX r x).heldOps = th.heldOps := by unfold Thread.setX; split <;> rfl
@[simp] theorem Thread.setX_answers (r : Nat) (x : Reg Word) : (th.setX r x).answers = th.answers := by unfold Thread.setX; split <;> rfl
@[simp] theorem Thread.setX_bar (r : Nat) (x : Reg Word) : (th.setX r x).bar = th.bar := by unfold Thread.setX; split <;> rfl
@[simp] theorem Thread.setX_groups (r : Nat) (x : Reg Word) : (th.setX r x).groups = th.groups := by unfold Thread.setX; split <;> rfl
@[simp] theorem Thread.setX_triggered (r : Nat) (x : Reg Word) : (th.setX r x).triggered = th.triggered := by unfold Thread.setX; split <;> rfl
@[simp] theorem Thread.setX_pbad (r : Nat) (x : Reg Word) : (th.setX r x).pbad = th.pbad := by unfold Thread.setX; split <;> rfl
@[simp] theorem Thread.setX_thaw (r : Nat) (x : Reg Word) : (th.setX r x).thaw = th.thaw := by unfold Thread.setX; split <;> rfl
@[simp] theorem Thread.setX_saved (r : Nat) (x : Reg Word) : (th.setX r x).saved = th.saved := by unfold Thread.setX; split <;> rfl
@[simp] theorem Thread.setX_savedSync (r : Nat) (x : Reg Word) : (th.setX r x).savedSync = th.savedSync := by unfold Thread.setX; split <;> rfl
@[simp] theorem Thread.setX_savedSfu (r : Nat) (x : Reg Word) : (th.setX r x).savedSfu = th.savedSfu := by unfold Thread.setX; split <;> rfl
@[simp] theorem Thread.setX_savedBank (r : Nat) (x : Reg Word) : (th.setX r x).savedBank = th.savedBank := by unfold Thread.setX; split <;> rfl
@[simp] theorem Thread.setX_savedLease (r : Nat) (x : Reg Word) : (th.setX r x).savedLease = th.savedLease := by unfold Thread.setX; split <;> rfl
@[simp] theorem Thread.setV_sid (r : Nat) (x : Reg VWord) : (th.setV r x).sid = th.sid := rfl
@[simp] theorem Thread.setV_part (r : Nat) (x : Reg VWord) : (th.setV r x).part = th.part := rfl
@[simp] theorem Thread.setV_ten (r : Nat) (x : Reg VWord) : (th.setV r x).ten = th.ten := rfl
@[simp] theorem Thread.setV_pop (r : Nat) (x : Reg VWord) : (th.setV r x).pop = th.pop := rfl
@[simp] theorem Thread.setV_index (r : Nat) (x : Reg VWord) : (th.setV r x).index = th.index := rfl
@[simp] theorem Thread.setV_x (r : Nat) (x : Reg VWord) : (th.setV r x).x = th.x := rfl
@[simp] theorem Thread.setV_p (r : Nat) (x : Reg VWord) : (th.setV r x).p = th.p := rfl
@[simp] theorem Thread.setV_q (r : Nat) (x : Reg VWord) : (th.setV r x).q = th.q := rfl
@[simp] theorem Thread.setV_pc (r : Nat) (x : Reg VWord) : (th.setV r x).pc = th.pc := rfl
@[simp] theorem Thread.setV_pbad (r : Nat) (x : Reg VWord) : (th.setV r x).pbad = th.pbad := rfl
@[simp] theorem Thread.setV_thaw (r : Nat) (x : Reg VWord) : (th.setV r x).thaw = th.thaw := rfl
@[simp] theorem Thread.setV_wlim (r : Nat) (x : Reg VWord) : (th.setV r x).wlim = th.wlim := rfl
@[simp] theorem Thread.setV_latch (r : Nat) (x : Reg VWord) : (th.setV r x).latch = th.latch := rfl
@[simp] theorem Thread.setV_lastTl (r : Nat) (x : Reg VWord) : (th.setV r x).lastTl = th.lastTl := rfl
@[simp] theorem Thread.setV_claim (r : Nat) (x : Reg VWord) : (th.setV r x).claim = th.claim := rfl
@[simp] theorem Thread.setV_claimSent (r : Nat) (x : Reg VWord) : (th.setV r x).claimSent = th.claimSent := rfl
@[simp] theorem Thread.setV_ext0 (r : Nat) (x : Reg VWord) : (th.setV r x).ext0 = th.ext0 := rfl
@[simp] theorem Thread.setV_ext1 (r : Nat) (x : Reg VWord) : (th.setV r x).ext1 = th.ext1 := rfl
@[simp] theorem Thread.setV_ext2 (r : Nat) (x : Reg VWord) : (th.setV r x).ext2 = th.ext2 := rfl
@[simp] theorem Thread.setV_sfuWords (r : Nat) (x : Reg VWord) : (th.setV r x).sfuWords = th.sfuWords := rfl
@[simp] theorem Thread.setV_sfuSeq (r : Nat) (x : Reg VWord) : (th.setV r x).sfuSeq = th.sfuSeq := rfl
@[simp] theorem Thread.setV_held (r : Nat) (x : Reg VWord) : (th.setV r x).held = th.held := rfl
@[simp] theorem Thread.setV_frozen (r : Nat) (x : Reg VWord) : (th.setV r x).frozen = th.frozen := rfl
@[simp] theorem Thread.setV_record (r : Nat) (x : Reg VWord) : (th.setV r x).record = th.record := rfl
@[simp] theorem Thread.setV_wfe (r : Nat) (x : Reg VWord) : (th.setV r x).wfe = th.wfe := rfl
@[simp] theorem Thread.setV_norm (r : Nat) (x : Reg VWord) : (th.setV r x).norm = th.norm := rfl
@[simp] theorem Thread.setV_notBefore (r : Nat) (x : Reg VWord) : (th.setV r x).notBefore = th.notBefore := rfl
@[simp] theorem Thread.setV_wait (r : Nat) (x : Reg VWord) : (th.setV r x).wait = th.wait := rfl
@[simp] theorem Thread.setV_waitSince (r : Nat) (x : Reg VWord) : (th.setV r x).waitSince = th.waitSince := rfl
@[simp] theorem Thread.setV_returns (r : Nat) (x : Reg VWord) : (th.setV r x).returns = th.returns := rfl
@[simp] theorem Thread.setV_heldOps (r : Nat) (x : Reg VWord) : (th.setV r x).heldOps = th.heldOps := rfl
@[simp] theorem Thread.setV_answers (r : Nat) (x : Reg VWord) : (th.setV r x).answers = th.answers := rfl
@[simp] theorem Thread.setV_bar (r : Nat) (x : Reg VWord) : (th.setV r x).bar = th.bar := rfl
@[simp] theorem Thread.setV_groups (r : Nat) (x : Reg VWord) : (th.setV r x).groups = th.groups := rfl
@[simp] theorem Thread.setV_triggered (r : Nat) (x : Reg VWord) : (th.setV r x).triggered = th.triggered := rfl
@[simp] theorem Thread.setV_saved (r : Nat) (x : Reg VWord) : (th.setV r x).saved = th.saved := rfl
@[simp] theorem Thread.setV_savedSync (r : Nat) (x : Reg VWord) : (th.setV r x).savedSync = th.savedSync := rfl
@[simp] theorem Thread.setV_savedSfu (r : Nat) (x : Reg VWord) : (th.setV r x).savedSfu = th.savedSfu := rfl
@[simp] theorem Thread.setV_savedBank (r : Nat) (x : Reg VWord) : (th.setV r x).savedBank = th.savedBank := rfl
@[simp] theorem Thread.setV_savedLease (r : Nat) (x : Reg VWord) : (th.setV r x).savedLease = th.savedLease := rfl
@[simp] theorem Thread.setP_sid (r : Nat) (x : PWord) : (th.setP r x).sid = th.sid := rfl
@[simp] theorem Thread.setP_part (r : Nat) (x : PWord) : (th.setP r x).part = th.part := rfl
@[simp] theorem Thread.setP_ten (r : Nat) (x : PWord) : (th.setP r x).ten = th.ten := rfl
@[simp] theorem Thread.setP_pop (r : Nat) (x : PWord) : (th.setP r x).pop = th.pop := rfl
@[simp] theorem Thread.setP_index (r : Nat) (x : PWord) : (th.setP r x).index = th.index := rfl
@[simp] theorem Thread.setP_x (r : Nat) (x : PWord) : (th.setP r x).x = th.x := rfl
@[simp] theorem Thread.setP_v (r : Nat) (x : PWord) : (th.setP r x).v = th.v := rfl
@[simp] theorem Thread.setP_q (r : Nat) (x : PWord) : (th.setP r x).q = th.q := rfl
@[simp] theorem Thread.setP_pc (r : Nat) (x : PWord) : (th.setP r x).pc = th.pc := rfl
@[simp] theorem Thread.setP_pbad (r : Nat) (x : PWord) : (th.setP r x).pbad = th.pbad &&& ~~~(1#8 <<< r) := rfl
@[simp] theorem Thread.setP_thaw (r : Nat) (x : PWord) : (th.setP r x).thaw = th.thaw := rfl
@[simp] theorem Thread.setP_wlim (r : Nat) (x : PWord) : (th.setP r x).wlim = th.wlim := rfl
@[simp] theorem Thread.setP_latch (r : Nat) (x : PWord) : (th.setP r x).latch = th.latch := rfl
@[simp] theorem Thread.setP_lastTl (r : Nat) (x : PWord) : (th.setP r x).lastTl = th.lastTl := rfl
@[simp] theorem Thread.setP_claim (r : Nat) (x : PWord) : (th.setP r x).claim = th.claim := rfl
@[simp] theorem Thread.setP_claimSent (r : Nat) (x : PWord) : (th.setP r x).claimSent = th.claimSent := rfl
@[simp] theorem Thread.setP_ext0 (r : Nat) (x : PWord) : (th.setP r x).ext0 = th.ext0 := rfl
@[simp] theorem Thread.setP_ext1 (r : Nat) (x : PWord) : (th.setP r x).ext1 = th.ext1 := rfl
@[simp] theorem Thread.setP_ext2 (r : Nat) (x : PWord) : (th.setP r x).ext2 = th.ext2 := rfl
@[simp] theorem Thread.setP_sfuWords (r : Nat) (x : PWord) : (th.setP r x).sfuWords = th.sfuWords := rfl
@[simp] theorem Thread.setP_sfuSeq (r : Nat) (x : PWord) : (th.setP r x).sfuSeq = th.sfuSeq := rfl
@[simp] theorem Thread.setP_held (r : Nat) (x : PWord) : (th.setP r x).held = th.held := rfl
@[simp] theorem Thread.setP_frozen (r : Nat) (x : PWord) : (th.setP r x).frozen = th.frozen := rfl
@[simp] theorem Thread.setP_record (r : Nat) (x : PWord) : (th.setP r x).record = th.record := rfl
@[simp] theorem Thread.setP_wfe (r : Nat) (x : PWord) : (th.setP r x).wfe = th.wfe := rfl
@[simp] theorem Thread.setP_norm (r : Nat) (x : PWord) : (th.setP r x).norm = th.norm := rfl
@[simp] theorem Thread.setP_notBefore (r : Nat) (x : PWord) : (th.setP r x).notBefore = th.notBefore := rfl
@[simp] theorem Thread.setP_wait (r : Nat) (x : PWord) : (th.setP r x).wait = th.wait := rfl
@[simp] theorem Thread.setP_waitSince (r : Nat) (x : PWord) : (th.setP r x).waitSince = th.waitSince := rfl
@[simp] theorem Thread.setP_returns (r : Nat) (x : PWord) : (th.setP r x).returns = th.returns := rfl
@[simp] theorem Thread.setP_heldOps (r : Nat) (x : PWord) : (th.setP r x).heldOps = th.heldOps := rfl
@[simp] theorem Thread.setP_answers (r : Nat) (x : PWord) : (th.setP r x).answers = th.answers := rfl
@[simp] theorem Thread.setP_bar (r : Nat) (x : PWord) : (th.setP r x).bar = th.bar := rfl
@[simp] theorem Thread.setP_groups (r : Nat) (x : PWord) : (th.setP r x).groups = th.groups := rfl
@[simp] theorem Thread.setP_triggered (r : Nat) (x : PWord) : (th.setP r x).triggered = th.triggered := rfl
@[simp] theorem Thread.setP_saved (r : Nat) (x : PWord) : (th.setP r x).saved = th.saved := rfl
@[simp] theorem Thread.setP_savedSync (r : Nat) (x : PWord) : (th.setP r x).savedSync = th.savedSync := rfl
@[simp] theorem Thread.setP_savedSfu (r : Nat) (x : PWord) : (th.setP r x).savedSfu = th.savedSfu := rfl
@[simp] theorem Thread.setP_savedBank (r : Nat) (x : PWord) : (th.setP r x).savedBank = th.savedBank := rfl
@[simp] theorem Thread.setP_savedLease (r : Nat) (x : PWord) : (th.setP r x).savedLease = th.savedLease := rfl

end Sys2Proof.Machine
end

