-- ==== Sys2Proof/Laws/Ops.lean ====
section
/-! SUPPORT. Sys2Proof/Laws/Ops.lean: registers and threads read back what is written, and what the frame around every core-level
instruction does, said once. -/

namespace Sys2Proof.Machine

/-! ### Threads -/

@[simp] theorem State.thr_setThr_same (s : State) (t : Nat) (th : Thread) : (s.setThr t th).thr t = th := by
  simp [State.thr, State.setThr]

theorem State.thr_setThr_other (s : State) {t u : Nat} (th : Thread) (h : u ≠ t) : (s.setThr t th).thr u = s.thr u := by
  simp [State.thr, State.setThr, Table.get_set_other _ _ _ h]

@[simp] theorem State.setThr_setThr (s : State) (t : Nat) (a b : Thread) : (s.setThr t a).setThr t b = s.setThr t b := by
  simp [State.setThr]

@[simp] theorem State.me_setThr (s : State) (th : Thread) : (s.setThr s.cur th).me = th := by
  simp [State.me]

@[simp] theorem State.setThr_modThr (s : State) (t : Nat) (a : Thread) (f : Thread → Thread) :
    (s.setThr t a).modThr t f = s.setThr t (f a) := by
  simp [State.modThr]

theorem State.modThr_eq (s : State) (t : Nat) (f : Thread → Thread) : s.modThr t f = s.setThr t (f (s.thr t)) := rfl

@[simp] theorem State.alive_setThr (s : State) (t u : Nat) (th : Thread) (h : s.alive t = true) :
    (s.setThr t th).alive u = s.alive u := by
  unfold State.alive State.setThr at *
  rw [Table.has_set]
  by_cases hu : u = t
  · subst hu; rw [h]; simp
  · simp [hu]

@[simp] theorem State.modThr_modThr (s : State) (t : Nat) (f g : Thread → Thread) :
    (s.modThr t f).modThr t g = s.modThr t (fun th => g (f th)) := by
  simp [State.modThr]

@[simp] theorem State.thr_modThr_same (s : State) (t : Nat) (f : Thread → Thread) : (s.modThr t f).thr t = f (s.thr t) := by
  simp [State.modThr]

theorem State.thr_modThr_other (s : State) {t u : Nat} (f : Thread → Thread) (h : u ≠ t) :
    (s.modThr t f).thr u = s.thr u := State.thr_setThr_other _ _ h

@[simp] theorem State.alive_modThr (s : State) (t u : Nat) (f : Thread → Thread) (h : s.alive t = true) :
    (s.modThr t f).alive u = s.alive u := State.alive_setThr _ _ _ _ h

/-! ### Updates of different parts of the state commute -/

theorem State.modThr_modCore (s : State) (t k : Nat) (f : Thread → Thread) (g : Core → Core) :
    (s.modThr t f).modCore k g = (s.modCore k g).modThr t f := rfl
theorem State.modThr_modCluster (s : State) (t k : Nat) (f : Thread → Thread) (g : Cluster → Cluster) :
    (s.modThr t f).modCluster k g = (s.modCluster k g).modThr t f := rfl
theorem State.modThr_modPart (s : State) (t k : Nat) (f : Thread → Thread) (g : Part → Part) :
    (s.modThr t f).modPart k g = (s.modPart k g).modThr t f := rfl
@[simp] theorem State.thr_modCore (s : State) (k t : Nat) (g : Core → Core) : (s.modCore k g).thr t = s.thr t := rfl
@[simp] theorem State.alive_modCore (s : State) (k t : Nat) (g : Core → Core) : (s.modCore k g).alive t = s.alive t := rfl
@[simp] theorem State.thr_modPart (s : State) (k t : Nat) (g : Part → Part) : (s.modPart k g).thr t = s.thr t := rfl
@[simp] theorem State.alive_modPart (s : State) (k t : Nat) (g : Part → Part) : (s.modPart k g).alive t = s.alive t := rfl
@[simp] theorem State.core_modCore_same (s : State) (k : Nat) (g : Core → Core) : (s.modCore k g).core k = g (s.core k) := by
  simp [State.core, State.modCore]
@[simp] theorem State.core_modThr (s : State) (t k : Nat) (f : Thread → Thread) : (s.modThr t f).core k = s.core k := rfl
@[simp] theorem State.part_modThr (s : State) (t k : Nat) (f : Thread → Thread) : (s.modThr t f).part k = s.part k := rfl
@[simp] theorem State.part_modPart_same (s : State) (k : Nat) (g : Part → Part) : (s.modPart k g).part k = g (s.part k) := by
  simp [State.part, State.modPart]

/-! ### Registers -/

@[simp] theorem Thread.getX_zero (th : Thread) : th.getX 0 = zeroReg := rfl

@[simp] theorem Thread.setX_zero (th : Thread) (v : Reg Word) : th.setX 0 v = th := rfl

theorem Thread.getX_setX (th : Thread) (r q : Nat) (v : Reg Word) :
    (th.setX r v).getX q = if q = r ∧ r ≠ 0 then v else th.getX q := by
  unfold Thread.setX Thread.getX
  by_cases hr : r = 0
  · simp [hr]
  · by_cases hq : q = r
    · simp [hq, hr]
    · by_cases h0 : q = 0
      · simp [h0, Ne.symm hr]
      · simp [hr, hq, h0, Table.get_set_other _ _ _ hq]

@[simp] theorem Thread.getX_setV (th : Thread) (r q : Nat) (v : Reg VWord) : (th.setV r v).getX q = th.getX q := rfl
@[simp] theorem Thread.getV_setX (th : Thread) (r q : Nat) (v : Reg Word) : (th.setX r v).getV q = th.getV q := by
  unfold Thread.getV; simp
@[simp] theorem Thread.getP_setX (th : Thread) (r q : Nat) (v : Reg Word) : (th.setX r v).getP q = th.getP q := by
  unfold Thread.getP; simp

theorem Thread.getV_setV (th : Thread) (r q : Nat) (v : Reg VWord) :
    (th.setV r v).getV q = if q = r then v else th.getV q := by
  unfold Thread.setV Thread.getV
  by_cases hq : q = r
  · simp [hq]
  · simp [hq, Table.get_set_other _ _ _ hq]

theorem Thread.getP_setP (th : Thread) (r q : Nat) (v : PWord) :
    (th.setP r v).getP q = if q = r then v else th.getP q := by
  unfold Thread.setP Thread.getP
  by_cases hq : q = r
  · simp [hq]
  · simp [hq, Table.get_set_other _ _ _ hq]

/-- A take source keeps its contents (R25). -/
@[simp] theorem Thread.xval_emptyX (th : Thread) (r q : Nat) : (th.emptyX r).xval q = th.xval q := by
  unfold Thread.xval Thread.emptyX
  rw [Thread.getX_setX]
  split
  · rename_i h; simp [h.1]
  · rfl

/-! ### Take sources -/

/-- What a fold of `emptyX` keeps. -/
theorem foldl_emptyX {β : Type} (g : Thread → β) (h : ∀ th r, g (Thread.emptyX th r) = g th) (l : List Src) (th : Thread) :
    g (l.foldl (fun th a => th.emptyX a.reg) th) = g th := by
  induction l generalizing th with
  | nil => rfl
  | cons a l ih => rw [List.foldl_cons, ih, h]

theorem Needs.marks_keeps {β : Type} (g : Thread → β) (h : ∀ th r, g (Thread.emptyX th r) = g th) (n : Needs) (th : Thread) :
    g (n.marks th) = g th := foldl_emptyX g h _ th

@[simp] theorem Needs.marks_xval (n : Needs) (th : Thread) (q : Nat) : (n.marks th).xval q = th.xval q :=
  Needs.marks_keeps (·.xval q) (fun _ _ => Thread.xval_emptyX _ _ _) n th
@[simp] theorem Needs.marks_pc (n : Needs) (th : Thread) : (n.marks th).pc = th.pc :=
  Needs.marks_keeps (·.pc) (fun _ _ => by simp [Thread.emptyX]) n th
@[simp] theorem Needs.marks_sid (n : Needs) (th : Thread) : (n.marks th).sid = th.sid :=
  Needs.marks_keeps (·.sid) (fun _ _ => by simp [Thread.emptyX]) n th
@[simp] theorem Needs.marks_part (n : Needs) (th : Thread) : (n.marks th).part = th.part :=
  Needs.marks_keeps (·.part) (fun _ _ => by simp [Thread.emptyX]) n th
@[simp] theorem Needs.marks_ten (n : Needs) (th : Thread) : (n.marks th).ten = th.ten :=
  Needs.marks_keeps (·.ten) (fun _ _ => by simp [Thread.emptyX]) n th
@[simp] theorem Needs.marks_v (n : Needs) (th : Thread) : (n.marks th).v = th.v :=
  Needs.marks_keeps (·.v) (fun _ _ => by simp [Thread.emptyX]) n th
@[simp] theorem Needs.marks_p (n : Needs) (th : Thread) : (n.marks th).p = th.p :=
  Needs.marks_keeps (·.p) (fun _ _ => by simp [Thread.emptyX]) n th
@[simp] theorem Needs.marks_wlim (n : Needs) (th : Thread) : (n.marks th).wlim = th.wlim :=
  Needs.marks_keeps (·.wlim) (fun _ _ => by simp [Thread.emptyX]) n th
@[simp] theorem Needs.marks_q (n : Needs) (th : Thread) : (n.marks th).q = th.q :=
  Needs.marks_keeps (·.q) (fun _ _ => by simp [Thread.emptyX]) n th
@[simp] theorem Needs.marks_empty (th : Thread) (vs dx dv : List Nat) :
    Needs.marks { vs := vs, dx := dx, dv := dv } th = th := rfl
@[simp] theorem Needs.marks_vval (n : Needs) (th : Thread) (q : Nat) : (n.marks th).vval q = th.vval q := by
  unfold Thread.vval Thread.getV; simp
@[simp] theorem Needs.marks_getP (n : Needs) (th : Thread) (q : Nat) : (n.marks th).getP q = th.getP q := by
  unfold Thread.getP; simp

/-- An instruction sees the same contents of its sources after they are marked. -/
@[simp] theorem State.rx_take (s : State) (n : Needs) (a : Src) : (s.take n).rx a = s.rx a := by
  simp [State.rx, State.take, State.modThr, State.me]
@[simp] theorem State.rv_take (s : State) (n : Needs) (r : Nat) : (s.take n).rv r = s.rv r := by
  simp [State.rv, State.take, State.modThr, State.me]
@[simp] theorem State.rp_take (s : State) (n : Needs) (r : Nat) : (s.take n).rp r = s.rp r := by
  simp [State.rp, State.take, State.modThr, State.me]
theorem State.take_eq (s : State) (n : Needs) : s.take n = s.setThr s.cur (n.marks s.me) := rfl
@[simp] theorem State.take_cur (s : State) (n : Needs) : (s.take n).cur = s.cur := rfl
@[simp] theorem State.take_insnLen (s : State) (n : Needs) : (s.take n).insnLen = s.insnLen := rfl
@[simp] theorem State.me_take (s : State) (n : Needs) : (s.take n).me = n.marks s.me := by simp [State.take_eq]

/-! ### The frame around an instruction (R24, R27) -/

theorem Ready.blocked {s : State} {n : Needs} (h : Ready s n) : n.blocked s.me = false := by
  have hx : n.xBlock s.me = [] := by
    unfold Needs.xBlock
    rw [List.append_eq_nil_iff, List.map_eq_nil_iff, List.filter_eq_nil_iff, List.filter_eq_nil_iff]
    refine ⟨fun a ha => ?_, fun r hr => by simp [h.dx r hr]⟩
    obtain ⟨h1, -⟩ := h.src a ha
    cases hm : a.mode <;> simp_all [Src.waits]
  have hv : n.vBlock s.me = false := by
    unfold Needs.vBlock
    rw [Bool.or_eq_false_iff, List.any_eq_false, List.any_eq_false]
    exact ⟨fun r hr => by simp [(h.vs r hr).1], fun r hr => by simp [h.dv r hr]⟩
  simp [Needs.blocked, hx, hv]

theorem Ready.chk {s : State} {n : Needs} (h : Ready s n) : n.chkEmpty s.me = false := by
  unfold Needs.chkEmpty
  rw [List.any_eq_false]
  intro a ha
  obtain ⟨h1, -⟩ := h.src a ha
  cases hm : a.mode <;> simp_all

theorem Ready.clean {s : State} {n : Needs} (h : Ready s n) : n.poisoned s.me = false := by
  unfold Needs.poisoned
  rw [Bool.or_eq_false_iff, Bool.or_eq_false_iff, List.any_eq_false, List.any_eq_false, List.any_eq_false]
  refine ⟨⟨fun a ha => ?_, fun r hr => by simp [(h.vs r hr).2]⟩, fun r hr => by simp [h.ps r hr]⟩
  obtain ⟨-, h2⟩ := h.src a ha
  cases hf : (s.me.getX a.reg).full <;> simp_all

/-- An instruction whose registers are ready acts on the state in which its take sources are empty. -/
theorem issue_ready {s : State} {n : Needs} (h : Ready s n) (k : State → Verdict) :
    issue n k s = (k (s.take n)).close s := by
  unfold issue
  rw [h.blocked, h.chk, h.clean]
  rfl

/-- What an attempt can come to: a wait, the empty-register trap, the poison trap, or the instruction's own verdict. -/
theorem issue_cases (n : Needs) (k : State → Verdict) (s : State) :
    (n.blocked s.me = true ∧ issue n k s = .next (s.parkOn (.regs (n.xBlock s.me)))) ∨
    (n.blocked s.me = false ∧ n.chkEmpty s.me = true ∧ issue n k s = .next (s.takeTrap 7 0 0)) ∨
    (n.blocked s.me = false ∧ n.chkEmpty s.me = false ∧ n.poisoned s.me = true ∧ issue n k s = .next (s.takeTrap 8 0 0)) ∨
    (n.blocked s.me = false ∧ n.chkEmpty s.me = false ∧ n.poisoned s.me = false ∧
      issue n k s = (k (s.take n)).close s) := by
  unfold issue
  cases n.blocked s.me <;> cases n.chkEmpty s.me <;> cases n.poisoned s.me <;> simp

theorem State.issued_alive (s : State) (h : s.alive s.cur = true) :
    s.issued = s.modThr s.cur fun th => { th with wait := none, answers := [] } := if_pos h

theorem State.after_eq (s : State) (n : Needs) (f : Thread → Thread) :
    s.after n f = s.modThr s.cur fun th => { f (n.marks th) with wait := none, answers := [] } := rfl

theorem State.take_mod (s : State) (n : Needs) : s.take n = s.modThr s.cur n.marks := rfl

/-- The thread goes on at once from an effect on itself alone. -/
theorem State.issued_setThr (s : State) (th : Thread) (h : s.alive s.cur = true) :
    (s.setThr s.cur th).issued = s.setThr s.cur { th with wait := none, answers := [] } := by
  unfold State.issued
  rw [if_pos (by rw [State.setThr_cur, State.alive_setThr _ _ _ _ h]; exact h), State.setThr_cur, State.setThr_modThr]

/-- An immediate producer of one scalar register. -/
theorem issueSimple_wx {s : State} {n : Needs} (h : Ready s n) (rd : Nat) (v : State → Word) :
    issueSimple n (fun s => s.wx rd (v s)) s =
      .next (s.after n fun th => (th.gets rd (v (s.take n))).past s.insnLen) := by
  unfold issueSimple
  rw [issue_ready h]
  simp only [Verdict.close, State.wx, State.advance, State.take_eq, State.setThr_cur, State.setThr_modThr, State.setThr_insnLen]
  rw [State.issued_setThr _ _ h.alive]
  rfl

end Sys2Proof.Machine
end

