-- ==== Sys2Proof/Laws/Access.lean ====
section
/-! SUPPORT. Sys2Proof/Laws/Access.lean: what writing at a place does to the memories, and what submitting an access does when
nothing else waits. -/

namespace Sys2Proof.Machine

/-! ### Errors and counters leave the memories alone -/

/-- What logging an error changes. -/
theorem State.logError_eq (s : State) (c : Ctx) (ue inj : Bool) (u a : Nat) :
    ∃ cl q n se, s.logError c ue inj u a = { s with clusters := cl, cqHeld := q, freeCtr := n, stackErrs := se } := by
  unfold State.logError State.countStack
  dsimp only
  split <;> split <;> split <;> first | exact ⟨_, s.cqHeld, _, _, rfl⟩ | exact ⟨_, _, _, _, rfl⟩

@[simp] theorem State.logError_hbm (s : State) (c : Ctx) (ue inj : Bool) (u a : Nat) : (s.logError c ue inj u a).hbm = s.hbm := by
  obtain ⟨_, _, _, _, h⟩ := s.logError_eq c ue inj u a
  rw [h]
@[simp] theorem State.logError_hostMem (s : State) (c : Ctx) (ue inj : Bool) (u a : Nat) :
    (s.logError c ue inj u a).hostMem = s.hostMem := by
  obtain ⟨_, _, _, _, h⟩ := s.logError_eq c ue inj u a
  rw [h]
@[simp] theorem State.logError_pad (s : State) (c : Ctx) (ue inj : Bool) (u a : Nat) : (s.logError c ue inj u a).pad = s.pad := by
  obtain ⟨_, _, _, _, h⟩ := s.logError_eq c ue inj u a
  rw [h]

/-- What a fold keeps when its function keeps it. -/
theorem foldl_keeps {σ β γ : Type} (g : σ → γ) (f : σ → β → σ) (h : ∀ s b, g (f s b) = g s) (l : List β) (s : σ) :
    g (l.foldl f s) = g s := by
  induction l generalizing s with
  | nil => rfl
  | cons b l ih => rw [List.foldl_cons, ih, h]

theorem State.raise_eq (s : State) (f : Nat) : ∃ g r, s.raise f = { s with gens := g, residencies := r } := by
  unfold State.raise
  split
  · exact ⟨_, _, rfl⟩
  · exact ⟨s.gens, s.residencies, rfl⟩

theorem State.injectHbm_eq (s : State) (g a n : Nat) :
    ∃ c b, s.injectHbm g a n = { s with clusters := c, badHbm := b } := by
  unfold State.injectHbm
  split
  · exact ⟨_, _, rfl⟩
  · exact ⟨s.clusters, s.badHbm, rfl⟩

/-- The bookkeeping of errors, injections and write generations: everything but the bytes that a write to HBM or to a scratchpad,
or the finding of errors, can change. -/
def Around (s t : State) : Prop :=
  ∃ cl q n bh bp bc g r se, t = { s with
    clusters := cl, cqHeld := q, freeCtr := n, badHbm := bh, badPad := bp, badCache := bc, gens := g, residencies := r, stackErrs := se }

theorem Around.refl (s : State) : Around s s := ⟨_, _, _, _, _, _, _, _, _, rfl⟩

theorem Around.trans {s t u : State} (h : Around s t) (k : Around t u) : Around s u := by
  obtain ⟨a, b, c, d, e, f, g, i, j, rfl⟩ := h
  obtain ⟨a', b', c', d', e', f', g', i', j', rfl⟩ := k
  exact ⟨_, _, _, _, _, _, _, _, _, rfl⟩

theorem Around.fold {β : Type} {f : State → β → State} (h : ∀ s b, Around s (f s b)) (l : List β) (s : State) :
    Around s (l.foldl f s) := by
  induction l generalizing s with
  | nil => exact .refl s
  | cons b l ih => exact (h s b).trans (ih _)

theorem Around.raise (s : State) (f : Nat) : Around s (s.raise f) := by
  obtain ⟨g, r, h⟩ := s.raise_eq f
  exact ⟨s.clusters, s.cqHeld, s.freeCtr, s.badHbm, s.badPad, s.badCache, g, r, s.stackErrs, h⟩
theorem Around.inject (s : State) (g a n : Nat) : Around s (s.injectHbm g a n) := by
  obtain ⟨c, b, h⟩ := s.injectHbm_eq g a n
  exact ⟨c, s.cqHeld, s.freeCtr, b, s.badPad, s.badCache, s.gens, s.residencies, s.stackErrs, h⟩
theorem Around.log (s : State) (c : Ctx) (ue inj : Bool) (u a : Nat) : Around s (s.logError c ue inj u a) := by
  obtain ⟨cl, q, n, se, h⟩ := s.logError_eq c ue inj u a
  exact ⟨cl, q, n, s.badHbm, s.badPad, s.badCache, s.gens, s.residencies, se, h⟩
theorem Around.cache (s : State) (c : Ctx) (e : Nat × Nat) : Around s (s.logCache c e) := by
  unfold State.logCache
  split <;> exact Around.log s _ _ _ _ _
theorem Around.host (s : State) (c : Ctx) (a : Nat) : Around s (s.logHostError c a) :=
  Around.trans ⟨_, _, _, _, _, _, _, _, _, rfl⟩ (Around.log _ _ _ _ _ _)

/-- The error units, the bytes and the errors of a write stand apart from the bookkeeping before it. -/
theorem Around.before {s t : State} (h : Around s t) (bh bc : List (Nat × Nat)) (m : List Host.Cell) :
    Around { s with hbm := m } { t with badHbm := bh, badCache := bc, hbm := m } := by
  obtain ⟨a, b, c, d, e, f, g, i, j, rfl⟩ := h
  exact ⟨_, _, _, _, _, _, _, _, _, rfl⟩

/-- A write to HBM changes its bytes and the bookkeeping around them. -/
theorem State.writeHbm_around (s : State) (c : Ctx) (a : Nat) (bs : List Byte) :
    Around { s with hbm := Memory.writeBytes s.hbm a bs } (s.writeHbm c a bs) := by
  unfold State.writeHbm
  by_cases hb : bs.isEmpty = true
  · rw [if_pos hb]
    rw [List.isEmpty_iff] at hb
    subst hb
    exact .refl s
  · rw [if_neg hb]
    dsimp only
    refine Around.trans ?_ (Around.fold (fun s f => Around.raise s f) _ _)
    refine Around.trans ?_ (Around.fold (fun s g => Around.inject s g a _) _ _)
    have h1 := Around.fold (f := fun s (e : Nat × Nat) => s.logError c (uncorrectable e.2) (injected e.2) 3 (e.1 * 32))
      (fun s e => Around.log s _ _ _ _ _) (partlyHit 32 a bs.length s.badHbm) s
    generalize List.foldl _ s (partlyHit 32 a bs.length s.badHbm) = s1 at h1 ⊢
    have h2 := Around.fold (f := fun s (e : Nat × Nat) => s.logCache c e)
      (fun s e => Around.cache s c e) (partlyHit 8 a bs.length s1.badCache) s1
    generalize List.foldl _ s1 (partlyHit 8 a bs.length s1.badCache) = s2 at h2 ⊢
    have h := h1.trans h2
    have hm : s2.hbm = s.hbm := by
      obtain ⟨_, _, _, _, _, _, _, _, _, rfl⟩ := h
      rfl
    rw [hm]
    exact h.before _ _ _

/-- A write to a scratchpad changes its bytes and the bookkeeping around them. -/
theorem State.writePad_around (s : State) (c : Ctx) (core off : Nat) (bs : List Byte) :
    Around { s with pad := Memory.writeBytes s.pad (core * Config.padBytes + off) bs } (s.writePad c core off bs) := by
  unfold State.writePad
  by_cases hb : bs.isEmpty = true
  · rw [if_pos hb]
    rw [List.isEmpty_iff] at hb
    subst hb
    exact .refl s
  · rw [if_neg hb]
    dsimp only
    have h := Around.fold
      (f := fun s (e : Nat × Nat) => s.logError { c with core := core % 1024 } (uncorrectable e.2) (injected e.2) 1
        (padOffset core (e.1 % 32768 * 8)))
      (fun s e => Around.log s _ _ _ _ _) (partlyHit 8 (core * Config.padBytes + off) bs.length s.badPad) s
    obtain ⟨k1, k2, k3, k4, k5, k6, k7, k8, k9, h⟩ := h
    rw [h]
    split
    · exact ⟨_, k2, k3, k4, _, k6, k7, k8, k9, rfl⟩
    · exact ⟨k1, k2, k3, k4, _, k6, k7, k8, k9, rfl⟩

/-- Finding errors changes the bookkeeping alone. -/
theorem State.noteRead_around (s : State) (c : Ctx) (p : Place) (n : Nat) : Around s (s.noteRead c p n) := by
  unfold State.noteRead
  split <;> first
    | exact .refl s
    | exact Around.fold (fun s u => Around.host s c _) _ _
    | exact (Around.fold (fun s e => Around.log s _ _ _ _ _) _ _).trans (Around.fold (fun s e => Around.cache s c e) _ _)
    | exact Around.fold (fun s e => Around.log s _ _ _ _ _) _ _

theorem State.noteRead_clean (s : State) (c : Ctx) (p : Place) (n : Nat) (h : Clean s) : s.noteRead c p n = s := by
  unfold State.noteRead
  split
  · have hl : ∀ l : List Nat, l.filter (List.contains []) = [] := fun l => List.filter_eq_nil_iff.mpr (by simp)
    rw [h.host, hl]
    rfl
  · simp [h.hbm, h.cache, errorsIn]
  · simp [h.hbm, h.cache, errorsIn]
  · rw [h.pad]
    rfl
  · rfl
  · rfl
  · rfl
  · rfl
  · rfl

/-! ### With nothing waiting -/

theorem Table.mem_of_find {α : Type} {t : Table α} {k : Nat} {v : α} (h : Table.find? t k = some v) : (k, v) ∈ t := by
  induction t with
  | nil => simp at h
  | cons e t ih =>
    obtain ⟨k', v'⟩ := e
    unfold Table.find? at h
    split at h
    · simp_all
    · exact List.mem_cons_of_mem _ (ih h)

theorem Quiet.heldOps {s : State} (h : Quiet s) (t : Nat) : (s.thr t).heldOps = [] := by
  unfold State.thr Table.get
  cases hf : Table.find? s.threads t with
  | none => rfl
  | some th => exact h.held _ (Table.mem_of_find hf)

theorem Quiet.requests {s : State} (h : Quiet s) (t q : Nat) : s.requestsBefore t q = [] := by
  unfold State.requestsBefore
  rw [h.acq t, List.nil_append, List.filter_eq_nil_iff]
  intro r hr
  obtain ⟨e, he, hr⟩ := List.mem_flatMap.mp (List.mem_filter.mp hr).1
  simp [h.banks e he] at hr

theorem Quiet.waiting {s : State} (h : Quiet s) (t q : Nat) : s.heldBefore t q = [] := by simp [State.heldBefore, h.heldOps t]

theorem Quiet.acquiring {s : State} (h : Quiet s) (t q : Nat) : s.acquiringBefore t q = false := by
  simp [State.acquiringBefore, h.requests, h.waiting]

theorem Quiet.performed {s : State} (h : Quiet s) (t : Nat) : s.performed t = true := by
  simp [State.performed, h.requests, h.heldOps]

theorem Quiet.done {s : State} (h : Quiet s) (t q : Nat) : s.doneBefore t q = true := by
  simp [State.doneBefore, h.requests, h.waiting]

theorem Quiet.free {s : State} (h : Quiet s) (t q : Nat) (op : MemOp) (ks : List Nat) : s.opFree t q op ks = true := by
  simp [State.opFree, State.spanFree, h.acquiring, h.requests, h.waiting, h.done]

/-- With nothing waiting, an access whose parts lie on pages of one kind is performed as it is submitted. -/
theorem Quiet.submit {s : State} (h : Quiet s) (t : Nat) (op : MemOp) (ks : List Nat) (hk : ∀ k ∈ ks, k = ks.headD 1) :
    s.submit t op ks = (s.perform t op).settle := by
  have hs : op.split ks = [(op, ks)] := if_pos (List.all_eq_true.mpr fun k hm => decide_eq_true (hk k hm))
  unfold State.submit
  rw [hs, List.foldl_cons, List.foldl_nil, if_pos (by rw [h.free, Bool.or_true])]

theorem sum_map_zero {α : Type} (l : List α) (f : α → Nat) (h : ∀ e ∈ l, f e = 0) : (l.map f).sum = 0 := by
  induction l with
  | nil => rfl
  | cons e l ih => simp [h e (by simp), ih fun x hx => h x (by simp [hx])]

/-- Nothing to serve and nothing to release. -/
theorem State.settle_quiet (s : State) (hb : ∀ e ∈ s.banks, e.2 = []) (hh : ∀ e ∈ s.threads, e.2.heldOps = []) :
    s.settle = s := by
  unfold State.settle
  rw [sum_map_zero s.banks _ fun e he => by simp [hb e he], sum_map_zero s.threads _ fun e he => by simp [hh e he]]
  rfl

/-- A change of one thread that holds nothing leaves nothing to settle. -/
theorem State.settle_modThr {s : State} (h : Quiet s) (t : Nat) (f : Thread → Thread) (hf : (f (s.thr t)).heldOps = []) :
    (s.modThr t f).settle = s.modThr t f := by
  apply State.settle_quiet
  · exact h.banks
  · intro e he
    rcases Table.mem_set he with rfl | he
    · exact hf
    · exact h.held e he

end Sys2Proof.Machine
end

