-- ==== Sys2Proof/Laws/Dispatch.lean ====
section
/-! SUPPORT. Sys2Proof/Laws/Dispatch.lean: which meaning each instruction has, so that no proof unfolds the dispatch. -/

namespace Sys2Proof.Machine

@[simp] theorem exec_add (rd : Nat) (a b : Src) (s : State) : exec (.add rd a b) s = execAdd rd a b s := rfl
@[simp] theorem exec_sub (rd : Nat) (a b : Src) (s : State) : exec (.sub rd a b) s = execSub rd a b s := rfl
@[simp] theorem exec_and (rd : Nat) (a b : Src) (s : State) : exec (.and rd a b) s = execAnd rd a b s := rfl
@[simp] theorem exec_or (rd : Nat) (a b : Src) (s : State) : exec (.or rd a b) s = execOr rd a b s := rfl
@[simp] theorem exec_xor (rd : Nat) (a b : Src) (s : State) : exec (.xor rd a b) s = execXor rd a b s := rfl
@[simp] theorem exec_sll (rd : Nat) (a b : Src) (s : State) : exec (.sll rd a b) s = execSll rd a b s := rfl
@[simp] theorem exec_srl (rd : Nat) (a b : Src) (s : State) : exec (.srl rd a b) s = execSrl rd a b s := rfl
@[simp] theorem exec_sra (rd : Nat) (a b : Src) (s : State) : exec (.sra rd a b) s = execSra rd a b s := rfl
@[simp] theorem exec_slt (rd : Nat) (a b : Src) (s : State) : exec (.slt rd a b) s = execSlt rd a b s := rfl
@[simp] theorem exec_sltu (rd : Nat) (a b : Src) (s : State) : exec (.sltu rd a b) s = execSltu rd a b s := rfl
@[simp] theorem exec_min (rd : Nat) (a b : Src) (s : State) : exec (.min rd a b) s = execMin rd a b s := rfl
@[simp] theorem exec_max (rd : Nat) (a b : Src) (s : State) : exec (.max rd a b) s = execMax rd a b s := rfl
@[simp] theorem exec_minu (rd : Nat) (a b : Src) (s : State) : exec (.minu rd a b) s = execMinu rd a b s := rfl
@[simp] theorem exec_maxu (rd : Nat) (a b : Src) (s : State) : exec (.maxu rd a b) s = execMaxu rd a b s := rfl
@[simp] theorem exec_mul (rd : Nat) (a b : Src) (s : State) : exec (.mul rd a b) s = execMul rd a b s := rfl
@[simp] theorem exec_mulh (rd : Nat) (a b : Src) (s : State) : exec (.mulh rd a b) s = execMulh rd a b s := rfl
@[simp] theorem exec_mulhu (rd : Nat) (a b : Src) (s : State) : exec (.mulhu rd a b) s = execMulhu rd a b s := rfl
@[simp] theorem exec_div (rd : Nat) (a b : Src) (s : State) : exec (.div rd a b) s = execDiv rd a b s := rfl
@[simp] theorem exec_divu (rd : Nat) (a b : Src) (s : State) : exec (.divu rd a b) s = execDivu rd a b s := rfl
@[simp] theorem exec_rem (rd : Nat) (a b : Src) (s : State) : exec (.rem rd a b) s = execRem rd a b s := rfl
@[simp] theorem exec_remu (rd : Nat) (a b : Src) (s : State) : exec (.remu rd a b) s = execRemu rd a b s := rfl
@[simp] theorem exec_clz (rd : Nat) (a : Src) (s : State) : exec (.clz rd a) s = execClz rd a s := rfl
@[simp] theorem exec_ctz (rd : Nat) (a : Src) (s : State) : exec (.ctz rd a) s = execCtz rd a s := rfl
@[simp] theorem exec_popc (rd : Nat) (a : Src) (s : State) : exec (.popc rd a) s = execPopc rd a s := rfl
@[simp] theorem exec_addsh1 (rd : Nat) (a b : Src) (s : State) : exec (.addsh1 rd a b) s = execAddsh1 rd a b s := rfl
@[simp] theorem exec_addsh2 (rd : Nat) (a b : Src) (s : State) : exec (.addsh2 rd a b) s = execAddsh2 rd a b s := rfl
@[simp] theorem exec_addsh3 (rd : Nat) (a b : Src) (s : State) : exec (.addsh3 rd a b) s = execAddsh3 rd a b s := rfl
@[simp] theorem exec_andn (rd : Nat) (a b : Src) (s : State) : exec (.andn rd a b) s = execAndn rd a b s := rfl
@[simp] theorem exec_sextw (rd : Nat) (a : Src) (s : State) : exec (.sextw rd a) s = execSextw rd a s := rfl
@[simp] theorem exec_zextw (rd : Nat) (a : Src) (s : State) : exec (.zextw rd a) s = execZextw rd a s := rfl
@[simp] theorem exec_addi (rd : Nat) (a : Src) (imm : BitVec 13) (s : State) : exec (.addi rd a imm) s = execAddi rd a imm s := rfl
@[simp] theorem exec_andi (rd : Nat) (a : Src) (imm : BitVec 13) (s : State) : exec (.andi rd a imm) s = execAndi rd a imm s := rfl
@[simp] theorem exec_ori (rd : Nat) (a : Src) (imm : BitVec 13) (s : State) : exec (.ori rd a imm) s = execOri rd a imm s := rfl
@[simp] theorem exec_xori (rd : Nat) (a : Src) (imm : BitVec 13) (s : State) : exec (.xori rd a imm) s = execXori rd a imm s := rfl
@[simp] theorem exec_slti (rd : Nat) (a : Src) (imm : BitVec 13) (s : State) : exec (.slti rd a imm) s = execSlti rd a imm s := rfl
@[simp] theorem exec_slli (rd : Nat) (a : Src) (amt : BitVec 6) (s : State) : exec (.slli rd a amt) s = execSlli rd a amt s := rfl
@[simp] theorem exec_srli (rd : Nat) (a : Src) (amt : BitVec 6) (s : State) : exec (.srli rd a amt) s = execSrli rd a amt s := rfl
@[simp] theorem exec_srai (rd : Nat) (a : Src) (amt : BitVec 6) (s : State) : exec (.srai rd a amt) s = execSrai rd a amt s := rfl
@[simp] theorem exec_lui (rd : Nat) (imm : BitVec 20) (s : State) : exec (.lui rd imm) s = execLui rd imm s := rfl
@[simp] theorem exec_addpc (rd : Nat) (imm : BitVec 20) (s : State) : exec (.addpc rd imm) s = execAddpc rd imm s := rfl
@[simp] theorem exec_ldb (rd : Nat) (a : Src) (imm : BitVec 13) (s : State) : exec (.ldb rd a imm) s = execLdb rd a imm s := rfl
@[simp] theorem exec_ldbu (rd : Nat) (a : Src) (imm : BitVec 13) (s : State) : exec (.ldbu rd a imm) s = execLdbu rd a imm s := rfl
@[simp] theorem exec_ldh (rd : Nat) (a : Src) (imm : BitVec 13) (s : State) : exec (.ldh rd a imm) s = execLdh rd a imm s := rfl
@[simp] theorem exec_ldhu (rd : Nat) (a : Src) (imm : BitVec 13) (s : State) : exec (.ldhu rd a imm) s = execLdhu rd a imm s := rfl
@[simp] theorem exec_ldw (rd : Nat) (a : Src) (imm : BitVec 13) (s : State) : exec (.ldw rd a imm) s = execLdw rd a imm s := rfl
@[simp] theorem exec_ldwu (rd : Nat) (a : Src) (imm : BitVec 13) (s : State) : exec (.ldwu rd a imm) s = execLdwu rd a imm s := rfl
@[simp] theorem exec_ldd (rd : Nat) (a : Src) (imm : BitVec 13) (s : State) : exec (.ldd rd a imm) s = execLdd rd a imm s := rfl
@[simp] theorem exec_stb (d a : Src) (imm : BitVec 11) (s : State) : exec (.stb d a imm) s = execStb d a imm s := rfl
@[simp] theorem exec_sth (d a : Src) (imm : BitVec 11) (s : State) : exec (.sth d a imm) s = execSth d a imm s := rfl
@[simp] theorem exec_stw (d a : Src) (imm : BitVec 11) (s : State) : exec (.stw d a imm) s = execStw d a imm s := rfl
@[simp] theorem exec_std (d a : Src) (imm : BitVec 11) (s : State) : exec (.std d a imm) s = execStd d a imm s := rfl
@[simp] theorem exec_ldf (rd : Nat) (a : Src) (imm : BitVec 11) (s : State) : exec (.ldf rd a imm) s = execLdf rd a imm s := rfl
@[simp] theorem exec_ldt (rd : Nat) (a : Src) (imm : BitVec 11) (s : State) : exec (.ldt rd a imm) s = execLdt rd a imm s := rfl
@[simp] theorem exec_ldp (rd : Nat) (a : Src) (imm : BitVec 11) (s : State) : exec (.ldp rd a imm) s = execLdp rd a imm s := rfl
@[simp] theorem exec_ldft (rd : Nat) (a : Src) (imm : BitVec 11) (s : State) : exec (.ldft rd a imm) s = execLdft rd a imm s := rfl
@[simp] theorem exec_stf (d a : Src) (imm : BitVec 11) (s : State) : exec (.stf d a imm) s = execStf d a imm s := rfl
@[simp] theorem exec_fewF (a : Src) (imm : BitVec 11) (s : State) : exec (.fewF a imm) s = execFewF a imm s := rfl
@[simp] theorem exec_fewE (a : Src) (imm : BitVec 11) (s : State) : exec (.fewE a imm) s = execFewE a imm s := rfl
@[simp] theorem exec_amoadd (rd : Nat) (a b : Src) (o : AmoOrder) (s : State) : exec (.amoadd rd a b o) s = execAmoadd rd a b o s := rfl
@[simp] theorem exec_amoswap (rd : Nat) (a b : Src) (o : AmoOrder) (s : State) : exec (.amoswap rd a b o) s = execAmoswap rd a b o s := rfl
@[simp] theorem exec_amocas (rd : Nat) (a b : Src) (o : AmoOrder) (s : State) : exec (.amocas rd a b o) s = execAmocas rd a b o s := rfl
@[simp] theorem exec_amomin (rd : Nat) (a b : Src) (o : AmoOrder) (s : State) : exec (.amomin rd a b o) s = execAmomin rd a b o s := rfl
@[simp] theorem exec_amomax (rd : Nat) (a b : Src) (o : AmoOrder) (s : State) : exec (.amomax rd a b o) s = execAmomax rd a b o s := rfl
@[simp] theorem exec_amominu (rd : Nat) (a b : Src) (o : AmoOrder) (s : State) : exec (.amominu rd a b o) s = execAmominu rd a b o s := rfl
@[simp] theorem exec_amomaxu (rd : Nat) (a b : Src) (o : AmoOrder) (s : State) : exec (.amomaxu rd a b o) s = execAmomaxu rd a b o s := rfl
@[simp] theorem exec_amoand (rd : Nat) (a b : Src) (o : AmoOrder) (s : State) : exec (.amoand rd a b o) s = execAmoand rd a b o s := rfl
@[simp] theorem exec_amoor (rd : Nat) (a b : Src) (o : AmoOrder) (s : State) : exec (.amoor rd a b o) s = execAmoor rd a b o s := rfl
@[simp] theorem exec_amoxor (rd : Nat) (a b : Src) (o : AmoOrder) (s : State) : exec (.amoxor rd a b o) s = execAmoxor rd a b o s := rfl
@[simp] theorem exec_fenceFull (sc : Scope) (s : State) : exec (.fenceFull sc) s = execFenceFull sc s := rfl
@[simp] theorem exec_fenceAcq (sc : Scope) (s : State) : exec (.fenceAcq sc) s = execFenceAcq sc s := rfl
@[simp] theorem exec_fenceRel (sc : Scope) (s : State) : exec (.fenceRel sc) s = execFenceRel sc s := rfl
@[simp] theorem exec_beq (a b : Src) (off : BitVec 11) (s : State) : exec (.beq a b off) s = execBeq a b off s := rfl
@[simp] theorem exec_bne (a b : Src) (off : BitVec 11) (s : State) : exec (.bne a b off) s = execBne a b off s := rfl
@[simp] theorem exec_blt (a b : Src) (off : BitVec 11) (s : State) : exec (.blt a b off) s = execBlt a b off s := rfl
@[simp] theorem exec_bge (a b : Src) (off : BitVec 11) (s : State) : exec (.bge a b off) s = execBge a b off s := rfl
@[simp] theorem exec_bltu (a b : Src) (off : BitVec 11) (s : State) : exec (.bltu a b off) s = execBltu a b off s := rfl
@[simp] theorem exec_bgeu (a b : Src) (off : BitVec 11) (s : State) : exec (.bgeu a b off) s = execBgeu a b off s := rfl
@[simp] theorem exec_jal (rd : Nat) (imm : BitVec 20) (s : State) : exec (.jal rd imm) s = execJal rd imm s := rfl
@[simp] theorem exec_jalr (rd : Nat) (a : Src) (imm : BitVec 13) (s : State) : exec (.jalr rd a imm) s = execJalr rd a imm s := rfl
@[simp] theorem exec_loop (rd : Nat) (a : Src) (imm : BitVec 13) (s : State) : exec (.loop rd a imm) s = execLoop rd a imm s := rfl
@[simp] theorem exec_spawn (rd : Nat) (a : Src) (s : State) : exec (.spawn rd a) s = execSpawn rd a s := rfl
@[simp] theorem exec_join (rd : Nat) (a : Src) (s : State) : exec (.join rd a) s = execJoin rd a s := rfl
@[simp] theorem exec_leave (rd : Nat) (a : Src) (s : State) : exec (.leave rd a) s = execLeave rd a s := rfl
@[simp] theorem exec_bar (rd : Nat) (a b : Src) (s : State) : exec (.bar rd a b) s = execBar rd a b s := rfl
@[simp] theorem exec_whoami (rd : Nat) (a : Src) (s : State) : exec (.whoami rd a) s = execWhoami rd a s := rfl
@[simp] theorem exec_grpcnt (rd : Nat) (a : Src) (s : State) : exec (.grpcnt rd a) s = execGrpcnt rd a s := rfl
@[simp] theorem exec_waittl (q : Nat) (a : Src) (s : State) : exec (.waittl q a) s = execWaittl q a s := rfl
@[simp] theorem exec_qbind (q : Nat) (a : Src) (s : State) : exec (.qbind q a) s = execQbind q a s := rfl
@[simp] theorem exec_qfree (q : Nat) (s : State) : exec (.qfree q) s = execQfree q s := rfl
@[simp] theorem exec_qstat (q rd : Nat) (s : State) : exec (.qstat q rd) s = execQstat q rd s := rfl
@[simp] theorem exec_qrd (q rd : Nat) (s : State) : exec (.qrd q rd) s = execQrd q rd s := rfl
@[simp] theorem exec_qwr (q : Nat) (a : Src) (s : State) : exec (.qwr q a) s = execQwr q a s := rfl
@[simp] theorem exec_cpy (tok : Nat) (b : Src) (ch : Nat) (s : State) : exec (.cpy tok b ch) s = execCpy tok b ch s := rfl
@[simp] theorem exec_cpyRect (tok : Nat) (b : Src) (ch : Nat) (s : State) : exec (.cpyRect tok b ch) s = execCpyRect tok b ch s := rfl
@[simp] theorem exec_cpyWin (tok : Nat) (b : Src) (ch : Nat) (s : State) : exec (.cpyWin tok b ch) s = execCpyWin tok b ch s := rfl
@[simp] theorem exec_cpyCow (tok : Nat) (b : Src) (ch : Nat) (s : State) : exec (.cpyCow tok b ch) s = execCpyCow tok b ch s := rfl
@[simp] theorem exec_gath (tok : Nat) (b : Src) (ch : Nat) (s : State) : exec (.gath tok b ch) s = execGath tok b ch s := rfl
@[simp] theorem exec_gathRows (tok : Nat) (b : Src) (ch : Nat) (s : State) : exec (.gathRows tok b ch) s = execGathRows tok b ch s := rfl
@[simp] theorem exec_collAllred (tok : Nat) (b : Src) (ch : Nat) (s : State) : exec (.collAllred tok b ch) s = execCollAllred tok b ch s := rfl
@[simp] theorem exec_collAllgath (tok : Nat) (b : Src) (ch : Nat) (s : State) : exec (.collAllgath tok b ch) s = execCollAllgath tok b ch s := rfl
@[simp] theorem exec_collRedscat (tok : Nat) (b : Src) (ch : Nat) (s : State) : exec (.collRedscat tok b ch) s = execCollRedscat tok b ch s := rfl
@[simp] theorem exec_collAlltoall (tok : Nat) (b : Src) (ch : Nat) (s : State) : exec (.collAlltoall tok b ch) s = execCollAlltoall tok b ch s := rfl
@[simp] theorem exec_atsub (tok : Nat) (b : Src) (s : State) : exec (.atsub tok b) s = execAtsub tok b s := rfl
@[simp] theorem exec_mlease (tok : Nat) (s : State) : exec (.mlease tok) s = execMlease tok s := rfl
@[simp] theorem exec_mrel (l : Nat) (s : State) : exec (.mrel l) s = execMrel l s := rfl
@[simp] theorem exec_mzero (l : Nat) (s : State) : exec (.mzero l) s = execMzero l s := rfl
@[simp] theorem exec_mmul (l : Nat) (a b : Src) (s : State) : exec (.mmul l a b) s = execMmul l a b s := rfl
@[simp] theorem exec_mmulS (l : Nat) (a b : Src) (s : State) : exec (.mmulS l a b) s = execMmulS l a b s := rfl
@[simp] theorem exec_mdrain (l tok : Nat) (b : Src) (s : State) : exec (.mdrain l tok b) s = execMdrain l tok b s := rfl
@[simp] theorem exec_mwait (l : Nat) (s : State) : exec (.mwait l) s = execMwait l s := rfl
@[simp] theorem exec_ralloc (pin auto : Bool) (tok : Nat) (b : Src) (s : State) : exec (.ralloc pin auto tok b) s = execRalloc pin auto tok b s := rfl
@[simp] theorem exec_rfill (tok : Nat) (b : Src) (s : State) : exec (.rfill tok b) s = execRfill tok b s := rfl
@[simp] theorem exec_rpin (tok : Nat) (b : Src) (s : State) : exec (.rpin tok b) s = execRpin tok b s := rfl
@[simp] theorem exec_runpin (tok : Nat) (b : Src) (s : State) : exec (.runpin tok b) s = execRunpin tok b s := rfl
@[simp] theorem exec_rrevoke (tok : Nat) (b : Src) (s : State) : exec (.rrevoke tok b) s = execRrevoke tok b s := rfl
@[simp] theorem exec_rquery (tok : Nat) (b : Src) (s : State) : exec (.rquery tok b) s = execRquery tok b s := rfl
@[simp] theorem exec_tidset (a b : Src) (s : State) : exec (.tidset a b) s = execTidset a b s := rfl
@[simp] theorem exec_tidget (a b : Src) (s : State) : exec (.tidget a b) s = execTidget a b s := rfl
@[simp] theorem exec_tidpatch (dim : Nat) (a b : Src) (s : State) : exec (.tidpatch dim a b) s = execTidpatch dim a b s := rfl
@[simp] theorem exec_vadd (vd va vb pg : Nat) (t : Ety) (z : Bool) (s : State) : exec (.vadd vd va vb pg t z) s = execVadd vd va vb pg t z s := rfl
@[simp] theorem exec_vsub (vd va vb pg : Nat) (t : Ety) (z : Bool) (s : State) : exec (.vsub vd va vb pg t z) s = execVsub vd va vb pg t z s := rfl
@[simp] theorem exec_vmul (vd va vb pg : Nat) (t : Ety) (z : Bool) (s : State) : exec (.vmul vd va vb pg t z) s = execVmul vd va vb pg t z s := rfl
@[simp] theorem exec_vmulh (vd va vb pg : Nat) (t : Ety) (z : Bool) (s : State) : exec (.vmulh vd va vb pg t z) s = execVmulh vd va vb pg t z s := rfl
@[simp] theorem exec_vmin (vd va vb pg : Nat) (t : Ety) (z : Bool) (s : State) : exec (.vmin vd va vb pg t z) s = execVmin vd va vb pg t z s := rfl
@[simp] theorem exec_vmax (vd va vb pg : Nat) (t : Ety) (z : Bool) (s : State) : exec (.vmax vd va vb pg t z) s = execVmax vd va vb pg t z s := rfl
@[simp] theorem exec_vand (vd va vb pg : Nat) (t : Ety) (z : Bool) (s : State) : exec (.vand vd va vb pg t z) s = execVand vd va vb pg t z s := rfl
@[simp] theorem exec_vor (vd va vb pg : Nat) (t : Ety) (z : Bool) (s : State) : exec (.vor vd va vb pg t z) s = execVor vd va vb pg t z s := rfl
@[simp] theorem exec_vxor (vd va vb pg : Nat) (t : Ety) (z : Bool) (s : State) : exec (.vxor vd va vb pg t z) s = execVxor vd va vb pg t z s := rfl
@[simp] theorem exec_vshl (vd va vb pg : Nat) (t : Ety) (z : Bool) (s : State) : exec (.vshl vd va vb pg t z) s = execVshl vd va vb pg t z s := rfl
@[simp] theorem exec_vshr (vd va vb pg : Nat) (t : Ety) (z : Bool) (s : State) : exec (.vshr vd va vb pg t z) s = execVshr vd va vb pg t z s := rfl
@[simp] theorem exec_vsra (vd va vb pg : Nat) (t : Ety) (z : Bool) (s : State) : exec (.vsra vd va vb pg t z) s = execVsra vd va vb pg t z s := rfl
@[simp] theorem exec_vabs (vd va pg : Nat) (t : Ety) (z : Bool) (s : State) : exec (.vabs vd va pg t z) s = execVabs vd va pg t z s := rfl
@[simp] theorem exec_vneg (vd va pg : Nat) (t : Ety) (z : Bool) (s : State) : exec (.vneg vd va pg t z) s = execVneg vd va pg t z s := rfl
@[simp] theorem exec_vmac (vd va vb pg : Nat) (t : Ety) (z : Bool) (s : State) : exec (.vmac vd va vb pg t z) s = execVmac vd va vb pg t z s := rfl
@[simp] theorem exec_vfadd (vd va vb pg : Nat) (t : Ety) (z : Bool) (s : State) : exec (.vfadd vd va vb pg t z) s = execVfadd vd va vb pg t z s := rfl
@[simp] theorem exec_vfsub (vd va vb pg : Nat) (t : Ety) (z : Bool) (s : State) : exec (.vfsub vd va vb pg t z) s = execVfsub vd va vb pg t z s := rfl
@[simp] theorem exec_vfmul (vd va vb pg : Nat) (t : Ety) (z : Bool) (s : State) : exec (.vfmul vd va vb pg t z) s = execVfmul vd va vb pg t z s := rfl
@[simp] theorem exec_vfma (vd va vb pg : Nat) (t : Ety) (z : Bool) (s : State) : exec (.vfma vd va vb pg t z) s = execVfma vd va vb pg t z s := rfl
@[simp] theorem exec_vfmin (vd va vb pg : Nat) (t : Ety) (z : Bool) (s : State) : exec (.vfmin vd va vb pg t z) s = execVfmin vd va vb pg t z s := rfl
@[simp] theorem exec_vfmax (vd va vb pg : Nat) (t : Ety) (z : Bool) (s : State) : exec (.vfmax vd va vb pg t z) s = execVfmax vd va vb pg t z s := rfl
@[simp] theorem exec_vfabs (vd va pg : Nat) (t : Ety) (z : Bool) (s : State) : exec (.vfabs vd va pg t z) s = execVfabs vd va pg t z s := rfl
@[simp] theorem exec_vfneg (vd va pg : Nat) (t : Ety) (z : Bool) (s : State) : exec (.vfneg vd va pg t z) s = execVfneg vd va pg t z s := rfl
@[simp] theorem exec_vcvt (vd va pg : Nat) (dst src : Ety) (r : Rnd) (o : Ovf) (z : Bool) (s : State) : exec (.vcvt vd va pg dst src r o z) s = execVcvt vd va pg dst src r o z s := rfl
@[simp] theorem exec_vld (vd : Nat) (xs : Src) (pg : Nat) (sz : ESize) (z : Bool) (s : State) : exec (.vld vd xs pg sz z) s = execVld vd xs pg sz z s := rfl
@[simp] theorem exec_vst (vd : Nat) (xs : Src) (pg : Nat) (sz : ESize) (s : State) : exec (.vst vd xs pg sz) s = execVst vd xs pg sz s := rfl
@[simp] theorem exec_vgath (vd va : Nat) (xs : Src) (pg : Nat) (sz : ESize) (z : Bool) (s : State) : exec (.vgath vd va xs pg sz z) s = execVgath vd va xs pg sz z s := rfl
@[simp] theorem exec_vscat (vd va : Nat) (xs : Src) (pg : Nat) (sz : ESize) (s : State) : exec (.vscat vd va xs pg sz) s = execVscat vd va xs pg sz s := rfl
@[simp] theorem exec_vsplat (vd : Nat) (xs : Src) (pg : Nat) (sz : ESize) (z : Bool) (s : State) : exec (.vsplat vd xs pg sz z) s = execVsplat vd xs pg sz z s := rfl
@[simp] theorem exec_vbound (pd : Nat) (a b : Src) (t : Ety) (s : State) : exec (.vbound pd a b t) s = execVbound pd a b t s := rfl
@[simp] theorem exec_vcmp (pd va vb pg : Nat) (t : Ety) (cc : Cmp) (s : State) : exec (.vcmp pd va vb pg t cc) s = execVcmp pd va vb pg t cc s := rfl
@[simp] theorem exec_pand (pd pa pb : Nat) (s : State) : exec (.pand pd pa pb) s = execPand pd pa pb s := rfl
@[simp] theorem exec_por (pd pa pb : Nat) (s : State) : exec (.por pd pa pb) s = execPor pd pa pb s := rfl
@[simp] theorem exec_pnot (pd pa : Nat) (s : State) : exec (.pnot pd pa) s = execPnot pd pa s := rfl
@[simp] theorem exec_pxor (pd pa pb : Nat) (s : State) : exec (.pxor pd pa pb) s = execPxor pd pa pb s := rfl
@[simp] theorem exec_pcount (ps rd : Nat) (t : Ety) (s : State) : exec (.pcount ps rd t) s = execPcount ps rd t s := rfl
@[simp] theorem exec_pfirst (ps rd : Nat) (t : Ety) (s : State) : exec (.pfirst ps rd t) s = execPfirst ps rd t s := rfl
@[simp] theorem exec_vslideup (vd va : Nat) (xs : Src) (pg : Nat) (sz : ESize) (z : Bool) (s : State) : exec (.vslideup vd va xs pg sz z) s = execVslideup vd va xs pg sz z s := rfl
@[simp] theorem exec_vslidedn (vd va : Nat) (xs : Src) (pg : Nat) (sz : ESize) (z : Bool) (s : State) : exec (.vslidedn vd va xs pg sz z) s = execVslidedn vd va xs pg sz z s := rfl
@[simp] theorem exec_vperm (vd va vb pg : Nat) (t : Ety) (z : Bool) (s : State) : exec (.vperm vd va vb pg t z) s = execVperm vd va vb pg t z s := rfl
@[simp] theorem exec_vcompress (vd va pg : Nat) (t : Ety) (z : Bool) (s : State) : exec (.vcompress vd va pg t z) s = execVcompress vd va pg t z s := rfl
@[simp] theorem exec_vsel (vd va vb pg : Nat) (t : Ety) (s : State) : exec (.vsel vd va vb pg t) s = execVsel vd va vb pg t s := rfl
@[simp] theorem exec_vredadd (vd va vb pg : Nat) (t : Ety) (s : State) : exec (.vredadd vd va vb pg t) s = execVredadd vd va vb pg t s := rfl
@[simp] theorem exec_vredmax (vd va vb pg : Nat) (t : Ety) (s : State) : exec (.vredmax vd va vb pg t) s = execVredmax vd va vb pg t s := rfl
@[simp] theorem exec_vredmin (vd va vb pg : Nat) (t : Ety) (s : State) : exec (.vredmin vd va vb pg t) s = execVredmin vd va vb pg t s := rfl
@[simp] theorem exec_vfredadd (vd va vb pg : Nat) (t : Ety) (s : State) : exec (.vfredadd vd va vb pg t) s = execVfredadd vd va vb pg t s := rfl
@[simp] theorem exec_vext (va rd : Nat) (b : Src) (sz : ESize) (s : State) : exec (.vext va rd b sz) s = execVext va rd b sz s := rfl
@[simp] theorem exec_vins (vd : Nat) (a b : Src) (sz : ESize) (s : State) : exec (.vins vd a b sz) s = execVins vd a b sz s := rfl
@[simp] theorem exec_vrcp (vd va pg : Nat) (t : Ety) (z : Bool) (s : State) : exec (.vrcp vd va pg t z) s = execVrcp vd va pg t z s := rfl
@[simp] theorem exec_vrsq (vd va pg : Nat) (t : Ety) (z : Bool) (s : State) : exec (.vrsq vd va pg t z) s = execVrsq vd va pg t z s := rfl
@[simp] theorem exec_vexp2 (vd va pg : Nat) (t : Ety) (z : Bool) (s : State) : exec (.vexp2 vd va pg t z) s = execVexp2 vd va pg t z s := rfl
@[simp] theorem exec_vlog2 (vd va pg : Nat) (t : Ety) (z : Bool) (s : State) : exec (.vlog2 vd va pg t z) s = execVlog2 vd va pg t z s := rfl
@[simp] theorem exec_vtanh (vd va pg : Nat) (t : Ety) (z : Bool) (s : State) : exec (.vtanh vd va pg t z) s = execVtanh vd va pg t z s := rfl
@[simp] theorem exec_vwidth (rd : Nat) (s : State) : exec (.vwidth rd) s = execVwidth rd s := rfl
@[simp] theorem exec_vtopk (vd va pg : Nat) (t : Ety) (s : State) : exec (.vtopk vd va pg t) s = execVtopk vd va pg t s := rfl
@[simp] theorem exec_vmaxx (vd va vb : Nat) (t : Ety) (s : State) : exec (.vmaxx vd va vb t) s = execVmaxx vd va vb t s := rfl
@[simp] theorem exec_vquant (vd va vb pg : Nat) (t : Ety) (s : State) : exec (.vquant vd va vb pg t) s = execVquant vd va vb pg t s := rfl
@[simp] theorem exec_vhist (vd va pg : Nat) (t : Ety) (s : State) : exec (.vhist vd va pg t) s = execVhist vd va pg t s := rfl
@[simp] theorem exec_crd (rd : Nat) (a : Src) (s : State) : exec (.crd rd a) s = execCrd rd a s := rfl
@[simp] theorem exec_cwr (a b : Src) (s : State) : exec (.cwr a b) s = execCwr a b s := rfl
@[simp] theorem exec_trap (rd : Nat) (a b : Src) (s : State) : exec (.trap rd a b) s = execTrap rd a b s := rfl
@[simp] theorem exec_eret (a : Src) (s : State) : exec (.eret a) s = execEret a s := rfl
@[simp] theorem exec_slotld (rd : Nat) (a : Src) (s : State) : exec (.slotld rd a) s = execSlotld rd a s := rfl
@[simp] theorem exec_slotst (a b : Src) (s : State) : exec (.slotst a b) s = execSlotst a b s := rfl
@[simp] theorem exec_park (a : Src) (s : State) : exec (.park a) s = execPark a s := rfl
@[simp] theorem exec_unpark (a : Src) (s : State) : exec (.unpark a) s = execUnpark a s := rfl
@[simp] theorem exec_kill (a : Src) (s : State) : exec (.kill a) s = execKill a s := rfl
@[simp] theorem exec_skipw (n : BitVec 20) (s : State) : exec (.skipw n) s = execSkipw n s := rfl
@[simp] theorem exec_cMov (a b : Nat) (s : State) : exec (.cMov a b) s = execCMov a b s := rfl
@[simp] theorem exec_cAdd (a b : Nat) (s : State) : exec (.cAdd a b) s = execCAdd a b s := rfl
@[simp] theorem exec_cSub (a b : Nat) (s : State) : exec (.cSub a b) s = execCSub a b s := rfl
@[simp] theorem exec_cAnd (a b : Nat) (s : State) : exec (.cAnd a b) s = execCAnd a b s := rfl
@[simp] theorem exec_cOr (a b : Nat) (s : State) : exec (.cOr a b) s = execCOr a b s := rfl
@[simp] theorem exec_cXor (a b : Nat) (s : State) : exec (.cXor a b) s = execCXor a b s := rfl
@[simp] theorem exec_cSll (a b : Nat) (s : State) : exec (.cSll a b) s = execCSll a b s := rfl
@[simp] theorem exec_cSrl (a b : Nat) (s : State) : exec (.cSrl a b) s = execCSrl a b s := rfl
@[simp] theorem exec_cAddi (a : Nat) (imm : BitVec 7) (s : State) : exec (.cAddi a imm) s = execCAddi a imm s := rfl
@[simp] theorem exec_cLi (a : Nat) (imm : BitVec 7) (s : State) : exec (.cLi a imm) s = execCLi a imm s := rfl
@[simp] theorem exec_cLd (a b : Nat) (c : BitVec 3) (s : State) : exec (.cLd a b c) s = execCLd a b c s := rfl
@[simp] theorem exec_cSt (a b : Nat) (c : BitVec 3) (s : State) : exec (.cSt a b c) s = execCSt a b c s := rfl
@[simp] theorem exec_cBeqz (a : Nat) (imm : BitVec 7) (s : State) : exec (.cBeqz a imm) s = execCBeqz a imm s := rfl
@[simp] theorem exec_cBnez (a : Nat) (imm : BitVec 7) (s : State) : exec (.cBnez a imm) s = execCBnez a imm s := rfl
@[simp] theorem exec_cJ (off : BitVec 11) (s : State) : exec (.cJ off) s = execCJ off s := rfl
@[simp] theorem exec_cJr (a : Nat) (s : State) : exec (.cJr a) s = execCJr a s := rfl
@[simp] theorem exec_cLdt (a b : Nat) (c : BitVec 3) (s : State) : exec (.cLdt a b c) s = execCLdt a b c s := rfl
@[simp] theorem exec_cStf (a b : Nat) (c : BitVec 3) (s : State) : exec (.cStf a b c) s = execCStf a b c s := rfl
@[simp] theorem exec_cSkip (n : BitVec 11) (s : State) : exec (.cSkip n) s = execCSkip n s := rfl
@[simp] theorem exec_cQrd (a b : Nat) (s : State) : exec (.cQrd a b) s = execCQrd a b s := rfl
@[simp] theorem exec_cQwr (a b : Nat) (s : State) : exec (.cQwr a b) s = execCQwr a b s := rfl
@[simp] theorem exec_amovi (a : Nat) (imm : BitVec 32) (s : State) : exec (.amovi a imm) s = execAmovi a imm s := rfl
@[simp] theorem exec_amoviHi (a : Nat) (imm : BitVec 32) (s : State) : exec (.amoviHi a imm) s = execAmoviHi a imm s := rfl
@[simp] theorem exec_aadd (a b c : Nat) (s : State) : exec (.aadd a b c) s = execAadd a b c s := rfl
@[simp] theorem exec_asub (a b c : Nat) (s : State) : exec (.asub a b c) s = execAsub a b c s := rfl
@[simp] theorem exec_amul (a b c : Nat) (s : State) : exec (.amul a b c) s = execAmul a b c s := rfl
@[simp] theorem exec_aaddi (a b : Nat) (imm : BitVec 32) (s : State) : exec (.aaddi a b imm) s = execAaddi a b imm s := rfl
@[simp] theorem exec_abeq (a b : Nat) (off : BitVec 32) (s : State) : exec (.abeq a b off) s = execAbeq a b off s := rfl
@[simp] theorem exec_abne (a b : Nat) (off : BitVec 32) (s : State) : exec (.abne a b off) s = execAbne a b off s := rfl
@[simp] theorem exec_ablt (a b : Nat) (off : BitVec 32) (s : State) : exec (.ablt a b off) s = execAblt a b off s := rfl
@[simp] theorem exec_abge (a b : Nat) (off : BitVec 32) (s : State) : exec (.abge a b off) s = execAbge a b off s := rfl
@[simp] theorem exec_ajmp (off : BitVec 32) (s : State) : exec (.ajmp off) s = execAjmp off s := rfl
@[simp] theorem exec_acall (off : BitVec 32) (s : State) : exec (.acall off) s = execAcall off s := rfl
@[simp] theorem exec_ald (sz : ESize) (sx : Bool) (a b : Nat) (off : BitVec 32) (s : State) : exec (.ald sz sx a b off) s = execAld sz sx a b off s := rfl
@[simp] theorem exec_ast (sz : ESize) (a b : Nat) (off : BitVec 32) (s : State) : exec (.ast sz a b off) s = execAst sz a b off s := rfl
@[simp] theorem exec_sload (sa b : Nat) (off : BitVec 32) (s : State) : exec (.sload sa b off) s = execSload sa b off s := rfl
@[simp] theorem exec_sstore (sa b : Nat) (off : BitVec 32) (s : State) : exec (.sstore sa b off) s = execSstore sa b off s := rfl
@[simp] theorem exec_sjoin (sa sb : Nat) (s : State) : exec (.sjoin sa sb) s = execSjoin sa sb s := rfl
@[simp] theorem exec_slen (a sb : Nat) (s : State) : exec (.slen a sb) s = execSlen a sb s := rfl
@[simp] theorem exec_stok (a sb c : Nat) (s : State) : exec (.stok a sb c) s = execStok a sb c s := rfl
@[simp] theorem exec_stokW (a sb c : Nat) (s : State) : exec (.stokW a sb c) s = execStokW a sb c s := rfl
@[simp] theorem exec_ssel (sa sb c : Nat) (s : State) : exec (.ssel sa sb c) s = execSsel sa sb c s := rfl
@[simp] theorem exec_sclear (sa : Nat) (s : State) : exec (.sclear sa) s = execSclear sa s := rfl
@[simp] theorem exec_fmovi (fa : Nat) (imm : BitVec 32) (s : State) : exec (.fmovi fa imm) s = execFmovi fa imm s := rfl
@[simp] theorem exec_fblt (fa fb : Nat) (off : BitVec 32) (s : State) : exec (.fblt fa fb off) s = execFblt fa fb off s := rfl
@[simp] theorem exec_fbits (a fb : Nat) (s : State) : exec (.fbits a fb) s = execFbits a fb s := rfl
@[simp] theorem exec_fbitsF (a fb : Nat) (s : State) : exec (.fbitsF a fb) s = execFbitsF a fb s := rfl
@[simp] theorem exec_choose (a fb : Nat) (n : BitVec 32) (s : State) : exec (.choose a fb n) s = execChoose a fb n s := rfl
@[simp] theorem exec_ctxlen (a kb : Nat) (s : State) : exec (.ctxlen a kb) s = execCtxlen a kb s := rfl
@[simp] theorem exec_ctxstat (a kb : Nat) (s : State) : exec (.ctxstat a kb) s = execCtxstat a kb s := rfl
@[simp] theorem exec_post (a : Nat) (tag : BitVec 32) (s : State) : exec (.post a tag) s = execPost a tag s := rfl
@[simp] theorem exec_ahalt (a : Nat) (s : State) : exec (.ahalt a) s = execAhalt a s := rfl
@[simp] theorem exec_ctxnew (ka : Nat) (model : BitVec 32) (s : State) : exec (.ctxnew ka model) s = execCtxnew ka model s := rfl
@[simp] theorem exec_ctxfree (ka : Nat) (s : State) : exec (.ctxfree ka) s = execCtxfree ka s := rfl
@[simp] theorem exec_fork (ka kb : Nat) (s : State) : exec (.fork ka kb) s = execFork ka kb s := rfl
@[simp] theorem exec_trim (ka b : Nat) (s : State) : exec (.trim ka b) s = execTrim ka b s := rfl
@[simp] theorem exec_append (ka sb c : Nat) (s : State) : exec (.append ka sb c) s = execAppend ka sb c s := rfl
@[simp] theorem exec_probe (a kb sc : Nat) (s : State) : exec (.probe a kb sc) s = execProbe a kb sc s := rfl
@[simp] theorem exec_pin (ka sb c : Nat) (s : State) : exec (.pin ka sb c) s = execPin ka sb c s := rfl
@[simp] theorem exec_unpin (ka b : Nat) (s : State) : exec (.unpin ka b) s = execUnpin ka b s := rfl
@[simp] theorem exec_score (fa kb sc d : Nat) (s : State) : exec (.score fa kb sc d) s = execScore fa kb sc d s := rfl
@[simp] theorem exec_gen (ka sb c : Nat) (s : State) : exec (.gen ka sb c) s = execGen ka sb c s := rfl
@[simp] theorem exec_sampset (ka b : Nat) (s : State) : exec (.sampset ka b) s = execSampset ka b s := rfl
@[simp] theorem exec_maskbind (ka b : Nat) (s : State) : exec (.maskbind ka b) s = execMaskbind ka b s := rfl
@[simp] theorem exec_rngjump (ka b : Nat) (s : State) : exec (.rngjump ka b) s = execRngjump ka b s := rfl
@[simp] theorem exec_await (a : Nat) (tag : BitVec 32) (s : State) : exec (.await a tag) s = execAwait a tag s := rfl
@[simp] theorem exec_exit  (s : State) : exec (.exit) s = execExit s := rfl
@[simp] theorem exec_yield  (s : State) : exec (.yield) s = execYield s := rfl
@[simp] theorem exec_trigger  (s : State) : exec (.trigger) s = execTrigger s := rfl
@[simp] theorem exec_brk  (s : State) : exec (.brk) s = execBrk s := rfl
@[simp] theorem exec_wfe  (s : State) : exec (.wfe) s = execWfe s := rfl
@[simp] theorem exec_cNop  (s : State) : exec (.cNop) s = execCNop s := rfl
@[simp] theorem exec_cYield  (s : State) : exec (.cYield) s = execCYield s := rfl
@[simp] theorem exec_cExit  (s : State) : exec (.cExit) s = execCExit s := rfl
@[simp] theorem exec_cBar0  (s : State) : exec (.cBar0) s = execCBar0 s := rfl
@[simp] theorem exec_anop  (s : State) : exec (.anop) s = execAnop s := rfl
@[simp] theorem exec_aret  (s : State) : exec (.aret) s = execAret s := rfl
@[simp] theorem exec_divideComplete (core : Nat) (s : State) : exec (.divideComplete core) s = execDivideComplete core s := rfl
@[simp] theorem exec_loadReturn (t idx : Nat) (s : State) : exec (.loadReturn t idx) s = execLoadReturn t idx s := rfl
@[simp] theorem exec_ldftTimeout (t : Nat) (s : State) : exec (.ldftTimeout t) s = execLdftTimeout t s := rfl
@[simp] theorem exec_loopClaimResponse (t : Nat) (s : State) : exec (.loopClaimResponse t) s = execLoopClaimResponse t s := rfl
@[simp] theorem exec_copyComplete (ctx : Nat) (s : State) : exec (.copyComplete ctx) s = execCopyComplete ctx s := rfl
@[simp] theorem exec_remoteWriteAck (op : Nat) (s : State) : exec (.remoteWriteAck op) s = execRemoteWriteAck op s := rfl
@[simp] theorem exec_gatherComplete (ctx : Nat) (s : State) : exec (.gatherComplete ctx) s = execGatherComplete ctx s := rfl
@[simp] theorem exec_collChunkReceive (ctx : Nat) (s : State) : exec (.collChunkReceive ctx) s = execCollChunkReceive ctx s := rfl
@[simp] theorem exec_collComplete (ctx : Nat) (s : State) : exec (.collComplete ctx) s = execCollComplete ctx s := rfl
@[simp] theorem exec_leaseGrant (g bank : Nat) (s : State) : exec (.leaseGrant g bank) s = execLeaseGrant g bank s := rfl
@[simp] theorem exec_arrayRunStart (g : Nat) (s : State) : exec (.arrayRunStart g) s = execArrayRunStart g s := rfl
@[simp] theorem exec_arrayRunLimit (g : Nat) (s : State) : exec (.arrayRunLimit g) s = execArrayRunLimit g s := rfl
@[simp] theorem exec_arrayPassStart (g : Nat) (s : State) : exec (.arrayPassStart g) s = execArrayPassStart g s := rfl
@[simp] theorem exec_arrayCommandComplete (g : Nat) (s : State) : exec (.arrayCommandComplete g) s = execArrayCommandComplete g s := rfl
@[simp] theorem exec_autofillRefillComplete (g h : Nat) (s : State) : exec (.autofillRefillComplete g h) s = execAutofillRefillComplete g h s := rfl
@[simp] theorem exec_residencyFillComplete (g h : Nat) (s : State) : exec (.residencyFillComplete g h) s = execResidencyFillComplete g h s := rfl
@[simp] theorem exec_canopyBackgroundRefill (g h : Nat) (s : State) : exec (.canopyBackgroundRefill g h) s = execCanopyBackgroundRefill g h s := rfl
@[simp] theorem exec_normaliserServiceEnd (core : Nat) (s : State) : exec (.normaliserServiceEnd core) s = execNormaliserServiceEnd core s := rfl
@[simp] theorem exec_sfuAccept (core : Nat) (s : State) : exec (.sfuAccept core) s = execSfuAccept core s := rfl
@[simp] theorem exec_sfuDeliver (core : Nat) (s : State) : exec (.sfuDeliver core) s = execSfuDeliver core s := rfl
@[simp] theorem exec_sortUnitComplete (core : Nat) (s : State) : exec (.sortUnitComplete core) s = execSortUnitComplete core s := rfl
@[simp] theorem exec_wfeTimeout (t : Nat) (s : State) : exec (.wfeTimeout t) s = execWfeTimeout t s := rfl
@[simp] theorem exec_trapRecordWrite (core : Nat) (s : State) : exec (.trapRecordWrite core) s = execTrapRecordWrite core s := rfl
@[simp] theorem exec_threadStart (core sid : Nat) (s : State) : exec (.threadStart core sid) s = execThreadStart core sid s := rfl
@[simp] theorem exec_populationComplete (pop : Nat) (s : State) : exec (.populationComplete pop) s = execPopulationComplete pop s := rfl
@[simp] theorem exec_loadBalanceExchange  (s : State) : exec (.loadBalanceExchange) s = execLoadBalanceExchange s := rfl
@[simp] theorem exec_waitProbeTick  (s : State) : exec (.waitProbeTick) s = execWaitProbeTick s := rfl
@[simp] theorem exec_waitProbeArrival (core : Nat) (s : State) : exec (.waitProbeArrival core) s = execWaitProbeArrival core s := rfl
@[simp] theorem exec_translationAnswer (g : Nat) (s : State) : exec (.translationAnswer g) s = execTranslationAnswer g s := rfl
@[simp] theorem exec_lanyardFlitArrival (port : Nat) (s : State) : exec (.lanyardFlitArrival port) s = execLanyardFlitArrival port s := rfl
@[simp] theorem exec_hostMemoryAccess (fn a : Nat) (wr : Bool) (v : Word) (s : State) : exec (.hostMemoryAccess fn a wr v) s = execHostMemoryAccess fn a wr v s := rfl
@[simp] theorem exec_lookaheadDecode (n : Nat) (s : State) : exec (.lookaheadDecode n) s = execLookaheadDecode n s := rfl
@[simp] theorem exec_planHoldExpiry (n : Nat) (s : State) : exec (.planHoldExpiry n) s = execPlanHoldExpiry n s := rfl
@[simp] theorem exec_iterationSnapshot (p : Nat) (s : State) : exec (.iterationSnapshot p) s = execIterationSnapshot p s := rfl
@[simp] theorem exec_gracePeriodEnd (p : Nat) (s : State) : exec (.gracePeriodEnd p) s = execGracePeriodEnd p s := rfl
@[simp] theorem exec_batchMulticast (p : Nat) (s : State) : exec (.batchMulticast p) s = execBatchMulticast p s := rfl
@[simp] theorem exec_shardReport (p : Nat) (s : State) : exec (.shardReport p) s = execShardReport p s := rfl
@[simp] theorem exec_modelGroupTimeout (p : Nat) (s : State) : exec (.modelGroupTimeout p) s = execModelGroupTimeout p s := rfl
@[simp] theorem exec_iterationCommit (p : Nat) (s : State) : exec (.iterationCommit p) s = execIterationCommit p s := rfl
@[simp] theorem exec_launchPacket (q : Nat) (s : State) : exec (.launchPacket q) s = execLaunchPacket q s := rfl
@[simp] theorem exec_agentstart (q : Nat) (s : State) : exec (.agentstart q) s = execAgentstart q s := rfl
@[simp] theorem exec_copyPacket (q : Nat) (s : State) : exec (.copyPacket q) s = execCopyPacket q s := rfl
@[simp] theorem exec_signalTimeline (q : Nat) (s : State) : exec (.signalTimeline q) s = execSignalTimeline q s := rfl
@[simp] theorem exec_signalEvent (q : Nat) (s : State) : exec (.signalEvent q) s = execSignalEvent q s := rfl
@[simp] theorem exec_waittlPacket (q : Nat) (s : State) : exec (.waittlPacket q) s = execWaittlPacket q s := rfl
@[simp] theorem exec_switchatPacket (q : Nat) (s : State) : exec (.switchatPacket q) s = execSwitchatPacket q s := rfl
@[simp] theorem exec_faultPacket (q : Nat) (s : State) : exec (.faultPacket q) s = execFaultPacket q s := rfl
@[simp] theorem exec_sqptrWrite (q : Nat) (v : Word) (s : State) : exec (.sqptrWrite q v) s = execSqptrWrite q v s := rfl
@[simp] theorem exec_sqActivate (q : Nat) (v : Word) (s : State) : exec (.sqActivate q v) s = execSqActivate q v s := rfl
@[simp] theorem exec_sqDisable (q : Nat) (s : State) : exec (.sqDisable q) s = execSqDisable q s := rfl
@[simp] theorem exec_completionRecordWrite (fn : Nat) (s : State) : exec (.completionRecordWrite fn) s = execCompletionRecordWrite fn s := rfl
@[simp] theorem exec_xlatResume (v : Word) (s : State) : exec (.xlatResume v) s = execXlatResume v s := rfl
@[simp] theorem exec_xlatSkip (v : Word) (s : State) : exec (.xlatSkip v) s = execXlatSkip v s := rfl
@[simp] theorem exec_xlatKill (v : Word) (s : State) : exec (.xlatKill v) s = execXlatKill v s := rfl
@[simp] theorem exec_tpStage (fn : Nat) (img : Image) (s : State) : exec (.tpStage fn img) s = execTpStage fn img s := rfl
@[simp] theorem exec_tpCommit (fn : Nat) (s : State) : exec (.tpCommit fn) s = execTpCommit fn s := rfl
@[simp] theorem exec_attest (fn : Nat) (s : State) : exec (.attest fn) s = execAttest fn s := rfl
@[simp] theorem exec_pset (fn : Nat) (b : Bounds) (s : State) : exec (.pset fn b) s = execPset fn b s := rfl
@[simp] theorem exec_pdestroy (fn p : Nat) (s : State) : exec (.pdestroy fn p) s = execPdestroy fn p s := rfl
@[simp] theorem exec_extend (fn n : Nat) (d : BitVec 256) (s : State) : exec (.extend fn n d) s = execExtend fn n d s := rfl
@[simp] theorem exec_unfreeze (fn vf : Nat) (s : State) : exec (.unfreeze fn vf) s = execUnfreeze fn vf s := rfl
@[simp] theorem exec_powerOn  (s : State) : exec (.powerOn) s = execPowerOn s := rfl
@[simp] theorem exec_healthUpdate  (s : State) : exec (.healthUpdate) s = execHealthUpdate s := rfl
@[simp] theorem exec_eventCounterClear (core idx : Nat) (s : State) : exec (.eventCounterClear core idx) s = execEventCounterClear core idx s := rfl
@[simp] theorem exec_engfrzUnfreeze (core p q : Nat) (s : State) : exec (.engfrzUnfreeze core p q) s = execEngfrzUnfreeze core p q s := rfl
@[simp] theorem exec_partitionConfigWrite (p reg : Nat) (v : Word) (s : State) : exec (.partitionConfigWrite p reg v) s = execPartitionConfigWrite p reg v s := rfl
@[simp] theorem exec_rtdataWrite (p : Nat) (v : Word) (s : State) : exec (.rtdataWrite p v) s = execRtdataWrite p v s := rfl
@[simp] theorem exec_tencfgWrite (p : Nat) (v : Word) (s : State) : exec (.tencfgWrite p v) s = execTencfgWrite p v s := rfl
@[simp] theorem exec_modtabWrite (p n : Nat) (v : Word) (s : State) : exec (.modtabWrite p n v) s = execModtabWrite p n v s := rfl
@[simp] theorem exec_agentAreaWrite (p n : Nat) (v : Word) (s : State) : exec (.agentAreaWrite p n v) s = execAgentAreaWrite p n v s := rfl
@[simp] theorem exec_switchatWrite (p : Nat) (v : Word) (s : State) : exec (.switchatWrite p v) s = execSwitchatWrite p v s := rfl
@[simp] theorem exec_swctlArm (p : Nat) (v : Word) (s : State) : exec (.swctlArm p v) s = execSwctlArm p v s := rfl
@[simp] theorem exec_swctlDisarm (p : Nat) (v : Word) (s : State) : exec (.swctlDisarm p v) s = execSwctlDisarm p v s := rfl
@[simp] theorem exec_preloadComplete (p : Nat) (s : State) : exec (.preloadComplete p) s = execPreloadComplete p s := rfl
@[simp] theorem exec_switchTimeReached (p : Nat) (s : State) : exec (.switchTimeReached p) s = execSwitchTimeReached p s := rfl
@[simp] theorem exec_slotHandover (p : Nat) (s : State) : exec (.slotHandover p) s = execSlotHandover p s := rfl
@[simp] theorem exec_switchComplete (p : Nat) (s : State) : exec (.switchComplete p) s = execSwitchComplete p s := rfl
@[simp] theorem exec_gswPrepare (p tgt : Nat) (s : State) : exec (.gswPrepare p tgt) s = execGswPrepare p tgt s := rfl
@[simp] theorem exec_gswCommit (p : Nat) (s : State) : exec (.gswCommit p) s = execGswCommit p s := rfl
@[simp] theorem exec_gswAbort (p : Nat) (s : State) : exec (.gswAbort p) s = execGswAbort p s := rfl
@[simp] theorem exec_ptrootWrite (p n : Nat) (v : Word) (s : State) : exec (.ptrootWrite p n v) s = execPtrootWrite p n v s := rfl
@[simp] theorem exec_xinvWrite (p : Nat) (v : Word) (s : State) : exec (.xinvWrite p v) s = execXinvWrite p v s := rfl
@[simp] theorem exec_invalidationComplete (p : Nat) (s : State) : exec (.invalidationComplete p) s = execInvalidationComplete p s := rfl
@[simp] theorem exec_elogEntryClear (g n : Nat) (s : State) : exec (.elogEntryClear g n) s = execElogEntryClear g n s := rfl
@[simp] theorem exec_einjWrite (g : Nat) (v : Word) (s : State) : exec (.einjWrite g v) s = execEinjWrite g v s := rfl
@[simp] theorem exec_registerWrite (place reg : Nat) (v : Word) (s : State) : exec (.registerWrite place reg v) s = execRegisterWrite place reg v s := rfl

end Sys2Proof.Machine
end

