-- ==== Sys2Proof/Laws/PerInstr.lean ====
section
/-! SUPPORT. Sys2Proof/Laws/PerInstr.lean: facts about every instruction as syntax, one lemma per constructor. Family
RoundTrip: the decoder gives back a well-formed instruction from the word that the encoder makes of it. The lemmas about a
layout of R34, R41, R43, R45 or R225 say once what each field of such a word is. -/

namespace Sys2Proof.Laws

open Sys2Proof

set_option linter.unusedSimpArgs false
set_option linter.unusedVariables false
set_option Elab.async false

/-- The decoder gives an instruction back from its word. -/
def RoundTrip.Statement (i : Instr) : Prop := i.wf = true → encode i ≠ .event → (encode i).decode = .ok i

/-! ### Codes of operand values -/

theorem mode_lt (m : Mode) : m.code < 4 := by cases m <;> decide
theorem mode_ofCode (m : Mode) : Mode.ofCode m.code = m := by cases m <;> rfl
theorem ety_lt (t : Ety) : t.code < 16 := by cases t <;> decide
theorem esize_lt (z : ESize) : z.code < 4 := by cases z <;> decide
theorem esize_ofCode (z : ESize) : ESize.ofCode z.code = z := by cases z <;> rfl
theorem rnd_lt (r : Rnd) : r.code < 4 := by cases r <;> decide
theorem rnd_ofCode (r : Rnd) : Rnd.ofCode r.code = r := by cases r <;> rfl
theorem ovf_lt (r : Ovf) : r.code < 4 := by cases r <;> decide
theorem ovf_ofCode (r : Ovf) : Ovf.ofCode r.code = r := by cases r <;> rfl
theorem cmp_lt (c : Cmp) : c.code < 8 := by cases c <;> decide
theorem cmp_ofCode (c : Cmp) : Cmp.ofCode c.code = some c := by cases c <;> rfl
theorem order_lt (o : AmoOrder) : o.code < 4 := by cases o <;> decide
theorem order_ofCode (o : AmoOrder) : AmoOrder.ofCode o.code = o := by cases o <;> rfl
theorem scope_lt (c : Scope) : c.code < 8 := by cases c <;> decide
theorem scope_ofCode (c : Scope) : Scope.ofCode c.code = some c := by cases c <;> rfl
theorem src_lt {a : Src} (h : a.ok = true) : a.reg < 32 := by simpa [Src.ok] using h

theorem withEty_code {ok : Ety → Bool} {t : Ety} (h : ok t = true) (k : Ety → Decoded) : withEty t.code ok k = k t := by
  have e : Ety.ofCode t.code = some t := by cases t <;> rfl
  simp [withEty, e, mustHold, h]

theorem encBit_eq (z : Bool) (i : Nat) : encBit z i = z.toNat * 2 ^ i := by cases z <;> simp [encBit]

theorem bitAt_of {w i : Nat} {z : Bool} (h : fld w i 1 = z.toNat) : bitAt w i = z := by cases z <;> simp [bitAt, h]

theorem src_of {w r m : Nat} {a : Src} (h : fld w r 5 = a.reg) (k : fld w m 2 = a.mode.code) : srcAt w r m = a := by
  simp only [srcAt, h, k, mode_ofCode]

theorem imm_of {n : Nat} (v : BitVec n) : BitVec.ofNat n v.toNat = v := by simp

/-- The low bits of a word are those of its last summand. -/
theorem fld_low {n x y : Nat} (lo k : Nat) (h : lo + k ≤ n) : fld (x * 2 ^ n + y) lo k = fld y lo k := by
  obtain ⟨c, rfl⟩ := Nat.exists_eq_add_of_le h
  simp only [fld]
  rw [show x * 2 ^ (lo + k + c) + y = y + 2 ^ lo * (2 ^ k * (x * 2 ^ c)) by
      rw [Nat.pow_add, Nat.pow_add, Nat.add_comm]; simp only [Nat.mul_assoc, Nat.mul_left_comm],
    Nat.add_mul_div_left _ _ (Nat.two_pow_pos lo), Nat.add_mul_mod_self_left]

/-! ### Words that have a major opcode, a 5-bit field, a source and 13 low bits (R34) -/

structure RF (w op rd : Nat) (a : Src) (low : Nat) : Prop where
  opE : fld w 25 6 = op
  rdE : fld w 20 5 = rd
  aE : srcAt w 15 13 = a
  lowE : ∀ lo k, lo + k ≤ 13 → fld w lo k = fld low lo k

theorem rf {op rd low : Nat} {a : Src} (ho : op < 64) (hd : rd < 32) (ha : a.ok = true) (hl : low < 8192) :
    RF (encMajor op + rd * 2 ^ 20 + encSrc a 15 13 + low) op rd a low := by
  have h1 := src_lt ha
  have h2 := mode_lt a.mode
  refine ⟨?_, ?_, src_of ?_ ?_, fun lo k h => ?_⟩
  case refine_5 =>
    rw [show encMajor op + rd * 2 ^ 20 + encSrc a 15 13 + low =
      (2 ^ 18 + op * 2 ^ 12 + rd * 2 ^ 7 + a.reg * 2 ^ 2 + a.mode.code) * 2 ^ 13 + low by simp only [encMajor, encSrc]; omega]
    exact fld_low lo k h
  all_goals simp only [encMajor, encSrc, fld]; omega

theorem src_low {w n r m low : Nat} {a : Src} (hl : ∀ lo k, lo + k ≤ n → fld w lo k = fld low lo k) (hr : r + 5 ≤ n) (hm : m + 2 ≤ n)
    (h : fld low r 5 = a.reg) (k : fld low m 2 = a.mode.code) : srcAt w r m = a :=
  src_of ((hl _ _ hr).trans h) ((hl _ _ hm).trans k)

theorem rtR2 {op fn rd : Nat} {a b : Src} (c : Nat → Src → Src → Instr) (h : (decide (rd < 32) && a.ok && b.ok) = true)
    (ho : op < 64) (hf : fn < 64) (hd : ∀ w, fld w 25 6 = op → fld w 0 6 = fn → decode32 w = decR2 w c) :
    (encR2 op fn rd a b).decode = .ok (c rd a b) := by
  simp only [Bool.and_eq_true, decide_eq_true_eq] at h
  have h3 := src_lt h.2
  have h5 := mode_lt b.mode
  have f := rf ho h.1.1 h.1.2 (low := encSrc b 8 6 + fn) (by simp only [encSrc]; omega)
  rw [← Nat.add_assoc] at f
  show decode32 _ = _
  have fb := src_low f.lowE (r := 8) (m := 6) (a := b) (by decide) (by decide) (by simp only [encSrc, fld]; omega)
    (by simp only [encSrc, fld]; omega)
  rw [hd _ f.opE ((f.lowE _ _ (by decide)).trans (by simp only [encSrc, fld]; omega))]
  simp only [decR2, f.rdE, f.aE, fb]

theorem rtR1 {op fn rd : Nat} {a : Src} (c : Nat → Src → Instr) (h : (decide (rd < 32) && a.ok) = true)
    (ho : op < 64) (hf : fn < 64) (hd : ∀ w, fld w 25 6 = op → fld w 0 6 = fn → decode32 w = decR1 w c) :
    (encR1 op fn rd a).decode = .ok (c rd a) := by
  simp only [Bool.and_eq_true, decide_eq_true_eq] at h
  have f := rf ho h.1 h.2 (low := fn) (by omega)
  show decode32 _ = _
  rw [hd _ f.opE ((f.lowE _ _ (by decide)).trans (by simp only [fld]; omega))]
  simp only [decR1, f.rdE, f.aE, f.lowE 6 7 (by decide), show fld fn 6 7 = 0 by simp only [fld]; omega, mustBeZero, if_true]

theorem rtI {op rd : Nat} {a : Src} {imm : BitVec 13} (c : Nat → Src → BitVec 13 → Instr) (h : (decide (rd < 32) && a.ok) = true)
    (ho : op < 64) (hd : ∀ w, fld w 25 6 = op → fld w 20 5 = rd → decode32 w = decI w c) :
    (encI op rd a imm.toNat).decode = .ok (c rd a imm) := by
  simp only [Bool.and_eq_true, decide_eq_true_eq] at h
  have f := rf ho h.1 h.2 (low := imm.toNat) imm.isLt
  show decode32 _ = _
  rw [hd _ f.opE f.rdE]
  simp only [decI, f.rdE, f.aE, f.lowE 0 13 (by decide), show fld imm.toNat 0 13 = imm.toNat by simp only [fld]; omega, imm_of]

theorem rtShift {k rd : Nat} {a : Src} {amt : BitVec 6} (c : Nat → Src → BitVec 6 → Instr) (h : (decide (rd < 32) && a.ok) = true)
    (hk : k < 4) (hd : ∀ w, fld w 25 6 = 7 → fld w 11 2 = k → decode32 w = decShift w c) :
    (encI 7 rd a (k * 2 ^ 11 + amt.toNat)).decode = .ok (c rd a amt) := by
  simp only [Bool.and_eq_true, decide_eq_true_eq] at h
  have f := rf (op := 7) (by decide) h.1 h.2 (low := k * 2 ^ 11 + amt.toNat) (by omega)
  show decode32 _ = _
  rw [hd _ f.opE ((f.lowE _ _ (by decide)).trans (by simp only [fld]; omega))]
  simp only [decShift, f.rdE, f.aE, f.lowE 0 6 (by decide), f.lowE 6 5 (by decide), show fld (k * 2 ^ 11 + amt.toNat) 0 6 = amt.toNat by
    simp only [fld]; omega, show fld (k * 2 ^ 11 + amt.toNat) 6 5 = 0 by simp only [fld]; omega, imm_of, mustBeZero, if_true]

theorem rtLS {k rd : Nat} {a : Src} {imm : BitVec 11} (c : Nat → Src → BitVec 11 → Instr) (h : (decide (rd < 32) && a.ok) = true)
    (hk : k < 4) (hd : ∀ w, fld w 25 6 = 0x15 → fld w 11 2 = k → decode32 w = decLS w c) :
    (encI 0x15 rd a (k * 2 ^ 11 + imm.toNat)).decode = .ok (c rd a imm) := by
  simp only [Bool.and_eq_true, decide_eq_true_eq] at h
  have f := rf (op := 0x15) (by decide) h.1 h.2 (low := k * 2 ^ 11 + imm.toNat) (by omega)
  show decode32 _ = _
  rw [hd _ f.opE ((f.lowE _ _ (by decide)).trans (by simp only [fld]; omega))]
  simp only [decLS, f.rdE, f.aE, f.lowE 0 11 (by decide), show fld (k * 2 ^ 11 + imm.toNat) 0 11 = imm.toNat by
    simp only [fld]; omega, imm_of]

theorem rtFew {k : Nat} {a : Src} {imm : BitVec 11} (i : Instr) (h : a.ok = true) (hk : k < 2)
    (hd : ∀ w, fld w 25 6 = 0x17 → fld w 20 5 = 0 → fld w 11 1 = 0 → fld w 12 1 = k → srcAt w 15 13 = a →
      BitVec.ofNat 11 (fld w 0 11) = imm → decode32 w = .ok i) : (encI 0x17 0 a (k * 2 ^ 12 + imm.toNat)).decode = .ok i := by
  have f := rf (op := 0x17) (rd := 0) (by decide) (by decide) h (low := k * 2 ^ 12 + imm.toNat) (by omega)
  exact hd _ f.opE f.rdE ((f.lowE _ _ (by decide)).trans (by simp only [fld]; omega))
    ((f.lowE _ _ (by decide)).trans (by simp only [fld]; omega)) f.aE (by
      rw [f.lowE _ _ (by decide), show fld (k * 2 ^ 12 + imm.toNat) 0 11 = imm.toNat by simp only [fld]; omega, imm_of])

theorem rtAmo {k rd : Nat} {a b : Src} {o : AmoOrder} (c : Nat → Src → Src → AmoOrder → Instr)
    (h : (decide (rd < 32) && a.ok && b.ok) = true) (hk : k < 16)
    (hd : ∀ w, fld w 25 6 = 0x18 → fld w 2 4 = k → decode32 w = decAmo w c) :
    (encR2 0x18 (k * 4 + o.code) rd a b).decode = .ok (c rd a b o) := by
  simp only [Bool.and_eq_true, decide_eq_true_eq] at h
  have h3 := src_lt h.2
  have h5 := mode_lt b.mode
  have h6 := order_lt o
  have f := rf (op := 0x18) (by decide) h.1.1 h.1.2 (low := encSrc b 8 6 + (k * 4 + o.code)) (by simp only [encSrc]; omega)
  rw [← Nat.add_assoc] at f
  show decode32 _ = _
  have fb := src_low f.lowE (r := 8) (m := 6) (a := b) (by decide) (by decide) (by simp only [encSrc, fld]; omega)
    (by simp only [encSrc, fld]; omega)
  rw [hd _ f.opE ((f.lowE _ _ (by decide)).trans (by simp only [encSrc, fld]; omega))]
  simp only [decAmo, f.rdE, f.aE, fb, f.lowE 0 2 (by decide), show fld (encSrc b 8 6 + (k * 4 + o.code)) 0 2 = o.code by
    simp only [encSrc, fld]; omega, order_ofCode]

theorem rtU {op rd : Nat} {imm : BitVec 20} (i : Instr) (ho : op < 64) (h : rd < 32)
    (hd : ∀ w, fld w 25 6 = op → fld w 20 5 = rd → BitVec.ofNat 20 (fld w 0 20) = imm → decode32 w = .ok i) :
    (encU op rd imm.toNat).decode = .ok i := by
  refine hd _ ?_ ?_ ?_
  · simp only [encMajor, fld]; omega
  · simp only [encMajor, fld]; omega
  · rw [show fld (encMajor op + rd * 2 ^ 20 + imm.toNat) 0 20 = imm.toNat by simp only [encMajor, fld]; omega, imm_of]

theorem rtS {op : Nat} {d a : Src} {imm : BitVec 11} (c : Src → Src → BitVec 11 → Instr) (h : (d.ok && a.ok) = true) (ho : op < 64)
    (hd : ∀ w, fld w 25 6 = op → decode32 w = decS w c) : (encS op d a imm.toNat).decode = .ok (c d a imm) := by
  simp only [Bool.and_eq_true] at h
  have h1 := src_lt h.1
  have h2 := src_lt h.2
  have h3 := mode_lt d.mode
  have h4 := mode_lt a.mode
  show decode32 (encMajor op + encSrc d 20 11 + encSrc a 15 13 + imm.toNat) = _
  rw [hd _ (by simp only [encMajor, encSrc, fld]; omega), decS]
  rw [src_of (a := d) (by simp only [encMajor, encSrc, fld]; omega) (by simp only [encMajor, encSrc, fld]; omega),
    src_of (a := a) (by simp only [encMajor, encSrc, fld]; omega) (by simp only [encMajor, encSrc, fld]; omega),
    show fld (encMajor op + encSrc d 20 11 + encSrc a 15 13 + imm.toNat) 0 11 = imm.toNat by
      simp only [encMajor, encSrc, fld]; omega, imm_of]

theorem rtB {op : Nat} {a b : Src} {off : BitVec 11} (c : Src → Src → BitVec 11 → Instr) (h : (a.ok && b.ok) = true) (ho : op < 64)
    (hd : ∀ w, fld w 25 6 = op → decode32 w = decB w c) : (encB op a b off.toNat).decode = .ok (c a b off) := by
  simp only [Bool.and_eq_true] at h
  have h1 := src_lt h.1
  have h2 := src_lt h.2
  have h3 := mode_lt a.mode
  have h4 := mode_lt b.mode
  show decode32 (encMajor op + encSrc a 20 18 + encSrc b 13 11 + off.toNat) = _
  rw [hd _ (by simp only [encMajor, encSrc, fld]; omega), decB]
  rw [src_of (a := a) (by simp only [encMajor, encSrc, fld]; omega) (by simp only [encMajor, encSrc, fld]; omega),
    src_of (a := b) (by simp only [encMajor, encSrc, fld]; omega) (by simp only [encMajor, encSrc, fld]; omega),
    show fld (encMajor op + encSrc a 20 18 + encSrc b 13 11 + off.toNat) 0 11 = off.toNat by
      simp only [encMajor, encSrc, fld]; omega, imm_of]

theorem rtRS1 {fn : Nat} {a : Src} (c : Src → Instr) (h : a.ok = true) (hf : fn < 64)
    (hd : ∀ w, fld w 25 6 = 0x35 → fld w 0 6 = fn → decode32 w = decRS1 w c) : (encR1 0x35 fn 0 a).decode = .ok (c a) := by
  have f := rf (op := 0x35) (rd := 0) (by decide) (by decide) h (low := fn) (by omega)
  show decode32 _ = _
  rw [hd _ f.opE ((f.lowE _ _ (by decide)).trans (by simp only [fld]; omega))]
  simp only [decRS1, f.rdE, f.aE, f.lowE 6 7 (by decide), show fld fn 6 7 = 0 by simp only [fld]; omega, mustBeZero, if_true]

theorem rtRS2 {fn : Nat} {a b : Src} (c : Src → Src → Instr) (h : (a.ok && b.ok) = true) (hf : fn < 64)
    (hd : ∀ w, fld w 25 6 = 0x35 → fld w 0 6 = fn → decode32 w = decRS2 w c) : (encR2 0x35 fn 0 a b).decode = .ok (c a b) := by
  simp only [Bool.and_eq_true] at h
  have h3 := src_lt h.2
  have h5 := mode_lt b.mode
  have f := rf (op := 0x35) (rd := 0) (by decide) (by decide) h.1 (low := encSrc b 8 6 + fn) (by simp only [encSrc]; omega)
  rw [← Nat.add_assoc] at f
  show decode32 _ = _
  have fb := src_low f.lowE (r := 8) (m := 6) (a := b) (by decide) (by decide) (by simp only [encSrc, fld]; omega)
    (by simp only [encSrc, fld]; omega)
  rw [hd _ f.opE ((f.lowE _ _ (by decide)).trans (by simp only [encSrc, fld]; omega))]
  simp only [decRS2, f.rdE, f.aE, fb, mustBeZero, if_true]

/-! ### The Q format -/

structure QF (w op q xa ma xb mb fn : Nat) : Prop where
  opE : fld w 25 6 = op
  qE : fld w 21 4 = q
  q2E : fld w 21 2 = q % 4
  q23E : fld w 23 2 = q / 4
  q3E : fld w 21 3 = q % 8
  q24E : fld w 24 1 = q / 8
  b21E : fld w 21 1 = q % 2
  b22E : fld w 22 1 = q / 2 % 2
  b23E : fld w 23 1 = q / 4 % 2
  xaE : fld w 16 5 = xa
  xbE : fld w 11 5 = xb
  maE : fld w 9 2 = ma
  mbE : fld w 7 2 = mb
  z9E : fld w 7 9 = mb + 4 * ma + 16 * xb
  z14E : fld w 7 14 = mb + 4 * ma + 16 * xb + 512 * xa
  z13E : fld w 3 13 = fn / 8 + 16 * (mb + 4 * ma + 16 * xb)
  lowE : ∀ lo k, lo + k ≤ 7 → fld w lo k = fld fn lo k

theorem qf {op q xa ma xb mb fn : Nat} (h1 : op < 64) (h2 : q < 16) (h3 : xa < 32) (h4 : ma < 4) (h5 : xb < 32) (h6 : mb < 4)
    (h7 : fn < 128) : QF (encMajor op + q * 2 ^ 21 + xa * 2 ^ 16 + xb * 2 ^ 11 + ma * 2 ^ 9 + mb * 2 ^ 7 + fn) op q xa ma xb mb fn := by
  obtain ⟨w, hw⟩ : ∃ w, w = encMajor op + q * 2 ^ 21 + xa * 2 ^ 16 + xb * 2 ^ 11 + ma * 2 ^ 9 + mb * 2 ^ 7 + fn := ⟨_, rfl⟩
  have e : w = (2 ^ 24 + op * 2 ^ 18 + q * 2 ^ 14 + xa * 2 ^ 9 + xb * 2 ^ 4 + ma * 4 + mb) * 2 ^ 7 + fn := by
    simp only [encMajor] at hw; omega
  rw [← hw]
  simp only [encMajor] at hw
  constructor <;> first
    | (intro lo k h; rw [e]; exact fld_low lo k h)
    | (simp only [fld]; omega)

theorem QF.a {w op q xb mb fn : Nat} {a : Src} (f : QF w op q a.reg a.mode.code xb mb fn) : qa w = a := src_of f.xaE f.maE
theorem QF.b {w op q xa ma fn : Nat} {b : Src} (f : QF w op q xa ma b.reg b.mode.code fn) : qb w = b := src_of f.xbE f.mbE

/-! ### The V format and the format of vector memory -/

structure VF (w op vd va vb pg fn : Nat) : Prop where
  opE : fld w 25 6 = op
  vdE : fld w 21 4 = vd
  vaE : fld w 17 4 = va
  vbE : fld w 13 4 = vb
  pgE : fld w 10 3 = pg
  d3E : fld w 21 3 = vd % 8
  d24E : fld w 24 1 = vd / 8
  a3E : fld w 17 3 = va % 8
  a20E : fld w 20 1 = va / 8
  b3E : fld w 13 3 = vb % 8
  b16E : fld w 16 1 = vb / 8
  z10E : fld w 3 10 = fn / 8 + 128 * pg
  z14E : fld w 3 14 = fn / 8 + 128 * pg + 1024 * vb
  lowE : ∀ lo k, lo + k ≤ 10 → fld w lo k = fld fn lo k

theorem vf {op vd va vb pg fn : Nat} (h1 : op < 64) (h2 : vd < 16) (h3 : va < 16) (h4 : vb < 16) (h5 : pg < 8) (h7 : fn < 1024) :
    VF (encMajor op + vd * 2 ^ 21 + va * 2 ^ 17 + vb * 2 ^ 13 + pg * 2 ^ 10 + fn) op vd va vb pg fn := by
  obtain ⟨w, hw⟩ : ∃ w, w = encMajor op + vd * 2 ^ 21 + va * 2 ^ 17 + vb * 2 ^ 13 + pg * 2 ^ 10 + fn := ⟨_, rfl⟩
  have e : w = (2 ^ 21 + op * 2 ^ 15 + vd * 2 ^ 11 + va * 2 ^ 7 + vb * 2 ^ 3 + pg) * 2 ^ 10 + fn := by
    simp only [encMajor] at hw; omega
  rw [← hw]
  simp only [encMajor] at hw
  constructor <;> first
    | (intro lo k h; rw [e]; exact fld_low lo k h)
    | (simp only [fld]; omega)

structure XF (w op vd va : Nat) (xs : Src) (pg fn : Nat) : Prop where
  opE : fld w 25 6 = op
  vdE : fld w 21 4 = vd
  vaE : fld w 17 4 = va
  xsE : srcAt w 12 10 = xs
  pgE : fld w 7 3 = pg
  lowE : ∀ lo k, lo + k ≤ 7 → fld w lo k = fld fn lo k

theorem xf {op vd va pg fn : Nat} {xs : Src} (h1 : op < 64) (h2 : vd < 16) (h3 : va < 16) (hx : xs.ok = true) (h5 : pg < 8)
    (h7 : fn < 128) : XF (encMajor op + vd * 2 ^ 21 + va * 2 ^ 17 + encSrc xs 12 10 + pg * 2 ^ 7 + fn) op vd va xs pg fn := by
  have h8 := src_lt hx
  have h9 := mode_lt xs.mode
  obtain ⟨w, hw⟩ : ∃ w, w = encMajor op + vd * 2 ^ 21 + va * 2 ^ 17 + encSrc xs 12 10 + pg * 2 ^ 7 + fn := ⟨_, rfl⟩
  have e : w = (2 ^ 24 + op * 2 ^ 18 + vd * 2 ^ 14 + va * 2 ^ 10 + xs.reg * 2 ^ 5 + xs.mode.code * 2 ^ 3 + pg) * 2 ^ 7 + fn := by
    simp only [encMajor, encSrc] at hw; omega
  rw [← hw]
  simp only [encMajor, encSrc] at hw
  refine ⟨?_, ?_, ?_, src_of ?_ ?_, ?_, fun lo k h => by rw [e]; exact fld_low lo k h⟩ <;> (simp only [fld]; omega)

/-- The low bits of a word with a type at [9:6], Z at bit 5 and a function below. -/
theorem t6 {w n : Nat} {t : Ety} {z : Bool} (hl : ∀ lo k, lo + k ≤ 10 → fld w lo k = fld (t.code * 2 ^ 6 + encBit z 5 + n) lo k)
    (hn : n < 32) : fld w 6 4 = t.code ∧ bitAt w 5 = z ∧ fld w 0 4 = n % 16 ∧ fld w 0 3 = n % 8 ∧ fld w 4 1 = n / 16 ∧
      fld w 3 2 = n / 8 ∧ fld w 4 2 = n / 16 + 2 * z.toNat ∧ fld w 3 3 = n / 8 + 4 * z.toNat := by
  have h1 := ety_lt t
  have h2 : z.toNat < 2 := by cases z <;> decide
  rw [encBit_eq] at hl
  refine ⟨?_, bitAt_of ?_, ?_, ?_, ?_, ?_, ?_, ?_⟩ <;> (rw [hl _ _ (by decide)]; simp only [fld]; omega)

theorem t6' {w n : Nat} {t : Ety} (hl : ∀ lo k, lo + k ≤ 10 → fld w lo k = fld (t.code * 2 ^ 6 + n) lo k) (hn : n < 32) :
    fld w 6 4 = t.code ∧ bitAt w 5 = false ∧ fld w 0 4 = n % 16 ∧ fld w 0 3 = n % 8 ∧ fld w 4 1 = n / 16 ∧
      fld w 3 2 = n / 8 ∧ fld w 4 2 = n / 16 ∧ fld w 3 3 = n / 8 := by
  simpa [encBit] using t6 (z := false) (by simpa [encBit] using hl) hn

theorem rtVI {ok : Ety → Bool} {fn vd va vb pg : Nat} {t : Ety} {z : Bool} (c : Nat → Nat → Nat → Nat → Ety → Bool → Instr)
    (h : (decide (vd < 16) && decide (va < 16) && decide (vb < 16) && decide (pg < 8) && ok t) = true) (hi : t.isInt = true)
    (hf : fn < 64) (hd : ∀ w, fld w 25 6 = 0x2D → fld w 0 6 = fn → decode32 w = decV w (8 + fld w 7 3) ok (bitAt w 6) c) :
    (encV 0x2D vd va vb pg (encInt t + encBit z 6 + fn)).decode = .ok (c vd va vb pg t z) := by
  simp only [Bool.and_eq_true, decide_eq_true_eq] at h
  have h1 := ety_lt t
  have h2 : 8 ≤ t.code := by cases t <;> first | decide | cases hi
  have h3 : z.toNat < 2 := by cases z <;> decide
  have f := vf (op := 0x2D) (by decide) h.1.1.1.1 h.1.1.1.2 h.1.1.2 h.1.2 (fn := encInt t + encBit z 6 + fn)
    (by rw [encBit_eq, encInt]; omega)
  show decode32 _ = _
  rw [hd _ f.opE ((f.lowE _ _ (by decide)).trans (by rw [encBit_eq, encInt]; simp only [fld]; omega))]
  have ft := (f.lowE 7 3 (by decide)).trans (show _ = t.code - 8 by rw [encBit_eq, encInt]; simp only [fld]; omega)
  have fz := bitAt_of ((f.lowE 6 1 (by decide)).trans (show _ = z.toNat by rw [encBit_eq, encInt]; simp only [fld]; omega))
  rw [decV, ft, show 8 + (t.code - 8) = t.code by omega, withEty_code h.2, f.vdE, f.vaE, f.vbE, f.pgE, fz]

theorem rtVI1 {ok : Ety → Bool} {fn vd va pg : Nat} {t : Ety} {z : Bool} (c : Nat → Nat → Nat → Ety → Bool → Instr)
    (h : (decide (vd < 16) && decide (va < 16) && decide (pg < 8) && ok t) = true) (hi : t.isInt = true)
    (hf : fn < 64) (hd : ∀ w, fld w 25 6 = 0x2D → fld w 0 6 = fn → decode32 w = decV1 w (8 + fld w 7 3) ok (bitAt w 6) c) :
    (encV 0x2D vd va 0 pg (encInt t + encBit z 6 + fn)).decode = .ok (c vd va pg t z) := by
  simp only [Bool.and_eq_true, decide_eq_true_eq] at h
  have h1 := ety_lt t
  have h2 : 8 ≤ t.code := by cases t <;> first | decide | cases hi
  have h3 : z.toNat < 2 := by cases z <;> decide
  have f := vf (op := 0x2D) (by decide) h.1.1.1 h.1.1.2 (vb := 0) (by decide) h.1.2 (fn := encInt t + encBit z 6 + fn)
    (by rw [encBit_eq, encInt]; omega)
  show decode32 _ = _
  rw [hd _ f.opE ((f.lowE _ _ (by decide)).trans (by rw [encBit_eq, encInt]; simp only [fld]; omega))]
  have ft := (f.lowE 7 3 (by decide)).trans (show _ = t.code - 8 by rw [encBit_eq, encInt]; simp only [fld]; omega)
  have fz := bitAt_of ((f.lowE 6 1 (by decide)).trans (show _ = z.toNat by rw [encBit_eq, encInt]; simp only [fld]; omega))
  rw [decV1, ft, show 8 + (t.code - 8) = t.code by omega, withEty_code h.2, f.vdE, f.vaE, f.pgE, f.vbE, fz]
  rfl

theorem rtVF {fn vd va vb pg : Nat} {t : Ety} {z : Bool} (c : Nat → Nat → Nat → Nat → Ety → Bool → Instr)
    (h : (decide (vd < 16) && decide (va < 16) && decide (vb < 16) && decide (pg < 8) && t.isFloat) = true)
    (hf : fn < 64) (hd : ∀ w, fld w 25 6 = 0x2E → fld w 0 6 = fn → decode32 w = decV w (fld w 7 3) Ety.isFloat (bitAt w 6) c) :
    (encV 0x2E vd va vb pg (t.code * 2 ^ 7 + encBit z 6 + fn)).decode = .ok (c vd va vb pg t z) := by
  simp only [Bool.and_eq_true, decide_eq_true_eq] at h
  have h2 : t.code < 8 := by cases t <;> first | decide | cases h.2
  have h3 : z.toNat < 2 := by cases z <;> decide
  have f := vf (op := 0x2E) (by decide) h.1.1.1.1 h.1.1.1.2 h.1.1.2 h.1.2 (fn := t.code * 2 ^ 7 + encBit z 6 + fn)
    (by rw [encBit_eq]; omega)
  show decode32 _ = _
  rw [hd _ f.opE ((f.lowE _ _ (by decide)).trans (by rw [encBit_eq]; simp only [fld]; omega))]
  have ft := (f.lowE 7 3 (by decide)).trans (show _ = t.code by rw [encBit_eq]; simp only [fld]; omega)
  have fz := bitAt_of ((f.lowE 6 1 (by decide)).trans (show _ = z.toNat by rw [encBit_eq]; simp only [fld]; omega))
  rw [decV, ft, withEty_code h.2, f.vdE, f.vaE, f.vbE, f.pgE, fz]

theorem rtVF1 {fn vd va pg : Nat} {t : Ety} {z : Bool} (c : Nat → Nat → Nat → Ety → Bool → Instr)
    (h : (decide (vd < 16) && decide (va < 16) && decide (pg < 8) && t.isFloat) = true)
    (hf : fn < 64) (hd : ∀ w, fld w 25 6 = 0x2E → fld w 0 6 = fn → decode32 w = decV1 w (fld w 7 3) Ety.isFloat (bitAt w 6) c) :
    (encV 0x2E vd va 0 pg (t.code * 2 ^ 7 + encBit z 6 + fn)).decode = .ok (c vd va pg t z) := by
  simp only [Bool.and_eq_true, decide_eq_true_eq] at h
  have h2 : t.code < 8 := by cases t <;> first | decide | cases h.2
  have h3 : z.toNat < 2 := by cases z <;> decide
  have f := vf (op := 0x2E) (by decide) h.1.1.1 h.1.1.2 (vb := 0) (by decide) h.1.2 (fn := t.code * 2 ^ 7 + encBit z 6 + fn)
    (by rw [encBit_eq]; omega)
  show decode32 _ = _
  rw [hd _ f.opE ((f.lowE _ _ (by decide)).trans (by rw [encBit_eq]; simp only [fld]; omega))]
  have ft := (f.lowE 7 3 (by decide)).trans (show _ = t.code by rw [encBit_eq]; simp only [fld]; omega)
  have fz := bitAt_of ((f.lowE 6 1 (by decide)).trans (show _ = z.toNat by rw [encBit_eq]; simp only [fld]; omega))
  rw [decV1, ft, withEty_code h.2, f.vdE, f.vaE, f.pgE, f.vbE, fz]
  rfl

/-! ### Agent words (R225) -/

structure AF (w op a b c d fl imm : Nat) : Prop where
  opE : fld w 56 8 = op
  aE : fA w = a
  bE : fB w = b
  cE : fC w = c
  dE : fD w = d
  flE : fFl w = fl
  fl0E : fld w 32 2 = fl % 4
  fl1E : fld w 34 1 = fl / 4 % 2
  fl2E : fld w 34 2 = fl / 4
  fl3E : fld w 35 1 = fl / 8
  immE : fld w 0 32 = imm

theorem af {op a b c d fl imm : Nat} (h1 : op < 256) (h2 : a < 32) (h3 : b < 32) (h4 : c < 32) (h5 : d < 32) (h6 : fl < 16)
    (h7 : imm < 2 ^ 32) :
    AF (op * 2 ^ 56 + a * 2 ^ 51 + b * 2 ^ 46 + c * 2 ^ 41 + d * 2 ^ 36 + fl * 2 ^ 32 + imm) op a b c d fl imm := by
  constructor <;> (simp only [fA, fB, fC, fD, fFl, fld]; omega)

theorem AF.im {w op a b c d fl : Nat} {v : BitVec 32} (f : AF w op a b c d fl v.toNat) : fImm w = v := by rw [fImm, f.immE, imm_of]

theorem rtShort {w : Nat} {i : Instr} (h : decodeAgent w = .ok (.short i)) : decode64 w = .ok i := by rw [decode64, h]; rfl
theorem rtLong {w : Nat} {l : LongOp} (h : decodeAgent w = .ok (.long l)) : decode64 w = .ok l.toInstr := by rw [decode64, h]; rfl

/-! ### Halfwords (R45) -/

theorem hf {o a b c : Nat} (h1 : o < 16) (h2 : a < 16) (h3 : b < 16) (h4 : c < 8) :
    fld (o * 2 ^ 11 + a * 2 ^ 7 + b * 2 ^ 3 + c) 11 4 = o ∧ fld (o * 2 ^ 11 + a * 2 ^ 7 + b * 2 ^ 3 + c) 7 4 = a ∧
    fld (o * 2 ^ 11 + a * 2 ^ 7 + b * 2 ^ 3 + c) 3 4 = b ∧ fld (o * 2 ^ 11 + a * 2 ^ 7 + b * 2 ^ 3 + c) 0 3 = c := by
  refine ⟨?_, ?_, ?_, ?_⟩ <;> (simp only [fld]; omega)

theorem hf7 {o a c : Nat} (h1 : o < 16) (h2 : a < 16) (h4 : c < 128) : fld (o * 2 ^ 11 + a * 2 ^ 7 + c) 11 4 = o ∧
    fld (o * 2 ^ 11 + a * 2 ^ 7 + c) 7 4 = a ∧ fld (o * 2 ^ 11 + a * 2 ^ 7 + c) 0 7 = c := by
  refine ⟨?_, ?_, ?_⟩ <;> (simp only [fld]; omega)

theorem hf11 {o c : Nat} (h1 : o < 16) (h4 : c < 2048) : fld (o * 2 ^ 11 + c) 11 4 = o ∧ fld (o * 2 ^ 11 + c) 0 11 = c := by
  refine ⟨?_, ?_⟩ <;> (simp only [fld]; omega)


/-! ### What is left to show once the fields of a word are known -/

theorem ofQ {op q xa ma xb mb fn : Nat} {i : Instr} (h1 : op < 64) (h2 : q < 16) (h3 : xa < 32) (h4 : ma < 4) (h5 : xb < 32)
    (h6 : mb < 4) (h7 : fn < 128) (h : ∀ w, QF w op q xa ma xb mb fn → decode32 w = .ok i) :
    (encQ op q xa ma xb mb fn).decode = .ok i := h _ (qf h1 h2 h3 h4 h5 h6 h7)

theorem ofV {op vd va vb pg fn : Nat} {i : Instr} (h1 : op < 64) (h2 : vd < 16) (h3 : va < 16) (h4 : vb < 16) (h5 : pg < 8)
    (h6 : fn < 1024) (h : ∀ w, VF w op vd va vb pg fn → decode32 w = .ok i) : (encV op vd va vb pg fn).decode = .ok i :=
  h _ (vf h1 h2 h3 h4 h5 h6)

theorem ofX {op vd va pg fn : Nat} {xs : Src} {i : Instr} (h1 : op < 64) (h2 : vd < 16) (h3 : va < 16) (h4 : xs.ok = true)
    (h5 : pg < 8) (h6 : fn < 128) (h : ∀ w, XF w op vd va xs pg fn → decode32 w = .ok i) :
    (encVX op vd va xs pg fn).decode = .ok i := h _ (xf h1 h2 h3 h4 h5 h6)

theorem ofA {op a b c d fl imm : Nat} {i : Instr} (h1 : op < 256) (h2 : a < 32) (h3 : b < 32) (h4 : c < 32) (h5 : d < 32)
    (h6 : fl < 16) (h7 : imm < 2 ^ 32) (h : ∀ w, AF w op a b c d fl imm → decode64 w = .ok i) :
    (encA op a b c d fl imm).decode = .ok i := h _ (af h1 h2 h3 h4 h5 h6 h7)

/-! ### The decoder's tables -/

theorem d_alu {w : Nat} (h : fld w 25 6 = 0x01) : decode32 w = decAlu w := by unfold decode32; rw [h]; rfl

theorem d_amo {w : Nat} (h : fld w 25 6 = 0x18) : decode32 w = decAmoOp w := by unfold decode32; rw [h]; rfl

theorem d_thread {w : Nat} (h : fld w 25 6 = 0x23) : decode32 w = decThread w := by unfold decode32; rw [h]; rfl

theorem d_qop {w : Nat} (h : fld w 25 6 = 0x25) : decode32 w = decQop w := by unfold decode32; rw [h]; rfl

theorem d_mat {w : Nat} (h : fld w 25 6 = 0x2a) : decode32 w = decMat w := by unfold decode32; rw [h]; rfl

theorem d_res {w : Nat} (h : fld w 25 6 = 0x2b) : decode32 w = decRes w := by unfold decode32; rw [h]; rfl

theorem d_tid {w : Nat} (h : fld w 25 6 = 0x2c) : decode32 w = decTid w := by unfold decode32; rw [h]; rfl

theorem d_vint {w : Nat} (h : fld w 25 6 = 0x2d) : decode32 w = decVint w := by unfold decode32; rw [h]; rfl

theorem d_vflt {w : Nat} (h : fld w 25 6 = 0x2e) : decode32 w = decVflt w := by unfold decode32; rw [h]; rfl

theorem d_vcvt {w : Nat} (h : fld w 25 6 = 0x2f) : decode32 w = decVcvt w := by unfold decode32; rw [h]; rfl

theorem d_vmem {w : Nat} (h : fld w 25 6 = 0x30) : decode32 w = decVmem w := by unfold decode32; rw [h]; rfl

theorem d_vpred {w : Nat} (h : fld w 25 6 = 0x31) : decode32 w = decVpred w := by unfold decode32; rw [h]; rfl

theorem d_vperm {w : Nat} (h : fld w 25 6 = 0x32) : decode32 w = decVperm w := by unfold decode32; rw [h]; rfl

theorem d_vsfu {w : Nat} (h : fld w 25 6 = 0x33) : decode32 w = decVsfu w := by unfold decode32; rw [h]; rfl

theorem d_vspec {w : Nat} (h : fld w 25 6 = 0x34) : decode32 w = decVspec w := by unfold decode32; rw [h]; rfl

theorem d_sys {w : Nat} (h : fld w 25 6 = 0x35) : decode32 w = decSys w := by unfold decode32; rw [h]; rfl

namespace RoundTrip

theorem add (rd : Nat) (a b : Src) : Statement (.add rd a b) := fun h _ =>
  rtR2 .add h (by decide) (by decide) fun _ e f => (d_alu e).trans (by unfold decAlu; rw [f]; rfl)

theorem sub (rd : Nat) (a b : Src) : Statement (.sub rd a b) := fun h _ =>
  rtR2 .sub h (by decide) (by decide) fun _ e f => (d_alu e).trans (by unfold decAlu; rw [f]; rfl)

theorem and (rd : Nat) (a b : Src) : Statement (.and rd a b) := fun h _ =>
  rtR2 .and h (by decide) (by decide) fun _ e f => (d_alu e).trans (by unfold decAlu; rw [f]; rfl)

theorem or (rd : Nat) (a b : Src) : Statement (.or rd a b) := fun h _ =>
  rtR2 .or h (by decide) (by decide) fun _ e f => (d_alu e).trans (by unfold decAlu; rw [f]; rfl)

theorem xor (rd : Nat) (a b : Src) : Statement (.xor rd a b) := fun h _ =>
  rtR2 .xor h (by decide) (by decide) fun _ e f => (d_alu e).trans (by unfold decAlu; rw [f]; rfl)

theorem sll (rd : Nat) (a b : Src) : Statement (.sll rd a b) := fun h _ =>
  rtR2 .sll h (by decide) (by decide) fun _ e f => (d_alu e).trans (by unfold decAlu; rw [f]; rfl)

theorem srl (rd : Nat) (a b : Src) : Statement (.srl rd a b) := fun h _ =>
  rtR2 .srl h (by decide) (by decide) fun _ e f => (d_alu e).trans (by unfold decAlu; rw [f]; rfl)

theorem sra (rd : Nat) (a b : Src) : Statement (.sra rd a b) := fun h _ =>
  rtR2 .sra h (by decide) (by decide) fun _ e f => (d_alu e).trans (by unfold decAlu; rw [f]; rfl)

theorem slt (rd : Nat) (a b : Src) : Statement (.slt rd a b) := fun h _ =>
  rtR2 .slt h (by decide) (by decide) fun _ e f => (d_alu e).trans (by unfold decAlu; rw [f]; rfl)

theorem sltu (rd : Nat) (a b : Src) : Statement (.sltu rd a b) := fun h _ =>
  rtR2 .sltu h (by decide) (by decide) fun _ e f => (d_alu e).trans (by unfold decAlu; rw [f]; rfl)

theorem min (rd : Nat) (a b : Src) : Statement (.min rd a b) := fun h _ =>
  rtR2 .min h (by decide) (by decide) fun _ e f => (d_alu e).trans (by unfold decAlu; rw [f]; rfl)

theorem max (rd : Nat) (a b : Src) : Statement (.max rd a b) := fun h _ =>
  rtR2 .max h (by decide) (by decide) fun _ e f => (d_alu e).trans (by unfold decAlu; rw [f]; rfl)

theorem minu (rd : Nat) (a b : Src) : Statement (.minu rd a b) := fun h _ =>
  rtR2 .minu h (by decide) (by decide) fun _ e f => (d_alu e).trans (by unfold decAlu; rw [f]; rfl)

theorem maxu (rd : Nat) (a b : Src) : Statement (.maxu rd a b) := fun h _ =>
  rtR2 .maxu h (by decide) (by decide) fun _ e f => (d_alu e).trans (by unfold decAlu; rw [f]; rfl)

theorem mul (rd : Nat) (a b : Src) : Statement (.mul rd a b) := fun h _ =>
  rtR2 .mul h (by decide) (by decide) fun _ e f => (d_alu e).trans (by unfold decAlu; rw [f]; rfl)

theorem mulh (rd : Nat) (a b : Src) : Statement (.mulh rd a b) := fun h _ =>
  rtR2 .mulh h (by decide) (by decide) fun _ e f => (d_alu e).trans (by unfold decAlu; rw [f]; rfl)

theorem mulhu (rd : Nat) (a b : Src) : Statement (.mulhu rd a b) := fun h _ =>
  rtR2 .mulhu h (by decide) (by decide) fun _ e f => (d_alu e).trans (by unfold decAlu; rw [f]; rfl)

theorem div (rd : Nat) (a b : Src) : Statement (.div rd a b) := fun h _ =>
  rtR2 .div h (by decide) (by decide) fun _ e f => (d_alu e).trans (by unfold decAlu; rw [f]; rfl)

theorem divu (rd : Nat) (a b : Src) : Statement (.divu rd a b) := fun h _ =>
  rtR2 .divu h (by decide) (by decide) fun _ e f => (d_alu e).trans (by unfold decAlu; rw [f]; rfl)

theorem rem (rd : Nat) (a b : Src) : Statement (.rem rd a b) := fun h _ =>
  rtR2 .rem h (by decide) (by decide) fun _ e f => (d_alu e).trans (by unfold decAlu; rw [f]; rfl)

theorem remu (rd : Nat) (a b : Src) : Statement (.remu rd a b) := fun h _ =>
  rtR2 .remu h (by decide) (by decide) fun _ e f => (d_alu e).trans (by unfold decAlu; rw [f]; rfl)

theorem clz (rd : Nat) (a : Src) : Statement (.clz rd a) := fun h _ =>
  rtR1 .clz h (by decide) (by decide) fun _ e f => (d_alu e).trans (by unfold decAlu; rw [f]; rfl)

theorem ctz (rd : Nat) (a : Src) : Statement (.ctz rd a) := fun h _ =>
  rtR1 .ctz h (by decide) (by decide) fun _ e f => (d_alu e).trans (by unfold decAlu; rw [f]; rfl)

theorem popc (rd : Nat) (a : Src) : Statement (.popc rd a) := fun h _ =>
  rtR1 .popc h (by decide) (by decide) fun _ e f => (d_alu e).trans (by unfold decAlu; rw [f]; rfl)

theorem addsh1 (rd : Nat) (a b : Src) : Statement (.addsh1 rd a b) := fun h _ =>
  rtR2 .addsh1 h (by decide) (by decide) fun _ e f => (d_alu e).trans (by unfold decAlu; rw [f]; rfl)

theorem addsh2 (rd : Nat) (a b : Src) : Statement (.addsh2 rd a b) := fun h _ =>
  rtR2 .addsh2 h (by decide) (by decide) fun _ e f => (d_alu e).trans (by unfold decAlu; rw [f]; rfl)

theorem addsh3 (rd : Nat) (a b : Src) : Statement (.addsh3 rd a b) := fun h _ =>
  rtR2 .addsh3 h (by decide) (by decide) fun _ e f => (d_alu e).trans (by unfold decAlu; rw [f]; rfl)

theorem andn (rd : Nat) (a b : Src) : Statement (.andn rd a b) := fun h _ =>
  rtR2 .andn h (by decide) (by decide) fun _ e f => (d_alu e).trans (by unfold decAlu; rw [f]; rfl)

theorem sextw (rd : Nat) (a : Src) : Statement (.sextw rd a) := fun h _ =>
  rtR1 .sextw h (by decide) (by decide) fun _ e f => (d_alu e).trans (by unfold decAlu; rw [f]; rfl)

theorem zextw (rd : Nat) (a : Src) : Statement (.zextw rd a) := fun h _ =>
  rtR1 .zextw h (by decide) (by decide) fun _ e f => (d_alu e).trans (by unfold decAlu; rw [f]; rfl)

theorem addi (rd : Nat) (a : Src) (imm : BitVec 13) : Statement (.addi rd a imm) := fun h _ =>
  rtI .addi h (by decide) fun _ e _ => by unfold decode32; rw [e]; rfl

theorem andi (rd : Nat) (a : Src) (imm : BitVec 13) : Statement (.andi rd a imm) := fun h _ =>
  rtI .andi h (by decide) fun _ e _ => by unfold decode32; rw [e]; rfl

theorem ori (rd : Nat) (a : Src) (imm : BitVec 13) : Statement (.ori rd a imm) := fun h _ =>
  rtI .ori h (by decide) fun _ e _ => by unfold decode32; rw [e]; rfl

theorem xori (rd : Nat) (a : Src) (imm : BitVec 13) : Statement (.xori rd a imm) := fun h _ =>
  rtI .xori h (by decide) fun _ e _ => by unfold decode32; rw [e]; rfl

theorem slti (rd : Nat) (a : Src) (imm : BitVec 13) : Statement (.slti rd a imm) := fun h _ =>
  rtI .slti h (by decide) fun _ e _ => by unfold decode32; rw [e]; rfl

theorem slli (rd : Nat) (a : Src) (amt : BitVec 6) : Statement (.slli rd a amt) := fun h _ =>
  rtShift (k := 0) .slli h (by decide) fun w e f => by unfold decode32; rw [e]; show (match fld w 11 2 with | 0 => decShift w .slli | 1 => decShift w .srli | 2 => decShift w .srai | _ => .error .reservedValue : Decoded) = _; rw [f]; rfl

theorem srli (rd : Nat) (a : Src) (amt : BitVec 6) : Statement (.srli rd a amt) := fun h _ =>
  rtShift (k := 1) .srli h (by decide) fun w e f => by unfold decode32; rw [e]; show (match fld w 11 2 with | 0 => decShift w .slli | 1 => decShift w .srli | 2 => decShift w .srai | _ => .error .reservedValue : Decoded) = _; rw [f]; rfl

theorem srai (rd : Nat) (a : Src) (amt : BitVec 6) : Statement (.srai rd a amt) := fun h _ =>
  rtShift (k := 2) .srai h (by decide) fun w e f => by unfold decode32; rw [e]; show (match fld w 11 2 with | 0 => decShift w .slli | 1 => decShift w .srli | 2 => decShift w .srai | _ => .error .reservedValue : Decoded) = _; rw [f]; rfl

theorem lui (rd : Nat) (imm : BitVec 20) : Statement (.lui rd imm) := fun h _ =>
  rtU (.lui rd imm) (by decide) (of_decide_eq_true h) fun w e r x => by unfold decode32; rw [e]; show (decU w .lui : Decoded) = _; rw [decU, r, x]

theorem addpc (rd : Nat) (imm : BitVec 20) : Statement (.addpc rd imm) := fun h _ =>
  rtU (.addpc rd imm) (by decide) (of_decide_eq_true h) fun w e r x => by unfold decode32; rw [e]; show (decU w .addpc : Decoded) = _; rw [decU, r, x]

theorem ldb (rd : Nat) (a : Src) (imm : BitVec 13) : Statement (.ldb rd a imm) := fun h _ =>
  rtI .ldb h (by decide) fun _ e _ => by unfold decode32; rw [e]; rfl

theorem ldbu (rd : Nat) (a : Src) (imm : BitVec 13) : Statement (.ldbu rd a imm) := fun h _ =>
  rtI .ldbu h (by decide) fun _ e _ => by unfold decode32; rw [e]; rfl

theorem ldh (rd : Nat) (a : Src) (imm : BitVec 13) : Statement (.ldh rd a imm) := fun h _ =>
  rtI .ldh h (by decide) fun _ e _ => by unfold decode32; rw [e]; rfl

theorem ldhu (rd : Nat) (a : Src) (imm : BitVec 13) : Statement (.ldhu rd a imm) := fun h _ =>
  rtI .ldhu h (by decide) fun _ e _ => by unfold decode32; rw [e]; rfl

theorem ldw (rd : Nat) (a : Src) (imm : BitVec 13) : Statement (.ldw rd a imm) := fun h _ =>
  rtI .ldw h (by decide) fun _ e _ => by unfold decode32; rw [e]; rfl

theorem ldwu (rd : Nat) (a : Src) (imm : BitVec 13) : Statement (.ldwu rd a imm) := fun h _ =>
  rtI .ldwu h (by decide) fun _ e _ => by unfold decode32; rw [e]; rfl

theorem ldd (rd : Nat) (a : Src) (imm : BitVec 13) : Statement (.ldd rd a imm) := fun h _ =>
  rtI .ldd h (by decide) fun _ e _ => by unfold decode32; rw [e]; rfl

theorem stb (d a : Src) (imm : BitVec 11) : Statement (.stb d a imm) := fun h _ =>
  rtS .stb h (by decide) fun _ e => by unfold decode32; rw [e]; rfl

theorem sth (d a : Src) (imm : BitVec 11) : Statement (.sth d a imm) := fun h _ =>
  rtS .sth h (by decide) fun _ e => by unfold decode32; rw [e]; rfl

theorem stw (d a : Src) (imm : BitVec 11) : Statement (.stw d a imm) := fun h _ =>
  rtS .stw h (by decide) fun _ e => by unfold decode32; rw [e]; rfl

theorem std (d a : Src) (imm : BitVec 11) : Statement (.std d a imm) := fun h _ =>
  rtS .std h (by decide) fun _ e => by unfold decode32; rw [e]; rfl

theorem ldf (rd : Nat) (a : Src) (imm : BitVec 11) : Statement (.ldf rd a imm) := fun h _ =>
  rtLS (k := 0) .ldf h (by decide) fun w e f => by unfold decode32; rw [e]; show (match fld w 11 2 with | 0 => decLS w .ldf | 1 => decLS w .ldt | 2 => decLS w .ldp | _ => decLS w .ldft : Decoded) = _; rw [f]; rfl

theorem ldt (rd : Nat) (a : Src) (imm : BitVec 11) : Statement (.ldt rd a imm) := fun h _ =>
  rtLS (k := 1) .ldt h (by decide) fun w e f => by unfold decode32; rw [e]; show (match fld w 11 2 with | 0 => decLS w .ldf | 1 => decLS w .ldt | 2 => decLS w .ldp | _ => decLS w .ldft : Decoded) = _; rw [f]; rfl

theorem ldp (rd : Nat) (a : Src) (imm : BitVec 11) : Statement (.ldp rd a imm) := fun h _ =>
  rtLS (k := 2) .ldp h (by decide) fun w e f => by unfold decode32; rw [e]; show (match fld w 11 2 with | 0 => decLS w .ldf | 1 => decLS w .ldt | 2 => decLS w .ldp | _ => decLS w .ldft : Decoded) = _; rw [f]; rfl

theorem ldft (rd : Nat) (a : Src) (imm : BitVec 11) : Statement (.ldft rd a imm) := fun h _ =>
  rtLS (k := 3) .ldft h (by decide) fun w e f => by unfold decode32; rw [e]; show (match fld w 11 2 with | 0 => decLS w .ldf | 1 => decLS w .ldt | 2 => decLS w .ldp | _ => decLS w .ldft : Decoded) = _; rw [f]; rfl

theorem stf (d a : Src) (imm : BitVec 11) : Statement (.stf d a imm) := fun h _ =>
  rtS .stf h (by decide) fun _ e => by unfold decode32; rw [e]; rfl

theorem fewF (a : Src) (imm : BitVec 11) : Statement (.fewF a imm) := fun h _ => by
  have e := rtFew (k := 1) (imm := imm) (.fewF a imm) h (by decide) fun w e r z f x y => by
    unfold decode32; rw [e]; show (mustBeZero (fld w 20 5) <| mustBeZero (fld w 11 1) <|
    if bitAt w 12 then .ok (.fewF (srcAt w 15 13) (BitVec.ofNat 11 (fld w 0 11))) else .ok (.fewE (srcAt w 15 13) (BitVec.ofNat 11 (fld w 0 11))) : Decoded) = _; rw [r, z, x, y]; simp [mustBeZero, bitAt, f]
  exact e

theorem fewE (a : Src) (imm : BitVec 11) : Statement (.fewE a imm) := fun h _ => by
  have e := rtFew (k := 0) (imm := imm) (.fewE a imm) h (by decide) fun w e r z f x y => by
    unfold decode32; rw [e]; show (mustBeZero (fld w 20 5) <| mustBeZero (fld w 11 1) <|
    if bitAt w 12 then .ok (.fewF (srcAt w 15 13) (BitVec.ofNat 11 (fld w 0 11))) else .ok (.fewE (srcAt w 15 13) (BitVec.ofNat 11 (fld w 0 11))) : Decoded) = _; rw [r, z, x, y]; simp [mustBeZero, bitAt, f]
  rw [Nat.zero_mul] at e; exact e

theorem amoadd (rd : Nat) (a b : Src) (o : AmoOrder) : Statement (.amoadd rd a b o) := fun h _ =>
  rtAmo .amoadd h (by decide) fun _ e f => (d_amo e).trans (by unfold decAmoOp; rw [f]; rfl)

theorem amoswap (rd : Nat) (a b : Src) (o : AmoOrder) : Statement (.amoswap rd a b o) := fun h _ =>
  rtAmo .amoswap h (by decide) fun _ e f => (d_amo e).trans (by unfold decAmoOp; rw [f]; rfl)

theorem amocas (rd : Nat) (a b : Src) (o : AmoOrder) : Statement (.amocas rd a b o) := fun h _ =>
  rtAmo .amocas h (by decide) fun _ e f => (d_amo e).trans (by unfold decAmoOp; rw [f]; rfl)

theorem amomin (rd : Nat) (a b : Src) (o : AmoOrder) : Statement (.amomin rd a b o) := fun h _ =>
  rtAmo .amomin h (by decide) fun _ e f => (d_amo e).trans (by unfold decAmoOp; rw [f]; rfl)

theorem amomax (rd : Nat) (a b : Src) (o : AmoOrder) : Statement (.amomax rd a b o) := fun h _ =>
  rtAmo .amomax h (by decide) fun _ e f => (d_amo e).trans (by unfold decAmoOp; rw [f]; rfl)

theorem amominu (rd : Nat) (a b : Src) (o : AmoOrder) : Statement (.amominu rd a b o) := fun h _ =>
  rtAmo .amominu h (by decide) fun _ e f => (d_amo e).trans (by unfold decAmoOp; rw [f]; rfl)

theorem amomaxu (rd : Nat) (a b : Src) (o : AmoOrder) : Statement (.amomaxu rd a b o) := fun h _ =>
  rtAmo .amomaxu h (by decide) fun _ e f => (d_amo e).trans (by unfold decAmoOp; rw [f]; rfl)

theorem amoand (rd : Nat) (a b : Src) (o : AmoOrder) : Statement (.amoand rd a b o) := fun h _ =>
  rtAmo .amoand h (by decide) fun _ e f => (d_amo e).trans (by unfold decAmoOp; rw [f]; rfl)

theorem amoor (rd : Nat) (a b : Src) (o : AmoOrder) : Statement (.amoor rd a b o) := fun h _ =>
  rtAmo .amoor h (by decide) fun _ e f => (d_amo e).trans (by unfold decAmoOp; rw [f]; rfl)

theorem amoxor (rd : Nat) (a b : Src) (o : AmoOrder) : Statement (.amoxor rd a b o) := fun h _ =>
  rtAmo .amoxor h (by decide) fun _ e f => (d_amo e).trans (by unfold decAmoOp; rw [f]; rfl)

theorem fenceFull (sc : Scope) : Statement (.fenceFull sc) := fun _ _ => by cases sc <;> rfl

theorem fenceAcq (sc : Scope) : Statement (.fenceAcq sc) := fun _ _ => by cases sc <;> rfl

theorem fenceRel (sc : Scope) : Statement (.fenceRel sc) := fun _ _ => by cases sc <;> rfl

theorem beq (a b : Src) (off : BitVec 11) : Statement (.beq a b off) := fun h _ =>
  rtB .beq h (by decide) fun _ e => by unfold decode32; rw [e]; rfl

theorem bne (a b : Src) (off : BitVec 11) : Statement (.bne a b off) := fun h _ =>
  rtB .bne h (by decide) fun _ e => by unfold decode32; rw [e]; rfl

theorem blt (a b : Src) (off : BitVec 11) : Statement (.blt a b off) := fun h _ =>
  rtB .blt h (by decide) fun _ e => by unfold decode32; rw [e]; rfl

theorem bge (a b : Src) (off : BitVec 11) : Statement (.bge a b off) := fun h _ =>
  rtB .bge h (by decide) fun _ e => by unfold decode32; rw [e]; rfl

theorem bltu (a b : Src) (off : BitVec 11) : Statement (.bltu a b off) := fun h _ =>
  rtB .bltu h (by decide) fun _ e => by unfold decode32; rw [e]; rfl

theorem bgeu (a b : Src) (off : BitVec 11) : Statement (.bgeu a b off) := fun h _ =>
  rtB .bgeu h (by decide) fun _ e => by unfold decode32; rw [e]; rfl

theorem jal (rd : Nat) (imm : BitVec 20) : Statement (.jal rd imm) := fun h _ =>
  rtU (.jal rd imm) (by decide) (of_decide_eq_true h) fun w e r x => by unfold decode32; rw [e]; show (decU w .jal : Decoded) = _; rw [decU, r, x]

theorem jalr (rd : Nat) (a : Src) (imm : BitVec 13) : Statement (.jalr rd a imm) := fun h _ =>
  rtI .jalr h (by decide) fun _ e _ => by unfold decode32; rw [e]; rfl

theorem loop (rd : Nat) (a : Src) (imm : BitVec 13) : Statement (.loop rd a imm) := fun h _ => by
  change (decide (1 ≤ rd) && decide (rd ≤ 27) && a.ok) = true at h
  simp only [Bool.and_eq_true, decide_eq_true_eq] at h
  refine rtI (op := 0x22) .loop ?_ (by decide) fun w e r => ?_
  · simp only [Bool.and_eq_true, decide_eq_true_eq]; exact ⟨by omega, h.2⟩
  · unfold decode32; rw [e]
    show mustHold (decide (1 ≤ fld w 20 5) && decide (fld w 20 5 ≤ 27)) (decI w .loop) = _
    rw [r, mustHold, if_pos (by simp only [Bool.and_eq_true, decide_eq_true_eq]; exact h.1)]

theorem spawn (rd : Nat) (a : Src) : Statement (.spawn rd a) := fun h _ =>
  rtR1 .spawn h (by decide) (by decide) fun _ e f => (d_thread e).trans (by unfold decThread; rw [f]; rfl)

theorem join (rd : Nat) (a : Src) : Statement (.join rd a) := fun h _ =>
  rtR1 .join h (by decide) (by decide) fun _ e f => (d_thread e).trans (by unfold decThread; rw [f]; rfl)

theorem leave (rd : Nat) (a : Src) : Statement (.leave rd a) := fun h _ =>
  rtR1 .leave h (by decide) (by decide) fun _ e f => (d_thread e).trans (by unfold decThread; rw [f]; rfl)

theorem bar (rd : Nat) (a b : Src) : Statement (.bar rd a b) := fun h _ =>
  rtR2 .bar h (by decide) (by decide) fun _ e f => (d_thread e).trans (by unfold decThread; rw [f]; rfl)

theorem whoami (rd : Nat) (a : Src) : Statement (.whoami rd a) := fun h _ =>
  rtR1 .whoami h (by decide) (by decide) fun _ e f => (d_thread e).trans (by unfold decThread; rw [f]; rfl)

theorem grpcnt (rd : Nat) (a : Src) : Statement (.grpcnt rd a) := fun h _ =>
  rtR1 .grpcnt h (by decide) (by decide) fun _ e f => (d_thread e).trans (by unfold decThread; rw [f]; rfl)

theorem waittl (q : Nat) (a : Src) : Statement (.waittl q a) := fun h _ => by
  change (decide (q < 12) && a.ok) = true at h
  simp only [Bool.and_eq_true, decide_eq_true_eq] at h
  have h_a := mode_lt a.mode
  have r_a : a.reg < 32 := by simp only [Src.ok, decide_eq_true_eq] at h; omega
  refine ofQ (op := 0x24) (q := q) (xa := a.reg) (ma := a.mode.code) (xb := 0) (mb := 0) (fn := 0) (by decide) (by omega) (by omega)
    (by omega) (by omega) (by omega) (by omega) fun w f => ?_
  have e1 : fld w 0 7 = 0 := (f.lowE _ _ (by decide)).trans (show _ = 0 by simp only [fld] <;> omega)
  have e2 := trivial
  have ea := f.a
  unfold decode32; rw [f.opE]
  show (mustBeZero (fld w 0 7) <| mustHold (decide (fld w 21 4 < 12)) (decQA w .waittl) : Decoded) = _
  simp [h.1, decQA, decQD, decQ0, decTokB, decChan, decLease, decPQ, mustBeZero, mustHold, f.qE, f.q2E, f.q23E, f.q3E, f.q24E,
    f.xaE, f.maE, f.xbE, f.mbE, f.z9E, f.z14E, f.z13E, e1, e2, ea]

theorem qbind (q : Nat) (a : Src) : Statement (.qbind q a) := fun h _ => by
  change (decide (q < 16) && a.ok) = true at h
  simp only [Bool.and_eq_true, decide_eq_true_eq] at h
  have h_a := mode_lt a.mode
  have r_a : a.reg < 32 := by simp only [Src.ok, decide_eq_true_eq] at h; omega
  refine ofQ (op := 0x25) (q := q) (xa := a.reg) (ma := a.mode.code) (xb := 0) (mb := 0) (fn := 0) (by decide) (by omega) (by omega)
    (by omega) (by omega) (by omega) (by omega) fun w f => ?_
  have e1 : fld w 0 7 = 0 := (f.lowE _ _ (by decide)).trans (show _ = 0 by simp only [fld] <;> omega)
  have e2 := trivial
  have ea := f.a
  rw [d_qop f.opE]; unfold decQop; rw [e1]; show (decQA w .qbind : Decoded) = _
  simp [decQA, decQD, decQ0, decTokB, decChan, decLease, decPQ, mustBeZero, mustHold, f.qE, f.q2E, f.q23E, f.q3E, f.q24E,
    f.xaE, f.maE, f.xbE, f.mbE, f.z9E, f.z14E, f.z13E, e1, e2, ea]

theorem qfree (q : Nat) : Statement (.qfree q) := fun h _ => by
  change (decide (q < 16)) = true at h
  simp only [Bool.and_eq_true, decide_eq_true_eq] at h
  refine ofQ (op := 0x25) (q := q) (xa := 0) (ma := 0) (xb := 0) (mb := 0) (fn := 1) (by decide) (by omega) (by omega)
    (by omega) (by omega) (by omega) (by omega) fun w f => ?_
  have e1 : fld w 0 7 = 1 := (f.lowE _ _ (by decide)).trans (show _ = 1 by simp only [fld] <;> omega)
  have e2 := trivial
  rw [d_qop f.opE]; unfold decQop; rw [e1]; show (decQ0 w .qfree : Decoded) = _
  simp [decQA, decQD, decQ0, decTokB, decChan, decLease, decPQ, mustBeZero, mustHold, f.qE, f.q2E, f.q23E, f.q3E, f.q24E,
    f.xaE, f.maE, f.xbE, f.mbE, f.z9E, f.z14E, f.z13E, e1, e2]

theorem qstat (q rd : Nat) : Statement (.qstat q rd) := fun h _ => by
  change (decide (q < 16) && decide (rd < 32)) = true at h
  simp only [Bool.and_eq_true, decide_eq_true_eq] at h
  refine ofQ (op := 0x25) (q := q) (xa := rd) (ma := 0) (xb := 0) (mb := 0) (fn := 2) (by decide) (by omega) (by omega)
    (by omega) (by omega) (by omega) (by omega) fun w f => ?_
  have e1 : fld w 0 7 = 2 := (f.lowE _ _ (by decide)).trans (show _ = 2 by simp only [fld] <;> omega)
  have e2 := trivial
  rw [d_qop f.opE]; unfold decQop; rw [e1]; show (decQD w .qstat : Decoded) = _
  simp [decQA, decQD, decQ0, decTokB, decChan, decLease, decPQ, mustBeZero, mustHold, f.qE, f.q2E, f.q23E, f.q3E, f.q24E,
    f.xaE, f.maE, f.xbE, f.mbE, f.z9E, f.z14E, f.z13E, e1, e2]

theorem qrd (q rd : Nat) : Statement (.qrd q rd) := fun h _ => by
  change (decide (q < 16) && decide (rd < 32)) = true at h
  simp only [Bool.and_eq_true, decide_eq_true_eq] at h
  refine ofQ (op := 0x25) (q := q) (xa := rd) (ma := 0) (xb := 0) (mb := 0) (fn := 3) (by decide) (by omega) (by omega)
    (by omega) (by omega) (by omega) (by omega) fun w f => ?_
  have e1 : fld w 0 7 = 3 := (f.lowE _ _ (by decide)).trans (show _ = 3 by simp only [fld] <;> omega)
  have e2 := trivial
  rw [d_qop f.opE]; unfold decQop; rw [e1]; show (decQD w .qrd : Decoded) = _
  simp [decQA, decQD, decQ0, decTokB, decChan, decLease, decPQ, mustBeZero, mustHold, f.qE, f.q2E, f.q23E, f.q3E, f.q24E,
    f.xaE, f.maE, f.xbE, f.mbE, f.z9E, f.z14E, f.z13E, e1, e2]

theorem qwr (q : Nat) (a : Src) : Statement (.qwr q a) := fun h _ => by
  change (decide (q < 16) && a.ok) = true at h
  simp only [Bool.and_eq_true, decide_eq_true_eq] at h
  have h_a := mode_lt a.mode
  have r_a : a.reg < 32 := by simp only [Src.ok, decide_eq_true_eq] at h; omega
  refine ofQ (op := 0x25) (q := q) (xa := a.reg) (ma := a.mode.code) (xb := 0) (mb := 0) (fn := 4) (by decide) (by omega) (by omega)
    (by omega) (by omega) (by omega) (by omega) fun w f => ?_
  have e1 : fld w 0 7 = 4 := (f.lowE _ _ (by decide)).trans (show _ = 4 by simp only [fld] <;> omega)
  have e2 := trivial
  have ea := f.a
  rw [d_qop f.opE]; unfold decQop; rw [e1]; show (decQA w .qwr : Decoded) = _
  simp [decQA, decQD, decQ0, decTokB, decChan, decLease, decPQ, mustBeZero, mustHold, f.qE, f.q2E, f.q23E, f.q3E, f.q24E,
    f.xaE, f.maE, f.xbE, f.mbE, f.z9E, f.z14E, f.z13E, e1, e2, ea]

theorem cpy (tok : Nat) (b : Src) (ch : Nat) : Statement (.cpy tok b ch) := fun h _ => by
  change (decide (tok < 32) && b.ok && decide (ch < 2)) = true at h
  simp only [Bool.and_eq_true, decide_eq_true_eq] at h
  have h_b := mode_lt b.mode
  have r_b : b.reg < 32 := by simp only [Src.ok, decide_eq_true_eq] at h; omega
  refine ofQ (op := 0x26) (q := 0) (xa := tok) (ma := 0) (xb := b.reg) (mb := b.mode.code) (fn := (ch * 2 ^ 6 + 0)) (by decide) (by omega) (by omega)
    (by omega) (by omega) (by omega) (by omega) fun w f => ?_
  have e1 : fld w 0 6 = 0 := (f.lowE _ _ (by decide)).trans (show _ = 0 by simp only [fld] <;> omega)
  have e2 : fld w 6 1 = ch := (f.lowE _ _ (by decide)).trans (show _ = ch by simp only [fld] <;> omega)
  have eb := f.b
  unfold decode32; rw [f.opE]
  show (match fld w 0 6 with | 0 => decChan w (fld w 6 1) .cpy | 1 => decChan w (fld w 6 1) .cpyRect | 2 => decChan w (fld w 6 1) .cpyWin | 3 => decChan w (fld w 6 1) .cpyCow | _ => .error .reservedValue : Decoded) = _
  rw [e1]; show (decChan w (fld w 6 1) .cpy : Decoded) = _
  simp [decQA, decQD, decQ0, decTokB, decChan, decLease, decPQ, mustBeZero, mustHold, f.qE, f.q2E, f.q23E, f.q3E, f.q24E,
    f.xaE, f.maE, f.xbE, f.mbE, f.z9E, f.z14E, f.z13E, e1, e2, eb]

theorem cpyRect (tok : Nat) (b : Src) (ch : Nat) : Statement (.cpyRect tok b ch) := fun h _ => by
  change (decide (tok < 32) && b.ok && decide (ch < 2)) = true at h
  simp only [Bool.and_eq_true, decide_eq_true_eq] at h
  have h_b := mode_lt b.mode
  have r_b : b.reg < 32 := by simp only [Src.ok, decide_eq_true_eq] at h; omega
  refine ofQ (op := 0x26) (q := 0) (xa := tok) (ma := 0) (xb := b.reg) (mb := b.mode.code) (fn := (ch * 2 ^ 6 + 1)) (by decide) (by omega) (by omega)
    (by omega) (by omega) (by omega) (by omega) fun w f => ?_
  have e1 : fld w 0 6 = 1 := (f.lowE _ _ (by decide)).trans (show _ = 1 by simp only [fld] <;> omega)
  have e2 : fld w 6 1 = ch := (f.lowE _ _ (by decide)).trans (show _ = ch by simp only [fld] <;> omega)
  have eb := f.b
  unfold decode32; rw [f.opE]
  show (match fld w 0 6 with | 0 => decChan w (fld w 6 1) .cpy | 1 => decChan w (fld w 6 1) .cpyRect | 2 => decChan w (fld w 6 1) .cpyWin | 3 => decChan w (fld w 6 1) .cpyCow | _ => .error .reservedValue : Decoded) = _
  rw [e1]; show (decChan w (fld w 6 1) .cpyRect : Decoded) = _
  simp [decQA, decQD, decQ0, decTokB, decChan, decLease, decPQ, mustBeZero, mustHold, f.qE, f.q2E, f.q23E, f.q3E, f.q24E,
    f.xaE, f.maE, f.xbE, f.mbE, f.z9E, f.z14E, f.z13E, e1, e2, eb]

theorem cpyWin (tok : Nat) (b : Src) (ch : Nat) : Statement (.cpyWin tok b ch) := fun h _ => by
  change (decide (tok < 32) && b.ok && decide (ch < 2)) = true at h
  simp only [Bool.and_eq_true, decide_eq_true_eq] at h
  have h_b := mode_lt b.mode
  have r_b : b.reg < 32 := by simp only [Src.ok, decide_eq_true_eq] at h; omega
  refine ofQ (op := 0x26) (q := 0) (xa := tok) (ma := 0) (xb := b.reg) (mb := b.mode.code) (fn := (ch * 2 ^ 6 + 2)) (by decide) (by omega) (by omega)
    (by omega) (by omega) (by omega) (by omega) fun w f => ?_
  have e1 : fld w 0 6 = 2 := (f.lowE _ _ (by decide)).trans (show _ = 2 by simp only [fld] <;> omega)
  have e2 : fld w 6 1 = ch := (f.lowE _ _ (by decide)).trans (show _ = ch by simp only [fld] <;> omega)
  have eb := f.b
  unfold decode32; rw [f.opE]
  show (match fld w 0 6 with | 0 => decChan w (fld w 6 1) .cpy | 1 => decChan w (fld w 6 1) .cpyRect | 2 => decChan w (fld w 6 1) .cpyWin | 3 => decChan w (fld w 6 1) .cpyCow | _ => .error .reservedValue : Decoded) = _
  rw [e1]; show (decChan w (fld w 6 1) .cpyWin : Decoded) = _
  simp [decQA, decQD, decQ0, decTokB, decChan, decLease, decPQ, mustBeZero, mustHold, f.qE, f.q2E, f.q23E, f.q3E, f.q24E,
    f.xaE, f.maE, f.xbE, f.mbE, f.z9E, f.z14E, f.z13E, e1, e2, eb]

theorem cpyCow (tok : Nat) (b : Src) (ch : Nat) : Statement (.cpyCow tok b ch) := fun h _ => by
  change (decide (tok < 32) && b.ok && decide (ch < 2)) = true at h
  simp only [Bool.and_eq_true, decide_eq_true_eq] at h
  have h_b := mode_lt b.mode
  have r_b : b.reg < 32 := by simp only [Src.ok, decide_eq_true_eq] at h; omega
  refine ofQ (op := 0x26) (q := 0) (xa := tok) (ma := 0) (xb := b.reg) (mb := b.mode.code) (fn := (ch * 2 ^ 6 + 3)) (by decide) (by omega) (by omega)
    (by omega) (by omega) (by omega) (by omega) fun w f => ?_
  have e1 : fld w 0 6 = 3 := (f.lowE _ _ (by decide)).trans (show _ = 3 by simp only [fld] <;> omega)
  have e2 : fld w 6 1 = ch := (f.lowE _ _ (by decide)).trans (show _ = ch by simp only [fld] <;> omega)
  have eb := f.b
  unfold decode32; rw [f.opE]
  show (match fld w 0 6 with | 0 => decChan w (fld w 6 1) .cpy | 1 => decChan w (fld w 6 1) .cpyRect | 2 => decChan w (fld w 6 1) .cpyWin | 3 => decChan w (fld w 6 1) .cpyCow | _ => .error .reservedValue : Decoded) = _
  rw [e1]; show (decChan w (fld w 6 1) .cpyCow : Decoded) = _
  simp [decQA, decQD, decQ0, decTokB, decChan, decLease, decPQ, mustBeZero, mustHold, f.qE, f.q2E, f.q23E, f.q3E, f.q24E,
    f.xaE, f.maE, f.xbE, f.mbE, f.z9E, f.z14E, f.z13E, e1, e2, eb]

theorem gath (tok : Nat) (b : Src) (ch : Nat) : Statement (.gath tok b ch) := fun h _ => by
  change (decide (tok < 32) && b.ok && decide (ch < 2)) = true at h
  simp only [Bool.and_eq_true, decide_eq_true_eq] at h
  have h_b := mode_lt b.mode
  have r_b : b.reg < 32 := by simp only [Src.ok, decide_eq_true_eq] at h; omega
  refine ofQ (op := 0x27) (q := 0) (xa := tok) (ma := 0) (xb := b.reg) (mb := b.mode.code) (fn := (ch * 2 ^ 6 + 0)) (by decide) (by omega) (by omega)
    (by omega) (by omega) (by omega) (by omega) fun w f => ?_
  have e1 : fld w 0 6 = 0 := (f.lowE _ _ (by decide)).trans (show _ = 0 by simp only [fld] <;> omega)
  have e2 : fld w 6 1 = ch := (f.lowE _ _ (by decide)).trans (show _ = ch by simp only [fld] <;> omega)
  have eb := f.b
  unfold decode32; rw [f.opE]
  show (match fld w 0 6 with | 0 => decChan w (fld w 6 1) .gath | 1 => decChan w (fld w 6 1) .gathRows | _ => .error .reservedValue : Decoded) = _
  rw [e1]; show (decChan w (fld w 6 1) .gath : Decoded) = _
  simp [decQA, decQD, decQ0, decTokB, decChan, decLease, decPQ, mustBeZero, mustHold, f.qE, f.q2E, f.q23E, f.q3E, f.q24E,
    f.xaE, f.maE, f.xbE, f.mbE, f.z9E, f.z14E, f.z13E, e1, e2, eb]

theorem gathRows (tok : Nat) (b : Src) (ch : Nat) : Statement (.gathRows tok b ch) := fun h _ => by
  change (decide (tok < 32) && b.ok && decide (ch < 2)) = true at h
  simp only [Bool.and_eq_true, decide_eq_true_eq] at h
  have h_b := mode_lt b.mode
  have r_b : b.reg < 32 := by simp only [Src.ok, decide_eq_true_eq] at h; omega
  refine ofQ (op := 0x27) (q := 0) (xa := tok) (ma := 0) (xb := b.reg) (mb := b.mode.code) (fn := (ch * 2 ^ 6 + 1)) (by decide) (by omega) (by omega)
    (by omega) (by omega) (by omega) (by omega) fun w f => ?_
  have e1 : fld w 0 6 = 1 := (f.lowE _ _ (by decide)).trans (show _ = 1 by simp only [fld] <;> omega)
  have e2 : fld w 6 1 = ch := (f.lowE _ _ (by decide)).trans (show _ = ch by simp only [fld] <;> omega)
  have eb := f.b
  unfold decode32; rw [f.opE]
  show (match fld w 0 6 with | 0 => decChan w (fld w 6 1) .gath | 1 => decChan w (fld w 6 1) .gathRows | _ => .error .reservedValue : Decoded) = _
  rw [e1]; show (decChan w (fld w 6 1) .gathRows : Decoded) = _
  simp [decQA, decQD, decQ0, decTokB, decChan, decLease, decPQ, mustBeZero, mustHold, f.qE, f.q2E, f.q23E, f.q3E, f.q24E,
    f.xaE, f.maE, f.xbE, f.mbE, f.z9E, f.z14E, f.z13E, e1, e2, eb]

theorem collAllred (tok : Nat) (b : Src) (ch : Nat) : Statement (.collAllred tok b ch) := fun h _ => by
  change (decide (tok < 32) && b.ok && decide (ch < 4)) = true at h
  simp only [Bool.and_eq_true, decide_eq_true_eq] at h
  have h_b := mode_lt b.mode
  have r_b : b.reg < 32 := by simp only [Src.ok, decide_eq_true_eq] at h; omega
  refine ofQ (op := 0x28) (q := 0) (xa := tok) (ma := 0) (xb := b.reg) (mb := b.mode.code) (fn := (ch * 2 ^ 5 + 0)) (by decide) (by omega) (by omega)
    (by omega) (by omega) (by omega) (by omega) fun w f => ?_
  have e1 : fld w 0 5 = 0 := (f.lowE _ _ (by decide)).trans (show _ = 0 by simp only [fld] <;> omega)
  have e2 : fld w 5 2 = ch := (f.lowE _ _ (by decide)).trans (show _ = ch by simp only [fld] <;> omega)
  have eb := f.b
  unfold decode32; rw [f.opE]
  show (match fld w 0 5 with | 0 => decChan w (fld w 5 2) .collAllred | 1 => decChan w (fld w 5 2) .collAllgath | 2 => decChan w (fld w 5 2) .collRedscat | 3 => decChan w (fld w 5 2) .collAlltoall | _ => .error .reservedValue : Decoded) = _
  rw [e1]; show (decChan w (fld w 5 2) .collAllred : Decoded) = _
  simp [decQA, decQD, decQ0, decTokB, decChan, decLease, decPQ, mustBeZero, mustHold, f.qE, f.q2E, f.q23E, f.q3E, f.q24E,
    f.xaE, f.maE, f.xbE, f.mbE, f.z9E, f.z14E, f.z13E, e1, e2, eb]

theorem collAllgath (tok : Nat) (b : Src) (ch : Nat) : Statement (.collAllgath tok b ch) := fun h _ => by
  change (decide (tok < 32) && b.ok && decide (ch < 4)) = true at h
  simp only [Bool.and_eq_true, decide_eq_true_eq] at h
  have h_b := mode_lt b.mode
  have r_b : b.reg < 32 := by simp only [Src.ok, decide_eq_true_eq] at h; omega
  refine ofQ (op := 0x28) (q := 0) (xa := tok) (ma := 0) (xb := b.reg) (mb := b.mode.code) (fn := (ch * 2 ^ 5 + 1)) (by decide) (by omega) (by omega)
    (by omega) (by omega) (by omega) (by omega) fun w f => ?_
  have e1 : fld w 0 5 = 1 := (f.lowE _ _ (by decide)).trans (show _ = 1 by simp only [fld] <;> omega)
  have e2 : fld w 5 2 = ch := (f.lowE _ _ (by decide)).trans (show _ = ch by simp only [fld] <;> omega)
  have eb := f.b
  unfold decode32; rw [f.opE]
  show (match fld w 0 5 with | 0 => decChan w (fld w 5 2) .collAllred | 1 => decChan w (fld w 5 2) .collAllgath | 2 => decChan w (fld w 5 2) .collRedscat | 3 => decChan w (fld w 5 2) .collAlltoall | _ => .error .reservedValue : Decoded) = _
  rw [e1]; show (decChan w (fld w 5 2) .collAllgath : Decoded) = _
  simp [decQA, decQD, decQ0, decTokB, decChan, decLease, decPQ, mustBeZero, mustHold, f.qE, f.q2E, f.q23E, f.q3E, f.q24E,
    f.xaE, f.maE, f.xbE, f.mbE, f.z9E, f.z14E, f.z13E, e1, e2, eb]

theorem collRedscat (tok : Nat) (b : Src) (ch : Nat) : Statement (.collRedscat tok b ch) := fun h _ => by
  change (decide (tok < 32) && b.ok && decide (ch < 4)) = true at h
  simp only [Bool.and_eq_true, decide_eq_true_eq] at h
  have h_b := mode_lt b.mode
  have r_b : b.reg < 32 := by simp only [Src.ok, decide_eq_true_eq] at h; omega
  refine ofQ (op := 0x28) (q := 0) (xa := tok) (ma := 0) (xb := b.reg) (mb := b.mode.code) (fn := (ch * 2 ^ 5 + 2)) (by decide) (by omega) (by omega)
    (by omega) (by omega) (by omega) (by omega) fun w f => ?_
  have e1 : fld w 0 5 = 2 := (f.lowE _ _ (by decide)).trans (show _ = 2 by simp only [fld] <;> omega)
  have e2 : fld w 5 2 = ch := (f.lowE _ _ (by decide)).trans (show _ = ch by simp only [fld] <;> omega)
  have eb := f.b
  unfold decode32; rw [f.opE]
  show (match fld w 0 5 with | 0 => decChan w (fld w 5 2) .collAllred | 1 => decChan w (fld w 5 2) .collAllgath | 2 => decChan w (fld w 5 2) .collRedscat | 3 => decChan w (fld w 5 2) .collAlltoall | _ => .error .reservedValue : Decoded) = _
  rw [e1]; show (decChan w (fld w 5 2) .collRedscat : Decoded) = _
  simp [decQA, decQD, decQ0, decTokB, decChan, decLease, decPQ, mustBeZero, mustHold, f.qE, f.q2E, f.q23E, f.q3E, f.q24E,
    f.xaE, f.maE, f.xbE, f.mbE, f.z9E, f.z14E, f.z13E, e1, e2, eb]

theorem collAlltoall (tok : Nat) (b : Src) (ch : Nat) : Statement (.collAlltoall tok b ch) := fun h _ => by
  change (decide (tok < 32) && b.ok && decide (ch < 4)) = true at h
  simp only [Bool.and_eq_true, decide_eq_true_eq] at h
  have h_b := mode_lt b.mode
  have r_b : b.reg < 32 := by simp only [Src.ok, decide_eq_true_eq] at h; omega
  refine ofQ (op := 0x28) (q := 0) (xa := tok) (ma := 0) (xb := b.reg) (mb := b.mode.code) (fn := (ch * 2 ^ 5 + 3)) (by decide) (by omega) (by omega)
    (by omega) (by omega) (by omega) (by omega) fun w f => ?_
  have e1 : fld w 0 5 = 3 := (f.lowE _ _ (by decide)).trans (show _ = 3 by simp only [fld] <;> omega)
  have e2 : fld w 5 2 = ch := (f.lowE _ _ (by decide)).trans (show _ = ch by simp only [fld] <;> omega)
  have eb := f.b
  unfold decode32; rw [f.opE]
  show (match fld w 0 5 with | 0 => decChan w (fld w 5 2) .collAllred | 1 => decChan w (fld w 5 2) .collAllgath | 2 => decChan w (fld w 5 2) .collRedscat | 3 => decChan w (fld w 5 2) .collAlltoall | _ => .error .reservedValue : Decoded) = _
  rw [e1]; show (decChan w (fld w 5 2) .collAlltoall : Decoded) = _
  simp [decQA, decQD, decQ0, decTokB, decChan, decLease, decPQ, mustBeZero, mustHold, f.qE, f.q2E, f.q23E, f.q3E, f.q24E,
    f.xaE, f.maE, f.xbE, f.mbE, f.z9E, f.z14E, f.z13E, e1, e2, eb]

theorem atsub (tok : Nat) (b : Src) : Statement (.atsub tok b) := fun h _ => by
  change (decide (tok < 32) && b.ok) = true at h
  simp only [Bool.and_eq_true, decide_eq_true_eq] at h
  have h_b := mode_lt b.mode
  have r_b : b.reg < 32 := by simp only [Src.ok, decide_eq_true_eq] at h; omega
  refine ofQ (op := 0x29) (q := 0) (xa := tok) (ma := 0) (xb := b.reg) (mb := b.mode.code) (fn := 0) (by decide) (by omega) (by omega)
    (by omega) (by omega) (by omega) (by omega) fun w f => ?_
  have e1 : fld w 0 7 = 0 := (f.lowE _ _ (by decide)).trans (show _ = 0 by simp only [fld] <;> omega)
  have e2 := trivial
  have eb := f.b
  unfold decode32; rw [f.opE]; show (mustBeZero (fld w 0 7) <| decTokB w .atsub : Decoded) = _
  simp [decQA, decQD, decQ0, decTokB, decChan, decLease, decPQ, mustBeZero, mustHold, f.qE, f.q2E, f.q23E, f.q3E, f.q24E,
    f.xaE, f.maE, f.xbE, f.mbE, f.z9E, f.z14E, f.z13E, e1, e2, eb]

theorem mlease (tok : Nat) : Statement (.mlease tok) := fun h _ => by
  change (decide (tok < 32)) = true at h
  simp only [Bool.and_eq_true, decide_eq_true_eq] at h
  refine ofQ (op := 0x2A) (q := 0) (xa := tok) (ma := 0) (xb := 0) (mb := 0) (fn := 0) (by decide) (by omega) (by omega)
    (by omega) (by omega) (by omega) (by omega) fun w f => ?_
  have e1 : fld w 0 7 = 0 := (f.lowE _ _ (by decide)).trans (show _ = 0 by simp only [fld] <;> omega)
  have e2 := trivial
  rw [d_mat f.opE]; unfold decMat; rw [e1]
  show (mustBeZero (fld w 21 4) <| mustBeZero (fld w 7 9) (.ok (.mlease (fld w 16 5))) : Decoded) = _
  simp [decQA, decQD, decQ0, decTokB, decChan, decLease, decPQ, mustBeZero, mustHold, f.qE, f.q2E, f.q23E, f.q3E, f.q24E,
    f.xaE, f.maE, f.xbE, f.mbE, f.z9E, f.z14E, f.z13E, e1, e2]

theorem mrel (l : Nat) : Statement (.mrel l) := fun h _ => by
  change (decide (l < 4)) = true at h
  simp only [Bool.and_eq_true, decide_eq_true_eq] at h
  refine ofQ (op := 0x2A) (q := l) (xa := 0) (ma := 0) (xb := 0) (mb := 0) (fn := 1) (by decide) (by omega) (by omega)
    (by omega) (by omega) (by omega) (by omega) fun w f => ?_
  have e1 : fld w 0 7 = 1 := (f.lowE _ _ (by decide)).trans (show _ = 1 by simp only [fld] <;> omega)
  have e2 := trivial
  rw [d_mat f.opE]; unfold decMat; rw [e1]; show (decLease w .mrel : Decoded) = _
  have q1 : l % 4 = l := by omega
  have q2 : l / 4 = 0 := by omega
  simp [decQA, decQD, decQ0, decTokB, decChan, decLease, decPQ, mustBeZero, mustHold, f.qE, f.q2E, f.q23E, f.q3E, f.q24E,
    f.xaE, f.maE, f.xbE, f.mbE, f.z9E, f.z14E, f.z13E, e1, e2, q1, q2]

theorem mzero (l : Nat) : Statement (.mzero l) := fun h _ => by
  change (decide (l < 4)) = true at h
  simp only [Bool.and_eq_true, decide_eq_true_eq] at h
  refine ofQ (op := 0x2A) (q := l) (xa := 0) (ma := 0) (xb := 0) (mb := 0) (fn := 2) (by decide) (by omega) (by omega)
    (by omega) (by omega) (by omega) (by omega) fun w f => ?_
  have e1 : fld w 0 7 = 2 := (f.lowE _ _ (by decide)).trans (show _ = 2 by simp only [fld] <;> omega)
  have e2 := trivial
  rw [d_mat f.opE]; unfold decMat; rw [e1]; show (decLease w .mzero : Decoded) = _
  have q1 : l % 4 = l := by omega
  have q2 : l / 4 = 0 := by omega
  simp [decQA, decQD, decQ0, decTokB, decChan, decLease, decPQ, mustBeZero, mustHold, f.qE, f.q2E, f.q23E, f.q3E, f.q24E,
    f.xaE, f.maE, f.xbE, f.mbE, f.z9E, f.z14E, f.z13E, e1, e2, q1, q2]

theorem mmul (l : Nat) (a b : Src) : Statement (.mmul l a b) := fun h _ => by
  change (decide (l < 4) && a.ok && b.ok) = true at h
  simp only [Bool.and_eq_true, decide_eq_true_eq] at h
  have h_a := mode_lt a.mode
  have r_a : a.reg < 32 := by simp only [Src.ok, decide_eq_true_eq] at h; omega
  have h_b := mode_lt b.mode
  have r_b : b.reg < 32 := by simp only [Src.ok, decide_eq_true_eq] at h; omega
  refine ofQ (op := 0x2A) (q := l) (xa := a.reg) (ma := a.mode.code) (xb := b.reg) (mb := b.mode.code) (fn := 3) (by decide) (by omega) (by omega)
    (by omega) (by omega) (by omega) (by omega) fun w f => ?_
  have e1 : fld w 0 7 = 3 := (f.lowE _ _ (by decide)).trans (show _ = 3 by simp only [fld] <;> omega)
  have e2 := trivial
  have ea := f.a
  have eb := f.b
  rw [d_mat f.opE]; unfold decMat; rw [e1]
  show (mustBeZero (fld w 24 1) <|
    if bitAt w 23 then .ok (.mmulS (fld w 21 2) (qa w) (qb w)) else .ok (.mmul (fld w 21 2) (qa w) (qb w)) : Decoded) = _
  have q1 : (l) % 4 = l := by omega
  have q2 : (l) / 8 = 0 := by omega
  have q3 : bitAt w 23 = false := bitAt_of (by rw [f.b23E]; simp only [Bool.toNat_true, Bool.toNat_false]; omega)
  simp [mustBeZero, f.q24E, f.q2E, q1, q2, q3, ea, eb]

theorem mmulS (l : Nat) (a b : Src) : Statement (.mmulS l a b) := fun h _ => by
  change (decide (l < 4) && a.ok && b.ok) = true at h
  simp only [Bool.and_eq_true, decide_eq_true_eq] at h
  have h_a := mode_lt a.mode
  have r_a : a.reg < 32 := by simp only [Src.ok, decide_eq_true_eq] at h; omega
  have h_b := mode_lt b.mode
  have r_b : b.reg < 32 := by simp only [Src.ok, decide_eq_true_eq] at h; omega
  refine ofQ (op := 0x2A) (q := (l + 4)) (xa := a.reg) (ma := a.mode.code) (xb := b.reg) (mb := b.mode.code) (fn := 3) (by decide) (by omega) (by omega)
    (by omega) (by omega) (by omega) (by omega) fun w f => ?_
  have e1 : fld w 0 7 = 3 := (f.lowE _ _ (by decide)).trans (show _ = 3 by simp only [fld] <;> omega)
  have e2 := trivial
  have ea := f.a
  have eb := f.b
  rw [d_mat f.opE]; unfold decMat; rw [e1]
  show (mustBeZero (fld w 24 1) <|
    if bitAt w 23 then .ok (.mmulS (fld w 21 2) (qa w) (qb w)) else .ok (.mmul (fld w 21 2) (qa w) (qb w)) : Decoded) = _
  have q1 : ((l + 4)) % 4 = l := by omega
  have q2 : ((l + 4)) / 8 = 0 := by omega
  have q3 : bitAt w 23 = true := bitAt_of (by rw [f.b23E]; simp only [Bool.toNat_true, Bool.toNat_false]; omega)
  simp [mustBeZero, f.q24E, f.q2E, q1, q2, q3, ea, eb]

theorem mdrain (l tok : Nat) (b : Src) : Statement (.mdrain l tok b) := fun h _ => by
  change (decide (l < 4) && decide (tok < 32) && b.ok) = true at h
  simp only [Bool.and_eq_true, decide_eq_true_eq] at h
  have h_b := mode_lt b.mode
  have r_b : b.reg < 32 := by simp only [Src.ok, decide_eq_true_eq] at h; omega
  refine ofQ (op := 0x2A) (q := l) (xa := tok) (ma := 0) (xb := b.reg) (mb := b.mode.code) (fn := 4) (by decide) (by omega) (by omega)
    (by omega) (by omega) (by omega) (by omega) fun w f => ?_
  have e1 : fld w 0 7 = 4 := (f.lowE _ _ (by decide)).trans (show _ = 4 by simp only [fld] <;> omega)
  have e2 := trivial
  have eb := f.b
  rw [d_mat f.opE]; unfold decMat; rw [e1]
  show (mustBeZero (fld w 23 2) <| mustBeZero (fld w 9 2) (.ok (.mdrain (fld w 21 2) (fld w 16 5) (qb w))) : Decoded) = _
  have q1 : l % 4 = l := by omega
  have q2 : l / 4 = 0 := by omega
  simp [decQA, decQD, decQ0, decTokB, decChan, decLease, decPQ, mustBeZero, mustHold, f.qE, f.q2E, f.q23E, f.q3E, f.q24E,
    f.xaE, f.maE, f.xbE, f.mbE, f.z9E, f.z14E, f.z13E, e1, e2, eb, q1, q2]

theorem mwait (l : Nat) : Statement (.mwait l) := fun h _ => by
  change (decide (l < 4)) = true at h
  simp only [Bool.and_eq_true, decide_eq_true_eq] at h
  refine ofQ (op := 0x2A) (q := l) (xa := 0) (ma := 0) (xb := 0) (mb := 0) (fn := 5) (by decide) (by omega) (by omega)
    (by omega) (by omega) (by omega) (by omega) fun w f => ?_
  have e1 : fld w 0 7 = 5 := (f.lowE _ _ (by decide)).trans (show _ = 5 by simp only [fld] <;> omega)
  have e2 := trivial
  rw [d_mat f.opE]; unfold decMat; rw [e1]; show (decLease w .mwait : Decoded) = _
  have q1 : l % 4 = l := by omega
  have q2 : l / 4 = 0 := by omega
  simp [decQA, decQD, decQ0, decTokB, decChan, decLease, decPQ, mustBeZero, mustHold, f.qE, f.q2E, f.q23E, f.q3E, f.q24E,
    f.xaE, f.maE, f.xbE, f.mbE, f.z9E, f.z14E, f.z13E, e1, e2, q1, q2]

theorem ralloc (pin auto : Bool) (tok : Nat) (b : Src) : Statement (.ralloc pin auto tok b) := fun h _ => by
  change (decide (tok < 32) && b.ok) = true at h
  simp only [Bool.and_eq_true, decide_eq_true_eq] at h
  have h_b := mode_lt b.mode
  have r_b : b.reg < 32 := by simp only [Src.ok, decide_eq_true_eq] at h; omega
  have hq : encBit auto 0 = auto.toNat ∧ encBit pin 1 = 2 * pin.toNat ∧ auto.toNat < 2 ∧ pin.toNat < 2 := by
    cases auto <;> cases pin <;> decide
  refine ofQ (op := 0x2B) (q := (encBit auto 0 + encBit pin 1)) (xa := tok) (ma := 0) (xb := b.reg) (mb := b.mode.code) (fn := 0) (by decide) (by omega) (by omega)
    (by omega) (by omega) (by omega) (by omega) fun w f => ?_
  have e1 : fld w 0 7 = 0 := (f.lowE _ _ (by decide)).trans (show _ = 0 by simp only [fld] <;> omega)
  have e2 := trivial
  have eb := f.b
  rw [d_res f.opE]; unfold decRes; rw [e1]
  show (mustBeZero (fld w 23 2) <|
    mustBeZero (fld w 9 2) (.ok (.ralloc (bitAt w 22) (bitAt w 21) (fld w 16 5) (qb w))) : Decoded) = _
  have q2 : (encBit auto 0 + encBit pin 1) / 4 = 0 := by omega
  have q3 : bitAt w 22 = pin := bitAt_of (by rw [f.b22E]; omega)
  have q4 : bitAt w 21 = auto := bitAt_of (by rw [f.b21E]; omega)
  simp [mustBeZero, f.q23E, f.maE, f.xaE, q2, q3, q4, eb]

theorem rfill (tok : Nat) (b : Src) : Statement (.rfill tok b) := fun h _ => by
  change (decide (tok < 32) && b.ok) = true at h
  simp only [Bool.and_eq_true, decide_eq_true_eq] at h
  have h_b := mode_lt b.mode
  have r_b : b.reg < 32 := by simp only [Src.ok, decide_eq_true_eq] at h; omega
  refine ofQ (op := 0x2B) (q := 0) (xa := tok) (ma := 0) (xb := b.reg) (mb := b.mode.code) (fn := 1) (by decide) (by omega) (by omega)
    (by omega) (by omega) (by omega) (by omega) fun w f => ?_
  have e1 : fld w 0 7 = 1 := (f.lowE _ _ (by decide)).trans (show _ = 1 by simp only [fld] <;> omega)
  have e2 := trivial
  have eb := f.b
  rw [d_res f.opE]; unfold decRes; rw [e1]; show (decTokB w .rfill : Decoded) = _
  simp [decQA, decQD, decQ0, decTokB, decChan, decLease, decPQ, mustBeZero, mustHold, f.qE, f.q2E, f.q23E, f.q3E, f.q24E,
    f.xaE, f.maE, f.xbE, f.mbE, f.z9E, f.z14E, f.z13E, e1, e2, eb]

theorem rpin (tok : Nat) (b : Src) : Statement (.rpin tok b) := fun h _ => by
  change (decide (tok < 32) && b.ok) = true at h
  simp only [Bool.and_eq_true, decide_eq_true_eq] at h
  have h_b := mode_lt b.mode
  have r_b : b.reg < 32 := by simp only [Src.ok, decide_eq_true_eq] at h; omega
  refine ofQ (op := 0x2B) (q := 0) (xa := tok) (ma := 0) (xb := b.reg) (mb := b.mode.code) (fn := 2) (by decide) (by omega) (by omega)
    (by omega) (by omega) (by omega) (by omega) fun w f => ?_
  have e1 : fld w 0 7 = 2 := (f.lowE _ _ (by decide)).trans (show _ = 2 by simp only [fld] <;> omega)
  have e2 := trivial
  have eb := f.b
  rw [d_res f.opE]; unfold decRes; rw [e1]; show (decTokB w .rpin : Decoded) = _
  simp [decQA, decQD, decQ0, decTokB, decChan, decLease, decPQ, mustBeZero, mustHold, f.qE, f.q2E, f.q23E, f.q3E, f.q24E,
    f.xaE, f.maE, f.xbE, f.mbE, f.z9E, f.z14E, f.z13E, e1, e2, eb]

theorem runpin (tok : Nat) (b : Src) : Statement (.runpin tok b) := fun h _ => by
  change (decide (tok < 32) && b.ok) = true at h
  simp only [Bool.and_eq_true, decide_eq_true_eq] at h
  have h_b := mode_lt b.mode
  have r_b : b.reg < 32 := by simp only [Src.ok, decide_eq_true_eq] at h; omega
  refine ofQ (op := 0x2B) (q := 0) (xa := tok) (ma := 0) (xb := b.reg) (mb := b.mode.code) (fn := 3) (by decide) (by omega) (by omega)
    (by omega) (by omega) (by omega) (by omega) fun w f => ?_
  have e1 : fld w 0 7 = 3 := (f.lowE _ _ (by decide)).trans (show _ = 3 by simp only [fld] <;> omega)
  have e2 := trivial
  have eb := f.b
  rw [d_res f.opE]; unfold decRes; rw [e1]; show (decTokB w .runpin : Decoded) = _
  simp [decQA, decQD, decQ0, decTokB, decChan, decLease, decPQ, mustBeZero, mustHold, f.qE, f.q2E, f.q23E, f.q3E, f.q24E,
    f.xaE, f.maE, f.xbE, f.mbE, f.z9E, f.z14E, f.z13E, e1, e2, eb]

theorem rrevoke (tok : Nat) (b : Src) : Statement (.rrevoke tok b) := fun h _ => by
  change (decide (tok < 32) && b.ok) = true at h
  simp only [Bool.and_eq_true, decide_eq_true_eq] at h
  have h_b := mode_lt b.mode
  have r_b : b.reg < 32 := by simp only [Src.ok, decide_eq_true_eq] at h; omega
  refine ofQ (op := 0x2B) (q := 0) (xa := tok) (ma := 0) (xb := b.reg) (mb := b.mode.code) (fn := 4) (by decide) (by omega) (by omega)
    (by omega) (by omega) (by omega) (by omega) fun w f => ?_
  have e1 : fld w 0 7 = 4 := (f.lowE _ _ (by decide)).trans (show _ = 4 by simp only [fld] <;> omega)
  have e2 := trivial
  have eb := f.b
  rw [d_res f.opE]; unfold decRes; rw [e1]; show (decTokB w .rrevoke : Decoded) = _
  simp [decQA, decQD, decQ0, decTokB, decChan, decLease, decPQ, mustBeZero, mustHold, f.qE, f.q2E, f.q23E, f.q3E, f.q24E,
    f.xaE, f.maE, f.xbE, f.mbE, f.z9E, f.z14E, f.z13E, e1, e2, eb]

theorem rquery (tok : Nat) (b : Src) : Statement (.rquery tok b) := fun h _ => by
  change (decide (tok < 32) && b.ok) = true at h
  simp only [Bool.and_eq_true, decide_eq_true_eq] at h
  have h_b := mode_lt b.mode
  have r_b : b.reg < 32 := by simp only [Src.ok, decide_eq_true_eq] at h; omega
  refine ofQ (op := 0x2B) (q := 0) (xa := tok) (ma := 0) (xb := b.reg) (mb := b.mode.code) (fn := 5) (by decide) (by omega) (by omega)
    (by omega) (by omega) (by omega) (by omega) fun w f => ?_
  have e1 : fld w 0 7 = 5 := (f.lowE _ _ (by decide)).trans (show _ = 5 by simp only [fld] <;> omega)
  have e2 := trivial
  have eb := f.b
  rw [d_res f.opE]; unfold decRes; rw [e1]; show (decTokB w .rquery : Decoded) = _
  simp [decQA, decQD, decQ0, decTokB, decChan, decLease, decPQ, mustBeZero, mustHold, f.qE, f.q2E, f.q23E, f.q3E, f.q24E,
    f.xaE, f.maE, f.xbE, f.mbE, f.z9E, f.z14E, f.z13E, e1, e2, eb]

theorem tidset (a b : Src) : Statement (.tidset a b) := fun h _ => by
  change (a.ok && b.ok) = true at h
  simp only [Bool.and_eq_true, decide_eq_true_eq] at h
  have h_a := mode_lt a.mode
  have r_a : a.reg < 32 := by simp only [Src.ok, decide_eq_true_eq] at h; omega
  have h_b := mode_lt b.mode
  have r_b : b.reg < 32 := by simp only [Src.ok, decide_eq_true_eq] at h; omega
  refine ofQ (op := 0x2C) (q := 0) (xa := a.reg) (ma := a.mode.code) (xb := b.reg) (mb := b.mode.code) (fn := 0) (by decide) (by omega) (by omega)
    (by omega) (by omega) (by omega) (by omega) fun w f => ?_
  have e1 : fld w 0 7 = 0 := (f.lowE _ _ (by decide)).trans (show _ = 0 by simp only [fld] <;> omega)
  have e2 := trivial
  have ea := f.a
  have eb := f.b
  rw [d_tid f.opE]; unfold decTid; rw [e1]; show (mustBeZero (fld w 21 4) (.ok (.tidset (qa w) (qb w))) : Decoded) = _
  simp [decQA, decQD, decQ0, decTokB, decChan, decLease, decPQ, mustBeZero, mustHold, f.qE, f.q2E, f.q23E, f.q3E, f.q24E,
    f.xaE, f.maE, f.xbE, f.mbE, f.z9E, f.z14E, f.z13E, e1, e2, ea, eb]

theorem tidget (a b : Src) : Statement (.tidget a b) := fun h _ => by
  change (a.ok && b.ok) = true at h
  simp only [Bool.and_eq_true, decide_eq_true_eq] at h
  have h_a := mode_lt a.mode
  have r_a : a.reg < 32 := by simp only [Src.ok, decide_eq_true_eq] at h; omega
  have h_b := mode_lt b.mode
  have r_b : b.reg < 32 := by simp only [Src.ok, decide_eq_true_eq] at h; omega
  refine ofQ (op := 0x2C) (q := 0) (xa := a.reg) (ma := a.mode.code) (xb := b.reg) (mb := b.mode.code) (fn := 1) (by decide) (by omega) (by omega)
    (by omega) (by omega) (by omega) (by omega) fun w f => ?_
  have e1 : fld w 0 7 = 1 := (f.lowE _ _ (by decide)).trans (show _ = 1 by simp only [fld] <;> omega)
  have e2 := trivial
  have ea := f.a
  have eb := f.b
  rw [d_tid f.opE]; unfold decTid; rw [e1]; show (mustBeZero (fld w 21 4) (.ok (.tidget (qa w) (qb w))) : Decoded) = _
  simp [decQA, decQD, decQ0, decTokB, decChan, decLease, decPQ, mustBeZero, mustHold, f.qE, f.q2E, f.q23E, f.q3E, f.q24E,
    f.xaE, f.maE, f.xbE, f.mbE, f.z9E, f.z14E, f.z13E, e1, e2, ea, eb]

theorem tidpatch (dim : Nat) (a b : Src) : Statement (.tidpatch dim a b) := fun h _ => by
  change (decide (dim < 4) && a.ok && b.ok) = true at h
  simp only [Bool.and_eq_true, decide_eq_true_eq] at h
  have h_a := mode_lt a.mode
  have r_a : a.reg < 32 := by simp only [Src.ok, decide_eq_true_eq] at h; omega
  have h_b := mode_lt b.mode
  have r_b : b.reg < 32 := by simp only [Src.ok, decide_eq_true_eq] at h; omega
  refine ofQ (op := 0x2C) (q := dim) (xa := a.reg) (ma := a.mode.code) (xb := b.reg) (mb := b.mode.code) (fn := 2) (by decide) (by omega) (by omega)
    (by omega) (by omega) (by omega) (by omega) fun w f => ?_
  have e1 : fld w 0 7 = 2 := (f.lowE _ _ (by decide)).trans (show _ = 2 by simp only [fld] <;> omega)
  have e2 := trivial
  have ea := f.a
  have eb := f.b
  rw [d_tid f.opE]; unfold decTid; rw [e1]
  show (mustBeZero (fld w 23 2) (.ok (.tidpatch (fld w 21 2) (qa w) (qb w))) : Decoded) = _
  have q1 : dim % 4 = dim := by omega
  have q2 : dim / 4 = 0 := by omega
  simp [decQA, decQD, decQ0, decTokB, decChan, decLease, decPQ, mustBeZero, mustHold, f.qE, f.q2E, f.q23E, f.q3E, f.q24E,
    f.xaE, f.maE, f.xbE, f.mbE, f.z9E, f.z14E, f.z13E, e1, e2, ea, eb, q1, q2]

theorem vadd (vd va vb pg : Nat) (t : Ety) (z : Bool) : Statement (.vadd vd va vb pg t z) := fun h _ => by
  have hi : t.isInt = true := by
    have h := ((Bool.and_eq_true _ _).mp h).2
    cases t <;> first | rfl | cases h
  exact rtVI (ok := Ety.isInt) .vadd h hi (by decide) fun _ e f => (d_vint e).trans (by unfold decVint; rw [f]; rfl)

theorem vsub (vd va vb pg : Nat) (t : Ety) (z : Bool) : Statement (.vsub vd va vb pg t z) := fun h _ => by
  have hi : t.isInt = true := by
    have h := ((Bool.and_eq_true _ _).mp h).2
    cases t <;> first | rfl | cases h
  exact rtVI (ok := Ety.isInt) .vsub h hi (by decide) fun _ e f => (d_vint e).trans (by unfold decVint; rw [f]; rfl)

theorem vmul (vd va vb pg : Nat) (t : Ety) (z : Bool) : Statement (.vmul vd va vb pg t z) := fun h _ => by
  have hi : t.isInt = true := by
    have h := ((Bool.and_eq_true _ _).mp h).2
    cases t <;> first | rfl | cases h
  exact rtVI (ok := Ety.isInt) .vmul h hi (by decide) fun _ e f => (d_vint e).trans (by unfold decVint; rw [f]; rfl)

theorem vmulh (vd va vb pg : Nat) (t : Ety) (z : Bool) : Statement (.vmulh vd va vb pg t z) := fun h _ => by
  have hi : t.isInt = true := by
    have h := ((Bool.and_eq_true _ _).mp h).2
    cases t <;> first | rfl | cases h
  exact rtVI (ok := Ety.isInt) .vmulh h hi (by decide) fun _ e f => (d_vint e).trans (by unfold decVint; rw [f]; rfl)

theorem vmin (vd va vb pg : Nat) (t : Ety) (z : Bool) : Statement (.vmin vd va vb pg t z) := fun h _ => by
  have hi : t.isInt = true := by
    have h := ((Bool.and_eq_true _ _).mp h).2
    cases t <;> first | rfl | cases h
  exact rtVI (ok := Ety.isInt) .vmin h hi (by decide) fun _ e f => (d_vint e).trans (by unfold decVint; rw [f]; rfl)

theorem vmax (vd va vb pg : Nat) (t : Ety) (z : Bool) : Statement (.vmax vd va vb pg t z) := fun h _ => by
  have hi : t.isInt = true := by
    have h := ((Bool.and_eq_true _ _).mp h).2
    cases t <;> first | rfl | cases h
  exact rtVI (ok := Ety.isInt) .vmax h hi (by decide) fun _ e f => (d_vint e).trans (by unfold decVint; rw [f]; rfl)

theorem vand (vd va vb pg : Nat) (t : Ety) (z : Bool) : Statement (.vand vd va vb pg t z) := fun h _ => by
  have hi : t.isInt = true := by
    have h := ((Bool.and_eq_true _ _).mp h).2
    cases t <;> first | rfl | cases h
  exact rtVI (ok := Ety.isInt) .vand h hi (by decide) fun _ e f => (d_vint e).trans (by unfold decVint; rw [f]; rfl)

theorem vor (vd va vb pg : Nat) (t : Ety) (z : Bool) : Statement (.vor vd va vb pg t z) := fun h _ => by
  have hi : t.isInt = true := by
    have h := ((Bool.and_eq_true _ _).mp h).2
    cases t <;> first | rfl | cases h
  exact rtVI (ok := Ety.isInt) .vor h hi (by decide) fun _ e f => (d_vint e).trans (by unfold decVint; rw [f]; rfl)

theorem vxor (vd va vb pg : Nat) (t : Ety) (z : Bool) : Statement (.vxor vd va vb pg t z) := fun h _ => by
  have hi : t.isInt = true := by
    have h := ((Bool.and_eq_true _ _).mp h).2
    cases t <;> first | rfl | cases h
  exact rtVI (ok := Ety.isInt) .vxor h hi (by decide) fun _ e f => (d_vint e).trans (by unfold decVint; rw [f]; rfl)

theorem vshl (vd va vb pg : Nat) (t : Ety) (z : Bool) : Statement (.vshl vd va vb pg t z) := fun h _ => by
  have hi : t.isInt = true := by
    have h := ((Bool.and_eq_true _ _).mp h).2
    cases t <;> first | rfl | cases h
  exact rtVI (ok := Ety.isInt) .vshl h hi (by decide) fun _ e f => (d_vint e).trans (by unfold decVint; rw [f]; rfl)

theorem vshr (vd va vb pg : Nat) (t : Ety) (z : Bool) : Statement (.vshr vd va vb pg t z) := fun h _ => by
  have hi : t.isInt = true := by
    have h := ((Bool.and_eq_true _ _).mp h).2
    cases t <;> first | rfl | cases h
  exact rtVI (ok := Ety.isInt) .vshr h hi (by decide) fun _ e f => (d_vint e).trans (by unfold decVint; rw [f]; rfl)

theorem vsra (vd va vb pg : Nat) (t : Ety) (z : Bool) : Statement (.vsra vd va vb pg t z) := fun h _ => by
  have hi : t.isInt = true := by
    have h := ((Bool.and_eq_true _ _).mp h).2
    cases t <;> first | rfl | cases h
  exact rtVI (ok := Ety.isSigned) .vsra h hi (by decide) fun _ e f => (d_vint e).trans (by unfold decVint; rw [f]; rfl)

theorem vabs (vd va pg : Nat) (t : Ety) (z : Bool) : Statement (.vabs vd va pg t z) := fun h _ => by
  have hi : t.isInt = true := by
    have h := ((Bool.and_eq_true _ _).mp h).2
    cases t <;> first | rfl | cases h
  exact rtVI1 (ok := Ety.isSigned) .vabs h hi (by decide) fun _ e f => (d_vint e).trans (by unfold decVint; rw [f]; rfl)

theorem vneg (vd va pg : Nat) (t : Ety) (z : Bool) : Statement (.vneg vd va pg t z) := fun h _ => by
  have hi : t.isInt = true := by
    have h := ((Bool.and_eq_true _ _).mp h).2
    cases t <;> first | rfl | cases h
  exact rtVI1 (ok := Ety.isSigned) .vneg h hi (by decide) fun _ e f => (d_vint e).trans (by unfold decVint; rw [f]; rfl)

theorem vmac (vd va vb pg : Nat) (t : Ety) (z : Bool) : Statement (.vmac vd va vb pg t z) := fun h _ => by
  have hi : t.isInt = true := by
    have h := ((Bool.and_eq_true _ _).mp h).2
    cases t <;> first | rfl | cases h
  exact rtVI (ok := Ety.isInt) .vmac h hi (by decide) fun _ e f => (d_vint e).trans (by unfold decVint; rw [f]; rfl)

theorem vfadd (vd va vb pg : Nat) (t : Ety) (z : Bool) : Statement (.vfadd vd va vb pg t z) := fun h _ =>
  rtVF .vfadd h (by decide) fun _ e f => (d_vflt e).trans (by unfold decVflt; rw [f]; rfl)

theorem vfsub (vd va vb pg : Nat) (t : Ety) (z : Bool) : Statement (.vfsub vd va vb pg t z) := fun h _ =>
  rtVF .vfsub h (by decide) fun _ e f => (d_vflt e).trans (by unfold decVflt; rw [f]; rfl)

theorem vfmul (vd va vb pg : Nat) (t : Ety) (z : Bool) : Statement (.vfmul vd va vb pg t z) := fun h _ =>
  rtVF .vfmul h (by decide) fun _ e f => (d_vflt e).trans (by unfold decVflt; rw [f]; rfl)

theorem vfma (vd va vb pg : Nat) (t : Ety) (z : Bool) : Statement (.vfma vd va vb pg t z) := fun h _ =>
  rtVF .vfma h (by decide) fun _ e f => (d_vflt e).trans (by unfold decVflt; rw [f]; rfl)

theorem vfmin (vd va vb pg : Nat) (t : Ety) (z : Bool) : Statement (.vfmin vd va vb pg t z) := fun h _ =>
  rtVF .vfmin h (by decide) fun _ e f => (d_vflt e).trans (by unfold decVflt; rw [f]; rfl)

theorem vfmax (vd va vb pg : Nat) (t : Ety) (z : Bool) : Statement (.vfmax vd va vb pg t z) := fun h _ =>
  rtVF .vfmax h (by decide) fun _ e f => (d_vflt e).trans (by unfold decVflt; rw [f]; rfl)

theorem vfabs (vd va pg : Nat) (t : Ety) (z : Bool) : Statement (.vfabs vd va pg t z) := fun h _ =>
  rtVF1 .vfabs h (by decide) fun _ e f => (d_vflt e).trans (by unfold decVflt; rw [f]; rfl)

theorem vfneg (vd va pg : Nat) (t : Ety) (z : Bool) : Statement (.vfneg vd va pg t z) := fun h _ =>
  rtVF1 .vfneg h (by decide) fun _ e f => (d_vflt e).trans (by unfold decVflt; rw [f]; rfl)

theorem vcvt (vd va pg : Nat) (dst src : Ety) (r : Rnd) (o : Ovf) (z : Bool) : Statement (.vcvt vd va pg dst src r o z) := fun h _ => by
  change (decide (vd < 16) && decide (va < 16) && decide (pg < 8) && dst.isCvt && src.isCvt && decide (dst ≠ src)) = true at h
  simp only [Bool.and_eq_true, decide_eq_true_eq] at h
  have h1 := ety_lt dst
  have h2 := ety_lt src
  have h3 := rnd_lt r
  have h4 := ovf_lt o
  have h5 : encBit z 1 = 2 * z.toNat ∧ z.toNat < 2 := by cases z <;> decide
  refine ofV (op := 0x2F) (vd := vd) (va := va) (vb := dst.code) (pg := pg) (fn := src.code * 2 ^ 6 + r.code * 2 ^ 4 + o.code * 2 ^ 2 + encBit z 1) (by decide) (by omega) (by omega) h1 (by omega) (by omega) fun w f => ?_
  have e1 : fld w 0 1 = 0 := (f.lowE _ _ (by decide)).trans (by simp only [fld]; omega)
  have e2 : fld w 6 4 = src.code := (f.lowE _ _ (by decide)).trans (by simp only [fld]; omega)
  have e3 : fld w 4 2 = r.code := (f.lowE _ _ (by decide)).trans (by simp only [fld]; omega)
  have e4 : fld w 2 2 = o.code := (f.lowE _ _ (by decide)).trans (by simp only [fld]; omega)
  have e5 : bitAt w 1 = z := bitAt_of ((f.lowE _ _ (by decide)).trans (by simp only [fld]; omega))
  rw [d_vcvt f.opE, decVcvt, e1, f.vbE, e2, f.vdE, f.vaE, f.pgE, e3, e4, e5, rnd_ofCode, ovf_ofCode]
  simp [mustBeZero, withEty_code, mustHold, h]

theorem vld (vd : Nat) (xs : Src) (pg : Nat) (sz : ESize) (z : Bool) : Statement (.vld vd xs pg sz z) := fun h _ => by
  change (decide (vd < 16) && xs.ok && decide (pg < 8)) = true at h
  simp only [Bool.and_eq_true, decide_eq_true_eq] at h
  have hs := esize_lt sz
  have hz : encBit z 6 = 64 * z.toNat ∧ z.toNat < 2 := by cases z <;> decide
  refine ofX (op := 0x30) (vd := vd) (va := 0) (xs := xs) (pg := pg) (fn := encBit z 6 + sz.code * 2 ^ 4 + 0) (by decide) (by omega) (by omega) h.1.2 (by omega) (by omega) fun w f => ?_
  have e1 : fld w 0 4 = 0 := (f.lowE _ _ (by decide)).trans (by simp only [fld]; omega)
  have e2 : fld w 4 2 = sz.code := (f.lowE _ _ (by decide)).trans (by simp only [fld]; omega)
  have e3 : bitAt w 6 = z := bitAt_of ((f.lowE _ _ (by decide)).trans (by simp only [fld]; omega))
  rw [d_vmem f.opE]; unfold decVmem; rw [e1]
  show (mustBeZero (fld w 17 4) (.ok (.vld (fld w 21 4) (srcAt w 12 10) (fld w 7 3) (ESize.ofCode (fld w 4 2)) (bitAt w 6))) : Decoded) = _
  simp [decVslide, mustBeZero, f.vdE, f.vaE, f.xsE, f.pgE, e2, e3, esize_ofCode]

theorem vst (vd : Nat) (xs : Src) (pg : Nat) (sz : ESize) : Statement (.vst vd xs pg sz) := fun h _ => by
  change (decide (vd < 16) && xs.ok && decide (pg < 8)) = true at h
  simp only [Bool.and_eq_true, decide_eq_true_eq] at h
  have hs := esize_lt sz
  refine ofX (op := 0x30) (vd := vd) (va := 0) (xs := xs) (pg := pg) (fn := sz.code * 2 ^ 4 + 1) (by decide) (by omega) (by omega) h.1.2 (by omega) (by omega) fun w f => ?_
  have e1 : fld w 0 4 = 1 := (f.lowE _ _ (by decide)).trans (by simp only [fld]; omega)
  have e2 : fld w 4 2 = sz.code := (f.lowE _ _ (by decide)).trans (by simp only [fld]; omega)
  have e3 : fld w 6 1 = 0 := (f.lowE _ _ (by decide)).trans (by simp only [fld] <;> omega)
  rw [d_vmem f.opE]; unfold decVmem; rw [e1]
  show (mustBeZero (fld w 17 4) <|
    mustBeZero (fld w 6 1) (.ok (.vst (fld w 21 4) (srcAt w 12 10) (fld w 7 3) (ESize.ofCode (fld w 4 2)))) : Decoded) = _
  simp [decVslide, mustBeZero, f.vdE, f.vaE, f.xsE, f.pgE, e2, e3, esize_ofCode]

theorem vgath (vd va : Nat) (xs : Src) (pg : Nat) (sz : ESize) (z : Bool) : Statement (.vgath vd va xs pg sz z) := fun h _ => by
  change (decide (vd < 16) && decide (va < 16) && xs.ok && decide (pg < 8)) = true at h
  simp only [Bool.and_eq_true, decide_eq_true_eq] at h
  have hs := esize_lt sz
  have hz : encBit z 6 = 64 * z.toNat ∧ z.toNat < 2 := by cases z <;> decide
  refine ofX (op := 0x30) (vd := vd) (va := va) (xs := xs) (pg := pg) (fn := encBit z 6 + sz.code * 2 ^ 4 + 2) (by decide) (by omega) (by omega) h.1.2 (by omega) (by omega) fun w f => ?_
  have e1 : fld w 0 4 = 2 := (f.lowE _ _ (by decide)).trans (by simp only [fld]; omega)
  have e2 : fld w 4 2 = sz.code := (f.lowE _ _ (by decide)).trans (by simp only [fld]; omega)
  have e3 : bitAt w 6 = z := bitAt_of ((f.lowE _ _ (by decide)).trans (by simp only [fld]; omega))
  rw [d_vmem f.opE]; unfold decVmem; rw [e1]
  show (.ok (.vgath (fld w 21 4) (fld w 17 4) (srcAt w 12 10) (fld w 7 3) (ESize.ofCode (fld w 4 2)) (bitAt w 6)) : Decoded) = _
  simp [decVslide, mustBeZero, f.vdE, f.vaE, f.xsE, f.pgE, e2, e3, esize_ofCode]

theorem vscat (vd va : Nat) (xs : Src) (pg : Nat) (sz : ESize) : Statement (.vscat vd va xs pg sz) := fun h _ => by
  change (decide (vd < 16) && decide (va < 16) && xs.ok && decide (pg < 8)) = true at h
  simp only [Bool.and_eq_true, decide_eq_true_eq] at h
  have hs := esize_lt sz
  refine ofX (op := 0x30) (vd := vd) (va := va) (xs := xs) (pg := pg) (fn := sz.code * 2 ^ 4 + 3) (by decide) (by omega) (by omega) h.1.2 (by omega) (by omega) fun w f => ?_
  have e1 : fld w 0 4 = 3 := (f.lowE _ _ (by decide)).trans (by simp only [fld]; omega)
  have e2 : fld w 4 2 = sz.code := (f.lowE _ _ (by decide)).trans (by simp only [fld]; omega)
  have e3 : fld w 6 1 = 0 := (f.lowE _ _ (by decide)).trans (by simp only [fld] <;> omega)
  rw [d_vmem f.opE]; unfold decVmem; rw [e1]
  show (mustBeZero (fld w 6 1) (.ok (.vscat (fld w 21 4) (fld w 17 4) (srcAt w 12 10) (fld w 7 3) (ESize.ofCode (fld w 4 2)))) : Decoded) = _
  simp [decVslide, mustBeZero, f.vdE, f.vaE, f.xsE, f.pgE, e2, e3, esize_ofCode]

theorem vsplat (vd : Nat) (xs : Src) (pg : Nat) (sz : ESize) (z : Bool) : Statement (.vsplat vd xs pg sz z) := fun h _ => by
  change (decide (vd < 16) && xs.ok && decide (pg < 8)) = true at h
  simp only [Bool.and_eq_true, decide_eq_true_eq] at h
  have hs := esize_lt sz
  have hz : encBit z 6 = 64 * z.toNat ∧ z.toNat < 2 := by cases z <;> decide
  refine ofX (op := 0x30) (vd := vd) (va := 0) (xs := xs) (pg := pg) (fn := encBit z 6 + sz.code * 2 ^ 4 + 4) (by decide) (by omega) (by omega) h.1.2 (by omega) (by omega) fun w f => ?_
  have e1 : fld w 0 4 = 4 := (f.lowE _ _ (by decide)).trans (by simp only [fld]; omega)
  have e2 : fld w 4 2 = sz.code := (f.lowE _ _ (by decide)).trans (by simp only [fld]; omega)
  have e3 : bitAt w 6 = z := bitAt_of ((f.lowE _ _ (by decide)).trans (by simp only [fld]; omega))
  rw [d_vmem f.opE]; unfold decVmem; rw [e1]
  show (mustBeZero (fld w 17 4) (.ok (.vsplat (fld w 21 4) (srcAt w 12 10) (fld w 7 3) (ESize.ofCode (fld w 4 2)) (bitAt w 6))) : Decoded) = _
  simp [decVslide, mustBeZero, f.vdE, f.vaE, f.xsE, f.pgE, e2, e3, esize_ofCode]

theorem vbound (pd : Nat) (a b : Src) (t : Ety) : Statement (.vbound pd a b t) := fun h _ => by
  change (decide (pd < 8) && a.ok && b.ok && t.isMove) = true at h
  simp only [Bool.and_eq_true, decide_eq_true_eq] at h
  have h_a := mode_lt a.mode
  have r_a : a.reg < 32 := by simp only [Src.ok, decide_eq_true_eq] at h; omega
  have h_b := mode_lt b.mode
  have r_b : b.reg < 32 := by simp only [Src.ok, decide_eq_true_eq] at h; omega
  have ht := ety_lt t
  refine ofQ (op := 0x31) (q := pd) (xa := a.reg) (ma := a.mode.code) (xb := b.reg) (mb := b.mode.code) (fn := (t.code * 2 ^ 3)) (by decide) (by omega) (by omega)
    (by omega) (by omega) (by omega) (by omega) fun w f => ?_
  have e1 : fld w 0 3 = 0 := (f.lowE _ _ (by decide)).trans (show _ = 0 by simp only [fld] <;> omega)
  have e2 : fld w 3 4 = t.code := (f.lowE _ _ (by decide)).trans (show _ = t.code by simp only [fld] <;> omega)
  have ea := f.a
  have eb := f.b
  rw [d_vpred f.opE]; unfold decVpred; rw [e1]
  show (mustBeZero (fld w 24 1) <|
    withEty (fld w 3 4) Ety.isMove fun t => .ok (.vbound (fld w 21 3) (qa w) (qb w) t) : Decoded) = _
  have q1 : pd % 8 = pd := by omega
  have q2 : pd / 8 = 0 := by omega
  simp [decQA, decQD, decQ0, decTokB, decChan, decLease, decPQ, mustBeZero, mustHold, f.qE, f.q2E, f.q23E, f.q3E, f.q24E,
    f.xaE, f.maE, f.xbE, f.mbE, f.z9E, f.z14E, f.z13E, e1, e2, ea, eb, withEty_code h.2, q1, q2]

theorem vcmp (pd va vb pg : Nat) (t : Ety) (cc : Cmp) : Statement (.vcmp pd va vb pg t cc) := fun h _ => by
  change (decide (pd < 8) && decide (va < 16) && decide (vb < 16) && decide (pg < 8) && t.isCompute && (cc ≠ .unord || t.isFloat)) = true at h
  simp only [Bool.and_eq_true, decide_eq_true_eq] at h
  have ht := ety_lt t
  have hc := cmp_lt cc
  refine ofV (op := 0x31) (vd := pd) (va := va) (vb := vb) (pg := pg) (fn := t.code * 2 ^ 6 + cc.code * 2 ^ 3 + 1) (by decide) (by omega) (by omega) (by omega) (by omega) (by omega) fun w f => ?_
  have e1 : fld w 0 3 = 1 := (f.lowE _ _ (by decide)).trans (by simp only [fld]; omega)
  have e2 : fld w 6 4 = t.code := (f.lowE _ _ (by decide)).trans (by simp only [fld]; omega)
  have e3 : fld w 3 3 = cc.code := (f.lowE _ _ (by decide)).trans (by simp only [fld]; omega)
  rw [d_vpred f.opE]; unfold decVpred; rw [e1]
  show (mustBeZero (fld w 24 1) <|
    withEty (fld w 6 4) Ety.isCompute fun t => match Cmp.ofCode (fld w 3 3) with | some cc => mustHold (cc ≠ .unord || t.isFloat) (.ok (.vcmp (fld w 21 3) (fld w 17 4) (fld w 13 4) (fld w 10 3) t cc)) | none => .error .reservedValue : Decoded) = _
  rw [f.d24E, e2, e3, f.d3E, f.vaE, f.vbE, f.pgE, cmp_ofCode, show pd / 8 = 0 by omega, show pd % 8 = pd by omega,
    withEty_code h.1.2]
  simpa [mustBeZero, mustHold, Decidable.imp_iff_not_or] using h.2

theorem pand (pd pa pb : Nat) : Statement (.pand pd pa pb) := fun h _ => by
  change (decide (pd < 8) && decide (pa < 8) && decide (pb < 8)) = true at h
  simp only [Bool.and_eq_true, decide_eq_true_eq] at h
  refine ofV (op := 0x31) (vd := pd) (va := pa) (vb := pb) (pg := 0) (fn := 2) (by decide) (by omega) (by omega) (by omega) (by decide) (by decide) fun w f => ?_
  have e1 : fld w 0 3 = 2 := (f.lowE _ _ (by decide)).trans rfl
  rw [d_vpred f.opE]; unfold decVpred; rw [e1]; show (decPL2 w .pand : Decoded) = _; unfold decPL2
  rw [f.d24E, f.a20E, f.b16E, f.z10E, f.d3E, f.a3E, f.b3E, show pd / 8 = 0 by omega, show pa / 8 = 0 by omega,
    show pb / 8 = 0 by omega, show pd % 8 = pd by omega, show pa % 8 = pa by omega, show pb % 8 = pb by omega]
  rfl

theorem por (pd pa pb : Nat) : Statement (.por pd pa pb) := fun h _ => by
  change (decide (pd < 8) && decide (pa < 8) && decide (pb < 8)) = true at h
  simp only [Bool.and_eq_true, decide_eq_true_eq] at h
  refine ofV (op := 0x31) (vd := pd) (va := pa) (vb := pb) (pg := 0) (fn := 3) (by decide) (by omega) (by omega) (by omega) (by decide) (by decide) fun w f => ?_
  have e1 : fld w 0 3 = 3 := (f.lowE _ _ (by decide)).trans rfl
  rw [d_vpred f.opE]; unfold decVpred; rw [e1]; show (decPL2 w .por : Decoded) = _; unfold decPL2
  rw [f.d24E, f.a20E, f.b16E, f.z10E, f.d3E, f.a3E, f.b3E, show pd / 8 = 0 by omega, show pa / 8 = 0 by omega,
    show pb / 8 = 0 by omega, show pd % 8 = pd by omega, show pa % 8 = pa by omega, show pb % 8 = pb by omega]
  rfl

theorem pnot (pd pa : Nat) : Statement (.pnot pd pa) := fun h _ => by
  change (decide (pd < 8) && decide (pa < 8)) = true at h
  simp only [Bool.and_eq_true, decide_eq_true_eq] at h
  refine ofV (op := 0x31) (vd := pd) (va := pa) (vb := 0) (pg := 0) (fn := 4) (by decide) (by omega) (by omega) (by decide) (by decide) (by decide) fun w f => ?_
  have e1 : fld w 0 3 = 4 := (f.lowE _ _ (by decide)).trans rfl
  rw [d_vpred f.opE]; unfold decVpred; rw [e1]
  show (mustBeZero (fld w 24 1) <| mustBeZero (fld w 20 1) <|
    mustBeZero (fld w 3 14) (.ok (.pnot (fld w 21 3) (fld w 17 3))) : Decoded) = _
  rw [f.d24E, f.a20E, f.z14E, f.d3E, f.a3E, show pd / 8 = 0 by omega, show pa / 8 = 0 by omega, show pd % 8 = pd by omega,
    show pa % 8 = pa by omega]
  rfl

theorem pxor (pd pa pb : Nat) : Statement (.pxor pd pa pb) := fun h _ => by
  change (decide (pd < 8) && decide (pa < 8) && decide (pb < 8)) = true at h
  simp only [Bool.and_eq_true, decide_eq_true_eq] at h
  refine ofV (op := 0x31) (vd := pd) (va := pa) (vb := pb) (pg := 0) (fn := 5) (by decide) (by omega) (by omega) (by omega) (by decide) (by decide) fun w f => ?_
  have e1 : fld w 0 3 = 5 := (f.lowE _ _ (by decide)).trans rfl
  rw [d_vpred f.opE]; unfold decVpred; rw [e1]; show (decPL2 w .pxor : Decoded) = _; unfold decPL2
  rw [f.d24E, f.a20E, f.b16E, f.z10E, f.d3E, f.a3E, f.b3E, show pd / 8 = 0 by omega, show pa / 8 = 0 by omega,
    show pb / 8 = 0 by omega, show pd % 8 = pd by omega, show pa % 8 = pa by omega, show pb % 8 = pb by omega]
  rfl

theorem pcount (ps rd : Nat) (t : Ety) : Statement (.pcount ps rd t) := fun h _ => by
  change (decide (ps < 8) && decide (rd < 32) && t.isMove) = true at h
  simp only [Bool.and_eq_true, decide_eq_true_eq] at h
  have ht := ety_lt t
  refine ofQ (op := 0x31) (q := ps) (xa := rd) (ma := 0) (xb := 0) (mb := 0) (fn := (t.code * 2 ^ 3 + 6)) (by decide) (by omega) (by omega)
    (by omega) (by omega) (by omega) (by omega) fun w f => ?_
  have e1 : fld w 0 3 = 6 := (f.lowE _ _ (by decide)).trans (show _ = 6 by simp only [fld] <;> omega)
  have e2 : fld w 3 4 = t.code := (f.lowE _ _ (by decide)).trans (show _ = t.code by simp only [fld] <;> omega)
  rw [d_vpred f.opE]; unfold decVpred; rw [e1]; show (decPQ w .pcount : Decoded) = _
  have q1 : ps % 8 = ps := by omega
  have q2 : ps / 8 = 0 := by omega
  simp [decQA, decQD, decQ0, decTokB, decChan, decLease, decPQ, mustBeZero, mustHold, f.qE, f.q2E, f.q23E, f.q3E, f.q24E,
    f.xaE, f.maE, f.xbE, f.mbE, f.z9E, f.z14E, f.z13E, e1, e2, withEty_code h.2, q1, q2]

theorem pfirst (ps rd : Nat) (t : Ety) : Statement (.pfirst ps rd t) := fun h _ => by
  change (decide (ps < 8) && decide (rd < 32) && t.isMove) = true at h
  simp only [Bool.and_eq_true, decide_eq_true_eq] at h
  have ht := ety_lt t
  refine ofQ (op := 0x31) (q := ps) (xa := rd) (ma := 0) (xb := 0) (mb := 0) (fn := (t.code * 2 ^ 3 + 7)) (by decide) (by omega) (by omega)
    (by omega) (by omega) (by omega) (by omega) fun w f => ?_
  have e1 : fld w 0 3 = 7 := (f.lowE _ _ (by decide)).trans (show _ = 7 by simp only [fld] <;> omega)
  have e2 : fld w 3 4 = t.code := (f.lowE _ _ (by decide)).trans (show _ = t.code by simp only [fld] <;> omega)
  rw [d_vpred f.opE]; unfold decVpred; rw [e1]; show (decPQ w .pfirst : Decoded) = _
  have q1 : ps % 8 = ps := by omega
  have q2 : ps / 8 = 0 := by omega
  simp [decQA, decQD, decQ0, decTokB, decChan, decLease, decPQ, mustBeZero, mustHold, f.qE, f.q2E, f.q23E, f.q3E, f.q24E,
    f.xaE, f.maE, f.xbE, f.mbE, f.z9E, f.z14E, f.z13E, e1, e2, withEty_code h.2, q1, q2]

theorem vslideup (vd va : Nat) (xs : Src) (pg : Nat) (sz : ESize) (z : Bool) : Statement (.vslideup vd va xs pg sz z) := fun h _ => by
  change (decide (vd < 16) && decide (va < 16) && xs.ok && decide (pg < 8)) = true at h
  simp only [Bool.and_eq_true, decide_eq_true_eq] at h
  have hs := esize_lt sz
  have hz : encBit z 4 = 16 * z.toNat ∧ z.toNat < 2 := by cases z <;> decide
  refine ofX (op := 0x32) (vd := vd) (va := va) (xs := xs) (pg := pg) (fn := sz.code * 2 ^ 5 + encBit z 4 + 0) (by decide) (by omega) (by omega) h.1.2 (by omega) (by omega) fun w f => ?_
  have e1 : fld w 0 4 = 0 := (f.lowE _ _ (by decide)).trans (by simp only [fld]; omega)
  have e2 : fld w 5 2 = sz.code := (f.lowE _ _ (by decide)).trans (by simp only [fld]; omega)
  have e3 : bitAt w 4 = z := bitAt_of ((f.lowE _ _ (by decide)).trans (by simp only [fld]; omega))
  rw [d_vperm f.opE]; unfold decVperm; rw [e1]; show (decVslide w .vslideup : Decoded) = _
  simp [decVslide, mustBeZero, f.vdE, f.vaE, f.xsE, f.pgE, e2, e3, esize_ofCode]

theorem vslidedn (vd va : Nat) (xs : Src) (pg : Nat) (sz : ESize) (z : Bool) : Statement (.vslidedn vd va xs pg sz z) := fun h _ => by
  change (decide (vd < 16) && decide (va < 16) && xs.ok && decide (pg < 8)) = true at h
  simp only [Bool.and_eq_true, decide_eq_true_eq] at h
  have hs := esize_lt sz
  have hz : encBit z 4 = 16 * z.toNat ∧ z.toNat < 2 := by cases z <;> decide
  refine ofX (op := 0x32) (vd := vd) (va := va) (xs := xs) (pg := pg) (fn := sz.code * 2 ^ 5 + encBit z 4 + 1) (by decide) (by omega) (by omega) h.1.2 (by omega) (by omega) fun w f => ?_
  have e1 : fld w 0 4 = 1 := (f.lowE _ _ (by decide)).trans (by simp only [fld]; omega)
  have e2 : fld w 5 2 = sz.code := (f.lowE _ _ (by decide)).trans (by simp only [fld]; omega)
  have e3 : bitAt w 4 = z := bitAt_of ((f.lowE _ _ (by decide)).trans (by simp only [fld]; omega))
  rw [d_vperm f.opE]; unfold decVperm; rw [e1]; show (decVslide w .vslidedn : Decoded) = _
  simp [decVslide, mustBeZero, f.vdE, f.vaE, f.xsE, f.pgE, e2, e3, esize_ofCode]

theorem vperm (vd va vb pg : Nat) (t : Ety) (z : Bool) : Statement (.vperm vd va vb pg t z) := fun h _ => by
  change (decide (vd < 16) && decide (va < 16) && decide (vb < 16) && decide (pg < 8) && t.isInt) = true at h
  simp only [Bool.and_eq_true, decide_eq_true_eq] at h
  have ht := ety_lt t
  have hz : encBit z 5 = 32 * z.toNat ∧ z.toNat < 2 := by cases z <;> decide
  refine ofV (op := 0x32) (vd := vd) (va := va) (vb := vb) (pg := pg) (fn := t.code * 2 ^ 6 + encBit z 5 + 2) (by decide) (by omega) (by omega) (by omega) (by omega) (by omega) fun w f => ?_
  obtain ⟨t1, t2, t3, t4, t5, t7, t8, t9⟩ := t6 (n := 2) f.lowE (by decide)
  rw [d_vperm f.opE]; unfold decVperm; rw [t3]
  show (mustBeZero (fld w 4 1) <| decV w (fld w 6 4) Ety.isInt (bitAt w 5) .vperm : Decoded) = _
  simp [decV, decV1, decVn, mustBeZero, t7, f.vdE, f.vaE, f.vbE, f.pgE, t1, t2, t5, t8, t9, withEty_code h.2]

theorem vcompress (vd va pg : Nat) (t : Ety) (z : Bool) : Statement (.vcompress vd va pg t z) := fun h _ => by
  change (decide (vd < 16) && decide (va < 16) && decide (pg < 8) && t.isMove) = true at h
  simp only [Bool.and_eq_true, decide_eq_true_eq] at h
  have ht := ety_lt t
  have hz : encBit z 5 = 32 * z.toNat ∧ z.toNat < 2 := by cases z <;> decide
  refine ofV (op := 0x32) (vd := vd) (va := va) (vb := 0) (pg := pg) (fn := t.code * 2 ^ 6 + encBit z 5 + 3) (by decide) (by omega) (by omega) (by decide) (by omega) (by omega) fun w f => ?_
  obtain ⟨t1, t2, t3, t4, t5, t7, t8, t9⟩ := t6 (n := 3) f.lowE (by decide)
  rw [d_vperm f.opE]; unfold decVperm; rw [t3]
  show (mustBeZero (fld w 4 1) <| decV1 w (fld w 6 4) Ety.isMove (bitAt w 5) .vcompress : Decoded) = _
  simp [decV, decV1, decVn, mustBeZero, t7, f.vdE, f.vaE, f.vbE, f.pgE, t1, t2, t5, t8, t9, withEty_code h.2]

theorem vsel (vd va vb pg : Nat) (t : Ety) : Statement (.vsel vd va vb pg t) := fun h _ => by
  change (decide (vd < 16) && decide (va < 16) && decide (vb < 16) && decide (pg < 8) && t.isMove) = true at h
  simp only [Bool.and_eq_true, decide_eq_true_eq] at h
  have ht := ety_lt t
  refine ofV (op := 0x32) (vd := vd) (va := va) (vb := vb) (pg := pg) (fn := t.code * 2 ^ 6 + 4) (by decide) (by omega) (by omega) (by omega) (by omega) (by omega) fun w f => ?_
  obtain ⟨t1, t2, t3, t4, t5, t7, t8, t9⟩ := t6' (n := 4) f.lowE (by decide)
  rw [d_vperm f.opE]; unfold decVperm; rw [t3]; show (decVn w Ety.isMove .vsel : Decoded) = _
  simp [decV, decV1, decVn, mustBeZero, t7, f.vdE, f.vaE, f.vbE, f.pgE, t1, t2, t5, t8, t9, withEty_code h.2]

theorem vredadd (vd va vb pg : Nat) (t : Ety) : Statement (.vredadd vd va vb pg t) := fun h _ => by
  change (decide (vd < 16) && decide (va < 16) && decide (vb < 16) && decide (pg < 8) && t.isCompute) = true at h
  simp only [Bool.and_eq_true, decide_eq_true_eq] at h
  have ht := ety_lt t
  refine ofV (op := 0x32) (vd := vd) (va := va) (vb := vb) (pg := pg) (fn := t.code * 2 ^ 6 + 5) (by decide) (by omega) (by omega) (by omega) (by omega) (by omega) fun w f => ?_
  obtain ⟨t1, t2, t3, t4, t5, t7, t8, t9⟩ := t6' (n := 5) f.lowE (by decide)
  rw [d_vperm f.opE]; unfold decVperm; rw [t3]; show (decVn w Ety.isCompute .vredadd : Decoded) = _
  simp [decV, decV1, decVn, mustBeZero, t7, f.vdE, f.vaE, f.vbE, f.pgE, t1, t2, t5, t8, t9, withEty_code h.2]

theorem vredmax (vd va vb pg : Nat) (t : Ety) : Statement (.vredmax vd va vb pg t) := fun h _ => by
  change (decide (vd < 16) && decide (va < 16) && decide (vb < 16) && decide (pg < 8) && t.isCompute) = true at h
  simp only [Bool.and_eq_true, decide_eq_true_eq] at h
  have ht := ety_lt t
  refine ofV (op := 0x32) (vd := vd) (va := va) (vb := vb) (pg := pg) (fn := t.code * 2 ^ 6 + 6) (by decide) (by omega) (by omega) (by omega) (by omega) (by omega) fun w f => ?_
  obtain ⟨t1, t2, t3, t4, t5, t7, t8, t9⟩ := t6' (n := 6) f.lowE (by decide)
  rw [d_vperm f.opE]; unfold decVperm; rw [t3]; show (decVn w Ety.isCompute .vredmax : Decoded) = _
  simp [decV, decV1, decVn, mustBeZero, t7, f.vdE, f.vaE, f.vbE, f.pgE, t1, t2, t5, t8, t9, withEty_code h.2]

theorem vredmin (vd va vb pg : Nat) (t : Ety) : Statement (.vredmin vd va vb pg t) := fun h _ => by
  change (decide (vd < 16) && decide (va < 16) && decide (vb < 16) && decide (pg < 8) && t.isCompute) = true at h
  simp only [Bool.and_eq_true, decide_eq_true_eq] at h
  have ht := ety_lt t
  refine ofV (op := 0x32) (vd := vd) (va := va) (vb := vb) (pg := pg) (fn := t.code * 2 ^ 6 + 7) (by decide) (by omega) (by omega) (by omega) (by omega) (by omega) fun w f => ?_
  obtain ⟨t1, t2, t3, t4, t5, t7, t8, t9⟩ := t6' (n := 7) f.lowE (by decide)
  rw [d_vperm f.opE]; unfold decVperm; rw [t3]; show (decVn w Ety.isCompute .vredmin : Decoded) = _
  simp [decV, decV1, decVn, mustBeZero, t7, f.vdE, f.vaE, f.vbE, f.pgE, t1, t2, t5, t8, t9, withEty_code h.2]

theorem vfredadd (vd va vb pg : Nat) (t : Ety) : Statement (.vfredadd vd va vb pg t) := fun h _ => by
  change (decide (vd < 16) && decide (va < 16) && decide (vb < 16) && decide (pg < 8) && t.isFloat) = true at h
  simp only [Bool.and_eq_true, decide_eq_true_eq] at h
  have ht := ety_lt t
  refine ofV (op := 0x32) (vd := vd) (va := va) (vb := vb) (pg := pg) (fn := t.code * 2 ^ 6 + 8) (by decide) (by omega) (by omega) (by omega) (by omega) (by omega) fun w f => ?_
  obtain ⟨t1, t2, t3, t4, t5, t7, t8, t9⟩ := t6' (n := 8) f.lowE (by decide)
  rw [d_vperm f.opE]; unfold decVperm; rw [t3]; show (decVn w Ety.isFloat .vfredadd : Decoded) = _
  simp [decV, decV1, decVn, mustBeZero, t7, f.vdE, f.vaE, f.vbE, f.pgE, t1, t2, t5, t8, t9, withEty_code h.2]

theorem vext (va rd : Nat) (b : Src) (sz : ESize) : Statement (.vext va rd b sz) := fun h _ => by
  change (decide (va < 16) && decide (rd < 32) && b.ok) = true at h
  simp only [Bool.and_eq_true, decide_eq_true_eq] at h
  have h_b := mode_lt b.mode
  have r_b : b.reg < 32 := by simp only [Src.ok, decide_eq_true_eq] at h; omega
  have hs := esize_lt sz
  refine ofQ (op := 0x32) (q := va) (xa := rd) (ma := 0) (xb := b.reg) (mb := b.mode.code) (fn := (sz.code * 2 ^ 5 + 9)) (by decide) (by omega) (by omega)
    (by omega) (by omega) (by omega) (by omega) fun w f => ?_
  have e1 : fld w 0 4 = 9 := (f.lowE _ _ (by decide)).trans (show _ = 9 by simp only [fld] <;> omega)
  have e2 : fld w 5 2 = sz.code := (f.lowE _ _ (by decide)).trans (show _ = sz.code by simp only [fld] <;> omega)
  have e3 : fld w 4 1 = 0 := (f.lowE _ _ (by decide)).trans (show _ = 0 by simp only [fld] <;> omega)
  have eb := f.b
  rw [d_vperm f.opE]; unfold decVperm; rw [e1]
  show (mustBeZero (fld w 4 1) <|
    mustBeZero (fld w 9 2) (.ok (.vext (fld w 21 4) (fld w 16 5) (qb w) (ESize.ofCode (fld w 5 2)))) : Decoded) = _
  simp [decQA, decQD, decQ0, decTokB, decChan, decLease, decPQ, mustBeZero, mustHold, f.qE, f.q2E, f.q23E, f.q3E, f.q24E,
    f.xaE, f.maE, f.xbE, f.mbE, f.z9E, f.z14E, f.z13E, e1, e2, eb, e3, esize_ofCode]

theorem vins (vd : Nat) (a b : Src) (sz : ESize) : Statement (.vins vd a b sz) := fun h _ => by
  change (decide (vd < 16) && a.ok && b.ok) = true at h
  simp only [Bool.and_eq_true, decide_eq_true_eq] at h
  have h_a := mode_lt a.mode
  have r_a : a.reg < 32 := by simp only [Src.ok, decide_eq_true_eq] at h; omega
  have h_b := mode_lt b.mode
  have r_b : b.reg < 32 := by simp only [Src.ok, decide_eq_true_eq] at h; omega
  have hs := esize_lt sz
  refine ofQ (op := 0x32) (q := vd) (xa := a.reg) (ma := a.mode.code) (xb := b.reg) (mb := b.mode.code) (fn := (sz.code * 2 ^ 5 + 10)) (by decide) (by omega) (by omega)
    (by omega) (by omega) (by omega) (by omega) fun w f => ?_
  have e1 : fld w 0 4 = 10 := (f.lowE _ _ (by decide)).trans (show _ = 10 by simp only [fld] <;> omega)
  have e2 : fld w 5 2 = sz.code := (f.lowE _ _ (by decide)).trans (show _ = sz.code by simp only [fld] <;> omega)
  have e3 : fld w 4 1 = 0 := (f.lowE _ _ (by decide)).trans (show _ = 0 by simp only [fld] <;> omega)
  have ea := f.a
  have eb := f.b
  rw [d_vperm f.opE]; unfold decVperm; rw [e1]
  show (mustBeZero (fld w 4 1) (.ok (.vins (fld w 21 4) (qa w) (qb w) (ESize.ofCode (fld w 5 2)))) : Decoded) = _
  simp [decQA, decQD, decQ0, decTokB, decChan, decLease, decPQ, mustBeZero, mustHold, f.qE, f.q2E, f.q23E, f.q3E, f.q24E,
    f.xaE, f.maE, f.xbE, f.mbE, f.z9E, f.z14E, f.z13E, e1, e2, ea, eb, e3, esize_ofCode]

theorem vrcp (vd va pg : Nat) (t : Ety) (z : Bool) : Statement (.vrcp vd va pg t z) := fun h _ => by
  change (decide (vd < 16) && decide (va < 16) && decide (pg < 8) && t.isFloat) = true at h
  simp only [Bool.and_eq_true, decide_eq_true_eq] at h
  have ht := ety_lt t
  have hz : encBit z 5 = 32 * z.toNat ∧ z.toNat < 2 := by cases z <;> decide
  refine ofV (op := 0x33) (vd := vd) (va := va) (vb := 0) (pg := pg) (fn := t.code * 2 ^ 6 + encBit z 5 + 0) (by decide) (by omega) (by omega) (by decide) (by omega) (by omega) fun w f => ?_
  obtain ⟨t1, t2, t3, t4, t5, t7, t8, t9⟩ := t6 (n := 0) f.lowE (by decide)
  rw [d_vsfu f.opE]; unfold decVsfu; rw [t4]; show mustBeZero (fld w 3 2) (decV1 w (fld w 6 4) Ety.isFloat (bitAt w 5) .vrcp) = _
  simp [decV, decV1, decVn, mustBeZero, t7, f.vdE, f.vaE, f.vbE, f.pgE, t1, t2, t5, t8, t9, withEty_code h.2]

theorem vrsq (vd va pg : Nat) (t : Ety) (z : Bool) : Statement (.vrsq vd va pg t z) := fun h _ => by
  change (decide (vd < 16) && decide (va < 16) && decide (pg < 8) && t.isFloat) = true at h
  simp only [Bool.and_eq_true, decide_eq_true_eq] at h
  have ht := ety_lt t
  have hz : encBit z 5 = 32 * z.toNat ∧ z.toNat < 2 := by cases z <;> decide
  refine ofV (op := 0x33) (vd := vd) (va := va) (vb := 0) (pg := pg) (fn := t.code * 2 ^ 6 + encBit z 5 + 1) (by decide) (by omega) (by omega) (by decide) (by omega) (by omega) fun w f => ?_
  obtain ⟨t1, t2, t3, t4, t5, t7, t8, t9⟩ := t6 (n := 1) f.lowE (by decide)
  rw [d_vsfu f.opE]; unfold decVsfu; rw [t4]; show mustBeZero (fld w 3 2) (decV1 w (fld w 6 4) Ety.isFloat (bitAt w 5) .vrsq) = _
  simp [decV, decV1, decVn, mustBeZero, t7, f.vdE, f.vaE, f.vbE, f.pgE, t1, t2, t5, t8, t9, withEty_code h.2]

theorem vexp2 (vd va pg : Nat) (t : Ety) (z : Bool) : Statement (.vexp2 vd va pg t z) := fun h _ => by
  change (decide (vd < 16) && decide (va < 16) && decide (pg < 8) && t.isFloat) = true at h
  simp only [Bool.and_eq_true, decide_eq_true_eq] at h
  have ht := ety_lt t
  have hz : encBit z 5 = 32 * z.toNat ∧ z.toNat < 2 := by cases z <;> decide
  refine ofV (op := 0x33) (vd := vd) (va := va) (vb := 0) (pg := pg) (fn := t.code * 2 ^ 6 + encBit z 5 + 2) (by decide) (by omega) (by omega) (by decide) (by omega) (by omega) fun w f => ?_
  obtain ⟨t1, t2, t3, t4, t5, t7, t8, t9⟩ := t6 (n := 2) f.lowE (by decide)
  rw [d_vsfu f.opE]; unfold decVsfu; rw [t4]; show mustBeZero (fld w 3 2) (decV1 w (fld w 6 4) Ety.isFloat (bitAt w 5) .vexp2) = _
  simp [decV, decV1, decVn, mustBeZero, t7, f.vdE, f.vaE, f.vbE, f.pgE, t1, t2, t5, t8, t9, withEty_code h.2]

theorem vlog2 (vd va pg : Nat) (t : Ety) (z : Bool) : Statement (.vlog2 vd va pg t z) := fun h _ => by
  change (decide (vd < 16) && decide (va < 16) && decide (pg < 8) && t.isFloat) = true at h
  simp only [Bool.and_eq_true, decide_eq_true_eq] at h
  have ht := ety_lt t
  have hz : encBit z 5 = 32 * z.toNat ∧ z.toNat < 2 := by cases z <;> decide
  refine ofV (op := 0x33) (vd := vd) (va := va) (vb := 0) (pg := pg) (fn := t.code * 2 ^ 6 + encBit z 5 + 3) (by decide) (by omega) (by omega) (by decide) (by omega) (by omega) fun w f => ?_
  obtain ⟨t1, t2, t3, t4, t5, t7, t8, t9⟩ := t6 (n := 3) f.lowE (by decide)
  rw [d_vsfu f.opE]; unfold decVsfu; rw [t4]; show mustBeZero (fld w 3 2) (decV1 w (fld w 6 4) Ety.isFloat (bitAt w 5) .vlog2) = _
  simp [decV, decV1, decVn, mustBeZero, t7, f.vdE, f.vaE, f.vbE, f.pgE, t1, t2, t5, t8, t9, withEty_code h.2]

theorem vtanh (vd va pg : Nat) (t : Ety) (z : Bool) : Statement (.vtanh vd va pg t z) := fun h _ => by
  change (decide (vd < 16) && decide (va < 16) && decide (pg < 8) && t.isFloat) = true at h
  simp only [Bool.and_eq_true, decide_eq_true_eq] at h
  have ht := ety_lt t
  have hz : encBit z 5 = 32 * z.toNat ∧ z.toNat < 2 := by cases z <;> decide
  refine ofV (op := 0x33) (vd := vd) (va := va) (vb := 0) (pg := pg) (fn := t.code * 2 ^ 6 + encBit z 5 + 4) (by decide) (by omega) (by omega) (by decide) (by omega) (by omega) fun w f => ?_
  obtain ⟨t1, t2, t3, t4, t5, t7, t8, t9⟩ := t6 (n := 4) f.lowE (by decide)
  rw [d_vsfu f.opE]; unfold decVsfu; rw [t4]; show mustBeZero (fld w 3 2) (decV1 w (fld w 6 4) Ety.isFloat (bitAt w 5) .vtanh) = _
  simp [decV, decV1, decVn, mustBeZero, t7, f.vdE, f.vaE, f.vbE, f.pgE, t1, t2, t5, t8, t9, withEty_code h.2]

theorem vwidth (rd : Nat) : Statement (.vwidth rd) := fun h _ => by
  change (decide (rd < 32)) = true at h
  simp only [Bool.and_eq_true, decide_eq_true_eq] at h
  refine ofQ (op := 0x34) (q := 0) (xa := rd) (ma := 0) (xb := 0) (mb := 0) (fn := 0) (by decide) (by omega) (by omega)
    (by omega) (by omega) (by omega) (by omega) fun w f => ?_
  have e1 : fld w 0 3 = 0 := (f.lowE _ _ (by decide)).trans (show _ = 0 by simp only [fld] <;> omega)
  have e2 := trivial
  rw [d_vspec f.opE]; unfold decVspec; rw [e1]
  show (mustBeZero (fld w 21 4) <| mustBeZero (fld w 3 13) (.ok (.vwidth (fld w 16 5))) : Decoded) = _
  simp [decQA, decQD, decQ0, decTokB, decChan, decLease, decPQ, mustBeZero, mustHold, f.qE, f.q2E, f.q23E, f.q3E, f.q24E,
    f.xaE, f.maE, f.xbE, f.mbE, f.z9E, f.z14E, f.z13E, e1, e2]

theorem vtopk (vd va pg : Nat) (t : Ety) : Statement (.vtopk vd va pg t) := fun h _ => by
  change (decide (vd < 16) && decide (va < 16) && decide (pg < 8) && t.isKeyed) = true at h
  simp only [Bool.and_eq_true, decide_eq_true_eq] at h
  have ht := ety_lt t
  refine ofV (op := 0x34) (vd := vd) (va := va) (vb := 0) (pg := pg) (fn := t.code * 2 ^ 6 + 1) (by decide) (by omega) (by omega) (by decide) (by omega) (by omega) fun w f => ?_
  obtain ⟨t1, t2, t3, t4, t5, t7, t8, t9⟩ := t6' (n := 1) f.lowE (by decide)
  rw [d_vspec f.opE]; unfold decVspec; rw [t4]
  show (mustBeZero (fld w 3 3) <| decV1 w (fld w 6 4) Ety.isKeyed false fun vd va pg t _ => .vtopk vd va pg t : Decoded) = _
  simp [decV, decV1, decVn, mustBeZero, t7, f.vdE, f.vaE, f.vbE, f.pgE, t1, t2, t5, t8, t9, withEty_code h.2]

theorem vmaxx (vd va vb : Nat) (t : Ety) : Statement (.vmaxx vd va vb t) := fun h _ => by
  change (decide (vd < 16) && decide (va < 16) && decide (vb < 16) && t.isKeyed) = true at h
  simp only [Bool.and_eq_true, decide_eq_true_eq] at h
  have ht := ety_lt t
  refine ofV (op := 0x34) (vd := vd) (va := va) (vb := vb) (pg := 0) (fn := t.code * 2 ^ 6 + 2) (by decide) (by omega) (by omega) (by omega) (by decide) (by omega) fun w f => ?_
  obtain ⟨t1, t2, t3, t4, t5, t7, t8, t9⟩ := t6' (n := 2) f.lowE (by decide)
  rw [d_vspec f.opE]; unfold decVspec; rw [t4]
  show (mustBeZero (fld w 3 3) <| mustBeZero (fld w 10 3) <|
    decV w (fld w 6 4) Ety.isKeyed false fun vd va vb _ t _ => .vmaxx vd va vb t : Decoded) = _
  simp [decV, decV1, decVn, mustBeZero, t7, f.vdE, f.vaE, f.vbE, f.pgE, t1, t2, t5, t8, t9, withEty_code h.2]

theorem vquant (vd va vb pg : Nat) (t : Ety) : Statement (.vquant vd va vb pg t) := fun h _ => by
  change (decide (vd < 16) && decide (va < 16) && decide (vb < 16) && decide (pg < 8) && (t = .bsi8 || t = .bpn)) = true at h
  simp only [Bool.and_eq_true, decide_eq_true_eq] at h
  have ht := ety_lt t
  refine ofV (op := 0x34) (vd := vd) (va := va) (vb := vb) (pg := pg) (fn := t.code * 2 ^ 6 + 3) (by decide) (by omega) (by omega) (by omega) (by omega) (by omega) fun w f => ?_
  obtain ⟨t1, t2, t3, t4, t5, t7, t8, t9⟩ := t6' (n := 3) f.lowE (by decide)
  rw [d_vspec f.opE]; unfold decVspec; rw [t4]
  show (mustBeZero (fld w 3 3) <|
    decV w (fld w 6 4) (fun t => t = .bsi8 || t = .bpn) false fun vd va vb pg t _ => .vquant vd va vb pg t : Decoded) = _
  simp [decV, decV1, decVn, mustBeZero, t7, f.vdE, f.vaE, f.vbE, f.pgE, t1, t2, t5, t8, t9,
    withEty_code (ok := fun t => t = .bsi8 || t = .bpn) (by simpa using h.2)]

theorem vhist (vd va pg : Nat) (t : Ety) : Statement (.vhist vd va pg t) := fun h _ => by
  change (decide (vd < 16) && decide (va < 16) && decide (pg < 8) && (t = .n8 || t = .n16 || t = .n32)) = true at h
  simp only [Bool.and_eq_true, decide_eq_true_eq] at h
  have ht := ety_lt t
  refine ofV (op := 0x34) (vd := vd) (va := va) (vb := 0) (pg := pg) (fn := t.code * 2 ^ 6 + 4) (by decide) (by omega) (by omega) (by decide) (by omega) (by omega) fun w f => ?_
  obtain ⟨t1, t2, t3, t4, t5, t7, t8, t9⟩ := t6' (n := 4) f.lowE (by decide)
  rw [d_vspec f.opE]; unfold decVspec; rw [t4]
  show (mustBeZero (fld w 3 3) <|
    decV1 w (fld w 6 4) (fun t => t = .n8 || t = .n16 || t = .n32) false fun vd va pg t _ => .vhist vd va pg t : Decoded) = _
  simp [decV, decV1, decVn, mustBeZero, t7, f.vdE, f.vaE, f.vbE, f.pgE, t1, t2, t5, t8, t9,
    withEty_code (ok := fun t => t = .n8 || t = .n16 || t = .n32) (by simpa using h.2)]

theorem crd (rd : Nat) (a : Src) : Statement (.crd rd a) := fun h _ =>
  rtR1 .crd h (by decide) (by decide) fun _ e f => (d_sys e).trans (by unfold decSys; rw [f]; rfl)

theorem cwr (a b : Src) : Statement (.cwr a b) := fun h _ =>
  rtRS2 .cwr h (by decide) fun _ e f => (d_sys e).trans (by unfold decSys; rw [f]; rfl)

theorem trap (rd : Nat) (a b : Src) : Statement (.trap rd a b) := fun h _ =>
  rtR2 .trap h (by decide) (by decide) fun _ e f => (d_sys e).trans (by unfold decSys; rw [f]; rfl)

theorem eret (a : Src) : Statement (.eret a) := fun h _ =>
  rtRS1 .eret h (by decide) fun _ e f => (d_sys e).trans (by unfold decSys; rw [f]; rfl)

theorem slotld (rd : Nat) (a : Src) : Statement (.slotld rd a) := fun h _ =>
  rtR1 .slotld h (by decide) (by decide) fun _ e f => (d_sys e).trans (by unfold decSys; rw [f]; rfl)

theorem slotst (a b : Src) : Statement (.slotst a b) := fun h _ =>
  rtRS2 .slotst h (by decide) fun _ e f => (d_sys e).trans (by unfold decSys; rw [f]; rfl)

theorem park (a : Src) : Statement (.park a) := fun h _ =>
  rtRS1 .park h (by decide) fun _ e f => (d_sys e).trans (by unfold decSys; rw [f]; rfl)

theorem unpark (a : Src) : Statement (.unpark a) := fun h _ =>
  rtRS1 .unpark h (by decide) fun _ e f => (d_sys e).trans (by unfold decSys; rw [f]; rfl)

theorem kill (a : Src) : Statement (.kill a) := fun h _ =>
  rtRS1 .kill h (by decide) fun _ e f => (d_sys e).trans (by unfold decSys; rw [f]; rfl)

theorem skipw (n : BitVec 20) : Statement (.skipw n) := fun _ _ =>
  rtU (.skipw n) (by decide) (by decide) fun w e r x => by unfold decode32; rw [e]; show (mustBeZero (fld w 20 5) (.ok (.skipw (BitVec.ofNat 20 (fld w 0 20)))) : Decoded) = _; rw [r, x]; rfl

theorem cMov (a b : Nat) : Statement (.cMov a b) := fun h _ => by
  change (decide (a < 16) && decide (b < 16)) = true at h
  simp only [Bool.and_eq_true, decide_eq_true_eq] at h
  have f := hf (o := 0) (c := 0) (by decide) h.1 h.2 (by decide)
  rw [Nat.zero_mul, Nat.zero_add] at f
  show decode16 (a * 2 ^ 7 + b * 2 ^ 3 + 0) = _
  generalize a * 2 ^ 7 + b * 2 ^ 3 + 0 = w at f ⊢
  unfold decode16; rw [f.1]
  show (match fld w 0 3 with | 0 => .ok (.cMov (fld w 7 4) (fld w 3 4)) | 1 => .ok (.cAdd (fld w 7 4) (fld w 3 4)) | 2 => .ok (.cSub (fld w 7 4) (fld w 3 4)) | 3 => .ok (.cAnd (fld w 7 4) (fld w 3 4)) | 4 => .ok (.cOr (fld w 7 4) (fld w 3 4)) | 5 => .ok (.cXor (fld w 7 4) (fld w 3 4)) | 6 => .ok (.cSll (fld w 7 4) (fld w 3 4)) | _ => .ok (.cSrl (fld w 7 4) (fld w 3 4)) : Decoded) = _
  rw [f.2.2.2]; show (.ok (.cMov (fld w 7 4) (fld w 3 4)) : Decoded) = _
  rw [f.2.1, f.2.2.1]

theorem cAdd (a b : Nat) : Statement (.cAdd a b) := fun h _ => by
  change (decide (a < 16) && decide (b < 16)) = true at h
  simp only [Bool.and_eq_true, decide_eq_true_eq] at h
  have f := hf (o := 0) (c := 1) (by decide) h.1 h.2 (by decide)
  rw [Nat.zero_mul, Nat.zero_add] at f
  show decode16 (a * 2 ^ 7 + b * 2 ^ 3 + 1) = _
  generalize a * 2 ^ 7 + b * 2 ^ 3 + 1 = w at f ⊢
  unfold decode16; rw [f.1]
  show (match fld w 0 3 with | 0 => .ok (.cMov (fld w 7 4) (fld w 3 4)) | 1 => .ok (.cAdd (fld w 7 4) (fld w 3 4)) | 2 => .ok (.cSub (fld w 7 4) (fld w 3 4)) | 3 => .ok (.cAnd (fld w 7 4) (fld w 3 4)) | 4 => .ok (.cOr (fld w 7 4) (fld w 3 4)) | 5 => .ok (.cXor (fld w 7 4) (fld w 3 4)) | 6 => .ok (.cSll (fld w 7 4) (fld w 3 4)) | _ => .ok (.cSrl (fld w 7 4) (fld w 3 4)) : Decoded) = _
  rw [f.2.2.2]; show (.ok (.cAdd (fld w 7 4) (fld w 3 4)) : Decoded) = _
  rw [f.2.1, f.2.2.1]

theorem cSub (a b : Nat) : Statement (.cSub a b) := fun h _ => by
  change (decide (a < 16) && decide (b < 16)) = true at h
  simp only [Bool.and_eq_true, decide_eq_true_eq] at h
  have f := hf (o := 0) (c := 2) (by decide) h.1 h.2 (by decide)
  rw [Nat.zero_mul, Nat.zero_add] at f
  show decode16 (a * 2 ^ 7 + b * 2 ^ 3 + 2) = _
  generalize a * 2 ^ 7 + b * 2 ^ 3 + 2 = w at f ⊢
  unfold decode16; rw [f.1]
  show (match fld w 0 3 with | 0 => .ok (.cMov (fld w 7 4) (fld w 3 4)) | 1 => .ok (.cAdd (fld w 7 4) (fld w 3 4)) | 2 => .ok (.cSub (fld w 7 4) (fld w 3 4)) | 3 => .ok (.cAnd (fld w 7 4) (fld w 3 4)) | 4 => .ok (.cOr (fld w 7 4) (fld w 3 4)) | 5 => .ok (.cXor (fld w 7 4) (fld w 3 4)) | 6 => .ok (.cSll (fld w 7 4) (fld w 3 4)) | _ => .ok (.cSrl (fld w 7 4) (fld w 3 4)) : Decoded) = _
  rw [f.2.2.2]; show (.ok (.cSub (fld w 7 4) (fld w 3 4)) : Decoded) = _
  rw [f.2.1, f.2.2.1]

theorem cAnd (a b : Nat) : Statement (.cAnd a b) := fun h _ => by
  change (decide (a < 16) && decide (b < 16)) = true at h
  simp only [Bool.and_eq_true, decide_eq_true_eq] at h
  have f := hf (o := 0) (c := 3) (by decide) h.1 h.2 (by decide)
  rw [Nat.zero_mul, Nat.zero_add] at f
  show decode16 (a * 2 ^ 7 + b * 2 ^ 3 + 3) = _
  generalize a * 2 ^ 7 + b * 2 ^ 3 + 3 = w at f ⊢
  unfold decode16; rw [f.1]
  show (match fld w 0 3 with | 0 => .ok (.cMov (fld w 7 4) (fld w 3 4)) | 1 => .ok (.cAdd (fld w 7 4) (fld w 3 4)) | 2 => .ok (.cSub (fld w 7 4) (fld w 3 4)) | 3 => .ok (.cAnd (fld w 7 4) (fld w 3 4)) | 4 => .ok (.cOr (fld w 7 4) (fld w 3 4)) | 5 => .ok (.cXor (fld w 7 4) (fld w 3 4)) | 6 => .ok (.cSll (fld w 7 4) (fld w 3 4)) | _ => .ok (.cSrl (fld w 7 4) (fld w 3 4)) : Decoded) = _
  rw [f.2.2.2]; show (.ok (.cAnd (fld w 7 4) (fld w 3 4)) : Decoded) = _
  rw [f.2.1, f.2.2.1]

theorem cOr (a b : Nat) : Statement (.cOr a b) := fun h _ => by
  change (decide (a < 16) && decide (b < 16)) = true at h
  simp only [Bool.and_eq_true, decide_eq_true_eq] at h
  have f := hf (o := 0) (c := 4) (by decide) h.1 h.2 (by decide)
  rw [Nat.zero_mul, Nat.zero_add] at f
  show decode16 (a * 2 ^ 7 + b * 2 ^ 3 + 4) = _
  generalize a * 2 ^ 7 + b * 2 ^ 3 + 4 = w at f ⊢
  unfold decode16; rw [f.1]
  show (match fld w 0 3 with | 0 => .ok (.cMov (fld w 7 4) (fld w 3 4)) | 1 => .ok (.cAdd (fld w 7 4) (fld w 3 4)) | 2 => .ok (.cSub (fld w 7 4) (fld w 3 4)) | 3 => .ok (.cAnd (fld w 7 4) (fld w 3 4)) | 4 => .ok (.cOr (fld w 7 4) (fld w 3 4)) | 5 => .ok (.cXor (fld w 7 4) (fld w 3 4)) | 6 => .ok (.cSll (fld w 7 4) (fld w 3 4)) | _ => .ok (.cSrl (fld w 7 4) (fld w 3 4)) : Decoded) = _
  rw [f.2.2.2]; show (.ok (.cOr (fld w 7 4) (fld w 3 4)) : Decoded) = _
  rw [f.2.1, f.2.2.1]

theorem cXor (a b : Nat) : Statement (.cXor a b) := fun h _ => by
  change (decide (a < 16) && decide (b < 16)) = true at h
  simp only [Bool.and_eq_true, decide_eq_true_eq] at h
  have f := hf (o := 0) (c := 5) (by decide) h.1 h.2 (by decide)
  rw [Nat.zero_mul, Nat.zero_add] at f
  show decode16 (a * 2 ^ 7 + b * 2 ^ 3 + 5) = _
  generalize a * 2 ^ 7 + b * 2 ^ 3 + 5 = w at f ⊢
  unfold decode16; rw [f.1]
  show (match fld w 0 3 with | 0 => .ok (.cMov (fld w 7 4) (fld w 3 4)) | 1 => .ok (.cAdd (fld w 7 4) (fld w 3 4)) | 2 => .ok (.cSub (fld w 7 4) (fld w 3 4)) | 3 => .ok (.cAnd (fld w 7 4) (fld w 3 4)) | 4 => .ok (.cOr (fld w 7 4) (fld w 3 4)) | 5 => .ok (.cXor (fld w 7 4) (fld w 3 4)) | 6 => .ok (.cSll (fld w 7 4) (fld w 3 4)) | _ => .ok (.cSrl (fld w 7 4) (fld w 3 4)) : Decoded) = _
  rw [f.2.2.2]; show (.ok (.cXor (fld w 7 4) (fld w 3 4)) : Decoded) = _
  rw [f.2.1, f.2.2.1]

theorem cSll (a b : Nat) : Statement (.cSll a b) := fun h _ => by
  change (decide (a < 16) && decide (b < 16)) = true at h
  simp only [Bool.and_eq_true, decide_eq_true_eq] at h
  have f := hf (o := 0) (c := 6) (by decide) h.1 h.2 (by decide)
  rw [Nat.zero_mul, Nat.zero_add] at f
  show decode16 (a * 2 ^ 7 + b * 2 ^ 3 + 6) = _
  generalize a * 2 ^ 7 + b * 2 ^ 3 + 6 = w at f ⊢
  unfold decode16; rw [f.1]
  show (match fld w 0 3 with | 0 => .ok (.cMov (fld w 7 4) (fld w 3 4)) | 1 => .ok (.cAdd (fld w 7 4) (fld w 3 4)) | 2 => .ok (.cSub (fld w 7 4) (fld w 3 4)) | 3 => .ok (.cAnd (fld w 7 4) (fld w 3 4)) | 4 => .ok (.cOr (fld w 7 4) (fld w 3 4)) | 5 => .ok (.cXor (fld w 7 4) (fld w 3 4)) | 6 => .ok (.cSll (fld w 7 4) (fld w 3 4)) | _ => .ok (.cSrl (fld w 7 4) (fld w 3 4)) : Decoded) = _
  rw [f.2.2.2]; show (.ok (.cSll (fld w 7 4) (fld w 3 4)) : Decoded) = _
  rw [f.2.1, f.2.2.1]

theorem cSrl (a b : Nat) : Statement (.cSrl a b) := fun h _ => by
  change (decide (a < 16) && decide (b < 16)) = true at h
  simp only [Bool.and_eq_true, decide_eq_true_eq] at h
  have f := hf (o := 0) (c := 7) (by decide) h.1 h.2 (by decide)
  rw [Nat.zero_mul, Nat.zero_add] at f
  show decode16 (a * 2 ^ 7 + b * 2 ^ 3 + 7) = _
  generalize a * 2 ^ 7 + b * 2 ^ 3 + 7 = w at f ⊢
  unfold decode16; rw [f.1]
  show (match fld w 0 3 with | 0 => .ok (.cMov (fld w 7 4) (fld w 3 4)) | 1 => .ok (.cAdd (fld w 7 4) (fld w 3 4)) | 2 => .ok (.cSub (fld w 7 4) (fld w 3 4)) | 3 => .ok (.cAnd (fld w 7 4) (fld w 3 4)) | 4 => .ok (.cOr (fld w 7 4) (fld w 3 4)) | 5 => .ok (.cXor (fld w 7 4) (fld w 3 4)) | 6 => .ok (.cSll (fld w 7 4) (fld w 3 4)) | _ => .ok (.cSrl (fld w 7 4) (fld w 3 4)) : Decoded) = _
  rw [f.2.2.2]; show (.ok (.cSrl (fld w 7 4) (fld w 3 4)) : Decoded) = _
  rw [f.2.1, f.2.2.1]

theorem cAddi (a : Nat) (imm : BitVec 7) : Statement (.cAddi a imm) := fun h _ => by
  have f := hf7 (o := 1) (by decide) (of_decide_eq_true h) imm.isLt
  show decode16 (1 * 2 ^ 11 + a * 2 ^ 7 + imm.toNat) = _
  generalize 1 * 2 ^ 11 + a * 2 ^ 7 + imm.toNat = w at f ⊢
  unfold decode16; rw [f.1]
  show (.ok (.cAddi (fld w 7 4) (BitVec.ofNat 7 (fld w 0 7))) : Decoded) = _
  rw [f.2.1, f.2.2, imm_of]

theorem cLi (a : Nat) (imm : BitVec 7) : Statement (.cLi a imm) := fun h _ => by
  have f := hf7 (o := 2) (by decide) (of_decide_eq_true h) imm.isLt
  show decode16 (2 * 2 ^ 11 + a * 2 ^ 7 + imm.toNat) = _
  generalize 2 * 2 ^ 11 + a * 2 ^ 7 + imm.toNat = w at f ⊢
  unfold decode16; rw [f.1]; show (.ok (.cLi (fld w 7 4) (BitVec.ofNat 7 (fld w 0 7))) : Decoded) = _; rw [f.2.1, f.2.2, imm_of]

theorem cLd (a b : Nat) (c : BitVec 3) : Statement (.cLd a b c) := fun h _ => by
  change (decide (a < 16) && decide (b < 16)) = true at h
  simp only [Bool.and_eq_true, decide_eq_true_eq] at h
  have f := hf (o := 3) (by decide) h.1 h.2 c.isLt
  show decode16 (3 * 2 ^ 11 + a * 2 ^ 7 + b * 2 ^ 3 + c.toNat) = _
  generalize 3 * 2 ^ 11 + a * 2 ^ 7 + b * 2 ^ 3 + c.toNat = w at f ⊢
  unfold decode16; rw [f.1]
  show (.ok (.cLd (fld w 7 4) (fld w 3 4) (BitVec.ofNat 3 (fld w 0 3))) : Decoded) = _
  rw [f.2.1, f.2.2.1, f.2.2.2, imm_of]

theorem cSt (a b : Nat) (c : BitVec 3) : Statement (.cSt a b c) := fun h _ => by
  change (decide (a < 16) && decide (b < 16)) = true at h
  simp only [Bool.and_eq_true, decide_eq_true_eq] at h
  have f := hf (o := 4) (by decide) h.1 h.2 c.isLt
  show decode16 (4 * 2 ^ 11 + a * 2 ^ 7 + b * 2 ^ 3 + c.toNat) = _
  generalize 4 * 2 ^ 11 + a * 2 ^ 7 + b * 2 ^ 3 + c.toNat = w at f ⊢
  unfold decode16; rw [f.1]
  show (.ok (.cSt (fld w 7 4) (fld w 3 4) (BitVec.ofNat 3 (fld w 0 3))) : Decoded) = _
  rw [f.2.1, f.2.2.1, f.2.2.2, imm_of]

theorem cBeqz (a : Nat) (imm : BitVec 7) : Statement (.cBeqz a imm) := fun h _ => by
  have f := hf7 (o := 5) (by decide) (of_decide_eq_true h) imm.isLt
  show decode16 (5 * 2 ^ 11 + a * 2 ^ 7 + imm.toNat) = _
  generalize 5 * 2 ^ 11 + a * 2 ^ 7 + imm.toNat = w at f ⊢
  unfold decode16; rw [f.1]
  show (.ok (.cBeqz (fld w 7 4) (BitVec.ofNat 7 (fld w 0 7))) : Decoded) = _
  rw [f.2.1, f.2.2, imm_of]

theorem cBnez (a : Nat) (imm : BitVec 7) : Statement (.cBnez a imm) := fun h _ => by
  have f := hf7 (o := 6) (by decide) (of_decide_eq_true h) imm.isLt
  show decode16 (6 * 2 ^ 11 + a * 2 ^ 7 + imm.toNat) = _
  generalize 6 * 2 ^ 11 + a * 2 ^ 7 + imm.toNat = w at f ⊢
  unfold decode16; rw [f.1]
  show (.ok (.cBnez (fld w 7 4) (BitVec.ofNat 7 (fld w 0 7))) : Decoded) = _
  rw [f.2.1, f.2.2, imm_of]

theorem cJ (off : BitVec 11) : Statement (.cJ off) := fun _ _ => by
  have f := hf11 (o := 7) (by decide) off.isLt
  show decode16 (7 * 2 ^ 11 + off.toNat) = _
  generalize 7 * 2 ^ 11 + off.toNat = w at f ⊢
  unfold decode16; rw [f.1]; show (.ok (.cJ (BitVec.ofNat 11 (fld w 0 11))) : Decoded) = _; rw [f.2, imm_of]

theorem cJr (a : Nat) : Statement (.cJr a) := fun h _ => by
  have f := hf7 (o := 8) (c := 0) (by decide) (of_decide_eq_true h) (by decide)
  rw [Nat.add_zero] at f
  show decode16 (8 * 2 ^ 11 + a * 2 ^ 7) = _
  generalize 8 * 2 ^ 11 + a * 2 ^ 7 = w at f ⊢
  unfold decode16; rw [f.1]; show (mustBeZero (fld w 0 7) (.ok (.cJr (fld w 7 4))) : Decoded) = _; rw [f.2.1, f.2.2]; rfl

theorem cLdt (a b : Nat) (c : BitVec 3) : Statement (.cLdt a b c) := fun h _ => by
  change (decide (a < 16) && decide (b < 16)) = true at h
  simp only [Bool.and_eq_true, decide_eq_true_eq] at h
  have f := hf (o := 9) (by decide) h.1 h.2 c.isLt
  show decode16 (9 * 2 ^ 11 + a * 2 ^ 7 + b * 2 ^ 3 + c.toNat) = _
  generalize 9 * 2 ^ 11 + a * 2 ^ 7 + b * 2 ^ 3 + c.toNat = w at f ⊢
  unfold decode16; rw [f.1]
  show (.ok (.cLdt (fld w 7 4) (fld w 3 4) (BitVec.ofNat 3 (fld w 0 3))) : Decoded) = _
  rw [f.2.1, f.2.2.1, f.2.2.2, imm_of]

theorem cStf (a b : Nat) (c : BitVec 3) : Statement (.cStf a b c) := fun h _ => by
  change (decide (a < 16) && decide (b < 16)) = true at h
  simp only [Bool.and_eq_true, decide_eq_true_eq] at h
  have f := hf (o := 10) (by decide) h.1 h.2 c.isLt
  show decode16 (10 * 2 ^ 11 + a * 2 ^ 7 + b * 2 ^ 3 + c.toNat) = _
  generalize 10 * 2 ^ 11 + a * 2 ^ 7 + b * 2 ^ 3 + c.toNat = w at f ⊢
  unfold decode16; rw [f.1]
  show (.ok (.cStf (fld w 7 4) (fld w 3 4) (BitVec.ofNat 3 (fld w 0 3))) : Decoded) = _
  rw [f.2.1, f.2.2.1, f.2.2.2, imm_of]

theorem cSkip (n : BitVec 11) : Statement (.cSkip n) := fun _ _ => by
  have f := hf11 (o := 11) (by decide) n.isLt
  show decode16 (11 * 2 ^ 11 + n.toNat) = _
  generalize 11 * 2 ^ 11 + n.toNat = w at f ⊢
  unfold decode16; rw [f.1]; show (.ok (.cSkip (BitVec.ofNat 11 (fld w 0 11))) : Decoded) = _; rw [f.2, imm_of]

theorem cQrd (a b : Nat) : Statement (.cQrd a b) := fun h _ => by
  change (decide (a < 16) && decide (b < 16)) = true at h
  simp only [Bool.and_eq_true, decide_eq_true_eq] at h
  have f := hf (o := 13) (c := 0) (by decide) h.1 h.2 (by decide)
  rw [Nat.add_zero] at f
  show decode16 (13 * 2 ^ 11 + a * 2 ^ 7 + b * 2 ^ 3) = _
  generalize 13 * 2 ^ 11 + a * 2 ^ 7 + b * 2 ^ 3 = w at f ⊢
  unfold decode16; rw [f.1]
  show (mustBeZero (fld w 0 3) (.ok (.cQrd (fld w 7 4) (fld w 3 4))) : Decoded) = _
  rw [f.2.2.2, f.2.1, f.2.2.1]; rfl

theorem cQwr (a b : Nat) : Statement (.cQwr a b) := fun h _ => by
  change (decide (a < 16) && decide (b < 16)) = true at h
  simp only [Bool.and_eq_true, decide_eq_true_eq] at h
  have f := hf (o := 14) (c := 0) (by decide) h.1 h.2 (by decide)
  rw [Nat.add_zero] at f
  show decode16 (14 * 2 ^ 11 + a * 2 ^ 7 + b * 2 ^ 3) = _
  generalize 14 * 2 ^ 11 + a * 2 ^ 7 + b * 2 ^ 3 = w at f ⊢
  unfold decode16; rw [f.1]
  show (mustBeZero (fld w 0 3) (.ok (.cQwr (fld w 7 4) (fld w 3 4))) : Decoded) = _
  rw [f.2.2.2, f.2.1, f.2.2.1]; rfl

theorem amovi (a : Nat) (imm : BitVec 32) : Statement (.amovi a imm) := fun h _ => by
  change (decide (a < 32)) = true at h
  simp only [Bool.and_eq_true, decide_eq_true_eq] at h
  refine ofA (op := 0x01) (a := a) (b := 0) (c := 0) (d := 0) (fl := 0) (imm := imm.toNat) (by decide) (by omega) (by omega)
    (by omega) (by omega) (by omega) imm.isLt fun w f => rtShort ?_
  unfold decodeAgent; rw [f.opE]
  show (mustBeZeroA (fB w) <| mustBeZeroA (fC w) <| mustBeZeroA (fD w) <|
    match fFl w with | 0 => .ok (.short (.amovi (fA w) (fImm w))) | 1 => .ok (.short (.amoviHi (fA w) (fImm w))) | _ => .error .nonZeroField : AgentDecoded) = _
  rw [f.flE]; show (mustBeZeroA (fB w) <| mustBeZeroA (fC w) <| mustBeZeroA (fD w) <|
    .ok (.short (.amovi (fA w) (fImm w))) : AgentDecoded) = _
  simp [onlyA, onlyAB, onlyABC, noImm, mustBeZeroA, mustHoldA, kField, f.aE, f.bE, f.cE, f.dE, f.flE, f.im, *]

theorem amoviHi (a : Nat) (imm : BitVec 32) : Statement (.amoviHi a imm) := fun h _ => by
  change (decide (a < 32)) = true at h
  simp only [Bool.and_eq_true, decide_eq_true_eq] at h
  refine ofA (op := 0x01) (a := a) (b := 0) (c := 0) (d := 0) (fl := 1) (imm := imm.toNat) (by decide) (by omega) (by omega)
    (by omega) (by omega) (by omega) imm.isLt fun w f => rtShort ?_
  unfold decodeAgent; rw [f.opE]
  show (mustBeZeroA (fB w) <| mustBeZeroA (fC w) <| mustBeZeroA (fD w) <|
    match fFl w with | 0 => .ok (.short (.amovi (fA w) (fImm w))) | 1 => .ok (.short (.amoviHi (fA w) (fImm w))) | _ => .error .nonZeroField : AgentDecoded) = _
  rw [f.flE]; show (mustBeZeroA (fB w) <| mustBeZeroA (fC w) <| mustBeZeroA (fD w) <|
    .ok (.short (.amoviHi (fA w) (fImm w))) : AgentDecoded) = _
  simp [onlyA, onlyAB, onlyABC, noImm, mustBeZeroA, mustHoldA, kField, f.aE, f.bE, f.cE, f.dE, f.flE, f.im, *]

theorem aadd (a b c : Nat) : Statement (.aadd a b c) := fun h _ => by
  change (decide (a < 32) && decide (b < 32) && decide (c < 32)) = true at h
  simp only [Bool.and_eq_true, decide_eq_true_eq] at h
  refine ofA (op := 0x02) (a := a) (b := b) (c := c) (d := 0) (fl := 0) (imm := 0) (by decide) (by omega) (by omega)
    (by omega) (by omega) (by omega) (by decide) fun w f => rtShort ?_
  unfold decodeAgent; rw [f.opE]; show (onlyABC w (.ok (.short (.aadd (fA w) (fB w) (fC w)))) : AgentDecoded) = _
  simp [onlyA, onlyAB, onlyABC, noImm, mustBeZeroA, mustHoldA, kField, f.aE, f.bE, f.cE, f.dE, f.flE, f.immE, *]

theorem asub (a b c : Nat) : Statement (.asub a b c) := fun h _ => by
  change (decide (a < 32) && decide (b < 32) && decide (c < 32)) = true at h
  simp only [Bool.and_eq_true, decide_eq_true_eq] at h
  refine ofA (op := 0x03) (a := a) (b := b) (c := c) (d := 0) (fl := 0) (imm := 0) (by decide) (by omega) (by omega)
    (by omega) (by omega) (by omega) (by decide) fun w f => rtShort ?_
  unfold decodeAgent; rw [f.opE]; show (onlyABC w (.ok (.short (.asub (fA w) (fB w) (fC w)))) : AgentDecoded) = _
  simp [onlyA, onlyAB, onlyABC, noImm, mustBeZeroA, mustHoldA, kField, f.aE, f.bE, f.cE, f.dE, f.flE, f.immE, *]

theorem amul (a b c : Nat) : Statement (.amul a b c) := fun h _ => by
  change (decide (a < 32) && decide (b < 32) && decide (c < 32)) = true at h
  simp only [Bool.and_eq_true, decide_eq_true_eq] at h
  refine ofA (op := 0x05) (a := a) (b := b) (c := c) (d := 0) (fl := 0) (imm := 0) (by decide) (by omega) (by omega)
    (by omega) (by omega) (by omega) (by decide) fun w f => rtShort ?_
  unfold decodeAgent; rw [f.opE]; show (onlyABC w (.ok (.short (.amul (fA w) (fB w) (fC w)))) : AgentDecoded) = _
  simp [onlyA, onlyAB, onlyABC, noImm, mustBeZeroA, mustHoldA, kField, f.aE, f.bE, f.cE, f.dE, f.flE, f.immE, *]

theorem aaddi (a b : Nat) (imm : BitVec 32) : Statement (.aaddi a b imm) := fun h _ => by
  change (decide (a < 32) && decide (b < 32)) = true at h
  simp only [Bool.and_eq_true, decide_eq_true_eq] at h
  refine ofA (op := 0x04) (a := a) (b := b) (c := 0) (d := 0) (fl := 0) (imm := imm.toNat) (by decide) (by omega) (by omega)
    (by omega) (by omega) (by omega) imm.isLt fun w f => rtShort ?_
  unfold decodeAgent; rw [f.opE]; show (onlyAB w (.ok (.short (.aaddi (fA w) (fB w) (fImm w)))) : AgentDecoded) = _
  simp [onlyA, onlyAB, onlyABC, noImm, mustBeZeroA, mustHoldA, kField, f.aE, f.bE, f.cE, f.dE, f.flE, f.im, *]

theorem abeq (a b : Nat) (off : BitVec 32) : Statement (.abeq a b off) := fun h _ => by
  change (decide (a < 32) && decide (b < 32)) = true at h
  simp only [Bool.and_eq_true, decide_eq_true_eq] at h
  refine ofA (op := 0x06) (a := a) (b := b) (c := 0) (d := 0) (fl := 0) (imm := off.toNat) (by decide) (by omega) (by omega)
    (by omega) (by omega) (by omega) off.isLt fun w f => rtShort ?_
  unfold decodeAgent; rw [f.opE]; show (onlyAB w (.ok (.short (.abeq (fA w) (fB w) (fImm w)))) : AgentDecoded) = _
  simp [onlyA, onlyAB, onlyABC, noImm, mustBeZeroA, mustHoldA, kField, f.aE, f.bE, f.cE, f.dE, f.flE, f.im, *]

theorem abne (a b : Nat) (off : BitVec 32) : Statement (.abne a b off) := fun h _ => by
  change (decide (a < 32) && decide (b < 32)) = true at h
  simp only [Bool.and_eq_true, decide_eq_true_eq] at h
  refine ofA (op := 0x07) (a := a) (b := b) (c := 0) (d := 0) (fl := 0) (imm := off.toNat) (by decide) (by omega) (by omega)
    (by omega) (by omega) (by omega) off.isLt fun w f => rtShort ?_
  unfold decodeAgent; rw [f.opE]; show (onlyAB w (.ok (.short (.abne (fA w) (fB w) (fImm w)))) : AgentDecoded) = _
  simp [onlyA, onlyAB, onlyABC, noImm, mustBeZeroA, mustHoldA, kField, f.aE, f.bE, f.cE, f.dE, f.flE, f.im, *]

theorem ablt (a b : Nat) (off : BitVec 32) : Statement (.ablt a b off) := fun h _ => by
  change (decide (a < 32) && decide (b < 32)) = true at h
  simp only [Bool.and_eq_true, decide_eq_true_eq] at h
  refine ofA (op := 0x08) (a := a) (b := b) (c := 0) (d := 0) (fl := 0) (imm := off.toNat) (by decide) (by omega) (by omega)
    (by omega) (by omega) (by omega) off.isLt fun w f => rtShort ?_
  unfold decodeAgent; rw [f.opE]; show (onlyAB w (.ok (.short (.ablt (fA w) (fB w) (fImm w)))) : AgentDecoded) = _
  simp [onlyA, onlyAB, onlyABC, noImm, mustBeZeroA, mustHoldA, kField, f.aE, f.bE, f.cE, f.dE, f.flE, f.im, *]

theorem abge (a b : Nat) (off : BitVec 32) : Statement (.abge a b off) := fun h _ => by
  change (decide (a < 32) && decide (b < 32)) = true at h
  simp only [Bool.and_eq_true, decide_eq_true_eq] at h
  refine ofA (op := 0x09) (a := a) (b := b) (c := 0) (d := 0) (fl := 0) (imm := off.toNat) (by decide) (by omega) (by omega)
    (by omega) (by omega) (by omega) off.isLt fun w f => rtShort ?_
  unfold decodeAgent; rw [f.opE]; show (onlyAB w (.ok (.short (.abge (fA w) (fB w) (fImm w)))) : AgentDecoded) = _
  simp [onlyA, onlyAB, onlyABC, noImm, mustBeZeroA, mustHoldA, kField, f.aE, f.bE, f.cE, f.dE, f.flE, f.im, *]

theorem ajmp (off : BitVec 32) : Statement (.ajmp off) := fun _ _ => by
  refine ofA (op := 0x0A) (a := 0) (b := 0) (c := 0) (d := 0) (fl := 0) (imm := off.toNat) (by decide) (by omega) (by omega)
    (by omega) (by omega) (by omega) off.isLt fun w f => rtShort ?_
  unfold decodeAgent; rw [f.opE]; show (mustBeZeroA (fA w) <| onlyA w (.ok (.short (.ajmp (fImm w)))) : AgentDecoded) = _
  simp [onlyA, onlyAB, onlyABC, noImm, mustBeZeroA, mustHoldA, kField, f.aE, f.bE, f.cE, f.dE, f.flE, f.im, *]

theorem acall (off : BitVec 32) : Statement (.acall off) := fun _ _ => by
  refine ofA (op := 0x0B) (a := 0) (b := 0) (c := 0) (d := 0) (fl := 0) (imm := off.toNat) (by decide) (by omega) (by omega)
    (by omega) (by omega) (by omega) off.isLt fun w f => rtShort ?_
  unfold decodeAgent; rw [f.opE]; show (mustBeZeroA (fA w) <| onlyA w (.ok (.short (.acall (fImm w)))) : AgentDecoded) = _
  simp [onlyA, onlyAB, onlyABC, noImm, mustBeZeroA, mustHoldA, kField, f.aE, f.bE, f.cE, f.dE, f.flE, f.im, *]

theorem ald (sz : ESize) (sx : Bool) (a b : Nat) (off : BitVec 32) : Statement (.ald sz sx a b off) := fun h _ => by
  change (decide (a < 32) && decide (b < 32) && (sz ≠ .s8 || !sx)) = true at h
  simp only [Bool.and_eq_true, decide_eq_true_eq] at h
  have hz := esize_lt sz
  have hx : encBit sx 2 = 4 * sx.toNat ∧ sx.toNat < 2 := by cases sx <;> decide
  refine ofA (op := 0x0D) (a := a) (b := b) (c := 0) (d := 0) (fl := (sz.code + encBit sx 2)) (imm := off.toNat) (by decide) (by omega) (by omega)
    (by omega) (by omega) (by omega) off.isLt fun w f => rtShort ?_
  unfold decodeAgent; rw [f.opE]
  show (mustBeZeroA (fC w) <| mustBeZeroA (fD w) <| mustBeZeroA (fld w 35 1) <|
    mustHoldA (ESize.ofCode (fld w 32 2) ≠ .s8 || !bitAt w 34) (.ok (.short (.ald (ESize.ofCode (fld w 32 2)) (bitAt w 34) (fA w) (fB w) (fImm w)))) : AgentDecoded) = _
  have f1 : ESize.ofCode (fld w 32 2) = sz := by
    rw [f.fl0E, show (sz.code + encBit sx 2) % 4 = sz.code by omega, esize_ofCode]
  have f2 : bitAt w 34 = sx := bitAt_of (by rw [f.fl1E]; omega)
  have f3 : fld w 35 1 = 0 := by rw [f.fl3E]; omega
  simp [mustBeZeroA, mustHoldA, f.aE, f.bE, f.cE, f.dE, f.im, f1, f2, f3]
  simpa [Decidable.imp_iff_not_or] using h.2

theorem ast (sz : ESize) (a b : Nat) (off : BitVec 32) : Statement (.ast sz a b off) := fun h _ => by
  change (decide (a < 32) && decide (b < 32)) = true at h
  simp only [Bool.and_eq_true, decide_eq_true_eq] at h
  have hz := esize_lt sz
  refine ofA (op := 0x0E) (a := a) (b := b) (c := 0) (d := 0) (fl := sz.code) (imm := off.toNat) (by decide) (by omega) (by omega)
    (by omega) (by omega) (by omega) off.isLt fun w f => rtShort ?_
  unfold decodeAgent; rw [f.opE]
  show (mustBeZeroA (fC w) <| mustBeZeroA (fD w) <|
    mustBeZeroA (fld w 34 2) (.ok (.short (.ast (ESize.ofCode (fld w 32 2)) (fA w) (fB w) (fImm w)))) : AgentDecoded) = _
  have f1 : ESize.ofCode (fld w 32 2) = sz := by rw [f.fl0E, Nat.mod_eq_of_lt hz, esize_ofCode]
  have f2 : fld w 34 2 = 0 := by rw [f.fl2E]; omega
  simp [mustBeZeroA, f.aE, f.bE, f.cE, f.dE, f.im, f1, f2]

theorem sload (sa b : Nat) (off : BitVec 32) : Statement (.sload sa b off) := fun h _ => by
  change (decide (sa < 16) && decide (b < 32)) = true at h
  simp only [Bool.and_eq_true, decide_eq_true_eq] at h
  refine ofA (op := 0x0F) (a := sa) (b := b) (c := 0) (d := 0) (fl := 0) (imm := off.toNat) (by decide) (by omega) (by omega)
    (by omega) (by omega) (by omega) off.isLt fun w f => rtShort ?_
  unfold decodeAgent; rw [f.opE]
  show (kField (fA w) <| onlyAB w (.ok (.short (.sload (fA w) (fB w) (fImm w)))) : AgentDecoded) = _
  simp [onlyA, onlyAB, onlyABC, noImm, mustBeZeroA, mustHoldA, kField, f.aE, f.bE, f.cE, f.dE, f.flE, f.im, *]

theorem sstore (sa b : Nat) (off : BitVec 32) : Statement (.sstore sa b off) := fun h _ => by
  change (decide (sa < 16) && decide (b < 32)) = true at h
  simp only [Bool.and_eq_true, decide_eq_true_eq] at h
  refine ofA (op := 0x10) (a := sa) (b := b) (c := 0) (d := 0) (fl := 0) (imm := off.toNat) (by decide) (by omega) (by omega)
    (by omega) (by omega) (by omega) off.isLt fun w f => rtShort ?_
  unfold decodeAgent; rw [f.opE]
  show (kField (fA w) <| onlyAB w (.ok (.short (.sstore (fA w) (fB w) (fImm w)))) : AgentDecoded) = _
  simp [onlyA, onlyAB, onlyABC, noImm, mustBeZeroA, mustHoldA, kField, f.aE, f.bE, f.cE, f.dE, f.flE, f.im, *]

theorem sjoin (sa sb : Nat) : Statement (.sjoin sa sb) := fun h _ => by
  change (decide (sa < 16) && decide (sb < 16)) = true at h
  simp only [Bool.and_eq_true, decide_eq_true_eq] at h
  refine ofA (op := 0x11) (a := sa) (b := sb) (c := 0) (d := 0) (fl := 0) (imm := 0) (by decide) (by omega) (by omega)
    (by omega) (by omega) (by omega) (by decide) fun w f => rtShort ?_
  unfold decodeAgent; rw [f.opE]
  show (kField (fA w) <| kField (fB w) <| onlyAB w <| noImm w (.ok (.short (.sjoin (fA w) (fB w)))) : AgentDecoded) = _
  simp [onlyA, onlyAB, onlyABC, noImm, mustBeZeroA, mustHoldA, kField, f.aE, f.bE, f.cE, f.dE, f.flE, f.immE, *]

theorem slen (a sb : Nat) : Statement (.slen a sb) := fun h _ => by
  change (decide (a < 32) && decide (sb < 16)) = true at h
  simp only [Bool.and_eq_true, decide_eq_true_eq] at h
  refine ofA (op := 0x12) (a := a) (b := sb) (c := 0) (d := 0) (fl := 0) (imm := 0) (by decide) (by omega) (by omega)
    (by omega) (by omega) (by omega) (by decide) fun w f => rtShort ?_
  unfold decodeAgent; rw [f.opE]
  show (kField (fB w) <| onlyAB w <| noImm w (.ok (.short (.slen (fA w) (fB w)))) : AgentDecoded) = _
  simp [onlyA, onlyAB, onlyABC, noImm, mustBeZeroA, mustHoldA, kField, f.aE, f.bE, f.cE, f.dE, f.flE, f.immE, *]

theorem stok (a sb c : Nat) : Statement (.stok a sb c) := fun h _ => by
  change (decide (a < 32) && decide (sb < 16) && decide (c < 32)) = true at h
  simp only [Bool.and_eq_true, decide_eq_true_eq] at h
  refine ofA (op := 0x13) (a := a) (b := sb) (c := c) (d := 0) (fl := 0) (imm := 0) (by decide) (by omega) (by omega)
    (by omega) (by omega) (by omega) (by decide) fun w f => rtShort ?_
  unfold decodeAgent; rw [f.opE]
  show (kField (fB w) <| mustBeZeroA (fD w) <| noImm w <|
    match fFl w with | 0 => .ok (.short (.stok (fA w) (fB w) (fC w))) | 1 => .ok (.short (.stokW (fA w) (fB w) (fC w))) | _ => .error .nonZeroField : AgentDecoded) = _
  rw [f.flE]; show (kField (fB w) <| mustBeZeroA (fD w) <| noImm w <|
    .ok (.short (.stok (fA w) (fB w) (fC w))) : AgentDecoded) = _
  simp [onlyA, onlyAB, onlyABC, noImm, mustBeZeroA, mustHoldA, kField, f.aE, f.bE, f.cE, f.dE, f.flE, f.immE, *]

theorem stokW (a sb c : Nat) : Statement (.stokW a sb c) := fun h _ => by
  change (decide (a < 32) && decide (sb < 16) && decide (c < 32)) = true at h
  simp only [Bool.and_eq_true, decide_eq_true_eq] at h
  refine ofA (op := 0x13) (a := a) (b := sb) (c := c) (d := 0) (fl := 1) (imm := 0) (by decide) (by omega) (by omega)
    (by omega) (by omega) (by omega) (by decide) fun w f => rtShort ?_
  unfold decodeAgent; rw [f.opE]
  show (kField (fB w) <| mustBeZeroA (fD w) <| noImm w <|
    match fFl w with | 0 => .ok (.short (.stok (fA w) (fB w) (fC w))) | 1 => .ok (.short (.stokW (fA w) (fB w) (fC w))) | _ => .error .nonZeroField : AgentDecoded) = _
  rw [f.flE]; show (kField (fB w) <| mustBeZeroA (fD w) <| noImm w <|
    .ok (.short (.stokW (fA w) (fB w) (fC w))) : AgentDecoded) = _
  simp [onlyA, onlyAB, onlyABC, noImm, mustBeZeroA, mustHoldA, kField, f.aE, f.bE, f.cE, f.dE, f.flE, f.immE, *]

theorem ssel (sa sb c : Nat) : Statement (.ssel sa sb c) := fun h _ => by
  change (decide (sa < 16) && decide (sb < 16) && decide (c < 32)) = true at h
  simp only [Bool.and_eq_true, decide_eq_true_eq] at h
  refine ofA (op := 0x14) (a := sa) (b := sb) (c := c) (d := 0) (fl := 0) (imm := 0) (by decide) (by omega) (by omega)
    (by omega) (by omega) (by omega) (by decide) fun w f => rtShort ?_
  unfold decodeAgent; rw [f.opE]
  show (kField (fA w) <| kField (fB w) <| onlyABC w (.ok (.short (.ssel (fA w) (fB w) (fC w)))) : AgentDecoded) = _
  simp [onlyA, onlyAB, onlyABC, noImm, mustBeZeroA, mustHoldA, kField, f.aE, f.bE, f.cE, f.dE, f.flE, f.immE, *]

theorem sclear (sa : Nat) : Statement (.sclear sa) := fun h _ => by
  change (decide (sa < 16)) = true at h
  simp only [Bool.and_eq_true, decide_eq_true_eq] at h
  refine ofA (op := 0x15) (a := sa) (b := 0) (c := 0) (d := 0) (fl := 0) (imm := 0) (by decide) (by omega) (by omega)
    (by omega) (by omega) (by omega) (by decide) fun w f => rtShort ?_
  unfold decodeAgent; rw [f.opE]; show (kField (fA w) <| onlyA w <| noImm w (.ok (.short (.sclear (fA w)))) : AgentDecoded) = _
  simp [onlyA, onlyAB, onlyABC, noImm, mustBeZeroA, mustHoldA, kField, f.aE, f.bE, f.cE, f.dE, f.flE, f.immE, *]

theorem fmovi (fa : Nat) (imm : BitVec 32) : Statement (.fmovi fa imm) := fun h _ => by
  change (decide (fa < 16)) = true at h
  simp only [Bool.and_eq_true, decide_eq_true_eq] at h
  refine ofA (op := 0x16) (a := fa) (b := 0) (c := 0) (d := 0) (fl := 0) (imm := imm.toNat) (by decide) (by omega) (by omega)
    (by omega) (by omega) (by omega) imm.isLt fun w f => rtShort ?_
  unfold decodeAgent; rw [f.opE]; show (kField (fA w) <| onlyA w (.ok (.short (.fmovi (fA w) (fImm w)))) : AgentDecoded) = _
  simp [onlyA, onlyAB, onlyABC, noImm, mustBeZeroA, mustHoldA, kField, f.aE, f.bE, f.cE, f.dE, f.flE, f.im, *]

theorem fblt (fa fb : Nat) (off : BitVec 32) : Statement (.fblt fa fb off) := fun h _ => by
  change (decide (fa < 16) && decide (fb < 16)) = true at h
  simp only [Bool.and_eq_true, decide_eq_true_eq] at h
  refine ofA (op := 0x17) (a := fa) (b := fb) (c := 0) (d := 0) (fl := 0) (imm := off.toNat) (by decide) (by omega) (by omega)
    (by omega) (by omega) (by omega) off.isLt fun w f => rtShort ?_
  unfold decodeAgent; rw [f.opE]
  show (kField (fA w) <| kField (fB w) <| onlyAB w (.ok (.short (.fblt (fA w) (fB w) (fImm w)))) : AgentDecoded) = _
  simp [onlyA, onlyAB, onlyABC, noImm, mustBeZeroA, mustHoldA, kField, f.aE, f.bE, f.cE, f.dE, f.flE, f.im, *]

theorem fbits (a fb : Nat) : Statement (.fbits a fb) := fun h _ => by
  change (decide (a < 32) && decide (fb < 16)) = true at h
  simp only [Bool.and_eq_true, decide_eq_true_eq] at h
  refine ofA (op := 0x18) (a := a) (b := fb) (c := 0) (d := 0) (fl := 0) (imm := 0) (by decide) (by omega) (by omega)
    (by omega) (by omega) (by omega) (by decide) fun w f => rtShort ?_
  unfold decodeAgent; rw [f.opE]
  show (kField (fB w) <| mustBeZeroA (fC w) <| mustBeZeroA (fD w) <| noImm w <|
    match fFl w with | 0 => .ok (.short (.fbits (fA w) (fB w))) | 1 => .ok (.short (.fbitsF (fA w) (fB w))) | _ => .error .nonZeroField : AgentDecoded) = _
  rw [f.flE]; show (kField (fB w) <| mustBeZeroA (fC w) <| mustBeZeroA (fD w) <| noImm w <|
    .ok (.short (.fbits (fA w) (fB w))) : AgentDecoded) = _
  simp [onlyA, onlyAB, onlyABC, noImm, mustBeZeroA, mustHoldA, kField, f.aE, f.bE, f.cE, f.dE, f.flE, f.immE, *]

theorem fbitsF (a fb : Nat) : Statement (.fbitsF a fb) := fun h _ => by
  change (decide (a < 32) && decide (fb < 16)) = true at h
  simp only [Bool.and_eq_true, decide_eq_true_eq] at h
  refine ofA (op := 0x18) (a := a) (b := fb) (c := 0) (d := 0) (fl := 1) (imm := 0) (by decide) (by omega) (by omega)
    (by omega) (by omega) (by omega) (by decide) fun w f => rtShort ?_
  unfold decodeAgent; rw [f.opE]
  show (kField (fB w) <| mustBeZeroA (fC w) <| mustBeZeroA (fD w) <| noImm w <|
    match fFl w with | 0 => .ok (.short (.fbits (fA w) (fB w))) | 1 => .ok (.short (.fbitsF (fA w) (fB w))) | _ => .error .nonZeroField : AgentDecoded) = _
  rw [f.flE]; show (kField (fB w) <| mustBeZeroA (fC w) <| mustBeZeroA (fD w) <| noImm w <|
    .ok (.short (.fbitsF (fA w) (fB w))) : AgentDecoded) = _
  simp [onlyA, onlyAB, onlyABC, noImm, mustBeZeroA, mustHoldA, kField, f.aE, f.bE, f.cE, f.dE, f.flE, f.immE, *]

theorem choose (a fb : Nat) (n : BitVec 32) : Statement (.choose a fb n) := fun h _ => by
  change (decide (a < 32) && decide (fb < 16) && decide (1 ≤ n.toNat) && decide (fb + n.toNat ≤ 16)) = true at h
  simp only [Bool.and_eq_true, decide_eq_true_eq] at h
  refine ofA (op := 0x19) (a := a) (b := fb) (c := 0) (d := 0) (fl := 0) (imm := n.toNat) (by decide) (by omega) (by omega)
    (by omega) (by omega) (by omega) n.isLt fun w f => rtShort ?_
  unfold decodeAgent; rw [f.opE]
  show (kField (fB w) <| onlyAB w <|
    mustHoldA (decide (1 ≤ (fImm w).toNat) && decide (fB w + (fImm w).toNat ≤ 16)) (.ok (.short (.choose (fA w) (fB w) (fImm w)))) : AgentDecoded) = _
  simp [onlyA, onlyAB, onlyABC, noImm, mustBeZeroA, mustHoldA, kField, f.aE, f.bE, f.cE, f.dE, f.flE, f.im, *]

theorem ctxlen (a kb : Nat) : Statement (.ctxlen a kb) := fun h _ => by
  change (decide (a < 32) && decide (kb < 16)) = true at h
  simp only [Bool.and_eq_true, decide_eq_true_eq] at h
  refine ofA (op := 0x1A) (a := a) (b := kb) (c := 0) (d := 0) (fl := 0) (imm := 0) (by decide) (by omega) (by omega)
    (by omega) (by omega) (by omega) (by decide) fun w f => rtShort ?_
  unfold decodeAgent; rw [f.opE]
  show (kField (fB w) <| onlyAB w <| noImm w (.ok (.short (.ctxlen (fA w) (fB w)))) : AgentDecoded) = _
  simp [onlyA, onlyAB, onlyABC, noImm, mustBeZeroA, mustHoldA, kField, f.aE, f.bE, f.cE, f.dE, f.flE, f.immE, *]

theorem ctxstat (a kb : Nat) : Statement (.ctxstat a kb) := fun h _ => by
  change (decide (a < 32) && decide (kb < 16)) = true at h
  simp only [Bool.and_eq_true, decide_eq_true_eq] at h
  refine ofA (op := 0x1B) (a := a) (b := kb) (c := 0) (d := 0) (fl := 0) (imm := 0) (by decide) (by omega) (by omega)
    (by omega) (by omega) (by omega) (by decide) fun w f => rtShort ?_
  unfold decodeAgent; rw [f.opE]
  show (kField (fB w) <| onlyAB w <| noImm w (.ok (.short (.ctxstat (fA w) (fB w)))) : AgentDecoded) = _
  simp [onlyA, onlyAB, onlyABC, noImm, mustBeZeroA, mustHoldA, kField, f.aE, f.bE, f.cE, f.dE, f.flE, f.immE, *]

theorem post (a : Nat) (tag : BitVec 32) : Statement (.post a tag) := fun h _ => by
  change (decide (a < 32)) = true at h
  simp only [Bool.and_eq_true, decide_eq_true_eq] at h
  refine ofA (op := 0x1C) (a := a) (b := 0) (c := 0) (d := 0) (fl := 0) (imm := tag.toNat) (by decide) (by omega) (by omega)
    (by omega) (by omega) (by omega) tag.isLt fun w f => rtShort ?_
  unfold decodeAgent; rw [f.opE]; show (onlyA w (.ok (.short (.post (fA w) (fImm w)))) : AgentDecoded) = _
  simp [onlyA, onlyAB, onlyABC, noImm, mustBeZeroA, mustHoldA, kField, f.aE, f.bE, f.cE, f.dE, f.flE, f.im, *]

theorem ahalt (a : Nat) : Statement (.ahalt a) := fun h _ => by
  change (decide (a < 32)) = true at h
  simp only [Bool.and_eq_true, decide_eq_true_eq] at h
  refine ofA (op := 0x1D) (a := a) (b := 0) (c := 0) (d := 0) (fl := 0) (imm := 0) (by decide) (by omega) (by omega)
    (by omega) (by omega) (by omega) (by decide) fun w f => rtShort ?_
  unfold decodeAgent; rw [f.opE]; show (onlyA w <| noImm w (.ok (.short (.ahalt (fA w)))) : AgentDecoded) = _
  simp [onlyA, onlyAB, onlyABC, noImm, mustBeZeroA, mustHoldA, kField, f.aE, f.bE, f.cE, f.dE, f.flE, f.immE, *]

theorem ctxnew (ka : Nat) (model : BitVec 32) : Statement (.ctxnew ka model) := fun h _ => by
  change (decide (ka < 16)) = true at h
  simp only [Bool.and_eq_true, decide_eq_true_eq] at h
  refine ofA (op := 0x20) (a := ka) (b := 0) (c := 0) (d := 0) (fl := 0) (imm := model.toNat) (by decide) (by omega) (by omega)
    (by omega) (by omega) (by omega) model.isLt fun w f => rtLong (l := .ctxnew ka model) ?_
  unfold decodeAgent; rw [f.opE]; show (kField (fA w) <| onlyA w (.ok (.long (.ctxnew (fA w) (fImm w)))) : AgentDecoded) = _
  simp [onlyA, onlyAB, onlyABC, noImm, mustBeZeroA, mustHoldA, kField, f.aE, f.bE, f.cE, f.dE, f.flE, f.im, *]

theorem ctxfree (ka : Nat) : Statement (.ctxfree ka) := fun h _ => by
  change (decide (ka < 16)) = true at h
  simp only [Bool.and_eq_true, decide_eq_true_eq] at h
  refine ofA (op := 0x21) (a := ka) (b := 0) (c := 0) (d := 0) (fl := 0) (imm := 0) (by decide) (by omega) (by omega)
    (by omega) (by omega) (by omega) (by decide) fun w f => rtLong (l := .ctxfree ka) ?_
  unfold decodeAgent; rw [f.opE]; show (kField (fA w) <| onlyA w <| noImm w (.ok (.long (.ctxfree (fA w)))) : AgentDecoded) = _
  simp [onlyA, onlyAB, onlyABC, noImm, mustBeZeroA, mustHoldA, kField, f.aE, f.bE, f.cE, f.dE, f.flE, f.immE, *]

theorem fork (ka kb : Nat) : Statement (.fork ka kb) := fun h _ => by
  change (decide (ka < 16) && decide (kb < 16)) = true at h
  simp only [Bool.and_eq_true, decide_eq_true_eq] at h
  refine ofA (op := 0x22) (a := ka) (b := kb) (c := 0) (d := 0) (fl := 0) (imm := 0) (by decide) (by omega) (by omega)
    (by omega) (by omega) (by omega) (by decide) fun w f => rtLong (l := .fork ka kb) ?_
  unfold decodeAgent; rw [f.opE]
  show (kField (fA w) <| kField (fB w) <| onlyAB w <| noImm w (.ok (.long (.fork (fA w) (fB w)))) : AgentDecoded) = _
  simp [onlyA, onlyAB, onlyABC, noImm, mustBeZeroA, mustHoldA, kField, f.aE, f.bE, f.cE, f.dE, f.flE, f.immE, *]

theorem trim (ka b : Nat) : Statement (.trim ka b) := fun h _ => by
  change (decide (ka < 16) && decide (b < 32)) = true at h
  simp only [Bool.and_eq_true, decide_eq_true_eq] at h
  refine ofA (op := 0x23) (a := ka) (b := b) (c := 0) (d := 0) (fl := 0) (imm := 0) (by decide) (by omega) (by omega)
    (by omega) (by omega) (by omega) (by decide) fun w f => rtLong (l := .trim ka b) ?_
  unfold decodeAgent; rw [f.opE]
  show (kField (fA w) <| onlyAB w <| noImm w (.ok (.long (.trim (fA w) (fB w)))) : AgentDecoded) = _
  simp [onlyA, onlyAB, onlyABC, noImm, mustBeZeroA, mustHoldA, kField, f.aE, f.bE, f.cE, f.dE, f.flE, f.immE, *]

theorem append (ka sb c : Nat) : Statement (.append ka sb c) := fun h _ => by
  change (decide (ka < 16) && decide (sb < 16) && decide (c < 32) && decide (c ≠ 0)) = true at h
  simp only [Bool.and_eq_true, decide_eq_true_eq] at h
  refine ofA (op := 0x24) (a := ka) (b := sb) (c := c) (d := 0) (fl := 0) (imm := 0) (by decide) (by omega) (by omega)
    (by omega) (by omega) (by omega) (by decide) fun w f => rtLong (l := .append ka sb c) ?_
  unfold decodeAgent; rw [f.opE]
  show (kField (fA w) <| kField (fB w) <| mustHoldA (decide (fC w ≠ 0)) <|
    onlyABC w (.ok (.long (.append (fA w) (fB w) (fC w)))) : AgentDecoded) = _
  simp [onlyA, onlyAB, onlyABC, noImm, mustBeZeroA, mustHoldA, kField, f.aE, f.bE, f.cE, f.dE, f.flE, f.immE, *]

theorem probe (a kb sc : Nat) : Statement (.probe a kb sc) := fun h _ => by
  change (decide (a < 32) && decide (kb < 16) && decide (sc < 16)) = true at h
  simp only [Bool.and_eq_true, decide_eq_true_eq] at h
  refine ofA (op := 0x25) (a := a) (b := kb) (c := sc) (d := 0) (fl := 0) (imm := 0) (by decide) (by omega) (by omega)
    (by omega) (by omega) (by omega) (by decide) fun w f => rtLong (l := .probe a kb sc) ?_
  unfold decodeAgent; rw [f.opE]
  show (kField (fB w) <| kField (fC w) <| onlyABC w (.ok (.long (.probe (fA w) (fB w) (fC w)))) : AgentDecoded) = _
  simp [onlyA, onlyAB, onlyABC, noImm, mustBeZeroA, mustHoldA, kField, f.aE, f.bE, f.cE, f.dE, f.flE, f.immE, *]

theorem pin (ka sb c : Nat) : Statement (.pin ka sb c) := fun h _ => by
  change (decide (ka < 16) && decide (sb < 16) && decide (c < 32)) = true at h
  simp only [Bool.and_eq_true, decide_eq_true_eq] at h
  refine ofA (op := 0x26) (a := ka) (b := sb) (c := c) (d := 0) (fl := 0) (imm := 0) (by decide) (by omega) (by omega)
    (by omega) (by omega) (by omega) (by decide) fun w f => rtLong (l := .pin ka sb c) ?_
  unfold decodeAgent; rw [f.opE]
  show (kField (fA w) <| kField (fB w) <| onlyABC w (.ok (.long (.pin (fA w) (fB w) (fC w)))) : AgentDecoded) = _
  simp [onlyA, onlyAB, onlyABC, noImm, mustBeZeroA, mustHoldA, kField, f.aE, f.bE, f.cE, f.dE, f.flE, f.immE, *]

theorem unpin (ka b : Nat) : Statement (.unpin ka b) := fun h _ => by
  change (decide (ka < 16) && decide (b < 32)) = true at h
  simp only [Bool.and_eq_true, decide_eq_true_eq] at h
  refine ofA (op := 0x27) (a := ka) (b := b) (c := 0) (d := 0) (fl := 0) (imm := 0) (by decide) (by omega) (by omega)
    (by omega) (by omega) (by omega) (by decide) fun w f => rtLong (l := .unpin ka b) ?_
  unfold decodeAgent; rw [f.opE]
  show (kField (fA w) <| onlyAB w <| noImm w (.ok (.long (.unpin (fA w) (fB w)))) : AgentDecoded) = _
  simp [onlyA, onlyAB, onlyABC, noImm, mustBeZeroA, mustHoldA, kField, f.aE, f.bE, f.cE, f.dE, f.flE, f.immE, *]

theorem score (fa kb sc d : Nat) : Statement (.score fa kb sc d) := fun h _ => by
  change (decide (fa < 16) && decide (kb < 16) && decide (sc < 16) && decide (d < 32) && decide (d ≠ 0)) = true at h
  simp only [Bool.and_eq_true, decide_eq_true_eq] at h
  refine ofA (op := 0x28) (a := fa) (b := kb) (c := sc) (d := d) (fl := 0) (imm := 0) (by decide) (by omega) (by omega)
    (by omega) (by omega) (by omega) (by decide) fun w f => rtLong (l := .score fa kb sc d) ?_
  unfold decodeAgent; rw [f.opE]
  show (kField (fA w) <| kField (fB w) <| kField (fC w) <| mustHoldA (decide (fD w ≠ 0)) <| mustBeZeroA (fFl w) <|
    noImm w (.ok (.long (.score (fA w) (fB w) (fC w) (fD w)))) : AgentDecoded) = _
  simp [onlyA, onlyAB, onlyABC, noImm, mustBeZeroA, mustHoldA, kField, f.aE, f.bE, f.cE, f.dE, f.flE, f.immE, *]

theorem gen (ka sb c : Nat) : Statement (.gen ka sb c) := fun h _ => by
  change (decide (ka < 16) && decide (sb < 16) && decide (c < 32) && decide (c ≠ 0)) = true at h
  simp only [Bool.and_eq_true, decide_eq_true_eq] at h
  refine ofA (op := 0x29) (a := ka) (b := sb) (c := c) (d := 0) (fl := 0) (imm := 0) (by decide) (by omega) (by omega)
    (by omega) (by omega) (by omega) (by decide) fun w f => rtLong (l := .gen ka sb c) ?_
  unfold decodeAgent; rw [f.opE]
  show (kField (fA w) <| kField (fB w) <| mustHoldA (decide (fC w ≠ 0)) <|
    onlyABC w (.ok (.long (.gen (fA w) (fB w) (fC w)))) : AgentDecoded) = _
  simp [onlyA, onlyAB, onlyABC, noImm, mustBeZeroA, mustHoldA, kField, f.aE, f.bE, f.cE, f.dE, f.flE, f.immE, *]

theorem sampset (ka b : Nat) : Statement (.sampset ka b) := fun h _ => by
  change (decide (ka < 16) && decide (b < 32)) = true at h
  simp only [Bool.and_eq_true, decide_eq_true_eq] at h
  refine ofA (op := 0x2A) (a := ka) (b := b) (c := 0) (d := 0) (fl := 0) (imm := 0) (by decide) (by omega) (by omega)
    (by omega) (by omega) (by omega) (by decide) fun w f => rtLong (l := .sampset ka b) ?_
  unfold decodeAgent; rw [f.opE]
  show (kField (fA w) <| onlyAB w <| noImm w (.ok (.long (.sampset (fA w) (fB w)))) : AgentDecoded) = _
  simp [onlyA, onlyAB, onlyABC, noImm, mustBeZeroA, mustHoldA, kField, f.aE, f.bE, f.cE, f.dE, f.flE, f.immE, *]

theorem maskbind (ka b : Nat) : Statement (.maskbind ka b) := fun h _ => by
  change (decide (ka < 16) && decide (b < 32)) = true at h
  simp only [Bool.and_eq_true, decide_eq_true_eq] at h
  refine ofA (op := 0x2B) (a := ka) (b := b) (c := 0) (d := 0) (fl := 0) (imm := 0) (by decide) (by omega) (by omega)
    (by omega) (by omega) (by omega) (by decide) fun w f => rtLong (l := .maskbind ka b) ?_
  unfold decodeAgent; rw [f.opE]
  show (kField (fA w) <| onlyAB w <| noImm w (.ok (.long (.maskbind (fA w) (fB w)))) : AgentDecoded) = _
  simp [onlyA, onlyAB, onlyABC, noImm, mustBeZeroA, mustHoldA, kField, f.aE, f.bE, f.cE, f.dE, f.flE, f.immE, *]

theorem rngjump (ka b : Nat) : Statement (.rngjump ka b) := fun h _ => by
  change (decide (ka < 16) && decide (b < 32)) = true at h
  simp only [Bool.and_eq_true, decide_eq_true_eq] at h
  refine ofA (op := 0x2C) (a := ka) (b := b) (c := 0) (d := 0) (fl := 0) (imm := 0) (by decide) (by omega) (by omega)
    (by omega) (by omega) (by omega) (by decide) fun w f => rtLong (l := .rngjump ka b) ?_
  unfold decodeAgent; rw [f.opE]
  show (kField (fA w) <| onlyAB w <| noImm w (.ok (.long (.rngjump (fA w) (fB w)))) : AgentDecoded) = _
  simp [onlyA, onlyAB, onlyABC, noImm, mustBeZeroA, mustHoldA, kField, f.aE, f.bE, f.cE, f.dE, f.flE, f.immE, *]

theorem await (a : Nat) (tag : BitVec 32) : Statement (.await a tag) := fun h _ => by
  change (decide (a < 32)) = true at h
  simp only [Bool.and_eq_true, decide_eq_true_eq] at h
  refine ofA (op := 0x2D) (a := a) (b := 0) (c := 0) (d := 0) (fl := 0) (imm := tag.toNat) (by decide) (by omega) (by omega)
    (by omega) (by omega) (by omega) tag.isLt fun w f => rtLong (l := .await a tag) ?_
  unfold decodeAgent; rw [f.opE]; show (onlyA w (.ok (.long (.await (fA w) (fImm w)))) : AgentDecoded) = _
  simp [onlyA, onlyAB, onlyABC, noImm, mustBeZeroA, mustHoldA, kField, f.aE, f.bE, f.cE, f.dE, f.flE, f.im, *]

theorem exit : Statement (.exit) := fun _ _ => rfl

theorem yield : Statement (.yield) := fun _ _ => rfl

theorem trigger : Statement (.trigger) := fun _ _ => rfl

theorem brk : Statement (.brk) := fun _ _ => rfl

theorem wfe : Statement (.wfe) := fun _ _ => rfl

theorem cNop : Statement (.cNop) := fun _ _ => rfl

theorem cYield : Statement (.cYield) := fun _ _ => rfl

theorem cExit : Statement (.cExit) := fun _ _ => rfl

theorem cBar0 : Statement (.cBar0) := fun _ _ => rfl

theorem anop : Statement (.anop) := fun _ _ => by
  refine ofA (op := 0x00) (a := 0) (b := 0) (c := 0) (d := 0) (fl := 0) (imm := 0) (by decide) (by omega) (by omega)
    (by omega) (by omega) (by omega) (by decide) fun w f => rtShort ?_
  unfold decodeAgent; rw [f.opE]; show (mustBeZeroA (fA w) <| onlyA w <| noImm w (.ok (.short .anop)) : AgentDecoded) = _
  simp [onlyA, onlyAB, onlyABC, noImm, mustBeZeroA, mustHoldA, kField, f.aE, f.bE, f.cE, f.dE, f.flE, f.immE, *]

theorem aret : Statement (.aret) := fun _ _ => by
  refine ofA (op := 0x0C) (a := 0) (b := 0) (c := 0) (d := 0) (fl := 0) (imm := 0) (by decide) (by omega) (by omega)
    (by omega) (by omega) (by omega) (by decide) fun w f => rtShort ?_
  unfold decodeAgent; rw [f.opE]; show (mustBeZeroA (fA w) <| onlyA w <| noImm w (.ok (.short .aret)) : AgentDecoded) = _
  simp [onlyA, onlyAB, onlyABC, noImm, mustBeZeroA, mustHoldA, kField, f.aE, f.bE, f.cE, f.dE, f.flE, f.immE, *]

theorem divideComplete (core : Nat) : Statement (.divideComplete core) := fun _ h => absurd rfl h

theorem loadReturn (t idx : Nat) : Statement (.loadReturn t idx) := fun _ h => absurd rfl h

theorem ldftTimeout (t : Nat) : Statement (.ldftTimeout t) := fun _ h => absurd rfl h

theorem loopClaimResponse (t : Nat) : Statement (.loopClaimResponse t) := fun _ h => absurd rfl h

theorem copyComplete (ctx : Nat) : Statement (.copyComplete ctx) := fun _ h => absurd rfl h

theorem remoteWriteAck (op : Nat) : Statement (.remoteWriteAck op) := fun _ h => absurd rfl h

theorem gatherComplete (ctx : Nat) : Statement (.gatherComplete ctx) := fun _ h => absurd rfl h

theorem collChunkReceive (ctx : Nat) : Statement (.collChunkReceive ctx) := fun _ h => absurd rfl h

theorem collComplete (ctx : Nat) : Statement (.collComplete ctx) := fun _ h => absurd rfl h

theorem leaseGrant (g bank : Nat) : Statement (.leaseGrant g bank) := fun _ h => absurd rfl h

theorem arrayRunStart (g : Nat) : Statement (.arrayRunStart g) := fun _ h => absurd rfl h

theorem arrayRunLimit (g : Nat) : Statement (.arrayRunLimit g) := fun _ h => absurd rfl h

theorem arrayPassStart (g : Nat) : Statement (.arrayPassStart g) := fun _ h => absurd rfl h

theorem arrayCommandComplete (g : Nat) : Statement (.arrayCommandComplete g) := fun _ h => absurd rfl h

theorem autofillRefillComplete (g h : Nat) : Statement (.autofillRefillComplete g h) := fun _ h => absurd rfl h

theorem residencyFillComplete (g h : Nat) : Statement (.residencyFillComplete g h) := fun _ h => absurd rfl h

theorem canopyBackgroundRefill (g h : Nat) : Statement (.canopyBackgroundRefill g h) := fun _ h => absurd rfl h

theorem normaliserServiceEnd (core : Nat) : Statement (.normaliserServiceEnd core) := fun _ h => absurd rfl h

theorem sfuAccept (core : Nat) : Statement (.sfuAccept core) := fun _ h => absurd rfl h

theorem sfuDeliver (core : Nat) : Statement (.sfuDeliver core) := fun _ h => absurd rfl h

theorem sortUnitComplete (core : Nat) : Statement (.sortUnitComplete core) := fun _ h => absurd rfl h

theorem wfeTimeout (t : Nat) : Statement (.wfeTimeout t) := fun _ h => absurd rfl h

theorem trapRecordWrite (core : Nat) : Statement (.trapRecordWrite core) := fun _ h => absurd rfl h

theorem threadStart (core sid : Nat) : Statement (.threadStart core sid) := fun _ h => absurd rfl h

theorem populationComplete (pop : Nat) : Statement (.populationComplete pop) := fun _ h => absurd rfl h

theorem loadBalanceExchange : Statement (.loadBalanceExchange) := fun _ h => absurd rfl h

theorem waitProbeTick : Statement (.waitProbeTick) := fun _ h => absurd rfl h

theorem waitProbeArrival (core : Nat) : Statement (.waitProbeArrival core) := fun _ h => absurd rfl h

theorem translationAnswer (g : Nat) : Statement (.translationAnswer g) := fun _ h => absurd rfl h

theorem lanyardFlitArrival (port : Nat) : Statement (.lanyardFlitArrival port) := fun _ h => absurd rfl h

theorem hostMemoryAccess (fn a : Nat) (wr : Bool) (v : Word) : Statement (.hostMemoryAccess fn a wr v) := fun _ h => absurd rfl h

theorem lookaheadDecode (n : Nat) : Statement (.lookaheadDecode n) := fun _ h => absurd rfl h

theorem planHoldExpiry (n : Nat) : Statement (.planHoldExpiry n) := fun _ h => absurd rfl h

theorem iterationSnapshot (p : Nat) : Statement (.iterationSnapshot p) := fun _ h => absurd rfl h

theorem gracePeriodEnd (p : Nat) : Statement (.gracePeriodEnd p) := fun _ h => absurd rfl h

theorem batchMulticast (p : Nat) : Statement (.batchMulticast p) := fun _ h => absurd rfl h

theorem shardReport (p : Nat) : Statement (.shardReport p) := fun _ h => absurd rfl h

theorem modelGroupTimeout (p : Nat) : Statement (.modelGroupTimeout p) := fun _ h => absurd rfl h

theorem iterationCommit (p : Nat) : Statement (.iterationCommit p) := fun _ h => absurd rfl h

theorem launchPacket (q : Nat) : Statement (.launchPacket q) := fun _ h => absurd rfl h

theorem agentstart (q : Nat) : Statement (.agentstart q) := fun _ h => absurd rfl h

theorem copyPacket (q : Nat) : Statement (.copyPacket q) := fun _ h => absurd rfl h

theorem signalTimeline (q : Nat) : Statement (.signalTimeline q) := fun _ h => absurd rfl h

theorem signalEvent (q : Nat) : Statement (.signalEvent q) := fun _ h => absurd rfl h

theorem waittlPacket (q : Nat) : Statement (.waittlPacket q) := fun _ h => absurd rfl h

theorem switchatPacket (q : Nat) : Statement (.switchatPacket q) := fun _ h => absurd rfl h

theorem faultPacket (q : Nat) : Statement (.faultPacket q) := fun _ h => absurd rfl h

theorem sqptrWrite (q : Nat) (v : Word) : Statement (.sqptrWrite q v) := fun _ h => absurd rfl h

theorem sqActivate (q : Nat) (v : Word) : Statement (.sqActivate q v) := fun _ h => absurd rfl h

theorem sqDisable (q : Nat) : Statement (.sqDisable q) := fun _ h => absurd rfl h

theorem completionRecordWrite (fn : Nat) : Statement (.completionRecordWrite fn) := fun _ h => absurd rfl h

theorem xlatResume (v : Word) : Statement (.xlatResume v) := fun _ h => absurd rfl h

theorem xlatSkip (v : Word) : Statement (.xlatSkip v) := fun _ h => absurd rfl h

theorem xlatKill (v : Word) : Statement (.xlatKill v) := fun _ h => absurd rfl h

theorem tpStage (fn : Nat) (img : Image) : Statement (.tpStage fn img) := fun _ h => absurd rfl h

theorem tpCommit (fn : Nat) : Statement (.tpCommit fn) := fun _ h => absurd rfl h

theorem attest (fn : Nat) : Statement (.attest fn) := fun _ h => absurd rfl h

theorem pset (fn : Nat) (b : Bounds) : Statement (.pset fn b) := fun _ h => absurd rfl h

theorem pdestroy (fn p : Nat) : Statement (.pdestroy fn p) := fun _ h => absurd rfl h

theorem extend (fn n : Nat) (d : BitVec 256) : Statement (.extend fn n d) := fun _ h => absurd rfl h

theorem unfreeze (fn vf : Nat) : Statement (.unfreeze fn vf) := fun _ h => absurd rfl h

theorem powerOn : Statement (.powerOn) := fun _ h => absurd rfl h

theorem healthUpdate : Statement (.healthUpdate) := fun _ h => absurd rfl h

theorem eventCounterClear (core idx : Nat) : Statement (.eventCounterClear core idx) := fun _ h => absurd rfl h

theorem engfrzUnfreeze (core p q : Nat) : Statement (.engfrzUnfreeze core p q) := fun _ h => absurd rfl h

theorem partitionConfigWrite (p reg : Nat) (v : Word) : Statement (.partitionConfigWrite p reg v) := fun _ h => absurd rfl h

theorem rtdataWrite (p : Nat) (v : Word) : Statement (.rtdataWrite p v) := fun _ h => absurd rfl h

theorem tencfgWrite (p : Nat) (v : Word) : Statement (.tencfgWrite p v) := fun _ h => absurd rfl h

theorem modtabWrite (p n : Nat) (v : Word) : Statement (.modtabWrite p n v) := fun _ h => absurd rfl h

theorem agentAreaWrite (p n : Nat) (v : Word) : Statement (.agentAreaWrite p n v) := fun _ h => absurd rfl h

theorem switchatWrite (p : Nat) (v : Word) : Statement (.switchatWrite p v) := fun _ h => absurd rfl h

theorem swctlArm (p : Nat) (v : Word) : Statement (.swctlArm p v) := fun _ h => absurd rfl h

theorem swctlDisarm (p : Nat) (v : Word) : Statement (.swctlDisarm p v) := fun _ h => absurd rfl h

theorem preloadComplete (p : Nat) : Statement (.preloadComplete p) := fun _ h => absurd rfl h

theorem switchTimeReached (p : Nat) : Statement (.switchTimeReached p) := fun _ h => absurd rfl h

theorem slotHandover (p : Nat) : Statement (.slotHandover p) := fun _ h => absurd rfl h

theorem switchComplete (p : Nat) : Statement (.switchComplete p) := fun _ h => absurd rfl h

theorem gswPrepare (p tgt : Nat) : Statement (.gswPrepare p tgt) := fun _ h => absurd rfl h

theorem gswCommit (p : Nat) : Statement (.gswCommit p) := fun _ h => absurd rfl h

theorem gswAbort (p : Nat) : Statement (.gswAbort p) := fun _ h => absurd rfl h

theorem ptrootWrite (p n : Nat) (v : Word) : Statement (.ptrootWrite p n v) := fun _ h => absurd rfl h

theorem xinvWrite (p : Nat) (v : Word) : Statement (.xinvWrite p v) := fun _ h => absurd rfl h

theorem invalidationComplete (p : Nat) : Statement (.invalidationComplete p) := fun _ h => absurd rfl h

theorem elogEntryClear (g n : Nat) : Statement (.elogEntryClear g n) := fun _ h => absurd rfl h

theorem einjWrite (g : Nat) (v : Word) : Statement (.einjWrite g v) := fun _ h => absurd rfl h

theorem registerWrite (place reg : Nat) (v : Word) : Statement (.registerWrite place reg v) := fun _ h => absurd rfl h

end RoundTrip

end Sys2Proof.Laws
end

