-- ==== Sys2Proof/Tests/Slice0.lean ====
section
/-! SUPPORT. Sys2Proof/Tests/Slice0.lean: tests on fixed values: ill-formed terms that WellFormed refuses, words written out from
the spec's encodings, states that meet the hypotheses of the statements, and single steps with results worked out by hand from
the rules named. -/

namespace Sys2Proof.Tests

open Sys2Proof.Machine

set_option Elab.async false

/-! ### States to test on -/

/-- Partition 1 with every slot and bank, cluster 0, 32 MiB of HBM and 100 pages of Canopy. -/
def part1 : Part := { freshPart with
  pslots := 0xFFFE, pbanks := 0x7FFF, ghi := 0, hbmLimit := 16, pbnLimit := 64, canquota := [(0, 100)], fabkey := 7 }

def regs (xs : List (Nat × Word)) : Table (Reg Word) := xs.map fun e => (e.1, ⟨e.2, true, false, false⟩)

/-- Thread 1024 in slot 1 of core 0, in tenancy 0 of partition 1, with the x registers named. -/
def thread1 (xs : List (Nat × Word)) : Thread := { freshThread 1 1 0 with pop := 2, x := regs xs, pc := 0x1000 }

/-- A running module whose one user thread tries to issue a 32-bit instruction. -/
def user (xs : List (Nat × Word)) : State := { State.reset with
  booted := true, cur := 1024, insnLen := 4, nextUid := 1026, nextPop := 3
  threads := [(1024, thread1 xs)], slots := [(1, 1024)], parts := [(1, part1)] }

/-- A running module whose root slot of core 0 tries to issue a 32-bit instruction; slot 1 holds thread 1024. -/
def root (xs : List (Nat × Word)) : State := { State.reset with
  booted := true, cur := 0, insnLen := 4, nextUid := 1026
  threads := [(0, { rootThread 0 with x := regs xs }), (1024, thread1 [])], slots := [(1, 1024)], parts := [(1, part1)] }

def w8 (r : Nat) : Src := ⟨r, .wait⟩
def tk (r : Nat) : Src := ⟨r, .take⟩

/-- `Ready` as a test. -/
def readyB (s : State) (n : Needs) : Bool :=
  s.alive s.cur && n.src.all (fun a => (a.mode = .raw || (s.me.getX a.reg).full) &&
    !((s.me.getX a.reg).full && (s.me.getX a.reg).poison)) &&
    n.vs.all (fun r => (s.me.getV r).full && !(s.me.getV r).poison) && n.ps.all (fun r => !s.me.pbad.getLsbD r) &&
    n.dx.all (fun r => !(s.me.getX r).pend) && n.dv.all fun r => !(s.me.getV r).pend

theorem ready_of {s : State} {n : Needs} (h : readyB s n = true) : Ready s n := by
  simp only [readyB, Bool.and_eq_true, List.all_eq_true, Bool.or_eq_true, decide_eq_true_eq, Bool.not_eq_true',
    Bool.and_eq_false_iff] at h
  obtain ⟨⟨⟨⟨⟨h1, h2⟩, h3⟩, h4⟩, h5⟩, h6⟩ := h
  refine ⟨h1, fun a ha => ⟨fun hm => ?_, fun hf => ?_⟩, h3, h4, h5, h6⟩
  · exact (h2 a ha).1.resolve_left hm
  · exact (h2 a ha).2.resolve_left (by simp [hf])

/-- `ready_of` over the entries of a list. -/
theorem ready_all {α : Type} {l : List α} {s : α → State} {n : α → Needs} (h : l.all (fun x => readyB (s x) (n x)) = true) :
    ∀ x ∈ l, Ready (s x) (n x) := fun x hx => ready_of (List.all_eq_true.1 h x hx)

/-- A test over the entries of a list. -/
theorem all_of {α : Type} {l : List α} {p : α → Prop} [DecidablePred p] (h : l.all (fun x => decide (p x)) = true) : ∀ x ∈ l, p x :=
  fun x hx => of_decide_eq_true (List.all_eq_true.1 h x hx)

/-- `Quiet` as a test. -/
def quietB (s : State) : Bool :=
  s.banks.all (fun e => e.2.isEmpty) && s.threads.all fun e => e.2.heldOps.isEmpty && e.2.savedSync.isEmpty

theorem find_all {α : Type} {p : α → Prop} {t : Table α} (h : ∀ e ∈ t, p e.2) {k : Nat} {d : α} (hd : p d) :
    p (Table.get t k d) := by
  induction t with
  | nil => exact hd
  | cons e t ih =>
    by_cases hk : e.1 = k
    · simpa [Table.get, Table.find?, hk] using h e (by simp)
    · simpa [Table.get, Table.find?, hk] using ih fun e he => h e (by simp [he])

theorem quiet_of {s : State} (h : quietB s = true) : Quiet s := by
  simp only [quietB, Bool.and_eq_true, List.all_eq_true, List.isEmpty_iff] at h
  exact ⟨h.1, fun e he => (h.2 e he).1, fun t => find_all (p := fun th : Thread => th.savedSync = []) (fun e he => (h.2 e he).2) rfl⟩

/-- An access has the target named. -/
def okB (t : Target) (ps : List (Place × Nat)) (k : List Nat) (l : Option Leaf) : Bool := match t with
  | .ok ps' k' l' => decide (ps' = ps) && decide (k' = k) && decide (l' = l)
  | .trap _ _ _ | .miss _ | .stop _ => false

theorem ok_of {t : Target} {ps : List (Place × Nat)} {k : List Nat} {l : Option Leaf} (h : okB t ps k l = true) : t = .ok ps k l := by
  cases t <;> simp_all [okB]

/-- A result is a next state. -/
def nextB (r : Result) : Bool := match r with
  | .next _ => true
  | .fault _ | .refused _ => false

theorem next_of {r : Result} (h : nextB r = true) : ∃ t, r = .next t := by
  cases r <;> simp_all [nextB]

/-- `next_of` over the entries of a list. -/
theorem next_all {α : Type} {l : List α} {r : α → Result} (h : l.all (fun x => nextB (r x)) = true) : ∀ x ∈ l, ∃ t, r x = .next t :=
  fun x hx => next_of (List.all_eq_true.1 h x hx)

/-! ### Decoding: one word for each encoded instruction, written out from the bit fields that spec/opcode_table.json and R34-R45 give
it, every field with a value of its own -/

def decodeAll (ws : List (List Byte × Instr × Nat)) : Bool := ws.all fun e => match decodeBytes e.1 with
  | .ok (i, n) => decide (i = e.2.1) && decide (n = e.2.2) && i.wf
  | .error _ => false

def agentAll (ws : List (List Byte × AgentCode)) : Bool := ws.all fun e => match decodeAgentBytes e.1 with
  | .ok i => decide (i = e.2)
  | .error _ => false

theorem test_decode_compact : decodeAll [
    ([0x60, 0x04], .cMov 8 12, 2),
    ([0xA1, 0x07], .cAdd 15 4, 2),
    ([0xDA, 0x03], .cSub 7 11, 2),
    ([0x1B, 0x07], .cAnd 14 3, 2),
    ([0x54, 0x03], .cOr 6 10, 2),
    ([0x95, 0x06], .cXor 13 2, 2),
    ([0xCE, 0x02], .cSll 5 9, 2),
    ([0x0F, 0x06], .cSrl 12 1, 2),
    ([0x61, 0x0A], .cAddi 4 0x61, 2),
    ([0xE2, 0x15], .cLi 11 0x62, 2),
    ([0xBD, 0x19], .cLd 3 7 0x5, 2),
    ([0x75, 0x25], .cSt 10 14 0x5, 2),
    ([0x62, 0x29], .cBeqz 2 0x62, 2),
    ([0xE3, 0x34], .cBnez 9 0x63, 2),
    ([0x01, 0x3E], .cJ 0x601, 2),
    ([0x00, 0x44], .cJr 8, 2),
    ([0xA5, 0x4F], .cLdt 15 4 0x5, 2),
    ([0xDD, 0x53], .cStf 7 11 0x5, 2),
    ([0x02, 0x5E], .cSkip 0x602, 2),
    ([0x00, 0x60], .cNop, 2),
    ([0x01, 0x60], .cYield, 2),
    ([0x02, 0x60], .cExit, 2),
    ([0x03, 0x60], .cBar0, 2),
    ([0x40, 0x6A], .cQrd 4 8, 2),
    ([0xF8, 0x75], .cQwr 11 15, 2)] = true := by
  decide +kernel

theorem test_decode_major_01 : decodeAll [
    ([0x36, 0x82, 0x80, 0x32], .add 3 ⟨12, .take⟩ ⟨18, .chk⟩, 4),
    ([0xA9, 0x82, 0xC1, 0xD9], .sub 10 ⟨19, .chk⟩ ⟨25, .raw⟩, 4),
    ([0x1D, 0x83, 0x02, 0x61], .and 17 ⟨26, .raw⟩ ⟨1, .wait⟩, 4),
    ([0x81, 0x83, 0x43, 0x08], .or 24 ⟨2, .wait⟩ ⟨8, .take⟩, 4),
    ([0xF4, 0x83, 0x84, 0xAF], .xor 31 ⟨9, .take⟩ ⟨15, .chk⟩, 4),
    ([0x78, 0x82, 0xC5, 0x56], .sll 7 ⟨16, .chk⟩ ⟨22, .raw⟩, 4),
    ([0xEB, 0x82, 0x06, 0xFD], .srl 14 ⟨23, .raw⟩ ⟨29, .wait⟩, 4),
    ([0x5F, 0x83, 0x47, 0x05], .sra 21 ⟨30, .wait⟩ ⟨5, .take⟩, 4),
    ([0xC3, 0x83, 0x88, 0x2C], .slt 28 ⟨6, .take⟩ ⟨12, .chk⟩, 4),
    ([0x46, 0x82, 0xC9, 0xD3], .sltu 4 ⟨13, .chk⟩ ⟨19, .raw⟩, 4),
    ([0xBA, 0x82, 0x0A, 0x7A], .min 11 ⟨20, .raw⟩ ⟨26, .wait⟩, 4),
    ([0x2D, 0x83, 0x4B, 0x82], .max 18 ⟨27, .wait⟩ ⟨2, .take⟩, 4),
    ([0x91, 0x83, 0x8C, 0xA9], .minu 25 ⟨3, .take⟩ ⟨9, .chk⟩, 4),
    ([0x15, 0x82, 0xCD, 0x50], .maxu 1 ⟨10, .chk⟩ ⟨16, .raw⟩, 4),
    ([0x88, 0x82, 0x0E, 0xF7], .mul 8 ⟨17, .raw⟩ ⟨23, .wait⟩, 4),
    ([0xFC, 0x82, 0x4F, 0x1E], .mulh 15 ⟨24, .wait⟩ ⟨30, .take⟩, 4),
    ([0x6F, 0x83, 0x90, 0xA6], .mulhu 22 ⟨31, .take⟩ ⟨6, .chk⟩, 4),
    ([0xD3, 0x83, 0xD1, 0xCD], .div 29 ⟨7, .chk⟩ ⟨13, .raw⟩, 4),
    ([0x57, 0x82, 0x12, 0x74], .divu 5 ⟨14, .raw⟩ ⟨20, .wait⟩, 4),
    ([0xCA, 0x82, 0x53, 0x9B], .rem 12 ⟨21, .wait⟩ ⟨27, .take⟩, 4),
    ([0x3E, 0x83, 0x94, 0x23], .remu 19 ⟨28, .take⟩ ⟨3, .chk⟩, 4),
    ([0xA2, 0x83, 0x15, 0x40], .clz 26 ⟨4, .chk⟩, 4),
    ([0x25, 0x82, 0x16, 0xE0], .ctz 2 ⟨11, .raw⟩, 4),
    ([0x99, 0x82, 0x17, 0x00], .popc 9 ⟨18, .wait⟩, 4),
    ([0x0C, 0x83, 0x98, 0xBF], .addsh1 16 ⟨25, .take⟩ ⟨31, .chk⟩, 4),
    ([0x70, 0x83, 0xD9, 0xC7], .addsh2 23 ⟨1, .chk⟩ ⟨7, .raw⟩, 4),
    ([0xE4, 0x83, 0x1A, 0x6E], .addsh3 30 ⟨8, .raw⟩ ⟨14, .wait⟩, 4),
    ([0x67, 0x82, 0x5B, 0x95], .andn 6 ⟨15, .wait⟩ ⟨21, .take⟩, 4),
    ([0xDB, 0x82, 0x1C, 0x20], .sextw 13 ⟨22, .take⟩, 4),
    ([0x4E, 0x83, 0x1D, 0xC0], .zextw 20 ⟨29, .chk⟩, 4)] = true := by
  decide +kernel

theorem test_decode_major_02 : decodeAll [
    ([0x36, 0x84, 0x02, 0x18], .addi 3 ⟨12, .wait⟩ 0x1802, 4)] = true := by
  decide +kernel

theorem test_decode_major_03 : decodeAll [
    ([0xA9, 0x86, 0x03, 0xB8], .andi 10 ⟨19, .take⟩ 0x1803, 4)] = true := by
  decide +kernel

theorem test_decode_major_04 : decodeAll [
    ([0x1D, 0x89, 0x01, 0x58], .ori 17 ⟨26, .chk⟩ 0x1801, 4)] = true := by
  decide +kernel

theorem test_decode_major_05 : decodeAll [
    ([0x81, 0x8B, 0x02, 0x78], .xori 24 ⟨2, .raw⟩ 0x1802, 4)] = true := by
  decide +kernel

theorem test_decode_major_06 : decodeAll [
    ([0xF4, 0x8D, 0x03, 0x98], .slti 31 ⟨9, .wait⟩ 0x1803, 4)] = true := by
  decide +kernel

theorem test_decode_major_07 : decodeAll [
    ([0x78, 0x8E, 0x31, 0x20], .slli 7 ⟨16, .take⟩ 0x31, 4),
    ([0xEB, 0x8E, 0x32, 0xC8], .srli 14 ⟨23, .chk⟩ 0x32, 4),
    ([0x5F, 0x8F, 0x33, 0x70], .srai 21 ⟨30, .raw⟩ 0x33, 4)] = true := by
  decide +kernel

theorem test_decode_major_08 : decodeAll [
    ([0xCC, 0x91, 0x01, 0x00], .lui 28 0xC0001, 4)] = true := by
  decide +kernel

theorem test_decode_major_09 : decodeAll [
    ([0x4C, 0x92, 0x02, 0x00], .addpc 4 0xC0002, 4)] = true := by
  decide +kernel

theorem test_decode_major_0A : decodeAll [
    ([0xBA, 0x94, 0x03, 0x58], .ldb 11 ⟨20, .chk⟩ 0x1803, 4)] = true := by
  decide +kernel

theorem test_decode_major_0B : decodeAll [
    ([0x2D, 0x97, 0x01, 0xF8], .ldbu 18 ⟨27, .raw⟩ 0x1801, 4)] = true := by
  decide +kernel

theorem test_decode_major_0C : decodeAll [
    ([0x91, 0x99, 0x02, 0x98], .ldh 25 ⟨3, .wait⟩ 0x1802, 4)] = true := by
  decide +kernel

theorem test_decode_major_0D : decodeAll [
    ([0x15, 0x9A, 0x03, 0x38], .ldhu 1 ⟨10, .take⟩ 0x1803, 4)] = true := by
  decide +kernel

theorem test_decode_major_0E : decodeAll [
    ([0x88, 0x9C, 0x01, 0xD8], .ldw 8 ⟨17, .chk⟩ 0x1801, 4)] = true := by
  decide +kernel

theorem test_decode_major_0F : decodeAll [
    ([0xFC, 0x9E, 0x02, 0x78], .ldwu 15 ⟨24, .raw⟩ 0x1802, 4)] = true := by
  decide +kernel

theorem test_decode_major_10 : decodeAll [
    ([0x6F, 0xA1, 0x03, 0x98], .ldd 22 ⟨31, .wait⟩ 0x1803, 4)] = true := by
  decide +kernel

theorem test_decode_major_11 : decodeAll [
    ([0xEA, 0xA2, 0x02, 0x76], .stb ⟨14, .chk⟩ ⟨20, .raw⟩ 0x602, 4)] = true := by
  decide +kernel

theorem test_decode_major_12 : decodeAll [
    ([0x5D, 0xA5, 0x03, 0x9E], .sth ⟨21, .raw⟩ ⟨27, .wait⟩ 0x603, 4)] = true := by
  decide +kernel

theorem test_decode_major_13 : decodeAll [
    ([0xC1, 0xA7, 0x01, 0xA6], .stw ⟨28, .wait⟩ ⟨3, .take⟩ 0x601, 4)] = true := by
  decide +kernel

theorem test_decode_major_14 : decodeAll [
    ([0x45, 0xA8, 0x02, 0x4E], .std ⟨4, .take⟩ ⟨10, .chk⟩ 0x602, 4)] = true := by
  decide +kernel

theorem test_decode_major_15 : decodeAll [
    ([0x25, 0xAA, 0x03, 0xC6], .ldf 2 ⟨11, .chk⟩ 0x603, 4),
    ([0x99, 0xAA, 0x01, 0x6E], .ldt 9 ⟨18, .raw⟩ 0x601, 4),
    ([0x0C, 0xAB, 0x02, 0x96], .ldp 16 ⟨25, .wait⟩ 0x602, 4),
    ([0x70, 0xAB, 0x03, 0xBE], .ldft 23 ⟨1, .take⟩ 0x603, 4)] = true := by
  decide +kernel

theorem test_decode_major_16 : decodeAll [
    ([0xFA, 0xAC, 0x02, 0x9E], .stf ⟨15, .raw⟩ ⟨21, .wait⟩ 0x602, 4)] = true := by
  decide +kernel

theorem test_decode_major_17 : decodeAll [
    ([0x0B, 0xAE, 0x03, 0x16], .fewF ⟨22, .wait⟩ 0x603, 4),
    ([0x0E, 0xAE, 0x01, 0xA6], .fewE ⟨29, .take⟩ 0x601, 4)] = true := by
  decide +kernel

theorem test_decode_major_18 : decodeAll [
    ([0xB2, 0xB1, 0xC1, 0xCB], .amoadd 27 ⟨5, .chk⟩ ⟨11, .raw⟩ .acq, 4),
    ([0x36, 0xB0, 0x06, 0x72], .amoswap 3 ⟨12, .raw⟩ ⟨18, .wait⟩ .rel, 4),
    ([0xA9, 0xB0, 0x4B, 0x99], .amocas 10 ⟨19, .wait⟩ ⟨25, .take⟩ .acqrel, 4),
    ([0x1D, 0xB1, 0x8C, 0x21], .amomin 17 ⟨26, .take⟩ ⟨1, .chk⟩ .relaxed, 4),
    ([0x81, 0xB1, 0xD1, 0x48], .amomax 24 ⟨2, .chk⟩ ⟨8, .raw⟩ .acq, 4),
    ([0xF4, 0xB1, 0x16, 0xEF], .amominu 31 ⟨9, .raw⟩ ⟨15, .wait⟩ .rel, 4),
    ([0x78, 0xB0, 0x5B, 0x16], .amomaxu 7 ⟨16, .wait⟩ ⟨22, .take⟩ .acqrel, 4),
    ([0xEB, 0xB0, 0x9C, 0xBD], .amoand 14 ⟨23, .take⟩ ⟨29, .chk⟩ .relaxed, 4),
    ([0x5F, 0xB1, 0xE1, 0x45], .amoor 21 ⟨30, .chk⟩ ⟨5, .raw⟩ .acq, 4),
    ([0xC3, 0xB1, 0x26, 0x6C], .amoxor 28 ⟨6, .raw⟩ ⟨12, .wait⟩ .rel, 4)] = true := by
  decide +kernel

theorem test_decode_major_19 : decodeAll [
    ([0x00, 0xB2, 0x00, 0x14], .fenceFull .fabric, 4),
    ([0x00, 0xB2, 0x00, 0x01], .fenceAcq .slot, 4),
    ([0x00, 0xB2, 0x00, 0x06], .fenceRel .core, 4)] = true := by
  decide +kernel

theorem test_decode_major_1A : decodeAll [
    ([0x3D, 0xB4, 0x03, 0x26], .beq ⟨3, .raw⟩ ⟨9, .wait⟩ 0x603, 4)] = true := by
  decide +kernel

theorem test_decode_major_1B : decodeAll [
    ([0xA2, 0xB6, 0x01, 0x0E], .bne ⟨10, .wait⟩ ⟨16, .take⟩ 0x601, 4)] = true := by
  decide +kernel

theorem test_decode_major_1C : decodeAll [
    ([0x16, 0xB9, 0x02, 0xF6], .blt ⟨17, .take⟩ ⟨23, .chk⟩ 0x602, 4)] = true := by
  decide +kernel

theorem test_decode_major_1D : decodeAll [
    ([0x8B, 0xBB, 0x03, 0xDE], .bge ⟨24, .chk⟩ ⟨30, .raw⟩ 0x603, 4)] = true := by
  decide +kernel

theorem test_decode_major_1E : decodeAll [
    ([0xFC, 0xBD, 0x01, 0xC6], .bltu ⟨31, .raw⟩ ⟨6, .wait⟩ 0x601, 4)] = true := by
  decide +kernel

theorem test_decode_major_1F : decodeAll [
    ([0x71, 0xBE, 0x02, 0xAE], .bgeu ⟨7, .wait⟩ ⟨13, .take⟩ 0x602, 4)] = true := by
  decide +kernel

theorem test_decode_major_20 : decodeAll [
    ([0x5C, 0xC0, 0x03, 0x00], .jal 5 0xC0003, 4)] = true := by
  decide +kernel

theorem test_decode_major_21 : decodeAll [
    ([0xCA, 0xC2, 0x01, 0xD8], .jalr 12 ⟨21, .chk⟩ 0x1801, 4)] = true := by
  decide +kernel

theorem test_decode_major_22 : decodeAll [
    ([0x4E, 0xC5, 0x02, 0x78], .loop 20 ⟨28, .raw⟩ 0x1802, 4)] = true := by
  decide +kernel

theorem test_decode_major_23 : decodeAll [
    ([0x25, 0xC6, 0x00, 0xA0], .spawn 2 ⟨11, .take⟩, 4),
    ([0x99, 0xC6, 0x01, 0x40], .join 9 ⟨18, .chk⟩, 4),
    ([0x0C, 0xC7, 0x02, 0xE0], .leave 16 ⟨25, .raw⟩, 4),
    ([0x70, 0xC7, 0x43, 0x87], .bar 23 ⟨1, .wait⟩ ⟨7, .take⟩, 4),
    ([0x00, 0xC6, 0x04, 0x00], .exit, 4),
    ([0x00, 0xC6, 0x05, 0x00], .yield, 4),
    ([0x00, 0xC6, 0x06, 0x00], .trigger, 4),
    ([0x4E, 0xC7, 0x07, 0x80], .whoami 20 ⟨29, .wait⟩, 4),
    ([0xB2, 0xC7, 0x08, 0xA0], .grpcnt 27 ⟨5, .take⟩, 4)] = true := by
  decide +kernel

theorem test_decode_major_24 : decodeAll [
    ([0x6C, 0xC9, 0x00, 0x04], .waittl 11 ⟨12, .chk⟩, 4)] = true := by
  decide +kernel

theorem test_decode_major_25 : decodeAll [
    ([0x93, 0xCA, 0x00, 0x06], .qbind 4 ⟨19, .raw⟩, 4),
    ([0x60, 0xCB, 0x01, 0x00], .qfree 11, 4),
    ([0x7F, 0xCA, 0x02, 0x00], .qstat 3 31, 4),
    ([0x47, 0xCB, 0x03, 0x00], .qrd 10 7, 4),
    ([0x50, 0xCA, 0x04, 0x06], .qwr 2 ⟨16, .raw⟩, 4)] = true := by
  decide +kernel

theorem test_decode_major_26 : decodeAll [
    ([0x15, 0xCC, 0x40, 0xB8], .cpy 21 ⟨23, .wait⟩ 1, 4),
    ([0x1C, 0xCC, 0xC1, 0xF0], .cpyRect 28 ⟨30, .take⟩ 1, 4),
    ([0x04, 0xCC, 0x42, 0x31], .cpyWin 4 ⟨6, .chk⟩ 1, 4),
    ([0x0B, 0xCC, 0xC3, 0x69], .cpyCow 11 ⟨13, .raw⟩ 1, 4)] = true := by
  decide +kernel

theorem test_decode_major_27 : decodeAll [
    ([0x01, 0xCE, 0x40, 0x19], .gath 1 ⟨3, .chk⟩ 1, 4),
    ([0x08, 0xCE, 0xC1, 0x51], .gathRows 8 ⟨10, .raw⟩ 1, 4)] = true := by
  decide +kernel

theorem test_decode_major_28 : decodeAll [
    ([0x16, 0xD0, 0xE0, 0xC0], .collAllred 22 ⟨24, .take⟩ 3, 4),
    ([0x1D, 0xD0, 0x61, 0xF9], .collAllgath 29 ⟨31, .chk⟩ 3, 4),
    ([0x05, 0xD0, 0xE2, 0x39], .collRedscat 5 ⟨7, .raw⟩ 3, 4),
    ([0x0C, 0xD0, 0x63, 0x70], .collAlltoall 12 ⟨14, .wait⟩ 3, 4)] = true := by
  decide +kernel

theorem test_decode_major_29 : decodeAll [
    ([0x02, 0xD2, 0x80, 0x21], .atsub 2 ⟨4, .raw⟩, 4)] = true := by
  decide +kernel

theorem test_decode_major_2A : decodeAll [
    ([0x09, 0xD4, 0x00, 0x00], .mlease 9, 4),
    ([0x40, 0xD4, 0x01, 0x00], .mrel 2, 4),
    ([0x60, 0xD4, 0x02, 0x00], .mzero 3, 4),
    ([0x28, 0xD4, 0x83, 0x70], .mmul 1 ⟨8, .wait⟩ ⟨14, .take⟩, 4),
    ([0xCF, 0xD4, 0x03, 0xAB], .mmulS 2 ⟨15, .take⟩ ⟨21, .chk⟩, 4),
    ([0x74, 0xD4, 0x04, 0xB1], .mdrain 3 20 ⟨22, .chk⟩, 4),
    ([0x20, 0xD4, 0x05, 0x00], .mwait 1, 4)] = true := by
  decide +kernel

theorem test_decode_major_2B : decodeAll [
    ([0x47, 0xD6, 0x80, 0x48], .ralloc true false 7 ⟨9, .take⟩, 4),
    ([0x0E, 0xD6, 0x01, 0x81], .rfill 14 ⟨16, .chk⟩, 4),
    ([0x1C, 0xD6, 0x02, 0xF0], .rpin 28 ⟨30, .wait⟩, 4),
    ([0x04, 0xD6, 0x83, 0x30], .runpin 4 ⟨6, .take⟩, 4),
    ([0x0B, 0xD6, 0x04, 0x69], .rrevoke 11 ⟨13, .chk⟩, 4),
    ([0x12, 0xD6, 0x85, 0xA1], .rquery 18 ⟨20, .raw⟩, 4)] = true := by
  decide +kernel

theorem test_decode_major_2C : decodeAll [
    ([0x03, 0xD8, 0x00, 0x4B], .tidset ⟨3, .take⟩ ⟨9, .chk⟩, 4),
    ([0x0A, 0xD8, 0x81, 0x85], .tidget ⟨10, .chk⟩ ⟨16, .raw⟩, 4),
    ([0x71, 0xD8, 0x02, 0xBE], .tidpatch 3 ⟨17, .raw⟩ ⟨23, .wait⟩, 4)] = true := by
  decide +kernel

theorem test_decode_major_2D : decodeAll [
    ([0x31, 0xDA, 0x80, 0x97], .vadd 1 8 12 5 .n64 false, 4),
    ([0x1E, 0xDB, 0xC1, 0x94], .vsub 8 15 4 5 .i16 true, 4),
    ([0xEF, 0xDB, 0x02, 0x76], .vmul 15 7 11 5 .n8 false, 4),
    ([0xFC, 0xDA, 0x43, 0x75], .vmulh 7 14 3 5 .i32 true, 4),
    ([0xCD, 0xDB, 0x04, 0x57], .vmin 14 6 10 5 .n32 false, 4),
    ([0xDA, 0xDA, 0x45, 0x54], .vmax 6 13 2 5 .i8 true, 4),
    ([0xAB, 0xDB, 0x86, 0x36], .vand 13 5 9 5 .n16 false, 4),
    ([0xB8, 0xDA, 0x47, 0x35], .vor 5 12 1 5 .i32 true, 4),
    ([0x89, 0xDB, 0x88, 0x17], .vxor 12 4 8 5 .n64 false, 4),
    ([0x97, 0xDA, 0xC9, 0xF4], .vshl 4 11 15 5 .i16 true, 4),
    ([0x66, 0xDB, 0x0A, 0xF6], .vshr 11 3 7 5 .n8 false, 4),
    ([0x75, 0xDA, 0x4B, 0xD5], .vsra 3 10 14 5 .i32 true, 4),
    ([0x44, 0xDB, 0x8C, 0x15], .vabs 10 2 5 .i64 false, 4),
    ([0x52, 0xDA, 0x4D, 0x14], .vneg 2 9 5 .i8 true, 4),
    ([0x22, 0xDB, 0x0E, 0xB4], .vmac 9 1 5 5 .i8 false, 4)] = true := by
  decide +kernel

theorem test_decode_major_2E : decodeAll [
    ([0x31, 0xDC, 0xC0, 0x94], .vfadd 1 8 12 5 .bf16 true, 4),
    ([0x1E, 0xDD, 0x01, 0x95], .vfsub 8 15 4 5 .f16 false, 4),
    ([0xEF, 0xDD, 0x42, 0x74], .vfmul 15 7 11 5 .f32 true, 4),
    ([0xFC, 0xDC, 0x83, 0x74], .vfma 7 14 3 5 .bf16 false, 4),
    ([0xCD, 0xDD, 0x44, 0x55], .vfmin 14 6 10 5 .f16 true, 4),
    ([0xDA, 0xDC, 0x05, 0x54], .vfmax 6 13 2 5 .f32 false, 4),
    ([0xAA, 0xDD, 0xC6, 0x14], .vfabs 13 5 5 .bf16 true, 4),
    ([0xB8, 0xDC, 0x07, 0x15], .vfneg 5 12 5 .f16 false, 4)] = true := by
  decide +kernel

theorem test_decode_major_2F : decodeAll [
    ([0x88, 0xDF, 0x3A, 0x36], .vcvt 12 4 5 .bf16 .i8 .rup .nan true, 4)] = true := by
  decide +kernel

theorem test_decode_major_30 : decodeAll [
    ([0x60, 0xE1, 0xD0, 0xD6], .vld 11 ⟨13, .take⟩ 5 .s2 true, 4),
    ([0x61, 0xE0, 0xA1, 0x4A], .vst 3 ⟨20, .chk⟩ 5 .s4, 4),
    ([0x45, 0xE1, 0xF2, 0xBE], .vgath 10 2 ⟨27, .raw⟩ 5 .s8 true, 4),
    ([0x52, 0xE0, 0x83, 0x32], .vscat 2 9 ⟨3, .wait⟩ 5 .s1, 4),
    ([0x20, 0xE1, 0xD4, 0xA6], .vsplat 9 ⟨10, .take⟩ 5 .s2 true, 4)] = true := by
  decide +kernel

theorem test_decode_major_31 : decodeAll [
    ([0xD1, 0xE2, 0xE8, 0xBD], .vbound 6 ⟨17, .chk⟩ ⟨23, .raw⟩ .n16, 4),
    ([0x7E, 0xE2, 0xA1, 0x96], .vcmp 3 15 4 5 .i32 .gt, 4),
    ([0x66, 0xE2, 0x02, 0xE0], .pand 3 3 7, 4),
    ([0x66, 0xE2, 0x03, 0xE0], .por 3 3 7, 4),
    ([0x66, 0xE2, 0x04, 0x00], .pnot 3 3, 4),
    ([0x66, 0xE2, 0x05, 0xE0], .pxor 3 3 7, 4),
    ([0xDA, 0xE2, 0x76, 0x00], .pcount 6 26 .n32, 4),
    ([0xC2, 0xE2, 0x47, 0x00], .pfirst 6 2 .i8, 4)] = true := by
  decide +kernel

theorem test_decode_major_32 : decodeAll [
    ([0x88, 0xE5, 0xC0, 0xBA], .vslideup 12 4 ⟨11, .chk⟩ 5 .s4 false, 4),
    ([0x97, 0xE4, 0xF1, 0x2E], .vslidedn 4 11 ⟨18, .raw⟩ 5 .s8 true, 4),
    ([0x66, 0xE5, 0xC2, 0xF7], .vperm 11 3 7 5 .n64 false, 4),
    ([0x74, 0xE4, 0x63, 0x16], .vcompress 3 10 5 .i16 true, 4),
    ([0x44, 0xE5, 0x04, 0xD7], .vsel 10 2 6 5 .n8, 4),
    ([0x53, 0xE4, 0x85, 0xB4], .vredadd 2 9 13 5 .f16, 4),
    ([0x22, 0xE5, 0x06, 0xB4], .vredmax 9 1 5 5 .f32, 4),
    ([0x31, 0xE4, 0x47, 0x94], .vredmin 1 8 12 5 .bf16, 4),
    ([0x1E, 0xE5, 0x88, 0x94], .vfredadd 8 15 4 5 .f16, 4),
    ([0x6A, 0xE4, 0xE9, 0x61], .vext 3 10 ⟨12, .raw⟩ .s8, 4),
    ([0x53, 0xE5, 0x8A, 0xC8], .vins 10 ⟨19, .wait⟩ ⟨25, .take⟩ .s1, 4)] = true := by
  decide +kernel

theorem test_decode_major_33 : decodeAll [
    ([0xCC, 0xE7, 0xA0, 0x14], .vrcp 14 6 5 .f16 true, 4),
    ([0xDA, 0xE6, 0x01, 0x14], .vrsq 6 13 5 .f32 false, 4),
    ([0xAA, 0xE7, 0x62, 0x14], .vexp2 13 5 5 .bf16 true, 4),
    ([0xB8, 0xE6, 0x83, 0x14], .vlog2 5 12 5 .f16 false, 4),
    ([0x88, 0xE7, 0x24, 0x14], .vtanh 12 4 5 .f32 true, 4)] = true := by
  decide +kernel

theorem test_decode_major_34 : decodeAll [
    ([0x0B, 0xE8, 0x00, 0x00], .vwidth 11, 4),
    ([0x44, 0xE9, 0x41, 0x14], .vtopk 10 2 5 .bf16, 4),
    ([0x53, 0xE8, 0x82, 0xA0], .vmaxx 2 9 13 .f16, 4),
    ([0x22, 0xE9, 0x43, 0xB5], .vquant 9 1 5 5 .bsi8, 4),
    ([0x30, 0xE8, 0x44, 0x17], .vhist 1 8 5 .n16, 4)] = true := by
  decide +kernel

theorem test_decode_major_35 : decodeAll [
    ([0xFC, 0xEA, 0x00, 0x40], .crd 15 ⟨24, .chk⟩, 4),
    ([0x0F, 0xEA, 0x01, 0xE6], .cwr ⟨31, .raw⟩ ⟨6, .wait⟩, 4),
    ([0xD3, 0xEB, 0x42, 0x8D], .trap 29 ⟨7, .wait⟩ ⟨13, .take⟩, 4),
    ([0x07, 0xEA, 0x03, 0x20], .eret ⟨14, .take⟩, 4),
    ([0xCA, 0xEA, 0x04, 0xC0], .slotld 12 ⟨21, .chk⟩, 4),
    ([0x0E, 0xEA, 0x05, 0x63], .slotst ⟨28, .raw⟩ ⟨3, .wait⟩, 4),
    ([0x02, 0xEA, 0x06, 0x00], .park ⟨4, .wait⟩, 4),
    ([0x05, 0xEA, 0x07, 0xA0], .unpark ⟨11, .take⟩, 4),
    ([0x09, 0xEA, 0x08, 0x40], .kill ⟨18, .chk⟩, 4),
    ([0x00, 0xEA, 0x09, 0x00], .brk, 4),
    ([0x00, 0xEA, 0x0A, 0x00], .wfe, 4)] = true := by
  decide +kernel

theorem test_decode_major_36 : decodeAll [
    ([0x0C, 0xEC, 0x01, 0x00], .skipw 0xC0001, 4)] = true := by
  decide +kernel

theorem test_decode_agent_short : agentAll [
    ([0x00, 0x00, 0x00, 0x00, 0x00, 0x00, 0x00, 0x00], .short .anop),
    ([0x12, 0x00, 0x00, 0x00, 0x00, 0x00, 0x18, 0x01], .short (.amovi 3 0x12)),
    ([0x12, 0x00, 0x00, 0x00, 0x01, 0x00, 0x18, 0x01], .short (.amoviHi 3 0x12)),
    ([0x00, 0x00, 0x00, 0x00, 0x00, 0x86, 0x08, 0x02], .short (.aadd 1 2 3)),
    ([0x00, 0x00, 0x00, 0x00, 0x00, 0xCC, 0x27, 0x03], .short (.asub 4 31 6)),
    ([0xFD, 0xFF, 0xFF, 0xFF, 0x00, 0x80, 0x29, 0x04], .short (.aaddi 5 6 (-3))),
    ([0x00, 0x00, 0x00, 0x00, 0x00, 0x3C, 0x3A, 0x05], .short (.amul 7 8 30)),
    ([0x05, 0x00, 0x00, 0x00, 0x00, 0x80, 0x08, 0x06], .short (.abeq 1 2 5)),
    ([0xFD, 0xFF, 0xFF, 0xFF, 0x00, 0x80, 0x08, 0x07], .short (.abne 1 2 (-3))),
    ([0x01, 0x00, 0x00, 0x00, 0x00, 0x80, 0x4A, 0x08], .short (.ablt 9 10 1)),
    ([0xFF, 0xFF, 0xFF, 0xFF, 0x00, 0x00, 0x5B, 0x09], .short (.abge 11 12 (-1))),
    ([0xFF, 0xFF, 0xFF, 0x7F, 0x00, 0x00, 0x00, 0x0A], .short (.ajmp 0x7FFFFFFF)),
    ([0xF8, 0xFF, 0xFF, 0xFF, 0x00, 0x00, 0x00, 0x0B], .short (.acall (-8))),
    ([0x00, 0x00, 0x00, 0x00, 0x00, 0x00, 0x00, 0x0C], .short .aret),
    ([0x18, 0x00, 0x00, 0x00, 0x06, 0x00, 0x19, 0x0D], .short (.ald .s4 true 3 4 0x18)),
    ([0xF8, 0xFF, 0xFF, 0xFF, 0x03, 0x80, 0x29, 0x0E], .short (.ast .s8 5 6 (-8))),
    ([0x08, 0x00, 0x00, 0x00, 0x00, 0x40, 0x18, 0x0F], .short (.sload 3 1 8)),
    ([0x10, 0x00, 0x00, 0x00, 0x00, 0x80, 0x78, 0x10], .short (.sstore 15 2 16)),
    ([0x00, 0x00, 0x00, 0x00, 0x00, 0x80, 0x0B, 0x11], .short (.sjoin 1 14)),
    ([0x00, 0x00, 0x00, 0x00, 0x00, 0xC0, 0xA1, 0x12], .short (.slen 20 7)),
    ([0x00, 0x00, 0x00, 0x00, 0x00, 0x86, 0x08, 0x13], .short (.stok 1 2 3)),
    ([0x00, 0x00, 0x00, 0x00, 0x01, 0x86, 0x08, 0x13], .short (.stokW 1 2 3)),
    ([0x00, 0x00, 0x00, 0x00, 0x00, 0x74, 0x21, 0x14], .short (.ssel 4 5 26)),
    ([0x00, 0x00, 0x00, 0x00, 0x00, 0x00, 0x48, 0x15], .short (.sclear 9)),
    ([0x00, 0x00, 0x80, 0x3F, 0x00, 0x00, 0x18, 0x16], .short (.fmovi 3 0x3F800000)),
    ([0x07, 0x00, 0x00, 0x00, 0x00, 0x80, 0x08, 0x17], .short (.fblt 1 2 7)),
    ([0x00, 0x00, 0x00, 0x00, 0x00, 0x40, 0x8A, 0x18], .short (.fbits 17 9)),
    ([0x00, 0x00, 0x00, 0x00, 0x01, 0x40, 0x8A, 0x18], .short (.fbitsF 17 9)),
    ([0x02, 0x00, 0x00, 0x00, 0x00, 0x00, 0x38, 0x19], .short (.choose 7 0 2)),
    ([0x00, 0x00, 0x00, 0x00, 0x00, 0x80, 0xA9, 0x1A], .short (.ctxlen 21 6)),
    ([0x00, 0x00, 0x00, 0x00, 0x00, 0x40, 0xB1, 0x1B], .short (.ctxstat 22 5)),
    ([0x01, 0x00, 0x00, 0x00, 0x00, 0x00, 0x30, 0x1C], .short (.post 6 1)),
    ([0x00, 0x00, 0x00, 0x00, 0x00, 0x00, 0xF8, 0x1D], .short (.ahalt 31))] = true := by
  decide +kernel

theorem test_decode_agent_long : agentAll [
    ([0x03, 0x00, 0x00, 0x00, 0x00, 0x00, 0x08, 0x20], .long (.ctxnew 1 3)),
    ([0x00, 0x00, 0x00, 0x00, 0x00, 0x00, 0x60, 0x21], .long (.ctxfree 12)),
    ([0x00, 0x00, 0x00, 0x00, 0x00, 0x40, 0x18, 0x22], .long (.fork 3 1)),
    ([0x00, 0x00, 0x00, 0x00, 0x00, 0xC0, 0x11, 0x23], .long (.trim 2 7)),
    ([0x00, 0x00, 0x00, 0x00, 0x00, 0xC8, 0x10, 0x24], .long (.append 2 3 4)),
    ([0x00, 0x00, 0x00, 0x00, 0x00, 0x0A, 0x99, 0x25], .long (.probe 19 4 5)),
    ([0x00, 0x00, 0x00, 0x00, 0x00, 0xAE, 0x08, 0x26], .long (.pin 1 2 23)),
    ([0x00, 0x00, 0x00, 0x00, 0x00, 0x80, 0x34, 0x27], .long (.unpin 6 18)),
    ([0x00, 0x00, 0x00, 0x00, 0x40, 0x86, 0x08, 0x28], .long (.score 1 2 3 4)),
    ([0x00, 0x00, 0x00, 0x00, 0x00, 0xA2, 0x29, 0x29], .long (.gen 5 6 17)),
    ([0x00, 0x00, 0x00, 0x00, 0x00, 0x00, 0x3C, 0x2A], .long (.sampset 7 16)),
    ([0x00, 0x00, 0x00, 0x00, 0x00, 0xC0, 0x43, 0x2B], .long (.maskbind 8 15)),
    ([0x00, 0x00, 0x00, 0x00, 0x00, 0x80, 0x4B, 0x2C], .long (.rngjump 9 14)),
    ([0x07, 0x00, 0x00, 0x00, 0x00, 0x00, 0x48, 0x2D], .long (.await 9 7))] = true := by
  decide +kernel

/-! ### Ill-formed terms: for each check of WellFormed.lean, a term that breaks it alone -/

def noneWf (is : List Instr) : Bool := is.all fun i => !i.wf

theorem test_illFormed_0 : noneWf [
    (.add 32 ⟨12, .take⟩ ⟨18, .chk⟩),
    (.add 3 ⟨32, .wait⟩ ⟨18, .chk⟩),
    (.add 3 ⟨12, .take⟩ ⟨32, .wait⟩),
    (.clz 32 ⟨4, .chk⟩),
    (.clz 26 ⟨32, .wait⟩),
    (.lui 32 0xC0001),
    (.stb ⟨32, .wait⟩ ⟨20, .raw⟩ 0x602),
    (.stb ⟨14, .chk⟩ ⟨32, .wait⟩ 0x602),
    (.fewF ⟨32, .wait⟩ 0x603),
    (.loop 20 ⟨32, .wait⟩ 0x1802),
    (.waittl 12 ⟨12, .chk⟩),
    (.waittl 11 ⟨32, .wait⟩),
    (.qbind 16 ⟨19, .raw⟩),
    (.qbind 4 ⟨32, .wait⟩),
    (.qfree 16),
    (.qstat 16 31),
    (.qstat 3 32),
    (.cpy 32 ⟨23, .wait⟩ 1),
    (.cpy 21 ⟨23, .wait⟩ 2),
    (.cpy 21 ⟨32, .wait⟩ 1),
    (.collAllred 32 ⟨24, .take⟩ 3),
    (.collAllred 22 ⟨24, .take⟩ 4),
    (.collAllred 22 ⟨32, .wait⟩ 3),
    (.mrel 4),
    (.mmul 4 ⟨8, .wait⟩ ⟨14, .take⟩),
    (.mmul 1 ⟨32, .wait⟩ ⟨14, .take⟩),
    (.mmul 1 ⟨8, .wait⟩ ⟨32, .wait⟩),
    (.mdrain 4 20 ⟨22, .chk⟩),
    (.mdrain 3 32 ⟨22, .chk⟩),
    (.mdrain 3 20 ⟨32, .wait⟩),
    (.ralloc true false 32 ⟨9, .take⟩),
    (.ralloc true false 7 ⟨32, .wait⟩),
    (.vadd 16 8 12 5 .n64 false),
    (.vadd 1 16 12 5 .n64 false),
    (.vadd 1 8 16 5 .n64 false),
    (.vadd 1 8 12 8 .n64 false),
    (.vadd 1 8 12 5 .f32 false),
    (.vsra 16 10 14 5 .i32 true),
    (.vsra 3 16 14 5 .i32 true),
    (.vsra 3 10 16 5 .i32 true)] = true := by
  decide +kernel

theorem test_illFormed_1 : noneWf [
    (.vsra 3 10 14 8 .i32 true),
    (.vsra 3 10 14 5 .n8 true),
    (.vabs 16 2 5 .i64 false),
    (.vabs 10 16 5 .i64 false),
    (.vabs 10 2 8 .i64 false),
    (.vabs 10 2 5 .n8 false),
    (.vfadd 16 8 12 5 .bf16 true),
    (.vfadd 1 16 12 5 .bf16 true),
    (.vfadd 1 8 16 5 .bf16 true),
    (.vfadd 1 8 12 8 .bf16 true),
    (.vfadd 1 8 12 5 .i8 true),
    (.vfabs 16 5 5 .bf16 true),
    (.vfabs 13 16 5 .bf16 true),
    (.vfabs 13 5 8 .bf16 true),
    (.vfabs 13 5 5 .i8 true),
    (.vcvt 16 4 5 .bf16 .i8 .rup .nan true),
    (.vcvt 12 16 5 .bf16 .i8 .rup .nan true),
    (.vcvt 12 4 8 .bf16 .i8 .rup .nan true),
    (.vcvt 12 4 5 .bsi8 .i8 .rup .nan true),
    (.vcvt 12 4 5 .bf16 .bsi8 .rup .nan true),
    (.vcvt 12 4 5 .bf16 .bf16 .rup .nan true),
    (.vld 16 ⟨13, .take⟩ 5 .s2 true),
    (.vld 11 ⟨13, .take⟩ 8 .s2 true),
    (.vld 11 ⟨32, .wait⟩ 5 .s2 true),
    (.vgath 16 2 ⟨27, .raw⟩ 5 .s8 true),
    (.vgath 10 16 ⟨27, .raw⟩ 5 .s8 true),
    (.vgath 10 2 ⟨27, .raw⟩ 8 .s8 true),
    (.vgath 10 2 ⟨32, .wait⟩ 5 .s8 true),
    (.vbound 8 ⟨17, .chk⟩ ⟨23, .raw⟩ .n16),
    (.vbound 6 ⟨32, .wait⟩ ⟨23, .raw⟩ .n16),
    (.vbound 6 ⟨17, .chk⟩ ⟨32, .wait⟩ .n16),
    (.vbound 6 ⟨17, .chk⟩ ⟨23, .raw⟩ .bpn),
    (.vcmp 8 15 4 5 .i32 .gt),
    (.vcmp 3 16 4 5 .i32 .gt),
    (.vcmp 3 15 16 5 .i32 .gt),
    (.vcmp 3 15 4 8 .i32 .gt),
    (.vcmp 3 15 4 5 .e4m3 .gt),
    (.vcmp 3 15 4 5 .i32 .unord),
    (.pand 8 3 7),
    (.pand 3 8 7)] = true := by
  decide +kernel

theorem test_illFormed_2 : noneWf [
    (.pand 3 3 8),
    (.pnot 8 3),
    (.pnot 3 8),
    (.pcount 8 26 .n32),
    (.pcount 6 32 .n32),
    (.pcount 6 26 .bpn),
    (.vcompress 16 10 5 .i16 true),
    (.vcompress 3 16 5 .i16 true),
    (.vcompress 3 10 8 .i16 true),
    (.vcompress 3 10 5 .bpn true),
    (.vsel 16 2 6 5 .n8),
    (.vsel 10 16 6 5 .n8),
    (.vsel 10 2 16 5 .n8),
    (.vsel 10 2 6 8 .n8),
    (.vsel 10 2 6 5 .bpn),
    (.vredadd 16 9 13 5 .f16),
    (.vredadd 2 16 13 5 .f16),
    (.vredadd 2 9 16 5 .f16),
    (.vredadd 2 9 13 8 .f16),
    (.vredadd 2 9 13 5 .e4m3),
    (.vext 16 10 ⟨12, .raw⟩ .s8),
    (.vext 3 32 ⟨12, .raw⟩ .s8),
    (.vext 3 10 ⟨32, .wait⟩ .s8),
    (.vins 16 ⟨19, .wait⟩ ⟨25, .take⟩ .s1),
    (.vins 10 ⟨32, .wait⟩ ⟨25, .take⟩ .s1),
    (.vins 10 ⟨19, .wait⟩ ⟨32, .wait⟩ .s1),
    (.vtopk 16 2 5 .bf16),
    (.vtopk 10 16 5 .bf16),
    (.vtopk 10 2 8 .bf16),
    (.vtopk 10 2 5 .i64),
    (.vmaxx 16 9 13 .f16),
    (.vmaxx 2 16 13 .f16),
    (.vmaxx 2 9 16 .f16),
    (.vmaxx 2 9 13 .i64),
    (.vquant 16 1 5 5 .bsi8),
    (.vquant 9 16 5 5 .bsi8),
    (.vquant 9 1 16 5 .bsi8),
    (.vquant 9 1 5 8 .bsi8),
    (.vquant 9 1 5 5 .i8),
    (.vhist 16 8 5 .n16)] = true := by
  decide +kernel

theorem test_illFormed_3 : noneWf [
    (.vhist 1 16 5 .n16),
    (.vhist 1 8 8 .n16),
    (.vhist 1 8 5 .n64),
    (.cMov 16 12),
    (.cMov 8 16),
    (.aadd 32 2 3),
    (.aadd 1 32 3),
    (.aadd 1 2 32),
    (.aaddi 32 6 (-3)),
    (.aaddi 5 32 (-3)),
    (.ald .s4 true 32 4 0x18),
    (.ald .s4 true 3 32 0x18),
    (.ald .s8 true 3 4 0x18),
    (.ast .s8 32 6 (-8)),
    (.ast .s8 5 32 (-8)),
    (.slen 32 7),
    (.slen 20 16),
    (.stok 32 2 3),
    (.stok 1 16 3),
    (.stok 1 2 32),
    (.ssel 16 5 26),
    (.ssel 4 16 26),
    (.ssel 4 5 32),
    (.choose 32 0 2),
    (.choose 7 16 2),
    (.append 16 3 4),
    (.append 2 16 4),
    (.append 2 3 32),
    (.append 2 3 0),
    (.probe 32 4 5),
    (.probe 19 16 5),
    (.probe 19 4 16),
    (.score 16 2 3 4),
    (.score 1 16 3 4),
    (.score 1 2 16 4),
    (.score 1 2 3 32),
    (.score 1 2 3 0)] = true := by
  decide +kernel

theorem test_illFormed_ranges : noneWf [.loop 0 ⟨1, .wait⟩ 0, .loop 28 ⟨1, .wait⟩ 0, .choose 1 0 0, .choose 1 15 2] = true := by
  decide +kernel

/-! ### Bits that are no instruction, by the reason for which they are refused -/

theorem test_refusals :
    (match decodeBytes [0x00, 0x80, 0x00, 0x00] with | .error e => decide (e = .reservedMajor) | .ok _ => false) = true ∧
    (match decodeBytes [0x00, 0x82, 0x3F, 0x00] with | .error e => decide (e = .reservedValue) | .ok _ => false) = true ∧
    (match decodeBytes [0x00, 0x82, 0x55, 0x00] with | .error e => decide (e = .nonZeroField) | .ok _ => false) = true ∧
    (match decodeBytes [0x00, 0x82, 0x00] with | .error e => decide (e = .truncated) | .ok _ => false) = true ∧
    (match decodeBytes [0x00, 0x78] with | .error e => decide (e = .reservedMajor) | .ok _ => false) = true ∧
    (match decodeAgentBytes [0, 0, 0, 0, 0, 0, 0, 0x1E] with | .error e => decide (e = .agentOpcode) | .ok _ => false) = true ∧
    (match decodeAgentBytes [1, 0, 0, 0, 0, 0, 0, 0x0C] with | .error e => decide (e = .nonZeroField) | .ok _ => false) = true := by
  decide +kernel

/-! ### States that meet the hypotheses of the statements -/

/-- The step that a fetch leads to. -/
def fetchB (u : State) : Bool := match u.nextTurn with
  | some (core, t, before) => match ((u.beginTry core t before).withInsn 0 2).fetch with
    | .word w n _ => match decodeWord w n with
      | .ok _ => true
      | .error _ => false
    | _ => false
  | none => false

theorem fetch_of {u : State} (h : fetchB u = true) : ∃ core t before w n v i, u.nextTurn = some (core, t, before) ∧
    ((u.beginTry core t before).withInsn 0 2).fetch = .word w n v ∧ decodeWord w n = .ok i := by
  unfold fetchB at h
  split at h
  · rename_i core t before he
    split at h
    · rename_i w n v hf
      split at h
      · rename_i i hd
        exact ⟨core, t, before, w, n, v, i, he, hf, hd⟩
      · cases h
    · cases h
  · cases h

/-- The word 0x84321FFB, ADDI x3, x4, -5, placed at the root slot of core 0. -/
def placed : State := State.reset.withFetchWord 32 0x84321FFB

theorem wit_StepRunsDecoded_pass : placed.agenda = [.pass] ∧ ∃ core t before w n v i,
    State.nextTurn { placed with agenda := [] } = some (core, t, before) ∧
    ((State.beginTry { placed with agenda := [] } core t before).withInsn 0 2).fetch = .word w n v ∧ decodeWord w n = .ok i :=
  ⟨by decide, fetch_of (by decide +kernel)⟩

theorem wit_StepRunsDecoded_own : State.agenda { placed with agenda := [] } = [] ∧ State.booted { placed with agenda := [] } = true ∧
    (State.nextEvent { placed with agenda := [] }).isNone = true := by
  decide +kernel

theorem wit_StepRunsDecoded_event : State.agenda { placed with agenda := [.event .healthUpdate] } = .event .healthUpdate :: [] ∧
    isEvent .healthUpdate = true := by
  decide

/-- An agent of partition 1 whose next instruction is the word. -/
def agentAt (w : Nat) : State := State.reset.withFetchWord 64 w

theorem wit_StepRunsDecoded_agent : (agentAt 0x04298000FFFFFFFD).agenda = [.agent 0] ∧
    State.agentInsn { agentAt 0x04298000FFFFFFFD with agenda := [], cur := 0 } 0 = some (.short (.aaddi 5 6 (-3))) ∧
    State.agentInsn { agentAt 0x2410C80000000000 with agenda := [], cur := 0 } 0 = some (.long (.append 2 3 4)) := by
  decide +kernel

theorem wit_DecodeOfEncode : (Instr.lui 31 0xFFFFF).wf = true ∧ encode (.lui 31 0xFFFFF) ≠ .event ∧
    (Instr.score 15 15 15 31).wf = true ∧ encode (.score 15 15 15 31) ≠ .event ∧
    (Instr.cStf 15 15 7).wf = true ∧ encode (.cStf 15 15 7) ≠ .event := by
  decide +kernel

theorem wit_StepKeepsMemory : placed.MemOk ∧ ∃ t, step placed = .next t := ⟨by decide +kernel, next_of (by decide +kernel)⟩

/-! RegisterOnlyFrame: a next state for a member of each of its five groups -/

theorem wit_RegisterOnlyFrame :
    (∀ i ∈ [Instr.add 31 (tk 1) (w8 2), .cLi 15 0x7F, .beq (w8 1) (w8 2) 0x400, .vadd 15 1 2 0 .n8 true, .vredadd 0 1 2 7 .f32,
      .vbound 7 (w8 1) (w8 2) .n64], ∃ t, exec i (user [(1, 5), (2, 7)]) = .next t) ∧
    ∃ t, exec (.add 3 (w8 1) (w8 2)) (root [(1, 5)]) = .next t :=
  ⟨next_all (by decide +kernel), next_of (by decide +kernel)⟩

/-! AluResults, CompactAluResults, DivisionResults, BranchesAndJumps -/

theorem wit_AluResults : Ready (user [(1, -1), (2, 64)]) { src := [tk 1, w8 2], dx := [31] } ∧
    Ready (user [(1, 0)]) { src := [⟨1, .raw⟩], dx := [0] } ∧ Ready (user [(1, 1)]) { src := [⟨1, .chk⟩], dx := [1] } ∧
    Ready (user [(1, 1), (2, 63)]) { src := [w8 1, w8 2], dx := [0] } :=
  ⟨ready_of (by decide), ready_of (by decide), ready_of (by decide), ready_of (by decide)⟩

theorem wit_CompactAluResults : Ready (user [(3, 9)]) { src := [⟨3, .wait⟩], dx := [15] } ∧
    Ready (user [(3, 9)]) { src := [⟨15, .wait⟩, ⟨3, .wait⟩], dx := [15] } ∧ Ready (user []) { dx := [0] } ∧ Ready (user []) {} :=
  ⟨ready_of (by decide), ready_of (by decide), ready_of (by decide), ready_of (by decide)⟩

/-- Thread 1024 with a division that is due. -/
def dividing : State := (user [(1, 9)]).modCore 0 fun c => { c with divs := [⟨0, 1024, 3, 5, true⟩] }

theorem wit_DivisionResults : Ready (user [(1, 0x8000000000000000), (2, -1)]) { src := [w8 1, tk 2], dx := [3] } ∧
    Ready (user [(1, 7), (2, 0)]) { src := [w8 1, w8 2], dx := [3] } ∧
    ((dividing.core 0).divs = ⟨0, 1024, 3, 5, true⟩ :: [] ∧ 0 ≤ dividing.cycle ∧ dividing.alive 1024 = true) :=
  ⟨ready_of (by decide), ready_of (by decide), by decide⟩

theorem wit_BranchesAndJumps : (Ready (user [(1, 5), (2, 5)]) { src := [w8 1, tk 2] } ∧ (user []).insnLen = 4) ∧
    (Ready { user [(3, 0)] with insnLen := 2 } { src := [⟨3, .wait⟩] } ∧ State.insnLen { user [(3, 0)] with insnLen := 2 } = 2) ∧
    (Ready (user [(1, 0x1000)]) { src := [w8 1], dx := [1] } ∧
      ((user [(1, 0x1000)]).rx (w8 1) + BitVec.ofInt 64 (-2)).getLsbD 0 = false) ∧
    (Ready (user [(1, 0x1000)]) { src := [w8 1], dx := [1] } ∧
      ((user [(1, 0x1000)]).rx (w8 1) + BitVec.ofInt 64 (-1)).getLsbD 0 = true) :=
  ⟨⟨ready_of (by decide), by decide⟩, ⟨ready_of (by decide), by decide⟩, ⟨ready_of (by decide), by decide⟩,
    ⟨ready_of (by decide), by decide⟩⟩

/-! Loads and stores: x1 names a word of the scratchpad of core 0, and x2 one of HBM that a TLB entry maps -/

/-- A page of read and write data at 0x10000, at HBM address 0x20000, under key slot 2. -/
def data1 : Leaf := ⟨0x10000, 16, 0x20000, 2, false, 1, true, false, false⟩

def loads : State := (user [(1, 0x7F0000000100), (2, 0x10008), (3, 0x1122334455667788)]).modCore 0 fun c =>
  { c with tlb := [⟨1, 0, data1⟩] }

/-- An access of thread 1024 to the word at 0x100 of its scratchpad waits. -/
def waiting : State := { loads.modThr 1024 fun th => { th with heldOps := [⟨0, .store 5 [(.pad 0 0x100, 8)], [1]⟩] } with nextAcc := 1 }

theorem wit_LoadsAndStoresIssue :
    (Ready loads { src := [w8 1], dx := [4] } ∧
      (loads.take { src := [w8 1], dx := [4] }).target (loads.take { src := [w8 1], dx := [4] }).me .read false
        (loads.rx (w8 1) + BitVec.ofInt 64 (-1)) 4 4 1 = .trap 4 0 0x7F00000000FF) ∧
    (Ready loads { src := [tk 2], dx := [2] } ∧
      (loads.take { src := [tk 2], dx := [2] }).target (loads.take { src := [tk 2], dx := [2] }).me .read false
        (loads.rx (tk 2) + BitVec.ofInt 64 (-1)) 8 8 1 = .ok [(.page 2 0x20007, 8)] [1] (some data1)) ∧
    (Ready loads { src := [w8 3, w8 1] } ∧
      (loads.take { src := [w8 3, w8 1] }).target (loads.take { src := [w8 3, w8 1] }).me .std true
        (loads.rx (w8 1) + BitVec.ofInt 64 (8 * 8)) 8 8 1 = .ok [(.pad 0 0x140, 8)] [1] none) ∧
    (loads.take { src := [tk 2], dx := [2] }).mustWait (.load 2 8 false [(.page 2 0x20007, 8)]) [1] = false ∧
    (loads.take { src := [w8 3, w8 1] }).mustWait (.store 5 [(.pad 0 0x140, 8)]) [1] = false ∧
    (Ready waiting { src := [w8 1], dx := [4] } ∧
      (waiting.take { src := [w8 1], dx := [4] }).target (waiting.take { src := [w8 1], dx := [4] }).me .read false
        (waiting.rx (w8 1) + BitVec.ofInt 64 0) 8 8 1 = .ok [(.pad 0 0x100, 8)] [1] none ∧
      (waiting.take { src := [w8 1], dx := [4] }).mustWait (.load 4 8 false [(.pad 0 0x100, 8)]) [1] = true) ∧
    (waiting.take { src := [w8 3, w8 1] }).mustWait (.store 5 [(.pad 0 0x100, 8)]) [1] = true :=
  ⟨⟨ready_of (by decide), rfl⟩, ⟨ready_of (by decide), ok_of (by decide)⟩, ⟨ready_of (by decide), ok_of (by decide)⟩, by decide,
    by decide, ⟨ready_of (by decide), ok_of (by decide), by decide⟩, by decide⟩

theorem wit_LoadsReadMemory : Ready loads { src := [w8 2], dx := [4] } ∧ Quiet loads ∧
    (loads.take { src := [w8 2], dx := [4] }).target (loads.take { src := [w8 2], dx := [4] }).me .read false
      (loads.rx (w8 2) + BitVec.ofInt 64 0) 8 8 1 = .ok [(.page 2 0x20008, 8)] [1] (some data1) ∧
    Uncounted (some data1) ∧ Clean loads :=
  ⟨ready_of (by decide), quiet_of (by decide), ok_of (by decide), by intro x hx; cases hx; rfl, by constructor <;> rfl⟩

theorem wit_StoresWriteOnlyTheirBytes :
    (Ready loads { src := [tk 3, w8 1] } ∧ Quiet loads ∧
      (loads.take { src := [tk 3, w8 1] }).target (loads.take { src := [tk 3, w8 1] }).me .write true
        (loads.rx (w8 1) + BitVec.ofInt 64 (-1 * (1 : Nat))) 1 1 1 = .ok [(.pad 0 0xFF, 1)] [1] none ∧ Uncounted none) ∧
    (Ready loads { src := [w8 3, w8 2] } ∧ Quiet loads ∧
      (loads.take { src := [w8 3, w8 2] }).target (loads.take { src := [w8 3, w8 2] }).me .std true
        (loads.rx (w8 2) + BitVec.ofInt 64 (1023 * (8 : Nat))) 8 8 1 = .ok [(.page 2 0x22000, 8)] [1] (some data1) ∧
      Uncounted (some data1) ∧ loads.firmwareHit loads.me.ctx 0x22000 8 = false) :=
  ⟨⟨ready_of (by decide), quiet_of (by decide), ok_of (by decide), by intro x hx; cases hx⟩,
    ready_of (by decide), quiet_of (by decide), ok_of (by decide), by intro x hx; cases hx; rfl, by decide⟩

/-! FullEmptyResults: the word at 0x100 empty, and full -/

def fullWord : State := { loads with padWords := [(32, ⟨true, none⟩)], pad := [(256, 9)] }

def emptyWord : State := { loads with padWords := [(32, ⟨false, none⟩)] }

theorem wit_FullEmptyResults :
    (Ready loads { src := [w8 1], dx := [4] } ∧
      (loads.take { src := [w8 1], dx := [4] }).target (loads.take { src := [w8 1], dx := [4] }).me .sync false
        (loads.rx (w8 1) + BitVec.ofInt 64 (-1 * 8)) 8 8 1 = .ok [(.pad 0 0xF8, 8)] [1] none ∧
      (loads.bank (0 * 16 + 0xF8 / 16384)).length < 32 ∧
      (loads.take { src := [w8 1], dx := [4] }).mustWait (.ldp 4 0 0xF8) [1] = false) ∧
    (Quiet fullWord ∧ fullWord.badPad = [] ∧ fullWord.alive fullWord.cur = true ∧ fullWord.me.isRoot = false ∧
      Ready fullWord { src := [w8 1], dx := [4] } ∧
      (fullWord.take { src := [w8 1], dx := [4] }).target (fullWord.take { src := [w8 1], dx := [4] }).me .sync false
        (fullWord.rx (w8 1) + BitVec.ofInt 64 (0 * 8)) 8 8 1 = .ok [(.pad 0 0x100, 8)] [1] none ∧
      (fullWord.padWord 0 0x100).full = true) ∧
    (Quiet emptyWord ∧ emptyWord.badPad = [] ∧ emptyWord.alive emptyWord.cur = true ∧ emptyWord.me.isRoot = false ∧
      Ready emptyWord { src := [w8 3, tk 1] } ∧
      (emptyWord.take { src := [w8 3, tk 1] }).target (emptyWord.take { src := [w8 3, tk 1] }).me .sync false
        (emptyWord.rx (tk 1) + BitVec.ofInt 64 (0 * 8)) 8 8 1 = .ok [(.pad 0 0x100, 8)] [1] none ∧
      (emptyWord.padWord 0 0x100).full = false) ∧
    (Ready emptyWord { src := [tk 1], dx := [4] } ∧
      (emptyWord.take { src := [tk 1], dx := [4] }).target (emptyWord.take { src := [tk 1], dx := [4] }).me .sync false
        (emptyWord.rx (tk 1) + BitVec.ofInt 64 (0 * 8)) 8 8 1 = .ok [(.pad 0 0x100, 8)] [1] none) ∧
    (Ready fullWord { src := [w8 3, tk 1] } ∧
      (fullWord.take { src := [w8 3, tk 1] }).target (fullWord.take { src := [w8 3, tk 1] }).me .sync false
        (fullWord.rx (tk 1) + BitVec.ofInt 64 (0 * 8)) 8 8 1 = .ok [(.pad 0 0x100, 8)] [1] none) :=
  ⟨⟨ready_of (by decide), ok_of (by decide), by decide, by decide⟩,
    ⟨quiet_of (by decide), rfl, by decide, by decide, ready_of (by decide), ok_of (by decide), by decide⟩,
    ⟨quiet_of (by decide), rfl, by decide, by decide, ready_of (by decide), ok_of (by decide), by decide⟩,
    ⟨ready_of (by decide), ok_of (by decide)⟩, ready_of (by decide), ok_of (by decide)⟩

theorem wit_AmoResults :
    (Ready loads { src := [w8 2, w8 3, ⟨4, .wait⟩], dx := [4] } ∧ Quiet loads ∧ Clean loads ∧
      (loads.take { src := [w8 2, w8 3, ⟨4, .wait⟩], dx := [4] }).target
        (loads.take { src := [w8 2, w8 3, ⟨4, .wait⟩], dx := [4] }).me .amo true (loads.rx (w8 2)) 8 8 8 =
        .ok [(.page 2 0x20008, 8)] [1] (some data1) ∧
      (loads.take { src := [w8 2, w8 3, ⟨4, .wait⟩], dx := [4] }).mustWait (.amo .add .relaxed 4 0 0 (.page 2 0x20008)) [1] = false ∧
      Uncounted (some data1) ∧ loads.firmwareHit loads.me.ctx 0x20008 8 = false) ∧
    (Ready loads { src := [tk 1, w8 3, ⟨3, .wait⟩], dx := [3] } ∧
      (loads.take { src := [tk 1, w8 3, ⟨3, .wait⟩], dx := [3] }).target
        (loads.take { src := [tk 1, w8 3, ⟨3, .wait⟩], dx := [3] }).me .amo true (loads.rx (tk 1)) 8 8 8 =
        .ok [(.pad 0 0x100, 8)] [1] none ∧ Uncounted none) ∧
    (Ready waiting { src := [w8 1, w8 3, ⟨3, .wait⟩], dx := [3] } ∧
      (waiting.take { src := [w8 1, w8 3, ⟨3, .wait⟩], dx := [3] }).target
        (waiting.take { src := [w8 1, w8 3, ⟨3, .wait⟩], dx := [3] }).me .amo true (waiting.rx (w8 1)) 8 8 8 =
        .ok [(.pad 0 0x100, 8)] [1] none ∧
      (waiting.take { src := [w8 1, w8 3, ⟨3, .wait⟩], dx := [3] }).mustWait (.amo .add .relaxed 3 0 0 (.pad 0 0x100)) [1] = true) :=
  ⟨⟨ready_of (by decide), quiet_of (by decide), by constructor <;> rfl, ok_of (by decide), by decide, by intro x hx; cases hx; rfl, by decide⟩,
    ⟨ready_of (by decide), ok_of (by decide), by intro x hx; cases hx⟩, ready_of (by decide), ok_of (by decide), by decide⟩

/-- Thread 1024 with returns to x4 and v3 and a write of another party to x6, and an LDFT of x5 whose limit has passed. -/
def returning : State := { (user []).modThr 1024 fun th => { th with
    x := regs [(4, 0)], returns := [⟨.x 4, 77, 0, true, .load⟩, ⟨.v 3, 0, 1, false, .load⟩,
      ⟨.x 6, 5, 0, false, .window⟩, ⟨.x 6, 6, 0, false, .window⟩] } with
  cycle := 10, banks := [(0, [⟨.ldft, 1024, 5, 0, 0, 0x100, 10, 0⟩])] }

theorem wit_DeferredResultsLand :
    ((returning.thr 1024).returns[0]? = some ⟨.x 4, 77, 0, true, .load⟩ ∧ returning.alive 1024 = true) ∧
    (returning.thr 1024).returns[1]? = some ⟨.v 3, 0, 1, false, .load⟩ ∧
    ((returning.thr 1024).returns[3]? = some ⟨.x 6, 6, 0, false, .window⟩ ∧
      (returning.thr 1024).returns[2]? = some ⟨.x 6, 5, 0, false, .window⟩ ∧
      (returning.thr 1024).returns.take 2 = [⟨.x 4, 77, 0, true, .load⟩, ⟨.v 3, 0, 1, false, .load⟩]) ∧
    returning.expired 1024 returning.banks = some (0, ⟨.ldft, 1024, 5, 0, 0, 0x100, 10, 0⟩) := by
  decide +kernel

/-! Fences, WFE, loops -/

/-- Thread 1024 whose STF waits at a bank, and whose load has not returned. -/
def busy : State := { (user []).modThr 1024 fun th => { th with returns := [⟨.x 4, 77, 0, false, .load⟩] } with
  banks := [(0, [⟨.stf, 1024, 0, 5, 0, 0x100, 0, 0⟩])], nextAcc := 1 }

/-- Thread 1024 whose store to a page of kind U waits. -/
def holdingU : State := { (user []).modThr 1024 fun th => { th with heldOps := [⟨0, .store 5 [(.hbm 0, 8)], [2]⟩] } with nextAcc := 1 }

theorem wit_FencesAndWaits :
    (Ready (user []) {} ∧ (user []).me.heldOps = [] ∧ (user []).requestsBefore 1024 (user []).nextAcc = [] ∧
      (user []).me.returns = []) ∧
    (Ready holdingU {} ∧ holdingU.requestsBefore 1024 holdingU.nextAcc = [] ∧ holdingU.me.heldOps ≠ [] ∧
      (∀ h ∈ holdingU.me.heldOps, h.seq < holdingU.nextAcc ∧ h.op.reads = false ∧ ∀ k ∈ h.ks, k = 2)) ∧
    (Ready busy {} ∧ busy.requestsBefore 1024 busy.nextAcc ≠ [] ∧ ¬ ∀ r ∈ busy.me.returns, r.writer ≠ .load ∧ r.writer ≠ .amo) ∧
    (State.thr { (user []).modThr 1024 fun th => { th with wfe := some (some 10) } with cycle := 10 } 1024).wfe = some (some 10) :=
  ⟨⟨ready_of (by decide), by decide, by decide, by decide⟩, ⟨ready_of (by decide), by decide, by decide, by decide⟩,
    ⟨ready_of (by decide), by decide, by decide⟩, by decide⟩

/-- Thread 1024 at a LOOP with its chunk used up, and an answer in the claim buffer. -/
def claimed (ok : Bool) : State := (user [(8, 9), (9, 10), (3, 0x7F0000000100)]).modThr 1024 fun th => { th with
  claim := some ⟨0x1000, 0x7F0000000100, ok, 20, 4, 24⟩, ext0 := 3, ext1 := 2, ext2 := 4 }

/-- Thread 1024 at a LOOP with an index left, and an answer for the descriptor at `d` in the claim buffer. -/
def looping (d : Word) : State := (user [(8, 8), (9, 10), (3, 0x7F0000000100)]).modThr 1024 fun th => { th with
  claim := some ⟨0x1000, d, true, 20, 4, 24⟩, ext0 := 3, ext1 := 2, ext2 := 4 }

def claiming (next ext : Nat) : State := { (user []).modThr 1024 fun th => { th with
    claimSent := some ⟨0x1000, 0x7F0000000100, [.pad 0 0x100, .pad 0 0x108, .pad 0 0x110], 1, 0⟩ } with
  pad := Memory.writeBytes (Memory.writeBytes [] 0x100 (leBytes 8 next)) 0x108 (leBytes 8 ext) }

theorem wit_LoopSteps :
    (Ready (user [(8, 8), (9, 10)]) { src := [⟨8, .wait⟩, ⟨9, .wait⟩, w8 3], dx := [8, 9, 10, 11, 12] } ∧
      ((user [(8, 8), (9, 10)]).me.xval 8 + 1).toNat < ((user [(8, 8), (9, 10)]).me.xval (8 + 1)).toNat ∧
      (user [(8, 8), (9, 10)]).me.claim = none) ∧
    (∀ d ∈ [(0x100 : Word), 0x7F0000000100],
      Ready (looping d) { src := [⟨8, .wait⟩, ⟨9, .wait⟩, w8 3], dx := [8, 9, 10, 11, 12] }) ∧
    (∀ d ∈ [(0x100 : Word), 0x7F0000000100], ((looping d).me.xval 8 + 1).toNat < ((looping d).me.xval (8 + 1)).toNat ∧
      (looping d).me.claim = some ⟨(looping d).me.pc, d, true, 20, 4, 24⟩ ∧ (looping d).rx (w8 3) = 0x7F0000000100) ∧
    (let s := user [(8, 9), (9, 10), (3, 0x7F0000000100)]
     let n : Needs := { src := [⟨8, .wait⟩, ⟨9, .wait⟩, w8 3], dx := [8, 9, 10, 11, 12] }
     Ready s n ∧ ¬ (s.me.xval 8 + 1).toNat < (s.me.xval (8 + 1)).toNat ∧ s.me.claim = none ∧ s.me.claimSent = none ∧
      (s.take n).target (s.take n).me .sync true (s.rx (w8 3)) 32 32 32 = .ok [(.pad 0 0x100, 32)] [1] none) ∧
    (∀ ok, Ready (claimed ok) { src := [⟨8, .wait⟩, ⟨9, .wait⟩, w8 3], dx := [8, 9, 10, 11, 12] } ∧
      ¬ ((claimed ok).me.xval 8 + 1).toNat < ((claimed ok).me.xval (8 + 1)).toNat ∧
      (claimed ok).me.claim = some ⟨(claimed ok).me.pc, (claimed ok).rx (w8 3), ok, 20, 4, 24⟩) ∧
    (((claiming 24 0x0004000200000003).thr 1024).claimSent =
        some ⟨0x1000, 0x7F0000000100, [.pad 0 0x100, Place.add (.pad 0 0x100) 8, Place.add (.pad 0 0x100) 16], 1, 0⟩ ∧
      (claiming 24 0x0004000200000003).claimFree 1024
        ⟨0x1000, 0x7F0000000100, [.pad 0 0x100, Place.add (.pad 0 0x100) 8, Place.add (.pad 0 0x100) 16], 1, 0⟩ = true ∧
      (claiming 24 0x0004000200000003).badHbm = [] ∧ (claiming 24 0x0004000200000003).badPad = [] ∧
      (claiming 24 0x0004000200000003).badCache = [] ∧ (claiming 24 0x0004000200000003).badHost = [] ∧
      leNat ((claiming 24 0x0004000200000003).readAt (.pad 0 0x100) 8) = 24 ∧
      leNat ((claiming 23 0x0004000200000003).readAt (.pad 0 0x100) 8) = 23 ∧
      leNat ((claiming 23 0x0004000200000003).readAt (Place.add (.pad 0 0x100) 8) 8) = 0x0004000200000003) :=
  ⟨⟨ready_of (by decide), by decide, by decide⟩,
    ready_all (by decide), all_of (by decide),
    ⟨ready_of (by decide), by decide, by decide, by decide, ok_of (by decide)⟩,
    fun ok => ⟨ready_of (by cases ok <;> decide), by cases ok <;> decide, by cases ok <;> decide⟩, by decide +kernel⟩

/-! Launches, groups, barriers, the end of a thread -/

theorem has_of_mem {α : Type} {t : Table α} {k : Nat} {v : α} (h : (k, v) ∈ t) : Table.has t k = true := by
  induction t with
  | nil => cases h
  | cons e t ih =>
    by_cases hk : e.1 = k
    · simp [Table.has, Table.find?, hk]
    · have : (k, v) ∈ t := (List.mem_cons.1 h).resolve_left fun he => hk (by rw [← he])
      simpa [Table.has, Table.find?, hk] using ih this

def group1 (m : List Nat) : Group := ⟨m, [], 0, []⟩

/-- The key of group entry 0 of tenancy 0 of partition 1 on die 0. -/
def key0 : Nat := 8192

def grouped (n : Nat) (m : List Nat) (h : Word) : State := { (user [(1, h)]).modThr 1024 fun th => { th with
    groups := (List.range n).map (key0 + ·) } with
  groups := [(key0, group1 m)] }

def full64 : State := (user []).modCore 0 fun c => { c with launch := List.replicate 64 ⟨5, 0, 1, 0, 0, 0, false, [], none⟩ }

def spawning (n : Nat) : State :=
  (user []).modCore 0 fun c => { c with launch := List.replicate n ⟨5, 0, 1, 0, 0, 0, false, [], none⟩ }

def noEntry : State := { user [] with groups := (List.range 1024).map fun e => (key0 + e, group1 [7]) }

theorem wit_SpawnAndGroups :
    (Ready (spawning 64) { src := [w8 1], dx := [3] } ∧ (spawning 64).performed (spawning 64).cur = true ∧
      64 ≤ ((spawning 64).core (spawning 64).myCore).launch.length) ∧
    (Ready (spawning 63) { src := [w8 1], dx := [3] } ∧ (spawning 63).performed (spawning 63).cur = true ∧
      ((spawning 63).core (spawning 63).myCore).launch.length < 64) ∧
    (Ready (grouped 4 [1024] 0) { src := [w8 1], dx := [3] } ∧ (grouped 4 [1024] 0).rx (w8 1) = 0 ∧
      4 ≤ (grouped 4 [1024] 0).me.groups.length) ∧
    (Ready noEntry { src := [w8 1], dx := [3] } ∧ noEntry.rx (w8 1) = 0 ∧ noEntry.me.groups.length < 4 ∧
      ∀ e, e < 1024 → Table.has noEntry.groups (((noEntry.me.part * 4 + noEntry.me.ten) * 2 + noEntry.me.sid / 8192) * 1024 + e) = true) ∧
    (Ready (grouped 0 [7] 0) { src := [w8 1], dx := [3] } ∧ (grouped 0 [7] 0).rx (w8 1) = 0 ∧
      (grouped 0 [7] 0).me.groups.length < 4 ∧ Table.has (grouped 0 [7] 0).groups (key0 + 1) = false ∧
      ∀ d, d < 1 → Table.has (grouped 0 [7] 0).groups (key0 + d) = true) ∧
    (Ready (grouped 0 [7] 0x8001) { src := [w8 1], dx := [3] } ∧ (grouped 0 [7] 0x8001).rx (w8 1) ≠ 0 ∧
      Table.find? (grouped 0 [7] 0x8001).groups (key0 + 1) = none) ∧
    (∀ e ∈ [(1, [7, 1024]), (4, [7]), (3, [7])], Ready (grouped e.1 e.2 0x8000) { src := [w8 1], dx := [3] }) ∧
    ∀ e ∈ [(1, [7, 1024]), (4, [7]), (3, [7])],
      bit ((grouped e.1 e.2 0x8000).rx (w8 1)) 15 = true ∧ Table.find? (grouped e.1 e.2 0x8000).groups key0 = some (group1 e.2) := by
  refine ⟨⟨ready_of (by decide), by decide, by decide⟩, ⟨ready_of (by decide), by decide, by decide⟩,
    ⟨ready_of (by decide), by decide, by decide⟩,
    ⟨ready_of (by decide +kernel), by decide +kernel, by decide +kernel, fun e he => has_of_mem (v := group1 [7]) ?_⟩,
    ⟨ready_of (by decide), by decide, by decide, by decide, by decide⟩, ⟨ready_of (by decide), by decide, by decide⟩,
    ready_all (by decide), by decide⟩
  · have hk : (noEntry.me.part * 4 + noEntry.me.ten) * 2 + noEntry.me.sid / 8192 = 8 := by decide +kernel
    have hg : noEntry.groups = (List.range 1024).map fun e => (key0 + e, group1 [7]) := by simp only [noEntry]
    rw [hk, hg]
    exact List.mem_map.2 ⟨e, List.mem_range.2 he, by simp [key0]⟩

def pop2 : Population := { emptyPop 1 0 none with size := 3, exited := 1, arrived := [1025], bars := 5 }

/-- Threads 1024 and 1025 of population 2, whose other thread has exited; 1025 waits at its BAR. -/
def barred (p : Population) : State := { user [(1, 0), (2, 0)] with
  threads := [(1024, thread1 [(1, 0), (2, 0)]), (1025, { thread1 [] with
    sid := 2, pc := 0x1008, bar := some ⟨0x1008, 2 ^ 62 + 2, 3, [], 2, none⟩ })]
  slots := [(1, 1024), (2, 1025)], pops := [(2, p)] }

theorem wit_SpawnAndGroups_leave :
    (∀ e ∈ [((0x8001 : Word), [7, 1024]), (0x8000, [7]), (0x8000, [7, 1024]), (0x8000, [1024])],
      Ready (grouped 1 e.2 e.1) { src := [w8 1], dx := [3] }) ∧
    (∀ e ∈ [((0x8001 : Word), [7, 1024]), (0x8000, [7]), (0x8000, [7, 1024]), (0x8000, [1024])],
      (grouped 1 e.2 e.1).performed 1024 = true) ∧
    Table.find? (grouped 1 [7, 1024] 0x8001).groups (key0 + 1) = none ∧
    Table.find? (grouped 1 [7] 0x8000).groups key0 = some (group1 [7]) ∧
    (Ready (barred pop2) { src := [w8 1], dx := [3] } ∧ (barred pop2).rx (w8 1) = 0 ∧
      Table.find? (barred pop2).pops (barred pop2).me.pop = some pop2) ∧
    (Ready (grouped 1 [7] 0) { src := [w8 1], dx := [3] } ∧ (grouped 1 [7] 0).rx (w8 1) = 0 ∧
      Table.find? (grouped 1 [7] 0).pops (grouped 1 [7] 0).me.pop = none) :=
  ⟨ready_all (by decide), by decide, by decide, by decide, ⟨ready_of (by decide), by decide, by decide⟩, ready_of (by decide), by decide,
    by decide⟩

theorem wit_WhoamiResults : (∀ k ∈ [(0 : Word), 1, 2, 3], Ready (user [(1, k)]) { src := [w8 1], dx := [3] }) ∧
    ∀ k ∈ [(0 : Word), 1, 2, 3], (user [(1, k)]).rx (w8 1) = k := ⟨ready_all (by decide), all_of (by decide)⟩

theorem wit_BarrierCompletes :
    (Ready (barred pop2) { src := [w8 1, w8 2], dx := [3] } ∧ (barred pop2).rx (w8 1) = 0 ∧ (barred pop2).rx (w8 2) = 0 ∧
      (barred pop2).performed (barred pop2).cur = true ∧ (barred pop2).me.bar = none ∧
      Table.find? (barred pop2).pops (barred pop2).me.pop = some pop2 ∧ pop2.recs = [] ∧
      pop2.arrived.length + 1 = pop2.size - pop2.exited ∧
      1025 ∈ pop2.arrived ∧ 1025 ≠ (barred pop2).cur ∧
      ((barred pop2).thr 1025).bar = some ⟨((barred pop2).thr 1025).pc, 2 ^ 62 + 2, 3, [], 2, none⟩ ∧
      ((barred pop2).thr 1025).frozen = none ∧ ((barred pop2).thr 1025).saved = false) ∧
    (Ready (barred { pop2 with size := 4 }) { src := [w8 1, w8 2], dx := [3] } ∧
      Table.find? (barred { pop2 with size := 4 }).pops (barred { pop2 with size := 4 }).me.pop = some { pop2 with size := 4 } ∧
      pop2.arrived.length + 1 ≠ 4 - pop2.exited) :=
  ⟨⟨ready_of (by decide), by decide⟩, ready_of (by decide), by decide⟩

def pop3 (trig : Nat) : Population := { emptyPop 1 0 none with size := 3, trig := trig }

theorem wit_ExitYieldTrigger :
    (Ready (root []) {} ∧ Quiet (root []) ∧ (root []).ownAmo (root []).cur = false ∧ (root []).me.isRoot = true) ∧
    (Ready (barred (pop3 0)) {} ∧ Quiet (barred (pop3 0)) ∧ (barred (pop3 0)).ownAmo (barred (pop3 0)).cur = false ∧
      (barred (pop3 0)).me.isRoot = false ∧ (barred (pop3 0)).me.groups = [] ∧ 1024 ≤ (barred (pop3 0)).cur ∧
      Table.find? (barred (pop3 0)).pops (barred (pop3 0)).me.pop = some (pop3 0) ∧ (pop3 0).recs = [] ∧ (pop3 0).arrived = [] ∧
      (barred (pop3 0)).performed (barred (pop3 0)).cur = true ∧ (barred (pop3 0)).me.triggered = false) ∧
    (State.me { user [] with threads := [(1024, { thread1 [] with triggered := true })] }).triggered = true :=
  ⟨⟨ready_of (by decide), quiet_of (by decide), by decide, by decide⟩,
    ⟨ready_of (by decide), quiet_of (by decide), by decide⟩, by decide⟩

/-! Traps, slots, control registers, queues -/

theorem wit_UserTrapEntry : (user []).me.isRoot = false ∧ (root []).me.isRoot = true := by decide

theorem wit_RootTrapEntry : (root [(1, 5)]).me.isRoot = true := by decide

theorem wit_TrapsOfSystemInstructions :
    (Ready (user [(1, 5)]) { src := [w8 1, tk 2], dx := [3] } ∧ Ready (user []) {} ∧ (user [(1, 5)]).me.isRoot = false) ∧
    (∀ k ∈ [(0 : Word), 16], Ready (root [(1, k)]) { src := [w8 1] }) ∧
    (∀ k ∈ [(0 : Word), 16], (root [(1, k)]).me.isRoot = true ∧
      (((root [(1, k)]).rx (w8 1)).toNat = 0 ∨ 15 < ((root [(1, k)]).rx (w8 1)).toNat)) ∧
    (∀ k ∈ [(65535 : Word), 0x100000], Ready (root [(1, k)]) { src := [w8 1], dx := [3] }) ∧
    (∀ k ∈ [(65535 : Word), 0x100000], Ready (root [(1, k)]) { src := [w8 1, w8 2] }) ∧
    ∀ k ∈ [(65535 : Word), 0x100000],
      ((root [(1, k)]).rx (w8 1)).toNat < 65536 ∨ 2 ^ 20 ≤ ((root [(1, k)]).rx (w8 1)).toNat :=
  ⟨⟨ready_of (by decide), ready_of (by decide), by decide⟩, ready_all (by decide), all_of (by decide), ready_all (by decide),
    ready_all (by decide), all_of (by decide)⟩

/-- A write of x3 is pending; and selectors of slot 1 whose FILE or INDEX R299 does not list. -/
theorem wit_TrapsOfSystemInstructions_selectors :
    (State.me ((user []).modThr 1024 fun th => th.deferX 3) |>.getX 3).pend = true ∧
    (∀ e ∈ [(0, 32), (1, 512), (2, 32), (3, 4), (4, 2), (4, 15), (4, 32), (5, 0), (15, 4095)],
      Ready (root [(1, BitVec.ofNat 64 (65536 + e.1 * 4096 + e.2))]) { src := [w8 1], dx := [3] }) ∧
    (∀ e ∈ [(0, 32), (1, 512), (2, 32), (3, 4), (4, 2), (4, 15), (4, 32), (5, 0), (15, 4095)],
      Ready (root [(1, BitVec.ofNat 64 (65536 + e.1 * 4096 + e.2))]) { src := [w8 1, w8 2] }) ∧
    ∀ e ∈ [((0 : Nat), (32 : Nat)), (1, 512), (2, 32), (3, 4), (4, 2), (4, 15), (4, 32), (5, 0), (15, 4095)],
      (root [(1, BitVec.ofNat 64 (65536 + e.1 * 4096 + e.2))]).rx (w8 1) = BitVec.ofNat 64 (1 * 65536 + e.1 * 4096 + e.2) ∧
      ¬ (e.1 = 0 ∧ e.2 < 32 ∨ e.1 = 1 ∧ e.2 < 512 ∨ e.1 = 2 ∧ e.2 < 32 ∨ e.1 = 3 ∧ e.2 < 4 ∨
        e.1 = 4 ∧ (e.2 < 2 ∨ 16 ≤ e.2 ∧ e.2 < 32)) :=
  ⟨by decide, ready_all (by decide), ready_all (by decide), all_of (by decide)⟩

/-- The root slot with x1 = `k`; slot 1 holds thread 1024, frozen or held or neither. -/
def over1 (k v : Word) (fr : Option Nat) (held : Bool) : State :=
  (root [(1, k), (2, v)]).modThr 1024 fun th => { th with frozen := fr, held := held }

/-- The selectors of slot 1 at the ends of each file. -/
def selectors : List Nat := [1 * 65536 + 0 * 4096 + 31, 1 * 65536 + 1 * 4096 + 511, 1 * 65536 + 2 * 4096 + 31,
  1 * 65536 + 3 * 4096 + 3, 1 * 65536 + 4 * 4096 + 0, 1 * 65536 + 4 * 4096 + 1, 1 * 65536 + 4 * 4096 + 16, 1 * 65536 + 4 * 4096 + 31]

theorem wit_SlotInstructions :
    (∀ k ∈ [(1 : Word), 15], Ready (over1 k 0 (some 7) false) { src := [w8 1] }) ∧
    (∀ k ∈ [(1 : Word), 15], (over1 k 0 (some 7) false).me.isRoot = true ∧
      1 ≤ ((over1 k 0 (some 7) false).rx (w8 1)).toNat ∧ ((over1 k 0 (some 7) false).rx (w8 1)).toNat ≤ 15) ∧
    (over1 1 0 (some 7) false).slotThread (0 * 16 + 1) = some 1024 ∧ (over1 15 0 none false).slotThread (0 * 16 + 15) = none ∧
    ((over1 1 0 (some 7) false).thr 1024).frozen ≠ none ∧ ((over1 1 0 none false).thr 1024).frozen = none ∧
    (Quiet (over1 1 0 none false) ∧ ((over1 1 0 none false).thr 1024).groups = [] ∧
      Table.find? (over1 1 0 none false).pops ((over1 1 0 none false).thr 1024).pop = none) ∧
    (∀ e ∈ selectors, Ready (over1 (BitVec.ofNat 64 e) 0x1000 none true) { src := [w8 1], dx := [3] }) ∧
    (∀ e ∈ selectors, Ready (over1 (BitVec.ofNat 64 e) 0x1000 none true) { src := [w8 1, w8 2] }) ∧
    (∀ e ∈ selectors, (over1 (BitVec.ofNat 64 e) 0x1000 none true).rx (w8 1) = BitVec.ofNat 64 e ∧
      (over1 (BitVec.ofNat 64 e) 0x1000 none true).slotThread (0 * 16 + 1) = some 1024 ∧
      ((over1 (BitVec.ofNat 64 e) 0x1000 none true).thr 1024).held = true) ∧
    ¬ (((over1 0x10000 0 none false).thr 1024).frozen.isSome = true ∨ ((over1 0x10000 0 none false).thr 1024).held = true) ∧
    ((0x1000 : Word).getLsbD 0 = false ∧ (0x1000 : Word).toNat < 2 ^ 48) ∧ (0x1001 : Word).getLsbD 0 = true ∧
    2 ^ 48 ≤ (0x1000000000000 : Word).toNat :=
  ⟨ready_all (by decide), all_of (by decide), by decide, by decide, by decide, by decide, ⟨quiet_of (by decide), by decide⟩,
    ready_all (by decide), ready_all (by decide), by decide, by decide, by decide, by decide, by decide⟩

def recording (cnt taken : Nat) : State := { (root []).modCore 0 fun c => { c with
    records := [[0x70000, 0x1000, 0, 0]], tqbase := 0x7F000003C000, tqcnt := cnt, tqtaken := taken } with padWords := [] }

theorem wit_TrapRecordWritten :
    (Quiet (recording 63 0) ∧ ((recording 63 0).core 0).records = [0x70000, 0x1000, 0, 0] :: [] ∧
      ((recording 63 0).core 0).tqbase ≠ 0 ∧ ((recording 63 0).padWord 0 (0x3C000 + 63 * 32)).full = false ∧
      ((recording 63 0).core 0).tqcnt < 64) ∧
    (((recording 64 2).core 0).tqcnt ≤ ((recording 64 2).core 0).tqtaken + 62 ∧ ((recording 64 2).padWord 0 0x3C000).full = false) :=
  ⟨⟨quiet_of (by decide), by decide⟩, by decide⟩

theorem wit_ControlRegisters :
    (∀ k ∈ [0, 1, 2, 3, 0x10, 0x1F], Ready (user [(1, BitVec.ofNat 64 k)]) { src := [w8 1], dx := [3] }) ∧
    (∀ k ∈ [0, 1, 2, 3, 0x10, 0x1F],
      ((user [(1, BitVec.ofNat 64 k)]).rx (w8 1)).toNat = k ∧ ctlListed k = true ∧ ctlUserReads k = true) ∧
    (∀ k ∈ [0x120, 0x127, 0x400], Ready (root [(1, BitVec.ofNat 64 k)]) { src := [w8 1], dx := [3] }) ∧
    (∀ k ∈ [0x120, 0x127, 0x400], Ready (root [(1, BitVec.ofNat 64 k)]) { src := [w8 1, w8 2] }) ∧
    (∀ k ∈ [0x120, 0x127, 0x400], (root [(1, BitVec.ofNat 64 k)]).me.isRoot = true ∧
      ((root [(1, BitVec.ofNat 64 k)]).rx (w8 1)).toNat = k ∧ ctlListed k = true ∧ ctlUserReads k = false) ∧
    (ctlListed 0x128 = false ∧ ctlListed 0xF = false) ∧
    (Ready (user [(1, 0), (2, 0xFFFF00000000)]) { src := [w8 1, w8 2] } ∧ (user [(1, 0)]).me.isRoot = false) :=
  ⟨ready_all (by decide), by decide, ready_all (by decide), ready_all (by decide), by decide, by decide, ready_of (by decide), by decide⟩

/-- A ring of four entries at 0x200 of the scratchpad, its descriptor at 0x100; q5 is bound to it, q6 to the SFU result port. -/
def ringed (head tail : Nat) : State := { (user [(1, 0x7F0000000100), (4, 44)]).modThr 1024 fun th => { th with
    q := [(5, 0x30007F0000000100), (6, BitVec.ofNat 64 (2 ^ 60))], sfuWords := [11, 12] } with
  pad := Memory.writeBytes (Memory.writeBytes (Memory.writeBytes (Memory.writeBytes [] 0x100 (leBytes 8 head)) 0x108
    (leBytes 8 tail)) 0x110 (leBytes 8 0x7F0000000200)) 0x118 (leBytes 8 3) }

def ringB (s : State) (core off : Nat) (x : Nat × Nat × Nat × Nat) : Bool := match s.ringFor s.me core off with
  | some r => decide ((r.head, r.tail, r.base, r.mask) = x)
  | none => false

theorem ring_of {s : State} {core off : Nat} {x : Nat × Nat × Nat × Nat} (h : ringB s core off x = true) :
    ∃ r, s.ringFor s.me core off = some r ∧ (r.head, r.tail, r.base, r.mask) = x := by
  unfold ringB at h
  split at h
  · rename_i r hr
    exact ⟨r, hr, by simpa using h⟩
  · cases h

/-- Values that name no port: TYPE 0 and 4, a reserved bit, an address on a port without one, a descriptor off the grid of 32 bytes,
and one outside the window. -/
def noPort : List Word := [0, 0x4000000000000000, 0x1800000000000000, 0x2000000000000001, 0x30007F0000000108, 0x3000000000000100]

/-- The queue register q7 is bound to the port of the Braid. -/
def dispatching (f : State → State) : State :=
  f ((user [(4, 44)]).modThr 1024 fun th => { th with q := [(7, BitVec.ofNat 64 (2 ^ 61)), (0, 0x30007F0000000100)] })

theorem wit_QueueRegisters_values :
    (∀ v ∈ noPort, Ready (user [(1, v)]) { src := [w8 1] }) ∧
    (∀ v ∈ noPort, ((user [(1, v)]).rx (w8 1)).toNat / 2 ^ 60 ∉ [1, 2, 3] ∨ ((user [(1, v)]).rx (w8 1)).toNat / 2 ^ 48 % 2 ^ 12 ≠ 0 ∨
      ((user [(1, v)]).rx (w8 1)).toNat / 2 ^ 60 ≠ 3 ∧ ((user [(1, v)]).rx (w8 1)).toNat % 2 ^ 48 ≠ 0 ∨
      ((user [(1, v)]).rx (w8 1)).toNat / 2 ^ 60 = 3 ∧ (((user [(1, v)]).rx (w8 1)).toNat % 32 ≠ 0 ∨
        inWindow (((user [(1, v)]).rx (w8 1)).toNat % 2 ^ 48) = false)) ∧
    (((user [(1, 0)]).take { src := [w8 1] }).portOf ((user [(1, 0)]).take { src := [w8 1] }).me ((user [(1, 0)]).rx (w8 1)) = none) ∧
    (Ready (user [(1, BitVec.ofNat 64 (2 ^ 61))]) { src := [w8 1] } ∧ (user [(1, BitVec.ofNat 64 (2 ^ 61))]).rx (w8 1) = 2 ^ 61) ∧
    (Ready (dispatching id) { dx := [3] } ∧ Table.find? (dispatching id).me.q 7 = some (BitVec.ofNat 64 (2 ^ 61))) ∧
    (Ready (dispatching id) { src := [w8 4] } ∧ Ready (ringed 3 7) { dx := [3] } ∧ (ringed 3 7).performed (ringed 3 7).cur = true ∧
      (0x30007F0000000100 : Word).toNat / 2 ^ 60 = 3) :=
  ⟨ready_all (by decide), all_of (by decide +kernel), rfl, ⟨ready_of rfl, by decide +kernel⟩, ⟨ready_of rfl, by decide⟩,
    ready_of (by decide), ready_of (by decide), by decide, by decide⟩

/-- An empty ring holds a pop back, and a full one a push; so does the SFU port with no word, or with 16. -/
theorem wit_QueueRegisters_waits :
    (∃ r, (ringed 3 3).ringFor (ringed 3 3).me 0 0x100 = some r ∧ (r.head, r.tail, r.base, r.mask) = (3, 3, 0x200, 3)) ∧
    (∃ r, (ringed 3 7).ringFor (ringed 3 7).me 0 0x100 = some r ∧ (r.head, r.tail, r.base, r.mask) = (3, 7, 0x200, 3)) ∧
    Quiet (ringed 3 3) ∧ Quiet (ringed 3 7) ∧ Ready (ringed 3 3) { dx := [3] } ∧ Ready (ringed 3 7) { src := [w8 4] } ∧
    (let s := (ringed 3 3).modThr 1024 fun th => { th with sfuWords := [] }
     Ready s { dx := [3] } ∧ Table.find? s.me.q 6 = some (BitVec.ofNat 64 (2 ^ 60)) ∧ s.me.sfuWords = []) ∧
    (let s := (ringed 3 3).modThr 1024 fun th => { th with sfuWords := List.replicate 16 1 }
     Ready s { src := [w8 4] } ∧ Table.find? s.me.q 6 = some (BitVec.ofNat 64 (2 ^ 60)) ∧
      16 ≤ s.me.sfuWords.length + (s.core (s.me.sid / 16)).sfuOpen s.cur) :=
  ⟨ring_of (by decide +kernel), ring_of (by decide +kernel), quiet_of (by decide), quiet_of (by decide), ready_of (by decide),
    ready_of (by decide), ⟨ready_of (by decide), by decide, by decide⟩, ready_of (by decide), by decide, by decide⟩

theorem wit_QueueRegisters :
    (Ready (user [(1, BitVec.ofNat 64 (2 ^ 60))]) { src := [w8 1] } ∧ Table.has (user []).me.q 0 = false ∧
      (((user [(1, BitVec.ofNat 64 (2 ^ 60))]).take { src := [w8 1] }).portOf
        ((user [(1, BitVec.ofNat 64 (2 ^ 60))]).take { src := [w8 1] }).me (BitVec.ofNat 64 (2 ^ 60))).isSome = true) ∧
    (Ready (ringed 0 4) { src := [w8 1] } ∧ Table.has (ringed 0 4).me.q 5 = true) ∧
    (Ready (user []) { src := [w8 1] } ∧ (user []).rx (w8 1) = 0) ∧
    (let s := (user []).modThr 1024 fun th => { th with q := [(7, BitVec.ofNat 64 (2 ^ 61))] }
     Ready s { src := [w8 1] } ∧ Table.find? s.me.q 7 = some (BitVec.ofNat 64 (2 ^ 61))) ∧
    (Ready (ringed 3 7) { dx := [3] } ∧ Table.find? (ringed 3 7).me.q 6 = some (BitVec.ofNat 64 (2 ^ 60)) ∧
      (ringed 3 7).me.sfuWords = 11 :: [12] ∧ Table.find? (ringed 3 7).me.q 7 = none ∧
      Table.find? (ringed 3 7).me.q 5 = some 0x30007F0000000100 ∧ (ringed 3 7).badPad = [] ∧
      ∃ r, (ringed 3 7).ringFor (ringed 3 7).me 0 0x100 = some r ∧ (r.head, r.tail, r.base, r.mask) = (3, 7, 0x200, 3)) ∧
    ((ringed 3 7).take { dx := [3] }).portOf ((ringed 3 7).take { dx := [3] }).me 0x30007F0000000100 = some (.ring 0 0x100) ∧
    (Ready (ringed 4 7) { src := [w8 4] } ∧ (ringed 4 7).performed (ringed 4 7).cur = true ∧
      (ringed 4 7).me.sfuWords.length + ((ringed 4 7).core ((ringed 4 7).me.sid / 16)).sfuOpen (ringed 4 7).cur < 16 ∧
      ∃ r, (ringed 4 7).ringFor (ringed 4 7).me 0 0x100 = some r ∧ (r.head, r.tail, r.base, r.mask) = (4, 7, 0x200, 3)) :=
  ⟨⟨ready_of (by decide), by decide, by decide⟩, ⟨ready_of (by decide), by decide⟩, ⟨ready_of rfl, by decide⟩,
    ⟨ready_of rfl, by decide⟩,
    ⟨ready_of (by decide), by decide, by decide, by decide, by decide, by decide, ring_of (by decide +kernel)⟩, rfl,
    ready_of (by decide), by decide, by decide, ring_of (by decide +kernel)⟩

/-! Engines: requests, completions, collectives, remote traffic -/

def graphB (x : Except Nat Graph × State) : Bool := match x.1 with
  | .ok _ => true
  | .error _ => false

theorem graph_of {x : Except Nat Graph × State} (h : graphB x = true) : ∃ g v, x = (.ok g, v) := by
  obtain ⟨r, v⟩ := x
  cases r <;> simp_all [graphB]

theorem noGraph_of {x : Except Nat Graph × State} (h : graphB x = false) : ∃ c v, x = (.error c, v) := by
  obtain ⟨r, v⟩ := x
  cases r <;> simp_all [graphB]

/-- A graph at 0x100 whose header names `n` tasks; the first task has no successor. -/
def graphAt (n : Nat) : State := { user [(8, 0x7F0000000100)] with
  pad := Memory.writeBytes (Memory.writeBytes [] 0x100 (leBytes 8 n)) 0x120 (leBytes 8 0xFFFF0000) }

/-- A request to a context, as an engine takes it. -/
def asking (s : State) (q : Nat) (kind : EngKind) : State :=
  ((s.take { src := [w8 8], dx := [9] }).noMiss.deferX 9).accept (s.me.ctxKeyOf q) q 9 kind (s.rx (w8 8))

/-- The context of the Braid of die 0. -/
def braid0 : Nat := ((1 * 4 + 0) * 16 + 12) * 128

def wordsB (x : Except Nat (List Word) × Xfer) (f : List Word → Bool) : Bool := match x.1 with
  | .ok h => f h && decide (x.2.s.xmiss = none)
  | .error _ => false

theorem words_of {x : Except Nat (List Word) × Xfer} {f : List Word → Bool} (h : wordsB x f = true) :
    ∃ h y, x = (.ok h, y) ∧ f h = true ∧ y.s.xmiss = none := by
  obtain ⟨r, y⟩ := x
  cases r with
  | error _ => simp [wordsB] at h
  | ok a => exact ⟨a, y, rfl, by simpa [wordsB] using h⟩

/-- Two live graphs of the thread: no task of the first is ready, and of the second the third is the first that is. -/
def graphA : Graph := ⟨0, 1, 0, 0x100, 1024, 9, [], [1, 0], [0, 1]⟩
def graphB' : Graph := ⟨0, 1, 0, 0x300, 1024, 9, [], [0, 2, 0, 0], [2, 0, 0, 0]⟩

theorem wit_EngineRequestsIssue_dispatch :
    (let s := dispatching fun s => { s with graphs := [graphA] }
     Ready s { dx := [3] } ∧ s.graphs.filter (fun g => g.die = s.me.sid / 8192 && g.part = s.me.part && g.ten = s.me.ten) = [graphA]) ∧
    (let s := dispatching fun s => { s with graphs := [graphA, graphB'] }
     Ready s { dx := [3] } ∧
      s.graphs.filter (fun g => g.die = s.me.sid / 8192 && g.part = s.me.part && g.ten = s.me.ten) = [graphA] ++ graphB' :: []) ∧
    (∀ m, ¬ (m < graphA.stage.length ∧ graphA.stage.getD m 1 = 0 ∧ graphA.count.getD m 1 = 0)) ∧
    (2 < graphB'.stage.length ∧ graphB'.stage.getD 2 1 = 0 ∧ graphB'.count.getD 2 1 = 0) ∧
    (∀ m, m < 2 → ¬ (m < graphB'.stage.length ∧ graphB'.stage.getD m 1 = 0 ∧ graphB'.count.getD m 1 = 0)) ∧
    (∃ h x, Xfer.words ⟨1, 1, 0, 140, some braid0⟩ 0x7F0000000100 4
        ⟨((graphAt 0).take { src := [w8 8], dx := [9] }).noMiss.deferX 9, [], 0, 0⟩ = (.ok h, x) ∧
      decide ((h.getD 0 0).toNat = 0) = true ∧ x.s.xmiss = none) ∧
    (let s := root [(8, 0x7F0000000100)]
     s.performed s.cur = true ∧ (s.engCtx (s.me.ctxKeyOf 0)).queue.length < 16) := by
  refine ⟨⟨ready_of rfl, by decide⟩, ⟨ready_of rfl, by decide⟩, fun m h => ?_, by decide, by decide, words_of (by decide +kernel),
    by decide +kernel⟩
  obtain ⟨h1, h2, h3⟩ := h
  have : m < 2 := h1
  match m with
  | 0 => exact absurd h3 (by decide)
  | 1 => exact absurd h2 (by decide)
  | n + 2 => omega

theorem wit_EngineRequestsIssue :
    (Ready (user [(8, 0x7F0000000100)]) { src := [w8 8], dx := [9] } ∧
      (user [(8, 0x7F0000000100)]).performed (user [(8, 0x7F0000000100)]).cur = true ∧
      ((user [(8, 0x7F0000000100)]).rx (w8 8)).toNat % 8 = 0 ∧
      ∀ x ∈ [(0, EngKind.copy 0), (1, .copy 2), (2, .gather false), (3, .gather true), (4, .coll 0), (7, .coll 3)],
        ((user [(8, 0x7F0000000100)]).engCtx ((user [(8, 0x7F0000000100)]).me.ctxKeyOf x.1)).queue.length < 16 ∧
        (asking (user [(8, 0x7F0000000100)]) x.1 x.2).xmiss = none) ∧
    (Ready (user [(8, 0x10000)]) { src := [w8 8], dx := [9] } ∧ (asking (user [(8, 0x10000)]) 0 (.copy 0)).xmiss = some 1) ∧
    (let s := { user [(8, 0x7F0000000100)] with ctxs := [((user []).me.ctxKeyOf 4, ⟨1, 0, true, [], none, []⟩)] }
     (s.engCtx (s.me.ctxKeyOf 4)).frozen = true ∧ (asking s 4 (.coll 0)).xmiss = none) ∧
    (Ready (root [(8, 0x7F0000000100)]) { src := [w8 8], dx := [9] } ∧ (root [(8, 0x7F0000000100)]).me.isRoot = true ∧
      (asking (root [(8, 0x7F0000000100)]) 0 (.copy 3)).xmiss = none) ∧
    (user []).me.isRoot = false ∧
    (Ready (user [(5, 0)]) { src := [w8 5] } ∧
      ((user [(5, 0)]).rx (w8 5)).toNat ≤ ((user [(5, 0)]).engCtx ((user [(5, 0)]).me.ctxKeyOf 11)).done) ∧
    (Ready (user [(5, 1)]) { src := [w8 5] } ∧
      ((user [(5, 1)]).engCtx ((user [(5, 1)]).me.ctxKeyOf 11)).done < ((user [(5, 1)]).rx (w8 5)).toNat) ∧
    (Ready (graphAt 1) { src := [w8 8], dx := [9] } ∧
      ((graphAt 1).liveGraphs ((graphAt 1).me.sid / 8192) (graphAt 1).me.part (graphAt 1).me.ten).length < 64 ∧
      (∃ g v, (((graphAt 1).take { src := [w8 8], dx := [9] }).noMiss.deferX 9).readGraph ⟨1, 1, 0, 140, some braid0⟩ 1024 9
        0x7F0000000100 = (.ok g, v)) ∧
      (∃ c v, (((graphAt 0).take { src := [w8 8], dx := [9] }).noMiss.deferX 9).readGraph ⟨1, 1, 0, 140, some braid0⟩ 1024 9
        0x7F0000000100 = (.error c, v)) ∧
      ∀ n ∈ [0, 1], ((((graphAt n).take { src := [w8 8], dx := [9] }).noMiss.deferX 9).readGraph ⟨1, 1, 0, 140, some braid0⟩ 1024 9
        0x7F0000000100).2.xmiss = none) :=
  ⟨⟨ready_of (by decide), by decide +kernel, by decide, by decide +kernel⟩, ⟨ready_of (by decide), by decide +kernel⟩,
    by decide +kernel, ⟨ready_of (by decide), by decide, by decide +kernel⟩, by decide, ⟨ready_of (by decide), by decide⟩,
    ⟨ready_of (by decide), by decide⟩, ready_of (by decide), by decide, graph_of (by decide +kernel), noGraph_of (by decide +kernel),
    by decide +kernel⟩

def ctx1 : Context := ⟨1, 0, 4, 0x8000, 20, 3, 0, 0, 44, 100, 0xA000, 0, false, 5, false, 1, 0, List.range 20, []⟩

/-- Partition 1 with 8 context descriptors of 4 entries, and its sampling records. -/
def part2 : Part := { part1 with cdLimit := 8, btarea := BitVec.ofNat 64 (4 * 2 ^ 48 + 0x8000), samparea := 0xA000 }

def req (kind : EngKind) (desc : List Word) (code step : Nat) (sent : Bool) : EngReq :=
  ⟨1024, 1, 1, 0, 9, 1, kind, desc, 0x7F0000000100, code, [], 5, sent, none, 0, 0, none, none, [], step, 0⟩

/-- Context 0 of core 0's cluster, tenancy 0 of partition 1. -/
def ctx0 : Nat := 8192

/-- The request stands in context 0 of an engine; partition 1 has the context descriptor `ctx1`. -/
def requested (r : EngReq) : State := { user [] with
  parts := [(1, part2)], contexts := [(0, ctx1)], ctxs := [(ctx0, ⟨1, 0, false, [r], none, []⟩)] }

/-- 8 bytes from 0x7F00_0000_0100 to 0x7F00_0000_0200. -/
def lin : List Word := [0x7F0000000100, 0x7F0000000200, BitVec.ofNat 64 (2 ^ 32 + 8), 0]

/-- Two rows of 8 bytes, 16 bytes apart there and 32 here. -/
def rect : List Word := [0x7F0000000100, 0x7F0000000200, BitVec.ofNat 64 (2 * 2 ^ 32 + 8), BitVec.ofNat 64 (32 * 2 ^ 32 + 16)]

/-- 8 bytes, and the block-table entry at 0x8000 becomes 5. -/
def cow : List Word := [0x7F0000000100, 0x7F0000000200, BitVec.ofNat 64 (5 * 2 ^ 32 + 8), 0x8000]

/-- One row of 8 bytes whose index stands at 0x300. -/
def rows : List Word := [0x7F0000000100, 0x7F0000000200, 0x7F0000000300, BitVec.ofNat 64 (8 * 2 ^ 32 + 8), 1, 0, 0, 0]

/-- Positions 19 and 20 of context 0, 8 bytes each: the latter lies at its limit. -/
def walk : List Word := [0, 0x7F0000004000, 0x7F0000000000, BitVec.ofNat 64 (128 * 2 ^ 32), BitVec.ofNat 64 (2 * 2 ^ 32 + 19), 8, 0, 0]

def placeB (x : Except Nat (Place × Option Leaf)) (p : Place) : Bool := match x with
  | .ok (q, none) => decide (q = p)
  | .ok (_, some _) | .error _ => false

theorem place_of {x : Except Nat (Place × Option Leaf)} {p : Place} (h : placeB x p = true) : x = .ok (p, none) := by
  unfold placeB at h
  split at h <;> simp_all

theorem wit_EnginesComplete :
    (∀ r ∈ [req (.copy 0) lin 1 0 false, req (.gather true) [] 15 0 false, req (.coll 1) [] 8 0 true],
      ((requested r).engCtx ctx0).queue = [r] ∧ (requested r).tenRuns r.part r.ten = true ∧
      ((requested r).engCtx ctx0).stall = none ∧ r.code ≠ 0 ∧ r.code < 65536 ∧ (requested r).alive r.t = true ∧ r.tok ≠ 0) ∧
    (let r := req (.copy 1) rect 0 0 false
     (requested r).copyOk 1 r = true ∧ footprintsMeet 0x7F0000000100 16 0x7F0000000200 32 2 8 = false ∧
      let x := Xfer.rows (r.eng ctx0) 0x7F0000000100 0x7F0000000200 16 32 8 (rowFuel 8 16) 0 16 ⟨(requested r).noMiss, [], 0, 0⟩
      x.code = 0 ∧ x.s.xmiss = none) ∧
    (let r := req (.copy 2) lin 0 0 false
     (requested r).copyOk 2 r = true ∧ footprintsMeet 0x7F0000000100 0 0x7F0000000200 0 1 8 = false ∧
      let x := Xfer.copyWin (r.eng ctx0) 0x7F0000000100 0x7F0000000200 8 ⟨(requested r).noMiss, [], 0, 0⟩
      x.2 = BitVec.ofNat 64 8 ∧ x.1.xmiss = none) ∧
    (let r := req (.copy 3) cow 0 0 false
     (requested r).copyOk 3 r = true ∧ (requested r).inRegion ((requested r).cowPart r) 0x8000 4 = true ∧
      let x := Xfer.rows (r.eng ctx0) 0x7F0000000100 0x7F0000000200 0 0 8 (rowFuel 8 8) 0 8 ⟨(requested r).noMiss, [], 0, 0⟩
      x.code = 0 ∧ x.s.xmiss = none ∧ x.s.inRegion (x.s.cowPart r) 0x8000 4 = true) ∧
    (let r := req (.gather true) rows 0 0 false
     let x := Xfer.gatherRows (r.eng ctx0) 0x7F0000000100 0x7F0000000200 0x7F0000000300 8 8 (rowFuel 8 8) 0 8
       ⟨(requested r).noMiss, [], 0, 0⟩
     x.code = 0 ∧ x.s.xmiss = none) ∧
    (let r := req (.gather false) walk 0 0 false
     walkOk (fun i => walk.getD i 0) = true ∧ (requested r).walkView 1 0 false false = some ⟨20, 0x8000, 0, []⟩ ∧
      let x := Xfer.walk (r.eng ctx0) ⟨20, 0x8000, 0, []⟩ 0x7F0000004000 0x7F0000000000 128 0 19 8 2 0 none 0
        ⟨(requested r).noMiss, [], 0, 0⟩
      x.1 = 8 ∧ x.2.2.code = 0 ∧ x.2.2.s.xmiss = none) ∧
    (let r := req (.copy 0) lin 0 0 false
     ((requested r).engCtx ctx0).queue = [r] ∧
      (0x7F0000000100 + 8 ≤ 0x7F0000000200 ∧ 8 ≤ runLength 0x7F0000000100 ∧ 8 ≤ runLength 0x7F0000000200) ∧
      (requested r).engPlace (r.eng ctx0) .read 0x7F0000000100 = .ok (.pad 0 0x100, none) ∧
      (requested r).engPlace (r.eng ctx0) .write 0x7F0000000200 = .ok (.pad 0 0x200, none)) :=
  ⟨by decide +kernel, by decide +kernel, by decide +kernel, by decide +kernel, by decide +kernel, by decide +kernel,
    by decide +kernel, by decide, place_of (by decide +kernel), place_of (by decide +kernel)⟩

def flit (key : Nat) (b : FlitBody) : Flit := ⟨3, 2, 0, 1, 1, 0, key, 0, b⟩

/-- A whole chunk of collective `kind` on channel 0. -/
def chunkIn (tag kind ch : Nat) : Flit := { flit 7 (.chunk 5 tag kind 0 ch true (List.replicate 128 1)) with vc := 2 }

/-- A collective of two participants with tag 6, of 256 bytes in chunks of 128, on channel 0. -/
def coll2 : List Word := [0x7F0000000400, 0x7F0000000800, BitVec.ofNat 64 (256 * 2 ^ 32 + 12), BitVec.ofNat 64 (2 * 2 ^ 32),
  BitVec.ofNat 64 (6 * 2 ^ 32 + 128), 0, 0, 0]

/-- The context of channel 0 of the collective engine of die 0. -/
def coll0 : Nat := 8192 + 4 * 128

def collecting (r : EngReq) (f : Flit) : State := { user [] with
  ctxs := [(coll0, ⟨1, 0, false, [r], none, []⟩)], chunksIn := [f], acks := [(5, 0)] }

def arriving (f : Flit) : State := { user [] with linkIn := [f] }

/-- A flit whose tenancy runs again; no flit waits for its unparking or has failed. -/
theorem wit_RemoteTraffic_parked :
    (let f := flit 8 (.report 0 1 2 0)
     let s := { user [] with parked := [f] }
     s.parked = [f] ∧ (s.part f.part).cur = f.ten ∧ f.body = .report 0 1 2 0) ∧
    (arriving (flit 7 (.last 5))).unparked = [] ∧ (arriving (flit 7 (.last 5))).remoteSeen = [] := by
  decide +kernel

theorem wit_RemoteTraffic :
    ((collecting (req (.coll 1) coll2 0 0 true) (chunkIn 9 1 0)).acks.find? (fun a => a.1 = 5) = some (5, 0)) ∧
    ((arriving (flit 8 (.last 5))).linkIn = flit 8 (.last 5) :: [] ∧ (flit 8 (.last 5)).key ≠ ((arriving (flit 8 (.last 5))).part 1).fabkey) ∧
    (let f : Flit := { flit 7 (.last 5) with ten := 1 }
     ((arriving f).part 1).fabkey = f.key ∧ ((arriving f).part 1).cur ≠ f.ten ∧ ((arriving f).part 1).switching = false ∧
      ((arriving f).parked.filter fun q => q.port = f.port).length < 4096) ∧
    (∀ b ∈ [FlitBody.chunk 5 9 1 0 0 true [], .write 5 0x7F0000000200 [1, 2], .last 5, .ack 5 0, .batch 0 1, .report 0 1 2 0],
      (arriving (flit 7 b)).linkIn = flit 7 b :: [] ∧ (flit 7 b).key = ((arriving (flit 7 b)).part (flit 7 b).part).fabkey ∧
      ((arriving (flit 7 b)).part (flit 7 b).part).cur = (flit 7 b).ten ∧ (arriving (flit 7 b)).badWrites = [] ∧
      (∀ q ∈ (arriving (flit 7 b)).chunksIn, q.body.isWhole = true) ∧
      (arriving (flit 7 b)).writeFailed (flit 7 b) 5 = false) ∧
    (Xfer.writeAll ⟨0, 1, 0, 140, none⟩ .write 0x7F0000000200 [1, 2] ⟨{ user [] with linkIn := [] }, [], 0, 0⟩).code = 0 ∧
    (∀ x ∈ [(1, 9), (2, 9), (1, 6), (2, 6)],
      let r := req (.coll x.1) coll2 0 0 true
      let s := collecting r (chunkIn x.2 x.1 0)
      (s.engCtx coll0).queue = [r] ∧ (s.engCtx coll0).stall = none ∧ s.tenRuns 1 0 = true ∧
        0 < collSteps x.1 (collOf coll2).nr ∧ s.chunkFor coll0 r = some (chunkIn x.2 x.1 0) ∧ (collOf coll2).tag = 6) ∧
    (∀ ch ∈ [0, 1],
      let r := { req (.coll 1) coll2 0 0 true with chunk := ch }
      let s := collecting r (chunkIn 6 1 ch)
      collTakes 1 (collOf coll2) 0 = (0x7F0000000900, 256, none) ∧ 128 = min 128 (256 - ch * 128) ∧
        let y := Xfer.writeAll (r.eng coll0) .write (0x7F0000000900 + ch * 128) (List.replicate 128 1) ⟨s.noMiss, [], 0, 0⟩
        y.code = 0 ∧ y.s.xmiss = none) ∧
    (let r := req (.coll 2) coll2 0 0 true
     let s := collecting r (chunkIn 6 2 0)
     collTakes 2 (collOf coll2) 0 = (0x7F0000000800, 256, some 0x7F0000000400) ∧
      let x := Xfer.readAll (r.eng coll0) 0x7F0000000400 128 ⟨s.noMiss, [], 0, 0⟩
      x.2.code = 0 ∧ let y := Xfer.writeAll (r.eng coll0) .write 0x7F0000000800 (reduceBytes 12 0 128 (List.replicate 128 1) x.1) x.2
      y.code = 0 ∧ y.s.xmiss = none) ∧
    (let r := req (.coll 1) coll2 0 1 true
     let s := collecting r (chunkIn 6 1 0)
     (s.engCtx coll0).queue = [r] ∧ collSteps 1 (collOf coll2).nr ≤ 1 ∧ (s.noMiss.endColl coll0 1 r).xmiss = none) := by
  refine ⟨?_, ?_, ?_, ?_, ?_, ?_, ?_, ?_, ?_⟩ <;> decide +kernel

/-! Vectors -/

theorem wit_VectorResultsAreWritten : (∀ v : VWord, (VOut.mk v true true true false).norm = false ∧ (VOut.mk v false false false true).norm = true) ∧
    (user []).alive (user []).cur = true ∧ ((user []).core ((user []).me.sid / 16)).normCur = none ∧
    (let c := (user []).modCore 0 fun c => { c with normCur := some (⟨1025, 3, 0, none, 0, 0⟩, 20), normQ := [⟨1025, 4, 0, none, 0, 0⟩] }
     (c.core (c.me.sid / 16)).normCur ≠ none ∧ ∀ q ∈ (c.core (c.me.sid / 16)).normQ, q.at_ ≤ c.cycle) :=
  ⟨fun _ => ⟨rfl, rfl⟩, by decide, by decide, by decide⟩

theorem wit_VectorIntegerResults : Ready (user []) { vs := [1, 2], dv := [15] } ∧ Ready (user []) { vs := [1, 2, 15], dv := [15] } ∧
    Ready (user []) { vs := [1], dv := [1] } := ⟨ready_of (by decide), ready_of (by decide), ready_of (by decide)⟩

theorem wit_VectorFloatResults : fmtOf .f32 = some fmtF32 ∧ fmtOf .bf16 = some fmtBF16 ∧ fmtOf .f16 = some fmtF16 ∧
    Ready (user []) { vs := [1, 2, 3], dv := [3] } ∧
    ((∀ j, j < 2048 / max 32 16 → ((user []).rp 0).getLsbD (j * (32 / 8)) = true →
      (convertEl .bf16 .f32 .rne .trap (vget ((user []).rv 1) 32 j)).trap = false) ∧
    ∃ j, j < 2048 / max 64 8 ∧ ((user []).rp 0).getLsbD (j * (64 / 8)) = true ∧
      (convertEl .i8 .i64 .rne .trap (vget (BitVec.ofNat 2048 (2 ^ 40)) 64 j)).trap = true) := by
  refine ⟨rfl, rfl, rfl, ready_of (by decide), ?_, 0, by decide, by decide +kernel, by decide +kernel⟩
  decide +kernel

def elsB (t : ElTargets) : Bool := match t with
  | .ok _ _ => true
  | _ => false

theorem els_of {t : ElTargets} (h : elsB t = true) : ∃ els k, t = .ok els k := by
  cases t <;> simp_all [elsB]

theorem wit_VectorMemoryIssues :
    Ready loads { src := [w8 1], vs := [4], dv := [4] } ∧ Ready loads { src := [w8 2], vs := [4, 5] } ∧
    (∃ els k, (loads.take { src := [w8 1], vs := [], dv := [4] }).elTargets .read false (32 / 8)
      (((List.range (2048 / 32)).filter fun j => (loads.rp 0).getLsbD (j * (32 / 8))).map fun j =>
        (j, loads.rx (w8 1) + BitVec.ofNat 64 (j * (32 / 8)))) = .ok els k) ∧
    (∃ els k, (loads.take { src := [w8 2], vs := [4] }).elTargets .write true (64 / 8)
      (((List.range (2048 / 64)).filter fun j => (loads.rp 0).getLsbD (j * (64 / 8))).map fun j =>
        (j, loads.rx (w8 2) + BitVec.ofInt 64 (sgn 64 (vget (loads.rv 5) 64 j) * (64 / 8)))) = .ok els k) ∧
    (loads.take { src := [w8 1], vs := [], dv := [4] }).mustWait (.vload 4 32 0 [(0, .pad 0 0x100)]) [1] = false ∧
    (loads.take { src := [w8 2], vs := [4] }).mustWait (.vstore 64 [(.page 2 0x20008, 0)]) [1] = false ∧
    (waiting.take { src := [w8 1], vs := [], dv := [4] }).mustWait (.vload 4 32 0 [(0, .pad 0 0x100)]) [1] = true ∧
    (waiting.take { src := [w8 1], vs := [4] }).mustWait (.vstore 64 [(.pad 0 0x100, 0)]) [1] = true :=
  ⟨ready_of (by decide), ready_of (by decide), els_of (by decide +kernel), els_of (by decide +kernel), by decide, by decide, by decide,
    by decide⟩

theorem wit_PredicateResults : Ready (user [(1, -1), (2, 3)]) { src := [w8 1, tk 2] } ∧ Ready (user []) { vs := [1, 2] } ∧
    Ready (user []) {} ∧ Ready (user []) { dx := [3] } :=
  ⟨ready_of (by decide), ready_of (by decide), ready_of (by decide), ready_of (by decide)⟩

theorem wit_VectorPermutes : Ready (user [(1, 3), (2, 31)]) { src := [w8 1], vs := [1, 2], dv := [2] } ∧
    Ready (user []) { vs := [1, 2, 3], dv := [3] } ∧ Ready (user [(1, 3), (2, 31)]) { src := [w8 1, tk 2], vs := [2], dv := [2] } ∧
    Ready (user [(2, 32)]) { src := [w8 2], vs := [1], dx := [3] } ∧ Ready (user []) { dx := [3] } ∧
    Ready (user []) { vs := [1, 2], dv := [3] } ∧ fmtOf .i8 = none ∧ fmtOf .bf16 = some fmtBF16 :=
  ⟨ready_of (by decide), ready_of (by decide), ready_of (by decide), ready_of (by decide), ready_of (by decide),
    ready_of (by decide), rfl, rfl⟩

def sreq : SfuReq := ⟨1024, 3, 0, false, 0, 0, 0⟩

def special (n : Nat) : State := { (user []).modCore 0 fun c => { c with
    sfuQ := List.replicate n sreq, sfuRun := [(sreq, 12)], normCur := some (⟨1024, 3, 0, none, 0, 0⟩, 20)
    normQ := [⟨1024, 4, 0, none, 0, 0⟩], sort := some ⟨24, 1024, 5, 0⟩ } with cycle := 30 }

/-- Requests in turn of a thread that is frozen, of one that is saved, of one that resumes in the next cycle, one queued in this
cycle, one whose result port is full, and one of a thread frozen in this very cycle, which is the oldest eligible one. -/
def queueing (last : Option Nat) : State := { (user []).modCore 0 fun c => { c with
    sfuQ := [{ sreq with t := 1030 }, { sreq with t := 1031 }, { sreq with t := 1032 }, { sreq with queued := 30 }, { sreq with t := 1033 },
      { sreq with t := 1034 }, sreq], sfuLast := last } with
  cycle := 30
  threads := [(1024, thread1 []), (1030, { thread1 [] with frozen := some 7, frozeAt := 29 }), (1031, { thread1 [] with saved := true }),
    (1032, { thread1 [] with thaw := 31 }), (1033, { thread1 [] with sfuWords := List.replicate 16 1 }),
    (1034, { thread1 [] with frozen := some 7, frozeAt := 30 })] }

/-- The condition of R124 and R127, written out. -/
def eligibleB (s : State) (q : SfuReq) : Bool :=
  ((s.thr q.t).frozen.isNone || decide ((s.thr q.t).frozeAt = s.cycle)) && !(s.thr q.t).saved && decide ((s.thr q.t).thaw ≤ s.cycle) &&
    decide (q.queued < s.cycle) && decide ((s.thr q.t).sfuWords.length + (s.core 0).sfuOpen q.t < 16)

theorem wit_SpecialFunctions_accepts :
    (((queueing (some 26)).core 0).sfuQ = ((queueing none).core 0).sfuQ.take 5 ++ { sreq with t := 1034 } :: [sreq] ∧
      (∀ q ∈ ((queueing none).core 0).sfuQ.take 5, eligibleB (queueing (some 26)) q = false) ∧
      eligibleB (queueing (some 26)) { sreq with t := 1034 } = true ∧ ((queueing (some 26)).core 0).sfuLast = some 26) ∧
    ((user []).core 0).sfuQ = [] ∧ ((queueing (some 27)).core 0).sfuLast = some 27 ∧ (queueing (some 27)).cycle < 27 + 4 := by
  decide +kernel

theorem wit_SpecialFunctions :
    (Ready (special 31) { vs := [1], dv := [3] } ∧ ((special 31).core ((special 31).me.sid / 16)).sfuQ.length < 32) ∧
    (Ready (special 32) { vs := [1, 3], dv := [3] } ∧ 32 ≤ ((special 32).core ((special 32).me.sid / 16)).sfuQ.length) ∧
    (special 1).sfuNext 0 = some sreq ∧
    (((special 1).core 0).sfuRun = (sreq, 12) :: [] ∧ 12 ≤ (special 1).cycle ∧ sreq.served = false ∧ (special 1).alive 1024 = true) ∧
    (((special 1).core 0).sfuBehind sreq = false ∧
      (((special 1).modCore 0 fun c => { c with sfuWait := [sreq] }).core 0).sfuBehind { sreq with seq := 1 } = true) ∧
    (((special 1).core 0).normCur = some (⟨1024, 3, 0, none, 0, 0⟩, 20) ∧ 20 ≤ (special 1).cycle ∧ ((special 1).core 0).sfuWait = [] ∧
      ((special 1).core 0).normQ = ⟨1024, 4, 0, none, 0, 0⟩ :: []) ∧
    (((special 1).core 0).sort = some ⟨24, 1024, 5, 0⟩ ∧ 24 ≤ (special 1).cycle) :=
  ⟨⟨ready_of (by decide +kernel), by decide +kernel⟩, ⟨ready_of (by decide +kernel), by decide +kernel⟩, by decide +kernel,
    by decide +kernel, by decide +kernel, by decide +kernel, by decide +kernel⟩

theorem wit_SortAndQuantise : (Ready (user []) { vs := [1], dv := [3] } ∧ ((user []).core ((user []).me.sid / 16)).sort = none) ∧
    (Ready (special 0) { vs := [1], dv := [3] } ∧ ((special 0).core ((special 0).me.sid / 16)).sort ≠ none) ∧
    Ready (user []) { vs := [1, 3], dv := [3] } ∧ Ready (user []) { vs := [1, 2], dv := [3] } :=
  ⟨⟨ready_of (by decide), by decide⟩, ⟨ready_of (by decide +kernel), by decide +kernel⟩, ready_of (by decide), ready_of (by decide)⟩

/-! The matrix array -/

def leased (f : ArrayState → ArrayState) : State := (user [(5, 0), (6, 0)]).modArr 0 fun a => f { a with holder := [(1, 1024)] }

def acmd (op : ArrayOp) (l : Nat) : ArrayCmd := ⟨op, l, 1024, 1, 1, 0, 1, 0, 0, false, false, 0, false⟩

/-- Lease 1 runs; thread 1025, which holds lease 2, waits for a run. -/
def running (f : ArrayState → ArrayState) : State := { (user []).modArr 0 fun a =>
    f { a with holder := [(1, 1024), (2, 1025)], running := some 1, last := 1 } with
  cycle := 65536
  threads := [(1024, thread1 []), (1025, { thread1 [] with sid := 2, wait := some (.run 2) })] }

theorem wit_ArrayLeases :
    (Ready (leased id) { dx := [20] } ∧ ((leased id).arr ((leased id).me.sid / 128)).leaseOf (leased id).cur = some 1 ∧
      (1, (leased id).cur) ∉ ((leased id).arr ((leased id).me.sid / 128)).restore ∧ (leased id).performed (leased id).cur = true) ∧
    (let s := leased fun a => { a with holder := [], restore := [(2, 1024)] }
     Ready s { dx := [20] } ∧ (s.arr 0).leaseOf s.cur = none ∧ (2, 1024) ∈ (s.arr 0).restore) ∧
    (Ready (user []) { dx := [20] } ∧ Ready (user []) {} ∧ ((user []).arr ((user []).me.sid / 128)).leaseOf (user []).cur = none ∧
      ∀ r ∈ ((user []).arr ((user []).me.sid / 128)).restore, r.2 ≠ (user []).cur) ∧
    (((leased id).arr ((leased id).me.sid / 128)).leaseOf (leased id).cur ≠ some 3) ∧
    ((∀ c ∈ ((leased id).arr ((leased id).me.sid / 128)).queue, c.lease ≠ 1) ∧
      ∃ c ∈ ((leased fun a => { a with queue := [acmd .mzero 1] }).arr 0).queue, c.lease = 1) ∧
    (let s := leased fun a => { a with holder := [(0, 7)], waiting := [(1024, 20)] }
     (s.arr 0).restore = [] ∧ (s.arr 0).waiting = (1024, 20) :: [] ∧ (∀ w ∈ ([] : List (Nat × Nat)), w.1 ≠ 1024) ∧ (s.arr 0).free 1 = true ∧
      (∀ c, c < 1 → (s.arr 0).free c = false) ∧ s.alive 1024 = true) ∧
    (let s := running fun a => { a with running := none }
     (s.arr 0).running = none ∧ 2 = ((s.arr 0).last + 1 + 0) % 4 ∧ s.waitsRun 0 2 = true) ∧
    (let s := running id
     (s.arr 0).running = some 1 ∧ s.waitsRun 0 2 = true ∧ (s.arr 0).runFrom + 65536 ≤ s.cycle) ∧
    (let s := running fun a => { a with runFrom := 65535, runIdle := 65280 }
     (s.arr 0).running = some 1 ∧ s.waitsRun 0 2 = true ∧ (s.arr 0).runIdle + 256 ≤ s.cycle) ∧
    (let s := running fun a => { a with runFrom := 65535, runIdle := 65535, runCmds := 64 }
     (s.arr 0).running = some 1 ∧ s.waitsRun 0 2 = true ∧ 64 ≤ (s.arr 0).runCmds) :=
  ⟨⟨ready_of (by decide), by decide⟩, ⟨ready_of (by decide), by decide⟩, ⟨ready_of (by decide), ready_of (by decide), by decide⟩,
    by decide, by decide, by decide, by decide, by decide, by decide, by decide⟩

/-- Records: 3 is BSI8 of K = 48 with one row, in the scratchpad of core 0; 4 is F32 with 8 columns of one row. -/
def recA : List Word := [BitVec.ofNat 64 (5 + 8 * 16 + 2 ^ 32), BitVec.ofNat 64 (48 + 2 ^ 32), BitVec.ofNat 64 (1 + 2 ^ 32), 48, 0, 0,
  0x7F0000000400, 0x7F0000000500]
def recC : List Word := [0, BitVec.ofNat 64 (8 + 2 ^ 32), BitVec.ofNat 64 (1 + 2 ^ 32), 32, 0, 0, 0x7F0000000600, 0]

def resident (st : Nat) (auto : Bool) : Residency :=
  ⟨0, 1, 0, 1, st, false, auto, false, 3, recA, 0, [], [], [], [], 0, none, [], false, 0, 0⟩

/-- Lease 1 runs, its command's operands are x5 and x6, and residency 0 is loaded from record 3. -/
def commanding (a b : Word) : State := { (user [(5, a), (6, b)]).modArr 0 fun a => { a with
    holder := [(1, 1024)], running := some 1, last := 1 } with
  tids := [(16384 + 3, recA), (16384 + 4, recC), (16384 + 5, [7, 0, 0, 0, 0, 0, 0, 0])], residencies := [resident 2 false] }

theorem wit_ArrayCommandsAreAccepted :
    (let s := commanding 3 0
     (s.arr 0).running = some 1 ∧ (s.arr 0).leaseOf s.cur = some 1 ∧ (s.arr 0).queue.length < 8 ∧ s.performed s.cur = true) ∧
    Ready (commanding 3 4) {} ∧ Ready (commanding 3 4) { src := [w8 6], dx := [20] } ∧
    (let d := tensorOf ((commanding 3 4).tidRec 1 0 4)
     bits 4 63 37 = 0 ∧ bits 4 20 12 ≤ 256 ∧ d.ok = true ∧ d.fmt < 3 ∧ bits 4 36 21 + min 256 (d.dim1 - bits 4 36 21) ≤ d.dim1 ∧
      1 ≤ d.dim0 ∧ d.dim0 ≤ 512) ∧
    (bits 0x8000000000000000 63 37 ≠ 0 ∧ (tensorOf ((commanding 3 4).tidRec 1 0 5)).ok = false) ∧
    Ready (commanding 3 3) { src := [w8 5, w8 6] } ∧
    (let s := commanding 3 3
     let d := tensorOf (s.tidRec 1 0 3)
     d.ok = true ∧ d.fmt = 5 ∧ bits 3 36 21 + min 256 (d.dim1 - bits 3 36 21) ≤ d.dim1 ∧
      s.operandInPads 1 0 s.me.sid 0 d ((List.range 1).map (bits 3 36 21 + ·)) = true ∧
      bits 3 19 16 = 0 ∧ bits 3 15 12 = 0 ∧ 0 * 192 < d.dim0 ∧ 0 + ((d.dim0 + 191) / 192 - 0) ≤ (d.dim0 + 191) / 192 ∧ 0 * 128 < d.dim1) ∧
    (let s := commanding 4 0x10000
     let a := tensorOf (s.tidRec 1 0 4)
     bits 0x10000 19 16 = 1 ∧ bits 4 63 37 = 0 ∧ bits 0x10000 63 56 = 0 ∧ a.dim1 = 1 ∧ a.ok = true ∧ a.fmt ≠ 5) ∧
    (let s := { commanding 3 6 with tids := [(16384 + 6, [0, BitVec.ofNat 64 (513 + 2 ^ 32), BitVec.ofNat 64 (1 + 2 ^ 32), 2052, 0, 0,
       0x7F0000000600, 0])] }
     let d := tensorOf (s.tidRec 1 0 6)
     Ready s { src := [w8 6], dx := [20] } ∧ bits 6 63 37 = 0 ∧ d.ok = true ∧ d.fmt = 0 ∧ d.dim1 = 1 ∧ 512 < d.dim0) ∧
    (Ready (commanding 3 1) { src := [w8 5, w8 6] } ∧ (commanding 3 1).residency 1 (bits 1 15 0) = none) ∧
    (let s := commanding 3 0x80000
     let r := resident 2 false
     s.residency 1 (bits 0x80000 15 0) = some r ∧ r.fill = none ∧ r.src ≠ [] ∧ r.handle / 512 = 0 ∧ r.stale = false ∧ r.st = 2 ∧
      bits 0x80000 19 16 = 8 ∧ 8 ≤ (tensorOf r.src).planes) ∧
    (resident 3 true).st = 3 ∧ (resident 3 true).auto = true :=
  ⟨by decide, ready_of (by decide), ready_of (by decide), by decide, by decide, ready_of (by decide), by decide +kernel,
    by decide +kernel, ⟨ready_of rfl, by decide +kernel⟩, ⟨ready_of rfl, by decide +kernel⟩, by decide +kernel, rfl, rfl⟩

def working : State := { (user []).modArr 0 fun a => { a with
    holder := [(1, 1024)], queue := [acmd (.mmul true 0 8 48 1 128 0 0 1 0 1 recA recA) 1] } with cycle := 100 }

/-- A resident tensor of one column. -/
def loaded : Residency := { resident 2 false with wts := [List.replicate 48 1], scl := [[127]] }

/-- The same pass with B resident. -/
def workingR : State := { (user []).modArr 0 fun a => { a with
    holder := [(1, 1024)], queue := [acmd (.mmul false 0 8 48 1 128 0 0 1 0 1 recA recA) 1], passAt := some 80 } with
  cycle := 100, residencies := [loaded] }

theorem wit_ArrayWorks_pass :
    (∀ s ∈ [working, workingR], ∃ c : ArrayCmd, (s.arr 0).queue = c :: [] ∧ (s.arr 0).finishing = false ∧ c.stall = 0 ∧
      c.abandoned = false ∧ c.passes < 1 ∧ (s.arr 0).busyTo < s.cycle ∧ c.acc + 9 ≤ s.cycle ∧ (∀ q ∈ (s.arr 0).passAt, q + 20 ≤ s.cycle) ∧
      s.badPad = []) ∧
    (∀ q ∈ [81, 100], ¬ q + 20 ≤ working.cycle) ∧
    (let d := tensorOf recA
     working.windowPlace 1 0 1 .sync (d.row 0 + 48 * 0) = some (.pad 0 0x400) ∧ (d.row 0 + 48 * 0) % 16384 + 48 * 1 ≤ 16384 ∧
      working.windowPlace 1 0 1 .sync (d.scaleRow 0 + 0) = some (.pad 0 0x500) ∧ (d.scaleRow 0 + 0) % 16384 + 1 ≤ 16384 ∧
      workingR.windowPlace 1 0 1 .sync (d.row 0 + 48 * 0) = some (.pad 0 0x400) ∧
      workingR.windowPlace 1 0 1 .sync (d.scaleRow 0 + 0) = some (.pad 0 0x500) ∧ min 4 (48 / 48 - 4 * (0 + 0)) = 1 ∧ min 128 (1 - 0 * 128) = 1) ∧
    workingR.residency 1 0 = some loaded ∧ loaded.bad = 0 := by
  refine ⟨fun s h => ?_, by decide, by decide +kernel, by decide +kernel, rfl⟩
  simp only [List.mem_cons, List.not_mem_nil, or_false] at h
  rcases h with rfl | rfl
  · exact ⟨_, rfl, by decide +kernel⟩
  · exact ⟨_, rfl, by decide +kernel⟩

/-- The array's last command is in its last cycle. -/
def ending (op : ArrayOp) (ab : Bool) : State := { (user []).modArr 0 fun a => { a with
    queue := [{ acmd op 1 with abandoned := ab }], finishing := true } with
  cycle := 1, residencies := [loaded] }

theorem wit_ArrayWorks_blocks : (List.replicate 48 1).length = 48 ∧ (255 : Nat) = 255 ∧ (254 : Nat) ≠ 255 := by decide

/-- A record whose rows no page holds. -/
def recU : List Word := [0, BitVec.ofNat 64 (8 + 2 ^ 32), BitVec.ofNat 64 (1 + 2 ^ 32), 32, 0, 0, 0x7F0008000000, 0]

theorem wit_ArrayWorks :
    (∀ op ∈ [ArrayOp.mzero, .mmul true 0 8 48 1 128 0 0 1 0 1 recA recA, .mmul false 0 8 48 1 128 0 0 1 0 1 recA recA,
        .mdrain 20 0 1 recC, .mdrain 20 0 1 recU],
      ∀ ab ∈ [false, true],
      let s := ending op ab
      (s.arr 0).queue = [{ acmd op 1 with abandoned := ab }] ∧ (s.arr 0).finishing = true ∧ (s.arr 0).busyTo ≤ s.cycle ∧
        (s.arr 0).saving = [] ∧ (s.engCtx (ctxKey 1 0 (8 + 1) 0)).stall = none) ∧
    (∀ r, (ending .mzero false).residency 1 0 = some r → r.reqs = []) ∧
    (let s := ending (.mdrain 20 0 1 recC) false
     let d := tensorOf recC
     0 < d.dim0 ∧ d.dim0 ≤ 512 ∧ 8 = 1 * d.dim0 ∧
      ∀ q, q < 8 → 4 ≤ runLength (d.row (0 + q / d.dim0) + q % d.dim0 * 4) ∧ ∀ x, x < 4 →
        placeB (s.engPlace (acmd .mzero 1).eng .write (d.row (0 + q / d.dim0) + q % d.dim0 * 4 + x)) (.pad 0 (0x600 + 4 * q + x)) = true) ∧
    (let s := ending (.mdrain 20 0 1 recU) false
     let d := tensorOf recU
     0 < 1 * d.dim0 ∧ d.dim0 ≤ 512 ∧ (match s.engPlace (acmd .mzero 1).eng .write (d.row (0 + 0 / d.dim0) + 0 % d.dim0 * 4) with
      | .error e => decide (e = 3)
      | .ok _ => false) = true) := by
  refine ⟨by decide +kernel, fun r h => ?_, by decide +kernel, by decide +kernel⟩
  have : (ending .mzero false).residency 1 0 = some loaded := by decide +kernel
  obtain rfl := Option.some.inj (h.symm.trans this)
  rfl

/-! Tensors, residencies and their fills -/

def targetB (f : List (Place × Nat) → Bool) (t : Target) : Bool := match t with
  | .ok ps _ _ => f ps
  | .trap _ _ _ | .miss _ | .stop _ => false

theorem target_of {f : List (Place × Nat) → Bool} {t : Target} (h : targetB f t = true) : ∃ ps k l, t = .ok ps k l ∧ f ps = true := by
  cases t <;> simp_all [targetB]

/-- Tables of tenancy 0 that map 0x10000-0x1FFFF to 0x20000, writable. -/
def tables : List Host.Cell := Memory.writeBytes (Memory.writeBytes (Memory.writeBytes (Memory.writeBytes [] 0x1000 (leBytes 8 0x2001))
  0x2000 (leBytes 8 0x3001)) 0x3000 (leBytes 8 0x4001)) 0x4008 (leBytes 8 0x20017)

/-- A source in the mapped page: BSI8 of K = 48 with one row. -/
def recM : List Word := [BitVec.ofNat 64 (5 + 8 * 16 + 2 ^ 32), BitVec.ofNat 64 (48 + 2 ^ 32), BitVec.ofNat 64 (1 + 2 ^ 32), 48, 0, 0,
  0x10000, 0x10100]

def mapped (f : State → State) (xs : List (Nat × Word)) : State := f { user xs with
  hbm := tables, parts := [(1, { part1 with ptroot := [(0, 0x1000)] })]
  tids := [(16384 + 3, recM), (16384 + 4, recC)] }

def filling (src : List Word) : Residency := { resident 1 false with src := [], fill := some ⟨⟨1, 1024, 1, 20, 0, 3, src⟩, 0, 0, src, [], [], false⟩ }

def held (rs : List Residency) (w : Word) : State := mapped (fun s => { s with residencies := rs }) [(5, 7), (6, w)]

theorem wit_TensorsAndResidencies_records :
    (Ready (held [] 0x7F0000000800) { src := [w8 5, w8 6] } ∧ ((held [] 0x7F0000000800).rx (w8 5)).toNat < 4096 ∧
      (held [] 0x7F0000000800).performed (held [] 0x7F0000000800).cur = true ∧
      (∃ ps k l, ((held [] 0x7F0000000800).take { src := [w8 5, w8 6] }).wordTargets
          ((held [] 0x7F0000000800).take { src := [w8 5, w8 6] }).me .read false 0x7F0000000800 8 = .ok ps k l ∧
        decide (ps.length = 8 ∧ (((held [] 0x7F0000000800).take { src := [w8 5, w8 6] }).readParts
            (held [] 0x7F0000000800).me.ctx (joinParts ps)).2.1 = false) = true) ∧
      (tensorOf (List.replicate 8 0)).bad = false ∧ (tensorOf (List.replicate 8 0)).fmt ≠ 7) ∧
    (Ready (user [(5, 4096), (6, 0)]) { src := [w8 5, w8 6] } ∧ 4096 ≤ ((user [(5, 4096), (6, 0)]).rx (w8 5)).toNat) ∧
    (2 ^ 32 ≤ ((held [] 0x100000000).rx (w8 6)).toNat ∧ ((held [] 0xFFFFFFFF).rx (w8 6)).toNat < 2 ^ 32) :=
  ⟨⟨ready_of (by decide +kernel), by decide +kernel, by decide +kernel, target_of (by decide +kernel), by decide +kernel, by decide +kernel⟩,
    ⟨ready_of (by decide), by decide⟩, by decide +kernel, by decide +kernel⟩

theorem wit_TensorsAndResidencies_ralloc :
    (∀ n ∈ [(0 : Word), 3073, 1, 100, 101, 0x10000000], Ready (held [] n) { src := [w8 6], dx := [20] }) ∧
    (∀ n ∈ [(0 : Word), 3073, 1, 100, 101, 0x10000000], (held [] n).rx (w8 6) = n ∧
      (held [] n).performed (held [] n).cur = true ∧ (held [] n).me.isRoot = false) ∧
    (held [] 1).me.part ≠ 0 ∧ (held [] 1).charged 1 0 0 + 100 ≤ 100 ∧ 100 < (held [] 1).charged 1 0 0 + 101 ∧
    100 ≤ (held [] 1).freePages 0 ∧ (held [] 1).residency 1 0 = none ∧
    (∀ i, i < 512 → ((held ((List.range 512).map fun h => { resident 0 false with handle := h, pages := 0 }) 1).residency 1 i).isSome = true) :=
  ⟨ready_all (by decide +kernel), all_of (by decide +kernel), by decide +kernel, by decide +kernel, by decide +kernel, by decide +kernel,
    by decide +kernel, by decide +kernel⟩

theorem wit_TensorsAndResidencies_named :
    (∀ w ∈ [(0 : Word), 0x10000000, 0x30000, 0x40000], Ready (held [resident 2 false] w) { src := [w8 6], dx := [20] }) ∧
    (∀ w ∈ [(0 : Word), 0x10000000, 0x30000, 0x40000], (held [resident 2 false] w).rx (w8 6) = w) ∧
    (held [] 0).residency 1 0 = none ∧ (held [resident 2 false] 0).residency 1 0 = some (resident 2 false) ∧
    ((resident 2 false).fill = none ∧ (resident 2 false).reqs = [] ∧ (resident 2 false).st ≠ 3 ∧ (resident 2 false).handle / 512 = 0) ∧
    (held [resident 2 false] 0).resBusy 1 0 = false ∧
    (let d := tensorOf ((held [resident 2 false] 0x40000).tidRec 1 0 4); d.fmt ≠ 5 ∧ d.fmt ≠ 6) ∧
    (let d := tensorOf ((held [resident 2 false] 0x30000).tidRec 1 0 3)
     d.ok = true ∧ d.fmt = 5 ∧ d.dim2 = 1 ∧ d.dim3 = 1 ∧ pagesFor d.dim0 d.dim1 ≤ (resident 2 false).pages ∧
      ((held [resident 2 false] 0x30000).source 1 0 d).isSome = true) :=
  ⟨ready_all (by decide +kernel), all_of (by decide +kernel), by decide +kernel, by decide +kernel, by decide +kernel, by decide +kernel,
    by decide +kernel, by decide +kernel⟩

/-- The head of the queue waits for an AUTOFILL refill of residency 0. -/
def refilling (src : List Word) : State := (held [{ resident 3 true with src := src }] 0).modArr 0 fun a => { a with
  queue := [{ acmd (.mmul false 0 8 48 1 128 0 0 1 0 1 recA recA) 1 with stall := 2 }] }

theorem wit_FillsEnd :
    (let s := held [filling recM] 0
     s.resAt 0 0 s.fillReady = some (filling recM) ∧ s.residency 1 0 = some (filling recM) ∧ (filling recM).reqs = [] ∧
      s.array 0 = none ∧ (s.source 1 0 (tensorOf recM)).isSome = true ∧
      (readColumns ((filling recM).engFor 0) (tensorOf recM) 1 0 s).1.isSome = true ∧ s.alive 1024 = true) ∧
    (let s := held [filling recA] 0
     s.resAt 0 0 s.fillReady = some (filling recA) ∧ s.source 1 0 (tensorOf recA) = none) ∧
    ((refilling recM).refillWanted 0 = some { resident 3 true with src := recM } ∧
      ((refilling recM).refill { resident 3 true with src := recM }).2 = true ∧
      (refilling recA).refillWanted 0 = some { resident 3 true with src := recA } ∧
      (refilling recA).residency 1 0 = some { resident 3 true with src := recA } ∧
      ((refilling recA).refill { resident 3 true with src := recA }).2 = false) ∧
    (∀ x ∈ [(recM, true), (recA, false)],
      let r := { resident 3 true with src := x.1, wasRes := true }
      (held [r] 0).resAt 0 0 (fun r => r.st = 3 && r.auto && r.wasRes && (held [r] 0).tenRuns r.part r.ten &&
        ((held [r] 0).refillRoom r).isSome) = some r ∧ ((held [r] 0).refill r).2 = x.2) := by
  decide +kernel

/-! Agents -/

def agent1 : Agent := { newAgent 0 1 0 1 0x10 [] 0x100000 1 (0, 0) with st := 1, packet := none }

def model1 : Model := ⟨8, 32000, 1024, 64, 0, 1000, 1, 0, [], 0, 0⟩

/-- Agent 5 acts: k1 names context 0 of model 3, k2 is free, s1 is a string of 4 tokens with room for 8 at 0x100, s3 one of 32
tokens at 0x200, s2 is empty. -/
def acting (f : Agent → Agent) : State := { user [] with
  cur := 5, parts := [(1, part2)], contexts := [(0, ctx1)], models := [(modelKey 1 0 3, model1)]
  agents := [(5, f { agent1 with
    k := [(1, 0x8000000000000000)], s := [(1, 0x400080100), (3, 0x2000200200)], a := [(1, 0x40), (2, 3), (3, 4)] })] }

def me (s : State) : Agent := (s.agent s.cur).getD agent1

theorem wit_AgentShortResults :
    (let s := acting id
     s.agent s.cur = some (me s) ∧ s.issues (me s) = true ∧ (me s).flight = [] ∧ (me s).apc < 2 ^ 32 ∧ ((me s).getA 31).toNat < 2 ^ 32 ∧
      ((me s).getA 31).toNat % 8 = 0 ∧ s.ctxOf (me s) 1 = some (0, ctx1)) ∧
    (let s := acting fun g => { g with apc := 2 ^ 32 - 8, a := [(31, 0xFFFFFFF8)] }
     s.agent s.cur = some (me s) ∧ s.issues (me s) = true ∧ (me s).flight = [] ∧ (me s).apc < 2 ^ 32 ∧ ((me s).getA 31).toNat < 2 ^ 32 ∧
      ((me s).getA 31).toNat % 8 = 0) ∧ 0 < (32 : BitVec 32).toNat := by
  decide +kernel

theorem wit_AgentMemoryResults :
    let s := acting id
    let g := me s
    s.agent s.cur = some g ∧ s.issues g = true ∧ g.flight = [] ∧
    (((g.getA 1).toNat : Int) + (-0x40 : BitVec 32).toInt = 0 ∧ ((g.getA 1).toNat : Int) + (0xFFBF : BitVec 32).toInt = 65535 ∧
      ((g.getA 1).toNat : Int) + (0xFFB8 : BitVec 32).toInt = 65528 ∧ 65528 % ESize.bytes .s8 = 0 ∧ 65528 + ESize.bytes .s8 ≤ 65536 ∧
      65535 % ESize.bytes .s1 = 0 ∧ 65535 + ESize.bytes .s1 ≤ 65536) ∧
    strOk (BitVec.ofNat 64 (s.recallLe g 0 8)) = true ∧
    ((g.getA 2).toNat < bits (g.getS 1) 47 32 ∧ (g.getA 3).toNat = bits (g.getS 1) 47 32 ∧
      bits (g.getS 1) 47 32 < bits (g.getS 1) 31 16) ∧
    12 + (g.getA 2).toNat ≤ 15 ∧ bits (g.getS 1) 47 32 + bits (g.getS 1) 47 32 ≤ bits (g.getS 1) 31 16 := by
  decide +kernel

theorem wit_AgentFaultsPostHalt :
    (let s := acting fun g => { g with a := [(1, 0xFFF9), (2, 1), (3, 4), (4, 15), (5, 8), (6, 0x10000), (31, 0x100000000)]
                                       s := [(1, 0x400080100), (2, 0x800080100), (3, 0x100080100)] }
     let g := me s
     s.agent s.cur = some g ∧ s.issues g = true ∧ g.flight = [] ∧ (s.iter g.part).running = false ∧ g.fault = none ∧
      s.nextWaiting g.part = none ∧
      (((g.getA 2).toNat + (-2 : BitVec 32).toInt : Int) < 0 ∧ ((g.getA 6).toNat + (0 : BitVec 32).toInt : Int) + ESize.bytes .s1 > 65536 ∧
        ((g.getA 2).toNat + (0 : BitVec 32).toInt : Int) % ESize.bytes .s2 ≠ 0) ∧
      2 ^ 32 ≤ (g.getA 31).toNat ∧ bits (g.getS 1) 47 32 ≤ (g.getA 3).toNat ∧ bits (g.getS 3) 47 32 < (g.getA 3).toNat ∧
      ((g.getA 5).toNat = bits (g.getS 2) 47 32 ∧ bits (g.getS 2) 31 16 = (g.getA 5).toNat) ∧ 15 < 1 + (g.getA 4).toNat ∧
      bits (g.getS 2) 31 16 < bits (g.getS 2) 47 32 + bits (g.getS 1) 47 32 ∧ s.ctxOf g 2 = none) ∧
    (let s := { acting id with cqs := [(1, ⟨0x10000, false, 4, 15, 0⟩)] }
     s.boundFn 1 = 1 ∧ s.cqRoom 1 = true ∧ Table.get s.cqHeld 1 [] = [] ∧ s.nextWaiting 1 = none) ∧
    (acting id).cqRoom 1 = false := by
  decide +kernel

def runB (st : Start) (ok : List Word → Bool) : Bool := match st with
  | .run d => ok d
  | .fault _ | .done _ => false

theorem run_of {st : Start} {ok : List Word → Bool} (h : runB st ok = true) : ∃ d, st = .run d ∧ ok d = true := by
  cases st <;> simp_all [runB]

def doneB (st : Start) (ok : Agent → Bool) : Bool := match st with
  | .done g => ok g
  | .fault _ | .run _ => false

theorem done_of {st : Start} {ok : Agent → Bool} (h : doneB st ok = true) : ∃ g, st = .done g ∧ ok g = true := by
  cases st <;> simp_all [doneB]

def faultB (st : Start) (c : Nat) : Bool := match st with
  | .fault k => decide (k = c)
  | .done _ | .run _ => false

theorem fault_of {st : Start} {c : Nat} (h : faultB st c = true) : st = .fault c := by
  cases st <;> simp_all [faultB]

/-- A long instruction in flight that touches nothing the tests use. -/
def other (op : LongOp) : LongInst := ⟨op, 8, some 3, false, none, [], none, [], 0⟩

/-- With three older instructions in flight. -/
def behind : State := acting fun g => { g with flight := [other (.ctxfree 9), other (.ctxfree 10), other (.ctxfree 11)] }

def entries (k : Nat) : Table BatchEntry := (List.range k).map fun n => (n, ⟨0, 0, 0, 0, 1, 0x29, 9, 9, 0, 0, 0, false⟩)

theorem entries_has {k n : Nat} (h : n < k) : Table.has (entries k) n = true :=
  has_of_mem (List.mem_map.2 ⟨n, List.mem_range.2 h, rfl⟩)

/-- The batch table of die 0 is full. -/
def full (t : Table BatchEntry) : State := { behind with batch := t }

theorem full_batch (t : Table BatchEntry) : (full t).batch = t := rfl

theorem full_none : (full (entries 8192)).freeEntry 0 = none := by
  rw [State.freeEntry, List.find?_eq_none]
  intro n hn
  obtain ⟨k, hk, rfl⟩ := List.mem_map.1 hn
  have hk : k < 8192 := Nat.lt_of_lt_of_le (List.mem_range.1 hk) (Nat.min_le_left _ _)
  rw [full_batch, Nat.zero_mul, Nat.zero_add, entries_has hk]
  decide

/-- The agent waits in the AWAIT at its apc, with one more instruction in flight. -/
def expecting : State := acting fun g => { g with flight := [other (.ctxfree 9), { other (.await 4 7) with apc := agent1.apc, entry := none }] }

theorem wit_AgentLongIssue_behindAwait :
    (let s := expecting
     s.agent s.cur = some (me s) ∧ s.issues (me s) = true ∧ (me s).flight.length < 4 ∧ (me s).apc + 8 < 2 ^ 32 ∧
      (∀ op ∈ [LongOp.trim 1 2, .ctxfree 2], ∀ l ∈ (me s).flight, l.done = false ∧ (me s).depends op l.op = false) ∧
      (∃ l ∈ (me s).flight, opAwaits l.op = true ∧ l.apc = (me s).apc) ∧ s.freeEntry (me s).die = some 0) ∧
    (∃ d, expecting.startLong { me expecting with apc := agent1.apc + 8 } (.trim 1 2) ((me expecting).replay.head?.getD false) = .run d ∧
      d.isEmpty = true) ∧
    expecting.startLong { me expecting with apc := agent1.apc + 8 } (.ctxfree 2) false = .fault 3 :=
  ⟨by decide +kernel, run_of (by decide +kernel), fault_of (by decide +kernel)⟩

theorem wit_AgentLongIssue :
    (let s := behind
     s.agent s.cur = some (me s) ∧ s.issues (me s) = true ∧ (me s).flight.length < 4 ∧
      (∀ l ∈ (me s).flight, l.done = false ∧ (me s).depends (.trim 1 2) l.op = false) ∧
      s.freeEntry (me s).die = some 0) ∧
    (∃ d, behind.startLong (me behind) (.trim 1 2) ((me behind).replay.head?.getD false) = .run d ∧ d.isEmpty = true) ∧
    (∃ d, behind.startLong (me behind) (.await 1 7) false = .run d ∧ d.isEmpty = true) ∧
    (∃ g, (acting id).startLong (me (acting id)) (.gen 1 1 0) false = .done g ∧ decide (g = me (acting id)) = true) ∧
    (∃ g, (acting fun g => { g with events := [(7, 9)] }).startLong (me (acting fun g => { g with events := [(7, 9)] })) (.await 1 7)
      false = .done g ∧ decide (g.getA 1 = 9 ∧ g.events = []) = true) ∧
    ((me (acting id)).flight = [] ∧ (acting id).freeEntry 0 = some 0) ∧
    behind.startLong (me behind) (.ctxfree 2) false = .fault 3 ∧
    (let s := acting id
     bit ((me s).getK 1) 63 ≠ false ∧ bit ((me s).getK 2) 63 = false ∧ (s.model 1 0 3).isSome = true ∧ s.model 1 0 4 = none ∧
      s.ctxOf (me s) 1 = some (0, ctx1) ∧ s.modelOf ctx1 = some model1 ∧ (∀ t ∈ s.tokens (me s) 1, t < model1.vocab) ∧
      ((me s).getA 2).toNat < (s.tokens (me s) 1).length ∧ ctx1.len ≠ 0 ∧ ctx1.len + (s.tokens (me s) 1).length - 1 ≤ model1.cap ∧
      (s.tokens (me s) 1).length ≤ ((me s).getA 3).toNat ∧ ((me s).getA 3).toNat ≤ bits ((me s).getS 1) 47 32 ∧
      bits ((me s).getS 1) 47 32 < ((me s).getA 1).toNat ∧ (me s).getA 2 ≠ 0 ∧ ctx1.newLeft ≠ 0 ∧ ctx1.totLeft ≠ 0 ∧
      (s.tokens (me s) 1).drop ((me s).getA 2).toNat ≠ [] ∧ ctx1.len + 1 ≤ 16 * ctx1.btcap ∧ 1 ≤ ctx1.totLeft ∧
      s.ctxOf (me s) 2 = none ∧ (me s).pending 7 = none) ∧
    (let s := { acting fun g => { g with a := [(1, 65472)] } with
       hbm := Memory.writeBytes [] (0x100000 + 65472) (wordBytes freshRecord) }
     let o := ((me s).getA 1).toNat
     o % 8 = 0 ∧ o + 64 ≤ 65536 ∧
      recordOk ((List.range 5).map fun i => BitVec.ofNat 64 (s.recallLe (me s) (o + 8 * i) 8)) model1.planes = true) ∧
    (let s := acting fun g => { g with events := [(7, 9)] }
     (me s).pending (7 : BitVec 32).toNat = some (7, 9)) ∧
    (let s := { acting id with contexts := [(0, { ctx1 with len := 0, toks := [] })] }
     s.ctxOf (me s) 1 = some (0, { ctx1 with len := 0, toks := [] }) ∧ (me s).getA 2 ≠ 0) ∧
    (full (entries 8192)).freeEntry 0 = none ∧ (me behind).die = 0 :=
  ⟨by decide +kernel, run_of (by decide +kernel), run_of (by decide +kernel), done_of (by decide +kernel), done_of (by decide +kernel),
    by decide +kernel, fault_of (by decide +kernel),
    by decide +kernel, by decide +kernel, by decide +kernel, by decide +kernel, full_none, by decide +kernel⟩

/-- A node that maps the first block of context 0, whose sampling record and block table lie in the region. -/
def grafted (l : LongInst) : State := { acting fun g => { g with flight := [l] } with
  hbm := Memory.writeBytes [] 0x8000 (leBytes 4 5 ++ List.replicate 12 255)
  contexts := [(0, { ctx1 with len := 16, toks := List.range 16, pins := [1] })]
  nodes := [⟨1, 1, 0, 3, 0, 5, List.range 16, 0, []⟩], blocks := [(5, ⟨1, none, none⟩)] }

theorem wit_AgentSnapshotEffects :
    let s := grafted (other (.ctxnew 2 3))
    s.agent 5 = some (me s) ∧ s.model 1 0 (3 : BitVec 32).toNat = some model1 ∧
    (s.createCtx 1 0 5 (3 : BitVec 32).toNat model1).map (·.1) = some 1 ∧
    s.ctxOf (me s) 1 = some (0, { ctx1 with len := 16, toks := List.range 16, pins := [1] }) ∧
    (s.forkCtx 5 7 { ctx1 with len := 16, toks := List.range 16, pins := [1] }).map (·.1) = some 1 ∧
    ((me s).getA 3).toNat < 16 ∧ 16 ≤ ((me s).getA 1).toNat := by
  decide +kernel

/-- A step of context 0 for the instruction in flight. -/
def step1 (g c : Nat) (spec : Bool) : Step := ⟨3, 5, 0, 0, 3, g, c, spec, [], if spec then [8, 9] else [], none, false⟩

/-- The batch of that step may commit. -/
def committing (l : LongInst) (t : Step) (f : Context → Context) : State := { acting fun g => { g with flight := [l] } with
  batch := [(3, ⟨0, 0, 0, 0, 2, opCode l.op, 5, 0, 0, 4, 0, false⟩)], contexts := [(0, f ctx1)]
  iters := [(1, { freshIter with running := true, num := 4, batches := [⟨3, [t], 0, [], []⟩] })] }

theorem wit_AgentSnapshotEffects_commits :
    (∀ x ∈ [(other (.append 1 1 2), step1 0 1 false), ({ other (.score 1 1 1 2) with pos := some 22 }, step1 0 1 false),
        (other (.gen 1 2 2), step1 0 0 false), ({ other (.gen 1 1 2) with held := some 7 }, step1 0 1 false),
        ({ other (.gen 1 1 2) with held := some 7 }, step1 0 3 true), ({ other (.gen 1 2 2) with held := some 7 }, step1 0 1 false)],
      let s := committing x.1 x.2 id
      s.nextBatch 1 = some ⟨3, [x.2], 0, [], []⟩ ∧ Batch.erred ⟨3, [x.2], 0, [], []⟩ = false ∧ s.stepInst x.2 = some (me s, x.1) ∧
        s.context x.2.ctx = some ctx1 ∧ x.2.fault = none ∧ x.2.failed = false ∧ (s.kernel ctx1).isSome = true ∧ ctx1.maskOn = false) ∧
    ctx1.len ≤ 22 + 1 ∧
    (let s := committing (other (.gen 1 1 2)) (step1 0 1 false) id
     bits ((me s).getS 1) 47 32 + 3 ≤ bits ((me s).getS 1) 31 16 ∧ bits ((me s).getS 2) 31 16 < bits ((me s).getS 2) 47 32 + 1 ∧
      min (min (min [7].length ((me s).getA 2).toNat) (min ctx1.newLeft ctx1.totLeft)) 1 = 1) := by
  decide +kernel

/-! Iterations, registers and switches -/

def iterating (i : Iter) : State := { acting id with iters := [(1, i)], cycle := 100 }

/-- A batch of model group 3 with the reports named; its members are `n`. -/
def batch3 (n : Nat) (rs : List (Nat × Nat)) : Batch := ⟨3, [], n, rs, []⟩

def oneBatch (b : Batch) : State := iterating { freshIter with running := true, num := 4, batches := [b] }

theorem wit_Iterations :
    ((acting id).mayIterate 1 = true ∧ ((acting id).noMiss.snapshot 1 1).xmiss = none) ∧
    (let s := { acting fun g => { g with flight := [{ other (.append 1 1 2) with entry := some 0 }] } with
       batch := [(0, ⟨0, 0, 0, 0, 1, 0x21, 5, 0, 0, 0, 0, false⟩)], contexts := [(0, { ctx1 with len := 18, toks := List.range 18 })] }
     s.mayIterate 1 = true) ∧
    (oneBatch (batch3 1 [])).mayIterate 1 = false ∧
    ((oneBatch (batch3 0 [])).nextBatch 1 = some (batch3 0 []) ∧ (oneBatch (batch3 2 [(9, 4)])).nextBatch 1 = some (batch3 2 [(9, 4)]) ∧
      (batch3 2 [(9, 4)]).erred = true ∧ (oneBatch (batch3 1 [])).nextBatch 1 = none) ∧
    (({ oneBatch (batch3 1 []) with cycle := 1100100 }).lateBatch 1 = some (batch3 1 []) ∧ (oneBatch (batch3 1 [])).lateBatch 1 = none) ∧
    (({ acting id with blocks := [(5, ⟨0, some 3, none⟩)] }).graceDue 1 5 = true ∧
      ({ acting id with blocks := [(5, ⟨0, some 3, none⟩)] }).graceDue 1 4 = false) ∧
    (({ acting id with nodes := [⟨1, 1, 0, 3, 0, 5, List.range 16, 0, [(⟨5, 0x10, 0⟩, 0)]⟩] }).nodes.find? fun (x : Node) => x.id = 1) =
      some ⟨1, 1, 0, 3, 0, 5, List.range 16, 0, [(⟨5, 0x10, 0⟩, 0)]⟩ ∧
    ((acting id).agent 5 = some (me (acting id)) ∧ (me (acting id)).st = 1 ∧ (me (acting id)).looked = false ∧
      (acting id).startsFor 1 0 = true) ∧
    (let f : Flit := ⟨0, 9, 0, 2, 1, 0, 7, 0, .batch 3 4⟩
     let s := { acting id with batchIn := [f] }
     (s.batchIn.find? fun f => f.part = 1 && s.tenRuns 1 f.ten) = some f ∧ f.body = .batch 3 4) ∧
    (let s := iterating { freshIter with jobs := [⟨3, 4, 9, 0, 0, 0⟩] }
     (s.iter 1).jobs.find? (fun j => s.tenRuns 1 j.ten) = some ⟨3, 4, 9, 0, 0, 0⟩) ∧
    (let f : Flit := ⟨0, 9, 0, 2, 1, 0, 7, 0, .report 3 4 9 0⟩
     let s := { oneBatch (batch3 1 []) with reportIn := [f] }
     (s.iter 1).jobs.find? (fun j => s.tenRuns 1 j.ten) = none ∧ (s.reportIn.find? fun f => f.part = 1) = some f ∧
      f.body = .report 3 4 9 0 ∧ (s.iter 1).running = true ∧ (s.iter 1).num = 4) := by
  decide +kernel

theorem wit_RegisterWrites :
    (let v : Word := 0x100000000001
     4096 ≤ bits v 48 32 ∧ bits v 48 32 ≤ 65536 ∧ 1 ≤ bits v 9 0 ∧ bits v 9 0 ≤ 512) ∧
    (let v : Word := 0x1000000000200
     4096 ≤ bits v 48 32 ∧ bits v 48 32 ≤ 65536 ∧ 1 ≤ bits v 9 0 ∧ bits v 9 0 ≤ 512) ∧
    (bits (0xFFF00000001 : Word) 48 32 < 4096 ∧ 65536 < bits (0x1000100000001 : Word) 48 32 ∧ bits (0x100000000000 : Word) 9 0 = 0 ∧
      512 < bits (0x100000000201 : Word) 9 0) ∧
    (1 ≤ bits (1 : Word) 16 0 ∧ bits (65536 : Word) 16 0 ≤ 65536) ∧
    ((∀ e ∈ (user []).contexts, e.2.part ≠ 1) ∧ ∃ e ∈ (acting id).contexts, e.2.part = 1) ∧
    (bit (0x80000000 : Word) 31 = true ∧ bits (0x80000000 : Word) 29 26 = 0 ∧ 12288 ≤ bits (0x84003000 : Word) 13 0) ∧
    (bit (0x84002FFF : Word) 31 = true ∧ bits (0x84002FFF : Word) 29 26 ≠ 0 ∧ bits (0x84002FFF : Word) 13 0 < 12288 ∧
      bit (0x3000 : Word) 31 = false) ∧
    (((user []).part 1).cur < 4 ∧ (bits (2 : Word) 3 0).testBit ((user []).part 1).cur = false ∧
      bits (0x301 : Word) 3 0 = ((user []).part 1).res ∧ ((user []).part 1).res.testBit ((user []).part 1).cur = true) ∧
    (bit (1 : Word) 0 = true ∧ bit (2 : Word) 0 = false) ∧
    (bit ((user []).cluster 0).einj 61 = false ∧
      bit (((user []).modCluster 0 fun c => { c with einj := 0x2000000000000000 }).cluster 0).einj 61 = true) ∧
    (let s := { user [] with ctxs := [(((user []).frzKey 0 1 7).getD 0, ⟨0, 0, true, [], none, []⟩)] }
     (s.frzKey 0 1 7).any (fun k => (s.engCtx k).frozen) = true ∧ (s.frzKey 0 1 0).any (fun k => !(s.engCtx k).frozen) = true) ∧
    4 ≤ (({ user [] with parts := [(1, { part1 with cur := 4 })] } : State).part 1).cur ∧
    (ctlListed 0x400 = true ∧ (1024 : Nat) ≤ 1039 ∧ 0x700 % 8 = 0) := by
  decide +kernel

/-- Partition 1 with 800 MiB, tenancies 0 and 1 resident, and room for both save areas. -/
def switching (f : Part → Part) : State := { user [] with
  parts := [(1, f { part1 with hbmLimit := 400, res := 3, gmask := 2, tsave := [(1, 0x200000)] })], cycle := 1101 }

theorem wit_SwitchCommands :
    (2 ≤ ((switching fun q => { q with swState := 2 }).part 1).swState ∧ ((switching id).part 1).swState = 0 ∧
      ((switching fun q => { q with swState := 1 }).part 1).swState = 1 ∧ ((switching fun q => { q with swState := 1 }).part 1).gState ≠ 5) ∧
    (4 < bits (5 : Word) 2 0 ∧ bits (2 : Word) 2 0 < 4 ∧ ((switching id).part 1).res.testBit 2 = false) ∧
    (let s := switching fun q => { q with swState := 1, gState := 5, cur := 4, gFor := 1 }
     (s.part 1).swState = 1 ∧ (s.part 1).gState = 5 ∧ 4 ≤ (s.part 1).cur ∧ (s.part 1).gFor < 4 ∧
      (s.part 1).gmask.testBit (s.part 1).gFor = true ∧ (s.part 1).res.testBit (s.part 1).gFor = true) ∧
    bits (2 : Word) 4 3 = 0 ∧
    (((switching id).part 1).swState < 2 ∧ bits (1 : Word) 2 0 < 4 ∧ ((switching id).part 1).res.testBit 1 = true ∧
      (switching id).saveOk 1 1 = true ∧ ((switching id).part 1).cur < 4 ∧ (switching id).saveOk 1 0 = true) ∧
    (((switching fun q => { q with gState := 2 }).part 1).gState = 2 ∧ ((switching id).part 1).gState ≠ 2 ∧
      ((switching fun q => { q with gState := 1 }).part 1).gState = 1 ∧ ((switching fun q => { q with gState := 5 }).part 1).gState = 5 ∧
      ((switching fun q => { q with gState := 3 }).part 1).gState ≠ 0) ∧
    (((switching id).part 1).gmask.testBit 0 = false ∧ ((switching id).part 1).gState = 0) ∧
    (((switching id).part 1).gmask.testBit 1 = true ∧ ((switching id).part 1).cur ≠ 1) := by
  decide +kernel

/-- A save of tenancy 1 was written, and its area has been changed since. -/
def saved (f : Part → Part) : State := { switching f with saves := [(1 * 4 + 1, 0x400000, 0)] }

theorem wit_SwitchProgress :
    (((switching fun q => { q with gState := 1, gFor := 1 }).part 1).gState = 1 ∧
      (switching fun q => { q with gState := 1, gFor := 1 }).areaHolds 1 1 = true ∧
      (saved fun q => { q with gState := 1, gFor := 1 }).areaHolds 1 1 = false ∧
      (switching fun q => { q with swState := 1, swTgt := 1 }).areaHolds 1 1 = true) ∧
    (let s := switching fun q => { q with swState := 1, swTgt := 1 }
     (s.part 1).gState ≠ 1 ∧ (s.part 1).swState = 1 ∧ (s.part 1).loaded = false ∧ (s.part 1).switchat.toNat ≤ s.ftime ∧
      (s.part 1).swTgt ≠ (s.part 1).cur ∧ (s.part 1).gState ≠ 3 ∧ (s.part 1).gState ≠ 4) ∧
    (let s := switching fun q => { q with swState := 1, switchat := 1000 }
     (s.part 1).swState = 1 ∧ (s.part 1).switchat.toNat = s.ftime ∧ (s.part 1).swTgt = (s.part 1).cur ∧ (s.part 1).gState ≠ 5) ∧
    ((switching fun q => { q with swState := 2 }).handsOver 1 = true ∧ (switching id).handsOver 1 = false) ∧
    (let s := switching fun q => { q with swState := 2, handed := [1, 2, 3, 4, 5, 6, 7, 8, 9, 10, 11, 12, 14, 15] }
     s.handsOver 1 = true ∧ ∀ i, i < 16 → (s.part 1).pslots.testBit i = true → i ∈ (s.part 1).handed ++ [s.cycle % 16]) ∧
    (let s := switching fun q => { q with swState := 3, loaded := true, handed := List.range 16, incoming := 1 }
     (s.part 1).swState = 3 ∧ (s.part 1).loaded = true ∧ s.drainDone 1 = true ∧ (s.part 1).gState ≠ 5) ∧
    (let s := switching fun q => { q with gState := 4, handed := List.range 16, incoming := 1 }
     (s.part 1).swState ≠ 3 ∧ (s.part 1).gState = 4 ∧ s.drainDone 1 = true) := by
  decide +kernel

/-! Launches, probes, translation -/

/-- Core 0 alone holds launch entries, nine of them. -/
def crowded : State := (user []).modCore 0 fun c => { c with
  launch := (List.range 9).map fun i => ⟨2 + i, 0x8000, 1, 0, 0, 255, true, [], none⟩ }

/-- One entry of population 2, whose next thread may start on slot 2 of core 0. -/
def launching : State := { (user []).modCore 0 fun c => { c with launch := [⟨2, 0x8000, 1, 0, 0, 1, true, [], none⟩] } with
  pops := [(2, { emptyPop 1 0 none with pc := 0x1000, seeds := [1, 2, 3, 4], size := 2, quota := 15, started := 1 })] }

/-- Slot 1 holds thread 1024, slot 2 thread 1025. Thread 1024 waits at the barrier of a group; thread 1025 is the other member when
`e`, and waits there as well when `f`. -/
def probing (path : List Nat) (e f : Bool) : State := { (user []).modCore 0 fun c => { c with probes := [⟨path, 1024⟩] } with
  cycle := 11000000, slots := [(1, 1024), (2, 1025)]
  threads := [(1024, { thread1 [] with wait := some (.barrier 5), waitSince := 0 }), (1025, { thread1 [] with
    sid := 2, waitSince := 11000000, wait := if f then some (.barrier 6) else none })]
  groups := (if e then [(5, ⟨[1024, 1025], [1024], 0, []⟩)] else []) ++ if f then [(6, ⟨[1024, 1025], [1025], 0, []⟩)] else [] }

theorem wit_LaunchesAndProbes :
    (let s := launching
     (∀ x ∈ (s.core 0).launch, x.taken = true ∨ s.startsFor x.part x.ten = false) ∧
      ((s.core 0).launch.find? fun e => s.canStart e 2) = some ⟨2, 0x8000, 1, 0, 0, 1, true, [], none⟩ ∧
      (Table.find? s.pops 2).isSome = true ∧ 1024 ≤ s.nextUid) ∧
    (let p := { emptyPop 1 0 none with size := 2, exited := 2 }
     let s := { user [] with pops := [(2, p)] }
     Table.find? s.pops 2 = some p ∧ p.size ≠ 0 ∧ p.exited = p.size ∧ p.done = 0 ∧ p.packet = none) ∧
    (let p := { emptyPop 1 0 none with size := 2, exited := 2, done := 0x7F0000000100 }
     let s := { user [] with pops := [(2, p)] }
     s.popDone p = some (0, 0x100) ∧ s.bankRoom 0 0x100 = true) ∧
    (∀ e ∈ (user []).cores, e.2.launch = []) ∧
    (let s := crowded
     (s.cores.filter fun e => !e.2.launch.isEmpty) = [(0, s.core 0)] ∧ (neighbours 0).head? = some 8 ∧
      (∀ e ∈ (s.core 0).launch, e.taken = true ∧ e.cores = 255) ∧ 8 < (s.unstarted 0).length ∧ (s.unstarted 0).length ≤ 64) ∧
    (let s := probing [] false false
     (s.threads.filter fun e => decide (e.2.waitSince + 11000000 ≤ s.cycle) && !(s.edges e.1).isEmpty).map (·.1) = [] ∧
      s.edges 1024 = []) ∧
    (let s := probing [] true false
     (s.threads.filter fun e => decide (e.2.waitSince + 11000000 ≤ s.cycle) && !(s.edges e.1).isEmpty).map (·.1) = [1024] ∧
      s.edges 1024 = [1025] ∧ s.alive 1025 = true) ∧
    (∀ path ∈ [[], [1025], [1024, 1025], [1025, 1024], List.range 64], ((probing path true true).core 0).probes = ⟨path, 1024⟩ :: [] ∧
      (probing path true true).edges 1024 ≠ []) ∧
    (∀ f ∈ [true, false],
      let s := probing [1024, 1025] true f
      (∀ e ∈ [(1024, 1025), (1025, 1024)], s.alive e.1 = true ∧ ((s.thr e.1).frozen ≠ none ∨ e.2 ∈ s.edges e.1)) ↔ f = true) := by
  refine ⟨?_, ?_, ?_, ?_, ?_, ?_, ?_, ?_, ?_⟩ <;> decide +kernel

def leaf1 : Leaf := ⟨0x10000, 16, 0x20000, 0, false, 1, true, false, false⟩

def walkB (r : Except Nat Leaf) (f : Except Nat Leaf → Bool) : Bool := f r

theorem walk_ok {r : Except Nat Leaf} (f : Leaf → Bool) (h : walkB r (fun r => match r with
    | .ok l => f l
    | .error _ => false) = true) : ∃ l, r = .ok l ∧ f l = true := by
  cases r <;> simp_all [walkB]

theorem walk_error {r : Except Nat Leaf} {c : Nat} (h : walkB r (fun r => match r with
    | .ok _ => false
    | .error k => decide (k = c)) = true) : r = .error c := by
  cases r <;> simp_all [walkB]

def missing (page : Nat) : State := (mapped id []).modCluster 0 fun c => { c with misses := [⟨1, 0, page, [.thread 1024]⟩] }

/-- Slot 1 holds thread 1024, which a translation trap of the load LDD x3, 0(x5) froze. -/
def untranslated : State := (root []).modThr 1024 fun th => { th with
  frozen := some 6, record := some [0x60000, 0x1000, 0, 0x10000] }

theorem wit_Translation :
    ((missing 1).cluster 0).misses = ⟨1, 0, 1, [.thread 1024]⟩ :: [] ∧ ((missing 1).cluster 0).admitted = [] ∧
    (∃ l, (missing 1).walk 1 0 (1 * 65536) = .ok l ∧ (l.covers (1 * 65536) && decide (l = leaf1)) = true) ∧
    (missing 2).walk 1 0 (2 * 65536) = .error 1 ∧
    (let s := mapped (fun s => s.modPart 1 fun q => { q with invals := [⟨0, true, 0, []⟩] }) []
     (s.part 1).invals = ⟨0, true, 0, []⟩ :: [] ∧ s.drained 1 0 = true) ∧
    (let s := untranslated
     s.xansThread 0x4001 = some (0, 1024) ∧ (1024 : Nat) ≤ 1024 ∧ (s.thr 1024).groups = [] ∧
      Table.find? s.pops (s.thr 1024).pop = none) ∧ Quiet untranslated :=
  ⟨by decide +kernel, by decide +kernel, walk_ok _ (by decide +kernel), walk_error (by decide +kernel), by decide +kernel, by decide +kernel,
    quiet_of (by decide +kernel)⟩

theorem wit_Translation_skip : recInsn [0x60000, 0x1000, 0xA0328000, 0x10000] = some (.ldd 3 ⟨5, .wait⟩ 0) ∧
    skipTarget (.ldd 3 ⟨5, .wait⟩ 0) = some (3, 4) := by
  decide +kernel

/-! The host -/

/-- Queue 0 of VF 1 is active with one packet of the words given at HEAD. -/
def queued (ws : List Word) (f : State → State) : State := f { acting id with
  hbm := Memory.writeBytes [] 0x30000 (wordBytes ws)
  subqs := [(16, ⟨0x30000, 0, 0, false, 0, 1, 4, 0, 1, 0, [], 0⟩)] }

def startB (s : State) (q ty : Nat) (bad : Nat) : Bool := match s.startable q with
  | some ws => pktType ws = ty && s.malformed q ws = bad
  | none => false

theorem start_of {s : State} {q ty bad : Nat} (h : startB s q ty bad = true) :
    ∃ ws, s.startable q = some ws ∧ pktType ws = ty ∧ s.malformed q ws = bad := by
  unfold startB at h
  split at h
  · rename_i ws hw
    exact ⟨ws, hw, by simpa using h⟩
  · cases h

def pk (ty : Nat) (ws : List Word) : List Word := BitVec.ofNat 64 (ty * 2 ^ 56 + 0x77 * 2 ^ 16) :: (ws ++ List.replicate (7 - ws.length) 0)

/-- An AGENTSTART in a queue of the PF for partition 1, whose region is empty. -/
def noRoom : State := { (queued (pk 2 [0x10000, 8, 0, 0]) id).modPart 1 fun q => { q with hbmBase := q.hbmLimit } with
  subqs := [(0, ⟨0x30000, 1, 0, false, 0, 1, 4, 0, 1, 0, [], 0⟩)] }

/-- Whichever frame the free value chooses, a partition with room for an agent has one. -/
theorem frame_some : (({ queued [] id with agents := [] } : State).agentFrame 1).isSome = true :=
  Option.isSome_iff_exists.2 ⟨_, List.getElem?_eq_getElem (Nat.mod_lt _ (by decide +kernel))⟩

theorem wit_PacketResults :
    (∃ ws, (queued (pk 4 [15, 9]) id).startable 16 = some ws ∧ pktType ws = 4 ∧ (queued (pk 4 [15, 9]) id).malformed 16 ws = 0) ∧
    (∃ ws, (queued (pk 4 [0x8000000000000005, 9, 7]) id).startable 16 = some ws ∧ pktType ws = 4 ∧
      (queued (pk 4 [0x8000000000000005, 9, 7]) id).malformed 16 ws = 0) ∧ (queued [] id).takesEvents 5 = true ∧
    (∃ ws, (queued (pk 5 [15, 0]) id).startable 16 = some ws ∧ pktType ws = 5 ∧ (queued (pk 5 [15, 0]) id).malformed 16 ws = 0) ∧
    (∃ ws, (queued (pk 3 [0x10000, 0x10008, 9]) id).startable 16 = some ws ∧ pktType ws = 3 ∧
      (queued (pk 3 [0x10000, 0x10008, 9]) id).malformed 16 ws = 0) ∧
    footprintsMeet 0x10000 0 0x10008 0 1 9 = true ∧ footprintsMeet 0x10000 0 0x10008 0 1 8 = false ∧
    (∃ ws, (queued (pk 1 [0x8000, 0]) id).startable 16 = some ws ∧ pktType ws = 1 ∧ (queued (pk 1 [0x8000, 0]) id).malformed 16 ws = 0) ∧
    (∃ ws, (queued (pk 2 [0x10000, 8, 0, 0]) id).startable 16 = some ws ∧ pktType ws = 2 ∧
      (queued (pk 2 [0x10000, 8, 0, 0]) id).malformed 16 ws = 0) ∧
    (queued [] id).freeAgent = some 0 ∧ ({ queued [] id with agents := [] } : State).freeAgent = some 0 ∧
    (({ queued [] id with agents := [] } : State).agentFrame 1).isSome = true ∧
    (∃ ws, noRoom.startable 0 = some ws ∧ pktType ws = 2 ∧ noRoom.malformed 0 ws = 0) ∧ noRoom.agentFrame 1 = none ∧
    (∃ ws, (queued (pk 0x80 [1, 2, 3, 4]) fun s => s.modSubq 16 fun x => { x with hq := true }).startable 16 = some ws ∧
      pktType ws = 0x80 ∧ (queued (pk 0x80 [1, 2, 3, 4]) fun s => s.modSubq 16 fun x => { x with hq := true }).malformed 16 ws = 0) ∧
    ((queued [] id).subq 16).flight = [] ∧ ((queued [] id).subq 16).sib = 16 % 16 ∧
    (∀ e : Nat × Nat, e ∈ [(0, 1), (7, 1), (0xFF, 1), (6, 4)] → ∃ ws, (queued (pk e.1 []) id).startable 16 = some ws ∧ pktType ws = e.1 ∧
      (queued (pk e.1 []) id).malformed 16 ws = e.2) ∧
    (∃ ws, (queued (pk 5 [16, 0]) id).startable 16 = some ws ∧ pktType ws = 5 ∧ (queued (pk 5 [16, 0]) id).malformed 16 ws = 3) ∧
    (∃ ws, (queued (pk 5 [0x10000, 0]) id).startable 16 = some ws ∧ pktType ws = 5 ∧ (queued (pk 5 [0x10000, 0]) id).malformed 16 ws = 2) ∧
    (queued [] fun s => s.modSubq 16 fun x => { x with tail := 0 }).startable 16 = none := by
  refine ⟨start_of (by decide +kernel), start_of (by decide +kernel), by decide +kernel, start_of (by decide +kernel),
    start_of (by decide +kernel), by decide +kernel, by decide +kernel, start_of (by decide +kernel), start_of (by decide +kernel),
    by decide +kernel, by decide +kernel, frame_some, start_of (by decide +kernel), by decide +kernel, start_of (by decide +kernel),
    by decide +kernel, by decide +kernel, fun e h => ?_, start_of (by decide +kernel),
    start_of (by decide +kernel), by decide +kernel⟩
  simp only [List.mem_cons, List.not_mem_nil, or_false] at h
  rcases h with rfl | rfl | rfl | rfl <;> exact start_of (by decide +kernel)

/-- A SWITCHAT packet in a queue of the PF for partition 1. -/
theorem wit_PacketResults_switchat : ∃ ws, ({ queued (pk 6 [0, 0x11]) id with
      subqs := [(0, ⟨0x30000, 1, 0, false, 0, 1, 4, 0, 1, 0, [], 0⟩)] } : State).startable 0 = some ws ∧ pktType ws = 6 ∧
    ({ queued (pk 6 [0, 0x11]) id with subqs := [(0, ⟨0x30000, 1, 0, false, 0, 1, 4, 0, 1, 0, [], 0⟩)] } : State).malformed 0 ws = 0 :=
  start_of (by decide +kernel)

theorem wit_HostQueues :
    (let x := (queued [] id).subq 16
     x.hq = false ∧ x.st ≠ 0 ∧
     ¬ (2 ^ x.log < ((0x1000000000 : Word).toNat / 2 ^ 32 + 2 ^ 32 - x.head) % 2 ^ 32 ∨
      2 ^ x.log < ((0x1000000000 : Word).toNat / 2 ^ 32 + 2 ^ 32 - x.tail) % 2 ^ 32) ∧
     2 ^ x.log < ((0x1200000000 : Word).toNat / 2 ^ 32 + 2 ^ 32 - x.head) % 2 ^ 32) ∧
    ((queued [] fun s => s.modSubq 16 fun x => { x with hq := true }).subq 16).hq = true ∧
    (let s := queued [] fun s => s.modSubq 16 fun x => { x with st := 0 }
     let v : Word := 0x104
     (s.subq 16).st = 0 ∧ bits v 9 8 = 1 ∧ 4 ≤ bits v 3 0 ∧ bits v 3 0 ≤ 12 ∧ s.ringOk 1 (s.subq 16).base (64 * 2 ^ bits v 3 0) = true ∧
      1 = 16 / 16 ∧ bits v 23 20 = 16 % 16) ∧
    (let s := { acting id with cqs := [(1, ⟨0x10000, false, 4, 15, 0⟩)], cqHeld := [(1, [[BitVec.ofNat 64 (2 ^ 56)]])] }
     Table.get s.cqHeld 1 [] = [BitVec.ofNat 64 (2 ^ 56)] :: [] ∧ s.cqRoom 1 = true ∧
      ((BitVec.ofNat 64 (2 ^ 56) : Word).toNat + (s.cq 1).tail % 65536) / 2 ^ 56 ≠ 3) ∧
    (1 ∉ (user []).frozenFns ∧ (user []).ringOk 1 0x1FFFFF8 8 = true ∧ (user []).ringOk 1 0x1FFFFF9 8 = false ∧
      (user []).firmwareHit ⟨0, 1, 0, 140⟩ 0 8 = false ∧ 1 ∈ ({ user [] with frozenFns := [1] } : State).frozenFns) := by
  decide +kernel

/-- FIPS 180-4's example: the digest of the three bytes of "abc". -/
theorem test_sha256 : leBytes 32 (sha256 [0x61, 0x62, 0x63]).toNat = [
    0xBA, 0x78, 0x16, 0xBF, 0x8F, 0x01, 0xCF, 0xEA, 0x41, 0x41, 0x40, 0xDE, 0x5D, 0xAE, 0x22, 0x23,
    0xB0, 0x03, 0x61, 0xA3, 0x96, 0x17, 0x7A, 0x9C, 0xB4, 0x10, 0xFF, 0x61, 0xF2, 0x00, 0x15, 0xAD] := by
  decide +kernel

theorem wit_PowerOnAndHealth :
    (State.reset.booted = false ∧ State.reset.recov = false ∧
      State.reset.flash.find? (fun i => i.valid && decide (State.reset.fuseSvn ≤ i.svn)) = some blankImage) ∧
    (({ State.reset with fuseSvn := 1 } : State).flash.find? fun i => i.valid && decide ((1 : Nat) ≤ i.svn)) = none ∧
    ({ State.reset with recov := true } : State).recov = true ∧
    (let s := { user [] with cycle := 3960000000000 }
     s.booted = true ∧ (s.healthHours + 1) * 3600 * 10 ^ 9 ≤ s.ftime - s.ftimeBase ∧ s.ftime - s.ftimeBase < 72 * 3600 * 10 ^ 9) ∧
    (let s := { user [] with cycle := 285120000000000, healthHours := 71 }
     s.booted = true ∧ (s.healthHours + 1) * 3600 * 10 ^ 9 ≤ s.ftime - s.ftimeBase ∧ 72 * 3600 * 10 ^ 9 ≤ s.ftime - s.ftimeBase) ∧
    (let s := { user [] with cycle := 3959999999000, healthHours := 0 }
     s.booted = true ∧ ¬ (s.healthHours + 1) * 3600 * 10 ^ 9 ≤ s.ftime - s.ftimeBase) := by
  decide +kernel

def bounds2 : Bounds := ⟨2, 0xFFFE, 0x7FFF, 0, 0, 16, 32, 64, 128, [0, 0, 0, 0], 8, [3072, 0, 0, 0], 8, 16⟩

/-- A block at address 0 lies inside the region of the PF, whatever its length; one at 2^63 does not. -/
theorem wit_TaprootCommands_block : (∀ c, (user []).ringOk 0 (Table.get (user []).tparg 0 0).toNat (Config.blockLen c) = true) ∧
    ∀ c, ¬ ({ user [] with tparg := [(0, 0x8000000000000000)] } : State).ringOk 0
      (Table.get ({ user [] with tparg := [(0, 0x8000000000000000)] } : State).tparg 0 0).toNat (Config.blockLen c) = true := by
  have h : ∀ c, Config.blockLen c < 65536 := fun c => Nat.mod_lt _ (by decide)
  have t0 : (Table.get (user []).tparg 0 0).toNat = 0 := by decide
  have t1 : (Table.get ({ user [] with tparg := [(0, 0x8000000000000000)] } : State).tparg 0 0).toNat = 2 ^ 63 := by decide +kernel
  refine ⟨fun c => ?_, fun c => ?_⟩
  · have := h c
    rw [t0, State.ringOk, if_pos rfl, decide_eq_true_eq, Config.hbmBytes]
    omega
  · have := h c
    rw [t1, State.ringOk, if_pos rfl, decide_eq_true_eq, Config.hbmBytes]
    omega

/-- In recovery with an image staged. -/
theorem wit_TaprootCommands_recovery :
    let s : State := { State.reset with recov := true, staged := some blankImage }
    s.booted = false ∧ s.commitWait = false ∧ s.staged = some blankImage := by
  decide +kernel

theorem wit_TaprootCommands :
    (1 ≠ 0 ∧ 1 ∉ (user []).frozenFns ∧ (user []).booted = true ∧ (user []).commitWait = false) ∧
    (Bounds.ok { bounds2 with part := 16 } = false ∧ Bounds.ok { bounds2 with pslots := 1 } = false) ∧
    (Bounds.ok bounds2 = true ∧ (user []).disjoint bounds2 = false) ∧
    (let b := { bounds2 with pbanks := 0 }
     let s := { user [] with parts := [(1, { part1 with pslots := 2 })] }
     let b' := { b with pslots := 0xFFFC }
     Bounds.ok b' = true ∧ s.disjoint b' = true ∧ (s.part b'.part).pslots = 0 ∧ s.residencies = []) ∧
    (((user []).part 1).pslots ≠ 0 ∧ ((user []).part 15).pslots = 0 ∧ (user []).residencies = []) ∧
    (blankImage.valid = true ∧ (user []).fuseSvn ≤ blankImage.svn ∧ ∀ r, (user []).running = some r → r.svn ≤ blankImage.svn) ∧
    ({ blankImage with valid := false }.valid = false ∧ blankImage.svn < ({ user [] with fuseSvn := 1 } : State).fuseSvn) ∧
    (let s := { user [] with staged := some blankImage }
     s.staged = some blankImage ∧ s.quiet = true) ∧
    ({ (user []).modCore 0 (fun c => { c with kfill := some [] }) with staged := some blankImage } : State).quiet = false ∧
    ((user []).ringOk 1 (0x2000000 - 792) 792 = true ∧ (user []).ringOk 1 (0x2000000 - 791) 792 = false) := by
  refine ⟨by decide +kernel, by decide +kernel, by decide +kernel, by decide +kernel, by decide +kernel,
    ⟨by decide, by decide, fun r h => by cases h⟩, by decide +kernel, by decide +kernel, by decide +kernel, by decide +kernel⟩

end Sys2Proof.Tests
end

section
/-! SUPPORT AND PROOF. What an issued instruction that changes its own thread alone comes to, what taking an exception changes,
one equation for each shared operation of branches, jumps and pool headers, and from them obligation O10. -/

namespace Sys2Proof.Machine

/-! ### Sources and destinations that are x0 -/

theorem SrcOk.zero (th : Thread) (m : Mode) : SrcOk th ⟨0, m⟩ := ⟨fun _ => rfl, fun _ => rfl⟩

/-- A compact form that compares with x0 is as ready as its own register (R45). -/
theorem Ready.withZero {s : State} {a : Src} (h : Ready s { src := [a] }) (m : Mode) : Ready s { src := [a, ⟨0, m⟩] } :=
  { h with src := by simpa [SrcOk.zero] using h.src }

/-- A jump that discards its link is as ready as its sources (R45). -/
theorem Ready.linkingZero {s : State} {l : List Src} (h : Ready s { src := l }) : Ready s { src := l, dx := [0] } :=
  { h with dx := by simp [zeroReg] }

/-! ### An effect on the current thread alone -/

/-- An instruction that is ready, and that does `f` to its own thread and nothing else, issues with that effect. -/
theorem issue_setThr {s : State} {n : Needs} (h : Ready s n) {k : State → Verdict} {f : Thread → Thread}
    (hk : k (s.take n) = .go (s.setThr s.cur (f (n.marks s.me)))) : issue n k s = .next (s.after n f) := by
  rw [issue_ready h, hk]
  exact congrArg Host.Outcome.next (State.issued_setThr s _ h.alive)

theorem State.jump_take (s : State) (n : Needs) (pc : Word) :
    (s.take n).jump pc = s.setThr s.cur { n.marks s.me with pc := pc } := State.setThr_modThr _ _ _ _

theorem State.advance_take (s : State) (n : Needs) :
    (s.take n).advance = s.setThr s.cur ((n.marks s.me).past s.insnLen) := State.setThr_modThr _ _ _ _

theorem State.jump_wx_take (s : State) (n : Needs) (rd : Nat) (v pc : Word) :
    ((s.take n).wx rd v).jump pc = s.setThr s.cur { (n.marks s.me).gets rd v with pc := pc } := by
  rw [State.jump, State.wx, State.take_eq, State.setThr_cur, State.setThr_modThr]
  exact State.setThr_modThr _ _ _ _

/-! ### Taking an exception -/

theorem State.endRunOf_eq (s : State) (t : Nat) : ∃ ar, s.endRunOf t = { s with arrays := ar } := by
  unfold State.endRunOf
  dsimp only
  split
  · split
    · split
      · exact ⟨_, rfl⟩
      · exact ⟨s.arrays, rfl⟩
    · exact ⟨s.arrays, rfl⟩
  · exact ⟨s.arrays, rfl⟩

/-- From `s` to `u` a thread alone has changed, and of it the pc, the wait and what a frozen thread keeps; beside it the
bookkeeping of exceptions: core registers and records, waiting translations, runs of arrays, completion records. -/
def Trapped (s : State) (t : Nat) (u : State) : Prop :=
  ∃ pc fz at' rc co cl ar cq, u = { s.setThr t { s.thr t with
      pc := pc, frozen := fz, frozeAt := at', record := rc, wait := none, answers := [] } with
    cores := co, clusters := cl, arrays := ar, cqHeld := cq }

theorem Trapped.endRunOf {s u : State} {t : Nat} (h : Trapped s t u) (v : Nat) : Trapped s t (u.endRunOf v) := by
  obtain ⟨pc, fz, at', rc, co, cl, ar, cq, rfl⟩ := h
  obtain ⟨ar', h'⟩ := State.endRunOf_eq _ v
  exact ⟨pc, fz, at', rc, co, cl, ar', cq, h'⟩

/-- The count of a trap's class is among what a trap may change (R289). -/
theorem Trapped.after_count {s u : State} {t core idx : Nat} (h : Trapped (s.countEvent core idx) t u) : Trapped s t u := h

/-- So is the report of a breach (R347). -/
theorem Trapped.after_post {s u : State} {t ten part m : Nat} (h : Trapped (s.postBreach ten part m) t u) : Trapped s t u := h

theorem State.freeze_trapped (s : State) (t cls : Nat) (pc : Word) (rec : List Word) : Trapped s t (s.freeze t cls pc rec) :=
  Trapped.endRunOf ⟨_, _, _, _, _, _, _, _, rfl⟩ t

theorem State.rootTrap_trapped (s : State) (t w0 : Nat) (pc info : Word) : Trapped s t (s.rootTrap t pc w0 info) :=
  ⟨_, (s.thr t).frozen, (s.thr t).frozeAt, (s.thr t).record, _, _, s.arrays, s.cqHeld, rfl⟩

/-- An exception goes to the root slot itself or freezes a user slot, whose breach is posted first (R290, R293, R347). -/
theorem State.trapBySlot_trapped (s : State) (w0 cls ten part m : Nat) (pc info a b : Word) (root br : Bool) :
    Trapped s s.cur (if root then s.rootTrap s.cur pc w0 info else
      let u := if br then s.postBreach ten part m else s
      u.freeze u.cur cls pc [a, b, u.insn.setWidth 64, info]) := by
  cases root
  case true => exact State.rootTrap_trapped s s.cur w0 pc info
  case false =>
    cases br
    case true => exact Trapped.after_post (State.freeze_trapped _ _ _ _ _)
    case false => exact State.freeze_trapped s s.cur cls pc _

/-- What an exception of the current thread changes, whichever slot takes it and whether its class is counted (R289). -/
theorem State.takeTrap_trapped (s : State) (cls detail : Nat) (info : Word) : Trapped s s.cur (s.takeTrap cls detail info) := by
  unfold State.takeTrap
  cases trapCounter cls with
  | none => exact State.trapBySlot_trapped s _ _ _ _ _ _ _ _ _ _ _
  | some i => exact Trapped.after_count (State.trapBySlot_trapped _ _ _ _ _ _ _ _ _ _ _ _)

/-- Of the thread that takes the exception the pc, the wait and what a frozen thread keeps have changed. -/
theorem Trapped.me_eq {s u : State} (h : Trapped s s.cur u) :
    ∃ pc fz at' rc, u.me = { s.me with pc := pc, frozen := fz, frozeAt := at', record := rc, wait := none, answers := [] } := by
  obtain ⟨pc, fz, at', rc, co, cl, ar, cq, rfl⟩ := h
  exact ⟨pc, fz, at', rc, State.me_setThr s _⟩

theorem Trapped.memories {s u : State} {t : Nat} (h : Trapped s t u) : u.hbm = s.hbm ∧ u.pad = s.pad := by
  obtain ⟨pc, fz, at', rc, co, cl, ar, cq, rfl⟩ := h
  exact ⟨rfl, rfl⟩

/-- Taking an exception leaves the thread's registers and the bytes of memory alone (R27). -/
theorem Trapped.keeps {s u : State} (h : Trapped s s.cur u) :
    u.me.x = s.me.x ∧ u.me.v = s.me.v ∧ u.hbm = s.hbm ∧ u.pad = s.pad := by
  obtain ⟨pc, fz, at', rc, hme⟩ := h.me_eq
  exact ⟨by rw [hme], by rw [hme], h.memories⟩

/-! ### The shared operations (R47, R69) -/

/-- Displacements count halfwords (R36). -/
theorem sext_halfwords {n : Nat} (off : BitVec n) : sext off <<< 1 = BitVec.ofInt 64 (off.toInt * 2) := by
  rw [BitVec.shiftLeft_eq_mul_twoPow, BitVec.ofInt_mul]
  rfl

theorem bit_zero (w : Word) : bit w 0 = w.getLsbD 0 := by
  simp [bit, BitVec.getLsbD, Nat.testBit_zero]

theorem branch_ready {s : State} {a b : Src} (h : Ready s { src := [a, b] }) {len : Nat} (hl : s.insnLen = len) {n : Nat}
    (off : BitVec n) {c : Word → Word → Bool} {p : Prop} [Decidable p] (hp : c (s.rx a) (s.rx b) = decide p) :
    branch a b off c s = .next (s.after { src := [a, b] } fun th =>
      { th with pc := if p then th.pc + BitVec.ofInt 64 (off.toInt * 2) else th.pc + word len }) := by
  subst hl
  refine issue_setThr h ?_
  rw [State.rx_take, State.rx_take, State.jump_take, State.advance_take, State.me_take, sext_halfwords, hp]
  by_cases hc : p
  · rw [if_pos (decide_eq_true hc), if_pos hc]
  · rw [if_neg (by simpa using hc), if_neg hc]
    rfl

/-- C.BEQZ and C.BNEZ compare with x0, which is zero (R28, R45). -/
theorem branch_zero_ready {s : State} {xa : Nat} (h : Ready s { src := [⟨xa, .wait⟩] }) {len : Nat} (hl : s.insnLen = len)
    {n : Nat} (off : BitVec n) {c : Word → Word → Bool} {p : Prop} [Decidable p] (hp : c (s.me.xval xa) 0 = decide p) :
    branch (cs xa) (cs 0) off c s = .next (s.after {} fun th =>
      { th with pc := if p then th.pc + BitVec.ofInt 64 (off.toInt * 2) else th.pc + word len }) :=
  branch_ready (h.withZero .wait) hl off hp

theorem jumpLink_ready {s : State} {rd : Nat} (h : Ready s { dx := [rd] }) {len : Nat} (hl : s.insnLen = len) {n : Nat}
    (off : BitVec n) :
    jumpLink rd off s = .next (s.after { dx := [rd] } fun th =>
      { th.gets rd (s.me.pc + word len) with pc := th.pc + BitVec.ofInt 64 (off.toInt * 2) }) := by
  subst hl
  refine issue_setThr h ?_
  rw [State.jump_wx_take, State.me_take, sext_halfwords]
  rfl

theorem jumpReg_ready_even {s : State} {rd : Nat} {a : Src} (h : Ready s { src := [a], dx := [rd] }) {len : Nat}
    (hl : s.insnLen = len) {imm t : Word} (ht : s.rx a + imm = t) (even : t.getLsbD 0 = false) :
    jumpReg rd a imm s = .next (s.after { src := [a], dx := [rd] } fun th =>
      { th.gets rd (s.me.pc + word len) with pc := t }) := by
  subst hl
  refine issue_setThr h ?_
  dsimp only
  rw [State.rx_take, ht, bit_zero, even, State.jump_wx_take, State.me_take, Needs.marks_pc]
  rfl

theorem jumpReg_ready_odd {s : State} {rd : Nat} {a : Src} (h : Ready s { src := [a], dx := [rd] }) {imm t : Word}
    (ht : s.rx a + imm = t) (odd : t.getLsbD 0 = true) : jumpReg rd a imm s = .next (s.takeTrap 4 0 t) := by
  unfold jumpReg
  rw [issue_ready h]
  dsimp only
  rw [State.rx_take, ht, bit_zero, odd]
  rfl

theorem skipPool_ready {s : State} (h : Ready s {}) {len : Nat} (hl : s.insnLen = len) (n : Nat) :
    skipPool n s = .next (s.after {} fun th => { th with pc := th.pc + word len + BitVec.ofNat 64 (2 * n) }) := by
  subst hl
  refine issue_setThr h ?_
  rw [State.jump_take, State.me_take]
  rfl

/-! ### Branches, jumps and pool headers -/

/-- Settles O10, from what a branch, a jump with a link and a pool header come to when they are ready. -/
theorem branchesAndJumps : Obligations.BranchesAndJumps := by
  unfold Obligations.BranchesAndJumps
  refine ⟨fun s a b off xa imm => ?branches, fun s rd xa a off far near => ?jumps, fun s rd a off h odd => ?misaligned⟩
  case branches =>
    exact ⟨fun h hl => (exec_beq ..).trans (branch_ready h hl off rfl),
      fun h hl => (exec_bne ..).trans (branch_ready h hl off rfl),
      fun h hl => (exec_blt ..).trans (branch_ready h hl off rfl),
      fun h hl => (exec_bge ..).trans (branch_ready h hl off rfl),
      fun h hl => (exec_bltu ..).trans (branch_ready h hl off rfl),
      fun h hl => (exec_bgeu ..).trans (branch_ready h hl off rfl),
      fun h hl => (exec_cBeqz ..).trans (branch_zero_ready h hl imm rfl),
      fun h hl => (exec_cBnez ..).trans (branch_zero_ready h hl imm rfl)⟩
  case jumps =>
    refine ⟨fun h hl => ?jal, fun h => ?cJ, fun h even hl => ?jalr, fun h even => ?cJr, fun h hl => ?skipw, fun h hl => ?cSkip⟩
    case jal => exact jumpLink_ready h hl far
    case cJ => exact jumpLink_ready h.linkingZero rfl near
    case jalr => exact jumpReg_ready_even h hl rfl even
    case cJr => exact jumpReg_ready_even h.linkingZero rfl (BitVec.add_zero _) even
    case skipw => exact skipPool_ready h hl far.toNat
    case cSkip => exact skipPool_ready h hl near.toNat
  case misaligned =>
    have trap : exec (.jalr rd a off) s = .next (s.takeTrap 4 0 (s.rx a + BitVec.ofInt 64 off.toInt)) :=
      jumpReg_ready_odd h rfl odd
    refine ⟨trap, fun t ht => ?_⟩
    obtain rfl := Host.Outcome.next.inj (trap.symm.trans ht)
    exact (State.takeTrap_trapped s _ _ _).keeps

end Sys2Proof.Machine
end

section
/-! SUPPORT AND PROOF. The values of the ALU table in the terms of R54-R56, what an immediate producer and a division come to when
they are ready, what a result of the divider leaves alone, and from them obligations O7 and O9. -/

namespace Sys2Proof.Machine

/-! ### Readiness -/

/-- An instruction without sources is ready where one with the same destinations is. -/
theorem Ready.withoutSources {s : State} {l : List Src} {d : List Nat} (h : Ready s { src := l, dx := d }) :
    Ready s { dx := d } :=
  { h with src := by simp }

/-! ### Bits of a word (R54) -/

theorem bit_eq_getLsbD (a : Word) (i : Nat) : bit a i = a.getLsbD i := Nat.testBit_eq_decide_div_mod_eq.symm

/-- The number of zero bits above the highest one bit, 64 for zero. -/
def leadingZeros (a : Word) : Nat := if a = 0 then 64 else 63 - a.toNat.log2

theorem clz64_eq (a : Word) : clz64 a = word (leadingZeros a) := by
  unfold clz64 leadingZeros
  split <;> rfl

/-- The highest one bit lies below the leading zeros. -/
theorem leadingZeros_spec {a : Word} (h : a ≠ 0) : leadingZeros a < 64 ∧ a.toNat / 2 ^ (63 - leadingZeros a) = 1 := by
  have h0 : a.toNat ≠ 0 := BitVec.toNat_ne_iff_ne.2 h
  have hl : a.toNat.log2 < 64 := (Nat.log2_lt h0).2 a.isLt
  have low : 2 ^ a.toNat.log2 ≤ a.toNat := Nat.log2_self_le h0
  have high : a.toNat < 2 ^ (a.toNat.log2 + 1) := Nat.lt_log2_self
  have hz : 63 - leadingZeros a = a.toNat.log2 := by
    rw [leadingZeros, if_neg h]
    omega
  refine ⟨by rw [leadingZeros, if_neg h]; omega, ?_⟩
  rw [hz]
  exact Nat.div_eq_of_lt_le (by simpa using low) (by simpa [Nat.pow_succ, Nat.mul_comm] using high)

/-- From bit `i` up, below which no bit is one, the search ends at the lowest one bit. -/
theorem ctzFrom_spec {a : Word} (h : a ≠ 0) (n i : Nat) (hi : i + n = 64) (low : a.toNat % 2 ^ i = 0) :
    ctzFrom a n i < 64 ∧ a.toNat / 2 ^ ctzFrom a n i % 2 = 1 ∧ a.toNat % 2 ^ ctzFrom a n i = 0 := by
  induction n generalizing i with
  | zero =>
    obtain rfl : i = 64 := hi
    exact absurd ((Nat.mod_eq_of_lt a.isLt).symm.trans low) (BitVec.toNat_ne_iff_ne.2 h)
  | succ n ih =>
    rw [ctzFrom]
    by_cases hb : bit a i
    · rw [if_pos hb]
      exact ⟨by omega, of_decide_eq_true hb, low⟩
    · have clear : a.toNat / 2 ^ i % 2 = 0 := Nat.mod_two_ne_one.1 fun h1 => hb (decide_eq_true h1)
      rw [if_neg hb]
      refine ih (i + 1) (by omega) ?_
      rw [Nat.mod_pow_succ, low, clear, Nat.mul_zero]

theorem ctzFrom_zero (n i : Nat) : ctzFrom 0 n i = 64 := by
  induction n generalizing i with
  | zero => rfl
  | succ n ih =>
    rw [ctzFrom, if_neg (by simp [bit])]
    exact ih (i + 1)

theorem popc64_eq (a : Word) : popc64 a = word ((List.range 64).filter fun i => a.getLsbD i).length := by
  rw [popc64, funext (bit_eq_getLsbD a)]

/-! ### Values of the ALU table (R36, R54, R56) -/

theorem boolWord_decide (p : Prop) [Decidable p] : boolWord (decide p) = if p then 1 else 0 := by
  by_cases h : p <;> simp [boolWord, h]

theorem zextw_eq (x : Word) : zextw x = BitVec.ofNat 64 (x.toNat % 2 ^ 32) := by
  apply BitVec.eq_of_toNat_eq
  simp [zextw]

/-- The immediate of LUI counts units of 4096 (R36). -/
theorem sext_pages {n : Nat} (imm : BitVec n) : sext imm <<< 12 = BitVec.ofInt 64 (imm.toInt * 4096) := by
  rw [BitVec.shiftLeft_eq_mul_twoPow, BitVec.ofInt_mul]
  rfl

theorem toInt_sext {n : Nat} (hn : n ≤ 64) (imm : BitVec n) : (sext imm).toInt = imm.toInt := BitVec.toInt_signExtend_of_le hn

/-! ### Immediate producers (R54) -/

theorem alu2_ready {s : State} {rd : Nat} {a b : Src} (h : Ready s { src := [a, b], dx := [rd] }) {f : Word → Word → Word}
    {v : Word} (hv : f (s.rx a) (s.rx b) = v) :
    alu2 rd a b f s = .next (s.after { src := [a, b], dx := [rd] } fun th => (th.gets rd v).past s.insnLen) := by
  unfold alu2
  rw [issueSimple_wx h rd fun s => f (s.rx a) (s.rx b), State.rx_take, State.rx_take, hv]

theorem alu1_ready {s : State} {rd : Nat} {a : Src} (h : Ready s { src := [a], dx := [rd] }) {f : Word → Word} {v : Word}
    (hv : f (s.rx a) = v) :
    alu1 rd a f s = .next (s.after { src := [a], dx := [rd] } fun th => (th.gets rd v).past s.insnLen) := by
  unfold alu1
  rw [issueSimple_wx h rd fun s => f (s.rx a), State.rx_take, hv]

theorem lui_ready {s : State} {rd : Nat} (h : Ready s { dx := [rd] }) (imm : BitVec 20) :
    exec (.lui rd imm) s =
      .next (s.after { dx := [rd] } fun th => (th.gets rd (BitVec.ofInt 64 (imm.toInt * 4096))).past s.insnLen) := by
  rw [exec_lui, execLui, issueSimple_wx h rd fun _ => sext imm <<< 12, sext_pages]

theorem addpc_ready {s : State} {rd : Nat} (h : Ready s { dx := [rd] }) (imm : BitVec 20) :
    exec (.addpc rd imm) s =
      .next (s.after { dx := [rd] } fun th => (th.gets rd (s.me.pc + BitVec.ofInt 64 (imm.toInt * 2))).past s.insnLen) := by
  rw [exec_addpc, execAddpc, issueSimple_wx h rd fun s => s.me.pc + (sext imm <<< 1), State.me_take, Needs.marks_pc,
    sext_halfwords]

/-! ### The ALU and immediate instructions -/

/-- Settles O7, from what an immediate producer comes to when it is ready and from the values of the table. -/
theorem aluResults : Obligations.AluResults := by
  unfold Obligations.AluResults
  refine ⟨fun s rd a b h => ?two, fun s rd a h => ?one, fun s rd a imm amt big h => ?immediate⟩
  case two =>
    exact ⟨(exec_add ..).trans (alu2_ready h rfl), (exec_sub ..).trans (alu2_ready h rfl),
      (exec_and ..).trans (alu2_ready h rfl), (exec_or ..).trans (alu2_ready h rfl),
      (exec_xor ..).trans (alu2_ready h rfl), (exec_andn ..).trans (alu2_ready h rfl),
      (exec_sll ..).trans (alu2_ready h rfl), (exec_srl ..).trans (alu2_ready h rfl),
      (exec_sra ..).trans (alu2_ready h rfl),
      (exec_slt ..).trans (alu2_ready h (boolWord_decide _)), (exec_sltu ..).trans (alu2_ready h (boolWord_decide _)),
      (exec_min ..).trans (alu2_ready h rfl), (exec_max ..).trans (alu2_ready h rfl),
      (exec_minu ..).trans (alu2_ready h rfl), (exec_maxu ..).trans (alu2_ready h rfl),
      (exec_mul ..).trans (alu2_ready h rfl), (exec_mulh ..).trans (alu2_ready h rfl),
      (exec_mulhu ..).trans (alu2_ready h rfl),
      (exec_addsh1 ..).trans (alu2_ready h (by rw [BitVec.shiftLeft_eq_mul_twoPow]; rfl)),
      (exec_addsh2 ..).trans (alu2_ready h (by rw [BitVec.shiftLeft_eq_mul_twoPow]; rfl)),
      (exec_addsh3 ..).trans (alu2_ready h (by rw [BitVec.shiftLeft_eq_mul_twoPow]; rfl))⟩
  case one =>
    refine ⟨leadingZeros (s.rx a), ctzFrom (s.rx a) 64 0, _, fun h0 => ?_, leadingZeros_spec,
      fun h0 => ctzFrom_spec h0 64 0 rfl (Nat.mod_one _), rfl, ?_⟩
    · rw [h0]
      exact ⟨rfl, ctzFrom_zero 64 0⟩
    · exact ⟨(exec_clz ..).trans (alu1_ready h (clz64_eq _)), (exec_ctz ..).trans (alu1_ready h rfl),
        (exec_popc ..).trans (alu1_ready h (popc64_eq _)), (exec_sextw ..).trans (alu1_ready h rfl),
        (exec_zextw ..).trans (alu1_ready h (zextw_eq _))⟩
  case immediate =>
    exact ⟨(exec_addi ..).trans (alu1_ready h rfl), (exec_andi ..).trans (alu1_ready h rfl),
      (exec_ori ..).trans (alu1_ready h rfl), (exec_xori ..).trans (alu1_ready h rfl),
      (exec_slti ..).trans (alu1_ready h (by rw [toInt_sext (by decide), boolWord_decide])),
      (exec_slli ..).trans (alu1_ready h rfl), (exec_srli ..).trans (alu1_ready h rfl),
      (exec_srai ..).trans (alu1_ready h rfl), lui_ready h.withoutSources big, addpc_ready h.withoutSources big⟩

/-! ### A division issues (R55) -/

theorem State.issued_modCore (s : State) (k : Nat) (g : Core → Core) : (s.modCore k g).issued = s.issued.modCore k g := by
  unfold State.issued
  rw [State.alive_modCore, State.modCore_cur]
  split <;> rfl

theorem State.myCore_take (s : State) (n : Needs) : (s.take n).myCore = s.myCore := by
  simp [State.myCore]

theorem State.advance_deferX_take (s : State) (n : Needs) (rd : Nat) :
    ((s.take n).deferX rd).advance = s.setThr s.cur (((n.marks s.me).deferX rd).past s.insnLen) := by
  rw [State.deferX, State.take_eq, State.setThr_cur, State.setThr_modThr]
  exact State.setThr_modThr _ _ _ _

/-- An instruction that is ready, and that does `f` to its own thread and `g` to a core, issues with these effects. -/
theorem issue_setThr_modCore {s : State} {n : Needs} (h : Ready s n) {k : State → Verdict} {f : Thread → Thread} {core : Nat}
    {g : Core → Core} (hk : k (s.take n) = .go ((s.setThr s.cur (f (n.marks s.me))).modCore core g)) :
    issue n k s = .next ((s.after n f).modCore core g) := by
  rw [issue_ready h, hk, Verdict.close, State.issued_modCore, State.issued_setThr s _ h.alive]
  rfl

theorem divide_ready {s : State} {rd : Nat} {a b : Src} (h : Ready s { src := [a, b], dx := [rd] }) (f : Word → Word → Word) :
    divide rd a b f s = .next ((s.after { src := [a, b], dx := [rd] } fun th => (th.deferX rd).past s.insnLen).modCore s.myCore
      fun c => { c with divs := c.divs ++ [⟨s.cycle + 36, s.cur, rd, f (s.rx a) (s.rx b), decide (s.rx b = 0)⟩] }) := by
  unfold divide issueSimple
  refine issue_setThr_modCore h ?_
  dsimp only
  rw [State.rx_take, State.rx_take, State.myCore_take, ← State.advance_deferX_take]
  rfl

/-! ### The divider answers (R25, R55) -/

theorem execDivideComplete_due {s : State} {core : Nat} {d : DivOp} {rest : List DivOp} (hd : (s.core core).divs = d :: rest)
    (due : d.due ≤ s.cycle) :
    execDivideComplete core s =
      .next (((s.modCore core fun c => { c with divs := rest }).landX d.t d.rd d.val false).countIf d.zero core 4) := by
  simp only [execDivideComplete, hd, if_pos due]

theorem State.landX_eq_modThr (s : State) {t r : Nat} (v : Word) (poison : Bool) (ht : s.alive t = true) (hr : r ≠ 0) :
    s.landX t r v poison = s.modThr t fun th => { (th.setX r ⟨v, true, poison, false⟩) with latch := true } := by
  simp [State.landX, ht, hr]

@[simp] theorem State.landX_core (s : State) (t r k : Nat) (v : Word) (poison : Bool) :
    (s.landX t r v poison).core k = s.core k := by
  unfold State.landX
  split <;> rfl

@[simp] theorem State.landX_hbm (s : State) (t r : Nat) (v : Word) (poison : Bool) : (s.landX t r v poison).hbm = s.hbm := by
  unfold State.landX
  split <;> rfl

@[simp] theorem State.landX_pad (s : State) (t r : Nat) (v : Word) (poison : Bool) : (s.landX t r v poison).pad = s.pad := by
  unfold State.landX
  split <;> rfl

@[simp] theorem State.countIf_thr (s : State) (c : Bool) (core idx t : Nat) : (s.countIf c core idx).thr t = s.thr t := by
  cases c <;> rfl

@[simp] theorem State.countIf_hbm (s : State) (c : Bool) (core idx : Nat) : (s.countIf c core idx).hbm = s.hbm := by
  cases c <;> rfl

@[simp] theorem State.countIf_pad (s : State) (c : Bool) (core idx : Nat) : (s.countIf c core idx).pad = s.pad := by
  cases c <;> rfl

/-- An event counter that is counted stops at 0xFFFF_FFFF (R100). -/
theorem State.countIf_core (s : State) (c : Bool) (core idx : Nat) :
    (s.countIf c core idx).core core = { s.core core with
      events := if c then Table.set (s.core core).events idx (min (Table.get (s.core core).events idx 0 + 1) 0xFFFFFFFF)
        else (s.core core).events } := by
  cases c with
  | false => rfl
  | true => simp [State.countIf, State.countEvent]

/-! ### Divisions -/

/-- Settles O9, from what a division comes to when it is ready and from what the landing of its result changes. -/
theorem divisionResults : Obligations.DivisionResults := by
  unfold Obligations.DivisionResults
  refine ⟨fun s rd a b h => ?starts, fun s core d rest hd due => ?completes⟩
  case starts =>
    exact ⟨(exec_div ..).trans (divide_ready h divs), (exec_divu ..).trans (divide_ready h divu),
      (exec_rem ..).trans (divide_ready h rems), (exec_remu ..).trans (divide_ready h remu)⟩
  case completes =>
    refine ⟨_, (exec_divideComplete ..).trans (execDivideComplete_due hd due), ?queue, ?hbm, ?pad, fun ht hr => ?lands, ?count⟩
    case queue => rw [State.countIf_core, State.landX_core, State.core_modCore_same]
    case hbm => rw [State.countIf_hbm, State.landX_hbm, State.modCore_hbm]
    case pad => rw [State.countIf_pad, State.landX_pad, State.modCore_pad]
    case lands =>
      rw [State.countIf_thr, State.landX_eq_modThr _ _ _ ((State.alive_modCore ..).trans ht) hr, State.thr_modThr_same,
        State.thr_modCore, Thread.setX, if_neg hr]
    case count => rw [State.countIf_core, State.landX_core, State.core_modCore_same]

end Sys2Proof.Machine
end

section
/-! SUPPORT AND PROOF. Elements of a vector register and lanes of a predicate read back what is written (R103, R104, R108), what an
immediate producer of a predicate comes to when it is ready, and from them obligation O37. -/

namespace Sys2Proof.Machine

/-! ### Elements of a register (R103) -/

theorem vget_lt (v : VWord) (w j : Nat) : vget v w j < 2 ^ w := Nat.mod_lt _ (Nat.two_pow_pos w)

theorem vget_mod (v : VWord) (w j : Nat) : vget v w j % 2 ^ w = vget v w j := Nat.mod_eq_of_lt (vget_lt v w j)

/-- Element `j` ends within the register. -/
theorem lane_end_le {w j : Nat} (hj : j < 2048 / w) : w * j + w ≤ 2048 := by
  have hw : 0 < w := Nat.pos_of_ne_zero fun h0 => by
    rw [h0, Nat.div_zero] at hj
    exact Nat.not_lt_zero j hj
  rw [Nat.mul_comm w j, ← Nat.succ_mul]
  exact (Nat.le_div_iff_mul_le hw).1 hj

/-- A field below bit `N` reads the same modulo 2^N. -/
theorem field_of_mod {a w N : Nat} (n : Nat) (h : a + w ≤ N) : n % 2 ^ N / 2 ^ a % 2 ^ w = n / 2 ^ a % 2 ^ w := by
  obtain ⟨r, rfl⟩ := Nat.exists_eq_add_of_le h
  rw [Nat.add_assoc, Nat.pow_add, Nat.mod_mul_right_div_self]
  exact Nat.mod_mod_of_dvd _ (Nat.pow_dvd_pow 2 (Nat.le_add_right w r))

theorem vget_ofNat {w j : Nat} (n : Nat) (hj : j < 2048 / w) : vget (BitVec.ofNat 2048 n) w j = n / 2 ^ (w * j) % 2 ^ w :=
  field_of_mod n (lane_end_le hj)

theorem packLanes_lane (w : Nat) (xs : List Nat) (j : Nat) : packLanes w xs / 2 ^ (w * j) % 2 ^ w = xs.getD j 0 % 2 ^ w := by
  induction xs generalizing j with
  | nil => exact congrArg (· % 2 ^ w) (Nat.zero_div _)
  | cons x xs ih =>
    have hx : x % 2 ^ w / 2 ^ w = 0 := Nat.div_eq_of_lt (Nat.mod_lt _ (Nat.two_pow_pos w))
    cases j with
    | zero =>
      rw [packLanes, Nat.mul_zero, Nat.pow_zero, Nat.div_one, Nat.add_mul_mod_self_left, Nat.mod_mod, List.getD_cons_zero]
    | succ j =>
      rw [packLanes, Nat.mul_succ, Nat.add_comm (w * j), Nat.pow_add, ← Nat.div_div_eq_div_mul,
        Nat.add_mul_div_left _ _ (Nat.two_pow_pos w), hx, Nat.zero_add, ih]
      rfl

theorem vget_vectorOf {w j : Nat} (xs : List Nat) (hj : j < 2048 / w) : vget (vectorOf w xs) w j = xs.getD j 0 % 2 ^ w := by
  rw [vectorOf, vget_ofNat _ hj, packLanes_lane]

theorem vget_vectorOf_range {w j : Nat} (f : Nat → Nat) (hj : j < 2048 / w) :
    vget (vectorOf w ((List.range (laneCount w)).map f)) w j = f j % 2 ^ w := by
  have hn : j < laneCount w := hj
  rw [vget_vectorOf _ hj, List.getD_eq_getElem?_getD, List.getElem?_map, List.getElem?_range hn]
  rfl

/-- A number with the field of `w` bits at bit `a` replaced. -/
theorem replace_field (n a w e : Nat) :
    n - n / 2 ^ a % 2 ^ w * 2 ^ a + e * 2 ^ a = n % 2 ^ a + 2 ^ a * (e + 2 ^ w * (n / 2 ^ a / 2 ^ w)) := by
  have parts : n = n % 2 ^ a + 2 ^ a * (2 ^ w * (n / 2 ^ a / 2 ^ w)) + n / 2 ^ a % 2 ^ w * 2 ^ a := by
    rw [Nat.mul_comm _ (2 ^ a), Nat.add_assoc, ← Nat.mul_add, Nat.div_add_mod, Nat.mod_add_div]
  have rest : n - n / 2 ^ a % 2 ^ w * 2 ^ a = n % 2 ^ a + 2 ^ a * (2 ^ w * (n / 2 ^ a / 2 ^ w)) :=
    Nat.sub_eq_of_eq_add parts
  rw [rest, Nat.mul_add, Nat.mul_comm e, Nat.add_assoc, Nat.add_comm (2 ^ a * e)]

theorem vget_vset {w i j : Nat} (v : VWord) (x : Nat) (hj : j < 2048 / w) :
    vget (vset v w i x) w j = if j = i then x % 2 ^ w else vget v w j := by
  rw [vset, vget_ofNat _ hj, replace_field, vget]
  generalize v.toNat = n
  have hlow : n % 2 ^ (w * i) < 2 ^ (w * i) := Nat.mod_lt _ (Nat.two_pow_pos _)
  rcases Nat.lt_trichotomy j i with hlt | rfl | hgt
  case inl =>
    have hle : w * j + w ≤ w * i := Nat.mul_le_mul_left w hlt
    rw [if_neg (Nat.ne_of_lt hlt), ← field_of_mod _ hle, Nat.add_mul_mod_self_left, Nat.mod_mod, field_of_mod n hle]
  case inr.inl =>
    rw [if_pos rfl, Nat.add_mul_div_left _ _ (Nat.two_pow_pos _), Nat.div_eq_of_lt hlow, Nat.zero_add,
      Nat.add_mul_mod_self_left, Nat.mod_mod]
  case inr.inr =>
    obtain ⟨d, rfl⟩ := Nat.exists_eq_add_of_lt hgt
    have hx : x % 2 ^ w / 2 ^ w = 0 := Nat.div_eq_of_lt (Nat.mod_lt _ (Nat.two_pow_pos w))
    have split : w * (i + d + 1) = w * i + w + w * d := by
      rw [Nat.mul_add, Nat.mul_add, Nat.mul_one, Nat.add_right_comm]
    rw [if_neg (Nat.ne_of_gt hgt), split, Nat.pow_add, Nat.pow_add, ← Nat.div_div_eq_div_mul, ← Nat.div_div_eq_div_mul,
      ← Nat.div_div_eq_div_mul, ← Nat.div_div_eq_div_mul, Nat.add_mul_div_left _ _ (Nat.two_pow_pos _),
      Nat.div_eq_of_lt hlow, Nat.zero_add, Nat.add_mul_div_left _ _ (Nat.two_pow_pos _), hx, Nat.zero_add]

/-! ### Active elements (R103, R104) -/

theorem laneOn_eq (p : PWord) (w j : Nat) : laneOn p w j = p.getLsbD (j * (w / 8)) := Nat.testBit_eq_decide_div_mod_eq.symm

theorem activeLanes_eq (p : PWord) (w : Nat) :
    activeLanes p w = (List.range (2048 / w)).filter fun j => p.getLsbD (j * (w / 8)) := by
  rw [activeLanes, funext (laneOn_eq p w)]
  rfl

theorem vget_mergeLanes {w j : Nat} (z : Bool) (old : VWord) (p : PWord) (f : Nat → Nat) (hj : j < 2048 / w) :
    vget (mergeLanes (laneCount w) w w z old p f) w j =
      if p.getLsbD (j * (w / 8)) then f j % 2 ^ w else if z then 0 else vget old w j := by
  rw [mergeLanes, vget_vectorOf_range _ hj, laneOn_eq, apply_ite (· % 2 ^ w), apply_ite (· % 2 ^ w), vget_mod, Nat.zero_mod]

/-- The elements of every type fill a register, and their lanes a predicate. -/
theorem lanes_fill (t : Ety) : t.width / 8 * laneCount t.width = 256 := by
  cases t <;> rfl

/-- The lowest active element, or the number of elements when none is active (R118). -/
theorem firstActive_spec (p : PWord) (w : Nat) :
    let k := (activeLanes p w).headD (laneCount w)
    k ≤ laneCount w ∧ (∀ j, j < k → laneOn p w j = false) ∧ (k < laneCount w → laneOn p w k = true) := by
  have hk : (activeLanes p w).headD (laneCount w) = ((List.range (laneCount w)).find? (laneOn p w)).getD (laneCount w) := by
    rw [List.headD_eq_head?_getD, activeLanes, List.head?_filter]
  rw [hk]
  cases hf : (List.range (laneCount w)).find? (laneOn p w) with
  | none =>
    have off := List.find?_range_eq_none.1 hf
    exact ⟨Nat.le_refl _, fun j hj => by simpa only [Bool.not_eq_true'] using off j hj,
      fun h => absurd h (Nat.lt_irrefl _)⟩
  | some i =>
    obtain ⟨on, mem, low⟩ := List.find?_range_eq_some.1 hf
    exact ⟨Nat.le_of_lt (List.mem_range.1 mem), fun j hj => by simpa only [Bool.not_eq_true'] using low j hj, fun _ => on⟩

/-! ### Predicates made element by element (R108, R116) -/

/-- The lanes of a predicate, as `predOf` adds them up. -/
def laneSum (b n : Nat) (f : Nat → Bool) : Nat :=
  ((List.range n).map fun j => if f j then (2 ^ b - 1) * 2 ^ (j * b) else 0).sum

theorem predOf_eq (w : Nat) (f : Nat → Bool) : predOf w f = BitVec.ofNat 256 (laneSum (w / 8) (laneCount w) f) := rfl

theorem laneSum_succ (b n : Nat) (f : Nat → Bool) :
    laneSum b (n + 1) f = 2 ^ (b * n) * (if f n then 2 ^ b - 1 else 0) + laneSum b n f := by
  rw [laneSum, List.range_succ, List.map_append, List.sum_append, Nat.add_comm, laneSum, List.map_singleton, List.sum_singleton,
    Nat.mul_comm n b]
  cases f n with
  | true => rw [if_pos rfl, if_pos rfl, Nat.mul_comm]
  | false => rw [if_neg Bool.false_ne_true, if_neg Bool.false_ne_true, Nat.mul_zero]

theorem laneSum_lt (b n : Nat) (f : Nat → Bool) : laneSum b n f < 2 ^ (b * n) := by
  induction n with
  | zero => exact Nat.one_pos
  | succ n ih =>
    have hl : (if f n then 2 ^ b - 1 else 0) + 1 ≤ 2 ^ b := by
      have := Nat.two_pow_pos b
      split <;> omega
    calc laneSum b (n + 1) f = 2 ^ (b * n) * (if f n then 2 ^ b - 1 else 0) + laneSum b n f := laneSum_succ b n f
      _ < 2 ^ (b * n) * ((if f n then 2 ^ b - 1 else 0) + 1) := by rw [Nat.mul_succ]; exact Nat.add_lt_add_left ih _
      _ ≤ 2 ^ (b * n) * 2 ^ b := Nat.mul_le_mul_left _ hl
      _ = 2 ^ (b * (n + 1)) := by rw [← Nat.pow_add, Nat.mul_succ]

theorem laneSum_testBit (b n : Nat) (f : Nat → Bool) {k : Nat} (hk : k < b * n) : (laneSum b n f).testBit k = f (k / b) := by
  induction n with
  | zero => exact absurd hk (Nat.not_lt_zero k)
  | succ n ih =>
    rw [laneSum_succ, Nat.testBit_two_pow_mul_add _ (laneSum_lt b n f)]
    by_cases low : k < b * n
    · rw [if_pos low, ih low]
    · have hlt : k - b * n < b := by rw [Nat.mul_succ] at hk; omega
      have hdiv : k / b = n := Nat.div_eq_of_lt_le (by rw [Nat.mul_comm]; omega) (by rw [Nat.mul_comm]; exact hk)
      rw [if_neg low, hdiv]
      cases f n with
      | true => rw [if_pos rfl, Nat.testBit_two_pow_sub_one, decide_eq_true hlt]
      | false => exact Nat.zero_testBit _

theorem predOf_getLsbD (t : Ety) (f : Nat → Bool) {k : Nat} (hk : k < 256) :
    (predOf t.width f).getLsbD k = f (k / (t.width / 8)) := by
  rw [predOf_eq, BitVec.getLsbD_ofNat, decide_eq_true hk, Bool.true_and]
  exact laneSum_testBit _ _ f (by rw [lanes_fill]; exact hk)

/-! ### Instructions that write a predicate or a scalar -/

/-- An immediate producer of one predicate register. -/
theorem issueSimple_wp {s : State} {n : Needs} (h : Ready s n) {pd : Nat} {v : State → PWord} {val : PWord}
    (hv : v (s.take n) = val) :
    issueSimple n (fun s => s.wp pd (v s)) s = .next (s.after n fun th => (th.setP pd val).past s.insnLen) := by
  refine issue_setThr h (f := fun th => (th.setP pd val).past s.insnLen) ?_
  dsimp only
  rw [hv, State.wp, State.take_eq, State.setThr_cur, State.setThr_modThr]
  exact congrArg Verdict.go (State.setThr_modThr _ _ _ _)

theorem predOp_ready {s : State} {pd pa pb : Nat} (h : Ready s { ps := [pa, pb] }) (f : PWord → PWord → PWord) :
    predOp pd pa pb f s = .next (s.after {} fun th => (th.setP pd (f (s.rp pa) (s.rp pb))).past s.insnLen) :=
  issueSimple_wp h (v := fun s => f (s.rp pa) (s.rp pb)) (by rw [State.rp_take, State.rp_take])

/-- PNOT names its source once (R117). -/
theorem Ready.repeatedPredicate {s : State} {pa : Nat} (h : Ready s { ps := [pa] }) : Ready s { ps := [pa, pa] } :=
  { h with ps := by simpa using h.ps }

/-! ### Predicates -/

theorem vbound_ready {s : State} {a b : Src} (h : Ready s { src := [a, b] }) (pd : Nat) (t : Ety) :
    execVbound pd a b t s = .next (s.after { src := [a, b] } fun th =>
      (th.setP pd (predOf t.width fun j => decide ((s.rx a).toInt + j < (s.rx b).toInt))).past s.insnLen) :=
  issueSimple_wp h (v := fun s => predOf t.width fun j => decide ((s.rx a).toInt + j < (s.rx b).toInt))
    (by rw [State.rx_take, State.rx_take])

theorem vcmp_ready {s : State} {va vb pg : Nat} (h : Ready s { vs := [va, vb], ps := [pg] }) (pd : Nat) (t : Ety) (cc : Cmp) :
    execVcmp pd va vb pg t cc s = .next (s.after { vs := [va, vb], ps := [pg] } fun th => (th.setP pd (predOf t.width fun j =>
      (s.rp pg).getLsbD (j * (t.width / 8)) &&
        elCmp t cc (vget (s.rv va) t.width j) (vget (s.rv vb) t.width j))).past s.insnLen) :=
  issueSimple_wp h (v := fun s => predOf t.width fun i =>
    laneOn (s.rp pg) t.width i && elCmp t cc (vget (s.rv va) t.width i) (vget (s.rv vb) t.width i))
    (by simp only [State.rp_take, State.rv_take, laneOn_eq])

theorem pcount_ready {s : State} {pa rd : Nat} (h : Ready s { ps := [pa], dx := [rd] }) (t : Ety) :
    execPcount pa rd t s = .next (s.after {} fun th =>
      (th.gets rd (word (activeLanes (s.rp pa) t.width).length)).past s.insnLen) := by
  rw [execPcount, issueSimple_wx h rd fun s => word (activeLanes (s.rp pa) t.width).length, State.rp_take]
  rfl

theorem pfirst_ready {s : State} {pa rd : Nat} (h : Ready s { ps := [pa], dx := [rd] }) (t : Ety) :
    execPfirst pa rd t s = .next (s.after {} fun th =>
      (th.gets rd (word ((activeLanes (s.rp pa) t.width).headD (laneCount t.width)))).past s.insnLen) := by
  rw [execPfirst, issueSimple_wx h rd fun s => word ((activeLanes (s.rp pa) t.width).headD (laneCount t.width)), State.rp_take]
  rfl

/-- Settles O37, from what each predicate instruction comes to when it is ready and from the lanes of a predicate. -/
theorem predicateResults : Obligations.PredicateResults := by
  unfold Obligations.PredicateResults
  intro s pd pa pb va vb pg rd a b t cc
  refine ⟨fun h => ?vbound, fun h => ?vcmp, fun h => (exec_pand ..).trans (predOp_ready h (· &&& ·)),
    fun h => (exec_por ..).trans (predOp_ready h (· ||| ·)), fun h => (exec_pxor ..).trans (predOp_ready h (· ^^^ ·)),
    fun h => (exec_pnot ..).trans (predOp_ready h.repeatedPredicate fun x _ => ~~~x), fun h => ?pcount, fun h => ?pfirst⟩
  case vbound => exact ⟨_, vbound_ready h pd t, fun k hk => predOf_getLsbD t _ hk⟩
  case vcmp => exact ⟨_, vcmp_ready h pd t cc, fun k hk => predOf_getLsbD t _ hk⟩
  case pcount =>
    rw [exec_pcount, pcount_ready h, activeLanes_eq]
    rfl
  case pfirst =>
    obtain ⟨le, off, on⟩ := firstActive_spec (s.rp pa) t.width
    simp only [laneOn_eq] at off on
    exact ⟨_, pfirst_ready h t, le, off, on⟩

end Sys2Proof.Machine
end

section
/-! SUPPORT. The value of an integer element: its range, its low bits, and sums of elements modulo 2^w (R89). -/

namespace Sys2Proof

/-! ### The low bits of an integer (R89) -/

theorem Ety.width_pos (t : Ety) : 0 < t.width := by
  cases t <;> decide

theorem lowBits_cast (w : Nat) (i : Int) : (lowBits w i : Int) = i % (2 ^ w : Nat) :=
  Int.toNat_of_nonneg (Int.emod_nonneg _ (Int.natCast_ne_zero.2 (Nat.ne_of_gt (Nat.two_pow_pos w))))

theorem lowBits_mod (w : Nat) (i : Int) : lowBits w i % 2 ^ w = lowBits w i :=
  Int.ofNat_inj.1 (by rw [Int.natCast_emod, lowBits_cast, Int.emod_emod])

/-! ### Two's complement (R89) -/

theorem sgn_mod (w v : Nat) : sgn w (v % 2 ^ w) = sgn w v := by
  rw [sgn, sgn, Nat.mod_mod]

theorem sgn_bounds {w : Nat} (hw : 0 < w) (v : Nat) : -(2 ^ (w - 1) : Nat) ≤ sgn w v ∧ sgn w v ≤ (2 ^ (w - 1) : Nat) - 1 := by
  have hm : v % 2 ^ w < 2 ^ w := Nat.mod_lt _ (Nat.two_pow_pos w)
  unfold sgn
  rw [← Nat.two_pow_pred_mul_two hw] at *
  generalize 2 ^ (w - 1) = half at *
  split
  · omega
  · omega

theorem sgn_emod (w v : Nat) : sgn w v % (2 ^ w : Nat) = v % (2 ^ w : Nat) := by
  unfold sgn
  split
  · rw [Int.sub_emod_right, Int.natCast_emod, Int.emod_emod]
  · rw [Int.natCast_emod, Int.emod_emod]

theorem sgn_lowBits {w : Nat} (hw : 0 < w) {i : Int} (lo : -(2 ^ (w - 1) : Nat) ≤ i) (hi : i ≤ (2 ^ (w - 1) : Nat) - 1) :
    sgn w (lowBits w i) = i := by
  have hc := lowBits_cast w i
  rw [sgn, lowBits_mod]
  generalize lowBits w i = m at *
  rw [← Nat.two_pow_pred_mul_two hw] at *
  generalize 2 ^ (w - 1) = half at *
  by_cases neg : i < 0
  · have wrapped : i % (half * 2 : Nat) = i + (half * 2 : Nat) := by
      rw [← Int.add_emod_right]
      exact Int.emod_eq_of_lt (by omega) (by omega)
    rw [if_pos (by omega)]
    omega
  · have kept : i % (half * 2 : Nat) = i := Int.emod_eq_of_lt (Int.not_lt.1 neg) (by omega)
    rw [if_neg (by omega)]
    omega

/-! ### Both signs (R89) -/

theorem Ety.intVal_mod (t : Ety) (v : Nat) : t.intVal (v % 2 ^ t.width) = t.intVal v := by
  rw [Ety.intVal, Ety.intVal, sgn_mod, Nat.mod_mod]

theorem Ety.intVal_bounds (t : Ety) (v : Nat) : t.lo ≤ t.intVal v ∧ t.intVal v ≤ t.hi := by
  rw [Ety.lo, Ety.hi, Ety.intVal]
  cases t.isSigned with
  | true => exact sgn_bounds t.width_pos v
  | false => exact ⟨Int.natCast_nonneg _, Int.le_sub_one_of_lt (Int.ofNat_lt.2 (Nat.mod_lt _ (Nat.two_pow_pos _)))⟩

theorem Ety.lo_le_hi (t : Ety) : t.lo ≤ t.hi := Int.le_trans (t.intVal_bounds 0).1 (t.intVal_bounds 0).2

/-- A value of the type is read back from its low bits. -/
theorem Ety.intVal_lowBits (t : Ety) {i : Int} (lo : t.lo ≤ i) (hi : i ≤ t.hi) : t.intVal (lowBits t.width i) = i := by
  rw [Ety.lo] at lo
  rw [Ety.hi] at hi
  rw [Ety.intVal, lowBits_mod]
  cases hs : t.isSigned with
  | true =>
    rw [hs] at lo hi
    exact sgn_lowBits t.width_pos lo hi
  | false =>
    rw [hs] at lo hi
    exact (lowBits_cast _ _).trans (Int.emod_eq_of_lt lo (Int.lt_of_le_sub_one hi))

theorem Ety.intVal_lo (t : Ety) : t.intVal (lowBits t.width t.lo) = t.lo := t.intVal_lowBits (Int.le_refl _) t.lo_le_hi

theorem Ety.intVal_hi (t : Ety) : t.intVal (lowBits t.width t.hi) = t.hi := t.intVal_lowBits t.lo_le_hi (Int.le_refl _)

/-- The value of an element is that of its bits modulo 2^w. -/
theorem Ety.intVal_emod (t : Ety) (v : Nat) : t.intVal v % (2 ^ t.width : Nat) = v % (2 ^ t.width : Nat) := by
  rw [Ety.intVal]
  cases t.isSigned with
  | true => exact sgn_emod _ _
  | false => exact (congrArg (· % _) (Int.natCast_emod _ _)).trans (Int.emod_emod _ _)

/-! ### Sums modulo 2^w (R89) -/

/-- The sum modulo `m`. -/
def addMod (m a b : Int) : Int := (a + b) % m

theorem addMod_associative (m : Int) : Std.Associative (addMod m) :=
  ⟨fun a b c => by rw [addMod, addMod, addMod, addMod, Int.emod_add_emod, Int.add_emod_emod, Int.add_assoc]⟩

theorem addMod_commutative (m : Int) : Std.Commutative (addMod m) :=
  ⟨fun a b => by rw [addMod, addMod, Int.add_comm]⟩

theorem addMod_emod (m a b : Int) : addMod m (a % m) (b % m) = (a + b) % m := by
  rw [addMod, Int.emod_add_emod, Int.add_emod_emod]

/-- Elements added up modulo 2^w give the sum of their values. -/
theorem Ety.foldl_addMod (t : Ety) (l : List Nat) (start : Int) :
    (l.map fun n : Nat => (n : Int) % (2 ^ t.width : Nat)).foldl (addMod (2 ^ t.width : Nat)) (start % (2 ^ t.width : Nat)) =
      ((l.map t.intVal).sum + start) % (2 ^ t.width : Nat) := by
  induction l generalizing start with
  | nil => rw [List.map_nil, List.foldl_nil, List.map_nil, List.sum_nil, Int.zero_add]
  | cons n l ih =>
    rw [List.map_cons, List.foldl_cons, ← t.intVal_emod n, addMod_emod, ih, List.map_cons, List.sum_cons,
      Int.add_comm (t.intVal n), Int.add_assoc, Int.add_comm start]

end Sys2Proof
end

section
/-! SUPPORT AND PROOF. What a vector instruction and a reduction come to when they are ready, with the elements that they write
(R107, R119-R122), and from them obligation O38. -/

namespace Sys2Proof.Machine

/-! ### A vector instruction issues (R25, R91, R105) -/

/-- A vector instruction that is ready finishes with the result it computes from its sources. -/
theorem vectorOp_ready {s : State} {n : Needs} {vd : Nat} (h : Ready s { n with dv := [vd] }) (f : State → VOut) :
    vectorOp n vd f s = .next ((((s.take n).finishV vd (f (s.take n))).advance).issued) := by
  unfold vectorOp issueSimple
  exact issue_ready h _

/-- One that counts nothing and needs no normaliser writes vd at once. -/
theorem vectorOp_writes {s : State} {n : Needs} {vd : Nat} (h : Ready s { n with dv := [vd] }) {f : State → VOut} {val : VWord}
    (hf : f (s.take n) = { val := val }) :
    vectorOp n vd f s = .next (s.after { n with dv := [vd] } fun th => (th.getsV vd val).past s.insnLen) := by
  have writes : (s.take n).finishV vd { val := val } = s.setThr s.cur ((n.marks s.me).getsV vd val) :=
    State.setThr_modThr s s.cur (n.marks s.me) fun th => th.getsV vd val
  have moves : ((s.take n).finishV vd { val := val }).advance =
      s.setThr s.cur (((n.marks s.me).getsV vd val).past s.insnLen) := by
    rw [writes]
    exact State.setThr_modThr _ _ _ _
  rw [vectorOp_ready h, hf, moves, State.issued_setThr s _ h.alive]
  rfl

/-- An instruction that answers `res` issues and writes to each element `j` of vd the value `f j`. -/
def GivesLanes (s : State) (n : Needs) (vd w : Nat) (res : Result) (f : Nat → Nat) : Prop :=
  ∃ val : VWord, res = .next (s.after n fun th => (th.getsV vd val).past s.insnLen) ∧ ∀ j, j < 2048 / w → vget val w j = f j

theorem vectorOp_givesLanes {s : State} {n : Needs} {vd w : Nat} (h : Ready s { n with dv := [vd] }) {f : State → VOut}
    {val : VWord} (hf : f (s.take n) = { val := val }) {g : Nat → Nat} (hg : ∀ j, j < 2048 / w → vget val w j = g j) :
    GivesLanes s { n with dv := [vd] } vd w (vectorOp n vd f s) g :=
  ⟨val, vectorOp_writes h hf, hg⟩

/-! ### Permutes (R119, R120) -/

/-- A destination whose active elements are elements of a source, or 0. -/
theorem vget_mergeLanes_pick {w j : Nat} (z : Bool) (old v : VWord) (p : PWord) (c : Nat → Prop) [DecidablePred c]
    (k : Nat → Nat) (hj : j < 2048 / w) :
    vget (mergeLanes (laneCount w) w w z old p fun i => if c i then vget v w (k i) else 0) w j =
      if p.getLsbD (j * (w / 8)) then (if c j then vget v w (k j) else 0) else if z then 0 else vget old w j := by
  rw [vget_mergeLanes _ _ _ _ hj, apply_ite (· % 2 ^ w), vget_mod, Nat.zero_mod]

/-- A slide takes the element that `k` names from the amount and the element's number, where `c` holds of them (R119). -/
theorem vslide_ready {s : State} {vd va pg : Nat} {a : Src} {z : Bool}
    (h : Ready s { src := [a], vs := vsrc z vd [va], ps := [pg], dv := [vd] }) (sz : ESize) (c : Nat → Nat → Nat → Prop)
    [∀ n x i, Decidable (c n x i)] (k : Nat → Nat → Nat) :
    GivesLanes s { src := [a], vs := vsrc z vd [va], ps := [pg], dv := [vd] } vd (ESize.bits sz)
      (vslide vd va a pg sz z (fun n x i => if c n x i then some (k x i) else none) s) fun j =>
        if (s.rp pg).getLsbD (j * (ESize.bits sz / 8))
        then (if c (2048 / ESize.bits sz) (s.rx a).toNat j then vget (s.rv va) (ESize.bits sz) (k (s.rx a).toNat j) else 0)
        else if z then 0 else vget (s.rv vd) (ESize.bits sz) j := by
  refine vectorOp_givesLanes h rfl fun j hj => ?_
  have pick : ∀ i, (match if c (2048 / ESize.bits sz) (s.rx a).toNat i then some (k (s.rx a).toNat i) else none with
      | some l => vget (s.rv va) (ESize.bits sz) l
      | none => 0) =
      if c (2048 / ESize.bits sz) (s.rx a).toNat i then vget (s.rv va) (ESize.bits sz) (k (s.rx a).toNat i) else 0 := by
    intro i
    by_cases hc : c (2048 / ESize.bits sz) (s.rx a).toNat i
    · simp only [if_pos hc]
    · simp only [if_neg hc]
  rw [← vget_mergeLanes_pick z _ _ _ (c (2048 / ESize.bits sz) (s.rx a).toNat) _ hj, ← funext pick, State.rp_take, State.rv_take,
    State.rv_take, State.rx_take]
  rfl

theorem vperm_ready {s : State} {vd va vb pg : Nat} {z : Bool}
    (h : Ready s { vs := vsrc z vd [va, vb], ps := [pg], dv := [vd] }) (t : Ety) :
    GivesLanes s { vs := vsrc z vd [va, vb], ps := [pg], dv := [vd] } vd t.width (execVperm vd va vb pg t z s) fun j =>
      if (s.rp pg).getLsbD (j * (t.width / 8))
        then (if vget (s.rv vb) t.width j < 2048 / t.width then vget (s.rv va) t.width (vget (s.rv vb) t.width j) else 0)
        else if z then 0 else vget (s.rv vd) t.width j := by
  refine vectorOp_givesLanes h rfl fun j hj => ?_
  rw [State.rp_take, State.rv_take, State.rv_take, State.rv_take]
  exact vget_mergeLanes_pick z _ _ _ (fun i => vget (s.rv vb) t.width i < 2048 / t.width) (vget (s.rv vb) t.width) hj

/-- A list continued from its length on by the values of `g`. -/
theorem getD_append_drop_range (xs : List Nat) (g : Nat → Nat) {n j : Nat} (hj : j < n) :
    (xs ++ ((List.range n).drop xs.length).map g).getD j 0 = xs[j]?.getD (g j) := by
  rw [List.getD_eq_getElem?_getD]
  by_cases inside : j < xs.length
  · rw [List.getElem?_append_left inside, List.getElem?_eq_getElem inside]
    rfl
  · have beyond : xs.length ≤ j := Nat.le_of_not_lt inside
    rw [List.getElem?_append_right beyond, List.getElem?_map, List.getElem?_drop, Nat.add_sub_cancel' beyond,
      List.getElem?_range hj, List.getElem?_eq_none beyond]
    rfl

theorem vcompress_ready {s : State} {vd va pg : Nat} {z : Bool}
    (h : Ready s { vs := vsrc z vd [va], ps := [pg], dv := [vd] }) (t : Ety) :
    GivesLanes s { vs := vsrc z vd [va], ps := [pg], dv := [vd] } vd t.width (execVcompress vd va pg t z s) fun j =>
      match (activeLanes (s.rp pg) t.width)[j]? with
        | some i => vget (s.rv va) t.width i
        | none => if z then 0 else vget (s.rv vd) t.width j := by
  refine vectorOp_givesLanes h rfl fun j hj => ?_
  have hn : j < laneCount t.width := hj
  rw [vget_vectorOf _ hj, getD_append_drop_range _ _ hn, State.rp_take, State.rv_take, State.rv_take, List.getElem?_map]
  cases (activeLanes (s.rp pg) t.width)[j]? with
  | some i => exact vget_mod _ _ _
  | none => cases z with
    | true => exact Nat.zero_mod _
    | false => exact vget_mod _ _ _

theorem vsel_ready {s : State} {vd va vb pg : Nat} (h : Ready s { vs := [va, vb], ps := [pg], dv := [vd] }) (t : Ety) :
    GivesLanes s { vs := [va, vb], ps := [pg], dv := [vd] } vd t.width (execVsel vd va vb pg t s) fun j =>
      if (s.rp pg).getLsbD (j * (t.width / 8)) then vget (s.rv va) t.width j else vget (s.rv vb) t.width j := by
  refine vectorOp_givesLanes h rfl fun j hj => ?_
  rw [vget_vectorOf_range _ hj, State.rp_take, State.rv_take, State.rv_take, laneOn_eq, apply_ite (· % 2 ^ t.width), vget_mod,
    vget_mod]

/-! ### Element access (R121) -/

theorem vins_ready {s : State} {vd : Nat} {a b : Src} (h : Ready s { src := [a, b], vs := [vd], dv := [vd] }) (sz : ESize) :
    GivesLanes s { src := [a, b], vs := [vd], dv := [vd] } vd (ESize.bits sz) (execVins vd a b sz s) fun j =>
      if j = (s.rx b).toNat then (s.rx a).toNat % 2 ^ ESize.bits sz else vget (s.rv vd) (ESize.bits sz) j := by
  refine vectorOp_givesLanes h rfl fun j hj => ?_
  rw [State.rx_take, State.rx_take, State.rv_take]
  by_cases inside : (s.rx b).toNat < laneCount (ESize.bits sz)
  · rw [if_pos inside, vget_vset _ _ hj]
  · have beyond : j ≠ (s.rx b).toNat := fun hjb => inside (hjb ▸ hj)
    rw [if_neg inside, if_neg beyond]

theorem vext_ready {s : State} {va rd : Nat} {b : Src} (h : Ready s { src := [b], vs := [va], dx := [rd] }) (sz : ESize) :
    execVext va rd b sz s = .next (s.after { src := [b] } fun th => (th.gets rd
      (if (s.rx b).toNat < 2048 / ESize.bits sz then word (vget (s.rv va) (ESize.bits sz) (s.rx b).toNat) else 0)).past
        s.insnLen) := by
  rw [execVext, issueSimple_wx h rd fun s => if (s.rx b).toNat < laneCount (ESize.bits sz)
    then word (vget (s.rv va) (ESize.bits sz) (s.rx b).toNat) else 0, State.rx_take, State.rv_take]
  rfl

theorem vwidth_ready {s : State} {rd : Nat} (h : Ready s { dx := [rd] }) :
    execVwidth rd s = .next (s.after {} fun th => (th.gets rd 2048).past s.insnLen) :=
  issueSimple_wx h rd fun _ => word Config.vlen

/-! ### Reductions (R122) -/

section Fold
variable {M : Type} (op : M → M → M) [Std.Associative op] [Std.Commutative op]

theorem foldl_zipWith (as bs : List M) (hl : as.length = bs.length) (x : M) :
    (List.zipWith op as bs).foldl op x = bs.foldl op (as.foldl op x) := by
  induction as generalizing bs x with
  | nil => rw [List.eq_nil_of_length_eq_zero hl.symm]; rfl
  | cons a as ih =>
    cases bs with
    | nil => exact absurd hl (Nat.succ_ne_zero _)
    | cons b bs =>
      have move : op (as.foldl op (op x a)) b = as.foldl op (op x (op a b)) := by
        rw [Std.Commutative.comm (op := op) _ b, ← List.foldl_assoc (op := op), Std.Commutative.comm (op := op) b,
          Std.Associative.assoc (op := op)]
      rw [List.zipWith_cons_cons, List.foldl_cons, ih bs (Nat.succ.inj hl), List.foldl_cons, List.foldl_cons, move]

/-- Elements that are neutral to the first value can be left out of a fold. -/
theorem foldl_map_ite (p : Nat → Bool) (g : Nat → M) {e : M} (l : List Nat) {x : M} (he : op x e = x) :
    (l.map fun i => if p i then g i else e).foldl op x = ((l.filter p).map g).foldl op x := by
  induction l generalizing x with
  | nil => rfl
  | cons i l ih =>
    cases hp : p i with
    | true =>
      have keeps : op (op x (g i)) e = op x (g i) := by
        rw [Std.Associative.assoc (op := op), Std.Commutative.comm (op := op) (g i), ← Std.Associative.assoc (op := op), he]
      rw [List.map_cons, hp, List.filter_cons_of_pos hp]
      exact ih keeps
    | false =>
      rw [List.map_cons, hp, List.filter_cons_of_neg (hp ▸ Bool.false_ne_true), List.foldl_cons, if_neg Bool.false_ne_true, he]
      exact ih he

/-- The tree over 2^k results comes to the fold over them, whichever value `φ` of a result the nodes combine. -/
theorem foldl_treeReduce {g : FRes → FRes → FRes} {φ : FRes → M} (hφ : ∀ a b, φ (g a b) = op (φ a) (φ b)) {n k : Nat}
    (hk : k ≤ n) {ts : List FRes} (hl : ts.length = 2 ^ k) (x : M) : op x (φ (treeReduce g n ts)) = (ts.map φ).foldl op x := by
  induction n generalizing k ts with
  | zero =>
    obtain rfl : k = 0 := Nat.le_zero.1 hk
    obtain ⟨r, rfl⟩ := List.length_eq_one_iff.1 hl
    rfl
  | succ n ih =>
    cases k with
    | zero =>
      obtain ⟨r, rfl⟩ := List.length_eq_one_iff.1 hl
      have root : treeReduce g (n + 1) [r] = r := if_pos (Nat.div_eq_of_lt (Nat.lt_succ_self 1))
      exact congrArg (fun q => op x (φ q)) root
    | succ k =>
      have half : ts.length / 2 = 2 ^ k := by rw [hl, Nat.pow_succ, Nat.mul_div_cancel _ Nat.two_pos]
      have upper : (ts.take (2 ^ k)).length = 2 ^ k := by rw [List.length_take, hl, Nat.pow_succ]; omega
      have lower : (ts.drop (2 ^ k)).length = 2 ^ k := by rw [List.length_drop, hl, Nat.pow_succ]; omega
      have nodes : (List.zipWith g (ts.take (2 ^ k)) (ts.drop (2 ^ k))).map φ =
          List.zipWith op ((ts.take (2 ^ k)).map φ) ((ts.drop (2 ^ k)).map φ) := by
        rw [List.map_zipWith, List.zipWith_map, funext fun a => funext (hφ a)]
      rw [treeReduce, half, if_neg (Nat.ne_of_gt (Nat.two_pow_pos k)), ih (Nat.le_of_succ_le_succ hk)
        (by rw [List.length_zipWith, upper, lower, Nat.min_self]), nodes,
        foldl_zipWith op _ _ (by rw [List.length_map, List.length_map, upper, lower]), ← List.foldl_append, ← List.map_append,
        List.take_append_drop]

end Fold

/-- One node of the tree: the operation on two results, with the events of both. -/
def joined (f : Nat → Nat → FRes) (a b : FRes) : FRes := (f a.bits b.bits).join a b

/-- What `vreduce` computes: the tree over the elements of va, those that are inactive replaced, and then element 0 of vb. -/
def reduceLanes (w ident : Nat) (p : PWord) (va vb : VWord) (f : Nat → Nat → FRes) : FRes :=
  joined f (treeReduce (joined f) 8 ((List.range (laneCount w)).map fun i =>
    exactRes (if laneOn p w i then vget va w i else ident))) (exactRes (vget vb w 0))

theorem laneCount_eq_two_pow (t : Ety) : laneCount t.width = 2 ^ (laneCount t.width).log2 ∧ (laneCount t.width).log2 ≤ 8 := by
  cases t <;> decide

theorem laneCount_pos (t : Ety) : 0 < laneCount t.width := by
  cases t <;> decide

/-- An operation that answers one of two values of a type answers it in an element (R89). -/
theorem intVal_intOp (t : Ety) {op : Int → Int → Int} (choice : ∀ a b, op a b = a ∨ op a b = b) (a b : Nat) :
    t.intVal (intOp t op a b) = op (t.intVal a) (t.intVal b) := by
  rcases choice (t.intVal a) (t.intVal b) with h | h
  · rw [intOp, h]
    exact t.intVal_lowBits (t.intVal_bounds a).1 (t.intVal_bounds a).2
  · rw [intOp, h]
    exact t.intVal_lowBits (t.intVal_bounds b).1 (t.intVal_bounds b).2

/-- A reduction over a commutative operation is the fold over the active elements, from element 0 of vb on. -/
theorem reduceLanes_value {M : Type} (op : M → M → M) [Std.Associative op] [Std.Commutative op] {v : Nat → M}
    {f : Nat → Nat → FRes} (hf : ∀ a b, v (f a b).bits = op (v a) (v b)) (t : Ety) {ident : Nat} (p : PWord) (va : VWord) {vb : VWord}
    (hid : op (v (vget vb t.width 0)) (v ident) = v (vget vb t.width 0)) :
    v (reduceLanes t.width ident p va vb f).bits =
      ((activeLanes p t.width).map fun j => v (vget va t.width j)).foldl op (v (vget vb t.width 0)) := by
  obtain ⟨pow, le⟩ := laneCount_eq_two_pow t
  have node : ∀ a b, v (joined f a b).bits = op (v a.bits) (v b.bits) := fun a b => hf a.bits b.bits
  rw [reduceLanes, node, Std.Commutative.comm (op := op)]
  refine (foldl_treeReduce op (φ := fun r => v r.bits) node le (by rw [List.length_map, List.length_range]; exact pow) _).trans ?_
  rw [List.map_map, activeLanes, ← foldl_map_ite op _ _ _ hid]
  congr 1
  exact List.map_congr_left fun i _ => apply_ite v _ _ _

/-- An instruction that answers `res` leaves a value that meets `c` in element 0 of vd and zeros in the others (R122). -/
def Reduces (s : State) (vd w : Nat) (res : Result) (c : Nat → Prop) : Prop :=
  ∃ o : VOut, res = .next ((((s.take {}).finishV vd o).advance).issued) ∧
    (∀ j, 0 < j → j < 2048 / w → vget o.val w j = 0) ∧ c (vget o.val w 0)

theorem Reduces.mono {s : State} {vd w : Nat} {res : Result} {c d : Nat → Prop} (h : Reduces s vd w res c)
    (hd : ∀ r, r < 2 ^ w → c r → d r) : Reduces s vd w res d := by
  obtain ⟨o, run, rest, first⟩ := h
  exact ⟨o, run, rest, hd _ (vget_lt _ _ _) first⟩

/-- A vector instruction whose result is one element. -/
theorem vectorOp_reduces {s : State} {vd va vb pg w : Nat} (h : Ready s { vs := [va, vb], ps := [pg], dv := [vd] })
    (hw : 0 < 2048 / w) {f : State → VOut} {b : Nat} (hf : (f (s.take {})).val = vectorOf w [b]) :
    Reduces s vd w (vectorOp { vs := [va, vb], ps := [pg] } vd f s) fun r => r = b % 2 ^ w := by
  refine ⟨_, vectorOp_ready h f, fun j pos hj => ?_, (congrArg (vget · w 0) hf).trans (vget_vectorOf [b] hw)⟩
  refine (congrArg (vget · w j) hf).trans ?_
  rw [vget_vectorOf _ hj, List.getD_eq_getElem?_getD, List.getElem?_eq_none pos]
  exact Nat.zero_mod _

theorem fmtD_of_fmtOf {t : Ety} {f : Fmt} (hf : fmtOf t = some f) : Ety.fmtD t = f := by
  rw [Ety.fmtD, hf]
  rfl

theorem width_of_fmtOf {t : Ety} {f : Fmt} (hf : fmtOf t = some f) : f.w = t.width := by
  cases t <;> cases hf <;> rfl

section Reduction
variable {s : State} {vd va vb pg : Nat} (h : Ready s { vs := [va, vb], ps := [pg], dv := [vd] })
include h

theorem vreduce_ready (t : Ety) (ident : Nat) (f : Nat → Nat → FRes) :
    Reduces s vd t.width (vreduce vd va vb pg t ident f s)
      fun r => r = (reduceLanes t.width ident (s.rp pg) (s.rv va) (s.rv vb) f).bits % 2 ^ t.width :=
  vectorOp_reduces h (laneCount_pos t) (by rw [State.rp_take, State.rv_take, State.rv_take]; rfl)

/-- A reduction over a commutative operation: the value of element 0. -/
theorem vreduce_value {t : Ety} {M : Type} (op : M → M → M) [Std.Associative op] [Std.Commutative op] {v : Nat → M}
    (hmod : ∀ n, v (n % 2 ^ t.width) = v n) {f : Nat → Nat → FRes} (hf : ∀ a b, v (f a b).bits = op (v a) (v b)) {ident : Nat}
    (hid : op (v (vget (s.rv vb) t.width 0)) (v ident) = v (vget (s.rv vb) t.width 0)) :
    Reduces s vd t.width (vreduce vd va vb pg t ident f s) fun r =>
      v r = ((activeLanes (s.rp pg) t.width).map fun j => v (vget (s.rv va) t.width j)).foldl op
        (v (vget (s.rv vb) t.width 0)) :=
  (vreduce_ready h t ident f).mono fun r _ hr => by rw [hr, hmod, reduceLanes_value op hf t _ _ hid]

/-- The sum of integers, modulo 2^w. -/
theorem vredadd_ready (t : Ety) : Reduces s vd t.width (execVredadd vd va vb pg t s) fun r => fmtOf t = none →
    (r : Int) = (((activeLanes (s.rp pg) t.width).map fun j => t.intVal (vget (s.rv va) t.width j)).sum +
      t.intVal (vget (s.rv vb) t.width 0)) % 2 ^ t.width := by
  unfold execVredadd
  cases fmtOf t with
  | some f => exact (vreduce_ready h t _ _).mono fun _ _ _ none => nomatch none
  | none =>
    have hf : ∀ a b : Nat, (intOp t (fun x y => x + y) a b : Int) % (2 ^ t.width : Nat) =
        addMod (2 ^ t.width : Nat) (a % (2 ^ t.width : Nat)) (b % (2 ^ t.width : Nat)) := fun a b => by
      rw [intOp, lowBits_cast, Int.emod_emod, ← t.intVal_emod a, ← t.intVal_emod b, addMod_emod]
    have hid : ∀ a : Int, addMod (2 ^ t.width : Nat) (a % (2 ^ t.width : Nat)) (0 % (2 ^ t.width : Nat)) =
        a % (2 ^ t.width : Nat) := fun a => by rw [addMod_emod, Int.add_zero]
    have := addMod_associative (2 ^ t.width : Nat)
    have := addMod_commutative (2 ^ t.width : Nat)
    have sum := vreduce_value h (addMod (2 ^ t.width : Nat)) (v := fun n => (n : Int) % (2 ^ t.width : Nat))
      (fun n => (congrArg (· % _) (Int.natCast_emod n _)).trans (Int.emod_emod _ _))
      (f := fun a b => exactRes (intOp t (fun x y => x + y) a b)) hf (ident := 0) (hid _)
    refine sum.mono fun r low hr _ => ?_
    have fold := t.foldl_addMod ((activeLanes (s.rp pg) t.width).map (vget (s.rv va) t.width))
      (t.intVal (vget (s.rv vb) t.width 0))
    rw [List.map_map, List.map_map, t.intVal_emod] at fold
    exact (Int.emod_eq_of_lt (Int.natCast_nonneg r) (Int.ofNat_lt.2 low)).symm.trans (hr.trans fold)

/-- A reduction that chooses among integers: their extremum. -/
theorem vreduce_choice {t : Ety} {op : Int → Int → Int} [Std.Associative op] [Std.Commutative op]
    (choice : ∀ a b, op a b = a ∨ op a b = b) {ident : Nat} (neutral : ∀ a, op (t.intVal a) (t.intVal ident) = t.intVal a) :
    Reduces s vd t.width (vreduce vd va vb pg t ident (fun a b => exactRes (intOp t op a b)) s) fun r =>
      t.intVal r = ((activeLanes (s.rp pg) t.width).map fun j => t.intVal (vget (s.rv va) t.width j)).foldl op
        (t.intVal (vget (s.rv vb) t.width 0)) :=
  vreduce_value h op (v := t.intVal) t.intVal_mod (intVal_intOp t choice) (neutral _)

theorem vredmax_ready (t : Ety) : Reduces s vd t.width (execVredmax vd va vb pg t s) fun r => fmtOf t = none →
    t.intVal r = ((activeLanes (s.rp pg) t.width).map fun j => t.intVal (vget (s.rv va) t.width j)).foldl max
      (t.intVal (vget (s.rv vb) t.width 0)) := by
  unfold execVredmax
  cases fmtOf t with
  | some f => exact (vreduce_ready h t _ _).mono fun _ _ _ none => nomatch none
  | none =>
    have neutral : ∀ a, max (t.intVal a) (t.intVal (lowBits t.width t.lo)) = t.intVal a := fun a => by
      rw [t.intVal_lo]
      exact Int.max_eq_left (t.intVal_bounds a).1
    exact (vreduce_choice h (fun a b => by omega) neutral).mono fun _ _ hr _ => hr

theorem vredmin_ready (t : Ety) : Reduces s vd t.width (execVredmin vd va vb pg t s) fun r => fmtOf t = none →
    t.intVal r = ((activeLanes (s.rp pg) t.width).map fun j => t.intVal (vget (s.rv va) t.width j)).foldl min
      (t.intVal (vget (s.rv vb) t.width 0)) := by
  unfold execVredmin
  cases fmtOf t with
  | some f => exact (vreduce_ready h t _ _).mono fun _ _ _ none => nomatch none
  | none =>
    have neutral : ∀ a, min (t.intVal a) (t.intVal (lowBits t.width t.hi)) = t.intVal a := fun a => by
      rw [t.intVal_hi]
      exact Int.min_eq_left (t.intVal_bounds a).2
    exact (vreduce_choice h (fun a b => by omega) neutral).mono fun _ _ hr _ => hr

/-- The ordered sum over no active element is element 0 of vb. -/
theorem vfredadd_ready {t : Ety} {f : Fmt} (hf : fmtOf t = some f) :
    Reduces s vd f.w (execVfredadd vd va vb pg t s) fun r => activeLanes (s.rp pg) t.width = [] → r = vget (s.rv vb) f.w 0 := by
  have hw := width_of_fmtOf hf
  obtain rfl := fmtD_of_fmtOf hf
  refine (vectorOp_reduces h (hw ▸ laneCount_pos t) rfl).mono fun r _ hr idle => ?_
  rw [hr, State.rp_take, State.rv_take, State.rv_take, hw, idle]
  exact vget_mod _ _ _

end Reduction

/-- Settles O38, from what each permute, element access and reduction comes to when it is ready. -/
theorem vectorPermutes : Obligations.VectorPermutes := by
  unfold Obligations.VectorPermutes
  refine ⟨fun s vd va vb pg rd a b t sz z => ?permutes, fun s vd va vb pg t h => ?reductions⟩
  case permutes =>
    refine ⟨fun h => ?slideup, fun h => ?slidedn, fun h => ?perm, fun h => ?compress, fun h => ?sel, fun h => ?ins, fun h => ?ext,
      fun h => ?width⟩
    case slideup => exact vslide_ready h sz (fun _ x i => x ≤ i) (fun x i => i - x)
    case slidedn => exact vslide_ready h sz (fun n x i => i + x < n) (fun x i => i + x)
    case perm => exact vperm_ready h t
    case compress =>
      simp only [← activeLanes_eq]
      exact vcompress_ready h t
    case sel => exact vsel_ready h t
    case ins => exact vins_ready h sz
    case ext => exact vext_ready h sz
    case width => exact vwidth_ready h
  case reductions =>
    simp only [← activeLanes_eq]
    exact ⟨vredadd_ready h t, vredmax_ready h t, vredmin_ready h t, fun f hf => vfredadd_ready h hf⟩

end Sys2Proof.Machine
end

section
/-! PROOF. Obligation O4, from the round trip of each constructor. -/

namespace Sys2Proof.Machine

open Laws

/-- Settles O4: each constructor has its round trip (`Laws.RoundTrip`), and an event has no encoding. -/
theorem decodeOfEncode : Obligations.DecodeOfEncode := by
  unfold Obligations.DecodeOfEncode
  intro i
  change RoundTrip.Statement i
  cases i with
  | add => apply RoundTrip.add | sub => apply RoundTrip.sub | and => apply RoundTrip.and | or => apply RoundTrip.or
  | xor => apply RoundTrip.xor | sll => apply RoundTrip.sll | srl => apply RoundTrip.srl | sra => apply RoundTrip.sra
  | slt => apply RoundTrip.slt | sltu => apply RoundTrip.sltu | min => apply RoundTrip.min | max => apply RoundTrip.max
  | minu => apply RoundTrip.minu | maxu => apply RoundTrip.maxu | mul => apply RoundTrip.mul | mulh => apply RoundTrip.mulh
  | mulhu => apply RoundTrip.mulhu | div => apply RoundTrip.div | divu => apply RoundTrip.divu | rem => apply RoundTrip.rem
  | remu => apply RoundTrip.remu | clz => apply RoundTrip.clz | ctz => apply RoundTrip.ctz | popc => apply RoundTrip.popc
  | addsh1 => apply RoundTrip.addsh1 | addsh2 => apply RoundTrip.addsh2 | addsh3 => apply RoundTrip.addsh3
  | andn => apply RoundTrip.andn | sextw => apply RoundTrip.sextw | zextw => apply RoundTrip.zextw | addi => apply RoundTrip.addi
  | andi => apply RoundTrip.andi | ori => apply RoundTrip.ori | xori => apply RoundTrip.xori | slti => apply RoundTrip.slti
  | slli => apply RoundTrip.slli | srli => apply RoundTrip.srli | srai => apply RoundTrip.srai | lui => apply RoundTrip.lui
  | addpc => apply RoundTrip.addpc | ldb => apply RoundTrip.ldb | ldbu => apply RoundTrip.ldbu | ldh => apply RoundTrip.ldh
  | ldhu => apply RoundTrip.ldhu | ldw => apply RoundTrip.ldw | ldwu => apply RoundTrip.ldwu | ldd => apply RoundTrip.ldd
  | stb => apply RoundTrip.stb | sth => apply RoundTrip.sth | stw => apply RoundTrip.stw | std => apply RoundTrip.std
  | ldf => apply RoundTrip.ldf | ldt => apply RoundTrip.ldt | ldp => apply RoundTrip.ldp | ldft => apply RoundTrip.ldft
  | stf => apply RoundTrip.stf | fewF => apply RoundTrip.fewF | fewE => apply RoundTrip.fewE | amoadd => apply RoundTrip.amoadd
  | amoswap => apply RoundTrip.amoswap | amocas => apply RoundTrip.amocas | amomin => apply RoundTrip.amomin
  | amomax => apply RoundTrip.amomax | amominu => apply RoundTrip.amominu | amomaxu => apply RoundTrip.amomaxu
  | amoand => apply RoundTrip.amoand | amoor => apply RoundTrip.amoor | amoxor => apply RoundTrip.amoxor
  | fenceFull => apply RoundTrip.fenceFull | fenceAcq => apply RoundTrip.fenceAcq | fenceRel => apply RoundTrip.fenceRel
  | beq => apply RoundTrip.beq | bne => apply RoundTrip.bne | blt => apply RoundTrip.blt | bge => apply RoundTrip.bge
  | bltu => apply RoundTrip.bltu | bgeu => apply RoundTrip.bgeu | jal => apply RoundTrip.jal | jalr => apply RoundTrip.jalr
  | loop => apply RoundTrip.loop | spawn => apply RoundTrip.spawn | join => apply RoundTrip.join | leave => apply RoundTrip.leave
  | bar => apply RoundTrip.bar | whoami => apply RoundTrip.whoami | grpcnt => apply RoundTrip.grpcnt
  | waittl => apply RoundTrip.waittl | qbind => apply RoundTrip.qbind | qfree => apply RoundTrip.qfree
  | qstat => apply RoundTrip.qstat | qrd => apply RoundTrip.qrd | qwr => apply RoundTrip.qwr | cpy => apply RoundTrip.cpy
  | cpyRect => apply RoundTrip.cpyRect | cpyWin => apply RoundTrip.cpyWin | cpyCow => apply RoundTrip.cpyCow
  | gath => apply RoundTrip.gath | gathRows => apply RoundTrip.gathRows | collAllred => apply RoundTrip.collAllred
  | collAllgath => apply RoundTrip.collAllgath | collRedscat => apply RoundTrip.collRedscat
  | collAlltoall => apply RoundTrip.collAlltoall | atsub => apply RoundTrip.atsub | mlease => apply RoundTrip.mlease
  | mrel => apply RoundTrip.mrel | mzero => apply RoundTrip.mzero | mmul => apply RoundTrip.mmul | mmulS => apply RoundTrip.mmulS
  | mdrain => apply RoundTrip.mdrain | mwait => apply RoundTrip.mwait | ralloc => apply RoundTrip.ralloc
  | rfill => apply RoundTrip.rfill | rpin => apply RoundTrip.rpin | runpin => apply RoundTrip.runpin
  | rrevoke => apply RoundTrip.rrevoke | rquery => apply RoundTrip.rquery | tidset => apply RoundTrip.tidset
  | tidget => apply RoundTrip.tidget | tidpatch => apply RoundTrip.tidpatch | vadd => apply RoundTrip.vadd
  | vsub => apply RoundTrip.vsub | vmul => apply RoundTrip.vmul | vmulh => apply RoundTrip.vmulh | vmin => apply RoundTrip.vmin
  | vmax => apply RoundTrip.vmax | vand => apply RoundTrip.vand | vor => apply RoundTrip.vor | vxor => apply RoundTrip.vxor
  | vshl => apply RoundTrip.vshl | vshr => apply RoundTrip.vshr | vsra => apply RoundTrip.vsra | vabs => apply RoundTrip.vabs
  | vneg => apply RoundTrip.vneg | vmac => apply RoundTrip.vmac | vfadd => apply RoundTrip.vfadd | vfsub => apply RoundTrip.vfsub
  | vfmul => apply RoundTrip.vfmul | vfma => apply RoundTrip.vfma | vfmin => apply RoundTrip.vfmin
  | vfmax => apply RoundTrip.vfmax | vfabs => apply RoundTrip.vfabs | vfneg => apply RoundTrip.vfneg
  | vcvt => apply RoundTrip.vcvt | vld => apply RoundTrip.vld | vst => apply RoundTrip.vst | vgath => apply RoundTrip.vgath
  | vscat => apply RoundTrip.vscat | vsplat => apply RoundTrip.vsplat | vbound => apply RoundTrip.vbound
  | vcmp => apply RoundTrip.vcmp | pand => apply RoundTrip.pand | por => apply RoundTrip.por | pnot => apply RoundTrip.pnot
  | pxor => apply RoundTrip.pxor | pcount => apply RoundTrip.pcount | pfirst => apply RoundTrip.pfirst
  | vslideup => apply RoundTrip.vslideup | vslidedn => apply RoundTrip.vslidedn | vperm => apply RoundTrip.vperm
  | vcompress => apply RoundTrip.vcompress | vsel => apply RoundTrip.vsel | vredadd => apply RoundTrip.vredadd
  | vredmax => apply RoundTrip.vredmax | vredmin => apply RoundTrip.vredmin | vfredadd => apply RoundTrip.vfredadd
  | vext => apply RoundTrip.vext | vins => apply RoundTrip.vins | vrcp => apply RoundTrip.vrcp | vrsq => apply RoundTrip.vrsq
  | vexp2 => apply RoundTrip.vexp2 | vlog2 => apply RoundTrip.vlog2 | vtanh => apply RoundTrip.vtanh
  | vwidth => apply RoundTrip.vwidth | vtopk => apply RoundTrip.vtopk | vmaxx => apply RoundTrip.vmaxx
  | vquant => apply RoundTrip.vquant | vhist => apply RoundTrip.vhist | crd => apply RoundTrip.crd | cwr => apply RoundTrip.cwr
  | trap => apply RoundTrip.trap | eret => apply RoundTrip.eret | slotld => apply RoundTrip.slotld
  | slotst => apply RoundTrip.slotst | park => apply RoundTrip.park | unpark => apply RoundTrip.unpark
  | kill => apply RoundTrip.kill | skipw => apply RoundTrip.skipw | cMov => apply RoundTrip.cMov | cAdd => apply RoundTrip.cAdd
  | cSub => apply RoundTrip.cSub | cAnd => apply RoundTrip.cAnd | cOr => apply RoundTrip.cOr | cXor => apply RoundTrip.cXor
  | cSll => apply RoundTrip.cSll | cSrl => apply RoundTrip.cSrl | cAddi => apply RoundTrip.cAddi | cLi => apply RoundTrip.cLi
  | cLd => apply RoundTrip.cLd | cSt => apply RoundTrip.cSt | cBeqz => apply RoundTrip.cBeqz | cBnez => apply RoundTrip.cBnez
  | cJ => apply RoundTrip.cJ | cJr => apply RoundTrip.cJr | cLdt => apply RoundTrip.cLdt | cStf => apply RoundTrip.cStf
  | cSkip => apply RoundTrip.cSkip | cQrd => apply RoundTrip.cQrd | cQwr => apply RoundTrip.cQwr | amovi => apply RoundTrip.amovi
  | amoviHi => apply RoundTrip.amoviHi | aadd => apply RoundTrip.aadd | asub => apply RoundTrip.asub
  | amul => apply RoundTrip.amul | aaddi => apply RoundTrip.aaddi | abeq => apply RoundTrip.abeq | abne => apply RoundTrip.abne
  | ablt => apply RoundTrip.ablt | abge => apply RoundTrip.abge | ajmp => apply RoundTrip.ajmp | acall => apply RoundTrip.acall
  | ald => apply RoundTrip.ald | ast => apply RoundTrip.ast | sload => apply RoundTrip.sload | sstore => apply RoundTrip.sstore
  | sjoin => apply RoundTrip.sjoin | slen => apply RoundTrip.slen | stok => apply RoundTrip.stok | stokW => apply RoundTrip.stokW
  | ssel => apply RoundTrip.ssel | sclear => apply RoundTrip.sclear | fmovi => apply RoundTrip.fmovi
  | fblt => apply RoundTrip.fblt | fbits => apply RoundTrip.fbits | fbitsF => apply RoundTrip.fbitsF
  | choose => apply RoundTrip.choose | ctxlen => apply RoundTrip.ctxlen | ctxstat => apply RoundTrip.ctxstat
  | post => apply RoundTrip.post | ahalt => apply RoundTrip.ahalt | ctxnew => apply RoundTrip.ctxnew
  | ctxfree => apply RoundTrip.ctxfree | fork => apply RoundTrip.fork | trim => apply RoundTrip.trim
  | append => apply RoundTrip.append | probe => apply RoundTrip.probe | pin => apply RoundTrip.pin
  | unpin => apply RoundTrip.unpin | score => apply RoundTrip.score | gen => apply RoundTrip.gen
  | sampset => apply RoundTrip.sampset | maskbind => apply RoundTrip.maskbind | rngjump => apply RoundTrip.rngjump
  | await => apply RoundTrip.await | exit => apply RoundTrip.exit | yield => apply RoundTrip.yield
  | trigger => apply RoundTrip.trigger | brk => apply RoundTrip.brk | wfe => apply RoundTrip.wfe | cNop => apply RoundTrip.cNop
  | cYield => apply RoundTrip.cYield | cExit => apply RoundTrip.cExit | cBar0 => apply RoundTrip.cBar0
  | anop => apply RoundTrip.anop | aret => apply RoundTrip.aret
  | _ => exact fun _ event => absurd rfl event

end Sys2Proof.Machine
end

section
/-! SUPPORT AND PROOF. What each function of the model does to the memories: most leave them alone (`State.SameMem`), the others keep
their canonical form (log entry 3). The lemmas stand in the order of the definitions, under the names of the model's files. -/

namespace Sys2Proof.Machine

/-! ### What leaves the memories alone, and what keeps their canonical form -/

/-- From `s` to `t` no byte of a memory has changed. -/
abbrev State.SameMem (s t : State) : Prop := t.hbm = s.hbm ∧ t.hostMem = s.hostMem ∧ t.pad = s.pad

theorem State.SameMem.memOk {s t : State} (h : s.SameMem t) (ok : s.MemOk) : t.MemOk := by
  obtain ⟨h1, h2, h3⟩ := h
  simpa only [State.MemOk, h1, h2, h3] using ok

@[simp] theorem State.ite_hbm (c : Prop) [Decidable c] (s t : State) : (if c then s else t).hbm = if c then s.hbm else t.hbm :=
  apply_ite ..

@[simp] theorem State.ite_hostMem (c : Prop) [Decidable c] (s t : State) :
    (if c then s else t).hostMem = if c then s.hostMem else t.hostMem := apply_ite ..

@[simp] theorem State.ite_pad (c : Prop) [Decidable c] (s t : State) : (if c then s else t).pad = if c then s.pad else t.pad :=
  apply_ite ..

theorem State.MemOk.keep {s t : State} (h : s.MemOk) (k : s.SameMem t) : t.MemOk := k.memOk h

theorem State.SameMem.refl (s : State) : s.SameMem s := ⟨rfl, rfl, rfl⟩

theorem State.SameMem.trans {s t u : State} (h : s.SameMem t) (k : t.SameMem u) : s.SameMem u :=
  ⟨k.1.trans h.1, k.2.1.trans h.2.1, k.2.2.trans h.2.2⟩

theorem State.SameMem.foldl {β : Type} {f : State → β → State} (h : ∀ (s : State) b, s.SameMem (f s b)) (l : List β) (s : State) :
    s.SameMem (l.foldl f s) := by
  induction l generalizing s with
  | nil => exact .refl s
  | cons b l ih => exact (h s b).trans (ih _)

@[simp] theorem State.foldl_hbm {β : Type} {f : State → β → State} (h : ∀ s b, (f s b).hbm = s.hbm) (l : List β) (s : State) :
    (l.foldl f s).hbm = s.hbm := foldl_keeps State.hbm f h l s

@[simp] theorem State.foldl_hostMem {β : Type} {f : State → β → State} (h : ∀ s b, (f s b).hostMem = s.hostMem) (l : List β)
    (s : State) : (l.foldl f s).hostMem = s.hostMem := foldl_keeps State.hostMem f h l s

@[simp] theorem State.foldl_pad {β : Type} {f : State → β → State} (h : ∀ s b, (f s b).pad = s.pad) (l : List β) (s : State) :
    (l.foldl f s).pad = s.pad := foldl_keeps State.pad f h l s

/-- The transfer of a pair that is taken apart keeps what the pair's keeps. -/
theorem Xfer.memOk_of_pair {α : Type} {p : α × Xfer} {a : α} {x : Xfer} (e : p = (a, x)) (h : p.2.s.MemOk) : x.s.MemOk := by
  subst e
  exact h

theorem Xfer.memOk_of_triple {α β : Type} {p : α × β × Xfer} {a : α} {b : β} {x : Xfer} (e : p = (a, b, x))
    (h : p.2.2.s.MemOk) : x.s.MemOk := by
  subst e
  exact h

theorem State.memOk_of_pair {α : Type} {p : α × State} {a : α} {s : State} (e : p = (a, s)) (h : p.2.MemOk) : s.MemOk := by
  subst e
  exact h

theorem State.memOk_of_triple {α β : Type} {p : α × β × State} {a : α} {b : β} {s : State} (e : p = (a, b, s))
    (h : p.2.2.MemOk) : s.MemOk := by
  subst e
  exact h

theorem State.SameMem.of_pair {α : Type} {p : α × State} {a : α} {s t : State} (e : p = (a, t)) (h : s.SameMem p.2) :
    s.SameMem t := by
  subst e
  exact h

theorem State.SameMem.of_triple {α β : Type} {p : α × β × State} {a : α} {b : β} {s t : State} (e : p = (a, b, t))
    (h : s.SameMem p.2.2) : s.SameMem t := by
  subst e
  exact h

theorem State.memOk_of_fst {α : Type} {p : State × α} {a : α} {s : State} (e : p = (s, a)) (h : p.1.MemOk) : s.MemOk := by
  subst e
  exact h

theorem Around.sameMem {s t : State} (h : Around s t) : s.SameMem t := by
  obtain ⟨_, _, _, _, _, _, _, _, _, rfl⟩ := h
  exact ⟨rfl, rfl, rfl⟩

theorem State.MemOk.foldl {β : Type} {f : State → β → State} (hf : ∀ (s : State) b, s.MemOk → (f s b).MemOk) (l : List β)
    {s : State} (h : s.MemOk) : (l.foldl f s).MemOk := by
  induction l generalizing s with
  | nil => exact h
  | cons b l ih => exact ih (hf s b h)

theorem State.MemOk.ite {c : Prop} [Decidable c] {s t : State} (hs : s.MemOk) (ht : t.MemOk) :
    (if c then s else t).MemOk := by
  split
  · exact hs
  · exact ht

theorem State.MemOk.withHbm {s t : State} (h : s.MemOk) (a : Nat) (bs : List Byte) (e1 : t.hbm = Memory.writeBytes s.hbm a bs)
    (e2 : t.hostMem = s.hostMem) (e3 : t.pad = s.pad) : t.MemOk := by
  obtain ⟨h1, h2, h3⟩ := h
  refine ⟨?_, e2 ▸ h2, e3 ▸ h3⟩
  rw [e1]
  exact Memory.wf_writeBytes _ _ _ h1

/-! ### Ops -/

@[simp] theorem State.setThr_mem (s : State) (t : Nat) (th : Thread) : s.SameMem (State.setThr s t th) := ⟨rfl, rfl, rfl⟩

@[simp] theorem State.modThr_mem (s : State) (t : Nat) (f : Thread → Thread) : s.SameMem (State.modThr s t f) := ⟨rfl, rfl, rfl⟩

@[simp] theorem State.wx_mem (s : State) (r : Nat) (v : Word) : s.SameMem (State.wx s r v) := ⟨rfl, rfl, rfl⟩

@[simp] theorem State.wv_mem (s : State) (r : Nat) (v : VWord) : s.SameMem (State.wv s r v) := ⟨rfl, rfl, rfl⟩

@[simp] theorem State.wp_mem (s : State) (r : Nat) (v : PWord) : s.SameMem (State.wp s r v) := ⟨rfl, rfl, rfl⟩

@[simp] theorem State.deferX_mem (s : State) (r : Nat) : s.SameMem (State.deferX s r) := ⟨rfl, rfl, rfl⟩

@[simp] theorem State.deferV_mem (s : State) (r : Nat) : s.SameMem (State.deferV s r) := ⟨rfl, rfl, rfl⟩

@[simp] theorem State.advance_mem (s : State) : s.SameMem (State.advance s) := ⟨rfl, rfl, rfl⟩

@[simp] theorem State.jump_mem (s : State) (pc : Word) : s.SameMem (State.jump s pc) := ⟨rfl, rfl, rfl⟩

@[simp] theorem State.modCore_mem (s : State) (k : Nat) (f : Core → Core) : s.SameMem (State.modCore s k f) := ⟨rfl, rfl, rfl⟩

@[simp] theorem State.modCluster_mem (s : State) (g : Nat) (f : Cluster → Cluster) :
    s.SameMem (State.modCluster s g f) := ⟨rfl, rfl, rfl⟩

@[simp] theorem State.modPart_mem (s : State) (p : Nat) (f : Part → Part) : s.SameMem (State.modPart s p f) := ⟨rfl, rfl, rfl⟩

@[simp] theorem State.countEvent_mem (s : State) (core idx : Nat) : s.SameMem (State.countEvent s core idx) := ⟨rfl, rfl, rfl⟩

@[simp] theorem State.countIf_mem (s : State) (c : Bool) (core idx : Nat) : s.SameMem (State.countIf s c core idx) := by
  unfold State.countIf
  split <;> exact ⟨rfl, rfl, rfl⟩

@[simp] theorem State.postTo_mem (s : State) (fn : Nat) (r : List Word) : s.SameMem (State.postTo s fn r) := ⟨rfl, rfl, rfl⟩

@[simp] theorem State.endRunOf_mem (s : State) (t : Nat) : s.SameMem (State.endRunOf s t) := by
  obtain ⟨ar, h⟩ := s.endRunOf_eq t
  rw [h]
  exact ⟨rfl, rfl, rfl⟩

@[simp] theorem State.forgetMisses_mem (s : State) (t : Nat) : s.SameMem (State.forgetMisses s t) := ⟨rfl, rfl, rfl⟩

@[simp] theorem State.freeze_mem (s : State) (t cls : Nat) (pc : Word) (rec : List Word) :
    s.SameMem (State.freeze s t cls pc rec) := by
  simp [State.SameMem, State.freeze]

@[simp] theorem State.rootTrap_mem (s : State) (t : Nat) (pc : Word) (w0 : Nat) (info : Word) :
    s.SameMem (State.rootTrap s t pc w0 info) := ⟨rfl, rfl, rfl⟩

@[simp] theorem State.postBreach_mem (s : State) (ten part master : Nat) :
    s.SameMem (State.postBreach s ten part master) := ⟨rfl, rfl, rfl⟩

@[simp] theorem State.takeTrap_mem (s : State) (cls detail : Nat) (info : Word) : s.SameMem (State.takeTrap s cls detail info) := by
  obtain ⟨pc, fz, at', rc, co, cl, ar, cq, h⟩ := s.takeTrap_trapped cls detail info
  rw [h]
  exact ⟨rfl, rfl, rfl⟩

@[simp] theorem State.eretTo_mem (s : State) (t : Nat) : s.SameMem (State.eretTo s t) := by
  unfold State.eretTo
  split <;> exact ⟨rfl, rfl, rfl⟩

@[simp] theorem State.take_mem (s : State) (n : Needs) : s.SameMem (State.take s n) := ⟨rfl, rfl, rfl⟩

@[simp] theorem State.parkOn_mem (s : State) (w : Wait) : s.SameMem (State.parkOn s w) := ⟨rfl, rfl, rfl⟩

@[simp] theorem State.issued_mem (s : State) : s.SameMem (State.issued s) := by
  unfold State.issued
  split <;> exact ⟨rfl, rfl, rfl⟩

@[simp] theorem State.addReturn_mem (s : State) (t : Nat) (r : Return) : s.SameMem (State.addReturn s t r) := ⟨rfl, rfl, rfl⟩

@[simp] theorem State.landX_mem (s : State) (t r : Nat) (v : Word) (poison : Bool) : s.SameMem (State.landX s t r v poison) := by
  unfold State.landX
  split <;> exact ⟨rfl, rfl, rfl⟩

@[simp] theorem State.landV_mem (s : State) (t r : Nat) (v : VWord) (poison : Bool) : s.SameMem (State.landV s t r v poison) := by
  unfold State.landV
  split <;> exact ⟨rfl, rfl, rfl⟩

@[simp] theorem State.answerToken_mem (s : State) (t r : Nat) (v : Word) : s.SameMem (State.answerToken s t r v) := by
  simp [State.SameMem, State.answerToken]

/-! ### Braid -/

@[simp] theorem State.braidPop_mem (s : State) (g : Graph) (i : Nat) : s.SameMem (s.braidPop g i).2 := ⟨rfl, rfl, rfl⟩

@[simp] theorem State.braidPush_mem (s : State) (die part ten : Nat) (w : Word) : s.SameMem (State.braidPush s die part ten w) := by
  unfold State.braidPush
  dsimp only
  split <;> simp [State.SameMem]

/-! ### Access -/

@[simp] theorem State.countStack_mem (s : State) (ue : Bool) (unit a : Nat) : s.SameMem (State.countStack s ue unit a) := by
  unfold State.countStack
  split <;> exact ⟨rfl, rfl, rfl⟩

@[simp] theorem State.logError_mem (s : State) (c : Ctx) (ue inj : Bool) (unit addr : Nat) :
    s.SameMem (State.logError s c ue inj unit addr) := by
  obtain ⟨cl, q, n, se, h⟩ := s.logError_eq c ue inj unit addr
  rw [h]
  exact ⟨rfl, rfl, rfl⟩

@[simp] theorem State.rekey_memOk (s : State) (key a n : Nat) (h : s.MemOk) : (s.rekey key a n).MemOk := by
  refine h.foldl (fun s u hs => ?_) _
  split
  · exact hs
  · exact hs.withHbm (16 * u) (s.blockUnder key u) rfl rfl rfl

@[simp] theorem State.logHostError_mem (s : State) (c : Ctx) (addr : Nat) : s.SameMem (State.logHostError s c addr) := by
  simp [State.SameMem, State.logHostError]

@[simp] theorem State.logCache_mem (s : State) (c : Ctx) (e : Nat × Nat) : s.SameMem (State.logCache s c e) := by
  simp [State.SameMem, State.logCache]

@[simp] theorem State.noteRead_mem (s : State) (c : Ctx) (p : Place) (n : Nat) : s.SameMem (State.noteRead s c p n) := by
  unfold State.noteRead
  split <;> simp [State.SameMem]

@[simp] theorem State.raise_mem (s : State) (frame : Nat) : s.SameMem (State.raise s frame) := by
  unfold State.raise
  split <;> exact ⟨rfl, rfl, rfl⟩

@[simp] theorem State.injectHbm_mem (s : State) (g a n : Nat) : s.SameMem (State.injectHbm s g a n) := by
  unfold State.injectHbm
  split <;> exact ⟨rfl, rfl, rfl⟩

@[simp] theorem State.stopCore_mem (s : State) (core : Nat) : s.SameMem (State.stopCore s core) := by
  unfold State.stopCore
  split <;> exact ⟨rfl, rfl, rfl⟩

@[simp] theorem State.writeHbm_memOk (s : State) (c : Ctx) (a : Nat) (bs : List Byte) (h : s.MemOk) :
    (s.writeHbm c a bs).MemOk :=
  (s.writeHbm_around c a bs).sameMem.memOk (h.withHbm a bs rfl rfl rfl)

@[simp] theorem State.zeroHbm_memOk (s : State) (a n : Nat) (h : s.MemOk) : (s.zeroHbm a n).MemOk := by
  obtain ⟨h1, h2, h3⟩ := h
  refine (State.SameMem.foldl State.raise_mem _ _).memOk ((State.SameMem.foldl (fun s g => s.injectHbm_mem g a n) _ _).memOk ?_)
  exact ⟨Memory.wf_filter _ _ h1, h2, h3⟩

@[simp] theorem State.writePad_memOk (s : State) (c : Ctx) (core off : Nat) (bs : List Byte) (h : s.MemOk) :
    (s.writePad c core off bs).MemOk := by
  obtain ⟨h1, h2, h3⟩ := h
  exact (s.writePad_around c core off bs).sameMem.memOk ⟨h1, h2, Memory.wf_writeBytes _ _ _ h3⟩

@[simp] theorem State.writeXreg_mem (s : State) (t r : Nat) (v : Word) : s.SameMem (State.writeXreg s t r v) := by
  unfold State.writeXreg
  split <;> exact ⟨rfl, rfl, rfl⟩

@[simp] theorem State.writeVreg_mem (s : State) (t r : Nat) (v : VWord) : s.SameMem (State.writeVreg s t r v) := by
  unfold State.writeVreg
  split <;> exact ⟨rfl, rfl, rfl⟩

@[simp] theorem State.writeAt_memOk (s : State) (c : Ctx) (p : Place) (bs : List Byte) (h : s.MemOk) :
    (s.writeAt c p bs).MemOk := by
  cases p with
  | hbm a => exact State.writeHbm_memOk _ _ _ _ h
  | page key a =>
    refine .ite h (.ite ((State.stopCore_mem ..).memOk h) ?_)
    exact State.writeHbm_memOk _ _ _ _ (State.rekey_memOk _ _ _ _ h)
  | host a => exact ⟨h.1, Memory.wf_writeBytes _ _ _ h.2.1, h.2.2⟩
  | pad k o => exact State.writePad_memOk _ _ _ _ _ h
  | xreg t r o => exact (State.writeXreg_mem ..).memOk h
  | vreg t r o => exact (State.writeVreg_mem ..).memOk h
  | acc b o => exact h
  | nothing => exact h
  | data bs bad => exact h

@[simp] theorem State.queueMiss_mem (s : State) (g part ten page : Nat) (r : Requester) :
    s.SameMem (State.queueMiss s g part ten page r) := ⟨rfl, rfl, rfl⟩

@[simp] theorem State.miss_mem (s : State) (t va : Nat) : s.SameMem (State.miss s t va) := ⟨rfl, rfl, rfl⟩

@[simp] theorem State.countAccess_memOk (s : State) (c : Ctx) (va : Nat) (l : Leaf) (h : s.MemOk) :
    (State.countAccess s c va l).MemOk := by
  unfold State.countAccess
  dsimp only
  repeat' split
  all_goals simp [State.MemOk, h]

@[simp] theorem State.countLeaf_memOk (s : State) (c : Ctx) (va : Nat) (l : Option Leaf) (h : s.MemOk) :
    (s.countLeaf c va l).MemOk := by
  cases l with
  | none => exact h
  | some l => exact State.countAccess_memOk _ _ _ _ h

theorem foldl_keepsProp {σ β : Type} (P : σ → Prop) {f : σ → β → σ} (hf : ∀ s b, P s → P (f s b)) (l : List β) {s : σ} (h : P s) :
    P (l.foldl f s) := by
  induction l generalizing s with
  | nil => exact h
  | cons b l ih => exact ih (hf s b h)

@[simp] theorem State.countGroups_memOk (s : State) (c : Ctx) (l : List (Nat × Option Leaf)) (h : s.MemOk) :
    (s.countGroups c l).MemOk := by
  refine foldl_keepsProp (fun acc : State × List Nat => acc.1.MemOk) (fun acc e hs => ?_) l h
  repeat' split
  all_goals simp [State.MemOk, hs]

@[simp] theorem State.readParts_mem (s : State) (c : Ctx) (l : List (Place × Nat)) : s.SameMem (s.readParts c l).2.2 := by
  induction l generalizing s with
  | nil => exact .refl s
  | cons e l ih => exact (s.noteRead_mem c e.1 e.2).trans (ih _)

@[simp] theorem State.writeParts_memOk (s : State) (c : Ctx) (l : List (Place × Nat)) (bs : List Byte) (h : s.MemOk) :
    (s.writeParts c l bs).MemOk := by
  induction l generalizing s bs with
  | nil => exact h
  | cons e l ih => exact ih _ _ (State.writeAt_memOk _ _ _ _ h)

@[simp] theorem State.setPadFull_mem (s : State) (core off : Nat) (full : Bool) (holder : Option Nat) :
    s.SameMem (State.setPadFull s core off full holder) := ⟨rfl, rfl, rfl⟩

@[simp] theorem State.readEls_mem (s : State) (c : Ctx) (w : Nat) (l : List (Nat × Place)) (v : VWord) :
    s.SameMem (s.readEls c w l v).2.2 := by
  induction l generalizing s v with
  | nil => exact .refl s
  | cons e l ih => exact (s.noteRead_mem c e.2 (w / 8)).trans (ih _ _)

@[simp] theorem State.perform_memOk (s : State) (t : Nat) (op : MemOp) (h : s.MemOk) : (s.perform t op).MemOk := by
  cases op with
  | load rd n sx parts => exact (State.addReturn_mem ..).memOk (.ite ((s.readParts_mem _ parts).memOk h) ((s.readParts_mem _ parts).memOk h))
  | store v parts => exact State.writeParts_memOk _ _ _ _ h
  | sync k rd v core off lim => exact h
  | ldp rd core off =>
    exact (State.addReturn_mem ..).memOk (.ite ((State.noteRead_mem ..).memOk h) ((State.noteRead_mem ..).memOk h))
  | few full core off => exact .ite h ((State.setPadFull_mem ..).memOk h)
  | amo op o rd before v p =>
    refine .ite ((State.addReturn_mem ..).memOk ?_) ((State.addReturn_mem ..).memOk (State.writeAt_memOk _ _ _ _ ?_))
    · exact (s.noteRead_mem _ p 8).memOk h
    · exact (s.noteRead_mem _ p 8).memOk h
  | vload vd w base els => exact (State.addReturn_mem ..).memOk (.ite ((s.readEls_mem _ w els base).memOk h) ((s.readEls_mem _ w els base).memOk h))
  | vstore w els => exact h.foldl (fun s e hs => State.writeAt_memOk _ _ _ _ hs) _
  | braid w => exact (State.braidPush_mem ..).memOk h

@[simp] theorem State.noteTaken_mem (s : State) (t core off : Nat) : s.SameMem (State.noteTaken s t core off) := by
  simp [State.SameMem, State.noteTaken]

@[simp] theorem State.serve_memOk (s : State) (r : BankReq) (h : s.MemOk) : (s.serve r).MemOk := by
  unfold State.serve
  dsimp only
  split
  · exact (State.setPadFull_mem ..).memOk (State.writePad_memOk _ _ _ _ _ h)
  all_goals simp [State.MemOk, h]

theorem State.serveOne_memOk {s t : State} {l : List (Nat × List BankReq)} (e : s.serveOne l = some t) (h : s.MemOk) : t.MemOk := by
  induction l with
  | nil => cases e
  | cons b l ih =>
    unfold State.serveOne at e
    split at e
    · cases e
      exact State.serve_memOk _ _ h
    · exact ih e

theorem State.releaseOne_memOk {s t : State} {l : List (Nat × Thread)} (e : s.releaseOne l = some t) (h : s.MemOk) : t.MemOk := by
  induction l with
  | nil => cases e
  | cons b l ih =>
    unfold State.releaseOne at e
    split at e
    · cases e
      exact State.perform_memOk _ _ _ h
    · exact ih e

@[simp] theorem State.settleFor_memOk (n : Nat) (s : State) (h : s.MemOk) : (State.settleFor n s).MemOk := by
  induction n generalizing s with
  | zero => exact h
  | succ n ih =>
    unfold State.settleFor
    split
    next s' hs => exact ih s' (State.serveOne_memOk hs h)
    next =>
      split
      next s' hs => exact ih s' (State.releaseOne_memOk hs h)
      next => exact h

@[simp] theorem State.settle_memOk (s : State) (h : s.MemOk) : (State.settle s).MemOk := by
  simp [State.settle, State.MemOk, h]

@[simp] theorem State.readEarly_mem (s : State) (t : Nat) (ps : List (Place × Nat)) (ks : List Nat) :
    s.SameMem (s.readEarly t ps ks).2.2 := by
  induction ps generalizing s ks with
  | nil => exact .refl s
  | cons p ps ih =>
    cases ks with
    | nil => exact .refl s
    | cons k ks =>
      have hs : s.SameMem (if s.spanFree t s.nextAcc k p.1 p.2 then s.noteRead (s.thr t).ctx p.1 p.2 else s) := by
        simp [State.SameMem]
      unfold State.readEarly
      dsimp only
      generalize (if s.spanFree t s.nextAcc k p.1 p.2 then s.noteRead (s.thr t).ctx p.1 p.2 else s) = u at hs ⊢
      split
      · exact hs.trans (ih u ks)
      · exact hs.trans (ih u ks)

@[simp] theorem State.early_mem (s : State) (t : Nat) (op : MemOp) (ks : List Nat) : s.SameMem (s.early t op ks).2.2 := by
  cases op with
  | load rd n sx ps => exact s.readEarly_mem t ps ks
  | vload vd w base els => exact s.readEarly_mem t _ ks
  | store => exact .refl s
  | sync => exact .refl s
  | ldp => exact .refl s
  | few => exact .refl s
  | amo => exact .refl s
  | vstore => exact .refl s
  | braid => exact .refl s

@[simp] theorem State.holdOp_mem (s : State) (t : Nat) (op : MemOp) (ks : List Nat) : s.SameMem (s.holdOp t op ks) :=
  (s.early_mem t op ks).trans ⟨rfl, rfl, rfl⟩

@[simp] theorem State.submit_memOk (s : State) (t : Nat) (op : MemOp) (ks : List Nat) (h : s.MemOk) :
    (s.submit t op ks).MemOk := by
  refine h.foldl (fun s x hs => .ite ?_ ?_) _
  · exact State.settle_memOk _ (State.perform_memOk _ _ _ hs)
  · exact (State.holdOp_mem ..).memOk hs

/-! ### Control -/

@[simp] theorem State.claimWord_mem (s : State) (c : Ctx) (p : Place) : s.SameMem (s.claimWord c p).2 := by
  unfold State.claimWord
  dsimp only
  split <;> simp [State.SameMem]

@[simp] theorem loopWrite_mem (s : State) (rd : Nat) (i : Word) (last : Option Word) : s.SameMem (loopWrite s rd i last) := by
  simp [State.SameMem, loopWrite]

/-! ### Threads -/

@[simp] theorem State.countWords_memOk (s : State) (c : Ctx) (th : Thread) (u : Use) (wr : Bool) (ea : Word) (n : Nat)
    (h : s.MemOk) : (State.countWords s c th u wr ea n).MemOk := by
  simp [State.countWords, State.MemOk, h]

@[simp] theorem State.dropLease_mem (s : State) (t : Nat) : s.SameMem (State.dropLease s t) := by
  unfold State.dropLease
  dsimp only
  split <;> simp [State.SameMem]

@[simp] theorem State.writeStats_memOk (s : State) (recs : List (Nat × Word × List (Place × Nat))) (members : List Nat)
    (h : s.MemOk) : (s.writeStats recs members).MemOk :=
  h.foldl (fun s _ hs => s.writeParts_memOk _ _ _ hs) _

@[simp] theorem State.release_mem (s : State) (t : Nat) (n : Word) : s.SameMem (State.release s t n) := ⟨rfl, rfl, rfl⟩

@[simp] theorem State.tryGroup_memOk (s : State) (key : Nat) (h : s.MemOk) : (State.tryGroup s key).MemOk := by
  unfold State.tryGroup
  repeat' split
  all_goals simp [State.MemOk, h]

@[simp] theorem State.tryPop_memOk (s : State) (id : Nat) (h : s.MemOk) : (State.tryPop s id).MemOk := by
  unfold State.tryPop
  repeat' split
  all_goals simp [State.MemOk, h]

@[simp] theorem State.leaveGroup_memOk (s : State) (t key : Nat) (h : s.MemOk) : (State.leaveGroup s t key).MemOk := by
  unfold State.leaveGroup
  dsimp only
  repeat' split
  all_goals simp [State.MemOk, h]

@[simp] theorem State.endThread_memOk (s : State) (t : Nat) (h : s.MemOk) : (s.endThread t).MemOk := by
  have performed : ∀ (l : List Held) (u : State), u.MemOk → (l.foldl (fun s h => s.perform t h.op) u).MemOk :=
    fun l u hu => hu.foldl (fun s h hs => s.perform_memOk t h.op hs) l
  have left : ∀ (l : List Nat) (u : State), u.MemOk → (l.foldl (fun s k => s.leaveGroup t k) u).MemOk :=
    fun l u hu => hu.foldl (fun s k hs => s.leaveGroup_memOk t k hs) l
  have start : (State.modThr { s with banks := Table.mapVals s.banks fun rs => rs.filter fun r => r.t ≠ t } t
    fun th => { th with heldOps := [] }).MemOk := h
  unfold State.endThread
  extract_lets th core s1 s2 s3 s4 s5 s6 s7 s8 s9
  have h3 : s3.MemOk := performed _ _ start
  have h4 : s4.MemOk := left _ _ h3
  have h6 : s6.MemOk := h4.keep ((State.dropLease_mem ..).trans (State.modCore_mem ..))
  have h7 : s7.MemOk := by
    dsimp only [s7]
    split <;> exact h6
  exact State.settle_memOk _ (State.tryPop_memOk _ _ (h7.keep ⟨rfl, rfl, rfl⟩))

@[simp] theorem State.placeLaunch_mem (s : State) (core part ten : Nat) (addr : Word) (seeds : List Word)
    (pkt : Option (Nat × Nat)) : s.SameMem (s.placeLaunch core part ten addr seeds pkt).2 := ⟨rfl, rfl, rfl⟩

/-! ### Transfer -/

@[simp] theorem State.modEngCtx_mem (s : State) (k : Nat) (f : EngCtx → EngCtx) :
    s.SameMem (State.modEngCtx s k f) := ⟨rfl, rfl, rfl⟩

@[simp] theorem State.noteMiss_mem (s : State) (va c : Nat) : s.SameMem (State.noteMiss s va c) := by
  unfold State.noteMiss
  split <;> exact ⟨rfl, rfl, rfl⟩

@[simp] theorem State.noMiss_mem (s : State) : s.SameMem (State.noMiss s) := ⟨rfl, rfl, rfl⟩

@[simp] theorem State.engMiss_mem (s : State) (k page : Nat) : s.SameMem (State.engMiss s k page) := ⟨rfl, rfl, rfl⟩

@[simp] theorem State.dropAnswers_mem (s : State) (k : Nat) : s.SameMem (State.dropAnswers s k) := by
  unfold State.dropAnswers
  split <;> exact ⟨rfl, rfl, rfl⟩

theorem State.engTry_memOk (s : State) (k : Nat) (f : State → State) (h : s.MemOk) (hf : (f s).MemOk) : (s.engTry k f).MemOk := by
  unfold State.engTry
  dsimp only
  split
  · exact h.keep (State.engMiss_mem ..)
  · exact hf.keep (State.dropAnswers_mem ..)

@[simp] theorem Xfer.count_memOk (x : Xfer) (c : Ctx) (va : Nat) (l : Option Leaf) (h : x.s.MemOk) : (x.count c va l).s.MemOk := by
  cases l with
  | none => exact h
  | some l =>
    have counted : (x.s.countAccess c va l).MemOk := State.countAccess_memOk _ _ _ _ h
    simp only [Xfer.count]
    split
    · exact counted
    · exact h

@[simp] theorem Xfer.read_memOk (e : Eng) (fuel va n : Nat) (x : Xfer) (h : x.s.MemOk) :
    (Xfer.read e fuel va n x).2.s.MemOk := by
  induction fuel generalizing va n x with
  | zero => exact h
  | succ fuel ih =>
    unfold Xfer.read
    split
    · exact h
    · split
      · exact h.keep (State.noteMiss_mem ..)
      · dsimp only
        split
        · exact (Xfer.count_memOk _ _ _ _ h).keep (State.noteRead_mem ..)
        · exact ih _ _ _ ((Xfer.count_memOk _ _ _ _ h).keep (State.noteRead_mem ..))

@[simp] theorem Xfer.readAll_memOk (e : Eng) (va n : Nat) (x : Xfer) (h : x.s.MemOk) : (Xfer.readAll e va n x).2.s.MemOk :=
  Xfer.read_memOk _ _ _ _ _ h

@[simp] theorem Xfer.write_memOk (e : Eng) (u : EngUse) (fuel va : Nat) (bs : List Byte) (x : Xfer) (h : x.s.MemOk) :
    (Xfer.write e u fuel va bs x).s.MemOk := by
  induction fuel generalizing va bs x with
  | zero => exact h
  | succ fuel ih =>
    unfold Xfer.write
    split
    · exact h
    · split
      · exact h.keep (State.noteMiss_mem ..)
      · exact ih _ _ _ (State.writeAt_memOk _ _ _ _ (Xfer.count_memOk _ _ _ _ h))

@[simp] theorem Xfer.writeAll_memOk (e : Eng) (u : EngUse) (va : Nat) (bs : List Byte) (x : Xfer) (h : x.s.MemOk) :
    (Xfer.writeAll e u va bs x).s.MemOk := Xfer.write_memOk _ _ _ _ _ _ h

@[simp] theorem Xfer.move_memOk (e : Eng) (src dst n : Nat) (x : Xfer) (h : x.s.MemOk) : (Xfer.move e src dst n x).s.MemOk := by
  have hz : (Xfer.writeAll e .write dst (Xfer.readAll e src n x).1 { (Xfer.readAll e src n x).2 with code := 0 }).s.MemOk :=
    Xfer.writeAll_memOk _ _ _ _ _ (Xfer.readAll_memOk _ _ _ _ h)
  unfold Xfer.move
  dsimp only
  split <;> exact hz

@[simp] theorem Xfer.rows_memOk (e : Eng) (src dst sstr dstr width fuel o n : Nat) (x : Xfer) (h : x.s.MemOk) :
    (Xfer.rows e src dst sstr dstr width fuel o n x).s.MemOk := by
  induction fuel generalizing o n x with
  | zero => exact h
  | succ fuel ih =>
    unfold Xfer.rows
    dsimp only
    split
    · exact h
    · split
      · exact Xfer.move_memOk _ _ _ _ _ h
      · exact ih _ _ _ (Xfer.move_memOk _ _ _ _ _ h)

@[simp] theorem Xfer.words_memOk (e : Eng) (va n : Nat) (x : Xfer) (h : x.s.MemOk) : (Xfer.words e va n x).2.s.MemOk := by
  unfold Xfer.words
  dsimp only
  split <;> exact Xfer.readAll_memOk _ _ _ _ h

@[simp] theorem State.engWords_memOk (s : State) (e : Eng) (va n : Nat) (h : s.MemOk) : (s.engWords e va n).2.MemOk :=
  Xfer.words_memOk e va n ⟨s, [], 0, 0⟩ h

/-! ### Engine -/

@[simp] theorem State.send_mem (s : State) (f : Flit) : s.SameMem (State.send s f) := by
  unfold State.send
  split <;> exact ⟨rfl, rfl, rfl⟩

@[simp] theorem State.finishReq_mem (s : State) (k : Nat) (status : Word) : s.SameMem (State.finishReq s k status) := by
  unfold State.finishReq
  split <;> simp [State.SameMem]

@[simp] theorem State.sendChunk_mem (s : State) (r : EngReq) (entry : Word) (vc kind step i : Nat) (bs : List Byte) :
    s.SameMem (State.sendChunk s r entry vc kind step i bs) := by
  simp [State.SameMem, State.sendChunk]

@[simp] theorem State.collSend_memOk (s : State) (k : Nat) (r : EngReq) (kind : Nat) (h : s.MemOk) :
    (s.collSend k r kind).s.MemOk := by
  have read := fun a l => Xfer.readAll_memOk (r.eng k) a l ⟨s, r.seen, 0, 0⟩ h
  unfold State.collSend
  dsimp only
  split
  · exact read _ _
  · exact (read _ _).foldl (fun s i hs => .ite hs (hs.keep (State.sendChunk_mem ..))) _

@[simp] theorem State.modHead_mem (s : State) (k : Nat) (f : EngReq → EngReq) : s.SameMem (State.modHead s k f) := ⟨rfl, rfl, rfl⟩

@[simp] theorem State.collStart_memOk (s : State) (k kind fuel : Nat) (h : s.MemOk) : (s.collStart k kind fuel).MemOk := by
  induction fuel generalizing s with
  | zero => exact h
  | succ fuel ih =>
    unfold State.collStart
    split
    next r rest heq =>
      extract_lets d x u
      split
      · exact h
      · have sent : u.MemOk := (State.collSend_memOk s k _ kind h).keep (State.modHead_mem ..)
        split
        · exact sent
        · split
          split
          · exact ih _ (sent.keep (State.modHead_mem ..))
          · exact sent.keep (State.modHead_mem ..)
    next => exact h

@[simp] theorem State.collLocal_memOk (s : State) (k : Nat) (r : EngReq) (kind : Nat) (h : s.MemOk) :
    (State.collLocal s k r kind).s.MemOk := by
  unfold State.collLocal
  dsimp only
  repeat' split
  all_goals simp [State.MemOk, h]

@[simp] theorem State.startHead_memOk (s : State) (k : Nat) (h : s.MemOk) : (s.startHead k).MemOk := by
  unfold State.startHead
  split
  next r rest _ =>
    split
    next kind _ =>
      split
      · exact h
      · refine State.engTry_memOk _ _ _ h ?_
        extract_lets x u
        have hu : u.MemOk := (State.collLocal_memOk _ _ _ _ h).keep (State.modHead_mem ..)
        split
        · exact hu
        · exact State.collStart_memOk _ _ _ _ hu
    all_goals exact h
  next => exact h

@[simp] theorem State.endReq_memOk (s : State) (k : Nat) (status : Word) (h : s.MemOk) : (State.endReq s k status).MemOk := by
  simp [State.endReq, State.MemOk, h]

@[simp] theorem State.acceptDesc_memOk (s : State) (e : Eng) (kind : EngKind) (a : Word) (h : s.MemOk) :
    (s.acceptDesc e kind a).2.2.2.s.MemOk := by
  have hw := Xfer.words_memOk e a.toNat kind.words ⟨s, [], 0, 0⟩ h
  unfold State.acceptDesc
  generalize Xfer.words e a.toNat kind.words ⟨s, [], 0, 0⟩ = p at hw
  obtain ⟨r, x⟩ := p
  cases r with
  | error c => exact hw
  | ok ws => cases kind <;> exact hw

@[simp] theorem State.accept_memOk (s : State) (k q tok : Nat) (kind : EngKind) (a : Word) (h : s.MemOk) :
    (s.accept k q tok kind a).MemOk := by
  have desc : ∀ (c : Bool) (e : Eng), (if c then ([], 15, [], ⟨s, [], 0, 0⟩) else s.acceptDesc e kind a :
      List Word × Nat × List Word × Xfer).2.2.2.s.MemOk := by
    intro c e
    cases c
    · exact State.acceptDesc_memOk _ _ _ _ h
    · exact h
  exact desc (s.engCtx k).frozen ⟨s.me.sid, s.me.part, s.me.ten, 128 + (if q < 4 then 8 + q else 12), some k⟩

@[simp] theorem Xfer.win_memOk (e : Eng) (fuel va : Nat) (bs : List Byte) (regs : List (Place × List Byte)) (x : Xfer) (h : x.s.MemOk) :
    (Xfer.win e fuel va bs regs x).2.s.MemOk := by
  induction fuel generalizing va bs regs x with
  | zero => exact h
  | succ fuel ih =>
    unfold Xfer.win
    split
    · exact h
    · split
      · exact h.keep (State.noteMiss_mem ..)
      · dsimp only
        split
        · exact ih _ _ _ _ (Xfer.count_memOk _ _ _ _ h)
        · exact ih _ _ _ _ (State.writeAt_memOk _ _ _ _ (Xfer.count_memOk _ _ _ _ h))

@[simp] theorem Xfer.copyWin_memOk (e : Eng) (src dst n : Nat) (x : Xfer) (h : x.s.MemOk) :
    (Xfer.copyWin e src dst n x).1.MemOk := by
  have win := fun bs => Xfer.win_memOk e (n + 1) dst bs [] { (Xfer.readAll e src n x).2 with code := 0 } (Xfer.readAll_memOk e src n x h)
  unfold Xfer.copyWin
  dsimp only
  split
  · exact h
  · split
    · exact win _
    · split
      · exact win _
      · exact (win _).foldl (fun s r hs => State.writeAt_memOk _ _ _ _ hs) _

@[simp] theorem Xfer.sendRows_memOk (k : Nat) (r : EngReq) (src dst sstr dstr width fuel o n : Nat) (x : Xfer) (h : x.s.MemOk) :
    (Xfer.sendRows k r src dst sstr dstr width fuel o n x).s.MemOk := by
  induction fuel generalizing o n x with
  | zero => exact h
  | succ fuel ih =>
    have read := fun a l => Xfer.readAll_memOk (r.eng k) a l x h
    unfold Xfer.sendRows
    dsimp only
    repeat' split
    · exact h
    · exact read _ _
    · exact ih _ _ _ (read _ _)
    · exact (read _ _).keep (State.send_mem ..)
    · exact ih _ _ _ ((read _ _).keep (State.send_mem ..))

@[simp] theorem State.cowEntry_memOk (s : State) (k : Nat) (r : EngReq) (h : s.MemOk) : (s.cowEntry k r).1.MemOk := by
  unfold State.cowEntry
  extract_lets
  split
  · exact State.writeHbm_memOk _ _ _ _ h
  · exact h

@[simp] theorem State.copyLocal_memOk (s : State) (k kind lim : Nat) (r : EngReq) (h : s.MemOk) :
    (s.copyLocal k kind lim r).MemOk := by
  unfold State.copyLocal
  extract_lets d total n x
  split
  · exact State.endReq_memOk _ _ _ h
  · split
    · split
      next u st e => exact State.endReq_memOk _ _ _ (State.memOk_of_fst e (Xfer.copyWin_memOk _ _ _ _ _ h))
    · have hx : x.s.MemOk := Xfer.rows_memOk _ _ _ _ _ _ _ _ _ _ h
      split
      · exact State.endReq_memOk _ _ _ hx
      · split
        · exact hx.keep (State.modHead_mem ..)
        · split
          · split
            next u st e => exact State.endReq_memOk _ _ _ (State.memOk_of_fst e (State.cowEntry_memOk _ _ _ hx))
          · exact State.endReq_memOk _ _ _ hx

@[simp] theorem State.copyRemote_memOk (s : State) (k kind lim : Nat) (r : EngReq) (h : s.MemOk) :
    (s.copyRemote k kind lim r).MemOk := by
  unfold State.copyRemote
  extract_lets d total n x
  split
  · exact State.endReq_memOk _ _ _ h
  · split
    · exact h
    · split
      · exact State.endReq_memOk _ _ _ h
      · have hx : x.s.MemOk := Xfer.sendRows_memOk _ _ _ _ _ _ _ _ _ _ _ h
        split
        · exact hx.keep (State.modHead_mem ..)
        · exact (hx.keep (State.send_mem ..)).keep (State.modHead_mem ..)

@[simp] theorem State.runCopy_memOk (s : State) (k kind lim : Nat) (r : EngReq) (h : s.MemOk) :
    (State.runCopy s k kind lim r).MemOk := by
  unfold State.runCopy
  repeat' split
  all_goals simp [State.MemOk, h]

@[simp] theorem Xfer.walk_memOk (e : Eng) (v : View) (dst kvb blkb loff pos0 pb fuel i : Nat) (got : Option (Nat × Nat)) (n : Nat)
    (x : Xfer) (h : x.s.MemOk) : (Xfer.walk e v dst kvb blkb loff pos0 pb fuel i got n x).2.2.s.MemOk := by
  induction fuel generalizing i got n x with
  | zero => exact h
  | succ fuel ih =>
    unfold Xfer.walk
    dsimp only
    split
    · split
      · exact Xfer.writeAll_memOk _ _ _ _ _ h
      · exact ih _ _ _ _ (Xfer.writeAll_memOk _ _ _ _ _ h)
    · split
      · exact h
      · split
        · exact h
        · split
          · exact Xfer.move_memOk _ _ _ _ _ h
          · exact ih _ _ _ _ (Xfer.move_memOk _ _ _ _ _ h)

@[simp] theorem State.runWalk_memOk (s : State) (k lim : Nat) (r : EngReq) (h : s.MemOk) : (s.runWalk k lim r).MemOk := by
  unfold State.runWalk
  extract_lets w e view
  split
  · exact State.endReq_memOk _ _ _ h
  · split
    next bytes got x eq =>
      have hx : x.s.MemOk := Xfer.memOk_of_triple eq (Xfer.walk_memOk _ _ _ _ _ _ _ _ _ _ _ _ _ h)
      split
      · exact State.endReq_memOk _ _ _ hx
      · split
        · exact hx.keep (State.modHead_mem ..)
        · exact State.endReq_memOk _ _ _ hx

@[simp] theorem Xfer.gatherRows_memOk (e : Eng) (src dst idx rstr rb fuel o n : Nat) (x : Xfer) (h : x.s.MemOk) :
    (Xfer.gatherRows e src dst idx rstr rb fuel o n x).s.MemOk := by
  induction fuel generalizing o n x with
  | zero => exact h
  | succ fuel ih =>
    have read := fun a l => Xfer.readAll_memOk e a l x h
    unfold Xfer.gatherRows
    dsimp only
    split
    · exact h
    · split
      · exact read _ _
      · split
        · exact Xfer.move_memOk _ _ _ _ _ (read _ _)
        · exact ih _ _ _ (Xfer.move_memOk _ _ _ _ _ (read _ _))

@[simp] theorem State.runRows_memOk (s : State) (k lim : Nat) (r : EngReq) (h : s.MemOk) : (s.runRows k lim r).MemOk := by
  unfold State.runRows
  extract_lets w rb total idx bad n x
  split
  · exact State.endReq_memOk _ _ _ h
  · have hx : x.s.MemOk := Xfer.gatherRows_memOk _ _ _ _ _ _ _ _ _ _ h
    split
    · exact State.endReq_memOk _ _ _ hx
    · split
      · exact hx.keep (State.modHead_mem ..)
      · exact State.endReq_memOk _ _ _ hx

@[simp] theorem State.runGather_memOk (s : State) (k lim : Nat) (rows : Bool) (r : EngReq) (h : s.MemOk) :
    (State.runGather s k lim rows r).MemOk := by
  unfold State.runGather
  repeat' split
  all_goals simp [State.MemOk, h]

@[simp] theorem State.engStep_memOk (s : State) (k : Nat) (h : s.MemOk) : (s.engStep k).MemOk := by
  have start : s.noMiss.MemOk := h.keep (State.noMiss_mem ..)
  unfold State.engStep
  split
  · split
    · exact h
    · split
      · split
        · exact h
        · exact State.engTry_memOk _ _ _ start (State.runCopy_memOk _ _ _ _ _ start)
      · exact State.engTry_memOk _ _ _ start (State.runGather_memOk _ _ _ _ _ start)
      · exact h
  · exact h

@[simp] theorem State.sendAck_mem (s : State) (f : Flit) (op code : Nat) : s.SameMem (State.sendAck s f op code) := by
  simp [State.SameMem, State.sendAck]

@[simp] theorem State.takeChunk_memOk (s : State) (k kind : Nat) (r : EngReq) (f : Flit) (h : s.MemOk) :
    (s.takeChunk k kind r f).MemOk := by
  unfold State.takeChunk
  split
  next =>
    extract_lets u d
    have hu : u.MemOk := h
    split
    next a l own _ =>
      extract_lets lo n
      split
      · exact (hu.keep (State.sendAck_mem ..)).keep (State.modHead_mem ..)
      · split
        next mine x eq =>
          have hx : x.s.MemOk := by
            refine Xfer.memOk_of_pair eq ?_
            split
            · exact Xfer.readAll_memOk _ _ _ _ hu
            · exact hu
          extract_lets out y code v
          have hy : y.s.MemOk := Xfer.writeAll_memOk _ _ _ _ { x with code := 0 } hx
          have hv : v.MemOk := hy.keep (State.modHead_mem ..)
          split
          · exact hv
          · split
            · exact hv.keep (State.modHead_mem ..)
            · exact State.collStart_memOk _ _ _ _ (hv.keep (State.modHead_mem ..))
  all_goals exact h

@[simp] theorem State.endColl_memOk (s : State) (k kind : Nat) (r : EngReq) (h : s.MemOk) : (s.endColl k kind r).MemOk := by
  unfold State.endColl
  extract_lets d bytes x0 x y
  have hx : x.s.MemOk := by
    dsimp only [x]
    split
    · exact Xfer.move_memOk _ _ _ _ _ h
    · exact h
  split
  · exact State.endReq_memOk _ _ _ h
  · split
    · exact State.endReq_memOk _ _ _ hx
    · exact State.endReq_memOk _ _ _ (Xfer.writeAll_memOk _ _ _ _ _ hx)

@[simp] theorem State.failWrite_mem (s : State) (f : Flit) (op code : Nat) :
    s.SameMem (State.failWrite s f op code) := ⟨rfl, rfl, rfl⟩

@[simp] theorem State.keepGroups_mem (s : State) (f : Flit) (op : Nat) (seen : List Nat) :
    s.SameMem (State.keepGroups s f op seen) := by
  unfold State.keepGroups
  split <;> exact ⟨rfl, rfl, rfl⟩

@[simp] theorem State.forgetWrites_mem (s : State) (f : Flit) (op : Nat) : s.SameMem (State.forgetWrites s f op) := ⟨rfl, rfl, rfl⟩

@[simp] theorem State.deliver_memOk (s : State) (f : Flit) (h : s.MemOk) : (State.deliver s f).MemOk := by
  unfold State.deliver
  repeat' split
  all_goals simp [State.MemOk, h]

@[simp] theorem State.refuseKey_mem (s : State) (f : Flit) : s.SameMem (State.refuseKey s f) := by
  unfold State.refuseKey
  split <;> simp [State.SameMem]

@[simp] theorem State.readGraph_memOk (s : State) (e : Eng) (t tok a : Nat) (h : s.MemOk) : (s.readGraph e t tok a).2.MemOk := by
  unfold State.readGraph
  split
  next r x eq =>
    have hx : x.s.MemOk := Xfer.memOk_of_pair eq (Xfer.words_memOk _ _ _ _ h)
    split
    · exact hx
    · extract_lets n
      split
      · exact hx
      · split
        next ws y eq =>
          have hy : y.s.MemOk := Xfer.memOk_of_pair eq (Xfer.words_memOk _ _ _ _ hx)
          split
          · exact hy
          · split <;> exact hy

/-! ### Vector -/

@[simp] theorem State.startNorm_mem (s : State) (core : Nat) (j : NormJob) (due : Nat) :
    s.SameMem (State.startNorm s core j due) := by
  unfold State.startNorm
  dsimp only
  split <;> simp [State.SameMem]

@[simp] theorem State.waitNorm_mem (s : State) (core : Nat) (j : NormJob) : s.SameMem (State.waitNorm s core j) := by
  unfold State.waitNorm
  split <;> exact ⟨rfl, rfl, rfl⟩

@[simp] theorem State.callNorm_mem (s : State) (core : Nat) (j : NormJob) : s.SameMem (State.callNorm s core j) := by
  unfold State.callNorm
  dsimp only
  split <;> simp [State.SameMem]

@[simp] theorem State.finishV_mem (s : State) (vd : Nat) (o : VOut) : s.SameMem (State.finishV s vd o) := by
  simp [State.SameMem, State.finishV]

@[simp] theorem State.countEls_memOk (s : State) (c : Ctx) (els : List (Nat × Place × Nat × Option Leaf)) (h : s.MemOk) :
    (State.countEls s c els).MemOk := by
  simp [State.countEls, State.MemOk, h]

/-! ### Special -/

@[simp] theorem State.landSfu_mem (s : State) (t vd : Nat) (v : VWord) (w : Word) : s.SameMem (State.landSfu s t vd v w) := by
  simp [State.SameMem, State.landSfu]

@[simp] theorem State.landPlain_mem (s : State) (core : Nat) (r : SfuReq) : s.SameMem (State.landPlain s core r) := by
  simp [State.SameMem, State.landPlain]

@[simp] theorem State.landWaiting_mem (s : State) (core : Nat) : s.SameMem (State.landWaiting s core) := by
  simp [State.SameMem, State.landWaiting]

/-! ### Sys -/

@[simp] theorem State.numberRecord_mem (s : State) (core : Nat) (old new : List Word) :
    s.SameMem (State.numberRecord s core old new) := by
  unfold State.numberRecord
  split <;> simp [State.SameMem]

/-! ### Residency -/

@[simp] theorem State.modRes_mem (s : State) (part h : Nat) (f : Residency → Residency) :
    s.SameMem (State.modRes s part h f) := ⟨rfl, rfl, rfl⟩

theorem State.makeRoom_mem {s t : State} {g part ten n fuel : Nat} (e : s.makeRoom g part ten n fuel = some t) : s.SameMem t := by
  induction fuel generalizing s with
  | zero =>
    unfold State.makeRoom at e
    split at e
    · exact Option.some.inj e ▸ .refl s
    · cases e
  | succ fuel ih =>
    unfold State.makeRoom at e
    split at e
    · exact Option.some.inj e ▸ .refl s
    · split at e
      · exact (State.modRes_mem ..).trans (ih e)
      · cases e

theorem State.room_mem {s t : State} {g part ten n : Nat} (e : s.room g part ten n = some t) : s.SameMem t := State.makeRoom_mem e

@[simp] theorem State.useRes_mem (s : State) (part h : Nat) : s.SameMem (State.useRes s part h) := ⟨rfl, rfl, rfl⟩

@[simp] theorem State.markRsrc_memOk (s : State) (c : Ctx) (on : Bool) (leaf : Nat × Leaf) (h : s.MemOk) :
    (State.markRsrc s c on leaf).MemOk := by
  unfold State.markRsrc
  dsimp only
  split <;> simp [State.MemOk, h]

@[simp] theorem State.register_memOk (s : State) (c : Ctx) (ps : List (Nat × Leaf)) (h : s.MemOk) : (s.register c ps).MemOk := by
  have marked : (ps.foldl (fun s p => s.markRsrc c true p) s).MemOk := h.foldl (fun s p hs => State.markRsrc_memOk _ _ _ _ hs) ps
  exact marked

@[simp] theorem State.unregister_memOk (s : State) (c : Ctx) (frames : List Nat) (leaves : List (Nat × Leaf)) (h : s.MemOk) :
    (s.unregister c frames leaves).MemOk := by
  unfold State.unregister
  extract_lets kept keptLeaf u
  have hu : u.MemOk := h
  exact hu.foldl (fun s l hs => .ite hs (State.markRsrc_memOk _ _ _ _ hs)) _

@[simp] theorem Xfer.readRuns_memOk (e : Eng) (rs : List (Nat × Nat)) (x : Xfer) (h : x.s.MemOk) :
    (Xfer.readRuns e rs x).2.s.MemOk := by
  induction rs generalizing x with
  | nil => exact h
  | cons r rs ih => exact ih _ (Xfer.readAll_memOk e r.1 r.2 { x with code := 0 } h)

@[simp] theorem readColumn_memOk (e : Eng) (d : Tensor) (c : Nat) (x : Xfer) (h : x.s.MemOk) : (readColumn e d c x).2.s.MemOk :=
  Xfer.readRuns_memOk _ _ _ h

@[simp] theorem readEach_memOk (e : Eng) (d : Tensor) (n c : Nat) (x : Xfer) (h : x.s.MemOk) : (readEach e d n c x).2.s.MemOk := by
  induction n generalizing c x with
  | zero => exact h
  | succ n ih =>
    unfold readEach
    split
    next col y eq =>
      have hy : y.s.MemOk := Xfer.memOk_of_pair eq (readColumn_memOk _ _ _ _ h)
      split
      · exact hy
      · exact ih _ _ hy

@[simp] theorem readColumns_memOk (e : Eng) (d : Tensor) (n c : Nat) (s : State) (h : s.MemOk) : (readColumns e d n c s).2.MemOk :=
  readEach_memOk e d n c ⟨s, [], 0, 0⟩ h

@[simp] theorem State.loadWeights_mem (s : State) (part h : Nat) (cols : List (List Nat × List Nat)) :
    s.SameMem (State.loadWeights s part h cols) := ⟨rfl, rfl, rfl⟩

@[simp] theorem State.modMmuls_mem (s : State) (part h : Nat) (f : ArrayCmd → ArrayCmd) :
    s.SameMem (State.modMmuls s part h f) := by
  unfold State.modMmuls
  split <;> exact ⟨rfl, rfl, rfl⟩

@[simp] theorem State.abandonStalled_mem (s : State) (part h : Nat) : s.SameMem (State.abandonStalled s part h) := by
  simp [State.SameMem, State.abandonStalled]

@[simp] theorem State.abandonHead_mem (s : State) (g : Nat) : s.SameMem (State.abandonHead s g) := by
  unfold State.abandonHead
  split <;> exact ⟨rfl, rfl, rfl⟩

@[simp] theorem State.resumeStalled_mem (s : State) (part h : Nat) (d : Tensor) (p : Nat → Bool) :
    s.SameMem (State.resumeStalled s part h d p) := by
  simp [State.SameMem, State.resumeStalled]

@[simp] theorem State.startCommand_mem (s : State) (g : Nat) : s.SameMem (State.startCommand s g) := by
  unfold State.startCommand
  repeat' split
  all_goals simp [State.SameMem]

@[simp] theorem State.answerRes_mem (s : State) (r : ResReq) (status : Word) : s.SameMem (State.answerRes s r status) := by
  simp [State.SameMem, State.answerRes]

@[simp] theorem State.landRes_mem (s : State) (r : ResReq) (status : Word) : s.SameMem (State.landRes s r status) := by
  simp [State.SameMem, State.landRes]

@[simp] theorem State.abandonFill_memOk (s : State) (part n : Nat) (h : s.MemOk) : (s.abandonFill part n).MemOk := by
  unfold State.abandonFill
  split
  · exact (State.unregister_memOk _ _ _ _ (h.keep (State.modRes_mem ..))).keep
      (((State.answerRes_mem ..).trans (State.abandonStalled_mem ..)).trans (State.startCommand_mem ..))
  · exact h

@[simp] theorem State.abandonRefill_mem (s : State) (part h : Nat) : s.SameMem (State.abandonRefill s part h) := by
  unfold State.abandonRefill
  split <;> simp [State.SameMem]

@[simp] theorem State.startFill_memOk (s : State) (part n : Nat) (req : ResReq) (ten : Nat) (src : List Word) (h : s.MemOk) :
    (s.startFill part n req ten src).MemOk := by
  unfold State.startFill
  split
  · exact h.keep (State.answerRes_mem ..)
  next r _ =>
    extract_lets room
    split
    · exact h.keep (State.answerRes_mem ..)
    · exact h.keep (State.answerRes_mem ..)
    next u ps eq _ =>
      have hu : u.MemOk := by
        dsimp only [room] at eq
        split at eq
        · exact h.keep (State.room_mem eq)
        · cases eq
          exact h
      exact (State.register_memOk _ _ _ hu).keep (State.modRes_mem ..)

theorem State.actRes_memOk {s t : State} {r : Residency} {q : ResReq} (e : s.actRes r q = some t) (h : s.MemOk) : t.MemOk := by
  have answered : ∀ (u : State) w v, u.MemOk → (u.answerRes w v).MemOk := fun u w v hu => hu.keep (State.answerRes_mem ..)
  unfold State.actRes at e
  split at e
  · split at e
    · cases e
    · extract_lets d at e
      split at e
      · cases e
        exact answered _ _ _ h
      · split at e
        · cases e
          exact answered _ _ _ h
        · cases e
          exact State.startFill_memOk _ _ _ _ _ _ h
  · split at e
    · cases e
      exact State.startFill_memOk _ _ _ _ _ _ h
    · cases e
      exact answered _ _ _ (h.keep (State.modRes_mem ..))
  · cases e
    exact answered _ _ _ (h.keep (State.modRes_mem ..))
  · split at e
    · cases e
    · cases e
      have gone := (State.unregister_memOk { s with residencies := s.residencies.filter fun x => x.part ≠ r.part || x.handle ≠ r.handle }
        r.eng.ctx (r.gens.map (·.1)) r.leaves h).foldl (fun u w hu => answered u w (resErr 1) hu) (r.reqs.filter (· ≠ q))
      exact (answered _ q (word r.pages) gone).keep (State.startCommand_mem ..)
  · cases e
    exact answered _ _ _ h

@[simp] theorem State.pumpRes_memOk (s : State) (part n fuel : Nat) (h : s.MemOk) : (s.pumpRes part n fuel).MemOk := by
  induction fuel generalizing s with
  | zero => exact h
  | succ fuel ih =>
    unfold State.pumpRes
    split
    · exact h
    · split
      · exact h
      next q rest _ =>
        extract_lets u
        have hu : u.MemOk := .ite (State.abandonFill_memOk _ _ _ h) h
        split
        · exact hu
        next v e => exact ih _ ((State.actRes_memOk e hu).keep (State.modRes_mem ..))

@[simp] theorem State.pump_memOk (s : State) (part n : Nat) (h : s.MemOk) : (s.pump part n).MemOk := State.pumpRes_memOk _ _ _ _ h

@[simp] theorem State.allocRes_mem (s : State) (g n : Nat) (pin auto : Bool) : s.SameMem (s.allocRes g n pin auto).2 := by
  unfold State.allocRes
  split
  extract_lets
  split
  · exact .refl s
  · split
    · exact .refl s
    · split
      · exact .refl s
      · split
        · exact .refl s
        next u e =>
          have hu : s.SameMem u := State.room_mem e
          exact hu

@[simp] theorem State.requestRes_memOk (s : State) (op tok : Nat) (w : Word) (h : s.MemOk) : (s.requestRes op tok w).MemOk := by
  unfold State.requestRes
  split
  extract_lets
  split
  · exact h.keep (State.answerRes_mem ..)
  · split
    · exact h.keep (State.answerRes_mem ..)
    · split
      · exact State.pump_memOk _ _ _ (State.MemOk.keep
          (.ite ((State.abandonFill_memOk _ _ _ h).keep (State.abandonRefill_mem ..)) h) (State.modRes_mem ..))
      next r _ _ =>
        cases e : s.actRes r ⟨op, s.cur, s.me.sid, tok, _, _, _⟩ with
        | none => exact h
        | some t => exact State.actRes_memOk e h

theorem State.refillRoom_mem {s t : State} {r : Residency} (e : s.refillRoom r = some t) : s.SameMem t := by
  unfold State.refillRoom at e
  split at e
  · exact State.room_mem e
  · cases e
    exact .refl s

@[simp] theorem State.refill_memOk (s : State) (r : Residency) (h : s.MemOk) : (s.refill r).1.MemOk := by
  have room : ∀ u : State, u.MemOk → ((u.refillRoom r).getD u).MemOk := by
    intro u hu
    cases e : u.refillRoom r with
    | none => exact hu
    | some t => exact hu.keep (State.refillRoom_mem e)
  unfold State.refill
  extract_lets d e
  split
  · split
    next u eq => exact State.memOk_of_pair eq (readColumns_memOk _ _ _ _ _ h)
    next cols u eq =>
      have hu : u.MemOk := State.memOk_of_pair eq (readColumns_memOk _ _ _ _ _ h)
      exact (State.unregister_memOk _ _ _ _ ((State.register_memOk _ _ _ (room u hu)).keep (State.modRes_mem ..))).keep
        (State.loadWeights_mem ..)
  · exact h

/-! ### Matrix -/

@[simp] theorem State.modArr_mem (s : State) (g : Nat) (f : ArrayState → ArrayState) :
    s.SameMem (State.modArr s g f) := ⟨rfl, rfl, rfl⟩

@[simp] theorem State.clearBank_mem (s : State) (g b : Nat) : s.SameMem (State.clearBank s g b) := ⟨rfl, rfl, rfl⟩

@[simp] theorem State.loadBank_mem (s : State) (g b : Nat) (els : Table (BitVec 32)) :
    s.SameMem (State.loadBank s g b els) := ⟨rfl, rfl, rfl⟩

@[simp] theorem State.answerWaiting_mem (s : State) (g t l : Nat) : s.SameMem (State.answerWaiting s g t l) := by
  simp [State.SameMem, State.answerWaiting]

@[simp] theorem State.acceptCmd_mem (s : State) (l : Nat) (op : ArrayOp) (stall : Nat) :
    s.SameMem (State.acceptCmd s l op stall) := by
  simp [State.SameMem, State.acceptCmd]

@[simp] theorem State.operandBytes_mem (s : State) (c : Ctx) (part ten sid a n : Nat) :
    s.SameMem (s.operandBytes c part ten sid a n).2.2 := by
  refine foldl_keepsProp (fun acc : List Nat × Bool × State => s.SameMem acc.2.2) (fun acc i hs => ?_) _ (.refl s)
  obtain ⟨bs, bad, u⟩ := acc
  refine iteInduction (motive := fun acc : List Nat × Bool × State => s.SameMem acc.2.2) (fun _ => hs) fun _ => ?_
  split
  · exact State.SameMem.trans hs (.foldl (fun s e => State.logError_mem ..) _ _)
  · exact hs

@[simp] theorem State.readStrips_mem (s : State) (c : ArrayCmd) (d : Tensor) (j0 nb : Nat) (rs : List Nat) :
    s.SameMem (s.readStrips c d j0 nb rs).2 := by
  induction rs generalizing s with
  | nil => exact .refl s
  | cons r rs ih =>
    unfold State.readStrips
    split
    next ws b1 u eq =>
      have hu : s.SameMem u := (State.SameMem.of_triple eq (State.operandBytes_mem ..))
      split
      next sc b2 v eq => exact (hu.trans (State.SameMem.of_triple eq (State.operandBytes_mem ..))).trans (ih v)

@[simp] theorem State.setAcc_mem (s : State) (bank i v : Nat) : s.SameMem (State.setAcc s bank i v) := by
  unfold State.setAcc
  split <;> exact ⟨rfl, rfl, rfl⟩

@[simp] theorem State.rowPass_mem (s : State) (p bank m : Nat) (a : Strip) (c : Nat) (l : List Strip) (n o : Bool) :
    s.SameMem (s.rowPass p bank m a c l n o).1 := by
  induction l generalizing s c n o with
  | nil => exact .refl s
  | cons b l ih => exact (State.setAcc_mem ..).trans (ih _ _ _ _)

@[simp] theorem State.rowsPass_mem (s : State) (p bank : Nat) (cols : List Strip) (m : Nat) (l : List Strip) (n o : Bool) :
    s.SameMem (s.rowsPass p bank cols m l n o).1 := by
  induction l generalizing s m n o with
  | nil => exact .refl s
  | cons a l ih => exact (State.rowPass_mem ..).trans (ih _ _ _ _)

@[simp] theorem State.doPass_mem (s : State) (g : Nat) (c : ArrayCmd) : s.SameMem (s.doPass g c).1 := by
  unfold State.doPass
  split
  next st n p k nn nx nt kch0 kcn row0 m ra rb _ =>
    extract_lets bank j0 nb cols
    split
    next as u e =>
      have hu : s.SameMem u := .of_pair e (State.readStrips_mem ..)
      split
      next bs v e2 =>
        have hv : s.SameMem v := by
          refine .of_pair e2 (hu.trans ?_)
          split
          · exact State.readStrips_mem ..
          · split
            · dsimp only
              split
              · exact .refl u
              · exact State.logError_mem ..
            · exact .refl u
        refine State.SameMem.trans ?_ (State.rowsPass_mem ..)
        split
        · exact hv.trans (State.modArr_mem ..)
        · exact hv
  all_goals exact .refl s

@[simp] theorem Xfer.drainRow_memOk (e : Eng) (f : Fmt) (bank m a n fuel c : Nat) (x : Xfer) (h : x.s.MemOk) :
    (Xfer.drainRow e f bank m a n fuel c x).s.MemOk := by
  induction fuel generalizing c x with
  | zero => exact h
  | succ fuel ih =>
    unfold Xfer.drainRow
    split
    split
    · exact h.keep (State.noteMiss_mem ..)
    · exact ih _ _ (Xfer.writeAll_memOk _ _ _ _ _ h)

@[simp] theorem Xfer.drain_memOk (e : Eng) (f : Fmt) (bank : Nat) (d : Tensor) (row0 n fuel m : Nat) (x : Xfer) (h : x.s.MemOk) :
    (Xfer.drain e f bank d row0 n fuel m x).s.MemOk := by
  induction fuel generalizing m x with
  | zero => exact h
  | succ fuel ih =>
    unfold Xfer.drain
    extract_lets y
    have hy : y.s.MemOk := Xfer.drainRow_memOk _ _ _ _ _ _ _ _ _ h
    split
    · exact hy
    · exact ih _ _ hy

@[simp] theorem State.runDrain_memOk (s : State) (g : Nat) (c : ArrayCmd) (row0 m : Nat) (r : List Word) (h : s.MemOk) :
    (s.runDrain g c row0 m r).1.MemOk := Xfer.drain_memOk _ _ _ _ _ _ _ _ _ h

@[simp] theorem State.endCommand_memOk (s : State) (g : Nat) (c : ArrayCmd) (h : s.MemOk) : (s.endCommand g c).MemOk := by
  unfold State.endCommand
  split
  · exact (h.keep (State.clearBank_mem ..)).keep (State.modArr_mem ..)
  · exact (State.runDrain_memOk _ _ _ _ _ _ h).keep (State.landX_mem ..)
  · split
    · exact h.keep (State.modArr_mem ..)
    · exact h.keep ((State.countIf_mem ..).trans (State.countIf_mem ..))

@[simp] theorem State.saveBanks_mem (s : State) (g : Nat) : s.SameMem (State.saveBanks s g) := by
  simp [State.SameMem, State.saveBanks]

/-! ### Translate -/

@[simp] theorem State.tell_memOk (s : State) (a : Answer) (w : Requester) (h : s.MemOk) : (s.tell a w).MemOk := by
  cases w with
  | thread t => exact .ite h h
  | engine k => exact State.startHead_memOk _ _ (h.keep (State.modEngCtx_mem ..))

@[simp] theorem State.tellWaiters_memOk (s : State) (m : Miss) (a : Answer) (h : s.MemOk) : (s.tellWaiters m a).MemOk :=
  h.foldl (fun _ _ hs => State.tell_memOk _ _ _ hs) _

@[simp] theorem State.admitNext_mem (s : State) (g : Nat) : s.SameMem (s.admitNext g) := by
  refine .foldl (fun s r => ?_) _ _
  split
  · split
    · exact State.engMiss_mem ..
    · exact State.modCluster_mem ..
  · exact .refl s

@[simp] theorem State.fillTlbs_memOk (s : State) (g : Nat) (m : Miss) (l : Leaf) (h : s.MemOk) : (s.fillTlbs g m l).MemOk := by
  refine State.MemOk.foldl (fun s q hs => State.tellWaiters_memOk _ _ _ (hs.keep (.foldl (fun s w => ?_) _ _))) _
    (h.keep (State.modCluster_mem ..))
  cases w with
  | thread t =>
    dsimp only
    split <;> exact ⟨rfl, rfl, rfl⟩
  | engine k => exact .refl s

@[simp] theorem State.noteWalk_mem (s : State) (g : Nat) (m : Miss) : s.SameMem (State.noteWalk s g m) := by
  simp [State.SameMem, State.noteWalk]

@[simp] theorem State.invalidate_mem (s : State) (p : Nat) (i : Inval) : s.SameMem (State.invalidate s p i) := ⟨rfl, rfl, rfl⟩

@[simp] theorem State.writePtroot_mem (s : State) (p n : Nat) (v : Word) : s.SameMem (State.writePtroot s p n v) := ⟨rfl, rfl, rfl⟩

@[simp] theorem State.writeXinv_mem (s : State) (p : Nat) (v : Word) : s.SameMem (State.writeXinv s p v) := by
  unfold State.writeXinv
  split <;> exact ⟨rfl, rfl, rfl⟩

@[simp] theorem State.writeXlat_mem (s : State) (p sel : Nat) (v : Word) : s.SameMem (State.writeXlat s p sel v) := by
  simp [State.SameMem, State.writeXlat]

/-! ### Launch -/

@[simp] theorem State.modSubq_mem (s : State) (q : Nat) (f : SubQ → SubQ) : s.SameMem (State.modSubq s q f) := ⟨rfl, rfl, rfl⟩

@[simp] theorem State.drainPackets_mem (s : State) (q n : Nat) : s.SameMem (s.drainPackets q n) := by
  induction n generalizing s with
  | zero => exact .refl s
  | succ n ih =>
    unfold State.drainPackets
    split
    · split
      · refine State.SameMem.trans ?_ (ih _)
        split <;> exact ⟨rfl, rfl, rfl⟩
      · exact .refl s
    · exact .refl s

@[simp] theorem State.completePacket_mem (s : State) (pk : Nat × Nat) (st : Word) : s.SameMem (s.completePacket pk st) :=
  (State.modSubq_mem ..).trans (State.drainPackets_mem ..)

@[simp] theorem State.completeIf_mem (s : State) (pk : Option (Nat × Nat)) (st : Word) : s.SameMem (State.completeIf s pk st) := by
  unfold State.completeIf
  split <;> simp [State.SameMem]

@[simp] theorem State.recordWord_memOk (s : State) (e : Eng) (va : Nat) (h : s.MemOk) : (s.recordWord e va).2.MemOk := by
  unfold State.recordWord
  split
  next r u eq =>
    have hu : u.MemOk := State.memOk_of_pair eq (State.engWords_memOk _ _ _ _ h)
    split <;> exact hu

@[simp] theorem State.recordWords_memOk (s : State) (e : Eng) (va n : Nat) (h : s.MemOk) : (s.recordWords e va n).2.MemOk := by
  induction n generalizing s va with
  | zero => exact h
  | succ n ih => exact ih _ _ (State.recordWord_memOk _ _ _ h)

@[simp] theorem State.rootStf_memOk (s : State) (root core off : Nat) (v : Word) (h : s.MemOk) :
    (State.rootStf s root core off v).MemOk := by
  simp [State.rootStf, State.MemOk, h]

@[simp] theorem State.discardEntry_mem (s : State) (core pop : Nat) : s.SameMem (State.discardEntry s core pop) := ⟨rfl, rfl, rfl⟩

theorem State.takeUp_memOk {s t : State} {core : Nat} {e : LaunchEntry} (h : s.MemOk) (eq : s.takeUp core e = some t) :
    t.MemOk := by
  unfold State.takeUp at eq
  extract_lets eng at eq
  split at eq
  next rs u er =>
    have hu : u.MemOk := State.memOk_of_pair er (State.recordWords_memOk _ _ _ _ h)
    extract_lets ws done donePl u1 u2 u3 at eq
    split at eq
    · cases eq
      exact hu
    · split at eq
      · cases eq
      · split at eq
        · cases eq
          split
          · exact hu.keep ((State.modCore_mem ..).trans (State.discardEntry_mem ..))
          · exact hu
        · cases eq
          refine State.MemOk.keep ?_ (State.completeIf_mem ..)
          have gone := hu.keep (State.discardEntry_mem u core e.pop)
          dsimp only [u3]
          clear_value donePl
          split
          · exact State.rootStf_memOk _ _ _ _ _ gone
          · exact gone

@[simp] theorem State.moveEntries_mem (s : State) (src dst n : Nat) : s.SameMem (State.moveEntries s src dst n) := ⟨rfl, rfl, rfl⟩

@[simp] theorem State.balanceCore_mem (s : State) (traded : Nat → Nat) (core : Nat) : s.SameMem (s.balanceCore traded core) := by
  refine foldl_keepsProp (fun acc : State × Nat => s.SameMem acc.1) (fun acc nb hs => ?_) _ (.refl s)
  obtain ⟨u, own⟩ := acc
  exact iteInduction (motive := fun acc : State × Nat => s.SameMem acc.1)
    (fun _ => State.SameMem.trans hs (State.moveEntries_mem ..)) fun _ => hs

@[simp] theorem State.kernelPost_mem (s : State) (core fn : Nat) (r : List Word) (e : Option Nat) :
    s.SameMem (State.kernelPost s core fn r e) := ⟨rfl, rfl, rfl⟩

@[simp] theorem State.kernelPosted_mem (s : State) (core : Nat) : s.SameMem (s.kernelPosted core) := by
  refine State.SameMem.trans (State.modCore_mem ..) (.foldl (fun s w => ?_) _ _)
  split
  · exact State.discardEntry_mem ..
  · exact .refl s

@[simp] theorem State.postTrap_mem (s : State) (core : Nat) (r : List Word) (e : Option Nat) :
    s.SameMem (State.postTrap s core r e) := ⟨rfl, rfl, rfl⟩

@[simp] theorem State.unhandled_memOk (s : State) (core t : Nat) (r : List Word) (h : s.MemOk) :
    (State.unhandled s core t r).MemOk := by
  simp [State.unhandled, State.MemOk, h]

@[simp] theorem State.serviceCall_mem (s : State) (core t rd xt : Nat) (r : List Word) :
    s.SameMem (State.serviceCall s core t rd xt r) := by
  simp [State.SameMem, State.serviceCall]

@[simp] theorem State.answerMatrix_memOk (s : State) (core t xb : Nat) (r : List Word) (h : s.MemOk) :
    (s.answerMatrix core t xb r).MemOk := by
  unfold State.answerMatrix
  extract_lets th n u ten v
  have hu : u.MemOk := h
  split
  · exact State.unhandled_memOk _ _ _ _ hu
  next q _ =>
    extract_lets req
    have hv : v.MemOk := hu
    split
    · exact State.pump_memOk _ _ _ (hv.keep (State.modRes_mem ..))
    · cases e : v.actRes q req with
      | none => exact hv
      | some t => exact State.actRes_memOk e hv

@[simp] theorem State.endMatrix_memOk (s : State) (core : Nat) (r : List Word) (h : s.MemOk) :
    (State.endMatrix s core r).MemOk := by
  unfold State.endMatrix
  repeat' split
  all_goals simp [State.MemOk, h]

@[simp] theorem State.dispose_memOk (s : State) (core : Nat) (r : List Word) (h : s.MemOk) : (State.dispose s core r).MemOk := by
  unfold State.dispose
  repeat' split
  all_goals simp [State.MemOk, h]

@[simp] theorem State.takeRecord_mem (s : State) (core : Nat) : s.SameMem (s.takeRecord core).2 := ⟨rfl, rfl, rfl⟩

@[simp] theorem State.kernelStep_memOk (s : State) (core : Nat) (h : s.MemOk) : (s.kernelStep core).MemOk := by
  unfold State.kernelStep
  extract_lets u c
  have hu : u.MemOk := h.keep (State.kernelPosted_mem ..)
  split
  · exact h
  · split
    · exact .ite (State.endMatrix_memOk _ _ _ hu) hu
    · split
      · exact .ite hu (hu.keep (State.modCore_mem ..))
      · split
        · split
          next r v e => exact State.dispose_memOk _ _ _ (hu.keep (.of_pair e (State.takeRecord_mem ..)))
        · exact hu

@[simp] theorem State.sendProbes_mem (s : State) (path : List Nat) (t : Nat) : s.SameMem (State.sendProbes s path t) := by
  simp [State.SameMem, State.sendProbes]

@[simp] theorem State.restartWaits_mem (s : State) : s.SameMem (State.restartWaits s) := ⟨rfl, rfl, rfl⟩

@[simp] theorem State.waitCycle_mem (s : State) (n origin t : Nat) : s.SameMem (State.waitCycle s n origin t) := by
  simp [State.SameMem, State.waitCycle]

/-! ### Graft -/

@[simp] theorem State.modBlock_mem (s : State) (pbn : Nat) (f : Block → Block) :
    s.SameMem (State.modBlock s pbn f) := ⟨rfl, rfl, rfl⟩

@[simp] theorem State.raiseBlock_mem (s : State) (pbn : Nat) : s.SameMem (State.raiseBlock s pbn) := ⟨rfl, rfl, rfl⟩

@[simp] theorem State.lowerBlock_mem (s : State) (part it pbn : Nat) : s.SameMem (State.lowerBlock s part it pbn) := ⟨rfl, rfl, rfl⟩

theorem State.takeFree_mem {s t : State} {part b : Nat} (e : s.takeFree part = some (b, t)) : s.SameMem t := by
  unfold State.takeFree at e
  extract_lets at e
  split at e
  · cases e
  · cases e
    exact ⟨rfl, rfl, rfl⟩

theorem State.allocBlock_mem {s t : State} {part agent apc b : Nat} (e : s.allocBlock part agent apc = some (b, t)) :
    s.SameMem t := by
  unfold State.allocBlock at e
  extract_lets own at e
  clear_value own
  split at e
  · cases e
    exact State.modBlock_mem ..
  · split at e
    next r eq =>
      cases e
      exact State.takeFree_mem eq
    · obtain ⟨x, -, hx⟩ := Option.map_eq_some_iff.1 e
      cases hx
      exact State.modBlock_mem ..

@[simp] theorem State.mapPlans_mem (s : State) (f : Plan → Option Plan) : s.SameMem (State.mapPlans s f) := ⟨rfl, rfl, rfl⟩

@[simp] theorem State.dropPlans_mem (s : State) (n : Nat) : s.SameMem (State.dropPlans s n) := ⟨rfl, rfl, rfl⟩

@[simp] theorem State.endPlan_mem (s : State) (n apc : Nat) : s.SameMem (State.endPlan s n apc) := ⟨rfl, rfl, rfl⟩

@[simp] theorem State.setCtx_mem (s : State) (d : Nat) (c : Context) : s.SameMem (State.setCtx s d c) := ⟨rfl, rfl, rfl⟩

@[simp] theorem State.modCtx_mem (s : State) (d : Nat) (f : Context → Context) : s.SameMem (State.modCtx s d f) := by
  unfold State.modCtx
  split <;> exact ⟨rfl, rfl, rfl⟩

@[simp] theorem State.iterWrite_memOk (s : State) (part ten a : Nat) (bs : List Byte) (h : s.MemOk) :
    (State.iterWrite s part ten a bs).MemOk := by
  unfold State.iterWrite
  split <;> simp [State.MemOk, h]

@[simp] theorem State.setEntry_memOk (s : State) (it : Nat) (c : Context) (j pbn : Nat) (h : s.MemOk) :
    (State.setEntry s it c j pbn).MemOk := by
  simp [State.setEntry, State.MemOk, h]

@[simp] theorem State.clearFrom_memOk (s : State) (it : Nat) (c : Context) (j : Nat) (h : s.MemOk) : (s.clearFrom it c j).MemOk :=
  h.foldl (fun _ _ hs => State.setEntry_memOk _ _ _ _ _ hs) _

@[simp] theorem State.dropNodes_mem (s : State) (it : Nat) (f : Node → Bool) : s.SameMem (State.dropNodes s it f) := by
  simp [State.SameMem, State.dropNodes]

theorem State.evictNode_mem {s t : State} {part ten model it keep : Nat} (e : s.evictNode part ten model it keep = some t) :
    s.SameMem t := by
  obtain ⟨x, -, hx⟩ := Option.map_eq_some_iff.1 e
  cases hx
  exact State.dropNodes_mem ..

@[simp] theorem State.shrinkTree_mem (s : State) (part ten model it keep cap fuel : Nat) :
    s.SameMem (s.shrinkTree part ten model it keep cap fuel) := by
  induction fuel generalizing s with
  | zero => exact .refl s
  | succ fuel ih =>
    unfold State.shrinkTree
    split
    · exact .refl s
    · split
      next e => exact (State.evictNode_mem e).trans (ih _)
      · exact .refl s

@[simp] theorem State.insertNode_mem (s : State) (c : Context) (j it : Nat) : s.SameMem (State.insertNode s c j it) := by
  unfold State.insertNode
  dsimp only
  split <;> simp [State.SameMem]

@[simp] theorem State.modNodes_mem (s : State) (ids : List Nat) (f : Node → Node) :
    s.SameMem (State.modNodes s ids f) := ⟨rfl, rfl, rfl⟩

theorem State.createCtx_memOk {s t : State} {part ten owner handle d : Nat} {m : Model} (h : s.MemOk)
    (e : s.createCtx part ten owner handle m = some (d, t)) : t.MemOk := by
  obtain ⟨⟨d, tab, rec_⟩, -, hx⟩ := Option.map_eq_some_iff.1 e
  cases hx
  exact (State.iterWrite_memOk _ _ _ _ _ (State.iterWrite_memOk _ _ _ _ _ h)).keep (State.setCtx_mem ..)

theorem State.forkCtx_memOk {s t : State} {owner it d : Nat} {c : Context} (h : s.MemOk)
    (e : s.forkCtx owner it c = some (d, t)) : t.MemOk := by
  obtain ⟨⟨d, tab, rec_⟩, -, hx⟩ := Option.map_eq_some_iff.1 e
  cases hx
  refine State.MemOk.keep (State.iterWrite_memOk _ _ _ _ _ ?_) (State.setCtx_mem ..)
  exact (State.iterWrite_memOk _ _ _ _ _ h).foldl (fun s j hs => .ite hs (State.setEntry_memOk _ _ _ _ _ hs)) _

@[simp] theorem State.releaseCtx_mem (s : State) (it d : Nat) : s.SameMem (State.releaseCtx s it d) := by
  unfold State.releaseCtx
  split <;> simp [State.SameMem]

@[simp] theorem State.endGrace_mem (s : State) (part it : Nat) : s.SameMem (State.endGrace s part it) := ⟨rfl, rfl, rfl⟩

/-! ### Agent -/

@[simp] theorem State.store_memOk (s : State) (g : Agent) (ws : List (Nat × List Byte)) (h : s.MemOk) : (s.store g ws).MemOk :=
  h.foldl (fun _ _ hs => State.writeHbm_memOk _ _ _ _ hs) _

@[simp] theorem State.setAgent_mem (s : State) (n : Nat) (g : Agent) : s.SameMem (State.setAgent s n g) := ⟨rfl, rfl, rfl⟩

@[simp] theorem State.modAgent_mem (s : State) (n : Nat) (f : Agent → Agent) : s.SameMem (State.modAgent s n f) := by
  unfold State.modAgent
  split <;> exact ⟨rfl, rfl, rfl⟩

@[simp] theorem State.modIter_mem (s : State) (p : Nat) (f : Iter → Iter) : s.SameMem (State.modIter s p f) := ⟨rfl, rfl, rfl⟩

@[simp] theorem State.dropScratch_mem (s : State) (part : Nat) (l : List Nat) : s.SameMem (State.dropScratch s part l) := by
  simp [State.SameMem, State.dropScratch]

@[simp] theorem State.stopAgent_mem (s : State) (n st : Nat) : s.SameMem (State.stopAgent s n st) := by
  unfold State.stopAgent
  split <;> simp [State.SameMem]

@[simp] theorem State.activate_mem (s : State) (p : Nat) (b : Bool) (fuel : Nat) : s.SameMem (s.activate p b fuel) := by
  induction fuel generalizing s with
  | zero => exact .refl s
  | succ fuel ih =>
    unfold State.activate
    split
    · exact .refl s
    next n g _ =>
      extract_lets go
      have hgo : ∀ u : State, u.SameMem (go u) := fun u =>
        State.SameMem.trans (t := State.setAgent { u with nextSeq := u.nextSeq + 1 } n
          { g with st := 1, activated := u.nextSeq, looked := false, packet := none }) ⟨rfl, rfl, rfl⟩ (State.completeIf_mem ..)
      split
      · exact (hgo s).trans (ih _)
      · split
        · split
          · exact ((State.stopAgent_mem ..).trans (hgo _)).trans (ih _)
          · exact .refl s
        · exact .refl s

@[simp] theorem State.wakeAgents_mem (s : State) (p : Nat) : s.SameMem (s.wakeAgents p) := State.activate_mem ..

@[simp] theorem State.takeFault_mem (s : State) (n : Nat) : s.SameMem (State.takeFault s n) := by
  unfold State.takeFault
  repeat' split
  all_goals simp [State.SameMem]

@[simp] theorem State.boundary_mem (s : State) (p : Nat) : s.SameMem (State.boundary s p) := by
  simp [State.SameMem, State.boundary]

@[simp] theorem State.faultAgent_mem (s : State) (n code apc : Nat) : s.SameMem (State.faultAgent s n code apc) := by
  unfold State.faultAgent
  split <;> simp [State.SameMem]

/-! ### AgentLong -/

@[simp] theorem State.finishLong_mem (s : State) (n seq : Nat) : s.SameMem (State.finishLong s n seq) := by
  unfold State.finishLong
  repeat' split
  all_goals simp [State.SameMem]

@[simp] theorem State.addInst_mem (s : State) (g : Agent) (op : LongOp) (entry : Option Nat) (done : Bool) (data : List Word) :
    s.SameMem (State.addInst s g op entry done data) := by
  simp [State.SameMem, State.addInst]

@[simp] theorem State.issueLong_mem (s : State) (g : Agent) (op : LongOp) (entry : Option Nat) :
    s.SameMem (State.issueLong s g op entry) := by
  unfold State.issueLong
  dsimp only
  split <;> simp [State.SameMem]

@[simp] theorem State.deliverEvent_mem (s : State) (n tag : Nat) (v : Word) : s.SameMem (State.deliverEvent s n tag v) := by
  unfold State.deliverEvent
  dsimp only
  repeat' split
  all_goals simp [State.SameMem]

@[simp] theorem State.pendFault_mem (s : State) (n code apc : Nat) : s.SameMem (State.pendFault s n code apc) := by
  simp [State.SameMem, State.pendFault]

theorem State.nameCtx_memOk (s : State) (n : Nat) (l : LongInst) (ka : Nat) (r : Option (Nat × State)) (h : s.MemOk)
    (hr : ∀ d t, r = some (d, t) → t.MemOk) : (s.nameCtx n l ka r).MemOk := by
  unfold State.nameCtx
  split
  next d t => exact (hr d t rfl).keep ((State.modAgent_mem ..).trans (State.finishLong_mem ..))
  · exact h.keep (State.pendFault_mem ..)

@[simp] theorem State.trimCtx_memOk (s : State) (it d n : Nat) (c : Context) (h : s.MemOk) : (State.trimCtx s it d n c).MemOk := by
  unfold State.trimCtx
  split <;> simp [State.MemOk, h]

@[simp] theorem State.setSampling_memOk (s : State) (d : Nat) (c : Context) (r : List Word) (h : s.MemOk) :
    (State.setSampling s d c r).MemOk := by
  simp [State.setSampling, State.MemOk, h]

@[simp] theorem State.bindMask_memOk (s : State) (d : Nat) (c : Context) (v : Word) (h : s.MemOk) :
    (State.bindMask s d c v).MemOk := by
  simp [State.bindMask, State.MemOk, h]

@[simp] theorem State.oneStep_memOk (s : State) (it n : Nat) (g : Agent) (l : LongInst) (h : s.MemOk) :
    (s.oneStep it n g l).MemOk := by
  unfold State.oneStep
  extract_lets on
  have hon : ∀ k f, (∀ d c, (f d c).MemOk) → (on k f).MemOk := by
    intro k f hf
    dsimp only [on]
    split
    · exact (hf _ _).keep (State.finishLong_mem ..)
    · exact h.keep (State.finishLong_mem ..)
  split
  · refine State.nameCtx_memOk _ _ _ _ _ h fun d t e => ?_
    obtain ⟨m, -, hm⟩ := Option.bind_eq_some_iff.1 e
    exact State.createCtx_memOk h hm
  · refine State.nameCtx_memOk _ _ _ _ _ h fun d t e => ?_
    obtain ⟨x, -, hx⟩ := Option.bind_eq_some_iff.1 e
    exact State.forkCtx_memOk h hx
  · exact hon _ _ fun d c => h.keep ((State.releaseCtx_mem ..).trans (State.modAgent_mem ..))
  · exact hon _ _ fun d c => State.trimCtx_memOk _ _ _ _ _ h
  · exact hon _ _ fun d c => h.keep (State.modAgent_mem ..)
  · exact hon _ _ fun d c => h.keep (State.setCtx_mem ..)
  · exact hon _ _ fun d c => h.keep (State.setCtx_mem ..)
  · exact hon _ _ fun d c => State.setSampling_memOk _ _ _ _ h
  · exact hon _ _ fun d c => State.bindMask_memOk _ _ _ _ h
  · exact hon _ _ fun d c => h.keep (State.setCtx_mem ..)
  all_goals exact h

/-! ### Sampler -/

@[simp] theorem State.countDraw_mem (s : State) (part : Nat) (rs : List FRes) : s.SameMem (State.countDraw s part rs) := by
  simp [State.SameMem, State.countDraw]

/-- The definition is unfolded as a function, so that the kernel does not evaluate the places that it matches on. -/
@[simp] theorem State.askMask_memOk (s : State) (d : Nat) (c : Context) (p : Nat) (h : s.MemOk) : (s.askMask d c p).MemOk := by
  suffices key : ∀ f, f = State.askMask → (f s d c p).MemOk from key _ rfl
  intro f hf
  delta State.askMask at hf
  have unfolded := congrFun (congrFun (congrFun (congrFun hf s) d) c) p
  rw [unfolded]
  split
  · exact State.rootStf_memOk _ _ _ _ _ (State.settle_memOk _ (h.keep (State.setPadFull_mem ..)))
  · exact h

@[simp] theorem State.writeKv_memOk (s : State) (k : Kernel) (pl : Nat) (toks : List Nat) (pbn x : Nat) (h : s.MemOk) :
    (s.writeKv k pl toks pbn x).2.MemOk := by
  refine foldl_keepsProp (fun acc : Nat × State => acc.2.MemOk) (fun acc i hs => ?_) _ h
  split
  · exact hs
  · split
    · exact State.MemOk.keep hs (State.noteMiss_mem ..)
    · exact State.writeAt_memOk _ _ _ _ hs

@[simp] theorem State.writeKvs_memOk (s : State) (k : Kernel) (pl : Nat) (blk : Nat → Nat) (before ts : List Nat) (x : Nat)
    (h : s.MemOk) : (s.writeKvs k pl blk before ts x).2.MemOk := by
  induction ts generalizing s before x with
  | nil => exact h
  | cons t ts ih => exact ih _ _ _ (State.writeKv_memOk _ _ _ _ _ _ h)

/-! ### Iterate -/

@[simp] theorem State.latchModels_mem (s : State) (part ten it : Nat) (v : Word) : s.SameMem (s.latchModels part ten it v) := by
  unfold State.latchModels
  extract_lets
  split
  · exact .refl s
  · exact (State.dropNodes_mem ..).trans ⟨rfl, rfl, rfl⟩

@[simp] theorem State.applySetting_mem (s : State) (part it : Nat) (e : Nat × Word) :
    s.SameMem (State.applySetting s part it e) := by
  unfold State.applySetting
  split <;> simp [State.SameMem]

@[simp] theorem State.applySettings_mem (s : State) (part it : Nat) : s.SameMem (s.applySettings part it) :=
  (State.modPart_mem ..).trans (.foldl (fun _ _ => State.applySetting_mem ..) _ _)

@[simp] theorem State.fitTrees_mem (s : State) (part it : Nat) : s.SameMem (s.fitTrees part it) :=
  .foldl (fun _ _ => State.shrinkTree_mem ..) _ _

@[simp] theorem State.modEntry_mem (s : State) (n : Nat) (f : BatchEntry → BatchEntry) : s.SameMem (State.modEntry s n f) := by
  unfold State.modEntry
  split <;> exact ⟨rfl, rfl, rfl⟩

@[simp] theorem State.mapBatch_mem (s : State) (f : Nat → BatchEntry → BatchEntry) :
    s.SameMem (State.mapBatch s f) := ⟨rfl, rfl, rfl⟩

@[simp] theorem State.mapAgents_mem (s : State) (f : Nat → Agent → Agent) : s.SameMem (State.mapAgents s f) := ⟨rfl, rfl, rfl⟩

@[simp] theorem State.freeEntries_mem (s : State) (part : Nat) : s.SameMem (State.freeEntries s part) := ⟨rfl, rfl, rfl⟩

@[simp] theorem State.copyBlock_memOk (s : State) (c : Context) (m : Model) (old new : Nat) (h : s.MemOk) :
    (s.copyBlock c m old new).2.MemOk := Xfer.move_memOk _ _ _ _ _ h

@[simp] theorem State.dropHolds_mem (s : State) (ps : List Plan) : s.SameMem (State.dropHolds s ps) := ⟨rfl, rfl, rfl⟩

@[simp] theorem State.buildMatch_memOk (s : State) (it : Nat) (l : List Step) (h : s.MemOk) : (s.buildMatch it l).MemOk := by
  unfold State.buildMatch
  split
  · exact h
  · split
    · exact h
    · split
      · split
        · extract_lets ns u v
          have hv : v.MemOk := h.keep ((State.modNodes_mem ..).trans (State.dropHolds_mem ..))
          refine hv.foldl (fun s t hs => ?_) _
          split
          · exact hs.foldl (fun s e hs => State.setEntry_memOk _ _ _ _ _ hs) _
          · exact hs
        · exact h
      · exact h

@[simp] theorem State.newBlock_memOk (s : State) (it : Nat) (m : Model) (l : List Step) (c : Context) (agent apc j : Nat)
    (h : s.MemOk) : (s.newBlock it m l c agent apc j).2.2.MemOk := by
  unfold State.newBlock
  split
  · exact h
  next b u e =>
    have hu : u.MemOk := h.keep (State.allocBlock_mem e)
    extract_lets old
    split
    next bad v e2 =>
      have hv : v.MemOk := by
        refine State.memOk_of_pair e2 ?_
        split
        · exact State.copyBlock_memOk _ _ _ _ _ hu
        · exact hu
      split
      · exact hv
      · refine hv.foldl (fun s t hs => ?_) _
        split
        · exact State.setEntry_memOk _ _ _ _ _ hs
        · exact hs

@[simp] theorem State.buildCow_memOk (s : State) (it : Nat) (l : List Step) (h : s.MemOk) : (s.buildCow it l).2.MemOk := by
  unfold State.buildCow
  split
  · exact h
  · split
    split
    · split
      · split
        · split
          next eq => exact State.memOk_of_triple eq (State.newBlock_memOk _ _ _ _ _ _ _ _ h)
        · exact h
      · exact h
    · exact h

@[simp] theorem State.growScratch_mem (s : State) (part agent apc n : Nat) (l : List Nat) :
    s.SameMem (s.growScratch part agent apc n l).2.2 := by
  induction n generalizing s l with
  | zero => exact .refl s
  | succ n ih =>
    unfold State.growScratch
    split
    · exact .refl s
    next e => exact ((State.allocBlock_mem e).trans (State.raiseBlock_mem ..)).trans (ih _ _)

@[simp] theorem State.modInst_mem (s : State) (t : Step) (f : LongInst → LongInst) : s.SameMem (State.modInst s t f) := by
  simp [State.SameMem, State.modInst]

@[simp] theorem State.buildScore_memOk (s : State) (t : Step) (g : Agent) (i : LongInst) (c : Context) (m : Model) (k : Nat)
    (h : s.MemOk) : (s.buildScore t g i c m k).2.2.MemOk := by
  unfold State.buildScore
  extract_lets pos top need
  split
  next f scr u e =>
    have hu : u.MemOk := h.keep (.of_triple e (State.growScratch_mem ..))
    split
    next bad v e2 =>
      have hv : v.MemOk := by
        refine State.memOk_of_pair e2 ?_
        split
        · exact State.copyBlock_memOk _ _ _ _ _ hu
        · exact hu
      split
      · exact hv.keep (State.dropScratch_mem ..)
      · exact hv.keep (State.modInst_mem ..)

@[simp] theorem State.buildAlloc_memOk (s : State) (it : Nat) (l : List Step) (h : s.MemOk) : (s.buildAlloc it l).2.MemOk := by
  unfold State.buildAlloc
  split
  · exact h
  next t _ =>
    split
    · exact h
    · split
      next g i c _ _ =>
        split
        · exact h
        next m _ =>
          split
          · split
            next eq => exact State.memOk_of_triple eq (State.buildScore_memOk _ _ _ _ _ _ _ h)
          · split
            extract_lets blocks
            split
            next l' u e =>
              have hu : u.MemOk := by
                refine State.memOk_of_pair e (foldl_keepsProp (fun acc : List Step × State => acc.2.MemOk) (fun acc j hs => ?_) _ h)
                split
                extract_lets
                split
                · exact hs
                · split
                  next eq => exact State.memOk_of_triple eq (State.newBlock_memOk _ _ _ _ _ _ _ _ hs)
              split
              · split
                next eq => exact hu.keep (.of_triple eq (State.growScratch_mem ..))
              · exact hu
      · exact h

@[simp] theorem State.publish_mem (s : State) (t : Step) : s.SameMem (State.publish s t) := by
  unfold State.publish
  repeat' split
  all_goals simp [State.SameMem]

@[simp] theorem State.runKernels_memOk (s : State) (l : List Step) (h : s.MemOk) : (s.runKernels l).2.MemOk := by
  have written : ∀ (u v : State) k pl b ts ns x y, u.MemOk → u.writeKvs k pl b ts ns x = (y, v) → v.MemOk :=
    fun u v k pl b ts ns x y hu e => State.memOk_of_pair e (u.writeKvs_memOk k pl b ts ns x hu)
  fun_cases State.runKernels s l
  case case3 e => exact written _ _ _ _ _ _ _ _ _ h e
  case case4 e => exact written _ _ _ _ _ _ _ _ _ h e
  case case6 e _ _ e' => exact written _ _ _ _ _ _ _ _ _ (written _ _ _ _ _ _ _ _ _ (h.keep (State.countDraw_mem ..)) e) e'
  case case7 e => exact written _ _ _ _ _ _ _ _ _ h e
  all_goals exact h

@[simp] theorem State.launchStep_memOk (s : State) (t : Step) (h : s.MemOk) : (State.launchStep s t).MemOk := by
  unfold State.launchStep
  repeat' split
  all_goals simp [State.MemOk, h]

theorem State.phase_memOk (s : State) (f : State → List Step → List Step × State) (gs : List (List Step)) (h : s.MemOk)
    (hf : ∀ (u : State) l, u.MemOk → (f u l).2.MemOk) : (s.phase f gs).2.MemOk :=
  foldl_keepsProp (fun acc : List (List Step) × State => acc.2.MemOk) (fun acc l hs => hf acc.2 l hs) gs h

@[simp] theorem State.multicast_mem (s : State) (part it : Nat) (bs : List Batch) : s.SameMem (State.multicast s part it bs) := by
  simp [State.SameMem, State.multicast]

@[simp] theorem State.markPlaced_mem (s : State) (part : Nat) (keys : List Nat) :
    s.SameMem (State.markPlaced s part keys) := ⟨rfl, rfl, rfl⟩

@[simp] theorem State.build_memOk (s : State) (part it : Nat) (h : s.MemOk) : (s.build part it).MemOk := by
  unfold State.build
  split
  extract_lets heldOf groups1 groups keys s1 s2 s3
  have h2 : s2.MemOk := h.keep ((State.markPlaced_mem ..).trans (State.mapAgents_mem ..))
  have h3 : s3.MemOk := h2.foldl (fun s l hs => State.buildMatch_memOk _ _ _ hs) _
  split
  next u4 e4 =>
    have h4 : u4.MemOk := State.memOk_of_pair e4 (State.phase_memOk _ _ _ h3 fun u l hu => State.buildCow_memOk _ _ _ hu)
    split
    next u5 e5 =>
      have h5 : u5.MemOk := State.memOk_of_pair e5 (State.phase_memOk _ _ _ h4 fun u l hu => State.buildAlloc_memOk _ _ _ hu)
      extract_lets s6
      have h6 : s6.MemOk := h5.foldl (fun s l hs => hs.keep (State.publish_mem ..)) _
      split
      next u7 e7 =>
        have h7 : u7.MemOk := State.memOk_of_pair e7 (State.phase_memOk _ _ _ h6 fun u l hu => State.runKernels_memOk _ _ hu)
        extract_lets steps batches s8
        have h8 : s8.MemOk := h7.keep (State.modIter_mem ..)
        exact (h8.foldl (fun s t hs => State.launchStep_memOk _ _ hs) _).keep (State.multicast_mem ..)

@[simp] theorem State.haltAgent_mem (s : State) (it n : Nat) : s.SameMem (State.haltAgent s it n) := by
  unfold State.haltAgent
  split <;> simp [State.SameMem]

@[simp] theorem State.takeStep_memOk (s : State) (it : Nat) (x : Nat × Nat) (h : s.MemOk) : (State.takeStep s it x).MemOk := by
  unfold State.takeStep
  repeat' split
  all_goals simp [State.MemOk, h]

@[simp] theorem State.readEntries_mem (s : State) (part : Nat) : s.SameMem (State.readEntries s part) := ⟨rfl, rfl, rfl⟩

@[simp] theorem State.snapshot_memOk (s : State) (p it : Nat) (h : s.MemOk) : (s.snapshot p it).MemOk := by
  unfold State.snapshot
  extract_lets s1 s2 halts s3 s4 s5 s6 mine s7
  have h2 : s2.MemOk := h.keep ((State.modIter_mem ..).trans (State.endGrace_mem ..))
  have h3 : s3.MemOk := h2.foldl (fun s n hs => hs.keep (State.haltAgent_mem ..)) _
  have h4 : s4.MemOk := h3.keep ((State.freeEntries_mem ..).trans (State.readEntries_mem ..))
  have h5 : s5.MemOk := h4.foldl (fun s x hs => State.takeStep_memOk _ _ _ hs) _
  have h7 : s7.MemOk := h5.keep (((State.applySettings_mem ..).trans (State.fitTrees_mem ..)).trans (State.mapBatch_mem ..))
  exact State.build_memOk _ _ _ h7

@[simp] theorem State.discard_memOk (s : State) (it : Nat) (t : Step) (h : s.MemOk) : (State.discard s it t).MemOk := by
  unfold State.discard
  repeat' split
  all_goals simp [State.MemOk, h]

@[simp] theorem State.failStep_memOk (s : State) (p it : Nat) (t : Step) (h : s.MemOk) : (State.failStep s p it t).MemOk := by
  unfold State.failStep
  dsimp only
  split <;> simp [State.MemOk, h]

@[simp] theorem State.faultStep_memOk (s : State) (it : Nat) (t : Step) (code : Nat) (h : s.MemOk) :
    (State.faultStep s it t code).MemOk := by
  unfold State.faultStep
  split <;> simp [State.MemOk, h]

@[simp] theorem State.stepOk_mem (s : State) (t : Step) : s.SameMem (State.stepOk s t) := by
  simp [State.SameMem, State.stepOk]

@[simp] theorem State.completeStep_mem (s : State) (p : Nat) (t : Step) : s.SameMem (State.completeStep s p t) := by
  unfold State.completeStep
  split <;> simp [State.SameMem]

@[simp] theorem State.insertBlocks_mem (s : State) (it d before : Nat) : s.SameMem (s.insertBlocks it d before) := by
  unfold State.insertBlocks
  split
  · exact .foldl (fun s j => State.insertNode_mem ..) _ _
  · exact .refl s

@[simp] theorem State.commitAppend_mem (s : State) (p it : Nat) (t : Step) (g : Agent) (c : Context) (sb k : Nat) :
    s.SameMem (State.commitAppend s p it t g c sb k) := by
  simp [State.SameMem, State.commitAppend]

@[simp] theorem State.commitScore_mem (s : State) (p : Nat) (t : Step) (g : Agent) (i : LongInst) (kn : Kernel) (fa sc k : Nat) :
    s.SameMem (State.commitScore s p t g i kn fa sc k) := by
  simp [State.SameMem, State.commitScore]

@[simp] theorem State.commitTokens_memOk (s : State) (p it : Nat) (t : Step) (g : Agent) (c : Context) (late : Bool) (sb k : Nat)
    (ts : List Nat) (next : Nat) (h : s.MemOk) : (s.commitTokens p it t g c late sb k ts next).MemOk := by
  unfold State.commitTokens
  extract_lets r w n ts' c' stopped left done s1 s2 s3
  have h1 : s1.MemOk := h.keep (((State.stepOk_mem ..).trans (State.dropScratch_mem ..)).trans (State.setCtx_mem ..))
  have h2 : s2.MemOk := (State.store_memOk _ _ _ h1).keep (State.modAgent_mem ..)
  have h3 : s3.MemOk := State.clearFrom_memOk _ _ _ _ (h2.keep (State.insertBlocks_mem ..))
  split
  · exact State.faultStep_memOk _ _ _ _ h
  · exact .ite (h3.keep (State.completeStep_mem ..)) (h3.keep (State.modInst_mem ..))

@[simp] theorem State.commitGen_memOk (s : State) (p it : Nat) (t : Step) (g : Agent) (i : LongInst) (kn : Kernel) (sb k : Nat)
    (h : s.MemOk) : (State.commitGen s p it t g i kn sb k).MemOk := by
  unfold State.commitGen
  dsimp only
  repeat' split
  all_goals simp [State.MemOk, h]

@[simp] theorem State.commitStep_memOk (s : State) (p it : Nat) (t : Step) (h : s.MemOk) : (State.commitStep s p it t).MemOk := by
  unfold State.commitStep
  repeat' split
  all_goals simp [State.MemOk, h]

@[simp] theorem State.dropViews_mem (s : State) (b : Batch) : s.SameMem (State.dropViews s b) := ⟨rfl, rfl, rfl⟩

@[simp] theorem State.endBatch_mem (s : State) (p : Nat) (b : Batch) : s.SameMem (State.endBatch s p b) := by
  simp [State.SameMem, State.endBatch]

@[simp] theorem State.failBatch_memOk (s : State) (p : Nat) (b : Batch) (h : s.MemOk) : (s.failBatch p b).MemOk :=
  (h.foldl (fun _ _ hs => State.failStep_memOk _ _ _ _ hs) _).keep (State.endBatch_mem ..)

@[simp] theorem State.abortIteration_memOk (s : State) (p : Nat) (h : s.MemOk) : (s.abortIteration p).MemOk := by
  unfold State.abortIteration
  extract_lets i u
  have hu : u.MemOk := h.foldl (fun s b hs => State.MemOk.keep
    (hs.foldl (fun s t hs => (State.discard_memOk _ _ _ hs).keep (State.modEntry_mem ..)) _) (State.dropViews_mem ..)) _
  exact .ite h (hu.keep (State.modIter_mem ..))

end Sys2Proof.Machine
end

section
/-! PROOF. O5: every instruction and every event keeps the canonical form of the memories, and so does a step. -/

namespace Sys2Proof.Machine

/-- The next state of `r`, if it has one, has its memories in canonical form. -/
def Result.MemOk (r : Result) : Prop := ∀ t, r = .next t → t.MemOk

@[simp] theorem Result.next_memOk {s : State} : Result.MemOk (.next s) ↔ s.MemOk :=
  ⟨fun h => h s rfl, fun h t e => by cases e; exact h⟩

@[simp] theorem Result.fault_memOk (f : Fault) : Result.MemOk (.fault f) := nofun

@[simp] theorem Result.refused_memOk (r : Refusal) : Result.MemOk (.refused r) := nofun

theorem Result.MemOk.ite {c : Prop} [Decidable c] {r q : Result} (hr : Result.MemOk r) (hq : Result.MemOk q) :
    Result.MemOk (if c then r else q) := by
  split
  · exact hr
  · exact hq

/-- What an attempt leaves, now or once it is resumed, has its memories in canonical form. -/
def Verdict.MemOk : Verdict → Prop
  | .go s => s.MemOk
  | .trapAfter _ _ _ f => ∀ s : State, s.MemOk → (f s).MemOk
  | .park _ f => ∀ s : State, s.MemOk → (f s).MemOk
  | .trap .. => True
  | .stop _ => True

@[simp] theorem Verdict.go_memOk {s : State} : (Verdict.go s).MemOk ↔ s.MemOk := .rfl

@[simp] theorem Verdict.trap_memOk (c d : Nat) (i : Word) : (Verdict.trap c d i).MemOk := trivial

@[simp] theorem Verdict.stop_memOk (f : Fault) : (Verdict.stop f).MemOk := trivial

@[simp] theorem Verdict.park_memOk {w : Wait} {f : State → State} :
    (Verdict.park w f).MemOk ↔ ∀ s : State, s.MemOk → (f s).MemOk := .rfl

@[simp] theorem Verdict.trapAfter_memOk {c d : Nat} {i : Word} {f : State → State} :
    (Verdict.trapAfter c d i f).MemOk ↔ ∀ s : State, s.MemOk → (f s).MemOk := .rfl

@[simp] theorem Verdict.park_id_memOk (w : Wait) : (Verdict.park w id).MemOk := fun _ h => h

theorem Verdict.MemOk.ite {c : Prop} [Decidable c] {v w : Verdict} (hv : v.MemOk) (hw : w.MemOk) : (if c then v else w).MemOk := by
  split
  · exact hv
  · exact hw

/-! ### Ops -/

theorem Verdict.close_memOk (v : Verdict) (s : State) (hv : v.MemOk) (h : s.MemOk) : Result.MemOk (v.close s) := by
  cases v with
  | go t => exact Result.next_memOk.2 (State.MemOk.keep hv (State.issued_mem ..))
  | trap c d i => exact Result.next_memOk.2 (h.keep (State.takeTrap_mem ..))
  | trapAfter c d i f => exact Result.next_memOk.2 (State.MemOk.keep (hv s h) (State.takeTrap_mem ..))
  | park w f => exact Result.next_memOk.2 (State.MemOk.keep (hv s h) (State.parkOn_mem ..))
  | stop f => exact Result.fault_memOk f

theorem issue_memOk (n : Needs) {k : State → Verdict} {s : State} (hk : ∀ u : State, u.MemOk → (k u).MemOk) (h : s.MemOk) :
    Result.MemOk (issue n k s) := by
  unfold issue
  split
  · exact Result.next_memOk.2 (h.keep (State.parkOn_mem ..))
  · split
    · exact Result.next_memOk.2 (h.keep (State.takeTrap_mem ..))
    · split
      · exact Result.next_memOk.2 (h.keep (State.takeTrap_mem ..))
      · exact Verdict.close_memOk _ _ (hk _ (h.keep (State.take_mem ..))) h

theorem issueSimple_memOk (n : Needs) {f : State → State} {s : State} (hf : ∀ u : State, u.MemOk → (f u).MemOk) (h : s.MemOk) :
    Result.MemOk (issueSimple n f s) :=
  issue_memOk n (fun u hu => (hf u hu).keep (State.advance_mem ..)) h

theorem issueRoot_memOk (n : Needs) {k : State → Verdict} {s : State} (hk : ∀ u : State, u.MemOk → (k u).MemOk) (h : s.MemOk) :
    Result.MemOk (issueRoot n k s) :=
  .ite (issue_memOk n hk h) (Result.next_memOk.2 (h.keep (State.takeTrap_mem ..)))

/-! ### Operands -/

theorem withTarget_memOk (s : State) (u : Use) (wr : Bool) (ea : Word) (n alw alp : Nat)
    {k : List (Place × Nat) → List Nat → Option Leaf → Verdict} (hk : ∀ ps ks l, (k ps ks l).MemOk) :
    (withTarget s u wr ea n alw alp k).MemOk := by
  unfold withTarget
  split
  · exact hk _ _ _
  · exact trivial
  · exact fun s h => h.keep (State.miss_mem ..)
  · exact trivial

theorem accessing_memOk (s : State) (op : MemOp) (ks : List Nat) {v : State} (h : v.MemOk) : (accessing s op ks v).MemOk :=
  .ite (Verdict.park_id_memOk _) h

theorem afterHeld_memOk (s : State) {v : Verdict} (h : v.MemOk) : (afterHeld s v).MemOk := .ite h (Verdict.park_id_memOk _)

/-! ### LoadStore -/

theorem loadFrom_memOk (src : List Src) (rd n : Nat) (sx : Bool) (ea : State → Word) {s : State} (h : s.MemOk) :
    Result.MemOk (loadFrom src rd n sx ea s) :=
  issue_memOk _ (fun _ hu => withTarget_memOk _ _ _ _ _ _ _ fun _ _ _ => accessing_memOk _ _ _
    ((State.countLeaf_memOk _ _ _ _ (State.submit_memOk _ _ _ _ (hu.keep (State.deferX_mem ..)))).keep (State.advance_mem ..))) h

theorem storeTo_memOk (src : List Src) (n : Nat) (v ea : State → Word) {s : State} (h : s.MemOk) :
    Result.MemOk (storeTo src n v ea s) :=
  issue_memOk _ (fun _ hu => withTarget_memOk _ _ _ _ _ _ _ fun _ _ _ => accessing_memOk _ _ _
    ((State.countLeaf_memOk _ _ _ _ (State.submit_memOk _ _ _ _ hu)).keep (State.advance_mem ..))) h

theorem execLdb_memOk (rd : Nat) (a : Src) (imm : BitVec 13) {s : State} (h : s.MemOk) :
    Result.MemOk (execLdb rd a imm s) := loadFrom_memOk _ _ _ _ _ h

theorem execLdbu_memOk (rd : Nat) (a : Src) (imm : BitVec 13) {s : State} (h : s.MemOk) :
    Result.MemOk (execLdbu rd a imm s) := loadFrom_memOk _ _ _ _ _ h

theorem execLdh_memOk (rd : Nat) (a : Src) (imm : BitVec 13) {s : State} (h : s.MemOk) :
    Result.MemOk (execLdh rd a imm s) := loadFrom_memOk _ _ _ _ _ h

theorem execLdhu_memOk (rd : Nat) (a : Src) (imm : BitVec 13) {s : State} (h : s.MemOk) :
    Result.MemOk (execLdhu rd a imm s) := loadFrom_memOk _ _ _ _ _ h

theorem execLdw_memOk (rd : Nat) (a : Src) (imm : BitVec 13) {s : State} (h : s.MemOk) :
    Result.MemOk (execLdw rd a imm s) := loadFrom_memOk _ _ _ _ _ h

theorem execLdwu_memOk (rd : Nat) (a : Src) (imm : BitVec 13) {s : State} (h : s.MemOk) :
    Result.MemOk (execLdwu rd a imm s) := loadFrom_memOk _ _ _ _ _ h

theorem execLdd_memOk (rd : Nat) (a : Src) (imm : BitVec 13) {s : State} (h : s.MemOk) :
    Result.MemOk (execLdd rd a imm s) := loadFrom_memOk _ _ _ _ _ h

theorem execStb_memOk (d a : Src) (imm : BitVec 11) {s : State} (h : s.MemOk) :
    Result.MemOk (execStb d a imm s) := storeTo_memOk _ _ _ _ h

theorem execSth_memOk (d a : Src) (imm : BitVec 11) {s : State} (h : s.MemOk) :
    Result.MemOk (execSth d a imm s) := storeTo_memOk _ _ _ _ h

theorem execStw_memOk (d a : Src) (imm : BitVec 11) {s : State} (h : s.MemOk) :
    Result.MemOk (execStw d a imm s) := storeTo_memOk _ _ _ _ h

theorem execStd_memOk (d a : Src) (imm : BitVec 11) {s : State} (h : s.MemOk) :
    Result.MemOk (execStd d a imm s) := storeTo_memOk _ _ _ _ h

theorem execCLd_memOk (a b : Nat) (c : BitVec 3) {s : State} (h : s.MemOk) :
    Result.MemOk (execCLd a b c s) := loadFrom_memOk _ _ _ _ _ h

theorem execCSt_memOk (a b : Nat) (c : BitVec 3) {s : State} (h : s.MemOk) :
    Result.MemOk (execCSt a b c s) := storeTo_memOk _ _ _ _ h

@[simp] theorem execLoadReturn_memOk (t idx : Nat) (s : State) (h : s.MemOk) : Result.MemOk (execLoadReturn t idx s) := by
  unfold execLoadReturn
  dsimp only
  repeat' split
  all_goals simp [State.MemOk, h]

@[simp] theorem execLdftTimeout_memOk (t : Nat) (s : State) (h : s.MemOk) : Result.MemOk (execLdftTimeout t s) := by
  unfold execLdftTimeout
  split <;> simp [State.MemOk, h]

theorem withPadWord_memOk (s : State) (ea : Word) {k : Nat → Nat → Verdict} (hk : ∀ core off, (k core off).MemOk) :
    (withPadWord s ea k).MemOk := by
  refine withTarget_memOk _ _ _ _ _ _ _ fun ps ks l => ?_
  split
  · exact hk _ _
  · exact trivial

theorem ldsync_memOk (src : List Src) (k : SyncKind) (rd : Nat) (ea : State → Word) {s : State} (h : s.MemOk) :
    Result.MemOk (ldsync src k rd ea s) :=
  issue_memOk _ (fun _ hu => withPadWord_memOk _ _ fun _ _ => .ite
    (State.MemOk.keep (State.submit_memOk _ _ _ _ (hu.keep (State.deferX_mem ..))) (State.advance_mem ..)) (Verdict.park_id_memOk _)) h

theorem stfTo_memOk (src : List Src) (v ea : State → Word) {s : State} (h : s.MemOk) : Result.MemOk (stfTo src v ea s) :=
  issue_memOk _ (fun _ hu => withPadWord_memOk _ _ fun _ _ => .ite
    (State.MemOk.keep (State.submit_memOk _ _ _ _ hu) (State.advance_mem ..)) (Verdict.park_id_memOk _)) h

theorem execLdf_memOk (rd : Nat) (a : Src) (imm : BitVec 11) {s : State} (h : s.MemOk) :
    Result.MemOk (execLdf rd a imm s) := ldsync_memOk _ _ _ _ h

theorem execLdt_memOk (rd : Nat) (a : Src) (imm : BitVec 11) {s : State} (h : s.MemOk) :
    Result.MemOk (execLdt rd a imm s) := ldsync_memOk _ _ _ _ h

theorem execLdft_memOk (rd : Nat) (a : Src) (imm : BitVec 11) {s : State} (h : s.MemOk) :
    Result.MemOk (execLdft rd a imm s) := ldsync_memOk _ _ _ _ h

theorem execLdp_memOk (rd : Nat) (a : Src) (imm : BitVec 11) {s : State} (h : s.MemOk) : Result.MemOk (execLdp rd a imm s) :=
  issue_memOk _ (fun _ hu => withPadWord_memOk _ _ fun _ _ => .ite (accessing_memOk _ _ _
    (State.MemOk.keep (State.submit_memOk _ _ _ _ (hu.keep (State.deferX_mem ..))) (State.advance_mem ..)))
    (Verdict.park_id_memOk _)) h

theorem execStf_memOk (d a : Src) (imm : BitVec 11) {s : State} (h : s.MemOk) :
    Result.MemOk (execStf d a imm s) := stfTo_memOk _ _ _ h

theorem few_memOk (full : Bool) (a : Src) (imm : BitVec 11) {s : State} (h : s.MemOk) : Result.MemOk (few full a imm s) :=
  issue_memOk _ (fun _ hu => withPadWord_memOk _ _ fun _ _ => accessing_memOk _ _ _
    (State.MemOk.keep (State.submit_memOk _ _ _ _ hu) (State.advance_mem ..))) h

theorem execFewF_memOk (a : Src) (imm : BitVec 11) {s : State} (h : s.MemOk) : Result.MemOk (execFewF a imm s) := few_memOk _ _ _ h

theorem execFewE_memOk (a : Src) (imm : BitVec 11) {s : State} (h : s.MemOk) : Result.MemOk (execFewE a imm s) := few_memOk _ _ _ h

theorem execCLdt_memOk (a b : Nat) (c : BitVec 3) {s : State} (h : s.MemOk) :
    Result.MemOk (execCLdt a b c s) := ldsync_memOk _ _ _ _ h

theorem execCStf_memOk (a b : Nat) (c : BitVec 3) {s : State} (h : s.MemOk) : Result.MemOk (execCStf a b c s) := stfTo_memOk _ _ _ h

theorem amoOp_memOk (op : AmoOp) (rd : Nat) (a b : Src) (o : AmoOrder) {s : State} (h : s.MemOk) :
    Result.MemOk (amoOp op rd a b o s) :=
  issue_memOk _ (fun _ hu => withTarget_memOk _ _ _ _ _ _ _ fun _ _ _ => accessing_memOk _ _ _
    ((State.countLeaf_memOk _ _ _ _ (State.submit_memOk _ _ _ _ (hu.keep (State.deferX_mem ..)))).keep (State.advance_mem ..))) h

theorem execAmoadd_memOk (rd : Nat) (a b : Src) (o : AmoOrder) {s : State} (h : s.MemOk) :
    Result.MemOk (execAmoadd rd a b o s) := amoOp_memOk _ _ _ _ _ h

theorem execAmoswap_memOk (rd : Nat) (a b : Src) (o : AmoOrder) {s : State} (h : s.MemOk) :
    Result.MemOk (execAmoswap rd a b o s) := amoOp_memOk _ _ _ _ _ h

theorem execAmocas_memOk (rd : Nat) (a b : Src) (o : AmoOrder) {s : State} (h : s.MemOk) :
    Result.MemOk (execAmocas rd a b o s) := amoOp_memOk _ _ _ _ _ h

theorem execAmomin_memOk (rd : Nat) (a b : Src) (o : AmoOrder) {s : State} (h : s.MemOk) :
    Result.MemOk (execAmomin rd a b o s) := amoOp_memOk _ _ _ _ _ h

theorem execAmomax_memOk (rd : Nat) (a b : Src) (o : AmoOrder) {s : State} (h : s.MemOk) :
    Result.MemOk (execAmomax rd a b o s) := amoOp_memOk _ _ _ _ _ h

theorem execAmominu_memOk (rd : Nat) (a b : Src) (o : AmoOrder) {s : State} (h : s.MemOk) :
    Result.MemOk (execAmominu rd a b o s) := amoOp_memOk _ _ _ _ _ h

theorem execAmomaxu_memOk (rd : Nat) (a b : Src) (o : AmoOrder) {s : State} (h : s.MemOk) :
    Result.MemOk (execAmomaxu rd a b o s) := amoOp_memOk _ _ _ _ _ h

theorem execAmoand_memOk (rd : Nat) (a b : Src) (o : AmoOrder) {s : State} (h : s.MemOk) :
    Result.MemOk (execAmoand rd a b o s) := amoOp_memOk _ _ _ _ _ h

theorem execAmoor_memOk (rd : Nat) (a b : Src) (o : AmoOrder) {s : State} (h : s.MemOk) :
    Result.MemOk (execAmoor rd a b o s) := amoOp_memOk _ _ _ _ _ h

theorem execAmoxor_memOk (rd : Nat) (a b : Src) (o : AmoOrder) {s : State} (h : s.MemOk) :
    Result.MemOk (execAmoxor rd a b o s) := amoOp_memOk _ _ _ _ _ h

theorem fenceWhen_memOk (c : State → Bool) {s : State} (h : s.MemOk) : Result.MemOk (fenceWhen c s) :=
  issue_memOk _ (fun _ hu => .ite (hu.keep (State.advance_mem ..)) (Verdict.park_id_memOk _)) h

theorem execFenceFull_memOk (sc : Scope) {s : State} (h : s.MemOk) : Result.MemOk (execFenceFull sc s) := fenceWhen_memOk _ h

theorem execFenceAcq_memOk (_sc : Scope) {s : State} (h : s.MemOk) : Result.MemOk (execFenceAcq _sc s) := fenceWhen_memOk _ h

theorem execFenceRel_memOk (sc : Scope) {s : State} (h : s.MemOk) : Result.MemOk (execFenceRel sc s) := fenceWhen_memOk _ h

/-! ### Control -/

theorem branch_memOk {n : Nat} (a b : Src) (off : BitVec n) (c : Word → Word → Bool) {s : State} (h : s.MemOk) :
    Result.MemOk (branch a b off c s) :=
  issue_memOk _ (fun _ hu => State.MemOk.ite (hu.keep (State.jump_mem ..)) (hu.keep (State.advance_mem ..))) h

theorem execBeq_memOk (a b : Src) (off : BitVec 11) {s : State} (h : s.MemOk) :
    Result.MemOk (execBeq a b off s) := branch_memOk _ _ _ _ h

theorem execBne_memOk (a b : Src) (off : BitVec 11) {s : State} (h : s.MemOk) :
    Result.MemOk (execBne a b off s) := branch_memOk _ _ _ _ h

theorem execBlt_memOk (a b : Src) (off : BitVec 11) {s : State} (h : s.MemOk) :
    Result.MemOk (execBlt a b off s) := branch_memOk _ _ _ _ h

theorem execBge_memOk (a b : Src) (off : BitVec 11) {s : State} (h : s.MemOk) :
    Result.MemOk (execBge a b off s) := branch_memOk _ _ _ _ h

theorem execBltu_memOk (a b : Src) (off : BitVec 11) {s : State} (h : s.MemOk) :
    Result.MemOk (execBltu a b off s) := branch_memOk _ _ _ _ h

theorem execBgeu_memOk (a b : Src) (off : BitVec 11) {s : State} (h : s.MemOk) :
    Result.MemOk (execBgeu a b off s) := branch_memOk _ _ _ _ h

theorem execCBeqz_memOk (a : Nat) (imm : BitVec 7) {s : State} (h : s.MemOk) :
    Result.MemOk (execCBeqz a imm s) := branch_memOk _ _ _ _ h

theorem execCBnez_memOk (a : Nat) (imm : BitVec 7) {s : State} (h : s.MemOk) :
    Result.MemOk (execCBnez a imm s) := branch_memOk _ _ _ _ h

theorem jumpLink_memOk {n : Nat} (rd : Nat) (off : BitVec n) {s : State} (h : s.MemOk) : Result.MemOk (jumpLink rd off s) :=
  issue_memOk _ (fun _ hu => hu.keep ((State.wx_mem ..).trans (State.jump_mem ..))) h

theorem execJal_memOk (rd : Nat) (imm : BitVec 20) {s : State} (h : s.MemOk) :
    Result.MemOk (execJal rd imm s) := jumpLink_memOk _ _ h

theorem execCJ_memOk (off : BitVec 11) {s : State} (h : s.MemOk) : Result.MemOk (execCJ off s) := jumpLink_memOk _ _ h

theorem jumpReg_memOk (rd : Nat) (a : Src) (imm : Word) {s : State} (h : s.MemOk) : Result.MemOk (jumpReg rd a imm s) :=
  issue_memOk _ (fun _ hu => Verdict.MemOk.ite trivial (hu.keep ((State.wx_mem ..).trans (State.jump_mem ..)))) h

theorem execJalr_memOk (rd : Nat) (a : Src) (imm : BitVec 13) {s : State} (h : s.MemOk) :
    Result.MemOk (execJalr rd a imm s) := jumpReg_memOk _ _ _ h

theorem execCJr_memOk (a : Nat) {s : State} (h : s.MemOk) : Result.MemOk (execCJr a s) := jumpReg_memOk _ _ _ h

theorem skipPool_memOk (n : Nat) {s : State} (h : s.MemOk) : Result.MemOk (skipPool n s) :=
  issue_memOk _ (fun _ hu => hu.keep (State.jump_mem ..)) h

theorem execSkipw_memOk (n : BitVec 20) {s : State} (h : s.MemOk) : Result.MemOk (execSkipw n s) := skipPool_memOk _ h

theorem execCSkip_memOk (n : BitVec 11) {s : State} (h : s.MemOk) : Result.MemOk (execCSkip n s) := skipPool_memOk _ h

@[simp] theorem execLoopClaimResponse_memOk (t : Nat) (s : State) (h : s.MemOk) : Result.MemOk (execLoopClaimResponse t s) := by
  unfold execLoopClaimResponse
  repeat' split
  all_goals simp [State.MemOk, h]

theorem execLoop_memOk (rd : Nat) (a : Src) (imm : BitVec 13) {s : State} (h : s.MemOk) : Result.MemOk (execLoop rd a imm s) := by
  refine issue_memOk _ (fun u hu => ?_) h
  have written : ∀ (v : State) i o, v.MemOk → (loopWrite v rd i o).advance.MemOk := fun v i o hv =>
    hv.keep ((loopWrite_mem ..).trans (State.advance_mem ..))
  have claimed : ∀ f, (u.modThr u.cur f).MemOk := fun f => hu.keep (State.modThr_mem ..)
  extract_lets th n desc mine v
  have hv : v.MemOk := claimed _
  clear_value v mine
  split
  · exact written _ _ _ (claimed _)
  · split
    next c =>
      split
      · exact written _ _ _ hv
      · exact hv.keep (((State.wx_mem ..).trans (State.wx_mem ..)).trans (State.jump_mem ..))
    next =>
      split
      · exact Verdict.park_id_memOk _
      · exact withTarget_memOk _ _ _ _ _ _ _ fun ps ks l v hv => State.countLeaf_memOk _ _ _ _ (hv.keep (State.modThr_mem ..))

/-! ### Threads -/

theorem withWords_memOk (s : State) (u : Use) (wr : Bool) (ea : Word) (n : Nat) {k : List (Place × Nat) → List Nat → Verdict}
    (hk : ∀ ps ks, (k ps ks).MemOk) : (withWords s u wr ea n k).MemOk := by
  unfold withWords
  split
  · exact hk _ _
  · exact trivial
  · exact fun s h => h.keep (State.miss_mem ..)
  · exact trivial

theorem execSpawn_memOk (rd : Nat) (a : Src) {s : State} (h : s.MemOk) : Result.MemOk (execSpawn rd a s) := by
  refine issue_memOk _ (fun u hu => afterHeld_memOk _ (.ite (hu.keep ((State.wx_mem ..).trans (State.advance_mem ..))) ?_)) h
  exact hu.keep ((State.placeLaunch_mem ..).trans ((State.wx_mem ..).trans (State.advance_mem ..)))

@[simp] theorem execJoin_memOk (rd : Nat) (a : Src) (s : State) (h : s.MemOk) : Result.MemOk (execJoin rd a s) := by
  refine issueSimple_memOk _ (fun s hs => ?_) h
  dsimp only
  repeat' split
  all_goals simp [State.MemOk, hs]

theorem execLeave_memOk (rd : Nat) (a : Src) {s : State} (h : s.MemOk) : Result.MemOk (execLeave rd a s) := by
  refine issue_memOk _ (fun u hu => afterHeld_memOk _ ?_) h
  have answered : ∀ (v : State) (w : Word), v.MemOk → (v.wx rd w).advance.MemOk := fun v w hv =>
    hv.keep ((State.wx_mem ..).trans (State.advance_mem ..))
  extract_lets th
  split
  · exact answered _ _ hu
  · exact .ite (answered _ _ (State.leaveGroup_memOk _ _ _ hu)) (answered _ _ hu)

@[simp] theorem execGrpcnt_memOk (rd : Nat) (a : Src) (s : State) (h : s.MemOk) : Result.MemOk (execGrpcnt rd a s) := by
  refine issueSimple_memOk _ (fun s hs => ?_) h
  dsimp only
  repeat' split
  all_goals simp [State.MemOk, hs]

theorem barFinish_memOk (s : State) (rd : Nat) (n : Word) (h : s.MemOk) : (barFinish s rd n).MemOk :=
  h.keep ((State.modThr_mem ..).trans ((State.wx_mem ..).trans (State.advance_mem ..)))

theorem barArrive_memOk {s : State} (rd : Nat) (takes : List Nat) (wait : Nat) {arrive tryIt : State → State}
    (complete : State → Bool) (count : Word) (h : s.MemOk) (ha : ∀ u : State, u.MemOk → (arrive u).MemOk)
    (ht : ∀ u : State, u.MemOk → (tryIt u).MemOk) : (barArrive s rd takes wait arrive complete tryIt count).MemOk :=
  .ite (barFinish_memOk _ _ _ (ht _ (ha _ h))) fun u hu => (ha u hu).keep (State.modThr_mem ..)

theorem barrier_memOk (rd : Nat) (a b : Src) {s : State} (h : s.MemOk) : Result.MemOk (barrier rd a b s) := by
  refine issue_memOk _ (fun u hu => ?_) h
  extract_lets th hd xr takes go
  have hgo : ∀ recs count, (∀ v : State, v.MemOk → State.MemOk (count v)) → (go recs count).MemOk := by
    intro recs count hc
    have left : ∀ w : Word, (u.wx rd w).advance.MemOk := fun w => hu.keep ((State.wx_mem ..).trans (State.advance_mem ..))
    dsimp only [go]
    split
    · split
      · exact left _
      · exact afterHeld_memOk _ (barArrive_memOk _ _ _ _ _ hu (fun v hv => hc _ hv) fun v hv => State.tryPop_memOk _ _ hv)
    · split
      · exact left _
      · refine .ite (afterHeld_memOk _ (barArrive_memOk _ _ _ _ _ hu (fun v hv => hc _ hv) fun v hv => State.tryGroup_memOk _ _ hv)) ?_
        exact left _
  clear_value go
  split
  · split
    · exact barFinish_memOk _ _ _ hu
    · exact Verdict.park_id_memOk _
  · refine .ite (hgo _ _ fun v hv => hv) (withWords_memOk _ _ _ _ _ fun ps ks => hgo _ _ fun v hv => ?_)
    exact State.countWords_memOk _ _ _ _ _ _ _ hv

theorem execBar_memOk (rd : Nat) (a b : Src) {s : State} (h : s.MemOk) : Result.MemOk (execBar rd a b s) := barrier_memOk _ _ _ h

theorem execCBar0_memOk {s : State} (h : s.MemOk) : Result.MemOk (execCBar0 s) := barrier_memOk _ _ _ h

theorem exitThread_memOk {s : State} (h : s.MemOk) : Result.MemOk (exitThread s) :=
  issue_memOk _ (fun _ hu => .ite (Verdict.park_id_memOk _) (.ite (Verdict.park_id_memOk _)
    (.ite (hu.keep (State.advance_mem ..)) (State.endThread_memOk _ _ hu)))) h

theorem execExit_memOk {s : State} (h : s.MemOk) : Result.MemOk (execExit s) := exitThread_memOk h

theorem execCExit_memOk {s : State} (h : s.MemOk) : Result.MemOk (execCExit s) := exitThread_memOk h

theorem yieldTurn_memOk {s : State} (h : s.MemOk) : Result.MemOk (yieldTurn s) :=
  issueSimple_memOk _ (fun _ hu => hu.keep (State.modThr_mem ..)) h

theorem execYield_memOk {s : State} (h : s.MemOk) : Result.MemOk (execYield s) := yieldTurn_memOk h

theorem execCYield_memOk {s : State} (h : s.MemOk) : Result.MemOk (execCYield s) := yieldTurn_memOk h

theorem execTrigger_memOk {s : State} (h : s.MemOk) : Result.MemOk (execTrigger s) := by
  refine issue_memOk _ (fun u hu => .ite (hu.keep (State.advance_mem ..)) (afterHeld_memOk _ ?_)) h
  have marked : (u.modThr u.cur fun th => { th with triggered := true }).MemOk := hu.keep (State.modThr_mem ..)
  dsimp only
  split
  · exact State.MemOk.keep (State.MemOk.keep marked ⟨rfl, rfl, rfl⟩) (State.advance_mem ..)
  · exact marked.keep (State.advance_mem ..)

@[simp] theorem execWhoami_memOk (rd : Nat) (a : Src) (s : State) (h : s.MemOk) : Result.MemOk (execWhoami rd a s) := by
  refine issueSimple_memOk _ (fun s hs => ?_) h
  simp [State.MemOk, hs]

/-! ### Engine -/

@[simp] theorem execWaittl_memOk (q : Nat) (a : Src) (s : State) (h : s.MemOk) : Result.MemOk (execWaittl q a s) := by
  refine issue_memOk _ (fun s hs => ?_) h
  repeat' split
  all_goals simp [State.MemOk, hs]

theorem accepting_memOk (k : Nat) {t : State} (h : t.MemOk) : (accepting k t).MemOk := by
  unfold accepting
  split
  · exact fun u hu => hu.keep (State.engMiss_mem ..)
  · exact (State.startHead_memOk _ _ (h.keep (State.dropAnswers_mem ..))).keep (State.advance_mem ..)

theorem requestOf_memOk (q tok : Nat) (b : Src) (kind : EngKind) (s : State) (h : s.MemOk) : (requestOf q tok b kind s).MemOk :=
  .ite trivial (afterHeld_memOk _ (.ite (Verdict.park_id_memOk _) (accepting_memOk _ (State.accept_memOk _ _ _ _ _ _
    (h.keep ((State.noMiss_mem ..).trans (State.deferX_mem ..)))))))

theorem engineRequest_memOk (q tok : Nat) (b : Src) (kind : EngKind) {s : State} (h : s.MemOk) :
    Result.MemOk (engineRequest q tok b kind s) :=
  issue_memOk _ (fun _ hu => requestOf_memOk _ _ _ _ _ hu) h

theorem execCpy_memOk (tok : Nat) (b : Src) (ch : Nat) {s : State} (h : s.MemOk) :
    Result.MemOk (execCpy tok b ch s) := engineRequest_memOk _ _ _ _ h

theorem execCpyRect_memOk (tok : Nat) (b : Src) (ch : Nat) {s : State} (h : s.MemOk) :
    Result.MemOk (execCpyRect tok b ch s) := engineRequest_memOk _ _ _ _ h

theorem execCpyWin_memOk (tok : Nat) (b : Src) (ch : Nat) {s : State} (h : s.MemOk) :
    Result.MemOk (execCpyWin tok b ch s) := engineRequest_memOk _ _ _ _ h

theorem execCpyCow_memOk (tok : Nat) (b : Src) (ch : Nat) {s : State} (h : s.MemOk) : Result.MemOk (execCpyCow tok b ch s) :=
  issueRoot_memOk _ (fun _ hu => requestOf_memOk _ _ _ _ _ hu) h

theorem execGath_memOk (tok : Nat) (b : Src) (ch : Nat) {s : State} (h : s.MemOk) :
    Result.MemOk (execGath tok b ch s) := engineRequest_memOk _ _ _ _ h

theorem execGathRows_memOk (tok : Nat) (b : Src) (ch : Nat) {s : State} (h : s.MemOk) :
    Result.MemOk (execGathRows tok b ch s) := engineRequest_memOk _ _ _ _ h

theorem execCollAllred_memOk (tok : Nat) (b : Src) (ch : Nat) {s : State} (h : s.MemOk) :
    Result.MemOk (execCollAllred tok b ch s) := engineRequest_memOk _ _ _ _ h

theorem execCollAllgath_memOk (tok : Nat) (b : Src) (ch : Nat) {s : State} (h : s.MemOk) :
    Result.MemOk (execCollAllgath tok b ch s) := engineRequest_memOk _ _ _ _ h

theorem execCollRedscat_memOk (tok : Nat) (b : Src) (ch : Nat) {s : State} (h : s.MemOk) :
    Result.MemOk (execCollRedscat tok b ch s) := engineRequest_memOk _ _ _ _ h

theorem execCollAlltoall_memOk (tok : Nat) (b : Src) (ch : Nat) {s : State} (h : s.MemOk) :
    Result.MemOk (execCollAlltoall tok b ch s) := engineRequest_memOk _ _ _ _ h

theorem execCopyComplete_memOk (ctx : Nat) {s : State} (h : s.MemOk) : Result.MemOk (execCopyComplete ctx s) := by
  have hn : s.noMiss.MemOk := h.keep (State.noMiss_mem ..)
  unfold execCopyComplete
  split
  · split
    · exact .ite (Result.next_memOk.2 (State.engTry_memOk _ _ _ hn (State.runCopy_memOk _ _ _ _ _ hn))) (Result.next_memOk.2 h)
    · exact Result.next_memOk.2 h
    · exact Result.next_memOk.2 h
  · exact Result.next_memOk.2 h

@[simp] theorem execRemoteWriteAck_memOk (op : Nat) (s : State) (h : s.MemOk) : Result.MemOk (execRemoteWriteAck op s) := by
  unfold execRemoteWriteAck
  split <;> simp [State.MemOk, h]

theorem execGatherComplete_memOk (ctx : Nat) {s : State} (h : s.MemOk) : Result.MemOk (execGatherComplete ctx s) := by
  have hn : s.noMiss.MemOk := h.keep (State.noMiss_mem ..)
  unfold execGatherComplete
  split
  · split
    · exact .ite (Result.next_memOk.2 (State.engTry_memOk _ _ _ hn (State.runGather_memOk _ _ _ _ _ hn))) (Result.next_memOk.2 h)
    · exact Result.next_memOk.2 h
    · exact Result.next_memOk.2 h
  · exact Result.next_memOk.2 h

theorem execCollChunkReceive_memOk (ctx : Nat) {s : State} (h : s.MemOk) : Result.MemOk (execCollChunkReceive ctx s) := by
  have hn : s.noMiss.MemOk := h.keep (State.noMiss_mem ..)
  unfold execCollChunkReceive
  split
  · split
    · split
      · exact Result.next_memOk.2 h
      · exact Result.next_memOk.2 (State.engTry_memOk _ _ _ hn (State.takeChunk_memOk _ _ _ _ _ hn))
    · exact Result.next_memOk.2 h
    · exact Result.next_memOk.2 h
  · exact Result.next_memOk.2 h

theorem execCollComplete_memOk (ctx : Nat) {s : State} (h : s.MemOk) : Result.MemOk (execCollComplete ctx s) := by
  have hn : s.noMiss.MemOk := h.keep (State.noMiss_mem ..)
  unfold execCollComplete
  split
  · split
    · exact .ite (Result.next_memOk.2 (State.engTry_memOk _ _ _ hn (State.endColl_memOk _ _ _ _ hn))) (Result.next_memOk.2 h)
    · exact Result.next_memOk.2 h
    · exact Result.next_memOk.2 h
  · exact Result.next_memOk.2 h

@[simp] theorem execLanyardFlitArrival_memOk (port : Nat) (s : State) (h : s.MemOk) :
    Result.MemOk (execLanyardFlitArrival port s) := by
  unfold execLanyardFlitArrival
  dsimp only
  repeat' split
  all_goals simp [State.MemOk, h]

theorem execAtsub_memOk (tok : Nat) (b : Src) {s : State} (h : s.MemOk) : Result.MemOk (execAtsub tok b s) := by
  refine issue_memOk _ (fun u hu => .ite trivial (afterHeld_memOk _ (.ite (Verdict.park_id_memOk _) ?_))) h
  extract_lets k
  split
  next g v e =>
    have hv : v.MemOk := State.memOk_of_pair e (State.readGraph_memOk _ _ _ _ _ (hu.keep ((State.noMiss_mem ..).trans (State.deferX_mem ..))))
    refine accepting_memOk _ ?_
    split
    · exact hv.keep (State.landX_mem ..)
    · exact hv.keep ⟨rfl, rfl, rfl⟩

/-! ### Vector -/

theorem vectorOp_memOk (n : Needs) (vd : Nat) (f : State → VOut) {s : State} (h : s.MemOk) : Result.MemOk (vectorOp n vd f s) :=
  issueSimple_memOk _ (fun _ hu => hu.keep (State.finishV_mem ..)) h

theorem vint_memOk (vd va vb pg : Nat) (t : Ety) (z mac : Bool) (f : Nat → Nat → Nat → Nat) {s : State} (h : s.MemOk) :
    Result.MemOk (vint vd va vb pg t z mac f s) := vectorOp_memOk _ _ _ h

theorem vint1_memOk (vd va pg : Nat) (t : Ety) (z : Bool) (f : Nat → Nat) {s : State} (h : s.MemOk) :
    Result.MemOk (vint1 vd va pg t z f s) := vectorOp_memOk _ _ _ h

theorem execVadd_memOk (vd va vb pg : Nat) (t : Ety) (z : Bool) {s : State} (h : s.MemOk) :
    Result.MemOk (execVadd vd va vb pg t z s) := vint_memOk _ _ _ _ _ _ _ _ h

theorem execVsub_memOk (vd va vb pg : Nat) (t : Ety) (z : Bool) {s : State} (h : s.MemOk) :
    Result.MemOk (execVsub vd va vb pg t z s) := vint_memOk _ _ _ _ _ _ _ _ h

theorem execVmul_memOk (vd va vb pg : Nat) (t : Ety) (z : Bool) {s : State} (h : s.MemOk) :
    Result.MemOk (execVmul vd va vb pg t z s) := vint_memOk _ _ _ _ _ _ _ _ h

theorem execVmulh_memOk (vd va vb pg : Nat) (t : Ety) (z : Bool) {s : State} (h : s.MemOk) :
    Result.MemOk (execVmulh vd va vb pg t z s) := vint_memOk _ _ _ _ _ _ _ _ h

theorem execVmin_memOk (vd va vb pg : Nat) (t : Ety) (z : Bool) {s : State} (h : s.MemOk) :
    Result.MemOk (execVmin vd va vb pg t z s) := vint_memOk _ _ _ _ _ _ _ _ h

theorem execVmax_memOk (vd va vb pg : Nat) (t : Ety) (z : Bool) {s : State} (h : s.MemOk) :
    Result.MemOk (execVmax vd va vb pg t z s) := vint_memOk _ _ _ _ _ _ _ _ h

theorem execVand_memOk (vd va vb pg : Nat) (t : Ety) (z : Bool) {s : State} (h : s.MemOk) :
    Result.MemOk (execVand vd va vb pg t z s) := vint_memOk _ _ _ _ _ _ _ _ h

theorem execVor_memOk (vd va vb pg : Nat) (t : Ety) (z : Bool) {s : State} (h : s.MemOk) :
    Result.MemOk (execVor vd va vb pg t z s) := vint_memOk _ _ _ _ _ _ _ _ h

theorem execVxor_memOk (vd va vb pg : Nat) (t : Ety) (z : Bool) {s : State} (h : s.MemOk) :
    Result.MemOk (execVxor vd va vb pg t z s) := vint_memOk _ _ _ _ _ _ _ _ h

theorem execVshl_memOk (vd va vb pg : Nat) (t : Ety) (z : Bool) {s : State} (h : s.MemOk) :
    Result.MemOk (execVshl vd va vb pg t z s) := vint_memOk _ _ _ _ _ _ _ _ h

theorem execVshr_memOk (vd va vb pg : Nat) (t : Ety) (z : Bool) {s : State} (h : s.MemOk) :
    Result.MemOk (execVshr vd va vb pg t z s) := vint_memOk _ _ _ _ _ _ _ _ h

theorem execVsra_memOk (vd va vb pg : Nat) (t : Ety) (z : Bool) {s : State} (h : s.MemOk) :
    Result.MemOk (execVsra vd va vb pg t z s) := vint_memOk _ _ _ _ _ _ _ _ h

theorem execVabs_memOk (vd va pg : Nat) (t : Ety) (z : Bool) {s : State} (h : s.MemOk) :
    Result.MemOk (execVabs vd va pg t z s) := vint1_memOk _ _ _ _ _ _ h

theorem execVneg_memOk (vd va pg : Nat) (t : Ety) (z : Bool) {s : State} (h : s.MemOk) :
    Result.MemOk (execVneg vd va pg t z s) := vint1_memOk _ _ _ _ _ _ h

theorem execVmac_memOk (vd va vb pg : Nat) (t : Ety) (z : Bool) {s : State} (h : s.MemOk) :
    Result.MemOk (execVmac vd va vb pg t z s) := vint_memOk _ _ _ _ _ _ _ _ h

theorem vflt_memOk (vd va vb pg : Nat) (t : Ety) (z fma : Bool) (f : Fmt → Nat → Nat → Nat → FRes) {s : State} (h : s.MemOk) :
    Result.MemOk (vflt vd va vb pg t z fma f s) := vectorOp_memOk _ _ _ h

theorem vflt1_memOk (vd va pg : Nat) (t : Ety) (z : Bool) (f : Fmt → Nat → FRes) {s : State} (h : s.MemOk) :
    Result.MemOk (vflt1 vd va pg t z f s) := vectorOp_memOk _ _ _ h

theorem execVfadd_memOk (vd va vb pg : Nat) (t : Ety) (z : Bool) {s : State} (h : s.MemOk) :
    Result.MemOk (execVfadd vd va vb pg t z s) := vflt_memOk _ _ _ _ _ _ _ _ h

theorem execVfsub_memOk (vd va vb pg : Nat) (t : Ety) (z : Bool) {s : State} (h : s.MemOk) :
    Result.MemOk (execVfsub vd va vb pg t z s) := vflt_memOk _ _ _ _ _ _ _ _ h

theorem execVfmul_memOk (vd va vb pg : Nat) (t : Ety) (z : Bool) {s : State} (h : s.MemOk) :
    Result.MemOk (execVfmul vd va vb pg t z s) := vflt_memOk _ _ _ _ _ _ _ _ h

theorem execVfma_memOk (vd va vb pg : Nat) (t : Ety) (z : Bool) {s : State} (h : s.MemOk) :
    Result.MemOk (execVfma vd va vb pg t z s) := vflt_memOk _ _ _ _ _ _ _ _ h

theorem execVfmin_memOk (vd va vb pg : Nat) (t : Ety) (z : Bool) {s : State} (h : s.MemOk) :
    Result.MemOk (execVfmin vd va vb pg t z s) := vflt_memOk _ _ _ _ _ _ _ _ h

theorem execVfmax_memOk (vd va vb pg : Nat) (t : Ety) (z : Bool) {s : State} (h : s.MemOk) :
    Result.MemOk (execVfmax vd va vb pg t z s) := vflt_memOk _ _ _ _ _ _ _ _ h

theorem execVfabs_memOk (vd va pg : Nat) (t : Ety) (z : Bool) {s : State} (h : s.MemOk) :
    Result.MemOk (execVfabs vd va pg t z s) := vflt1_memOk _ _ _ _ _ _ h

theorem execVfneg_memOk (vd va pg : Nat) (t : Ety) (z : Bool) {s : State} (h : s.MemOk) :
    Result.MemOk (execVfneg vd va pg t z s) := vflt1_memOk _ _ _ _ _ _ h

@[simp] theorem execVcvt_memOk (vd va pg : Nat) (dst src : Ety) (r : Rnd) (o : Ovf) (z : Bool) (s : State) (h : s.MemOk) :
    Result.MemOk (execVcvt vd va pg dst src r o z s) := by
  refine issue_memOk _ (fun s hs => ?_) h
  dsimp only
  split <;> simp [State.MemOk, hs]

theorem withEls_memOk (s : State) (u : Use) (wr : Bool) (n : Nat) (eas : List (Nat × Word))
    {k : List (Nat × Place × Nat × Option Leaf) → List Nat → Verdict} (hk : ∀ els ks, (k els ks).MemOk) :
    (withEls s u wr n eas k).MemOk := by
  unfold withEls
  split
  · exact hk _ _
  · exact trivial
  · exact fun s h => h.foldl (fun s va hs => hs.keep (State.miss_mem ..)) _
  · exact trivial

theorem vload_memOk (vd : Nat) (vs : List Nat) (xs : Src) (pg : Nat) (sz : ESize) (z : Bool) (ea : State → Nat → Word) {s : State}
    (h : s.MemOk) : Result.MemOk (vload vd vs xs pg sz z ea s) :=
  issue_memOk _ (fun _ hu => withEls_memOk _ _ _ _ _ fun _ _ => accessing_memOk _ _ _
    ((State.countEls_memOk _ _ _ (State.submit_memOk _ _ _ _ (hu.keep (State.deferV_mem ..)))).keep (State.advance_mem ..))) h

theorem vstore_memOk (vd : Nat) (vs : List Nat) (xs : Src) (pg : Nat) (sz : ESize) (ea : State → Nat → Word) {s : State}
    (h : s.MemOk) : Result.MemOk (vstore vd vs xs pg sz ea s) :=
  issue_memOk _ (fun _ hu => withEls_memOk _ _ _ _ _ fun _ _ => accessing_memOk _ _ _
    ((State.countEls_memOk _ _ _ (State.submit_memOk _ _ _ _ hu)).keep (State.advance_mem ..))) h

theorem execVld_memOk (vd : Nat) (xs : Src) (pg : Nat) (sz : ESize) (z : Bool) {s : State} (h : s.MemOk) :
    Result.MemOk (execVld vd xs pg sz z s) := vload_memOk _ _ _ _ _ _ _ h

theorem execVst_memOk (vd : Nat) (xs : Src) (pg : Nat) (sz : ESize) {s : State} (h : s.MemOk) :
    Result.MemOk (execVst vd xs pg sz s) := vstore_memOk _ _ _ _ _ _ h

theorem execVgath_memOk (vd va : Nat) (xs : Src) (pg : Nat) (sz : ESize) (z : Bool) {s : State} (h : s.MemOk) :
    Result.MemOk (execVgath vd va xs pg sz z s) := vload_memOk _ _ _ _ _ _ _ h

theorem execVscat_memOk (vd va : Nat) (xs : Src) (pg : Nat) (sz : ESize) {s : State} (h : s.MemOk) :
    Result.MemOk (execVscat vd va xs pg sz s) := vstore_memOk _ _ _ _ _ _ h

theorem execVsplat_memOk (vd : Nat) (xs : Src) (pg : Nat) (sz : ESize) (z : Bool) {s : State} (h : s.MemOk) :
    Result.MemOk (execVsplat vd xs pg sz z s) := vectorOp_memOk _ _ _ h

@[simp] theorem execVwidth_memOk (rd : Nat) (s : State) (h : s.MemOk) : Result.MemOk (execVwidth rd s) := by
  refine issueSimple_memOk _ (fun s hs => ?_) h
  simp [State.MemOk, hs]

@[simp] theorem execVbound_memOk (pd : Nat) (a b : Src) (t : Ety) (s : State) (h : s.MemOk) :
    Result.MemOk (execVbound pd a b t s) := by
  refine issueSimple_memOk _ (fun s hs => ?_) h
  simp [State.MemOk, hs]

@[simp] theorem execVcmp_memOk (pd va vb pg : Nat) (t : Ety) (cc : Cmp) (s : State) (h : s.MemOk) :
    Result.MemOk (execVcmp pd va vb pg t cc s) := by
  refine issueSimple_memOk _ (fun s hs => ?_) h
  simp [State.MemOk, hs]

theorem predOp_memOk (pd pa pb : Nat) (f : PWord → PWord → PWord) {s : State} (h : s.MemOk) : Result.MemOk (predOp pd pa pb f s) :=
  issueSimple_memOk _ (fun _ hu => hu.keep (State.wp_mem ..)) h

theorem execPand_memOk (pd pa pb : Nat) {s : State} (h : s.MemOk) : Result.MemOk (execPand pd pa pb s) := predOp_memOk _ _ _ _ h

theorem execPor_memOk (pd pa pb : Nat) {s : State} (h : s.MemOk) : Result.MemOk (execPor pd pa pb s) := predOp_memOk _ _ _ _ h

theorem execPnot_memOk (pd pa : Nat) {s : State} (h : s.MemOk) : Result.MemOk (execPnot pd pa s) := predOp_memOk _ _ _ _ h

theorem execPxor_memOk (pd pa pb : Nat) {s : State} (h : s.MemOk) : Result.MemOk (execPxor pd pa pb s) := predOp_memOk _ _ _ _ h

@[simp] theorem execPcount_memOk (ps rd : Nat) (t : Ety) (s : State) (h : s.MemOk) : Result.MemOk (execPcount ps rd t s) := by
  refine issueSimple_memOk _ (fun s hs => ?_) h
  simp [State.MemOk, hs]

@[simp] theorem execPfirst_memOk (ps rd : Nat) (t : Ety) (s : State) (h : s.MemOk) : Result.MemOk (execPfirst ps rd t s) := by
  refine issueSimple_memOk _ (fun s hs => ?_) h
  simp [State.MemOk, hs]

theorem vslide_memOk (vd va : Nat) (xs : Src) (pg : Nat) (sz : ESize) (z : Bool) (f : Nat → Nat → Nat → Option Nat) {s : State} (h : s.MemOk) :
    Result.MemOk (vslide vd va xs pg sz z f s) := vectorOp_memOk _ _ _ h

theorem execVslideup_memOk (vd va : Nat) (xs : Src) (pg : Nat) (sz : ESize) (z : Bool) {s : State} (h : s.MemOk) :
    Result.MemOk (execVslideup vd va xs pg sz z s) := vslide_memOk _ _ _ _ _ _ _ h

theorem execVslidedn_memOk (vd va : Nat) (xs : Src) (pg : Nat) (sz : ESize) (z : Bool) {s : State} (h : s.MemOk) :
    Result.MemOk (execVslidedn vd va xs pg sz z s) := vslide_memOk _ _ _ _ _ _ _ h

theorem execVperm_memOk (vd va vb pg : Nat) (t : Ety) (z : Bool) {s : State} (h : s.MemOk) :
    Result.MemOk (execVperm vd va vb pg t z s) := vectorOp_memOk _ _ _ h

theorem execVcompress_memOk (vd va pg : Nat) (t : Ety) (z : Bool) {s : State} (h : s.MemOk) :
    Result.MemOk (execVcompress vd va pg t z s) := vectorOp_memOk _ _ _ h

theorem execVsel_memOk (vd va vb pg : Nat) (t : Ety) {s : State} (h : s.MemOk) :
    Result.MemOk (execVsel vd va vb pg t s) := vectorOp_memOk _ _ _ h

@[simp] theorem execVext_memOk (va rd : Nat) (b : Src) (sz : ESize) (s : State) (h : s.MemOk) :
    Result.MemOk (execVext va rd b sz s) := by
  refine issueSimple_memOk _ (fun s hs => ?_) h
  simp [State.MemOk, hs]

theorem execVins_memOk (vd : Nat) (a b : Src) (sz : ESize) {s : State} (h : s.MemOk) :
    Result.MemOk (execVins vd a b sz s) := vectorOp_memOk _ _ _ h

theorem vreduce_memOk (vd va vb pg : Nat) (t : Ety) (ident : Nat) (f : Nat → Nat → FRes) {s : State} (h : s.MemOk) :
    Result.MemOk (vreduce vd va vb pg t ident f s) := vectorOp_memOk _ _ _ h

theorem execVredadd_memOk (vd va vb pg : Nat) (t : Ety) {s : State} (h : s.MemOk) : Result.MemOk (execVredadd vd va vb pg t s) := by
  unfold execVredadd
  cases fmtOf t with
  | none => exact vreduce_memOk _ _ _ _ _ _ _ h
  | some f => exact vreduce_memOk _ _ _ _ _ _ _ h

theorem execVredmax_memOk (vd va vb pg : Nat) (t : Ety) {s : State} (h : s.MemOk) : Result.MemOk (execVredmax vd va vb pg t s) := by
  unfold execVredmax
  cases fmtOf t with
  | none => exact vreduce_memOk _ _ _ _ _ _ _ h
  | some f => exact vreduce_memOk _ _ _ _ _ _ _ h

theorem execVredmin_memOk (vd va vb pg : Nat) (t : Ety) {s : State} (h : s.MemOk) : Result.MemOk (execVredmin vd va vb pg t s) := by
  unfold execVredmin
  cases fmtOf t with
  | none => exact vreduce_memOk _ _ _ _ _ _ _ h
  | some f => exact vreduce_memOk _ _ _ _ _ _ _ h

theorem execVfredadd_memOk (vd va vb pg : Nat) (t : Ety) {s : State} (h : s.MemOk) :
    Result.MemOk (execVfredadd vd va vb pg t s) := vectorOp_memOk _ _ _ h

/-! ### Special -/

theorem sfuOp_memOk (vd va pg : Nat) (t : Ety) (z : Bool) (fn : SfuFn) {s : State} (h : s.MemOk) :
    Result.MemOk (sfuOp vd va pg t z fn s) :=
  issue_memOk _ (fun _ hu => .ite (Verdict.park_id_memOk _) (hu.keep
    ((State.deferV_mem ..).trans ((State.modCore_mem ..).trans ((State.modThr_mem ..).trans (State.advance_mem ..)))))) h

theorem execVrcp_memOk (vd va pg : Nat) (t : Ety) (z : Bool) {s : State} (h : s.MemOk) :
    Result.MemOk (execVrcp vd va pg t z s) := sfuOp_memOk _ _ _ _ _ _ h

theorem execVrsq_memOk (vd va pg : Nat) (t : Ety) (z : Bool) {s : State} (h : s.MemOk) :
    Result.MemOk (execVrsq vd va pg t z s) := sfuOp_memOk _ _ _ _ _ _ h

theorem execVexp2_memOk (vd va pg : Nat) (t : Ety) (z : Bool) {s : State} (h : s.MemOk) :
    Result.MemOk (execVexp2 vd va pg t z s) := sfuOp_memOk _ _ _ _ _ _ h

theorem execVlog2_memOk (vd va pg : Nat) (t : Ety) (z : Bool) {s : State} (h : s.MemOk) :
    Result.MemOk (execVlog2 vd va pg t z s) := sfuOp_memOk _ _ _ _ _ _ h

theorem execVtanh_memOk (vd va pg : Nat) (t : Ety) (z : Bool) {s : State} (h : s.MemOk) :
    Result.MemOk (execVtanh vd va pg t z s) := sfuOp_memOk _ _ _ _ _ _ h

@[simp] theorem execSfuAccept_memOk (core : Nat) (s : State) (h : s.MemOk) : Result.MemOk (execSfuAccept core s) := by
  unfold execSfuAccept
  split <;> simp [State.MemOk, h]

@[simp] theorem execSfuDeliver_memOk (core : Nat) (s : State) (h : s.MemOk) : Result.MemOk (execSfuDeliver core s) := by
  unfold execSfuDeliver
  dsimp only
  repeat' split
  all_goals simp [State.MemOk, h]

@[simp] theorem execNormaliserServiceEnd_memOk (core : Nat) (s : State) (h : s.MemOk) :
    Result.MemOk (execNormaliserServiceEnd core s) := by
  unfold execNormaliserServiceEnd
  dsimp only
  repeat' split
  all_goals simp [State.MemOk, h]

theorem sortOp_memOk (vs : List Nat) (pg vd lat : Nat) (f : State → VWord) {s : State} (h : s.MemOk) :
    Result.MemOk (sortOp vs pg vd lat f s) := by
  refine issue_memOk _ (fun u hu => ?_) h
  dsimp only
  split
  · exact Verdict.park_id_memOk _
  · exact hu.keep ((State.deferV_mem ..).trans ((State.modCore_mem ..).trans (State.advance_mem ..)))

theorem execVtopk_memOk (vd va pg : Nat) (t : Ety) {s : State} (h : s.MemOk) :
    Result.MemOk (execVtopk vd va pg t s) := sortOp_memOk _ _ _ _ _ h

theorem execVhist_memOk (vd va pg : Nat) (t : Ety) {s : State} (h : s.MemOk) :
    Result.MemOk (execVhist vd va pg t s) := sortOp_memOk _ _ _ _ _ h

@[simp] theorem execSortUnitComplete_memOk (core : Nat) (s : State) (h : s.MemOk) : Result.MemOk (execSortUnitComplete core s) := by
  unfold execSortUnitComplete
  repeat' split
  all_goals simp [State.MemOk, h]

theorem execVmaxx_memOk (vd va vb : Nat) (t : Ety) {s : State} (h : s.MemOk) :
    Result.MemOk (execVmaxx vd va vb t s) := vectorOp_memOk _ _ _ h

theorem execVquant_memOk (vd va vb pg : Nat) (t : Ety) {s : State} (h : s.MemOk) :
    Result.MemOk (execVquant vd va vb pg t s) := vectorOp_memOk _ _ _ h

/-! ### Queue -/

theorem withPort_memOk (s : State) (q : Nat) {k : Word → Port → Verdict} (hk : ∀ w p, (k w p).MemOk) : (withPort s q k).MemOk := by
  unfold withPort
  split
  · exact trivial
  · split
    · exact hk _ _
    · exact trivial

@[simp] theorem execQbind_memOk (q : Nat) (a : Src) (s : State) (h : s.MemOk) : Result.MemOk (execQbind q a s) := by
  refine issue_memOk _ (fun s hs => ?_) h
  dsimp only
  repeat' split
  all_goals simp [State.MemOk, hs]

@[simp] theorem execQfree_memOk (q : Nat) (s : State) (h : s.MemOk) : Result.MemOk (execQfree q s) := by
  refine issueSimple_memOk _ (fun s hs => ?_) h
  simp [State.MemOk, hs]

theorem afterDesc_memOk (s : State) (p : Port) {v : Verdict} (h : v.MemOk) : (afterDesc s p v).MemOk := by
  cases p with
  | ring core off => exact .ite h (Verdict.park_id_memOk _)
  | sfu => exact h
  | braid => exact h

theorem execQstat_memOk (q rd : Nat) {s : State} (h : s.MemOk) : Result.MemOk (execQstat q rd s) := by
  refine issue_memOk _ (fun u hu => .ite (hu.keep ((State.wx_mem ..).trans (State.advance_mem ..)))
    (withPort_memOk _ _ fun w p => afterDesc_memOk _ _ ?_)) h
  split
  · exact trivial
  · exact hu.keep ((State.wx_mem ..).trans (State.advance_mem ..))

theorem popInto_memOk (q rd : Nat) {s : State} (h : s.MemOk) : Result.MemOk (popInto q rd s) := by
  refine issue_memOk _ (fun u hu => withPort_memOk _ _ fun _ p => afterDesc_memOk _ _ ?_) h
  extract_lets th
  split
  · split
    · exact Verdict.park_id_memOk _
    · exact hu.keep ((State.modThr_mem ..).trans ((State.wx_mem ..).trans (State.advance_mem ..)))
  · split
    · exact Verdict.park_id_memOk _
    · exact hu.keep ((State.braidPop_mem ..).trans ((State.wx_mem ..).trans (State.advance_mem ..)))
  · split
    · exact trivial
    · refine .ite (Verdict.park_id_memOk _) ?_
      have taken : ∀ c cc o bs, ((u.noteRead th.ctx c 8).writePad th.ctx cc o bs).MemOk := fun c cc o bs =>
        State.writePad_memOk _ _ _ _ _ (hu.keep (State.noteRead_mem ..))
      exact .ite ((taken _ _ _ _).keep ((State.SameMem.refl _).trans (State.advance_mem ..)))
        ((taken _ _ _ _).keep ((State.wx_mem ..).trans (State.advance_mem ..)))

theorem execQrd_memOk (q rd : Nat) {s : State} (h : s.MemOk) : Result.MemOk (execQrd q rd s) := popInto_memOk _ _ h

theorem execCQrd_memOk (a b : Nat) {s : State} (h : s.MemOk) : Result.MemOk (execCQrd a b s) := popInto_memOk _ _ h

theorem pushFrom_memOk (q : Nat) (a : Src) {s : State} (h : s.MemOk) : Result.MemOk (pushFrom q a s) := by
  refine issue_memOk _ (fun u hu => withPort_memOk _ _ fun _ p => afterDesc_memOk _ _ ?_) h
  extract_lets th v
  split
  · exact .ite (Verdict.park_id_memOk _) (hu.keep ((State.modThr_mem ..).trans (State.advance_mem ..)))
  · exact State.MemOk.keep (State.submit_memOk _ _ _ _ hu) (State.advance_mem ..)
  · split
    · exact trivial
    · refine .ite (Verdict.park_id_memOk _) (afterHeld_memOk _ ?_)
      exact (State.writePad_memOk _ _ _ _ _ (State.writePad_memOk _ _ _ _ _ hu)).keep (State.advance_mem ..)

theorem execQwr_memOk (q : Nat) (a : Src) {s : State} (h : s.MemOk) : Result.MemOk (execQwr q a s) := pushFrom_memOk _ _ h

theorem execCQwr_memOk (a b : Nat) {s : State} (h : s.MemOk) : Result.MemOk (execCQwr a b s) := pushFrom_memOk _ _ h

/-! ### Sys -/

@[simp] theorem execTrap_memOk (rd : Nat) (a b : Src) (s : State) (h : s.MemOk) : Result.MemOk (execTrap rd a b s) := by
  refine issue_memOk _ (fun s hs => ?_) h
  simp [State.MemOk, hs]

@[simp] theorem execBrk_memOk (s : State) (h : s.MemOk) : Result.MemOk (execBrk s) := by
  refine issue_memOk _ (fun s hs => ?_) h
  simp [State.MemOk, hs]

@[simp] theorem execWfe_memOk (s : State) (h : s.MemOk) : Result.MemOk (execWfe s) := by
  refine issueSimple_memOk _ (fun s hs => ?_) h
  simp [State.MemOk, hs]

@[simp] theorem execWfeTimeout_memOk (t : Nat) (s : State) (h : s.MemOk) : Result.MemOk (execWfeTimeout t s) := by
  unfold execWfeTimeout
  repeat' split
  all_goals simp [State.MemOk, h]

theorem withSlot_memOk (s : State) (a : Src) {k : Nat → Verdict} (hk : ∀ sid, (k sid).MemOk) : (withSlot s a k).MemOk :=
  .ite (hk _) trivial

theorem slotMember_memOk (a : Src) {f : State → Nat → State} (hf : ∀ (u : State) t, u.MemOk → (f u t).MemOk) {s : State} (h : s.MemOk) :
    Result.MemOk (slotMember a f s) := by
  refine issueRoot_memOk _ (fun u hu => withSlot_memOk _ _ fun sid => ?_) h
  split
  · exact (hf _ _ hu).keep (State.advance_mem ..)
  · exact hu.keep (State.advance_mem ..)

theorem execEret_memOk (a : Src) {s : State} (h : s.MemOk) : Result.MemOk (execEret a s) :=
  slotMember_memOk a (fun _ _ hu => hu.keep (State.eretTo_mem ..)) h

theorem execPark_memOk (a : Src) {s : State} (h : s.MemOk) : Result.MemOk (execPark a s) :=
  slotMember_memOk a (fun _ _ hu => hu.keep (State.modThr_mem ..)) h

theorem execUnpark_memOk (a : Src) {s : State} (h : s.MemOk) : Result.MemOk (execUnpark a s) :=
  slotMember_memOk a (fun _ _ hu => hu.keep (State.modThr_mem ..)) h

theorem execKill_memOk (a : Src) {s : State} (h : s.MemOk) : Result.MemOk (execKill a s) :=
  slotMember_memOk a (fun _ _ hu => State.endThread_memOk _ _ hu) h

@[simp] theorem execSlotld_memOk (rd : Nat) (a : Src) (s : State) (h : s.MemOk) : Result.MemOk (execSlotld rd a s) := by
  refine issueRoot_memOk _ (fun s hs => ?_) h
  repeat' split
  all_goals simp [State.MemOk, hs]

@[simp] theorem execSlotst_memOk (a b : Src) (s : State) (h : s.MemOk) : Result.MemOk (execSlotst a b s) := by
  refine issueRoot_memOk _ (fun s hs => ?_) h
  dsimp only
  repeat' split
  all_goals simp [State.MemOk, hs]

theorem execTrapRecordWrite_memOk (core : Nat) {s : State} (h : s.MemOk) : Result.MemOk (execTrapRecordWrite core s) := by
  unfold execTrapRecordWrite
  extract_lets c off cx
  split
  next rec rest _ =>
    extract_lets w s1 w0 s2 s3 s4
    have h2 : s2.MemOk := State.writePad_memOk _ _ _ _ _ (State.writePad_memOk _ _ _ _ _ h)
    have h4 : s4.MemOk := h2.keep (((State.setPadFull_mem ..).trans (State.modCore_mem ..)).trans
      ((State.modThr_mem ..).trans (State.numberRecord_mem ..)))
    exact .ite (Result.next_memOk.2 h) (Result.next_memOk.2 (State.settle_memOk _ h4))
  · exact Result.next_memOk.2 h

/-! ### Residency -/

theorem withTid_memOk (s : State) (a : Src) {k : Nat → Verdict} (hk : ∀ tid, (k tid).MemOk) : (withTid s a k).MemOk :=
  .ite (hk _) trivial

theorem execTidset_memOk (a b : Src) {s : State} (h : s.MemOk) : Result.MemOk (execTidset a b s) := by
  refine issue_memOk _ (fun u hu => withTid_memOk _ _ fun tid => withWords_memOk _ _ _ _ _ fun ps ks => afterHeld_memOk _ ?_) h
  split
  next bs bad s' e =>
    have hs : s'.MemOk := hu.keep (.of_triple e (State.readParts_mem ..))
    extract_lets ws
    clear_value ws
    refine Verdict.MemOk.ite (fun v hv => hv.keep (State.readParts_mem ..)) (Verdict.MemOk.ite trivial (Verdict.go_memOk.2 ?_))
    refine State.MemOk.keep (State.countWords_memOk _ _ _ _ _ _ _ ?_) (State.advance_mem ..)
    exact State.SameMem.memOk (s := s') ⟨rfl, rfl, rfl⟩ hs

theorem execTidget_memOk (a b : Src) {s : State} (h : s.MemOk) : Result.MemOk (execTidget a b s) :=
  issue_memOk _ (fun _ hu => withTid_memOk _ _ fun _ => withWords_memOk _ _ _ _ _ fun _ _ => afterHeld_memOk _
    ((State.countWords_memOk _ _ _ _ _ _ _ (State.writeParts_memOk _ _ _ _ hu)).keep (State.advance_mem ..))) h

theorem execTidpatch_memOk (d : Nat) (a b : Src) {s : State} (h : s.MemOk) : Result.MemOk (execTidpatch d a b s) :=
  issue_memOk _ (fun _ hu => withTid_memOk _ _ fun _ => .ite trivial (afterHeld_memOk _
    (State.MemOk.keep (State.MemOk.keep hu ⟨rfl, rfl, rfl⟩) (State.advance_mem ..)))) h

theorem resMember_memOk (tok : Nat) (b : Src) {f : State → Word → State} (hf : ∀ (u : State) w, u.MemOk → (f u w).MemOk) {s : State}
    (h : s.MemOk) : Result.MemOk (resMember tok b f s) :=
  issue_memOk _ (fun _ hu => afterHeld_memOk _ ((hf _ _ (hu.keep (State.deferX_mem ..))).keep (State.advance_mem ..))) h

theorem execRalloc_memOk (pin auto : Bool) (tok : Nat) (b : Src) {s : State} (h : s.MemOk) :
    Result.MemOk (execRalloc pin auto tok b s) :=
  resMember_memOk _ _ (fun u w hu => by
    split
    next e => exact hu.keep ((State.SameMem.of_pair e (State.allocRes_mem ..)).trans (State.landX_mem ..))) h

theorem execRfill_memOk (tok : Nat) (b : Src) {s : State} (h : s.MemOk) : Result.MemOk (execRfill tok b s) :=
  resMember_memOk _ _ (fun _ _ hu => State.requestRes_memOk _ _ _ _ hu) h

theorem execRpin_memOk (tok : Nat) (b : Src) {s : State} (h : s.MemOk) : Result.MemOk (execRpin tok b s) :=
  resMember_memOk _ _ (fun _ _ hu => State.requestRes_memOk _ _ _ _ hu) h

theorem execRunpin_memOk (tok : Nat) (b : Src) {s : State} (h : s.MemOk) : Result.MemOk (execRunpin tok b s) :=
  resMember_memOk _ _ (fun _ _ hu => State.requestRes_memOk _ _ _ _ hu) h

theorem execRrevoke_memOk (tok : Nat) (b : Src) {s : State} (h : s.MemOk) : Result.MemOk (execRrevoke tok b s) :=
  resMember_memOk _ _ (fun _ _ hu => State.requestRes_memOk _ _ _ _ hu) h

theorem execRquery_memOk (tok : Nat) (b : Src) {s : State} (h : s.MemOk) : Result.MemOk (execRquery tok b s) :=
  resMember_memOk _ _ (fun _ _ hu => State.requestRes_memOk _ _ _ _ hu) h

theorem execResidencyFillComplete_memOk (g hd : Nat) {s : State} (h : s.MemOk) :
    Result.MemOk (execResidencyFillComplete g hd s) := by
  unfold execResidencyFillComplete
  split
  · exact Result.next_memOk.2 h
  · split
    · exact Result.next_memOk.2 h
    next r _ f _ =>
      extract_lets d ok
      split
      next cols u e =>
        have hu : u.MemOk := by
          refine State.memOk_of_pair e ?_
          split
          · exact readColumns_memOk _ _ _ _ _ h
          · exact h
        split
        · refine Result.next_memOk.2 (State.pump_memOk _ _ _ (State.MemOk.keep (State.unregister_memOk _ _ _ _ ?_)
            ((State.landRes_mem ..).trans ((State.abandonStalled_mem ..).trans (State.startCommand_mem ..)))))
          exact hu.keep (State.modRes_mem ..)
        · refine Result.next_memOk.2 (State.pump_memOk _ _ _ (State.MemOk.keep (State.unregister_memOk _ _ _ _ ?_)
            ((State.landRes_mem ..).trans ((State.resumeStalled_mem ..).trans (State.startCommand_mem ..)))))
          exact hu.keep ((State.modRes_mem ..).trans (State.loadWeights_mem ..))

theorem execAutofillRefillComplete_memOk (g hd : Nat) {s : State} (h : s.MemOk) :
    Result.MemOk (execAutofillRefillComplete g hd s) := by
  unfold execAutofillRefillComplete
  split
  · exact Result.next_memOk.2 h
  next r _ =>
    have hr : (s.refill r).1.MemOk := State.refill_memOk _ _ h
    split
    next e => exact Result.next_memOk.2 (State.pump_memOk _ _ _
      ((State.memOk_of_fst e hr).keep ((State.resumeStalled_mem ..).trans (State.startCommand_mem ..))))
    next e => exact Result.next_memOk.2 (State.pump_memOk _ _ _
      ((State.memOk_of_fst e hr).keep ((State.abandonHead_mem ..).trans (State.startCommand_mem ..))))

theorem execCanopyBackgroundRefill_memOk (g hd : Nat) {s : State} (h : s.MemOk) :
    Result.MemOk (execCanopyBackgroundRefill g hd s) := by
  unfold execCanopyBackgroundRefill
  split
  · exact Result.next_memOk.2 h
  next r _ =>
    have hr : (s.refill r).1.MemOk := State.refill_memOk _ _ h
    split
    next e => exact Result.next_memOk.2 ((State.memOk_of_fst e hr).keep ((State.resumeStalled_mem ..).trans (State.startCommand_mem ..)))
    next e => exact Result.next_memOk.2 ((State.memOk_of_fst e hr).keep (State.modRes_mem ..))

/-! ### Matrix -/

theorem execMlease_memOk (tok : Nat) {s : State} (h : s.MemOk) : Result.MemOk (execMlease tok s) := by
  refine issue_memOk _ (fun u hu => afterHeld_memOk _ ?_) h
  dsimp only
  split
  · exact hu.keep ((State.deferX_mem ..).trans ((State.landX_mem ..).trans (State.advance_mem ..)))
  · exact Verdict.park_id_memOk _
  · exact hu.keep ((State.deferX_mem ..).trans ((State.modArr_mem ..).trans (State.advance_mem ..)))

@[simp] theorem execLeaseGrant_memOk (g bank : Nat) (s : State) (h : s.MemOk) : Result.MemOk (execLeaseGrant g bank s) := by
  unfold execLeaseGrant
  dsimp only
  repeat' split
  all_goals simp [State.MemOk, h]

@[simp] theorem execMrel_memOk (l : Nat) (s : State) (h : s.MemOk) : Result.MemOk (execMrel l s) := by
  refine issue_memOk _ (fun s hs => ?_) h
  dsimp only
  repeat' split
  all_goals simp [State.MemOk, hs]

@[simp] theorem execArrayRunStart_memOk (g : Nat) (s : State) (h : s.MemOk) : Result.MemOk (execArrayRunStart g s) := by
  unfold execArrayRunStart
  split <;> simp [State.MemOk, h]

@[simp] theorem execArrayRunLimit_memOk (g : Nat) (s : State) (h : s.MemOk) : Result.MemOk (execArrayRunLimit g s) := by
  unfold execArrayRunLimit
  split <;> simp [State.MemOk, h]

theorem arrayCommand_memOk (l : Nat) (s : State) {k : Verdict} (hk : k.MemOk) : (arrayCommand l s k).MemOk :=
  .ite trivial (afterHeld_memOk _ (.ite (Verdict.park_id_memOk _) hk))

theorem withoutCause_memOk (cs : List (Nat × Bool)) {k : Verdict} (hk : k.MemOk) : (withoutCause cs k).MemOk := by
  unfold withoutCause
  split
  · exact trivial
  · exact hk

theorem execMzero_memOk (l : Nat) {s : State} (h : s.MemOk) : Result.MemOk (execMzero l s) :=
  issue_memOk _ (fun _ hu => arrayCommand_memOk _ _ (hu.keep ((State.acceptCmd_mem ..).trans (State.advance_mem ..)))) h

theorem mmulOp_memOk (l : Nat) (a b : Src) (st : Bool) {s : State} (h : s.MemOk) : Result.MemOk (mmulOp l a b st s) := by
  refine issue_memOk _ (fun u hu => arrayCommand_memOk _ _ (withoutCause_memOk _ ?_)) h
  extract_lets
  have accepted : ∀ (v : State) op stall, v.MemOk → (v.acceptCmd l op stall).advance.MemOk := fun v op stall hv =>
    hv.keep ((State.acceptCmd_mem ..).trans (State.advance_mem ..))
  exact accepted _ _ _ (.ite hu (hu.keep (State.useRes_mem ..)))

theorem execMmul_memOk (l : Nat) (a b : Src) {s : State} (h : s.MemOk) : Result.MemOk (execMmul l a b s) := mmulOp_memOk _ _ _ _ h

theorem execMmulS_memOk (l : Nat) (a b : Src) {s : State} (h : s.MemOk) : Result.MemOk (execMmulS l a b s) := mmulOp_memOk _ _ _ _ h

theorem execMdrain_memOk (l tok : Nat) (b : Src) {s : State} (h : s.MemOk) : Result.MemOk (execMdrain l tok b s) :=
  issue_memOk _ (fun _ hu => arrayCommand_memOk _ _ (withoutCause_memOk _ (hu.keep
    ((State.deferX_mem ..).trans ((State.acceptCmd_mem ..).trans (State.advance_mem ..)))))) h

@[simp] theorem execMwait_memOk (l : Nat) (s : State) (h : s.MemOk) : Result.MemOk (execMwait l s) := by
  refine issue_memOk _ (fun s hs => ?_) h
  dsimp only
  repeat' split
  all_goals simp [State.MemOk, hs]

@[simp] theorem execArrayPassStart_memOk (g : Nat) (s : State) (h : s.MemOk) : Result.MemOk (execArrayPassStart g s) := by
  unfold execArrayPassStart
  dsimp only
  repeat' split
  all_goals simp [State.MemOk, h]

theorem execArrayCommandComplete_memOk (g : Nat) {s : State} (h : s.MemOk) : Result.MemOk (execArrayCommandComplete g s) := by
  have hn : s.noMiss.MemOk := h.keep (State.noMiss_mem ..)
  unfold execArrayCommandComplete
  split
  · refine .ite (Result.next_memOk.2 h) (Result.next_memOk.2 (State.engTry_memOk _ _ _ hn ?_))
    extract_lets s1 s2 s3 s4
    have h3 : s3.MemOk := State.MemOk.keep (State.endCommand_memOk _ _ _ hn) ((State.modArr_mem ..).trans (State.modEngCtx_mem ..))
    have h4 : s4.MemOk := by
      dsimp only [s4]
      split
      · exact State.pump_memOk _ _ _ h3
      · exact h3
    exact h4.keep ((State.saveBanks_mem ..).trans (State.startCommand_mem ..))
  · exact Result.next_memOk.2 h

/-! ### Translate -/

@[simp] theorem execTranslationAnswer_memOk (g : Nat) (s : State) (h : s.MemOk) : Result.MemOk (execTranslationAnswer g s) := by
  unfold execTranslationAnswer
  repeat' split
  all_goals simp [State.MemOk, h]

@[simp] theorem execInvalidationComplete_memOk (p : Nat) (s : State) (h : s.MemOk) :
    Result.MemOk (execInvalidationComplete p s) := by
  unfold execInvalidationComplete
  repeat' split
  all_goals simp [State.MemOk, h]

@[simp] theorem execPtrootWrite_memOk (p n : Nat) (v : Word) (s : State) (h : s.MemOk) :
    Result.MemOk (execPtrootWrite p n v s) := by
  simp [execPtrootWrite, State.MemOk, h]

@[simp] theorem execXinvWrite_memOk (p : Nat) (v : Word) (s : State) (h : s.MemOk) : Result.MemOk (execXinvWrite p v s) := by
  simp [execXinvWrite, State.MemOk, h]

/-! ### Launch -/

theorem execThreadStart_memOk (core sid : Nat) {s : State} (h : s.MemOk) : Result.MemOk (execThreadStart core sid s) := by
  unfold execThreadStart
  extract_lets q
  split
  next e _ =>
    refine Result.next_memOk.2 ?_
    cases eq : s.takeUp core e with
    | none => exact h
    | some t => exact State.takeUp_memOk h eq
  · split
    · exact Result.next_memOk.2 h
    · split
      · exact Result.next_memOk.2 h
      · extract_lets t th u
        have hu : u.MemOk := h.keep ⟨rfl, rfl, rfl⟩
        exact Result.next_memOk.2 (.ite (hu.keep (State.modCore_mem ..)) hu)

@[simp] theorem execPopulationComplete_memOk (pop : Nat) (s : State) (h : s.MemOk) :
    Result.MemOk (execPopulationComplete pop s) := by
  unfold execPopulationComplete
  dsimp only
  repeat' split
  all_goals simp [State.MemOk, h]

@[simp] theorem execLoadBalanceExchange_memOk (s : State) (h : s.MemOk) : Result.MemOk (execLoadBalanceExchange s) := by
  simp [execLoadBalanceExchange, State.MemOk, h]

@[simp] theorem execXlatResume_memOk (v : Word) (s : State) (h : s.MemOk) : Result.MemOk (execXlatResume v s) := by
  unfold execXlatResume
  split <;> simp [State.MemOk, h]

@[simp] theorem execXlatKill_memOk (v : Word) (s : State) (h : s.MemOk) : Result.MemOk (execXlatKill v s) := by
  unfold execXlatKill
  split <;> simp [State.MemOk, h]

@[simp] theorem execXlatSkip_memOk (v : Word) (s : State) (h : s.MemOk) : Result.MemOk (execXlatSkip v s) := by
  unfold execXlatSkip
  dsimp only
  repeat' split
  all_goals simp [State.MemOk, h]

@[simp] theorem execWaitProbeTick_memOk (s : State) (h : s.MemOk) : Result.MemOk (execWaitProbeTick s) := by
  simp [execWaitProbeTick, State.MemOk, h]

@[simp] theorem execWaitProbeArrival_memOk (core : Nat) (s : State) (h : s.MemOk) : Result.MemOk (execWaitProbeArrival core s) := by
  unfold execWaitProbeArrival
  dsimp only
  repeat' split
  all_goals simp [State.MemOk, h]

/-! ### Agent -/

theorem shortOp_memOk (f : State → Agent → Effect) {s : State} (h : s.MemOk) : Result.MemOk (shortOp f s) := by
  unfold shortOp
  split
  · exact Result.next_memOk.2 h
  · refine .ite (Result.next_memOk.2 h) ?_
    split
    · exact Result.next_memOk.2 (h.keep (State.faultAgent_mem ..))
    · exact Result.next_memOk.2 (State.MemOk.keep (State.store_memOk _ _ _ h) (State.setAgent_mem ..))

theorem plainOp_memOk (f : Agent → Agent) {s : State} (h : s.MemOk) : Result.MemOk (plainOp f s) := shortOp_memOk _ h

theorem readOp_memOk (f : State → Agent → Except Nat Agent) {s : State} (h : s.MemOk) : Result.MemOk (readOp f s) :=
  shortOp_memOk _ h

theorem execAnop_memOk {s : State} (h : s.MemOk) : Result.MemOk (execAnop s) := plainOp_memOk _ h

theorem execAmovi_memOk (a : Nat) (imm : BitVec 32) {s : State} (h : s.MemOk) :
    Result.MemOk (execAmovi a imm s) := plainOp_memOk _ h

theorem execAmoviHi_memOk (a : Nat) (imm : BitVec 32) {s : State} (h : s.MemOk) :
    Result.MemOk (execAmoviHi a imm s) := plainOp_memOk _ h

theorem execAadd_memOk (a b c : Nat) {s : State} (h : s.MemOk) : Result.MemOk (execAadd a b c s) := plainOp_memOk _ h

theorem execAsub_memOk (a b c : Nat) {s : State} (h : s.MemOk) : Result.MemOk (execAsub a b c s) := plainOp_memOk _ h

theorem execAmul_memOk (a b c : Nat) {s : State} (h : s.MemOk) : Result.MemOk (execAmul a b c s) := plainOp_memOk _ h

theorem execAaddi_memOk (a b : Nat) (imm : BitVec 32) {s : State} (h : s.MemOk) :
    Result.MemOk (execAaddi a b imm s) := plainOp_memOk _ h

theorem execAbeq_memOk (a b : Nat) (off : BitVec 32) {s : State} (h : s.MemOk) :
    Result.MemOk (execAbeq a b off s) := plainOp_memOk _ h

theorem execAbne_memOk (a b : Nat) (off : BitVec 32) {s : State} (h : s.MemOk) :
    Result.MemOk (execAbne a b off s) := plainOp_memOk _ h

theorem execAblt_memOk (a b : Nat) (off : BitVec 32) {s : State} (h : s.MemOk) :
    Result.MemOk (execAblt a b off s) := plainOp_memOk _ h

theorem execAbge_memOk (a b : Nat) (off : BitVec 32) {s : State} (h : s.MemOk) :
    Result.MemOk (execAbge a b off s) := plainOp_memOk _ h

theorem execAjmp_memOk (off : BitVec 32) {s : State} (h : s.MemOk) : Result.MemOk (execAjmp off s) := plainOp_memOk _ h

theorem execAcall_memOk (off : BitVec 32) {s : State} (h : s.MemOk) : Result.MemOk (execAcall off s) := plainOp_memOk _ h

theorem execAret_memOk {s : State} (h : s.MemOk) : Result.MemOk (execAret s) := readOp_memOk _ h

theorem execAld_memOk (sz : ESize) (sx : Bool) (a b : Nat) (off : BitVec 32) {s : State} (h : s.MemOk) :
    Result.MemOk (execAld sz sx a b off s) := readOp_memOk _ h

theorem execAst_memOk (sz : ESize) (a b : Nat) (off : BitVec 32) {s : State} (h : s.MemOk) :
    Result.MemOk (execAst sz a b off s) := shortOp_memOk _ h

theorem execSload_memOk (sa b : Nat) (off : BitVec 32) {s : State} (h : s.MemOk) :
    Result.MemOk (execSload sa b off s) := readOp_memOk _ h

theorem execSstore_memOk (sa b : Nat) (off : BitVec 32) {s : State} (h : s.MemOk) :
    Result.MemOk (execSstore sa b off s) := shortOp_memOk _ h

theorem execSjoin_memOk (sa sb : Nat) {s : State} (h : s.MemOk) : Result.MemOk (execSjoin sa sb s) := shortOp_memOk _ h

theorem execSlen_memOk (a sb : Nat) {s : State} (h : s.MemOk) : Result.MemOk (execSlen a sb s) := plainOp_memOk _ h

theorem execStok_memOk (a sb c : Nat) {s : State} (h : s.MemOk) : Result.MemOk (execStok a sb c s) := readOp_memOk _ h

theorem execStokW_memOk (a sb c : Nat) {s : State} (h : s.MemOk) : Result.MemOk (execStokW a sb c s) := shortOp_memOk _ h

theorem execSsel_memOk (sa sb c : Nat) {s : State} (h : s.MemOk) : Result.MemOk (execSsel sa sb c s) := readOp_memOk _ h

theorem execSclear_memOk (sa : Nat) {s : State} (h : s.MemOk) : Result.MemOk (execSclear sa s) := plainOp_memOk _ h

theorem execFmovi_memOk (fa : Nat) (imm : BitVec 32) {s : State} (h : s.MemOk) :
    Result.MemOk (execFmovi fa imm s) := plainOp_memOk _ h

theorem execFblt_memOk (fa fb : Nat) (off : BitVec 32) {s : State} (h : s.MemOk) :
    Result.MemOk (execFblt fa fb off s) := plainOp_memOk _ h

theorem execFbits_memOk (a fb : Nat) {s : State} (h : s.MemOk) : Result.MemOk (execFbits a fb s) := plainOp_memOk _ h

theorem execFbitsF_memOk (a fb : Nat) {s : State} (h : s.MemOk) : Result.MemOk (execFbitsF a fb s) := plainOp_memOk _ h

theorem execChoose_memOk (a fb : Nat) (n : BitVec 32) {s : State} (h : s.MemOk) :
    Result.MemOk (execChoose a fb n s) := plainOp_memOk _ h

theorem queryCtx_memOk (a kb : Nat) (f : State → Nat → Context → Word) {s : State} (h : s.MemOk) :
    Result.MemOk (queryCtx a kb f s) :=
  readOp_memOk _ h

theorem execCtxlen_memOk (a kb : Nat) {s : State} (h : s.MemOk) : Result.MemOk (execCtxlen a kb s) := queryCtx_memOk _ _ _ h

theorem execCtxstat_memOk (a kb : Nat) {s : State} (h : s.MemOk) : Result.MemOk (execCtxstat a kb s) := queryCtx_memOk _ _ _ h

theorem execPost_memOk (a : Nat) (tag : BitVec 32) {s : State} (h : s.MemOk) : Result.MemOk (execPost a tag s) := by
  unfold execPost
  split
  · exact Result.next_memOk.2 h
  · extract_lets fn r
    exact .ite (Result.next_memOk.2 h) (Result.next_memOk.2 (h.keep ((State.setAgent_mem ..).trans (State.postTo_mem ..))))

theorem execAhalt_memOk (a : Nat) {s : State} (h : s.MemOk) : Result.MemOk (execAhalt a s) := by
  unfold execAhalt
  split
  · exact Result.next_memOk.2 h
  · exact .ite (Result.next_memOk.2 h) (Result.next_memOk.2
      (h.keep ((State.setAgent_mem ..).trans ((State.dropPlans_mem ..).trans (State.wakeAgents_mem ..)))))

/-! ### AgentLong -/

theorem longOp_memOk (op : LongOp) {s : State} (h : s.MemOk) : Result.MemOk (longOp op s) := by
  unfold longOp
  split
  · exact Result.next_memOk.2 h
  · extract_lets g
    refine .ite (Result.next_memOk.2 h) (.ite (Result.next_memOk.2 (h.keep (State.issueLong_mem ..))) ?_)
    split
    · exact Result.next_memOk.2 h
    · exact Result.next_memOk.2 (h.keep (State.issueLong_mem ..))

theorem execCtxnew_memOk (ka : Nat) (model : BitVec 32) {s : State} (h : s.MemOk) :
    Result.MemOk (execCtxnew ka model s) := longOp_memOk _ h

theorem execCtxfree_memOk (ka : Nat) {s : State} (h : s.MemOk) : Result.MemOk (execCtxfree ka s) := longOp_memOk _ h

theorem execFork_memOk (ka kb : Nat) {s : State} (h : s.MemOk) : Result.MemOk (execFork ka kb s) := longOp_memOk _ h

theorem execTrim_memOk (ka b : Nat) {s : State} (h : s.MemOk) : Result.MemOk (execTrim ka b s) := longOp_memOk _ h

theorem execAppend_memOk (ka sb c : Nat) {s : State} (h : s.MemOk) : Result.MemOk (execAppend ka sb c s) := longOp_memOk _ h

theorem execProbe_memOk (a kb sc : Nat) {s : State} (h : s.MemOk) : Result.MemOk (execProbe a kb sc s) := longOp_memOk _ h

theorem execPin_memOk (ka sb c : Nat) {s : State} (h : s.MemOk) : Result.MemOk (execPin ka sb c s) := longOp_memOk _ h

theorem execUnpin_memOk (ka b : Nat) {s : State} (h : s.MemOk) : Result.MemOk (execUnpin ka b s) := longOp_memOk _ h

theorem execScore_memOk (fa kb sc d : Nat) {s : State} (h : s.MemOk) : Result.MemOk (execScore fa kb sc d s) := longOp_memOk _ h

theorem execGen_memOk (ka sb c : Nat) {s : State} (h : s.MemOk) : Result.MemOk (execGen ka sb c s) := longOp_memOk _ h

theorem execSampset_memOk (ka b : Nat) {s : State} (h : s.MemOk) : Result.MemOk (execSampset ka b s) := longOp_memOk _ h

theorem execMaskbind_memOk (ka b : Nat) {s : State} (h : s.MemOk) : Result.MemOk (execMaskbind ka b s) := longOp_memOk _ h

theorem execRngjump_memOk (ka b : Nat) {s : State} (h : s.MemOk) : Result.MemOk (execRngjump ka b s) := longOp_memOk _ h

theorem execAwait_memOk (a : Nat) (tag : BitVec 32) {s : State} (h : s.MemOk) : Result.MemOk (execAwait a tag s) := longOp_memOk _ h

/-! ### Alu -/

theorem alu2_memOk (rd : Nat) (a b : Src) (f : Word → Word → Word) {s : State} (h : s.MemOk) : Result.MemOk (alu2 rd a b f s) :=
  issueSimple_memOk _ (fun _ hu => hu.keep (State.wx_mem ..)) h

theorem alu1_memOk (rd : Nat) (a : Src) (f : Word → Word) {s : State} (h : s.MemOk) : Result.MemOk (alu1 rd a f s) :=
  issueSimple_memOk _ (fun _ hu => hu.keep (State.wx_mem ..)) h

theorem divide_memOk (rd : Nat) (a b : Src) (f : Word → Word → Word) {s : State} (h : s.MemOk) : Result.MemOk (divide rd a b f s) :=
  issueSimple_memOk _ (fun _ hu => hu.keep ((State.deferX_mem ..).trans (State.modCore_mem ..))) h

theorem execAdd_memOk (rd : Nat) (a b : Src) {s : State} (h : s.MemOk) : Result.MemOk (execAdd rd a b s) := alu2_memOk _ _ _ _ h

theorem execSub_memOk (rd : Nat) (a b : Src) {s : State} (h : s.MemOk) : Result.MemOk (execSub rd a b s) := alu2_memOk _ _ _ _ h

theorem execAnd_memOk (rd : Nat) (a b : Src) {s : State} (h : s.MemOk) : Result.MemOk (execAnd rd a b s) := alu2_memOk _ _ _ _ h

theorem execOr_memOk (rd : Nat) (a b : Src) {s : State} (h : s.MemOk) : Result.MemOk (execOr rd a b s) := alu2_memOk _ _ _ _ h

theorem execXor_memOk (rd : Nat) (a b : Src) {s : State} (h : s.MemOk) : Result.MemOk (execXor rd a b s) := alu2_memOk _ _ _ _ h

theorem execSll_memOk (rd : Nat) (a b : Src) {s : State} (h : s.MemOk) : Result.MemOk (execSll rd a b s) := alu2_memOk _ _ _ _ h

theorem execSrl_memOk (rd : Nat) (a b : Src) {s : State} (h : s.MemOk) : Result.MemOk (execSrl rd a b s) := alu2_memOk _ _ _ _ h

theorem execSra_memOk (rd : Nat) (a b : Src) {s : State} (h : s.MemOk) : Result.MemOk (execSra rd a b s) := alu2_memOk _ _ _ _ h

theorem execSlt_memOk (rd : Nat) (a b : Src) {s : State} (h : s.MemOk) : Result.MemOk (execSlt rd a b s) := alu2_memOk _ _ _ _ h

theorem execSltu_memOk (rd : Nat) (a b : Src) {s : State} (h : s.MemOk) : Result.MemOk (execSltu rd a b s) := alu2_memOk _ _ _ _ h

theorem execMin_memOk (rd : Nat) (a b : Src) {s : State} (h : s.MemOk) : Result.MemOk (execMin rd a b s) := alu2_memOk _ _ _ _ h

theorem execMax_memOk (rd : Nat) (a b : Src) {s : State} (h : s.MemOk) : Result.MemOk (execMax rd a b s) := alu2_memOk _ _ _ _ h

theorem execMinu_memOk (rd : Nat) (a b : Src) {s : State} (h : s.MemOk) : Result.MemOk (execMinu rd a b s) := alu2_memOk _ _ _ _ h

theorem execMaxu_memOk (rd : Nat) (a b : Src) {s : State} (h : s.MemOk) : Result.MemOk (execMaxu rd a b s) := alu2_memOk _ _ _ _ h

theorem execMul_memOk (rd : Nat) (a b : Src) {s : State} (h : s.MemOk) : Result.MemOk (execMul rd a b s) := alu2_memOk _ _ _ _ h

theorem execMulh_memOk (rd : Nat) (a b : Src) {s : State} (h : s.MemOk) : Result.MemOk (execMulh rd a b s) := alu2_memOk _ _ _ _ h

theorem execMulhu_memOk (rd : Nat) (a b : Src) {s : State} (h : s.MemOk) : Result.MemOk (execMulhu rd a b s) := alu2_memOk _ _ _ _ h

theorem execDiv_memOk (rd : Nat) (a b : Src) {s : State} (h : s.MemOk) : Result.MemOk (execDiv rd a b s) := divide_memOk _ _ _ _ h

theorem execDivu_memOk (rd : Nat) (a b : Src) {s : State} (h : s.MemOk) : Result.MemOk (execDivu rd a b s) := divide_memOk _ _ _ _ h

theorem execRem_memOk (rd : Nat) (a b : Src) {s : State} (h : s.MemOk) : Result.MemOk (execRem rd a b s) := divide_memOk _ _ _ _ h

theorem execRemu_memOk (rd : Nat) (a b : Src) {s : State} (h : s.MemOk) : Result.MemOk (execRemu rd a b s) := divide_memOk _ _ _ _ h

theorem execClz_memOk (rd : Nat) (a : Src) {s : State} (h : s.MemOk) : Result.MemOk (execClz rd a s) := alu1_memOk _ _ _ h

theorem execCtz_memOk (rd : Nat) (a : Src) {s : State} (h : s.MemOk) : Result.MemOk (execCtz rd a s) := alu1_memOk _ _ _ h

theorem execPopc_memOk (rd : Nat) (a : Src) {s : State} (h : s.MemOk) : Result.MemOk (execPopc rd a s) := alu1_memOk _ _ _ h

theorem execAddsh1_memOk (rd : Nat) (a b : Src) {s : State} (h : s.MemOk) :
    Result.MemOk (execAddsh1 rd a b s) := alu2_memOk _ _ _ _ h

theorem execAddsh2_memOk (rd : Nat) (a b : Src) {s : State} (h : s.MemOk) :
    Result.MemOk (execAddsh2 rd a b s) := alu2_memOk _ _ _ _ h

theorem execAddsh3_memOk (rd : Nat) (a b : Src) {s : State} (h : s.MemOk) :
    Result.MemOk (execAddsh3 rd a b s) := alu2_memOk _ _ _ _ h

theorem execAndn_memOk (rd : Nat) (a b : Src) {s : State} (h : s.MemOk) : Result.MemOk (execAndn rd a b s) := alu2_memOk _ _ _ _ h

theorem execSextw_memOk (rd : Nat) (a : Src) {s : State} (h : s.MemOk) : Result.MemOk (execSextw rd a s) := alu1_memOk _ _ _ h

theorem execZextw_memOk (rd : Nat) (a : Src) {s : State} (h : s.MemOk) : Result.MemOk (execZextw rd a s) := alu1_memOk _ _ _ h

@[simp] theorem execDivideComplete_memOk (core : Nat) (s : State) (h : s.MemOk) : Result.MemOk (execDivideComplete core s) := by
  unfold execDivideComplete
  repeat' split
  all_goals simp [State.MemOk, h]

theorem execAddi_memOk (rd : Nat) (a : Src) (imm : BitVec 13) {s : State} (h : s.MemOk) :
    Result.MemOk (execAddi rd a imm s) := alu1_memOk _ _ _ h

theorem execAndi_memOk (rd : Nat) (a : Src) (imm : BitVec 13) {s : State} (h : s.MemOk) :
    Result.MemOk (execAndi rd a imm s) := alu1_memOk _ _ _ h

theorem execOri_memOk (rd : Nat) (a : Src) (imm : BitVec 13) {s : State} (h : s.MemOk) :
    Result.MemOk (execOri rd a imm s) := alu1_memOk _ _ _ h

theorem execXori_memOk (rd : Nat) (a : Src) (imm : BitVec 13) {s : State} (h : s.MemOk) :
    Result.MemOk (execXori rd a imm s) := alu1_memOk _ _ _ h

theorem execSlti_memOk (rd : Nat) (a : Src) (imm : BitVec 13) {s : State} (h : s.MemOk) :
    Result.MemOk (execSlti rd a imm s) := alu1_memOk _ _ _ h

theorem execSlli_memOk (rd : Nat) (a : Src) (amt : BitVec 6) {s : State} (h : s.MemOk) :
    Result.MemOk (execSlli rd a amt s) := alu1_memOk _ _ _ h

theorem execSrli_memOk (rd : Nat) (a : Src) (amt : BitVec 6) {s : State} (h : s.MemOk) :
    Result.MemOk (execSrli rd a amt s) := alu1_memOk _ _ _ h

theorem execSrai_memOk (rd : Nat) (a : Src) (amt : BitVec 6) {s : State} (h : s.MemOk) :
    Result.MemOk (execSrai rd a amt s) := alu1_memOk _ _ _ h

@[simp] theorem execLui_memOk (rd : Nat) (imm : BitVec 20) (s : State) (h : s.MemOk) : Result.MemOk (execLui rd imm s) := by
  refine issueSimple_memOk _ (fun s hs => ?_) h
  simp [State.MemOk, hs]

@[simp] theorem execAddpc_memOk (rd : Nat) (imm : BitVec 20) (s : State) (h : s.MemOk) : Result.MemOk (execAddpc rd imm s) := by
  refine issueSimple_memOk _ (fun s hs => ?_) h
  simp [State.MemOk, hs]

theorem execCMov_memOk (a b : Nat) {s : State} (h : s.MemOk) : Result.MemOk (execCMov a b s) := alu2_memOk _ _ _ _ h

theorem execCAdd_memOk (a b : Nat) {s : State} (h : s.MemOk) : Result.MemOk (execCAdd a b s) := alu2_memOk _ _ _ _ h

theorem execCSub_memOk (a b : Nat) {s : State} (h : s.MemOk) : Result.MemOk (execCSub a b s) := alu2_memOk _ _ _ _ h

theorem execCAnd_memOk (a b : Nat) {s : State} (h : s.MemOk) : Result.MemOk (execCAnd a b s) := alu2_memOk _ _ _ _ h

theorem execCOr_memOk (a b : Nat) {s : State} (h : s.MemOk) : Result.MemOk (execCOr a b s) := alu2_memOk _ _ _ _ h

theorem execCXor_memOk (a b : Nat) {s : State} (h : s.MemOk) : Result.MemOk (execCXor a b s) := alu2_memOk _ _ _ _ h

theorem execCSll_memOk (a b : Nat) {s : State} (h : s.MemOk) : Result.MemOk (execCSll a b s) := alu2_memOk _ _ _ _ h

theorem execCSrl_memOk (a b : Nat) {s : State} (h : s.MemOk) : Result.MemOk (execCSrl a b s) := alu2_memOk _ _ _ _ h

theorem execCAddi_memOk (a : Nat) (imm : BitVec 7) {s : State} (h : s.MemOk) :
    Result.MemOk (execCAddi a imm s) := alu1_memOk _ _ _ h

theorem execCLi_memOk (a : Nat) (imm : BitVec 7) {s : State} (h : s.MemOk) : Result.MemOk (execCLi a imm s) := alu1_memOk _ _ _ h

theorem execCNop_memOk {s : State} (h : s.MemOk) : Result.MemOk (execCNop s) := alu2_memOk _ _ _ _ h

/-! ### Iterate -/

theorem execIterationSnapshot_memOk (p : Nat) {s : State} (h : s.MemOk) : Result.MemOk (execIterationSnapshot p s) := by
  have hn : s.noMiss.MemOk := h.keep (State.noMiss_mem ..)
  exact .ite (Result.next_memOk.2 (State.engTry_memOk _ _ _ hn (State.snapshot_memOk _ _ _ hn))) (Result.next_memOk.2 h)

theorem execGracePeriodEnd_memOk (p : Nat) {s : State} (h : s.MemOk) : Result.MemOk (execGracePeriodEnd p s) :=
  .ite (execIterationSnapshot_memOk _ h) (Result.next_memOk.2 h)

theorem execIterationCommit_memOk (p : Nat) {s : State} (h : s.MemOk) : Result.MemOk (execIterationCommit p s) := by
  unfold execIterationCommit
  split
  · exact Result.next_memOk.2 h
  · refine Result.next_memOk.2 (.ite (State.failBatch_memOk _ _ _ h) (State.MemOk.keep ?_ (State.endBatch_mem ..)))
    exact h.foldl (fun s t hs => State.commitStep_memOk _ _ _ _ hs) _

@[simp] theorem State.modBatch_mem (s : State) (p h : Nat) (f : Batch → Batch) :
    s.SameMem (State.modBatch s p h f) := ⟨rfl, rfl, rfl⟩

@[simp] theorem State.stepError_mem (s : State) (p n : Nat) : s.SameMem (State.stepError s p n) := ⟨rfl, rfl, rfl⟩

@[simp] theorem State.memberPause_mem (s : State) (p h member : Nat) (on : Bool) :
    s.SameMem (State.memberPause s p h member on) := ⟨rfl, rfl, rfl⟩

@[simp] theorem State.shardError_mem (s : State) (p h it code : Nat) : s.SameMem (State.shardError s p h it code) := ⟨rfl, rfl, rfl⟩

@[simp] theorem execBatchMulticast_memOk (p : Nat) (s : State) (h : s.MemOk) : Result.MemOk (execBatchMulticast p s) := by
  unfold execBatchMulticast
  repeat' split
  all_goals simp [State.MemOk, h]

@[simp] theorem execShardReport_memOk (p : Nat) (s : State) (h : s.MemOk) : Result.MemOk (execShardReport p s) := by
  unfold execShardReport
  repeat' split
  all_goals simp [State.MemOk, h]

@[simp] theorem execModelGroupTimeout_memOk (p : Nat) (s : State) (h : s.MemOk) : Result.MemOk (execModelGroupTimeout p s) := by
  unfold execModelGroupTimeout
  split <;> simp [State.MemOk, h]

/-! ### LookAhead -/

@[simp] theorem State.takeEncodingFault_mem (s : State) (n : Nat) : s.SameMem (State.takeEncodingFault s n) := by
  unfold State.takeEncodingFault
  repeat' split
  all_goals simp [State.SameMem]

@[simp] theorem State.reserve_mem (s : State) (part : Nat) (p : Plan) (n : Nat) : s.SameMem (s.reserve part p n) := by
  induction n generalizing s with
  | zero => exact .refl s
  | succ n ih =>
    unfold State.reserve
    split
    · exact .refl s
    next b u e =>
      exact ((State.takeFree_mem e).trans (State.SameMem.trans (t := { u with nextSeq := u.nextSeq + 1 }) ⟨rfl, rfl, rfl⟩
        (State.modBlock_mem ..))).trans (ih _)

@[simp] theorem State.refillModel_memOk (s : State) (part : Nat) (m : Model) (h : s.MemOk) : (s.refillModel part m).MemOk := by
  refine h.foldl (fun u r hu => ?_) _
  split
  next r _ =>
    have hr : (u.refill r).1.MemOk := State.refill_memOk _ _ hu
    split
    next e => exact (State.memOk_of_fst e hr).keep ((State.resumeStalled_mem ..).trans (State.startCommand_mem ..))
    next e => exact State.memOk_of_fst e hr
  · exact hu

@[simp] theorem State.planFor_memOk (s : State) (n : Nat) (p : Planned) (h : s.MemOk) : (s.planFor n p).MemOk := by
  unfold State.planFor
  split
  · exact h
  · split
    extract_lets k s1 lapse s2
    have h2 : s2.MemOk := h.keep ((State.reserve_mem ..).trans (State.modNodes_mem ..))
    split
    · exact State.refillModel_memOk _ _ _ h2
    · exact h2

@[simp] theorem State.windowHolds_mem (s : State) (n : Nat) (ps : List Planned) :
    s.SameMem (State.windowHolds s n ps) := ⟨rfl, rfl, rfl⟩

theorem execLookaheadDecode_memOk (n : Nat) {s : State} (h : s.MemOk) : Result.MemOk (execLookaheadDecode n s) := by
  unfold execLookaheadDecode
  split
  · exact Result.next_memOk.2 h
  · extract_lets ps
    refine .ite (Result.next_memOk.2 h) (Result.next_memOk.2 (State.MemOk.keep ?_ (State.modAgent_mem ..)))
    exact State.MemOk.foldl (fun s p hs => State.planFor_memOk _ _ _ hs) _ (h.keep (State.windowHolds_mem ..))

@[simp] theorem execPlanHoldExpiry_memOk (n : Nat) (s : State) (h : s.MemOk) : Result.MemOk (execPlanHoldExpiry n s) := by
  unfold execPlanHoldExpiry
  split <;> simp [State.MemOk, h]

/-! ### Partition -/

@[simp] theorem State.dropResidencies_memOk (s : State) (f : Residency → Bool) (h : s.MemOk) : (s.dropResidencies f).MemOk := by
  refine h.foldl (fun u r hu => State.unregister_memOk _ _ _ _ ?_) _
  exact State.MemOk.keep hu ⟨rfl, rfl, rfl⟩

@[simp] theorem State.forgetContexts_mem (s : State) (p ten : Nat) : s.SameMem (State.forgetContexts s p ten) := ⟨rfl, rfl, rfl⟩

@[simp] theorem State.freshTenancy_memOk (s : State) (p ten : Nat) (h : s.MemOk) : (s.freshTenancy p ten).MemOk := by
  unfold State.freshTenancy
  extract_lets q mine gone s1 s2 s3
  have h1 : s1.MemOk := h.keep ((State.dropNodes_mem ..).trans (State.forgetContexts_mem ..))
  have h2 : s2.MemOk := h1.keep (.foldl (fun s t => (State.dropLease_mem ..).trans (State.forgetMisses_mem ..)) _ _)
  have h3 : s3.MemOk := State.dropResidencies_memOk _ _ h2
  obtain ⟨a, b, c⟩ := h3
  exact ⟨a, b, Memory.wf_filter _ _ c⟩

@[simp] theorem State.writeTencfg_memOk (s : State) (p : Nat) (v : Word) (h : s.MemOk) : (s.writeTencfg p v).MemOk := by
  unfold State.writeTencfg
  extract_lets q res new s1
  have h1 : s1.MemOk := h.foldl (fun s t hs => State.freshTenancy_memOk _ _ _ hs) _
  exact .ite h (h1.keep (State.modPart_mem ..))

@[simp] theorem execTencfgWrite_memOk (p : Nat) (v : Word) (s : State) (h : s.MemOk) : Result.MemOk (execTencfgWrite p v s) := by
  simp [execTencfgWrite, State.MemOk, h]

@[simp] theorem State.queueCfg_mem (s : State) (p sel : Nat) (v : Word) : s.SameMem (State.queueCfg s p sel v) := ⟨rfl, rfl, rfl⟩

@[simp] theorem State.writeConfig_mem (s : State) (p sel : Nat) (v : Word) : s.SameMem (State.writeConfig s p sel v) := by
  simp [State.SameMem, State.writeConfig]

@[simp] theorem execPartitionConfigWrite_memOk (p reg : Nat) (v : Word) (s : State) (h : s.MemOk) :
    Result.MemOk (execPartitionConfigWrite p reg v s) := by
  simp [execPartitionConfigWrite, State.MemOk, h]

@[simp] theorem State.writeModtab_mem (s : State) (p t : Nat) (v : Word) : s.SameMem (State.writeModtab s p t v) := ⟨rfl, rfl, rfl⟩

@[simp] theorem execModtabWrite_memOk (p n : Nat) (v : Word) (s : State) (h : s.MemOk) :
    Result.MemOk (execModtabWrite p n v s) := by
  simp [execModtabWrite, State.MemOk, h]

@[simp] theorem State.writeArea_mem (s : State) (p sel : Nat) (v : Word) : s.SameMem (State.writeArea s p sel v) := by
  simp [State.SameMem, State.writeArea]

@[simp] theorem execAgentAreaWrite_memOk (p n : Nat) (v : Word) (s : State) (h : s.MemOk) :
    Result.MemOk (execAgentAreaWrite p n v s) := by
  simp [execAgentAreaWrite, State.MemOk, h]

@[simp] theorem State.writeRtdata_mem (s : State) (p : Nat) (v : Word) : s.SameMem (State.writeRtdata s p v) := by
  unfold State.writeRtdata
  split <;> exact ⟨rfl, rfl, rfl⟩

@[simp] theorem execRtdataWrite_memOk (p : Nat) (v : Word) (s : State) (h : s.MemOk) : Result.MemOk (execRtdataWrite p v s) := by
  simp [execRtdataWrite, State.MemOk, h]

@[simp] theorem State.guestErr_mem (s : State) (p e : Nat) : s.SameMem (State.guestErr s p e) := ⟨rfl, rfl, rfl⟩

@[simp] theorem State.prepare_mem (s : State) (p tgt fail : Nat) : s.SameMem (State.prepare s p tgt fail) := by
  simp [State.SameMem, State.prepare]

@[simp] theorem State.guestTgt_mem (s : State) (p tgt : Nat) : s.SameMem (State.guestTgt s p tgt) := ⟨rfl, rfl, rfl⟩

@[simp] theorem State.guestPrepare_mem (s : State) (p tgt : Nat) : s.SameMem (State.guestPrepare s p tgt) := by
  simp [State.SameMem, State.guestPrepare]

@[simp] theorem State.guestCommit_mem (s : State) (p : Nat) : s.SameMem (State.guestCommit s p) := by
  unfold State.guestCommit
  split <;> exact ⟨rfl, rfl, rfl⟩

@[simp] theorem State.guestAbort_mem (s : State) (p : Nat) : s.SameMem (State.guestAbort s p) := by
  simp [State.SameMem, State.guestAbort]

@[simp] theorem execGswPrepare_memOk (p tgt : Nat) (s : State) (h : s.MemOk) : Result.MemOk (execGswPrepare p tgt s) := by
  simp [execGswPrepare, State.MemOk, h]

@[simp] theorem execGswCommit_memOk (p : Nat) (s : State) (h : s.MemOk) : Result.MemOk (execGswCommit p s) := by
  simp [execGswCommit, State.MemOk, h]

@[simp] theorem execGswAbort_memOk (p : Nat) (s : State) (h : s.MemOk) : Result.MemOk (execGswAbort p s) := by
  simp [execGswAbort, State.MemOk, h]

@[simp] theorem State.writeGswctl_mem (s : State) (p : Nat) (v : Word) : s.SameMem (State.writeGswctl s p v) := by
  unfold State.writeGswctl
  split <;> simp [State.SameMem]

@[simp] theorem State.guestRestart_mem (s : State) (p : Nat) : s.SameMem (State.guestRestart s p) := ⟨rfl, rfl, rfl⟩

@[simp] theorem State.guestRetry_mem (s : State) (p : Nat) : s.SameMem (State.guestRetry s p) := by
  simp [State.SameMem, State.guestRetry]

@[simp] theorem State.guestResume_mem (s : State) (p : Nat) : s.SameMem (State.guestResume s p) := by
  simp [State.SameMem, State.guestResume]

@[simp] theorem State.writeSwitchat_mem (s : State) (p : Nat) (v : Word) : s.SameMem (State.writeSwitchat s p v) := ⟨rfl, rfl, rfl⟩

@[simp] theorem execSwitchatWrite_memOk (p : Nat) (v : Word) (s : State) (h : s.MemOk) :
    Result.MemOk (execSwitchatWrite p v s) := by
  simp [execSwitchatWrite, State.MemOk, h]

@[simp] theorem State.arm_mem (s : State) (p tgt : Nat) : s.SameMem (State.arm s p tgt) := by
  simp [State.SameMem, State.arm]

@[simp] theorem State.disarm_mem (s : State) (p tgt : Nat) : s.SameMem (State.disarm s p tgt) := by
  simp [State.SameMem, State.disarm]

@[simp] theorem State.writeSwctl_mem (s : State) (p : Nat) (v : Word) : s.SameMem (State.writeSwctl s p v) := by
  simp [State.SameMem, State.writeSwctl]

@[simp] theorem execSwctlArm_memOk (p : Nat) (v : Word) (s : State) (h : s.MemOk) : Result.MemOk (execSwctlArm p v s) := by
  simp [execSwctlArm, State.MemOk, h]

@[simp] theorem execSwctlDisarm_memOk (p : Nat) (v : Word) (s : State) (h : s.MemOk) : Result.MemOk (execSwctlDisarm p v s) := by
  simp [execSwctlDisarm, State.MemOk, h]

@[simp] theorem State.losePad_memOk (s : State) (q : Part) (ten core : Nat) (h : s.MemOk) : (s.losePad q ten core).MemOk := by
  refine h.foldl (fun u b hu => ?_) _
  obtain ⟨h1, h2, h3⟩ := hu
  generalize (List.range Config.bankBytes).map (Config.saveByte u.freeCtr) = bs
  exact ⟨h1, h2, Memory.wf_writeBytes _ _ _ h3⟩

@[simp] theorem State.loseTenancy_memOk (s : State) (p ten : Nat) (h : s.MemOk) : (s.loseTenancy p ten).MemOk := by
  unfold State.loseTenancy
  extract_lets q n s1
  have h1 : s1.MemOk := State.MemOk.foldl (fun s i hs => State.losePad_memOk _ _ _ _ hs) _ (h.keep ⟨rfl, rfl, rfl⟩)
  exact h1.keep ⟨rfl, rfl, rfl⟩

@[simp] theorem State.preload_memOk (s : State) (p ten : Nat) (h : s.MemOk) : (State.preload s p ten).MemOk := by
  unfold State.preload
  split <;> simp [State.MemOk, h]

@[simp] theorem execPreloadComplete_memOk (p : Nat) (s : State) (h : s.MemOk) : Result.MemOk (execPreloadComplete p s) := by
  unfold execPreloadComplete
  dsimp only
  repeat' split
  all_goals simp [State.MemOk, h]

@[simp] theorem State.beginSwitch_memOk (s : State) (p tgt : Nat) (h : s.MemOk) : (State.beginSwitch s p tgt).MemOk := by
  simp [State.beginSwitch, State.MemOk, h]

@[simp] theorem State.startHandover_memOk (s : State) (p : Nat) (h : s.MemOk) : (State.startHandover s p).MemOk := by
  simp [State.startHandover, State.MemOk, h]

@[simp] theorem State.startGuest_memOk (s : State) (p : Nat) (h : s.MemOk) : (State.startGuest s p).MemOk := by
  simp [State.startGuest, State.MemOk, h]

@[simp] theorem execSwitchTimeReached_memOk (p : Nat) (s : State) (h : s.MemOk) : Result.MemOk (execSwitchTimeReached p s) := by
  unfold execSwitchTimeReached
  dsimp only
  repeat' split
  all_goals simp [State.MemOk, h]

@[simp] theorem State.reenter_mem (s : State) (r : BankReq) : s.SameMem (State.reenter s r) := ⟨rfl, rfl, rfl⟩

@[simp] theorem State.saveThread_mem (s : State) (t : Nat) : s.SameMem (s.saveThread t) := by
  unfold State.saveThread
  extract_lets th g reqs sfu s1 toks s2 s3 s4 s5
  have h1 : s.SameMem s1 := (State.endRunOf_mem ..).trans (State.forgetMisses_mem ..)
  have h2 : s.SameMem s2 := h1.trans ⟨rfl, rfl, rfl⟩
  have h3 : s.SameMem s3 := by
    dsimp only [s3]
    split
    · exact h2
    · exact h2.trans (State.modCore_mem ..)
  have h4 : s.SameMem s4 := by
    dsimp only [s4]
    split
    · exact h3.trans (State.modArr_mem ..)
    · exact h3
  have h5 : s.SameMem s5 := h4.trans (State.modThr_mem ..)
  split
  · exact h5.trans (State.saveBanks_mem ..)
  · exact h5

@[simp] theorem State.restoreThread_memOk (s : State) (t : Nat) (h : s.MemOk) : (State.restoreThread s t).MemOk := by
  unfold State.restoreThread
  dsimp only
  repeat' split
  all_goals simp [State.MemOk, h]

theorem execSlotHandover_memOk (p : Nat) {s : State} (h : s.MemOk) : Result.MemOk (execSlotHandover p s) := by
  unfold execSlotHandover
  extract_lets slot q out s1 inn s2 handed all
  have h1 : s1.MemOk := h.keep (.foldl (fun s t => State.saveThread_mem ..) _ _)
  have h2 : s2.MemOk := h1.foldl (fun s t hs => State.restoreThread_memOk _ _ hs) _
  exact .ite (Result.next_memOk.2 h) (Result.next_memOk.2 (h2.keep (State.modPart_mem ..)))

@[simp] theorem State.pauseColl_memOk (s : State) (k : Nat) (h : s.MemOk) : (State.pauseColl s k).MemOk := by
  unfold State.pauseColl
  repeat' split
  all_goals simp [State.MemOk, h]

@[simp] theorem State.writeSave_memOk (s : State) (p : Nat) (h : s.MemOk) : (State.writeSave s p).MemOk := by
  unfold State.writeSave
  dsimp only
  split <;> simp [State.MemOk, h]

@[simp] theorem State.clearSuspended_memOk (s : State) (p : Nat) (h : s.MemOk) : (s.clearSuspended p).MemOk := by
  obtain ⟨h1, h2, h3⟩ := h
  exact ⟨h1, h2, Memory.wf_filter _ _ h3⟩

@[simp] theorem State.finishSwitch_memOk (s : State) (p : Nat) (h : s.MemOk) : (s.finishSwitch p).MemOk := by
  unfold State.finishSwitch
  extract_lets q s1 s2 s3
  have h1 : s1.MemOk := State.writeSave_memOk _ _ (h.foldl (fun s c hs => State.pauseColl_memOk _ _ hs) _)
  have h2 : s2.MemOk := h1.keep ⟨rfl, rfl, rfl⟩
  have h3 : s3.MemOk := .ite (State.clearSuspended_memOk _ _ h2) h2
  exact h3.keep (State.modPart_mem ..)

@[simp] theorem State.resume_memOk (s : State) (p : Nat) (h : s.MemOk) : (s.resume p).MemOk :=
  State.MemOk.keep (h.foldl (fun _ _ hs => State.startHead_memOk _ _ hs) _) ((State.modIter_mem ..).trans (State.wakeAgents_mem ..))

@[simp] theorem execSwitchComplete_memOk (p : Nat) (s : State) (h : s.MemOk) : Result.MemOk (execSwitchComplete p s) := by
  unfold execSwitchComplete
  split <;> simp [State.MemOk, h]

/-! ### Ctrl -/

@[simp] theorem State.clearEvent_mem (s : State) (core n : Nat) : s.SameMem (State.clearEvent s core n) := ⟨rfl, rfl, rfl⟩

@[simp] theorem execEventCounterClear_memOk (core idx : Nat) (s : State) (h : s.MemOk) :
    Result.MemOk (execEventCounterClear core idx s) := by
  simp [execEventCounterClear, State.MemOk, h]

@[simp] theorem State.unfreezeCtx_mem (s : State) (core p q : Nat) : s.SameMem (State.unfreezeCtx s core p q) := by
  unfold State.unfreezeCtx
  split <;> simp [State.SameMem]

@[simp] theorem execEngfrzUnfreeze_memOk (core p q : Nat) (s : State) (h : s.MemOk) :
    Result.MemOk (execEngfrzUnfreeze core p q s) := by
  simp [execEngfrzUnfreeze, State.MemOk, h]

@[simp] theorem State.writeEngfrz_mem (s : State) (core p : Nat) (v : Word) : s.SameMem (State.writeEngfrz s core p v) := by
  simp [State.SameMem, State.writeEngfrz]

@[simp] theorem State.writeCore_mem (s : State) (core sel : Nat) (v : Word) : s.SameMem (State.writeCore s core sel v) := by
  unfold State.writeCore
  repeat' split
  all_goals simp [State.SameMem]

@[simp] theorem State.writePart_memOk (s : State) (p sel : Nat) (v : Word) (h : s.MemOk) : (State.writePart s p sel v).MemOk := by
  unfold State.writePart
  split <;> simp [State.MemOk, h]

@[simp] theorem State.clearElog_mem (s : State) (g n : Nat) : s.SameMem (State.clearElog s g n) := ⟨rfl, rfl, rfl⟩

@[simp] theorem execElogEntryClear_memOk (g n : Nat) (s : State) (h : s.MemOk) : Result.MemOk (execElogEntryClear g n s) := by
  simp [execElogEntryClear, State.MemOk, h]

@[simp] theorem State.writeEinj_mem (s : State) (g : Nat) (v : Word) : s.SameMem (State.writeEinj s g v) := by
  unfold State.writeEinj
  split <;> exact ⟨rfl, rfl, rfl⟩

@[simp] theorem execEinjWrite_memOk (g : Nat) (v : Word) (s : State) (h : s.MemOk) : Result.MemOk (execEinjWrite g v s) := by
  simp [execEinjWrite, State.MemOk, h]

@[simp] theorem State.writeModule_mem (s : State) (g sel : Nat) (v : Word) : s.SameMem (State.writeModule s g sel v) := by
  unfold State.writeModule
  split <;> simp [State.SameMem]

@[simp] theorem State.writeCtl_memOk (s : State) (core sel : Nat) (v : Word) (h : s.MemOk) :
    (State.writeCtl s core sel v).MemOk := by
  unfold State.writeCtl
  dsimp only
  repeat' split
  all_goals simp [State.MemOk, h]

theorem withCtl_memOk (s : State) (a : Src) (user : Nat → Bool) {k : Nat → Verdict} (hk : ∀ sel, (k sel).MemOk) :
    (withCtl s a user k).MemOk := .ite trivial (.ite trivial (hk _))

theorem execCrd_memOk (rd : Nat) (a : Src) {s : State} (h : s.MemOk) : Result.MemOk (execCrd rd a s) :=
  issue_memOk _ (fun _ hu => withCtl_memOk _ _ _ fun _ => hu.keep ((State.wx_mem ..).trans (State.advance_mem ..))) h

theorem execCwr_memOk (a b : Src) {s : State} (h : s.MemOk) : Result.MemOk (execCwr a b s) :=
  issue_memOk _ (fun _ hu => withCtl_memOk _ _ _ fun _ => .ite (State.MemOk.keep (State.writeCtl_memOk _ _ _ _ hu) (State.advance_mem ..))
    (hu.keep ((State.modThr_mem ..).trans (State.advance_mem ..)))) h

/-! ### Host -/

@[simp] theorem State.freezeFn_mem (s : State) (fn : Nat) : s.SameMem (State.freezeFn s fn) := by
  unfold State.freezeFn
  split <;> exact ⟨rfl, rfl, rfl⟩

@[simp] theorem State.writeSqctl_mem (s : State) (q : Nat) (v : Word) : s.SameMem (State.writeSqctl s q v) := by
  simp [State.SameMem, State.writeSqctl]

@[simp] theorem execSqActivate_memOk (q : Nat) (v : Word) (s : State) (h : s.MemOk) : Result.MemOk (execSqActivate q v s) := by
  simp [execSqActivate, State.MemOk, h]

@[simp] theorem execSqDisable_memOk (q : Nat) (s : State) (h : s.MemOk) : Result.MemOk (execSqDisable q s) := by
  simp [execSqDisable, State.MemOk, h]

@[simp] theorem execSqptrWrite_memOk (q : Nat) (v : Word) (s : State) (h : s.MemOk) : Result.MemOk (execSqptrWrite q v s) := by
  unfold execSqptrWrite
  dsimp only
  repeat' split
  all_goals simp [State.MemOk, h]

@[simp] theorem State.startPkt_mem (s : State) (q : Nat) (ws : List Word) : s.SameMem (State.startPkt s q ws) := ⟨rfl, rfl, rfl⟩

theorem State.packetNow_memOk (s : State) (q : Nat) (ws : List Word) {f : State → State × Word} (h : s.MemOk)
    (hf : ∀ u : State, u.MemOk → (f u).1.MemOk) : (s.packetNow q ws f).MemOk :=
  State.MemOk.keep (hf _ (h.keep (State.startPkt_mem ..))) (State.completePacket_mem ..)

@[simp] theorem State.rejectPacket_memOk (s : State) (q : Nat) (ws : List Word) (cause : Nat) (h : s.MemOk) :
    (s.rejectPacket q ws cause).MemOk := by
  unfold State.rejectPacket
  extract_lets x sq y body
  refine .ite (State.MemOk.keep (State.packetNow_memOk _ _ _ h fun u hu => hu) (State.modSubq_mem ..)) (.ite h ?_)
  exact State.packetNow_memOk _ _ _ h fun u hu => (State.writeHbm_memOk _ _ _ _ hu).keep (State.modSubq_mem ..)

theorem packetEvent_memOk (ok : List Word → Bool) (q : Nat) {f : List Word → State → State} {s : State}
    (hf : ∀ ws (u : State), u.MemOk → (f ws u).MemOk) (h : s.MemOk) : Result.MemOk (packetEvent ok q f s) := by
  unfold packetEvent
  split
  · exact Result.next_memOk.2 h
  · extract_lets c
    exact .ite (Result.next_memOk.2 (State.rejectPacket_memOk _ _ _ _ h))
      (.ite (Result.next_memOk.2 (hf _ _ h)) (Result.next_memOk.2 h))

@[simp] theorem State.launchFrom_mem (s : State) (q g : Nat) (ws : List Word) (a : Word) (seeds : List Word) :
    s.SameMem (s.launchFrom q g ws a seeds) := by
  unfold State.launchFrom
  extract_lets part ten core
  split
  · exact .refl s
  · exact (State.startPkt_mem ..).trans (State.placeLaunch_mem ..)

theorem execLaunchPacket_memOk (q : Nat) {s : State} (h : s.MemOk) : Result.MemOk (execLaunchPacket q s) :=
  packetEvent_memOk _ _ (fun _ _ hu => hu.keep (State.launchFrom_mem ..)) h

theorem execFaultPacket_memOk (q : Nat) {s : State} (h : s.MemOk) : Result.MemOk (execFaultPacket q s) :=
  packetEvent_memOk _ _ (fun _ _ hu => hu.keep (State.launchFrom_mem ..)) h

@[simp] theorem State.fillAgent_memOk (s : State) (n : Nat) (data : List Byte) (h : s.MemOk) : (s.fillAgent n data).MemOk := by
  unfold State.fillAgent
  split
  · exact State.store_memOk _ _ _ (State.zeroHbm_memOk _ _ _ h)
  · exact h

@[simp] theorem State.startAgent_memOk (s : State) (q n base : Nat) (ws : List Word) (h : s.MemOk) :
    (s.startAgent q n base ws).MemOk := by
  unfold State.startAgent
  extract_lets w part ten die e i s1
  have h1 : s1.MemOk := h.keep (State.startPkt_mem ..)
  split
  next code x ex =>
    have hx : x.s.MemOk := Xfer.memOk_of_pair ex (Xfer.words_memOk _ _ _ ⟨s1, [], 0, 0⟩ h1)
    split
    · exact hx.keep (State.completePacket_mem ..)
    · split
      next data y ey =>
        have hy : y.s.MemOk := Xfer.memOk_of_pair ey (Xfer.readAll_memOk _ _ _ _ hx)
        extract_lets g
        refine .ite (hy.keep (State.completePacket_mem ..)) (State.MemOk.keep (State.fillAgent_memOk _ _ _ ?_) (State.wakeAgents_mem ..))
        exact hy.keep (State.SameMem.trans ⟨rfl, rfl, rfl⟩ (State.setAgent_mem ..))

theorem execAgentstart_memOk (q : Nat) {s : State} (h : s.MemOk) : Result.MemOk (execAgentstart q s) := by
  refine packetEvent_memOk _ _ (fun ws u hu => ?_) h
  split
  · exact State.startAgent_memOk _ _ _ _ _ hu
  · exact hu

theorem execCopyPacket_memOk (q : Nat) {s : State} (h : s.MemOk) : Result.MemOk (execCopyPacket q s) := by
  refine packetEvent_memOk _ _ (fun ws u hu => State.packetNow_memOk _ _ _ hu fun v hv => ?_) h
  extract_lets src dst n x
  have hx : x.s.MemOk := Xfer.move_memOk _ _ _ _ _ hv
  split
  · exact hv
  · exact hx

theorem execSignalTimeline_memOk (q : Nat) {s : State} (h : s.MemOk) : Result.MemOk (execSignalTimeline q s) :=
  packetEvent_memOk _ _ (fun _ _ hu => State.packetNow_memOk _ _ _ hu fun _ hv => State.MemOk.keep hv ⟨rfl, rfl, rfl⟩) h

theorem execSignalEvent_memOk (q : Nat) {s : State} (h : s.MemOk) : Result.MemOk (execSignalEvent q s) := by
  refine packetEvent_memOk _ _ (fun ws u hu => State.packetNow_memOk _ _ _ hu fun v hv => ?_) h
  dsimp only
  split
  · exact hv.keep (State.deliverEvent_mem ..)
  · exact hv

theorem execWaittlPacket_memOk (q : Nat) {s : State} (h : s.MemOk) : Result.MemOk (execWaittlPacket q s) :=
  packetEvent_memOk _ _ (fun _ _ hu => State.packetNow_memOk _ _ _ hu fun _ hv => hv) h

theorem execSwitchatPacket_memOk (q : Nat) {s : State} (h : s.MemOk) : Result.MemOk (execSwitchatPacket q s) :=
  packetEvent_memOk _ _ (fun _ _ hu => State.packetNow_memOk _ _ _ hu fun _ hv =>
    hv.keep ((State.writeSwitchat_mem ..).trans (State.writeSwctl_mem ..))) h

@[simp] theorem State.halted_mem (s : State) (n : Nat) : s.SameMem (State.halted s n) := by
  unfold State.halted
  split <;> simp [State.SameMem]

@[simp] theorem execCompletionRecordWrite_memOk (fn : Nat) (s : State) (h : s.MemOk) :
    Result.MemOk (execCompletionRecordWrite fn s) := by
  unfold execCompletionRecordWrite
  repeat' split
  all_goals simp [State.MemOk, h]

@[simp] theorem State.tear_mem (s : State) (a n : Nat) : s.SameMem (State.tear s a n) := ⟨rfl, rfl, rfl⟩

@[simp] theorem execHostMemoryAccess_memOk (fn a : Nat) (wr : Bool) (v : Word) (s : State) (h : s.MemOk) :
    Result.MemOk (execHostMemoryAccess fn a wr v s) := by
  unfold execHostMemoryAccess
  repeat' split
  all_goals simp [State.MemOk, h]

@[simp] theorem State.modCq_mem (s : State) (fn : Nat) (f : CompQ → CompQ) : s.SameMem (State.modCq s fn f) := ⟨rfl, rfl, rfl⟩

@[simp] theorem State.writeCq_mem (s : State) (fn off : Nat) (v : Word) : s.SameMem (State.writeCq s fn off v) := by
  unfold State.writeCq
  split <;> exact ⟨rfl, rfl, rfl⟩

theorem State.orSame_memOk {s : State} {r : Result} (h : s.MemOk) (hr : Result.MemOk r) : (s.orSame r).MemOk := by
  cases r with
  | next t => exact hr t rfl
  | fault f => exact h
  | refused f => exact h

@[simp] theorem State.writeSq_memOk (s : State) (q off : Nat) (v : Word) (h : s.MemOk) : (s.writeSq q off v).MemOk := by
  unfold State.writeSq
  split
  · exact h.keep (State.modSubq_mem ..)
  · exact h.keep (State.writeSqctl_mem ..)
  · exact h.keep (State.modSubq_mem ..)
  · exact State.orSame_memOk h (execSqptrWrite_memOk _ _ _ h)

@[simp] theorem State.writeXans_memOk (s : State) (v : Word) (h : s.MemOk) : (s.writeXans v).MemOk := by
  refine State.orSame_memOk h ?_
  split
  · exact execXlatResume_memOk _ _ h
  · exact execXlatSkip_memOk _ _ h
  · exact execXlatKill_memOk _ _ h
  · exact Result.next_memOk.2 h

@[simp] theorem State.barWrite_memOk (s : State) (fn off : Nat) (v : Word) (h : s.MemOk) : (State.barWrite s fn off v).MemOk := by
  unfold State.barWrite
  repeat' split
  all_goals simp [State.MemOk, h]

@[simp] theorem execRegisterWrite_memOk (place reg : Nat) (v : Word) (s : State) (h : s.MemOk) :
    Result.MemOk (execRegisterWrite place reg v s) := by
  unfold execRegisterWrite
  repeat' split
  all_goals simp [State.MemOk, h]

/-! ### Taproot -/

@[simp] theorem State.setMeas_mem (s : State) (n : Nat) (d : BitVec 256) : s.SameMem (State.setMeas s n d) := ⟨rfl, rfl, rfl⟩

@[simp] theorem State.extendTo_mem (s : State) (n : Nat) (d : BitVec 256) : s.SameMem (State.extendTo s n d) := ⟨rfl, rfl, rfl⟩

@[simp] theorem State.storeFirmware_memOk (s : State) (i : Image) (h : s.MemOk) : (State.storeFirmware s i).MemOk := by
  simp [State.storeFirmware, State.MemOk, h]

@[simp] theorem State.load_memOk (s : State) (i : Image) (h : s.MemOk) : (State.load s i).MemOk := by
  simp [State.load, State.MemOk, h]

@[simp] theorem execPowerOn_memOk (s : State) (h : s.MemOk) : Result.MemOk (execPowerOn s) := by
  unfold execPowerOn
  dsimp only
  repeat' split
  all_goals simp [State.MemOk, h]

@[simp] theorem State.tpDone_mem (s : State) (fn code : Nat) : s.SameMem (State.tpDone s fn code) := ⟨rfl, rfl, rfl⟩

theorem State.pfCommand_memOk (s : State) (fn : Nat) (inRecovery : Bool) {f : State → State} (h : s.MemOk)
    (hf : ∀ u : State, u.MemOk → (f u).MemOk) : Result.MemOk (s.pfCommand fn inRecovery f) :=
  .ite (Result.next_memOk.2 h) (.ite (Result.next_memOk.2 (State.MemOk.keep (State.MemOk.keep h (State.tpDone_mem ..)) (State.freezeFn_mem ..)))
    (.ite (Result.next_memOk.2 h) (Result.next_memOk.2 (hf s h))))

theorem State.blockCommand_memOk (s : State) (fn code : Nat) (inRecovery : Bool) {f : State → State} (h : s.MemOk)
    (hf : ∀ u : State, u.MemOk → (f u).MemOk) : Result.MemOk (s.blockCommand fn code inRecovery f) :=
  s.pfCommand_memOk fn inRecovery h fun _ hu => .ite (hf _ hu) (hu.keep (State.tpDone_mem ..))

@[simp] theorem State.tpOpen_mem (s : State) (fn : Nat) : s.SameMem (State.tpOpen s fn) := ⟨rfl, rfl, rfl⟩

theorem execTpStage_memOk (fn : Nat) (img : Image) {s : State} (h : s.MemOk) : Result.MemOk (execTpStage fn img s) :=
  s.blockCommand_memOk fn 1 true h fun u hu => .ite
    (State.MemOk.keep (s := { u with staged := some img }) hu ((State.postTo_mem ..).trans (State.tpDone_mem ..))) (hu.keep (State.tpDone_mem ..))

@[simp] theorem State.handOver_memOk (s : State) (i : Image) (h : s.MemOk) : (State.handOver s i).MemOk := by
  simp [State.handOver, State.MemOk, h]

@[simp] theorem State.commitImage_memOk (s : State) (i : Image) (h : s.MemOk) : (State.commitImage s i).MemOk := by
  unfold State.commitImage
  split <;> simp [State.MemOk, h]

theorem execTpCommit_memOk (fn : Nat) {s : State} (h : s.MemOk) : Result.MemOk (execTpCommit fn s) := by
  unfold execTpCommit
  split
  · exact Result.next_memOk.2 (State.commitImage_memOk _ _ h)
  · refine s.pfCommand_memOk fn true h fun u hu => ?_
    split
    · exact hu.keep (State.tpOpen_mem ..)
    · exact .ite (State.commitImage_memOk _ _ hu) ((State.load_memOk _ _ hu).keep
        ((State.extendTo_mem ..).trans ((State.postTo_mem ..).trans (State.tpDone_mem ..))))

@[simp] theorem execAttest_memOk (fn : Nat) (s : State) (h : s.MemOk) : Result.MemOk (execAttest fn s) := by
  unfold execAttest
  dsimp only
  repeat' split
  all_goals simp [State.MemOk, h]

@[simp] theorem State.clearPart_memOk (s : State) (p : Nat) (h : s.MemOk) : (s.clearPart p).MemOk := by
  unfold State.clearPart
  extract_lets q s1 mine
  have h1 : s1.MemOk := h.foldl (fun s t hs => State.freshTenancy_memOk _ _ _ hs) _
  clear_value s1
  exact State.SameMem.memOk (s := s1) ⟨rfl, rfl, rfl⟩ h1

@[simp] theorem State.partDone_mem (s : State) (fn : Nat) (block : List Byte) :
    s.SameMem (State.partDone s fn block) := ⟨rfl, rfl, rfl⟩

theorem execPset_memOk (fn : Nat) (b : Bounds) {s : State} (h : s.MemOk) : Result.MemOk (execPset fn b s) := by
  refine s.blockCommand_memOk fn 4 false h fun u hu => ?_
  extract_lets block v
  have fresh : v.MemOk := State.SameMem.memOk (s := u) ⟨rfl, rfl, rfl⟩ hu
  clear_value v block
  split
  · exact hu.keep (State.tpDone_mem ..)
  · split
    · exact hu.keep (State.tpDone_mem ..)
    · split
      · exact hu.keep ((State.modPart_mem ..).trans (State.partDone_mem ..))
      · exact State.MemOk.keep (State.clearPart_memOk _ _ fresh) (State.partDone_mem ..)

theorem execPdestroy_memOk (fn p : Nat) {s : State} (h : s.MemOk) : Result.MemOk (execPdestroy fn p s) := by
  refine s.blockCommand_memOk fn 5 false h fun u hu => ?_
  extract_lets block v
  have cleared : v.MemOk := State.clearPart_memOk _ _ hu
  clear_value v block
  split
  · exact hu.keep (State.tpDone_mem ..)
  · refine State.MemOk.keep ?_ (State.partDone_mem ..)
    exact State.SameMem.memOk (s := v) ⟨rfl, rfl, rfl⟩ cleared

theorem execExtend_memOk (fn n : Nat) (d : BitVec 256) {s : State} (h : s.MemOk) : Result.MemOk (execExtend fn n d s) :=
  s.blockCommand_memOk fn 6 false h fun _ hu => .ite (hu.keep (State.tpDone_mem ..))
    (hu.keep ((State.extendTo_mem ..).trans (State.tpDone_mem ..)))

theorem execUnfreeze_memOk (fn vf : Nat) {s : State} (h : s.MemOk) : Result.MemOk (execUnfreeze fn vf s) :=
  s.blockCommand_memOk fn 7 false h fun u hu => .ite (hu.keep (State.tpDone_mem ..))
    (State.MemOk.keep (s := { u with frozenFns := u.frozenFns.filter (· ≠ vf) }) hu (State.tpDone_mem ..))

theorem State.tpCommand_memOk (s : State) (fn code : Nat) (h : s.MemOk) : Result.MemOk (s.tpCommand fn code) := by
  unfold State.tpCommand
  extract_lets f
  split
  · exact execTpStage_memOk _ _ h
  · exact execTpCommit_memOk _ h
  · exact execAttest_memOk _ _ h
  · exact execPset_memOk _ _ h
  · exact execPdestroy_memOk _ _ h
  · exact execExtend_memOk _ _ _ h
  · exact execUnfreeze_memOk _ _ h
  · exact s.pfCommand_memOk _ _ h fun _ hu => hu.keep (State.tpOpen_mem ..)

theorem State.tpNext_memOk {s t : State} (h : s.MemOk) (e : s.tpNext = some t) : t.MemOk := by
  unfold State.tpNext at e
  split at e
  · split at e
    · cases e
      exact State.orSame_memOk h (execTpCommit_memOk _ h)
    · cases e
  · split at e
    · cases e
      exact State.orSame_memOk (h.keep ⟨rfl, rfl, rfl⟩) (State.tpCommand_memOk _ _ _ (h.keep ⟨rfl, rfl, rfl⟩))
    · cases e

@[simp] theorem execHealthUpdate_memOk (s : State) (h : s.MemOk) : Result.MemOk (execHealthUpdate s) := by
  unfold execHealthUpdate
  split <;> simp [State.MemOk, h]

/-! ### Steps -/

/-! ### Dispatch -/

theorem exec_memOk (i : Instr) {s : State} (h : s.MemOk) : Result.MemOk (exec i s) := by
  cases i with
  | add => exact execAdd_memOk _ _ _ h
  | sub => exact execSub_memOk _ _ _ h
  | and => exact execAnd_memOk _ _ _ h
  | or => exact execOr_memOk _ _ _ h
  | xor => exact execXor_memOk _ _ _ h
  | sll => exact execSll_memOk _ _ _ h
  | srl => exact execSrl_memOk _ _ _ h
  | sra => exact execSra_memOk _ _ _ h
  | slt => exact execSlt_memOk _ _ _ h
  | sltu => exact execSltu_memOk _ _ _ h
  | min => exact execMin_memOk _ _ _ h
  | max => exact execMax_memOk _ _ _ h
  | minu => exact execMinu_memOk _ _ _ h
  | maxu => exact execMaxu_memOk _ _ _ h
  | mul => exact execMul_memOk _ _ _ h
  | mulh => exact execMulh_memOk _ _ _ h
  | mulhu => exact execMulhu_memOk _ _ _ h
  | div => exact execDiv_memOk _ _ _ h
  | divu => exact execDivu_memOk _ _ _ h
  | rem => exact execRem_memOk _ _ _ h
  | remu => exact execRemu_memOk _ _ _ h
  | clz => exact execClz_memOk _ _ h
  | ctz => exact execCtz_memOk _ _ h
  | popc => exact execPopc_memOk _ _ h
  | addsh1 => exact execAddsh1_memOk _ _ _ h
  | addsh2 => exact execAddsh2_memOk _ _ _ h
  | addsh3 => exact execAddsh3_memOk _ _ _ h
  | andn => exact execAndn_memOk _ _ _ h
  | sextw => exact execSextw_memOk _ _ h
  | zextw => exact execZextw_memOk _ _ h
  | addi => exact execAddi_memOk _ _ _ h
  | andi => exact execAndi_memOk _ _ _ h
  | ori => exact execOri_memOk _ _ _ h
  | xori => exact execXori_memOk _ _ _ h
  | slti => exact execSlti_memOk _ _ _ h
  | slli => exact execSlli_memOk _ _ _ h
  | srli => exact execSrli_memOk _ _ _ h
  | srai => exact execSrai_memOk _ _ _ h
  | lui => exact execLui_memOk _ _ _ h
  | addpc => exact execAddpc_memOk _ _ _ h
  | ldb => exact execLdb_memOk _ _ _ h
  | ldbu => exact execLdbu_memOk _ _ _ h
  | ldh => exact execLdh_memOk _ _ _ h
  | ldhu => exact execLdhu_memOk _ _ _ h
  | ldw => exact execLdw_memOk _ _ _ h
  | ldwu => exact execLdwu_memOk _ _ _ h
  | ldd => exact execLdd_memOk _ _ _ h
  | stb => exact execStb_memOk _ _ _ h
  | sth => exact execSth_memOk _ _ _ h
  | stw => exact execStw_memOk _ _ _ h
  | std => exact execStd_memOk _ _ _ h
  | ldf => exact execLdf_memOk _ _ _ h
  | ldt => exact execLdt_memOk _ _ _ h
  | ldp => exact execLdp_memOk _ _ _ h
  | ldft => exact execLdft_memOk _ _ _ h
  | stf => exact execStf_memOk _ _ _ h
  | fewF => exact execFewF_memOk _ _ h
  | fewE => exact execFewE_memOk _ _ h
  | amoadd => exact execAmoadd_memOk _ _ _ _ h
  | amoswap => exact execAmoswap_memOk _ _ _ _ h
  | amocas => exact execAmocas_memOk _ _ _ _ h
  | amomin => exact execAmomin_memOk _ _ _ _ h
  | amomax => exact execAmomax_memOk _ _ _ _ h
  | amominu => exact execAmominu_memOk _ _ _ _ h
  | amomaxu => exact execAmomaxu_memOk _ _ _ _ h
  | amoand => exact execAmoand_memOk _ _ _ _ h
  | amoor => exact execAmoor_memOk _ _ _ _ h
  | amoxor => exact execAmoxor_memOk _ _ _ _ h
  | fenceFull => exact execFenceFull_memOk _ h
  | fenceAcq sc => exact execFenceAcq_memOk sc h
  | fenceRel => exact execFenceRel_memOk _ h
  | beq => exact execBeq_memOk _ _ _ h
  | bne => exact execBne_memOk _ _ _ h
  | blt => exact execBlt_memOk _ _ _ h
  | bge => exact execBge_memOk _ _ _ h
  | bltu => exact execBltu_memOk _ _ _ h
  | bgeu => exact execBgeu_memOk _ _ _ h
  | jal => exact execJal_memOk _ _ h
  | jalr => exact execJalr_memOk _ _ _ h
  | loop => exact execLoop_memOk _ _ _ h
  | spawn => exact execSpawn_memOk _ _ h
  | join => exact execJoin_memOk _ _ _ h
  | leave => exact execLeave_memOk _ _ h
  | bar => exact execBar_memOk _ _ _ h
  | whoami => exact execWhoami_memOk _ _ _ h
  | grpcnt => exact execGrpcnt_memOk _ _ _ h
  | waittl => exact execWaittl_memOk _ _ _ h
  | qbind => exact execQbind_memOk _ _ _ h
  | qfree => exact execQfree_memOk _ _ h
  | qstat => exact execQstat_memOk _ _ h
  | qrd => exact execQrd_memOk _ _ h
  | qwr => exact execQwr_memOk _ _ h
  | cpy => exact execCpy_memOk _ _ _ h
  | cpyRect => exact execCpyRect_memOk _ _ _ h
  | cpyWin => exact execCpyWin_memOk _ _ _ h
  | cpyCow => exact execCpyCow_memOk _ _ _ h
  | gath => exact execGath_memOk _ _ _ h
  | gathRows => exact execGathRows_memOk _ _ _ h
  | collAllred => exact execCollAllred_memOk _ _ _ h
  | collAllgath => exact execCollAllgath_memOk _ _ _ h
  | collRedscat => exact execCollRedscat_memOk _ _ _ h
  | collAlltoall => exact execCollAlltoall_memOk _ _ _ h
  | atsub => exact execAtsub_memOk _ _ h
  | mlease => exact execMlease_memOk _ h
  | mrel => exact execMrel_memOk _ _ h
  | mzero => exact execMzero_memOk _ h
  | mmul => exact execMmul_memOk _ _ _ h
  | mmulS => exact execMmulS_memOk _ _ _ h
  | mdrain => exact execMdrain_memOk _ _ _ h
  | mwait => exact execMwait_memOk _ _ h
  | ralloc pin auto tok b => exact execRalloc_memOk pin auto tok b h
  | rfill => exact execRfill_memOk _ _ h
  | rpin => exact execRpin_memOk _ _ h
  | runpin => exact execRunpin_memOk _ _ h
  | rrevoke => exact execRrevoke_memOk _ _ h
  | rquery => exact execRquery_memOk _ _ h
  | tidset => exact execTidset_memOk _ _ h
  | tidget => exact execTidget_memOk _ _ h
  | tidpatch => exact execTidpatch_memOk _ _ _ h
  | vadd => exact execVadd_memOk _ _ _ _ _ _ h
  | vsub => exact execVsub_memOk _ _ _ _ _ _ h
  | vmul => exact execVmul_memOk _ _ _ _ _ _ h
  | vmulh => exact execVmulh_memOk _ _ _ _ _ _ h
  | vmin => exact execVmin_memOk _ _ _ _ _ _ h
  | vmax => exact execVmax_memOk _ _ _ _ _ _ h
  | vand => exact execVand_memOk _ _ _ _ _ _ h
  | vor => exact execVor_memOk _ _ _ _ _ _ h
  | vxor => exact execVxor_memOk _ _ _ _ _ _ h
  | vshl => exact execVshl_memOk _ _ _ _ _ _ h
  | vshr => exact execVshr_memOk _ _ _ _ _ _ h
  | vsra => exact execVsra_memOk _ _ _ _ _ _ h
  | vabs => exact execVabs_memOk _ _ _ _ _ h
  | vneg => exact execVneg_memOk _ _ _ _ _ h
  | vmac => exact execVmac_memOk _ _ _ _ _ _ h
  | vfadd => exact execVfadd_memOk _ _ _ _ _ _ h
  | vfsub => exact execVfsub_memOk _ _ _ _ _ _ h
  | vfmul => exact execVfmul_memOk _ _ _ _ _ _ h
  | vfma => exact execVfma_memOk _ _ _ _ _ _ h
  | vfmin => exact execVfmin_memOk _ _ _ _ _ _ h
  | vfmax => exact execVfmax_memOk _ _ _ _ _ _ h
  | vfabs => exact execVfabs_memOk _ _ _ _ _ h
  | vfneg => exact execVfneg_memOk _ _ _ _ _ h
  | vcvt => exact execVcvt_memOk _ _ _ _ _ _ _ _ _ h
  | vld => exact execVld_memOk _ _ _ _ _ h
  | vst => exact execVst_memOk _ _ _ _ h
  | vgath => exact execVgath_memOk _ _ _ _ _ _ h
  | vscat => exact execVscat_memOk _ _ _ _ _ h
  | vsplat => exact execVsplat_memOk _ _ _ _ _ h
  | vbound => exact execVbound_memOk _ _ _ _ _ h
  | vcmp => exact execVcmp_memOk _ _ _ _ _ _ _ h
  | pand => exact execPand_memOk _ _ _ h
  | por => exact execPor_memOk _ _ _ h
  | pnot => exact execPnot_memOk _ _ h
  | pxor => exact execPxor_memOk _ _ _ h
  | pcount => exact execPcount_memOk _ _ _ _ h
  | pfirst => exact execPfirst_memOk _ _ _ _ h
  | vslideup => exact execVslideup_memOk _ _ _ _ _ _ h
  | vslidedn => exact execVslidedn_memOk _ _ _ _ _ _ h
  | vperm => exact execVperm_memOk _ _ _ _ _ _ h
  | vcompress => exact execVcompress_memOk _ _ _ _ _ h
  | vsel => exact execVsel_memOk _ _ _ _ _ h
  | vredadd => exact execVredadd_memOk _ _ _ _ _ h
  | vredmax => exact execVredmax_memOk _ _ _ _ _ h
  | vredmin => exact execVredmin_memOk _ _ _ _ _ h
  | vfredadd => exact execVfredadd_memOk _ _ _ _ _ h
  | vext => exact execVext_memOk _ _ _ _ _ h
  | vins => exact execVins_memOk _ _ _ _ h
  | vrcp => exact execVrcp_memOk _ _ _ _ _ h
  | vrsq => exact execVrsq_memOk _ _ _ _ _ h
  | vexp2 => exact execVexp2_memOk _ _ _ _ _ h
  | vlog2 => exact execVlog2_memOk _ _ _ _ _ h
  | vtanh => exact execVtanh_memOk _ _ _ _ _ h
  | vwidth => exact execVwidth_memOk _ _ h
  | vtopk => exact execVtopk_memOk _ _ _ _ h
  | vmaxx => exact execVmaxx_memOk _ _ _ _ h
  | vquant => exact execVquant_memOk _ _ _ _ _ h
  | vhist => exact execVhist_memOk _ _ _ _ h
  | crd => exact execCrd_memOk _ _ h
  | cwr => exact execCwr_memOk _ _ h
  | trap => exact execTrap_memOk _ _ _ _ h
  | eret => exact execEret_memOk _ h
  | slotld => exact execSlotld_memOk _ _ _ h
  | slotst => exact execSlotst_memOk _ _ _ h
  | park => exact execPark_memOk _ h
  | unpark => exact execUnpark_memOk _ h
  | kill => exact execKill_memOk _ h
  | skipw => exact execSkipw_memOk _ h
  | cMov => exact execCMov_memOk _ _ h
  | cAdd => exact execCAdd_memOk _ _ h
  | cSub => exact execCSub_memOk _ _ h
  | cAnd => exact execCAnd_memOk _ _ h
  | cOr => exact execCOr_memOk _ _ h
  | cXor => exact execCXor_memOk _ _ h
  | cSll => exact execCSll_memOk _ _ h
  | cSrl => exact execCSrl_memOk _ _ h
  | cAddi => exact execCAddi_memOk _ _ h
  | cLi => exact execCLi_memOk _ _ h
  | cLd => exact execCLd_memOk _ _ _ h
  | cSt => exact execCSt_memOk _ _ _ h
  | cBeqz => exact execCBeqz_memOk _ _ h
  | cBnez => exact execCBnez_memOk _ _ h
  | cJ => exact execCJ_memOk _ h
  | cJr => exact execCJr_memOk _ h
  | cLdt => exact execCLdt_memOk _ _ _ h
  | cStf => exact execCStf_memOk _ _ _ h
  | cSkip => exact execCSkip_memOk _ h
  | cQrd => exact execCQrd_memOk _ _ h
  | cQwr => exact execCQwr_memOk _ _ h
  | amovi => exact execAmovi_memOk _ _ h
  | amoviHi => exact execAmoviHi_memOk _ _ h
  | aadd => exact execAadd_memOk _ _ _ h
  | asub => exact execAsub_memOk _ _ _ h
  | amul => exact execAmul_memOk _ _ _ h
  | aaddi => exact execAaddi_memOk _ _ _ h
  | abeq => exact execAbeq_memOk _ _ _ h
  | abne => exact execAbne_memOk _ _ _ h
  | ablt => exact execAblt_memOk _ _ _ h
  | abge => exact execAbge_memOk _ _ _ h
  | ajmp => exact execAjmp_memOk _ h
  | acall => exact execAcall_memOk _ h
  | ald => exact execAld_memOk _ _ _ _ _ h
  | ast => exact execAst_memOk _ _ _ _ h
  | sload => exact execSload_memOk _ _ _ h
  | sstore => exact execSstore_memOk _ _ _ h
  | sjoin => exact execSjoin_memOk _ _ h
  | slen => exact execSlen_memOk _ _ h
  | stok => exact execStok_memOk _ _ _ h
  | stokW => exact execStokW_memOk _ _ _ h
  | ssel => exact execSsel_memOk _ _ _ h
  | sclear => exact execSclear_memOk _ h
  | fmovi => exact execFmovi_memOk _ _ h
  | fblt => exact execFblt_memOk _ _ _ h
  | fbits => exact execFbits_memOk _ _ h
  | fbitsF => exact execFbitsF_memOk _ _ h
  | choose => exact execChoose_memOk _ _ _ h
  | ctxlen => exact execCtxlen_memOk _ _ h
  | ctxstat => exact execCtxstat_memOk _ _ h
  | post => exact execPost_memOk _ _ h
  | ahalt => exact execAhalt_memOk _ h
  | ctxnew => exact execCtxnew_memOk _ _ h
  | ctxfree => exact execCtxfree_memOk _ h
  | fork => exact execFork_memOk _ _ h
  | trim => exact execTrim_memOk _ _ h
  | append => exact execAppend_memOk _ _ _ h
  | probe => exact execProbe_memOk _ _ _ h
  | pin => exact execPin_memOk _ _ _ h
  | unpin => exact execUnpin_memOk _ _ h
  | score => exact execScore_memOk _ _ _ _ h
  | gen => exact execGen_memOk _ _ _ h
  | sampset => exact execSampset_memOk _ _ h
  | maskbind => exact execMaskbind_memOk _ _ h
  | rngjump => exact execRngjump_memOk _ _ h
  | await => exact execAwait_memOk _ _ h
  | exit => exact execExit_memOk h
  | yield => exact execYield_memOk h
  | trigger => exact execTrigger_memOk h
  | brk => exact execBrk_memOk _ h
  | wfe => exact execWfe_memOk _ h
  | cNop => exact execCNop_memOk h
  | cYield => exact execCYield_memOk h
  | cExit => exact execCExit_memOk h
  | cBar0 => exact execCBar0_memOk h
  | anop => exact execAnop_memOk h
  | aret => exact execAret_memOk h
  | divideComplete => exact execDivideComplete_memOk _ _ h
  | loadReturn => exact execLoadReturn_memOk _ _ _ h
  | ldftTimeout => exact execLdftTimeout_memOk _ _ h
  | loopClaimResponse => exact execLoopClaimResponse_memOk _ _ h
  | copyComplete => exact execCopyComplete_memOk _ h
  | remoteWriteAck => exact execRemoteWriteAck_memOk _ _ h
  | gatherComplete => exact execGatherComplete_memOk _ h
  | collChunkReceive => exact execCollChunkReceive_memOk _ h
  | collComplete => exact execCollComplete_memOk _ h
  | leaseGrant => exact execLeaseGrant_memOk _ _ _ h
  | arrayRunStart => exact execArrayRunStart_memOk _ _ h
  | arrayRunLimit => exact execArrayRunLimit_memOk _ _ h
  | arrayPassStart => exact execArrayPassStart_memOk _ _ h
  | arrayCommandComplete => exact execArrayCommandComplete_memOk _ h
  | autofillRefillComplete => exact execAutofillRefillComplete_memOk _ _ h
  | residencyFillComplete => exact execResidencyFillComplete_memOk _ _ h
  | canopyBackgroundRefill => exact execCanopyBackgroundRefill_memOk _ _ h
  | normaliserServiceEnd => exact execNormaliserServiceEnd_memOk _ _ h
  | sfuAccept => exact execSfuAccept_memOk _ _ h
  | sfuDeliver => exact execSfuDeliver_memOk _ _ h
  | sortUnitComplete => exact execSortUnitComplete_memOk _ _ h
  | wfeTimeout => exact execWfeTimeout_memOk _ _ h
  | trapRecordWrite => exact execTrapRecordWrite_memOk _ h
  | threadStart => exact execThreadStart_memOk _ _ h
  | populationComplete => exact execPopulationComplete_memOk _ _ h
  | loadBalanceExchange => exact execLoadBalanceExchange_memOk _ h
  | waitProbeTick => exact execWaitProbeTick_memOk _ h
  | waitProbeArrival => exact execWaitProbeArrival_memOk _ _ h
  | translationAnswer => exact execTranslationAnswer_memOk _ _ h
  | lanyardFlitArrival => exact execLanyardFlitArrival_memOk _ _ h
  | hostMemoryAccess => exact execHostMemoryAccess_memOk _ _ _ _ _ h
  | lookaheadDecode => exact execLookaheadDecode_memOk _ h
  | planHoldExpiry => exact execPlanHoldExpiry_memOk _ _ h
  | iterationSnapshot => exact execIterationSnapshot_memOk _ h
  | gracePeriodEnd => exact execGracePeriodEnd_memOk _ h
  | batchMulticast => exact execBatchMulticast_memOk _ _ h
  | shardReport => exact execShardReport_memOk _ _ h
  | modelGroupTimeout => exact execModelGroupTimeout_memOk _ _ h
  | iterationCommit => exact execIterationCommit_memOk _ h
  | launchPacket => exact execLaunchPacket_memOk _ h
  | agentstart => exact execAgentstart_memOk _ h
  | copyPacket => exact execCopyPacket_memOk _ h
  | signalTimeline => exact execSignalTimeline_memOk _ h
  | signalEvent => exact execSignalEvent_memOk _ h
  | waittlPacket => exact execWaittlPacket_memOk _ h
  | switchatPacket => exact execSwitchatPacket_memOk _ h
  | faultPacket => exact execFaultPacket_memOk _ h
  | sqptrWrite => exact execSqptrWrite_memOk _ _ _ h
  | sqActivate => exact execSqActivate_memOk _ _ _ h
  | sqDisable => exact execSqDisable_memOk _ _ h
  | completionRecordWrite => exact execCompletionRecordWrite_memOk _ _ h
  | xlatResume => exact execXlatResume_memOk _ _ h
  | xlatSkip => exact execXlatSkip_memOk _ _ h
  | xlatKill => exact execXlatKill_memOk _ _ h
  | tpStage => exact execTpStage_memOk _ _ h
  | tpCommit => exact execTpCommit_memOk _ h
  | attest => exact execAttest_memOk _ _ h
  | pset => exact execPset_memOk _ _ h
  | pdestroy => exact execPdestroy_memOk _ _ h
  | extend => exact execExtend_memOk _ _ _ h
  | unfreeze => exact execUnfreeze_memOk _ _ h
  | powerOn => exact execPowerOn_memOk _ h
  | healthUpdate => exact execHealthUpdate_memOk _ h
  | eventCounterClear => exact execEventCounterClear_memOk _ _ _ h
  | engfrzUnfreeze => exact execEngfrzUnfreeze_memOk _ _ _ _ h
  | partitionConfigWrite => exact execPartitionConfigWrite_memOk _ _ _ _ h
  | rtdataWrite => exact execRtdataWrite_memOk _ _ _ h
  | tencfgWrite => exact execTencfgWrite_memOk _ _ _ h
  | modtabWrite => exact execModtabWrite_memOk _ _ _ _ h
  | agentAreaWrite => exact execAgentAreaWrite_memOk _ _ _ _ h
  | switchatWrite => exact execSwitchatWrite_memOk _ _ _ h
  | swctlArm => exact execSwctlArm_memOk _ _ _ h
  | swctlDisarm => exact execSwctlDisarm_memOk _ _ _ h
  | preloadComplete => exact execPreloadComplete_memOk _ _ h
  | switchTimeReached => exact execSwitchTimeReached_memOk _ _ h
  | slotHandover => exact execSlotHandover_memOk _ h
  | switchComplete => exact execSwitchComplete_memOk _ _ h
  | gswPrepare => exact execGswPrepare_memOk _ _ _ h
  | gswCommit => exact execGswCommit_memOk _ _ h
  | gswAbort => exact execGswAbort_memOk _ _ h
  | ptrootWrite => exact execPtrootWrite_memOk _ _ _ _ h
  | xinvWrite => exact execXinvWrite_memOk _ _ _ h
  | invalidationComplete => exact execInvalidationComplete_memOk _ _ h
  | elogEntryClear => exact execElogEntryClear_memOk _ _ _ h
  | einjWrite => exact execEinjWrite_memOk _ _ _ h
  | registerWrite => exact execRegisterWrite_memOk _ _ _ _ h

/-- What a fetch ends with keeps the canonical form: the state that it hands on, or the verdict. -/
def Fetched.MemOk : Fetched → Prop
  | .no v => v.MemOk
  | .word _ _ s => s.MemOk

/-! ### Order -/

theorem State.fetchHalf_memOk (s : State) (ea : Word) {k : Nat → State → Fetched} (hk : ∀ n (u : State), u.MemOk → (k n u).MemOk)
    (h : s.MemOk) : (s.fetchHalf ea k).MemOk := by
  unfold State.fetchHalf
  split
  · split
    · split
      · exact fun u hu => hu.keep (State.noteRead_mem ..)
      · exact hk _ _ (h.keep (State.noteRead_mem ..))
    · exact trivial
  · exact trivial
  · exact fun u hu => hu.keep (State.miss_mem ..)
  · exact trivial

theorem State.fetch_memOk (s : State) (h : s.MemOk) : s.fetch.MemOk := by
  refine s.fetchHalf_memOk _ (fun n u hu => ?_) h
  split
  · exact hu
  · exact u.fetchHalf_memOk _ (fun m v hv => hv) hu

/-! ### Turn -/

theorem State.runTurn_memOk (s : State) (h : s.MemOk) : Result.MemOk s.runTurn := by
  have hw : ∀ (u : State) w n, u.MemOk → (u.withInsn w n).MemOk := fun u w n hu => hu.keep ⟨rfl, rfl, rfl⟩
  unfold State.runTurn State.attempt
  extract_lets u
  have hu : u.MemOk := hw s 0 2 h
  clear_value u
  have fetched := State.fetch_memOk _ hu
  cases e : u.fetch with
  | no v =>
    rw [e] at fetched
    exact Verdict.close_memOk _ _ fetched hu
  | word w n t =>
    rw [e] at fetched
    dsimp only
    cases decodeWord w n with
    | ok i => exact exec_memOk i (hw _ _ _ fetched)
    | error _ => exact Result.next_memOk.2 (State.MemOk.keep (hw _ _ _ fetched) (State.takeTrap_mem ..))

/-! ### Order -/

theorem State.packetMove_memOk {s t : State} {q : Nat} (h : s.MemOk) (e : s.packetMove q = some t) : t.MemOk := by
  unfold State.packetMove at e
  split at e
  · cases e
  next ws _ =>
    extract_lets r at e
    have hr : Result.MemOk r := by
      dsimp only [r]
      split
      · exact execAgentstart_memOk _ h
      · exact execCopyPacket_memOk _ h
      · exact .ite (execSignalEvent_memOk _ h) (execSignalTimeline_memOk _ h)
      · exact execWaittlPacket_memOk _ h
      · exact execSwitchatPacket_memOk _ h
      · exact execFaultPacket_memOk _ h
      · exact execLaunchPacket_memOk _ h
    clear_value r
    split at e
    next s' =>
      split at e
      · cases e
      · cases e
        exact hr _ rfl
    · cases e

/-! ### Turn -/

@[simp] theorem State.outside_memOk (s : State) (o : Outside) (h : s.MemOk) : (s.outside o).MemOk := by
  cases o with
  | hostError a on => exact h.keep ⟨rfl, rfl, rfl⟩
  | stepError p n => exact h.keep (State.stepError_mem ..)
  | shardError p n it code => exact h.keep (State.shardError_mem ..)
  | memberPause p n m on => exact h.keep (State.memberPause_mem ..)
  | canopyError p n b ue => exact h.keep (State.modRes_mem ..)
  | einjEnable g on => exact h.keep (State.modCluster_mem ..)
  | flit f => exact h.keep ⟨rfl, rfl, rfl⟩
  | padError core w ue => exact h.keep ⟨rfl, rfl, rfl⟩
  | hbmError u ue => exact h.keep ⟨rfl, rfl, rfl⟩
  | cacheError g w ue => exact h.keep ⟨rfl, rfl, rfl⟩

/-! #### The events that are due -/

/-- What is offered, if anything, keeps the canonical form. -/
def OfferMemOk (o : Option Result) : Prop := ∀ r, o = some r → Result.MemOk r

theorem offerMemOk_none : OfferMemOk none := nofun

theorem offerMemOk_map {α : Type} {o : Option α} {f : α → Result} (hf : ∀ a, Result.MemOk (f a)) : OfferMemOk (o.map f) := by
  intro r e
  obtain ⟨a, -, rfl⟩ := Option.map_eq_some_iff.1 e
  exact hf a

theorem offerMemOk_firstOf {α : Type} {l : List α} {c : α → Bool} {f : α → Result} (hf : ∀ a, Result.MemOk (f a)) :
    OfferMemOk (firstOf l c f) := offerMemOk_map hf

theorem offerMemOk_ite {c : Prop} [Decidable c] {o p : Option Result} (ho : OfferMemOk o) (hp : OfferMemOk p) :
    OfferMemOk (if c then o else p) := by
  split
  · exact ho
  · exact hp

theorem offerMemOk_bind {α : Type} {o : Option α} {f : α → Option Result} (hf : ∀ a, OfferMemOk (f a)) : OfferMemOk (o.bind f) := by
  intro r e
  obtain ⟨a, -, ha⟩ := Option.bind_eq_some_iff.1 e
  exact hf a r ha

theorem offerMemOk_findSome {α : Type} {l : List α} {f : α → Option Result} (hf : ∀ a ∈ l, OfferMemOk (f a)) :
    OfferMemOk (l.findSome? f) := by
  intro r e
  obtain ⟨a, ha, hr⟩ := List.exists_of_findSome?_eq_some e
  exact hf a ha r hr

/-- The first of two offers, and the offers behind it. -/
theorem offerMemOk_cons {o : Option Result} {l : List (Option Result)} (ho : OfferMemOk o) (hl : OfferMemOk (l.findSome? id)) :
    OfferMemOk ((o :: l).findSome? id) := by
  cases o with
  | none => exact hl
  | some r => exact ho

/-! ### Order -/

theorem State.switchEvent_memOk (s : State) (h : s.MemOk) : OfferMemOk s.switchEvent :=
  offerMemOk_cons (offerMemOk_firstOf fun _ => execSwitchTimeReached_memOk _ _ h) <|
  offerMemOk_cons (offerMemOk_firstOf fun _ => execSlotHandover_memOk _ h) <|
  offerMemOk_cons (offerMemOk_firstOf fun _ => execPreloadComplete_memOk _ _ h) <|
  offerMemOk_cons (offerMemOk_firstOf fun _ => execSwitchComplete_memOk _ _ h) offerMemOk_none

theorem State.accessEvent_memOk (s : State) (h : s.MemOk) : OfferMemOk s.accessEvent :=
  offerMemOk_cons (offerMemOk_firstOf fun _ => execLoadReturn_memOk _ _ _ h) <|
  offerMemOk_cons (offerMemOk_firstOf fun _ => execLoopClaimResponse_memOk _ _ h) <|
  offerMemOk_cons (offerMemOk_firstOf fun _ => execTranslationAnswer_memOk _ _ h) <|
  offerMemOk_cons (offerMemOk_firstOf fun _ => execInvalidationComplete_memOk _ _ h) offerMemOk_none

theorem State.engineEvent_memOk (s : State) (h : s.MemOk) : OfferMemOk s.engineEvent :=
  offerMemOk_cons (offerMemOk_firstOf fun _ => execLanyardFlitArrival_memOk _ _ h) <|
  offerMemOk_cons (offerMemOk_firstOf fun _ => execRemoteWriteAck_memOk _ _ h) <|
  offerMemOk_cons (offerMemOk_firstOf fun _ => execCopyComplete_memOk _ h) <|
  offerMemOk_cons (offerMemOk_firstOf fun _ => execGatherComplete_memOk _ h) <|
  offerMemOk_cons (offerMemOk_firstOf fun _ => execCollChunkReceive_memOk _ h) <|
  offerMemOk_cons (offerMemOk_firstOf fun _ => execCollComplete_memOk _ h) offerMemOk_none

theorem State.arrayEvent_memOk (s : State) (h : s.MemOk) : OfferMemOk s.arrayEvent :=
  offerMemOk_cons (offerMemOk_bind fun _ => offerMemOk_map fun _ => execLeaseGrant_memOk _ _ _ h) <|
  offerMemOk_cons (offerMemOk_firstOf fun _ => execArrayRunStart_memOk _ _ h) <|
  offerMemOk_cons (offerMemOk_firstOf fun _ => execArrayRunLimit_memOk _ _ h) <|
  offerMemOk_cons (offerMemOk_map fun _ => execAutofillRefillComplete_memOk _ _ h) <|
  offerMemOk_cons (offerMemOk_map fun _ => execResidencyFillComplete_memOk _ _ h) <|
  offerMemOk_cons (offerMemOk_map fun _ => execCanopyBackgroundRefill_memOk _ _ h) <|
  offerMemOk_cons (offerMemOk_firstOf fun _ => execArrayPassStart_memOk _ _ h) offerMemOk_none

theorem State.coreEvent_memOk (s : State) (h : s.MemOk) : OfferMemOk s.coreEvent :=
  offerMemOk_cons (offerMemOk_firstOf fun _ => execTrapRecordWrite_memOk _ h) <|
  offerMemOk_cons (offerMemOk_map fun _ => Result.next_memOk.2 (State.kernelStep_memOk _ _ h)) <|
  offerMemOk_cons (offerMemOk_ite (offerMemOk_findSome fun _ _ => offerMemOk_map fun _ => execThreadStart_memOk _ _ h)
    offerMemOk_none) <|
  offerMemOk_cons (offerMemOk_map fun _ => execPopulationComplete_memOk _ _ h) <|
  offerMemOk_cons (offerMemOk_firstOf fun _ => execWaitProbeArrival_memOk _ _ h) <|
  offerMemOk_cons (offerMemOk_firstOf fun _ => execSfuAccept_memOk _ _ h) offerMemOk_none

theorem State.agentEvent_memOk (s : State) (h : s.MemOk) : OfferMemOk s.agentEvent :=
  offerMemOk_cons (offerMemOk_map fun _ => execLookaheadDecode_memOk _ h) <|
  offerMemOk_cons (offerMemOk_map fun _ => execPlanHoldExpiry_memOk _ _ h) <|
  offerMemOk_cons (offerMemOk_firstOf fun _ => execBatchMulticast_memOk _ _ h) <|
  offerMemOk_cons (offerMemOk_firstOf fun _ => execShardReport_memOk _ _ h) <|
  offerMemOk_cons (offerMemOk_firstOf fun _ => execIterationSnapshot_memOk _ h) <|
  offerMemOk_cons (offerMemOk_firstOf fun _ => execIterationCommit_memOk _ h) <|
  offerMemOk_cons (offerMemOk_firstOf fun _ => execModelGroupTimeout_memOk _ _ h) offerMemOk_none

theorem State.hostEvent_memOk (s : State) (h : s.MemOk) : OfferMemOk s.hostEvent := by
  refine offerMemOk_cons (fun r e => ?_) <|
    offerMemOk_cons (offerMemOk_firstOf fun _ => execCompletionRecordWrite_memOk _ _ h) <|
    offerMemOk_cons (fun r e => ?_) offerMemOk_none
  · obtain ⟨t, ht, rfl⟩ := Option.map_eq_some_iff.1 e
    obtain ⟨q, -, hq⟩ := List.exists_of_findSome?_eq_some ht
    exact Result.next_memOk.2 (State.packetMove_memOk h hq)
  · obtain ⟨t, ht, rfl⟩ := Option.map_eq_some_iff.1 e
    exact Result.next_memOk.2 (State.tpNext_memOk h ht)

theorem State.dueEvent_memOk (s : State) (h : s.MemOk) : OfferMemOk s.dueEvent :=
  offerMemOk_cons (s.accessEvent_memOk h) <| offerMemOk_cons (s.engineEvent_memOk h) <|
  offerMemOk_cons (s.arrayEvent_memOk h) <| offerMemOk_cons (s.coreEvent_memOk h) <|
  offerMemOk_cons (s.agentEvent_memOk h) <| offerMemOk_cons (s.hostEvent_memOk h) offerMemOk_none

theorem State.timedEvent_memOk (s : State) (h : s.MemOk) : OfferMemOk s.timedEvent :=
  offerMemOk_cons (offerMemOk_firstOf fun _ => execDivideComplete_memOk _ _ h) <|
  offerMemOk_cons (offerMemOk_firstOf fun _ => execNormaliserServiceEnd_memOk _ _ h) <|
  offerMemOk_cons (offerMemOk_firstOf fun _ => execSfuDeliver_memOk _ _ h) <|
  offerMemOk_cons (offerMemOk_firstOf fun _ => execSortUnitComplete_memOk _ _ h) <|
  offerMemOk_cons (offerMemOk_firstOf fun _ => execArrayCommandComplete_memOk _ h) <|
  offerMemOk_cons (offerMemOk_firstOf fun _ => execLdftTimeout_memOk _ _ h) <|
  offerMemOk_cons (offerMemOk_firstOf fun _ => execWfeTimeout_memOk _ _ h) <|
  offerMemOk_cons (offerMemOk_ite (fun r e => by cases e; exact execLoadBalanceExchange_memOk _ h) offerMemOk_none) <|
  offerMemOk_cons (offerMemOk_ite (fun r e => by cases e; exact execWaitProbeTick_memOk _ h) offerMemOk_none) <|
  offerMemOk_cons (offerMemOk_ite (fun r e => by cases e; exact execHealthUpdate_memOk _ h) offerMemOk_none) offerMemOk_none

theorem State.nextEvent_memOk (s : State) (h : s.MemOk) : OfferMemOk s.nextEvent := by
  unfold State.nextEvent
  cases e : s.switchEvent with
  | some r => exact fun q hq => s.switchEvent_memOk h q (e.trans hq)
  | none => exact offerMemOk_ite offerMemOk_none (s.dueEvent_memOk h)

/-! #### A step -/

theorem State.tick_memOk (s : State) (h : s.MemOk) : s.tick.MemOk :=
  h.keep (State.SameMem.trans (State.restartWaits_mem ..) ⟨rfl, rfl, rfl⟩)

theorem State.endCycle_memOk (s : State) (h : s.MemOk) : Result.MemOk s.endCycle := by
  refine Result.MemOk.ite (Result.next_memOk.2 (h.keep ⟨rfl, rfl, rfl⟩)) ?_
  have offered : OfferMemOk (if s.booted then s.timedEvent else none) := offerMemOk_ite (s.timedEvent_memOk h) offerMemOk_none
  split
  next r e => exact offered r e
  · exact Result.next_memOk.2 (s.tick_memOk h)

theorem State.beginTry_memOk (s : State) (core t : Nat) (before : List Nat) (h : s.MemOk) : (s.beginTry core t before).MemOk := by
  have tried : State.MemOk { s with cur := t, coreTurn := core, tried := before ++ [t] } := h.keep ⟨rfl, rfl, rfl⟩
  exact .ite (State.MemOk.keep tried (State.modThr_mem ..)) tried

/-! ### Turn -/

theorem State.turn_memOk (s : State) (h : s.MemOk) : Result.MemOk s.turn := by
  unfold State.turn
  split
  · exact State.runTurn_memOk _ (s.beginTry_memOk _ _ _ h)
  · exact s.endCycle_memOk h

theorem State.agentMove_memOk (s : State) (n : Nat) (h : s.MemOk) : Result.MemOk (s.agentMove n) := by
  have moved : State.MemOk { s with cur := n } := h.keep ⟨rfl, rfl, rfl⟩
  unfold State.agentMove
  extract_lets u
  change u.MemOk at moved
  split
  · exact exec_memOk _ moved
  · exact longOp_memOk _ moved
  · exact Result.next_memOk.2 (moved.keep (State.takeEncodingFault_mem ..))

theorem State.move_memOk (s : State) (m : Move) (h : s.MemOk) : Result.MemOk (s.move m) := by
  cases m with
  | event e => exact .ite (exec_memOk e h) (Result.next_memOk.2 h)
  | pass => exact s.turn_memOk h
  | agent n => exact s.agentMove_memOk n h
  | kernel core => exact Result.next_memOk.2 (State.kernelStep_memOk _ _ h)
  | taproot =>
    refine Result.next_memOk.2 ?_
    cases e : s.tpNext with
    | none => exact h
    | some t => exact State.tpNext_memOk h e
  | engine k => exact Result.next_memOk.2 (State.engStep_memOk _ _ h)
  | outside o => exact Result.next_memOk.2 (State.outside_memOk _ _ h)

theorem State.unbooted_memOk (s : State) (h : s.MemOk) : Result.MemOk s.unbooted := by
  refine .ite ?_ (execPowerOn_memOk _ h)
  split
  next t e => exact Result.next_memOk.2 (State.tpNext_memOk h e)
  · exact s.endCycle_memOk h

/-! ### Step -/

theorem step_memOk (s : State) (h : s.MemOk) : Result.MemOk (step s) := by
  unfold step State.advanceOne
  split
  · exact State.move_memOk _ _ (h.keep ⟨rfl, rfl, rfl⟩)
  · refine .ite ?_ (s.unbooted_memOk h)
    split
    next r e => exact s.nextEvent_memOk h r e
    · exact s.turn_memOk h

/-- Settles O5: each function that a step is made of keeps the canonical form of the memories, and so does the step. -/
theorem stepKeepsMemory : Obligations.StepKeepsMemory := by
  unfold Obligations.StepKeepsMemory
  exact fun s t h e => step_memOk s h t e

end Sys2Proof.Machine
end

section
/-! PROOF. What reset leaves in the words of the banks 0-14 (O1), the instruction that a step runs (O2), words of the panels (O3), and
the 16-bit ALU forms (O8). -/

namespace Sys2Proof.Machine

/-! ### Reset -/

/-- Refutes O1: at reset the word at offset 0 of core 0's scratchpad, which lies in bank 0, is full; the words of bank 15 alone are
empty. -/
theorem not_resetState : ¬ Obligations.ResetState := by
  unfold Obligations.ResetState
  intro h
  obtain ⟨-, -, -, -, -, empty, -⟩ := h
  have full : State.reset.padWord 0 0 = ⟨true, none⟩ := by decide
  exact absurd (full.symm.trans (empty 0 0)) (by decide)

/-! ### The instruction of a step -/

/-- A thread whose fetch gives a word that decodes runs its instruction in the state that records the word (R32). -/
theorem State.runTurn_of_fetch {s v : State} {w n : Nat} {i : Instr} (hf : (s.withInsn 0 2).fetch = .word w n v)
    (hd : decodeWord w n = .ok i) : s.runTurn = exec i (v.withInsn w n) := by
  simp only [State.runTurn, State.attempt, hf, hd]

theorem step_of_agenda {s : State} {m : Move} {ms : List Move} (ha : s.agenda = m :: ms) :
    step s = State.move { s with agenda := ms } m := by
  simp only [step, State.advanceOne, ha]

theorem step_of_noEvent {s : State} (ha : s.agenda = []) (hb : s.booted = true) (hn : s.nextEvent = none) : step s = s.turn := by
  simp only [step, State.advanceOne, ha, hb, hn, if_true]

/-- Settles O2: a step is the first move of the agenda, or with no move and no event due a turn. -/
theorem stepRunsDecoded : Obligations.StepRunsDecoded := by
  unfold Obligations.StepRunsDecoded
  refine ⟨fun s u v ms core t before w n i hs ht hf hd => ?turn, fun s ms i ha he => ?event,
    fun s ms n ha => ⟨fun i hi => ?short, fun op hop => ?long⟩⟩
  case turn =>
    have taken : u.turn = exec i (v.withInsn w n) := by
      simp only [State.turn, ht]
      exact State.runTurn_of_fetch hf hd
    rcases hs with ⟨ha, rfl⟩ | ⟨ha, hb, hn, rfl⟩
    · exact (step_of_agenda ha).trans taken
    · exact (step_of_noEvent ha hb hn).trans taken
  case event => rw [step_of_agenda ha, State.move, if_pos he]
  case short =>
    rw [step_of_agenda ha]
    simp only [State.move, State.agentMove, hi]
  case long =>
    rw [step_of_agenda ha]
    simp only [State.move, State.agentMove, hop]
    cases op <;> rfl

/-! ### Words of the panels -/

/-- Settles O3 by running the decoder on each word in the kernel. -/
theorem decodeWords : Obligations.DecodeWords := by
  unfold Obligations.DecodeWords
  decide +kernel

/-! ### 16-bit ALU forms -/

theorem srcOk_zeroSource {th : Thread} {l : List Src} (h : ∀ a ∈ l, SrcOk th a) (m : Mode) : ∀ a ∈ l ++ [⟨0, m⟩], SrcOk th a := by
  intro a ha
  rcases List.mem_append.1 ha with ha | ha
  · exact h a ha
  · rw [List.mem_singleton.1 ha]
    exact SrcOk.zero th m

/-- A compact form that reads x0 beside its register is as ready as the register (R45). -/
theorem Ready.withZeroSource {s : State} {l : List Src} {d : List Nat} (h : Ready s { src := l, dx := d }) (m : Mode) :
    Ready s { src := l ++ [⟨0, m⟩], dx := d } :=
  { h with src := srcOk_zeroSource h.src m }

/-- Settles O8: a compact form is `alu2` or `alu1` of its registers and x0. -/
theorem compactAluResults : Obligations.CompactAluResults := by
  unfold Obligations.CompactAluResults
  intro s a b imm
  refine ⟨fun h => ?cMov, fun h => (exec_cAdd ..).trans (alu2_ready h rfl), fun h => (exec_cSub ..).trans (alu2_ready h rfl),
    fun h => (exec_cAnd ..).trans (alu2_ready h rfl), fun h => (exec_cOr ..).trans (alu2_ready h rfl),
    fun h => (exec_cXor ..).trans (alu2_ready h rfl), fun h => (exec_cSll ..).trans (alu2_ready h rfl),
    fun h => (exec_cSrl ..).trans (alu2_ready h rfl), fun h => (exec_cAddi ..).trans (alu1_ready h rfl), fun h => ?cLi, fun h => ?cNop⟩
  case cMov => exact (exec_cMov ..).trans (alu2_ready (h.withZeroSource .wait) (BitVec.add_zero _))
  case cLi => exact (exec_cLi ..).trans (alu1_ready (h.withZeroSource .wait) (BitVec.zero_add _))
  case cNop =>
    have twice := (h.withZeroSource .wait).withZeroSource .wait
    exact (exec_cNop ..).trans (alu2_ready twice.linkingZero (BitVec.add_zero _))

end Sys2Proof.Machine
end

section
/-! PROOF. What taking an exception leaves in the thread, in its core and beside them, for a user slot (O23) and for the root slot
(O24); TRAP, BRK and the checks of the root slot's instructions (O25); what WHOAMI answers (O20). -/

namespace Sys2Proof.Machine

/-! ### The count of a trap's class (R289) -/

/-- The event counters of a core after a trap of a class. -/
def trapEvents (cls : Nat) (ev : Table Nat) : Table Nat :=
  match trapCounter cls with
  | some i => Table.set ev i (min (Table.get ev i 0 + 1) 0xFFFFFFFF)
  | none => ev

/-- The state after the count of a trap's class. -/
def State.countTrap (s : State) (core cls : Nat) : State :=
  match trapCounter cls with
  | some i => s.countEvent core i
  | none => s

theorem trapCounter_eq_some (cls i : Nat) :
    trapCounter cls = some i ↔ (1 ≤ cls ∧ cls ≤ 10 ∧ i = cls + 4) ∨ (11 ≤ cls ∧ cls ≤ 14 ∧ i = 15) := by
  unfold trapCounter
  split
  · simp; omega
  · split
    · simp; omega
    · split <;> simp <;> omega

theorem trapEvents_get (cls i : Nat) (ev : Table Nat) :
    Table.get (trapEvents cls ev) i 0 = if (1 ≤ cls ∧ cls ≤ 10 ∧ i = cls + 4) ∨ (11 ≤ cls ∧ cls ≤ 14 ∧ i = 15)
      then min (Table.get ev i 0 + 1) 0xFFFFFFFF else Table.get ev i 0 := by
  simp only [← trapCounter_eq_some, trapEvents]
  cases trapCounter cls with
  | none => simp
  | some j =>
    by_cases h : i = j
    · simp [h]
    · simp [Table.get_set_other _ _ _ h, Ne.symm h]

theorem State.countTrap_eq (s : State) (core cls : Nat) : ∃ co, s.countTrap core cls = { s with cores := co } ∧
    (s.countTrap core cls).core core = { s.core core with events := trapEvents cls (s.core core).events } := by
  unfold State.countTrap trapEvents
  cases trapCounter cls with
  | none => exact ⟨s.cores, rfl, rfl⟩
  | some i => exact ⟨_, rfl, by simp [State.countEvent]⟩

/-- An exception goes to the root slot itself or freezes a user slot. -/
theorem State.takeTrap_root {s : State} (h : s.me.isRoot = true) (cls detail : Nat) (info : Word) :
    s.takeTrap cls detail info = (s.countTrap (coreOf s.me.sid) cls).rootTrap s.cur
      (if cls = 12 ∨ cls = 13 then s.me.pc + word s.insnLen else s.me.pc)
      (recordWord0 detail cls s.me.ten s.me.part (slotOf s.me.sid)) info := by
  unfold State.takeTrap State.countTrap
  cases trapCounter cls <;> simp [h, State.countEvent]

/-- What freezing a thread changes: the thread, the records of its core, and beside them waiting translations and runs of arrays. -/
theorem State.freeze_eq (s : State) (t cls : Nat) (pc : Word) (rec : List Word) : ∃ cl ar, s.freeze t cls pc rec =
    { (s.setThr t { s.thr t with
        frozen := some cls, frozeAt := s.cycle, record := some rec, pc := pc, wait := none, answers := [] }).modCore (coreOf (s.thr t).sid) (fun c => { c with records := c.records ++ [rec] }) with
      clusters := cl, arrays := ar } := by
  obtain ⟨ar, h⟩ := State.endRunOf_eq (((s.forgetMisses t).modThr t fun th => { th with
    frozen := some cls, frozeAt := s.cycle, record := some rec, pc := pc, wait := none, answers := [] }).modCore (coreOf (s.thr t).sid)
      fun c => { c with records := c.records ++ [rec] }) t
  refine ⟨_, ar, Eq.trans ?_ h⟩
  unfold State.freeze
  dsimp only
  rw [State.thr_modThr_same]
  rfl

/-- An exception in a user slot freezes it, once its class is counted and a breach is posted (R289, R347). -/
theorem State.takeTrap_user {s : State} (h : s.me.isRoot = false) (cls detail : Nat) (info : Word) : ∃ cq,
    s.takeTrap cls detail info = State.freeze { s.countTrap (coreOf s.me.sid) cls with cqHeld := cq } s.cur cls
      (if cls = 12 ∨ cls = 13 then s.me.pc + word s.insnLen else s.me.pc)
      [word (recordWord0 detail cls s.me.ten s.me.part (slotOf s.me.sid)), s.me.pc &&& 0xFFFFFFFFFFFF, s.insn.setWidth 64,
        info] := by
  unfold State.takeTrap State.countTrap
  cases hb : breach cls detail
  · refine ⟨s.cqHeld, ?_⟩
    cases trapCounter cls <;> simp [h, State.countEvent]
    rfl
  · refine ⟨(s.postBreach s.me.ten s.me.part s.me.sid).cqHeld, ?_⟩
    cases trapCounter cls <;> simp [h, State.countEvent, State.postBreach, State.postTo]

/-- The record of a trap of the current thread, without SEQ (R291). -/
def State.trapRecord (s : State) (cls detail : Nat) (info : Word) : List Word :=
  [word (recordWord0 detail cls s.me.ten s.me.part (slotOf s.me.sid)), s.me.pc &&& 0xFFFFFFFFFFFF, s.insn.setWidth 64, info]

theorem State.trapRecord_eq (s : State) (cls detail : Nat) (info : Word) : s.trapRecord cls detail info =
    [BitVec.ofNat 64 (detail % 65536 * 2 ^ 24 + cls % 256 * 2 ^ 16 + s.me.ten % 4 * 2 ^ 14 + s.me.part % 16 * 2 ^ 8 +
      s.me.sid % 16 * 2 ^ 4), s.me.pc &&& 0xFFFFFFFFFFFF, s.insn.setWidth 64, info] := by
  simp [State.trapRecord, recordWord0, word, slotOf]

/-- The pc that a thread goes on at after its trap (R291). -/
def State.trapPc (s : State) (cls : Nat) : Word := if cls = 12 ∨ cls = 13 then s.me.pc + word s.insnLen else s.me.pc

/-- What a trap in a user slot leaves: the thread frozen, the record queued, the class counted; beside them waiting translations,
runs of arrays and completion records. -/
theorem State.takeTrap_user_eq {s : State} (h : s.me.isRoot = false) (cls detail : Nat) (info : Word) : ∃ co cl ar cq,
    s.takeTrap cls detail info = { s.setThr s.cur { s.me with
        frozen := some cls, frozeAt := s.cycle, record := some (s.trapRecord cls detail info), pc := s.trapPc cls, wait := none,
        answers := [] } with cores := co, clusters := cl, arrays := ar, cqHeld := cq } ∧
    Table.get co (coreOf s.me.sid) freshCore = { s.core (coreOf s.me.sid) with
      events := trapEvents cls (s.core (coreOf s.me.sid)).events
      records := (s.core (coreOf s.me.sid)).records ++ [s.trapRecord cls detail info] } := by
  obtain ⟨cq, ht⟩ := State.takeTrap_user h cls detail info
  obtain ⟨co, hc, count⟩ := State.countTrap_eq s (coreOf s.me.sid) cls
  obtain ⟨cl, ar, hf⟩ := State.freeze_eq { s.countTrap (coreOf s.me.sid) cls with cqHeld := cq } s.cur cls (s.trapPc cls)
    (s.trapRecord cls detail info)
  rw [hc] at hf count ht
  refine ⟨_, cl, ar, cq, ht.trans hf, ?_⟩
  refine (Table.get_set_same ..).trans ?_
  exact congrArg (fun c : Core => { c with records := c.records ++ [s.trapRecord cls detail info] }) count

/-- Settles O23 from what a trap in a user slot leaves. -/
theorem userTrapEntry : Obligations.UserTrapEntry := by
  unfold Obligations.UserTrapEntry
  intro s cls detail info user
  obtain ⟨co, cl, ar, cq, ht, core⟩ := State.takeTrap_user_eq user cls detail info
  rw [ht]
  have me := State.me_setThr s { s.me with
    frozen := some cls, frozeAt := s.cycle, record := some (s.trapRecord cls detail info), pc := s.trapPc cls, wait := none,
    answers := [] }
  exact ⟨congrArg Thread.frozen me, congrArg Thread.pc me,
    (congrArg Core.records core).trans (by rw [State.trapRecord_eq]; rfl),
    fun i => (congrArg (fun c => Table.get (Core.events c) i 0) core).trans (trapEvents_get cls i _), (congrArg Thread.x me :),
    (congrArg Thread.v me :), (congrArg Thread.p me :), rfl, rfl, rfl, rfl, fun u hu => State.thr_setThr_other _ _ hu⟩

/-- What an exception of a root slot changes: its pc, the core's REPC, RCAUSE and RADDR, and beside them waiting translations. -/
theorem State.rootTrap_eq (s : State) (t w0 : Nat) (pc info : Word) : ∃ cl, s.rootTrap t pc w0 info =
    { (s.setThr t { s.thr t with
        pc := (s.core (coreOf (s.thr t).sid)).rvec &&& ~~~1, wait := none, answers := [] }).modCore (coreOf (s.thr t).sid)
        (fun c => { c with repc := pc, rcause := word (c.tqcnt % 2 ^ 24 * 2 ^ 40 + w0), raddr := info }) with
      clusters := cl } := by
  refine ⟨(s.forgetMisses t).clusters, ?_⟩
  have core : ((s.forgetMisses t).core (coreOf (s.thr t).sid)) = s.core (coreOf (s.thr t).sid) := rfl
  simp only [State.rootTrap, State.core_modCore_same, core]
  simp only [State.modCore, State.modThr, State.setThr, State.thr, State.core, State.forgetMisses]

/-- What a trap in the root slot leaves: its pc, the core's REPC, RCAUSE and RADDR, the class counted; beside them waiting
translations. -/
theorem State.takeTrap_root_eq {s : State} (h : s.me.isRoot = true) (cls detail : Nat) (info : Word) : ∃ co cl,
    s.takeTrap cls detail info = { s.setThr s.cur { s.me with
        pc := (s.core (coreOf s.me.sid)).rvec &&& ~~~1, wait := none, answers := [] } with cores := co, clusters := cl } ∧
    Table.get co (coreOf s.me.sid) freshCore = { s.core (coreOf s.me.sid) with
      events := trapEvents cls (s.core (coreOf s.me.sid)).events
      repc := s.trapPc cls
      rcause := word ((s.core (coreOf s.me.sid)).tqcnt % 2 ^ 24 * 2 ^ 40 +
        recordWord0 detail cls s.me.ten s.me.part (slotOf s.me.sid))
      raddr := info } := by
  obtain ⟨co, hc, count⟩ := State.countTrap_eq s (coreOf s.me.sid) cls
  obtain ⟨cl, hr⟩ := State.rootTrap_eq (s.countTrap (coreOf s.me.sid) cls) s.cur
    (recordWord0 detail cls s.me.ten s.me.part (slotOf s.me.sid)) (s.trapPc cls) info
  rw [hc] at hr count
  have rvec : (State.core { s with cores := co } (coreOf (State.thr { s with cores := co } s.cur).sid)).rvec =
      (s.core (coreOf s.me.sid)).rvec := (congrArg Core.rvec count :)
  rw [rvec] at hr
  refine ⟨_, cl, (State.takeTrap_root h ..).trans ((congrArg (State.rootTrap · _ _ _ _) hc).trans hr), ?_⟩
  refine (Table.get_set_same ..).trans ?_
  exact (congrArg (fun c : Core => { c with
    repc := s.trapPc cls
    rcause := word (c.tqcnt % 2 ^ 24 * 2 ^ 40 + recordWord0 detail cls s.me.ten s.me.part (slotOf s.me.sid))
    raddr := info }) count :)

/-- Settles O24. -/
theorem rootTrapEntry : Obligations.RootTrapEntry := by
  unfold Obligations.RootTrapEntry
  intro s cls detail info root
  obtain ⟨co, cl, ht, core⟩ := State.takeTrap_root_eq root cls detail info
  have slot : slotOf s.me.sid % 16 = 0 := by
    have h := of_decide_eq_true root
    simp [slotOf, h]
  rw [ht]
  have me := State.me_setThr s { s.me with pc := (s.core (coreOf s.me.sid)).rvec &&& ~~~1, wait := none, answers := [] }
  refine ⟨congrArg Core.repc core, (congrArg Core.rcause core).trans ?_,
    fun i => (congrArg (fun c => Table.get (Core.events c) i 0) core).trans (trapEvents_get cls i _), congrArg Core.raddr core,
    congrArg Thread.pc me, (congrArg Thread.frozen me :),
    (congrArg Core.records core :), (congrArg Core.rvec core :), (congrArg Thread.x me :),
    rfl, rfl, fun u hu => State.thr_setThr_other _ _ hu⟩
  simp [recordWord0, slot, word, coreOf]

/-! ### TRAP and BRK (R297) -/

theorem Trapped.alive {s u : State} {t : Nat} (h : Trapped s t u) : u.alive t = true := by
  obtain ⟨pc, fz, at', rc, co, cl, ar, cq, rfl⟩ := h
  simp [State.alive, State.setThr]

theorem Trapped.cur {s u : State} {t : Nat} (h : Trapped s t u) : u.cur = s.cur := by
  obtain ⟨pc, fz, at', rc, co, cl, ar, cq, rfl⟩ := h
  rfl

/-- The thread that an exception was taken by waits for nothing already. -/
theorem Trapped.issued_me {s u : State} (h : Trapped s s.cur u) : u.issued.me = { u.me with wait := none, answers := [] } := by
  rw [State.issued_alive u (by rw [h.cur]; exact h.alive)]
  exact State.me_setThr ..

/-- A thread that takes an exception as its instruction completes (R297). -/
theorem trapCompletes_ready {s : State} {n : Needs} (h : Ready s n) (cls : Nat) (hc : cls = 12 ∨ cls = 13) (info : State → Word)
    (user : s.me.isRoot = false) : ∃ t, issue n (fun s => .go (s.takeTrap cls 0 (info s))) s = .next t ∧
      t.me.frozen = some cls ∧ t.me.pc = s.me.pc + BitVec.ofNat 64 s.insnLen ∧ t.me.x = (n.marks s.me).x := by
  have user' : (s.take n).me.isRoot = false := by
    rw [State.me_take, Thread.isRoot, Needs.marks_sid]
    exact user
  obtain ⟨co, cl, ar, cq, ht, -⟩ := State.takeTrap_user_eq user' cls 0 (info (s.take n))
  refine ⟨_, issue_ready h _, ?_⟩
  rw [(State.takeTrap_trapped (s.take n) cls 0 (info (s.take n))).issued_me, ht]
  have me := State.me_setThr (s.take n) { (s.take n).me with
    frozen := some cls, frozeAt := (s.take n).cycle, record := some ((s.take n).trapRecord cls 0 (info (s.take n))),
    pc := (s.take n).trapPc cls, wait := none, answers := [] }
  refine ⟨(congrArg Thread.frozen me :), (congrArg Thread.pc me :).trans ?_, (congrArg Thread.x me :).trans ?_⟩
  · exact (if_pos hc).trans (by rw [State.me_take, Needs.marks_pc]; rfl)
  · exact (congrArg Thread.x (State.me_take s n) :)

theorem Needs.blocked_of_pend {n : Needs} {th : Thread} {r : Nat} (hr : r ∈ n.dx) (hp : (th.getX r).pend = true) :
    n.blocked th = true := by
  have hx : n.xBlock th ≠ [] := by
    unfold Needs.xBlock
    intro h
    have := (List.append_eq_nil_iff.1 h).2
    exact List.filter_eq_nil_iff.1 this r hr hp
  simp [Needs.blocked, hx]

/-- A thread that does not issue changes in what it waits for alone (R24). -/
theorem State.me_parkOn (s : State) (w : Wait) : ∃ since, (s.parkOn w).me = { s.me with wait := some w, waitSince := since } :=
  ⟨_, State.me_setThr ..⟩

/-! ### Instructions of the root slot (R46, R295) -/

theorem issueRoot_user {s : State} (h : s.me.isRoot = false) (n : Needs) (k : State → Verdict) :
    issueRoot n k s = .next (s.takeTrap 2 0 0) := by
  simp [issueRoot, h]

theorem issueRoot_ready {s : State} {n : Needs} (root : s.me.isRoot = true) (h : Ready s n) (k : State → Verdict) :
    issueRoot n k s = (k (s.take n)).close s := by
  rw [issueRoot, if_pos root, issue_ready h]

theorem slotMember_illegal {s : State} {a : Src} (root : s.me.isRoot = true) (h : Ready s { src := [a] })
    (out : (s.rx a).toNat = 0 ∨ 15 < (s.rx a).toNat) (f : State → Nat → State) : slotMember a f s = .next (s.takeTrap 1 0 0) := by
  have bad : (decide (1 ≤ (s.rx a).toNat) && decide ((s.rx a).toNat ≤ 15)) = false := by
    rw [Bool.and_eq_false_iff, decide_eq_false_iff_not, decide_eq_false_iff_not]
    omega
  rw [slotMember, issueRoot_ready root h, withSlot, State.rx_take]
  simp only [bad]
  rfl

theorem slotld_illegal {s : State} {rd : Nat} {a : Src} (root : s.me.isRoot = true) (h : Ready s { src := [a], dx := [rd] })
    (out : slotSel (s.rx a) = none) : exec (.slotld rd a) s = .next (s.takeTrap 1 0 0) := by
  rw [exec_slotld, execSlotld, issueRoot_ready root h, State.rx_take, out]
  rfl

theorem slotst_illegal {s : State} {a b : Src} (root : s.me.isRoot = true) (h : Ready s { src := [a, b] })
    (out : slotSel (s.rx a) = none) : exec (.slotst a b) s = .next (s.takeTrap 1 0 0) := by
  rw [exec_slotst, execSlotst, issueRoot_ready root h, State.rx_take, out]
  rfl

theorem slotSel_none_of_range {w : Word} (h : w.toNat < 65536 ∨ 2 ^ 20 ≤ w.toNat) : slotSel w = none := by
  unfold slotSel
  rcases h with h | h
  · have slot : bits w 19 16 = 0 := by
      simp only [bits]
      omega
    simp [slot]
  · rw [decide_eq_false (Nat.not_lt.2 h)]
    rfl

theorem slotSel_ofNat {slot file idx : Nat} (hs : slot < 16) (hf : file < 16) (hi : idx < 4096)
    (out : ¬ (file = 0 ∧ idx < 32 ∨ file = 1 ∧ idx < 512 ∨ file = 2 ∧ idx < 32 ∨ file = 3 ∧ idx < 4 ∨
      file = 4 ∧ (idx < 2 ∨ 16 ≤ idx ∧ idx < 32))) : slotSel (BitVec.ofNat 64 (slot * 65536 + file * 4096 + idx)) = none := by
  have hn : (BitVec.ofNat 64 (slot * 65536 + file * 4096 + idx)).toNat = slot * 65536 + file * 4096 + idx := by
    rw [BitVec.toNat_ofNat]
    omega
  have file_eq : bits (BitVec.ofNat 64 (slot * 65536 + file * 4096 + idx)) 15 12 = file := by
    simp only [bits, hn]
    omega
  have idx_eq : bits (BitVec.ofNat 64 (slot * 65536 + file * 4096 + idx)) 11 0 = idx := by
    simp only [bits, hn]
    omega
  unfold slotSel
  simp only [file_eq, idx_eq]
  split <;> simp <;> omega

/-- Settles O25: TRAP and BRK from what an exception at completion leaves, the rest from the checks of the root slot's instructions. -/
theorem trapsOfSystemInstructions : Obligations.TrapsOfSystemInstructions := by
  unfold Obligations.TrapsOfSystemInstructions
  refine ⟨fun s rd a b => ⟨fun h => ⟨?trap, fun user => ?trapUser⟩, fun hp => ?pending, fun h => ⟨?brk, fun user => ?brkUser⟩⟩,
    fun s rd a b i user hi => ?user, fun s rd a b root => ⟨fun h out i hi => ?slots, fun h out => ?ld, fun h out => ?st,
      fun slot file idx h0 hs hf hidx hw out => ⟨fun h => ?selLd, fun h => ?selSt⟩⟩⟩
  case trap =>
    rw [exec_trap, execTrap, issue_ready h, State.rx_take]
    rfl
  case trapUser =>
    obtain ⟨t, ht, fz, pc, x⟩ := trapCompletes_ready h 12 (.inl rfl) (fun s => s.rx a) user
    refine ⟨t, ht, fz, pc, fun r => ?_⟩
    rw [← Needs.marks_xval { src := [a, b], dx := [rd] } s.me r]
    unfold Thread.xval Thread.getX
    rw [x]
  case pending =>
    have blocked := Needs.blocked_of_pend (n := { src := [a, b], dx := [rd] }) (List.mem_singleton.2 rfl) hp
    refine ⟨_, if_pos blocked, ?_⟩
    obtain ⟨since, hme⟩ := State.me_parkOn s (.regs (Needs.xBlock { src := [a, b], dx := [rd] } s.me))
    rw [hme]
    exact ⟨rfl, rfl, rfl, rfl⟩
  case brk =>
    rw [exec_brk, execBrk, issue_ready h]
    rfl
  case brkUser => exact trapCompletes_ready h 13 (.inr rfl) (fun _ => 0) user
  case user =>
    simp only [List.mem_cons, List.not_mem_nil, or_false] at hi
    rcases hi with rfl | rfl | rfl | rfl | rfl | rfl <;> exact issueRoot_user user _ _
  case slots =>
    simp only [List.mem_cons, List.not_mem_nil, or_false] at hi
    rcases hi with rfl | rfl | rfl | rfl <;> exact slotMember_illegal root h out _
  case ld => exact slotld_illegal root h (slotSel_none_of_range out)
  case st => exact slotst_illegal root h (slotSel_none_of_range out)
  case selLd => exact slotld_illegal root h (hw ▸ slotSel_ofNat hs hf hidx out)
  case selSt => exact slotst_illegal root h (hw ▸ slotSel_ofNat hs hf hidx out)

/-! ### WHOAMI (R81) -/

/-- What WHOAMI answers of a selector. -/
def State.identityWord (s : State) (sel : Word) : Word :=
  if sel = 0 then identity s.me
  else if sel = 1 then word (Config.windowBase + clusterOf s.me.sid * 0x800000 + s.me.sid / 16 % 8 * 0x40000)
  else if sel = 2 then
    match Table.find? s.pops s.me.pop with
    | some p => if p.packet.isSome then 0 else word s.me.pop
    | none => 0
  else 0

theorem whoami_ready {s : State} {rd : Nat} {a : Src} (h : Ready s { src := [a], dx := [rd] }) :
    exec (.whoami rd a) s =
      .next (s.after { src := [a], dx := [rd] } fun th => (th.gets rd (s.identityWord (s.rx a))).past s.insnLen) := by
  have pop : ∀ n : Needs, (n.marks s.me).pop = s.me.pop :=
    fun n => Needs.marks_keeps (·.pop) (fun _ _ => by simp [Thread.emptyX]) n s.me
  have same : State.identityWord (s.take { src := [a], dx := [rd] }) ((s.take { src := [a], dx := [rd] }).rx a) =
      s.identityWord (s.rx a) := by
    rw [State.rx_take]
    simp [State.identityWord, identity, pop, State.take_eq]
  rw [← same]
  exact issueSimple_wx h rd fun s => s.identityWord (s.rx a)

/-- Settles O20 from what WHOAMI answers of each selector. -/
theorem whoamiResults : Obligations.WhoamiResults := by
  unfold Obligations.WhoamiResults
  intro s rd a h
  have ready := whoami_ready h
  unfold State.identityWord at ready
  refine ⟨fun h0 => ?_, fun h1 => ?_, fun h2 => ?_, fun h3 => ?_⟩
  · rw [h0] at ready
    exact ready
  · rw [h1] at ready
    exact ready
  · rw [h2] at ready
    refine ready.trans ?_
    cases Table.find? s.pops s.me.pop with
    | none => rfl
    | some p => cases hp : p.packet.isSome <;> simp [hp, word]
  · have h0 : s.rx a ≠ 0 := fun h => by simp [h] at h3
    have h1 : s.rx a ≠ 1 := fun h => by simp [h] at h3
    have h2 : s.rx a ≠ 2 := fun h => by simp [h] at h3
    rw [if_neg h0, if_neg h1, if_neg h2] at ready
    exact ready

end Sys2Proof.Machine
end

section
/-! PROOF. What a load, a store and a fence come to when their registers are ready, and what WFE does to its thread: obligations O11
and O17. -/

namespace Sys2Proof.Machine

/-! ### An access at a target (R57, R59, R162) -/

theorem Needs.marks_ctx (n : Needs) (th : Thread) : (n.marks th).ctx = th.ctx := by
  simp [Thread.ctx]

/-- An instruction whose access has a target issues with it, unless an earlier access holds it back. -/
theorem withTarget_ready {s : State} {n : Needs} (h : Ready s n) {u : Use} {wr : Bool} {ea : State → Word} {m alw alp : Nat}
    {op : State → List (Place × Nat) → MemOp} {f : State → List (Place × Nat) → List Nat → Option Leaf → State}
    {ps : List (Place × Nat)} {ks : List Nat} {l : Option Leaf}
    (ht : (s.take n).target (s.take n).me u wr (ea (s.take n)) m alw alp = .ok ps ks l) :
    ((s.take n).mustWait (op (s.take n) ps) ks = false →
      issue n (fun s => withTarget s u wr (ea s) m alw alp fun ps ks l => accessing s (op s ps) ks (f s ps ks l)) s =
        .next (f (s.take n) ps ks l).issued) ∧
    ((s.take n).mustWait (op (s.take n) ps) ks = true →
      issue n (fun s => withTarget s u wr (ea s) m alw alp fun ps ks l => accessing s (op s ps) ks (f s ps ks l)) s =
        .next (s.parkOn .other)) := by
  rw [issue_ready h]
  simp only [withTarget, ht, accessing]
  constructor <;> intro hw <;> rw [hw] <;> rfl

theorem loadFrom_ready {s : State} {src : List Src} {rd n : Nat} {sx : Bool} {ea : State → Word} {v : Word}
    (hv : ea (s.take { src := src, dx := [rd] }) = v) (h : Ready s { src := src, dx := [rd] }) (ps : List (Place × Nat))
    (ks : List Nat) (l : Option Leaf) :
    let u := s.take { src := src, dx := [rd] }
    u.target u.me .read false v n n 1 = .ok ps ks l →
    (u.mustWait (.load rd n sx ps) ks = false → loadFrom src rd n sx ea s =
      .next (((((u.deferX rd).submit s.cur (.load rd n sx ps) ks).countLeaf s.me.ctx v.toNat l).advance).issued)) ∧
    (u.mustWait (.load rd n sx ps) ks = true → loadFrom src rd n sx ea s = .next (s.parkOn .other)) := by
  subst hv
  intro u ht
  have := withTarget_ready (op := fun _ ps => .load rd n sx ps) (f := fun s ps ks l =>
    (((s.deferX rd).submit s.cur (.load rd n sx ps) ks).countLeaf s.me.ctx (ea s).toNat l).advance) h ht
  rw [State.me_take, Needs.marks_ctx] at this
  exact this

theorem storeTo_ready {s : State} {src : List Src} {n : Nat} {x ea : State → Word} {w v : Word} {u : Use}
    (hu : (if n = 8 then .std else .write) = u) (hw : x (s.take { src := src }) = w) (hv : ea (s.take { src := src }) = v)
    (h : Ready s { src := src }) (ps : List (Place × Nat)) (ks : List Nat) (l : Option Leaf) :
    let t := s.take { src := src }
    t.target t.me u true v n n 1 = .ok ps ks l →
    (t.mustWait (.store w ps) ks = false → storeTo src n x ea s =
      .next ((((t.submit s.cur (.store w ps) ks).countLeaf s.me.ctx v.toNat l).advance).issued)) ∧
    (t.mustWait (.store w ps) ks = true → storeTo src n x ea s = .next (s.parkOn .other)) := by
  subst hu hw hv
  intro t ht
  have := withTarget_ready (op := fun s ps => .store (x s) ps) (f := fun s ps ks l =>
    ((s.submit s.cur (.store (x s) ps) ks).countLeaf s.me.ctx (ea s).toNat l).advance) h ht
  rw [State.me_take, Needs.marks_ctx] at this
  exact this

theorem eaLoad_take (s : State) (n : Needs) (a : Src) (imm : BitVec 13) :
    eaLoad (s.take n) a imm = s.rx a + BitVec.ofInt 64 imm.toInt := by
  rw [eaLoad, State.rx_take]
  rfl

/-- A displacement that counts units of the access size (R36). -/
theorem eaScaled_take (s : State) (n : Needs) (a : Src) (imm : BitVec 11) {size : Nat} {z : Int} (hz : (size : Int) = z) :
    eaScaled (s.take n) a imm size = s.rx a + BitVec.ofInt 64 (imm.toInt * z) := by
  subst hz
  rw [eaScaled, State.rx_take, BitVec.ofInt_mul]
  rfl

theorem eaCompact_take (s : State) (n : Needs) (b : Nat) (c : BitVec 3) :
    eaCompact (s.take n) b c = s.me.xval b + BitVec.ofNat 64 (8 * c.toNat) := by
  rw [eaCompact, State.rx_take]
  rfl

/-- Settles O11 from what a load and a store come to when they are ready. -/
theorem loadsAndStoresIssue : Obligations.LoadsAndStoresIssue := by
  unfold Obligations.LoadsAndStoresIssue
  refine ⟨fun s rd base a imm c => ?loads, fun s data base d a imm c => ?stores⟩
  case loads =>
    exact ⟨loadFrom_ready (ea := fun s => eaLoad s a imm) (eaLoad_take ..),
      loadFrom_ready (ea := fun s => eaLoad s a imm) (eaLoad_take ..),
      loadFrom_ready (ea := fun s => eaLoad s a imm) (eaLoad_take ..),
      loadFrom_ready (ea := fun s => eaLoad s a imm) (eaLoad_take ..),
      loadFrom_ready (ea := fun s => eaLoad s a imm) (eaLoad_take ..),
      loadFrom_ready (ea := fun s => eaLoad s a imm) (eaLoad_take ..),
      loadFrom_ready (ea := fun s => eaLoad s a imm) (eaLoad_take ..),
      loadFrom_ready (ea := fun s => eaCompact s base c) (eaCompact_take ..)⟩
  case stores =>
    exact ⟨storeTo_ready (u := .write) (x := fun s => s.rx d) (ea := fun s => eaScaled s a imm 1) rfl (State.rx_take ..)
        (eaScaled_take s _ a imm rfl),
      storeTo_ready (u := .write) (x := fun s => s.rx d) (ea := fun s => eaScaled s a imm 2) rfl (State.rx_take ..)
        (eaScaled_take s _ a imm rfl),
      storeTo_ready (u := .write) (x := fun s => s.rx d) (ea := fun s => eaScaled s a imm 4) rfl (State.rx_take ..)
        (eaScaled_take s _ a imm rfl),
      storeTo_ready (u := .std) (x := fun s => s.rx d) (ea := fun s => eaScaled s a imm 8) rfl (State.rx_take ..)
        (eaScaled_take s _ a imm rfl),
      storeTo_ready (u := .std) (x := fun s => s.rx (cs data)) (ea := fun s => eaCompact s base c) rfl (State.rx_take ..)
        (eaCompact_take s _ base c)⟩

/-! ### Fences (R68) and WFE (R298) -/

@[simp] theorem State.thr_take_nil (s : State) (t : Nat) : (s.take {}).thr t = s.thr t := by
  by_cases h : t = s.cur
  · subst h
    exact State.me_take s {}
  · exact State.thr_modThr_other s _ h

theorem State.requestsBefore_take_nil (s : State) (t q : Nat) : (s.take {}).requestsBefore t q = s.requestsBefore t q := by
  unfold State.requestsBefore
  rw [State.thr_take_nil]
  rfl

theorem State.performedAt_take_nil (s : State) (t : Nat) (sc : Scope) : (s.take {}).performedAt t sc = s.performedAt t sc := by
  cases sc <;> simp only [State.performedAt, State.performed, State.doneBefore, State.heldBefore, State.requestsBefore_take_nil,
    State.thr_take_nil] <;> rfl

theorem State.returned_take_nil (s : State) (t : Nat) : (s.take {}).returned t = s.returned t := by
  simp only [State.returned, State.requestsBefore_take_nil, State.thr_take_nil]
  rfl

/-- Every request that acquires is one of LDF, LDT and LDFT (R65). -/
theorem SyncKind.not_acquires (k : SyncKind) : k.acquires = false ↔ k = .stf := by
  cases k <;> simp [SyncKind.acquires]

theorem State.returned_iff (s : State) : s.returned s.cur = true ↔
    (∀ r ∈ s.me.returns, r.writer ≠ .load ∧ r.writer ≠ .amo) ∧ (∀ r ∈ s.requestsBefore s.cur s.nextAcc, r.k = .stf) ∧
      ∀ h ∈ s.me.heldOps, h.op.reads = false := by
  simp [State.returned, State.me, ← SyncKind.not_acquires, and_assoc]

theorem State.performedAt_iff (s : State) (sc : Scope) : s.performedAt s.cur sc = true ↔
    s.requestsBefore s.cur s.nextAcc = [] ∧ if sc = .module ∨ sc = .fabric then s.me.heldOps = []
      else ∀ h ∈ s.me.heldOps, h.seq < s.nextAcc → ∀ k ∈ h.ks, k = 2 := by
  have imp : ∀ h : Held, (s.nextAcc ≤ h.seq ∨ ∀ k ∈ h.ks, k = 2) ↔ (h.seq < s.nextAcc → ∀ k ∈ h.ks, k = 2) :=
    fun h => by rw [← Nat.not_lt, ← imp_iff_not_or]
  cases sc <;> simp [State.performedAt, State.performed, State.doneBefore, State.heldBefore, State.me, imp]

/-- A fence issues when its condition holds, and waits otherwise. -/
theorem fenceWhen_ready {s : State} (h : Ready s {}) {c : State → Bool} {p : Prop} (hc : c (s.take {}) = true ↔ p) :
    (p → fenceWhen c s = .next (s.after {} fun th => th.past s.insnLen)) ∧
    (¬ p → fenceWhen c s = .next (s.parkOn .other)) := by
  refine ⟨fun hp => issue_setThr h ?_, fun hp => ?_⟩
  · rw [if_pos (hc.2 hp), State.advance_take]
  · rw [fenceWhen, issue_ready h, if_neg fun hb => hp (hc.1 hb)]
    rfl

/-- A thread leaves its WFE behind before it waits (R298). -/
theorem Thread.past_wfe (th : Thread) (len : Nat) (w : Option (Option Nat)) :
    Thread.past (if th.latch then { th with latch := false } else { th with wfe := w }) len =
      if th.latch then { th.past len with latch := false } else { th.past len with wfe := w } := by
  split <;> rfl

/-- Settles O17: a fence by its condition, WFE and its timeout by their equations. -/
theorem fencesAndWaits : Obligations.FencesAndWaits := by
  unfold Obligations.FencesAndWaits
  refine ⟨fun s sc h => ?fences, fun s h => ?wfe, fun s t due hw hd => ?timeout⟩
  case fences =>
    have performed : (s.take {}).performedAt (s.take {}).cur sc = true ↔ _ :=
      (Bool.eq_iff_iff.1 (State.performedAt_take_nil s s.cur sc)).trans (State.performedAt_iff s sc)
    have returned : (s.take {}).returned (s.take {}).cur = true ↔ _ :=
      (Bool.eq_iff_iff.1 (State.returned_take_nil s s.cur)).trans (State.returned_iff s)
    have full := fenceWhen_ready h (c := fun s => s.performedAt s.cur sc && s.returned s.cur)
      (Bool.and_eq_true_iff.trans (and_congr performed returned))
    have acq := fenceWhen_ready h (c := fun s => s.returned s.cur) returned
    have rel := fenceWhen_ready h (c := fun s => s.performedAt s.cur sc) performed
    exact ⟨fun hp hr => full.1 ⟨hp, hr⟩, acq.1, rel.1, full.2, acq.2, rel.2⟩
  case wfe =>
    rw [exec_wfe, execWfe, issueSimple]
    refine issue_setThr (f := fun th => if th.latch then { th.past s.insnLen with latch := false } else
      { th.past s.insnLen with wfe := some (if th.wlim = 0 then none else some (s.cycle + th.wlim.toNat * 1024)) }) h ?_
    rw [State.take_eq, State.setThr_cur, State.setThr_modThr, State.setThr_cycle]
    refine congrArg Verdict.go ((State.setThr_modThr ..).trans (congrArg (s.setThr s.cur) ?_))
    exact Thread.past_wfe (Needs.marks {} s.me) s.insnLen _
  case timeout =>
    rw [exec_wfeTimeout, execWfeTimeout, hw]
    exact if_pos hd

end Sys2Proof.Machine
end

section
/-! PROOF. The results of other parties that land in a register (O16), and how a thread ends, yields and triggers (O22). -/

namespace Sys2Proof.Machine

/-! ### Returns (R25, R165) -/

/-- A return of any other party than the window lands where it is named. -/
theorem Thread.landing_of_result {th : Thread} {idx : Nat} {r : Return} (hr : th.returns[idx]? = some r) (hw : r.writer ≠ .window) :
    th.landing idx = idx := by
  simp only [Thread.landing, hr, if_neg hw]

/-- Of several window writes of one register the first one lands, whichever is named. -/
theorem Thread.landing_of_window {th : Thread} {idx first : Nat} {r r' : Return} (hr : th.returns[idx]? = some r)
    (hf : th.returns[first]? = some r') (hw : r.writer = .window) (hw' : r'.writer = .window) (hd : r'.dest = r.dest)
    (least : ∀ i e, i < first → th.returns[i]? = some e → e.writer = .window → e.dest ≠ r.dest) : th.landing idx = first := by
  have found : th.returns.findIdx? (fun w => w.writer = .window && w.dest = r.dest) = some first := by
    rw [List.findIdx?_eq_some_iff_getElem]
    obtain ⟨hlt, hget⟩ := List.getElem?_eq_some_iff.1 hf
    refine ⟨hlt, by simp [hget, hw', hd], fun j hj => ?_⟩
    have := least j _ hj (List.getElem?_eq_getElem (hj.trans hlt))
    simpa using this
  simp only [Thread.landing, hr, if_pos hw, found, Option.getD_some]

/-- A result of another party than the window lands in its register. -/
theorem execLoadReturn_result {s : State} {t idx : Nat} {r : Return} (hr : (s.thr t).returns[idx]? = some r)
    (hw : r.writer ≠ .window) :
    execLoadReturn t idx s = .next (match r.dest with
      | .x rd => (s.modThr t fun th => { th with returns := th.returns.eraseIdx idx }).landX t rd r.xval r.poison
      | .v vd => (s.modThr t fun th => { th with returns := th.returns.eraseIdx idx }).landV t vd r.vval r.poison) := by
  simp only [execLoadReturn, Thread.landing_of_result hr hw, hr, if_neg hw]
  cases r.dest <;> rfl

theorem execLoadReturn_window {s : State} {t idx first : Nat} {r : Return} (hl : (s.thr t).landing idx = first)
    (hf : (s.thr t).returns[first]? = some r) (hw : r.writer = .window) :
    execLoadReturn t idx s =
      .next (s.modThr t fun th => Thread.landWrite { th with returns := th.returns.eraseIdx first } r) := by
  simp only [execLoadReturn, hl, hf, if_pos hw, State.modThr_modThr]

theorem State.landV_eq_modThr (s : State) {t r : Nat} (v : VWord) (poison : Bool) (ht : s.alive t = true) :
    s.landV t r v poison = s.modThr t fun th => { (th.setV r ⟨v, true, poison, false⟩) with latch := true } := if_pos ht

@[simp] theorem State.landV_hbm (s : State) (t r : Nat) (v : VWord) (poison : Bool) : (s.landV t r v poison).hbm = s.hbm := by
  unfold State.landV
  split <;> rfl

@[simp] theorem State.landV_pad (s : State) (t r : Nat) (v : VWord) (poison : Bool) : (s.landV t r v poison).pad = s.pad := by
  unfold State.landV
  split <;> rfl

/-- Settles O16: a return by which of the returns lands and where, an expired LDFT by its equation. -/
theorem deferredResultsLand : Obligations.DeferredResultsLand := by
  unfold Obligations.DeferredResultsLand
  refine ⟨fun s t idx r v w bad by_ hr hw => ?scalar, fun s t idx first d v v' w w' bad bad' hr hf least => ?window,
    fun s t idx r v w bad by_ hr hw ht => ?vector, fun s t k r he => ?expired⟩
  case scalar =>
    refine ⟨_, execLoadReturn_result hr hw, State.landX_hbm .., State.landX_pad .., fun ht h0 => ?_⟩
    dsimp only
    rw [State.landX_eq_modThr _ _ _ ((State.alive_modThr _ _ _ _ ht).trans ht) h0, State.modThr_modThr, State.thr_modThr_same,
      Thread.setX, if_neg h0]
  case window =>
    have hl := Thread.landing_of_window hr hf rfl rfl rfl least
    refine ⟨_, execLoadReturn_window hl hf rfl, rfl, rfl, fun r hd h0 => ?_, fun r hd => ?_⟩
    · subst hd
      rw [State.thr_modThr_same, Thread.landWrite]
      dsimp only
      rw [Thread.setX, if_neg h0]
      rfl
    · subst hd
      rw [State.thr_modThr_same]
      rfl
  case vector =>
    refine ⟨_, execLoadReturn_result hr hw, State.landV_hbm .., State.landV_pad .., ?_⟩
    dsimp only
    rw [State.landV_eq_modThr _ _ _ ((State.alive_modThr _ _ _ _ ht).trans ht), State.modThr_modThr, State.thr_modThr_same]
    rfl
  case expired =>
    rw [exec_ldftTimeout, execLdftTimeout, he]

/-! ### The end of a thread (R79) -/

theorem Quiet.take_nil {s : State} (h : Quiet s) : Quiet (s.take {}) where
  banks := h.banks
  held := fun e he => by
    rcases Table.mem_set he with rfl | he
    · exact h.heldOps s.cur
    · exact h.held e he
  acq := fun t => by rw [State.thr_take_nil]; exact h.acq t

theorem State.dropLease_eq (s : State) (t : Nat) : ∃ ar, s.dropLease t = { s with arrays := ar } := by
  obtain ⟨ar, he⟩ := State.endRunOf_eq s t
  unfold State.dropLease
  rw [he]
  dsimp only
  split
  · exact ⟨_, rfl⟩
  · exact ⟨s.arrays, rfl⟩

/-- No thread waits at a barrier of the population. -/
theorem State.tryPop_idle {s : State} {id : Nat} {p : Population} (hp : Table.find? s.pops id = some p) (ha : p.arrived = []) :
    s.tryPop id = s := by
  simp [State.tryPop, hp, ha]

/-- The population of a thread that ends counts one more exit (R76). -/
def Population.lose (p : Population) (th : Thread) (t : Nat) : Population :=
  { p with exited := p.exited + 1, trig := if th.triggered then p.trig else p.trig + 1, arrived := p.arrived.filter (· ≠ t) }

/-- A thread without groups that holds nothing back is taken out of the threads and slots, and its population counts its exit; beside
them banks, cores, translations and arrays forget it. -/
theorem State.endThread_alone {s : State} (q : Quiet s) {t : Nat} {p : Population} (hg : (s.thr t).groups = [])
    (hp : Table.find? s.pops (s.thr t).pop = some p) (ha : p.arrived = []) : ∃ th bk co cl ar,
    s.endThread t = { s with
      threads := Table.erase (Table.set s.threads t th) t, slots := s.slots.filter fun e => e.2 ≠ t, banks := bk, cores := co
      clusters := cl, arrays := ar, pops := Table.set s.pops (s.thr t).pop (p.lose (s.thr t) t) } := by
  have held := q.heldOps t
  obtain ⟨ar, hl⟩ := State.dropLease_eq (({ s with banks := Table.mapVals s.banks fun rs => rs.filter fun r => r.t ≠ t } :
    State).modThr t fun th => { th with heldOps := [] }) t
  unfold State.endThread
  simp only [held, hg, List.filter_nil, List.foldl_nil]
  rw [hl]
  simp only [State.modCore_pops, State.modThr_pops, hp]
  rw [State.tryPop_idle (p := p.lose (s.thr t) t) (Table.find_set_same ..) (by simp [Population.lose, ha]),
    State.settle_quiet _ ?banks ?held]
  case banks =>
    intro e he
    obtain ⟨e', he', rfl⟩ := List.mem_map.1 he
    simp [q.banks e' he']
  case held =>
    intro e he
    rcases Table.mem_set (List.mem_filter.1 he).1 with rfl | he
    · rfl
    · exact q.held e he
  exact ⟨_, _, _, _, _, rfl⟩

theorem Quiet.ownStf {s : State} (q : Quiet s) (t : Nat) : s.ownStf t = false := by
  simp only [State.ownStf, List.any_eq_false]
  intro e he
  simp [q.banks e he]

theorem State.ownAmo_take_nil (s : State) (t : Nat) : (s.take {}).ownAmo t = s.ownAmo t := by
  simp only [State.ownAmo, State.thr_take_nil]

theorem Needs.marks_isRoot (n : Needs) (th : Thread) : (n.marks th).isRoot = th.isRoot := by
  simp [Thread.isRoot]

/-- What EXIT of a user thread comes to (R79). -/
theorem exitThread_ends {s : State} (h : Ready s {}) (q : Quiet s) (noAmo : s.ownAmo s.cur = false) (user : s.me.isRoot = false)
    (hg : s.me.groups = []) (hc : 1024 ≤ s.cur) {p : Population} (hp : Table.find? s.pops s.me.pop = some p) (ha : p.arrived = []) :
    ∃ t, exitThread s = .next t ∧ t.alive s.cur = false ∧ (∀ e ∈ t.slots, e.2 ≠ s.cur) ∧ t.hbm = s.hbm ∧ t.pad = s.pad ∧
      (∀ u, u ≠ s.cur → t.thr u = s.thr u) ∧ Table.find? t.pops s.me.pop = some (p.lose s.me s.cur) := by
  have me : (s.take {}).thr s.cur = s.me := State.thr_take_nil s s.cur
  obtain ⟨th, bk, co, cl, ar, he⟩ := State.endThread_alone (s := s.take {}) q.take_nil (t := s.cur) (by rw [me, hg])
    (by rw [me]; exact hp) ha
  have gone : State.alive ((s.take {}).endThread s.cur) s.cur = false := by
    rw [he]
    simp [State.alive, Table.has, Table.find_erase, Config.cores]
    exact decide_eq_false (Nat.not_lt.2 hc)
  have issues : exitThread s = .next ((s.take {}).endThread s.cur) := by
    have goes : exitThread s = (Verdict.go ((s.take {}).endThread s.cur)).close s := by
      rw [exitThread, issue_ready h, if_neg (by simp [q.take_nil.ownStf]), if_neg (by simp [State.ownAmo_take_nil, noAmo]),
        if_neg (by simp [user])]
      rfl
    rw [goes, Verdict.close, State.issued, if_neg]
    rw [show ((s.take {}).endThread s.cur).cur = s.cur by rw [he]; rfl, gone]
    decide
  refine ⟨_, issues, gone, ?_, ?_, ?_, fun u hu => ?_, ?_⟩
  · rw [he]
    intro e hm
    simpa using (List.mem_filter.1 hm).2
  · rw [he]; rfl
  · rw [he]; rfl
  · rw [he]
    simp [State.thr, Table.get, Table.find_erase, hu, Table.find_set_other, State.take_eq, State.setThr]
  · rw [he, me]
    exact Table.find_set_same ..

/-- EXIT of the root slot moves the pc alone (log entry 10). -/
theorem exitThread_root {s : State} (h : Ready s {}) (q : Quiet s) (noAmo : s.ownAmo s.cur = false) (root : s.me.isRoot = true) :
    exitThread s = .next (s.after {} fun th => th.past s.insnLen) := by
  refine issue_setThr h ?_
  rw [if_neg (by simp [q.take_nil.ownStf]), if_neg (by simp [State.ownAmo_take_nil, noAmo]),
    if_pos (by rw [State.me_take, Needs.marks_isRoot, root]), State.advance_take]

/-! ### YIELD and TRIGGER (R80) -/

/-- The next cycle that is a slot's turn. -/
theorem nextTurn_spec (c slot : Nat) (hs : slot < 16) :
    let n := c + 1 + (slot + 16 - (c + 1) % 16) % 16
    c < n ∧ n ≤ c + 16 ∧ n % 16 = slot := by
  omega

theorem yieldTurn_ready {s : State} (h : Ready s {}) :
    yieldTurn s = .next (s.after {} fun th => { th.past s.insnLen with
      notBefore := s.cycle + 1 + (s.me.sid % 16 + 16 - (s.cycle + 1) % 16) % 16 + 1 }) := by
  rw [yieldTurn, issueSimple]
  refine issue_setThr (f := fun th => { th.past s.insnLen with
    notBefore := s.cycle + 1 + (s.me.sid % 16 + 16 - (s.cycle + 1) % 16) % 16 + 1 }) h ?_
  dsimp only
  rw [State.take_eq, State.setThr_cur, State.setThr_modThr]
  exact congrArg Verdict.go ((State.setThr_modThr ..).trans (congrArg (s.setThr s.cur) (by rw [State.me_setThr, Needs.marks_sid]; rfl)))

theorem yields_at_next {s : State} (h : Ready s {}) : ∃ n, s.cycle < n ∧ n ≤ s.cycle + 16 ∧ n % 16 = s.me.sid % 16 ∧
    yieldTurn s = .next (s.after {} fun th => { th.past s.insnLen with notBefore := n + 1 }) := by
  obtain ⟨later, soon, turn⟩ := nextTurn_spec s.cycle (s.me.sid % 16) (Nat.mod_lt _ (by decide))
  exact ⟨_, later, soon, turn, yieldTurn_ready h⟩

theorem trigger_again {s : State} (h : Ready s {}) (ht : s.me.triggered = true) :
    exec .trigger s = .next (s.after {} fun th => th.past s.insnLen) := by
  refine (exec_trigger s).trans (issue_setThr h ?_)
  dsimp only
  rw [State.me_take, Needs.marks_empty, if_pos ht, State.advance_take]
  rfl

theorem trigger_first {s : State} (h : Ready s {}) (hd : s.performed s.cur = true) (ht : s.me.triggered = false) {p : Population}
    (hp : Table.find? s.pops s.me.pop = some p) :
    exec .trigger s = .next (State.after { s with pops := Table.set s.pops s.me.pop { p with trig := p.trig + 1 } } {}
      fun th => { th.past s.insnLen with triggered := true }) := by
  have done : (s.take {}).performed s.cur = true := by
    rw [State.performed, State.requestsBefore_take_nil, State.thr_take_nil]
    exact hd
  rw [exec_trigger, execTrigger, issue_ready h]
  dsimp only
  rw [State.me_take, Needs.marks_empty, if_neg (by simp [ht]), afterHeld, State.take_cur, if_pos done]
  have pops : ((s.take {}).modThr s.cur fun th => { th with triggered := true }).pops = s.pops := rfl
  rw [pops, hp]
  exact congrArg Host.Outcome.next ((congrArg State.issued (by
    rw [State.take_eq, State.setThr_modThr]
    exact State.setThr_modThr { s with pops := Table.set s.pops s.me.pop { p with trig := p.trig + 1 } } ..)).trans
    (State.issued_setThr { s with pops := Table.set s.pops s.me.pop { p with trig := p.trig + 1 } } _ h.alive))

/-- Settles O22 from what EXIT, YIELD and TRIGGER come to when they are ready. -/
theorem exitYieldTrigger : Obligations.ExitYieldTrigger := by
  unfold Obligations.ExitYieldTrigger
  refine ⟨fun s h q noAmo => ⟨fun root => ⟨exitThread_root h q noAmo root, exitThread_root h q noAmo root⟩,
    fun user hg hc p hp hr ha => ?ends⟩, fun s h => ⟨yields_at_next h, yields_at_next h, trigger_again h,
      fun hd ht p hp => trigger_first h hd ht hp⟩⟩
  have ends := exitThread_ends h q noAmo user hg hc hp ha
  have lose : p.lose s.me s.cur = { p with
      exited := p.exited + 1, trig := if s.me.triggered then p.trig else p.trig + 1 } := by
    simp [Population.lose, ha]
  rw [lose] at ends
  exact ⟨ends, ends⟩

end Sys2Proof.Machine
end

section
/-! PROOF. What loads and stores do to memory when nothing else waits (O12, O13). -/

namespace Sys2Proof.Machine

/-! ### Where a target can lead -/

/-- A place that an access of a thread can reach: no bare physical address, and no bytes of their own. -/
def Place.reached : Place → Bool
  | .hbm _ | .data _ _ => false
  | .page _ _ | .host _ | .pad _ _ | .acc _ _ | .xreg _ _ _ | .vreg _ _ _ | .nothing => true

theorem State.regPlace_reached {s : State} {part ten target o : Nat} {p : Place} (h : s.regPlace part ten target o = some p) :
    p.reached = true := by
  unfold State.regPlace at h
  dsimp only at h
  split at h
  · obtain rfl := Option.some.inj h
    split <;> rfl
  · split at h
    · obtain rfl := Option.some.inj h
      split <;> rfl
    · exact absurd h (by simp)

theorem State.windowPlace_reached {s : State} {part ten sid va : Nat} {u : Use} {p : Place}
    (h : s.windowPlace part ten sid u va = some p) : p.reached = true := by
  unfold State.windowPlace at h
  dsimp only at h
  split at h
  · exact absurd h (by simp)
  · split at h
    · split at h
      · exact Option.some.inj h ▸ rfl
      · exact absurd h (by simp)
    · split at h
      · split at h
        · exact Option.some.inj h ▸ rfl
        · exact absurd h (by simp)
      · split at h
        · split at h
          · exact absurd h (by simp)
          · split at h
            · exact State.regPlace_reached h
            · split at h
              · exact State.regPlace_reached h
              · exact absurd h (by simp)
        · exact absurd h (by simp)

theorem leafPlace_reached (l : Leaf) (va : Nat) : (leafPlace l va).reached = true := by
  unfold leafPlace
  split <;> rfl

theorem State.pageTarget_reached {s : State} {th : Thread} {u : Use} {wr : Bool} {va n : Nat} {ps : List (Place × Nat)}
    {ks : List Nat} {l : Option Leaf} (h : s.pageTarget th u wr va n = .ok ps ks l) : ∀ e ∈ ps, e.1.reached = true := by
  unfold State.pageTarget at h
  split at h
  · exact absurd h (by simp)
  split at h
  · exact absurd h (by simp)
  · exact absurd h (by simp)
  split at h
  · exact absurd h (by simp)
  split at h
  · exact absurd h (by simp)
  split at h
  · exact absurd h (by simp)
  split at h
  · exact absurd h (by simp)
  · obtain ⟨rfl, -, -⟩ := Target.ok.inj h
    simp [leafPlace_reached]

/-- Every part of an access lies at a place that a thread can reach. -/
theorem State.target_reached {s : State} {th : Thread} {u : Use} {wr : Bool} {ea : Word} {n alw alp : Nat}
    {ps : List (Place × Nat)} {ks : List Nat} {l : Option Leaf} (h : s.target th u wr ea n alw alp = .ok ps ks l) :
    ∀ e ∈ ps, e.1.reached = true := by
  unfold State.target at h
  dsimp only at h
  split at h
  · exact absurd h (by simp)
  split at h
  · split at h
    · exact absurd h (by simp)
    next hw =>
      split at h
      · exact absurd h (by simp)
      · obtain ⟨rfl, -, -⟩ := Target.ok.inj h
        simpa using State.windowPlace_reached hw
  split at h
  · exact absurd h (by simp)
  split at h
  · exact absurd h (by simp)
  split at h
  · exact State.pageTarget_reached h
  split at h
  next hl =>
    have low := State.pageTarget_reached hl
    split at h
    · split at h
      · exact absurd h (by simp)
      next hw =>
        split at h
        · obtain ⟨rfl, -, -⟩ := Target.ok.inj h
          intro e he
          rcases List.mem_append.1 he with he | he
          · exact low e he
          · exact List.mem_singleton.1 he ▸ State.windowPlace_reached hw
        · exact absurd h (by simp)
    · split at h
      next hu =>
        obtain ⟨rfl, -, -⟩ := Target.ok.inj h
        have up := State.pageTarget_reached hu
        intro e he
        rcases List.mem_append.1 he with he | he
        · exact low e he
        · exact up e he
      next hn => exact absurd h (hn _ _ _)
  next hn => exact absurd h (hn _ _ _)

/-! ### States in which nothing waits -/

theorem Quiet.setThr {s : State} (h : Quiet s) (t : Nat) {th : Thread} (held : th.heldOps = []) (acq : th.savedSync = []) :
    Quiet (s.setThr t th) where
  banks := h.banks
  held := fun e he => by
    rcases Table.mem_set he with rfl | he
    · exact held
    · exact h.held e he
  acq := fun u => by
    by_cases hu : u = t
    · rw [hu, State.thr_setThr_same, acq]
    · rw [State.thr_setThr_other _ _ hu, h.acq u]

theorem Needs.marks_heldOps (n : Needs) (th : Thread) : (n.marks th).heldOps = th.heldOps :=
  Needs.marks_keeps (·.heldOps) (fun _ _ => by simp [Thread.emptyX]) n th

theorem Needs.marks_savedSync (n : Needs) (th : Thread) : (n.marks th).savedSync = th.savedSync :=
  Needs.marks_keeps (·.savedSync) (fun _ _ => by simp [Thread.emptyX]) n th

theorem Needs.marks_returns (n : Needs) (th : Thread) : (n.marks th).returns = th.returns :=
  Needs.marks_keeps (·.returns) (fun _ _ => by simp [Thread.emptyX]) n th

theorem Quiet.take {s : State} (h : Quiet s) (n : Needs) : Quiet (s.take n) :=
  h.setThr s.cur ((Needs.marks_heldOps ..).trans (h.heldOps s.cur)) ((Needs.marks_savedSync ..).trans (h.acq s.cur))

theorem Quiet.deferX {s : State} (h : Quiet s) (r : Nat) : Quiet (s.deferX r) :=
  h.setThr s.cur (by simp [Thread.deferX, h.heldOps]) (by simp [Thread.deferX, h.acq])

theorem Quiet.mustWait {s : State} (h : Quiet s) (op : MemOp) (ks : List Nat) : s.mustWait op ks = false := by
  simp [State.mustWait, h.free]

theorem State.countLeaf_uncounted (s : State) (c : Ctx) (va : Nat) {l : Option Leaf} (h : Uncounted l) : s.countLeaf c va l = s := by
  cases l with
  | none => rfl
  | some l => simp [State.countLeaf, State.countAccess, State.counts, h l rfl]

/-- The pc moves past the instruction, and the thread waits for nothing. -/
theorem State.issued_advance (s : State) (h : s.alive s.cur = true) :
    s.advance.issued = s.modThr s.cur fun th => { th.past s.insnLen with wait := none, answers := [] } := by
  exact (State.issued_alive s.advance ((State.alive_modThr _ _ _ _ h).trans h)).trans (State.modThr_modThr ..)

theorem State.advance_setThr (s : State) (th : Thread) : (s.setThr s.cur th).advance = s.setThr s.cur (th.past s.insnLen) :=
  State.setThr_modThr ..

/-- What a place of memory holds does not depend on the threads. -/
theorem State.readByte_setThr (s : State) (t : Nat) (th : Thread) {p : Place} (hx : ∀ t r o, p ≠ .xreg t r o)
    (hv : ∀ t r o, p ≠ .vreg t r o) : (s.setThr t th).readByte p = s.readByte p := by
  cases p <;> first | rfl | exact absurd rfl (hx _ _ _) | exact absurd rfl (hv _ _ _)

theorem State.readAt_setThr (s : State) (t : Nat) (th : Thread) {p : Place} (hx : ∀ t r o, p ≠ .xreg t r o)
    (hv : ∀ t r o, p ≠ .vreg t r o) (n : Nat) : (s.setThr t th).readAt p n = s.readAt p n := by
  induction n generalizing p with
  | zero => rfl
  | succ n ih =>
    rw [State.readAt, State.readAt, State.readByte_setThr _ _ _ hx hv, ih]
    · cases p <;> simp_all [Place.add]
    · cases p <;> simp_all [Place.add]

theorem Clean.setThr {s : State} (h : Clean s) (t : Nat) (th : Thread) : Clean (s.setThr t th) := ⟨h.hbm, h.pad, h.cache, h.host⟩

/-- With no error in any memory, what a place of memory holds carries none. -/
theorem Clean.badAt {s : State} (h : Clean s) {p : Place} (hr : p.reached = true) (ha : ∀ b o, p ≠ .acc b o)
    (hx : ∀ t r o, p ≠ .xreg t r o) (hv : ∀ t r o, p ≠ .vreg t r o) (n : Nat) : s.badAt p n = false := by
  cases p with
  | hbm a => cases hr
  | page k a => simp [State.badAt, h.hbm, h.cache]
  | host a => simp [State.badAt, h.host]
  | pad c o => simp [State.badAt, h.pad]
  | acc b o => exact absurd rfl (ha b o)
  | xreg t r o => exact absurd rfl (hx t r o)
  | vreg t r o => exact absurd rfl (hv t r o)
  | nothing => rfl
  | data bs bad => cases hr

/-! ### Loads (R57) -/

theorem Thread.xval_setX_other (th : Thread) {r q : Nat} (v : Reg Word) (h : q ≠ r) : (th.setX r v).xval q = th.xval q := by
  rw [Thread.xval, Thread.getX_setX, if_neg fun e => h e.1, Thread.xval]

/-- A load of one part without errors answers the bytes of its place. -/
theorem State.perform_load {s : State} (h : Clean s) {p : Place} (hr : p.reached = true) (ha : ∀ b o, p ≠ .acc b o)
    (hx : ∀ t r o, p ≠ .xreg t r o) (hv : ∀ t r o, p ≠ .vreg t r o) (t rd n : Nat) (sx : Bool) :
    s.perform t (.load rd n sx [(p, n)]) = s.addReturn t ⟨.x rd, extend sx n (leNat (s.readAt p n)), 0, false, .load⟩ := by
  simp [State.perform, State.readParts, State.noteRead_clean s _ p n h, h.badAt hr ha hx hv]

theorem extend_eq (sx : Bool) (n v : Nat) : extend sx n v =
    BitVec.ofInt 64 (if sx = true ∧ 2 ^ (8 * n - 1) ≤ v then (v : Int) - 2 ^ (8 * n) else v) := by
  unfold extend
  by_cases h : sx = true ∧ 2 ^ (8 * n - 1) ≤ v
  · rw [if_pos h, if_pos (by simpa using h)]
    rfl
  · rw [if_neg h, if_neg (by simpa using h), BitVec.ofInt_natCast]
    rfl

/-- A load of one clean part, with nothing waiting, changes its own thread alone. -/
theorem loadFrom_quiet {s : State} {src : List Src} {rd n k : Nat} {sx : Bool} {ea : State → Word} {p : Place} {l : Option Leaf}
    (h : Ready s { src := src, dx := [rd] }) (q : Quiet s) (hu : Uncounted l) (hc : Clean s)
    (ht : (s.take { src := src, dx := [rd] }).target (s.take { src := src, dx := [rd] }).me .read false
      (ea (s.take { src := src, dx := [rd] })) n n 1 = .ok [(p, n)] [k] l)
    (ha : ∀ b o, p ≠ .acc b o) (hx : ∀ t r o, p ≠ .xreg t r o) (hv : ∀ t r o, p ≠ .vreg t r o) :
    loadFrom src rd n sx ea s = .next (s.after { src := src, dx := [rd] } fun th => { (th.deferX rd).past s.insnLen with
      returns := (th.deferX rd).returns ++ [⟨.x rd, extend sx n (leNat (s.readAt p n)), 0, false, .load⟩] }) := by
  have hr : p.reached = true := State.target_reached ht (p, n) (List.mem_singleton.2 rfl)
  rw [(loadFrom_ready rfl h _ _ _ ht).1 ((q.take _).mustWait _ _), ((q.take _).deferX rd).submit _ _ _ (by simp),
    State.countLeaf_uncounted _ _ _ hu]
  rw [State.deferX, State.take_eq, State.setThr_cur, State.setThr_modThr]
  rw [State.perform_load (hc.setThr _ _) hr ha hx hv, State.readAt_setThr _ _ _ hx hv, State.addReturn, State.settle_modThr]
  rotate_left
  · exact q.setThr s.cur (by simp [Thread.deferX, Needs.marks_heldOps, q.heldOps, State.me]) (by simp [Thread.deferX, Needs.marks_savedSync, State.me, q.acq])
  · simp [Thread.deferX, Needs.marks_heldOps, q.heldOps, State.me]
  rw [State.setThr_modThr, State.advance_setThr, State.issued_setThr _ _ h.alive]
  rfl

/-- Settles O12 from what a load of one clean part comes to with nothing waiting. -/
theorem loadsReadMemory : Obligations.LoadsReadMemory := by
  unfold Obligations.LoadsReadMemory
  intro s rd a imm n sx i hi h q p k l ht hu hc ha hx hv
  have load : exec i s = loadFrom [a] rd n sx (eaLoad · a imm) s := by
    simp only [List.mem_cons, List.not_mem_nil, or_false, Prod.mk.injEq] at hi
    rcases hi with ⟨rfl, rfl, rfl⟩ | ⟨rfl, rfl, rfl⟩ | ⟨rfl, rfl, rfl⟩ | ⟨rfl, rfl, rfl⟩ | ⟨rfl, rfl, rfl⟩ | ⟨rfl, rfl, rfl⟩ |
      ⟨rfl, rfl, rfl⟩ <;> rfl
  rw [← eaLoad_take s { src := [a], dx := [rd] }] at ht
  refine ⟨_, load.trans (loadFrom_quiet h q hu hc ht ha hx hv), ?_⟩
  refine ⟨?_, ?_, rfl, rfl, rfl, rfl, rfl, fun u hu => State.thr_setThr_other _ _ hu, fun q hq => ?_, ?_, ?_⟩ <;>
    rw [State.after, State.me_setThr]
  · simp [Thread.deferX, Needs.marks_returns, extend_eq]
  · simp [Thread.past, Thread.deferX, word]
  · exact (Thread.xval_setX_other _ _ hq).trans (Needs.marks_xval ..)
  · simp [Thread.past, Thread.deferX]
  · simp [Thread.past, Thread.deferX]

/-! ### Bytes of numbers and of memory -/

theorem leBytes_length (n v : Nat) : (leBytes n v).length = n := by
  induction n generalizing v with
  | zero => rfl
  | succ n ih => rw [leBytes, List.length_cons, ih]

theorem leBytes_getElem (n v i : Nat) (h : i < (leBytes n v).length) : (leBytes n v)[i] = BitVec.ofNat 8 (v / 256 ^ i) := by
  induction n generalizing v i with
  | zero => exact absurd h (by simp [leBytes])
  | succ n ih =>
    cases i with
    | zero => simp [leBytes]
    | succ i => simp [leBytes, ih, Nat.div_div_eq_div_mul, Nat.pow_succ, Nat.mul_comm]

theorem Memory.readBytes_length (m : List Host.Cell) (a n : Nat) : (Memory.readBytes m a n).length = n := by
  induction n generalizing a with
  | zero => rfl
  | succ n ih => rw [Memory.readBytes, List.length_cons, ih]

theorem Memory.readBytes_getD (m : List Host.Cell) (a : Nat) {n i : Nat} (h : i < n) :
    (Memory.readBytes m a n).getD i 0 = Memory.read m (a + i) := by
  induction n generalizing a i with
  | zero => exact absurd h (Nat.not_lt_zero i)
  | succ n ih =>
    cases i with
    | zero => rfl
    | succ i =>
      rw [Memory.readBytes, List.getD_cons_succ, ih (a + 1) (Nat.lt_of_succ_lt_succ h), Nat.add_right_comm, Nat.add_assoc]

theorem Memory.readBytes_congr {m m' : List Host.Cell} {a n : Nat} (h : ∀ j, a ≤ j → j < a + n → Memory.read m j = Memory.read m' j) :
    Memory.readBytes m a n = Memory.readBytes m' a n := by
  induction n generalizing a with
  | zero => rfl
  | succ n ih =>
    rw [Memory.readBytes, Memory.readBytes, h a (by omega) (by omega), ih fun j h1 h2 => h j (by omega) (by omega)]

/-- A byte of memory after a run of bytes was written. -/
theorem Memory.read_writeBytes (m : List Host.Cell) (a h : Nat) (bs : List Byte) : Memory.read (Memory.writeBytes m a bs) h =
    if a ≤ h ∧ h < a + bs.length then bs.getD (h - a) 0 else Memory.read m h := by
  split
  next hin =>
    have hi : h - a < bs.length := by omega
    rw [← Nat.add_sub_cancel' hin.1, Memory.read_writeBytes_inside _ _ _ _ hi, Nat.add_sub_cancel_left, List.getD_eq_getElem _ _ hi]
  next hout => exact Memory.read_writeBytes_outside _ _ _ _ (by omega)

theorem Memory.readBytes_writeBytes (m : List Host.Cell) (a : Nat) (bs : List Byte) :
    Memory.readBytes (Memory.writeBytes m a bs) a bs.length = bs := by
  refine List.ext_getElem (Memory.readBytes_length ..) fun i h1 h2 => ?_
  rw [← List.getD_eq_getElem _ 0 h1, Memory.readBytes_getD _ _ h2, Memory.read_writeBytes_inside _ _ _ _ h2]

/-! ### Key slots of HBM (R328) -/

theorem State.blockUnder_length (s : State) (key u : Nat) : (s.blockUnder key u).length = 16 := by
  unfold State.blockUnder
  split
  · split
    · exact Memory.readBytes_length ..
    · exact leBytes_length ..
  · exact Memory.readBytes_length ..

/-- What a byte of HBM under a key slot reads as: the byte of its block under the slot. -/
theorem State.readByte_page (s : State) (key h : Nat) : s.readByte (.page key h) = (s.blockUnder key (h / 16)).getD (h % 16) 0 := by
  have raw : (Memory.readBytes s.hbm (16 * (h / 16)) 16).getD (h % 16) 0 = Memory.read s.hbm h := by
    rw [Memory.readBytes_getD _ _ (Nat.mod_lt _ (by decide)), Nat.div_add_mod]
  simp only [State.readByte]
  split
  next hk =>
    rw [← raw]
    unfold State.blockUnder
    cases hf : Table.find? s.hbmKeys (h / 16) with
    | none => rfl
    | some k =>
      obtain rfl : k = key := by simpa [hf] using hk
      exact congrArg (List.getD · _ 0) (if_pos rfl).symm
  next => rfl

/-- A byte of a block that was last written under a slot reads under it as it stands. -/
theorem State.readByte_own {s : State} {key h : Nat} (hk : Table.find? s.hbmKeys (h / 16) = some key) :
    s.readByte (.page key h) = Memory.read s.hbm h := by
  simp [State.readByte, hk]

/-- A block reads the same when its key slot and its bytes are the same. -/
theorem State.blockUnder_congr {s t : State} {u : Nat} (hk : Table.find? t.hbmKeys u = Table.find? s.hbmKeys u)
    (hm : ∀ h, h / 16 = u → Memory.read t.hbm h = Memory.read s.hbm h) (key : Nat) : t.blockUnder key u = s.blockUnder key u := by
  have hb : Memory.readBytes t.hbm (16 * u) 16 = Memory.readBytes s.hbm (16 * u) 16 :=
    Memory.readBytes_congr fun j h1 h2 => hm j (by omega)
  simp only [State.blockUnder, hk, Memory.readLe, hb]

/-- From `s` to `t` the blocks `us` of HBM have come under a key slot and read under it as before; every other block is as it was. -/
structure Rekeyed (s t : State) (key : Nat) (us : List Nat) : Prop where
  only : ∃ k m, t = { s with hbmKeys := k, hbm := m }
  keys : ∀ u ∈ us, Table.find? t.hbmKeys u = some key
  block : ∀ u, t.blockUnder key u = s.blockUnder key u
  other : ∀ u, u ∉ us → Table.find? t.hbmKeys u = Table.find? s.hbmKeys u ∧
    ∀ h, h / 16 = u → Memory.read t.hbm h = Memory.read s.hbm h

/-- One block comes under a key slot (R328). -/
def State.rekeyBlock (key : Nat) (s : State) (u : Nat) : State :=
  if Table.find? s.hbmKeys u = some key then s
  else { s with hbmKeys := Table.set s.hbmKeys u key, hbm := Memory.writeBytes s.hbm (16 * u) (s.blockUnder key u) }

theorem State.rekeyBlock_rekeyed (s : State) (key u : Nat) : Rekeyed s (State.rekeyBlock key s u) key [u] := by
  unfold State.rekeyBlock
  split
  next h => exact ⟨⟨_, _, rfl⟩, by simpa using h, fun _ => rfl, fun _ _ => ⟨rfl, fun _ _ => rfl⟩⟩
  next h =>
    have other : ∀ v, v ∉ [u] → Table.find? (Table.set s.hbmKeys u key) v = Table.find? s.hbmKeys v ∧
        ∀ h, h / 16 = v → Memory.read (Memory.writeBytes s.hbm (16 * u) (s.blockUnder key u)) h = Memory.read s.hbm h := by
      intro v hv
      have hv : v ≠ u := by simpa using hv
      refine ⟨Table.find_set_other _ _ hv, fun h hh => ?_⟩
      rw [Memory.read_writeBytes, State.blockUnder_length, if_neg (by omega)]
    refine ⟨⟨_, _, rfl⟩, by simp, fun v => ?_, other⟩
    by_cases hv : v = u
    · subst hv
      have under : Table.find? (Table.set s.hbmKeys v key) v = some key := Table.find_set_same ..
      have bytes := Memory.readBytes_writeBytes s.hbm (16 * v) (s.blockUnder key v)
      rw [State.blockUnder_length] at bytes
      rw [State.blockUnder, under]
      exact (if_pos rfl).trans bytes
    · exact State.blockUnder_congr (other v (by simpa using hv)).1 (other v (by simpa using hv)).2 key

theorem Rekeyed.trans {s t w : State} {key u : Nat} {us : List Nat} (h : Rekeyed s t key [u]) (k : Rekeyed t w key us) :
    Rekeyed s w key (u :: us) where
  only := by
    obtain ⟨a, b, rfl⟩ := h.only
    obtain ⟨c, d, rfl⟩ := k.only
    exact ⟨c, d, rfl⟩
  keys := fun v hv => by
    by_cases hm : v ∈ us
    · exact k.keys v hm
    · rw [(k.other v hm).1]
      exact h.keys v (by simpa [hm] using hv)
  block := fun v => (k.block v).trans (h.block v)
  other := fun v hv => by
    have hu : v ∉ [u] := fun hm => hv (by simp_all)
    have hm : v ∉ us := fun hm => hv (List.mem_cons_of_mem _ hm)
    exact ⟨(k.other v hm).1.trans (h.other v hu).1, fun a ha => ((k.other v hm).2 a ha).trans ((h.other v hu).2 a ha)⟩

theorem Rekeyed.refl (s : State) (key : Nat) : Rekeyed s s key [] :=
  ⟨⟨_, _, rfl⟩, by simp, fun _ => rfl, fun _ _ => ⟨rfl, fun _ _ => rfl⟩⟩

theorem State.rekeyBlocks_rekeyed (key : Nat) (us : List Nat) (s : State) :
    Rekeyed s (us.foldl (State.rekeyBlock key) s) key us := by
  induction us generalizing s with
  | nil => exact .refl s key
  | cons u us ih => exact (s.rekeyBlock_rekeyed key u).trans (ih _)

theorem State.rekey_rekeyed (s : State) (key a n : Nat) : Rekeyed s (s.rekey key a n) key (units 16 a n) :=
  State.rekeyBlocks_rekeyed key (units 16 a n) s

theorem mem_units {sz a n u : Nat} : u ∈ units sz a n ↔ a / sz ≤ u ∧ u ≤ (a + n - 1) / sz ∨ u = a / sz := by
  have : (a + n - 1) / sz < a / sz → n = 0 := by
    intro h
    by_contra hn
    exact absurd (Nat.div_le_div_right (c := sz) (show a ≤ a + n - 1 by omega)) (Nat.not_le.2 h)
  simp only [units, List.mem_map, List.mem_range]
  constructor
  · rintro ⟨i, hi, rfl⟩
    omega
  · intro h
    exact ⟨u - a / sz, by omega, by omega⟩

/-- A store under a key slot (R328). -/
theorem State.writePage_stored (s t : State) (key b : Nat) {bs : List Byte} (hbs : bs ≠ [])
    (hk : t.hbmKeys = (s.rekey key b bs.length).hbmKeys)
    (hm : t.hbm = Memory.writeBytes (s.rekey key b bs.length).hbm b bs) : Stored s t key b bs := by
  have r := s.rekey_rekeyed key b bs.length
  have hn : 0 < bs.length := List.length_pos_iff.2 hbs
  have untouched : ∀ u, u ∉ units 16 b bs.length → ∀ k, t.blockUnder k u = s.blockUnder k u := by
    intro u hu k
    refine State.blockUnder_congr (by rw [hk, (r.other u hu).1]) (fun h hh => ?_) k
    rw [hm, Memory.read_writeBytes_outside _ _ _ _ ?_, (r.other u hu).2 h hh]
    rw [mem_units] at hu
    by_contra hc
    have h1 : b / 16 ≤ h / 16 := Nat.div_le_div_right (by omega)
    have h2 : h / 16 ≤ (b + bs.length - 1) / 16 := Nat.div_le_div_right (by omega)
    omega
  refine ⟨fun h => ?_, fun k h hh => ?_⟩
  · by_cases hu : h / 16 ∈ units 16 b bs.length
    · have own : Table.find? (s.rekey key b bs.length).hbmKeys (h / 16) = some key := r.keys _ hu
      have same : (s.rekey key b bs.length).readByte (.page key h) = s.readByte (.page key h) := by
        rw [State.readByte_page, State.readByte_page, r.block]
      rw [State.readByte_own (hk ▸ own), hm, Memory.read_writeBytes, ← same, State.readByte_own own]
    · have out : ¬ (b ≤ h ∧ h < b + bs.length) := fun hin => hu <| mem_units.2 <| .inl
        ⟨Nat.div_le_div_right hin.1, Nat.div_le_div_right (by omega)⟩
      rw [if_neg out, State.readByte_page, State.readByte_page, untouched _ hu]
  · rw [State.readByte_page, State.readByte_page, untouched]
    rw [mem_units]
    have : b / 16 ≤ (b + bs.length - 1) / 16 := Nat.div_le_div_right (by omega)
    omega

/-! ### Stores (R57) -/

/-- A store at a place of memory, with nothing waiting, changes its own thread, the memory of its place, and the bookkeeping of
errors. -/
theorem storeTo_quiet {s : State} {src : List Src} {n k : Nat} {x ea : State → Word} {v : Word} {u : Use} {p : Place} {l : Option Leaf}
    (hu : (if n = 8 then .std else .write) = u) (hw : x (s.take { src := src }) = v) (h : Ready s { src := src }) (q : Quiet s)
    (hl : Uncounted l)
    (ht : (s.take { src := src }).target (s.take { src := src }).me u true (ea (s.take { src := src })) n n 1 = .ok [(p, n)] [k] l) :
    storeTo src n x ea s = .next
      ((((s.take { src := src }).writeAt s.me.ctx p ((leBytes 8 v.toNat).take n)).settle.advance).issued) := by
  rw [(storeTo_ready hu hw rfl h _ _ _ ht).1 ((q.take _).mustWait _ _), (q.take _).submit _ _ _ (by simp),
    State.countLeaf_uncounted _ _ _ hl]
  have ctx : ((s.take { src := src }).thr s.cur).ctx = s.me.ctx := by
    rw [← Needs.marks_ctx { src := src } s.me, ← State.me_take]
    rfl
  simp only [State.perform, State.writeParts, ctx]

theorem leBytes_take (n m v : Nat) (h : n ≤ m) : (leBytes m v).take n = leBytes n v := by
  induction n generalizing m v with
  | zero => rfl
  | succ n ih =>
    cases m with
    | zero => omega
    | succ m => simp [leBytes, ih m (v / 256) (by omega)]

/-- From `s` to `t` the bytes of memories, their key slots and the bookkeeping of errors alone have changed. -/
def WroteMemory (s t : State) : Prop :=
  ∃ hb hk hm pd cl cq fc bh bp bc gs rs se, t = { s with
    hbm := hb, hbmKeys := hk, hostMem := hm, pad := pd, clusters := cl, cqHeld := cq, freeCtr := fc, badHbm := bh, badPad := bp
    badCache := bc, gens := gs, residencies := rs, stackErrs := se }

theorem WroteMemory.refl (s : State) : WroteMemory s s := ⟨_, _, _, _, _, _, _, _, _, _, _, _, _, rfl⟩

theorem WroteMemory.of_around {s t u : State} (h : WroteMemory s t) (k : Around t u) : WroteMemory s u := by
  obtain ⟨_, _, _, _, _, _, _, _, _, _, _, _, _, rfl⟩ := h
  obtain ⟨_, _, _, _, _, _, _, _, _, rfl⟩ := k
  exact ⟨_, _, _, _, _, _, _, _, _, _, _, _, _, rfl⟩

theorem State.writeAt_page {s : State} {c : Ctx} {key a : Nat} {bs : List Byte} (hb : bs ≠ [])
    (hf : s.firmwareHit c a bs.length = false) :
    s.writeAt c (.page key a) bs = (s.rekey key a bs.length).writeHbm c a bs := by
  simp [State.writeAt, hb, hf]

/-- A write at a place of memory (R57). -/
theorem State.writeAt_wrote {s : State} {c : Ctx} {p : Place} {bs : List Byte} (hx : ∀ t r o, p ≠ .xreg t r o)
    (hv : ∀ t r o, p ≠ .vreg t r o) (hb : bs ≠ []) (hf : ∀ k a, p = .page k a → s.firmwareHit c a bs.length = false) :
    WroteMemory s (s.writeAt c p bs) := by
  cases p with
  | hbm a => exact WroteMemory.of_around ⟨_, _, _, _, _, _, _, _, _, _, _, _, _, rfl⟩ (s.writeHbm_around c a bs)
  | page key a =>
    rw [State.writeAt_page hb (hf key a rfl)]
    obtain ⟨k, m, hk⟩ := (s.rekey_rekeyed key a bs.length).only
    rw [hk]
    exact WroteMemory.of_around ⟨_, _, _, _, _, _, _, _, _, _, _, _, _, rfl⟩ (State.writeHbm_around _ c a bs)
  | host a => exact ⟨_, _, _, _, _, _, _, _, _, _, _, _, _, rfl⟩
  | pad k o => exact WroteMemory.of_around ⟨_, _, _, _, _, _, _, _, _, _, _, _, _, rfl⟩ (s.writePad_around c k o bs)
  | acc b o => exact .refl s
  | xreg t r o => exact absurd rfl (hx t r o)
  | vreg t r o => exact absurd rfl (hv t r o)
  | nothing => exact .refl s
  | data d bad => exact .refl s

theorem WroteMemory.settle {s t : State} (h : WroteMemory s t) (q : Quiet s) : t.settle = t := by
  obtain ⟨_, _, _, _, _, _, _, _, _, _, _, _, _, rfl⟩ := h
  exact State.settle_quiet _ q.banks q.held

/-- The write of memory and that of a thread stand apart. -/
theorem WroteMemory.of_setThr {s t : State} {th : Thread} {k : Nat} (h : WroteMemory (s.setThr k th) t) :
    ∃ w, WroteMemory s w ∧ t = w.setThr k th := by
  obtain ⟨hb, hk, hm, pd, cl, cq, fc, bh, bp, bc, gs, rs, se, rfl⟩ := h
  exact ⟨_, ⟨hb, hk, hm, pd, cl, cq, fc, bh, bp, bc, gs, rs, se, rfl⟩, rfl⟩

/-- An instruction that has written memory goes on: its thread has changed as by its issue alone. -/
theorem WroteMemory.issued {s w : State} (h : WroteMemory s w) (alive : s.alive s.cur = true) (th : Thread) :
    (w.setThr s.cur th).advance.issued = w.setThr s.cur { th.past s.insnLen with wait := none, answers := [] } := by
  obtain ⟨hb, hk, hm, pd, cl, cq, fc, bh, bp, bc, gs, rs, se, rfl⟩ := h
  exact (congrArg State.issued (State.advance_setThr _ _)).trans (State.issued_setThr _ _ alive)

/-- What an instruction that has written memory leaves alone. -/
theorem WroteMemory.frame {s w : State} (h : WroteMemory s w) (th : Thread) :
    (w.setThr s.cur th).acc = s.acc ∧ (w.setThr s.cur th).padWords = s.padWords ∧ (w.setThr s.cur th).parts = s.parts ∧
      (∀ u, u ≠ s.cur → (w.setThr s.cur th).thr u = s.thr u) ∧ (w.setThr s.cur th).me = th := by
  obtain ⟨hb, hk, hm, pd, cl, cq, fc, bh, bp, bc, gs, rs, se, rfl⟩ := h
  exact ⟨rfl, rfl, rfl, fun u hu => State.thr_setThr_other _ _ hu, State.thr_setThr_same _ _ _⟩

theorem Around.memories {s t : State} (h : Around s t) :
    t.hbm = s.hbm ∧ t.hbmKeys = s.hbmKeys ∧ t.hostMem = s.hostMem ∧ t.pad = s.pad := by
  obtain ⟨_, _, _, _, _, _, _, _, _, rfl⟩ := h
  exact ⟨rfl, rfl, rfl, rfl⟩

/-- The bytes of HBM after a write through a page (R328). -/
theorem State.writeAt_page_stored {s : State} {c : Ctx} {key a : Nat} {bs : List Byte} (hb : bs ≠ [])
    (hf : s.firmwareHit c a bs.length = false) : Stored s (s.writeAt c (.page key a) bs) key a bs := by
  rw [State.writeAt_page hb hf]
  obtain ⟨hm, hk, -, -⟩ := Around.memories (State.writeHbm_around (s.rekey key a bs.length) c a bs)
  exact State.writePage_stored s _ key a hb hk hm

theorem State.writeAt_page_others {s : State} {c : Ctx} {key a : Nat} {bs : List Byte} (hb : bs ≠ [])
    (hf : s.firmwareHit c a bs.length = false) :
    (s.writeAt c (.page key a) bs).hostMem = s.hostMem ∧ (s.writeAt c (.page key a) bs).pad = s.pad := by
  rw [State.writeAt_page hb hf]
  obtain ⟨-, -, hm, hp⟩ := Around.memories (State.writeHbm_around (s.rekey key a bs.length) c a bs)
  obtain ⟨k, m, hk⟩ := (s.rekey_rekeyed key a bs.length).only
  rw [hm, hp, hk]
  exact ⟨rfl, rfl⟩

/-- A byte of a number that a run of bytes holds, or the byte before. -/
theorem Memory.read_writeLe (m : List Host.Cell) (a h n v : Nat) : Memory.read (Memory.writeBytes m a (leBytes n v)) h =
    if a ≤ h ∧ h < a + n then BitVec.ofNat 8 (v / 256 ^ (h - a)) else Memory.read m h := by
  rw [Memory.read_writeBytes, leBytes_length]
  split
  next hin =>
    have hi : h - a < (leBytes n v).length := by rw [leBytes_length]; omega
    rw [List.getD_eq_getElem _ _ hi, leBytes_getElem]
  next => rfl

/-- From `s` to `t` the `n` low bytes of a number were stored at a place, and no other byte changed: in HBM under a key slot (R328), in
the host's memory, in a scratchpad. -/
def StoredAt (s t : State) (p : Place) (n v : Nat) : Prop :=
  (match p with
    | .page k b => Stored s t k b (leBytes n v)
    | _ => t.hbm = s.hbm ∧ t.hbmKeys = s.hbmKeys) ∧
  (∀ h, Memory.read t.hostMem h = match p with
    | .host b => if b ≤ h ∧ h < b + n then BitVec.ofNat 8 (v / 256 ^ (h - b)) else Memory.read s.hostMem h
    | _ => Memory.read s.hostMem h) ∧
  ∀ h, Memory.read t.pad h = match p with
    | .pad k o => if k * 262144 + o ≤ h ∧ h < k * 262144 + o + n
        then BitVec.ofNat 8 (v / 256 ^ (h - (k * 262144 + o))) else Memory.read s.pad h
    | _ => Memory.read s.pad h

/-- What a store leaves in every memory (R57, R328). -/
theorem State.writeAt_bytes {s : State} {c : Ctx} {p : Place} {n v : Nat} (hr : p.reached = true) (hx : ∀ t r o, p ≠ .xreg t r o)
    (hv : ∀ t r o, p ≠ .vreg t r o) (h0 : 0 < n) (hf : ∀ k a, p = .page k a → s.firmwareHit c a n = false) :
    StoredAt s (s.writeAt c p (leBytes n v)) p n v := by
  have hb : leBytes n v ≠ [] := List.length_pos_iff.1 (by rw [leBytes_length]; exact h0)
  cases p with
  | hbm a => cases hr
  | page k a =>
    have hf := (leBytes_length n v).symm ▸ hf k a rfl
    obtain ⟨hm, hp⟩ := State.writeAt_page_others hb hf
    exact ⟨State.writeAt_page_stored hb hf, fun h => by rw [hm], fun h => by rw [hp]⟩
  | host a => exact ⟨⟨rfl, rfl⟩, fun h => Memory.read_writeLe .., fun h => rfl⟩
  | pad k o =>
    obtain ⟨hm, hk, hh, hp⟩ := Around.memories (s.writePad_around c k o (leBytes n v))
    refine ⟨⟨hm, hk⟩, fun h => congrArg (Memory.read · h) hh, fun h => ?_⟩
    exact (congrArg (Memory.read · h) hp).trans (Memory.read_writeLe ..)
  | acc b o => exact ⟨⟨rfl, rfl⟩, fun _ => rfl, fun _ => rfl⟩
  | xreg t r o => exact absurd rfl (hx t r o)
  | vreg t r o => exact absurd rfl (hv t r o)
  | nothing => exact ⟨⟨rfl, rfl⟩, fun _ => rfl, fun _ => rfl⟩
  | data d bad => cases hr

/-- Settles O13 from what a store with nothing waiting comes to and from what a write at a place leaves in the memories. -/
theorem storesWriteOnlyTheirBytes : Obligations.StoresWriteOnlyTheirBytes := by
  unfold Obligations.StoresWriteOnlyTheirBytes
  intro s d a imm n i hi h q p k l ht hl hx hv hf
  have hn : 0 < n ∧ n ≤ 8 ∧ exec i s = storeTo [d, a] n (·.rx d) (eaScaled · a imm n) s := by
    simp only [List.mem_cons, List.not_mem_nil, or_false, Prod.mk.injEq] at hi
    rcases hi with ⟨rfl, rfl⟩ | ⟨rfl, rfl⟩ | ⟨rfl, rfl⟩ | ⟨rfl, rfl⟩ <;> exact ⟨by decide, by decide, rfl⟩
  obtain ⟨h0, h8, store⟩ := hn
  rw [← eaScaled_take s { src := [d, a] } a imm rfl] at ht
  have hr : p.reached = true := State.target_reached ht (p, n) (List.mem_singleton.2 rfl)
  have issues := storeTo_quiet (n := n) (x := fun s => s.rx d) (ea := fun s => eaScaled s a imm n) rfl (State.rx_take s _ d) h q hl ht
  rw [leBytes_take _ _ _ h8] at issues
  have hb : leBytes n (s.rx d).toNat ≠ [] := List.length_pos_iff.1 (by rw [leBytes_length]; exact h0)
  have hf' : ∀ k h, p = .page k h → (s.take { src := [d, a] }).firmwareHit s.me.ctx h n = false := hf
  have wrote := State.writeAt_wrote (s := s.take { src := [d, a] }) (c := s.me.ctx) hx hv hb
    (fun k h hp => (leBytes_length n _).symm ▸ hf' k h hp)
  have bytes := State.writeAt_bytes (s := s.take { src := [d, a] }) (c := s.me.ctx) (v := (s.rx d).toNat) hr hx hv h0 hf'
  rw [wrote.settle (q.take _)] at issues
  obtain ⟨w, hw, eq⟩ := wrote.of_setThr
  rw [eq] at issues bytes
  rw [hw.issued h.alive] at issues
  obtain ⟨acc, words, parts, others, me⟩ := hw.frame { (Needs.marks { src := [d, a] } s.me).past s.insnLen with
    wait := none, answers := [] }
  obtain ⟨hbm, host, pad⟩ : StoredAt s (w.setThr s.cur { (Needs.marks { src := [d, a] } s.me).past s.insnLen with
    wait := none, answers := [] }) p n (s.rx d).toNat := by cases p <;> exact bytes
  exact ⟨_, store.trans issues, hbm, host, pad, acc, words, parts, others,
    fun q => (congrArg (Thread.xval · q) me).trans (Needs.marks_xval ..), (congrArg Thread.v me :).trans (Needs.marks_v ..),
    (congrArg Thread.p me :).trans (Needs.marks_p ..)⟩

end Sys2Proof.Machine
end

section
/-! PROOF. Atomic operations (O15) and full/empty loads and stores (O14). -/

namespace Sys2Proof.Machine

/-! ### Atomic operations (R67) -/

theorem amoOp_ready {s : State} {rd : Nat} {a b : Src} {o : AmoOrder} {op : AmoOp}
    (h : Ready s { src := [a, b, ⟨rd, .wait⟩], dx := [rd] }) (p : Place × Nat) (ps : List (Place × Nat)) (ks : List Nat)
    (l : Option Leaf) :
    let u := s.take { src := [a, b, ⟨rd, .wait⟩], dx := [rd] }
    let m := MemOp.amo op o rd (s.me.xval rd) (s.rx b) p.1
    u.target u.me .amo true (s.rx a) 8 8 8 = .ok (p :: ps) ks l →
    (u.mustWait m ks = false → amoOp op rd a b o s =
      .next (((((u.deferX rd).submit s.cur m ks).countLeaf s.me.ctx (s.rx a).toNat l).advance).issued)) ∧
    (u.mustWait m ks = true → amoOp op rd a b o s = .next (s.parkOn .other)) := by
  intro u m ht
  have := withTarget_ready (ea := fun s => s.rx a)
    (op := fun s ps => .amo op o rd (s.me.xval rd) (s.rx b) (place1 ps)) (f := fun s ps ks l =>
    (((s.deferX rd).submit s.cur (.amo op o rd (s.me.xval rd) (s.rx b) (place1 ps)) ks).countLeaf s.me.ctx (s.rx a).toNat l).advance)
    h ((State.rx_take s _ a).symm ▸ ht)
  rw [State.me_take, Needs.marks_ctx, Needs.marks_xval, State.rx_take, State.rx_take] at this
  exact this

theorem WroteMemory.quiet {s t : State} (h : WroteMemory s t) (q : Quiet s) : Quiet t := by
  obtain ⟨_, _, _, _, _, _, _, _, _, _, _, _, _, rfl⟩ := h
  exact ⟨q.banks, q.held, q.acq⟩

/-- An atomic operation on a clean word of memory, with nothing waiting: the memories become those that its write leaves, and its
thread receives the old word. -/
theorem amoOp_quiet {s : State} {rd k : Nat} {a b : Src} {o : AmoOrder} {op : AmoOp} {p : Place} {l : Option Leaf}
    (h : Ready s { src := [a, b, ⟨rd, .wait⟩], dx := [rd] }) (q : Quiet s) (hl : Uncounted l) (hc : Clean s)
    (ht : (s.take { src := [a, b, ⟨rd, .wait⟩], dx := [rd] }).target (s.take { src := [a, b, ⟨rd, .wait⟩], dx := [rd] }).me .amo true
      (s.rx a) 8 8 8 = .ok [(p, 8)] [k] l)
    (ha : ∀ b o, p ≠ .acc b o) (hx : ∀ t r o, p ≠ .xreg t r o) (hv : ∀ t r o, p ≠ .vreg t r o)
    (hf : ∀ k a, p = .page k a → s.firmwareHit s.me.ctx a 8 = false) :
    let old := BitVec.ofNat 64 (leNat (s.readAt p 8))
    ∃ (th : Thread) (w : State) (th' : Thread), WroteMemory s w ∧ amoOp op rd a b o s = .next (w.setThr s.cur th') ∧ th'.returns = s.me.returns ++ [⟨.x rd, old, 0, false, .amo⟩] ∧
      (s.setThr s.cur th).writeAt s.me.ctx p (leBytes 8 (amoCombine op old (s.me.xval rd) (s.rx b)).toNat) = w.setThr s.cur th := by
  intro old
  let n : Needs := { src := [a, b, ⟨rd, .wait⟩], dx := [rd] }
  have hr : p.reached = true := State.target_reached ht (p, 8) (List.mem_singleton.2 rfl)
  have q' : Quiet (s.setThr s.cur ((n.marks s.me).deferX rd)) :=
    q.setThr s.cur (by simp [Thread.deferX, Needs.marks_heldOps, q.heldOps, State.me])
      (by simp [Thread.deferX, Needs.marks_savedSync, State.me, q.acq])
  have ctx : ((s.setThr s.cur ((n.marks s.me).deferX rd)).thr s.cur).ctx = s.me.ctx := by
    rw [State.thr_setThr_same]
    simp [Thread.ctx, Thread.deferX]
  have wrote := State.writeAt_wrote (s := s.setThr s.cur ((n.marks s.me).deferX rd)) (c := s.me.ctx)
    (bs := leBytes 8 (amoCombine op old (s.me.xval rd) (s.rx b)).toNat) hx hv (by simp [leBytes])
    (fun k a hp => (leBytes_length 8 _).symm ▸ hf k a hp)
  obtain ⟨w, hw, eq⟩ := wrote.of_setThr
  refine ⟨(n.marks s.me).deferX rd, w, { Thread.past { (n.marks s.me).deferX rd with
    returns := ((n.marks s.me).deferX rd).returns ++ [⟨.x rd, old, 0, false, .amo⟩] } s.insnLen with
    wait := none, answers := [] }, hw, ?_, ?_, eq⟩
  · rw [(amoOp_ready h _ _ _ _ ht).1 ((q.take _).mustWait _ _), ((q.take _).deferX rd).submit _ _ _ (by simp),
      State.countLeaf_uncounted _ _ _ hl, State.deferX, State.take_eq, State.setThr_cur, State.setThr_modThr]
    have quietW := (wrote.quiet q')
    have reads : (s.setThr s.cur ((n.marks s.me).deferX rd)).readAt p 8 = s.readAt p 8 := State.readAt_setThr _ _ _ hx hv 8
    have clean := (hc.setThr s.cur ((n.marks s.me).deferX rd)).badAt hr ha hx hv 8
    have performs : (s.setThr s.cur ((n.marks s.me).deferX rd)).perform s.cur (.amo op o rd (s.me.xval rd) (s.rx b) p) =
        (w.setThr s.cur ((n.marks s.me).deferX rd)).addReturn s.cur ⟨.x rd, old, 0, false, .amo⟩ := by
      simp only [State.perform, State.noteRead_clean _ _ p 8 (hc.setThr s.cur ((n.marks s.me).deferX rd)), clean, reads, ctx]
      rw [← eq]
      rfl
    rw [performs, State.addReturn, State.settle_modThr (eq ▸ quietW) _ _ (by
      rw [State.thr_setThr_same]
      simp [Thread.deferX, Needs.marks_heldOps, State.me, q.heldOps]), State.setThr_modThr, hw.issued h.alive]
  · simp [Thread.past, Thread.deferX, Needs.marks_returns]

/-- The instruction of each combination (R67). -/
theorem exec_amo {rd : Nat} {a b : Src} {o : AmoOrder} {op : AmoOp} {i : Instr}
    (hi : (i, op) ∈ [(Instr.amoadd rd a b o, AmoOp.add), (.amoswap rd a b o, .swap), (.amocas rd a b o, .cas),
      (.amomin rd a b o, .min), (.amomax rd a b o, .max), (.amominu rd a b o, .minu), (.amomaxu rd a b o, .maxu),
      (.amoand rd a b o, .and), (.amoor rd a b o, .or), (.amoxor rd a b o, .xor)]) (s : State) : exec i s = amoOp op rd a b o s := by
  simp only [List.mem_cons, List.not_mem_nil, or_false, Prod.mk.injEq] at hi
  rcases hi with ⟨rfl, rfl⟩ | ⟨rfl, rfl⟩ | ⟨rfl, rfl⟩ | ⟨rfl, rfl⟩ | ⟨rfl, rfl⟩ | ⟨rfl, rfl⟩ | ⟨rfl, rfl⟩ | ⟨rfl, rfl⟩ |
    ⟨rfl, rfl⟩ | ⟨rfl, rfl⟩ <;> rfl

/-- Settles O15 from what an atomic operation comes to when it is ready, with something waiting or nothing. -/
theorem amoResults : Obligations.AmoResults := by
  unfold Obligations.AmoResults
  refine ⟨fun s rd a b o op i hi h p ps ks l ht => ?issue, fun s rd a b o i f hi h q hc p k l ht hl => ?effect⟩
  case issue =>
    rw [exec_amo hi]
    exact amoOp_ready h p ps ks l ht
  case effect =>
    obtain ⟨op, runs, combines⟩ : ∃ op, exec i s = amoOp op rd a b o s ∧ ∀ old x v, amoCombine op old x v = f old x v := by
      simp only [List.mem_cons, List.not_mem_nil, or_false, Prod.mk.injEq] at hi
      rcases hi with ⟨rfl, rfl⟩ | ⟨rfl, rfl⟩ | ⟨rfl, rfl⟩ | ⟨rfl, rfl⟩ | ⟨rfl, rfl⟩ | ⟨rfl, rfl⟩ | ⟨rfl, rfl⟩ | ⟨rfl, rfl⟩ |
        ⟨rfl, rfl⟩ | ⟨rfl, rfl⟩ <;> exact ⟨_, rfl, fun _ _ _ => rfl⟩
    dsimp only
    rw [← combines]
    refine ⟨fun c off hp => ?pad, fun c a hp hf => ?page⟩
    case pad =>
      subst hp
      obtain ⟨th, w, th', hw, ht', returns, wrote⟩ :=
        amoOp_quiet (op := op) (o := o) h q hl hc ht (by simp) (by simp) (by simp) (by simp)
      obtain ⟨-, -, -, -, me⟩ := hw.frame th'
      obtain ⟨hm, -, hh, hp⟩ := Around.memories (State.writePad_around (s.setThr s.cur th) s.me.ctx c off
        (leBytes 8 (amoCombine op (BitVec.ofNat 64 (leNat (s.readAt (.pad c off) 8))) (s.me.xval rd) (s.rx b)).toNat))
      exact ⟨_, runs.trans ht', (congrArg Thread.returns me).trans returns, (congrArg State.pad wrote).symm.trans hp,
        (congrArg State.hbm wrote).symm.trans hm, (congrArg State.hostMem wrote).symm.trans hh⟩
    case page =>
      subst hp
      have hf' : ∀ k h, Place.page c a = .page k h → s.firmwareHit s.me.ctx h 8 = false := by
        rintro k h hp
        obtain ⟨rfl, rfl⟩ := Place.page.inj hp
        exact hf
      obtain ⟨th, w, th', hw, ht', returns, wrote⟩ := amoOp_quiet (op := op) (o := o) h q hl hc ht (by simp) (by simp) (by simp) hf'
      obtain ⟨-, -, -, -, me⟩ := hw.frame th'
      have fw : (s.setThr s.cur th).firmwareHit s.me.ctx a
          (leBytes 8 (amoCombine op (BitVec.ofNat 64 (leNat (s.readAt (.page c a) 8))) (s.me.xval rd) (s.rx b)).toNat).length =
          false := (leBytes_length 8 _).symm ▸ hf
      have stored := State.writeAt_page_stored (key := c) (by simp [leBytes]) fw
      obtain ⟨host, pad⟩ := State.writeAt_page_others (key := c) (by simp [leBytes]) fw
      rw [wrote] at stored host pad
      exact ⟨_, runs.trans ht', (congrArg Thread.returns me).trans returns, stored, pad, host⟩

/-! ### Full/empty accesses issue (R61-R64) -/

theorem withPadWord_ready {s : State} {n : Needs} {ea : Word} {core off : Nat} {ks : List Nat} {l : Option Leaf}
    (ht : (s.take n).target (s.take n).me .sync false ea 8 8 1 = .ok [(.pad core off, 8)] ks l) (k : Nat → Nat → Verdict) :
    withPadWord (s.take n) ea k = k core off := by
  simp only [withPadWord, withTarget, ht, place1]

/-- LDF, LDT and LDFT. -/
theorem ldsync_ready {s : State} {src : List Src} {k : SyncKind} {rd lim : Nat} {ea : State → Word} {v : Word} {core off : Nat}
    (hv : ea (s.take { src := src, dx := [rd] }) = v) (hl : (if k = .ldft then s.me.wlim.toNat * 1024 else 0) = lim)
    (h : Ready s { src := src, dx := [rd] }) (ks : List Nat) (l : Option Leaf)
    (ht : (s.take { src := src, dx := [rd] }).target (s.take { src := src, dx := [rd] }).me .sync false v 8 8 1 =
      .ok [(.pad core off, 8)] ks l) (room : (s.bank (core * 16 + off / 16384)).length < 32) :
    ldsync src k rd ea s = .next ((((s.take { src := src, dx := [rd] }).deferX rd).submit s.cur (.sync k rd 0 core off lim) [1]).advance.issued) := by
  subst hv hl
  have fits : (s.take { src := src, dx := [rd] }).bankRoom core off = true := decide_eq_true room
  rw [ldsync, issue_ready h, withPadWord_ready ht, if_pos fits, State.me_take, Needs.marks_wlim]
  rfl

theorem stfTo_ready {s : State} {src : List Src} {x ea : State → Word} {v w : Word} {core off : Nat}
    (hv : ea (s.take { src := src }) = v) (hw : x (s.take { src := src }) = w)
    (h : Ready s { src := src }) (ks : List Nat) (l : Option Leaf)
    (ht : (s.take { src := src }).target (s.take { src := src }).me .sync false v 8 8 1 = .ok [(.pad core off, 8)] ks l)
    (room : (s.bank (core * 16 + off / 16384)).length < 32) :
    stfTo src x ea s = .next (((s.take { src := src }).submit s.cur (.sync .stf 0 w core off 0) [1]).advance.issued) := by
  subst hv hw
  have fits : (s.take { src := src }).bankRoom core off = true := decide_eq_true room
  rw [stfTo, issue_ready h, withPadWord_ready ht, if_pos fits]
  rfl

/-- LDP and FEW, which an earlier access of the thread may hold back. -/
theorem execLdp_ready {s : State} {rd : Nat} {a : Src} {imm : BitVec 11} {core off : Nat} (h : Ready s { src := [a], dx := [rd] })
    (ks : List Nat) (l : Option Leaf)
    (ht : (s.take { src := [a], dx := [rd] }).target (s.take { src := [a], dx := [rd] }).me .sync false
      (s.rx a + BitVec.ofInt 64 (imm.toInt * 8)) 8 8 1 = .ok [(.pad core off, 8)] ks l)
    (room : (s.bank (core * 16 + off / 16384)).length < 32)
    (free : (s.take { src := [a], dx := [rd] }).mustWait (.ldp rd core off) [1] = false) :
    execLdp rd a imm s =
      .next ((((s.take { src := [a], dx := [rd] }).deferX rd).submit s.cur (.ldp rd core off) [1]).advance.issued) := by
  rw [← eaScaled_take s { src := [a], dx := [rd] } a imm (size := 8) (z := 8) rfl] at ht
  have fits : (s.take { src := [a], dx := [rd] }).bankRoom core off = true := decide_eq_true room
  rw [execLdp, issue_ready h, withPadWord_ready ht, if_pos fits, accessing, free]
  rfl

theorem few_ready {s : State} {full : Bool} {a : Src} {imm : BitVec 11} {core off : Nat} (h : Ready s { src := [a] })
    (ks : List Nat) (l : Option Leaf)
    (ht : (s.take { src := [a] }).target (s.take { src := [a] }).me .sync false
      (s.rx a + BitVec.ofInt 64 (imm.toInt * 8)) 8 8 1 = .ok [(.pad core off, 8)] ks l)
    (free : (s.take { src := [a] }).mustWait (.few full core off) [1] = false) :
    few full a imm s = .next (((s.take { src := [a] }).submit s.cur (.few full core off) [1]).advance.issued) := by
  rw [← eaScaled_take s { src := [a] } a imm (size := 8) (z := 8) rfl] at ht
  rw [few, issue_ready h, withPadWord_ready ht, accessing, free]
  rfl

/-! ### A request at its bank (R64) -/

theorem Quiet.bank {s : State} (q : Quiet s) (k : Nat) : s.bank k = [] := by
  unfold State.bank Table.get
  cases hf : Table.find? s.banks k with
  | none => rfl
  | some rs => exact q.banks _ (Table.mem_of_find hf)

theorem State.serveOne_none {s : State} {l : List (Nat × List BankReq)} (h : ∀ e ∈ l, s.oldest [] e.2 = none) :
    s.serveOne l = none := by
  induction l with
  | nil => rfl
  | cons e l ih =>
    obtain ⟨k, rs⟩ := e
    simp only [State.serveOne, h (k, rs) (by simp), ih fun e he => h e (by simp [he])]

theorem State.releaseOne_none {s : State} {l : List (Nat × Thread)} (h : ∀ e ∈ l, e.2.heldOps = []) : s.releaseOne l = none := by
  induction l with
  | nil => rfl
  | cons e l ih =>
    obtain ⟨t, th⟩ := e
    have none : (if th.saved then none else th.heldOps.find? fun h => s.opFree t h.seq h.op h.ks) = none := by
      have h0 : th.heldOps = [] := h (t, th) (by simp)
      simp [h0]
    simp only [State.releaseOne, none, ih fun e he => h e (by simp [he])]

/-- Nothing that a bank holds can be served, and nothing waits: nothing more happens. -/
theorem State.settleFor_idle {s : State} (hb : ∀ e ∈ s.banks, s.oldest [] e.2 = none) (hh : ∀ e ∈ s.threads, e.2.heldOps = [])
    (n : Nat) : State.settleFor n s = s := by
  cases n with
  | zero => rfl
  | succ n => simp only [State.settleFor, State.serveOne_none hb, State.releaseOne_none hh]

/-- The one request that the banks hold is served when it is eligible. -/
theorem State.serveOne_single {s : State} {l : List (Nat × List BankReq)} {k : Nat} {r : BankReq}
    (h : ∀ e ∈ l, e = (k, [r]) ∨ e.2 = []) (hm : (k, [r]) ∈ l) (he : s.eligible [] r = true) :
    s.serveOne l = some (State.serve { s with banks := Table.set s.banks k [] } r) := by
  induction l with
  | nil => exact absurd hm (by simp)
  | cons e l ih =>
    rcases h e (by simp) with rfl | h0
    · simp [State.serveOne, State.oldest, he]
    · obtain ⟨j, rs⟩ := e
      obtain rfl : rs = [] := h0
      have hm' : (k, [r]) ∈ l := by simpa using hm
      simp only [State.serveOne, State.oldest]
      exact ih (fun e he => h e (by simp [he])) hm'

/-- A bank holds one request more than nothing (R64). -/
def State.queued (s : State) (k : Nat) (r : BankReq) : State :=
  { s with nextAcc := s.nextAcc + 1, banks := Table.set s.banks k [r] }

/-- The banks hold nothing again once their one request is served. -/
def State.unqueued (s : State) (k : Nat) : State := { s with nextAcc := s.nextAcc + 1, banks := Table.set s.banks k [] }

theorem Quiet.submit_sync {s : State} (q : Quiet s) (t : Nat) (k : SyncKind) (rd core off lim : Nat) (v : Word) :
    s.submit t (.sync k rd v core off lim) [1] =
      (s.queued (bankKey core off) ⟨k, t, rd, v, core, off, if lim = 0 then 0 else s.cycle + lim, s.nextAcc⟩).settle := by
  rw [q.submit _ _ _ (by simp)]
  simp only [State.perform, q.bank, List.nil_append, State.queued]

section
variable {s : State} {k : Nat} {r : BankReq}

theorem Quiet.queued_banks (q : Quiet s) : ∀ e ∈ (s.queued k r).banks, e = (k, [r]) ∨ e.2 = [] := by
  intro e he
  rcases Table.mem_set he with rfl | he
  · exact .inl rfl
  · exact .inr (q.banks e he)

theorem Quiet.queued_requests (q : Quiet s) (t : Nat) : (s.queued k r).requestsBefore t r.seq = [] := by
  unfold State.requestsBefore
  rw [show ((s.queued k r).thr t).savedSync = [] from q.acq t, List.nil_append, List.filter_eq_nil_iff]
  intro x hx
  obtain ⟨e, he, hx⟩ := List.mem_flatMap.mp (List.mem_filter.mp hx).1
  rcases q.queued_banks e he with rfl | h0
  · simp [List.mem_singleton.1 hx]
  · simp [h0] at hx

theorem Quiet.queued_held (q : Quiet s) (t n : Nat) : (s.queued k r).heldBefore t n = [] := by
  rw [State.heldBefore, show ((s.queued k r).thr t).heldOps = [] from q.heldOps t]
  rfl

/-- The only request is eligible when its word is in the state that it waits for. -/
theorem Quiet.queued_eligible (q : Quiet s) :
    (s.queued k r).eligible [] r = ((s.padWord r.core r.off).full != (r.k == .stf)) := by
  have word : (s.queued k r).padWord r.core r.off = s.padWord r.core r.off := rfl
  simp [State.eligible, State.spanFree, State.acquiringBefore, State.doneBefore, q.queued_requests, q.queued_held, word]

/-- A request whose word is in the other state waits at its bank. -/
theorem Quiet.queued_waits (q : Quiet s) (hw : (s.padWord r.core r.off).full = (r.k == .stf)) :
    (s.queued k r).settle = s.queued k r := by
  refine State.settleFor_idle (s := s.queued k r) (fun e he => ?_) q.held _
  rcases q.queued_banks e he with rfl | h0
  · simp [State.oldest, q.queued_eligible, hw]
  · rw [h0]; rfl

/-- A request whose word is in the state that it waits for is served. -/
theorem Quiet.queued_served (q : Quiet s) (hw : (s.padWord r.core r.off).full = !(r.k == .stf))
    (hb : ∀ e ∈ (State.serve (s.unqueued k) r).banks, e.2 = [])
    (hh : ∀ e ∈ (State.serve (s.unqueued k) r).threads, e.2.heldOps = []) :
    (s.queued k r).settle = State.serve (s.unqueued k) r := by
  have hm : (k, [r]) ∈ (s.queued k r).banks := Table.mem_of_find (Table.find_set_same ..)
  have eligible : (s.queued k r).eligible [] r = true := by
    rw [q.queued_eligible, hw]
    cases r.k == .stf <;> rfl
  have served := State.serveOne_single q.queued_banks hm eligible
  have unq : { s.queued k r with banks := Table.set (s.queued k r).banks k [] } = s.unqueued k := by
    simp [State.queued, State.unqueued]
  rw [unq] at served
  have one : [r].length ∈ (s.queued k r).banks.map fun e => e.2.length := List.mem_map.2 ⟨_, hm, rfl⟩
  have rounds : 0 < ((s.queued k r).banks.map fun e => e.2.length).sum := List.le_sum_of_mem one
  have settles : ∀ n, State.settleFor (n + 1) (s.queued k r) = State.serve (s.unqueued k) r := by
    intro n
    simp only [State.settleFor, served]
    exact State.settleFor_idle (fun e he => by rw [hb e he]; rfl) hh n
  unfold State.settle
  obtain ⟨n, hn⟩ := Nat.exists_eq_succ_of_ne_zero (Nat.ne_of_gt (Nat.add_pos_left rounds
    ((s.queued k r).threads.map fun e => e.2.heldOps.length).sum))
  rw [hn]
  exact settles n

end

/-! ### What a served request does (R61, R62) -/

theorem Quiet.unqueued {s : State} (q : Quiet s) (k : Nat) : Quiet (s.unqueued k) where
  banks := fun e he => by
    rcases Table.mem_set he with rfl | he
    · rfl
    · exact q.banks e he
  held := q.held
  acq := q.acq

theorem State.noteRead_pad {s : State} (h : s.badPad = []) (c : Ctx) (k o n : Nat) : s.noteRead c (.pad k o) n = s := by
  simp [State.noteRead, h, errorsIn]

/-- What a scratchpad holds depends on its bytes alone. -/
theorem State.readAt_pad_congr {s t : State} (h : t.pad = s.pad) (c o n : Nat) : t.readAt (.pad c o) n = s.readAt (.pad c o) n := by
  induction n generalizing o with
  | zero => rfl
  | succ n ih => simp only [State.readAt, Place.add, ih, State.readByte, h]

/-- A served load of a clean word answers it. -/
theorem State.serve_ldf {s : State} (h : s.badPad = []) {r : BankReq} (hk : r.k = .ldf) : s.serve r =
    s.addReturn r.t ⟨.x r.rd, word (leNat (s.readAt (.pad r.core r.off) 8)), 0, false, .load⟩ := by
  simp [State.serve, hk, State.noteRead_pad h, State.badAt, h]

/-- A served LDT leaves its word empty besides. -/
theorem State.serve_ldt {s : State} (h : s.badPad = []) {r : BankReq} (hk : r.k = .ldt) : s.serve r =
    ((s.addReturn r.t ⟨.x r.rd, word (leNat (s.readAt (.pad r.core r.off) 8)), 0, false, .load⟩).setPadFull r.core r.off false
      (some r.t)).noteTaken r.t r.core r.off := by
  simp [State.serve, hk, State.noteRead_pad h, State.badAt, h]

theorem State.serve_stf (s : State) {r : BankReq} (hk : r.k = .stf) : s.serve r =
    (s.writePad (s.thr r.t).ctx r.core r.off (leBytes 8 r.v.toNat)).setPadFull r.core r.off true (some r.t) := by
  simp [State.serve, hk]

theorem State.noteTaken_eq (s : State) (t core off : Nat) : ∃ co, s.noteTaken t core off = { s with cores := co } := by
  unfold State.noteTaken
  dsimp only
  split
  · exact ⟨_, rfl⟩
  · exact ⟨s.cores, rfl⟩

theorem State.alive_of_threads {s t : State} (h : t.threads = s.threads) (u : Nat) : t.alive u = s.alive u := by
  rw [State.alive, State.alive, h]

theorem State.thr_of_threads {s t : State} (h : t.threads = s.threads) (u : Nat) : t.thr u = s.thr u := by
  rw [State.thr, State.thr, h]

/-- A thread that goes on from an instruction has changed alone. -/
theorem State.issued_advance_frame {s : State} (h : s.alive s.cur = true) :
    s.advance.issued.padWords = s.padWords ∧ s.advance.issued.pad = s.pad ∧ s.advance.issued.banks = s.banks ∧
      s.advance.issued.me = { s.me.past s.insnLen with wait := none, answers := [] } := by
  rw [State.issued_advance s h]
  exact ⟨rfl, rfl, rfl, State.me_setThr ..⟩

/-- A deferred destination is empty, but for x0 (R24, R25). -/
theorem Thread.deferX_full (th old : Thread) (r : Nat) (hr : r = 0 → (th.getX r).full = (old.getX r).full) :
    ((th.deferX r).getX r).full = (decide (r = 0) && (old.getX r).full) := by
  rw [Thread.deferX, Thread.getX_setX]
  by_cases h : r = 0
  · rw [if_neg fun h' => h'.2 h, hr h]
    simp [h]
  · rw [if_pos ⟨rfl, h⟩]
    simp [h]

section
variable {s : State} {src : List Src} {rd core off lim : Nat} {ea : State → Word} {k : SyncKind} {ks : List Nat} {l : Option Leaf}
  (h : Ready s { src := src, dx := [rd] }) (q : Quiet s)
  (ht : (s.take { src := src, dx := [rd] }).target (s.take { src := src, dx := [rd] }).me .sync false
    (ea (s.take { src := src, dx := [rd] })) 8 8 1 = .ok [(.pad core off, 8)] ks l)
  (hl : (if k = .ldft then s.me.wlim.toNat * 1024 else 0) = lim)

/-- The request of a full/empty load. -/
def State.loadRequest (s : State) (k : SyncKind) (rd core off lim : Nat) : BankReq :=
  ⟨k, s.cur, rd, 0, core, off, if lim = 0 then 0 else s.cycle + lim, s.nextAcc⟩

/-- The thread of a deferred producer, its destination empty. -/
def State.deferring (s : State) (src : List Src) (rd : Nat) : State :=
  s.setThr s.cur ((Needs.marks { src := src, dx := [rd] } s.me).deferX rd)

theorem State.take_deferX (s : State) (src : List Src) (rd : Nat) :
    (s.take { src := src, dx := [rd] }).deferX rd = s.deferring src rd := by
  rw [State.deferX, State.take_eq, State.setThr_cur, State.setThr_modThr]
  rfl

include q in
theorem Quiet.deferring (src : List Src) (rd : Nat) : Quiet (s.deferring src rd) :=
  q.setThr s.cur (by simp [Thread.deferX, Needs.marks_heldOps, q.heldOps, State.me])
    (by simp [Thread.deferX, Needs.marks_savedSync, State.me, q.acq])

include h q ht hl

theorem ldsync_queued : ldsync src k rd ea s = .next
    (((s.deferring src rd).queued (bankKey core off) (s.loadRequest k rd core off lim)).settle.advance.issued) := by
  have room : (s.bank (core * 16 + off / 16384)).length < 32 := by
    rw [q.bank]
    decide
  rw [ldsync_ready rfl hl h ks l ht room, State.take_deferX, (q.deferring src rd).submit_sync]
  rfl

/-- A full/empty load of a word in the other state waits at its bank. -/
theorem ldsync_waits (hw : (s.padWord core off).full = (k == .stf)) : ∃ t, ldsync src k rd ea s = .next t ∧
    t.me.returns = s.me.returns ∧ t.padWords = s.padWords ∧ t.pad = s.pad ∧
    (t.me.getX rd).full = (decide (rd = 0) && (s.me.getX rd).full) ∧
    t.bank (core * 16 + off / 16384) = [s.loadRequest k rd core off lim] := by
  have waits := (q.deferring src rd).queued_waits (k := bankKey core off) (r := s.loadRequest k rd core off lim) hw
  have alive : ((s.deferring src rd).queued (bankKey core off) (s.loadRequest k rd core off lim)).alive s.cur = true :=
    (State.alive_setThr _ _ _ _ h.alive).trans h.alive
  obtain ⟨words, pad, banks, me⟩ := State.issued_advance_frame alive
  have me' : ((s.deferring src rd).queued (bankKey core off) (s.loadRequest k rd core off lim)).me =
      (Needs.marks { src := src, dx := [rd] } s.me).deferX rd := State.thr_setThr_same ..
  rw [me'] at me
  refine ⟨_, (ldsync_queued h q ht hl).trans (by rw [waits]), ?_, words, pad, ?_, ?_⟩
  · rw [me]
    simp [Thread.past, Thread.deferX, Needs.marks_returns]
  · rw [me]
    exact Thread.deferX_full _ s.me rd fun h0 => by rw [h0]; rfl
  · unfold State.bank
    rw [banks]
    exact Table.get_set_same ..

/-- A full/empty load of a full word answers it; an LDT leaves the word empty. -/
theorem ldsync_answers (hp : s.badPad = []) (user : s.me.isRoot = false) (hw : (s.padWord core off).full = true)
    (hk : k = .ldf ∨ k = .ldt) : ∃ t, ldsync src k rd ea s = .next t ∧
    t.me.returns = s.me.returns ++ [⟨.x rd, BitVec.ofNat 64 (leNat (s.readAt (.pad core off) 8)), 0, false, .load⟩] ∧
    t.padWords = (if k = .ldt then Table.set s.padWords (core * 32768 + off / 8) ⟨false, some s.cur⟩ else s.padWords) ∧
    t.pad = s.pad := by
  let r := s.loadRequest k rd core off lim
  let u := (s.deferring src rd).unqueued (bankKey core off)
  have quiet : Quiet u := (q.deferring src rd).unqueued _
  have reads : u.readAt (.pad core off) 8 = s.readAt (.pad core off) 8 :=
    State.readAt_pad_congr rfl _ _ _
  obtain ⟨co, hs⟩ : ∃ co, State.serve u r = { u.addReturn s.cur ⟨.x rd, word (leNat (s.readAt (.pad core off) 8)), 0, false, .load⟩ with
      cores := co
      padWords := if k = .ldt then Table.set s.padWords (core * 32768 + off / 8) ⟨false, some s.cur⟩ else s.padWords } := by
    rcases hk with rfl | rfl
    · exact ⟨u.cores, (State.serve_ldf (s := u) hp rfl).trans (by rw [← reads]; rfl)⟩
    · have word' : u.readAt (.pad core off) 8 = s.readAt (.pad core off) 8 := reads
      obtain ⟨co, hn⟩ := State.noteTaken_eq ((u.addReturn s.cur ⟨.x rd, word (leNat (u.readAt (.pad core off) 8)), 0, false,
        .load⟩).setPadFull core off false (some s.cur)) s.cur core off
      refine ⟨co, (State.serve_ldt (s := u) hp rfl).trans (hn.trans ?_)⟩
      have slot : ((u.addReturn s.cur ⟨.x rd, word (leNat (u.readAt (.pad core off) 8)), 0, false, .load⟩).thr s.cur).isRoot =
          false := by
        rw [State.addReturn, State.thr_modThr_same, ← user]
        have me : u.thr s.cur = (Needs.marks { src := src, dx := [rd] } s.me).deferX rd := State.thr_setThr_same ..
        rw [me]
        simp [Thread.isRoot, Thread.deferX]
      rw [State.setPadFull, Option.filter_some, slot, word']
      rfl
  have idle : ∀ e ∈ (State.serve u r).threads, e.2.heldOps = [] := by
    rw [hs]
    intro e he
    rcases Table.mem_set he with rfl | he
    · exact quiet.heldOps s.cur
    · exact quiet.held e he
  have served := (q.deferring src rd).queued_served (k := bankKey core off) (r := r)
    (hw.trans (by rcases hk with rfl | rfl <;> rfl)) (by rw [hs]; exact quiet.banks) idle
  have cur : (State.serve u r).cur = s.cur := by rw [hs]; rfl
  have threads : (State.serve u r).threads =
      (u.addReturn s.cur ⟨.x rd, word (leNat (s.readAt (.pad core off) 8)), 0, false, .load⟩).threads := by rw [hs]
  have alive' : u.alive s.cur = true := (State.alive_setThr _ _ _ _ h.alive).trans h.alive
  have alive : State.alive (State.serve u r) (State.serve u r).cur = true := by
    rw [cur, State.alive_of_threads threads]
    exact (State.alive_modThr u s.cur s.cur _ alive').trans alive'
  have returns : (State.serve u r).me.returns = s.me.returns ++
      [⟨.x rd, word (leNat (s.readAt (.pad core off) 8)), 0, false, .load⟩] := by
    rw [State.me, cur, State.thr_of_threads threads, State.addReturn, State.thr_modThr_same]
    have me : u.thr s.cur = (Needs.marks { src := src, dx := [rd] } s.me).deferX rd := State.thr_setThr_same ..
    rw [me]
    simp [Thread.deferX, Needs.marks_returns]
  obtain ⟨words, pad, -, me⟩ := State.issued_advance_frame alive
  refine ⟨_, (ldsync_queued h q ht hl).trans (by rw [served]), ?_, ?_, ?_⟩
  · rw [me]
    exact returns
  · rw [words, hs]
  · rw [pad, hs]
    rfl

end

section
variable {s : State} {src : List Src} {core off : Nat} {x ea : State → Word} {v : Word} {ks : List Nat} {l : Option Leaf}
  (h : Ready s { src := src }) (q : Quiet s)
  (ht : (s.take { src := src }).target (s.take { src := src }).me .sync false (ea (s.take { src := src })) 8 8 1 =
    .ok [(.pad core off, 8)] ks l)
  (hx : x (s.take { src := src }) = v)

/-- The request of an STF. -/
def State.storeRequest (s : State) (core off : Nat) (v : Word) : BankReq := ⟨.stf, s.cur, 0, v, core, off, 0, s.nextAcc⟩

include h q ht hx

theorem stfTo_queued : stfTo src x ea s =
    .next (((s.take { src := src }).queued (bankKey core off) (s.storeRequest core off v)).settle.advance.issued) := by
  have room : (s.bank (core * 16 + off / 16384)).length < 32 := by
    rw [q.bank]
    decide
  rw [stfTo_ready rfl hx h ks l ht room, (q.take _).submit_sync]
  rfl

/-- An STF of a full word waits at its bank. -/
theorem stfTo_waits (hw : (s.padWord core off).full = true) : ∃ t, stfTo src x ea s = .next t ∧
    t.padWords = s.padWords ∧ t.pad = s.pad ∧
    (t.bank (core * 16 + off / 16384)).map (fun r => (r.k, r.t, r.v, r.core, r.off)) = [(.stf, s.cur, v, core, off)] := by
  have waits := (q.take { src := src }).queued_waits (k := bankKey core off) (r := s.storeRequest core off v) hw
  have alive : ((s.take { src := src }).queued (bankKey core off) (s.storeRequest core off v)).alive s.cur = true :=
    (State.alive_setThr _ _ _ _ h.alive).trans h.alive
  obtain ⟨words, pad, banks, -⟩ := State.issued_advance_frame alive
  refine ⟨_, (stfTo_queued h q ht hx).trans (by rw [waits]), words, pad, ?_⟩
  unfold State.bank
  rw [banks]
  exact congrArg (List.map _) (Table.get_set_same ..)

/-- An STF of an empty word stores its data and leaves the word full. -/
theorem stfTo_stores (user : s.me.isRoot = false) (hw : (s.padWord core off).full = false) : ∃ t, stfTo src x ea s = .next t ∧
    t.padWords = Table.set s.padWords (core * 32768 + off / 8) ⟨true, some s.cur⟩ ∧
    t.pad = Memory.writeBytes s.pad (core * 262144 + off) (leBytes 8 v.toNat) := by
  let r := s.storeRequest core off v
  let u := (s.take { src := src }).unqueued (bankKey core off)
  have quiet : Quiet u := (q.take _).unqueued _
  have around := u.writePad_around (u.thr s.cur).ctx core off (leBytes 8 v.toNat)
  obtain ⟨-, -, -, bytes⟩ := around.memories
  have hs : State.serve u r = (u.writePad (u.thr s.cur).ctx core off (leBytes 8 v.toNat)).setPadFull core off true (some s.cur) :=
    State.serve_stf u rfl
  have same : ∀ {w}, Around { u with pad := Memory.writeBytes u.pad (core * Config.padBytes + off) (leBytes 8 v.toNat) } w →
      w.threads = u.threads ∧ w.banks = u.banks ∧ w.padWords = u.padWords ∧ w.cur = u.cur := by
    rintro w ⟨_, _, _, _, _, _, _, _, _, rfl⟩
    exact ⟨rfl, rfl, rfl, rfl⟩
  obtain ⟨threads, banks, words, cur⟩ := same around
  have served := (q.take { src := src }).queued_served (k := bankKey core off) (r := r) hw
    (by rw [hs]; exact banks ▸ quiet.banks) (by rw [hs]; exact threads ▸ quiet.held)
  have alive' : u.alive s.cur = true := (State.alive_setThr _ _ _ _ h.alive).trans h.alive
  have alive : State.alive (State.serve u r) (State.serve u r).cur = true := by
    rw [hs]
    exact (congrArg (State.alive _) cur).trans ((State.alive_of_threads threads _).trans alive')
  obtain ⟨words', pad', -, -⟩ := State.issued_advance_frame alive
  have slot : ((u.writePad (u.thr s.cur).ctx core off (leBytes 8 v.toNat)).thr s.cur).isRoot = false := by
    rw [State.thr_of_threads threads]
    refine (congrArg Thread.isRoot (State.thr_setThr_same s s.cur _)).trans ?_
    rw [Needs.marks_isRoot]
    exact user
  refine ⟨_, (stfTo_queued h q ht hx).trans (by rw [served]), ?_, ?_⟩
  · rw [words', hs, State.setPadFull, Option.filter_some, slot, words]
    rfl
  · rw [pad', hs]
    exact bytes

end

/-- Settles O14 from how each form issues and from what its request does when nothing else waits. -/
theorem fullEmptyResults : Obligations.FullEmptyResults := by
  unfold Obligations.FullEmptyResults
  refine ⟨fun s rd base d a imm c core off => ?issue, fun s rd d a imm core off ks l q clean alive user => ?effect⟩
  case issue =>
    exact ⟨fun h ks l ht room _ => ldsync_ready (k := .ldf) (lim := 0) (ea := fun s => eaScaled s a imm 8) (eaScaled_take s _ a imm rfl) rfl h ks l ht (room rfl),
      fun h ks l ht room _ => ldsync_ready (k := .ldt) (lim := 0) (ea := fun s => eaScaled s a imm 8) (eaScaled_take s _ a imm rfl) rfl h ks l ht (room rfl),
      fun h ks l ht room _ => ldsync_ready (k := .ldft) (lim := s.me.wlim.toNat * 1024) (ea := fun s => eaScaled s a imm 8)
        (eaScaled_take s _ a imm rfl) rfl h ks l ht (room rfl),
      fun h ks l ht room free => execLdp_ready h ks l ht (room rfl) free,
      fun h ks l ht room _ => stfTo_ready (x := fun s => s.rx d) (ea := fun s => eaScaled s a imm 8) (eaScaled_take s _ a imm rfl)
        (State.rx_take s _ d) h ks l ht (room rfl),
      fun h ks l ht _ free => few_ready h ks l ht free,
      fun h ks l ht _ free => few_ready h ks l ht free,
      fun h ks l ht room _ => ldsync_ready (k := .ldt) (lim := 0) (ea := fun s => eaCompact s base c) (eaCompact_take s _ base c) rfl
        h ks l ht (room rfl),
      fun h ks l ht room _ => stfTo_ready (x := fun s => s.rx (cs rd)) (ea := fun s => eaCompact s base c) (eaCompact_take s _ base c)
        (State.rx_take s _ (cs rd)) h ks l ht (room rfl)⟩
  case effect =>
    have ea : eaScaled (s.take { src := [a], dx := [rd] }) a imm 8 = s.rx a + BitVec.ofInt 64 (imm.toInt * 8) :=
      eaScaled_take s _ a imm rfl
    refine ⟨fun ⟨h, ht⟩ hw => ?full, fun ⟨h, ht⟩ hw e he => ?empty, fun ⟨h, ht⟩ hw => ?stored, fun ⟨h, ht⟩ hw => ?kept⟩
    case full =>
      rw [← ea] at ht
      exact ⟨ldsync_answers (k := .ldf) (ea := fun s => eaScaled s a imm 8) h q ht rfl clean user hw (.inl rfl),
        ldsync_answers (k := .ldt) (ea := fun s => eaScaled s a imm 8) h q ht rfl clean user hw (.inr rfl)⟩
    case empty =>
      rw [← ea] at ht
      have waits : ∀ k lim, k ≠ SyncKind.stf → (if k = .ldft then s.me.wlim.toNat * 1024 else 0) = lim →
          ∃ t, ldsync [a] k rd (fun s => eaScaled s a imm 8) s = .next t ∧ t.me.returns = s.me.returns ∧ t.padWords = s.padWords ∧
            t.pad = s.pad ∧ (t.me.getX rd).full = (decide (rd = 0) && (s.me.getX rd).full) ∧
            (t.bank (core * 16 + off / 16384)).map (fun r => (r.k, r.t, r.rd, r.core, r.off, r.due)) =
              [(k, s.cur, rd, core, off, if lim = 0 then 0 else s.cycle + lim)] := by
        intro k lim hk hl
        obtain ⟨t, ht, returns, words, pad, full, bank⟩ := ldsync_waits (ea := fun s => eaScaled s a imm 8) h q ht hl
          (hw.trans (by simp [hk]))
        exact ⟨t, ht, returns, words, pad, full, by rw [bank]; rfl⟩
      simp only [List.mem_cons, List.not_mem_nil, or_false] at he
      rcases he with rfl | rfl | rfl
      · exact waits .ldf 0 (by decide) rfl
      · exact waits .ldt 0 (by decide) rfl
      · have limit := waits .ldft (s.me.wlim.toNat * 1024) (by decide) rfl
        have zero : (s.me.wlim.toNat * 1024 = 0) ↔ s.me.wlim = 0 := by
          rw [Nat.mul_eq_zero, ← BitVec.toNat_inj]
          simp
        simp only [zero] at limit
        exact limit
    case stored =>
      rw [← eaScaled_take s { src := [d, a] } a imm (size := 8) (z := 8) rfl] at ht
      exact stfTo_stores (x := fun s => s.rx d) (ea := fun s => eaScaled s a imm 8) h q ht (State.rx_take ..) user hw
    case kept =>
      rw [← eaScaled_take s { src := [d, a] } a imm (size := 8) (z := 8) rfl] at ht
      exact stfTo_waits (x := fun s => s.rx d) (ea := fun s => eaScaled s a imm 8) h q ht (State.rx_take ..) hw

end Sys2Proof.Machine
end

section
/-! PROOF. Integer and floating-point vector instructions, element by element (O34, O35). -/

namespace Sys2Proof.Machine

/-! ### Integer elements (R104, R109) -/

/-- A merging member reads vd last (R104). -/
theorem vsrc_eq (z : Bool) (vd : Nat) (vs : List Nat) : vsrc z vd vs = if z then vs else vs ++ [vd] := rfl

/-- The instruction `i` gives `f` in the active elements modulo 2^w, and keeps or zeroes the others. -/
def GivesInts (s : State) (vd pg w : Nat) (z : Bool) (i : Instr) (f : Nat → Int) : Prop :=
  ∃ val : VWord, exec i s = .next (s.after {} fun th => (th.getsV vd val).past s.insnLen) ∧
    ∀ j, j < 2048 / w → (vget val w j : Int) =
      if (s.rp pg).getLsbD (j * (w / 8)) then f j % 2 ^ w else if z then 0 else (vget (s.rv vd) w j : Int)

theorem givesInts_of_lanes {s : State} {vs : List Nat} {vd pg w : Nat} {z : Bool} {i : Instr} {g : Nat → Nat} {f : Nat → Int}
    (h : GivesLanes s { vs := vs, ps := [pg], dv := [vd] } vd w (exec i s) fun j =>
      if (s.rp pg).getLsbD (j * (w / 8)) then g j % 2 ^ w else if z then 0 else vget (s.rv vd) w j)
    (hg : ∀ j, ((g j % 2 ^ w : Nat) : Int) = f j % 2 ^ w) : GivesInts s vd pg w z i f := by
  obtain ⟨val, run, lanes⟩ := h
  refine ⟨val, run, fun j hj => ?_⟩
  rw [lanes j hj, ← hg]
  dsimp only
  split
  · rfl
  · cases z <;> rfl

theorem vint_ready {s : State} {vd va vb pg : Nat} {t : Ety} {z mac : Bool}
    (h : Ready s { vs := vsrc (z && !mac) vd [va, vb], ps := [pg], dv := [vd] }) (f : Nat → Nat → Nat → Nat) :
    GivesLanes s { vs := vsrc (z && !mac) vd [va, vb], ps := [pg], dv := [vd] } vd t.width (vint vd va vb pg t z mac f s) fun j =>
      if (s.rp pg).getLsbD (j * (t.width / 8))
      then f (vget (s.rv vd) t.width j) (vget (s.rv va) t.width j) (vget (s.rv vb) t.width j) % 2 ^ t.width
      else if z then 0 else vget (s.rv vd) t.width j := by
  refine vectorOp_givesLanes h rfl fun j hj => ?_
  rw [State.rp_take, State.rv_take, State.rv_take, State.rv_take, vget_mergeLanes _ _ _ _ hj]

theorem vint1_ready {s : State} {vd va pg : Nat} {t : Ety} {z : Bool}
    (h : Ready s { vs := vsrc z vd [va], ps := [pg], dv := [vd] }) (f : Nat → Nat) :
    GivesLanes s { vs := vsrc z vd [va], ps := [pg], dv := [vd] } vd t.width (vint1 vd va pg t z f s) fun j =>
      if (s.rp pg).getLsbD (j * (t.width / 8)) then f (vget (s.rv va) t.width j) % 2 ^ t.width
      else if z then 0 else vget (s.rv vd) t.width j := by
  refine vectorOp_givesLanes h rfl fun j hj => ?_
  rw [State.rp_take, State.rv_take, State.rv_take, vget_mergeLanes _ _ _ _ hj]

theorem lowBits_emod (w : Nat) (i : Int) : ((lowBits w i % 2 ^ w : Nat) : Int) = i % 2 ^ w := by
  rw [lowBits_mod, lowBits_cast]
  norm_cast

theorem intVal_modEq (t : Ety) (a : Nat) : t.intVal a ≡ a [ZMOD 2 ^ t.width] := by
  have := t.intVal_emod a
  push_cast at this
  exact this

theorem intOp_emod (t : Ety) (f : Int → Int → Int) (a b : Nat) :
    ((intOp t f a b % 2 ^ t.width : Nat) : Int) = f (t.intVal a) (t.intVal b) % 2 ^ t.width := lowBits_emod _ _

/-- Settles O34. -/
theorem vectorIntegerResults : Obligations.VectorIntegerResults := by
  unfold Obligations.VectorIntegerResults
  intro s vd va vb pg t z
  have two {i : Instr} {g : Nat → Nat → Nat → Nat} {f : Nat → Int} (hi : exec i s = vint vd va vb pg t z false g s)
      (hg : ∀ j, ((g (vget (s.rv vd) t.width j) (vget (s.rv va) t.width j) (vget (s.rv vb) t.width j) % 2 ^ t.width : Nat) : Int) =
        f j % 2 ^ t.width) (h : Ready s { vs := if z then [va, vb] else [va, vb, vd], ps := [pg], dv := [vd] }) :
      GivesInts s vd pg t.width z i f := by
    have h' : Ready s { vs := vsrc (z && !false) vd [va, vb], ps := [pg], dv := [vd] } := by
      rw [Bool.not_false, Bool.and_true]
      exact h
    exact givesInts_of_lanes (hi ▸ vint_ready h' g) hg
  have one {i : Instr} {g : Nat → Nat} {f : Nat → Int} (hi : exec i s = vint1 vd va pg t z g s)
      (hg : ∀ j, ((g (vget (s.rv va) t.width j) % 2 ^ t.width : Nat) : Int) = f j % 2 ^ t.width)
      (h : Ready s { vs := if z then [va] else [va, vd], ps := [pg], dv := [vd] }) : GivesInts s vd pg t.width z i f :=
    givesInts_of_lanes (hi ▸ vint1_ready h g) hg
  refine ⟨two (exec_vadd ..) fun j => ?add, two (exec_vsub ..) fun j => ?sub, two (exec_vmul ..) fun j => ?mul,
    two (exec_vmulh ..) fun j => ?mulh, two (exec_vmin ..) fun j => intOp_emod .., two (exec_vmax ..) fun j => intOp_emod ..,
    two (exec_vand ..) fun j => ?and, two (exec_vor ..) fun j => ?or, two (exec_vxor ..) fun j => ?xor,
    two (exec_vshl ..) fun j => ?shl, two (exec_vshr ..) fun j => ?shr, two (exec_vsra ..) fun j => ?sra,
    one (exec_vabs ..) fun j => ?abs, one (exec_vneg ..) fun j => ?neg, fun h => ?mac⟩
  case add => exact (intOp_emod ..).trans ((intVal_modEq t _).add (intVal_modEq t _))
  case sub => exact (intOp_emod ..).trans ((intVal_modEq t _).sub (intVal_modEq t _))
  case mul => exact (intOp_emod ..).trans ((intVal_modEq t _).mul (intVal_modEq t _))
  case mulh => exact (intOp_emod ..).trans (by push_cast; rfl)
  case and => exact (Int.natCast_emod ..).trans (by push_cast; rfl)
  case or => exact (Int.natCast_emod ..).trans (by push_cast; rfl)
  case xor => exact (Int.natCast_emod ..).trans (by push_cast; rfl)
  case shr => exact (Int.natCast_emod ..).trans (by push_cast; rfl)
  case shl => exact (Int.natCast_emod ..).trans (by push_cast; rfl)
  case sra => exact (lowBits_emod ..).trans (by push_cast; rfl)
  case abs => exact (Int.natCast_emod ..).trans (by push_cast; rfl)
  case neg => exact (lowBits_emod ..).trans (intVal_modEq t _).neg
  case mac =>
    have h' : Ready s { vs := vsrc (z && !true) vd [va, vb], ps := [pg], dv := [vd] } := by
      rw [Bool.not_true, Bool.and_false]
      exact h
    exact givesInts_of_lanes (i := .vmac vd va vb pg t z) (vint_ready h' fun d a b => d + a * b)
      fun j => (Int.natCast_emod ..).trans (by push_cast; rfl)

/-! ### Floating-point elements (R110) -/

/-- `res` issues with a result whose active elements are `g`'s, and whose events and normaliser call are those of one of them. -/
def GivesFloats (s : State) (vd pg w : Nat) (z : Bool) (res : Result) (g : Nat → FRes) : Prop :=
  ∃ o : VOut, res = .next ((((s.take {}).finishV vd o).advance).issued) ∧
    (∀ j, j < 2048 / w → vget o.val w j =
      if (s.rp pg).getLsbD (j * (w / 8)) then (g j).bits % 2 ^ w else if z then 0 else vget (s.rv vd) w j) ∧
    (o.nanp = true ↔ ∃ j, j < 2048 / w ∧ (s.rp pg).getLsbD (j * (w / 8)) = true ∧ (g j).nanp = true) ∧
    (o.ovfl = true ↔ ∃ j, j < 2048 / w ∧ (s.rp pg).getLsbD (j * (w / 8)) = true ∧ (g j).ovfl = true) ∧
    (o.norm = true ↔ ∃ j, j < 2048 / w ∧ (s.rp pg).getLsbD (j * (w / 8)) = true ∧ (g j).norm = true)

theorem any_activeLanes {α : Type} (p : PWord) (w : Nat) (g : Nat → α) (c : α → Bool) :
    ((activeLanes p w).map g).any c = true ↔ ∃ j, j < 2048 / w ∧ p.getLsbD (j * (w / 8)) = true ∧ c (g j) = true := by
  rw [activeLanes_eq, List.any_map, List.any_filter, List.any_eq_true]
  simp only [List.mem_range, Function.comp_apply, Bool.and_eq_true]

theorem floats_of_vectorOp {s : State} {n : Needs} {vd pg w : Nat} {z : Bool} {f : State → VOut} {g : Nat → FRes}
    (h : Ready s { n with dv := [vd] }) (take : s.take n = s.take {})
    (hf : f (s.take n) = floatOut w z (s.rv vd) (s.rp pg) g) : GivesFloats s vd pg w z (vectorOp n vd f s) g := by
  refine ⟨floatOut w z (s.rv vd) (s.rp pg) g, ?_, fun j hj => vget_mergeLanes _ _ _ _ hj, any_activeLanes .., any_activeLanes ..,
    any_activeLanes ..⟩
  rw [vectorOp_ready h, hf, take]

theorem vflt_ready {s : State} {vd va vb pg : Nat} {t : Ety} {f : Fmt} {z fma : Bool} (ht : fmtOf t = some f)
    (h : Ready s { vs := vsrc (z && !fma) vd [va, vb], ps := [pg], dv := [vd] }) (g : Fmt → Nat → Nat → Nat → FRes) :
    GivesFloats s vd pg f.w z (vflt vd va vb pg t z fma g s) fun j =>
      g f (vget (s.rv vd) f.w j) (vget (s.rv va) f.w j) (vget (s.rv vb) f.w j) := by
  refine floats_of_vectorOp h rfl ?_
  simp only [fmtD_of_fmtOf ht, State.rp_take, State.rv_take]

theorem vflt1_ready {s : State} {vd va pg : Nat} {t : Ety} {f : Fmt} {z : Bool} (ht : fmtOf t = some f)
    (h : Ready s { vs := vsrc z vd [va], ps := [pg], dv := [vd] }) (g : Fmt → Nat → FRes) :
    GivesFloats s vd pg f.w z (vflt1 vd va pg t z g s) fun j => g f (vget (s.rv va) f.w j) := by
  refine floats_of_vectorOp h rfl ?_
  simp only [fmtD_of_fmtOf ht, State.rp_take, State.rv_take]

/-! ### Conversions (R93, R111) -/

/-- Elements laid out on the grid of a wider type fill the low lanes; the others are 0. -/
theorem vget_mergeLanes_grid {w pw j : Nat} (z : Bool) (old : VWord) (p : PWord) (f : Nat → Nat) (hj : j < 2048 / w) :
    vget (mergeLanes (laneCount pw) w pw z old p f) w j =
      if 2048 / pw ≤ j then 0 else if p.getLsbD (j * (pw / 8)) then f j % 2 ^ w else if z then 0 else vget old w j := by
  have hn : laneCount pw = 2048 / pw := rfl
  rw [mergeLanes, vget_vectorOf _ hj, List.getD_eq_getElem?_getD, List.getElem?_map]
  by_cases out : 2048 / pw ≤ j
  · rw [if_pos out, List.getElem?_eq_none (by rwa [List.length_range, hn])]
    exact Nat.zero_mod _
  · rw [if_neg out, List.getElem?_range (hn ▸ Nat.lt_of_not_le out), Option.map_some, Option.getD_some, laneOn_eq,
      apply_ite (· % 2 ^ w), apply_ite (· % 2 ^ w), vget_mod, Nat.zero_mod]

theorem convertAll_take (s : State) (n : Needs) (vd va pg : Nat) (dst src : Ety) (r : Rnd) (o : Ovf) (z : Bool) :
    convertAll (s.take n) vd va pg dst src r o z = convertAll s vd va pg dst src r o z := by
  simp only [convertAll, State.rp_take, State.rv_take]

theorem convertAll_trap (s : State) (vd va pg : Nat) (dst src : Ety) (r : Rnd) (o : Ovf) (z : Bool) :
    (convertAll s vd va pg dst src r o z).2 = true ↔
      ∃ j, j < 2048 / max src.width dst.width ∧ (s.rp pg).getLsbD (j * (max src.width dst.width / 8)) = true ∧
        (convertEl dst src r o (vget (s.rv va) src.width j)).trap = true := any_activeLanes ..

theorem vcvt_ready {s : State} {vd va pg : Nat} {z : Bool} (h : Ready s { vs := vsrc z vd [va], ps := [pg], dv := [vd] })
    (dst src : Ety) (r : Rnd) (o : Ovf) : execVcvt vd va pg dst src r o z s =
      if (convertAll s vd va pg dst src r o z).2 then .next (s.takeTrap 10 0 0)
      else .next ((((s.take {}).finishV vd (convertAll s vd va pg dst src r o z).1).advance).issued) := by
  rw [execVcvt, issue_ready h, convertAll_take]
  obtain ⟨out, trap⟩ := convertAll s vd va pg dst src r o z
  cases trap <;> rfl

theorem vget_convertAll {s : State} {vd va pg j : Nat} {dst src : Ety} {r : Rnd} {o : Ovf} {z : Bool} (hj : j < 2048 / dst.width) :
    vget (convertAll s vd va pg dst src r o z).1.val dst.width j =
      if 2048 / max src.width dst.width ≤ j then 0
      else if (s.rp pg).getLsbD (j * (max src.width dst.width / 8))
      then (convertEl dst src r o (vget (s.rv va) src.width j)).res.bits % 2 ^ dst.width
      else if z then 0 else vget (s.rv vd) dst.width j := vget_mergeLanes_grid _ _ _ _ hj

/-- Settles O35. -/
theorem vectorFloatResults : Obligations.VectorFloatResults := by
  unfold Obligations.VectorFloatResults
  refine ⟨fun s vd va vb pg t f z ht => ?_, fun s vd va pg dst src r o z h => ⟨fun clean => ?_, fun bad => ?_⟩⟩
  · have two {i : Instr} {g : Fmt → Nat → Nat → Nat → FRes} (hi : exec i s = vflt vd va vb pg t z false g s)
        (h : Ready s { vs := if z then [va, vb] else [va, vb, vd], ps := [pg], dv := [vd] }) :=
      have h' : Ready s { vs := vsrc (z && !false) vd [va, vb], ps := [pg], dv := [vd] } := by
        rw [Bool.not_false, Bool.and_true]
        exact h
      (hi ▸ vflt_ready ht h' g : GivesFloats s vd pg f.w z (exec i s) _)
    have one {i : Instr} {g : Fmt → Nat → FRes} (hi : exec i s = vflt1 vd va pg t z g s)
        (h : Ready s { vs := if z then [va] else [va, vd], ps := [pg], dv := [vd] }) :=
      (hi ▸ vflt1_ready ht h g : GivesFloats s vd pg f.w z (exec i s) _)
    refine ⟨two (exec_vfadd ..), two (exec_vfsub ..), two (exec_vfmul ..), fun h => ?fma, two (exec_vfmin ..),
      two (exec_vfmax ..), one (exec_vfabs ..), one (exec_vfneg ..)⟩
    have h' : Ready s { vs := vsrc (z && !true) vd [va, vb], ps := [pg], dv := [vd] } := by
      rw [Bool.not_true, Bool.and_false]
      exact h
    exact vflt_ready ht h' fun f d a b => f.fma a b d
  · have off : ¬ (convertAll s vd va pg dst src r o z).2 = true := fun trap => by
      obtain ⟨j, hj, on, trap⟩ := (convertAll_trap ..).1 trap
      rw [clean j hj on] at trap
      cases trap
    exact ⟨(convertAll s vd va pg dst src r o z).1, (vcvt_ready h dst src r o).trans (if_neg off), fun j hj => vget_convertAll hj⟩
  · exact (vcvt_ready h dst src r o).trans (if_pos ((convertAll_trap ..).2 bad))

end Sys2Proof.Machine
end

section
/-! PROOF. How a vector result is written and counted (O33). -/

namespace Sys2Proof.Machine

/-- What event counter `i` of core `k` shows (R101). -/
def State.eventCount (s : State) (k i : Nat) : Nat := Table.get (s.core k).events i 0

/-- `t` is `s` but for the event counters of core `k`. -/
structure CountsOnly (k : Nat) (s t : State) : Prop where
  threads : t.threads = s.threads
  cur : t.cur = s.cur
  cycle : t.cycle = s.cycle
  hbm : t.hbm = s.hbm
  pad : t.pad = s.pad
  normCur : (t.core k).normCur = (s.core k).normCur
  normQ : (t.core k).normQ = (s.core k).normQ
  sfuRun : (t.core k).sfuRun = (s.core k).sfuRun
  sfuWait : (t.core k).sfuWait = (s.core k).sfuWait

theorem CountsOnly.refl (k : Nat) (s : State) : CountsOnly k s s :=
  ⟨rfl, rfl, rfl, rfl, rfl, rfl, rfl, rfl, rfl⟩

theorem CountsOnly.trans {k : Nat} {s t u : State} (h : CountsOnly k s t) (g : CountsOnly k t u) : CountsOnly k s u :=
  ⟨g.threads.trans h.threads, g.cur.trans h.cur, g.cycle.trans h.cycle, g.hbm.trans h.hbm, g.pad.trans h.pad,
    g.normCur.trans h.normCur, g.normQ.trans h.normQ, g.sfuRun.trans h.sfuRun, g.sfuWait.trans h.sfuWait⟩

theorem CountsOnly.thr {k : Nat} {s t : State} (h : CountsOnly k s t) (u : Nat) : t.thr u = s.thr u := by
  rw [State.thr, State.thr, h.threads]

theorem countEvent_countsOnly (s : State) (k i : Nat) : CountsOnly k s (s.countEvent k i) := by
  refine ⟨rfl, rfl, rfl, rfl, rfl, ?_, ?_, ?_, ?_⟩ <;> rw [State.countEvent, State.core_modCore_same]

theorem countIf_countsOnly (s : State) (c : Bool) (k i : Nat) : CountsOnly k s (s.countIf c k i) := by
  cases c
  · exact .refl k s
  · exact countEvent_countsOnly s k i

theorem eventCount_countEvent (s : State) (k i j : Nat) :
    (s.countEvent k i).eventCount k j = if j = i then min (s.eventCount k i + 1) 0xFFFFFFFF else s.eventCount k j := by
  rw [State.eventCount, State.countEvent, State.core_modCore_same]
  split
  · next h =>
    subst h
    exact Table.get_set_same ..
  · next h => exact Table.get_set_other _ _ _ h

theorem eventCount_countIf (s : State) (c : Bool) (k i j : Nat) :
    (s.countIf c k i).eventCount k j = if j = i ∧ c then min (s.eventCount k i + 1) 0xFFFFFFFF else s.eventCount k j := by
  cases c
  · exact (if_neg fun h => Bool.noConfusion h.2).symm
  · simpa using! eventCount_countEvent s k i j

/-- A call made after the ones that wait goes behind them. -/
theorem queueNorm_last (j : NormJob) (q : List NormJob) (h : ∀ x ∈ q, x.at_ ≤ j.at_) : queueNorm j q = q ++ [j] := by
  induction q with
  | nil => rfl
  | cons x q ih =>
    rw [queueNorm, if_neg (Nat.not_lt.2 (h x List.mem_cons_self)), ih fun y hy => h y (List.mem_cons_of_mem _ hy)]
    rfl

/-- The state in which a result's events are counted (R101). -/
def State.countResult (s : State) (o : VOut) : State :=
  ((s.countIf o.nanp s.myCore 0).countIf o.ovfl s.myCore 1).countIf o.csat s.myCore 3

theorem countResult_countsOnly (s : State) (o : VOut) : CountsOnly s.myCore s (s.countResult o) :=
  ((countIf_countsOnly ..).trans (countIf_countsOnly ..)).trans (countIf_countsOnly ..)

theorem eventCount_countResult (s : State) (o : VOut) :
    let n := (s.countResult o).eventCount s.myCore
    n 0 = (if o.nanp then min (s.eventCount s.myCore 0 + 1) 0xFFFFFFFF else s.eventCount s.myCore 0) ∧
    n 1 = (if o.ovfl then min (s.eventCount s.myCore 1 + 1) 0xFFFFFFFF else s.eventCount s.myCore 1) ∧
    n 3 = (if o.csat then min (s.eventCount s.myCore 3 + 1) 0xFFFFFFFF else s.eventCount s.myCore 3) ∧
    n 2 = s.eventCount s.myCore 2 := by
  refine ⟨?_, ?_, ?_, ?_⟩ <;> simp only [State.countResult, eventCount_countIf] <;> simp

theorem finishV_plain (s : State) (vd : Nat) {o : VOut} (h : o.norm = false) :
    s.finishV vd o = (s.countResult o).wv vd o.val := by
  rw [State.finishV, h]
  rfl

/-- What an instruction that is no SFU form asks of the normaliser. -/
def State.normJob (s : State) (vd : Nat) (o : VOut) : NormJob := ⟨s.cur, vd, o.val, none, s.cycle, 0⟩

theorem finishV_norm (s : State) (vd : Nat) {o : VOut} (h : o.norm = true) :
    s.finishV vd o = ((s.countResult o).deferV vd).callNorm s.myCore (s.normJob vd o) := by
  have c := countResult_countsOnly s o
  rw [State.finishV, h, State.normJob, ← c.cur, ← c.cycle]
  rfl

/-- The state in which a call on the normaliser is counted. -/
theorem callNorm_idle {s : State} {k : Nat} (j : NormJob) (idle : (s.core k).normCur = none) :
    s.callNorm k j = (s.countEvent k 2).startNorm k j (s.cycle + 32) := by
  have h : ((s.countEvent k 2).core k).normCur = none := (countEvent_countsOnly s k 2).normCur.trans idle
  rw [State.callNorm, h]
  rfl

theorem callNorm_busy {s : State} {k : Nat} {j : NormJob} (busy : (s.core k).normCur ≠ none) (hj : j.sfu = none) :
    s.callNorm k j = (s.countEvent k 2).waitNorm k j := by
  have h := (countEvent_countsOnly s k 2).normCur
  obtain ⟨⟨q, due⟩, hq⟩ := Option.ne_none_iff_exists'.1 busy
  rw [State.callNorm, h, hq]
  dsimp only
  rw [hj, Option.isSome_none, Bool.and_false, Bool.false_and]
  rfl

/-- What a result leaves as it was: memory, the other registers and the other threads. -/
structure OnlyVectors (s t : State) : Prop where
  hbm : t.hbm = s.hbm
  pad : t.pad = s.pad
  cur : t.cur = s.cur
  x : t.me.x = s.me.x
  p : t.me.p = s.me.p
  others : ∀ u, u ≠ s.cur → t.thr u = s.thr u

theorem OnlyVectors.trans {s t u : State} (h : OnlyVectors s t) (g : OnlyVectors t u) : OnlyVectors s u :=
  ⟨g.hbm.trans h.hbm, g.pad.trans h.pad, g.cur.trans h.cur, g.x.trans h.x, g.p.trans h.p,
    fun v hv => (g.others v (h.cur ▸ hv)).trans (h.others v hv)⟩

theorem CountsOnly.me {k : Nat} {s t : State} (h : CountsOnly k s t) : t.me = s.me := by
  rw [State.me, h.thr, h.cur]
  rfl

theorem CountsOnly.onlyVectors {k : Nat} {s t : State} (h : CountsOnly k s t) : OnlyVectors s t :=
  ⟨h.hbm, h.pad, h.cur, congrArg Thread.x h.me, congrArg Thread.p h.me, fun u _ => h.thr u⟩

theorem onlyVectors_modThr {s : State} {f : Thread → Thread} (hx : (f s.me).x = s.me.x) (hp : (f s.me).p = s.me.p) :
    OnlyVectors s (s.modThr s.cur f) := by
  have me : (s.modThr s.cur f).me = f s.me := State.thr_modThr_same ..
  exact ⟨rfl, rfl, rfl, me ▸ hx, me ▸ hp, fun u hu => State.thr_modThr_other s f hu⟩

theorem onlyVectors_modCore (s : State) (k : Nat) (g : Core → Core) : OnlyVectors s (s.modCore k g) :=
  ⟨rfl, rfl, rfl, rfl, rfl, fun _ _ => rfl⟩

theorem eventCount_modCore (s : State) (k i : Nat) {g : Core → Core} (hg : (g (s.core k)).events = (s.core k).events) :
    (s.modCore k g).eventCount k i = s.eventCount k i := by
  rw [State.eventCount, State.core_modCore_same, hg]
  rfl

theorem eventCount_modThr (s : State) (u k i : Nat) (f : Thread → Thread) : (s.modThr u f).eventCount k i = s.eventCount k i := rfl

/-- An idle normaliser takes the call of a thread that runs (R91). -/
theorem startNorm_eq {s : State} (k : Nat) {j : NormJob} (due : Nat) (hj : j.t = s.cur) (alive : s.alive s.cur = true) :
    s.startNorm k j due =
      (s.modCore k fun c => { c with normCur := some (j, due) }).modThr s.cur fun th => { th with norm := true } := by
  rw [State.startNorm, hj]
  exact if_pos alive

/-- A busy normaliser takes it after the calls issued before (R91). -/
theorem waitNorm_eq {s : State} (k : Nat) {j : NormJob} (hj : j.t = s.cur) (sfu : j.sfu = none) :
    s.waitNorm k j =
      (s.modCore k fun c => { c with normQ := queueNorm j c.normQ }).modThr s.cur fun th => { th with norm := true } := by
  rw [State.waitNorm, hj, sfu]
  rfl

theorem startNorm_onlyVectors {s : State} {k : Nat} {j : NormJob} {due : Nat} (hj : j.t = s.cur) :
    OnlyVectors s (s.startNorm k j due) ∧ ∀ i, (s.startNorm k j due).eventCount k i = s.eventCount k i := by
  unfold State.startNorm
  dsimp only
  split
  · rw [hj]
    exact ⟨(onlyVectors_modCore ..).trans (onlyVectors_modThr rfl rfl), fun i => by rw [eventCount_modThr]; exact eventCount_modCore s k i rfl⟩
  · exact ⟨onlyVectors_modCore .., fun i => eventCount_modCore s k i rfl⟩

theorem callNorm_onlyVectors {s : State} {k : Nat} {j : NormJob} (hj : j.t = s.cur) (sfu : j.sfu = none) :
    OnlyVectors s (s.callNorm k j) ∧ ∀ i, (s.callNorm k j).eventCount k i = (s.countEvent k 2).eventCount k i := by
  have c := (countEvent_countsOnly s k 2).onlyVectors
  by_cases idle : (s.core k).normCur = none
  · rw [callNorm_idle j idle]
    obtain ⟨only, events⟩ := startNorm_onlyVectors (k := k) (due := s.cycle + 32) (s := s.countEvent k 2) hj
    exact ⟨c.trans only, events⟩
  · rw [callNorm_busy idle sfu, waitNorm_eq k (s := s.countEvent k 2) hj sfu]
    exact ⟨c.trans ((onlyVectors_modCore ..).trans (onlyVectors_modThr rfl rfl)), fun i => by rw [eventCount_modThr]; exact eventCount_modCore _ k i rfl⟩

theorem finishV_onlyVectors (s : State) (vd : Nat) (o : VOut) :
    OnlyVectors s (s.finishV vd o) ∧ ∀ i, (s.finishV vd o).eventCount s.myCore i =
      if i = 2 ∧ o.norm then min ((s.countResult o).eventCount s.myCore 2 + 1) 0xFFFFFFFF
      else (s.countResult o).eventCount s.myCore i := by
  have c := (countResult_countsOnly s o).onlyVectors
  cases h : o.norm with
  | false =>
    rw [finishV_plain s vd h]
    exact ⟨c.trans (onlyVectors_modThr rfl rfl), fun i => (if_neg fun g => Bool.noConfusion g.2).symm⟩
  | true =>
    rw [finishV_norm s vd h]
    obtain ⟨only, events⟩ := callNorm_onlyVectors (s := (s.countResult o).deferV vd) (k := s.myCore) (j := s.normJob vd o)
      (countResult_countsOnly s o).cur.symm rfl
    refine ⟨(c.trans (onlyVectors_modThr rfl rfl)).trans only, fun i => ?_⟩
    rw [events, eventCount_countEvent]
    simp only [and_true]
    rfl

/-- The state in which a result's call on the normaliser is counted and its destination is empty. -/
def State.calling (s : State) (vd : Nat) (o : VOut) : State := ((s.countResult o).deferV vd).countEvent s.myCore 2

theorem calling_cur (s : State) (vd : Nat) (o : VOut) : (s.calling vd o).cur = s.cur := (countResult_countsOnly s o).cur

theorem calling_me (s : State) (vd : Nat) (o : VOut) : (s.calling vd o).me = s.me.deferV vd := by
  have c := countResult_countsOnly s o
  have me : ((s.countResult o).deferV vd).me = (s.countResult o).me.deferV vd := State.thr_modThr_same ..
  rw [State.calling, (countEvent_countsOnly ..).me, me, c.me]

theorem calling_alive {s : State} (vd : Nat) (o : VOut) (h : s.alive s.cur = true) :
    (s.calling vd o).alive (s.calling vd o).cur = true := by
  have c := countResult_countsOnly s o
  have counted : (s.countResult o).alive (s.countResult o).cur = true := by
    rw [c.cur, State.alive, c.threads]
    exact h
  have deferred : ((s.countResult o).deferV vd).alive (s.countResult o).cur = true := by
    rw [State.deferV, State.alive_modThr _ _ _ _ counted]
    exact counted
  rw [calling_cur, ← c.cur, State.calling, State.alive, (countEvent_countsOnly ..).threads]
  exact deferred

theorem calling_core (s : State) (vd : Nat) (o : VOut) :
    ((s.calling vd o).core s.myCore).normCur = (s.core s.myCore).normCur ∧
      ((s.calling vd o).core s.myCore).normQ = (s.core s.myCore).normQ := by
  have c := countResult_countsOnly s o
  have d := countEvent_countsOnly ((s.countResult o).deferV vd) s.myCore 2
  exact ⟨d.normCur.trans c.normCur, d.normQ.trans c.normQ⟩

theorem finishV_idle {s : State} {vd : Nat} {o : VOut} (h : o.norm = true) (alive : s.alive s.cur = true)
    (idle : (s.core s.myCore).normCur = none) :
    s.finishV vd o = ((s.calling vd o).modCore s.myCore fun c => { c with normCur := some (s.normJob vd o, s.cycle + 32) }).modThr
      s.cur fun th => { th with norm := true } := by
  have c := countResult_countsOnly s o
  have idle' : (((s.countResult o).deferV vd).core s.myCore).normCur = none := c.normCur.trans idle
  have start := startNorm_eq (s := s.calling vd o) s.myCore (j := s.normJob vd o) (s.cycle + 32) (calling_cur s vd o).symm
    (calling_alive vd o alive)
  rw [calling_cur] at start
  rw [finishV_norm s vd h, callNorm_idle _ idle', ← start, ← c.cycle]
  rfl

theorem finishV_busy {s : State} {vd : Nat} {o : VOut} (h : o.norm = true) (busy : (s.core s.myCore).normCur ≠ none) :
    s.finishV vd o = ((s.calling vd o).modCore s.myCore fun c => { c with normQ := queueNorm (s.normJob vd o) c.normQ }).modThr
      s.cur fun th => { th with norm := true } := by
  have c := countResult_countsOnly s o
  have busy' : (((s.countResult o).deferV vd).core s.myCore).normCur ≠ none := fun hn => busy (c.normCur.symm.trans hn)
  have wait := waitNorm_eq (s := s.calling vd o) s.myCore (j := s.normJob vd o) (calling_cur s vd o).symm rfl
  rw [calling_cur] at wait
  rw [finishV_norm s vd h, callNorm_busy busy' rfl, ← wait]
  rfl

/-- The thread whose call stands is held, and its destination empty (R91). -/
theorem me_held (s : State) (vd : Nat) (o : VOut) (k : Nat) (g : Core → Core) :
    let th := (((s.calling vd o).modCore k g).modThr s.cur fun th => { th with norm := true }).me
    (th.getV vd).full = false ∧ (th.getV vd).pend = true ∧ th.norm = true := by
  have me : (((s.calling vd o).modCore k g).modThr (s.calling vd o).cur fun th => { th with norm := true }).me =
    { (s.calling vd o).me with norm := true } := State.thr_modThr_same ..
  rw [calling_cur, calling_me] at me
  have dest : ({ s.me.deferV vd with norm := true } : Thread).getV vd = { s.me.getV vd with full := false, pend := true } :=
    Table.get_set_same ..
  rw [me]
  exact ⟨congrArg Reg.full dest, congrArg Reg.pend dest, rfl⟩

/-- Settles O33. -/
theorem vectorResultsAreWritten : Obligations.VectorResultsAreWritten := by
  unfold Obligations.VectorResultsAreWritten
  intro s vd o
  have c := countResult_countsOnly s o
  have hme : (s.countResult o).me = s.me := c.me
  obtain ⟨only, events⟩ := finishV_onlyVectors s vd o
  obtain ⟨n0, n1, n3, n2⟩ := eventCount_countResult s o
  refine ⟨fun h => ?plain, fun h alive idle => ?idle, fun h busy older => ?busy, ?_, ?_, ?_, ?_, only.hbm, only.pad, only.x,
    only.p, only.others⟩
  case plain =>
    rw [finishV_plain s vd h]
    exact (State.thr_modThr_same ..).trans (congrArg (·.getsV vd o.val) hme)
  case idle =>
    rw [finishV_idle h alive idle]
    refine ⟨?_, me_held ..⟩
    rw [State.core_modThr]
    exact congrArg Core.normCur (State.core_modCore_same ..)
  case busy =>
    obtain ⟨cur, queue⟩ := calling_core s vd o
    rw [finishV_busy h busy]
    obtain ⟨full, -, norm⟩ := me_held s vd o s.myCore fun c => { c with normQ := queueNorm (s.normJob vd o) c.normQ }
    refine ⟨?_, ?_, full, norm⟩ <;> rw [State.core_modThr]
    · exact (congrArg Core.normCur (State.core_modCore_same ..)).trans cur
    · refine (congrArg Core.normQ (State.core_modCore_same ..)).trans ?_
      exact (congrArg (queueNorm _) queue).trans (queueNorm_last _ _ older)
  · exact (events 0).trans ((if_neg fun g => by cases g.1).trans n0)
  · exact (events 1).trans ((if_neg fun g => by cases g.1).trans n1)
  · exact (events 3).trans ((if_neg fun g => by cases g.1).trans n3)
  · exact (events 2).trans (by rw [n2]; simp only [true_and]; rfl)

end Sys2Proof.Machine
end

section
/-! PROOF. The sort unit, VMAXX and VQUANT (O40). -/

namespace Sys2Proof.Machine

/-! ### Rank order (R128) -/

theorem ranksBefore_iff (t : Ety) (a b : Nat) :
    ranksBefore t a b = true ↔
      keyRank t (b / 2 ^ (keyedWidth t / 2)) < keyRank t (a / 2 ^ (keyedWidth t / 2)) ∨
      keyRank t (a / 2 ^ (keyedWidth t / 2)) = keyRank t (b / 2 ^ (keyedWidth t / 2)) ∧
        a % 2 ^ (keyedWidth t / 2) < b % 2 ^ (keyedWidth t / 2) := by
  simp only [ranksBefore, Bool.or_eq_true, Bool.and_eq_true, decide_eq_true_eq]

theorem ranksBefore_asymm {t : Ety} {a b : Nat} (h : ranksBefore t a b = true) : ranksBefore t b a = false := by
  rw [← Bool.not_eq_true, ranksBefore_iff]
  rw [ranksBefore_iff] at h
  omega

/-- What does not rank before `b` does not rank before what ranks before `b`. -/
theorem ranksBefore_of_before {t : Ety} {a b c : Nat} (hc : ranksBefore t c b = false) (h : ranksBefore t a b = true) :
    ranksBefore t c a = false := by
  rw [← Bool.not_eq_true, ranksBefore_iff] at hc ⊢
  rw [ranksBefore_iff] at h
  omega

/-- In rank order: none ranks before one that stands ahead of it. -/
def Ranked (t : Ety) (xs : List Nat) : Prop := xs.Pairwise fun a b => ranksBefore t b a = false

theorem insertRanked_perm (t : Ety) (x : Nat) (xs : List Nat) : (insertRanked t x xs).Perm (x :: xs) := by
  induction xs with
  | nil => exact .refl _
  | cons y ys ih =>
    rw [insertRanked]
    split
    · exact .refl _
    · exact (ih.cons y).trans (.swap x y ys)

theorem insertRanked_ranked {t : Ety} (x : Nat) {xs : List Nat} (h : Ranked t xs) : Ranked t (insertRanked t x xs) := by
  induction xs with
  | nil => exact List.pairwise_singleton _ x
  | cons y ys ih =>
    obtain ⟨first, rest⟩ := List.pairwise_cons.1 h
    rw [insertRanked]
    split
    · next before =>
      refine List.pairwise_cons.2 ⟨fun z hz => ?_, h⟩
      rcases List.mem_cons.1 hz with rfl | hz
      · exact ranksBefore_asymm before
      · exact ranksBefore_of_before (first z hz) before
    · next behind =>
      refine List.pairwise_cons.2 ⟨fun z hz => ?_, ih rest⟩
      rcases List.mem_cons.1 ((insertRanked_perm t x ys).mem_iff.1 hz) with rfl | hz
      · exact Bool.not_eq_true _ ▸ behind
      · exact first z hz

theorem rankAll_spec (t : Ety) (xs : List Nat) : (rankAll t xs).Perm xs ∧ Ranked t (rankAll t xs) := by
  have go : ∀ acc, Ranked t acc → (xs.foldl (fun acc x => insertRanked t x acc) acc).Perm (xs ++ acc) ∧
      Ranked t (xs.foldl (fun acc x => insertRanked t x acc) acc) := by
    induction xs with
    | nil => exact fun acc h => ⟨.refl _, h⟩
    | cons x xs ih =>
      intro acc h
      obtain ⟨perm, ranked⟩ := ih _ (insertRanked_ranked x h)
      exact ⟨perm.trans (((insertRanked_perm t x acc).append_left xs).trans List.perm_middle), ranked⟩
  have all := go [] List.Pairwise.nil
  rw [List.append_nil] at all
  exact all

theorem filler_lt (t : Ety) : filler t < 2 ^ keyedWidth t := by cases t <;> decide

/-- Elements of a register with fillers behind them. -/
theorem vget_padded {w j e : Nat} {xs : List Nat} (hx : ∀ x ∈ xs, x < 2 ^ w) (he : e < 2 ^ w) (hj : j < 2048 / w) :
    vget (vectorOf w (xs ++ List.replicate (laneCount w - xs.length) e)) w j = xs.getD j e := by
  have hn : laneCount w = 2048 / w := rfl
  rw [vget_vectorOf _ hj]
  by_cases h : j < xs.length
  · rw [List.getD_append _ _ _ _ h, List.getD_eq_getElem _ _ h, List.getD_eq_getElem _ _ h]
    exact Nat.mod_eq_of_lt (hx _ (List.getElem_mem h))
  · rw [List.getD_append_right _ _ _ _ (Nat.le_of_not_lt h), List.getD_replicate _ (by omega), List.getD_eq_default _ _ (Nat.le_of_not_lt h)]
    exact Nat.mod_eq_of_lt he

/-! ### The sort unit (R105, R129, R132) -/

/-- An instruction of the sort unit takes it for `lat` cycles when it is idle, and waits while it is busy. -/
theorem sortOp_idle {s : State} {vs : List Nat} {pg vd lat : Nat} (h : Ready s { vs := vs, ps := [pg], dv := [vd] })
    (f : State → VWord) (idle : (s.core (s.me.sid / 16)).sort = none) :
    sortOp vs pg vd lat f s = .next ((s.after {} fun th => (th.deferV vd).past s.insnLen).modCore (s.me.sid / 16)
      fun c => { c with sort := some ⟨s.cycle + lat, s.cur, vd, f (s.take {})⟩ }) := by
  have idle' : ((s.take { vs := vs, ps := [pg], dv := [vd] }).core (s.take { vs := vs, ps := [pg], dv := [vd] }).myCore).sort = none := by
    rw [State.myCore_take]
    exact idle
  refine issue_setThr_modCore (f := fun th => (th.deferV vd).past s.insnLen) h ?_
  dsimp only
  rw [idle', State.myCore_take]
  have moves : ((s.take {}).deferV vd).advance = s.setThr s.cur ((({} : Needs).marks s.me |>.deferV vd).past s.insnLen) := by
    rw [State.deferV, State.take_eq, State.setThr_cur, State.setThr_modThr]
    exact State.setThr_modThr _ _ _ _
  exact congrArg (fun u : State => Verdict.go (u.modCore s.myCore fun c =>
    { c with sort := some ⟨s.cycle + lat, s.cur, vd, f (s.take {})⟩ })) moves

theorem sortOp_busy {s : State} {vs : List Nat} {pg vd lat : Nat} (h : Ready s { vs := vs, ps := [pg], dv := [vd] })
    (f : State → VWord) (busy : (s.core (s.me.sid / 16)).sort ≠ none) : sortOp vs pg vd lat f s = .next (s.parkOn .other) := by
  obtain ⟨job, hjob⟩ := Option.ne_none_iff_exists'.1 busy
  have busy' : ((s.take { vs := vs, ps := [pg], dv := [vd] }).core (s.take { vs := vs, ps := [pg], dv := [vd] }).myCore).sort = some job := by
    rw [State.myCore_take]
    exact hjob
  rw [sortOp, issue_ready h]
  dsimp only
  rw [busy']
  rfl

/-- What VTOPK leaves in vd: the active elements in rank order, and fillers (R129). -/
def topkResult (va pg : Nat) (t : Ety) (s : State) : VWord :=
  let xs := rankAll t ((activeLanes (s.rp pg) (keyedWidth t)).map (vget (s.rv va) (keyedWidth t)))
  vectorOf (keyedWidth t) (xs ++ List.replicate (laneCount (keyedWidth t) - xs.length) (filler t))

/-- What VHIST leaves in vd: each bin with the elements that name it (R132). -/
def histResult (vd va pg : Nat) (t : Ety) (s : State) : VWord :=
  let xs := (activeLanes (s.rp pg) t.width).map (vget (s.rv va) t.width)
  vectorOf t.width ((List.range (laneCount t.width)).map fun b =>
    min (vget (s.rv vd) t.width b + (xs.filter (· = b)).length) (2 ^ t.width - 1))

theorem execVtopk_eq (vd va pg : Nat) (t : Ety) (s : State) : execVtopk vd va pg t s = sortOp [va] pg vd 24 (topkResult va pg t) s := rfl

theorem execVhist_eq (vd va pg : Nat) (t : Ety) (s : State) :
    execVhist vd va pg t s = sortOp [va, vd] pg vd 16 (histResult vd va pg t) s := rfl

theorem topkResult_take (va pg : Nat) (t : Ety) (s : State) (n : Needs) : topkResult va pg t (s.take n) = topkResult va pg t s := by
  simp only [topkResult, State.rp_take, State.rv_take]

theorem histResult_take (vd va pg : Nat) (t : Ety) (s : State) (n : Needs) :
    histResult vd va pg t (s.take n) = histResult vd va pg t s := by
  simp only [histResult, State.rp_take, State.rv_take]

theorem topkResult_spec (va pg : Nat) (t : Ety) (s : State) :
    ∃ xs : List Nat, xs.Perm ((activeLanes (s.rp pg) (keyedWidth t)).map (vget (s.rv va) (keyedWidth t))) ∧ Ranked t xs ∧
      ∀ j, j < 2048 / keyedWidth t → vget (topkResult va pg t s) (keyedWidth t) j = xs.getD j (filler t) := by
  obtain ⟨perm, ranked⟩ := rankAll_spec t ((activeLanes (s.rp pg) (keyedWidth t)).map (vget (s.rv va) (keyedWidth t)))
  refine ⟨_, perm, ranked, fun j hj => vget_padded (fun x hx => ?_) (filler_lt t) hj⟩
  obtain ⟨i, -, rfl⟩ := List.mem_map.1 (perm.mem_iff.1 hx)
  exact vget_lt _ _ _

theorem histResult_bin (vd va pg : Nat) (t : Ety) (s : State) {j : Nat} (hj : j < 2048 / t.width) :
    vget (histResult vd va pg t s) t.width j = min (vget (s.rv vd) t.width j +
      ((activeLanes (s.rp pg) t.width).filter fun i => vget (s.rv va) t.width i = j).length) (2 ^ t.width - 1) := by
  have pos : 0 < 2 ^ t.width := Nat.two_pow_pos _
  rw [histResult, vget_vectorOf_range _ hj, List.filter_map, List.length_map]
  exact Nat.mod_eq_of_lt (Nat.lt_of_le_of_lt (Nat.min_le_right _ _) (Nat.sub_one_lt_of_lt pos))

/-! ### Bit planes (R96, R131) -/

theorem sum_packLanes (w n : Nat) {f : Nat → Nat} (hf : ∀ i, f i < 2 ^ w) :
    ((List.range n).map fun i => f i * 2 ^ (w * i)).sum = packLanes w ((List.range n).map f) := by
  induction n generalizing f with
  | zero => rfl
  | succ n ih =>
    have step : (List.range n).map ((fun i => f i * 2 ^ (w * i)) ∘ Nat.succ) =
        (List.range n).map fun i => 2 ^ w * (f (i + 1) * 2 ^ (w * i)) := by
      refine List.map_congr_left fun i _ => ?_
      simp only [Function.comp_apply, Nat.succ_eq_add_one, Nat.mul_add, Nat.mul_one, Nat.pow_add]
      ring
    rw [List.range_succ_eq_map, List.map_cons, List.map_cons, List.map_map, List.map_map, List.sum_cons, packLanes,
      Nat.mod_eq_of_lt (hf 0), Nat.mul_zero, Nat.pow_zero, Nat.mul_one, step, List.sum_map_mul_left]
    exact congrArg (f 0 + 2 ^ w * ·) (ih fun i => hf (i + 1))

theorem packLanes_lt (w : Nat) (xs : List Nat) : packLanes w xs < 2 ^ (w * xs.length) := by
  induction xs with
  | nil => exact Nat.one_pos
  | cons x xs ih =>
    have hx : x % 2 ^ w < 2 ^ w := Nat.mod_lt _ (Nat.two_pow_pos w)
    rw [packLanes, List.length_cons, Nat.mul_succ, Nat.pow_add, Nat.mul_comm (2 ^ (w * xs.length))]
    calc _ < 2 ^ w + 2 ^ w * packLanes w xs := Nat.add_lt_add_right hx _
      _ = 2 ^ w * (packLanes w xs + 1) := by ring
      _ ≤ _ := Nat.mul_le_mul_left _ ih

/-- Bit `i` of lane `j`. -/
theorem packLanes_testBit {w i : Nat} (xs : List Nat) (j : Nat) (hi : i < w) :
    (packLanes w xs).testBit (w * j + i) = (xs.getD j 0).testBit i := by
  have lane := congrArg (Nat.testBit · i) (packLanes_lane w xs j)
  simpa [Nat.testBit_mod_two_pow, Nat.testBit_div_two_pow, hi, Nat.add_comm] using lane

/-- Plane `b` of 48 bytes: bit 7 - b of each (R96). -/
def bitPlane (qs : List Nat) (b : Nat) : List Nat := (List.range 48).map fun i => qs.getD i 0 / 2 ^ (7 - b) % 2

theorem bpnRun_eq (qs : List Nat) : bpnRun qs = packLanes 48 ((List.range 8).map fun b => packLanes 1 (bitPlane qs b)) := by
  have plane (b : Nat) : ((List.range 48).map fun i => qs.getD i 0 / 2 ^ (7 - b) % 2 * 2 ^ i).sum = packLanes 1 (bitPlane qs b) := by
    have sum := sum_packLanes 1 48 (f := fun i => qs.getD i 0 / 2 ^ (7 - b) % 2) fun i => Nat.mod_lt _ Nat.two_pos
    simpa only [Nat.one_mul, bitPlane] using sum
  rw [bpnRun, ← sum_packLanes 48 8 fun b => ?small]
  · simp only [plane]
  case small => simpa only [bitPlane, List.length_map, List.length_range, Nat.one_mul] using packLanes_lt 1 (bitPlane qs b)

theorem bpnRun_lt (qs : List Nat) : bpnRun qs < 2 ^ (48 * 8) := by
  rw [bpnRun_eq]
  exact packLanes_lt 48 _

theorem bpnRun_testBit (qs : List Nat) {j b : Nat} (hj : j < 48) (hb : b < 8) :
    (bpnRun qs).testBit (48 * b + j) = decide (qs.getD j 0 / 2 ^ (7 - b) % 2 = 1) := by
  rw [bpnRun_eq, packLanes_testBit _ b hj, List.getD_eq_getElem?_getD, List.getElem?_map, List.getElem?_range hb]
  have bit := packLanes_testBit (w := 1) (bitPlane qs b) j Nat.one_pos
  rw [Nat.one_mul, Nat.add_zero] at bit
  refine Eq.trans bit ?_
  rw [bitPlane, List.getD_eq_getElem?_getD, List.getElem?_map, List.getElem?_range hj]
  simp [Nat.testBit_zero]

/-! ### VQUANT (R96, R131) -/

/-- The byte that VQUANT makes of element `j`, and whether it saturates. -/
def quantLane (s : State) (va vb pg j : Nat) : Int × Bool :=
  if laneOn (s.rp pg) 32 j then quantEl (vget (s.rv va) 32 j) (vget (s.rv vb) 8 0) else (0, false)

def quantBytes (s : State) (va vb pg : Nat) : List Nat := (List.range 48).map fun j => lowBits 8 (quantLane s va vb pg j).1

theorem quantBytes_length (s : State) (va vb pg : Nat) : (quantBytes s va vb pg).length = 48 := by
  rw [quantBytes, List.length_map, List.length_range]

theorem quantBytes_getD (s : State) (va vb pg : Nat) {j : Nat} (hj : j < 48) :
    (quantBytes s va vb pg).getD j 0 = lowBits 8 (quantLane s va vb pg j).1 := by
  rw [quantBytes, List.getD_eq_getElem?_getD, List.getElem?_map, List.getElem?_range hj]
  rfl

theorem quantByte_cast (s : State) (va vb pg j : Nat) :
    (lowBits 8 (quantLane s va vb pg j).1 : Int) =
      if (s.rp pg).getLsbD (j * 4) then (quantEl (vget (s.rv va) 32 j) (vget (s.rv vb) 8 0)).1 % 256 else 0 := by
  rw [lowBits_cast, quantLane, laneOn_eq]
  split <;> rfl

/-- What VQUANT finishes with: the bytes, or their bit planes. -/
def quantOut (s : State) (va vb pg : Nat) (t : Ety) : VOut :=
  { val := if t = .bpn then BitVec.ofNat 2048 (bpnRun (quantBytes s va vb pg)) else vectorOf 8 (quantBytes s va vb pg)
    csat := ((List.range 48).map (quantLane s va vb pg)).any (·.2) }

theorem vquant_ready {s : State} {vd va vb pg : Nat} (h : Ready s { vs := [va, vb], ps := [pg], dv := [vd] }) (t : Ety) :
    execVquant vd va vb pg t s = .next ((((s.take {}).finishV vd (quantOut s va vb pg t)).advance).issued) := by
  rw [execVquant, vectorOp_ready h]
  simp only [List.map_map, State.rp_take, State.rv_take]
  rfl

theorem getLsbD_ofNat_high {n b : Nat} (hn : n < 2 ^ (48 * 8)) (hb : 384 ≤ b) : (BitVec.ofNat 2048 n).getLsbD b = false := by
  have high : n.testBit b = false := Nat.testBit_lt_two_pow (Nat.lt_of_lt_of_le hn (Nat.pow_le_pow_right Nat.two_pos hb))
  rw [BitVec.getLsbD_ofNat, high, Bool.and_false]

theorem quantOut_high (s : State) (va vb pg : Nat) (t : Ety) {b : Nat} (hb : 384 ≤ b) :
    (quantOut s va vb pg t).val.getLsbD b = false := by
  rw [quantOut]
  dsimp only
  split
  · exact getLsbD_ofNat_high (bpnRun_lt _) hb
  · have small := packLanes_lt 8 (quantBytes s va vb pg)
    rw [quantBytes_length] at small
    exact getLsbD_ofNat_high small hb

theorem quantOut_byte (s : State) (va vb pg : Nat) {t : Ety} {j : Nat} (hj : j < 48) (ht : t ≠ .bpn) :
    vget (quantOut s va vb pg t).val 8 j = lowBits 8 (quantLane s va vb pg j).1 := by
  rw [quantOut, if_neg ht, vget_vectorOf _ (by omega), quantBytes_getD _ _ _ _ hj, lowBits_mod]

theorem quantOut_bit (s : State) (va vb pg : Nat) {j b : Nat} (hj : j < 48) (hb : b < 8) :
    (quantOut s va vb pg .bpn).val.getLsbD (48 * b + j) = decide (lowBits 8 (quantLane s va vb pg j).1 / 2 ^ (7 - b) % 2 = 1) := by
  have inside : 48 * b + j < 2048 := by omega
  rw [quantOut, if_pos rfl, BitVec.getLsbD_ofNat, decide_eq_true inside, Bool.true_and, bpnRun_testBit _ hj hb,
    quantBytes_getD _ _ _ _ hj]

/-! ### VMAXX (R130) -/

theorem vmaxx_ready {s : State} {vd va vb : Nat} (h : Ready s { vs := [va, vb], dv := [vd] }) (t : Ety) :
    GivesLanes s { vs := [va, vb], dv := [vd] } vd (keyedWidth t) (execVmaxx vd va vb t s) fun j =>
      if ranksBefore t (vget (s.rv vb) (keyedWidth t) (2048 / keyedWidth t - 1 - j)) (vget (s.rv va) (keyedWidth t) j)
      then vget (s.rv vb) (keyedWidth t) (2048 / keyedWidth t - 1 - j) else vget (s.rv va) (keyedWidth t) j := by
  refine vectorOp_givesLanes h rfl fun j hj => ?_
  rw [vget_vectorOf_range _ hj]
  simp only [State.rv_take]
  rw [apply_ite (· % 2 ^ keyedWidth t), vget_mod, vget_mod]
  rfl

/-- Settles O40. -/
theorem sortAndQuantise : Obligations.SortAndQuantise := by
  unfold Obligations.SortAndQuantise
  intro s vd va vb pg t
  rw [exec_vtopk, exec_vhist, execVtopk_eq, execVhist_eq]
  refine ⟨fun h => ⟨fun idle => ?topk, sortOp_busy h _⟩, fun h => ⟨fun idle => ?hist, sortOp_busy h _⟩, fun h => vmaxx_ready h t,
    fun h => ⟨quantOut s va vb pg t, vquant_ready h t, rfl, fun j hj ht => ?byte, fun j b hj hb ht => ?bit,
      fun b hb => quantOut_high s va vb pg t hb⟩⟩
  case topk =>
    obtain ⟨xs, perm, ranked, lanes⟩ := topkResult_spec va pg t s
    rw [activeLanes_eq] at perm
    have starts := sortOp_idle (lat := 24) h (topkResult va pg t) idle
    rw [topkResult_take] at starts
    exact ⟨topkResult va pg t s, xs, starts, perm, ranked, lanes⟩
  case hist =>
    have starts := sortOp_idle (lat := 16) h (histResult vd va pg t) idle
    rw [histResult_take] at starts
    refine ⟨histResult vd va pg t s, starts, fun j hj => ?_⟩
    rw [histResult_bin _ _ _ _ _ hj, activeLanes_eq]
  case byte => exact (congrArg _ (quantOut_byte s va vb pg hj ht)).trans (quantByte_cast ..)
  case bit =>
    subst ht
    refine (quantOut_bit s va vb pg hj hb).trans (decide_eq_decide.2 ?_)
    beta_reduce
    rw [← quantByte_cast]
    norm_cast

end Sys2Proof.Machine
end

section
/-! PROOF. The trap queue receives the oldest record (O27). -/

namespace Sys2Proof.Machine

theorem Memory.writeBytes_append (m : List Host.Cell) (a : Nat) (xs ys : List Byte) :
    Memory.writeBytes m a (xs ++ ys) = Memory.writeBytes (Memory.writeBytes m a xs) (a + xs.length) ys := by
  induction xs generalizing m a with
  | nil => rfl
  | cons x xs ih =>
    rw [List.cons_append, Memory.writeBytes, Memory.writeBytes, ih, List.length_cons, Nat.add_right_comm, Nat.add_assoc]

/-- A scratchpad write changes the memory of scratchpads, and the bookkeeping of errors. -/
theorem WroteMemory.writePad {s t : State} (h : WroteMemory s t) (c : Ctx) (core off : Nat) (bs : List Byte) :
    WroteMemory s (t.writePad c core off bs) ∧ (t.writePad c core off bs).hbm = t.hbm ∧
      (t.writePad c core off bs).pad = Memory.writeBytes t.pad (core * 262144 + off) bs := by
  obtain ⟨hb, -, -, pad⟩ := (t.writePad_around c core off bs).memories
  obtain ⟨_, _, _, _, _, _, _, _, _, _, _, _, _, rfl⟩ := h
  exact ⟨WroteMemory.of_around ⟨_, _, _, _, _, _, _, _, _, _, _, _, _, rfl⟩ (State.writePad_around _ c core off bs), hb, pad⟩

/-- The scratchpads with a record in an entry of the trap queue (R292). -/
def recordPad (m : List Host.Cell) (a : Nat) (w0 w1 w2 w3 : Nat) : List Host.Cell :=
  Memory.writeBytes (Memory.writeBytes m (a + 8) (leBytes 8 w1 ++ leBytes 8 w2 ++ leBytes 8 w3)) a (leBytes 8 w0)

theorem read_recordPad (m : List Host.Cell) (a w0 w1 w2 w3 j : Nat) :
    Memory.read (recordPad m a w0 w1 w2 w3) j =
      if a ≤ j ∧ j < a + 8 then BitVec.ofNat 8 (w0 / 256 ^ (j - a))
      else if a + 8 ≤ j ∧ j < a + 16 then BitVec.ofNat 8 (w1 / 256 ^ (j - (a + 8)))
      else if a + 16 ≤ j ∧ j < a + 24 then BitVec.ofNat 8 (w2 / 256 ^ (j - (a + 16)))
      else if a + 24 ≤ j ∧ j < a + 32 then BitVec.ofNat 8 (w3 / 256 ^ (j - (a + 24)))
      else Memory.read m j := by
  rw [recordPad, Memory.writeBytes_append, Memory.writeBytes_append, List.length_append, leBytes_length, leBytes_length]
  simp only [Memory.read_writeLe, Nat.add_assoc]
  norm_num only
  by_cases h1 : a + 8 ≤ j ∧ j < a + 16
  · have : ¬ (a + 24 ≤ j ∧ j < a + 32) := by omega
    have : ¬ (a + 16 ≤ j ∧ j < a + 24) := by omega
    simp only [*, if_false]
  · by_cases h2 : a + 16 ≤ j ∧ j < a + 24
    · have : ¬ (a + 24 ≤ j ∧ j < a + 32) := by omega
      simp only [*, if_false]
    · simp only [h1, h2, if_false]

/-- Word 0 of a record, with SEQ in bits 63-40 (R292). -/
def numbered (n : Nat) (w0 : Word) : Word := BitVec.ofNat 64 (n % 2 ^ 24 * 2 ^ 40 + w0.toNat % 2 ^ 40)

theorem numbered_toNat (n : Nat) (w0 : Word) : (numbered n w0).toNat = n % 2 ^ 24 * 2 ^ 40 + w0.toNat % 2 ^ 40 :=
  (BitVec.toNat_ofNat _ _).trans (Nat.mod_eq_of_lt (by omega))

/-- The state after the oldest record's bytes are written. -/
def State.withRecord (s : State) (core off : Nat) (w0 w1 w2 w3 : Word) : State :=
  let cx : Ctx := ⟨core, 0, 0, core % 8 * 16⟩
  (s.writePad cx core (off + 8) (leBytes 8 w1.toNat ++ leBytes 8 w2.toNat ++ leBytes 8 w3.toNat)).writePad cx core off
    (leBytes 8 w0.toNat)

theorem withRecord_spec (s : State) (core off : Nat) (w0 w1 w2 w3 : Word) :
    WroteMemory s (s.withRecord core off w0 w1 w2 w3) ∧ (s.withRecord core off w0 w1 w2 w3).hbm = s.hbm ∧
      (s.withRecord core off w0 w1 w2 w3).pad = recordPad s.pad (core * 262144 + off) w0.toNat w1.toNat w2.toNat w3.toNat := by
  obtain ⟨wrote, hbm, pad⟩ := (WroteMemory.refl s).writePad ⟨core, 0, 0, core % 8 * 16⟩ core (off + 8)
    (leBytes 8 w1.toNat ++ leBytes 8 w2.toNat ++ leBytes 8 w3.toNat)
  obtain ⟨wrote', hbm', pad'⟩ := wrote.writePad ⟨core, 0, 0, core % 8 * 16⟩ core off (leBytes 8 w0.toNat)
  unfold State.withRecord recordPad
  dsimp only
  rw [hbm', hbm, pad', pad, ← Nat.add_assoc]
  exact ⟨wrote', rfl, rfl⟩

/-- The core once its oldest record is written. -/
def Core.pastRecord (rest : List (List Word)) (c : Core) : Core := { c with records := rest, tqcnt := c.tqcnt + 1 }

def Thread.latched (th : Thread) : Thread := { th with latch := true }

/-- The state in which the record has left the queue: its word is full, the count is up, and the root slot's latch is set. -/
def State.recordTaken (s : State) (core off : Nat) (rest : List (List Word)) : State :=
  ((s.setPadFull core off true none).modCore core (Core.pastRecord rest)).modThr core Thread.latched

theorem trapRecordWrite_eq {s : State} {core : Nat} {w0 w1 w2 w3 : Word} {rest : List (List Word)}
    (hr : (s.core core).records = [w0, w1, w2, w3] :: rest) (ready : s.recordReady core = true) :
    let off := (s.core core).tqbase.toNat % 262144 + (s.core core).tqcnt % 64 * 32
    let w0' := numbered (s.core core).tqcnt w0
    exec (.trapRecordWrite core) s =
      .next ((((s.withRecord core off w0' w1 w2 w3).recordTaken core off rest).numberRecord core [w0, w1, w2, w3]
        [w0', w1, w2, w3]).settle) := by
  intro off w0'
  show execTrapRecordWrite core s = _
  unfold execTrapRecordWrite
  dsimp only
  rw [hr]
  dsimp only
  rw [ready]
  have low : bits w0 39 0 = w0.toNat % 2 ^ 40 := congrArg (· % 2 ^ 40) (Nat.div_one _)
  simp only [Bool.not_true, Bool.false_eq_true, if_false, List.getD_cons_zero, List.getD_cons_succ, low]
  rfl

/-- The record of the frozen thread gets the number; nothing else of a thread changes (R291). -/
theorem numberRecord_thr (s : State) (core : Nat) (old new : List Word) (u : Nat) :
    (s.numberRecord core old new).thr u = s.thr u ∨
      (s.numberRecord core old new).thr u = { s.thr u with record := some new } := by
  unfold State.numberRecord
  split
  · next t _ =>
    split
    · by_cases hu : u = t
      · subst hu
        exact .inr (State.thr_modThr_same ..)
      · exact .inl (State.thr_modThr_other _ _ hu)
    · exact .inl rfl
  · exact .inl rfl

theorem numberRecord_record {s : State} {core u : Nat} {old new : List Word}
    (hu : s.slotThread (core * 16 + bits (old.getD 0 0) 7 4) = some u) (h : (s.thr u).record = some old) :
    ((s.numberRecord core old new).thr u).record = some new := by
  unfold State.numberRecord
  rw [hu]
  dsimp only
  rw [if_pos h, State.thr_modThr_same]

/-- It writes threads alone, and at most the one that holds the record. -/
theorem numberRecord_threads (s : State) (core : Nat) (old new : List Word) :
    s.numberRecord core old new = s ∨
      ∃ t, s.numberRecord core old new = s.modThr t fun th => { th with record := some new } := by
  unfold State.numberRecord
  split
  · next t _ =>
    split
    · exact .inr ⟨t, rfl⟩
    · exact .inl rfl
  · exact .inl rfl

theorem numberRecord_frame (s : State) (core : Nat) (old new : List Word) :
    (s.numberRecord core old new).pad = s.pad ∧ (s.numberRecord core old new).hbm = s.hbm ∧
      (s.numberRecord core old new).padWords = s.padWords ∧ (s.numberRecord core old new).cores = s.cores := by
  rcases numberRecord_threads s core old new with h | ⟨t, h⟩ <;> rw [h] <;> exact ⟨rfl, rfl, rfl, rfl⟩

theorem numberRecord_settle {s : State} (q : Quiet s) (core : Nat) (old new : List Word) :
    (s.numberRecord core old new).settle = s.numberRecord core old new := by
  rcases numberRecord_threads s core old new with h | ⟨t, h⟩ <;> rw [h]
  · exact State.settle_quiet s q.banks q.held
  · exact State.settle_modThr q t _ (q.heldOps t)

theorem recordTaken_record (s : State) (core off : Nat) (rest : List (List Word)) (u : Nat) :
    ((s.recordTaken core off rest).thr u).record = (s.thr u).record := by
  rw [State.recordTaken]
  by_cases hu : u = core
  · rw [hu, State.thr_modThr_same]
    rfl
  · rw [State.thr_modThr_other _ _ hu]
    rfl

theorem recordTaken_spec (s : State) (core off : Nat) (rest : List (List Word)) :
    let t := s.recordTaken core off rest
    t.pad = s.pad ∧ t.hbm = s.hbm ∧ t.slots = s.slots ∧ (t.padWord core off).full = true ∧
      t.core core = (s.core core).pastRecord rest ∧ (t.thr core).latch = true :=
  ⟨rfl, rfl, rfl, congrArg PadWord.full (Table.get_set_same ..), State.core_modCore_same ..,
    congrArg Thread.latch (State.thr_modThr_same _ core Thread.latched)⟩

theorem recordTaken_quiet {s : State} (q : Quiet s) (core off : Nat) (rest : List (List Word)) :
    Quiet (s.recordTaken core off rest) := by
  have q' : Quiet ((s.setPadFull core off true none).modCore core (Core.pastRecord rest)) := ⟨q.banks, q.held, q.acq⟩
  exact q'.setThr core (q.heldOps core) (q.acq core)

theorem WroteMemory.same {s t : State} (h : WroteMemory s t) :
    t.threads = s.threads ∧ t.banks = s.banks ∧ t.slots = s.slots ∧ t.cores = s.cores := by
  obtain ⟨_, _, _, _, _, _, _, _, _, _, _, _, _, rfl⟩ := h
  exact ⟨rfl, rfl, rfl, rfl⟩

theorem Quiet.of_same {s t : State} (q : Quiet s) (ht : t.threads = s.threads) (hb : t.banks = s.banks) : Quiet t := by
  refine ⟨hb ▸ q.banks, ht ▸ q.held, fun u => ?_⟩
  rw [State.thr, ht]
  exact q.acq u

theorem recordReady_of {s : State} {core : Nat} {rec : List Word} {rest : List (List Word)}
    (hr : (s.core core).records = rec :: rest) (base : (s.core core).tqbase ≠ 0)
    (empty : (s.padWord core ((s.core core).tqbase.toNat % 262144 + (s.core core).tqcnt % 64 * 32)).full = false)
    (room : (s.core core).tqcnt < 64 ∨ (s.core core).tqcnt ≤ (s.core core).tqtaken + 62) : s.recordReady core = true := by
  have empty' : (s.padWord core (tqOffset (s.core core).tqbase.toNat (s.core core).tqcnt 0)).full = false := empty
  unfold State.recordReady
  simp only [hr, empty', List.isEmpty_cons, Bool.not_false, Bool.true_and, Bool.and_eq_true, decide_eq_true_eq, Bool.not_eq_true',
    Bool.and_eq_false_iff, decide_eq_false_iff_not]
  exact ⟨⟨base, trivial⟩, by omega⟩

/-- Settles O27. -/
theorem trapRecordWritten : Obligations.TrapRecordWritten := by
  unfold Obligations.TrapRecordWritten
  intro s core w0 w1 w2 w3 rest q c off at0 hr base empty room
  have run : exec (.trapRecordWrite core) s = .next ((((s.withRecord core off (numbered c.tqcnt w0) w1 w2 w3).recordTaken core off
      rest).numberRecord core [w0, w1, w2, w3] [numbered c.tqcnt w0, w1, w2, w3]).settle) :=
    trapRecordWrite_eq hr (recordReady_of hr base empty room)
  obtain ⟨wrote, hbm, pad⟩ := withRecord_spec s core off (numbered c.tqcnt w0) w1 w2 w3
  generalize s.withRecord core off (numbered c.tqcnt w0) w1 w2 w3 = w at *
  obtain ⟨threads, banks, slots, cores⟩ := wrote.same
  have quiet := recordTaken_quiet (q.of_same threads banks) core off rest
  obtain ⟨pad', hbm', slots', full, kept, latch⟩ := recordTaken_spec w core off rest
  obtain ⟨padN, hbmN, wordsN, coresN⟩ := numberRecord_frame (w.recordTaken core off rest) core [w0, w1, w2, w3]
    [numbered c.tqcnt w0, w1, w2, w3]
  have core' : ((w.recordTaken core off rest).numberRecord core [w0, w1, w2, w3] [numbered c.tqcnt w0, w1, w2, w3]).core core =
      c.pastRecord rest := by
    rw [State.core, coresN]
    refine Eq.trans kept ?_
    rw [State.core, cores]
    rfl
  refine ⟨_, run.trans (congrArg _ (numberRecord_settle quiet ..)), fun j => ?_, ?_, congrArg Core.records core',
    congrArg Core.tqcnt core', ?_, hbmN.trans (hbm'.trans hbm), fun u hu hrec => ?_⟩
  · rw [padN, pad', pad, read_recordPad, numbered_toNat]
  · rw [State.padWord, wordsN]
    exact full
  · rcases numberRecord_thr (w.recordTaken core off rest) core [w0, w1, w2, w3] [numbered c.tqcnt w0, w1, w2, w3] core with h | h
      <;> rw [h] <;> exact latch
  · refine numberRecord_record ?_ ?_
    · rw [State.slotThread, slots', slots]
      exact hu
    · rw [recordTaken_record, State.thr, threads]
      exact hrec

end Sys2Proof.Machine
end

section
/-! PROOF. Vector loads and stores, and VSPLAT (O36). -/

namespace Sys2Proof.Machine

/-- The addresses of the active elements (R112-R114). -/
def laneEas (s : State) (pg w : Nat) (ea : Nat → Word) : List (Nat × Word) :=
  ((List.range (2048 / w)).filter fun j => (s.rp pg).getLsbD (j * (w / 8))).map fun j => (j, ea j)

theorem withEls_ready {s : State} {n : Needs} (h : Ready s n) {u : Use} {wr : Bool} {b : Nat} {eas : State → List (Nat × Word)}
    {op : State → List (Nat × Place × Nat × Option Leaf) → MemOp}
    {f : State → List (Nat × Place × Nat × Option Leaf) → List Nat → State} {els : List (Nat × Place × Nat × Option Leaf)}
    {ks : List Nat} (ht : (s.take n).elTargets u wr b (eas (s.take n)) = .ok els ks) :
    ((s.take n).mustWait (op (s.take n) els) ks = false →
      issue n (fun s => withEls s u wr b (eas s) fun els ks => accessing s (op s els) ks (f s els ks)) s =
        .next (f (s.take n) els ks).issued) ∧
    ((s.take n).mustWait (op (s.take n) els) ks = true →
      issue n (fun s => withEls s u wr b (eas s) fun els ks => accessing s (op s els) ks (f s els ks)) s =
        .next (s.parkOn .other)) := by
  rw [issue_ready h]
  simp only [withEls, ht, accessing]
  constructor <;> intro hw <;> rw [hw] <;> rfl

/-- A vector load issues when every active element has a target (R112). -/
theorem vload_ready {s : State} {vd pg : Nat} {vs : List Nat} {xs : Src} {z : Bool} {sz : ESize} {ea : State → Nat → Word}
    (h : Ready s { src := [xs], vs := vsrc z vd vs, ps := [pg], dv := [vd] }) (take : ∀ n, ea (s.take n) = ea s)
    (els : List (Nat × Place × Nat × Option Leaf)) (ks : List Nat) :
    let u := s.take { src := [xs], vs := vsrc z vd vs, ps := [pg], dv := [vd] }
    let m := MemOp.vload vd (ESize.bits sz) (if z then 0 else s.rv vd) (els.map fun e => (e.1, e.2.1))
    u.elTargets .read false (ESize.bits sz / 8) (laneEas s pg (ESize.bits sz) (ea s)) = .ok els ks →
    (u.mustWait m ks = false → vload vd vs xs pg sz z ea s =
      .next (((((u.deferV vd).submit s.cur m ks).countEls s.me.ctx els).advance).issued)) ∧
    (u.mustWait m ks = true → vload vd vs xs pg sz z ea s = .next (s.parkOn .other)) := by
  intro u m ht
  have eas : (activeLanes (u.rp pg) (ESize.bits sz)).map (fun i => (i, ea u i)) = laneEas s pg (ESize.bits sz) (ea s) := by
    rw [activeLanes_eq, take, State.rp_take]
    rfl
  have base : loadBase u vd z = if z then 0 else s.rv vd := by rw [loadBase, State.rv_take]
  have ctx : u.me.ctx = s.me.ctx := by rw [State.me_take, Needs.marks_ctx]
  have := withEls_ready (eas := fun s => (activeLanes (s.rp pg) (ESize.bits sz)).map fun i => (i, ea s i))
    (op := fun s els => .vload vd (ESize.bits sz) (loadBase s vd z) (els.map fun e => (e.1, e.2.1)))
    (f := fun s els ks => (((s.deferV vd).submit s.cur (.vload vd (ESize.bits sz) (loadBase s vd z) (els.map fun e => (e.1, e.2.1)))
      ks).countEls s.me.ctx els).advance) h (eas ▸ ht)
  rw [base, ctx] at this
  exact this

theorem vstore_ready {s : State} {vd pg : Nat} {vs : List Nat} {xs : Src} {sz : ESize} {ea : State → Nat → Word}
    (h : Ready s { src := [xs], vs := vd :: vs, ps := [pg] }) (take : ∀ n, ea (s.take n) = ea s)
    (els : List (Nat × Place × Nat × Option Leaf)) (ks : List Nat) :
    let u := s.take { src := [xs], vs := vd :: vs, ps := [pg] }
    let m := MemOp.vstore (ESize.bits sz) (els.map fun e => (e.2.1, vget (s.rv vd) (ESize.bits sz) e.1))
    u.elTargets .write true (ESize.bits sz / 8) (laneEas s pg (ESize.bits sz) (ea s)) = .ok els ks →
    (u.mustWait m ks = false → vstore vd vs xs pg sz ea s =
      .next ((((u.submit s.cur m ks).countEls s.me.ctx els).advance).issued)) ∧
    (u.mustWait m ks = true → vstore vd vs xs pg sz ea s = .next (s.parkOn .other)) := by
  intro u m ht
  have eas : (activeLanes (u.rp pg) (ESize.bits sz)).map (fun i => (i, ea u i)) = laneEas s pg (ESize.bits sz) (ea s) := by
    rw [activeLanes_eq, take, State.rp_take]
    rfl
  have ctx : u.me.ctx = s.me.ctx := by rw [State.me_take, Needs.marks_ctx]
  have old : u.rv vd = s.rv vd := State.rv_take ..
  have := withEls_ready (eas := fun s => (activeLanes (s.rp pg) (ESize.bits sz)).map fun i => (i, ea s i))
    (op := fun s els => .vstore (ESize.bits sz) (els.map fun e => (e.2.1, vget (s.rv vd) (ESize.bits sz) e.1)))
    (f := fun s els ks => ((s.submit s.cur (.vstore (ESize.bits sz) (els.map fun e => (e.2.1, vget (s.rv vd) (ESize.bits sz) e.1)))
      ks).countEls s.me.ctx els).advance) h (eas ▸ ht)
  rw [old, ctx] at this
  exact this

theorem eaUnit_take (xs : Src) (sz : ESize) (s : State) (n : Needs) : eaUnit xs sz (s.take n) = eaUnit xs sz s := by
  funext i
  rw [eaUnit, eaUnit, State.rx_take]

theorem eaIndexed_take (xs : Src) (va : Nat) (sz : ESize) (s : State) (n : Needs) :
    eaIndexed xs va sz (s.take n) = eaIndexed xs va sz s := by
  funext i
  rw [eaIndexed, eaIndexed, State.rx_take, State.rv_take]

/-- VSPLAT (R115). -/
theorem vsplat_ready {s : State} {vd pg : Nat} {xs : Src} {z : Bool} {sz : ESize}
    (h : Ready s { src := [xs], vs := vsrc z vd [], ps := [pg], dv := [vd] }) :
    GivesLanes s { src := [xs], vs := vsrc z vd [], ps := [pg], dv := [vd] } vd (ESize.bits sz) (execVsplat vd xs pg sz z s) fun j =>
      if (s.rp pg).getLsbD (j * (ESize.bits sz / 8)) then (s.rx xs).toNat % 2 ^ ESize.bits sz
      else if z then 0 else vget (s.rv vd) (ESize.bits sz) j := by
  refine vectorOp_givesLanes h rfl fun j hj => ?_
  rw [vget_mergeLanes _ _ _ _ hj, State.rp_take, State.rv_take, State.rx_take]

/-- Settles O36. -/
theorem vectorMemoryIssues : Obligations.VectorMemoryIssues := by
  unfold Obligations.VectorMemoryIssues
  intro s vd va xs pg sz z
  exact ⟨fun h els ks => vload_ready h (eaUnit_take _ _ s) els ks, fun h els ks => vstore_ready h (eaUnit_take _ _ s) els ks,
    fun h els ks ht => vload_ready h (eaIndexed_take _ _ _ s) els ks ht, fun h els ks ht => vstore_ready h (eaIndexed_take _ _ _ s) els ks ht,
    fun h => vsplat_ready h⟩

end Sys2Proof.Machine
end

section
/-! PROOF. CRD and CWR (O28). -/

namespace Sys2Proof.Machine

theorem State.advance_wx_take (s : State) (n : Needs) (rd : Nat) (v : Word) :
    ((s.take n).wx rd v).advance = s.setThr s.cur (((n.marks s.me).gets rd v).past s.insnLen) := by
  rw [State.wx, State.take_eq, State.setThr_cur, State.setThr_modThr]
  exact State.setThr_modThr _ _ _ _

theorem State.isRoot_take (s : State) (n : Needs) : (s.take n).me.isRoot = s.me.isRoot := by
  rw [State.me_take, Needs.marks_isRoot]

/-! ### CRD (R40, R296) -/

/-- A CRD that is ready traps, or answers the register. -/
theorem crd_ready {s : State} {rd : Nat} {a : Src} (h : Ready s { src := [a], dx := [rd] }) :
    let n : Needs := { src := [a], dx := [rd] }
    exec (.crd rd a) s =
      if ctlListed (s.rx a).toNat = false then .next (s.takeTrap 1 0 0)
      else if s.me.isRoot = false ∧ ctlUserReads (s.rx a).toNat = false then .next (s.takeTrap 2 0 0)
      else .next (s.after n fun th => (th.gets rd ((s.take n).readCtl (s.take n).me (s.rx a).toNat)).past s.insnLen) := by
  intro n
  show execCrd rd a s = _
  have answers : Verdict.close (.go ((s.take n).wx rd ((s.take n).readCtl (s.take n).me (s.rx a).toNat)).advance) s =
      .next (s.after n fun th => (th.gets rd ((s.take n).readCtl (s.take n).me (s.rx a).toNat)).past s.insnLen) := by
    rw [State.advance_wx_take]
    exact congrArg Host.Outcome.next (State.issued_setThr s _ h.alive)
  rw [execCrd, issue_ready h, withCtl, State.rx_take, State.isRoot_take, ← answers]
  cases ctlListed (s.rx a).toNat <;> cases s.me.isRoot <;> cases ctlUserReads (s.rx a).toNat <;> rfl

theorem ctl_event (i : Nat) (hi : i < 16) : ctlListed (0x10 + i) = true ∧ ctlUserReads (0x10 + i) = true := by
  unfold ctlListed ctlUserReads between
  simp
  omega

theorem readCtl_event (s : State) (th : Thread) {i : Nat} (hi : i < 16) :
    s.readCtl th (0x10 + i) = BitVec.ofNat 64 (Table.get (s.core (th.sid / 16)).events i 0) := by
  rw [State.readCtl, if_pos (show 0x10 + i < 0x400 by omega)]
  unfold State.readCore
  rw [if_neg (show ¬ 0x10 + i = 0 by omega),
    if_neg (show ¬ 0x10 + i = 1 by omega), if_neg (show ¬ 0x10 + i = 2 by omega), if_neg (show ¬ 0x10 + i = 3 by omega),
    if_pos (show 0x10 + i < 0x020 by omega), Nat.add_sub_cancel_left]
  rfl

/-! ### CWR (R40, R296) -/

theorem cwr_ready {s : State} {a b : Src} (h : Ready s { src := [a, b] }) :
    let n : Needs := { src := [a, b] }
    exec (.cwr a b) s =
      if ctlListed (s.rx a).toNat = false then .next (s.takeTrap 1 0 0)
      else if s.me.isRoot then .next ((((s.take n).writeCtl (s.me.sid / 16) (s.rx a).toNat (s.rx b)).advance).issued)
      else if (s.rx a).toNat = 0 then .next (s.after n fun th =>
        { th.past s.insnLen with wlim := BitVec.ofNat 16 ((s.rx b).toNat / 2 ^ 32) })
      else .next (s.takeTrap 2 0 0) := by
  intro n
  show execCwr a b s = _
  rw [execCwr, issue_ready h, withCtl, State.rx_take, State.rx_take, State.isRoot_take, State.myCore_take]
  have wlim : Verdict.close (.go ((s.take n).modThr (s.take n).cur fun th =>
      { th with wlim := BitVec.ofNat 16 (bits (s.rx b) 47 32) }).advance) s = .next (s.after n fun th =>
        { th.past s.insnLen with wlim := BitVec.ofNat 16 ((s.rx b).toNat / 2 ^ 32) }) := by
    have low : BitVec.ofNat 16 (bits (s.rx b) 47 32) = BitVec.ofNat 16 ((s.rx b).toNat / 2 ^ 32) :=
      BitVec.eq_of_toNat_eq (Nat.mod_mod _ _)
    rw [low, State.take_eq, State.setThr_cur, State.setThr_modThr]
    refine congrArg Host.Outcome.next (Eq.trans ?_ (State.issued_setThr s _ h.alive))
    exact congrArg State.issued (State.setThr_modThr _ _ _ _)
  cases ctlListed (s.rx a).toNat with
  | false => rfl
  | true =>
    cases s.me.isRoot with
    | true => rfl
    | false =>
      by_cases user : (s.rx a).toNat = 0
      · rw [user]
        exact wlim
      · simp only [user, decide_false]
        rfl

/-- CWR of an event counter: 0 clears it, and any other value is ignored (R100). -/
theorem writeCtl_event (s : State) (core : Nat) {i : Nat} (v : Word) (hi : i < 16) :
    s.writeCtl core (0x10 + i) v = if v = 0 then s.modCore core fun c => { c with events := Table.erase c.events i } else s := by
  have row : between 0x010 0x01F (0x10 + i) = true := by
    simp only [between, Bool.and_eq_true, decide_eq_true_eq]
    omega
  unfold State.writeCtl
  rw [if_pos (show 0x10 + i < 0x400 by omega)]
  unfold State.writeCore
  rw [if_neg (show ¬ 0x10 + i = 0 by omega), if_pos row, Nat.add_sub_cancel_left]
  rfl

theorem bits_low (v : Word) : bits v 3 0 = v.toNat % 16 := congrArg (· % 2 ^ 4) (Nat.div_one _)

/-- Settles O28. -/
theorem controlRegisters : Obligations.ControlRegisters := by
  unfold Obligations.ControlRegisters
  refine ⟨fun s rd a h => ?read, fun s a b h => ?write⟩
  case read =>
    intro n sel c answers
    have run := crd_ready h
    have get (hl : ctlListed sel = true) (hu : s.me.isRoot = true ∨ ctlUserReads sel = true) :
        answers ((s.take n).readCtl (s.take n).me sel) := by
      refine run.trans ((if_neg (by rw [hl]; exact Bool.noConfusion)).trans (if_neg fun g => ?_))
      rcases hu with hu | hu
      · exact Bool.noConfusion (hu.symm.trans g.1)
      · exact Bool.noConfusion (hu.symm.trans g.2)
    have fixed (k : Nat) (hl : ctlListed k = true) (hu : s.me.isRoot = true ∨ ctlUserReads k = true) {v : Word}
        (hv : (s.take n).readCtl (s.take n).me k = v) (hk : sel = k) : answers v := by
      rw [← hv, ← hk]
      rw [← hk] at hl hu
      exact get hl hu
    have me : (s.take n).me = n.marks s.me := State.me_take s n
    have core : (s.take n).core (coreOf (s.take n).me.sid) = c := by
      rw [me, Needs.marks_sid]
      rfl
    have ofCore {α : Type} (g : Core → α) : g ((s.take n).core (coreOf (s.take n).me.sid)) = g c := congrArg g core
    refine ⟨get, fixed 0 rfl (.inr rfl) (congrArg Thread.status me),
      fixed 1 rfl (.inr rfl) ((congrArg Thread.lastTl me).trans (Needs.marks_keeps Thread.lastTl (fun _ _ => by simp [Thread.emptyX]) n s.me)), fixed 2 rfl (.inr rfl) rfl,
      fixed 3 rfl (.inr rfl) rfl, fun i hi => ?event,
      fun root => ⟨fixed _ rfl (.inl root) (ofCore Core.tqbase), fixed _ rfl (.inl root) (ofCore fun c => BitVec.ofNat 64 c.tqcnt),
        fixed _ rfl (.inl root) (ofCore Core.rvec), fixed _ rfl (.inl root) (ofCore Core.repc),
        fixed _ rfl (.inl root) (ofCore Core.rcause), fixed _ rfl (.inl root) (ofCore Core.raddr),
        fixed _ rfl (.inl root) (ofCore Core.trapcfg), fixed _ rfl (.inl root) (ofCore fun c => BitVec.ofNat 64 c.psel)⟩,
      fun hl => run.trans (if_pos hl), fun hl hr hu => ?priv⟩
    case event =>
      obtain ⟨hl, hu⟩ := ctl_event i hi
      refine fixed _ hl (.inr hu) ?_
      rw [readCtl_event _ _ hi]
      exact ofCore fun c => BitVec.ofNat 64 (Table.get c.events i 0)
    case priv =>
      exact run.trans ((if_neg (by rw [hl]; exact Bool.noConfusion)).trans (if_pos ⟨hr, hu⟩))
  case write =>
    intro n sel v core root
    have run := cwr_ready h
    have set (hr : s.me.isRoot = true) (hl : ctlListed sel = true) : root ((s.take n).writeCtl core sel v) :=
      run.trans ((if_neg (by rw [hl]; exact Bool.noConfusion)).trans (if_pos hr))
    have fixed (hr : s.me.isRoot = true) (k : Nat) (hl : ctlListed k = true) {u : State}
        (hu : (s.take n).writeCtl core k v = u) (hk : sel = k) : root u := by
      rw [← hu, ← hk]
      rw [← hk] at hl
      exact set hr hl
    refine ⟨set, fun hr => ⟨fun i hi hs hv => ?clear, fun i hi hs hv => ?keep, fixed hr _ rfl rfl, fixed hr _ rfl ?cfg, fixed hr _ rfl ?psel,
      fun hs => ?readOnly⟩, fun hr hs => ?wlim, fun hr hs hl => ?priv, fun hl => run.trans (if_pos hl)⟩
    case clear =>
      have hl := (ctl_event i hi).1
      refine fixed hr _ hl ?_ hs
      rw [writeCtl_event _ _ _ hi, if_pos hv]
    case keep =>
      have hl := (ctl_event i hi).1
      refine fixed hr _ hl ?_ hs
      rw [writeCtl_event _ _ _ hi, if_neg hv]
    case cfg => rfl
    case psel =>
      rw [← bits_low]
      rfl
    case readOnly =>
      simp only [List.mem_cons, List.not_mem_nil, or_false] at hs
      rcases hs with hs | hs | hs | hs | hs | hs | hs | hs <;> exact fixed hr _ rfl rfl hs
    case wlim =>
      have hl : ctlListed sel = true := by
        rw [hs]
        rfl
      refine run.trans ((if_neg (by rw [hl]; exact Bool.noConfusion)).trans ((if_neg ?_).trans (if_pos hs)))
      rw [hr]
      exact Bool.noConfusion
    case priv =>
      refine run.trans ((if_neg (by rw [hl]; exact Bool.noConfusion)).trans ((if_neg ?_).trans (if_neg hs)))
      rw [hr]
      exact Bool.noConfusion

end Sys2Proof.Machine
end

section
/-! PROOF. Barriers of a population (O21). -/

namespace Sys2Proof.Machine

/-! ### What marks leave of a thread's accesses -/

theorem State.thr_take_keeps {β : Type} (s : State) (n : Needs) (t : Nat) (g : Thread → β)
    (h : ∀ th r, g (Thread.emptyX th r) = g th) : g ((s.take n).thr t) = g (s.thr t) := by
  by_cases ht : t = s.cur
  · subst ht
    rw [show (s.take n).thr s.cur = n.marks s.me from State.me_take s n]
    exact Needs.marks_keeps g h n s.me
  · rw [State.take_eq, State.thr_setThr_other _ _ ht]

theorem State.requestsBefore_take (s : State) (n : Needs) (t q : Nat) : (s.take n).requestsBefore t q = s.requestsBefore t q := by
  unfold State.requestsBefore
  rw [State.thr_take_keeps s n t Thread.savedSync fun _ _ => by simp [Thread.emptyX]]
  rfl

theorem State.performed_take (s : State) (n : Needs) : (s.take n).performed (s.take n).cur = s.performed s.cur := by
  unfold State.performed
  rw [State.requestsBefore_take, State.thr_take_keeps s n _ Thread.heldOps fun _ _ => by simp [Thread.emptyX]]
  rfl

/-! ### Members that wait (R78) -/

/-- A member that waits at a BAR with bookkeeping `w` goes on with `n` from cycle `c`. -/
def Thread.passBar (w : BarWait) (n : Word) (c : Nat) (th : Thread) : Thread :=
  { ((w.takes.foldl (fun th r => th.emptyX r) th).setX w.rd ⟨n, true, false, false⟩) with
    bar := none, wait := none, answers := [], pc := (w.takes.foldl (fun th r => th.emptyX r) th).pc + word w.len
    notBefore := max (w.takes.foldl (fun th r => th.emptyX r) th).notBefore (c + 1) }

theorem State.release_other (s : State) {t u : Nat} (n : Word) (h : u ≠ t) : (s.release t n).thr u = s.thr u :=
  State.thr_modThr_other _ _ h

/-- A thread that waits at no BAR stays as it is. -/
theorem State.release_idle {s : State} {u : Nat} (t : Nat) (n : Word) (h : (s.thr u).bar = none) :
    (s.release t n).thr u = s.thr u := by
  by_cases ht : u = t
  · subst ht
    rw [State.release, State.thr_modThr_same, h]
  · exact State.release_other s n ht

theorem State.release_waiting {s : State} {t : Nat} {w : BarWait} (n : Word) (hb : (s.thr t).bar = some w) (hp : w.pc = (s.thr t).pc)
    (hf : (s.thr t).frozen = none) (hs : (s.thr t).saved = false) :
    (s.release t n).thr t = (s.thr t).passBar w n s.cycle := by
  rw [State.release, State.thr_modThr_same, hb]
  dsimp only
  rw [if_neg (by simp [hf, hs, hp])]
  rfl

/-- The members of `l` go on. -/
def State.releaseAll (s : State) (l : List Nat) (n : Word) : State := l.foldl (fun s t => s.release t n) s

theorem State.releaseAll_only (s : State) (l : List Nat) (n : Word) : ∃ ths, s.releaseAll l n = { s with threads := ths } := by
  induction l generalizing s with
  | nil => exact ⟨s.threads, rfl⟩
  | cons t l ih =>
    obtain ⟨ths, h⟩ := ih (s.release t n)
    exact ⟨ths, h⟩

theorem State.releaseAll_idle {s : State} {u : Nat} (l : List Nat) (n : Word) (h : (s.thr u).bar = none) :
    (s.releaseAll l n).thr u = s.thr u := by
  induction l generalizing s with
  | nil => rfl
  | cons t l ih =>
    have kept := State.release_idle t n h
    exact (ih (s := s.release t n) (kept ▸ h)).trans kept

theorem State.releaseAll_waiting {s : State} {u : Nat} {w : BarWait} {l : List Nat} (n : Word) (hu : u ∈ l)
    (hb : (s.thr u).bar = some w) (hp : w.pc = (s.thr u).pc) (hf : (s.thr u).frozen = none) (hs : (s.thr u).saved = false) :
    (s.releaseAll l n).thr u = (s.thr u).passBar w n s.cycle := by
  induction l generalizing s with
  | nil => cases hu
  | cons t l ih =>
    by_cases ht : u = t
    · subst ht
      have first := State.release_waiting n hb hp hf hs
      have idle : ((s.release u n).thr u).bar = none := congrArg Thread.bar first
      exact (State.releaseAll_idle l n idle).trans first
    · have kept := State.release_other s n ht
      have rest := ih (s := s.release t n) ((List.mem_cons.1 hu).resolve_left ht)
      rw [kept] at rest
      exact rest hb hp hf hs

theorem Thread.passBar_spec (w : BarWait) (n : Word) (c : Nat) (th : Thread) :
    (th.passBar w n c).pc = th.pc + BitVec.ofNat 64 w.len ∧ (th.passBar w n c).bar = none ∧ (th.passBar w n c).wait = none ∧
      (w.rd ≠ 0 → (th.passBar w n c).getX w.rd = ⟨n, true, false, false⟩) := by
  have pc : (w.takes.foldl (fun th r => th.emptyX r) th).pc = th.pc := by
    generalize w.takes = l
    induction l generalizing th with
    | nil => rfl
    | cons r l ih => exact (ih (th.emptyX r)).trans (by simp [Thread.emptyX])
  refine ⟨congrArg (· + BitVec.ofNat 64 w.len) pc, rfl, rfl, fun hr => ?_⟩
  exact (Thread.getX_setX _ _ _ _).trans (if_pos ⟨rfl, hr⟩)

/-! ### Arrival and completion -/

/-- The population once the current thread has arrived. -/
def State.arrived (s : State) (id : Nat) (p : Population) : State :=
  { s with pops := Table.set s.pops id { p with arrived := p.arrived ++ [s.cur] } }

/-- The population once its barrier is complete. -/
def Population.pastBarrier (p : Population) : Population := { p with arrived := [], recs := [], bars := p.bars + 1 }

theorem State.tryPop_completes {s : State} {id : Nat} {p : Population} (hp : Table.find? s.pops id = some p) (hr : p.recs = [])
    (some : p.arrived ≠ []) (all : p.arrived.length = p.members) :
    s.tryPop id = State.releaseAll { s with pops := Table.set s.pops id p.pastBarrier } p.arrived (word p.bars) := by
  have cond : (decide (p.arrived ≠ []) && decide (p.arrived.length = p.members)) = true := by simp [some, all]
  unfold State.tryPop
  rw [hp]
  dsimp only
  rw [if_pos cond, hr]
  rfl

theorem State.tryPop_arrived {s : State} {id : Nat} {p : Population} (hr : p.recs = []) (all : p.arrived.length + 1 = p.members) :
    (s.arrived id p).tryPop id =
      State.releaseAll { s with pops := Table.set s.pops id p.pastBarrier } (p.arrived ++ [s.cur]) (word p.bars) := by
  rw [State.tryPop_completes (p := { p with arrived := p.arrived ++ [s.cur] }) (Table.find_set_same ..) hr
    (List.append_ne_nil_of_right_ne_nil _ (List.cons_ne_nil _ _)) (by rw [List.length_append]; exact all)]
  exact congrArg (State.releaseAll · _ _) (by rw [State.arrived]; simp only [Table.set_set]; rfl)

/-- How the current thread waits at its BAR. -/
def State.barWait (s : State) (id rd : Nat) (a b : Src) : BarWait :=
  ⟨s.me.pc, 2 ^ 62 + id, rd, ([a, b].filter fun x => x.mode = .take).map (·.reg), s.insnLen, none⟩

/-- A BAR of a population that is ready arrives: the last member completes the barrier, and any other waits (R78). -/
theorem barrier_ready {s : State} {rd : Nat} {a b : Src} {p : Population} (h : Ready s { src := [a, b], dx := [rd] })
    (ha : s.rx a = 0) (hb : s.rx b = 0) (perf : s.performed s.cur = true) (bar : s.me.bar = none)
    (hp : Table.find? s.pops s.me.pop = some p) (hr : p.recs = []) :
    let n : Needs := { src := [a, b], dx := [rd] }
    let v := ((s.take n).arrived s.me.pop p).tryPop s.me.pop
    (p.arrived.length + 1 = p.members → barrier rd a b s =
      .next ((((v.modThr v.cur fun th => { th with bar := none }).wx rd (word p.bars)).advance).issued)) ∧
    (p.arrived.length + 1 ≠ p.members → barrier rd a b s =
      .next ((((s.arrived s.me.pop p).modThr s.cur fun th =>
        { th with bar := some ((s.take n).barWait s.me.pop rd a b) })).parkOn (.barrier (2 ^ 62 + s.me.pop)))) := by
  intro n v
  have bar' : (s.take n).me.bar = none :=
    (State.thr_take_keeps s n s.cur Thread.bar fun _ _ => by simp [Thread.emptyX]).trans bar
  have pop' : (s.take n).me.pop = s.me.pop := State.thr_take_keeps s n s.cur Thread.pop fun _ _ => by simp [Thread.emptyX]
  have perf' := (State.performed_take s n).trans perf
  have pops' : Table.find? (s.take n).pops s.me.pop = some p := hp
  rw [barrier, issue_ready h]
  dsimp only
  rw [State.rx_take, State.rx_take, ha, hb, bar', pop', if_pos rfl, if_pos rfl]
  dsimp only [Option.filter_none]
  rw [pops']
  dsimp only
  rw [afterHeld, if_pos perf', barArrive, hr]
  have recs : ({ p with arrived := p.arrived ++ [s.cur], recs := [] ++ [] } : Population) =
    { p with arrived := p.arrived ++ [s.cur] } := by rw [List.append_nil, ← hr]
  refine ⟨fun all => ?_, fun some => ?_⟩
  · rw [if_pos (decide_eq_true all)]
    exact congrArg (fun q => Verdict.close (barFinish (State.tryPop { s.take n with pops := Table.set s.pops s.me.pop q } s.me.pop) rd
      (word p.bars)) s) recs
  · rw [if_neg fun all => some (of_decide_eq_true all)]
    exact congrArg (fun q => Host.Outcome.next ((State.modThr { s with pops := Table.set s.pops s.me.pop q } s.cur fun th =>
      { th with bar := Option.some ((s.take n).barWait s.me.pop rd a b) }).parkOn (.barrier (2 ^ 62 + s.me.pop)))) recs

/-! ### A BAR that completes (R78) -/

theorem State.issued_thr (s : State) (u : Nat) (hu : u ≠ s.cur) : s.issued.thr u = s.thr u := by
  unfold State.issued
  split
  · exact State.thr_modThr_other _ _ hu
  · rfl

theorem State.issued_me (s : State) : s.issued.me = s.me ∨ s.issued.me = { s.me with wait := none, answers := [] } := by
  unfold State.issued
  split
  · exact .inr (State.thr_modThr_same ..)
  · exact .inl rfl

theorem State.issued_only (s : State) : ∃ ths, s.issued = { s with threads := ths } := by
  unfold State.issued
  split
  · exact ⟨_, rfl⟩
  · exact ⟨s.threads, rfl⟩

/-- The own thread's BAR is complete: xd is written, and the pc moves on. -/
theorem barFinish_spec (v : State) (rd : Nat) (n : Word) :
    let t := (((v.modThr v.cur fun th => { th with bar := none }).wx rd n).advance).issued
    t.pops = v.pops ∧ t.hbm = v.hbm ∧ t.pad = v.pad ∧ t.me.pc = v.me.pc + BitVec.ofNat 64 v.insnLen ∧
      (rd ≠ 0 → t.me.getX rd = ⟨n, true, false, false⟩) ∧ ∀ u, u ≠ v.cur → t.thr u = v.thr u := by
  intro t
  have before : ((v.modThr v.cur fun th => { th with bar := none }).wx rd n).advance =
      v.modThr v.cur fun th => (({ th with bar := none } : Thread).gets rd n).past v.insnLen := by
    rw [State.wx, State.advance]
    simp only [State.modThr_cur, State.modThr_modThr, State.modThr_insnLen]
    rfl
  have me : (v.modThr v.cur fun th => (({ th with bar := none } : Thread).gets rd n).past v.insnLen).me =
      (({ v.me with bar := none } : Thread).gets rd n).past v.insnLen := State.thr_modThr_same ..
  obtain ⟨ths, only⟩ := State.issued_only (v.modThr v.cur fun th => (({ th with bar := none } : Thread).gets rd n).past v.insnLen)
  have thread := State.issued_me (v.modThr v.cur fun th => (({ th with bar := none } : Thread).gets rd n).past v.insnLen)
  have others := State.issued_thr (v.modThr v.cur fun th => (({ th with bar := none } : Thread).gets rd n).past v.insnLen)
  have pc : ((({ v.me with bar := none } : Thread).gets rd n).past v.insnLen).pc = v.me.pc + BitVec.ofNat 64 v.insnLen := by
    rw [Thread.past, Thread.gets]
    exact congrArg (· + BitVec.ofNat 64 v.insnLen) (by simp)
  have reg (hrd : rd ≠ 0) : ((({ v.me with bar := none } : Thread).gets rd n).past v.insnLen).getX rd = ⟨n, true, false, false⟩ :=
    (Thread.getX_setX { v.me with bar := none } rd rd _).trans (if_pos ⟨rfl, hrd⟩)
  rw [me] at thread
  refine ⟨?_, ?_, ?_, ?_, fun hrd => ?_, fun u hu => ?_⟩ <;> simp only [t, before]
  · rw [only]
    rfl
  · rw [only]
    rfl
  · rw [only]
    rfl
  · rcases thread with thread | thread <;> rw [thread] <;> exact pc
  · rcases thread with thread | thread <;> rw [thread] <;> exact reg hrd
  · exact (others u hu).trans (State.thr_modThr_other _ _ hu)

/-- What the last member's BAR leaves. -/
theorem barrier_goesOn {s : State} {rd : Nat} {a b : Src} {p : Population} (h : Ready s { src := [a, b], dx := [rd] })
    (ha : s.rx a = 0) (hb : s.rx b = 0) (perf : s.performed s.cur = true) (bar : s.me.bar = none)
    (hp : Table.find? s.pops s.me.pop = some p) (hr : p.recs = []) (all : p.arrived.length + 1 = p.members) :
    ∃ t, barrier rd a b s = .next t ∧
      (rd ≠ 0 → t.me.getX rd = ⟨BitVec.ofNat 64 p.bars, true, false, false⟩) ∧
      t.me.pc = s.me.pc + BitVec.ofNat 64 s.insnLen ∧ Table.find? t.pops s.me.pop = some p.pastBarrier ∧
      t.hbm = s.hbm ∧ t.pad = s.pad ∧
      ∀ u w, u ∈ p.arrived → u ≠ s.cur → (s.thr u).bar = some w → w.pc = (s.thr u).pc → (s.thr u).frozen = none →
        (s.thr u).saved = false →
        (t.thr u).pc = w.pc + BitVec.ofNat 64 w.len ∧ (t.thr u).bar = none ∧ (t.thr u).wait = none ∧
        (w.rd ≠ 0 → (t.thr u).getX w.rd = ⟨BitVec.ofNat 64 p.bars, true, false, false⟩) := by
  have run := (barrier_ready h ha hb perf bar hp hr).1 all
  have idle : ((s.take { src := [a, b], dx := [rd] }).thr s.cur).bar = none :=
    (State.thr_take_keeps s _ s.cur Thread.bar fun _ _ => by simp [Thread.emptyX]).trans bar
  have released := State.tryPop_arrived (s := s.take { src := [a, b], dx := [rd] }) (id := s.me.pop) hr all
  obtain ⟨ths, only⟩ := State.releaseAll_only { s.take { src := [a, b], dx := [rd] } with
    pops := Table.set s.pops s.me.pop p.pastBarrier } (p.arrived ++ [s.cur]) (word p.bars)
  have own := State.releaseAll_idle (s := { s.take { src := [a, b], dx := [rd] } with
    pops := Table.set s.pops s.me.pop p.pastBarrier }) (p.arrived ++ [s.cur]) (word p.bars) idle
  have vstate := released.trans only
  generalize (((s.take { src := [a, b], dx := [rd] }).arrived s.me.pop p).tryPop s.me.pop) = v at *
  have cur : v.cur = s.cur := (congrArg State.cur vstate :)
  have len : v.insnLen = s.insnLen := (congrArg State.insnLen vstate :)
  have vpops : v.pops = Table.set s.pops s.me.pop p.pastBarrier := (congrArg State.pops vstate :)
  have me : v.me.pc = s.me.pc := by
    rw [State.me, cur, released]
    exact (congrArg Thread.pc own).trans (State.thr_take_keeps s _ s.cur Thread.pc fun _ _ => by simp [Thread.emptyX])
  obtain ⟨pops, hbm, pad, pc, reg, others⟩ := barFinish_spec v rd (word p.bars)
  refine ⟨_, run, reg, pc.trans ?_, ?_, hbm.trans (congrArg State.hbm vstate :), pad.trans (congrArg State.pad vstate :),
    fun u w hu huc hbar hpc hf hs => ?_⟩
  · rw [me, len]
  · rw [pops, vpops]
    exact Table.find_set_same ..
  · have kept : (s.take { src := [a, b], dx := [rd] }).thr u = s.thr u := State.thr_setThr_other _ _ huc
    have passed := State.releaseAll_waiting (s := { s.take { src := [a, b], dx := [rd] } with
      pops := Table.set s.pops s.me.pop p.pastBarrier }) (u := u) (w := w) (word p.bars) (List.mem_append_left [s.cur] hu)
      ((congrArg Thread.bar kept).trans hbar) (hpc.trans (congrArg Thread.pc kept).symm) ((congrArg Thread.frozen kept).trans hf)
      ((congrArg Thread.saved kept).trans hs)
    have thread := (others u (cur ▸ huc)).trans ((congrArg (State.thr · u) released).trans passed)
    obtain ⟨hpc', hbar', hwait', hreg'⟩ := Thread.passBar_spec w (word p.bars) s.cycle (s.thr u)
    have same : (State.thr { s.take { src := [a, b], dx := [rd] } with pops := Table.set s.pops s.me.pop p.pastBarrier } u) = s.thr u :=
      kept
    rw [same] at thread
    rw [thread]
    exact ⟨hpc ▸ hpc', hbar', hwait', hreg'⟩

/-- What the BAR of an earlier member leaves. -/
theorem barrier_waits {s : State} {rd : Nat} {a b : Src} {p : Population} (h : Ready s { src := [a, b], dx := [rd] })
    (ha : s.rx a = 0) (hb : s.rx b = 0) (perf : s.performed s.cur = true) (bar : s.me.bar = none)
    (hp : Table.find? s.pops s.me.pop = some p) (hr : p.recs = []) (open_ : p.arrived.length + 1 ≠ p.members) :
    ∃ t, barrier rd a b s = .next t ∧ t.me.pc = s.me.pc ∧ t.me.x = s.me.x ∧
      t.me.wait = some (.barrier (2 ^ 62 + s.me.pop)) ∧
      Table.find? t.pops s.me.pop = some { p with arrived := p.arrived ++ [s.cur] } ∧ t.hbm = s.hbm ∧ t.pad = s.pad := by
  have run := (barrier_ready h ha hb perf bar hp hr).2 open_
  obtain ⟨since, parked⟩ := State.me_parkOn ((s.arrived s.me.pop p).modThr s.cur fun th =>
    { th with bar := some ((s.take { src := [a, b], dx := [rd] }).barWait s.me.pop rd a b) }) (.barrier (2 ^ 62 + s.me.pop))
  have me : ((s.arrived s.me.pop p).modThr s.cur fun th =>
      { th with bar := some ((s.take { src := [a, b], dx := [rd] }).barWait s.me.pop rd a b) }).me =
    { s.me with bar := some ((s.take { src := [a, b], dx := [rd] }).barWait s.me.pop rd a b) } := State.thr_modThr_same ..
  rw [me] at parked
  exact ⟨_, run, (congrArg Thread.pc parked :), (congrArg Thread.x parked :), (congrArg Thread.wait parked :), Table.find_set_same .., rfl, rfl⟩

/-- C.BAR0 is as ready as any instruction without registers. -/
theorem Ready.barZero {s : State} (h : s.alive s.cur = true) : Ready s { src := [cs 0, cs 0], dx := [0] } := by
  refine ⟨h, fun a ha => ?_, fun r hr => (nomatch hr), fun r hr => (nomatch hr), fun r hr => ?_, fun r hr => (nomatch hr)⟩
  · have : a = cs 0 := by simpa using ha
    rw [this]
    exact SrcOk.zero _ _
  · have : r = 0 := by simpa using hr
    rw [this]
    rfl

theorem State.rx_cs_zero (s : State) : s.rx (cs 0) = 0 := rfl

/-- Settles O21. -/
theorem barrierCompletes : Obligations.BarrierCompletes := by
  unfold Obligations.BarrierCompletes
  intro s rd a b p h ha hb perf bar hp hr
  have h0 := Ready.barZero h.alive
  refine ⟨fun all => ⟨barrier_goesOn h ha hb perf bar hp hr all, ?_⟩, fun more => ⟨barrier_waits h ha hb perf bar hp hr more, ?_⟩⟩
  · exact barrier_goesOn h0 s.rx_cs_zero s.rx_cs_zero perf bar hp hr all
  · exact barrier_waits h0 s.rx_cs_zero s.rx_cs_zero perf bar hp hr more

end Sys2Proof.Machine
end

section
/-! PROOF. The special-function unit, the normaliser and the sort unit (O39). -/

namespace Sys2Proof.Machine

/-! ### SFU forms issue (R123) -/

/-- The request that an SFU form queues. -/
def sfuRequest (s : State) (vd va pg : Nat) (f : Fmt) (z : Bool) (fn : SfuFn) : SfuReq :=
  let o := floatOut f.w z (s.rv vd) (s.rp pg) fun i => sfuEl f fn (vget (s.rv va) f.w i)
  let dz := (activeLanes (s.rp pg) f.w).any fun i => sfuDivz f fn (vget (s.rv va) f.w i)
  ⟨s.cur, vd, o.val, o.norm, b2n o.nanp + 2 * b2n o.ovfl + 4 * b2n o.norm + 8 * b2n dz, s.me.sfuSeq, s.cycle⟩

theorem sfuRequest_take (s : State) (n : Needs) (vd va pg : Nat) (f : Fmt) (z : Bool) (fn : SfuFn) :
    sfuRequest (s.take n) vd va pg f z fn = sfuRequest s vd va pg f z fn := by
  have seq : (s.take n).me.sfuSeq = s.me.sfuSeq := by
    rw [State.me_take]
    exact Needs.marks_keeps Thread.sfuSeq (fun _ _ => by simp [Thread.emptyX]) n s.me
  simp only [sfuRequest, State.rv_take, State.rp_take, seq]
  rfl

theorem sfuOp_eq (vd va pg : Nat) {t : Ety} {f : Fmt} (ht : fmtOf t = some f) (z : Bool) (fn : SfuFn) :
    sfuOp vd va pg t z fn = issue { vs := vsrc z vd [va], ps := [pg], dv := [vd] } fun s =>
      if 32 ≤ (s.core s.myCore).sfuQ.length then .park .other id
      else .go (((s.deferV vd).modCore s.myCore fun c => { c with sfuQ := c.sfuQ ++ [sfuRequest s vd va pg f z fn] }).modThr s.cur
        fun th => { th with sfuSeq := th.sfuSeq + 1 }).advance := by
  rw [← fmtD_of_fmtOf ht]
  rfl

theorem State.core_take (s : State) (n : Needs) (k : Nat) : (s.take n).core k = s.core k := rfl

theorem sfuOp_full {s : State} {vd va pg : Nat} {t : Ety} {f : Fmt} {z : Bool} {fn : SfuFn} (ht : fmtOf t = some f)
    (h : Ready s { vs := vsrc z vd [va], ps := [pg], dv := [vd] }) (full : 32 ≤ (s.core s.myCore).sfuQ.length) :
    sfuOp vd va pg t z fn s = .next (s.parkOn .other) := by
  rw [sfuOp_eq vd va pg ht, issue_ready h]
  rw [State.myCore_take, State.core_take, if_pos full]
  rfl

theorem sfuOp_room {s : State} {vd va pg : Nat} {t : Ety} {f : Fmt} {z : Bool} {fn : SfuFn} (ht : fmtOf t = some f)
    (h : Ready s { vs := vsrc z vd [va], ps := [pg], dv := [vd] }) (room : (s.core s.myCore).sfuQ.length < 32) :
    sfuOp vd va pg t z fn s = .next ((s.after {} fun th => { (th.deferV vd).past s.insnLen with sfuSeq := th.sfuSeq + 1 }).modCore
      s.myCore fun c => { c with sfuQ := c.sfuQ ++ [sfuRequest s vd va pg f z fn] }) := by
  rw [sfuOp_eq vd va pg ht]
  refine issue_setThr_modCore (f := fun th => { (th.deferV vd).past s.insnLen with sfuSeq := th.sfuSeq + 1 }) h ?_
  dsimp only
  rw [State.myCore_take, State.core_take, if_neg (Nat.not_le.2 room), sfuRequest_take]
  refine congrArg Verdict.go ?_
  rw [← State.modThr_modCore, State.advance, ← State.modThr_modCore]
  refine congrArg (State.modCore · s.myCore _) ?_
  rw [State.deferV, State.take_eq, State.setThr_cur, State.setThr_modThr, State.setThr_modThr]
  exact State.setThr_modThr _ _ _ _

theorem sfuRequest_lane {s : State} {vd va pg j : Nat} {f : Fmt} {z : Bool} {fn : SfuFn} (hj : j < 2048 / f.w) :
    vget (sfuRequest s vd va pg f z fn).val f.w j =
      if (s.rp pg).getLsbD (j * (f.w / 8)) then (sfuEl f fn (vget (s.rv va) f.w j)).bits % 2 ^ f.w
      else if z then 0 else vget (s.rv vd) f.w j := vget_mergeLanes _ _ _ _ hj

/-! ### SFU_ACCEPT (R124) -/

theorem sfuEligible_iff (s : State) (c : Core) (q : SfuReq) :
    s.sfuEligible c q = true ↔ ((s.thr q.t).frozen = none ∨ (s.thr q.t).frozeAt = s.cycle) ∧ (s.thr q.t).saved = false ∧
      (s.thr q.t).thaw ≤ s.cycle ∧ q.queued < s.cycle ∧ (s.thr q.t).sfuWords.length + c.sfuOpen q.t < 16 := by
  simp only [State.sfuEligible, Bool.and_eq_true, Bool.or_eq_true, Option.isNone_iff_eq_none, decide_eq_true_eq, Bool.not_eq_true',
    and_assoc]
  rfl

theorem sfuAccept_takes {s : State} {core : Nat} {pre post : List SfuReq} {r : SfuReq}
    (last : ∀ l, (s.core core).sfuLast = some l → l + 4 ≤ s.cycle) (hq : (s.core core).sfuQ = pre ++ r :: post)
    (older : ∀ q ∈ pre, ¬ s.sfuEligible (s.core core) q = true) (hr : s.sfuEligible (s.core core) r = true) :
    exec (.sfuAccept core) s = .next (s.modCore core fun c => { c with
      sfuQ := pre ++ post, sfuRun := c.sfuRun ++ [(r, s.cycle + 12)], sfuLast := some s.cycle }) := by
  have apart : (s.core core).sfuLast.map (fun l => decide (l + 4 ≤ s.cycle)) |>.getD true := by
    cases hl : (s.core core).sfuLast with
    | none => rfl
    | some l => exact decide_eq_true (last l hl)
  have next : s.sfuNext core = some r := by
    unfold State.sfuNext
    dsimp only
    rw [if_pos apart, hq, List.find?_append, List.find?_eq_none.2 older, Option.none_or, List.find?_cons_of_pos hr]
  have fresh : r ∉ pre := fun hm => older r hm hr
  have rest : (s.core core).sfuQ.erase r = pre ++ post := by
    rw [hq, List.erase_append_right _ fresh, List.erase_cons_head]
  show execSfuAccept core s = _
  unfold execSfuAccept
  rw [next]
  dsimp only
  rw [State.modCore, State.modCore, rest]

theorem sfuAccept_none {s : State} {core : Nat} (h : s.sfuNext core = none) : exec (.sfuAccept core) s = .next s := by
  show execSfuAccept core s = _
  rw [execSfuAccept, h]

theorem sfuNext_none {s : State} {core : Nat} (h : ∀ q ∈ (s.core core).sfuQ, ¬ s.sfuEligible (s.core core) q = true) :
    s.sfuNext core = none := by
  unfold State.sfuNext
  dsimp only
  split
  · exact List.find?_eq_none.2 h
  · rfl

theorem sfuNext_early {s : State} {core l : Nat} (hl : (s.core core).sfuLast = some l) (early : s.cycle < l + 4) :
    s.sfuNext core = none := by
  unfold State.sfuNext
  dsimp only
  rw [hl, if_neg]
  exact fun h => Nat.not_le.2 early (of_decide_eq_true h)

/-! ### SFU_DELIVER (R124) -/

/-- A result of the SFU lands in its register, with its completion word when the port is bound (R127). -/
theorem landSfu_thr {s : State} {t : Nat} (vd : Nat) (v : VWord) (w : Word) (alive : s.alive t = true) :
    ((s.landSfu t vd v w).thr t).getV vd = ⟨v, true, false, false⟩ ∧ ((s.landSfu t vd v w).thr t).latch = true ∧
      ((s.landSfu t vd v w).thr t).sfuWords =
        if (s.thr t).sfuBound then (s.thr t).sfuWords ++ [w] else (s.thr t).sfuWords := by
  have landed : s.landV t vd v false = s.modThr t fun th => { th.setV vd ⟨v, true, false, false⟩ with latch := true } :=
    State.landV_eq_modThr s v false alive
  have alive' : (s.landV t vd v false).alive t = true := by
    rw [landed, State.alive_modThr _ _ _ _ alive]
    exact alive
  have thread : (s.landSfu t vd v w).thr t =
      if (s.thr t).sfuBound then { (s.thr t).setV vd ⟨v, true, false, false⟩ with
        latch := true, sfuWords := (s.thr t).sfuWords ++ [w] }
      else { (s.thr t).setV vd ⟨v, true, false, false⟩ with latch := true } := by
    rw [State.landSfu]
    dsimp only
    rw [if_pos alive', State.thr_modThr_same, landed, State.thr_modThr_same]
    rfl
  have reg : (s.thr t |>.setV vd ⟨v, true, false, false⟩).getV vd = ⟨v, true, false, false⟩ :=
    (Thread.getV_setV ..).trans (if_pos rfl)
  rw [thread]
  cases (s.thr t).sfuBound <;> exact ⟨reg, rfl, rfl⟩

theorem landSfu_only (s : State) (t vd : Nat) (v : VWord) (w : Word) :
    ∃ ths, s.landSfu t vd v w = { s with threads := ths } := by
  unfold State.landSfu State.landV
  dsimp only
  split
  · split
    · exact ⟨_, rfl⟩
    · exact ⟨_, rfl⟩
  · exact ⟨s.threads, rfl⟩

/-- The state in which a delivered request has left the pipeline and its events are counted (R101). -/
def State.delivered (s : State) (core : Nat) (r : SfuReq) (rest : List (SfuReq × Nat)) : State :=
  (((s.modCore core fun c => { c with sfuRun := rest }).countIf (maskBit r.events 0) core 0).countIf (maskBit r.events 1) core
    1).countIf (maskBit r.events 3) core 4

theorem delivered_countsOnly (s : State) (core : Nat) (r : SfuReq) (rest : List (SfuReq × Nat)) :
    CountsOnly core (s.modCore core fun c => { c with sfuRun := rest }) (s.delivered core r rest) :=
  ((countIf_countsOnly ..).trans (countIf_countsOnly ..)).trans (countIf_countsOnly ..)

theorem sfuDeliver_plain {s : State} {core due : Nat} {r : SfuReq} {rest : List (SfuReq × Nat)}
    (hr : (s.core core).sfuRun = (r, due) :: rest) (hd : due ≤ s.cycle) (served : r.served = false) (alive : s.alive r.t = true) :
    exec (.sfuDeliver core) s = .next ((s.delivered core r rest).landPlain core r) := by
  have alive' : (s.modCore core fun c => { c with sfuRun := rest }).alive r.t = true := alive
  show execSfuDeliver core s = _
  rw [execSfuDeliver, hr]
  dsimp only
  rw [if_neg (Nat.not_lt.2 hd), alive', served]
  rfl

theorem sfuBehind_congr {c d : Core} (hc : c.normCur = d.normCur) (hq : c.normQ = d.normQ) (hw : c.sfuWait = d.sfuWait)
    (r : SfuReq) : c.sfuBehind r = d.sfuBehind r := by
  rw [Core.sfuBehind, Core.sfuBehind, Core.sfuNorm, Core.sfuNorm, hc, hq, hw]

theorem delivered_core (s : State) (core : Nat) (r : SfuReq) (rest : List (SfuReq × Nat)) :
    ((s.delivered core r rest).core core).sfuRun = rest ∧
      ((s.delivered core r rest).core core).sfuWait = (s.core core).sfuWait ∧
      ((s.delivered core r rest).core core).sfuBehind r = (s.core core).sfuBehind r := by
  have c := delivered_countsOnly s core r rest
  have own : (s.modCore core fun c => { c with sfuRun := rest }).core core = { s.core core with sfuRun := rest } :=
    State.core_modCore_same ..
  have run := c.sfuRun
  have wait := c.sfuWait
  have cur := c.normCur
  have queue := c.normQ
  rw [own] at run wait cur queue
  exact ⟨run, wait, sfuBehind_congr cur queue wait r⟩

theorem sfuDeliver_lands {s : State} {core due : Nat} {r : SfuReq} {rest : List (SfuReq × Nat)}
    (hr : (s.core core).sfuRun = (r, due) :: rest) (hd : due ≤ s.cycle) (served : r.served = false) (alive : s.alive r.t = true) :
    ∃ u, exec (.sfuDeliver core) s = .next u ∧ (u.core core).sfuRun = rest ∧ u.hbm = s.hbm ∧ u.pad = s.pad ∧
       ((s.core core).sfuBehind r = true → (u.core core).sfuWait = (s.core core).sfuWait ++ [r] ∧ u.thr r.t = s.thr r.t) ∧
       ((s.core core).sfuBehind r = false → (u.thr r.t).getV r.vd = ⟨r.val, true, false, false⟩ ∧ (u.thr r.t).latch = true ∧
       (u.thr r.t).sfuWords = (if (s.thr r.t).sfuBound then (s.thr r.t).sfuWords ++
         [BitVec.ofNat 64 (r.seq % 65536 * 2 ^ 16 + r.vd * 2 ^ 12 + r.events)] else (s.thr r.t).sfuWords)) := by
  have c := delivered_countsOnly s core r rest
  obtain ⟨run, wait, behind⟩ := delivered_core s core r rest
  have thread : (s.delivered core r rest).thr r.t = s.thr r.t := c.thr r.t
  have alive' : (s.delivered core r rest).alive r.t = true := by
    rw [State.alive, c.threads]
    exact alive
  refine ⟨_, sfuDeliver_plain hr hd served alive, ?_⟩
  rw [State.landPlain, behind]
  cases (s.core core).sfuBehind r with
  | true =>
    have own : ((s.delivered core r rest).modCore core fun c => { c with sfuWait := c.sfuWait ++ [r] }).core core = _ :=
      State.core_modCore_same ..
    rw [if_pos rfl, own]
    exact ⟨run, c.hbm, c.pad, fun _ => ⟨congrArg (· ++ [r]) wait, thread⟩, fun h => Bool.noConfusion h⟩
  | false =>
    obtain ⟨ths, only⟩ := landSfu_only (s.delivered core r rest) r.t r.vd r.val (sfuWord r)
    obtain ⟨reg, latch, words⟩ := landSfu_thr r.vd r.val (sfuWord r) alive'
    rw [thread] at words
    rw [if_neg Bool.false_ne_true]
    refine ⟨?_, ?_, ?_, fun h => Bool.noConfusion h, fun _ => ⟨reg, latch, words⟩⟩ <;> rw [only]
    · exact run
    · exact c.hbm
    · exact c.pad

/-! ### The normaliser's service ends (R91) -/

/-- The core whose normaliser has ended a service, and where no result waits for it. -/
def Core.normFree (c : Core) : Core := { c with normCur := none, normQ := c.normQ.drop 1 }

/-- The state after a service of an instruction that is no SFU form, before the next one starts. -/
def State.normEnded (s : State) (core : Nat) (j : NormJob) : State :=
  (((s.landV j.t j.vd j.val false).modCore core Core.normFree).modThr j.t fun th =>
    { th with norm := (s.core core).normFree.heldNorm j.t }).modCore core fun c => { c with sfuWait := [] }

theorem State.landWaiting_none {s : State} {core : Nat} (h : (s.core core).sfuWait = []) :
    s.landWaiting core = s.modCore core fun c => { c with sfuWait := [] } := by
  rw [State.landWaiting, h]
  rfl

theorem normaliserServiceEnd_eq {s : State} {core due : Nat} {j : NormJob} (hj : (s.core core).normCur = some (j, due))
    (hd : due ≤ s.cycle) (hs : j.sfu = none) (alive : s.alive j.t = true) (hw : (s.core core).sfuWait = []) :
    exec (.normaliserServiceEnd core) s = match (s.core core).normQ with
      | k :: _ => .next ((s.normEnded core j).startNorm core k (due + 32))
      | [] => .next (s.normEnded core j) := by
  have landed : s.landV j.t j.vd j.val false = s.modThr j.t fun th => { th.setV j.vd ⟨j.val, true, false, false⟩ with latch := true } :=
    State.landV_eq_modThr s j.val false alive
  have core' : (s.landV j.t j.vd j.val false).core core = s.core core := by rw [landed, State.core_modThr]
  have own : ((s.landV j.t j.vd j.val false).modCore core Core.normFree).core core = (s.core core).normFree := by
    rw [State.core_modCore_same, core']
  have alive' : ((s.landV j.t j.vd j.val false).modCore core Core.normFree).alive j.t = true := by
    rw [State.alive_modCore, landed, State.alive_modThr _ _ _ _ alive]
    exact alive
  have none_ : ((((s.landV j.t j.vd j.val false).modCore core Core.normFree).modThr j.t fun th =>
      { th with norm := (s.core core).normFree.heldNorm j.t }).core core).sfuWait = [] := by
    rw [State.core_modThr, own]
    exact hw
  show execNormaliserServiceEnd core s = _
  rw [execNormaliserServiceEnd, hj]
  dsimp only
  rw [if_neg (Nat.not_lt.2 hd), hs]
  dsimp only
  have free : ((s.landV j.t j.vd j.val false).modCore core fun c => { c with normCur := none, normQ := ((s.landV j.t j.vd j.val false).core core).normQ.drop 1 }) =
      (s.landV j.t j.vd j.val false).modCore core Core.normFree := rfl
  rw [free, if_pos alive', own, State.landWaiting_none none_, core']
  rfl

theorem normEnded_spec {s : State} {j : NormJob} (core : Nat) (alive : s.alive j.t = true) :
    (s.normEnded core j).core core = { (s.core core).normFree with sfuWait := [] } ∧
      ((s.normEnded core j).thr j.t).getV j.vd = ⟨j.val, true, false, false⟩ ∧
      ((s.normEnded core j).thr j.t).norm = (s.core core).normFree.heldNorm j.t ∧ (s.normEnded core j).hbm = s.hbm ∧
      (s.normEnded core j).pad = s.pad := by
  have landed : s.landV j.t j.vd j.val false = s.modThr j.t fun th => { th.setV j.vd ⟨j.val, true, false, false⟩ with latch := true } :=
    State.landV_eq_modThr s j.val false alive
  have thread : (s.normEnded core j).thr j.t = { (s.thr j.t).setV j.vd ⟨j.val, true, false, false⟩ with
      latch := true, norm := (s.core core).normFree.heldNorm j.t } := by
    rw [State.normEnded, State.thr_modCore, State.thr_modThr_same, State.thr_modCore, landed, State.thr_modThr_same]
  have reg : (s.thr j.t |>.setV j.vd ⟨j.val, true, false, false⟩).getV j.vd = ⟨j.val, true, false, false⟩ :=
    (Thread.getV_setV ..).trans (if_pos rfl)
  refine ⟨?_, ?_, ?_, ?_, ?_⟩
  · rw [State.normEnded, State.core_modCore_same, State.core_modThr, State.core_modCore_same, landed, State.core_modThr]
  · rw [thread]
    exact reg
  · rw [thread]
  · exact State.landV_hbm ..
  · exact State.landV_pad ..

/-- The next service starts: the thread it is for is held, and no register changes. -/
theorem startNorm_spec (s : State) (core : Nat) (k : NormJob) (due : Nat) :
    ((s.startNorm core k due).core core).normCur = some (k, due) ∧
      ((s.startNorm core k due).core core).normQ = (s.core core).normQ ∧ (s.startNorm core k due).hbm = s.hbm ∧
      (s.startNorm core k due).pad = s.pad ∧ ∀ u r, ((s.startNorm core k due).thr u).getV r = (s.thr u).getV r := by
  have own : (s.modCore core fun c => { c with normCur := some (k, due) }).core core = { s.core core with normCur := some (k, due) } :=
    State.core_modCore_same s core fun c => { c with normCur := some (k, due) }
  unfold State.startNorm
  dsimp only
  split
  · refine ⟨(congrArg Core.normCur own :), (congrArg Core.normQ own :), rfl, rfl, fun u r => ?_⟩
    by_cases hu : u = k.t
    · rw [hu, State.thr_modThr_same]
      rfl
    · rw [State.thr_modThr_other _ _ hu]
      rfl
  · exact ⟨(congrArg Core.normCur own :), (congrArg Core.normQ own :), rfl, rfl, fun u r => rfl⟩

theorem normaliserServiceEnd_spec {s : State} {core due : Nat} {j : NormJob} (hj : (s.core core).normCur = some (j, due))
    (hd : due ≤ s.cycle) (hs : j.sfu = none) (alive : s.alive j.t = true) (hw : (s.core core).sfuWait = []) :
    ∃ u, exec (.normaliserServiceEnd core) s = .next u ∧ (u.thr j.t).getV j.vd = ⟨j.val, true, false, false⟩ ∧
      ((s.core core).normQ = [] → (u.core core).normCur = none ∧ (u.thr j.t).norm = false) ∧
      (∀ k rest, (s.core core).normQ = k :: rest → (u.core core).normCur = some (k, due + 32) ∧ (u.core core).normQ = rest) ∧
      u.hbm = s.hbm ∧ u.pad = s.pad := by
  have run := normaliserServiceEnd_eq hj hd hs alive hw
  obtain ⟨own, reg, norm, hbm, pad⟩ := normEnded_spec core alive
  cases hq : (s.core core).normQ with
  | nil =>
    rw [hq] at run
    refine ⟨_, run, reg, fun _ => ⟨congrArg Core.normCur own, norm.trans ?_⟩, fun k rest h => (nomatch h), hbm, pad⟩
    rw [Core.heldNorm, Core.normFree, hq]
    rfl
  | cons k rest =>
    rw [hq] at run
    obtain ⟨cur, queue, hbm', pad', regs⟩ := startNorm_spec (s.normEnded core j) core k (due + 32)
    refine ⟨_, run, (regs _ _).trans reg, fun h => (nomatch h), fun k' rest' h => ?_, hbm'.trans hbm, pad'.trans pad⟩
    cases h
    refine ⟨cur, queue.trans ?_⟩
    rw [own]
    exact congrArg (List.drop 1) hq

/-! ### The sort unit ends (R105) -/

theorem sortUnitComplete_eq {s : State} {core : Nat} {j : SortJob} (hj : (s.core core).sort = some j) (hd : j.due ≤ s.cycle)
    (alive : s.alive j.t = true) :
    exec (.sortUnitComplete core) s = .next ((s.modCore core fun c => { c with sort := none }).setThr j.t
      { (s.thr j.t).getsV j.vd j.val with latch := true }) := by
  have alive' : (s.modCore core fun c => { c with sort := none }).alive j.t = true := alive
  show execSortUnitComplete core s = _
  rw [execSortUnitComplete, hj]
  dsimp only
  rw [if_neg (Nat.not_lt.2 hd), State.landV_eq_modThr _ _ _ alive']
  rfl

/-- Settles O39. -/
theorem specialFunctions : Obligations.SpecialFunctions := by
  unfold Obligations.SpecialFunctions
  refine ⟨⟨fun s vd va pg t f z i fn ht hi h => ?forms, fun s core => ⟨fun pre r post last hq older hr => ?accept, fun none => ?none,
      fun l hl early => sfuAccept_none (sfuNext_early hl early)⟩,
      fun s core due r rest hr hd served alive => sfuDeliver_lands hr hd served alive⟩,
    fun s core due j hj hd hs alive hw => normaliserServiceEnd_spec hj hd hs alive hw,
    fun s core j hj hd alive => sortUnitComplete_eq hj hd alive⟩
  case forms =>
    have run : exec i s = sfuOp vd va pg t z fn s := by
      simp only [List.mem_cons, Prod.mk.injEq, List.not_mem_nil, or_false] at hi
      rcases hi with ⟨rfl, rfl⟩ | ⟨rfl, rfl⟩ | ⟨rfl, rfl⟩ | ⟨rfl, rfl⟩ | ⟨rfl, rfl⟩ <;> rfl
    exact ⟨fun full => run.trans (sfuOp_full ht h full), fun room => ⟨sfuRequest s vd va pg f z fn, run.trans (sfuOp_room ht h room),
      rfl, rfl, rfl, rfl, fun j hj => sfuRequest_lane hj⟩⟩
  case accept =>
    exact sfuAccept_takes last hq (fun q hq' => fun he => older q hq' ((sfuEligible_iff ..).1 he)) ((sfuEligible_iff ..).2 hr)
  case none => exact sfuAccept_none (sfuNext_none fun q hq he => none q hq ((sfuEligible_iff ..).1 he))

end Sys2Proof.Machine
end

section
/-! SUPPORT. What an instruction that works on registers may change: its destinations, its take sources, its own thread's way, and the
bookkeeping of exceptions (O6). -/

namespace Sys2Proof.Machine

/-! ### Threads, cores and clusters -/

/-- From `th` to `th'` the registers `dx`, `dv` and `dp` have changed, and of the x registers `src` the full bits. -/
structure Thread.Kept (dx dv dp src : List Nat) (th th' : Thread) : Prop where
  sid : th'.sid = th.sid
  xval : ∀ r, r ∉ dx → th'.xval r = th.xval r
  getX : ∀ r, r ∉ dx → r ∉ src → th'.getX r = th.getX r
  getV : ∀ r, r ∉ dv → th'.getV r = th.getV r
  getP : ∀ r, r ∉ dp → th'.getP r = th.getP r
  pbad : ∀ r, r ∉ dp → th'.pbad.getLsbD r = th.pbad.getLsbD r
  q : th'.q = th.q
  wlim : th'.wlim = th.wlim

/-- The control registers of a core that no instruction on registers writes, and those that a trap of the root slot does (R293). -/
structure Core.Kept (root : Bool) (c d : Core) : Prop where
  psel : d.psel = c.psel
  tqbase : d.tqbase = c.tqbase
  tqcnt : d.tqcnt = c.tqcnt
  rvec : d.rvec = c.rvec
  trapcfg : d.trapcfg = c.trapcfg
  trap : root = false → d.repc = c.repc ∧ d.rcause = c.rcause ∧ d.raddr = c.raddr

/-- The TLB and the error registers of a cluster. -/
structure Cluster.Kept (c d : Cluster) : Prop where
  tlb : d.tlb = c.tlb
  ovf : d.ovf = c.ovf
  elog : d.elog = c.elog
  elogsel : d.elogsel = c.elogsel
  ecnt : d.ecnt = c.ecnt
  einj : d.einj = c.einj

theorem Core.Kept.refl (root : Bool) (c : Core) : c.Kept root c := ⟨rfl, rfl, rfl, rfl, rfl, fun _ => ⟨rfl, rfl, rfl⟩⟩

theorem Core.Kept.trans {root : Bool} {c d e : Core} (h : c.Kept root d) (g : d.Kept root e) : c.Kept root e :=
  ⟨g.psel.trans h.psel, g.tqbase.trans h.tqbase, g.tqcnt.trans h.tqcnt, g.rvec.trans h.rvec, g.trapcfg.trans h.trapcfg, fun r => by
    obtain ⟨h1, h2, h3⟩ := h.trap r
    obtain ⟨g1, g2, g3⟩ := g.trap r
    exact ⟨g1.trans h1, g2.trans h2, g3.trans h3⟩⟩

theorem Cluster.Kept.refl (c : Cluster) : c.Kept c := ⟨rfl, rfl, rfl, rfl, rfl, rfl⟩

theorem Cluster.Kept.trans {c d e : Cluster} (h : c.Kept d) (g : d.Kept e) : c.Kept e :=
  ⟨g.tlb.trans h.tlb, g.ovf.trans h.ovf, g.elog.trans h.elog, g.elogsel.trans h.elogsel, g.ecnt.trans h.ecnt, g.einj.trans h.einj⟩

section
variable {dx dv dp src : List Nat}

theorem Thread.Kept.refl (th : Thread) : th.Kept dx dv dp src th :=
  ⟨rfl, fun _ _ => rfl, fun _ _ _ => rfl, fun _ _ => rfl, fun _ _ => rfl, fun _ _ => rfl, rfl, rfl⟩

theorem Thread.Kept.trans {a b c : Thread} (h : a.Kept dx dv dp src b) (g : b.Kept dx dv dp src c) : a.Kept dx dv dp src c :=
  ⟨g.sid.trans h.sid, fun r hr => (g.xval r hr).trans (h.xval r hr), fun r hr hs => (g.getX r hr hs).trans (h.getX r hr hs),
    fun r hr => (g.getV r hr).trans (h.getV r hr), fun r hr => (g.getP r hr).trans (h.getP r hr),
    fun r hr => (g.pbad r hr).trans (h.pbad r hr), g.q.trans h.q, g.wlim.trans h.wlim⟩

theorem Thread.Kept.setX {r : Nat} (th : Thread) (v : Reg Word) (hr : r ∈ dx) : th.Kept dx dv dp src (th.setX r v) := by
  have other (q : Nat) (hq : q ∉ dx) : (th.setX r v).getX q = th.getX q := by
    rw [Thread.getX_setX, if_neg fun h : q = r ∧ r ≠ 0 => hq (h.1 ▸ hr)]
  refine ⟨?_, fun q hq => congrArg Reg.val (other q hq), fun q hq _ => other q hq, ?_, ?_, ?_, ?_, ?_⟩ <;> unfold Thread.setX <;> split
    <;> simp [Thread.getV, Thread.getP]

theorem Thread.Kept.emptyX {r : Nat} (th : Thread) (hr : r ∈ src) : th.Kept dx dv dp src (th.emptyX r) := by
  refine ⟨?_, fun q _ => Thread.xval_emptyX th r q, fun q _ hq => ?_, ?_, ?_, ?_, ?_, ?_⟩
  case refine_2 => rw [Thread.emptyX, Thread.getX_setX, if_neg fun h : q = r ∧ r ≠ 0 => hq (h.1 ▸ hr)]
  all_goals unfold Thread.emptyX Thread.setX; split <;> simp [Thread.getV, Thread.getP]

theorem Thread.Kept.setV {r : Nat} (th : Thread) (v : Reg VWord) (hr : r ∈ dv) : th.Kept dx dv dp src (th.setV r v) :=
  ⟨rfl, fun _ _ => rfl, fun _ _ _ => rfl, fun q hq => by rw [Thread.getV_setV, if_neg fun h : q = r => hq (h ▸ hr)], fun _ _ => rfl,
    fun _ _ => rfl, rfl, rfl⟩

theorem Thread.Kept.setP {r : Nat} (th : Thread) (v : PWord) (hr : r ∈ dp) : th.Kept dx dv dp src (th.setP r v) := by
  refine ⟨rfl, fun _ _ => rfl, fun _ _ _ => rfl, fun _ _ => rfl, fun q hq => ?_, fun q hq => ?_, rfl, rfl⟩
  · rw [Thread.getP_setP, if_neg fun h : q = r => hq (h ▸ hr)]
  · have hne : q ≠ r := fun h => hq (h ▸ hr)
    by_cases low : q < 8
    · have off : (1#8 <<< r).getLsbD q = false := by
        rw [BitVec.getLsbD_shiftLeft, BitVec.getLsbD_one]
        simp
        omega
      rw [Thread.setP, BitVec.getLsbD_and, BitVec.getLsbD_not, off]
      simp [low]
    · rw [BitVec.getLsbD_of_ge _ _ (by omega), BitVec.getLsbD_of_ge _ _ (by omega)]

/-- The take sources of `l` are among `src`. -/
def TakesIn (src : List Nat) (l : List Src) : Prop := ∀ a ∈ l, a.mode = .take → a.reg ∈ src

theorem TakesIn.nil : TakesIn src [] := fun _ h => nomatch h

theorem Thread.Kept.marks {n : Needs} (th : Thread) (h : TakesIn src n.src) : th.Kept dx dv dp src (n.marks th) := by
  have go (l : List Src) (hl : ∀ a ∈ l, a.reg ∈ src) (th : Thread) :
      th.Kept dx dv dp src (l.foldl (fun th a => th.emptyX a.reg) th) := by
    induction l generalizing th with
    | nil => exact .refl th
    | cons a l ih =>
      exact (Thread.Kept.emptyX th (hl a List.mem_cons_self)).trans (ih (fun b hb => hl b (List.mem_cons_of_mem _ hb)) _)
  refine go _ (fun a ha => ?_) th
  obtain ⟨ha, mode⟩ := List.mem_filter.1 ha
  exact h a ha (of_decide_eq_true mode)

/-! ### States -/

/-- From `s` to `t` an instruction on registers has run: the frame of O6. -/
structure Framed (dx dv dp src : List Nat) (s t : State) : Prop where
  cur : t.cur = s.cur
  me : s.me.Kept dx dv dp src t.me
  others : ∀ u, u ≠ s.cur → t.thr u = s.thr u
  hbm : t.hbm = s.hbm
  hostMem : t.hostMem = s.hostMem
  pad : t.pad = s.pad
  padWords : t.padWords = s.padWords
  acc : t.acc = s.acc
  parts : t.parts = s.parts
  agents : t.agents = s.agents
  clusters : ∀ g, (s.cluster g).Kept (t.cluster g)
  cores : ∀ k, k ≠ s.me.sid / 16 → t.core k = s.core k
  core : (s.core (s.me.sid / 16)).Kept s.me.isRoot (t.core (s.me.sid / 16))

theorem Framed.refl (s : State) : Framed dx dv dp src s s :=
  ⟨rfl, .refl _, fun _ _ => rfl, rfl, rfl, rfl, rfl, rfl, rfl, rfl, fun _ => .refl _, fun _ _ => rfl, .refl _ _⟩

theorem Framed.sid {s t : State} (h : Framed dx dv dp src s t) : t.me.sid = s.me.sid := h.me.sid

theorem Framed.isRoot {s t : State} (h : Framed dx dv dp src s t) : t.me.isRoot = s.me.isRoot := by
  rw [Thread.isRoot, h.sid]
  rfl

theorem Framed.trans {s t u : State} (h : Framed dx dv dp src s t) (g : Framed dx dv dp src t u) : Framed dx dv dp src s u := by
  have core := g.core
  rw [h.sid, h.isRoot] at core
  exact ⟨g.cur.trans h.cur, h.me.trans g.me, fun v hv => (g.others v (h.cur ▸ hv)).trans (h.others v hv), g.hbm.trans h.hbm,
    g.hostMem.trans h.hostMem, g.pad.trans h.pad, g.padWords.trans h.padWords, g.acc.trans h.acc, g.parts.trans h.parts,
    g.agents.trans h.agents, fun k => (h.clusters k).trans (g.clusters k),
    fun k hk => (g.cores k (h.sid ▸ hk)).trans (h.cores k hk), h.core.trans core⟩

theorem Framed.modThr {s : State} {f : Thread → Thread} (h : s.me.Kept dx dv dp src (f s.me)) :
    Framed dx dv dp src s (s.modThr s.cur f) := by
  have me : (s.modThr s.cur f).me = f s.me := State.thr_modThr_same ..
  exact ⟨rfl, me ▸ h, fun u hu => State.thr_modThr_other s f hu, rfl, rfl, rfl, rfl, rfl, rfl, rfl, fun _ => .refl _,
    fun _ _ => rfl, .refl _ _⟩

theorem Framed.modCore {s : State} {k : Nat} {f : Core → Core} (hk : k = s.me.sid / 16)
    (h : (s.core k).Kept s.me.isRoot (f (s.core k))) : Framed dx dv dp src s (s.modCore k f) := by
  subst hk
  refine ⟨rfl, .refl _, fun _ _ => rfl, rfl, rfl, rfl, rfl, rfl, rfl, rfl, fun _ => .refl _, fun j hj => ?_, ?_⟩
  · exact Table.get_set_other _ _ _ hj
  · rw [State.core_modCore_same]
    exact h

/-! ### Exceptions (R290-R293, R331) -/

theorem Table.find_mapVals {α : Type} (t : Table α) (f : α → α) (k : Nat) :
    Table.find? (Table.mapVals t f) k = (Table.find? t k).map f := by
  induction t with
  | nil => rfl
  | cons e t ih =>
    obtain ⟨j, v⟩ := e
    rw [Table.mapVals, List.map_cons, Table.find?, Table.find?]
    split
    · rfl
    · exact ih

theorem Framed.forgetMisses (s : State) (t : Nat) : Framed dx dv dp src s (s.forgetMisses t) := by
  refine ⟨rfl, .refl _, fun _ _ => rfl, rfl, rfl, rfl, rfl, rfl, rfl, rfl, fun g => ?_, fun _ _ => rfl, .refl _ _⟩
  unfold State.cluster State.forgetMisses Table.get
  dsimp only
  rw [Table.find_mapVals]
  cases Table.find? s.clusters g <;> exact ⟨rfl, rfl, rfl, rfl, rfl, rfl⟩

theorem Framed.arrays (s : State) (ar : Table ArrayState) : Framed dx dv dp src s { s with arrays := ar } :=
  ⟨rfl, .refl _, fun _ _ => rfl, rfl, rfl, rfl, rfl, rfl, rfl, rfl, fun _ => .refl _, fun _ _ => rfl, .refl _ _⟩

theorem Framed.postBreach (s : State) (ten part master : Nat) : Framed dx dv dp src s (s.postBreach ten part master) :=
  ⟨rfl, .refl _, fun _ _ => rfl, rfl, rfl, rfl, rfl, rfl, rfl, rfl, fun _ => .refl _, fun _ _ => rfl, .refl _ _⟩

theorem Framed.countEvent (s : State) (i : Nat) : Framed dx dv dp src s (s.countEvent (s.me.sid / 16) i) :=
  .modCore rfl ⟨rfl, rfl, rfl, rfl, rfl, fun _ => ⟨rfl, rfl, rfl⟩⟩

theorem Framed.rootTrap {s : State} (root : s.me.isRoot = true) (pc : Word) (w0 : Nat) (info : Word) :
    Framed dx dv dp src s (s.rootTrap s.cur pc w0 info) := by
  unfold State.rootTrap
  refine ((Framed.forgetMisses s s.cur).trans (.modCore rfl ⟨rfl, rfl, rfl, rfl, rfl, fun user => ?_⟩)).trans (.modThr ?_)
  · exact Bool.noConfusion (root.symm.trans user)
  · exact ⟨rfl, fun _ _ => rfl, fun _ _ _ => rfl, fun _ _ => rfl, fun _ _ => rfl, fun _ _ => rfl, rfl, rfl⟩

theorem Framed.freeze (s : State) (cls : Nat) (pc : Word) (rec : List Word) :
    Framed dx dv dp src s (s.freeze s.cur cls pc rec) := by
  unfold State.freeze
  have frozen : Framed dx dv dp src s ((s.forgetMisses s.cur).modThr s.cur fun th =>
      { th with frozen := some cls, frozeAt := s.cycle, record := some rec, pc := pc, wait := none, answers := [] }) :=
    (Framed.forgetMisses s s.cur).trans (.modThr (s := s.forgetMisses s.cur)
      ⟨rfl, fun _ _ => rfl, fun _ _ _ => rfl, fun _ _ => rfl, fun _ _ => rfl, fun _ _ => rfl, rfl, rfl⟩)
  dsimp only
  obtain ⟨ar, ended⟩ := State.endRunOf_eq (State.modCore ((s.forgetMisses s.cur).modThr s.cur fun th =>
      { th with frozen := some cls, frozeAt := s.cycle, record := some rec, pc := pc, wait := none, answers := [] })
    (coreOf (((s.forgetMisses s.cur).modThr s.cur fun th => { th with
      frozen := some cls, frozeAt := s.cycle, record := some rec, pc := pc, wait := none, answers := [] }).thr s.cur).sid)
      fun c => { c with records := c.records ++ [rec] }) s.cur
  rw [ended]
  exact (frozen.trans (.modCore rfl ⟨rfl, rfl, rfl, rfl, rfl, fun _ => ⟨rfl, rfl, rfl⟩⟩)).trans (.arrays _ ar)

theorem Framed.countTrap (s : State) (cls : Nat) : Framed dx dv dp src s (s.countTrap (coreOf s.me.sid) cls) := by
  unfold State.countTrap
  split
  · exact .countEvent s _
  · exact .refl s

theorem Framed.cqHeld (s : State) (cq : Table (List (List Word))) : Framed dx dv dp src s { s with cqHeld := cq } :=
  ⟨rfl, .refl _, fun _ _ => rfl, rfl, rfl, rfl, rfl, rfl, rfl, rfl, fun _ => .refl _, fun _ _ => rfl, .refl _ _⟩

theorem Framed.takeTrap (s : State) (cls detail : Nat) (info : Word) : Framed dx dv dp src s (s.takeTrap cls detail info) := by
  have count := Framed.countTrap (dx := dx) (dv := dv) (dp := dp) (src := src) s cls
  cases root : s.me.isRoot with
  | true =>
    rw [State.takeTrap_root root, ← count.cur]
    exact count.trans (.rootTrap (count.isRoot.trans root) _ _ _)
  | false =>
    obtain ⟨cq, h⟩ := State.takeTrap_user root cls detail info
    have queued := count.trans (.cqHeld _ cq)
    rw [h, ← queued.cur]
    exact queued.trans (.freeze _ _ _ _)

/-! ### Instructions (R24-R27) -/

theorem Framed.parkOn (s : State) (w : Wait) : Framed dx dv dp src s (s.parkOn w) :=
  .modThr ⟨rfl, fun _ _ => rfl, fun _ _ _ => rfl, fun _ _ => rfl, fun _ _ => rfl, fun _ _ => rfl, rfl, rfl⟩

theorem Framed.issued (s : State) : Framed dx dv dp src s s.issued := by
  unfold State.issued
  split
  · exact .modThr ⟨rfl, fun _ _ => rfl, fun _ _ _ => rfl, fun _ _ => rfl, fun _ _ => rfl, fun _ _ => rfl, rfl, rfl⟩
  · exact .refl s

theorem Framed.advance (s : State) : Framed dx dv dp src s s.advance :=
  .modThr ⟨rfl, fun _ _ => rfl, fun _ _ _ => rfl, fun _ _ => rfl, fun _ _ => rfl, fun _ _ => rfl, rfl, rfl⟩

theorem Framed.jump (s : State) (pc : Word) : Framed dx dv dp src s (s.jump pc) :=
  .modThr ⟨rfl, fun _ _ => rfl, fun _ _ _ => rfl, fun _ _ => rfl, fun _ _ => rfl, fun _ _ => rfl, rfl, rfl⟩

/-- A destination: x0, a write to which is discarded (R21), or a register of the list. -/
def Writes (dx : List Nat) (rd : Nat) : Prop := rd = 0 ∨ rd ∈ dx

theorem Framed.setX {rd : Nat} {f : Thread → Reg Word} (s : State) (h : Writes dx rd) :
    Framed dx dv dp src s (s.modThr s.cur fun th => th.setX rd (f th)) := by
  rcases h with rfl | h
  · exact .modThr (.refl _)
  · exact .modThr (.setX _ _ h)

theorem Framed.wx {rd : Nat} (s : State) (v : Word) (h : Writes dx rd) : Framed dx dv dp src s (s.wx rd v) := .setX s h

theorem Framed.deferX {rd : Nat} (s : State) (h : Writes dx rd) : Framed dx dv dp src s (s.deferX rd) := .setX s h

theorem Framed.wp {pd : Nat} (s : State) (v : PWord) (h : pd ∈ dp) : Framed dx dv dp src s (s.wp pd v) := .modThr (.setP _ _ h)

/-- What an instruction's own checks and effects may come to. -/
def Verdict.Framed (dx dv dp src : List Nat) (s : State) : Verdict → Prop
  | .go t => Machine.Framed dx dv dp src s t
  | .trap _ _ _ => True
  | .trapAfter _ _ _ f => Machine.Framed dx dv dp src s (f s)
  | .park _ f => Machine.Framed dx dv dp src s (f s)
  | .stop _ => True

theorem Verdict.Framed.close {s t : State} {v : Verdict} (h : v.Framed dx dv dp src s) (ht : v.close s = .next t) :
    Machine.Framed dx dv dp src s t := by
  cases v with
  | go u =>
    cases ht
    exact h.trans (.issued u)
  | trap c d i =>
    cases ht
    exact .takeTrap s c d i
  | trapAfter c d i f =>
    cases ht
    exact h.trans (.takeTrap (f s) c d i)
  | park w f =>
    cases ht
    exact h.trans (.parkOn (f s) w)
  | stop f => cases ht

/-- A result whose next state is in the frame. -/
def Result.Framed (dx dv dp src : List Nat) (s : State) (r : Result) : Prop := ∀ t, r = .next t → Machine.Framed dx dv dp src s t

theorem Framed.take {s : State} {n : Needs} (h : TakesIn src n.src) : Framed dx dv dp src s (s.take n) := .modThr (.marks _ h)

/-- An instruction whose own verdict is in the frame is in the frame. -/
theorem issue_framed {s : State} {n : Needs} {k : State → Verdict} (h : (k (s.take n)).Framed dx dv dp src s) :
    Result.Framed dx dv dp src s (issue n k s) := by
  intro t ht
  rcases issue_cases n k s with ⟨-, e⟩ | ⟨-, -, e⟩ | ⟨-, -, -, e⟩ | ⟨-, -, -, e⟩ <;> rw [e] at ht
  · cases ht
    exact .parkOn s _
  · cases ht
    exact .takeTrap s _ _ _
  · cases ht
    exact .takeTrap s _ _ _
  · exact h.close ht

theorem issueSimple_framed {s : State} {n : Needs} {f : State → State} (hn : TakesIn src n.src)
    (hf : ∀ u : State, Framed dx dv dp src u (f u)) : Result.Framed dx dv dp src s (issueSimple n f s) :=
  issue_framed (((Framed.take hn).trans (hf _)).trans (.advance _))

/-! ### Vector results (R91, R101, R105) -/

theorem Framed.countIf (s : State) (c : Bool) {k : Nat} (i : Nat) (hk : k = s.me.sid / 16) :
    Framed dx dv dp src s (s.countIf c k i) := by
  subst hk
  cases c
  · exact .refl s
  · exact .countEvent s i

theorem Framed.countResult (s : State) (o : VOut) : Framed dx dv dp src s (s.countResult o) := by
  have nanp := Framed.countIf (dx := dx) (dv := dv) (dp := dp) (src := src) s o.nanp (k := s.myCore) 0 rfl
  have ovfl := nanp.trans (.countIf _ o.ovfl (k := s.myCore) 1 (congrArg (· / 16) nanp.sid.symm))
  exact ovfl.trans (.countIf _ o.csat (k := s.myCore) 3 (congrArg (· / 16) ovfl.sid.symm))

/-- A change of a core's normaliser and of whether the own thread is held. -/
theorem Framed.normaliser {s : State} {k : Nat} {g : Core → Core} (hk : k = s.me.sid / 16)
    (hg : (s.core k).Kept s.me.isRoot (g (s.core k))) :
    Framed dx dv dp src s ((s.modCore k g).modThr s.cur fun th => { th with norm := true }) :=
  (Framed.modCore hk hg).trans (.modThr (s := s.modCore k g)
    ⟨rfl, fun _ _ => rfl, fun _ _ _ => rfl, fun _ _ => rfl, fun _ _ => rfl, fun _ _ => rfl, rfl, rfl⟩)

theorem Framed.callNorm {s : State} {k : Nat} {j : NormJob} (hk : k = s.me.sid / 16) (hj : j.t = s.cur) (sfu : j.sfu = none) :
    Framed dx dv dp src s (s.callNorm k j) := by
  subst hk
  have count := Framed.countEvent (dx := dx) (dv := dv) (dp := dp) (src := src) s 2
  by_cases idle : (s.core (s.me.sid / 16)).normCur = none
  · rw [callNorm_idle j idle, State.startNorm, hj]
    split
    · exact count.trans (.normaliser rfl ⟨rfl, rfl, rfl, rfl, rfl, fun _ => ⟨rfl, rfl, rfl⟩⟩)
    · exact count.trans (.modCore rfl ⟨rfl, rfl, rfl, rfl, rfl, fun _ => ⟨rfl, rfl, rfl⟩⟩)
  · rw [callNorm_busy idle sfu, waitNorm_eq _ (s := s.countEvent (s.me.sid / 16) 2) hj sfu]
    exact count.trans (.normaliser rfl ⟨rfl, rfl, rfl, rfl, rfl, fun _ => ⟨rfl, rfl, rfl⟩⟩)

theorem Framed.finishV {vd : Nat} (s : State) (o : VOut) (h : vd ∈ dv) : Framed dx dv dp src s (s.finishV vd o) := by
  have count := Framed.countResult (dx := dx) (dv := dv) (dp := dp) (src := src) s o
  cases norm : o.norm with
  | false =>
    rw [finishV_plain s vd norm]
    exact count.trans (.modThr (.setV _ _ h))
  | true =>
    rw [finishV_norm s vd norm]
    have deferred : Framed dx dv dp src s ((s.countResult o).deferV vd) := count.trans (.modThr (.setV _ _ h))
    exact deferred.trans (.callNorm (congrArg (· / 16) deferred.sid.symm) deferred.cur.symm rfl)

/-! ### The forms of the register-only instructions -/

theorem alu1_framed {s : State} {rd : Nat} {a : Src} (f : Word → Word) (hd : Writes dx rd) (ha : TakesIn src [a]) :
    Result.Framed dx dv dp src s (alu1 rd a f s) := issueSimple_framed ha fun _ => .wx _ _ hd

theorem alu2_framed {s : State} {rd : Nat} {a b : Src} (f : Word → Word → Word) (hd : Writes dx rd) (ha : TakesIn src [a, b]) :
    Result.Framed dx dv dp src s (alu2 rd a b f s) := issueSimple_framed ha fun _ => .wx _ _ hd

theorem divide_framed {s : State} {rd : Nat} {a b : Src} (f : Word → Word → Word) (hd : Writes dx rd) (ha : TakesIn src [a, b]) :
    Result.Framed dx dv dp src s (divide rd a b f s) :=
  issueSimple_framed ha fun u => by
    have deferred := Framed.deferX (dv := dv) (dp := dp) (src := src) u hd
    exact deferred.trans (.modCore (congrArg (· / 16) deferred.sid.symm) ⟨rfl, rfl, rfl, rfl, rfl, fun _ => ⟨rfl, rfl, rfl⟩⟩)

theorem writes_framed {s : State} {n : Needs} {rd : Nat} {f : State → Word} (hn : TakesIn src n.src) (hd : Writes dx rd) :
    Result.Framed dx dv dp src s (issueSimple n (fun s => s.wx rd (f s)) s) := issueSimple_framed hn fun _ => .wx _ _ hd

theorem writesP_framed {s : State} {n : Needs} {pd : Nat} {f : State → PWord} (hn : TakesIn src n.src) (hd : pd ∈ dp) :
    Result.Framed dx dv dp src s (issueSimple n (fun s => s.wp pd (f s)) s) := issueSimple_framed hn fun _ => .wp _ _ hd

theorem branch_framed {s : State} {w : Nat} {a b : Src} (off : BitVec w) (c : Word → Word → Bool) (ha : TakesIn src [a, b]) :
    Result.Framed dx dv dp src s (branch a b off c s) := by
  refine issue_framed ((Framed.take (n := { src := [a, b] }) ha).trans ?_)
  split
  · exact .jump _ _
  · exact .advance _

theorem jumpLink_framed {s : State} {w rd : Nat} (off : BitVec w) (hd : Writes dx rd) :
    Result.Framed dx dv dp src s (jumpLink rd off s) :=
  issue_framed (((Framed.take (n := { dx := [rd] }) TakesIn.nil).trans (.wx _ _ hd)).trans (.jump _ _))

theorem jumpReg_framed {s : State} {rd : Nat} {a : Src} (imm : Word) (hd : Writes dx rd) (ha : TakesIn src [a]) :
    Result.Framed dx dv dp src s (jumpReg rd a imm s) := by
  refine issue_framed ?_
  dsimp only
  split
  · trivial
  · exact ((Framed.take (n := { src := [a], dx := [rd] }) ha).trans (.wx _ _ hd)).trans (.jump _ _)

theorem skipPool_framed {s : State} (n : Nat) : Result.Framed dx dv dp src s (skipPool n s) :=
  issue_framed ((Framed.take (n := {}) TakesIn.nil).trans (.jump _ _))

theorem crd_framed {s : State} {rd : Nat} {a : Src} (hd : Writes dx rd) (ha : TakesIn src [a]) :
    Result.Framed dx dv dp src s (execCrd rd a s) := by
  refine issue_framed ?_
  unfold withCtl
  dsimp only
  split
  · trivial
  · split
    · trivial
    · exact ((Framed.take ha).trans (.wx _ _ hd)).trans (.advance _)

theorem waittl_framed {s : State} {q : Nat} {a : Src} (ha : TakesIn src [a]) : Result.Framed dx dv dp src s (execWaittl q a s) := by
  refine issue_framed ?_
  split
  · exact (Framed.take ha).trans (.advance _)
  · exact .refl s

theorem vectorOp_framed {s : State} {n : Needs} {vd : Nat} {f : State → VOut} (hn : TakesIn src n.src) (hd : vd ∈ dv) :
    Result.Framed dx dv dp src s (vectorOp n vd f s) :=
  issueSimple_framed (n := { n with dv := [vd] }) hn fun u => .finishV u _ hd

theorem vcvt_framed {s : State} {vd va pg : Nat} (t t' : Ety) (r : Rnd) (o : Ovf) (z : Bool) (hd : vd ∈ dv) :
    Result.Framed dx dv dp src s (execVcvt vd va pg t t' r o z s) := by
  refine issue_framed ?_
  dsimp only
  split
  · trivial
  · exact ((Framed.take (n := { vs := vsrc z vd [va], ps := [pg], dv := [vd] }) TakesIn.nil).trans (.finishV _ _ hd)).trans (.advance _)

end

/-! ### Obligation O6 -/

/-- `i` is in the frame with these destinations; its take sources are `a` and `b`. -/
def InFrame (s : State) (a b : Src) (dx dv dp : List Nat) (i : Instr) : Prop := Result.Framed dx dv dp [a.reg, b.reg] s (exec i s)

theorem TakesIn.left (a b : Src) : TakesIn [a.reg, b.reg] [a] := fun c hc _ => by simp_all

theorem TakesIn.right (a b : Src) : TakesIn [a.reg, b.reg] [b] := fun c hc _ => by simp_all

theorem TakesIn.both (a b : Src) : TakesIn [a.reg, b.reg] [a, b] := fun c hc _ => by
  rcases List.mem_cons.1 hc with rfl | hc
  · exact List.mem_cons_self
  · exact TakesIn.right a b c hc ‹_›

/-- A compact form reads its registers in wait mode (R45). -/
theorem TakesIn.wait {src : List Nat} (l : List Nat) : TakesIn src (l.map cs) := fun c hc mode => by
  obtain ⟨r, -, rfl⟩ := List.mem_map.1 hc
  cases mode

theorem Writes.self (rd : Nat) : Writes [rd] rd := .inr List.mem_cons_self

theorem Result.Framed.inFrame {s : State} {a b : Src} {dx dv dp : List Nat} {i : Instr} {r : Result} (hi : exec i s = r)
    (h : Result.Framed dx dv dp [a.reg, b.reg] s r) : InFrame s a b dx dv dp i := fun t ht => h t (hi ▸ ht)

section
variable (s : State) (rd vd va vb pd pa pb pg : Nat) (a b : Src) (i13 : BitVec 13) (i20 : BitVec 20) (i11 : BitVec 11)
  (i7 : BitVec 7) (i6 : BitVec 6) (y y2 : Ety) (cc : Cmp) (rn : Rnd) (ov : Ovf) (sz : ESize) (z : Bool)

/-- The instructions that write one x register. -/
theorem writesX_inFrame : ∀ i ∈ ([.add rd a b, .sub rd a b, .and rd a b, .or rd a b, .xor rd a b, .sll rd a b, .srl rd a b,
    .sra rd a b, .slt rd a b, .sltu rd a b, .min rd a b, .max rd a b, .minu rd a b, .maxu rd a b, .mul rd a b, .mulh rd a b,
    .mulhu rd a b, .div rd a b, .divu rd a b, .rem rd a b, .remu rd a b, .clz rd a, .ctz rd a, .popc rd a, .addsh1 rd a b, .addsh2
    rd a b, .addsh3 rd a b, .andn rd a b, .sextw rd a, .zextw rd a, .addi rd a i13, .andi rd a i13, .ori rd a i13, .xori rd a i13,
    .slti rd a i13, .slli rd a i6, .srli rd a i6, .srai rd a i6, .lui rd i20, .addpc rd i20, .jal rd i20, .jalr rd a i13, .whoami
    rd a, .crd rd a, .pcount pa rd y, .pfirst pa rd y, .vext va rd b sz, .vwidth rd] : List Instr), InFrame s a b [rd] [] [] i :=
    by
  have two {i : Instr} {f : Word → Word → Word} (hi : exec i s = alu2 rd a b f s) : InFrame s a b [rd] [] [] i :=
    .inFrame hi (alu2_framed f (.self rd) (.both a b))
  have quot {i : Instr} {f : Word → Word → Word} (hi : exec i s = divide rd a b f s) : InFrame s a b [rd] [] [] i :=
    .inFrame hi (divide_framed f (.self rd) (.both a b))
  have one {i : Instr} {f : Word → Word} (hi : exec i s = alu1 rd a f s) : InFrame s a b [rd] [] [] i :=
    .inFrame hi (alu1_framed f (.self rd) (.left a b))
  have answers {i : Instr} {n : Needs} {f : State → Word} (hn : TakesIn [a.reg, b.reg] n.src)
      (hi : exec i s = issueSimple n (fun s => s.wx rd (f s)) s) : InFrame s a b [rd] [] [] i :=
    .inFrame hi (writes_framed hn (.self rd))
  simp only [List.forall_mem_cons]
  exact ⟨two (exec_add ..), two (exec_sub ..), two (exec_and ..), two (exec_or ..), two (exec_xor ..), two (exec_sll ..), two
    (exec_srl ..), two (exec_sra ..), two (exec_slt ..), two (exec_sltu ..), two (exec_min ..), two (exec_max ..), two
    (exec_minu ..), two (exec_maxu ..), two (exec_mul ..), two (exec_mulh ..), two (exec_mulhu ..), quot (exec_div ..), quot
    (exec_divu ..), quot (exec_rem ..), quot (exec_remu ..), one (exec_clz ..), one (exec_ctz ..), one (exec_popc ..), two
    (exec_addsh1 ..), two (exec_addsh2 ..), two (exec_addsh3 ..), two (exec_andn ..), one (exec_sextw ..), one (exec_zextw ..),
    one (exec_addi ..), one (exec_andi ..), one (exec_ori ..), one (exec_xori ..), one (exec_slti ..), one (exec_slli ..), one
    (exec_srli ..), one (exec_srai ..), answers .nil (exec_lui ..), answers .nil (exec_addpc ..), .inFrame (exec_jal ..)
    (jumpLink_framed i20 (.self rd)), .inFrame (exec_jalr ..) (jumpReg_framed _ (.self rd) (.left a b)), answers (.left a b)
    (exec_whoami ..), .inFrame (exec_crd ..) (crd_framed (.self rd) (.left a b)), answers .nil (exec_pcount ..), answers .nil
    (exec_pfirst ..), answers (.right a b) (exec_vext ..), answers .nil (exec_vwidth ..), fun _ h => nomatch h⟩

/-- The 16-bit ALU forms (R45). -/
theorem compact_inFrame : ∀ i ∈ ([.cMov rd va, .cAdd rd va, .cSub rd va, .cAnd rd va, .cOr rd va, .cXor rd va, .cSll rd va,
    .cSrl rd va, .cAddi rd i7, .cLi rd i7] : List Instr), InFrame s a b [rd] [] [] i := by
  have two {i : Instr} {p q : Nat} {f : Word → Word → Word} (hi : exec i s = alu2 rd (cs p) (cs q) f s) :
      InFrame s a b [rd] [] [] i := .inFrame hi (alu2_framed f (.self rd) (.wait [p, q]))
  have one {i : Instr} {p : Nat} {f : Word → Word} (hi : exec i s = alu1 rd (cs p) f s) : InFrame s a b [rd] [] [] i :=
    .inFrame hi (alu1_framed f (.self rd) (.wait [p]))
  simp only [List.forall_mem_cons]
  exact ⟨two (exec_cMov ..), two (exec_cAdd ..), two (exec_cSub ..), two (exec_cAnd ..), two (exec_cOr ..), two (exec_cXor
    ..), two (exec_cSll ..), two (exec_cSrl ..), one (exec_cAddi ..), one (exec_cLi ..), fun _ h => nomatch h⟩

/-- The instructions that write no register. -/
theorem flow_inFrame : ∀ i ∈ ([.beq a b i11, .bne a b i11, .blt a b i11, .bge a b i11, .bltu a b i11, .bgeu a b i11, .cBeqz rd
    i7, .cBnez rd i7, .cJ i11, .cJr rd, .skipw i20, .cSkip i11, .cNop, .waittl pa a] : List Instr), InFrame s a b [] [] [] i := by
  have two {i : Instr} {c : Word → Word → Bool} (hi : exec i s = branch a b i11 c s) : InFrame s a b [] [] [] i :=
    .inFrame hi (branch_framed i11 c (.both a b))
  have zero {i : Instr} {c : Word → Word → Bool} (hi : exec i s = branch (cs rd) (cs 0) i7 c s) : InFrame s a b [] [] [] i :=
    .inFrame hi (branch_framed i7 c (.wait [rd, 0]))
  simp only [List.forall_mem_cons]
  exact ⟨two (exec_beq ..), two (exec_bne ..), two (exec_blt ..), two (exec_bge ..), two (exec_bltu ..), two (exec_bgeu ..),
    zero (exec_cBeqz ..), zero (exec_cBnez ..), .inFrame (exec_cJ ..) (jumpLink_framed i11 (.inl rfl)), .inFrame (exec_cJr ..)
    (jumpReg_framed _ (.inl rfl) (.wait [rd])), .inFrame (exec_skipw ..) (skipPool_framed _), .inFrame (exec_cSkip ..)
    (skipPool_framed _), .inFrame (exec_cNop ..) (alu2_framed _ (.inl rfl) (.wait [0, 0])), .inFrame (exec_waittl ..)
    (waittl_framed (.left a b)), fun _ h => nomatch h⟩

theorem vint_inFrame {i : Instr} {mac : Bool} {f : Nat → Nat → Nat → Nat} (hi : exec i s = vint vd va vb pg y z mac f s) :
    InFrame s a b [] [vd] [] i :=
  .inFrame hi (vectorOp_framed (n := { vs := vsrc (z && !mac) vd [va, vb], ps := [pg] }) .nil List.mem_cons_self)

theorem vint1_inFrame {i : Instr} {f : Nat → Nat} (hi : exec i s = vint1 vd va pg y z f s) : InFrame s a b [] [vd] [] i :=
  .inFrame hi (vectorOp_framed (n := { vs := vsrc z vd [va], ps := [pg] }) .nil List.mem_cons_self)

theorem vflt_inFrame {i : Instr} {fma : Bool} {f : Fmt → Nat → Nat → Nat → FRes} (hi : exec i s = vflt vd va vb pg y z fma f s) :
    InFrame s a b [] [vd] [] i :=
  .inFrame hi (vectorOp_framed (n := { vs := vsrc (z && !fma) vd [va, vb], ps := [pg] }) .nil List.mem_cons_self)

theorem vflt1_inFrame {i : Instr} {f : Fmt → Nat → FRes} (hi : exec i s = vflt1 vd va pg y z f s) : InFrame s a b [] [vd] [] i :=
  .inFrame hi (vectorOp_framed (n := { vs := vsrc z vd [va], ps := [pg] }) .nil List.mem_cons_self)

theorem vslide_inFrame {i : Instr} {f : Nat → Nat → Nat → Option Nat} (hi : exec i s = vslide vd va a pg sz z f s) :
    InFrame s a b [] [vd] [] i :=
  .inFrame hi (vectorOp_framed (n := { src := [a], vs := vsrc z vd [va], ps := [pg] }) (.left a b) List.mem_cons_self)

theorem predOp_inFrame {i : Instr} {p q : Nat} {f : PWord → PWord → PWord} (hi : exec i s = predOp pd p q f s) :
    InFrame s a b [] [] [pd] i :=
  .inFrame hi (writesP_framed (n := { ps := [p, q] }) .nil List.mem_cons_self)

/-- A reduction of either kind of type (R121). -/
theorem reduce_inFrame {i : Instr} {ident : Fmt → Nat} {f : Fmt → Nat → Nat → FRes} {ident' : Nat} {f' : Nat → Nat → FRes}
    (hi : exec i s = (match fmtOf y with
      | some g => vreduce vd va vb pg y (ident g) (f g)
      | none => vreduce vd va vb pg y ident' f') s) : InFrame s a b [] [vd] [] i := by
  cases hy : fmtOf y <;> rw [hy] at hi <;> exact .inFrame hi (vectorOp_framed .nil List.mem_cons_self)

/-- The vector instructions that write one v register. -/
theorem writesV_inFrame : ∀ i ∈ ([.vadd vd va vb pg y z, .vsub vd va vb pg y z, .vmul vd va vb pg y z, .vmulh vd va vb pg y z,
    .vmin vd va vb pg y z, .vmax vd va vb pg y z, .vand vd va vb pg y z, .vor vd va vb pg y z, .vxor vd va vb pg y z, .vshl vd va
    vb pg y z, .vshr vd va vb pg y z, .vsra vd va vb pg y z, .vabs vd va pg y z, .vneg vd va pg y z, .vmac vd va vb pg y z, .vfadd
    vd va vb pg y z, .vfsub vd va vb pg y z, .vfmul vd va vb pg y z, .vfma vd va vb pg y z, .vfmin vd va vb pg y z, .vfmax vd va
    vb pg y z, .vfabs vd va pg y z, .vfneg vd va pg y z, .vcvt vd va pg y y2 rn ov z, .vsplat vd a pg sz z, .vslideup vd va a pg
    sz z, .vslidedn vd va a pg sz z, .vperm vd va vb pg y z, .vcompress vd va pg y z, .vsel vd va vb pg y, .vredadd vd va vb pg y,
    .vredmax vd va vb pg y, .vredmin vd va vb pg y, .vfredadd vd va vb pg y, .vins vd a b sz, .vmaxx vd va vb y, .vquant vd va vb
    pg y] : List Instr), InFrame s a b [] [vd] [] i := by
  have int {i : Instr} {mac : Bool} {f : Nat → Nat → Nat → Nat} (hi : exec i s = vint vd va vb pg y z mac f s) :=
    vint_inFrame s vd va vb pg a b y z hi
  have int1 {i : Instr} {f : Nat → Nat} (hi : exec i s = vint1 vd va pg y z f s) := vint1_inFrame s vd va pg a b y z hi
  have flt {i : Instr} {fma : Bool} {f : Fmt → Nat → Nat → Nat → FRes} (hi : exec i s = vflt vd va vb pg y z fma f s) :=
    vflt_inFrame s vd va vb pg a b y z hi
  have flt1 {i : Instr} {f : Fmt → Nat → FRes} (hi : exec i s = vflt1 vd va pg y z f s) := vflt1_inFrame s vd va pg a b y z hi
  simp only [List.forall_mem_cons]
  exact ⟨int (exec_vadd ..), int (exec_vsub ..), int (exec_vmul ..), int (exec_vmulh ..), int (exec_vmin ..), int (exec_vmax
    ..), int (exec_vand ..), int (exec_vor ..), int (exec_vxor ..), int (exec_vshl ..), int (exec_vshr ..), int (exec_vsra ..),
    int1 (exec_vabs ..), int1 (exec_vneg ..), int (exec_vmac ..), flt (exec_vfadd ..), flt (exec_vfsub ..), flt (exec_vfmul ..),
    flt (exec_vfma ..), flt (exec_vfmin ..), flt (exec_vfmax ..), flt1 (exec_vfabs ..), flt1 (exec_vfneg ..), .inFrame
    (exec_vcvt ..) (vcvt_framed y y2 rn ov z List.mem_cons_self), .inFrame (exec_vsplat ..) (vectorOp_framed (n :=
    { src := [a], vs := vsrc z vd [], ps := [pg] }) (.left a b) List.mem_cons_self), vslide_inFrame s vd va pg a b sz z
    (exec_vslideup ..), vslide_inFrame s vd va pg a b sz z (exec_vslidedn ..), .inFrame (exec_vperm ..) (vectorOp_framed (n :=
    { vs := vsrc z vd [va, vb], ps := [pg] }) .nil List.mem_cons_self), .inFrame (exec_vcompress ..) (vectorOp_framed (n :=
    { vs := vsrc z vd [va], ps := [pg] }) .nil List.mem_cons_self), .inFrame (exec_vsel ..) (vectorOp_framed (n :=
    { vs := [va, vb], ps := [pg] }) .nil List.mem_cons_self), reduce_inFrame s vd va vb pg a b y (exec_vredadd ..),
    reduce_inFrame s vd va vb pg a b y (exec_vredmax ..), reduce_inFrame s vd va vb pg a b y (exec_vredmin ..), .inFrame
    (exec_vfredadd ..) (vectorOp_framed (n := { vs := [va, vb], ps := [pg] }) .nil List.mem_cons_self), .inFrame (exec_vins ..)
    (vectorOp_framed (n := { src := [a, b], vs := [vd] }) (.both a b) List.mem_cons_self), .inFrame (exec_vmaxx ..)
    (vectorOp_framed (n := { vs := [va, vb] }) .nil List.mem_cons_self), .inFrame (exec_vquant ..) (vectorOp_framed (n :=
    { vs := [va, vb], ps := [pg] }) .nil List.mem_cons_self), fun _ h => nomatch h⟩

/-- The instructions that write a predicate (R108, R116). -/
theorem writesP_inFrame : ∀ i ∈ ([.vbound pd a b y, .vcmp pd va vb pg y cc, .pand pd pa pb, .por pd pa pb, .pxor pd pa pb,
    .pnot pd pa] : List Instr), InFrame s a b [] [] [pd] i := by
  simp only [List.forall_mem_cons]
  exact ⟨.inFrame (exec_vbound ..) (writesP_framed (n := { src := [a, b] }) (.both a b) List.mem_cons_self), .inFrame
    (exec_vcmp ..) (writesP_framed (n := { vs := [va, vb], ps := [pg] }) .nil List.mem_cons_self), predOp_inFrame s pd a b
    (exec_pand ..), predOp_inFrame s pd a b (exec_por ..), predOp_inFrame s pd a b (exec_pxor ..), predOp_inFrame s pd a b
    (exec_pnot ..), fun _ h => nomatch h⟩

end

/-- What the frame says of the state that an instruction leads to. -/
theorem Framed.frame {dx dv dp src : List Nat} {s t : State} (h : Framed dx dv dp src s t) :
    t.me.q = s.me.q ∧ t.me.wlim = s.me.wlim ∧ (∀ u, u ≠ s.cur → t.thr u = s.thr u) ∧
    t.hbm = s.hbm ∧ t.hostMem = s.hostMem ∧ t.pad = s.pad ∧ t.padWords = s.padWords ∧ t.acc = s.acc ∧
    t.parts = s.parts ∧ t.agents = s.agents ∧
    (∀ g, let c := s.cluster g; let d := t.cluster g
      d.tlb = c.tlb ∧ d.ovf = c.ovf ∧ d.elog = c.elog ∧ d.elogsel = c.elogsel ∧ d.ecnt = c.ecnt ∧ d.einj = c.einj) ∧
    (∀ k, k ≠ s.me.sid / 16 → t.core k = s.core k) ∧
    let c := s.core (s.me.sid / 16)
    let d := t.core (s.me.sid / 16)
    d.psel = c.psel ∧ d.tqbase = c.tqbase ∧ d.tqcnt = c.tqcnt ∧ d.rvec = c.rvec ∧ d.trapcfg = c.trapcfg ∧
    (s.me.isRoot = false → d.repc = c.repc ∧ d.rcause = c.rcause ∧ d.raddr = c.raddr) := by
  have c := h.core
  exact ⟨h.me.q, h.me.wlim, h.others, h.hbm, h.hostMem, h.pad, h.padWords, h.acc, h.parts, h.agents, fun g =>
    have k := h.clusters g
    ⟨k.tlb, k.ovf, k.elog, k.elogsel, k.ecnt, k.einj⟩, h.cores, c.psel, c.tqbase, c.tqcnt, c.rvec, c.trapcfg, c.trap⟩

/-- An entry of a list of instructions with the same destinations. -/
theorem InFrame.of_mem_map {s : State} {a b : Src} {dx dv dp dx' dv' dp' : List Nat} {l : List Instr} {i : Instr}
    (hl : ∀ j ∈ l, InFrame s a b dx' dv' dp' j) (h : (i, dx, dv, dp) ∈ l.map fun j => (j, dx', dv', dp')) :
    InFrame s a b dx dv dp i := by
  obtain ⟨j, hj, e⟩ := List.mem_map.1 h
  cases e
  exact hl _ hj

/-- Settles O6. -/
theorem registerOnlyFrame : Obligations.RegisterOnlyFrame := by
  unfold Obligations.RegisterOnlyFrame
  intro s rd vd va vb pd pa pb pg a b i13 i20 i11 i7 i6 y y2 cc rn ov sz z i dx dv dp hi t ht
  have framed : InFrame s a b dx dv dp i := by
    rcases List.mem_append.1 hi with hi | hi
    · rcases List.mem_append.1 hi with hi | hi
      · rcases List.mem_append.1 hi with hi | hi
        · rcases List.mem_append.1 hi with hi | hi
          · exact .of_mem_map (writesX_inFrame s rd va pa a b i13 i20 i6 y sz) hi
          · exact .of_mem_map (compact_inFrame s rd va a b i7) hi
        · exact .of_mem_map (flow_inFrame s rd pa a b i20 i11 i7) hi
      · exact .of_mem_map (writesV_inFrame s vd va vb pg a b y y2 rn ov sz z) hi
    · exact .of_mem_map (writesP_inFrame s va vb pd pa pb pg a b y cc) hi
  have h := framed t ht
  exact ⟨h.me.xval, fun r hd ha hb => h.me.getX r hd (by simp [ha, hb]), h.me.getV, h.me.getP, h.me.pbad, h.frame⟩

end Sys2Proof.Machine
end

section
/-! PROOF. SPAWN, JOIN, LEAVE and GRPCNT (O19). -/

namespace Sys2Proof.Machine

/-! ### What marks leave of a thread -/

theorem Needs.marks_groups (n : Needs) (th : Thread) : (n.marks th).groups = th.groups :=
  Needs.marks_keeps Thread.groups (fun _ _ => by simp [Thread.emptyX]) n th

theorem Needs.marks_pop (n : Needs) (th : Thread) : (n.marks th).pop = th.pop :=
  Needs.marks_keeps Thread.pop (fun _ _ => by simp [Thread.emptyX]) n th

/-- An instruction that writes `v` to rd and goes on. -/
theorem close_wx {w : State} (alive : w.alive w.cur = true) (n : Needs) (rd : Nat) (v : Word) (s : State) :
    Verdict.close (.go ((w.take n).wx rd v).advance) s = .next (w.after n fun th => (th.gets rd v).past w.insnLen) := by
  rw [State.advance_wx_take]
  exact congrArg Host.Outcome.next (State.issued_setThr w _ alive)

/-- One that changes its own thread besides. -/
theorem close_modThr_wx {w : State} (alive : w.alive w.cur = true) (n : Needs) (f : Thread → Thread) (rd : Nat) (v : Word) (s : State) :
    Verdict.close (.go (((w.take n).modThr w.cur f).wx rd v).advance) s =
      .next (w.after n fun th => ((f th).gets rd v).past w.insnLen) := by
  have moves : (((w.take n).modThr w.cur f).wx rd v).advance = w.setThr w.cur (((f (n.marks w.me)).gets rd v).past w.insnLen) := by
    rw [State.wx, State.take_eq, State.setThr_modThr, State.setThr_cur, State.setThr_modThr]
    exact State.setThr_modThr _ _ _ _
  rw [moves]
  exact congrArg Host.Outcome.next (State.issued_setThr w _ alive)

/-! ### SPAWN (R75) -/

/-- A SPAWN that is ready answers the full status, or places a launch. -/
theorem spawn_ready {s : State} {rd : Nat} {a : Src} (h : Ready s { src := [a], dx := [rd] }) (perf : s.performed s.cur = true) :
    let n : Needs := { src := [a], dx := [rd] }
    exec (.spawn rd a) s =
      if 64 ≤ (s.core s.myCore).launch.length
      then .next (s.after n fun th => (th.gets rd 0x8000000000000001).past s.insnLen)
      else .next (((s.placeLaunch s.myCore s.me.part s.me.ten (s.rx a) [] none).2).after n fun th =>
        (th.gets rd (BitVec.ofNat 64 (s.nextPop + 1))).past s.insnLen) := by
  intro n
  show execSpawn rd a s = _
  have perf' := (State.performed_take s n).trans perf
  have core : coreOf (s.take n).me.sid = s.myCore := State.myCore_take s n
  have part : (s.take n).me.part = s.me.part := by rw [State.me_take, Needs.marks_part]
  have ten : (s.take n).me.ten = s.me.ten := by rw [State.me_take, Needs.marks_ten]
  rw [execSpawn, issue_ready h]
  dsimp only
  rw [afterHeld, if_pos perf', core, part, ten, State.rx_take]
  split
  · next full =>
    rw [if_pos (show 64 ≤ (s.core s.myCore).launch.length from full)]
    exact close_wx h.alive n rd _ s
  · next room =>
    rw [if_neg (show ¬ 64 ≤ (s.core s.myCore).launch.length from room)]
    exact close_wx (w := (s.placeLaunch s.myCore s.me.part s.me.ten (s.rx a) [] none).2) h.alive n rd _ s

/-! ### Handles (R77) -/

/-- The handle names an entry of some die. -/
def Named (h : Word) : Prop := bit h 15 = true ∧ h.toNat < 65536 ∧ bits h 14 11 = 0

/-- The entry that a handle names for a thread. -/
def entryOf (th : Thread) (h : Word) : Nat := ((th.part * 4 + th.ten) * 2 + bits h 10 10) * 1024 + bits h 9 0

theorem handleKey_named {th : Thread} {h : Word} (hn : Named h) : handleKey th h = some (entryOf th h) := by
  obtain ⟨h1, h2, h3⟩ := hn
  rw [handleKey, if_pos (by simp [h1, h2, h3])]
  rfl

theorem handleKey_unnamed {th : Thread} {h : Word} (hn : ¬ Named h) : handleKey th h = none := by
  rw [handleKey, if_neg]
  intro hc
  simp only [Bool.and_eq_true, decide_eq_true_eq] at hc
  exact hn ⟨hc.1.1, hc.1.2, hc.2⟩

/-- What a handle leads to. -/
theorem handle_group (s : State) (th : Thread) (h : Word) :
    ((Named h → Table.find? s.groups (entryOf th h) = none) →
      ((handleKey th h).bind fun k => (Table.find? s.groups k).map fun g => (k, g)) = none) ∧
    (Named h → ∀ g, Table.find? s.groups (entryOf th h) = some g →
      ((handleKey th h).bind fun k => (Table.find? s.groups k).map fun g => (k, g)) = some (entryOf th h, g)) := by
  refine ⟨fun none => ?_, fun hn g hg => ?_⟩
  · by_cases hn : Named h
    · rw [handleKey_named hn, Option.bind_some, none hn]
      rfl
    · rw [handleKey_unnamed hn]
      rfl
  · rw [handleKey_named hn, Option.bind_some, hg]
    rfl

theorem handleKey_take (s : State) (n : Needs) (h : Word) : handleKey (s.take n).me h = handleKey s.me h := by
  rw [handleKey, handleKey, State.me_take, Needs.marks_part, Needs.marks_ten]

/-! ### JOIN (R77) -/

theorem join_zero {s : State} {rd : Nat} {a : Src} (h : Ready s { src := [a], dx := [rd] }) (ha : s.rx a = 0) :
    let n : Needs := { src := [a], dx := [rd] }
    let key := fun e => groupKey s.me.part s.me.ten (s.me.sid / 8192) e
    (4 ≤ s.me.groups.length →
      exec (.join rd a) s = .next (s.after n fun th => (th.gets rd (groupStatus 3)).past s.insnLen)) ∧
    (s.me.groups.length < 4 → ((List.range 1024).find? fun e => !Table.has s.groups (key e)) = none →
      exec (.join rd a) s = .next (s.after n fun th => (th.gets rd (groupStatus 1)).past s.insnLen)) ∧
    (s.me.groups.length < 4 → ∀ e, ((List.range 1024).find? fun e => !Table.has s.groups (key e)) = some e →
      exec (.join rd a) s = .next (State.after { s with groups := Table.set s.groups (key e) ⟨[s.cur], [], 0, []⟩ } n fun th =>
        (Thread.gets { th with groups := th.groups ++ [key e] } rd
          (BitVec.ofNat 64 (2 ^ 15 + s.me.sid / 8192 * 2 ^ 10 + e))).past s.insnLen)) := by
  intro n key
  have me : (s.take n).me.groups = s.me.groups ∧ (s.take n).me.part = s.me.part ∧ (s.take n).me.ten = s.me.ten ∧
      (s.take n).me.sid = s.me.sid := by
    rw [State.me_take]
    exact ⟨Needs.marks_groups .., Needs.marks_part .., Needs.marks_ten .., Needs.marks_sid ..⟩
  obtain ⟨groups, part, ten, sid⟩ := me
  have run : exec (.join rd a) s = execJoin rd a s := rfl
  rw [run, execJoin, issueSimple, issue_ready h]
  dsimp only
  rw [State.rx_take, if_pos ha, groups, part, ten, sid]
  refine ⟨fun full => ?_, fun room taken => ?_, fun room e found => ?_⟩
  · rw [if_pos full]
    exact close_wx h.alive n rd _ s
  · have none' : ((List.range Config.groupEntries).find? fun e => !Table.has (s.take n).groups
        (groupKey s.me.part s.me.ten (dieOf s.me.sid) e)) = none := taken
    rw [if_neg (Nat.not_le.2 room), none']
    exact close_wx h.alive n rd _ s
  · have found' : ((List.range Config.groupEntries).find? fun e => !Table.has (s.take n).groups
        (groupKey s.me.part s.me.ten (dieOf s.me.sid) e)) = some e := found
    rw [if_neg (Nat.not_le.2 room), found']
    exact close_modThr_wx (w := { s with groups := Table.set s.groups (key e) ⟨[s.cur], [], 0, []⟩ }) h.alive n _ rd _ s

theorem join_handle {s : State} {rd : Nat} {a : Src} (h : Ready s { src := [a], dx := [rd] }) (ha : s.rx a ≠ 0) :
    let n : Needs := { src := [a], dx := [rd] }
    let k := entryOf s.me (s.rx a)
    let answers := fun v : Word => exec (.join rd a) s = .next (s.after n fun th => (th.gets rd v).past s.insnLen)
    ((Named (s.rx a) → Table.find? s.groups k = none) → answers (groupStatus 2)) ∧
    (Named (s.rx a) → ∀ g, Table.find? s.groups k = some g →
      (s.cur ∈ g.members → answers (s.rx a)) ∧
      (s.cur ∉ g.members → 4 ≤ s.me.groups.length → answers (groupStatus 3)) ∧
      (s.cur ∉ g.members → s.me.groups.length < 4 → exec (.join rd a) s = .next (State.after
        { s with groups := Table.set s.groups k { g with members := g.members ++ [s.cur] } } n fun th =>
          (Thread.gets { th with groups := th.groups ++ [k] } rd (s.rx a)).past s.insnLen))) := by
  intro n k answers
  have groups : (s.take n).me.groups = s.me.groups := by rw [State.me_take, Needs.marks_groups]
  have run : exec (.join rd a) s = execJoin rd a s := rfl
  obtain ⟨without, with_⟩ := handle_group s s.me (s.rx a)
  dsimp only [answers]
  rw [run, execJoin, issueSimple, issue_ready h]
  dsimp only
  rw [State.rx_take, if_neg ha, groups, handleKey_take]
  refine ⟨fun none => ?_, fun hn g hg => ?_⟩
  · have none' : ((handleKey s.me (s.rx a)).bind fun k => (Table.find? (s.take n).groups k).map fun g => (k, g)) = Option.none :=
      without none
    rw [none']
    exact close_wx h.alive n rd _ s
  · have some' : ((handleKey s.me (s.rx a)).bind fun k => (Table.find? (s.take n).groups k).map fun g => (k, g)) = some (k, g) :=
      with_ hn g hg
    rw [some']
    dsimp only
    have cur : (s.take n).cur = s.cur := rfl
    rw [cur]
    refine ⟨fun member => ?_, fun other full => ?_, fun other room => ?_⟩
    · rw [if_pos (List.contains_iff_mem.2 member)]
      exact close_wx h.alive n rd _ s
    · rw [if_neg (fun c => other (List.contains_iff_mem.1 c)), if_pos full]
      exact close_wx h.alive n rd _ s
    · rw [if_neg (fun c => other (List.contains_iff_mem.1 c)), if_neg (Nat.not_le.2 room)]
      exact close_modThr_wx (w := { s with groups := Table.set s.groups k { g with members := g.members ++ [s.cur] } }) h.alive n _ rd
        _ s

/-! ### GRPCNT (R77) -/

theorem grpcnt_ready {s : State} {rd : Nat} {a : Src} (h : Ready s { src := [a], dx := [rd] }) :
    let answers := fun v : Word => exec (.grpcnt rd a) s =
      .next (s.after { src := [a], dx := [rd] } fun th => (th.gets rd v).past s.insnLen)
    (s.rx a = 0 → ∀ p, Table.find? s.pops s.me.pop = some p → answers (BitVec.ofNat 64 (p.size - p.exited))) ∧
    (s.rx a = 0 → Table.find? s.pops s.me.pop = none → answers (groupStatus 2)) ∧
    (s.rx a ≠ 0 → (Named (s.rx a) → Table.find? s.groups (entryOf s.me (s.rx a)) = none) → answers (groupStatus 2)) ∧
    (s.rx a ≠ 0 → Named (s.rx a) → ∀ g, Table.find? s.groups (entryOf s.me (s.rx a)) = some g →
      answers (BitVec.ofNat 64 g.members.length)) := by
  intro answers
  let n : Needs := { src := [a], dx := [rd] }
  have pop : (s.take n).me.pop = s.me.pop := by rw [State.me_take, Needs.marks_pop]
  have run : exec (.grpcnt rd a) s = execGrpcnt rd a s := rfl
  dsimp only [answers]
  rw [run, execGrpcnt, issueSimple, issue_ready h]
  dsimp only
  rw [State.rx_take, pop, handleKey_take]
  refine ⟨fun ha p hp => ?_, fun ha hp => ?_, fun ha none => ?_, fun ha hn g hg => ?_⟩
  · have hp' : Table.find? (s.take n).pops s.me.pop = some p := hp
    rw [if_pos ha, hp']
    exact close_wx h.alive n rd _ s
  · have hp' : Table.find? (s.take n).pops s.me.pop = none := hp
    rw [if_pos ha, hp']
    exact close_wx h.alive n rd _ s
  · have none' : ((handleKey s.me (s.rx a)).bind fun k => Table.find? (s.take n).groups k) = Option.none := by
      by_cases hn : Named (s.rx a)
      · rw [handleKey_named hn]
        exact none hn
      · rw [handleKey_unnamed hn]
        rfl
    rw [if_neg ha, none']
    exact close_wx h.alive n rd _ s
  · have some' : ((handleKey s.me (s.rx a)).bind fun k => Table.find? (s.take n).groups k) = some g := by
      rw [handleKey_named hn]
      exact hg
    rw [if_neg ha, some']
    exact close_wx h.alive n rd _ s

/-! ### LEAVE (R77) -/

theorem foldl_emptyX_groups (l : List Nat) (th : Thread) : (l.foldl (fun th r => th.emptyX r) th).groups = th.groups := by
  induction l generalizing th with
  | nil => rfl
  | cons r l ih => exact (ih (th.emptyX r)).trans (by simp [Thread.emptyX])

theorem State.release_groups (s : State) (t u : Nat) (n : Word) : ((s.release t n).thr u).groups = (s.thr u).groups := by
  by_cases hu : u = t
  · subst hu
    rw [State.release, State.thr_modThr_same]
    split
    · split
      · rfl
      · exact (Thread.setX_groups ..).trans (foldl_emptyX_groups ..)
    · rfl
  · rw [State.release_other s n hu]

theorem State.releaseAll_groups (s : State) (l : List Nat) (n : Word) (u : Nat) :
    ((s.releaseAll l n).thr u).groups = (s.thr u).groups := by
  induction l generalizing s with
  | nil => rfl
  | cons t l ih => exact (ih (s.release t n)).trans (s.release_groups t u n)

/-- A group whose barrier completes keeps its members, and no byte of memory changes when no statistics are asked for. -/
theorem State.tryGroup_spec {s : State} {k : Nat} {g : Group} (hg : Table.find? s.groups k = some g) (hr : g.recs = []) :
    (s.tryGroup k).hbm = s.hbm ∧ (s.tryGroup k).pad = s.pad ∧ (s.tryGroup k).cur = s.cur ∧
      (Table.find? (s.tryGroup k).groups k).map (·.members) = some g.members ∧
      ∀ u, ((s.tryGroup k).thr u).groups = (s.thr u).groups := by
  unfold State.tryGroup
  rw [hg]
  dsimp only
  split
  · rw [hr]
    obtain ⟨ths, only⟩ := State.releaseAll_only
      { s with groups := Table.set s.groups k { g with arrived := [], recs := [], bars := g.bars + 1 } } g.arrived (word g.bars)
    have groups := State.releaseAll_groups
      { s with groups := Table.set s.groups k { g with arrived := [], recs := [], bars := g.bars + 1 } } g.arrived (word g.bars)
    refine ⟨(congrArg State.hbm only :), (congrArg State.pad only :), (congrArg State.cur only :), ?_, groups⟩
    have table := (congrArg State.groups only :)
    refine (congrArg (fun t : Table Group => (Table.find? t k).map Group.members) table).trans ?_
    exact congrArg (Option.map Group.members) (Table.find_set_same ..)
  · exact ⟨rfl, rfl, rfl, by rw [hg]; rfl, fun _ => rfl⟩

/-- The current thread is out of the group, whose barrier may be complete without it. -/
def State.withoutMember (s : State) (k : Nat) (g : Group) : State :=
  { s.modThr s.cur (fun th => { th with groups := th.groups.filter (· ≠ k) }) with
    groups := Table.set s.groups k { g with members := g.members.filter (· ≠ s.cur), arrived := g.arrived.filter (· ≠ s.cur) } }

/-- The thread that leaves is in the group no more; no byte of memory changes when no statistics are asked for. -/
theorem State.leaveGroup_spec {s : State} {k : Nat} {g : Group} (hg : Table.find? s.groups k = some g) (hr : g.recs = []) :
    (s.leaveGroup s.cur k).hbm = s.hbm ∧ (s.leaveGroup s.cur k).pad = s.pad ∧ (s.leaveGroup s.cur k).cur = s.cur ∧
      k ∉ (s.leaveGroup s.cur k).me.groups ∧
      (Table.find? (s.leaveGroup s.cur k).groups k).map (·.members) =
        if g.members.filter (· ≠ s.cur) = [] then none else some (g.members.filter (· ≠ s.cur)) := by
  have left : k ∉ (s.modThr s.cur fun th => { th with groups := th.groups.filter (· ≠ k) }).me.groups := by
    rw [State.me, State.modThr_cur, State.thr_modThr_same]
    simp
  unfold State.leaveGroup
  rw [hg]
  dsimp only
  split
  · refine ⟨rfl, rfl, rfl, left, ?_⟩
    rw [Table.find_erase, if_pos rfl]
    rfl
  · obtain ⟨hbm, pad, cur, members, groups⟩ := State.tryGroup_spec (s := s.withoutMember k g) (k := k) (Table.find_set_same ..) hr
    have own : ((s.withoutMember k g).tryGroup k).me.groups = (s.withoutMember k g).me.groups :=
      (congrArg (fun c => (((s.withoutMember k g).tryGroup k).thr c).groups) cur).trans (groups s.cur)
    exact ⟨hbm, pad, cur, fun hk => left (own ▸ hk), members⟩

/-- What an instruction that writes rd and goes on leaves as it was. -/
theorem wx_advance_issued_spec (v : State) (rd : Nat) (n : Word) :
    let t := ((v.wx rd n).advance).issued
    t.hbm = v.hbm ∧ t.pad = v.pad ∧ t.groups = v.groups ∧ t.me.groups = v.me.groups ∧
      (rd ≠ 0 → t.me.getX rd = ⟨n, true, false, false⟩) := by
  have before : (v.wx rd n).advance = v.modThr v.cur fun th => (th.gets rd n).past v.insnLen := by
    rw [State.wx, State.advance]
    simp only [State.modThr_cur, State.modThr_modThr, State.modThr_insnLen]
    rfl
  have me : (v.modThr v.cur fun th => (th.gets rd n).past v.insnLen).me = (v.me.gets rd n).past v.insnLen := State.thr_modThr_same ..
  have thread := State.issued_me (v.modThr v.cur fun th => (th.gets rd n).past v.insnLen)
  obtain ⟨ths, only⟩ := State.issued_only (v.modThr v.cur fun th => (th.gets rd n).past v.insnLen)
  rw [me] at thread
  dsimp only
  rw [before]
  refine ⟨(congrArg State.hbm only :), (congrArg State.pad only :), (congrArg State.groups only :), ?_, fun hrd => ?_⟩
  · rcases thread with thread | thread <;> rw [thread] <;> exact Thread.setX_groups v.me rd _
  · have reg : ((v.me.gets rd n).past v.insnLen).getX rd = ⟨n, true, false, false⟩ :=
      (Thread.getX_setX v.me rd rd _).trans (if_pos ⟨rfl, hrd⟩)
    rcases thread with thread | thread <;> rw [thread] <;> exact reg

theorem leave_ready {s : State} {rd : Nat} {a : Src} (h : Ready s { src := [a], dx := [rd] }) (perf : s.performed s.cur = true) :
    let n : Needs := { src := [a], dx := [rd] }
    let k := entryOf s.me (s.rx a)
    let answers := fun v : Word => exec (.leave rd a) s = .next (s.after n fun th => (th.gets rd v).past s.insnLen)
    ((Named (s.rx a) → Table.find? s.groups k = none) → answers (groupStatus 2)) ∧
    (Named (s.rx a) → ∀ g, Table.find? s.groups k = some g →
      (s.cur ∉ g.members → answers (groupStatus 4)) ∧
      (s.cur ∈ g.members → exec (.leave rd a) s = .next (((((s.take n).leaveGroup s.cur k).wx rd
        (BitVec.ofNat 64 (g.members.filter (· ≠ s.cur)).length)).advance).issued))) := by
  intro n k answers
  have perf' := (State.performed_take s n).trans perf
  have run : exec (.leave rd a) s = execLeave rd a s := rfl
  obtain ⟨without, with_⟩ := handle_group s s.me (s.rx a)
  dsimp only [answers]
  rw [run, execLeave, issue_ready h]
  dsimp only
  rw [afterHeld, if_pos perf', State.rx_take, handleKey_take]
  refine ⟨fun none => ?_, fun hn g hg => ?_⟩
  · have none' : ((handleKey s.me (s.rx a)).bind fun k => (Table.find? (s.take n).groups k).map fun g => (k, g)) = Option.none :=
      without none
    rw [none']
    exact close_wx h.alive n rd _ s
  · have some' : ((handleKey s.me (s.rx a)).bind fun k => (Table.find? (s.take n).groups k).map fun g => (k, g)) = some (k, g) :=
      with_ hn g hg
    rw [some']
    dsimp only
    have cur : (s.take n).cur = s.cur := rfl
    rw [cur]
    refine ⟨fun other => ?_, fun member => ?_⟩
    · rw [if_neg (fun c => other (List.contains_iff_mem.1 c))]
      exact close_wx h.alive n rd _ s
    · rw [if_pos (List.contains_iff_mem.2 member)]
      rfl

/-- Settles O19. -/
theorem spawnAndGroups : Obligations.SpawnAndGroups := by
  unfold Obligations.SpawnAndGroups
  refine ⟨fun s rd a h perf => ⟨fun full => ?full, fun room => ?room⟩, fun s rd a h => ?join, fun s rd a h => ?leave⟩
  case full => exact (spawn_ready h perf).trans (if_pos full)
  case room =>
    have run := (spawn_ready h perf).trans (if_neg (Nat.not_le.2 room))
    refine ⟨_, run, rfl, State.thr_setThr_same .., ?_, rfl, rfl, rfl, fun u hu => State.thr_setThr_other _ _ hu⟩
    exact congrArg Core.launch (State.core_modCore_same { s with
      nextPop := s.nextPop + 1, pops := Table.set s.pops (s.nextPop + 1) (emptyPop s.me.part s.me.ten none) } s.myCore fun c =>
        { c with launch := c.launch ++ [⟨s.nextPop + 1, s.rx a, s.me.part, s.me.ten, s.myCore / 8, 0, false, [], none⟩] })
  case join =>
    refine ⟨fun h0 => (join_zero h h0).1, fun h0 room taken => (join_zero h h0).2.1 room ?_,
      fun h0 room e he free low => (join_zero h h0).2.2 room e ?_, fun h0 => (join_handle h h0).1, fun h0 => (join_handle h h0).2⟩
    · exact List.find?_range_eq_none.2 fun e he => by simp [groupKey, taken e he]
    · refine List.find?_range_eq_some.2 ⟨by simpa [groupKey] using free, List.mem_range.2 he, fun d hd => ?_⟩
      simpa [groupKey] using low d hd
  case leave =>
    obtain ⟨zero, zero', none, some⟩ := grpcnt_ready h
    refine ⟨fun perf => (leave_ready h perf).1, fun perf hn g hg => ⟨((leave_ready h perf).2 hn g hg).1, fun member hr => ?_⟩, zero,
      zero', none, some⟩
    have run := ((leave_ready h perf).2 hn g hg).2 member
    obtain ⟨hbm, pad, cur, left, members⟩ := State.leaveGroup_spec (s := s.take { src := [a], dx := [rd] }) hg hr
    obtain ⟨hbm', pad', table, groups, reg⟩ := wx_advance_issued_spec
      ((s.take { src := [a], dx := [rd] }).leaveGroup s.cur (entryOf s.me (s.rx a))) rd
      (BitVec.ofNat 64 (g.members.filter (· ≠ s.cur)).length)
    refine ⟨_, run, reg, ?_, hbm'.trans hbm, pad'.trans pad, ?_⟩
    · rw [groups]
      exact left
    · rw [table]
      exact members

end Sys2Proof.Machine
end

section
/-! PROOF. LOOP and its claims (O18). -/

namespace Sys2Proof.Machine

/-! ### The five registers of a LOOP (R71) -/

/-- A register and the claim buffer of a thread stand apart. -/
theorem Thread.gets_claim (th : Thread) (c : Option Claim) (r : Nat) (v : Word) :
    Thread.gets { th with claim := c } r v = { th.gets r v with claim := c } := by
  unfold Thread.gets Thread.setX
  split <;> rfl

theorem Thread.gets_gets_claim (th : Thread) (c : Option Claim) (r q : Nat) (v w pc : Word) (wait : Option Wait) (as : List Answer) :
    ({ Thread.gets (Thread.gets { th with claim := c } r v) q w with pc := pc, wait := wait, answers := as } : Thread) =
      { (th.gets r v).gets q w with claim := c, pc := pc, wait := wait, answers := as } := by
  by_cases hr : r = 0 <;> by_cases hq : q = 0 <;> simp only [Thread.gets, Thread.setX, hr, hq, if_true, if_false]

/-- An index by an extent, or a free value when the extent is 0 (log entry 55). -/
def loopPart (free d v k : Nat) : Word := if d = 0 then Config.freeWord (free + k) else word v

/-- A thread whose registers hold the index `i` unpacked by the kept extents of `th0`, and the end `e` of its chunk. -/
def loopUnpack (free : Nat) (th0 : Thread) (rd i : Nat) (e : Word) (th : Thread) : Thread :=
  ((((th.gets (rd + 1) e).gets rd (word i)).gets (rd + 2) (loopPart free th0.ext0 (i % th0.ext0) 0)).gets (rd + 3)
    (loopPart free (th0.ext0 * th0.ext1) (i / th0.ext0 % th0.ext1) 1)).gets (rd + 4)
      (loopPart free (th0.ext0 * th0.ext1) (i / (th0.ext0 * th0.ext1)) 2)

theorem loopUnpack_claim (free : Nat) (th0 : Thread) (rd i : Nat) (e : Word) (th : Thread) (c : Option Claim) :
    loopUnpack free th0 rd i e { th with claim := c } = { loopUnpack free th0 rd i e th with claim := c } := by
  simp only [loopUnpack, Thread.gets_claim]

/-- Unpacking an index leaves the claim buffer alone. -/
theorem loopUnpack_keeps_claim (free : Nat) (th0 : Thread) (rd i : Nat) (e : Word) (th : Thread) (len : Nat) :
    { (loopUnpack free th0 rd i e th).past len with claim := th.claim } = (loopUnpack free th0 rd i e th).past len :=
  (congrArg (Thread.past · len) (loopUnpack_claim free th0 rd i e th th.claim) :).symm

/-- The state after three free values were taken, when a kept extent is 0. -/
def State.loopFree (s : State) (th : Thread) : State :=
  { s with freeCtr := if th.ext0 * th.ext1 = 0 then s.freeCtr + 3 else s.freeCtr }

theorem loopWrite_setThr (s : State) (th : Thread) (rd : Nat) (i : Word) (last : Option Word) :
    loopWrite (s.setThr s.cur th) rd i last =
      (s.loopFree th).setThr s.cur (loopUnpack s.freeCtr th rd i.toNat (last.getD (th.xval (rd + 1))) th) := by
  have me : (s.setThr s.cur th).me = th := State.me_setThr ..
  have word' : word i.toNat = i := by simp [word]
  unfold loopWrite
  rw [me]
  simp only [State.wx, State.setThr_cur, State.setThr_modThr]
  unfold loopUnpack loopPart State.loopFree
  rw [word']
  cases last <;> simp only [Option.getD] <;> split <;> rfl

theorem State.loopFree_congr (s : State) {th th' : Thread} (h0 : th.ext0 = th'.ext0) (h1 : th.ext1 = th'.ext1) :
    s.loopFree th = s.loopFree th' := by
  rw [State.loopFree, State.loopFree, h0, h1]

/-! ### LOOP (R71, R73) -/

def loopNeeds (rd : Nat) (a : Src) : Needs :=
  { src := [⟨rd, .wait⟩, ⟨rd + 1, .wait⟩, a], dx := [rd, rd + 1, rd + 2, rd + 3, rd + 4] }

/-- What a LOOP comes to when its chunk holds an index more, or the claim buffer its answer. -/
def loopGoes (s : State) (rd : Nat) (a : Src) (i : Word) (e : Word) (c : Option Claim) : State :=
  (s.loopFree s.me).after (loopNeeds rd a) fun th =>
    { (loopUnpack s.freeCtr th rd i.toNat e th).past s.insnLen with claim := c }

/-- Unpacking an index goes on behind the LOOP. -/
theorem loop_close {s : State} {rd : Nat} {a : Src} (alive : s.alive s.cur = true) (c : Option Claim) (i : Word) (last : Option Word)
    (r : State) :
    Verdict.close (.go (loopWrite ((s.take (loopNeeds rd a)).modThr s.cur fun th => { th with claim := c }) rd i last).advance) r =
      .next (loopGoes s rd a i (last.getD (s.me.xval (rd + 1))) c) := by
  rw [State.take_eq, State.setThr_modThr, loopWrite_setThr]
  have fr : s.loopFree { (loopNeeds rd a).marks s.me with claim := c } = s.loopFree s.me :=
    State.loopFree_congr s (Needs.marks_keeps Thread.ext0 (fun _ _ => by simp [Thread.emptyX]) _ _)
      (Needs.marks_keeps Thread.ext1 (fun _ _ => by simp [Thread.emptyX]) _ _)
  rw [fr]
  have end_ : ({ (loopNeeds rd a).marks s.me with claim := c } : Thread).xval (rd + 1) = s.me.xval (rd + 1) :=
    Needs.marks_xval ..
  rw [end_, loopUnpack_claim]
  exact congrArg Host.Outcome.next ((congrArg State.issued (State.advance_setThr (s.loopFree s.me) _)).trans
    (State.issued_setThr (s.loopFree s.me) _ alive))

/-- The claim buffer that a LOOP of the current thread may use. -/
def State.loopClaim (s : State) (a : Src) : Option Claim := s.me.claimAt s.me.pc (s.rx a)

theorem execLoop_eq {s : State} {rd : Nat} {a : Src} (imm : BitVec 13) (h : Ready s (loopNeeds rd a)) :
    exec (.loop rd a imm) s =
      let n := loopNeeds rd a
      let u := s.take n
      Verdict.close (if (s.me.xval rd + 1).toNat < (s.me.xval (rd + 1)).toNat then
        .go (loopWrite (u.modThr s.cur fun th => { th with claim := s.loopClaim a }) rd (s.me.xval rd + 1) none).advance
      else
        match s.loopClaim a with
        | some c =>
          let w := u.modThr s.cur fun th => { th with claim := none }
          if c.ok then .go (loopWrite w rd c.i (some (c.i + c.c))).advance
          else .go (((w.wx rd c.total).wx (rd + 1) c.total).jump (s.me.pc + (sext imm <<< 1)))
        | none =>
          match s.me.claimSent with
          | some _ => .park .other id
          | none => withTarget u .sync true (s.rx a) 32 32 32 fun ps ks l =>
              .park .other fun s' => (s'.modThr s'.cur fun th => { th with
                claim := none, claimSent := some ⟨th.pc, s.rx a, claimPlaces (place1 ps), ks.headD 1, s'.cycle⟩ }).countLeaf
                  s'.me.ctx (s.rx a).toNat l) s := by
  show execLoop rd a imm s = _
  have pc : (s.take (loopNeeds rd a)).me.pc = s.me.pc := by rw [State.me_take, Needs.marks_pc]
  have cl : (s.take (loopNeeds rd a)).me.claimAt s.me.pc (s.rx a) = s.me.claimAt s.me.pc (s.rx a) := by
    rw [State.me_take, Thread.claimAt, Thread.claimAt,
      Needs.marks_keeps Thread.claim (fun _ _ => by simp [Thread.emptyX])]
  have sent : (s.take (loopNeeds rd a)).me.claimSent = s.me.claimSent := by
    rw [State.me_take, Needs.marks_keeps Thread.claimSent (fun _ _ => by simp [Thread.emptyX])]
  have x : ∀ r, (s.take (loopNeeds rd a)).me.xval r = s.me.xval r := fun r => by rw [State.me_take, Needs.marks_xval]
  rw [execLoop]
  refine (issue_ready h _).trans ?_
  dsimp only
  rw [x, x, State.rx_take, pc, cl, sent]
  rfl

theorem claimAt_mine {th : Thread} {pc desc : Word} {c : Claim} (hc : th.claim = some c) (m : c.pc = pc ∧ c.desc = desc) :
    th.claimAt pc desc = some c := by
  rw [Thread.claimAt, hc, Option.filter_some, if_pos (by simpa using m)]

theorem claimAt_none {th : Thread} {pc desc : Word} (h : ∀ c, th.claim = some c → ¬ (c.pc = pc ∧ c.desc = desc)) :
    th.claimAt pc desc = none := by
  unfold Thread.claimAt
  cases hc : th.claim with
  | none => rfl
  | some c => rw [Option.filter_some, if_neg (by simpa using h c hc)]

/-- A LOOP with an index left in its chunk unpacks it. -/
theorem loop_left {s : State} {rd : Nat} {a : Src} (imm : BitVec 13) (h : Ready s (loopNeeds rd a))
    (left : (s.me.xval rd + 1).toNat < (s.me.xval (rd + 1)).toNat) :
    exec (.loop rd a imm) s = .next (loopGoes s rd a (s.me.xval rd + 1) (s.me.xval (rd + 1)) (s.loopClaim a)) := by
  rw [execLoop_eq imm h]
  dsimp only
  rw [if_pos left]
  exact loop_close h.alive _ _ none s

/-- A LOOP with its chunk used up takes the answer in the claim buffer. -/
theorem loop_answered {s : State} {rd : Nat} {a : Src} (imm : BitVec 13) (h : Ready s (loopNeeds rd a))
    (used : ¬ (s.me.xval rd + 1).toNat < (s.me.xval (rd + 1)).toNat) {c : Claim} (hc : s.loopClaim a = some c) :
    (c.ok = true → exec (.loop rd a imm) s = .next (loopGoes s rd a c.i (c.i + c.c) none)) ∧
    (c.ok = false → exec (.loop rd a imm) s = .next (s.after (loopNeeds rd a) fun th =>
      { (th.gets rd c.total).gets (rd + 1) c.total with
        claim := none, pc := th.pc + BitVec.ofInt 64 (imm.toInt * 2) })) := by
  rw [execLoop_eq imm h]
  dsimp only
  rw [if_neg used, hc]
  dsimp only
  constructor <;> intro ok
  · rw [if_pos ok]
    exact loop_close h.alive none _ (some _) s
  · rw [if_neg (by simp [ok]), State.take_eq, State.setThr_modThr]
    simp only [State.wx, State.jump, State.setThr_cur, State.setThr_modThr]
    rw [sext_halfwords, ← Needs.marks_pc (loopNeeds rd a) s.me]
    refine congrArg Host.Outcome.next ((State.issued_setThr s _ h.alive).trans ?_)
    exact congrArg (s.setThr s.cur) (Thread.gets_gets_claim ..)

/-- A LOOP with its chunk used up and no answer sends its claim and waits. -/
theorem loop_claims {s : State} {rd : Nat} {a : Src} (imm : BitVec 13) (h : Ready s (loopNeeds rd a))
    (used : ¬ (s.me.xval rd + 1).toNat < (s.me.xval (rd + 1)).toNat) (hc : s.loopClaim a = none) (sent : s.me.claimSent = none)
    {p : Place} {ks : List Nat} {l : Option Leaf}
    (ht : (s.take (loopNeeds rd a)).target (s.take (loopNeeds rd a)).me .sync true (s.rx a) 32 32 32 = .ok [(p, 32)] ks l) :
    exec (.loop rd a imm) s = .next (((s.modThr s.cur fun th => { th with
      claim := none, claimSent := some ⟨th.pc, s.rx a, [p, p.add 8, p.add 16], ks.headD 1, s.cycle⟩ }).countLeaf s.me.ctx
        (s.rx a).toNat l).parkOn .other) := by
  rw [execLoop_eq imm h]
  dsimp only
  rw [if_neg used, hc, sent]
  dsimp only
  rw [withTarget, ht]
  rfl

/-! ### LOOP_CLAIM_RESPONSE (R72, R73) -/

/-- A place of memory or of no memory carries no error when no memory does. -/
theorem Clean.badAt_memory {s : State} (h : Clean s) {p : Place} (ha : ∀ b o, p ≠ .acc b o) (hx : ∀ t r o, p ≠ .xreg t r o)
    (hv : ∀ t r o, p ≠ .vreg t r o) (hd : ∀ bs bad, p ≠ .data bs bad) (n : Nat) : s.badAt p n = false := by
  cases p with
  | hbm a => simp [State.badAt, h.hbm, h.cache]
  | data bs bad => exact absurd rfl (hd bs bad)
  | page k a => exact h.badAt rfl ha hx hv n
  | host a => exact h.badAt rfl ha hx hv n
  | pad c o => exact h.badAt rfl ha hx hv n
  | acc b o => exact absurd rfl (ha b o)
  | xreg t r o => exact absurd rfl (hx t r o)
  | vreg t r o => exact absurd rfl (hv t r o)
  | nothing => rfl

/-- A place of a descriptor that a claim works on. -/
structure Claimable (p : Place) : Prop where
  acc : ∀ b o, p ≠ .acc b o
  xreg : ∀ t r o, p ≠ .xreg t r o
  vreg : ∀ t r o, p ≠ .vreg t r o
  data : ∀ bs bad, p ≠ .data bs bad

theorem Claimable.add {p : Place} (h : Claimable p) (n : Nat) : Claimable (p.add n) := by
  obtain ⟨ha, hx, hv, hd⟩ := h
  cases p with
  | acc b o => exact absurd rfl (ha b o)
  | xreg t r o => exact absurd rfl (hx t r o)
  | vreg t r o => exact absurd rfl (hv t r o)
  | data bs bad => exact absurd rfl (hd bs bad)
  | _ => constructor <;> simp [Place.add]

theorem claimWord_clean {s : State} (h : Clean s) {p : Place} (hp : Claimable p) (c : Ctx) :
    s.claimWord c p = (leNat (s.readAt p 8), s) := by
  rw [State.claimWord, h.badAt_memory hp.acc hp.xreg hp.vreg hp.data, State.noteRead_clean s c p 8 h]
  rfl

/-- The answer of a claim. -/
def claimAnswer (r : ClaimReq) (total : Nat) : Option (Nat × Nat) → Claim
  | some (i, n) => ⟨r.pc, r.desc, true, word i, word n, word total⟩
  | none => ⟨r.pc, r.desc, false, 0, 0, word total⟩

/-- The memory after a claim. -/
def State.claimWrites (s : State) (c : Ctx) (p : Place) (next am : Nat) : State :=
  (s.writeAt c p (leBytes 8 next)).writeAt c (p.add 16) (leBytes 8 am)

/-- A thread whose claim has been answered. -/
def Thread.claimed (th : Thread) (b : Claim) (ext : Nat) : Thread :=
  { th with claim := some b, claimSent := none, ext0 := ext % 2 ^ 32, ext1 := ext / 2 ^ 32 % 2 ^ 16, ext2 := ext / 2 ^ 48 % 2 ^ 16 }

theorem loopClaimResponse_clean {s : State} {t : Nat} {r : ClaimReq} {p : Place} (sent : (s.thr t).claimSent = some r)
    (free : s.claimFree t r = true) (clean : Clean s) (hp : Claimable p) (places : r.place = [p, p.add 8, p.add 16])
    {ext : Nat} (hext : leNat (s.readAt (p.add 8) 8) = ext) {st : Option (Nat × Nat) × Nat × Nat}
    (hst : claimStep (leNat (s.readAt p 8)) ext (leNat (s.readAt (p.add 16) 8)) = st) :
    exec (.loopClaimResponse t) s = .next ((s.claimWrites (s.thr t).ctx p st.2.1 st.2.2).modThr t fun th =>
      th.claimed (claimAnswer r (nestTotal ext) st.1) ext) := by
  show execLoopClaimResponse t s = _
  rw [execLoopClaimResponse, sent]
  dsimp only
  rw [if_neg (by simp [free]), places]
  dsimp only [List.getElem?_cons_zero, List.getElem?_cons_succ, Option.getD_some]
  rw [claimWord_clean clean hp]
  dsimp only
  rw [claimWord_clean clean (hp.add 8)]
  dsimp only
  rw [claimWord_clean clean (hp.add 16)]
  dsimp only
  rw [hext, hst]
  obtain ⟨ans, next, am⟩ := st
  cases ans <;> rfl

/-- The iterations that a claim takes (R72). -/
def claimChunk (total next am : Nat) : Nat :=
  min (max ((total - next + 2 * max (am / 2 ^ 32) 1 - 1) / (2 * max (am / 2 ^ 32) 1)) (max (am % 2 ^ 32) 1)) (total - next)

theorem claimStep_left {next ext am : Nat} (h : next < nestTotal ext) :
    claimStep next ext am = (some (next, claimChunk (nestTotal ext) next am),
      (next + claimChunk (nestTotal ext) next am) % 2 ^ 64, am) := by
  unfold claimStep
  dsimp only
  rw [if_neg (by omega)]
  rfl

theorem claimStep_done {next ext am : Nat} (h : ¬ next < nestTotal ext) :
    claimStep next ext am = (none, next, (am / 2 ^ 32 - 1) * 2 ^ 32 + am % 2 ^ 32) := by
  unfold claimStep
  dsimp only
  rw [if_pos (by omega)]

/-- A claim takes iterations from NEXT on while any are left, and ends otherwise. -/
theorem claimStep_eq (next ext am : Nat) : claimStep next ext am =
    if next < nestTotal ext then (some (next, claimChunk (nestTotal ext) next am),
      (next + claimChunk (nestTotal ext) next am) % 2 ^ 64, am)
    else (none, next, (am / 2 ^ 32 - 1) * 2 ^ 32 + am % 2 ^ 32) := by
  split
  case isTrue left => exact claimStep_left left
  case isFalse done => exact claimStep_done done

theorem leBytes_ne_nil (v : Nat) : leBytes 8 v ≠ [] := by simp [leBytes]

/-- A claim on a descriptor in a scratchpad writes two of its words. -/
theorem State.claimWrites_pad (s : State) (c : Ctx) (k off next am : Nat) :
    (s.claimWrites c (.pad k off) next am).hbm = s.hbm ∧ (s.claimWrites c (.pad k off) next am).hostMem = s.hostMem ∧
    (s.claimWrites c (.pad k off) next am).pad = Memory.writeBytes (Memory.writeBytes s.pad (k * 262144 + off) (leBytes 8 next))
      (k * 262144 + (off + 16)) (leBytes 8 am) := by
  obtain ⟨hb, -, hm, hp⟩ := Around.memories (s.writePad_around c k off (leBytes 8 next))
  obtain ⟨hb', -, hm', hp'⟩ := Around.memories (State.writePad_around (s.writeAt c (.pad k off) (leBytes 8 next)) c k (off + 16) (leBytes 8 am))
  exact ⟨hb'.trans hb, hm'.trans hm, hp'.trans (congrArg (Memory.writeBytes · _ _) hp)⟩

/-- What a range of bytes does not meet no part of it meets. -/
theorem State.firmwareHit_part {s : State} {c : Ctx} {a n b m : Nat} (h : s.firmwareHit c a n = false) (low : a ≤ b)
    (high : b + m ≤ a + n) : s.firmwareHit c b m = false := by
  by_contra hit
  simp only [State.firmwareHit, Bool.not_eq_false, Bool.and_eq_true, decide_eq_true_eq] at hit
  obtain ⟨⟨⟨hp, hb⟩, hl⟩, hh⟩ := hit
  have whole : s.firmwareHit c a n = true := by
    simp only [State.firmwareHit, Bool.and_eq_true, decide_eq_true_eq]
    exact ⟨⟨⟨hp, hb⟩, by omega⟩, by omega⟩
  rw [h] at whole
  cases whole

/-- One on a descriptor in a page of HBM. -/
theorem State.claimWrites_page {s : State} {c : Ctx} {k h : Nat} (hf : s.firmwareHit c h 24 = false) (next am : Nat) :
    (s.claimWrites c (.page k h) next am).pad = s.pad ∧ (s.claimWrites c (.page k h) next am).hostMem = s.hostMem ∧
    ∀ b, (s.claimWrites c (.page k h) next am).readByte (.page k b) =
      if h ≤ b ∧ b < h + 8 then (leBytes 8 next).getD (b - h) 0
      else if h + 16 ≤ b ∧ b < h + 24 then (leBytes 8 am).getD (b - (h + 16)) 0 else s.readByte (.page k b) := by
  have hf1 : s.firmwareHit c h (leBytes 8 next).length = false := by
    rw [leBytes_length]
    exact State.firmwareHit_part hf (by omega) (by omega)
  obtain ⟨host1, pad1⟩ := State.writeAt_page_others (key := k) (leBytes_ne_nil next) hf1
  have stored1 := State.writeAt_page_stored (key := k) (leBytes_ne_nil next) hf1
  have wrote := State.writeAt_wrote (s := s) (c := c) (p := .page k h) (by simp) (by simp) (leBytes_ne_nil next)
    fun k' a e => by cases e; exact hf1
  have hf2 : (s.writeAt c (.page k h) (leBytes 8 next)).firmwareHit c (h + 16) (leBytes 8 am).length = false := by
    have same : ∀ u, WroteMemory s u → u.firmwareHit c (h + 16) 8 = s.firmwareHit c (h + 16) 8 := by
      rintro u ⟨_, _, _, _, _, _, _, _, _, _, _, _, _, rfl⟩
      rfl
    rw [leBytes_length, same _ wrote]
    exact State.firmwareHit_part hf (by omega) (by omega)
  obtain ⟨host2, pad2⟩ := State.writeAt_page_others (key := k) (leBytes_ne_nil am) hf2
  have stored2 := State.writeAt_page_stored (key := k) (leBytes_ne_nil am) hf2
  refine ⟨pad2.trans pad1, host2.trans host1, fun b => (stored2.1 b).trans ?_⟩
  rw [stored1.1 b, leBytes_length, leBytes_length]
  by_cases low : h ≤ b ∧ b < h + 8
  · rw [if_neg (by omega), if_pos low, if_pos low]
  · rw [if_neg low, if_neg low]

/-- Settles O18: LOOP from what it comes to with an index left, an answer or neither, and LOOP_CLAIM_RESPONSE from the claim's step
and what it writes. -/
theorem loopSteps : Obligations.LoopSteps := by
  unfold Obligations.LoopSteps
  refine ⟨?loop, ?response⟩
  case loop =>
    intro s rd a imm n h _ th by_ unpack then_ mine left
    have x : ∀ q, (n.marks s.me).xval q = s.me.xval q := Needs.marks_xval n s.me
    refine ⟨fun hl hn => ?_, fun hl c hc hm => ?_, fun hu c hc hm => ?_, fun hu hn sent p ks l ht => ?_⟩
    · rw [loop_left imm h hl, State.loopClaim, claimAt_none, ← x rd, ← x (rd + 1)]
      · rfl
      · intro c hc
        rcases hn with hn | ⟨d, hd, hm⟩
        · exact absurd (hn.symm.trans hc) (by simp)
        · exact Option.some.inj (hd.symm.trans hc) ▸ hm
    · rw [loop_left imm h hl, State.loopClaim, claimAt_mine hc hm, ← x rd, ← x (rd + 1), ← hc,
        ← show (n.marks s.me).claim = s.me.claim from Needs.marks_keeps Thread.claim (fun _ _ => by simp [Thread.emptyX]) n s.me]
      exact congrArg (fun u => Host.Outcome.next (then_.setThr s.cur { u with wait := none, answers := [] }))
        (loopUnpack_keeps_claim ..)
    · exact loop_answered imm h hu (claimAt_mine hc hm)
    · exact loop_claims imm h hu (claimAt_none hn) sent ht
  case response =>
    intro s t r p sent free clean ha hx hv hd places next ext am total chunk next' am'
    have run := loopClaimResponse_clean sent free clean ⟨ha, hx, hv, hd⟩ places rfl (claimStep_eq next ext am)
    refine ⟨_, run, ?_⟩
    rw [State.thr_modThr_same]
    have written : (if next < nestTotal ext then (some (next, claimChunk (nestTotal ext) next am),
          (next + claimChunk (nestTotal ext) next am) % 2 ^ 64, am)
        else (none, next, (am / 2 ^ 32 - 1) * 2 ^ 32 + am % 2 ^ 32)).2 =
        ((if next < total then (next + chunk) % 2 ^ 64 else next),
          if next < total then am else (am / 2 ^ 32 - 1) * 2 ^ 32 + am % 2 ^ 32) := by
      by_cases left : next < total
      · rw [if_pos left, if_pos left, if_pos (show next < nestTotal ext from left)]
        rfl
      · rw [if_neg left, if_neg left, if_neg (show ¬ next < nestTotal ext from left)]
    rw [written]
    refine ⟨rfl, rfl, rfl, rfl, fun done => ⟨_, rfl, ?_⟩, fun left => ⟨_, rfl, ?_⟩, fun k off hp => ?_, fun k h hp hf => ?_⟩
    · rw [if_neg (show ¬ next < nestTotal ext from Nat.not_lt.2 done)]
      exact ⟨rfl, rfl, rfl, rfl⟩
    · rw [if_pos (show next < nestTotal ext from left)]
      exact ⟨rfl, rfl, rfl, rfl, rfl⟩
    · rw [hp]
      exact State.claimWrites_pad ..
    · rw [hp]
      exact State.claimWrites_page hf ..

end Sys2Proof.Machine
end

section
/-! PROOF. Queue registers: binding, status, pops and pushes (O29). -/

namespace Sys2Proof.Machine

/-! ### Ports (R82) -/

theorem bits_top (w : Word) : bits w 63 60 = w.toNat / 2 ^ 60 := by
  unfold bits
  omega

theorem bits_middle (w : Word) : bits w 59 48 = w.toNat / 2 ^ 48 % 2 ^ 12 := rfl

theorem bits_arg (w : Word) : bits w 47 0 = w.toNat % 2 ^ 48 := by
  unfold bits
  simp

theorem State.portOf_sfu (s : State) (th : Thread) : s.portOf th (BitVec.ofNat 64 (2 ^ 60)) = some .sfu := by
  rw [State.portOf, bits_top, bits_middle, bits_arg]
  rfl

theorem State.portOf_braid (s : State) (th : Thread) : s.portOf th (BitVec.ofNat 64 (2 ^ 61)) = some .braid := by
  rw [State.portOf, bits_top, bits_middle, bits_arg]
  rfl

/-- A value that names no port (R82). -/
theorem State.portOf_malformed {s : State} {th : Thread} {w : Word}
    (h : w.toNat / 2 ^ 60 ∉ [1, 2, 3] ∨ w.toNat / 2 ^ 48 % 2 ^ 12 ≠ 0 ∨ w.toNat / 2 ^ 60 ≠ 3 ∧ w.toNat % 2 ^ 48 ≠ 0 ∨
      w.toNat / 2 ^ 60 = 3 ∧ (w.toNat % 32 ≠ 0 ∨ inWindow (w.toNat % 2 ^ 48) = false)) : s.portOf th w = none := by
  rw [State.portOf, bits_top, bits_middle, bits_arg]
  simp only [List.mem_cons, List.not_mem_nil, or_false, not_or] at h
  split
  · rfl
  next reserved =>
    split
    next sfu =>
      rw [if_neg]
      omega
    next notSfu =>
      split
      next braid =>
        rw [if_neg]
        omega
      next notBraid =>
        rw [if_neg]
        intro ring
        simp only [Bool.and_eq_true, decide_eq_true_eq] at ring
        obtain ⟨⟨type, window⟩, align⟩ := ring
        rcases h with h | h | h | ⟨-, h | h⟩
        · exact h.2.2 type
        · exact reserved h
        · exact h.1 type
        · omega
        · rw [window] at h
          cases h

/-- A ring port is of type 3. -/
theorem State.portOf_ring {s : State} {th : Thread} {w : Word} {core off : Nat} (h : s.portOf th w = some (.ring core off)) :
    bits w 63 60 = 3 := by
  unfold State.portOf at h
  dsimp only at h
  split at h
  · exact absurd h (by simp)
  split at h
  · split at h <;> exact absurd h (by simp)
  split at h
  · split at h <;> exact absurd h (by simp)
  split at h
  next ring =>
    simp only [Bool.and_eq_true, decide_eq_true_eq] at ring
    exact ring.1.1
  · exact absurd h (by simp)

/-! ### Instructions of a queue register -/

theorem State.q_take (s : State) (n : Needs) : (s.take n).me.q = s.me.q := by
  rw [State.me_take, Needs.marks_q]

theorem withPort_unbound {s : State} {n : Needs} {q : Nat} (h : Table.find? s.me.q q = none) (k : Word → Port → Verdict) :
    withPort (s.take n) q k = .trap 9 0 0 := by
  rw [withPort, State.q_take, h]

theorem withPort_bound {s : State} {n : Needs} {q : Nat} {w : Word} {p : Port} (h : Table.find? s.me.q q = some w)
    (hp : (s.take n).portOf (s.take n).me w = some p) (k : Word → Port → Verdict) :
    withPort (s.take n) q k = k w p := by
  rw [withPort, State.q_take, h]
  dsimp only
  rw [hp]

/-! ### QBIND and QFREE (R82, R84) -/

theorem close_modThr {s : State} (alive : s.alive s.cur = true) (n : Needs) (f : Thread → Thread) (r : State) :
    Verdict.close (.go ((s.take n).modThr (s.take n).cur f).advance) r = .next (s.after n fun th => (f th).past s.insnLen) := by
  rw [State.take_cur, State.take_eq, State.setThr_modThr]
  refine congrArg Host.Outcome.next ((congrArg State.issued (State.advance_setThr s _)).trans ?_)
  exact State.issued_setThr s _ alive

theorem qbind_ready {s : State} {q : Nat} {a : Src} (h : Ready s { src := [a] }) :
    let u := s.take { src := [a] }
    (Table.has s.me.q q = true ∨ u.portOf u.me (s.rx a) = none → exec (.qbind q a) s = .next (s.takeTrap 9 0 0)) ∧
    (Table.has s.me.q q = false → (u.portOf u.me (s.rx a)).isSome → exec (.qbind q a) s = .next (s.after { src := [a] } fun th =>
      Thread.past { th with q := Table.set th.q q (s.rx a) } s.insnLen)) := by
  intro u
  have run : exec (.qbind q a) s = execQbind q a s := rfl
  rw [run, execQbind, issue_ready h, State.q_take, State.rx_take]
  dsimp only
  refine ⟨fun bad => ?_, fun new port => ?_⟩
  · rcases bad with bound | noPort
    · rw [if_pos bound]
      rfl
    · split
      · rfl
      · rw [show (s.take { src := [a] }).portOf (s.take { src := [a] }).me (s.rx a) = none from noPort]
        rfl
  · obtain ⟨p, hp⟩ := Option.isSome_iff_exists.1 port
    rw [if_neg (by simp [new]), show (s.take { src := [a] }).portOf (s.take { src := [a] }).me (s.rx a) = some p from hp]
    exact close_modThr h.alive _ (fun th => { th with q := Table.set th.q q (s.rx a) }) s

theorem qfree_ready {s : State} (q : Nat) (h : Ready s {}) : exec (.qfree q) s =
    .next (s.after {} fun th => Thread.past { th with q := Table.erase th.q q } s.insnLen) := by
  have run : exec (.qfree q) s = execQfree q s := rfl
  rw [run, execQfree, issueSimple, issue_ready h]
  exact close_modThr h.alive _ (fun th => { th with q := Table.erase th.q q }) s

/-! ### What a ring's descriptor and its entries may be read under (R26, R65, R83) -/

theorem State.spanFree_alone {s : State} {t q k n : Nat} {p : Place} (hr : s.requestsBefore t q = []) (hh : s.heldBefore t q = []) :
    s.spanFree t q k p n = true := by
  simp [State.spanFree, State.acquiringBefore, hr, hh]

theorem State.performed_spanFree {s : State} {t : Nat} (h : s.performed t = true) (k n : Nat) (p : Place) :
    s.spanFree t s.nextAcc k p n = true := by
  simp only [State.performed, Bool.and_eq_true, List.isEmpty_iff] at h
  exact State.spanFree_alone h.1 (by rw [State.heldBefore, h.2, List.filter_nil])

theorem Quiet.spanFree {s : State} (h : Quiet s) (t q k n : Nat) (p : Place) : s.spanFree t q k p n = true :=
  State.spanFree_alone (h.requests t q) (h.waiting t q)

theorem State.ringFor_take (s : State) (n : Needs) (core off : Nat) :
    (s.take n).ringFor (s.take n).me core off = s.ringFor s.me core off := by
  have word : ∀ o, (s.take n).padWordAt core o = s.padWordAt core o := fun o =>
    congrArg leNat (State.readAt_setThr s s.cur _ (by simp) (by simp) 8)
  have admits : (s.take n).ringAdmits (s.take n).me = s.ringAdmits s.me := by
    funext r
    rw [State.ringAdmits, State.ringAdmits, State.me_take, Needs.marks_part]
    rfl
  rw [State.ringFor, State.ringFor, admits, State.ringAt, State.ringAt]
  simp only [word]

/-! ### QSTAT (R84) -/

/-- A QSTAT of an unbound queue register answers 0. -/
theorem qstat_unbound {s : State} {q rd : Nat} (h : Ready s { dx := [rd] }) (hq : Table.find? s.me.q q = none) :
    exec (.qstat q rd) s = .next (s.after {} fun th => (th.gets rd 0).past s.insnLen) := by
  have run : exec (.qstat q rd) s = execQstat q rd s := rfl
  rw [run, execQstat, issue_ready h, State.q_take, if_pos (by simp [Table.has, hq])]
  exact close_wx h.alive { dx := [rd] } rd 0 s

/-- The status of a port. -/
def portStatus (w : Word) (held free : Nat) : Word :=
  BitVec.ofNat 64 (2 ^ 63 + bits w 63 60 * 2 ^ 56 + min free 65535 * 2 ^ 16 + min held 65535)

theorem qstat_bound {s : State} {q rd : Nat} {w : Word} {p : Port} {held free : Nat} (h : Ready s { dx := [rd] })
    (hq : Table.find? s.me.q q = some w) (hp : (s.take { dx := [rd] }).portOf (s.take { dx := [rd] }).me w = some p)
    (hd : ∀ core off, p = .ring core off → s.performed s.cur = true)
    (hc : (s.take { dx := [rd] }).portCounts (s.take { dx := [rd] }).me p = some (held, free)) :
    exec (.qstat q rd) s = .next (s.after {} fun th => (th.gets rd (portStatus w held free)).past s.insnLen) := by
  have run : exec (.qstat q rd) s = execQstat q rd s := rfl
  rw [run, execQstat, issue_ready h, State.q_take, if_neg (by simp [Table.has, hq]), withPort_bound hq hp]
  have reads : ∀ v, afterDesc (s.take { dx := [rd] }) p v = v := by
    intro v
    cases p with
    | sfu => rfl
    | braid => rfl
    | ring core off =>
      rw [afterDesc, State.descFree, State.performed_spanFree ((State.performed_take s _).trans (hd core off rfl)), if_pos rfl]
  rw [reads, hc]
  exact close_wx h.alive { dx := [rd] } rd _ s

/-! ### Pops (R29, R83, R127) -/

theorem pop_unbound {s : State} {q rd : Nat} (h : Ready s { dx := [rd] }) (hq : Table.find? s.me.q q = none) :
    popInto q rd s = .next (s.takeTrap 9 0 0) := by
  rw [popInto, issue_ready h, withPort_unbound hq]
  rfl

/-- A pop of the SFU result port. -/
theorem pop_sfu {s : State} {q rd : Nat} (h : Ready s { dx := [rd] })
    (hq : Table.find? s.me.q q = some (BitVec.ofNat 64 (2 ^ 60))) :
    (s.me.sfuWords = [] → popInto q rd s = .next (s.parkOn .other)) ∧
    (∀ v ws, s.me.sfuWords = v :: ws → popInto q rd s = .next (s.after {} fun th =>
      (Thread.gets { th with sfuWords := ws } rd v).past s.insnLen)) := by
  rw [popInto, issue_ready h, withPort_bound hq (State.portOf_sfu ..)]
  dsimp only [afterDesc]
  have words : (s.take { dx := [rd] }).me.sfuWords = s.me.sfuWords := by
    rw [State.me_take, Needs.marks_keeps Thread.sfuWords (fun _ _ => by simp [Thread.emptyX])]
  rw [words]
  refine ⟨fun empty => ?_, fun v ws some => ?_⟩
  · rw [empty]
    rfl
  · rw [some]
    exact close_modThr_wx h.alive { dx := [rd] } (fun th => { th with sfuWords := ws }) rd v s

/-- A pop of a ring. -/
theorem pop_ring {s : State} {q rd core off : Nat} {w : Word} {r : Ring} (h : Ready s { dx := [rd] })
    (hq : Table.find? s.me.q q = some w)
    (hp : (s.take { dx := [rd] }).portOf (s.take { dx := [rd] }).me w = some (.ring core off))
    (hr : s.ringFor s.me core off = some r) (quiet : Quiet s) :
    (r.tail ≤ r.head → popInto q rd s = .next (s.parkOn .other)) ∧
    (r.head < r.tail → s.badPad = [] → popInto q rd s = .next
      (((((s.take { dx := [rd] }).writePad s.me.ctx core off (leBytes 8 (r.head + 1))).wx rd
        (BitVec.ofNat 64 (leNat (s.readAt (.pad core (r.slot r.head)) 8)))).advance).issued)) := by
  rw [popInto, issue_ready h, withPort_bound hq hp, afterDesc, State.descFree, (quiet.take _).spanFree, if_pos rfl]
  dsimp only
  rw [State.ringFor_take, hr]
  dsimp only
  refine ⟨fun empty => ?_, fun some clean => ?_⟩
  · rw [if_pos (by simp [empty])]
    rfl
  · rw [if_neg (by simp [Nat.not_le.2 some, (quiet.take _).spanFree])]
    have bad : (s.take { dx := [rd] }).badAt (.pad core (r.slot r.head)) 8 = false := by
      have : (s.take { dx := [rd] }).badPad = [] := clean
      simp [State.badAt, this]
    have note : (s.take { dx := [rd] }).noteRead (s.take { dx := [rd] }).me.ctx (.pad core (r.slot r.head)) 8 = s.take { dx := [rd] } := by
      have : (s.take { dx := [rd] }).badPad = [] := clean
      simp [State.noteRead, errorsIn, this]
    have word : (s.take { dx := [rd] }).padWordAt core (r.slot r.head) = leNat (s.readAt (.pad core (r.slot r.head)) 8) :=
      congrArg leNat (State.readAt_setThr s s.cur _ (by simp) (by simp) 8)
    rw [bad, if_neg (by simp), note, word, State.me_take, Needs.marks_ctx]
    rfl

/-! ### Pushes (R29, R83, R127, R199) -/

theorem push_unbound {s : State} {q : Nat} {x : Src} (h : Ready s { src := [x] }) (hq : Table.find? s.me.q q = none) :
    pushFrom q x s = .next (s.takeTrap 9 0 0) := by
  rw [pushFrom, issue_ready h, withPort_unbound hq]
  rfl

theorem push_sfu {s : State} {q : Nat} {x : Src} (h : Ready s { src := [x] })
    (hq : Table.find? s.me.q q = some (BitVec.ofNat 64 (2 ^ 60))) :
    (16 ≤ s.me.sfuWords.length + (s.core (s.me.sid / 16)).sfuOpen s.cur → pushFrom q x s = .next (s.parkOn .other)) ∧
    (s.me.sfuWords.length + (s.core (s.me.sid / 16)).sfuOpen s.cur < 16 → pushFrom q x s = .next (s.after { src := [x] } fun th =>
      Thread.past { th with sfuWords := th.sfuWords ++ [s.rx x] } s.insnLen)) := by
  rw [pushFrom, issue_ready h, withPort_bound hq (State.portOf_sfu ..)]
  dsimp only [afterDesc]
  have words : (s.take { src := [x] }).me.sfuWords = s.me.sfuWords := by
    rw [State.me_take, Needs.marks_keeps Thread.sfuWords (fun _ _ => by simp [Thread.emptyX])]
  have core : coreOf (s.take { src := [x] }).me.sid = s.me.sid / 16 := by rw [State.me_take, Needs.marks_sid]; rfl
  rw [words, core, State.rx_take]
  refine ⟨fun full => ?_, fun room => ?_⟩
  · rw [if_pos (show Config.sfuPortWords ≤ s.me.sfuWords.length +
      ((s.take { src := [x] }).core (s.me.sid / 16)).sfuOpen (s.take { src := [x] }).cur from full)]
    rfl
  · rw [if_neg (show ¬ Config.sfuPortWords ≤ s.me.sfuWords.length +
      ((s.take { src := [x] }).core (s.me.sid / 16)).sfuOpen (s.take { src := [x] }).cur from Nat.not_le.2 room)]
    exact close_modThr h.alive { src := [x] } (fun th => { th with sfuWords := th.sfuWords ++ [s.rx x] }) s

/-- A push to the Braid's port always issues. -/
theorem push_braid {s : State} {q : Nat} {x : Src} (h : Ready s { src := [x] })
    (hq : Table.find? s.me.q q = some (BitVec.ofNat 64 (2 ^ 61))) :
    pushFrom q x s = .next ((((s.take { src := [x] }).submit s.cur (.braid (s.rx x)) []).advance).issued) := by
  rw [pushFrom, issue_ready h, withPort_bound hq (State.portOf_braid ..)]
  dsimp only [afterDesc]
  rw [State.rx_take]
  rfl

theorem push_ring {s : State} {q core off : Nat} {w : Word} {x : Src} {r : Ring} (h : Ready s { src := [x] })
    (hq : Table.find? s.me.q q = some w) (hp : (s.take { src := [x] }).portOf (s.take { src := [x] }).me w = some (.ring core off))
    (hr : s.ringFor s.me core off = some r) (perf : s.performed s.cur = true) :
    (r.mask < r.tail - r.head → pushFrom q x s = .next (s.parkOn .other)) ∧
    (r.tail - r.head ≤ r.mask → pushFrom q x s = .next
      (((((s.take { src := [x] }).writePad s.me.ctx core (r.slot r.tail) (leBytes 8 (s.rx x).toNat)).writePad s.me.ctx core (off + 8)
        (leBytes 8 (r.tail + 1))).advance).issued)) := by
  have perf' := (State.performed_take s { src := [x] }).trans perf
  rw [pushFrom, issue_ready h, withPort_bound hq hp, afterDesc, State.descFree, State.performed_spanFree perf', if_pos rfl]
  dsimp only
  rw [State.ringFor_take, hr]
  dsimp only
  refine ⟨fun full => ?_, fun room => ?_⟩
  · rw [if_pos (show r.mask < r.count from full)]
    rfl
  · rw [if_neg (show ¬ r.mask < r.count from Nat.not_lt.2 room), afterHeld, perf', if_pos rfl, State.me_take, Needs.marks_ctx,
      State.rx_take]
    rfl

/-! ### Scratchpads that an instruction has written -/

theorem WroteMemory.cur_eq {s t : State} (h : WroteMemory s t) : t.cur = s.cur := by
  obtain ⟨_, _, _, _, _, _, _, _, _, _, _, _, _, rfl⟩ := h
  rfl

/-- An instruction that has written scratchpads, and done `f` to its thread, goes on. -/
theorem wrote_advance {s u v : State} {n : Needs} (alive : s.alive s.cur = true) (h : WroteMemory (s.take n) u) {f : Thread → Thread}
    (hv : ∀ w, u = State.setThr w s.cur (n.marks s.me) → v = State.setThr w s.cur (f (n.marks s.me))) :
    v.advance.issued.pad = u.pad ∧ v.advance.issued.hbm = u.hbm ∧
      v.advance.issued.me = { (f (n.marks s.me)).past s.insnLen with wait := none, answers := [] } := by
  obtain ⟨w, hw, e⟩ := WroteMemory.of_setThr (s := s) h
  rw [hv w e, hw.issued alive (f (n.marks s.me)), e]
  obtain ⟨-, -, -, -, me⟩ := hw.frame { (f (n.marks s.me)).past s.insnLen with wait := none, answers := [] }
  refine ⟨rfl, rfl, ?_⟩
  rw [State.me, State.setThr_cur, hw.cur_eq]
  exact State.thr_setThr_same ..

/-- A register receives a value in a state that ends with the write of its thread. -/
theorem wx_written {u w : State} {c : Nat} {th : Thread} (e : u = w.setThr c th) (hc : u.cur = c) (rd : Nat) (v : Word) :
    u.wx rd v = w.setThr c (th.gets rd v) := by
  rw [State.wx, hc, e]
  exact State.setThr_modThr ..

theorem portStatus_sfu (held free : Nat) : portStatus (BitVec.ofNat 64 (2 ^ 60)) held free =
    BitVec.ofNat 64 (2 ^ 63 + 2 ^ 56 + min free 65535 * 2 ^ 16 + min held 65535) := by
  rw [portStatus, show bits (BitVec.ofNat 64 (2 ^ 60)) 63 60 = 1 by decide, Nat.one_mul]

theorem portStatus_braid (held free : Nat) : portStatus (BitVec.ofNat 64 (2 ^ 61)) held free =
    BitVec.ofNat 64 (2 ^ 63 + 2 ^ 57 + min free 65535 * 2 ^ 16 + min held 65535) := by
  rw [portStatus, show bits (BitVec.ofNat 64 (2 ^ 61)) 63 60 = 2 by decide, show 2 * 2 ^ 56 = 2 ^ 57 by decide]

/-- Settles O29 from what each of the instructions comes to. -/
theorem queueRegisters : Obligations.QueueRegisters := by
  unfold Obligations.QueueRegisters
  refine ⟨fun s q rd a => ⟨?bind, ?bound, ?noPort, ?malformed, ?named, qfree_ready q, qstat_unbound, ?sfu, ?braid, ?ring⟩,
    fun s q rd a v ws core off r => ?access⟩
  case bind => exact fun h new port => (qbind_ready h).2 new port
  case bound => exact fun h bound => (qbind_ready h).1 (.inl bound)
  case noPort => exact fun h noPort => (qbind_ready h).1 (.inr noPort)
  case malformed => exact fun h bad => (qbind_ready h).1 (.inr (State.portOf_malformed bad))
  case named =>
    intro h new type
    refine (qbind_ready h).2 new ?_
    rcases type with e | e
    · rw [e, show (2 ^ 60 : Word) = BitVec.ofNat 64 (2 ^ 60) from (BitVec.ofNat_pow 64 2 60).symm, State.portOf_sfu]
      rfl
    · rw [e, show (2 ^ 61 : Word) = BitVec.ofNat 64 (2 ^ 61) from (BitVec.ofNat_pow 64 2 61).symm, State.portOf_braid]
      rfl
  case sfu =>
    intro h hq
    have words : (s.take { dx := [rd] }).me.sfuWords = s.me.sfuWords := by
      rw [State.me_take, Needs.marks_keeps Thread.sfuWords (fun _ _ => by simp [Thread.emptyX])]
    have counts : (s.take { dx := [rd] }).portCounts (s.take { dx := [rd] }).me .sfu =
        some (s.me.sfuWords.length, 16 - s.me.sfuWords.length) := by
      rw [State.portCounts, words]
      rfl
    rw [qstat_bound h hq (State.portOf_sfu ..) (by simp) counts, portStatus_sfu]
  case braid =>
    intro h hq
    have counts : (s.take { dx := [rd] }).portCounts (s.take { dx := [rd] }).me .braid =
        some (s.braidHeld (s.me.sid / 8192) s.me.part s.me.ten, 65535) := by
      rw [State.portCounts, State.me_take, Needs.marks_sid, Needs.marks_part, Needs.marks_ten]
      rfl
    rw [qstat_bound h hq (State.portOf_braid ..) (by simp) counts, portStatus_braid]
    rfl
  case ring =>
    intro h perf w core off r hq type hp hr
    have st := qstat_bound h hq hp (fun _ _ _ => perf) (held := r.count) (free := r.mask + 1 - r.count)
      (by rw [State.portCounts, State.ringFor_take, hr]; rfl)
    rw [portStatus, bits_top, type] at st
    exact st
  case access =>
    intro sfu pops pushes
    have pop : ∀ i : Instr, exec i s = popInto q rd s → pops i := by
      intro i run h
      rw [run]
      refine ⟨fun hq some => (pop_sfu h hq).2 v ws some, fun hq empty => (pop_sfu h hq).1 empty, pop_unbound h,
        fun w hq hp hr quiet => ⟨(pop_ring h hq hp hr quiet).1, fun some clean => ?_⟩⟩
      obtain ⟨wrote, hm, hpad⟩ := (WroteMemory.refl (s.take { dx := [rd] })).writePad s.me.ctx core off (leBytes 8 (r.head + 1))
      obtain ⟨pad, hbm, me⟩ := wrote_advance h.alive wrote
        (f := (·.gets rd (BitVec.ofNat 64 (leNat (s.readAt (.pad core (r.slot r.head)) 8)))))
        fun w e => wx_written e (wrote.cur_eq.trans (State.take_cur ..)) rd _
      refine ⟨_, (pop_ring h hq hp hr quiet).2 some clean, fun nz => ?_, pad.trans hpad, hbm.trans hm, ?_⟩
      · rw [me]
        exact (Thread.getX_setX ..).trans (if_pos ⟨rfl, nz⟩)
      · rw [me]
        simp [Thread.past, Thread.gets, word]
    have push : ∀ (i : Instr) (x : Src), exec i s = pushFrom q x s → pushes i x := by
      intro i x run h
      rw [run]
      refine ⟨fun hq => (push_sfu h hq).2, fun hq => (push_sfu h hq).1, push_unbound h,
        fun w hq hp hr perf => ⟨(push_ring h hq hp hr perf).1, fun room => ?_⟩, push_braid h⟩
      obtain ⟨wrote, hm, hpad⟩ := (WroteMemory.refl (s.take { src := [x] })).writePad s.me.ctx core (r.slot r.tail)
        (leBytes 8 (s.rx x).toNat)
      obtain ⟨wrote, hm', hpad'⟩ := wrote.writePad s.me.ctx core (off + 8) (leBytes 8 (r.tail + 1))
      obtain ⟨pad, hbm, me⟩ := wrote_advance h.alive wrote (f := id) fun w e => e
      refine ⟨_, (push_ring h hq hp hr perf).2 room, pad.trans (hpad'.trans (congrArg (Memory.writeBytes · _ _) hpad)),
        hbm.trans (hm'.trans hm), ?_⟩
      rw [me]
      simp [Thread.past, word]
    exact ⟨pop _ rfl, pop _ rfl, push _ _ rfl, push _ _ rfl⟩

end Sys2Proof.Machine
end

section
/-! PROOF. The short agent instructions: results, agent memory, faults, POST and AHALT (O46-O48). -/

namespace Sys2Proof.Machine

/-! ### Issue (R235, R236) -/

/-- The agent of the instruction may issue, and nothing of it is in flight. -/
structure Idle (s : State) (g : Agent) : Prop where
  agent : s.agent s.cur = some g
  issues : s.issues g = true
  flight : g.flight = []

theorem shortOp_idle {s : State} {g : Agent} (h : Idle s g) (f : State → Agent → Effect) :
    shortOp f s = match f s g with
      | .error c => .next (s.faultAgent s.cur c g.apc)
      | .ok (g', ws) => .next ((s.store g ws).setAgent s.cur { g' with looked := false }) := by
  rw [shortOp, h.agent]
  dsimp only
  rw [h.issues, h.flight]
  rfl

theorem shortOp_ok {s : State} {g : Agent} (h : Idle s g) {f : State → Agent → Effect} {g' : Agent} {ws : List (Nat × List Byte)}
    (hf : f s g = .ok (g', ws)) : shortOp f s = .next ((s.store g ws).setAgent s.cur { g' with looked := false }) := by
  rw [shortOp_idle h, hf]

theorem shortOp_error {s : State} {g : Agent} (h : Idle s g) {f : State → Agent → Effect} {c : Nat} (hf : f s g = .error c) :
    shortOp f s = .next (s.faultAgent s.cur c g.apc) := by
  rw [shortOp_idle h, hf]

theorem plainOp_idle {s : State} {g : Agent} (h : Idle s g) (f : Agent → Agent) :
    plainOp f s = .next (s.setAgent s.cur { f g with looked := false }) :=
  shortOp_ok (f := fun _ g => .ok (f g, [])) (ws := []) h rfl

theorem readOp_ok {s : State} {g g' : Agent} (h : Idle s g) {f : State → Agent → Except Nat Agent} (hf : f s g = .ok g') :
    readOp f s = .next (s.setAgent s.cur { g' with looked := false }) :=
  shortOp_ok (f := fun s g => (f s g).map fun g => (g, [])) (ws := []) h (by rw [hf]; rfl)

theorem readOp_error {s : State} {g : Agent} {c : Nat} (h : Idle s g) {f : State → Agent → Except Nat Agent}
    (hf : f s g = .error c) : readOp f s = .next (s.faultAgent s.cur c g.apc) :=
  shortOp_error (f := fun s g => (f s g).map fun g => (g, [])) h (by rw [hf]; rfl)

/-! ### Registers and apc (R228, R231, R232) -/

theorem Agent.hop_apc (g : Agent) (off : BitVec 32) : g.hop off = { g with apc := (g.apc + 8 * off.toNat) % 2 ^ 32 } := by
  unfold Agent.hop
  have sum : (BitVec.ofNat 32 g.apc + off * 8).toNat = (g.apc + 8 * off.toNat) % 2 ^ 32 := by
    rw [BitVec.toNat_add, BitVec.toNat_mul, BitVec.toNat_ofNat, show BitVec.toNat (8 : BitVec 32) = 8 from rfl]
    omega
  rw [sum]

theorem Agent.branch_apc (g : Agent) (off : BitVec 32) (p : Prop) [Decidable p] :
    g.branch (decide p) off = { g with apc := if p then (g.apc + 8 * off.toNat) % 2 ^ 32 else (g.apc + 8) % 2 ^ 32 } := by
  unfold Agent.branch
  by_cases h : p
  · rw [if_pos (decide_eq_true h), if_pos h, Agent.hop_apc]
  · rw [if_neg (by simpa using h), if_neg h]
    rfl

theorem bits_mod (w : Word) (n : Nat) : bits w n 0 = w.toNat % 2 ^ (n + 1) := by
  simp [bits]

theorem Agent.ret_ok {g : Agent} (h1 : (g.getA 31).toNat < 2 ^ 32) (h2 : (g.getA 31).toNat % 8 = 0) :
    g.ret = .ok { g with apc := (g.getA 31).toNat } := by
  have high : bits (g.getA 31) 63 32 = 0 := by unfold bits; omega
  have low : bits (g.getA 31) 2 0 = 0 := by unfold bits; omega
  simp [Agent.ret, high, low]

theorem Agent.ret_error {g : Agent} (h : 2 ^ 32 ≤ (g.getA 31).toNat ∨ (g.getA 31).toNat % 8 ≠ 0) : g.ret = .error aBounds := by
  have := (g.getA 31).isLt
  have bad : bits (g.getA 31) 63 32 ≠ 0 ∨ bits (g.getA 31) 2 0 ≠ 0 := by
    unfold bits
    omega
  simp [Agent.ret, bad]

/-! ### CHOOSE (R231) -/

/-- The fold of `greatest`: the next index, and the index and key of the greatest so far. -/
def greatestStep (acc : Nat × Nat × Int) (x : Int) : Nat × Nat × Int :=
  if acc.2.2 < x then (acc.1 + 1, acc.1, x) else (acc.1 + 1, acc.2)

/-- `k` of the first `n` keys is the greatest, and the lowest such. -/
def FirstMax (key : Nat → Int) (n k : Nat) : Prop :=
  k < n ∧ (∀ i, i < k → key i < key k) ∧ ∀ i, k ≤ i → i < n → key i ≤ key k

theorem FirstMax.step {key : Nat → Int} {n k : Nat} (h : FirstMax key n k) :
    FirstMax key (n + 1) (if key k < key n then n else k) := by
  obtain ⟨hk, hlow, hhigh⟩ := h
  split
  next new =>
    refine ⟨by omega, fun i hi => ?_, fun i hn hi => by rw [show i = n by omega]⟩
    by_cases hik : i < k
    · exact (hlow i hik).trans new
    · exact (hhigh i (by omega) hi).trans_lt new
  next old =>
    refine ⟨by omega, hlow, fun i hi hn => ?_⟩
    by_cases hin : i = n
    · rw [hin]
      omega
    · exact hhigh i hi (by omega)

theorem greatest_fold (key : Nat → Int) (m n k : Nat) (h : FirstMax key n k) :
    ∃ j, ((List.range' n m).map key).foldl greatestStep (n, k, key k) = (n + m, j, key j) ∧ FirstMax key (n + m) j := by
  induction m generalizing n k with
  | zero => exact ⟨k, rfl, h⟩
  | succ m ih =>
    obtain ⟨j, hj, hm⟩ := ih (n + 1) _ h.step
    refine ⟨j, ?_, by rwa [Nat.add_right_comm] at hm⟩
    rw [List.range'_succ, List.map_cons, List.foldl_cons, ← Nat.add_assoc, Nat.add_right_comm, ← hj]
    congr 1
    unfold greatestStep
    split <;> rfl

theorem greatest_firstMax (key : Nat → Int) {n : Nat} (h : 0 < n) : FirstMax key n (greatest ((List.range n).map key)) := by
  obtain ⟨m, rfl⟩ : ∃ m, n = 1 + m := ⟨n - 1, by omega⟩
  obtain ⟨j, hj, hm⟩ := greatest_fold key m 1 0 ⟨by omega, by omega, fun i _ hi => by rw [show i = 0 by omega]⟩
  have list : (List.range (1 + m)).map key = key 0 :: (List.range' 1 m).map key := by
    rw [List.range_eq_range', Nat.add_comm, List.range'_succ, List.map_cons]
  rw [list]
  have : greatest (key 0 :: (List.range' 1 m).map key) = j :=
    (congrArg (fun a : Nat × Nat × Int => a.2.1) hj :)
  rwa [this]

theorem strWith_eq (w : Word) (len : Nat) : strWith w len = BitVec.ofNat 64 (len * 2 ^ 32 + w.toNat % 2 ^ 32) := by
  rw [strWith, bits_mod]
  rfl

theorem State.ctxStatus_eq (s : State) (d : Nat) (y : Context) : s.ctxStatus d y =
    BitVec.ofNat 64 (y.owner % 65536 * 2 ^ 16 + y.part % 16 * 2 ^ 12 + (if y.late then 2 ^ 5 else 0) +
      (if s.inFlight d then 2 ^ 4 else 0) + y.st) := by
  unfold State.ctxStatus b2n
  cases y.late <;> cases s.inFlight d <;> rfl

theorem queryCtx_ok {s : State} {g : Agent} {kb d : Nat} {y : Context} (h : Idle s g) (hc : s.ctxOf g kb = some (d, y)) (a : Nat)
    (f : State → Nat → Context → Word) :
    queryCtx a kb f s = .next (s.setAgent s.cur { (g.setA a (f s d y)).past with looked := false }) :=
  readOp_ok h (by rw [hc])

theorem queryCtx_error {s : State} {g : Agent} {kb : Nat} (h : Idle s g) (hc : s.ctxOf g kb = none) (a : Nat)
    (f : State → Nat → Context → Word) : queryCtx a kb f s = .next (s.faultAgent s.cur aCtx g.apc) :=
  readOp_error (f := fun s g => match s.ctxOf g kb with
    | some (d, c) => .ok (g.setA a (f s d c)).past
    | none => .error aCtx) h (by rw [hc])

/-- Settles O46 from what a short instruction without faults comes to. -/
theorem agentShortResults : Obligations.AgentShortResults := by
  unfold Obligations.AgentShortResults
  refine ⟨fun s g a b c imm ha hi hf => ?results, fun s g a fb n ha hi hf hn h0 => ?choose⟩
  case results =>
    intro x gives past sets target hops
    have h : Idle s g := ⟨ha, hi, hf⟩
    have plain : ∀ (i : Instr) (f : Agent → Agent), exec i s = plainOp f s → gives i (f g) :=
      fun i f run => run.trans (plainOp_idle h f)
    have hop : ∀ (i : Instr) (p : Prop) [Decidable p] (c : Agent → Bool), c g = decide p →
        exec i s = plainOp (fun g => g.branch (c g) imm) s → hops i p := by
      intro i p _ c hc run _
      refine (run.trans (plainOp_idle h _)).trans ?_
      dsimp only
      rw [hc, Agent.branch_apc]
    refine ⟨plain .anop Agent.past rfl, plain (.amovi a imm) (fun g => (g.setA a (sext imm)).past) rfl, ?high,
      plain (.aadd a b c) (fun g => g.alu a b c (· + ·)) rfl, plain (.asub a b c) (fun g => g.alu a b c (· - ·)) rfl,
      plain (.amul a b c) (fun g => g.alu a b c (· * ·)) rfl,
      plain (.aaddi a b imm) (fun g => (g.setA a (g.getA b + sext imm)).past) rfl, 
      hop (.abeq a b imm) (g.getA a = g.getA b) (fun g => g.getA a = g.getA b) rfl rfl,
      hop (.abne a b imm) (g.getA a ≠ g.getA b) (fun g => g.getA a ≠ g.getA b) rfl rfl,
      hop (.ablt a b imm) ((g.getA a).toInt < (g.getA b).toInt) (fun g => (g.getA a).toInt < (g.getA b).toInt) rfl rfl,
      hop (.abge a b imm) ((g.getA b).toInt ≤ (g.getA a).toInt) (fun g => (g.getA b).toInt ≤ (g.getA a).toInt) rfl rfl,
      ?jmp, hop (.fblt a b imm) (fmtF32.cmp .lt (g.getF a).toNat (g.getF b).toNat = true)
        (fun g => fmtF32.cmp .lt (g.getF a).toNat (g.getF b).toNat) (by simp) rfl, ?call, ?ret,
      plain (.slen a b) (fun g => (g.setA a (word (strLen (g.getS b)))).past) rfl, ?clear, plain (.fmovi a imm) (fun g => (g.setF a imm).past) rfl,
      plain (.fbits a b) (fun g => (g.setA a (word (g.getF b).toNat)).past) rfl, ?toF, ?query⟩
    case high =>
      have run : gives (.amoviHi a imm) (g.movHi a imm) := plain (.amoviHi a imm) (fun g => g.movHi a imm) rfl
      rw [Agent.movHi, bits_mod] at run
      exact run
    case jmp => exact fun _ => (plain (.ajmp imm) (fun g => g.hop imm) rfl).trans (by rw [Agent.hop_apc]; rfl)
    case call =>
      exact fun _ => (plain (.acall imm) (fun g => (g.setA 31 (word (g.apc + 8))).hop imm) rfl).trans (by rw [Agent.hop_apc]; rfl)
    case ret => exact fun low align => readOp_ok (f := fun _ g => g.ret) h (Agent.ret_ok low align)
    case clear =>
      have run : gives (.sclear a) (g.setS a (strWith (g.getS a) 0)).past :=
        plain (.sclear a) (fun g => (g.setS a (strWith (g.getS a) 0)).past) rfl
      rw [strWith_eq, Nat.zero_mul, Nat.zero_add] at run
      exact run
    case toF =>
      have run := plain (.fbitsF a b) (fun g => (g.setF b ((g.getA a).setWidth 32)).past) rfl
      exact run
    case query =>
      intro d y hc
      refine ⟨queryCtx_ok h hc a fun _ _ c => word c.len, ?_⟩
      have run := queryCtx_ok h hc a State.ctxStatus
      rw [State.ctxStatus_eq] at run
      exact run
  case choose =>
    intro key
    obtain ⟨hk, low, high⟩ := greatest_firstMax key hn
    refine ⟨_, hk, low, high, ?_⟩
    have run := plainOp_idle ⟨ha, hi, hf⟩ (fun g => g.choose a fb n.toNat)
    dsimp only at run
    rw [Agent.choose, Agent.setA, if_neg h0] at run
    exact run

/-! ### Agent memory (R229, R230) -/

theorem ESize.bytes_pos (sz : ESize) : 0 < ESize.bytes sz := by cases sz <;> decide

theorem Agent.ea_ok {g : Agent} {b n e : Nat} {off : BitVec 32} (he : ((g.getA b).toNat : Int) + off.toInt = e) (align : e % n = 0)
    (fits : e + n ≤ 65536) : g.ea b off n = .ok e := by
  rw [Agent.ea, he, if_neg (by omega), Int.toNat_natCast, if_neg (by simp [align]; omega)]

theorem Agent.ea_error {g : Agent} {b n : Nat} {off : BitVec 32}
    (h : ((g.getA b).toNat : Int) + off.toInt < 0 ∨ (((g.getA b).toNat : Int) + off.toInt) % n ≠ 0 ∨
      65536 < ((g.getA b).toNat : Int) + off.toInt + n) : g.ea b off n = .error aBounds := by
  rw [Agent.ea]
  split
  · rfl
  next nonneg =>
    obtain ⟨e, he⟩ := Int.eq_ofNat_of_zero_le (Int.not_lt.1 nonneg)
    rw [he] at h ⊢
    rw [Int.toNat_natCast, if_pos]
    rw [Bool.or_eq_true, decide_eq_true_eq, decide_eq_true_eq]
    rcases h with h | h | h
    · omega
    · exact .inl fun hz => h (by rw [← Int.natCast_mod, hz]; rfl)
    · exact .inr (by omega)

/-- A store of a short instruction changes bytes of HBM alone. -/
theorem State.store_one (s : State) (g : Agent) (e : Nat) (bs : List Byte) :
    let t := s.store g [(e, bs)]
    (∀ j, j < g.base + e ∨ g.base + e + bs.length ≤ j → Memory.read t.hbm j = Memory.read s.hbm j) ∧
    (∀ j, j < bs.length → Memory.read t.hbm (g.base + e + j) = bs.getD j 0) ∧ t.threads = s.threads ∧ t.agents = s.agents ∧
    t.pad = s.pad ∧ t.hostMem = s.hostMem := by
  obtain ⟨_, _, _, _, _, _, _, _, _, wrote⟩ := s.writeHbm_around g.ctx (g.base + e) bs
  have stores : s.store g [(e, bs)] = s.writeHbm g.ctx (g.base + e) bs := rfl
  rw [stores, wrote]
  refine ⟨fun j hj => Memory.read_writeBytes_outside _ _ _ _ hj, fun j hj => ?_, rfl, rfl, rfl, rfl⟩
  exact (Memory.read_writeBytes_inside _ _ _ _ hj).trans (List.getD_eq_getElem ..).symm

theorem Agent.ast_ok {g : Agent} {b n e : Nat} {off : BitVec 32} (he : ((g.getA b).toNat : Int) + off.toInt = e) (align : e % n = 0)
    (fits : e + n ≤ 65536) (v : Word) : g.ast n v b off = .ok (g.past, [(e, leBytes n v.toNat)]) := by
  rw [Agent.ast, Agent.ea_ok he align fits]
  rfl

theorem State.ald_ok {s : State} {g : Agent} {b e : Nat} {sz : ESize} {off : BitVec 32}
    (he : ((g.getA b).toNat : Int) + off.toInt = e) (align : e % ESize.bytes sz = 0) (fits : e + ESize.bytes sz ≤ 65536) (sx : Bool)
    (a : Nat) : s.ald g sz sx a b off =
      .ok (g.setA a (extend sx (ESize.bytes sz) (s.recallLe g e (ESize.bytes sz)))).past := by
  rw [State.ald, Agent.ea_ok he align fits]
  rfl

theorem Agent.past_setA (g : Agent) (r : Nat) (v : Word) :
    (g.setA r v).past = { (if r = 0 then g else { g with a := Table.set g.a r v }) with apc := (g.apc + 8) % 2 ^ 32 } := by
  unfold Agent.setA
  split <;> rfl

theorem Agent.stokW_inside {g : Agent} {a sb c : Nat} (h : (g.getA c).toNat < strLen (g.getS sb)) :
    g.stokW a sb c = .ok (g.past, [tokensAt (g.getS sb) (g.getA c).toNat [bits (g.getA a) 31 0]]) := by
  unfold Agent.stokW
  dsimp only
  rw [if_neg (by omega), if_neg (by simp; omega), if_neg (by omega)]

theorem Agent.stokW_end {g : Agent} {a sb c : Nat} (h : (g.getA c).toNat = strLen (g.getS sb))
    (room : strLen (g.getS sb) < strCap (g.getS sb)) :
    g.stokW a sb c = .ok ((g.setS sb (strWith (g.getS sb) (strLen (g.getS sb) + 1))).past,
      [tokensAt (g.getS sb) (strLen (g.getS sb)) [bits (g.getA a) 31 0]]) := by
  unfold Agent.stokW
  dsimp only
  rw [h, if_neg (by omega), if_neg (by simp; omega), if_pos rfl]

theorem tokens_length (s : State) (g : Agent) (r : Nat) : (s.tokens g r).length = strLen (g.getS r) := by
  rw [State.tokens, List.length_map, List.length_range]

theorem State.join_ok {s : State} {g : Agent} {sa sb : Nat} (h : strLen (g.getS sa) + strLen (g.getS sb) ≤ strCap (g.getS sa)) :
    s.join g sa sb = .ok ((g.setS sa (strWith (g.getS sa) (strLen (g.getS sa) + strLen (g.getS sb)))).past,
      [tokensAt (g.getS sa) (strLen (g.getS sa)) (s.tokens g sb)]) := by
  unfold State.join
  dsimp only
  rw [tokens_length, if_neg (by omega)]

theorem oneToken (v : Nat) : [v].flatMap (leBytes 4) = leBytes 4 v := by simp

theorem Agent.stokW_full {g : Agent} {a sb c : Nat} (h : (g.getA c).toNat = strLen (g.getS sb))
    (full : strCap (g.getS sb) = (g.getA c).toNat) : g.stokW a sb c = .error aLimit := by
  unfold Agent.stokW
  dsimp only
  rw [if_neg (by omega), if_pos (by simp; omega)]

theorem State.join_full {s : State} {g : Agent} {sa sb : Nat} (h : strCap (g.getS sa) < strLen (g.getS sa) + strLen (g.getS sb)) :
    s.join g sa sb = .error aLimit := by
  unfold State.join
  dsimp only
  rw [tokens_length, if_pos h]

/-- Settles O47 from what a short instruction that succeeds comes to and what it stores. -/
theorem agentMemoryResults : Obligations.AgentMemoryResults := by
  unfold Obligations.AgentMemoryResults
  intro s g a b c off ha hi hf gives sets stores w len cap base i
  have h : Idle s g := ⟨ha, hi, hf⟩
  have read : ∀ (i : Instr) (f : State → Agent → Except Nat Agent) (g' : Agent), exec i s = readOp f s → g'.apc = g.apc →
      f s g = .ok g'.past → gives i g' := by
    intro i f g' run apc hf
    refine (run.trans (readOp_ok h hf)).trans ?_
    rw [Agent.past, apc]
  have readA : ∀ (i : Instr) (f : State → Agent → Except Nat Agent) (v : Word), exec i s = readOp f s →
      f s g = .ok (g.setA a v).past → sets i v := by
    intro i f v run hf
    refine (run.trans (readOp_ok h hf)).trans ?_
    rw [Agent.past_setA]
  have store : ∀ (i : Instr) (f : State → Agent → Effect) (e : Nat) (bs : List Byte) (g' : Agent), exec i s = shortOp f s →
      g'.apc = g.apc → f s g = .ok (g'.past, [(e, bs)]) → stores i e bs g' := by
    intro i f e bs g' run apc hf
    refine ⟨_, rfl, (run.trans (shortOp_ok h hf)).trans ?_, s.store_one g e bs⟩
    rw [Agent.past, apc]
  refine ⟨fun e he => ⟨fun sz align fits => ⟨?_, ?_, ?_⟩, fun align fits => ⟨?_, fun ok => ?_⟩⟩, fun hl => ?_, fun hl => ?_,
    fun he room => ?_, fun hb => ?_, fun room => ?_⟩
  · exact readA _ (fun s g => s.ald g sz false a b off) _ rfl (State.ald_ok he align fits false a)
  · refine readA _ (fun s g => s.ald g sz true a b off) _ rfl ((State.ald_ok he align fits true a).trans ?_)
    rw [extend_eq]
    simp
  · exact store _ (fun _ g => g.ast (ESize.bytes sz) (g.getA a) b off) e _ g rfl rfl (Agent.ast_ok he align fits _)
  · exact store _ (fun _ g => g.ast 8 (g.getS a) b off) e _ g rfl rfl (Agent.ast_ok he align fits _)
  · refine read _ (fun s g => s.sload g a b off) _ rfl rfl ?_
    rw [State.sload, Agent.ea_ok he align fits]
    exact if_pos ok
  · refine readA _ (fun s g => s.stok g a b c) _ rfl ?_
    exact if_neg (Nat.not_le.2 hl)
  · refine store _ (fun _ g => g.stokW a b c) _ _ g rfl rfl ((Agent.stokW_inside hl).trans ?_)
    rw [tokensAt, oneToken, bits_mod]
    rfl
  · refine store _ (fun _ g => g.stokW a b c) _ _ _ rfl rfl ((Agent.stokW_end he room).trans ?_)
    rw [strWith_eq, tokensAt, oneToken, bits_mod, he]
    rfl
  · exact read _ (fun _ g => g.ssel a b c) (g.setS a (g.getS (b + i))) rfl rfl (if_neg (Nat.not_lt.2 hb))
  · refine store _ (fun s g => s.join g a b) _ _ _ rfl rfl ((State.join_ok room).trans ?_)
    rw [strWith_eq]
    rfl

/-! ### Activation (R275) -/

/-- The better of two agents that wait. -/
def firstToWake (best : Option (Nat × Agent)) (e : Nat × Agent) : Option (Nat × Agent) :=
  match best with
  | some b => if e.2.cls < b.2.cls || (e.2.cls = b.2.cls && e.2.arrived < b.2.arrived) then some e else some b
  | none => some e

theorem firstToWake_isSome (l : List (Nat × Agent)) (b : Nat × Agent) : (l.foldl firstToWake (some b)).isSome = true := by
  induction l generalizing b with
  | nil => rfl
  | cons e l ih =>
    rw [List.foldl_cons, firstToWake]
    split
    · exact ih e
    · exact ih b

/-- An agent that waits to be activated. -/
def State.waits (s : State) (p : Nat) (g : Agent) : Bool := g.part = p && g.st = 0 && s.startsFor p g.ten

theorem State.nextWaiting_none {s : State} {p : Nat} : s.nextWaiting p = none ↔ ∀ e ∈ s.agents, s.waits p e.2 = false := by
  have fold : s.nextWaiting p = (s.agents.filter fun e => s.waits p e.2).foldl firstToWake none := rfl
  rw [fold]
  constructor
  · intro h e he
    by_contra hw
    obtain ⟨x, l, hl⟩ : ∃ x l, (s.agents.filter fun e => s.waits p e.2) = x :: l :=
      List.exists_cons_of_ne_nil (List.ne_nil_of_mem (List.mem_filter.2 ⟨he, by simpa using hw⟩))
    have := firstToWake_isSome l x
    rw [hl, List.foldl_cons] at h
    rw [show firstToWake none x = some x from rfl] at h
    rw [h] at this
    cases this
  · intro h
    rw [List.filter_eq_nil_iff.2 fun e he => by simp [h e he]]
    rfl

theorem State.wakeAgents_none {s : State} {p : Nat} (h : s.nextWaiting p = none) : s.wakeAgents p = s := by
  rw [State.wakeAgents, State.activate, h]

/-- With no agent waiting, an agent that comes to wait for nothing leaves none waiting. -/
theorem State.nextWaiting_of_agents {s t : State} {p n : Nat} {g : Agent} (h : s.nextWaiting p = none)
    (ht : t.agents = Table.set s.agents n g) (hp : t.parts = s.parts) (hg : g.st ≠ 0) : t.nextWaiting p = none := by
  have starts : ∀ ten, t.startsFor p ten = s.startsFor p ten := fun ten => by
    rw [State.startsFor, State.startsFor, State.part, State.part, hp]
  refine State.nextWaiting_none.2 fun e he => ?_
  rw [ht] at he
  rcases Table.mem_set he with rfl | old
  · simp [State.waits, hg]
  · rw [State.waits, starts]
    exact State.nextWaiting_none.1 h e old

/-! ### Faults (R238) -/

/-- An agent with nothing in flight that has stopped. -/
def Agent.haltedAs (g : Agent) (st : Nat) : Agent := { g with st := st, flight := [], fault := none, looked := false }

theorem State.stopAgent_idle {s : State} {n : Nat} {g : Agent} (ha : s.agent n = some g) (hf : g.flight = []) (st : Nat) :
    s.stopAgent n st = (s.dropPlans n).setAgent n (g.haltedAs st) := by
  unfold State.stopAgent
  rw [ha]
  dsimp only
  rw [hf]
  rfl

theorem State.agent_setAgent (s : State) (n : Nat) (g : Agent) : (s.setAgent n g).agent n = some g := Table.find_set_same ..

theorem State.setAgent_setAgent (s : State) (n : Nat) (g g' : Agent) : (s.setAgent n g).setAgent n g' = s.setAgent n g' := by
  rw [State.setAgent, State.setAgent, Table.set_set]
  rfl

/-- The record of a fault. -/
def faultRecord (g : Agent) (n code apc : Nat) : List Word :=
  [recordHead 4 g.ten g.part, word n, word code, word apc, word apc, 0, 0, 0]

theorem State.takeFault_idle {s : State} {n code apc : Nat} {g : Agent} (ha : s.agent n = some g) (hf : g.flight = [])
    (fault : g.fault = some (code, apc)) :
    s.takeFault n = ((s.dropPlans n).setAgent n { g.haltedAs 2 with apc := apc }).postTo (s.boundFn g.part) (faultRecord g n code apc) := by
  unfold State.takeFault
  rw [ha]
  dsimp only
  rw [fault]
  dsimp only
  rw [State.stopAgent_idle ha hf, hf, State.modAgent, State.agent_setAgent]
  dsimp only [List.head?_nil]
  rw [State.setAgent_setAgent]
  rfl

/-- A failed short instruction stops its agent, and a record goes to its function. -/
theorem State.faultAgent_idle {s : State} {g : Agent} (h : Idle s g) (noFault : g.fault = none) (none : s.nextWaiting g.part = none)
    (code : Nat) :
    s.faultAgent s.cur code g.apc = ((s.dropPlans s.cur).setAgent s.cur (g.haltedAs 2)).postTo (s.boundFn g.part)
      (faultRecord g s.cur code g.apc) := by
  have pending : (s.setAgent s.cur { g with fault := some (code, g.apc) }).takeFault s.cur =
      ((s.dropPlans s.cur).setAgent s.cur (g.haltedAs 2)).postTo (s.boundFn g.part) (faultRecord g s.cur code g.apc) := by
    refine (State.takeFault_idle (g := { g with fault := some (code, g.apc) }) (State.agent_setAgent ..) h.flight rfl).trans ?_
    exact congrArg (fun u : State => u.postTo (s.boundFn g.part) (faultRecord g s.cur code g.apc))
      (State.setAgent_setAgent (s.dropPlans s.cur) s.cur { g with fault := some (code, g.apc) } (g.haltedAs 2))
  unfold State.faultAgent
  rw [h.agent]
  dsimp only
  rw [noFault, if_pos (by simp [h.flight])]
  refine Eq.trans ?_ (State.wakeAgents_none (p := g.part)
    (State.nextWaiting_of_agents (n := s.cur) (g := g.haltedAs 2) none rfl rfl (by simp [Agent.haltedAs])))
  exact congrArg (fun u : State => u.wakeAgents g.part) pending

/-- Settles O48 from what a short instruction that fails comes to. -/
theorem agentFaultsPostHalt : Obligations.AgentFaultsPostHalt := by
  unfold Obligations.AgentFaultsPostHalt
  refine ⟨fun s g a b c off ha hi hf idle => ?faults, fun s g a tag ha hi hf => ?others⟩
  case faults =>
    intro e w i v fails
    have h : Idle s g := ⟨ha, hi, hf⟩
    have fail : ∀ (i : Instr) (code : Nat), exec i s = .next (s.faultAgent s.cur code g.apc) → fails i code := by
      refine fun i code run => ⟨run, fun noFault none => ⟨_, run, ?_⟩⟩
      rw [State.faultAgent_idle h noFault none]
      refine ⟨rfl, ?_, rfl⟩
      exact congrArg (Option.map _) (State.agent_setAgent (s.dropPlans s.cur) s.cur (g.haltedAs 2))
    have short : ∀ (i : Instr) (f : State → Agent → Effect) (code : Nat), exec i s = shortOp f s → f s g = .error code → fails i code :=
      fun i f code run hf => fail i code (run.trans (shortOp_error h hf))
    have read : ∀ (i : Instr) (f : State → Agent → Except Nat Agent) (code : Nat), exec i s = readOp f s → f s g = .error code →
        fails i code := fun i f code run hf => fail i code (run.trans (readOp_error h hf))
    have bounds : ∀ {n : Nat}, (e < 0 ∨ e % n ≠ 0 ∨ 65536 < e + n) → g.ea b off n = .error aBounds := fun bad => Agent.ea_error bad
    refine ⟨fun sz bad => ⟨?_, ?_, ?_⟩, fun bad => ⟨?_, ?_⟩, fun bad => ?_, fun bad => ?_, fun bad => ?_, fun full none => ?_,
      fun bad => ?_, fun full => ?_, fun none => ⟨?_, ?_⟩⟩
    · exact read _ (fun s g => s.ald g sz false a b off) 2 rfl (by rw [State.ald, bounds bad]; rfl)
    · exact read _ (fun s g => s.ald g sz true a b off) 2 rfl (by rw [State.ald, bounds bad]; rfl)
    · exact short _ (fun _ g => g.ast (ESize.bytes sz) (g.getA a) b off) 2 rfl (by rw [Agent.ast, bounds bad]; rfl)
    · exact read _ (fun s g => s.sload g a b off) 2 rfl (by rw [State.sload, bounds (n := 8) bad]; rfl)
    · exact short _ (fun _ g => g.ast 8 (g.getS a) b off) 2 rfl (by rw [Agent.ast, bounds (n := 8) bad]; rfl)
    · exact read _ (fun _ g => g.ret) 2 rfl (Agent.ret_error bad)
    · exact read _ (fun s g => s.stok g a b c) 2 rfl (if_pos bad)
    · exact short _ (fun _ g => g.stokW a b c) 2 rfl (if_pos bad)
    · exact short _ (fun _ g => g.stokW a b c) 6 rfl (Agent.stokW_full full none)
    · exact read _ (fun _ g => g.ssel a b c) 2 rfl (if_pos bad)
    · exact short _ (fun s g => s.join g a b) 6 rfl (State.join_full full)
    · exact fail _ 3 (queryCtx_error h none a fun _ _ c => word c.len)
    · exact fail _ 3 (queryCtx_error h none a State.ctxStatus)
  case others =>
    have h : Idle s g := ⟨ha, hi, hf⟩
    intro fn
    have post : exec (.post a tag) s = execPost a tag s := rfl
    refine ⟨fun room held => ?_, fun full => ?_, fun none => ?_⟩
    · rw [post, execPost, h.agent]
      dsimp only
      rw [if_neg (by simp [hi, hf, show s.cqRoom (s.boundFn g.part) = true from room,
        show Table.get s.cqHeld (s.boundFn g.part) [] = [] from held]), State.postTo,
        show Table.get (s.setAgent s.cur { g.past with looked := false }).cqHeld (s.boundFn g.part) [] = [] from held]
      rfl
    · rw [post, execPost, h.agent]
      dsimp only
      rw [if_pos (by simp [show s.cqRoom (s.boundFn g.part) = false from full])]
    · have wakes : (((s.setAgent s.cur { g with st := 3, halt := g.getA a }).dropPlans s.cur).wakeAgents g.part) =
          (s.setAgent s.cur { g with st := 3, halt := g.getA a }).dropPlans s.cur :=
        State.wakeAgents_none (State.nextWaiting_of_agents (n := s.cur) (g := { g with st := 3, halt := g.getA a }) none rfl rfl
          (by simp))
      have run : exec (.ahalt a) s = .next ((s.setAgent s.cur { g with st := 3, halt := g.getA a }).dropPlans s.cur) := by
        have unfolded : exec (.ahalt a) s = execAhalt a s := rfl
        rw [unfolded, execAhalt, h.agent]
        dsimp only
        rw [if_neg (by simp [hi, hf]), wakes]
      exact ⟨_, run, State.agent_setAgent .., fun n hn => Table.find_set_other _ _ hn, rfl, rfl⟩

end Sys2Proof.Machine
end

section
/-! PROOF. Long agent instructions: their issue and the checks of R265 (O49). -/

namespace Sys2Proof.Machine

/-! ### The flight (R234, R236) -/

theorem retireFlight_running {fl : List LongInst} (h : ∀ l ∈ fl, l.done = false) : retireFlight fl = fl := by
  cases fl with
  | nil => rfl
  | cons l rest => rw [retireFlight, if_neg (by simp [h l (List.mem_cons_self ..)])]

theorem waits_iff {fl : List LongInst} (h : ∀ l ∈ fl, l.done = false) :
    fl.any LongInst.waits = true ↔ ∃ l ∈ fl, opAwaits l.op = true := by
  rw [List.any_eq_true]
  refine exists_congr fun l => and_congr_right fun hl => ?_
  simp [LongInst.waits, h l hl]

/-- The apc of an agent's next instruction: behind an AWAIT that waits there. -/
def Agent.here (g : Agent) : Nat :=
  if ∃ l ∈ g.flight, opAwaits l.op = true ∧ l.apc = g.apc then (g.apc + 8) % 2 ^ 32 else g.apc

theorem Agent.toIssue_eq {g : Agent} (h : ∀ l ∈ g.flight, l.done = false) : g.toIssue = { g with apc := g.here } := by
  have waits : (g.flight.any fun l => l.waits && l.apc = g.apc) = true ↔ ∃ l ∈ g.flight, opAwaits l.op = true ∧ l.apc = g.apc := by
    rw [List.any_eq_true]
    refine exists_congr fun l => and_congr_right fun hl => ?_
    simp [LongInst.waits, h l hl]
  unfold Agent.toIssue Agent.here
  by_cases hw : ∃ l ∈ g.flight, opAwaits l.op = true ∧ l.apc = g.apc
  · rw [if_pos (waits.2 hw), if_pos hw]
  · rw [if_neg fun hc => hw (waits.1 hc), if_neg hw]

/-! ### Issue (R235, R271) -/

/-- An agent that may issue a long instruction: at most 3 older ones are unretired, none of them complete or depended on. -/
structure LongReady (s : State) (g : Agent) (op : LongOp) : Prop where
  agent : s.agent s.cur = some g
  issues : s.issues g = true
  room : g.flight.length < 4
  running : ∀ l ∈ g.flight, l.done = false ∧ g.depends op l.op = false

/-- The agent at its next instruction. -/
def Agent.atHere (g : Agent) : Agent := { g with apc := g.here }

/-- What the instruction comes to at its issue. -/
def State.starts (s : State) (g : Agent) (op : LongOp) : Start := s.startLong g.atHere op (g.replay.head?.getD false)

theorem longOp_ready {s : State} {g : Agent} {op : LongOp} (h : LongReady s g op) :
    longOp op s =
      if (∃ l ∈ g.flight, opAwaits l.op = true) ∧ (s.starts g op).faults = true then .next s
      else if opAwaits op = true then .next (s.issueLong g.atHere op none)
      else match s.freeEntry g.die with
        | none => .next s
        | some n => .next (s.issueLong g.atHere op (some n)) := by
  have done : ∀ l ∈ g.flight, l.done = false := fun l hl => (h.running l hl).1
  have free : (g.atHere.flight.any fun l => g.atHere.depends op l.op) = false := by
    rw [List.any_eq_false]
    exact fun l hl => by simpa using! (h.running l hl).2
  have issues : s.issues g.atHere = true := h.issues
  have room : ¬ 4 ≤ g.atHere.flight.length := Nat.not_le.2 h.room
  have awaits := waits_iff done
  unfold longOp
  rw [h.agent]
  dsimp only
  rw [Agent.toIssue_eq done]
  have cond : (!s.issues g.atHere || decide (4 ≤ g.atHere.flight.length) || (g.atHere.flight.any fun l => g.atHere.depends op l.op) ||
      (g.atHere.waits && (s.startLong g.atHere op (g.atHere.replay.head?.getD false)).faults)) = true ↔
      (∃ l ∈ g.flight, opAwaits l.op = true) ∧ (s.starts g op).faults = true := by
    rw [free, issues, decide_eq_false room, ← awaits]
    simp [Agent.waits, Agent.atHere, State.starts]
  by_cases held : (∃ l ∈ g.flight, opAwaits l.op = true) ∧ (s.starts g op).faults = true
  · rw [if_pos held]
    exact if_pos (cond.2 held)
  · rw [if_neg held]
    exact if_neg fun hc => held (cond.1 hc)

/-- The batch-table entry of an instruction that issues. -/
def Agent.batchEntry (s : State) (g : Agent) (op : LongOp) (done : Bool) : BatchEntry :=
  BatchEntry.fresh (opCode op) s.cur (g.entryCtx op) (s.iter g.part).num done

/-- The batch table after an issue. -/
def State.batchWith (s : State) (g : Agent) (op : LongOp) (entry : Option Nat) (done : Bool) : Table BatchEntry :=
  match entry with
  | some n => Table.set s.batch n (g.batchEntry s op done)
  | none => s.batch

theorem issueLong_run {s : State} {g : Agent} {op : LongOp} {data : List Word} (h : ∀ l ∈ g.flight, l.done = false)
    (st : s.startLong g op (g.replay.head?.getD false) = .run data) (entry : Option Nat) :
    s.issueLong g op entry = State.setAgent { s with nextSeq := s.nextSeq + 1, batch := s.batchWith g op entry false } s.cur
      { g with
        apc := if opAwaits op then g.apc else (g.apc + 8) % 2 ^ 32
        flight := g.flight ++ [⟨op, g.apc, entry, false, none, [], none, data, s.nextSeq⟩]
        replay := g.replay.drop 1, looked := false } := by
  unfold State.issueLong
  rw [st]
  dsimp only
  unfold State.addInst
  dsimp only
  rw [retireFlight_running]
  · cases entry <;> cases opAwaits op <;> rfl
  · intro l hl
    rcases List.mem_append.1 hl with hl | hl
    · exact h l hl
    · rw [List.mem_singleton.1 hl]

theorem issueLong_done {s : State} {g g' : Agent} {op : LongOp} (st : s.startLong g op (g.replay.head?.getD false) = .done g')
    (flight : g'.flight = []) (entry : Option Nat) :
    s.issueLong g op entry = (State.setAgent { s with nextSeq := s.nextSeq + 1, batch := s.batchWith g op entry true } s.cur
      { g' with apc := (g'.apc + 8) % 2 ^ 32, flight := [], replay := g'.replay.drop 1, looked := false }).endPlan s.cur g'.apc := by
  unfold State.issueLong
  rw [st]
  dsimp only
  unfold State.addInst
  dsimp only
  rw [flight]
  cases entry <;> cases opAwaits op <;> rfl

theorem issueLong_fault {s : State} {g : Agent} {op : LongOp} {k : Nat} (st : s.startLong g op (g.replay.head?.getD false) = .fault k)
    (entry : Option Nat) : s.issueLong g op entry = s.faultAgent s.cur k g.apc := by
  unfold State.issueLong
  rw [st]

/-! ### What an instruction with nothing left to do leaves of its agent (R241) -/

/-- The registers a, and the events, of an agent alone have changed. -/
def Agent.Settled (g g' : Agent) : Prop := ∃ a e, g' = { g with a := a, events := e }

theorem Agent.settled_setA (g : Agent) (r : Nat) (v : Word) : g.Settled (g.setA r v) := by
  unfold Agent.setA
  split
  · exact ⟨g.a, g.events, rfl⟩
  · exact ⟨_, g.events, rfl⟩

theorem Agent.settled_takeEvent (g : Agent) (a : Nat) (e : Nat × Word) : g.Settled (g.takeEvent a e) := by
  unfold Agent.takeEvent Agent.setA
  split
  · exact ⟨g.a, _, rfl⟩
  · exact ⟨_, _, rfl⟩

theorem State.withCtx_done {s : State} {g g' : Agent} {k : Nat} {f : Nat → Context → Model → Start} (h : s.withCtx g k f = .done g')
    {P : Agent → Prop} (hf : ∀ d c m, f d c m = .done g' → P g') : P g' := by
  unfold State.withCtx at h
  split at h
  · cases h
  split at h
  · cases h
  · exact hf _ _ _ h

theorem Agent.settled_refl (g : Agent) : g.Settled g := ⟨g.a, g.events, rfl⟩

/-- What has its done bit, or a check of its context that never ends it. -/
theorem settled_of_replayed {s : State} {g g' : Agent} {k : Nat} {rep : Prop} [Decidable rep] {f : Nat → Context → Model → Start}
    (h : (if rep then .done g else s.withCtx g k f) = Start.done g') (hf : ∀ d c m, f d c m ≠ .done g') : g.Settled g' := by
  split at h
  · cases h
    exact g.settled_refl
  · exact State.withCtx_done (P := g.Settled) h fun d c m e => absurd e (hf d c m)

theorem State.startLong_settled {s : State} {g g' : Agent} {op : LongOp} {rep : Bool} (h : s.startLong g op rep = .done g') :
    g.Settled g' := by
  cases op with
  | append ka sb c =>
    refine settled_of_replayed h fun d x m => ?_
    split
    · simp
    split <;> simp
  | score fa kb sc d =>
    refine settled_of_replayed h fun d x m => ?_
    split
    · simp
    split
    · simp
    split <;> simp
  | gen ka sb c =>
    simp only [State.startLong] at h
    split at h
    · cases h
      exact g.settled_refl
    · refine State.withCtx_done (P := g.Settled) h fun d x m e => ?_
      split at e
      · cases e
      split at e
      · cases e
        exact g.settled_setA ..
      · cases e
  | await a tag =>
    simp only [State.startLong] at h
    split at h
    · cases h
      exact g.settled_refl
    split at h
    · cases h
      exact g.settled_takeEvent ..
    · cases h
  | ctxnew ka model =>
    simp only [State.startLong] at h
    split at h
    · cases h
      exact g.settled_refl
    split at h <;> cases h
  | fork ka kb =>
    simp only [State.startLong] at h
    split at h
    · cases h
      exact g.settled_refl
    split at h
    · cases h
    · exact State.withCtx_done (P := g.Settled) h fun d x m e => by cases e
  | pin ka sb c =>
    refine settled_of_replayed h fun d x m => ?_
    split <;> simp
  | sampset ka b =>
    refine settled_of_replayed h fun d x m => ?_
    dsimp only
    split
    · simp
    · split <;> simp
  | maskbind ka b =>
    refine settled_of_replayed h fun d x m => ?_
    dsimp only
    split <;> simp
  | ctxfree ka => exact settled_of_replayed h fun d x m => by simp
  | trim ka b => exact settled_of_replayed h fun d x m => by simp
  | unpin ka b => exact settled_of_replayed h fun d x m => by simp
  | rngjump ka b => exact settled_of_replayed h fun d x m => by simp
  | probe a kb sc => exact settled_of_replayed h fun d x m => by simp

/-! ### The checks (R241, R265) -/

theorem State.withCtx_some {s : State} {g : Agent} {k d : Nat} {x : Context} {m : Model} (hx : s.ctxOf g k = some (d, x))
    (hm : s.modelOf x = some m) (f : Nat → Context → Model → Start) : s.withCtx g k f = f d x m := by
  unfold State.withCtx
  rw [hx]
  dsimp only
  rw [hm]

theorem State.withCtx_none {s : State} {g : Agent} {k : Nat} (hx : s.ctxOf g k = none) (f : Nat → Context → Model → Start) :
    s.withCtx g k f = .fault aCtx := by
  unfold State.withCtx
  rw [hx]

theorem any_vocab_false {ts : List Nat} {n : Nat} (h : ∀ t ∈ ts, t < n) : (ts.any fun t => decide (n ≤ t)) = false := by
  rw [List.any_eq_false]
  exact fun t ht => by simpa using h t ht

/-- Settles O49: the issue from what a long instruction that is ready comes to, and the checks case by case. -/
theorem agentLongIssue : Obligations.AgentLongIssue := by
  unfold Obligations.AgentLongIssue
  refine ⟨fun s g a b c d imm ha hi hr => ?issue, fun s g a b c d imm => ?checks⟩
  case issue =>
    intro issues
    have all : ∀ (i : Instr) (op : LongOp), exec i s = longOp op s → issues i op := by
      intro i op run running here st inst past name takes
      have h : LongReady s g op := ⟨ha, hi, hr, running⟩
      have done : ∀ l ∈ g.flight, l.done = false := fun l hl => (running l hl).1
      rw [run, longOp_ready h]
      have started : s.starts g op = st := rfl
      refine ⟨fun data n hst aw fr => ?_, fun aw fr => ?_, fun data hst aw => ?_, fun g' hst empty => ?_,
        fun k n hst fr none => ?_, fun k hst some => ?_⟩
      · rw [started, hst, if_neg (by simp [Start.faults]), if_neg (by simp [aw]), fr]
        dsimp only
        rw [issueLong_run (g := g.atHere) done hst, aw]
        rfl
      · rw [if_neg (by simp [aw] : ¬ opAwaits op = true), fr]
        split <;> rfl
      · rw [started, hst, if_neg (by simp [Start.faults]), if_pos aw, issueLong_run (g := g.atHere) done hst, aw]
        rfl
      · intro ends
        have apc : g.here = g.apc := by rw [Agent.here, empty]; simp
        have at_ : g.atHere = g := by rw [Agent.atHere, apc]
        have next : past = (g.apc + 8) % 2 ^ 32 := congrArg (fun n => (n + 8) % 2 ^ 32) apc
        have hst' : s.startLong g op (g.replay.head?.getD false) = .done g' := by
          rw [← hst, ← started, State.starts, at_]
        obtain ⟨na, ne, hg'⟩ := State.startLong_settled hst'
        have retires := issueLong_done hst' (by rw [hg']; exact empty)
        have fields : g'.apc = g.apc ∧ g'.replay = g.replay := by rw [hg']; exact ⟨rfl, rfl⟩
        rw [fields.1, fields.2] at retires
        have notHeld : ¬ ((∃ l ∈ g.flight, opAwaits l.op = true) ∧ (s.starts g op).faults = true) := by simp [empty]
        refine ⟨fun n aw fr => ?_, fun aw => ?_⟩
        · show (if _ then _ else _) = _
          rw [if_neg notHeld, if_neg (by simp [aw]), fr, next, at_]
          exact congrArg Host.Outcome.next (retires (some n))
        · show (if _ then _ else _) = _
          rw [if_neg notHeld, if_pos aw, next, at_]
          exact congrArg Host.Outcome.next (retires none)
      · have notHeld : ¬ ((∃ l ∈ g.flight, opAwaits l.op = true) ∧ (s.starts g op).faults = true) :=
          fun ⟨⟨l, hl, aw⟩, _⟩ => by simp [none l hl] at aw
        have apc : g.here = g.apc := by
          rw [Agent.here, if_neg]
          rintro ⟨l, hl, aw, -⟩
          simp [none l hl] at aw
        rw [if_neg notHeld, fr]
        dsimp only
        rw [issueLong_fault (g := g.atHere) hst, issueLong_fault (g := g.atHere) hst, show g.atHere.apc = g.apc from apc]
        split <;> rfl
      · rw [if_pos ⟨some, by rw [started, hst]; rfl⟩]
    exact ⟨all _ _ rfl, all _ _ rfl, all _ _ rfl, all _ _ rfl, all _ _ rfl, all _ _ rfl, all _ _ rfl, all _ _ rfl, all _ _ rfl,
      all _ _ rfl, all _ _ rfl, all _ _ rfl, all _ _ rfl, all _ _ rfl⟩
  case checks =>
    intro start free
    refine ⟨fun hf hm => ?_, fun bad => ?_, fun e x m hx hm => ⟨fun hf => ?_, ?_, fun vocab left len cap => ?_⟩, fun full => ?_,
      fun e x m hx hm => ?_, fun none => ?_, fun zero => ?_, fun none => ?_, fun e some => ?_⟩
    all_goals simp only [start, State.startLong, Bool.false_eq_true, if_false]
    · exact if_neg (by simp [show bit (g.getK a) 63 = false from hf, Option.isSome_iff_ne_none.1 hm])
    · refine if_pos ?_
      rcases bad with used | none
      · simp [show bit (g.getK a) 63 = true by simpa [free] using used]
      · simp [none]
    · exact (if_neg (by simpa [free] using hf)).trans (State.withCtx_some hx hm _)
    · exact State.withCtx_some hx hm _
    · refine (if_neg (Nat.not_le.2 left)).trans ((State.withCtx_some hx hm _).trans ?_)
      rw [if_neg len, any_vocab_false vocab, if_neg (by simp), if_neg (Nat.not_lt.2 cap)]
    · exact if_pos full
    · have named : ∀ f, s.withCtx g a f = f e x m := State.withCtx_some hx hm
      refine ⟨named _, named _, named _, named _, fun fits => ?_, fun long => ?_, fun budget len new tot => ?_,
        fun budget len spent => ?_, fun budget len => ?_, fun some vocab room tot => ?_, fun zero => ?_, fun align fits ok => ?_⟩
      · exact (named _).trans (if_neg (Nat.not_lt.2 fits))
      · exact (named _).trans (if_pos long)
      · exact (if_neg budget).trans ((named _).trans ((if_neg len).trans (if_neg (by simp [new, tot]))))
      · refine (if_neg budget).trans ((named _).trans ((if_neg len).trans ((if_pos (by simpa using spent)).trans ?_)))
        have c0 : c ≠ 0 := fun hc => budget (by rw [hc]; rfl)
        rw [Agent.setA, if_neg c0]
      · exact (if_neg budget).trans ((named _).trans (if_pos len))
      · refine (if_neg (by simpa using some)).trans ((named _).trans ?_)
        rw [if_neg (by rw [any_vocab_false vocab]; simp),
          if_neg (by rw [Bool.or_eq_true, decide_eq_true_eq, decide_eq_true_eq]; omega)]
      · exact (named _).trans (if_pos (by simp [zero]))
      · exact (named _).trans ((if_neg (by simp; omega)).trans (if_pos ok))
    · have unnamed : ∀ f, s.withCtx g a f = .fault aCtx := State.withCtx_none none
      intro op hop
      simp only [List.mem_cons, List.not_mem_nil, or_false] at hop
      rcases hop with rfl | rfl | rfl | rfl | rfl | rfl | rfl <;> exact unnamed _
    · exact if_pos zero
    · rw [none]
    · rw [some]
      dsimp only
      unfold Agent.takeEvent Agent.setA
      split <;> rfl

end Sys2Proof.Machine
end

section
/-! PROOF. Writes of partition and module registers (O52). -/

namespace Sys2Proof.Machine

/-! ### Fields -/

theorem maskBit_testBit (m i : Nat) : maskBit m i = m.testBit i := (Nat.testBit_eq_decide_div_mod_eq ..).symm

/-- The fields of a table's address and its size in one register (R314). -/
theorem field_modtab (v : Word) : word (bits v 63 48 * 2 ^ 48 + bits v 47 6 * 64) = BitVec.ofNat 64 (v.toNat / 64 * 64) := by
  have := v.isLt
  exact congrArg (BitVec.ofNat 64) (by unfold bits; omega)

theorem field_btarea (v : Word) : word (bits v 63 48 * 2 ^ 48 + bits v 47 2 * 4) = BitVec.ofNat 64 (v.toNat / 4 * 4) := by
  have := v.isLt
  exact congrArg (BitVec.ofNat 64) (by unfold bits; omega)

theorem field_samparea (v : Word) : word (bits v 47 6 * 64) = BitVec.ofNat 64 (v.toNat % 2 ^ 48 / 64 * 64) := by
  exact congrArg (BitVec.ofNat 64) (by unfold bits; omega)

theorem field_ptroot (v : Word) : word (bits v 47 12 * 4096) = BitVec.ofNat 64 (v.toNat % 2 ^ 48 / 4096 * 4096) := by
  exact congrArg (BitVec.ofNat 64) (by unfold bits; omega)

theorem field_high (v : Word) : bits v 63 32 = v.toNat / 2 ^ 32 := by
  have := v.isLt
  unfold bits
  omega

theorem field_offset (v : Word) : bits v 47 3 * 8 = v.toNat % 2 ^ 48 / 8 * 8 := by
  unfold bits
  omega

theorem b2n_eq (b : Bool) (n : Nat) : b2n b * n = if b then n else 0 := by
  unfold b2n
  cases b <;> simp

/-- An injection is armed on one or two bits (R352). -/
theorem field_arm (b : Bool) (p q : Prop) [Decidable p] [Decidable q] (n : Nat) :
    b2n (b && (decide p || decide q)) * n = if b = true ∧ (p ∨ q) then n else 0 := by
  rw [b2n_eq]
  simp

theorem State.modPart_congr {s : State} {p : Nat} {f g : Part → Part} (h : f (s.part p) = g (s.part p)) :
    s.modPart p f = s.modPart p g := by
  unfold State.modPart
  rw [h]

theorem State.modCluster_congr {s : State} {p : Nat} {f g : Cluster → Cluster} (h : f (s.cluster p) = g (s.cluster p)) :
    s.modCluster p f = s.modCluster p g := by
  unfold State.modCluster
  rw [h]

theorem State.part_modPart (s : State) (p : Nat) (f : Part → Part) : (s.modPart p f).part p = f (s.part p) := Table.get_set_same ..

theorem State.modPart_modPart (s : State) (p : Nat) (f g : Part → Part) : (s.modPart p f).modPart p g = s.modPart p (fun q => g (f q)) := by
  have : g ((s.modPart p f).part p) = g (f (s.part p)) := congrArg g (State.part_modPart s p f)
  unfold State.modPart at this ⊢
  rw [this, Table.set_set]

/-! ### Settings that wait for a snapshot (R309, R314) -/

theorem writeConfig_iter (s : State) (p : Nat) (v : Word) : s.writeConfig p 0x409 v =
    if 4096 ≤ bits v 48 32 ∧ bits v 48 32 ≤ 65536 ∧ 1 ≤ bits v 9 0 ∧ bits v 9 0 ≤ 512
    then s.queueCfg p 0x409 (word (bits v 48 32 * 2 ^ 32 + bits v 9 0)) else s := rfl

theorem writeConfig_agents (s : State) (p : Nat) (v : Word) : s.writeConfig p 0x40A v =
    if 1 ≤ bits v 16 0 ∧ bits v 16 0 ≤ 65536 then s.queueCfg p 0x40A (word (bits v 63 32 * 2 ^ 32 + bits v 16 0)) else s := rfl

theorem writeConfig_blocks (s : State) (p : Nat) (v : Word) : s.writeConfig p 0x40B v = s.queueCfg p 0x40B (word (bits v 31 0)) := rfl

theorem allFree_iff (s : State) (p : Nat) : s.allFree p = true ↔ ∀ e ∈ s.contexts, e.2.part ≠ p := by
  simp [State.allFree]

theorem writeArea_busy {s : State} {p : Nat} (h : ∃ e ∈ s.contexts, e.2.part = p) (n : Nat) (v : Word) : s.writeArea p n v = s := by
  have : s.allFree p = false := by
    rw [← Bool.not_eq_true, allFree_iff]
    exact fun hf => by
      obtain ⟨e, he, hp⟩ := h
      exact hf e he hp
  rw [State.writeArea, this]
  rfl

theorem writeArea_free {s : State} {p : Nat} (h : ∀ e ∈ s.contexts, e.2.part ≠ p) (v : Word) :
    s.writeArea p 0x429 v = s.queueCfg p 0x429 (word (bits v 63 48 * 2 ^ 48 + bits v 47 2 * 4)) ∧
    s.writeArea p 0x42A v = s.queueCfg p 0x42A (word (bits v 47 6 * 64)) := by
  have : s.allFree p = true := (allFree_iff s p).2 h
  constructor
  · rw [State.writeArea, this]
    rfl
  · rw [State.writeArea, this]
    rfl

/-! ### TENCFG (R313) -/

theorem writeTencfg_keeps {s : State} {p : Nat} {v : Word} (res : bits v 3 0 = (s.part p).res)
    (cur : 4 ≤ (s.part p).cur ∨ (s.part p).res.testBit (s.part p).cur = true) :
    s.writeTencfg p v = s.modPart p fun q => { q with gmask := bits v 11 8 } := by
  unfold State.writeTencfg
  dsimp only
  have new : ((List.range 4).filter fun t => maskBit (bits v 3 0) t && !maskBit (s.part p).res t) = [] := by
    rw [res, List.filter_eq_nil_iff]
    simp
  rw [if_neg, new, List.foldl_nil]
  · exact State.modPart_congr (by rw [res])
  · rw [res, maskBit_testBit]
    rcases cur with high | bit
    · simp [Nat.not_lt.2 high]
    · simp [bit]

theorem writeTencfg_ignored {s : State} {p : Nat} {v : Word} (cur : (s.part p).cur < 4) (gone : (bits v 3 0).testBit (s.part p).cur = false) :
    s.writeTencfg p v = s := by
  unfold State.writeTencfg
  dsimp only
  rw [maskBit_testBit, gone, if_pos (by simp [cur])]

/-- Settles O52 from what each write comes to. -/
theorem registerWrites : Obligations.RegisterWrites := by
  unfold Obligations.RegisterWrites
  intro s p n v q waits lo
  refine ⟨fun h1 h2 h3 h4 => ?_, fun bad => ?_, fun h1 h2 => ?_, ?_, ?_, fun free => ⟨?_, ?_⟩, fun busy => ?_, fun valid bad => ?_, fun ok => ?_,
    fun cur gone => ?_, fun res cur => ?_, ?_, fun go => ?_, fun go => ?_, fun en => ?_, fun en => ?_, fun e he => ?_, fun none => ?_, rfl,
    fun c hc => ⟨fun k hk => ⟨fun frozen => ?_, fun free => ?_⟩, fun none => ?_⟩, fun hp hn => ?_, fun low high align => ?_⟩
  all_goals refine congrArg Host.Outcome.next ?_
  · rw [writeConfig_iter, if_pos ⟨h1, h2, h3, h4⟩]
    rfl
  · rw [writeConfig_iter, if_neg (by omega)]
  · rw [writeConfig_agents, if_pos ⟨h1, h2⟩, field_high]
    rfl
  · rw [writeConfig_blocks, bits_mod]
    rfl
  · rw [State.writeModtab, field_modtab]
    rfl
  · rw [(writeArea_free free v).1, field_btarea]
    rfl
  · rw [(writeArea_free free v).2, field_samparea]
    rfl
  · exact writeArea_busy busy n v
  · exact if_pos (by simpa [valid] using bad)
  · rw [State.writeRtdata, if_neg, b2n_eq]
    · rfl
    · rcases ok with off | ⟨dp, md⟩
      · simp [off]
      · simp [dp, Nat.not_le.2 md]
  · exact writeTencfg_ignored cur gone
  · exact writeTencfg_keeps res cur
  · rw [State.writePtroot, State.invalidate, State.modPart_modPart, field_ptroot]
  · exact if_pos go
  · exact if_neg (by simp [go])
  · exact if_neg (by simp [en])
  · rw [State.writeEinj, if_pos en]
    dsimp only
    rw [field_arm, field_offset]
    rfl
  · refine State.modCluster_congr ?_
    rw [he]
    dsimp only
    rw [bits_mod]
    rfl
  · refine State.modCluster_congr ?_
    rw [none]
    rfl
  · rw [if_pos hc, State.unfreezeCtx, hk]
    exact if_pos frozen
  · rw [if_pos hc, State.unfreezeCtx, hk]
    exact if_neg (by simp [free])
  · rw [if_pos hc, State.unfreezeCtx, State.frzKey, if_neg (Nat.not_lt.2 none)]
  · rw [if_pos hp, if_pos hn]
  · rw [if_neg (Nat.not_lt.2 low), if_pos (by simp [high, align])]

end Sys2Proof.Machine
end

section
/-! PROOF. The commands of the switch machines (O53). -/

namespace Sys2Proof.Machine

theorem State.modPart_next {s : State} {p : Nat} {f g : Part → Part} (h : f (s.part p) = g (s.part p)) :
    Host.Outcome.next (s.modPart p f) = (.next (s.modPart p g) : Result) := congrArg Host.Outcome.next (State.modPart_congr h)

/-! ### The guest switch (R325, R326) -/

/-- Whether a save area lies within the region does not depend on the fields of the switch machines. -/
theorem State.saveOk_modPart {s : State} {p : Nat} {f : Part → Part} (t : Nat) (hl : (f (s.part p)).hbmBase = (s.part p).hbmBase)
    (hh : (f (s.part p)).hbmLimit = (s.part p).hbmLimit) (ht : (f (s.part p)).tsave = (s.part p).tsave) (hs : (f (s.part p)).pslots = (s.part p).pslots)
    (hb : (f (s.part p)).pbanks = (s.part p).pbanks) : (s.modPart p f).saveOk p t = s.saveOk p t := by
  rw [State.saveOk, State.saveOk, State.inRegion, State.inRegion, State.part_modPart, Part.saveSize, Part.saveSize, hl, hh, ht, hs, hb]

theorem State.guestCheck_refused {s : State} {p tgt : Nat} (h : (s.part p).gmask.testBit tgt = false ∨ (s.part p).res.testBit tgt = false) :
    s.guestCheck p tgt = 1 := by
  unfold State.guestCheck
  dsimp only
  rw [maskBit_testBit, maskBit_testBit, if_pos (by simpa using h)]

theorem State.guestCheck_suspended {s : State} {p tgt : Nat} (hg : (s.part p).gmask.testBit tgt = true)
    (hr : (s.part p).res.testBit tgt = true) (ht : tgt < 4) (hc : 4 ≤ (s.part p).cur) : s.guestCheck p tgt = 5 := by
  unfold State.guestCheck
  dsimp only
  rw [maskBit_testBit, maskBit_testBit, if_neg (by simp [hg, hr]), if_neg (by omega), if_pos hc]

theorem State.guestCheck_ok {s : State} {p tgt : Nat} (hg : (s.part p).gmask.testBit tgt = true)
    (hr : (s.part p).res.testBit tgt = true) (hn : (s.part p).cur ≠ tgt) (hc : (s.part p).cur < 4) (st : s.saveOk p tgt = true)
    (sc : s.saveOk p (s.part p).cur = true) : s.guestCheck p tgt = 0 := by
  unfold State.guestCheck
  dsimp only
  rw [maskBit_testBit, maskBit_testBit, if_neg (by simp [hg, hr]), if_neg hn, if_neg (Nat.not_le.2 hc), if_neg (by simp [st, sc])]

theorem State.prepare_refused {s : State} {p tgt fail e : Nat} (h : s.guestCheck p tgt = e) (he : e ≠ 0) :
    s.prepare p tgt fail = s.modPart p fun q => { q with gErr := e, gState := fail } := by
  unfold State.prepare
  dsimp only
  rw [h, if_pos he]

theorem State.prepare_ok {s : State} {p tgt fail : Nat} (h : s.guestCheck p tgt = 0) :
    s.prepare p tgt fail = s.modPart p fun q => { q with gErr := 0, gFor := tgt, gState := if q.swState = 0 then 1 else 5 } := by
  unfold State.prepare
  dsimp only
  rw [h, if_neg (by simp)]

theorem State.guestRetry_other {s : State} {p : Nat} (h : (s.part p).gState ≠ 5) : s.guestRetry p = s := if_neg h

/-! ### The checks of an ARM (R317) -/

theorem State.armCheck_ok {s : State} {p t : Nat} (ht : t < 4) (hr : (s.part p).res.testBit t = true) (st : s.saveOk p t = true)
    (sc : (s.part p).cur < 4 → s.saveOk p (s.part p).cur = true) : s.armCheck p t = 0 := by
  unfold State.armCheck
  dsimp only
  rw [if_neg (by omega), maskBit_testBit, if_neg (by simp [hr]), if_neg]
  simp [st]
  exact sc

theorem State.armCheck_reserved {s : State} {p t : Nat} (ht : 4 < t) : s.armCheck p t = 3 := if_pos ht

theorem State.armCheck_notResident {s : State} {p t : Nat} (ht : t < 4) (hr : (s.part p).res.testBit t = false) : s.armCheck p t = 1 := by
  unfold State.armCheck
  dsimp only
  rw [if_neg (by omega), maskBit_testBit, if_pos (by simp [ht, hr])]

theorem State.arm_refused {s : State} {p t e : Nat} (hs : (s.part p).swState = 0) (h : s.armCheck p t = e) (he : e ≠ 0) :
    s.arm p t = s.modPart p fun q => { q with swErr := e, swState := 0, loaded := false } := by
  unfold State.arm
  dsimp only
  rw [if_neg (by omega), h, if_pos he, if_neg (by omega)]

theorem State.arm_ok {s : State} {p t : Nat} (hs : (s.part p).swState < 2) (h : s.armCheck p t = 0) :
    s.arm p t = (s.modPart p fun q => { q with swErr := 0, swTgt := t, swState := 1, loaded := false }).guestRestart p := by
  unfold State.arm
  dsimp only
  rw [if_neg (by omega), h, if_neg (by simp)]

theorem State.disarm_armed {s : State} {p : Nat} (hs : (s.part p).swState = 1) (t : Nat) :
    s.disarm p t = (s.modPart p fun q => { q with swErr := 0, swState := 0, loaded := false }).guestRetry p := by
  unfold State.disarm
  dsimp only
  rw [if_neg (by omega), if_pos hs]

/-- Settles O53 from what each command comes to. -/
theorem switchCommands : Obligations.SwitchCommands := by
  unfold Obligations.SwitchCommands
  intro s p tgt v q t becomes
  refine ⟨rfl, fun late => ⟨?_, ?_⟩, fun idle => ?_, fun armed other => ?_, fun armed restart hc ht hg hr => ?_,
    fun idle => ⟨fun ht => ?_, fun ht hr => ?_⟩, fun early ht hr st sc => ?_, fun hg => ?_, fun hg => ?_, fun hg => ?_, fun h1 h2 h5 => ?_,
    fun h0 h2 => ?_, fun hg ht bad => ?_, fun hg ht hm hr hn hc st sc => ?_, fun cmd => ?_⟩
  · exact congrArg Host.Outcome.next (if_pos late)
  · exact congrArg Host.Outcome.next (if_pos late)
  · refine congrArg Host.Outcome.next ?_
    rw [State.disarm, if_neg (show ¬ 2 ≤ q.swState by omega), if_neg (show ¬ q.swState = 1 by omega)]
  · refine congrArg Host.Outcome.next ?_
    rw [State.disarm_armed armed, State.guestRetry_other]
    rw [State.part_modPart]
    exact other
  · refine congrArg Host.Outcome.next ?_
    rw [State.disarm_armed armed, State.guestRetry, State.part_modPart, if_pos restart, State.prepare_refused (e := 5)]
    · exact State.modPart_modPart ..
    · exact State.guestCheck_suspended (by rw [State.part_modPart]; exact hg) (by rw [State.part_modPart]; exact hr) ht
        (by rw [State.part_modPart]; exact hc)
    · simp
  · exact congrArg Host.Outcome.next (State.arm_refused idle (State.armCheck_reserved ht) (by simp))
  · exact congrArg Host.Outcome.next (State.arm_refused idle (State.armCheck_notResident ht hr) (by simp))
  · refine ⟨_, congrArg Host.Outcome.next (State.arm_ok early (State.armCheck_ok ht hr st sc)), ?_⟩
    rw [State.guestRestart, State.modPart_modPart, State.part_modPart]
    dsimp only
    by_cases preloads : q.gState = 1 ∨ q.gState = 2
    · rw [if_pos (by simpa using preloads), if_pos preloads]
      exact ⟨rfl, rfl, rfl, rfl, rfl, rfl⟩
    · rw [if_neg (by simpa using preloads), if_neg preloads]
      exact ⟨rfl, rfl, rfl, rfl, rfl, rfl⟩
  · exact congrArg Host.Outcome.next (if_pos hg)
  · exact congrArg Host.Outcome.next (if_neg hg)
  · exact congrArg Host.Outcome.next (if_pos (by simpa [or_assoc] using hg))
  · exact congrArg Host.Outcome.next (if_neg (by simp [show ¬ (s.part p).gState = 1 from h1, show ¬ (s.part p).gState = 2 from h2,
      show ¬ (s.part p).gState = 5 from h5]))
  · exact congrArg Host.Outcome.next (if_neg (by simp [show ¬ (s.part p).gState = 0 from h0, show ¬ (s.part p).gState = 2 from h2]))
  · refine congrArg Host.Outcome.next ?_
    rw [State.guestPrepare, if_pos (by simpa using hg), Nat.mod_eq_of_lt ht, State.guestTgt, State.prepare_refused (e := 1)]
    · exact (State.modPart_modPart ..).trans (State.modPart_congr (by rw [Nat.mod_eq_of_lt ht]))
    · exact State.guestCheck_refused (by rw [State.part_modPart]; exact bad)
    · simp
  · refine congrArg Host.Outcome.next ?_
    rw [State.guestPrepare, if_pos (by simpa using hg), Nat.mod_eq_of_lt ht, State.guestTgt, State.prepare_ok]
    · exact (State.modPart_modPart ..).trans (State.modPart_congr (by rw [Nat.mod_eq_of_lt ht]))
    · refine State.guestCheck_ok ?_ ?_ ?_ ?_ ?_ ?_
      · rw [State.part_modPart]; exact hm
      · rw [State.part_modPart]; exact hr
      · rw [State.part_modPart]; exact hn
      · rw [State.part_modPart]; exact hc
      · rw [State.saveOk_modPart _ rfl rfl rfl rfl rfl]; exact st
      · rw [State.saveOk_modPart _ rfl rfl rfl rfl rfl, State.part_modPart]; exact sc
  · unfold State.writeGswctl
    rw [cmd]
    exact State.modPart_congr (by rw [Nat.mod_eq_of_lt (show bits v 1 0 < 4 from Nat.mod_lt _ (by simp))])

end Sys2Proof.Machine
end

section
/-! PROOF. Submission and completion queues, and the host's accesses to memory (O58). -/

namespace Sys2Proof.Machine

/-! ### Submission queues (R339, R340) -/

theorem State.subq_modSubq (s : State) (q : Nat) (f : SubQ → SubQ) : (s.modSubq q f).subq q = f (s.subq q) := Table.get_set_same ..

theorem State.modSubq_congr {s : State} {q : Nat} {f g : SubQ → SubQ} (h : f (s.subq q) = g (s.subq q)) :
    s.modSubq q f = s.modSubq q g := by
  unfold State.modSubq
  rw [h]

/-- A queue acts for its partition whatever state it is in. -/
theorem State.queuePart_modSubq {s : State} {q : Nat} {f : SubQ → SubQ} (h : (f (s.subq q)).part = (s.subq q).part) :
    (s.modSubq q f).queuePart q = s.queuePart q := by
  rw [State.queuePart, State.queuePart, State.subq_modSubq, h]

/-- The records held for a function after one more. -/
theorem State.held_postTo (s : State) (fn : Nat) (r : List Word) :
    Table.get (s.postTo fn r).cqHeld fn [] = Table.get s.cqHeld fn [] ++ [r] := Table.get_set_same ..

/-- A doorbell that advances TAIL beyond the ring (R340). -/
def SubQ.oversized (x : SubQ) (tail : Nat) : Prop :=
  2 ^ x.log < (tail + 2 ^ 32 - x.head) % 2 ^ 32 ∨ 2 ^ x.log < (tail + 2 ^ 32 - x.tail) % 2 ^ 32

theorem sqptrWrite_handler {s : State} {q : Nat} (h : (s.subq q).hq = true) (v : Word) : exec (.sqptrWrite q v) s = .next s := by
  have run : exec (.sqptrWrite q v) s = execSqptrWrite q v s := rfl
  rw [run, execSqptrWrite]
  exact if_pos h

theorem sqptrWrite_moves {s : State} {q : Nat} {v : Word} (h : (s.subq q).hq = false)
    (fits : ¬ (s.subq q).oversized (v.toNat / 2 ^ 32)) :
    exec (.sqptrWrite q v) s = .next (s.modSubq q fun x => { x with tail := v.toNat / 2 ^ 32 }) := by
  have run : exec (.sqptrWrite q v) s = execSqptrWrite q v s := rfl
  rw [run, execSqptrWrite, field_high]
  dsimp only
  rw [if_neg (by simp [h])]
  exact if_neg fits

/-- The record of an oversized doorbell. -/
def qerror (s : State) (q tail : Nat) : List Word :=
  [recordHead 7 (s.subq q).ten (s.queuePart q), word (q % 16), word tail, word (s.subq q).head, 0, 0, 0, 0]

theorem sqptrWrite_oversized {s : State} {q : Nat} {v : Word} (h : (s.subq q).hq = false)
    (big : (s.subq q).oversized (v.toNat / 2 ^ 32)) :
    exec (.sqptrWrite q v) s = .next ((s.modSubq q fun x => { x with st := 2 }).postTo (s.boundFn (s.queuePart q))
      (qerror s q (v.toNat / 2 ^ 32))) := by
  have run : exec (.sqptrWrite q v) s = execSqptrWrite q v s := rfl
  rw [run, execSqptrWrite, field_high]
  dsimp only
  rw [if_neg (by simp [h]), State.queuePart_modSubq (f := fun x => { x with st := 2 }) rfl]
  exact if_pos big

theorem sqActivate_valid {s : State} {q fn : Nat} {v : Word} (idle : (s.subq q).st = 0) (hv : bits v 9 8 = 1) (low : 4 ≤ bits v 3 0)
    (high : bits v 3 0 ≤ 12) (ring : s.ringOk fn (s.subq q).base (64 * 2 ^ bits v 3 0) = true) (hf : fn = q / 16)
    (sib : bits v 23 20 = q % 16) :
    exec (.sqActivate q v) s = .next (s.modSubq q fun x => { x with
      part := if fn = 0 then bits v 27 24 else x.part, sib := bits v 23 20, hq := bit v 18, ten := bits v 17 16
      log := bits v 3 0, st := 1 }) := by
  subst hf
  have run : exec (.sqActivate q v) s = execSqActivate q v s := rfl
  rw [run, execSqActivate, if_pos hv, State.writeSqctl]
  dsimp only
  rw [if_neg (by simp [idle])]
  refine congrArg Host.Outcome.next (State.modSubq_congr ?_)
  rw [hv, ring, State.sibOk, sib]
  simp [low, high, b2n]

/-! ### Completion rings (R344) -/

/-- The oldest record of a function has left for its ring. -/
def State.recordPosted (w : State) (fn : Nat) (rest : List (List Word)) (c : CompQ) (msi : Table Nat) : State :=
  { w with cqHeld := Table.set w.cqHeld fn rest, cqs := Table.set w.cqs fn c, msi := msi }

theorem completionRecordWrite_ready {s : State} {fn : Nat} {r : List Word} {rest : List (List Word)}
    (held : Table.get s.cqHeld fn [] = r :: rest) (room : s.cqRoom fn = true)
    (other : ((r.getD 0 0).toNat + (s.cq fn).tail % 65536) / 2 ^ 56 ≠ 3) :
    ∃ m, exec (.completionRecordWrite fn) s = .next ((s.writeHbm ⟨0, fn, 0, 140⟩
      ((s.cq fn).base + 64 * ((s.cq fn).tail % 2 ^ (s.cq fn).log))
      (wordBytes (word ((r.getD 0 0).toNat + (s.cq fn).tail % 65536) :: r.drop 1))).recordPosted fn rest
        { s.cq fn with tail := ((s.cq fn).tail + 1) % 2 ^ 32 } m) := by
  have run : exec (.completionRecordWrite fn) s = execCompletionRecordWrite fn s := rfl
  rw [run, execCompletionRecordWrite, held]
  dsimp only
  rw [if_neg (by simp [room]), if_neg other]
  exact ⟨_, rfl⟩

/-! ### Host accesses to memory (R338, R347) -/

theorem hostAccess_outside {s : State} {fn a : Nat} (alive : fn ∉ s.frozenFns) (outside : s.ringOk fn a 8 = false) (wr : Bool) (v : Word) :
    exec (.hostMemoryAccess fn a wr v) s = .next (s.freezeFn fn) := by
  refine (if_neg fun h => alive (List.contains_iff_mem.1 h)).trans (if_pos ?_)
  simp [outside]

theorem hostAccess_read {s : State} {fn a : Nat} (alive : fn ∉ s.frozenFns) (inside : s.ringOk fn a 8 = true) (v : Word) :
    exec (.hostMemoryAccess fn a false v) s = .next (s.noteRead ⟨0, fn, 0, 140⟩ (.hbm a) 8) := by
  refine (if_neg fun h => alive (List.contains_iff_mem.1 h)).trans ((if_neg ?_).trans (if_neg (by simp)))
  simp [inside]

theorem hostAccess_write {s : State} {fn a : Nat} (alive : fn ∉ s.frozenFns) (inside : s.ringOk fn a 8 = true) (v : Word) :
    exec (.hostMemoryAccess fn a true v) s = .next ((s.writeHbm ⟨0, fn, 0, 140⟩ a (leBytes 8 v.toNat)).tear a 8) := by
  refine (if_neg fun h => alive (List.contains_iff_mem.1 h)).trans ((if_neg ?_).trans (if_pos rfl))
  simp [inside]

theorem Around.threads {s t : State} (h : Around s t) : t.threads = s.threads := by
  obtain ⟨_, _, _, _, _, _, _, _, _, rfl⟩ := h
  rfl

/-- Settles O58 from what a doorbell, a write of SQCTL, a record and an access of the host come to. -/
theorem hostQueues : Obligations.HostQueues := by
  unfold Obligations.HostQueues
  refine ⟨fun s q fn v => ?queues, fun s fn a v => ?memory⟩
  case queues =>
    intro x tail big
    refine ⟨fun hq => sqptrWrite_handler hq v, fun hq fits => sqptrWrite_moves hq fits, fun hq over_ => ?_, rfl,
      fun idle hv low high ring hf sib => sqActivate_valid idle hv low high ring hf sib, fun r rest held room => ?_⟩
    · refine ⟨_, sqptrWrite_oversized hq over_, State.subq_modSubq s q fun x => { x with st := 2 }, ?_⟩
      exact State.held_postTo (s.modSubq q fun x => { x with st := 2 }) _ _
    · intro c w0 other
      obtain ⟨m, run⟩ := completionRecordWrite_ready held room other
      have around := s.writeHbm_around ⟨0, fn, 0, 140⟩ (c.base + 64 * (c.tail % 2 ^ c.log)) (wordBytes (word w0 :: r.drop 1))
      exact ⟨_, run, Table.get_set_same .., Table.get_set_same .., around.memories.2.2.2, around.threads, rfl⟩
  case memory =>
    refine ⟨fun frozen wr => ?_, fun alive outside wr => ?_, fun alive inside => ⟨?_, ?_⟩⟩
    · exact if_pos (List.contains_iff_mem.2 frozen)
    · have breach : s.freezeFn fn = State.postBreach { s with frozenFns := s.frozenFns ++ [fn] } 0 0 fn :=
        if_neg fun h => alive (List.contains_iff_mem.1 h)
      refine ⟨_, (hostAccess_outside alive outside wr v).trans (congrArg Host.Outcome.next breach), ?_, rfl, rfl, State.held_postTo ..⟩
      exact List.mem_append_right _ (List.mem_singleton_self fn)
    · have around := s.noteRead_around ⟨0, fn, 0, 140⟩ (.hbm a) 8
      exact ⟨_, hostAccess_read alive inside v, around.memories.1, around.memories.2.2.2, around.threads⟩
    · have around := s.writeHbm_around ⟨0, fn, 0, 140⟩ a (leBytes 8 v.toNat)
      refine ⟨_, hostAccess_write alive inside v, around.memories.2.2.2, around.threads, fun h => ?_⟩
      exact (congrArg (Memory.read · h) around.memories.1).trans (Memory.read_writeLe ..)

end Sys2Proof.Machine
end

section
/-! PROOF. Power-on and the hourly health figures (O59). -/

namespace Sys2Proof.Machine

/-! ### Measurements and boot (R346) -/

theorem State.measure_extendTo (s : State) (n k : Nat) (d : BitVec 256) :
    (s.extendTo n d).measure k = if k = n then extendMeas (s.measure n) d else s.measure k := by
  unfold State.extendTo State.setMeas State.measure
  split
  next h => rw [h, Table.get_set_same]
  next h => rw [Table.get_set_other _ _ _ h]

theorem Around.meas {s t : State} (h : Around s t) : t.meas = s.meas := by
  obtain ⟨_, _, _, _, _, _, _, _, _, rfl⟩ := h
  rfl

theorem State.storeFirmware_spec (s : State) (i : Image) : (s.storeFirmware i).meas = s.meas ∧ (s.storeFirmware i).hbm =
    Memory.writeBytes s.hbm i.base ((List.range (i.limit - i.base)).map (Config.firmwareByte i.digest)) := by
  have around := s.writeHbm_around ⟨0, 0, 0, 140⟩ i.base ((List.range (i.limit - i.base)).map (Config.firmwareByte i.digest))
  exact ⟨around.meas, around.memories.1⟩

theorem State.hbm_extendTo (s : State) (n : Nat) (d : BitVec 256) : (s.extendTo n d).hbm = s.hbm := rfl

theorem State.load_fields (s : State) (i : Image) :
    (s.load i).meas = ((((s.extendTo 1 i.digest).extendTo 2 i.micro).extendTo 3 i.xlat).storeFirmware i).meas ∧
    (s.load i).hbm = ((((s.extendTo 1 i.digest).extendTo 2 i.micro).extendTo 3 i.xlat).storeFirmware i).hbm := by
  unfold State.load
  exact ⟨rfl, rfl⟩

theorem State.measure_same (s : State) (n : Nat) (d : BitVec 256) : (s.extendTo n d).measure n = extendMeas (s.measure n) d := by
  rw [State.measure_extendTo, if_pos rfl]

theorem State.measure_other (s : State) {n k : Nat} (d : BitVec 256) (h : k ≠ n) : (s.extendTo n d).measure k = s.measure k := by
  rw [State.measure_extendTo, if_neg h]

/-- What loading an image leaves of the measurements. -/
structure LoadMeasured (s t : State) (i : Image) : Prop where
  code : t.measure 1 = extendMeas (s.measure 1) i.digest
  micro : t.measure 2 = extendMeas (s.measure 2) i.micro
  xlat : t.measure 3 = extendMeas (s.measure 3) i.xlat
  other : ∀ k, k = 0 ∨ 4 ≤ k → t.measure k = s.measure k

theorem State.load_spec (s : State) (i : Image) :
    (s.load i).hbm = Memory.writeBytes s.hbm i.base ((List.range (i.limit - i.base)).map (Config.firmwareByte i.digest)) ∧
    LoadMeasured s (s.load i) i := by
  obtain ⟨same, hbm⟩ := s.load_fields i
  rw [(State.storeFirmware_spec ..).1] at same
  rw [(State.storeFirmware_spec ..).2, State.hbm_extendTo, State.hbm_extendTo, State.hbm_extendTo] at hbm
  have meas : ∀ k, (s.load i).measure k = (((s.extendTo 1 i.digest).extendTo 2 i.micro).extendTo 3 i.xlat).measure k := fun k => by
    rw [State.measure, State.measure, same]
  refine ⟨hbm, ⟨?_, ?_, ?_, fun k hk => ?_⟩⟩
  · rw [meas, State.measure_other _ _ (by decide), State.measure_other _ _ (by decide), State.measure_same]
  · rw [meas, State.measure_other _ _ (by decide), State.measure_same, State.measure_other _ _ (by decide)]
  · rw [meas, State.measure_same, State.measure_other _ _ (by decide), State.measure_other _ _ (by decide)]
  · rw [meas, State.measure_other _ _ (by omega), State.measure_other _ _ (by omega), State.measure_other _ _ (by omega)]

theorem powerOn_fresh {s : State} (hb : s.booted = false) (hr : s.recov = false) :
    exec .powerOn s = match s.flash.find? s.verifies with
      | some i => .next ((s.extendTo 0 Config.romDigest).load i)
      | none => .next { s.extendTo 0 Config.romDigest with recov := true } := by
  have run : exec .powerOn s = execPowerOn s := rfl
  rw [run, execPowerOn, if_neg (by simp [hb, hr])]
  rfl

/-! ### Health (R352, R354) -/

/-- The figure of a key of a table built from a range. -/
theorem find_rangeTable {α : Type} (f : Nat → α) {n k : Nat} (h : k < n) :
    Table.find? ((List.range n).map fun i => (i, f i)) k = some (f k) := by
  have tail : ∀ (m a : Nat), a ≤ k → k < a + m → Table.find? ((List.range' a m).map fun i => (i, f i)) k = some (f k) := by
    intro m
    induction m with
    | zero => exact fun a h1 h2 => absurd h2 (by omega)
    | succ m ih =>
      intro a h1 h2
      rw [List.range'_succ, List.map_cons, Table.find?]
      by_cases hk : a = k
      · rw [if_pos hk, hk]
      · rw [if_neg hk]
        exact ih (a + 1) (by omega) (by omega)
  rw [List.range_eq_range']
  exact tail n 0 (Nat.zero_le k) (by omega)

/-- The days of a prediction stand in the low bits of LIFE. -/
theorem life_days (w : Nat) {days : Nat} (h : days < 2 ^ 16) : (word (w * 2 ^ 40 + days)).toNat % 2 ^ 16 = days := by
  rw [word, BitVec.toNat_ofNat]
  omega

/-- Settles O59 from what power-on and an update come to. -/
theorem powerOnAndHealth : Obligations.PowerOnAndHealth := by
  unfold Obligations.PowerOnAndHealth
  refine ⟨fun s hb hr => ?fresh, fun s h => ?later, fun s => ?health⟩
  case fresh =>
    intro ext
    have hext : ∀ m d, ext m d = extendMeas m d := fun _ _ => rfl
    have run := powerOn_fresh hb hr
    refine ⟨fun i found => ?_, fun bad => ?_⟩
    · rw [show s.flash.find? s.verifies = some i from found] at run
      obtain ⟨hbm, meas⟩ := (s.extendTo 0 Config.romDigest).load_spec i
      refine ⟨_, run, rfl, rfl, rfl, rfl, ?_, ?_, ?_, ?_, hbm⟩
      · rw [meas.other 0 (.inl rfl), State.measure_same, hext]
      · rw [meas.code, State.measure_other _ _ (by decide), hext]
      · rw [meas.micro, State.measure_other _ _ (by decide), hext]
      · rw [meas.xlat, State.measure_other _ _ (by decide), hext]
    · rw [show s.flash.find? s.verifies = none from bad] at run
      refine ⟨_, run, hb, rfl, rfl, ?_⟩
      rw [hext]
      exact s.measure_same 0 Config.romDigest
  case later => exact if_pos (by simpa using h)
  case health =>
    intro due
    refine ⟨fun hb hd => ?_, fun early => if_pos ?_⟩
    · have run : exec .healthUpdate s = execHealthUpdate s := rfl
      rw [execHealthUpdate, if_neg (by simp [hb, State.healthDue]; exact hd)] at run
      refine ⟨_, run, by simp, rfl, rfl, rfl, fun young => ?_, fun old => ?_, fun k hk => ?_⟩
      · dsimp only
        rw [if_pos young]
        exact life_days _ (by decide)
      · dsimp only
        rw [if_neg (Nat.not_lt.2 old), life_days _ (by omega)]
        omega
      · refine (find_rangeTable s.healthOf (show 128 + k < 136 by omega)).trans ?_
        rw [State.healthOf, if_neg (by omega), Nat.add_sub_cancel_left]
        rfl
    · rcases early with hb | hd
      · simp [hb]
      · simp [State.healthDue]
        exact .inr (Nat.not_le.1 hd)

end Sys2Proof.Machine
end

section
/-! PROOF. The mailbox commands of Taproot (O60). -/

namespace Sys2Proof.Machine

/-! ### Fresh tenancies (R310) -/

/-- From `s` to `t` no register of a partition and no measurement has changed, and threads have gone by a test alone. -/
structure Emptied (s t : State) (keep : Nat × Thread → Bool) : Prop where
  parts : t.parts = s.parts
  meas : t.meas = s.meas
  residencies : t.residencies = s.residencies
  threads : t.threads = s.threads.filter keep

theorem Emptied.trans {s t u : State} {f g : Nat × Thread → Bool} (h : Emptied s t f) (k : Emptied t u g) :
    Emptied s u fun e => f e && g e := by
  refine ⟨k.parts.trans h.parts, k.meas.trans h.meas, k.residencies.trans h.residencies, ?_⟩
  rw [k.threads, h.threads, List.filter_filter]
  simp only [Bool.and_comm]

theorem Emptied.same {s t : State} (hp : t.parts = s.parts) (hm : t.meas = s.meas) (hr : t.residencies = s.residencies)
    (ht : t.threads = s.threads) : Emptied s t fun _ => true :=
  ⟨hp, hm, hr, by rw [ht, List.filter_true]⟩

/-- A step that leaves registers, measurements, residencies and threads alone. -/
def Idles (s t : State) : Prop := t.parts = s.parts ∧ t.meas = s.meas ∧ t.residencies = s.residencies ∧ t.threads = s.threads

theorem Idles.trans {s t u : State} (h : Idles s t) (k : Idles t u) : Idles s u := by
  obtain ⟨a, b, c, d⟩ := h
  obtain ⟨a', b', c', d'⟩ := k
  exact ⟨a'.trans a, b'.trans b, c'.trans c, d'.trans d⟩

theorem Idles.fold {β : Type} {f : State → β → State} (h : ∀ s b, Idles s (f s b)) (l : List β) (s : State) :
    Idles s (l.foldl f s) := by
  induction l generalizing s with
  | nil => exact ⟨rfl, rfl, rfl, rfl⟩
  | cons b l ih => exact (h s b).trans (ih _)

theorem State.dropNodes_idles (s : State) (it : Nat) (f : Node → Bool) : Idles s (s.dropNodes it f) := by
  have start : Idles s { s with nodes := s.nodes.filter fun x => !f x } := ⟨rfl, rfl, rfl, rfl⟩
  refine start.trans (Idles.fold (fun u n => ?_) _ _)
  split <;> exact ⟨rfl, rfl, rfl, rfl⟩

theorem State.dropLease_idles (s : State) (t : Nat) : Idles s (s.dropLease t) := by
  obtain ⟨ar, h⟩ := s.dropLease_eq t
  rw [h]
  exact ⟨rfl, rfl, rfl, rfl⟩

theorem State.dropResidencies_none {s : State} (h : s.residencies = []) (f : Residency → Bool) : s.dropResidencies f = s := by
  rw [State.dropResidencies, h]
  rfl

/-- The threads of a tenancy. -/
def ofTenancy (p ten : Nat) (e : Nat × Thread) : Bool := e.2.part = p && e.2.ten = ten

theorem State.freshTenancy_emptied {s : State} (h : s.residencies = []) (p ten : Nat) :
    Emptied s (s.freshTenancy p ten) fun e => !ofTenancy p ten e := by
  have nodes := s.dropNodes_idles (s.iter p).num fun n => n.part = p && n.ten = ten
  have ctxs : Idles s ((s.dropNodes (s.iter p).num fun n => n.part = p && n.ten = ten).forgetContexts p ten) := nodes
  have gone : ∀ l : List Nat, Idles s (l.foldl (fun s t => (s.dropLease t).forgetMisses t)
      ((s.dropNodes (s.iter p).num fun n => n.part = p && n.ten = ten).forgetContexts p ten)) := fun l =>
    ctxs.trans (Idles.fold (f := fun s t => (s.dropLease t).forgetMisses t) (fun u t => u.dropLease_idles t) l _)
  obtain ⟨hp, hm, hr, ht⟩ := gone ((s.threads.filter fun e => e.2.part = p && e.2.ten = ten).map (·.1))
  have none : ∀ f, State.dropResidencies (((s.threads.filter fun e => e.2.part = p && e.2.ten = ten).map (·.1)).foldl
      (fun s t => (s.dropLease t).forgetMisses t)
      ((s.dropNodes (s.iter p).num fun n => n.part = p && n.ten = ten).forgetContexts p ten)) f = _ :=
    State.dropResidencies_none (hr.trans h)
  unfold State.freshTenancy
  dsimp only
  rw [none]
  exact ⟨hp, hm, hr, congrArg (List.filter fun e => !ofTenancy p ten e) ht⟩

theorem State.clearPart_eq (s : State) (p : Nat) : ∃ c bl ba it, s.clearPart p =
    { (((s.freshTenancy p 0).freshTenancy p 1).freshTenancy p 2).freshTenancy p 3 with
      contexts := c, blocks := bl, batch := ba, iters := it } := by
  unfold State.clearPart
  simp only [List.foldl_cons, List.foldl_nil]
  exact ⟨_, _, _, _, rfl⟩

/-- Everything of a partition goes, and its registers stay. -/
theorem State.clearPart_emptied {s : State} (h : s.residencies = []) (p : Nat) :
    ∃ keep, Emptied s (s.clearPart p) keep ∧ ∀ e, keep e = true → e.2.part ≠ p ∨ 4 ≤ e.2.ten := by
  have t0 := State.freshTenancy_emptied h p 0
  have t1 := t0.trans (State.freshTenancy_emptied (t0.residencies.trans h) p 1)
  have t2 := t1.trans (State.freshTenancy_emptied (t1.residencies.trans h) p 2)
  have t3 := t2.trans (State.freshTenancy_emptied (t2.residencies.trans h) p 3)
  have keeps : Emptied s (s.clearPart p) fun e =>
      ((!ofTenancy p 0 e && !ofTenancy p 1 e) && !ofTenancy p 2 e) && !ofTenancy p 3 e := by
    obtain ⟨c, bl, ba, it, cleared⟩ := s.clearPart_eq p
    rw [cleared]
    clear cleared
    generalize (((s.freshTenancy p 0).freshTenancy p 1).freshTenancy p 2).freshTenancy p 3 = u at t3 ⊢
    exact ⟨t3.parts, t3.meas, t3.residencies, t3.threads⟩
  refine ⟨_, keeps, fun e he => ?_⟩
  simp only [ofTenancy, Bool.and_eq_true, Bool.not_eq_true', Bool.and_eq_false_iff, decide_eq_false_iff_not] at he
  omega

/-! ### The mailbox (R348) -/

theorem pfCommand_vf {s : State} {fn : Nat} (nz : fn ≠ 0) (idle : s.commitWait = false) (r : Bool) (f : State → State) :
    s.pfCommand fn r f = .next ((s.tpDone fn 4).freezeFn fn) := by
  rw [State.pfCommand, if_neg (by simp [idle]), if_pos nz]

theorem pfCommand_booted {s : State} (idle : s.commitWait = false) (booted : s.booted = true) (r : Bool) (f : State → State) :
    s.pfCommand 0 r f = .next (f s) := by
  rw [State.pfCommand, if_neg (by simp [idle]), if_neg (by simp), if_neg (by simp [booted])]

theorem pfCommand_recovery {s : State} (idle : s.commitWait = false) (f : State → State) : s.pfCommand 0 true f = .next (f s) := by
  rw [State.pfCommand, if_neg (by simp [idle]), if_neg (by simp), if_neg (by simp)]

theorem tpCommit_idle {s : State} {fn : Nat} (idle : s.commitWait = false) : exec (.tpCommit fn) s = s.pfCommand fn true fun s =>
    match s.staged with
    | none => s.tpOpen fn
    | some i => if s.booted then s.commitImage i
        else (((s.load i).extendTo 5 i.digest).postTo 0 [recordHead 9 0 0, 3, word i.ver, 0, 0, 0, 0, 0]).tpDone fn 0 := by
  have run : exec (.tpCommit fn) s = execTpCommit fn s := rfl
  rw [run, execTpCommit, idle, Bool.and_false, if_neg (by simp)] <;> rfl

/-- A command of a VF ends with code 4, and the VF is frozen. -/
theorem breach_spec {s : State} {fn : Nat} (live : fn ∉ s.frozenFns) :
    Table.find? ((s.tpDone fn 4).freezeFn fn).tpstat fn = some 4 ∧ fn ∈ ((s.tpDone fn 4).freezeFn fn).frozenFns ∧
    ((s.tpDone fn 4).freezeFn fn).hbm = s.hbm ∧ ((s.tpDone fn 4).freezeFn fn).parts = s.parts ∧
    ((s.tpDone fn 4).freezeFn fn).meas = s.meas ∧ ((s.tpDone fn 4).freezeFn fn).staged = s.staged ∧
    ((s.tpDone fn 4).freezeFn fn).running = s.running := by
  have freezes : (s.tpDone fn 4).freezeFn fn = State.postBreach { s.tpDone fn 4 with frozenFns := s.frozenFns ++ [fn] } 0 0 fn :=
    if_neg fun h => live (List.contains_iff_mem.1 h)
  rw [freezes]
  exact ⟨Table.find_set_same .., List.mem_append_right _ (List.mem_singleton_self fn), rfl, rfl, rfl, rfl, rfl⟩

theorem vf_command {s : State} {fn : Nat} (nz : fn ≠ 0) (idle : s.commitWait = false) {img : Image} {b : Bounds} {n : Nat} {d : BitVec 256}
    {i : Instr} (hi : i ∈ [Instr.tpStage fn img, .tpCommit fn, .pset fn b, .pdestroy fn n, .extend fn n d, .unfreeze fn n]) :
    exec i s = .next ((s.tpDone fn 4).freezeFn fn) := by
  have refused : ∀ c r f, s.blockCommand fn c r f = .next ((s.tpDone fn 4).freezeFn fn) := fun c r f => pfCommand_vf nz idle r _
  simp only [List.mem_cons, List.not_mem_nil, or_false] at hi
  rcases hi with rfl | rfl | rfl | rfl | rfl | rfl
  · exact (show exec (.tpStage fn img) s = execTpStage fn img s from rfl).trans (refused 1 true _)
  · exact (tpCommit_idle idle).trans (pfCommand_vf nz idle true _)
  · exact (show exec (.pset fn b) s = execPset fn b s from rfl).trans (refused 4 false _)
  · exact (show exec (.pdestroy fn n) s = execPdestroy fn n s from rfl).trans (refused 5 false _)
  · exact (show exec (.extend fn n d) s = execExtend fn n d s from rfl).trans (refused 6 false _)
  · exact (show exec (.unfreeze fn n) s = execUnfreeze fn n s from rfl).trans (refused 7 false _)

/-- The PF may issue commands with a block: the module runs, and no COMMIT waits. -/
structure Serves (s : State) : Prop where
  idle : s.commitWait = false
  booted : s.booted = true

theorem blockCommand_outside {s : State} (h : Serves s) {code : Nat} (out : ¬ s.blockOk 0 code = true) (r : Bool) (f : State → State) :
    s.blockCommand 0 code r f = .next (s.tpDone 0 1) :=
  (pfCommand_booted h.idle h.booted r _).trans (congrArg Host.Outcome.next (if_neg out))

theorem blockCommand_inside {s : State} (h : Serves s) {code : Nat} (inside : s.blockOk 0 code = true) (r : Bool) (f : State → State) :
    s.blockCommand 0 code r f = .next (f s) :=
  (pfCommand_booted h.idle h.booted r _).trans (congrArg Host.Outcome.next (if_pos inside))

/-- A partition command leaves MEAS4 extended by its block. -/
theorem partDone_spec (s : State) (block : List Byte) :
    (s.partDone 0 block).measure 4 = extendMeas (s.measure 4) (sha256 block) ∧ Table.find? (s.partDone 0 block).tpstat 0 = some 0 ∧
    (s.partDone 0 block).parts = s.parts ∧ (s.partDone 0 block).threads = s.threads :=
  ⟨s.measure_same 4 (sha256 block), Table.find_set_same .., rfl, rfl⟩

/-! ### PSET and PDESTROY (R310, R348) -/

/-- What PSET comes to with its block in the function's region. -/
theorem pset_inside {s : State} (h : Serves s) (inside : s.blockOk 0 4 = true) (b : Bounds) :
    exec (.pset 0 b) s = .next (if !Bounds.ok b then s.tpDone 0 1
      else if !s.disjoint b then s.tpDone 0 3
      else if s.partExists b.part then (s.modPart b.part (Bounds.apply b)).partDone 0 (s.tpBlock 0 4)
      else (State.clearPart { s with parts := Table.set s.parts b.part (Bounds.apply b freshPart) } b.part).partDone 0 (s.tpBlock 0 4)) :=
  (show exec (.pset 0 b) s = execPset 0 b s from rfl).trans (blockCommand_inside h inside false _)

theorem pdestroy_inside {s : State} (h : Serves s) (inside : s.blockOk 0 5 = true) (n : Nat) :
    exec (.pdestroy 0 n) s = .next (if n = 0 || 15 < n || !s.partExists n then s.tpDone 0 1
      else State.partDone { s.clearPart n with parts := Table.erase (s.clearPart n).parts n } 0 (s.tpBlock 0 5)) :=
  (show exec (.pdestroy 0 n) s = execPdestroy 0 n s from rfl).trans (blockCommand_inside h inside false _)

theorem partExists_iff (s : State) (p : Nat) : s.partExists p = true ↔ (s.part p).pslots ≠ 0 := by
  simp [State.partExists]

theorem pset_new {s : State} (h : Serves s) (inside : s.blockOk 0 4 = true) {b : Bounds} (ok : Bounds.ok b = true)
    (apart_ : s.disjoint b = true) (new : (s.part b.part).pslots = 0) (none : s.residencies = []) :
    ∃ t, exec (.pset 0 b) s = .next t ∧ t.part b.part = Bounds.apply b freshPart ∧ Table.find? t.tpstat 0 = some 0 ∧
      t.measure 4 = extendMeas (s.measure 4) (sha256 (s.tpBlock 0 4)) := by
  have run := pset_inside h inside b
  rw [if_neg (by simp [ok]), if_neg (by simp [apart_]), if_neg fun hp => (partExists_iff s b.part).1 hp new] at run
  obtain ⟨keep, emptied, -⟩ := State.clearPart_emptied
    (s := { s with parts := Table.set s.parts b.part (Bounds.apply b freshPart) }) none b.part
  obtain ⟨meas, stat, parts, -⟩ := partDone_spec
    (State.clearPart { s with parts := Table.set s.parts b.part (Bounds.apply b freshPart) } b.part) (s.tpBlock 0 4)
  refine ⟨_, run, ?_, stat, ?_⟩
  · rw [State.part, parts, emptied.parts]
    exact Table.get_set_same ..
  · rw [meas, State.measure, emptied.meas]
    rfl

theorem pdestroy_gone {s : State} (h : Serves s) (inside : s.blockOk 0 5 = true) {n : Nat} (low : 1 ≤ n) (high : n ≤ 15)
    (is : (s.part n).pslots ≠ 0) (none : s.residencies = []) :
    ∃ t, exec (.pdestroy 0 n) s = .next t ∧ t.part n = freshPart ∧ Table.find? t.tpstat 0 = some 0 ∧
      t.measure 4 = extendMeas (s.measure 4) (sha256 (s.tpBlock 0 5)) ∧ ∀ e ∈ t.threads, e.2.part ≠ n ∨ 4 ≤ e.2.ten := by
  have run := pdestroy_inside h inside n
  rw [if_neg (by rw [(partExists_iff s n).2 is]; simp; omega)] at run
  obtain ⟨keep, emptied, gone⟩ := State.clearPart_emptied none n
  obtain ⟨meas, stat, parts, threads⟩ := partDone_spec { s.clearPart n with parts := Table.erase (s.clearPart n).parts n } (s.tpBlock 0 5)
  refine ⟨_, run, ?_, stat, ?_, fun e he => gone e ?_⟩
  · rw [State.part, parts, Table.get, Table.find_erase, if_pos rfl]
    rfl
  · rw [meas, State.measure]
    dsimp only
    rw [emptied.meas]
    rfl
  · rw [threads] at he
    dsimp only at he
    rw [emptied.threads] at he
    exact (List.mem_filter.1 he).2

/-! ### Hand-over and attestation (R349, R350) -/

/-- What a hand-over leaves. -/
theorem State.handOver_spec (s : State) (i : Image) :
    (s.handOver i).running = some i ∧ (s.handOver i).staged = none ∧ (s.handOver i).fwroot = i.fwroot ∧
    Table.find? (s.handOver i).tpstat 0 = some 0 ∧ (s.handOver i).measure 1 = extendMeas 0 i.digest ∧
    (s.handOver i).measure 5 = extendMeas (s.measure 5) i.digest ∧ (s.handOver i).stopped = [] ∧
    (s.handOver i).hbm = Memory.writeBytes s.hbm i.base ((List.range (i.limit - i.base)).map (Config.firmwareByte i.digest)) := by
  obtain ⟨meas, hbm⟩ := State.storeFirmware_spec ((s.setMeas 1 (extendMeas 0 i.digest)).extendTo 5 i.digest) i
  have same : (s.handOver i).meas = ((s.setMeas 1 (extendMeas 0 i.digest)).extendTo 5 i.digest).meas := by
    rw [← meas]
    unfold State.handOver
    rfl
  refine ⟨rfl, rfl, rfl, Table.find_set_same .., ?_, ?_, rfl, ?_⟩
  · rw [State.measure, same, ← State.measure, State.measure_other _ _ (by decide)]
    exact Table.get_set_same ..
  · rw [State.measure, same, ← State.measure, State.measure_same]
    exact congrArg (extendMeas · i.digest) (Table.get_set_other _ _ _ (by decide))
  · unfold State.handOver
    exact hbm

theorem tpCommit_staged {s : State} (h : Serves s) {i : Image} (staged : s.staged = some i) :
    exec (.tpCommit 0) s = .next (if s.quiet then s.handOver i else { s with commitWait := true }) := by
  show _ = Host.Outcome.next (s.commitImage i)
  rw [tpCommit_idle h.idle, pfCommand_booted h.idle h.booted, staged]
  exact congrArg Host.Outcome.next (if_pos h.booted)

theorem tpStage_inside {s : State} (h : Serves s) (inside : s.blockOk 0 1 = true) (img : Image) :
    exec (.tpStage 0 img) s = .next (if s.verifies img && (s.running.map fun r => decide (r.svn ≤ img.svn)).getD true
      then (State.postTo { s with staged := some img } 0 [recordHead 9 0 0, 2, word img.ver, 0, 0, 0, 0, 0]).tpDone 0 0
      else s.tpDone 0 2) :=
  (show exec (.tpStage 0 img) s = execTpStage 0 img s from rfl).trans (blockCommand_inside h inside true _)

theorem newer_iff (s : State) (img : Image) : (s.running.map fun r => decide (r.svn ≤ img.svn)).getD true = true ↔
    ∀ r, s.running = some r → r.svn ≤ img.svn := by
  cases s.running <;> simp

theorem report_length (s : State) (fn : Nat) {nonce : List Byte} (h : nonce.length = 32) : (s.report fn nonce).length = 344 := by
  have digests : ((List.range 8).flatMap fun n => digestBytes (s.measure n)).length = 256 := by
    simp [digestBytes, leBytes_length, List.length_flatMap]
  simp [State.report, leBytes_length, digests, h]

theorem attest_run {s : State} (h : Serves s) (n : Nat) :
    exec (.attest n) s = .next (if !s.ringOk n (Table.get s.tparg n 0).toNat 792 then s.tpDone n 1
      else (s.writeHbm ⟨0, n, 0, 140⟩ ((Table.get s.tparg n 0).toNat + 64) (s.report n (s.rawBytes (Table.get s.tparg n 0).toNat 32) ++
        (List.range 384).map (Config.signature (sha256 (s.report n (s.rawBytes (Table.get s.tparg n 0).toNat 32)))))).tpDone n 0) := by
  have run : exec (.attest n) s = execAttest n s := rfl
  rw [run, execAttest, if_neg (by simp [h.idle, h.booted])]
  dsimp only
  split <;> rfl

/-- Settles O60 from what each command comes to. -/
theorem taprootCommands : Obligations.TaprootCommands := by
  unfold Obligations.TaprootCommands
  refine ⟨fun s fn img b n d i nz live idle hi => ⟨_, vf_command nz idle hi, breach_spec live⟩, fun s img b n d idle => ?pf⟩
  case pf =>
    intro code at_ inside ext blockHash stored
    have hext : ∀ m d, ext m d = extendMeas m d := fun _ _ => rfl
    refine ⟨fun off staged => ?recovery, fun booted => ?_⟩
    case recovery =>
      have run := tpCommit_idle (fn := 0) idle
      rw [pfCommand_recovery idle, staged] at run
      obtain ⟨hbm, meas⟩ := s.load_spec img
      refine ⟨_, run.trans (congrArg Host.Outcome.next (if_neg (by simp [off]))), rfl, rfl, rfl, rfl, rfl, ?_, ?_,
        Table.find_set_same .., hbm⟩
      · exact ((s.load img).measure_other (k := 1) img.digest (by decide)).trans meas.code
      · exact ((s.load img).measure_same 5 img.digest).trans (congrArg (extendMeas · img.digest) (meas.other 5 (.inr (by decide))))
    have h : Serves s := ⟨idle, booted⟩
    refine ⟨fun x hx out => ?outside, fun ins => ⟨fun bad => ?_, fun ok clash => ?_, fun ok apart_ new none => pset_new h ins ok apart_ new none⟩,
      fun ins => ⟨fun bad => ?_, fun low high is none => pdestroy_gone h ins low high is none⟩, fun ins => ⟨fun bad => ?_, fun low high => ?_⟩,
      fun ins => ⟨fun bad => ?_, fun low high => ?_⟩, fun ins => ⟨fun valid svn newer => ?_, fun bad => ?_⟩, fun staged quiet => ?_,
      fun staged busy => ?_, ?_⟩
    case outside =>
      simp only [List.mem_cons, List.not_mem_nil, or_false] at hx
      rcases hx with rfl | rfl | rfl | rfl | rfl
      · exact (show exec (.tpStage 0 img) s = execTpStage 0 img s from rfl).trans (blockCommand_outside h out true _)
      · exact (show exec (.pset 0 b) s = execPset 0 b s from rfl).trans (blockCommand_outside h out false _)
      · exact (show exec (.pdestroy 0 n) s = execPdestroy 0 n s from rfl).trans (blockCommand_outside h out false _)
      · exact (show exec (.extend 0 n d) s = execExtend 0 n d s from rfl).trans (blockCommand_outside h out false _)
      · exact (show exec (.unfreeze 0 n) s = execUnfreeze 0 n s from rfl).trans (blockCommand_outside h out false _)
    · exact (pset_inside h ins b).trans (congrArg Host.Outcome.next (if_pos (by simp [bad])))
    · exact (pset_inside h ins b).trans (congrArg Host.Outcome.next ((if_neg (by simp [ok])).trans (if_pos (by simp [clash]))))
    · refine (pdestroy_inside h ins n).trans (congrArg Host.Outcome.next (if_pos ?_))
      have : s.partExists n = true ↔ (s.part n).pslots ≠ 0 := partExists_iff s n
      rcases bad with bad | bad | bad
      · simp [bad]
      · simp [bad]
      · simp [State.partExists, bad]
    · exact ((show exec (.extend 0 n d) s = execExtend 0 n d s from rfl).trans (blockCommand_inside h ins false _)).trans
        (congrArg Host.Outcome.next (if_pos (by simpa using bad)))
    · refine ((show exec (.extend 0 n d) s = execExtend 0 n d s from rfl).trans (blockCommand_inside h ins false _)).trans
        (congrArg Host.Outcome.next ((if_neg (by simp; omega)).trans ?_))
      rw [hext]
      rfl
    · exact ((show exec (.unfreeze 0 n) s = execUnfreeze 0 n s from rfl).trans (blockCommand_inside h ins false _)).trans
        (congrArg Host.Outcome.next (if_pos (by simpa using bad)))
    · exact ((show exec (.unfreeze 0 n) s = execUnfreeze 0 n s from rfl).trans (blockCommand_inside h ins false _)).trans
        (congrArg Host.Outcome.next (if_neg (by simp; omega)))
    · refine ⟨_, (tpStage_inside h ins img).trans (congrArg Host.Outcome.next (if_pos ?_)), rfl, Table.find_set_same .., rfl⟩
      rw [(newer_iff s img).2 newer]
      simp [State.verifies, valid, svn]
    · refine (tpStage_inside h ins img).trans (congrArg Host.Outcome.next (if_neg fun ok => ?_))
      rw [Bool.and_eq_true, newer_iff] at ok
      obtain ⟨verified, newer⟩ := ok
      simp only [State.verifies, Bool.and_eq_true, decide_eq_true_eq] at verified
      rcases bad with bad | bad | ⟨r, hr, bad⟩
      · rw [bad] at verified
        exact absurd verified.1 (by simp)
      · omega
      · exact absurd (newer r hr) (by omega)
    · obtain ⟨running, none, root, stat, m1, m5, stopped, hbm⟩ := s.handOver_spec img
      exact ⟨_, (tpCommit_staged h staged).trans (congrArg Host.Outcome.next (if_pos quiet)), running, none, root, stat, m1, m5, stopped, hbm⟩
    · exact (tpCommit_staged h staged).trans (congrArg Host.Outcome.next (if_neg (by simp [busy])))
    · intro a
      have wrote : ∀ bytes, ((s.writeHbm ⟨0, n, 0, 140⟩ (a + 64) bytes).tpDone n 0).hbm = Memory.writeBytes s.hbm (a + 64) bytes :=
        fun bytes => (s.writeHbm_around ⟨0, n, 0, 140⟩ (a + 64) bytes).memories.1
      refine ⟨fun out => ?_, fun ins => ⟨_, (attest_run h n).trans (congrArg Host.Outcome.next (if_neg ?_)), Table.find_set_same .., ?_, ?_⟩⟩
      · exact (attest_run h n).trans (congrArg Host.Outcome.next (if_pos (by simpa using! out)))
      · simpa using! ins
      · exact report_length s n (by simp [State.rawBytes])
      · exact wrote _

end Sys2Proof.Machine
end

section
/-! PROOF. Leases and runs of the matrix array (O41). -/

namespace Sys2Proof.Machine

theorem Table.find_filter_key {α : Type} (t : Table α) (c : Nat → Bool) (k : Nat) :
    Table.find? (t.filter fun e => c e.1) k = if c k = true then Table.find? t k else none := by
  induction t with
  | nil => simp [Table.find?]
  | cons e t ih =>
    obtain ⟨i, v⟩ := e
    by_cases hc : c i = true <;> by_cases hi : i = k <;> simp_all [Table.find?]

/-! ### Arrays -/

@[simp] theorem State.arr_modArr (s : State) (g : Nat) (f : ArrayState → ArrayState) : (s.modArr g f).arr g = f (s.arr g) := by
  rw [State.arr, State.array, State.modArr, Table.find_set_same]
  rfl

theorem State.modArr_setThr (s : State) (g t : Nat) (f : ArrayState → ArrayState) (th : Thread) :
    (s.setThr t th).modArr g f = (s.modArr g f).setThr t th := rfl

/-- The lease that a thread holds is one of the array's. -/
theorem ArrayState.mem_of_leaseOf {a : ArrayState} {t l : Nat} (h : a.leaseOf t = some l) : (l, t) ∈ a.holder := by
  obtain ⟨e, found, rfl⟩ := Option.map_eq_some_iff.1 h
  have who : e.2 = t := by simpa using List.find?_some found
  exact who ▸ List.mem_of_find?_eq_some found

theorem ArrayState.holds_iff (a : ArrayState) (t l : Nat) : a.holds t l = true ↔ a.leaseOf t = some l ∨ (l, t) ∈ a.restore := by
  simp [ArrayState.holds]

theorem State.arr_take (s : State) (n : Needs) : (s.take n).arr (clusterOf (s.take n).me.sid) = s.arr (s.me.sid / 128) := by
  rw [State.me_take, Needs.marks_sid]
  rfl

theorem State.endRunOf_setThr (s : State) {t : Nat} {th : Thread} (sid : th.sid = (s.thr t).sid) :
    (s.setThr t th).endRunOf t = (s.endRunOf t).setThr t th := by
  have arrays : (s.setThr t th).arrays = s.arrays := rfl
  rw [State.endRunOf, State.endRunOf, State.thr_setThr_same, sid, arrays]
  split
  · split
    · split <;> rfl
    · rfl
  · rfl

theorem State.endRunOf_keeps (s : State) (t : Nat) :
    (s.endRunOf t).cur = s.cur ∧ (s.endRunOf t).me = s.me ∧ (s.endRunOf t).insnLen = s.insnLen ∧
      ∀ u, (s.endRunOf t).alive u = s.alive u := by
  obtain ⟨ar, ends⟩ := State.endRunOf_eq s t
  rw [ends]
  exact ⟨rfl, rfl, rfl, fun _ => rfl⟩

/-- The run of a thread ends when its own lease runs. -/
theorem State.endRunOf_arr {s : State} {l : Nat} (holds : (s.arr (s.me.sid / 128)).leaseOf s.cur = some l) :
    let a := s.arr (s.me.sid / 128)
    let b := (s.endRunOf s.cur).arr (s.me.sid / 128)
    b.holder = a.holder ∧ b.queue = a.queue ∧
      b.running = if a.running.bind (Table.find? a.holder) = some s.cur then none else a.running := by
  intro a b
  have there : ∃ x, Table.find? s.arrays (s.me.sid / 128) = some x := by
    cases found : Table.find? s.arrays (s.me.sid / 128) with
    | some x => exact ⟨x, rfl⟩
    | none =>
      rw [State.arr, State.array, found] at holds
      exact absurd holds (by simp [ArrayState.leaseOf, freshArray])
  obtain ⟨x, found⟩ := there
  have ha : a = x := congrArg (Option.getD · freshArray) found
  have stays : s.endRunOf s.cur = s → a.running.bind (Table.find? a.holder) ≠ some s.cur →
      b.holder = a.holder ∧ b.queue = a.queue ∧
        b.running = if a.running.bind (Table.find? a.holder) = some s.cur then none else a.running := by
    intro same other
    rw [if_neg other]
    exact ⟨congrArg (fun u => (State.arr u _).holder) same, congrArg (fun u => (State.arr u _).queue) same,
      congrArg (fun u => (State.arr u _).running) same⟩
  have found' : Table.find? s.arrays (clusterOf (s.thr s.cur).sid) = some x := found
  cases run : x.running with
  | none =>
    refine stays ?_ (by simp [ha, run])
    simp only [State.endRunOf, found', run]
  | some k =>
    by_cases mine : Table.find? x.holder k = some s.cur
    · have ends : s.endRunOf s.cur = { s with arrays := Table.set s.arrays (s.me.sid / 128) { x with running := none, last := k } } := by
        simp only [State.endRunOf, found', run, if_pos mine]
        rfl
      have hb : b = { x with running := none, last := k } := by
        refine (congrArg (fun u => State.arr u (s.me.sid / 128)) ends).trans ?_
        rw [State.arr, State.array, Table.find_set_same]
        rfl
      rw [hb, ha, run, Option.bind_some, if_pos mine]
      exact ⟨rfl, rfl, rfl⟩
    · refine stays ?_ (by rw [ha, run, Option.bind_some]; exact mine)
      simp only [State.endRunOf, found', run, if_neg mine]

theorem State.landX_arrays (s : State) (t r : Nat) (v : Word) (p : Bool) : (s.landX t r v p).arrays = s.arrays := by
  unfold State.landX
  split <;> rfl

theorem State.landX_acc (s : State) (t r : Nat) (v : Word) (p : Bool) : (s.landX t r v p).acc = s.acc := by
  unfold State.landX
  split <;> rfl

/-! ### MLEASE (R137, R139) -/

/-- What a token's register and the others are once the answer is there. -/
def Thread.Answered (th u : Thread) (tok : Nat) (v : Word) : Prop :=
  (tok ≠ 0 → u.getX tok = ⟨v, true, false, false⟩) ∧ u.pc = th.pc ∧ ∀ q, q ≠ tok → u.getX q = th.getX q

/-- A token that is answered in the instruction itself. -/
theorem deferX_landX {s : State} (alive : s.alive s.cur = true) (n : Needs) (tok : Nat) (v : Word) :
    ∃ u, (n.marks s.me).Answered u tok v ∧ ((s.take n).deferX tok).landX s.cur tok v false = s.setThr s.cur u := by
  have defers : (s.take n).deferX tok = s.setThr s.cur ((n.marks s.me).deferX tok) := by
    rw [State.deferX, State.take_eq, State.setThr_cur, State.setThr_modThr]
  rw [defers]
  by_cases zero : tok = 0
  · refine ⟨(n.marks s.me).deferX tok, ⟨fun h => absurd zero h, ?_, fun q other => ?_⟩, ?_⟩
    · rw [Thread.deferX, zero]
      rfl
    · rw [Thread.deferX, Thread.getX_setX, if_neg (fun h => other h.1)]
    · simp [State.landX, zero]
  · refine ⟨{ ((n.marks s.me).deferX tok).setX tok ⟨v, true, false, false⟩ with latch := true }, ⟨fun _ => ?_, ?_, fun q other => ?_⟩, ?_⟩
    · refine (Thread.getX_setX _ tok tok _).trans (if_pos ⟨rfl, zero⟩)
    · simp [Thread.deferX, Thread.setX, zero]
    · refine (Thread.getX_setX _ tok q _).trans ((if_neg fun h => other h.1).trans ?_)
      rw [Thread.deferX, Thread.getX_setX, if_neg (fun h => other h.1)]
    · rw [State.landX_eq_modThr _ _ _ ((State.alive_setThr _ _ _ _ alive).trans alive) zero, State.setThr_modThr]

theorem mlease_held {s : State} {tok l : Nat} (h : Ready s { dx := [tok] }) (perf : s.performed s.cur = true)
    (holds : (s.arr (s.me.sid / 128)).leaseOf s.cur = some l) :
    ∃ u, s.me.Answered u tok (BitVec.ofNat 64 l) ∧
      exec (.mlease tok) s = .next (s.setThr s.cur { u.past s.insnLen with wait := none, answers := [] }) := by
  obtain ⟨u, answered, lands⟩ := deferX_landX h.alive { dx := [tok] } tok (word l)
  have run : exec (.mlease tok) s = execMlease tok s := rfl
  refine ⟨u, answered, ?_⟩
  rw [run, execMlease, issue_ready h]
  dsimp only
  rw [afterHeld, if_pos ((State.performed_take s _).trans perf), State.arr_take, State.take_cur, holds]
  dsimp only
  rw [lands, State.advance, State.setThr_cur, State.setThr_modThr]
  exact congrArg Host.Outcome.next (State.issued_setThr s _ h.alive)

theorem mlease_restoring {s : State} {tok : Nat} (h : Ready s { dx := [tok] }) (perf : s.performed s.cur = true)
    (none_ : (s.arr (s.me.sid / 128)).leaseOf s.cur = none) {r : Nat × Nat} (mem : r ∈ (s.arr (s.me.sid / 128)).restore) (mine : r.2 = s.cur) :
    ∃ r' ∈ (s.arr (s.me.sid / 128)).restore, r'.2 = s.cur ∧ exec (.mlease tok) s = .next (s.parkOn (.run r'.1)) := by
  have some_ : ((s.arr (s.me.sid / 128)).restore.find? fun r => r.2 = s.cur).isSome = true :=
    List.find?_isSome.2 ⟨r, mem, by simpa using mine⟩
  obtain ⟨r', found⟩ := Option.isSome_iff_exists.1 some_
  refine ⟨r', List.mem_of_find?_eq_some found, by simpa using List.find?_some found, ?_⟩
  have run : exec (.mlease tok) s = execMlease tok s := rfl
  rw [run, execMlease, issue_ready h]
  dsimp only
  rw [afterHeld, if_pos ((State.performed_take s _).trans perf), State.arr_take, State.take_cur, none_, found]
  rfl

theorem mlease_waits {s : State} {tok : Nat} (h : Ready s { dx := [tok] }) (perf : s.performed s.cur = true)
    (none_ : (s.arr (s.me.sid / 128)).leaseOf s.cur = none) (others : ∀ r ∈ (s.arr (s.me.sid / 128)).restore, r.2 ≠ s.cur) :
    exec (.mlease tok) s = .next ((s.after {} fun th => (th.deferX tok).past s.insnLen).modArr (s.me.sid / 128)
      fun a => { a with waiting := a.waiting ++ [(s.cur, tok)] }) := by
  have nowhere : ((s.arr (s.me.sid / 128)).restore.find? fun r => r.2 = s.cur) = none :=
    List.find?_eq_none.2 fun r mem => by simpa using others r mem
  have run : exec (.mlease tok) s = execMlease tok s := rfl
  rw [run, execMlease, issue_ready h]
  dsimp only
  rw [afterHeld, if_pos ((State.performed_take s _).trans perf), State.arr_take, State.take_cur, none_, nowhere]
  dsimp only
  have cluster : clusterOf (s.take { dx := [tok] }).me.sid = s.me.sid / 128 := by
    rw [State.me_take, Needs.marks_sid]
    rfl
  have moves : (((s.take { dx := [tok] }).deferX tok).modArr (s.me.sid / 128) fun a => { a with waiting := a.waiting ++ [(s.cur, tok)] }).advance =
      (s.modArr (s.me.sid / 128) fun a => { a with waiting := a.waiting ++ [(s.cur, tok)] }).setThr s.cur
        ((s.me.deferX tok).past s.insnLen) := by
    rw [State.deferX, State.take_eq, State.setThr_cur, State.setThr_modThr]
    rw [State.modArr_setThr]
    exact State.setThr_modThr _ _ _ _
  rw [cluster, moves]
  exact congrArg Host.Outcome.next (State.issued_setThr (s.modArr _ _) _ h.alive)

/-! ### MREL, MWAIT (R139, R155) -/

/-- An instruction of a lease that the thread does not hold. -/
theorem lease_foreign {s : State} {l : Nat} (h : Ready s {}) (other : (s.arr (s.me.sid / 128)).leaseOf s.cur ≠ some l)
    (gone : (l, s.cur) ∉ (s.arr (s.me.sid / 128)).restore) (i : Instr) (hi : i ∈ [Instr.mrel l, .mwait l, .mzero l]) :
    exec i s = .next (s.takeTrap 11 1 0) := by
  have not_ : (!(s.arr (s.me.sid / 128)).holds s.cur l) = true := by
    rw [Bool.not_eq_true', ← Bool.not_eq_true, ArrayState.holds_iff]
    exact fun c => c.elim other gone
  simp only [List.mem_cons, List.not_mem_nil, or_false] at hi
  rcases hi with rfl | rfl | rfl
  · have run : exec (.mrel l) s = execMrel l s := rfl
    rw [run, execMrel, issue_ready h]
    dsimp only
    rw [State.arr_take, State.take_cur, if_pos not_]
    rfl
  · have run : exec (.mwait l) s = execMwait l s := rfl
    rw [run, execMwait, issue_ready h]
    dsimp only
    rw [State.arr_take, State.take_cur, if_pos not_]
    rfl
  · have run : exec (.mzero l) s = execMzero l s := rfl
    rw [run, execMzero, issue_ready h, arrayCommand, State.arr_take, State.take_cur, if_pos not_]
    rfl

section Held
variable {s : State} {l : Nat} (h : Ready s {}) (holds : (s.arr (s.me.sid / 128)).leaseOf s.cur = some l)
  (here : (l, s.cur) ∉ (s.arr (s.me.sid / 128)).restore)
include h holds here

theorem mrel_held : exec (.mrel l) s = .next (((s.endRunOf s.cur).modArr (s.me.sid / 128) fun a =>
    { a with holder := Table.erase a.holder l }).after {} fun th => th.past s.insnLen) := by
  have held : (!(s.arr (s.me.sid / 128)).holds s.cur l) = false := by
    rw [Bool.not_eq_false', ArrayState.holds_iff]
    exact .inl holds
  have run : exec (.mrel l) s = execMrel l s := rfl
  obtain ⟨cur, me, len, alive⟩ := State.endRunOf_keeps s s.cur
  have cluster : clusterOf (s.take {}).me.sid = s.me.sid / 128 := by
    rw [State.me_take, Needs.marks_sid]
    rfl
  rw [run, execMrel, issue_ready h]
  dsimp only
  rw [State.arr_take, State.take_cur, if_neg (by simp [held]), if_neg (fun c => here (List.contains_iff_mem.1 c)), cluster,
    State.take_eq, State.endRunOf_setThr (th := ({} : Needs).marks s.me) s rfl, State.modArr_setThr]
  generalize hv : (s.endRunOf s.cur).modArr (s.me.sid / 128) (fun a => { a with holder := Table.erase a.holder l }) = v
  have curV : v.cur = s.cur := by rw [← hv]; exact cur
  have meV : v.me = s.me := by rw [← hv]; exact me
  have lenV : v.insnLen = s.insnLen := by rw [← hv]; exact len
  have aliveV : v.alive v.cur = true := by rw [curV, ← hv]; exact (alive _).trans h.alive
  rw [← curV, State.advance, State.setThr_cur, State.setThr_modThr, State.setThr_insnLen, lenV]
  refine (congrArg Host.Outcome.next (State.issued_setThr v _ aliveV)).trans ?_
  rw [State.after, meV]
  rfl

theorem mwait_done (done : ∀ c ∈ (s.arr (s.me.sid / 128)).queue, c.lease ≠ l) :
    exec (.mwait l) s = .next (s.after {} fun th => th.past s.insnLen) := by
  have held : (!(s.arr (s.me.sid / 128)).holds s.cur l) = false := by
    rw [Bool.not_eq_false', ArrayState.holds_iff]
    exact .inl holds
  have run : exec (.mwait l) s = execMwait l s := rfl
  rw [run, execMwait]
  refine issue_setThr h (f := fun th => th.past s.insnLen) ?_
  dsimp only
  rw [State.arr_take, State.take_cur, if_neg (by simp [held]), if_neg (fun c => here (List.contains_iff_mem.1 c)),
    if_neg (by simpa using done)]
  exact congrArg Verdict.go (State.advance_take s {})

theorem mwait_waits (busy : ∃ c ∈ (s.arr (s.me.sid / 128)).queue, c.lease = l) : exec (.mwait l) s = .next (s.parkOn .other) := by
  have held : (!(s.arr (s.me.sid / 128)).holds s.cur l) = false := by
    rw [Bool.not_eq_false', ArrayState.holds_iff]
    exact .inl holds
  have run : exec (.mwait l) s = execMwait l s := rfl
  rw [run, execMwait, issue_ready h]
  dsimp only
  rw [State.arr_take, State.take_cur, if_neg (by simp [held]), if_neg (fun c => here (List.contains_iff_mem.1 c)),
    if_pos (by simpa using busy)]
  rfl

end Held

/-! ### Grants (R136, R137) -/

/-- The lowest free bank is found. -/
theorem ArrayState.freeBank_lowest {a : ArrayState} {b : Nat} (four : b < 4) (free : a.free b = true)
    (lowest : ∀ c, c < b → a.free c = false) : a.freeBank = some b := by
  refine List.find?_eq_some_iff_append.2 ⟨free, List.range b, (List.range' (b + 1) (3 - b)), ?_, fun c mem => ?_⟩
  · interval_cases b <;> rfl
  · simpa using lowest c (List.mem_range.1 mem)

/-- The array after a grant. -/
def ArrayState.granted (a : ArrayState) (b t : Nat) (rest : List (Nat × Nat)) : ArrayState :=
  { a with waiting := rest, holder := Table.set a.holder b t, fault := Table.erase a.fault b }

theorem leaseGrant_oldest {s : State} {g b t tok : Nat} {rest : List (Nat × Nat)} (none_ : (s.arr g).restore = [])
    (waits : (s.arr g).waiting = (t, tok) :: rest) (once : ∀ w ∈ rest, w.1 ≠ t) (four : b < 4) (free : (s.arr g).free b = true)
    (lowest : ∀ c, c < b → (s.arr g).free c = false) :
    ∃ v : State, v = ((s.clearBank g b).modArr g fun a => a.granted b t rest).landX t tok (word b) false ∧
      exec (.leaseGrant g b) s = .next (v.modArr g fun a => { a with waiting := rest }) := by
  have run : exec (.leaseGrant g b) s = execLeaseGrant g b s := rfl
  refine ⟨_, rfl, ?_⟩
  generalize hv : ((s.clearBank g b).modArr g fun a => a.granted b t rest).landX t tok (word b) false = v
  have queue : (v.arr g).waiting = rest := by
    rw [← hv, State.arr, State.array, State.landX_arrays]
    exact congrArg ArrayState.waiting (State.arr_modArr (s.clearBank g b) g fun a => a.granted b t rest)
  have mine : (rest.filter fun w => w.1 = t) = [] := List.filter_eq_nil_iff.2 fun w mem => by simpa using once w mem
  have others : (rest.filter fun w => w.1 ≠ t) = rest := List.filter_eq_self.2 fun w mem => by simpa using once w mem
  have answers : v.answerWaiting g t b = v.modArr g fun a => { a with waiting := rest } := by
    rw [State.answerWaiting, queue, mine, State.modArr, queue, others]
    rfl
  rw [run, execLeaseGrant]
  dsimp only
  rw [if_neg (by simp [free]), none_, List.find?_nil, waits]
  dsimp only
  rw [if_neg (by simp [ArrayState.freeBank_lowest four free lowest]), ← answers, ← hv]
  rfl

/-! ### Runs (R138) -/

theorem arrayRunStart_next {s : State} {g l i : Nat} (idle : (s.arr g).running = none) (four : i < 4) (hl : l = ((s.arr g).last + 1 + i) % 4)
    (waits : s.waitsRun g l = true) (others : ∀ j, j < i → s.waitsRun g (((s.arr g).last + 1 + j) % 4) = false) :
    exec (.arrayRunStart g) s = .next (s.modArr g fun a => { a with
      running := some l, last := l, runCmds := 0, runFrom := s.cycle, runIdle := s.cycle }) := by
  have found : s.nextRun g = some l := by
    refine List.find?_eq_some_iff_append.2 ⟨waits, (List.range i).map fun j => ((s.arr g).last + 1 + j) % 4,
      (List.range' (i + 1) (3 - i)).map fun j => ((s.arr g).last + 1 + j) % 4, ?_, fun c mem => ?_⟩
    · rw [hl]
      interval_cases i <;> rfl
    · obtain ⟨j, lt, rfl⟩ := List.mem_map.1 mem
      simpa using others j (List.mem_range.1 lt)
  have run : exec (.arrayRunStart g) s = execArrayRunStart g s := rfl
  rw [run, execArrayRunStart, idle, found]

theorem arrayRunLimit_reached {s : State} {g l k : Nat} (runs : (s.arr g).running = some l) (four : k < 4) (other : k ≠ l)
    (waits : s.waitsRun g k = true)
    (limit : 64 ≤ (s.arr g).runCmds ∨ (s.arr g).runFrom + 65536 ≤ s.cycle ∨ (s.arr g).runIdle + 256 ≤ s.cycle) :
    exec (.arrayRunLimit g) s = .next (s.modArr g fun a => { a with running := none }) := by
  have wanted : ((List.range 4).any fun k => decide (k ≠ l) && s.waitsRun g k) = true :=
    List.any_eq_true.2 ⟨k, List.mem_range.2 four, by simp [other, waits]⟩
  have over_ : s.runOver g = true := by
    rw [State.runOver, runs]
    dsimp only
    rw [wanted]
    simpa [or_assoc] using limit
  exact if_pos over_

/-- Settles O41 from what MLEASE, MREL, MWAIT, a grant and the events of a run come to. -/
theorem arrayLeases : Obligations.ArrayLeases := by
  unfold Obligations.ArrayLeases
  refine ⟨fun s tok l => ?instrs, fun s g b t tok rest none_ waits once four free lowest => ?grant,
    fun s g l i idle four hl waits others => arrayRunStart_next idle four hl waits others,
    fun s g l k runs four other waits limit => arrayRunLimit_reached runs four other waits limit⟩
  case instrs =>
    intro a
    refine ⟨fun h perf l' holds => ?_, fun h perf free r mem mine => mlease_restoring h perf free mem mine,
      fun h perf free others => mlease_waits h perf free others,
      fun h other gone i hi => lease_foreign h other gone i hi, fun h holds here => ⟨?_, ?_, ?_⟩⟩
    · obtain ⟨u, ⟨token, pc, regs⟩, run⟩ := mlease_held h perf holds
      refine ⟨_, run, fun hr => ?_, ?_, rfl, rfl, fun q hq => ?_, rfl, rfl⟩
      · exact (congrArg (Thread.getX · tok) (State.me_setThr s _)).trans (token hr)
      · exact (congrArg Thread.pc (State.me_setThr s _)).trans (congrArg (· + word s.insnLen) pc)
      · exact (congrArg (Thread.getX · q) (State.me_setThr s _)).trans (regs q hq)
    · have run := mrel_held h holds here
      obtain ⟨holder, queue, running⟩ := State.endRunOf_arr holds
      obtain ⟨cur, me, -, -⟩ := State.endRunOf_keeps s s.cur
      obtain ⟨ar, ends⟩ := State.endRunOf_eq s s.cur
      have rest : (s.endRunOf s.cur).acc = s.acc ∧ (s.endRunOf s.cur).hbm = s.hbm ∧ (s.endRunOf s.cur).pad = s.pad := by
        rw [ends]
        exact ⟨rfl, rfl, rfl⟩
      have arr := State.arr_modArr (s.endRunOf s.cur) (s.me.sid / 128) fun a => { a with holder := Table.erase a.holder l }
      refine ⟨_, run, ?_, ?_, ?_, rest.1, ?_, rest.2.1, rest.2.2⟩
      · exact (congrArg ArrayState.holder arr).trans (congrArg (Table.erase · l) holder)
      · exact (congrArg ArrayState.running arr).trans running
      · exact (congrArg ArrayState.queue arr).trans queue
      · refine (State.me_setThr _ _).trans ?_
        exact congrArg (fun th : Thread => { th.past s.insnLen with wait := none, answers := [] }) me
    · exact fun done => mwait_done h holds here done
    · exact fun busy => mwait_waits h holds here busy
  case grant =>
    obtain ⟨v, hv, run⟩ := leaseGrant_oldest none_ waits once four free lowest
    have arr : v.arr g = (s.arr g).granted b t rest := by
      rw [hv, State.arr, State.array, State.landX_arrays]
      exact State.arr_modArr (s.clearBank g b) g fun a => a.granted b t rest
    have acc : v.acc = s.acc.filter fun e => e.1 / 131072 ≠ g * 4 + b := by
      rw [hv, State.landX_acc]
      rfl
    have arr' := State.arr_modArr v g fun a => { a with waiting := rest }
    refine ⟨_, run, ?_, ?_, ?_, fun i hi => ?_, fun k hk => ?_, fun alive tok0 => ?_, ?_, ?_⟩
    · rw [arr', arr]
      exact Table.find_set_same ..
    · exact congrArg ArrayState.waiting arr'
    · rw [arr', arr]
      exact (Table.find_erase ..).trans (if_pos rfl)
    · refine (congrArg (Table.get · _ 0) acc).trans ?_
      rw [Table.get, Table.find_filter_key _ fun k => k / 131072 ≠ g * 4 + b, if_neg (by simp; omega)]
      rfl
    · refine (congrArg (Table.find? · k) acc).trans ?_
      rw [Table.find_filter_key _ fun k => k / 131072 ≠ g * 4 + b, if_pos (by simpa using hk)]
    · have lands : v = ((s.clearBank g b).modArr g fun a => a.granted b t rest).modThr t fun th =>
          { (th.setX tok ⟨word b, true, false, false⟩) with latch := true } := by
        rw [hv, State.landX_eq_modThr _ _ _ (by exact alive) tok0]
      refine (congrArg (fun u => (State.thr u t).getX tok) lands).trans ?_
      dsimp only
      rw [State.thr_modThr_same]
      exact (Thread.getX_setX _ tok tok _).trans (if_pos ⟨rfl, tok0⟩)
    · rw [show (v.modArr g _).hbm = v.hbm from rfl, hv, State.landX_hbm]
      rfl
    · rw [show (v.modArr g _).pad = v.pad from rfl, hv, State.landX_pad]
      rfl

end Sys2Proof.Machine
end

section
/-! PROOF. Array commands are accepted, or trap with the lowest cause (O42). -/

namespace Sys2Proof.Machine

/-! ### Acceptance (R138, R140) -/

theorem State.startCommand_spec (s : State) (g : Nat) :
    (∃ ar, s.startCommand g = { s with arrays := ar }) ∧ ((s.startCommand g).arr g).queue = (s.arr g).queue := by
  have stays : ∀ t : State, t = s → (∃ ar, t = { s with arrays := ar }) ∧ (t.arr g).queue = (s.arr g).queue := by
    rintro t rfl
    exact ⟨⟨t.arrays, rfl⟩, rfl⟩
  unfold State.startCommand
  cases found : s.array g with
  | none => exact stays _ rfl
  | some a =>
    dsimp only
    cases hq : a.queue with
    | nil => exact stays _ rfl
    | cons c rest =>
      dsimp only
      split
      · exact stays _ rfl
      · refine ⟨⟨_, rfl⟩, ?_⟩
        rw [State.arr, State.array, Table.find_set_same, State.arr, found]
        exact hq.symm

/-- The command that an acceptance queues. -/
def ArrayCmd.accepted (s : State) (l : Nat) (op : ArrayOp) (stall num : Nat) : ArrayCmd :=
  ⟨op, l, s.cur, s.me.sid, s.me.part, s.me.ten, num, s.cycle, 0, false, false, stall, false⟩

theorem State.acceptCmd_spec (s : State) (l : Nat) (op : ArrayOp) (stall : Nat) :
    let k := s.me.ctxKeyOf (8 + l)
    let num := (s.engCtx k).acc + 1
    let g := s.me.sid / 128
    ∃ ar ctxs, s.acceptCmd l op stall = State.setThr { s with arrays := ar, ctxs := ctxs } s.cur { s.me with lastTl := word num } ∧
      (Table.get ctxs k freshEngCtx).acc = num ∧
      ((Table.find? ar g).getD freshArray).queue = (s.arr g).queue ++ [.accepted s l op stall num] := by
  intro k num g
  generalize hu : ((s.modEngCtx k fun c => { c with acc := num }).modThr s.cur fun th => { th with lastTl := word num }).modArr g
    (fun a => { a with queue := a.queue ++ [.accepted s l op stall num], runCmds := a.runCmds + 1, runIdle := s.cycle }) = u
  obtain ⟨⟨ar, starts⟩, queue⟩ := State.startCommand_spec u g
  have accepts : s.acceptCmd l op stall = u.startCommand g := by rw [← hu]; rfl
  refine ⟨ar, u.ctxs, ?_, ?_, ?_⟩
  · rw [accepts, starts, ← hu]
    rfl
  · rw [← hu]
    exact congrArg EngCtx.acc (Table.get_set_same ..)
  · rw [starts] at queue
    refine queue.trans ?_
    rw [← hu, State.arr_modArr]
    rfl

/-- What accepts a command, as the obligation says it. -/
theorem close_acceptCmd {s u : State} (l : Nat) (op : ArrayOp) (stall : Nat) (s0 : State) (alive : u.alive u.cur = true)
    (cur : u.cur = s.cur) (sid : u.me.sid = s.me.sid) (part : u.me.part = s.me.part) (ten : u.me.ten = s.me.ten)
    (cycle : u.cycle = s.cycle) (arrays : u.arrays = s.arrays) (ctxs : u.ctxs = s.ctxs) :
    let k := s.me.ctxKeyOf (8 + l)
    let num := (s.engCtx k).acc + 1
    let g := s.me.sid / 128
    ∃ t, Verdict.close (.go (u.acceptCmd l op stall).advance) s0 = .next t ∧ (t.engCtx k).acc = num ∧
      (t.arr g).queue = (s.arr g).queue ++ [.accepted s l op stall num] ∧
      t.me = { u.me.past u.insnLen with lastTl := word num, wait := none, answers := [] } ∧ t.acc = u.acc ∧ t.hbm = u.hbm ∧ t.pad = u.pad := by
  intro k num g
  obtain ⟨ar, cx, accepts, acc, queue⟩ := u.acceptCmd_spec l op stall
  have key : u.me.ctxKeyOf (8 + l) = k := by
    show ctxKey _ _ _ (ctxPlace _ _) = ctxKey _ _ _ (ctxPlace _ _)
    rw [sid, part, ten]
  have next : (u.engCtx k).acc + 1 = num := congrArg (fun t => (Table.get t k freshEngCtx).acc + 1) ctxs
  have queued : (u.arr g).queue = (s.arr g).queue := congrArg (fun t => ((Table.find? t g).getD freshArray).queue) arrays
  rw [key, next] at accepts acc queue
  rw [sid] at queue
  rw [accepts]
  refine ⟨_, congrArg Host.Outcome.next ((congrArg State.issued (State.advance_setThr _ _)).trans
    (State.issued_setThr _ _ alive)), acc, ?_, State.me_setThr _ _, rfl, rfl, rfl⟩
  refine queue.trans ?_
  rw [show (u.arr (s.me.sid / 128)).queue = _ from queued, ArrayCmd.accepted, ArrayCmd.accepted, cur, sid, part, ten, cycle]

/-- A command of the running lease, with room in the queue and the thread's earlier accesses performed. -/
structure Runs (s : State) (l : Nat) : Prop where
  running : (s.arr (s.me.sid / 128)).running = some l
  leased : (s.arr (s.me.sid / 128)).leaseOf s.cur = some l
  room : (s.arr (s.me.sid / 128)).queue.length < 8
  performed : s.performed s.cur = true

theorem arrayCommand_runs {s : State} {l : Nat} (r : Runs s l) (n : Needs) (k : Verdict) : arrayCommand l (s.take n) k = k := by
  have holds : (s.arr (s.me.sid / 128)).holds s.cur l = true := (ArrayState.holds_iff _ _ _).2 (.inl r.leased)
  rw [arrayCommand, State.arr_take, State.take_cur, if_neg (by simp [holds]), afterHeld, if_pos ((State.performed_take s n).trans r.performed),
    if_neg]
  simp [r.running, r.leased, r.room]

/-! ### The lowest cause (R157) -/

/-- The list says when each cause holds, in rising order. -/
structure Causes (cs : List (Nat × Bool)) (cause : Nat → Prop) : Prop where
  rising : cs.Pairwise fun a b => a.1 < b.1
  tells : ∀ e ∈ cs, e.2 = true ↔ cause e.1
  listed : ∀ c, cause c → c ∈ cs.map (·.1)

theorem Causes.none {cs : List (Nat × Bool)} {cause : Nat → Prop} (h : Causes cs cause) (no : ∀ c, ¬ cause c) (k : Verdict) :
    withoutCause cs k = k := by
  have nothing : cs.find? (·.2) = Option.none := List.find?_eq_none.2 fun e mem holds => no _ ((h.tells e mem).1 holds)
  rw [withoutCause, firstCause, nothing]
  rfl

theorem Causes.lowest {cs : List (Nat × Bool)} {cause : Nat → Prop} (h : Causes cs cause) {c : Nat} (hc : cause c)
    (least : ∀ d, d < c → ¬ cause d) (k : Verdict) : withoutCause cs k = .trap 11 c 0 := by
  obtain ⟨⟨c, b⟩, mem, rfl⟩ := List.mem_map.1 (h.listed c hc)
  have holds : b = true := (h.tells _ mem).2 hc
  subst holds
  have found : cs.find? (·.2) = some (c, true) := by
    obtain ⟨before, behind, rfl⟩ := List.append_of_mem mem
    refine List.find?_eq_some_iff_append.2 ⟨rfl, before, behind, rfl, fun e he => ?_⟩
    have lower : e.1 < c := (List.pairwise_append.1 h.rising).2.2 e he (c, true) (.head _)
    have quiet : ¬ e.2 = true := fun on => least e.1 lower ((h.tells e (List.mem_append_left _ he)).1 on)
    simpa using quiet
  rw [withoutCause, firstCause, found]
  rfl

section Tells
variable {a b : Bool} {p q : Prop}

theorem tells_or (ha : a = true ↔ p) (hb : b = true ↔ q) : (a || b) = true ↔ p ∨ q :=
  (Bool.or_eq_true a b).to_iff.trans (or_congr ha hb)

theorem tells_and (ha : a = true ↔ p) (hb : b = true ↔ q) : (a && b) = true ↔ p ∧ q :=
  (Bool.and_eq_true a b).to_iff.trans (and_congr ha hb)

theorem tells_not (ha : a = true ↔ p) : (!a) = true ↔ ¬ p := by
  rw [← ha, Bool.not_eq_true, Bool.not_eq_true']

theorem tells_false : (!a) = true ↔ a = false := (Bool.not_eq_true' a).to_iff

theorem tells_some {α : Type} (o : Option α) (f : α → Bool) : (o.map f).getD false = true ↔ ∃ r, o = some r ∧ f r = true := by
  cases o <;> simp

end Tells

/-! ### MZERO -/

theorem mzero_runs {s : State} {l : Nat} (h : Ready s {}) (r : Runs s l) :
    exec (.mzero l) s = Verdict.close (.go ((s.take {}).acceptCmd l .mzero 0).advance) s := by
  have run : exec (.mzero l) s = execMzero l s := rfl
  rw [run, execMzero, issue_ready h, arrayCommand_runs r]

/-! ### MDRAIN (R156) -/

/-- When an MDRAIN fails, by the condition of each cause. -/
def drainCauses (s : State) (w : Word) : List (Nat × Bool) :=
  let d := tensorOf (s.tidRec s.me.part s.me.ten (bits w 11 0))
  let ok := d.ok && decide (d.fmt < 3)
  [(2, decide (bits w 63 37 ≠ 0)),
    (3, decide (256 < bits w 20 12) || decide (d.dim1 < bits w 36 21 + packRows (bits w 20 12) (bits w 36 21) d.dim1)),
    (4, !ok),
    (6, decide (d.dim0 = 0) || decide (512 < d.dim0))]

theorem mdrain_runs {s : State} {l tok : Nat} {b : Src} (h : Ready s { src := [b], dx := [tok] }) (r : Runs s l) :
    exec (.mdrain l tok b) s = Verdict.close (withoutCause (drainCauses s (s.rx b)) (.go (((s.take { src := [b], dx := [tok] }).deferX
      tok).acceptCmd l (.mdrain tok (bits (s.rx b) 36 21) (packRows (bits (s.rx b) 20 12) (bits (s.rx b) 36 21)
        (tensorOf (s.tidRec s.me.part s.me.ten (bits (s.rx b) 11 0))).dim1)
          (s.tidRec s.me.part s.me.ten (bits (s.rx b) 11 0))) 0).advance)) s := by
  have run : exec (.mdrain l tok b) s = execMdrain l tok b s := rfl
  rw [run, execMdrain, issue_ready h, arrayCommand_runs r]
  dsimp only
  rw [State.rx_take, State.me_take, Needs.marks_part, Needs.marks_ten]
  rfl

/-- What the issue of a command leaves of its thread. -/
theorem Thread.deferX_keeps {α : Type} (f : Thread → α) (keeps : ∀ th x, f { th with x := x } = f th) (n : Needs) (th : Thread)
    (r : Nat) : f ((n.marks th).deferX r) = f th := by
  have sets : ∀ th r v, f (Thread.setX th r v) = f th := fun th r v => by
    unfold Thread.setX
    split
    · rfl
    · exact keeps ..
  exact (sets ..).trans (Needs.marks_keeps f (fun _ _ => sets ..) _ _)

theorem State.me_take_deferX (s : State) (n : Needs) (r : Nat) : ((s.take n).deferX r).me = (n.marks s.me).deferX r := by
  rw [State.deferX, State.take_eq, State.setThr_cur, State.setThr_modThr, State.me_setThr]

theorem State.alive_take {s : State} (h : s.alive s.cur = true) (n : Needs) : (s.take n).alive s.cur = true :=
  (State.alive_modThr _ _ _ _ h).trans h

/-! ### MMUL (R153, R154) -/

theorem State.windowPlace_sync_take (s : State) (n : Needs) (part ten sid va : Nat) :
    (s.take n).windowPlace part ten sid .sync va = s.windowPlace part ten sid .sync va := by
  simp [State.windowPlace]
  rfl

theorem State.operandInPads_take (s : State) (n : Needs) (part ten sid g : Nat) (d : Tensor) (rows : List Nat) :
    (s.take n).operandInPads part ten sid g d rows = s.operandInPads part ten sid g d rows := by
  have places : ∀ a k, (s.take n).inPads part ten sid g a k = s.inPads part ten sid g a k := by
    intro a k
    simp only [State.inPads, State.windowPlace_sync_take]
  simp only [State.operandInPads, places]

/-- The residency that an MMUL's second operand names in the thread's cluster. -/
def mmulRes (s : State) (v : Word) : Option Residency :=
  (s.residency s.me.part (bits v 15 0)).filter fun r => resCluster r.handle = clusterOf s.me.sid

/-- The record of the second operand: the streamed tensor's, or that of the residency's fill or source. -/
def mmulSource (s : State) (st : Bool) (v : Word) : List Word :=
  if st then s.tidRec s.me.part s.me.ten (bits v 11 0)
  else ((mmulRes s v).map fun r => (r.fill.map (·.src)).getD r.src).getD []

/-- K-chunks of an MMUL: the pack's, or all that follow. -/
def mmulChunks (v : Word) (k : Nat) : Nat := if bits v 55 44 = 0 then ceilDiv k 192 - bits v 43 32 else bits v 55 44

/-- The rows of the first operand. -/
def mmulRows (s : State) (w : Word) : Nat :=
  packRows (bits w 20 12) (bits w 36 21) (tensorOf (s.tidRec s.me.part s.me.ten (bits w 11 0))).dim1

/-- When an MMUL fails, by the condition of each cause. -/
def mmulCauses (s : State) (st : Bool) (w v : Word) : List (Nat × Bool) :=
  let da := tensorOf (s.tidRec s.me.part s.me.ten (bits w 11 0))
  let aOk := da.ok && decide (da.fmt = 5)
  let rb := mmulSource s st v
  let db := tensorOf rb
  let bOk := if st then db.ok && decide (db.fmt = 5) else decide (rb ≠ [])
  let p := bits v 19 16
  let nt := bits v 31 20
  let kch0 := bits v 43 32
  let pads := s.operandInPads s.me.part s.me.ten s.me.sid (clusterOf s.me.sid)
  [(2, decide (bits w 63 37 ≠ 0) || decide (bits v 63 56 ≠ 0) || (st && (decide (p ≠ 0) || decide (bits v 15 12 ≠ 0)))),
    (3, decide (256 < bits w 20 12) || decide (da.dim1 < bits w 36 21 + mmulRows s w) || ((st || decide (rb ≠ [])) &&
      (decide (db.dim0 ≤ kch0 * 192) || decide (ceilDiv db.dim0 192 < kch0 + mmulChunks v db.dim0) ||
        decide (db.dim1 ≤ nt * passWidth st p)))),
    (4, !aOk || (st && !bOk)),
    (6, aOk && bOk && decide (da.dim0 ≠ db.dim0)),
    (7, !(pads da ((List.range (mmulRows s w)).map (bits w 36 21 + ·))) ||
      (st && !(pads db ((List.range (min 128 (db.dim1 - nt * 128))).map (nt * 128 + ·))))),
    (8, !st && (decide (p < 2) || decide (8 < p) || (bOk && decide (db.planes < p)))),
    (9, !st && (mmulRes s v).isNone),
    (10, !st && ((mmulRes s v).map (·.stale)).getD false),
    (11, !st && ((mmulRes s v).map fun r => r.st = 0 || (r.st = 3 && !r.auto)).getD false)]

/-- What an accepted MMUL queues. -/
def mmulCommand (s : State) (st : Bool) (w v : Word) : ArrayOp :=
  let db := tensorOf (mmulSource s st v)
  .mmul st (bits v 15 0) (bits v 19 16) db.dim0 db.dim1 (passWidth st (bits v 19 16)) (bits v 31 20) (bits v 43 32)
    (mmulChunks v db.dim0) (bits w 36 21) (mmulRows s w) (s.tidRec s.me.part s.me.ten (bits w 11 0)) (mmulSource s st v)

/-- What it waits for. -/
def mmulStall (s : State) (st : Bool) (v : Word) : Nat :=
  if st then 0 else ((mmulRes s v).map fun r => if r.st = 1 then 1 else if r.st = 3 then 2 else 0).getD 0

theorem mmul_runs {s : State} {l : Nat} {a b : Src} (h : Ready s { src := [a, b] }) (r : Runs s l) (st : Bool) :
    exec (if st then .mmulS l a b else .mmul l a b) s =
      Verdict.close (withoutCause (mmulCauses s st (s.rx a) (s.rx b)) (.go ((if st then s.take { src := [a, b] }
        else (s.take { src := [a, b] }).useRes s.me.part (bits (s.rx b) 15 0)).acceptCmd l (mmulCommand s st (s.rx a) (s.rx b))
          (mmulStall s st (s.rx b))).advance)) s := by
  have run : exec (if st then .mmulS l a b else .mmul l a b) s = mmulOp l a b st s := by cases st <;> rfl
  rw [run, mmulOp, issue_ready h, arrayCommand_runs r]
  simp only [State.rx_take, State.me_take, Needs.marks_part, Needs.marks_ten, Needs.marks_sid, State.operandInPads_take]
  cases st with
  | true => rfl
  | false =>
    have source : mmulSource s false (s.rx b) = match mmulRes s (s.rx b) with
        | some r => match r.fill with
          | some f => f.src
          | none => r.src
        | none => [] := by
      unfold mmulSource
      cases mmulRes s (s.rx b) with
      | none => rfl
      | some r =>
        dsimp only [Option.map_some, Option.getD_some]
        cases r.fill <;> rfl
    have stall : mmulStall s false (s.rx b) = match mmulRes s (s.rx b) with
        | some r => if r.st = 1 then 1 else if r.st = 3 then 2 else 0
        | none => 0 := by
      unfold mmulStall
      cases mmulRes s (s.rx b) <;> rfl
    rw [mmulCauses, mmulCommand, source, stall] <;> rfl

/-- Settles O42 from what each command comes to and the lowest cause that holds. -/
theorem arrayCommandsAreAccepted : Obligations.ArrayCommandsAreAccepted := by
  unfold Obligations.ArrayCommandsAreAccepted
  intro s l tok a b g k num rec_ d m inPads accepts traps running leased room performed
  have r : Runs s l := ⟨running, leased, room, performed⟩
  refine ⟨fun h => ?zero, fun h => ?drain, fun h st => ?mul⟩
  case zero =>
    obtain ⟨t, run, acc, queue, me, bank, hbm, pad⟩ := close_acceptCmd (s := s) (u := s.take {}) l .mzero 0 s
      ((State.alive_modThr _ _ _ _ h.alive).trans h.alive) rfl (by rw [State.me_take]; rfl) (by rw [State.me_take]; rfl)
      (by rw [State.me_take]; rfl) rfl rfl rfl
    refine ⟨t, (mzero_runs h r).trans run, acc, ?_, ?_, queue, fun c => absurd c (by simp), fun q _ => ?_, bank, hbm, pad⟩
    · rw [me]
      rfl
    · rw [me, State.me_take]
      rfl
    · rw [me, State.me_take]
      rfl
  case drain =>
    intro w cause
    have causes : Causes (drainCauses s w) cause := by
      refine ⟨by simp [drainCauses], fun e mem => ?_, fun c hc => ?_⟩
      · simp only [drainCauses, List.mem_cons, List.not_mem_nil, or_false] at mem
        rcases mem with rfl | rfl | rfl | rfl
        · exact decide_eq_true_iff
        · exact (Bool.or_eq_true ..).to_iff.trans (or_congr decide_eq_true_iff decide_eq_true_iff)
        · show _ = true ↔ (d w).ok = false ∨ 3 ≤ (d w).fmt
          rw [Bool.not_eq_true', Bool.and_eq_false_iff, decide_eq_false_iff_not, not_lt]
        · exact (Bool.or_eq_true ..).to_iff.trans (or_congr decide_eq_true_iff decide_eq_true_iff)
      · dsimp only [cause] at hc
        split at hc
        case h_5 => exact hc.elim
        all_goals simp [drainCauses]
    refine ⟨fun no => ?_, fun c hc least => ?_⟩
    · have me := s.me_take_deferX { src := [b], dx := [tok] } tok
      have keeps := fun {α : Type} (f : Thread → α) (hf : ∀ th x, f { th with x := x } = f th) =>
        (congrArg f me).trans (Thread.deferX_keeps f hf { src := [b], dx := [tok] } s.me tok)
      have alive := State.alive_take h.alive { src := [b], dx := [tok] }
      obtain ⟨t, run, acc, queue, me', bank, hbm, pad⟩ := close_acceptCmd (s := s) (u := (s.take { src := [b], dx := [tok] }).deferX tok) l
        (.mdrain tok (bits w 36 21) (m w) (rec_ w)) 0 s ((State.alive_modThr _ _ _ _ alive).trans alive) rfl
          (keeps _ fun _ _ => rfl) (keeps _ fun _ _ => rfl) (keeps _ fun _ _ => rfl) rfl rfl rfl
      refine ⟨t, ?_, acc, ?_, ?_, queue, fun _ tok0 => ?_, fun q other => ?_, bank, hbm, pad⟩
      · exact (mdrain_runs h r).trans ((congrArg (Verdict.close · s) (causes.none no _)).trans run)
      · rw [me']
        rfl
      · rw [me']
        exact congrArg (· + BitVec.ofNat 64 s.insnLen) (keeps (·.pc) fun _ _ => rfl)
      · rw [me', me]
        have token : (((Needs.marks { src := [b], dx := [tok] } s.me).deferX tok).getX tok) = _ :=
          (Thread.getX_setX _ tok tok _).trans (if_pos ⟨rfl, tok0⟩)
        exact ⟨congrArg Reg.full token, congrArg Reg.pend token⟩
      · rw [me', me]
        exact (Thread.getX_setX _ tok q _).trans (if_neg fun c => other rfl c.1)
    · exact (mdrain_runs h r).trans ((congrArg (Verdict.close · s) (causes.lowest hc least _)).trans rfl)
  case mul =>
    intro i w v p res source known bd nx nt kch0 kcn cols aOk bOk cause
    have causes : Causes (mmulCauses s st w v) cause := by
      refine ⟨by simp [mmulCauses], fun e mem => ?_, fun c hc => ?_⟩
      · have first : ((d w).ok && decide ((d w).fmt = 5)) = true ↔ aOk := tells_and Iff.rfl decide_eq_true_iff
        have second : (if st then bd.ok && decide (bd.fmt = 5) else decide (source ≠ [])) = true ↔ bOk := by
          cases st
          · exact decide_eq_true_iff
          · exact tells_and Iff.rfl decide_eq_true_iff
        simp only [mmulCauses, List.mem_cons, List.not_mem_nil, or_false] at mem
        rcases mem with rfl | rfl | rfl | rfl | rfl | rfl | rfl | rfl | rfl
        · simp only [Bool.or_eq_true, Bool.and_eq_true, decide_eq_true_eq]
          exact or_assoc
        · simp only [Bool.or_eq_true, Bool.and_eq_true, decide_eq_true_eq]
          exact or_assoc.trans (or_congr Iff.rfl (or_congr Iff.rfl (and_congr Iff.rfl or_assoc)))
        · exact tells_or (tells_not first) (tells_and Iff.rfl (tells_not second))
        · exact (tells_and (tells_and first second) decide_eq_true_iff).trans and_assoc
        · exact tells_or tells_false (tells_and Iff.rfl tells_false)
        · exact tells_and tells_false ((tells_or (tells_or decide_eq_true_iff decide_eq_true_iff)
            (tells_and second decide_eq_true_iff)).trans or_assoc)
        · exact tells_and tells_false Option.isNone_iff_eq_none
        · exact tells_and tells_false (tells_some ..)
        · exact tells_and tells_false ((tells_some ..).trans (exists_congr fun r => and_congr Iff.rfl
            (tells_or decide_eq_true_iff (tells_and decide_eq_true_iff tells_false))))
      · dsimp only [cause] at hc
        split at hc
        case h_10 => exact hc.elim
        all_goals simp [mmulCauses]
    have run := mmul_runs h r st
    refine ⟨fun no => ?_, fun c hc least => ?_⟩
    · generalize hu : (if st = true then s.take { src := [a, b] } else (s.take { src := [a, b] }).useRes s.me.part (bits v 15 0)) = u at run
      have same : u.threads = (s.take { src := [a, b] }).threads ∧ u.cur = s.cur ∧ u.cycle = s.cycle ∧ u.arrays = s.arrays ∧
          u.ctxs = s.ctxs ∧ u.insnLen = s.insnLen ∧ u.acc = s.acc ∧ u.hbm = s.hbm ∧ u.pad = s.pad := by
        rw [← hu]
        cases st <;> exact ⟨rfl, rfl, rfl, rfl, rfl, rfl, rfl, rfl, rfl⟩
      obtain ⟨threads, cur, cycle, arrays, ctxs, len, bankU, hbmU, padU⟩ := same
      have me : u.me = Needs.marks { src := [a, b] } s.me := by
        rw [State.me, State.thr, threads, cur]
        exact s.me_take _
      have alive : u.alive u.cur = true := by
        rw [State.alive, threads, cur]
        exact State.alive_take h.alive _
      obtain ⟨t, closes, acc, queue, me', bank, hbm, pad⟩ := close_acceptCmd (s := s) (u := u) l (mmulCommand s st w v) (mmulStall s st v) s
        alive cur (by rw [me, Needs.marks_sid]) (by rw [me, Needs.marks_part]) (by rw [me, Needs.marks_ten]) cycle arrays ctxs
      refine ⟨t, ?_, acc, ?_, ?_, ?_, fun c => absurd c (by simp), fun q _ => ?_, bank.trans bankU, hbm.trans hbmU, pad.trans padU⟩
      · exact run.trans ((congrArg (Verdict.close · s) (causes.none no _)).trans closes)
      · rw [me']
        rfl
      · rw [me', me, len]
        exact congrArg (· + BitVec.ofNat 64 s.insnLen) (Needs.marks_keeps Thread.pc (fun _ _ => by simp [Thread.emptyX]) _ _)
      · exact queue
      · rw [me', me]
        rfl
    · exact run.trans ((congrArg (Verdict.close · s) (causes.lowest hc least _)).trans rfl)

end Sys2Proof.Machine
end

section
/-! SUPPORT AND PROOF. What the accesses of an engine, of a fill or of an array leave unchanged (R185, R335, R336). -/

namespace Sys2Proof.Machine

/-- A store may have made the residency stale (R147). -/
def Residency.Marked (r q : Residency) : Prop :=
  ∃ stale fill, q = { r with stale := stale, fill := fill } ∧
    (fill.map fun f => { f with raised := false }) = r.fill.map fun f => { f with raised := false }

/-- From `s` to `t` an engine has made accesses: bytes have changed, with what is kept around them, counts of accesses, registers that a
window write will reach, and which residencies are stale. -/
structure Works (s t : State) : Prop where
  eq : ∃ th cl q fc bh bp bc g r se hm hk pd hmem pts xm st, t = { s with
    threads := th, clusters := cl, cqHeld := q, freeCtr := fc, badHbm := bh, badPad := bp, badCache := bc, gens := g, residencies := r,
    stackErrs := se, hbm := hm, hbmKeys := hk, pad := pd, hostMem := hmem, parts := pts, xmiss := xm, stopped := st }
  alive : ∀ u, t.alive u = s.alive u
  thr : ∀ u, ∃ rs, t.thr u = { s.thr u with returns := rs }
  res : ∃ f : Residency → Residency, (∀ r : Residency, r.Marked (f r)) ∧ t.residencies = s.residencies.map f
  part : ∀ p, ∃ n o, t.part p = { s.part p with nqtail := n, nqovf := o }

theorem Residency.Marked.refl (r : Residency) : r.Marked r := ⟨r.stale, r.fill, rfl, rfl⟩

theorem Residency.Marked.trans {a b c : Residency} (h : a.Marked b) (k : b.Marked c) : a.Marked c := by
  obtain ⟨_, _, rfl, hf⟩ := h
  obtain ⟨_, _, rfl, kf⟩ := k
  exact ⟨_, _, rfl, kf.trans hf⟩

/-- Changes that concern no thread, no residency and no partition. -/
theorem Works.of_eq {s t : State} (h : ∃ cl q fc bh bp bc g se hm hk pd hmem xm st, t = { s with
    clusters := cl, cqHeld := q, freeCtr := fc, badHbm := bh, badPad := bp, badCache := bc, gens := g,
    stackErrs := se, hbm := hm, hbmKeys := hk, pad := pd, hostMem := hmem, xmiss := xm, stopped := st }) : Works s t := by
  obtain ⟨cl, q, fc, bh, bp, bc, g, se, hm, hk, pd, hmem, xm, st, rfl⟩ := h
  exact ⟨⟨_, _, _, _, _, _, _, _, _, _, _, _, _, _, _, _, _, rfl⟩, fun _ => rfl, fun _ => ⟨_, rfl⟩,
    ⟨id, Residency.Marked.refl, (List.map_id _).symm⟩, fun _ => ⟨_, _, rfl⟩⟩

theorem Works.refl (s : State) : Works s s := .of_eq ⟨_, _, _, _, _, _, _, _, _, _, _, _, _, _, rfl⟩

theorem Works.trans {s t u : State} (h : Works s t) (k : Works t u) : Works s u := by
  obtain ⟨f, hf, fr⟩ := h.res
  obtain ⟨g, hg, gr⟩ := k.res
  refine ⟨?_, fun v => (k.alive v).trans (h.alive v), fun v => ?_, ⟨g ∘ f, fun r => (hf r).trans (hg _), ?_⟩, fun p => ?_⟩
  · obtain ⟨_, _, _, _, _, _, _, _, _, _, _, _, _, _, _, _, _, e⟩ := k.eq
    obtain ⟨_, _, _, _, _, _, _, _, _, _, _, _, _, _, _, _, _, e'⟩ := h.eq
    rw [e, e']
    exact ⟨_, _, _, _, _, _, _, _, _, _, _, _, _, _, _, _, _, rfl⟩
  · obtain ⟨_, e⟩ := h.thr v
    obtain ⟨_, e'⟩ := k.thr v
    exact ⟨_, e'.trans (by rw [e])⟩
  · rw [gr, fr, List.map_map]
  · obtain ⟨_, _, e⟩ := h.part p
    obtain ⟨_, _, e'⟩ := k.part p
    exact ⟨_, _, e'.trans (by rw [e])⟩

theorem Works.fold {β : Type} {f : State → β → State} (h : ∀ s b, Works s (f s b)) (l : List β) (s : State) : Works s (l.foldl f s) := by
  induction l generalizing s with
  | nil => exact .refl s
  | cons b l ih => exact (h s b).trans (ih _)

/-! ### Stores -/

theorem Works.raise (s : State) (f : Nat) : Works s (s.raise f) := by
  unfold State.raise
  split
  · refine ⟨⟨_, _, _, _, _, _, _, _, _, _, _, _, _, _, _, _, _, rfl⟩, fun _ => rfl, fun _ => ⟨_, rfl⟩, ⟨_, fun r => ?_, rfl⟩,
      fun _ => ⟨_, _, rfl⟩⟩
    dsimp only
    split
    · next f' hf =>
      split
      · split at hf <;> exact ⟨_, _, by split <;> rfl, by simp_all⟩
      · split <;> exact ⟨_, _, rfl, rfl⟩
    · split <;> exact ⟨_, _, rfl, rfl⟩
  · exact .refl s

theorem Works.log (s : State) (c : Ctx) (ue inj : Bool) (u a : Nat) : Works s (s.logError c ue inj u a) := by
  obtain ⟨_, _, _, _, e⟩ := s.logError_eq c ue inj u a
  rw [e]
  exact .of_eq ⟨_, _, _, _, _, _, _, _, _, _, _, _, _, _, rfl⟩

theorem Works.inject (s : State) (g a n : Nat) : Works s (s.injectHbm g a n) := by
  obtain ⟨_, _, e⟩ := s.injectHbm_eq g a n
  rw [e]
  exact .of_eq ⟨_, _, _, _, _, _, _, _, _, _, _, _, _, _, rfl⟩

theorem Works.cache (s : State) (c : Ctx) (e : Nat × Nat) : Works s (s.logCache c e) := by
  unfold State.logCache
  split <;> exact .log ..

theorem State.writeHbm_works (s : State) (c : Ctx) (a : Nat) (bs : List Byte) : Works s (s.writeHbm c a bs) := by
  unfold State.writeHbm
  split
  · exact .refl s
  · have logs := Works.fold (f := fun s (e : Nat × Nat) => s.logError c (uncorrectable e.2) (injected e.2) 3 (e.1 * 32))
      (fun s e => Works.log s ..) (partlyHit 32 a bs.length s.badHbm) s
    dsimp only
    generalize List.foldl _ s (partlyHit 32 a bs.length s.badHbm) = s1 at logs ⊢
    have caches := Works.fold (f := fun s (e : Nat × Nat) => s.logCache c e) (fun s e => Works.cache s c e)
      (partlyHit 8 a bs.length s1.badCache) s1
    generalize List.foldl _ s1 (partlyHit 8 a bs.length s1.badCache) = s2 at caches ⊢
    refine (logs.trans caches).trans (Works.trans ?_ (.fold Works.raise ..))
    exact (Works.of_eq ⟨_, _, _, _, _, _, _, _, _, _, _, _, _, _, rfl⟩).trans (.fold (fun s g => Works.inject s g a _) ..)

theorem State.writePad_works (s : State) (c : Ctx) (core off : Nat) (bs : List Byte) : Works s (s.writePad c core off bs) := by
  unfold State.writePad
  split
  · exact .refl s
  · have logs := Works.fold (f := fun s (e : Nat × Nat) => s.logError { c with core := core % 1024 } (uncorrectable e.2)
      (injected e.2) 1 (padOffset core (e.1 % 32768 * 8))) (fun s e => Works.log s ..)
        (partlyHit 8 (core * Config.padBytes + off) bs.length s.badPad) s
    dsimp only
    generalize List.foldl _ s (partlyHit 8 (core * Config.padBytes + off) bs.length s.badPad) = s1 at logs ⊢
    refine logs.trans ?_
    split <;> exact .of_eq ⟨_, _, _, _, _, _, _, _, _, _, _, _, _, _, rfl⟩

theorem State.rekey_works (s : State) (key a n : Nat) : Works s (s.rekey key a n) := by
  refine Works.fold (fun s u => ?_) _ s
  split
  · exact .refl s
  · exact .of_eq ⟨_, _, _, _, _, _, _, _, _, _, _, _, _, _, rfl⟩

theorem State.stopCore_works (s : State) (core : Nat) : Works s (s.stopCore core) := by
  unfold State.stopCore
  split
  · exact .refl s
  · exact .of_eq ⟨_, _, _, _, _, _, _, _, _, _, _, _, _, _, rfl⟩

/-- A window write reaches its register later (R160). -/
theorem State.addReturn_works {s : State} {t : Nat} (alive : s.alive t = true) (r : Return) : Works s (s.addReturn t r) := by
  refine ⟨⟨_, _, _, _, _, _, _, _, _, _, _, _, _, _, _, _, _, rfl⟩, fun u => State.alive_modThr _ _ _ _ alive, fun u => ?_,
    ⟨id, Residency.Marked.refl, (List.map_id _).symm⟩, fun _ => ⟨_, _, rfl⟩⟩
  by_cases hu : u = t
  · subst hu
    exact ⟨_, State.thr_modThr_same ..⟩
  · exact ⟨_, State.thr_modThr_other _ _ hu⟩

theorem State.writeAt_works (s : State) (c : Ctx) (p : Place) (bs : List Byte) : Works s (s.writeAt c p bs) := by
  cases p with
  | hbm a => exact s.writeHbm_works c a bs
  | page key a =>
    show Works s (if bs.isEmpty then s else if s.firmwareHit c a bs.length then s.stopCore c.core
      else (s.rekey key a bs.length).writeHbm c a bs)
    split
    · exact .refl s
    · split
      · exact s.stopCore_works _
      · exact (s.rekey_works key a _).trans (State.writeHbm_works _ c a bs)
  | host a => exact .of_eq ⟨_, _, _, _, _, _, _, _, _, _, _, _, _, _, rfl⟩
  | pad k o => exact s.writePad_works c k o bs
  | acc b o => exact .refl s
  | xreg t r o =>
    show Works s (s.writeXreg t r _)
    unfold State.writeXreg
    split
    · next alive => exact State.addReturn_works alive _
    · exact .refl s
  | vreg t r o =>
    show Works s (s.writeVreg t r _)
    unfold State.writeVreg
    split
    · next alive => exact State.addReturn_works alive _
    · exact .refl s
  | nothing => exact .refl s
  | data bs' bad => exact .refl s

/-! ### Reads and counts -/

theorem State.noteRead_works (s : State) (c : Ctx) (p : Place) (n : Nat) : Works s (s.noteRead c p n) := by
  have host : ∀ (s : State) (u : Nat), Works s (s.logHostError c (u * Machine.hostLine)) := fun s u =>
    (Works.of_eq ⟨_, _, _, _, _, _, _, _, _, _, _, _, _, _, rfl⟩).trans (Works.log { s with freeCtr := s.freeCtr + 1 } ..)
  have stack : ∀ a, Works s ((errorsIn s.badCache (units 8 a n)).foldl (fun s e => s.logCache c e)
      ((errorsIn s.badHbm (units 32 a n)).foldl (fun s e => s.logError c (uncorrectable e.2) (injected e.2) 3 (e.1 * 32)) s)) := fun a =>
    (Works.fold (f := fun s (e : Nat × Nat) => s.logError c (uncorrectable e.2) (injected e.2) 3 (e.1 * 32))
      (fun s e => Works.log s c (uncorrectable e.2) (injected e.2) 3 (e.1 * 32)) (errorsIn s.badHbm (units 32 a n)) s).trans
        (.fold (fun s e => Works.cache s c e) ..)
  cases p with
  | host a => exact .fold host _ s
  | hbm a => exact stack a
  | page key a => exact stack a
  | pad k o => exact .fold (fun s e => Works.log s ..) _ s
  | acc b o => exact .refl s
  | xreg t r o => exact .refl s
  | vreg t r o => exact .refl s
  | nothing => exact .refl s
  | data bs bad => exact .refl s

theorem State.modPart_works (s : State) (k : Nat) (f : Part → Part) (h : ∀ p, ∃ n o, f p = { p with nqtail := n, nqovf := o }) :
    Works s (s.modPart k f) := by
  refine ⟨⟨_, _, _, _, _, _, _, _, _, _, _, _, _, _, _, _, _, rfl⟩, fun _ => rfl, fun _ => ⟨_, rfl⟩,
    ⟨id, Residency.Marked.refl, (List.map_id _).symm⟩, fun p => ?_⟩
  by_cases hp : p = k
  · subst hp
    obtain ⟨n, o, e⟩ := h (s.part p)
    exact ⟨n, o, (Table.get_set_same ..).trans e⟩
  · exact ⟨_, _, Table.get_set_other _ _ _ hp⟩

theorem State.countAccess_works (s : State) (c : Ctx) (va : Nat) (l : Leaf) : Works s (s.countAccess c va l) := by
  unfold State.countAccess
  extract_lets p tab base grp a w q cnt thr lg e v
  split
  · exact .refl s
  · split
    · exact s.writeHbm_works ..
    · split
      · split
        · exact (s.writeHbm_works ..).trans ((State.modPart_works _ _ _ fun p => ⟨p.nqtail + 1, p.nqovf, rfl⟩).trans (State.writeHbm_works ..))
        · exact (State.modPart_works s _ _ fun p => ⟨p.nqtail, _, rfl⟩).trans (State.writeHbm_works ..)
      · exact s.writeHbm_works ..

theorem State.noteMiss_works (s : State) (va c : Nat) : Works s (s.noteMiss va c) := by
  unfold State.noteMiss
  split
  · exact .of_eq ⟨_, _, _, _, _, _, _, _, _, _, _, _, _, _, rfl⟩
  · exact .refl s

/-! ### Transfers -/

theorem Xfer.count_works {s : State} (x : Xfer) (c : Ctx) (va : Nat) (l : Option Leaf) (h : Works s x.s) : Works s (x.count c va l).s := by
  cases l with
  | none => exact h
  | some l =>
    have counted : Works s (x.s.countAccess c va l) := h.trans (State.countAccess_works ..)
    simp only [Xfer.count]
    split
    · exact counted
    · exact h

theorem Xfer.read_works (e : Eng) (fuel va n : Nat) {s : State} (x : Xfer) (h : Works s x.s) :
    Works s (Xfer.read e fuel va n x).2.s := by
  induction fuel generalizing va n x with
  | zero => exact h
  | succ fuel ih =>
    unfold Xfer.read
    split
    · exact h
    · split
      · exact h.trans (State.noteMiss_works ..)
      · dsimp only
        split
        · exact (Xfer.count_works _ _ _ _ h).trans (State.noteRead_works ..)
        · exact ih _ _ _ ((Xfer.count_works _ _ _ _ h).trans (State.noteRead_works ..))

theorem Xfer.readAll_works (e : Eng) (va n : Nat) {s : State} (x : Xfer) (h : Works s x.s) : Works s (Xfer.readAll e va n x).2.s :=
  Xfer.read_works _ _ _ _ _ h

theorem Xfer.write_works (e : Eng) (u : EngUse) (fuel va : Nat) (bs : List Byte) {s : State} (x : Xfer) (h : Works s x.s) :
    Works s (Xfer.write e u fuel va bs x).s := by
  induction fuel generalizing va bs x with
  | zero => exact h
  | succ fuel ih =>
    unfold Xfer.write
    split
    · exact h
    · split
      · exact h.trans (State.noteMiss_works ..)
      · exact ih _ _ _ ((Xfer.count_works _ _ _ _ h).trans (State.writeAt_works ..))

theorem Xfer.writeAll_works (e : Eng) (u : EngUse) (va : Nat) (bs : List Byte) {s : State} (x : Xfer) (h : Works s x.s) :
    Works s (Xfer.writeAll e u va bs x).s := Xfer.write_works _ _ _ _ _ _ h

theorem Xfer.move_works (e : Eng) (src dst n : Nat) {s : State} (x : Xfer) (h : Works s x.s) : Works s (Xfer.move e src dst n x).s := by
  have hz : Works s (Xfer.writeAll e .write dst (Xfer.readAll e src n x).1 { (Xfer.readAll e src n x).2 with code := 0 }).s :=
    Xfer.writeAll_works _ _ _ _ _ (Xfer.readAll_works _ _ _ _ h)
  unfold Xfer.move
  dsimp only
  split <;> exact hz

theorem Xfer.rows_works (e : Eng) (src dst sstr dstr width fuel o n : Nat) {s : State} (x : Xfer) (h : Works s x.s) :
    Works s (Xfer.rows e src dst sstr dstr width fuel o n x).s := by
  induction fuel generalizing o n x with
  | zero => exact h
  | succ fuel ih =>
    unfold Xfer.rows
    dsimp only
    split
    · exact h
    · split
      · exact Xfer.move_works _ _ _ _ _ h
      · exact ih _ _ _ (Xfer.move_works _ _ _ _ _ h)

theorem Xfer.words_works (e : Eng) (va n : Nat) {s : State} (x : Xfer) (h : Works s x.s) : Works s (Xfer.words e va n x).2.s := by
  unfold Xfer.words
  dsimp only
  split <;> exact Xfer.readAll_works _ _ _ _ h

theorem Xfer.win_works (e : Eng) (fuel va : Nat) (bs : List Byte) (regs : List (Place × List Byte)) {s : State} (x : Xfer) (h : Works s x.s) :
    Works s (Xfer.win e fuel va bs regs x).2.s := by
  induction fuel generalizing va bs regs x with
  | zero => exact h
  | succ fuel ih =>
    unfold Xfer.win
    split
    · exact h
    · split
      · exact h.trans (State.noteMiss_works ..)
      · dsimp only
        split
        · exact ih _ _ _ _ (Xfer.count_works _ _ _ _ h)
        · exact ih _ _ _ _ ((Xfer.count_works _ _ _ _ h).trans (State.writeAt_works ..))

theorem Xfer.copyWin_works (e : Eng) (src dst n : Nat) {s : State} (x : Xfer) (h : Works s x.s) :
    Works s (Xfer.copyWin e src dst n x).1 := by
  have win := fun bs => Xfer.win_works e (n + 1) dst bs [] { (Xfer.readAll e src n x).2 with code := 0 } (Xfer.readAll_works e src n x h)
  unfold Xfer.copyWin
  dsimp only
  split
  · exact h
  · split
    · exact win _
    · split
      · exact win _
      · exact (win _).trans (.fold (fun s r => s.writeAt_works ..) ..)

theorem Xfer.walk_works (e : Eng) (v : View) (dst kvb blkb loff pos0 pb fuel i : Nat) (got : Option (Nat × Nat)) (n : Nat)
    {s : State} (x : Xfer) (h : Works s x.s) : Works s (Xfer.walk e v dst kvb blkb loff pos0 pb fuel i got n x).2.2.s := by
  induction fuel generalizing i got n x with
  | zero => exact h
  | succ fuel ih =>
    unfold Xfer.walk
    dsimp only
    split
    · split
      · exact Xfer.writeAll_works _ _ _ _ _ h
      · exact ih _ _ _ _ (Xfer.writeAll_works _ _ _ _ _ h)
    · split
      · exact h
      · split
        · exact h
        · split
          · exact Xfer.move_works _ _ _ _ _ h
          · exact ih _ _ _ _ (Xfer.move_works _ _ _ _ _ h)

theorem Xfer.gatherRows_works (e : Eng) (src dst idx rstr rb fuel o n : Nat) {s : State} (x : Xfer) (h : Works s x.s) :
    Works s (Xfer.gatherRows e src dst idx rstr rb fuel o n x).s := by
  induction fuel generalizing o n x with
  | zero => exact h
  | succ fuel ih =>
    have read := fun a l => Xfer.readAll_works e a l x h
    unfold Xfer.gatherRows
    dsimp only
    split
    · exact h
    · split
      · exact read _ _
      · split
        · exact Xfer.move_works _ _ _ _ _ (read _ _)
        · exact ih _ _ _ (Xfer.move_works _ _ _ _ _ (read _ _))

theorem Xfer.readRuns_works (e : Eng) (rs : List (Nat × Nat)) {s : State} (x : Xfer) (h : Works s x.s) :
    Works s (Xfer.readRuns e rs x).2.s := by
  induction rs generalizing x with
  | nil => exact h
  | cons r rs ih => exact ih _ (Xfer.readAll_works e r.1 r.2 { x with code := 0 } h)

theorem readColumn_works (e : Eng) (d : Tensor) (c : Nat) {s : State} (x : Xfer) (h : Works s x.s) : Works s (readColumn e d c x).2.s :=
  Xfer.readRuns_works _ _ _ h

theorem readEach_works (e : Eng) (d : Tensor) (n c : Nat) {s : State} (x : Xfer) (h : Works s x.s) : Works s (readEach e d n c x).2.s := by
  induction n generalizing c x with
  | zero => exact h
  | succ n ih =>
    have column := readColumn_works e d c x h
    unfold readEach
    dsimp only
    split
    · exact column
    · exact ih _ _ column

theorem readColumns_works (e : Eng) (d : Tensor) (n c : Nat) (s : State) : Works s (readColumns e d n c s).2 :=
  readEach_works e d n c ⟨s, [], 0, 0⟩ (.refl s)

theorem Xfer.drainRow_works (e : Eng) (f : Fmt) (bank m a n fuel c : Nat) {s : State} (x : Xfer) (h : Works s x.s) :
    Works s (Xfer.drainRow e f bank m a n fuel c x).s := by
  induction fuel generalizing c x with
  | zero => exact h
  | succ fuel ih =>
    unfold Xfer.drainRow
    dsimp only
    split
    · exact h.trans (State.noteMiss_works ..)
    · exact ih _ _ (Xfer.writeAll_works _ _ _ _ _ h)

theorem Xfer.drain_works (e : Eng) (f : Fmt) (bank : Nat) (d : Tensor) (row0 n fuel m : Nat) {s : State} (x : Xfer) (h : Works s x.s) :
    Works s (Xfer.drain e f bank d row0 n fuel m x).s := by
  induction fuel generalizing m x with
  | zero => exact h
  | succ fuel ih =>
    unfold Xfer.drain
    extract_lets y
    have hy : Works s y.s := Xfer.drainRow_works _ _ _ _ _ _ _ _ _ h
    split
    · exact hy
    · exact ih _ _ hy

theorem State.markRsrc_works (s : State) (c : Ctx) (on : Bool) (leaf : Nat × Leaf) : Works s (s.markRsrc c on leaf) := by
  unfold State.markRsrc
  dsimp only
  split
  · exact s.writeHbm_works ..
  · exact .refl s

theorem State.register_works (s : State) (c : Ctx) (ps : List (Nat × Leaf)) : Works s (s.register c ps) :=
  (Works.fold (fun s p => s.markRsrc_works c true p) ps s).trans (.of_eq ⟨_, _, _, _, _, _, _, _, _, _, _, _, _, _, rfl⟩)

theorem State.unregister_works (s : State) (c : Ctx) (frames : List Nat) (leaves : List (Nat × Leaf)) :
    Works s (s.unregister c frames leaves) := by
  unfold State.unregister
  extract_lets kept keptLeaf u
  refine Works.trans (t := u) (.of_eq ⟨_, _, _, _, _, _, _, _, _, _, _, _, _, _, rfl⟩) (.fold (fun s l => ?_) _ _)
  split
  · exact .refl s
  · exact s.markRsrc_works ..

/-! ### What stays -/

section Stays
variable {s t : State} (h : Works s t)
include h

theorem Works.ctxs : t.ctxs = s.ctxs := by
  obtain ⟨_, _, _, _, _, _, _, _, _, _, _, _, _, _, _, _, _, e⟩ := h.eq
  rw [e]

theorem Works.arrays : t.arrays = s.arrays := by
  obtain ⟨_, _, _, _, _, _, _, _, _, _, _, _, _, _, _, _, _, e⟩ := h.eq
  rw [e]

theorem Works.acc : t.acc = s.acc := by
  obtain ⟨_, _, _, _, _, _, _, _, _, _, _, _, _, _, _, _, _, e⟩ := h.eq
  rw [e]

theorem Works.cur : t.cur = s.cur := by
  obtain ⟨_, _, _, _, _, _, _, _, _, _, _, _, _, _, _, _, _, e⟩ := h.eq
  rw [e]

theorem Works.cycle : t.cycle = s.cycle := by
  obtain ⟨_, _, _, _, _, _, _, _, _, _, _, _, _, _, _, _, _, e⟩ := h.eq
  rw [e]

theorem Works.tenRuns (p ten : Nat) : t.tenRuns p ten = s.tenRuns p ten := by
  obtain ⟨_, _, e⟩ := h.part p
  rw [State.tenRuns, State.tenRuns, e]
  rfl

/-- The residency is still there, stale or not. -/
theorem Works.residency (p k : Nat) :
    (s.residency p k = none → t.residency p k = none) ∧ ∀ r, s.residency p k = some r → ∃ q, t.residency p k = some q ∧ r.Marked q := by
  obtain ⟨f, marks, e⟩ := h.res
  have same : ∀ r : Residency, (f r).part = r.part ∧ (f r).handle = r.handle := fun r => by
    obtain ⟨_, _, e, -⟩ := marks r
    rw [e]
    exact ⟨rfl, rfl⟩
  have found : t.residency p k = (s.residency p k).map f := by
    rw [State.residency, e, List.find?_map, State.residency]
    congr 2
    funext r
    simp [same r]
  rw [found]
  exact ⟨fun none => by rw [none]; rfl, fun r some => ⟨f r, by rw [some]; rfl, marks r⟩⟩

end Stays

end Sys2Proof.Machine
end

section
/-! PROOF. How fills of residencies end (O45). -/

namespace Sys2Proof.Machine

/-! ### Residencies -/

/-- A change of a residency that keeps its name. -/
theorem State.residency_modRes (s : State) (p k : Nat) (f : Residency → Residency)
    (keeps : ∀ r : Residency, (f r).part = r.part ∧ (f r).handle = r.handle) :
    (s.modRes p k f).residency p k = (s.residency p k).map f := by
  rw [State.residency, State.modRes, List.find?_map, State.residency]
  have pred : ((fun r : Residency => decide (r.part = p) && decide (r.handle = k)) ∘
      fun r => if (decide (r.part = p) && decide (r.handle = k)) = true then f r else r) = fun r => decide (r.part = p) && decide (r.handle = k) := by
    funext r
    dsimp only [Function.comp]
    split
    · simp [keeps r]
    · rfl
  rw [pred]
  cases found : s.residencies.find? fun r => decide (r.part = p) && decide (r.handle = k) with
  | none => rfl
  | some r =>
    have named := List.find?_some found
    simp only [Option.map_some, if_pos named]

theorem State.pump_idle {s : State} {p k : Nat} (h : ∀ r, s.residency p k = some r → r.reqs = []) : s.pump p k = s := by
  unfold State.pump
  cases found : s.residency p k with
  | none => rfl
  | some r => rw [Option.map_some, h r found]; rfl

theorem State.startCommand_none {s : State} {g : Nat} (h : s.array g = none) : s.startCommand g = s := by
  rw [State.startCommand, h]

theorem State.modMmuls_none {s : State} {p k : Nat} (h : s.array (resCluster k) = none) (f : ArrayCmd → ArrayCmd) : s.modMmuls p k f = s := by
  rw [State.modMmuls, h]

theorem State.residency_landX (s : State) (t r : Nat) (v : Word) (bad : Bool) (p k : Nat) :
    (s.landX t r v bad).residency p k = s.residency p k := by
  unfold State.landX
  split <;> rfl

/-- A token receives the status of a request. -/
theorem State.thr_landX {s : State} {t r : Nat} (alive : s.alive t = true) (nz : r ≠ 0) (v : Word) :
    ((s.landX t r v false).thr t).getX r = ⟨v, true, false, false⟩ := by
  rw [State.landX_eq_modThr _ _ _ alive nz, State.thr_modThr_same]
  exact (Thread.getX_setX _ r r _).trans (if_pos ⟨rfl, nz⟩)

/-! ### RESIDENCY_FILL_COMPLETE (R147, R150) -/

/-- A residency whose fill has failed. -/
def Residency.unfilled (st : Nat) (r : Residency) : Residency := { r with st := st, fill := none }

/-- A residency whose fill has ended. -/
def Residency.filled (f : Fill) (r : Residency) : Residency := { r with
  fill := none, src := f.src, srcTen := f.ten, gens := f.gens, leaves := f.leaves
  srctid := if f.req.op = 1 then f.req.tid else r.srctid
  pin := r.pin || f.req.op = 2
  stale := if f.req.op = 1 then f.raised else r.stale }

/-- A residency with its columns. -/
def Residency.loaded (cols : List (List Nat × List Nat)) (bad byte used : Nat) (r : Residency) : Residency := { r with
  st := if r.fill.isSome then 1 else 2, fill := r.fill.map fun f => { f with prior := 2 }
  wts := cols.map (·.1), scl := cols.map (·.2), bad := bad, badByte := byte, wasRes := false, used := used }

theorem State.residency_useRes (s : State) (p k : Nat) :
    (s.useRes p k).residency p k = (s.residency p k).map fun r => { r with used := s.useClock + 1 } :=
  State.residency_modRes { s with useClock := s.useClock + 1 } p k _ fun _ => ⟨rfl, rfl⟩

theorem State.residency_loadWeights (s : State) (p k : Nat) (cols : List (List Nat × List Nat)) :
    ∃ bad byte used, (s.loadWeights p k cols).residency p k = (s.residency p k).map (Residency.loaded cols bad byte used) := by
  unfold State.loadWeights
  extract_lets g hit byte u
  refine ⟨hit.getD 0, byte, u.useClock + 1, ?_⟩
  rw [State.residency_useRes]
  refine (congrArg (Option.map _) (State.residency_modRes u p k
    (fun r => r.loaded cols (hit.getD 0) byte r.used) fun _ => ⟨rfl, rfl⟩)).trans ?_
  exact Option.map_map ..

/-- A residency with no fill stays so under a mark. -/
theorem Residency.Marked.fill_none {r q : Residency} (h : r.Marked q) (none_ : r.fill = none) : q.fill = none := by
  obtain ⟨_, fl, rfl, hf⟩ := h
  rw [none_] at hf
  exact Option.map_eq_none_iff.1 hf

section Ends
variable {s : State} {g h : Nat} {r : Residency} {f : Fill} (at_ : s.resAt g h s.fillReady = some r)
include at_

theorem resAt_cluster : resCluster r.handle = g := by
  have holds := List.find?_some at_
  simp only [Bool.and_eq_true, decide_eq_true_eq] at holds
  exact holds.1.1

/-- What follows the token: no array has commands for the residency, and no request waits on it. -/
theorem fill_ends (none_ : s.array g = none) {u v : State} {q : Residency} (works : Works u v) (arrays : u.arrays = s.arrays) (res : u.residency r.part r.handle = some q)
    (waits : q.reqs = []) (f : Fill) (status : Word) :
    let t := v.landX f.req.t f.req.tok status false
    (∀ F, ((t.modMmuls r.part r.handle F).startCommand g).pump r.part r.handle = t) ∧
      ∃ x, t.residency r.part r.handle = some x ∧ q.Marked x := by
  intro t
  have cluster := resAt_cluster at_
  obtain ⟨x, found, marked⟩ := (works.residency r.part r.handle).2 _ res
  have arr : ∀ k, t.array k = s.array k := fun k =>
    congrArg (Table.find? · k) ((State.landX_arrays ..).trans (works.arrays.trans arrays))
  have res' : t.residency r.part r.handle = some x := (State.residency_landX ..).trans found
  refine ⟨fun F => ?_, x, res', marked⟩
  rw [State.modMmuls_none ((arr _).trans (cluster ▸ none_)), State.startCommand_none ((arr _).trans none_)]
  refine State.pump_idle fun r' found' => ?_
  rw [res'] at found'
  cases found'
  obtain ⟨_, _, rfl, -⟩ := marked
  exact waits

variable (named : s.residency r.part r.handle = some r) (fill : r.fill = some f) (idle : r.reqs = []) (none_ : s.array g = none)
include named fill idle none_

theorem fill_unreached (gone : s.source r.part f.ten (tensorOf f.src) = none) :
    ∃ t, exec (.residencyFillComplete g h) s = .next t ∧
      (t.residency r.part r.handle).map (fun x => (x.st, x.wts, x.src, x.fill.isSome)) = some (f.prior, r.wts, r.src, false) ∧
      (s.alive f.req.t = true → f.req.tok ≠ 0 → (t.thr f.req.t).getX f.req.tok = ⟨BitVec.ofNat 64 (2 ^ 63 + 7), true, false, false⟩) := by
  have res1 : (s.modRes r.part r.handle (Residency.unfilled f.prior)).residency r.part r.handle = some (r.unfilled f.prior) := by
    rw [State.residency_modRes (f := Residency.unfilled f.prior) (keeps := fun _ => ⟨rfl, rfl⟩), named]
    rfl
  have works := (s.modRes r.part r.handle (Residency.unfilled f.prior)).unregister_works r.eng.ctx (f.gens.map (·.1)) f.leaves
  obtain ⟨same, x, found, marked⟩ := fill_ends at_ none_ works rfl res1 idle f (resErr 7)
  refine ⟨_, ?_, ?_, fun alive nz => State.thr_landX (works.alive _ |>.trans alive) nz _⟩
  · show execResidencyFillComplete g h s = _
    rw [execResidencyFillComplete, at_]
    dsimp only
    rw [fill]
    dsimp only
    rw [gone]
    exact congrArg Host.Outcome.next (same _)
  · refine (congrArg (Option.map _) found).trans ?_
    rw [Option.map_some, marked.fill_none rfl]
    obtain ⟨_, _, rfl, -⟩ := marked
    rfl

theorem fill_reached (op : f.req.op = 1) (there : (s.source r.part f.ten (tensorOf f.src)).isSome = true)
    {cols : List (List Nat × List Nat)} {v : State}
    (reads : readColumns (r.engFor f.ten) (tensorOf f.src) (tensorOf f.src).dim1 0 s = (some cols, v)) :
    ∃ t, exec (.residencyFillComplete g h) s = .next t ∧
      (t.residency r.part r.handle).map (fun x => (x.st, x.wts, x.scl, x.src, x.srctid, x.fill.isSome)) =
        some (2, cols.map (·.1), cols.map (·.2), f.src, f.req.tid, false) ∧
      (s.alive f.req.t = true → f.req.tok ≠ 0 → (t.thr f.req.t).getX f.req.tok =
        ⟨BitVec.ofNat 64 (tensorOf f.src).sourceBytes, true, false, false⟩) := by
  have read : Works s v := by
    have w := readColumns_works (r.engFor f.ten) (tensorOf f.src) (tensorOf f.src).dim1 0 s
    rwa [reads] at w
  obtain ⟨q, resV, markedV⟩ := (read.residency r.part r.handle).2 _ named
  obtain ⟨bad, byte, used, loads⟩ := (v.modRes r.part r.handle (Residency.filled f)).residency_loadWeights r.part r.handle cols
  rw [State.residency_modRes (f := Residency.filled f) (keeps := fun _ => ⟨rfl, rfl⟩), resV] at loads
  have waits : q.reqs = [] := by
    obtain ⟨_, _, rfl, -⟩ := markedV
    exact idle
  generalize hu : (v.modRes r.part r.handle (Residency.filled f)).loadWeights r.part r.handle cols = u at loads
  have arrays : u.arrays = s.arrays := by
    rw [← hu]
    exact read.arrays
  have alive : ∀ k, u.alive k = s.alive k := by
    rw [← hu]
    exact read.alive
  have works := u.unregister_works r.eng.ctx (r.gens.map (·.1)) r.leaves
  obtain ⟨same, x, found, marked⟩ := fill_ends at_ none_ works arrays loads waits f (word (tensorOf f.src).sourceBytes)
  refine ⟨_, ?_, ?_, fun live nz => State.thr_landX (((works.alive _).trans (alive _)).trans live) nz _⟩
  · show execResidencyFillComplete g h s = _
    rw [execResidencyFillComplete, at_]
    dsimp only
    rw [fill]
    dsimp only
    rw [there, if_pos rfl, reads]
    dsimp only
    rw [if_pos op]
    subst hu
    exact congrArg Host.Outcome.next (same _)
  · refine (congrArg (Option.map _) found).trans ?_
    rw [Option.map_some, marked.fill_none rfl]
    obtain ⟨_, _, rfl, -⟩ := marked
    simp [Residency.loaded, Residency.filled, op]

end Ends

/-! ### Refills (R146, R322) -/

theorem State.refill_works {s : State} {r : Residency} {v : State} (h : s.refill r = (v, false)) : Works s v := by
  unfold State.refill at h
  dsimp only at h
  split at h
  · have read := readColumns_works (r.engFor r.srcTen) (tensorOf r.src) (tensorOf r.src).dim1 0 s
    split at h
    · next x failed =>
      rw [failed] at read
      exact (Prod.mk.inj h).1 ▸ read
    · exact absurd (Prod.mk.inj h).2 (by simp)
  · exact (Prod.mk.inj h).1 ▸ .refl s

/-- The array that refills for the command at its head. -/
theorem State.refillWanted_head {s : State} {g : Nat} {r : Residency} (h : s.refillWanted g = some r) :
    ∃ a c rest, s.array g = some a ∧ a.queue = c :: rest := by
  cases found : s.array g with
  | none =>
    rw [State.refillWanted, State.refillHead, found] at h
    exact absurd h (by simp)
  | some a =>
    cases queue : a.queue with
    | nil =>
      rw [State.refillWanted, State.refillHead, found, Option.bind_some, queue] at h
      exact absurd h (by simp)
    | cons c rest => exact ⟨a, c, rest, rfl, queue⟩

theorem State.abandonHead_spec {s : State} {g : Nat} {a : ArrayState} {c : ArrayCmd} {rest : List ArrayCmd} (found : s.array g = some a)
    (queue : a.queue = c :: rest) :
    ∃ ar, (s.abandonHead g).startCommand g = { s with arrays := ar } ∧
      ((Table.find? ar g).getD freshArray).queue = c.abandon s.cycle :: rest := by
  have head : s.abandonHead g = { s with arrays := Table.set s.arrays g { a with queue := c.abandon s.cycle :: rest } } := by
    rw [State.abandonHead, found]
    dsimp only
    rw [queue]
  obtain ⟨⟨ar, starts⟩, kept⟩ := State.startCommand_spec (s.abandonHead g) g
  refine ⟨ar, ?_, ?_⟩
  · rw [starts, head]
  · rw [starts] at kept
    refine kept.trans ?_
    rw [head, State.arr, State.array, Table.find_set_same]
    rfl

/-- Settles O45 from the ends of a fill and of a refill. -/
theorem fillsEnd : Obligations.FillsEnd := by
  unfold Obligations.FillsEnd
  refine ⟨fun s g h r f at_ named fill idle op none_ => ?_, fun s g h r wanted index => ⟨fun v done => ?_, fun v failed idle named => ?_⟩,
    fun s g h r at_ => ⟨fun v done => ?_, fun v failed => ?_⟩⟩
  · intro d
    exact ⟨fun cols v there reads => fill_reached at_ named fill idle none_ op there reads,
      fun gone => fill_unreached at_ named fill idle none_ gone⟩
  · have found : ((s.refillWanted g).filter fun r => r.handle % 512 = h % 512) = some r := by simp [wanted, index]
    show execAutofillRefillComplete g h s = _
    rw [execAutofillRefillComplete, found]
    dsimp only
    rw [done]
  · have found : ((s.refillWanted g).filter fun r => r.handle % 512 = h % 512) = some r := by simp [wanted, index]
    have run : exec (.autofillRefillComplete g h) s = .next (((v.abandonHead g).startCommand g).pump r.part r.handle) := by
      show execAutofillRefillComplete g h s = _
      rw [execAutofillRefillComplete, found]
      dsimp only
      rw [failed]
    have works := State.refill_works failed
    obtain ⟨a, c, rest, there, queue⟩ := State.refillWanted_head wanted
    have there' : v.array g = some a := (congrArg (Table.find? · g) works.arrays).trans there
    obtain ⟨ar, abandons, head⟩ := State.abandonHead_spec there' queue
    have waits : State.pump { v with arrays := ar } r.part r.handle = { v with arrays := ar } := by
      refine State.pump_idle fun r' found' => ?_
      obtain ⟨q, resV, _, _, hq, -⟩ := (works.residency r.part r.handle).2 _ named
      have same : some r' = some q := found'.symm.trans resV
      cases same
      rw [hq]
      exact idle
    refine ⟨_, run.trans (congrArg Host.Outcome.next ((congrArg (State.pump · r.part r.handle) abandons).trans waits)), ?_, ?_, rfl, rfl, rfl⟩
    · refine (congrArg (fun q => (q.map ArrayCmd.abandoned).head?) head).trans ?_
      rfl
    · refine (congrArg List.length head).trans ?_
      rw [State.arr, there]
      exact (congrArg List.length queue).symm
  · show execCanopyBackgroundRefill g h s = _
    rw [execCanopyBackgroundRefill, at_]
    dsimp only
    rw [done]
  · show execCanopyBackgroundRefill g h s = _
    rw [execCanopyBackgroundRefill, at_]
    dsimp only
    rw [failed]

end Sys2Proof.Machine
end

section
/-! PROOF. Tensor records, and the RES requests on a residency with no fill and no earlier request (O44). -/

namespace Sys2Proof.Machine

/-! ### Tensor records (R143, R144) -/

theorem Needs.marks_tidKey (n : Needs) (th : Thread) (tid : Nat) : tidKey (n.marks th).part (n.marks th).ten tid = tidKey th.part th.ten tid := by
  rw [Needs.marks_part, Needs.marks_ten]

section Tids
variable {s : State} {a b : Src} (h : Ready s { src := [a, b] })
include h

theorem tid_beyond (beyond : 4096 ≤ (s.rx a).toNat) (d : Nat) (i : Instr) (hi : i ∈ [Instr.tidset a b, .tidget a b, .tidpatch d a b]) :
    exec i s = .next (s.takeTrap 11 3 0) := by
  have traps : ∀ k, withTid (s.take { src := [a, b] }) a k = .trap 11 3 0 := fun k => by
    rw [withTid, State.rx_take, if_neg (Nat.not_lt.2 beyond)]
  simp only [List.mem_cons, List.not_mem_nil, or_false] at hi
  rcases hi with rfl | rfl | rfl
  · have run : exec (.tidset a b) s = execTidset a b s := rfl
    rw [run, execTidset, issue_ready h, traps]
    rfl
  · have run : exec (.tidget a b) s = execTidget a b s := rfl
    rw [run, execTidget, issue_ready h, traps]
    rfl
  · have run : exec (.tidpatch d a b) s = execTidpatch d a b s := rfl
    rw [run, execTidpatch, issue_ready h, traps]
    rfl

section Within
variable (within : (s.rx a).toNat < 4096) (perf : s.performed s.cur = true)
include within

omit h in
theorem withTid_within (k : Nat → Verdict) : withTid (s.take { src := [a, b] }) a k = k (s.rx a).toNat := by
  rw [withTid, State.rx_take, if_pos within]

theorem tidpatch_wide (wide : 2 ^ 32 ≤ (s.rx b).toNat) (d : Nat) : exec (.tidpatch d a b) s = .next (s.takeTrap 11 5 0) := by
  have run : exec (.tidpatch d a b) s = execTidpatch d a b s := rfl
  have high : bits (s.rx b) 63 32 ≠ 0 := by
    rw [field_high]
    omega
  rw [run, execTidpatch, issue_ready h, withTid_within within]
  dsimp only
  rw [State.rx_take, if_pos high]
  rfl

include perf

theorem tidset_loads {ps : List (Place × Nat)} {kind : List Nat} {l : Option Leaf} {bs : List Byte} {v : State}
    (target : (s.take { src := [a, b] }).wordTargets (s.take { src := [a, b] }).me .read false (s.rx b) 8 = .ok ps kind l)
    (reads : (s.take { src := [a, b] }).readParts (s.take { src := [a, b] }).me.ctx (joinParts ps) = (bs, false, v))
    (good : (tensorOf (wordsOf 8 bs)).bad = false) (fmt : (tensorOf (wordsOf 8 bs)).fmt ≠ 7) :
    let key := tidKey s.me.part s.me.ten (s.rx a).toNat
    exec (.tidset a b) s = .next ((State.countWords { v with tids := Table.set v.tids key (wordsOf 8 bs) } (s.take { src := [a, b] }).me.ctx
      (s.take { src := [a, b] }).me .read false (s.rx b) 8).advance.issued) := by
  intro key
  have run : exec (.tidset a b) s = execTidset a b s := rfl
  rw [run, execTidset, issue_ready h, withTid_within within, withWords, State.rx_take, target]
  dsimp only
  rw [afterHeld, if_pos ((State.performed_take s _).trans perf), reads]
  dsimp only
  rw [if_neg (by simp), if_neg (by simp [good, fmt])]
  have key' : tidKey (s.take { src := [a, b] }).me.part (s.take { src := [a, b] }).me.ten (s.rx a).toNat = key := by
    rw [State.me_take, Needs.marks_tidKey]
  rw [key']
  rfl

theorem tidget_stores {ps : List (Place × Nat)} {kind : List Nat} {l : Option Leaf}
    (target : (s.take { src := [a, b] }).wordTargets (s.take { src := [a, b] }).me .write true (s.rx b) 8 = .ok ps kind l) :
    exec (.tidget a b) s = .next ((((s.take { src := [a, b] }).writeParts (s.take { src := [a, b] }).me.ctx (joinParts ps)
      ((s.tidRec s.me.part s.me.ten (s.rx a).toNat).flatMap fun w => leBytes 8 w.toNat)).countWords (s.take { src := [a, b] }).me.ctx
        (s.take { src := [a, b] }).me .write true (s.rx b) 8).advance.issued) := by
  have run : exec (.tidget a b) s = execTidget a b s := rfl
  rw [run, execTidget, issue_ready h, withTid_within within, withWords, State.rx_take, target]
  dsimp only
  rw [afterHeld, if_pos ((State.performed_take s _).trans perf)]
  have rec_ : (s.take { src := [a, b] }).tidRec (s.take { src := [a, b] }).me.part (s.take { src := [a, b] }).me.ten (s.rx a).toNat =
      s.tidRec s.me.part s.me.ten (s.rx a).toNat := by
    rw [State.me_take, Needs.marks_part, Needs.marks_ten]
    rfl
  rw [rec_]
  rfl

theorem tidpatch_writes (narrow : (s.rx b).toNat < 2 ^ 32) (d : Nat) :
    let r := s.tidRec s.me.part s.me.ten (s.rx a).toNat
    let w := (r.getD (1 + d / 2) 0).toNat
    let key := tidKey s.me.part s.me.ten (s.rx a).toNat
    let w' := BitVec.ofNat 64 (if d % 2 = 0 then w / 2 ^ 32 * 2 ^ 32 + (s.rx b).toNat else (s.rx b).toNat * 2 ^ 32 + w % 2 ^ 32)
    exec (.tidpatch d a b) s = .next (State.after { s with tids := Table.set s.tids key (r.set (1 + d / 2) w') }
      { src := [a, b] } fun th => th.past s.insnLen) := by
  intro r w key w'
  have run : exec (.tidpatch d a b) s = execTidpatch d a b s := rfl
  have high : bits (s.rx b) 63 32 = 0 := by
    rw [field_high]
    omega
  have low : bits (s.rx b) 31 0 = (s.rx b).toNat := (bits_mod _ 31).trans (Nat.mod_eq_of_lt narrow)
  have part : (s.take { src := [a, b] }).me.part = s.me.part ∧ (s.take { src := [a, b] }).me.ten = s.me.ten := by
    rw [State.me_take, Needs.marks_part, Needs.marks_ten]
    exact ⟨rfl, rfl⟩
  have rec_ : (s.take { src := [a, b] }).tidRec s.me.part s.me.ten (s.rx a).toNat = r := rfl
  have value : (if d % 2 = 0 then word (bits (r.getD (1 + d / 2) 0) 63 32 * 2 ^ 32 + (s.rx b).toNat)
      else word ((s.rx b).toNat * 2 ^ 32 + bits (r.getD (1 + d / 2) 0) 31 0)) =
        w' := by
    rw [field_high, bits_mod]
    exact (apply_ite (BitVec.ofNat 64) _ _ _).symm
  rw [run, execTidpatch, issue_ready h, withTid_within within]
  dsimp only
  rw [State.rx_take, if_neg (not_not.2 high), afterHeld, if_pos ((State.performed_take s _).trans perf), low, part.1, part.2, rec_, value]
  refine (congrArg Host.Outcome.next (congrArg State.issued ?_)).trans (congrArg Host.Outcome.next
    (State.issued_setThr { s with tids := Table.set s.tids key (r.set (1 + d / 2) w') } _ h.alive))
  exact State.advance_take { s with tids := Table.set s.tids key (r.set (1 + d / 2) w') } _

end Within
end Tids

/-! ### RES members (R149-R151) -/

/-- What a RES member leaves of its thread when its token has been answered. -/
def Answers (s : State) (n : Needs) (tok : Nat) (v : Word) (t : State) : Prop :=
  (tok ≠ 0 → t.me.getX tok = ⟨v, true, false, false⟩) ∧ t.me.pc = s.me.pc + BitVec.ofNat 64 s.insnLen ∧
    ∀ q, q ≠ tok → t.me.getX q = (n.marks s.me).getX q

theorem State.landX_threads {s t : State} (h : t.threads = s.threads) (u r : Nat) (v : Word) (p : Bool) :
    (t.landX u r v p).threads = (s.landX u r v p).threads := by
  rw [State.landX, State.landX, State.alive, State.alive, h]
  split
  · rw [State.modThr, State.modThr, State.setThr, State.setThr, State.thr, State.thr, h]
  · exact h

theorem State.landX_cur (s : State) (u r : Nat) (v : Word) (p : Bool) : (s.landX u r v p).cur = s.cur ∧
    (s.landX u r v p).insnLen = s.insnLen := by
  unfold State.landX
  split <;> exact ⟨rfl, rfl⟩

theorem State.landX_residencies (s : State) (u r : Nat) (v : Word) (p : Bool) : (s.landX u r v p).residencies = s.residencies := by
  unfold State.landX
  split <;> rfl

section Res
variable {s : State} {tok : Nat} {b : Src} (h : Ready s { src := [b], dx := [tok] }) (perf : s.performed s.cur = true)
include h

/-- The request has answered its token. -/
theorem close_answered {X : State} {v : Word} (cur : X.cur = s.cur) (len : X.insnLen = s.insnLen)
    (threads : X.threads = (((s.take { src := [b], dx := [tok] }).deferX tok).landX s.cur tok v false).threads) (s0 : State) :
    ∃ t, Verdict.close (.go X.advance) s0 = .next t ∧ Answers s { src := [b], dx := [tok] } tok v t ∧ t.residencies = X.residencies ∧
      t.hbm = X.hbm ∧ t.pad = X.pad := by
  obtain ⟨u, ⟨token, pc, regs⟩, lands⟩ := deferX_landX h.alive { src := [b], dx := [tok] } tok v
  rw [lands] at threads
  have alive : X.alive X.cur = true := by
    rw [State.alive, threads, cur]
    exact (State.alive_setThr _ _ _ _ h.alive).trans h.alive
  have me : X.me = u := by
    rw [State.me, State.thr, threads, cur]
    exact State.thr_setThr_same ..
  refine ⟨_, congrArg Host.Outcome.next (State.issued_advance X alive), ⟨fun nz => ?_, ?_, fun q other => ?_⟩, rfl, rfl, rfl⟩
  · refine (congrArg (Thread.getX · tok) (State.thr_modThr_same ..)).trans ?_
    exact (congrArg (Thread.getX · tok) me).trans (token nz)
  · refine (congrArg Thread.pc (State.thr_modThr_same ..)).trans ?_
    show X.me.pc + word X.insnLen = _
    rw [me, len, pc]
    exact congrArg (· + BitVec.ofNat 64 s.insnLen) (Needs.marks_keeps Thread.pc (fun _ _ => by simp [Thread.emptyX]) _ _)
  · refine (congrArg (Thread.getX · q) (State.thr_modThr_same ..)).trans ?_
    exact (congrArg (Thread.getX · q) me).trans (regs q other)

include perf

theorem resMember_ready (f : State → Word → State) : resMember tok b f s =
    Verdict.close (.go (f ((s.take { src := [b], dx := [tok] }).deferX tok) (s.rx b)).advance) s := by
  rw [resMember, issue_ready h]
  rw [afterHeld, if_pos ((State.performed_take s _).trans perf), State.rx_take]

/-- A member that answers its token in a state that has the thread's registers of its issue. -/
theorem resMember_answers {f : State → Word → State} {Y : State} {v : Word}
    (acts : f ((s.take { src := [b], dx := [tok] }).deferX tok) (s.rx b) = Y.landX s.cur tok v false) (cur : Y.cur = s.cur) (len : Y.insnLen = s.insnLen)
    (threads : Y.threads = ((s.take { src := [b], dx := [tok] }).deferX tok).threads) :
    ∃ t, resMember tok b f s = .next t ∧ Answers s { src := [b], dx := [tok] } tok v t ∧ t.residencies = Y.residencies ∧
      t.hbm = Y.hbm ∧ t.pad = Y.pad := by
  obtain ⟨t, run, answers, res, hbm, pad⟩ := close_answered h (X := Y.landX s.cur tok v false) (v := v)
    ((State.landX_cur ..).1.trans cur) ((State.landX_cur ..).2.trans len) (State.landX_threads threads ..) s
  rw [State.landX_residencies] at res
  rw [State.landX_hbm] at hbm
  rw [State.landX_pad] at pad
  exact ⟨t, by rw [resMember_ready h perf, acts, run], answers, res, hbm, pad⟩

end Res

/-! ### RALLOC (R149, R150) -/

/-- Who the request of a user thread acts for, and its cluster. -/
structure ActsFor (u : State) (part ten sid : Nat) : Prop where
  user : u.me.isRoot = false
  part : u.me.part = part
  ten : u.me.ten = ten
  sid : u.me.sid = sid

theorem ActsFor.issued {s : State} (user : s.me.isRoot = false) (n : Needs) (tok : Nat) :
    ActsFor ((s.take n).deferX tok) s.me.part s.me.ten s.me.sid := by
  have keeps := fun {α : Type} (f : Thread → α) (hf : ∀ th x, f { th with x := x } = f th) =>
    (congrArg f (s.me_take_deferX n tok)).trans (Thread.deferX_keeps f hf n s.me tok)
  exact ⟨(keeps _ fun _ _ => rfl).trans user, keeps _ fun _ _ => rfl, keeps _ fun _ _ => rfl, keeps _ fun _ _ => rfl⟩

theorem ActsFor.resFor {u : State} {part ten sid : Nat} (h : ActsFor u part ten sid) : u.resFor = (part, ten) := by
  rw [State.resFor, h.user, h.part, h.ten]
  rfl

theorem State.room_free {u : State} {g part ten n : Nat} (free : n ≤ u.freePages g) : u.room g part ten n = some u := by
  unfold State.room
  cases u.residencies.length with
  | zero => rw [State.makeRoom, if_pos free]
  | succ k => rw [State.makeRoom, if_pos free]

/-- A residency as RALLOC makes it. -/
def Residency.fresh (handle part ten pages used : Nat) (pin auto : Bool) : Residency where
  handle := handle
  part := part
  ten := ten
  pages := pages
  st := 0
  pin := pin
  auto := auto
  stale := false
  srctid := 0
  src := []
  srcTen := ten
  gens := []
  leaves := []
  wts := []
  scl := []
  used := used
  fill := none
  reqs := []
  wasRes := false
  bad := 0
  badByte := 0

section Alloc
variable {u : State} {p ten sid : Nat} (h : ActsFor u p ten sid) (g n : Nat) (pin auto : Bool)
include h

theorem allocRes_count (count : n = 0 ∨ 3072 < n) : u.allocRes g n pin auto = (resErr 9, u) := by
  rw [State.allocRes, h.resFor]
  exact if_pos (by simpa using count)

variable {n} (pos : 0 < n) (le : n ≤ 3072)
include pos le

theorem allocRes_quota (quota : p = 0 ∨ Table.get (u.part p).canquota ten 0 < u.charged p ten g + n) :
    u.allocRes g n pin auto = (resErr 2, u) := by
  rw [State.allocRes, h.resFor]
  dsimp only
  rw [if_neg (by simp; omega), if_pos]
  rcases quota with rfl | low
  · simp
  · by_cases zero : p = 0
    · simp [zero]
    · simp [zero, low]

variable (nz : p ≠ 0) (quota : u.charged p ten g + n ≤ Table.get (u.part p).canquota ten 0)
include nz quota

theorem allocRes_index (full : ∀ i, i < 512 → (u.residency p (g * 512 + i)).isSome = true) :
    u.allocRes g n pin auto = (resErr 4, u) := by
  have none_ : ((List.range 512).find? fun i => (u.residency p (g * 512 + i)).isNone) = none :=
    List.find?_eq_none.2 fun i mem => by simpa [Option.isSome_iff_ne_none] using full i (List.mem_range.1 mem)
  rw [State.allocRes, h.resFor]
  dsimp only
  rw [if_neg (by simp; omega), if_neg (by simp [nz, quota]), none_]

theorem allocRes_fresh (free : n ≤ u.freePages g) {i : Nat} (lt : i < 512) (empty : u.residency p (g * 512 + i) = none)
    (lower : ∀ j, j < i → (u.residency p (g * 512 + j)).isSome = true) :
    u.allocRes g n pin auto = (word (g * 512 + i),
      { u with residencies := u.residencies ++ [.fresh (g * 512 + i) p ten n u.useClock pin auto] }) := by
  have found : ((List.range 512).find? fun i => (u.residency p (g * 512 + i)).isNone) = some i := by
    refine List.find?_range_eq_some.2 ⟨by simp [empty], List.mem_range.2 lt, fun j hj => ?_⟩
    simpa [Option.isSome_iff_ne_none] using lower j hj
  rw [State.allocRes, h.resFor]
  dsimp only
  rw [if_neg (by simp; omega), if_neg (by simp [nz, quota]), found]
  dsimp only
  rw [State.room_free free]
  rfl

end Alloc

/-! ### Requests that name a residency (R149-R151) -/

/-- The request that a RES member makes. -/
def ResReq.made (u : State) (part ten op tok : Nat) (w : Word) : ResReq :=
  ⟨op, u.cur, u.me.sid, tok, ten, bits w 27 16, if op = 1 then u.tidRec part ten (bits w 27 16) else []⟩

theorem State.answerRes_own {u : State} {q : ResReq} (own : q.t = u.cur) (v : Word) : u.answerRes q v = u.landX u.cur q.tok v false := by
  rw [State.answerRes, State.answerToken, if_pos own, own]

section Request
variable {u : State} {p ten sid : Nat} (h : ActsFor u p ten sid) (op tok : Nat) {w : Word}
include h

theorem requestRes_reserved (bad : 2 ^ 28 ≤ w.toNat) : u.requestRes op tok w = u.landX u.cur tok (resErr 8) false := by
  have high : bits w 63 28 ≠ 0 := by
    show w.toNat / 2 ^ 28 % 2 ^ 36 ≠ 0
    have := w.isLt
    omega
  rw [State.requestRes, h.resFor]
  dsimp only
  rw [if_pos (by simp [high])]
  exact State.answerRes_own rfl _

variable (low : bits w 63 28 = 0) (tid : op = 1 ∨ bits w 27 16 = 0)
include low tid

theorem requestRes_unnamed (none_ : u.residency p (bits w 15 0) = none) :
    u.requestRes op tok w = u.landX u.cur tok (resErr 1) false := by
  rw [State.requestRes, h.resFor]
  dsimp only
  rw [if_neg (by simp [low]; tauto), none_]
  exact State.answerRes_own rfl _

theorem requestRes_acts {r : Residency} (some_ : u.residency p (bits w 15 0) = some r) (here : op = 5 ∨ bits w 15 0 / 512 = sid / 128)
    (idle : r.fill = none) (alone : r.reqs = []) (not4 : op ≠ 4) :
    u.requestRes op tok w = (u.actRes r (.made u p ten op tok w)).getD u := by
  have filter : ((u.residency p (bits w 15 0)).filter fun _ => op = 5 || resCluster (bits w 15 0) = clusterOf u.me.sid) = some r := by
    rw [some_, h.sid]
    simp only [Option.filter_some]
    exact if_pos ((tells_or decide_eq_true_iff decide_eq_true_iff).2 here)
  rw [State.requestRes, h.resFor]
  dsimp only
  rw [if_neg (by simp [low]; tauto), filter]
  dsimp only
  rw [if_neg]
  · rfl
  · simp [Residency.queues, idle, alone, not4]

end Request

theorem State.residency_named {s : State} {p k : Nat} {r : Residency} (h : s.residency p k = some r) : r.part = p ∧ r.handle = k := by
  simpa using List.find?_some h

/-- RQUERY's word, field by field (R151). -/
theorem Residency.query_idle {r : Residency} (idle : r.fill = none) : r.query = BitVec.ofNat 64 (r.srctid * 2 ^ 32 +
    (if r.auto then 2 ^ 17 else 0) + (if r.pin then 2 ^ 16 else 0) + (if r.stale then 2 ^ 15 else 0) + r.st * 2 ^ 12 + r.pages % 3072) := by
  have tid : r.lastTid = r.srctid := by rw [Residency.lastTid, idle]
  have flag : ∀ (b : Bool) (n : Nat), b2n b * n = if b then n else 0 := fun b n => by cases b <;> simp [b2n]
  rw [Residency.query, tid, flag, flag, flag]
  rfl

theorem State.modRes_residencies (s : State) (p k : Nat) (f : Residency → Residency) :
    (s.modRes p k f).residencies = s.residencies.map fun x => if x.part = p ∧ x.handle = k then f x else x := by
  refine List.map_congr_left fun x _ => ?_
  simp only [Bool.and_eq_true, decide_eq_true_eq]

section Acts
variable {u : State} {p ten op tok : Nat} {w : Word} {r : Residency} (h : u.residency p (bits w 15 0) = some r)
include h

omit h in
theorem actRes_query (idle : r.fill = none) :
    u.actRes r (.made u p ten 5 tok w) = some (u.landX u.cur tok (BitVec.ofNat 64 (r.srctid * 2 ^ 32 + (if r.auto then 2 ^ 17 else 0) +
      (if r.pin then 2 ^ 16 else 0) + (if r.stale then 2 ^ 15 else 0) + r.st * 2 ^ 12 + r.pages % 3072)) false) := by
  rw [← Residency.query_idle idle]
  exact congrArg some (State.answerRes_own rfl _)

theorem actRes_pin (held : r.st ≠ 3) : u.actRes r (.made u p ten 2 tok w) =
    some ((u.modRes p (bits w 15 0) fun r => { r with pin := true }).landX u.cur tok 0 false) := by
  obtain ⟨part, handle⟩ := State.residency_named h
  refine (if_neg held).trans ?_
  rw [part, handle]
  exact congrArg some (State.answerRes_own rfl _)

theorem actRes_unpin : u.actRes r (.made u p ten 3 tok w) =
    some ((u.modRes p (bits w 15 0) fun r => { r with pin := false }).landX u.cur tok 0 false) := by
  obtain ⟨part, handle⟩ := State.residency_named h
  have run : u.actRes r (.made u p ten 3 tok w) =
      some ((u.modRes r.part r.handle fun r => { r with pin := false }).answerRes (.made u p ten 3 tok w) 0) := rfl
  rw [run, part, handle]
  exact congrArg some (State.answerRes_own rfl _)

end Acts

/-! ### RFILL (R149, R150) -/

/-- A record that RFILL takes. -/
structure Tensor.Source (d : Tensor) : Prop where
  ok : d.ok = true
  fmt : d.fmt = 5 ∨ d.fmt = 6
  dim2 : d.dim2 = 1
  dim3 : d.dim3 = 1

theorem tensorOf_ne_nil {l : List Word} (h : (tensorOf l).Source) : l ≠ [] := by
  rintro rfl
  exact h.fmt.elim (by decide) (by decide)

section Fill
variable {u : State} {p ten tok : Nat} {w : Word} {r : Residency} (idle : r.fill = none)
include idle

theorem actRes_source (bad : ¬ (tensorOf (u.tidRec p ten (bits w 27 16))).Source) :
    u.actRes r (.made u p ten 1 tok w) = some (u.landX u.cur tok (resErr 5) false) := by
  have wrong : (!(tensorOf (u.tidRec p ten (bits w 27 16))).ok || (decide ((tensorOf (u.tidRec p ten (bits w 27 16))).fmt ≠ 5) &&
      decide ((tensorOf (u.tidRec p ten (bits w 27 16))).fmt ≠ 6)) || decide ((tensorOf (u.tidRec p ten (bits w 27 16))).dim2 ≠ 1) ||
        decide ((tensorOf (u.tidRec p ten (bits w 27 16))).dim3 ≠ 1)) = true := by
    by_contra good
    simp only [Bool.or_eq_true, Bool.and_eq_true, Bool.not_eq_true', decide_eq_true_eq, not_or, Bool.not_eq_false, not_and, not_not] at good
    obtain ⟨⟨⟨ok, fmt⟩, dim2⟩, dim3⟩ := good
    exact bad ⟨ok, or_iff_not_imp_left.2 fmt, dim2, dim3⟩
  refine (if_neg (by simp [idle])).trans ((if_pos wrong).trans ?_)
  exact congrArg some (State.answerRes_own rfl _)

theorem actRes_fill (good : (tensorOf (u.tidRec p ten (bits w 27 16))).Source)
    (pages : pagesFor (tensorOf (u.tidRec p ten (bits w 27 16))).dim0 (tensorOf (u.tidRec p ten (bits w 27 16))).dim1 ≤ r.pages) :
    u.actRes r (.made u p ten 1 tok w) =
      some (u.startFill r.part r.handle (.made u p ten 1 tok w) ten (u.tidRec p ten (bits w 27 16))) := by
  refine (if_neg (by simp [idle])).trans ((if_neg ?_).trans (if_neg (Nat.not_lt.2 pages)))
  show ¬ (!(tensorOf (u.tidRec p ten (bits w 27 16))).ok || (decide ((tensorOf (u.tidRec p ten (bits w 27 16))).fmt ≠ 5) &&
      decide ((tensorOf (u.tidRec p ten (bits w 27 16))).fmt ≠ 6)) || decide ((tensorOf (u.tidRec p ten (bits w 27 16))).dim2 ≠ 1) ||
        decide ((tensorOf (u.tidRec p ten (bits w 27 16))).dim3 ≠ 1)) = true
  rcases good.fmt with fmt | fmt <;> simp [good.ok, good.dim2, good.dim3, fmt]

end Fill

theorem State.markRsrc_threads (s : State) (c : Ctx) (on : Bool) (leaf : Nat × Leaf) : (s.markRsrc c on leaf).threads = s.threads := by
  unfold State.markRsrc
  dsimp only
  split
  · obtain ⟨_, _, _, _, _, _, _, _, _, e⟩ := s.writeHbm_around c leaf.1 (leBytes 8 (if on then s.tableEntry leaf.1 + 64 else s.tableEntry leaf.1 - 64))
    rw [e]
  · rfl

theorem State.register_threads (s : State) (c : Ctx) (ps : List (Nat × Leaf)) : (s.register c ps).threads = s.threads :=
  foldl_keeps State.threads _ (fun s p => s.markRsrc_threads c true p) ps s

theorem State.unregister_threads (s : State) (c : Ctx) (frames : List Nat) (leaves : List (Nat × Leaf)) :
    (s.unregister c frames leaves).threads = s.threads := by
  unfold State.unregister
  extract_lets kept keptLeaf u
  refine foldl_keeps State.threads _ (fun s l => ?_) leaves u
  split
  · rfl
  · exact s.markRsrc_threads ..

/-- The source pages of a record do not depend on the threads. -/
theorem State.source_setThr (s : State) (k : Nat) (th : Thread) (part ten : Nat) (d : Tensor) :
    (s.setThr k th).source part ten d = s.source part ten d := by
  have walkFrom : ∀ (l : List (Nat × Nat)) keys region va table level,
      (s.setThr k th).walkFrom keys region va l table level = s.walkFrom keys region va l table level := by
    intro l
    induction l with
    | nil => exact fun _ _ _ _ _ => rfl
    | cons e l ih =>
      intro keys region va table level
      have entry : ∀ a, (s.setThr k th).tableEntry a = s.tableEntry a := fun _ => rfl
      simp only [State.walkFrom, entry, ih]
  have walk : ∀ va, (s.setThr k th).walk part ten va = s.walk part ten va := fun va => by
    simp only [State.walk, walkFrom]
    rfl
  have leaf : ∀ (l : List (Nat × Nat)) va table, (s.setThr k th).leafEntry va l table = s.leafEntry va l table := by
    intro l
    induction l with
    | nil => exact fun _ _ => rfl
    | cons e l ih =>
      intro va table
      have entry : ∀ a, (s.setThr k th).tableEntry a = s.tableEntry a := fun _ => rfl
      simp only [State.leafEntry, entry, ih]
  have pages : ∀ us, (s.setThr k th).sourcePages part ten us = s.sourcePages part ten us := by
    intro us
    induction us with
    | nil => rfl
    | cons u us ih =>
      have root : (s.setThr k th).rootTable part ten = s.rootTable part ten := rfl
      simp only [State.sourcePages, walk, leaf, ih, root]
  rw [State.source, State.source, pages]

/-- A residency that is filling for a request. -/
def Residency.filling (req : ResReq) (ten : Nat) (src : List Word) (gens : List (Nat × Nat)) (ps : List (Nat × Leaf))
    (r : Residency) : Residency :=
  { r with st := 1, fill := some ⟨req, r.st, ten, src, gens, ps, false⟩ }

theorem State.startFill_held {u : State} {p k ten : Nat} {r : Residency} (named : u.residency p k = some r) (held : r.st ≠ 3) (req : ResReq)
    {src : List Word} (ne : src ≠ []) (there : (u.source p ten (tensorOf src)).isSome = true) :
    ∃ v gens ps, (Works u v ∧ v.threads = u.threads) ∧ u.startFill p k req ten src = v.modRes p k (Residency.filling req ten src gens ps) := by
  obtain ⟨ps, found⟩ := Option.isSome_iff_exists.1 there
  obtain ⟨part, handle⟩ := State.residency_named named
  let gens := (ps.flatMap fun p => p.2.frames).map fun f => (f, Table.get (u.register (r.engFor ten).ctx ps).gens f 0)
  refine ⟨u.register (r.engFor ten).ctx ps, gens, ps, ⟨u.register_works _ _, u.register_threads _ _⟩, ?_⟩
  rw [State.startFill, named]
  dsimp only
  rw [if_neg held, if_neg ne, part, found]
  rfl

/-! ### RREVOKE (R150) -/

theorem State.abandonFill_idle {u : State} {p k : Nat} (h : ∀ r, u.residency p k = some r → r.fill = none) : u.abandonFill p k = u := by
  unfold State.abandonFill
  cases found : u.residency p k with
  | none => rfl
  | some r => rw [Option.bind_some, h r found]

theorem State.abandonRefill_idle {u : State} {p k : Nat} (free : u.resBusy p k = false) : u.abandonRefill p k = u := by
  have nothing : ((u.refillHead (resCluster k)).filter fun c => c.readsRes p k) = none := by
    by_contra some_
    obtain ⟨c, found⟩ := Option.ne_none_iff_exists'.1 some_
    obtain ⟨head, reads⟩ := Option.filter_eq_some_iff.1 found
    unfold State.refillHead at head
    cases there : u.array (resCluster k) with
    | none => simp [there] at head
    | some a =>
      cases queue : a.queue with
      | nil => simp [there, queue] at head
      | cons d rest =>
        simp only [there, Option.bind_some, queue, List.head?_cons] at head
        split at head
        · next stalled =>
          cases head
          have busy : u.resBusy p k = true := by
            rw [State.resBusy, State.resReader, there]
            refine List.any_eq_true.2 ⟨c, queue ▸ List.mem_cons_self, ?_⟩
            simp_all
          exact absurd busy (by simp [free])
        · exact absurd head (by simp)
  rw [State.abandonRefill, nothing]

/-- A residency with one more request that waits. -/
def Residency.asking (q : ResReq) (r : Residency) : Residency := { r with reqs := r.reqs ++ [q] }

/-- The residency is gone, its frames given up and the request answered. -/
def State.revoked (u : State) (r : Residency) (q : ResReq) : State :=
  ((State.unregister { u with residencies := u.residencies.filter fun x => x.part ≠ r.part || x.handle ≠ r.handle } r.eng.ctx
    (r.gens.map (·.1)) r.leaves).answerRes q (word r.pages)).startCommand (resCluster r.handle)

theorem actRes_revoke {u : State} {r : Residency} {q : ResReq} (op : q.op = 4) (free : u.resBusy r.part r.handle = false) (own : r.reqs = [q]) :
    u.actRes r q = some (u.revoked r q) := by
  have others : r.reqs.filter (· ≠ q) = [] := by simp [own]
  obtain ⟨_, _, _, _, _, _, _⟩ := q
  cases op
  refine (if_neg (by simp [free])).trans ?_
  rw [others]
  rfl

theorem revoked_spec {u : State} {r : Residency} {q : ResReq} (own : q.t = u.cur) :
    (u.revoked r q).cur = u.cur ∧ (u.revoked r q).insnLen = u.insnLen ∧
      (u.revoked r q).threads = (u.landX u.cur q.tok (word r.pages) false).threads ∧ (u.revoked r q).residency r.part r.handle = none := by
  generalize hv : State.unregister { u with residencies := u.residencies.filter fun x => x.part ≠ r.part || x.handle ≠ r.handle } r.eng.ctx
    (r.gens.map (·.1)) r.leaves = v
  have works : Works { u with residencies := u.residencies.filter fun x => x.part ≠ r.part || x.handle ≠ r.handle } v :=
    hv ▸ State.unregister_works ..
  have threads : v.threads = u.threads := by
    rw [← hv, State.unregister_threads]
  have none_ : v.residency r.part r.handle = none := by
    refine (works.residency r.part r.handle).1 ?_
    refine List.find?_eq_none.2 fun x mem named => ?_
    have kept := (List.mem_filter.1 mem).2
    simp only [Bool.and_eq_true, decide_eq_true_eq] at named
    simp [named.1, named.2] at kept
  have cur : v.cur = u.cur := works.cur
  have len : v.insnLen = u.insnLen := by
    obtain ⟨_, _, _, _, _, _, _, _, _, _, _, _, _, _, _, _, _, e⟩ := works.eq
    rw [e]
  obtain ⟨⟨ar, starts⟩, -⟩ := State.startCommand_spec (v.landX u.cur q.tok (word r.pages) false) (resCluster r.handle)
  have answer : v.answerRes q (word r.pages) = v.landX u.cur q.tok (word r.pages) false :=
    (State.answerRes_own (own.trans cur.symm) _).trans (by rw [cur])
  have whole : u.revoked r q = { v.landX u.cur q.tok (word r.pages) false with arrays := ar } := by
    rw [State.revoked, hv, answer, starts]
  rw [whole]
  exact ⟨(State.landX_cur ..).1.trans cur, (State.landX_cur ..).2.trans len, State.landX_threads threads ..,
    (State.residency_landX ..).trans none_⟩

section Revoke
variable {u : State} {p ten sid tok : Nat} {w : Word} {r : Residency} (h : ActsFor u p ten sid) (low : bits w 63 28 = 0) (tid : bits w 27 16 = 0)
  (named : u.residency p (bits w 15 0) = some r) (here : bits w 15 0 / 512 = sid / 128) (idle : r.fill = none) (alone : r.reqs = [])
  (free : u.resBusy p (bits w 15 0) = false)
include h low tid named here idle alone free

theorem requestRes_revokes : ∃ X : State, u.requestRes 4 tok w = X ∧ X.cur = u.cur ∧ X.insnLen = u.insnLen ∧
    X.threads = (u.landX u.cur tok (BitVec.ofNat 64 r.pages) false).threads ∧ X.residency p (bits w 15 0) = none := by
  obtain ⟨part, handle⟩ := State.residency_named named
  generalize hq : ResReq.made u p ten 4 tok w = q
  have own : q.t = u.cur := by rw [← hq]; rfl
  have op : q.op = 4 := by rw [← hq]; rfl
  have tok' : q.tok = tok := by rw [← hq]; rfl
  generalize hu : u.modRes p (bits w 15 0) (Residency.asking q) = u'
  have asks : u'.residency p (bits w 15 0) = some (r.asking q) := by
    rw [← hu, State.residency_modRes (f := Residency.asking q) (keeps := fun _ => ⟨rfl, rfl⟩), named]
    rfl
  have only : (r.asking q).reqs = [q] := by rw [Residency.asking, alone]; rfl
  have filter : ((u.residency p (bits w 15 0)).filter fun _ => (4 : Nat) = 5 || resCluster (bits w 15 0) = clusterOf u.me.sid) = some r := by
    rw [named, h.sid]
    simp only [Option.filter_some]
    exact if_pos ((tells_or decide_eq_true_iff decide_eq_true_iff).2 (.inr here))
  have queued : u.requestRes 4 tok w = u'.pump p (bits w 15 0) := by
    rw [State.requestRes, h.resFor]
    dsimp only
    rw [if_neg (by simp [low, tid]), filter]
    dsimp only
    rw [if_pos (by simp [Residency.queues]), if_pos rfl, State.abandonFill_idle (fun r' found => by rw [named] at found; cases found; exact idle),
      State.abandonRefill_idle free, ← hu, ← hq]
    rfl
  have free' : u'.resBusy (r.asking q).part (r.asking q).handle = false := by
    rw [← hu]
    show u.resBusy r.part r.handle = false
    rw [part, handle]
    exact free
  obtain ⟨cur, len, threads, none_⟩ := revoked_spec (u := u') (r := r.asking q) (own.trans (by rw [← hu]; rfl))
  have pumped : u'.pump p (bits w 15 0) = (u'.revoked (r.asking q) q).modRes p (bits w 15 0) fun r => { r with reqs := [] } := by
    rw [State.pump, asks, Option.map_some, Option.getD_some, only, List.length_singleton, State.pumpRes, asks]
    dsimp only
    rw [only]
    dsimp only
    rw [if_pos op, State.abandonFill_idle (fun r' found => by rw [asks] at found; cases found; exact idle), asks, Option.getD_some,
      actRes_revoke op free' only]
    rfl
  refine ⟨_, queued.trans pumped, cur.trans (by rw [← hu]; rfl), len.trans (by rw [← hu]; rfl), ?_, ?_⟩
  · refine threads.trans ?_
    rw [← hu, tok']
    exact State.landX_threads (s := u) (t := u.modRes p (bits w 15 0) (Residency.asking q)) rfl ..
  · have gone : (u'.revoked (r.asking q) q).residency p (bits w 15 0) = none := by
      have named' : (r.asking q).part = p ∧ (r.asking q).handle = bits w 15 0 := ⟨part, handle⟩
      rw [named'.1, named'.2] at none_
      exact none_
    refine (State.residency_modRes (f := fun r => { r with reqs := [] }) (keeps := fun _ => ⟨rfl, rfl⟩) ..).trans ?_
    rw [gone]
    rfl

end Revoke

/-- A pack that names a residency alone. -/
theorem bits_narrow {w : Word} (h : w.toNat < 2 ^ 16) : bits w 63 28 = 0 ∧ bits w 27 16 = 0 := by
  refine ⟨?_, ?_⟩
  · show w.toNat / 2 ^ 28 % 2 ^ 36 = 0
    omega
  · show w.toNat / 2 ^ 16 % 2 ^ 12 = 0
    omega

/-- Settles O44 from what each TID form does with its record and each RES request with its residency. -/
theorem tensorsAndResidencies : Obligations.TensorsAndResidencies := by
  unfold Obligations.TensorsAndResidencies
  refine ⟨fun s a b d h => ?tids, fun s tok b h perf user => ?res⟩
  case tids =>
    intro u tid key r
    exact ⟨fun beyond i hi => tid_beyond h beyond d i hi,
      fun within perf ps kind l bs v target reads good fmt => tidset_loads h within perf target reads good fmt,
      fun within perf ps kind l target => tidget_stores h within perf target,
      fun within wide => tidpatch_wide h within wide d, fun within narrow perf => tidpatch_writes h within perf narrow d⟩
  case res =>
    intro w g p k n gets answers err quota
    have acts := ActsFor.issued user { src := [b], dx := [tok] } tok
    have sid : clusterOf ((s.take { src := [b], dx := [tok] }).deferX tok).me.sid = g := by rw [acts.sid]; rfl
    let u := (s.take { src := [b], dx := [tok] }).deferX tok
    have requests : ∀ {i : Instr} {o : Nat} {v : Word}, exec i s = resMember tok b (fun s w => s.requestRes o tok w) s → ∀ Y : State,
        u.requestRes o tok w = Y.landX s.cur tok v false → Y.cur = s.cur → Y.insnLen = s.insnLen → Y.threads = u.threads →
          Y.hbm = s.hbm → Y.pad = s.pad → answers i v Y.residencies := by
      intro i o v run Y made cur len threads hbm pad
      obtain ⟨t, done, gets', res, hbm', pad'⟩ := resMember_answers h perf (f := fun s w => s.requestRes o tok w) made cur len threads
      exact ⟨t, run.trans done, gets', res, hbm'.trans hbm, pad'.trans pad⟩
    refine ⟨fun pin auto => ?alloc, fun i hi => ?bad, fun r named idle alone narrow => ?request⟩
    case alloc =>
      have run : exec (.ralloc pin auto tok b) s = resMember tok b (fun s w =>
        let (st, s) := s.allocRes (clusterOf s.me.sid) w.toNat pin auto
        s.landX s.cur tok st false) s := rfl
      have allocates : ∀ v Y, State.allocRes ((s.take { src := [b], dx := [tok] }).deferX tok) g n pin auto = (v, Y) → Y.cur = s.cur →
          Y.insnLen = s.insnLen → Y.threads = ((s.take { src := [b], dx := [tok] }).deferX tok).threads → Y.hbm = s.hbm → Y.pad = s.pad →
          answers (.ralloc pin auto tok b) v Y.residencies := by
        intro v Y alloc cur len threads hbm pad
        obtain ⟨t, done, gets', res, hbm', pad'⟩ := resMember_answers h perf (Y := Y) (v := v) (f := fun s w =>
          let (st, s) := s.allocRes (clusterOf s.me.sid) w.toNat pin auto
          s.landX s.cur tok st false) (by dsimp only; rw [sid, alloc]; dsimp only; rw [cur]) cur len threads
        exact ⟨t, run.trans done, gets', res, hbm'.trans hbm, pad'.trans pad⟩
      exact ⟨fun count => allocates _ ((s.take { src := [b], dx := [tok] }).deferX tok) (allocRes_count acts g _ pin auto count) rfl rfl rfl rfl rfl,
        fun pos le low => allocates _ ((s.take { src := [b], dx := [tok] }).deferX tok) (allocRes_quota acts g pin auto pos le low) rfl rfl rfl rfl rfl,
        fun pos le nz enough full => allocates _ ((s.take { src := [b], dx := [tok] }).deferX tok) (allocRes_index acts g pin auto pos le nz enough full) rfl rfl rfl rfl rfl,
        fun pos nz enough free i lt le empty lower =>
          allocates _ _ (allocRes_fresh acts g pin auto pos le nz enough free lt empty lower) rfl rfl rfl rfl rfl⟩
    case bad =>
      have op : ∃ o, exec i s = resMember tok b (fun s w => s.requestRes o tok w) s := by
        simp only [List.mem_cons, List.not_mem_nil, or_false] at hi
        rcases hi with rfl | rfl | rfl | rfl | rfl
        exacts [⟨1, rfl⟩, ⟨2, rfl⟩, ⟨3, rfl⟩, ⟨4, rfl⟩, ⟨5, rfl⟩]
      obtain ⟨o, run⟩ := op
      exact ⟨fun reserved => requests run u (requestRes_reserved acts o tok reserved) rfl rfl rfl rfl rfl,
        fun narrow none_ => requests run u (requestRes_unnamed acts o tok (bits_narrow narrow).1 (.inr (bits_narrow narrow).2) none_)
          rfl rfl rfl rfl rfl⟩
    case request =>
      have acted : ∀ {o : Nat} {X : State}, o ≠ 4 → (o = 5 ∨ k / 512 = g) → (o = 1 ∨ n < 2 ^ 16) →
          u.actRes r (.made u p s.me.ten o tok w) = some X → u.requestRes o tok w = X := by
        intro o X not4 here size act
        have low : bits w 63 28 = 0 := by
          show w.toNat / 2 ^ 28 % 2 ^ 36 = 0
          exact Nat.mod_eq_zero_of_dvd (by rw [Nat.div_eq_of_lt narrow]; exact Nat.dvd_zero _)
        refine (requestRes_acts acts o tok low (size.imp id fun lt => (bits_narrow lt).2) named here idle alone not4).trans ?_
        rw [act]
        rfl
      refine ⟨fun size => ?_, fun here size held => ?_, fun here size => ?_, fun here size free => ?_, ?_⟩
      · exact requests rfl u (acted (by decide) (.inl rfl) (.inr size) (actRes_query idle)) rfl rfl rfl rfl rfl
      · have done := requests (i := .rpin tok b) rfl (u.modRes p k fun r => { r with pin := true })
          (acted (by decide) (.inr here) (.inr size) (actRes_pin named held)) rfl rfl rfl rfl rfl
        rwa [State.modRes_residencies] at done
      · have done := requests (i := .runpin tok b) rfl (u.modRes p k fun r => { r with pin := false })
          (acted (by decide) (.inr here) (.inr size) (actRes_unpin named)) rfl rfl rfl rfl rfl
        rwa [State.modRes_residencies] at done
      · obtain ⟨X, made, cur, len, threads, none_⟩ := requestRes_revokes (tok := tok) acts (bits_narrow size).1 (bits_narrow size).2 named here
          idle alone free
        obtain ⟨t, closes, gets', res, -, -⟩ := close_answered h (X := X) cur len threads s
        have run : exec (.rrevoke tok b) s = .next t := by
          refine (resMember_ready h perf fun s w => s.requestRes 4 tok w).trans ?_
          rw [made, closes]
        refine ⟨t, run, gets', ?_⟩
        rw [State.residency, res]
        exact none_
      · intro tid d
        refine ⟨fun here bad => ?_, fun here ok fmt dim2 dim3 pages held there => ?_⟩
        · refine requests rfl u (acted (by decide) (.inr here) (.inl rfl) (actRes_source idle fun good => ?_)) rfl rfl rfl rfl rfl
          obtain ⟨ok, fmt, dim2, dim3⟩ := good
          rcases bad with bad | bad | bad | bad
          · exact absurd (ok.symm.trans bad) (by decide)
          · exact fmt.elim bad.1 bad.2
          · exact bad dim2
          · exact bad dim3
        · have good : d.Source := ⟨ok, fmt, dim2, dim3⟩
          have there' : (u.source p s.me.ten d).isSome = true := by
            rwa [show u.source p s.me.ten d = s.source p s.me.ten d from
              (State.source_setThr ..).trans (State.source_setThr s s.cur _ _ _ d)]
          obtain ⟨v, gens, ps, ⟨works, threads⟩, fills⟩ := State.startFill_held (u := u) named held (.made u p s.me.ten 1 tok w)
            (tensorOf_ne_nil good) there'
          obtain ⟨q, found, marked⟩ := (works.residency p k).2 _ named
          obtain ⟨part, handle⟩ := State.residency_named named
          generalize hX : v.modRes p k (Residency.filling (.made u p s.me.ten 1 tok w) s.me.ten (s.tidRec p s.me.ten tid) gens ps) = X
          have fill : X.residency p k = some (q.filling (.made u p s.me.ten 1 tok w) s.me.ten (s.tidRec p s.me.ten tid) gens ps) := by
            rw [← hX, State.residency_modRes (f := Residency.filling (.made u p s.me.ten 1 tok w) s.me.ten (s.tidRec p s.me.ten tid) gens ps)
              (keeps := fun _ => ⟨rfl, rfl⟩), found]
            rfl
          have cur : X.cur = s.cur := by
            rw [← hX]
            exact works.cur
          have len : X.insnLen = s.insnLen := by
            obtain ⟨_, _, _, _, _, _, _, _, _, _, _, _, _, _, _, _, _, e⟩ := works.eq
            rw [← hX, State.modRes, e]
            rfl
          have threads' : X.threads = u.threads := by rw [← hX]; exact threads
          have me : X.me = (Needs.marks { src := [b], dx := [tok] } s.me).deferX tok := by
            rw [State.me, State.thr, threads', cur]
            exact s.me_take_deferX _ _
          have live := State.alive_take h.alive { src := [b], dx := [tok] }
          have alive : X.alive X.cur = true := by
            rw [State.alive, threads', cur]
            exact (State.alive_modThr _ _ _ _ live).trans live
          have made : u.requestRes 1 tok w = X :=
            (acted (by decide) (.inr here) (.inl rfl) (actRes_fill idle good pages)).trans (by rw [part, handle, ← hX]; exact fills)
          have run : exec (.rfill tok b) s = .next X.advance.issued := by
            refine (resMember_ready h perf fun s w => s.requestRes 1 tok w).trans ?_
            rw [show State.requestRes _ 1 tok (s.rx b) = X from made]
            rfl
          have pc : (Needs.marks { src := [b], dx := [tok] } s.me).pc = s.me.pc :=
            Needs.marks_keeps Thread.pc (fun _ _ => by simp [Thread.emptyX]) _ _
          rw [State.issued_advance X alive] at run
          refine ⟨_, run, ?_, ?_, fun nz => ?_, ?_⟩
          · exact congrArg (Option.map Residency.st) fill
          · exact congrArg (fun x : Option Residency => (x.bind (·.fill)).map fun f => (f.src, f.ten, f.req.tok, f.req.t)) fill
          · have token : (X.me).getX tok = _ := (congrArg (Thread.getX · tok) me).trans
              ((Thread.getX_setX _ tok tok _).trans (if_pos ⟨rfl, nz⟩))
            have kept := congrArg (Thread.getX · tok) (State.thr_modThr_same X X.cur fun th =>
              { th.past X.insnLen with wait := none, answers := [] })
            exact ⟨(congrArg Reg.full kept).trans (congrArg Reg.full token), (congrArg Reg.pend kept).trans (congrArg Reg.pend token)⟩
          · refine (congrArg Thread.pc (State.thr_modThr_same ..)).trans ?_
            show X.me.pc + word X.insnLen = _
            rw [me, len]
            refine congrArg (· + BitVec.ofNat 64 s.insnLen) (Eq.trans ?_ pc)
            unfold Thread.deferX Thread.setX
            split <;> rfl

end Sys2Proof.Machine
end

section
/-! PROOF. Translation answers, invalidations and the answers to translation traps (O56). -/

namespace Sys2Proof.Machine

theorem State.cluster_modCluster (s : State) (k g : Nat) (f : Cluster → Cluster) :
    (s.modCluster k f).cluster g = if g = k then f (s.cluster k) else s.cluster g := by
  split
  · next h =>
    subst h
    exact Table.get_set_same ..
  · next h => exact Table.get_set_other _ _ _ h

/-! ### What a walk logs (R351) -/

/-- What the translation service looks at in a cluster. -/
def Cluster.service (c : Cluster) : List TlbEntry × List Miss × List Requester := (c.tlb, c.misses, c.admitted)

theorem State.logError_clusters (s : State) (c : Ctx) (ue inj : Bool) (u a : Nat) :
    ∃ x : Cluster, (s.logError c ue inj u a).clusters = Table.set s.clusters c.g x ∧ ∃ el ec, x = { s.cluster c.g with elog := el, ecnt := ec } := by
  unfold State.logError State.countStack
  dsimp only
  split <;> split <;> split <;> exact ⟨_, rfl, _, _, rfl⟩

theorem State.logError_service (s : State) (c : Ctx) (ue inj : Bool) (u a g : Nat) :
    ((s.logError c ue inj u a).cluster g).service = (s.cluster g).service := by
  obtain ⟨x, logs, _, _, hx⟩ := s.logError_clusters c ue inj u a
  have at_ : (s.logError c ue inj u a).cluster g = if g = c.g then x else s.cluster g := by
    rw [State.cluster, logs]
    exact State.cluster_modCluster s c.g g fun _ => x
  rw [at_]
  split
  · next h =>
    rw [hx, h]
    rfl
  · rfl

theorem State.noteWalk_spec (s : State) (g : Nat) (m : Miss) :
    Around s (s.noteWalk g m) ∧ ∀ k, ((s.noteWalk g m).cluster k).service = (s.cluster k).service := by
  refine ⟨Around.fold (fun s a => s.noteRead_around ..) _ s, fun k => ?_⟩
  refine foldl_keeps (fun s : State => (s.cluster k).service) _ (fun s a => ?_) _ s
  refine (foldl_keeps (fun s : State => (s.cluster k).service) _ (fun s e => ?_) _ _).trans
    (foldl_keeps (fun s : State => (s.cluster k).service) _ (fun s e => s.logError_service ..) _ s)
  unfold State.logCache
  split <;> exact s.logError_service ..

/-! ### TRANSLATION_ANSWER (R331) -/

/-- Every one of the waiters is a thread. -/
def AllThreads (l : List Requester) : Prop := ∀ w ∈ l, ∃ x, w = .thread x

/-- Threads that hear an answer. -/
structure Told (a : Answer) (l : List Requester) (s t : State) : Prop where
  eq : ∃ th, t = { s with threads := th }
  alive : ∀ x, t.alive x = s.alive x
  saved : ∀ x, (t.thr x).saved = (s.thr x).saved
  keeps : ∀ x, a ∈ (s.thr x).answers → a ∈ (t.thr x).answers
  hears : ∀ x, .thread x ∈ l → s.alive x = true → (s.thr x).saved = false → a ∈ (t.thr x).answers

theorem Thread.mem_hear (th : Thread) (a : Answer) : a ∈ (th.hear a).answers := List.mem_append_right _ (List.mem_singleton.2 rfl)

theorem State.tell_told (s : State) (a : Answer) (x : Nat) : Told a [.thread x] s (s.tell a (.thread x)) := by
  have run : s.tell a (.thread x) = if (s.alive x && !(s.thr x).saved) = true then s.modThr x (·.hear a) else s := rfl
  rw [run]
  split
  · next h =>
    simp only [Bool.and_eq_true, Bool.not_eq_true'] at h
    have thr : ∀ y, (s.modThr x (·.hear a)).thr y = if y = x then (s.thr x).hear a else s.thr y := fun y => by
      split
      · next e => rw [e]; exact State.thr_modThr_same ..
      · next e => exact State.thr_modThr_other _ _ e
    refine ⟨⟨_, rfl⟩, fun y => State.alive_modThr _ _ _ _ h.1, fun y => ?_, fun y mem => ?_, fun y mem _ _ => ?_⟩
    · rw [thr]
      split
      · next e => rw [e]; rfl
      · rfl
    · rw [thr]
      split
      · exact Thread.mem_hear ..
      · exact mem
    · have e : y = x := by simpa using mem
      rw [thr, if_pos e]
      exact Thread.mem_hear ..
  · next h =>
    refine ⟨⟨_, rfl⟩, fun _ => rfl, fun _ => rfl, fun _ m => m, fun y mem alive saved => ?_⟩
    have e : y = x := by simpa using mem
    subst e
    simp [alive, saved] at h

theorem State.tellAll_told {l : List Requester} (h : AllThreads l) (s : State) (a : Answer) :
    Told a l s (l.foldl (fun s w => s.tell a w) s) := by
  induction l generalizing s with
  | nil => exact ⟨⟨_, rfl⟩, fun _ => rfl, fun _ => rfl, fun _ m => m, fun _ m => absurd m (by simp)⟩
  | cons w l ih =>
    obtain ⟨x, rfl⟩ := h w (.head _)
    have first := s.tell_told a x
    have rest := ih (fun w m => h w (.tail _ m)) (s.tell a (.thread x))
    obtain ⟨_, e⟩ := first.eq
    obtain ⟨_, e'⟩ := rest.eq
    refine ⟨⟨_, e'.trans (by rw [e])⟩, fun y => (rest.alive y).trans (first.alive y), fun y => (rest.saved y).trans (first.saved y),
      fun y m => rest.keeps y (first.keeps y m), fun y m alive saved => ?_⟩
    rcases List.mem_cons.1 m with eq | m
    · exact rest.keeps y (first.hears y (by simp [eq]) alive saved)
    · exact rest.hears y m ((first.alive y).trans alive) ((first.saved y).trans saved)

theorem State.admitNext_threads {s : State} {g : Nat} (h : AllThreads (s.cluster g).admitted) : s.admitNext g = s := by
  unfold State.admitNext
  generalize (s.cluster g).admitted = l at h
  induction l with
  | nil => rfl
  | cons w l ih =>
    obtain ⟨x, rfl⟩ := h w (.head _)
    exact ih fun w m => h w (.tail _ m)

section Serve
variable {s : State} {g : Nat} {m : Miss} {rest : List Miss} (queue : (s.cluster g).misses = m :: rest)
include queue

theorem translationAnswer_error {c : Nat} (walk : s.walk m.part m.ten (m.page * 65536) = .error c) :
    exec (.translationAnswer g) s = .next ((((s.noteWalk g m).modCluster g fun cl => { cl with misses := rest }).tellWaiters m
      ⟨m.page, c, noLeaf⟩).admitNext g) := by
  have run : exec (.translationAnswer g) s = execTranslationAnswer g s := rfl
  rw [run, execTranslationAnswer, queue]
  dsimp only
  rw [walk]

theorem translationAnswer_ok {l : Leaf} (walk : s.walk m.part m.ten (m.page * 65536) = .ok l) :
    exec (.translationAnswer g) s = .next (((s.noteWalk g m).fillTlbs g m l).admitNext g) := by
  have run : exec (.translationAnswer g) s = execTranslationAnswer g s := rfl
  rw [run, execTranslationAnswer, queue]
  dsimp only
  rw [walk]

omit queue in
/-- A walk that fails: every waiting thread hears the failure. -/
theorem translationAnswer_fails (admitted : AllThreads (s.cluster g).admitted) (waiters : AllThreads m.waiters) (a : Answer) :
    let t := (((s.noteWalk g m).modCluster g fun cl => { cl with misses := rest }).tellWaiters m a).admitNext g
    (t.cluster g).misses = rest ∧ (t.cluster g).tlb = (s.cluster g).tlb ∧
      (∀ x, .thread x ∈ m.waiters → s.alive x = true → (s.thr x).saved = false → a ∈ (t.thr x).answers) ∧ t.hbm = s.hbm ∧ t.pad = s.pad := by
  obtain ⟨around, service⟩ := s.noteWalk_spec g m
  have same := service g
  generalize s.noteWalk g m = u at around same ⊢
  have kept : AllThreads (u.cluster g).admitted := by
    rw [show (u.cluster g).admitted = (s.cluster g).admitted from congrArg (·.2.2) same]
    exact admitted
  obtain ⟨hbm, -, -, pad⟩ := around.memories
  have threads : u.threads = s.threads := by
    obtain ⟨_, _, _, _, _, _, _, _, _, e⟩ := around
    rw [e]
  have told : Told a m.waiters _ ((u.modCluster g fun cl => { cl with misses := rest }).tellWaiters m a) := State.tellAll_told waiters _ a
  generalize (u.modCluster g fun cl => { cl with misses := rest }).tellWaiters m a = v at told ⊢
  obtain ⟨th, e⟩ := told.eq
  have cluster : v.cluster g = { u.cluster g with misses := rest } := by
    rw [e]
    exact (State.cluster_modCluster u g g fun cl => { cl with misses := rest }).trans (if_pos rfl)
  rw [State.admitNext_threads (by rw [cluster]; exact kept)]
  refine ⟨congrArg Cluster.misses cluster, (congrArg Cluster.tlb cluster).trans (congrArg Prod.fst same), fun x mem alive saved => ?_,
    (congrArg State.hbm e).trans hbm, (congrArg State.pad e).trans pad⟩
  refine told.hears x mem ?_ ?_
  · show u.alive x = true
    rw [State.alive, threads]
    exact alive
  · show (u.thr x).saved = false
    rw [State.thr, threads]
    exact saved

end Serve

/-- Beside the threads, a walk that succeeds reaches the TLBs of cores. -/
def Reaches (s t : State) : Prop := ∃ co th, t = { s with cores := co, threads := th }

theorem Reaches.refl (s : State) : Reaches s s := ⟨_, _, rfl⟩

theorem Reaches.trans {s t u : State} (h : Reaches s t) (k : Reaches t u) : Reaches s u := by
  obtain ⟨_, _, rfl⟩ := h
  obtain ⟨_, _, rfl⟩ := k
  exact ⟨_, _, rfl⟩

theorem Reaches.fold {β : Type} {f : State → β → State} {l : List β} (h : ∀ b ∈ l, ∀ s, Reaches s (f s b)) (s : State) :
    Reaches s (l.foldl f s) := by
  induction l generalizing s with
  | nil => exact .refl s
  | cons b l ih => exact (h b (.head _) s).trans (ih (fun c m => h c (.tail _ m)) _)

/-- A cluster whose TLB has received an entry, and that has served the entries that it covers. -/
def Cluster.filled (e : TlbEntry) (covered : List Miss) (cl : Cluster) : Cluster :=
  { cl with tlb := tlbAdd Config.clusterTlbEntries cl.tlb e, misses := cl.misses.filter fun q => !covered.contains q }

/-- The TLB of a waiting thread's core receives an entry. -/
def State.fillCore (e : TlbEntry) (s : State) : Requester → State
  | .thread t =>
    if s.alive t then s.modCore (coreOf (s.thr t).sid) fun c => { c with tlb := tlbAdd Config.coreTlbEntries c.tlb e } else s
  | .engine _ => s

theorem State.fillCore_reaches (e : TlbEntry) (s : State) (w : Requester) : Reaches s (s.fillCore e w) := by
  cases w with
  | thread t =>
    unfold State.fillCore
    dsimp only
    split
    · exact ⟨_, _, rfl⟩
    · exact .refl s
  | engine k => exact .refl s

theorem State.fillTlbs_reaches (u : State) (g : Nat) (m : Miss) (l : Leaf) (threads : ∀ q ∈ (u.cluster g).misses, AllThreads q.waiters) :
    let covered := (u.cluster g).misses.filter fun q => q.part = m.part && q.ten = m.ten && l.covers (q.page * 65536)
    Reaches (u.modCluster g (Cluster.filled ⟨m.part, m.ten, l⟩ covered)) (u.fillTlbs g m l) := by
  intro covered
  refine Reaches.fold (fun q mem s => ?_) _
  have all := threads q (List.mem_filter.1 mem).1
  refine Reaches.trans (t := q.waiters.foldl (State.fillCore ⟨m.part, m.ten, l⟩) s)
    (Reaches.fold (fun w _ s => s.fillCore_reaches _ w) s) ?_
  obtain ⟨_, e⟩ := (State.tellAll_told all (q.waiters.foldl (State.fillCore ⟨m.part, m.ten, l⟩) s) ⟨q.page, 0, l⟩).eq
  exact ⟨_, _, e⟩

theorem mem_tlbAdd (n : Nat) (tlb : List TlbEntry) (e : TlbEntry) : e ∈ tlbAdd n tlb e := List.mem_append_right _ (List.mem_singleton.2 rfl)

section Found
variable {s : State} {g : Nat} {m : Miss} {rest : List Miss} (queue : (s.cluster g).misses = m :: rest)
include queue

/-- A walk that succeeds: the cluster's TLB holds the leaf, and the miss is served. -/
theorem translationAnswer_finds {l : Leaf} (covers : l.covers (m.page * 65536) = true)
    (admitted : AllThreads (s.cluster g).admitted) (waiters : ∀ q ∈ (s.cluster g).misses, AllThreads q.waiters) :
    let t := ((s.noteWalk g m).fillTlbs g m l).admitNext g
    ⟨m.part, m.ten, l⟩ ∈ (t.cluster g).tlb ∧ m ∉ (t.cluster g).misses ∧ t.hbm = s.hbm ∧ t.pad = s.pad := by
  obtain ⟨around, service⟩ := s.noteWalk_spec g m
  have same := service g
  generalize s.noteWalk g m = u at around same ⊢
  have kept : AllThreads (u.cluster g).admitted := by
    rw [show (u.cluster g).admitted = (s.cluster g).admitted from congrArg (·.2.2) same]
    exact admitted
  obtain ⟨hbm, -, -, pad⟩ := around.memories
  have misses : (u.cluster g).misses = (s.cluster g).misses := congrArg (·.2.1) same
  obtain ⟨_, _, fills⟩ := u.fillTlbs_reaches g m l (by rwa [misses])
  generalize u.fillTlbs g m l = v at fills ⊢
  have cluster := (congrArg (State.cluster · g) fills).trans ((State.cluster_modCluster u g g
    (Cluster.filled ⟨m.part, m.ten, l⟩ _)).trans (if_pos rfl))
  rw [State.admitNext_threads (by rw [cluster]; exact kept)]
  dsimp only
  rw [cluster]
  refine ⟨mem_tlbAdd .., fun mem => ?_, (congrArg State.hbm fills).trans hbm, (congrArg State.pad fills).trans pad⟩
  have covered : m ∈ (u.cluster g).misses.filter fun q => q.part = m.part && q.ten = m.ten && l.covers (q.page * 65536) :=
    List.mem_filter.2 ⟨by rw [misses, queue]; exact .head _, by simp [covers]⟩
  have left := (List.mem_filter.1 mem).2
  rw [Bool.not_eq_true', ← Bool.not_eq_true] at left
  exact left (List.contains_iff_mem.2 covered)

end Found

/-! ### Invalidation (R333) -/

theorem State.raises_eq (s : State) (l : List Nat) : ∃ g r, l.foldl State.raise s = { s with gens := g, residencies := r } := by
  induction l generalizing s with
  | nil => exact ⟨_, _, rfl⟩
  | cons f l ih =>
    obtain ⟨_, _, e⟩ := s.raise_eq f
    obtain ⟨_, _, e'⟩ := ih (s.raise f)
    exact ⟨_, _, e'.trans (by rw [e])⟩

/-- An entry that an invalidation leaves is not one that it covers. -/
theorem Inval.sweep_spec {i : Inval} {p : Nat} {tlb : List TlbEntry} {e : TlbEntry} (h : e ∈ i.sweep p tlb) :
    ¬ (e.part = p ∧ e.ten = i.ten ∧ i.covers e.leaf = true) := by
  have kept := (List.mem_filter.1 h).2
  rintro ⟨part, ten, covers⟩
  simp [part, ten, covers] at kept

theorem invalidation_completes {s : State} {p : Nat} {i : Inval} {rest : List Inval} (queue : (s.part p).invals = i :: rest)
    (drained : s.drained p i.ten = true) : ∃ gens res ths cx,
    exec (.invalidationComplete p) s = .next (({ s with
      gens := gens, residencies := res, threads := ths, ctxs := cx
      cores := Table.mapVals s.cores fun c => { c with tlb := i.sweep p c.tlb }
      clusters := Table.mapVals s.clusters fun c => { c with tlb := i.sweep p c.tlb } } : State).modPart p
        fun q => { q with invals := rest, xinvDone := q.xinvDone + 1 }) := by
  have run : exec (.invalidationComplete p) s = execInvalidationComplete p s := rfl
  rw [run, execInvalidationComplete, queue]
  dsimp only
  rw [if_neg (by simp [drained])]
  generalize List.eraseDups (α := Nat) _ = frames
  obtain ⟨_, _, raises⟩ := s.raises_eq frames
  rw [raises]
  exact ⟨_, _, _, _, rfl⟩

theorem invalidation_spec {s : State} {p : Nat} {i : Inval} {rest : List Inval} (queue : (s.part p).invals = i :: rest)
    (drained : s.drained p i.ten = true) :
    ∃ t, exec (.invalidationComplete p) s = .next t ∧ (t.part p).invals = rest ∧
      (t.part p).xinvDone = (s.part p).xinvDone + 1 ∧ t.hbm = s.hbm ∧ t.pad = s.pad ∧
      (∀ k e, e ∈ (t.core k).tlb → ¬ (e.part = p ∧ e.ten = i.ten ∧ i.covers e.leaf = true)) ∧
      ∀ g e, e ∈ (t.cluster g).tlb → ¬ (e.part = p ∧ e.ten = i.ten ∧ i.covers e.leaf = true) := by
  obtain ⟨_, _, _, _, run⟩ := invalidation_completes queue drained
  refine ⟨_, run, congrArg Part.invals (Table.get_set_same ..), congrArg Part.xinvDone (Table.get_set_same ..), rfl, rfl,
    fun k e mem => ?_, fun g e mem => ?_⟩
  · have mem' : e ∈ (((Table.find? (Table.mapVals s.cores fun c => { c with tlb := i.sweep p c.tlb }) k).getD freshCore)).tlb := mem
    rw [Table.find_mapVals] at mem'
    cases found : Table.find? s.cores k with
    | none =>
      rw [found] at mem'
      exact absurd mem' (by simp [freshCore])
    | some c =>
      rw [found] at mem'
      exact Inval.sweep_spec mem'
  · have mem' : e ∈ (((Table.find? (Table.mapVals s.clusters fun c => { c with tlb := i.sweep p c.tlb }) g).getD freshCluster)).tlb := mem
    rw [Table.find_mapVals] at mem'
    cases found : Table.find? s.clusters g with
    | none =>
      rw [found] at mem'
      exact absurd mem' (by simp [freshCluster])
    | some c =>
      rw [found] at mem'
      exact Inval.sweep_spec mem'

/-! ### Answers to a translation trap (R334, R345) -/

theorem State.tryPop_none {s : State} {id : Nat} (h : Table.find? s.pops id = none) : s.tryPop id = s := by
  rw [State.tryPop, h]

/-- A thread of no population that holds nothing back is taken out of the threads and slots. -/
theorem State.endThread_orphan {s : State} (q : Quiet s) {t : Nat} (hg : (s.thr t).groups = [])
    (hp : Table.find? s.pops (s.thr t).pop = none) : ∃ th bk co cl ar, s.endThread t = { s with
      threads := Table.erase (Table.set s.threads t th) t, slots := s.slots.filter fun e => e.2 ≠ t, banks := bk, cores := co
      clusters := cl, arrays := ar } := by
  have held := q.heldOps t
  obtain ⟨ar, hl⟩ := State.dropLease_eq (({ s with banks := Table.mapVals s.banks fun rs => rs.filter fun r => r.t ≠ t } :
    State).modThr t fun th => { th with heldOps := [] }) t
  unfold State.endThread
  simp only [held, hg, List.filter_nil, List.foldl_nil]
  rw [hl]
  simp only [State.modCore_pops, State.modThr_pops, hp]
  rw [State.tryPop_none ?pop, State.settle_quiet _ ?banks ?held]
  case pop => exact hp
  case banks =>
    intro e he
    obtain ⟨e', he', rfl⟩ := List.mem_map.1 he
    simp [q.banks e' he']
  case held =>
    intro e he
    rcases Table.mem_set (List.mem_filter.1 he).1 with rfl | he
    · rfl
    · exact q.held e he
  exact ⟨_, _, _, _, _, rfl⟩

section Xans
variable {s : State} {v : Word} {core t : Nat} (named : s.xansThread v = some (core, t))
include named

theorem xans_frozen : (s.thr t).frozen = some 6 := by
  obtain ⟨x, found, eq⟩ := Option.map_eq_some_iff.1 named
  cases eq
  have := (Option.filter_eq_some_iff.1 found).2
  simp only [Bool.and_eq_true, decide_eq_true_eq] at this
  exact this.1

/-- A thread that goes on. -/
def Thread.thawed (th : Thread) (cycle : Nat) : Thread :=
  { th with frozen := none, record := none, latch := true, notBefore := max th.notBefore (cycle + 1), thaw := cycle + 1 }

omit named in
theorem State.eretTo_frozen {s : State} {t : Nat} (frozen : (s.thr t).frozen.isSome = true) :
    s.eretTo t = s.modThr t fun th => th.thawed s.cycle := if_pos frozen

theorem xlatResume_resumes : exec (.xlatResume v) s = .next (s.modThr t fun th => th.thawed s.cycle) := by
  have run : exec (.xlatResume v) s = execXlatResume v s := rfl
  rw [run, execXlatResume, named]
  dsimp only
  rw [State.eretTo_frozen (by rw [xans_frozen named]; rfl)]

theorem xlatSkip_skips {r : List Word} {i : Instr} {rd n : Nat} (rec_ : (s.thr t).record = some r) (insn : recInsn r = some i)
    (target : skipTarget i = some (rd, n)) : exec (.xlatSkip v) s = .next (s.modThr t fun th =>
      ({ (th.setX rd ⟨s.xansval, true, false, false⟩) with pc := r.getD 1 0 + word n } : Thread).thawed s.cycle) := by
  have run : exec (.xlatSkip v) s = execXlatSkip v s := rfl
  have skips : (recInsn ((s.thr t).record.getD [])).bind skipTarget = some (rd, n) := by
    rw [rec_, Option.getD_some, insn]
    exact target
  rw [run, execXlatSkip, named]
  dsimp only
  rw [skips]
  dsimp only
  rw [rec_, Option.getD_some, State.eretTo_frozen]
  · exact congrArg Host.Outcome.next (State.modThr_modThr ..)
  · rw [State.thr_modThr_same]
    show ((s.thr t).setX rd _).frozen.isSome = true
    have kept : ((s.thr t).setX rd ⟨s.xansval, true, false, false⟩).frozen = (s.thr t).frozen := by
      unfold Thread.setX
      split <;> rfl
    rw [kept, xans_frozen named]
    rfl

theorem xlatKill_kills (user : 1024 ≤ t) (groups : (s.thr t).groups = []) (pop : Table.find? s.pops (s.thr t).pop = none) (q : Quiet s) :
    ∃ u, exec (.xlatKill v) s = .next u ∧ u.alive t = false ∧ u.hbm = s.hbm ∧ u.pad = s.pad := by
  have posts : ∃ co cq, s.postTrap core ((s.thr t).record.getD []) none = { s with cores := co, cqHeld := cq } := ⟨_, _, rfl⟩
  obtain ⟨co, cq, posts⟩ := posts
  obtain ⟨th, _, _, _, _, ends⟩ := State.endThread_orphan (s := { s with cores := co, cqHeld := cq }) ⟨q.banks, q.held, q.acq⟩ groups pop
  have run : exec (.xlatKill v) s = execXlatKill v s := rfl
  rw [run, execXlatKill, named]
  dsimp only
  rw [State.unhandled, posts, ends]
  refine ⟨_, rfl, ?_, rfl, rfl⟩
  have gone : Table.has (Table.erase (Table.set s.threads t th) t) t = false := by
    rw [Table.has, Table.find_erase, if_pos rfl]
    rfl
  have high : decide (t < Config.cores) = false := decide_eq_false (Nat.not_lt.2 user)
  exact (congrArg₂ (· || ·) high gone)

end Xans

/-- Settles O56 from a walk's answer, an invalidation and the answers of the host. -/
theorem translation : Obligations.Translation := by
  unfold Obligations.Translation
  refine ⟨⟨fun s g m rest queue => ?walks, fun s p i rest queue drained => invalidation_spec queue drained⟩, fun s v core t named => ?xans⟩
  case walks =>
    intro threads hears
    refine ⟨fun c walk => ⟨translationAnswer_error queue walk, fun waiters admitted => ?_⟩,
      fun l walk covers => ⟨translationAnswer_ok queue walk, fun waiters admitted => ?_⟩⟩
    · obtain ⟨misses, tlb, heard, hbm, pad⟩ := translationAnswer_fails (rest := rest) admitted waiters ⟨m.page, c, noLeaf⟩
      exact ⟨_, translationAnswer_error queue walk, misses, tlb, heard, hbm, pad⟩
    · exact ⟨_, translationAnswer_ok queue walk, translationAnswer_finds queue covers admitted waiters⟩
  case xans =>
    have regs : ∀ (f : Thread → Thread), (s.modThr t f).thr t = f (s.thr t) := fun f => State.thr_modThr_same ..
    refine ⟨⟨_, xlatResume_resumes named, ?_, ?_, ?_, ?_, rfl, rfl, fun o other => State.thr_modThr_other _ _ other⟩,
      fun r i rd n rec_ insn target => ⟨_, xlatSkip_skips named rec_ insn target, ?_, ?_, fun nz => ?_, fun q other => ?_, rfl, rfl⟩,
      fun user groups pop q => xlatKill_kills named user groups pop q⟩
    · exact congrArg Thread.frozen (regs (Thread.thawed · s.cycle))
    · exact (congrArg Thread.pc (regs (Thread.thawed · s.cycle))).trans rfl
    · exact (congrArg Thread.x (regs (Thread.thawed · s.cycle))).trans rfl
    · exact congrArg Thread.latch (regs (Thread.thawed · s.cycle))
    · exact congrArg Thread.frozen (regs _)
    · exact congrArg Thread.pc (regs _)
    · exact (congrArg (Thread.getX · rd) (regs _)).trans ((Thread.getX_setX (s.thr t) rd rd _).trans (if_pos ⟨rfl, nz⟩))
    · exact (congrArg (Thread.getX · q) (regs _)).trans ((Thread.getX_setX (s.thr t) rd q _).trans (if_neg fun c => other c.1))

end Sys2Proof.Machine
end

section
/-! PROOF. Thread starts, populations that end, load balancing and the wait-cycle probe (O55). -/

namespace Sys2Proof.Machine

theorem State.core_modCore_other (s : State) {j k : Nat} (f : Core → Core) (h : j ≠ k) : (s.modCore k f).core j = s.core j :=
  Table.get_set_other _ _ _ h

/-! ### Thread starts (R22, R75) -/

/-- The x registers of a thread as R22 starts it: the seeds, the index and the size in x10-x15, zero in the others. -/
theorem startedThread_getX (p : Population) (pop sid r : Nat) : (startedThread p pop sid).getX r =
    if r = 15 then ⟨word p.size, true, false, false⟩ else if r = 14 then ⟨word p.started, true, false, false⟩
    else if r = 13 then ⟨p.seeds.getD 3 0, true, false, false⟩ else if r = 12 then ⟨p.seeds.getD 2 0, true, false, false⟩
    else if r = 11 then ⟨p.seeds.getD 1 0, true, false, false⟩ else if r = 10 then ⟨p.seeds.getD 0 0, true, false, false⟩
    else zeroReg := by
  have fresh : ({ freshThread sid p.part p.ten with pop := pop, index := p.started, pc := p.pc } : Thread).getX r = zeroReg := by
    rw [Thread.getX]
    split <;> rfl
  simp only [startedThread, List.foldl_cons, List.foldl_nil, Thread.getX_setX, fresh, ne_eq, OfNat.ofNat_ne_zero, not_false_eq_true, and_true]

/-- What R22 sets in a thread beyond its x registers. -/
structure Thread.StartsAs (th : Thread) (p : Population) (sid : Nat) : Prop where
  sid : th.sid = sid
  part : th.part = p.part
  ten : th.ten = p.ten
  pc : th.pc = p.pc
  index : th.index = p.started
  preds : th.p = []

theorem Thread.StartsAs.setX {th : Thread} {p : Population} {sid : Nat} (h : th.StartsAs p sid) (r : Nat) (v : Reg Word) :
    (th.setX r v).StartsAs p sid := by
  rw [Thread.setX]
  split
  · exact h
  · exact ⟨h.sid, h.part, h.ten, h.pc, h.index, h.preds⟩

theorem startedThread_startsAs (p : Population) (pop sid : Nat) : (startedThread p pop sid).StartsAs p sid :=
  foldl_keepsProp (fun th : Thread => th.StartsAs p sid) (fun _ _ h => h.setX ..) _ ⟨rfl, rfl, rfl, rfl, rfl, rfl⟩

/-- The thread that THREAD_START makes for the next index of population `p`. -/
def State.startsNext (s : State) (e : LaunchEntry) (p : Population) (sid : Nat) : State :=
  { s with nextUid := s.nextUid + 1, threads := Table.set s.threads s.nextUid { startedThread p e.pop sid with notBefore := s.cycle + 1 },
           slots := Table.set s.slots sid s.nextUid, pops := Table.set s.pops e.pop { p with started := p.started + 1 } }

theorem threadStart_eq {s : State} {core sid : Nat} {e : LaunchEntry} {p : Population}
    (taken : ∀ x ∈ (s.core core).launch, x.taken = true ∨ s.startsFor x.part x.ten = false)
    (first : (s.core core).launch.find? (fun e => s.canStart e sid) = some e) (hp : Table.find? s.pops e.pop = some p) :
    ∃ cs, exec (.threadStart core sid) s = .next { s.startsNext e p sid with cores := cs } := by
  have run : exec (.threadStart core sid) s = execThreadStart core sid s := rfl
  have settled : (s.core core).launch.find? (fun e => !e.taken && s.startsFor e.part e.ten) = none :=
    List.find?_eq_none.2 fun x hx => by rcases taken x hx with h | h <;> simp [h]
  rw [run, execThreadStart, settled]
  simp only [first, hp]
  split
  · exact ⟨_, rfl⟩
  · exact ⟨_, rfl⟩

/-! ### Populations that end (R76) -/

theorem popEnds_of_room {s : State} {p : Population} (some_ : p.size ≠ 0) (all : p.exited = p.size)
    (room : ∀ d, s.popDone p = some d → s.bankRoom d.1 d.2 = true) : s.popEnds p = true := by
  have ends : p.complete = true := by simp [Population.complete, some_, all]
  rw [State.popEnds, ends, Bool.true_and, Option.all_eq_true]
  exact room

theorem State.windowPlace_sync_pops (s : State) (ps : Table Population) (part ten sid va : Nat) :
    State.windowPlace { s with pops := ps } part ten sid .sync va = s.windowPlace part ten sid .sync va := by
  simp [State.windowPlace]
  rfl

theorem State.popDone_pops (s : State) (ps : Table Population) (p : Population) : State.popDone { s with pops := ps } p = s.popDone p := by
  have place : ∀ e w, State.donePlace { s with pops := ps } e w = s.donePlace e w := fun e w => by
    rw [State.donePlace, State.donePlace, State.windowPlace_sync_pops]
  rw [State.popDone, State.popDone, place]

theorem populationComplete_silent {s : State} {pop : Nat} {p : Population} (hp : Table.find? s.pops pop = some p) (some_ : p.size ≠ 0)
    (all : p.exited = p.size) (none_ : p.done = 0) :
    exec (.populationComplete pop) s = .next (State.completeIf { s with pops := Table.erase s.pops pop } p.packet (word p.size)) := by
  have run : exec (.populationComplete pop) s = execPopulationComplete pop s := rfl
  have nowhere : ∀ u : State, u.popDone p = none := fun u => by rw [State.popDone, if_pos none_]
  have ends : (Table.find? s.pops pop).filter s.popEnds = some p := by
    rw [hp, Option.filter_some, if_pos (popEnds_of_room some_ all fun d hd => by simp [nowhere] at hd)]
  rw [run, execPopulationComplete, ends]
  simp only [nowhere]

theorem populationComplete_stores {s : State} {pop : Nat} {p : Population} (hp : Table.find? s.pops pop = some p) (some_ : p.size ≠ 0)
    (all : p.exited = p.size) {c off : Nat} (done : s.popDone p = some (c, off)) (room : s.bankRoom c off = true) :
    exec (.populationComplete pop) s = .next
      ((State.rootStf { s with pops := Table.erase s.pops pop } (c % 1024) c off (word p.size)).completeIf p.packet (word p.size)) := by
  have run : exec (.populationComplete pop) s = execPopulationComplete pop s := rfl
  have ends : (Table.find? s.pops pop).filter s.popEnds = some p := by
    rw [hp, Option.filter_some, if_pos (popEnds_of_room some_ all fun d hd => by rw [← Option.some.inj (done.symm.trans hd)]; exact room)]
  have there := (s.popDone_pops (Table.erase s.pops pop) p).trans done
  rw [run, execPopulationComplete, ends]
  simp only [there]

/-! ### Load balancing (R287) -/

theorem neighbours_spec {core nb : Nat} (h : nb ∈ neighbours core) : nb ≠ core := by
  simp only [neighbours, List.mem_append] at h
  rcases h with ((h | h) | h) | h <;> split at h <;> simp at h <;> omega

theorem neighbours_nodup (core : Nat) : (neighbours core).Nodup := by
  simp only [neighbours]
  split <;> split <;> split <;> split <;> simp <;> omega

/-- One root slot moves entries among its own queue and those of its neighbours, and nothing else. -/
theorem State.moveEntries_eq (s : State) (src dst n : Nat) : ∃ cs, s.moveEntries src dst n = { s with cores := cs } := ⟨_, rfl⟩

theorem State.moveEntries_core (s : State) {src dst k : Nat} (n : Nat) (hs : k ≠ src) (hd : k ≠ dst) :
    (s.moveEntries src dst n).core k = s.core k := by
  rw [State.moveEntries, State.core_modCore_other _ _ hd, State.core_modCore_other _ _ hs]

/-- The youngest movable entries arrive at the other queue, in their order. -/
theorem State.moveEntries_launch (s : State) {src dst n : Nat} (apart : dst ≠ src) (empty : (s.core dst).launch = [])
    (movable : ∀ e ∈ (s.core src).launch, e.taken = true ∧ e.cores = 255) (few : n ≤ (s.unstarted src).length)
    (fits : n ≤ 64) :
    ((s.moveEntries src dst n).core dst).launch =
      ((s.unstarted src).drop ((s.unstarted src).length - n)).map (fun e => { e with g := dst / 8 }) := by
  have all : (s.unstarted src).filter (fun e => e.taken && decide (e.cores = 0xFF)) = s.unstarted src := by
    refine List.filter_eq_self.2 fun e he => ?_
    obtain ⟨ht, hc⟩ := movable e (List.mem_filter.1 he).1
    simp [ht, hc]
  have amount : min (min n (Config.launchEntries - 0)) (s.unstarted src).length = n := by
    rw [Nat.min_eq_left (show n ≤ Config.launchEntries - 0 from fits), Nat.min_eq_left few]
  rw [State.moveEntries, State.core_modCore_same, State.core_modCore_other _ _ apart, all, empty, List.nil_append, List.length_nil, amount]

/-- The moves of one root slot towards a list of neighbours. -/
def balanceTo (traded : Nat → Nat) (core : Nat) (acc : State × Nat) (nb : Nat) : State × Nat :=
  if acc.2 > traded nb + 8 then
    (acc.1.moveEntries core nb ((acc.2 - traded nb) / 4),
      acc.2 - ((acc.1.core core).launch.length - ((acc.1.moveEntries core nb ((acc.2 - traded nb) / 4)).core core).launch.length))
  else acc

theorem State.balanceCore_eq (s : State) (traded : Nat → Nat) (core : Nat) :
    s.balanceCore traded core = ((neighbours core).foldl (balanceTo traded core) (s, traded core)).1 := rfl

theorem balanceTo_keeps (traded : Nat → Nat) {core nb k : Nat} (acc : State × Nat) (hc : k ≠ core) (hn : k ≠ nb) :
    ∃ cs, (balanceTo traded core acc nb).1 = { acc.1 with cores := cs } ∧ (balanceTo traded core acc nb).1.core k = acc.1.core k := by
  rw [balanceTo]
  split
  · exact ⟨_, rfl, State.moveEntries_core _ _ hc hn⟩
  · exact ⟨_, rfl, rfl⟩

theorem balanceTo_foldl_keeps (traded : Nat → Nat) {core k : Nat} (hc : k ≠ core) (l : List Nat) (hl : k ∉ l) (acc : State × Nat) :
    ∃ cs, (l.foldl (balanceTo traded core) acc).1 = { acc.1 with cores := cs } ∧
      (l.foldl (balanceTo traded core) acc).1.core k = acc.1.core k := by
  induction l generalizing acc with
  | nil => exact ⟨_, rfl, rfl⟩
  | cons nb l ih =>
    obtain ⟨cs, hcs, same⟩ := balanceTo_keeps traded (nb := nb) acc hc fun h => hl (h ▸ List.mem_cons_self ..)
    obtain ⟨cs', hcs', same'⟩ := ih (fun h => hl (List.mem_cons_of_mem _ h)) (balanceTo traded core acc nb)
    exact ⟨cs', by rw [List.foldl_cons, hcs', hcs], by rw [List.foldl_cons, same', same]⟩

/-- A queue that is not among the ones with entries is empty. -/
theorem launch_empty_of_filter {s : State} {core nb : Nat} (alone : (s.cores.filter fun e => !e.2.launch.isEmpty) = [(core, s.core core)])
    (apart : nb ≠ core) : (s.core nb).launch = [] := by
  rcases found : Table.find? s.cores nb with _ | c
  · rw [State.core, Table.get, found]
    rfl
  · have same : s.core nb = c := by rw [State.core, Table.get, found]; rfl
    by_contra full
    have there : (nb, c) ∈ s.cores.filter fun e => !e.2.launch.isEmpty :=
      List.mem_filter.2 ⟨Table.mem_of_find found, by rw [← same]; simpa using full⟩
    rw [alone, List.mem_singleton] at there
    exact apart (congrArg Prod.fst there)

theorem loadBalance_idle {s : State} (none_ : ∀ e ∈ s.cores, e.2.launch = []) :
    exec .loadBalanceExchange s = .next { s with balances := s.ftime / 64000 } := by
  have run : exec .loadBalanceExchange s = execLoadBalanceExchange s := rfl
  have nothing : (s.cores.filter fun e => !e.2.launch.isEmpty) = [] :=
    List.filter_eq_nil_iff.2 fun e he => by simp [none_ e he]
  rw [run, execLoadBalanceExchange, nothing]
  rfl

theorem loadBalance_youngest {s : State} {core nb : Nat}
    (alone : (s.cores.filter fun e => !e.2.launch.isEmpty) = [(core, s.core core)]) (first : (neighbours core).head? = some nb)
    (movable : ∀ e ∈ (s.core core).launch, e.taken = true ∧ e.cores = 255) (many : 8 < (s.unstarted core).length)
    (fits : (s.unstarted core).length ≤ 64) :
    ∃ t, exec .loadBalanceExchange s = .next t ∧ t.balances = s.ftime / 64000 ∧
      (t.core nb).launch =
        ((s.unstarted core).drop ((s.unstarted core).length - (s.unstarted core).length / 4)).map (fun e => { e with g := nb / 8 }) ∧
      t.threads = s.threads ∧ t.hbm = s.hbm ∧ t.pad = s.pad := by
  obtain ⟨rest, around⟩ : ∃ rest, neighbours core = nb :: rest := by
    cases hn : neighbours core with
    | nil => rw [hn] at first; simp at first
    | cons a l => rw [hn, List.head?_cons] at first; exact ⟨l, by rw [Option.some.inj first]⟩
  have apart : nb ≠ core := neighbours_spec (by rw [around]; exact List.mem_cons_self ..)
  have others : nb ∉ rest := by
    have := neighbours_nodup core
    rw [around] at this
    exact (List.nodup_cons.1 this).1
  have empty := launch_empty_of_filter alone apart
  have noCount : (s.unstarted nb).length = 0 := by rw [State.unstarted, empty]; rfl
  have gives : (balanceTo (fun c => (s.unstarted c).length) core (s, (s.unstarted core).length) nb).1 =
      s.moveEntries core nb ((s.unstarted core).length / 4) := by
    rw [balanceTo, if_pos (by simp only [noCount]; omega)]
    simp only [noCount, Nat.sub_zero]
  obtain ⟨cs, hcs, same⟩ := balanceTo_foldl_keeps (fun c => (s.unstarted c).length) apart rest others
    (balanceTo (fun c => (s.unstarted c).length) core (s, (s.unstarted core).length) nb)
  have run : exec .loadBalanceExchange s = .next { s.balanceCore (fun c => (s.unstarted c).length) core with balances := s.ftime / 64000 } := by
    have run : exec .loadBalanceExchange s = execLoadBalanceExchange s := rfl
    rw [run, execLoadBalanceExchange, alone]
    rfl
  rw [State.balanceCore_eq, around, List.foldl_cons] at run
  rw [gives] at hcs same
  refine ⟨_, run, rfl, ?_, ?_, ?_, ?_⟩
  · refine (congrArg Core.launch same).trans ?_
    exact s.moveEntries_launch apart empty movable (Nat.div_le_self ..) (by omega)
  · exact (congrArg State.threads hcs :)
  · exact (congrArg State.hbm hcs :)
  · exact (congrArg State.pad hcs :)

/-! ### The wait-cycle probe (R305-R307) -/

/-- The threads to which one thread's probes go at core `c`. -/
def State.probed (s : State) (l : List Nat) (c : Nat) : List Nat := l.filter fun w => decide (s.alive w = true ∧ (s.thr w).sid / 16 = c)

/-- Sends a probe with a path to each living thread of a list. -/
def State.probeAll (s : State) (path l : List Nat) : State :=
  l.foldl (fun s u =>
    if s.alive u then s.modCore (coreOf (s.thr u).sid) fun c => { c with probes := c.probes ++ [⟨path, u⟩] } else s) s

theorem State.sendProbes_eq (s : State) (path : List Nat) (t : Nat) : s.sendProbes path t = s.probeAll path (s.edges t).eraseDups := rfl

theorem State.probeAll_spec (s : State) (path l : List Nat) : ∃ cs, s.probeAll path l = { s with cores := cs } ∧
    ∀ c, ((s.probeAll path l).core c).probes = (s.core c).probes ++ (s.probed l c).map fun w => ⟨path, w⟩ := by
  induction l generalizing s with
  | nil => exact ⟨_, rfl, fun c => (List.append_nil _).symm⟩
  | cons u l ih =>
    by_cases lives : s.alive u = true
    · have step : s.probeAll path (u :: l) =
          (s.modCore (coreOf (s.thr u).sid) fun c => { c with probes := c.probes ++ [⟨path, u⟩] }).probeAll path l := by
        rw [State.probeAll, List.foldl_cons, if_pos lives]
        rfl
      obtain ⟨cs, hcs, gets⟩ := ih (s.modCore (coreOf (s.thr u).sid) fun c => { c with probes := c.probes ++ [⟨path, u⟩] })
      refine ⟨cs, by rw [step, hcs]; rfl, fun c => ?_⟩
      rw [step, gets]
      change _ ++ (s.probed l c).map _ = _
      by_cases here : c = coreOf (s.thr u).sid
      · have mine : s.probed (u :: l) c = u :: s.probed l c := List.filter_cons_of_pos (by simp [lives, here, coreOf])
        rw [mine, here, State.core_modCore_same]
        simp
      · have other : s.probed (u :: l) c = s.probed l c :=
          List.filter_cons_of_neg (by simpa [lives, coreOf] using Ne.symm here)
        rw [other, State.core_modCore_other _ _ here]
    · have step : s.probeAll path (u :: l) = s.probeAll path l := by
        rw [State.probeAll, List.foldl_cons, if_neg lives]
        rfl
      obtain ⟨cs, hcs, gets⟩ := ih s
      have other : ∀ c, s.probed (u :: l) c = s.probed l c := fun c => List.filter_cons_of_neg (by simp [lives])
      exact ⟨cs, by rw [step, hcs], fun c => by rw [step, gets, other]⟩

theorem State.probeEach_spec (s : State) (l : List Nat) : ∃ cs, l.foldl (fun s t => s.sendProbes [t] t) s = { s with cores := cs } ∧
    ∀ c, ((l.foldl (fun s t => s.sendProbes [t] t) s).core c).probes =
      (s.core c).probes ++ l.flatMap fun t => (s.probed (s.edges t).eraseDups c).map fun w => ⟨[t], w⟩ := by
  induction l generalizing s with
  | nil => exact ⟨_, rfl, fun c => (List.append_nil _).symm⟩
  | cons t l ih =>
    obtain ⟨cs, hcs, gets⟩ := s.probeAll_spec [t] (s.edges t).eraseDups
    obtain ⟨cs', hcs', gets'⟩ := ih (s.sendProbes [t] t)
    rw [State.sendProbes_eq] at hcs' gets'
    refine ⟨cs', by rw [List.foldl_cons, State.sendProbes_eq, hcs', hcs], fun c => ?_⟩
    rw [List.foldl_cons, State.sendProbes_eq, gets', gets, hcs, List.flatMap_cons, List.append_assoc]
    rfl

/-- The threads that have waited for 10 ms. -/
def State.waitsLong (s : State) : List Nat :=
  (s.threads.filter fun e => decide (e.2.waitSince + 11000000 ≤ s.cycle) && !(s.edges e.1).isEmpty).map (·.1)

theorem waitProbeTick_eq (s : State) :
    exec .waitProbeTick s = .next { s.waitsLong.foldl (fun s t => s.sendProbes [t] t) s with ticks := s.ftime / 10000000 } := rfl

section Arrival
variable {s : State} {core : Nat} {p : Probe} {rest : List Probe} (there : (s.core core).probes = p :: rest)
include there

theorem probe_ends (h : s.edges p.dst = [] ∨ 64 ≤ p.path.length) :
    exec (.waitProbeArrival core) s = .next (s.modCore core fun c => { c with probes := rest }) := by
  have run : exec (.waitProbeArrival core) s = execWaitProbeArrival core s := rfl
  have same : (s.modCore core fun c => { c with probes := rest }).edges p.dst = s.edges p.dst := rfl
  rw [run, execWaitProbeArrival, there]
  dsimp only
  rw [same, if_pos (by rcases h with h | h <;> simp [h])]

theorem probe_returns (waits : s.edges p.dst ≠ []) (short : p.path.length < 64) (home : p.path.head? = some p.dst) :
    exec (.waitProbeArrival core) s = .next (if s.cycleStands p.path then
      p.path.foldl (fun s t => s.waitCycle p.path.length p.dst t) (s.modCore core fun c => { c with probes := rest })
    else s.modCore core fun c => { c with probes := rest }) := by
  have run : exec (.waitProbeArrival core) s = execWaitProbeArrival core s := rfl
  have same : (s.modCore core fun c => { c with probes := rest }).edges p.dst = s.edges p.dst := rfl
  have stands : (s.modCore core fun c => { c with probes := rest }).cycleStands p.path = s.cycleStands p.path := rfl
  rw [run, execWaitProbeArrival, there]
  dsimp only
  rw [same, if_neg (by simp [waits, short]), if_pos home, stands]

theorem probe_meets (away : p.path.head? ≠ some p.dst) (met : p.dst ∈ p.path) :
    exec (.waitProbeArrival core) s = .next (s.modCore core fun c => { c with probes := rest }) := by
  have run : exec (.waitProbeArrival core) s = execWaitProbeArrival core s := rfl
  rw [run, execWaitProbeArrival, there]
  dsimp only
  rw [if_neg away]
  split
  · rfl
  · rw [if_pos (List.contains_iff_mem.2 met)]

theorem probe_goesOn (waits : s.edges p.dst ≠ []) (new : p.dst ∉ p.path) (short : p.path.length < 64) :
    exec (.waitProbeArrival core) s =
      .next ((s.modCore core fun c => { c with probes := rest }).sendProbes (p.path ++ [p.dst]) p.dst) := by
  have run : exec (.waitProbeArrival core) s = execWaitProbeArrival core s := rfl
  have same : (s.modCore core fun c => { c with probes := rest }).edges p.dst = s.edges p.dst := rfl
  rw [run, execWaitProbeArrival, there]
  dsimp only
  rw [same, if_neg (by simp [waits, short]), if_neg fun h => new (List.mem_of_head? h), if_neg (by simpa using new)]

end Arrival

theorem cycleStands_iff (s : State) (path : List Nat) : s.cycleStands path = true ↔ ∀ e ∈ path.zip (path.drop 1 ++ path.take 1),
    s.alive e.1 = true ∧ ((s.thr e.1).frozen ≠ none ∨ e.2 ∈ s.edges e.1) := by
  simp [State.cycleStands, List.all_eq_true, Option.isSome_iff_ne_none]

/-- Settles O55: a thread start is read off R22's thread, a population that ends off the room of its DONE word, a balance off the
moves to the first neighbour, which the others leave alone, and the probes off the threads on whose edges they go. -/
theorem launchesAndProbes : Obligations.LaunchesAndProbes := by
  unfold Obligations.LaunchesAndProbes
  refine ⟨⟨?_, ?_, ?_, ?_⟩, ?_, ?_⟩
  · intro s core sid e p taken first hp hu
    obtain ⟨cs, run⟩ := threadStart_eq taken first hp
    obtain ⟨hsid, hpart, hten, hpc, hindex, hpreds⟩ := startedThread_startsAs p e.pop sid
    have started : State.thr { s.startsNext e p sid with cores := cs } s.nextUid = { startedThread p e.pop sid with notBefore := s.cycle + 1 } :=
      Table.get_set_same ..
    have regs := startedThread_getX p e.pop sid
    have preds : ∀ r, (startedThread p e.pop sid).getP r = if r = 0 then BitVec.allOnes 256 else 0 := fun r => by
      rw [Thread.getP, hpreds]
      rfl
    refine ⟨_, run, ?_, rfl, Table.find_set_same .., Table.find_set_same .., ?_, rfl, rfl⟩
    · exact Bool.or_eq_true_iff.2 (.inr (Table.has_set_same ..))
    · intro th
      simp only [th, started]
      refine ⟨hsid, hpart, hten, hpc, hindex, trivial, fun i hi => ?_, regs 14, regs 15, fun r hr => ?_, preds 0, fun r hr => ?_⟩
      · refine (regs (10 + i)).trans ?_
        interval_cases i <;> rfl
      · refine (regs r).trans ?_
        simp only [show r ≠ 15 by omega, show r ≠ 14 by omega, show r ≠ 13 by omega, show r ≠ 12 by omega, show r ≠ 11 by omega,
          show r ≠ 10 by omega, if_false]
        rfl
      · exact (preds r).trans (if_neg hr)
  · intro s pop p hp some_ all
    exact ⟨fun none_ => populationComplete_silent hp some_ all none_, fun c off done room => populationComplete_stores hp some_ all done room⟩
  · exact fun s none_ => loadBalance_idle none_
  · exact fun s core nb _ alone first movable many fits => loadBalance_youngest alone first movable many fits
  · intro s old
    obtain ⟨cs, hcs, gets⟩ := s.probeEach_spec s.waitsLong
    refine ⟨fun none_ => ?_, _, waitProbeTick_eq s, rfl, (congrArg State.threads hcs :), (congrArg State.pad hcs :), (congrArg State.hbm hcs :), gets⟩
    rw [waitProbeTick_eq, show s.waitsLong = [] from none_]
    rfl
  · intro s core p rest there u
    refine ⟨fun none_ => probe_ends there (.inl none_), fun waits short home => ?_, fun away met => probe_meets there away met,
      fun long => probe_ends there (.inr long), fun waits new short => probe_goesOn there waits new short⟩
    have run := probe_returns there waits short home
    intro stands
    exact ⟨fun h => run.trans (by rw [if_pos ((cycleStands_iff ..).2 h)]), fun h => run.trans (by rw [if_neg (mt (cycleStands_iff ..).1 h)])⟩

end Sys2Proof.Machine
end

section
/-! PROOF. Host packets: how one starts, what it does, and how it ends (O57). -/

namespace Sys2Proof.Machine

/-! ### Packet events (R341, R343) -/

section Events
variable {ok : List Word → Bool} {f : List Word → State → State} {s : State} {q : Nat}

theorem packetEvent_idle (none_ : s.startable q = none) : packetEvent ok q f s = .next s := by
  rw [packetEvent, none_]

theorem packetEvent_rejects {ws : List Word} (start : s.startable q = some ws) (bad : s.malformed q ws ≠ 0) :
    packetEvent ok q f s = .next (s.rejectPacket q ws (s.malformed q ws)) := by
  rw [packetEvent, start]
  exact if_pos bad

theorem packetEvent_starts {ws : List Word} (start : s.startable q = some ws) (good : s.malformed q ws = 0) (here : ok ws = true) :
    packetEvent ok q f s = .next (f ws s) := by
  rw [packetEvent, start]
  dsimp only
  rw [if_neg (by simp [good]), if_pos here]

theorem packetEvent_waits {ws : List Word} (start : s.startable q = some ws) (good : s.malformed q ws = 0) (away : ok ws = false) :
    packetEvent ok q f s = .next s := by
  rw [packetEvent, start]
  dsimp only
  rw [if_neg (by simp [good]), if_neg (by simp [away])]

end Events

/-- Every packet's event is a `packetEvent` of its type. -/
theorem packet_events {q : Nat} {i : Instr} (hi : i ∈ [Instr.launchPacket q, .agentstart q, .copyPacket q, .signalTimeline q,
    .signalEvent q, .waittlPacket q, .switchatPacket q, .faultPacket q]) (s : State) : ∃ ok f, exec i s = packetEvent ok q f s := by
  simp only [List.mem_cons, List.not_mem_nil, or_false] at hi
  rcases hi with rfl | rfl | rfl | rfl | rfl | rfl | rfl | rfl
  · exact ⟨_, _, (rfl : exec _ s = execLaunchPacket q s).trans (by rw [execLaunchPacket])⟩
  · exact ⟨_, _, (rfl : exec _ s = execAgentstart q s).trans (by rw [execAgentstart])⟩
  · exact ⟨_, _, (rfl : exec _ s = execCopyPacket q s).trans (by rw [execCopyPacket])⟩
  · exact ⟨_, _, (rfl : exec _ s = execSignalTimeline q s).trans (by rw [execSignalTimeline])⟩
  · exact ⟨_, _, (rfl : exec _ s = execSignalEvent q s).trans (by rw [execSignalEvent])⟩
  · exact ⟨_, _, (rfl : exec _ s = execWaittlPacket q s).trans (by rw [execWaittlPacket])⟩
  · exact ⟨_, _, (rfl : exec _ s = execSwitchatPacket q s).trans (by rw [execSwitchatPacket])⟩
  · exact ⟨_, _, (rfl : exec _ s = execFaultPacket q s).trans (by rw [execFaultPacket])⟩

/-- What starting a packet leaves of its queue. -/
theorem State.subq_startPkt (s : State) (q : Nat) (ws : List Word) : (s.startPkt q ws).subq q = { s.subq q with
    head := ((s.subq q).head + 1) % 2 ^ 32, num := (s.subq q).num + 1
    flight := (s.subq q).flight ++ [⟨(s.subq q).num, (s.subq q).head, pktTag ws, bit (ws.getD 0 0) 1, none⟩] } := s.subq_modSubq q _

theorem State.queuePart_startPkt (s : State) (q : Nat) (ws : List Word) : (s.startPkt q ws).queuePart q = s.queuePart q :=
  State.queuePart_modSubq rfl

/-! ### Malformed packets (R343) -/

theorem State.malformed_le (s : State) (q : Nat) (ws : List Word) : s.malformed q ws ≤ 4 := by
  simp only [State.malformed]
  split
  · omega
  split
  · omega
  split
  · omega
  split
  · omega
  split <;> omega

theorem malformedStatus_error {c : Nat} (h : c ≤ 4) : bit (malformedStatus c) 63 = true := by
  interval_cases c <;> rfl

/-- The only packet in flight ends: its record is posted for its partition's function. -/
theorem State.completePacket_only {s : State} {q : Nat} {p : Pkt} (only : (s.subq q).flight = [p]) (open_ : p.status = none) {st : Word}
    (tells : p.notify = true ∨ bit st 63 = true) : ∃ t, s.completePacket (q, p.num) st = t ∧
      t.subq q = { s.subq q with flight := [] } ∧ Table.get t.cqHeld (s.boundFn (s.queuePart q)) [] =
        Table.get s.cqHeld (s.boundFn (s.queuePart q)) [] ++
          [[recordHead 1 (s.subq q).ten (s.queuePart q), packetId 0 q p.index, st, word p.tag, 0, 0, 0, 0]] ∧
      t.hbm = s.hbm ∧ t.pad = s.pad := by
  have ends : (s.modSubq q fun x => { x with flight := x.flight.map fun r =>
      if r.num = p.num && r.status.isNone then { r with status := some st } else r }) =
      s.modSubq q fun x => { x with flight := [{ p with status := some st }] } := by
    refine State.modSubq_congr ?_
    simp [only, open_]
  generalize hu : (s.modSubq q fun x => { x with flight := [{ p with status := some st }] }) = u at ends
  have queue : u.subq q = { s.subq q with flight := [{ p with status := some st }] } := by rw [← hu, State.subq_modSubq]
  have acts : u.queuePart q = s.queuePart q := by
    rw [← hu]
    exact State.queuePart_modSubq rfl
  have run : s.completePacket (q, p.num) st = (u.postTo (u.boundFn (u.queuePart q))
      [recordHead 1 (u.subq q).ten (u.queuePart q), packetId 0 q p.index, st, word p.tag, 0, 0, 0, 0]).modSubq q
        fun x => { x with flight := [] } := by
    rw [State.completePacket, ends]
    rw [queue]
    have told : (p.notify || bit st 63) = true := Bool.or_eq_true_iff.2 tells
    simp only [List.length_singleton, State.drainPackets, queue, told, if_true]
  have bound : u.boundFn (s.queuePart q) = s.boundFn (s.queuePart q) := by rw [← hu]; rfl
  refine ⟨_, run, ?_, ?_, ?_, ?_⟩
  · refine (State.subq_modSubq ..).trans ?_
    have same : State.subq (u.postTo (u.boundFn (u.queuePart q))
      [recordHead 1 (u.subq q).ten (u.queuePart q), packetId 0 q p.index, st, word p.tag, 0, 0, 0, 0]) q = u.subq q := rfl
    rw [same, queue]
  · rw [acts, bound, queue]
    refine (State.held_postTo ..).trans ?_
    rw [← hu]
    rfl
  · rw [← hu]; rfl
  · rw [← hu]; rfl

theorem rejectPacket_alone {s : State} {q : Nat} {ws : List Word} {c : Nat} (hc : c ≤ 4) (alone : (s.subq q).sib = q % 16)
    (idle : (s.subq q).flight = []) : (State.subq (s.rejectPacket q ws c) q).st = 2 ∧ (State.subq (s.rejectPacket q ws c) q).flight = [] ∧
      (State.subq (s.rejectPacket q ws c) q).head = ((s.subq q).head + 1) % 2 ^ 32 ∧
      Table.get (s.rejectPacket q ws c).cqHeld (s.boundFn (s.queuePart q)) [] =
        Table.get s.cqHeld (s.boundFn (s.queuePart q)) [] ++ [[recordHead 1 (s.subq q).ten (s.queuePart q),
          packetId 0 q (s.subq q).head, malformedStatus c, word (pktTag ws), 0, 0, 0, 0]] ∧
      (s.rejectPacket q ws c).hbm = s.hbm ∧ (s.rejectPacket q ws c).pad = s.pad := by
  have run : s.rejectPacket q ws c =
      ((s.startPkt q ws).completePacket (q, (s.subq q).num) (malformedStatus c)).modSubq q fun x => { x with st := 2 } := by
    rw [State.rejectPacket]
    exact if_pos alone
  have started := s.subq_startPkt q ws
  have only : ((s.startPkt q ws).subq q).flight = [⟨(s.subq q).num, (s.subq q).head, pktTag ws, bit (ws.getD 0 0) 1, none⟩] := by
    rw [started, idle]
    rfl
  obtain ⟨t, ht, queue, held, hbm, pad⟩ := State.completePacket_only only rfl (.inr (malformedStatus_error hc))
  rw [s.queuePart_startPkt, started] at held
  rw [run, ht, State.subq_modSubq, queue, started]
  exact ⟨rfl, rfl, rfl, held, hbm, pad⟩

/-! ### Launches (R342, R343) -/

theorem launchFrom_full {s : State} {q g : Nat} {ws : List Word} {a : Word} {seeds : List Word}
    (full : 64 ≤ (s.core (s.launchCore g (s.queuePart q) (s.subq q).ten a.toNat)).launch.length) : s.launchFrom q g ws a seeds = s := by
  rw [State.launchFrom]
  exact if_pos full

theorem launchFrom_room {s : State} {q g : Nat} {ws : List Word} {a : Word} {seeds : List Word}
    (room : (s.core (s.launchCore g (s.queuePart q) (s.subq q).ten a.toNat)).launch.length < 64) :
    s.launchFrom q g ws a seeds = ((s.startPkt q ws).placeLaunch (s.launchCore g (s.queuePart q) (s.subq q).ten a.toNat)
      (s.queuePart q) (s.subq q).ten a seeds (some (q, (s.subq q).num))).2 := by
  rw [State.launchFrom]
  exact if_neg (Nat.not_le.2 room)

theorem placeLaunch_launch (s : State) (core part ten : Nat) (a : Word) (seeds : List Word) (pk : Option (Nat × Nat)) :
    ((s.placeLaunch core part ten a seeds pk).2.core core).launch =
      (s.core core).launch ++ [⟨s.nextPop + 1, a, part, ten, core / 8, 0, false, seeds, pk⟩] := by
  rw [State.placeLaunch]
  exact congrArg Core.launch (State.core_modCore_same ..)

/-- What a LAUNCH or a FAULT packet does, as its queue's root slot has room or not. -/
theorem launch_spec {s : State} {q g : Nat} {i : Instr} {ws : List Word} {a : Word} {seeds : List Word}
    (run : exec i s = .next (s.launchFrom q g ws a seeds)) :
    let c := s.launchCore g (s.queuePart q) (s.subq q).ten a.toNat
    (64 ≤ (s.core c).launch.length → exec i s = .next s) ∧
    ((s.core c).launch.length < 64 → ∃ t, exec i s = .next t ∧ t.nextPop = s.nextPop + 1 ∧
      (t.core c).launch = (s.core c).launch ++
        [⟨s.nextPop + 1, a, s.queuePart q, (s.subq q).ten, c / 8, 0, false, seeds, some (q, (s.subq q).num)⟩] ∧
      (t.subq q).head = ((s.subq q).head + 1) % 2 ^ 32 ∧ t.hbm = s.hbm ∧ t.pad = s.pad ∧ t.threads = s.threads) := by
  intro c
  refine ⟨fun full => run.trans (by rw [launchFrom_full full]), fun room => ?_⟩
  rw [launchFrom_room room] at run
  exact ⟨_, run, rfl, placeLaunch_launch .., congrArg SubQ.head (s.subq_startPkt q ws), rfl, rfl, rfl⟩

/-! ### The packets of each type (R342) -/

section Types
variable {s : State} {q : Nat} {ws : List Word} (start : s.startable q = some ws) (good : s.malformed q ws = 0)
include start good

theorem signalTimeline_raises (type : pktType ws = 4) (idle : (s.subq q).flight = []) (timeline : bit (ws.getD 1 0) 63 = false) :
    exec (.signalTimeline q) s = .next (State.completePacket { s.startPkt q ws with
      htls := Table.set (s.startPkt q ws).htls (q / 16 * 16 + bits (ws.getD 1 0) 15 0)
        (word (max (s.htl (q / 16) (bits (ws.getD 1 0) 15 0)).toNat (ws.getD 2 0).toNat)) } (q, (s.subq q).num) 0) := by
  have run : exec (.signalTimeline q) s = execSignalTimeline q s := rfl
  rw [run, execSignalTimeline, packetEvent_starts start good (by rw [State.signalReady, isType, type, idle, timeline]; rfl)]
  rfl

theorem signalEvent_delivers (type : pktType ws = 4) (idle : (s.subq q).flight = []) (event : bit (ws.getD 1 0) 63 = true)
    (takes : s.takesEvents (bits (ws.getD 1 0) 15 0) = true) :
    exec (.signalEvent q) s = .next (((s.startPkt q ws).deliverEvent (bits (ws.getD 1 0) 15 0) (bits (ws.getD 3 0) 31 0)
      (ws.getD 2 0)).completePacket (q, (s.subq q).num) 0) := by
  have takes' : (s.startPkt q ws).takesEvents (bits (ws.getD 1 0) 15 0) = true := takes
  have run : exec (.signalEvent q) s = execSignalEvent q s := rfl
  rw [run, execSignalEvent, packetEvent_starts start good (by rw [State.signalReady, isType, type, idle, event]; rfl), State.packetNow]
  dsimp only
  rw [if_pos takes']

theorem signal_waits (busy : (s.subq q).flight ≠ []) : exec (.signalTimeline q) s = .next s ∧ exec (.signalEvent q) s = .next s := by
  have waits : ∀ kind, s.signalReady q kind ws = false := fun kind => by simp [State.signalReady, busy]
  constructor
  · have run : exec (.signalTimeline q) s = execSignalTimeline q s := rfl
    rw [run, execSignalTimeline, packetEvent_waits start good (waits _)]
  · have run : exec (.signalEvent q) s = execSignalEvent q s := rfl
    rw [run, execSignalEvent, packetEvent_waits start good (waits _)]

theorem waittlPacket_completes (type : pktType ws = 5)
    (reached : (ws.getD 2 0).toNat ≤ (s.htl (q / 16) (bits (ws.getD 1 0) 3 0)).toNat) :
    exec (.waittlPacket q) s = .next ((s.startPkt q ws).completePacket (q, (s.subq q).num) 0) := by
  have run : exec (.waittlPacket q) s = execWaittlPacket q s := rfl
  rw [run, execWaittlPacket, packetEvent_starts start good (by rw [isType, type, decide_eq_true reached]; rfl)]
  rfl

theorem waittlPacket_waits (below : (s.htl (q / 16) (bits (ws.getD 1 0) 3 0)).toNat < (ws.getD 2 0).toNat) :
    exec (.waittlPacket q) s = .next s := by
  have run : exec (.waittlPacket q) s = execWaittlPacket q s := rfl
  rw [run, execWaittlPacket, packetEvent_waits start good (by rw [decide_eq_false (Nat.not_le.2 below), Bool.and_false])]

theorem switchatPacket_writes (type : pktType ws = 6) :
    let v := (State.modPart (s.startPkt q ws) (s.queuePart q) fun x => { x with switchat := ws.getD 1 0 }).writeSwctl (s.queuePart q)
      (ws.getD 2 0)
    exec (.switchatPacket q) s = .next (v.completePacket (q, (s.subq q).num) (v.part (s.queuePart q)).swctl) := by
  have acts := s.queuePart_startPkt q ws
  have run : exec (.switchatPacket q) s = execSwitchatPacket q s := rfl
  rw [run, execSwitchatPacket, packetEvent_starts start good (by simp [isType, type]), ← acts]
  rfl

theorem copyPacket_overlaps (type : pktType ws = 3)
    (meet : footprintsMeet (ws.getD 1 0).toNat 0 (ws.getD 2 0).toNat 0 1 (ws.getD 3 0).toNat = true) :
    exec (.copyPacket q) s = .next ((s.startPkt q ws).completePacket (q, (s.subq q).num) (errorStatus 5)) := by
  have run : exec (.copyPacket q) s = execCopyPacket q s := rfl
  rw [run, execCopyPacket, packetEvent_starts start good (by simp [isType, type]), State.packetNow]
  dsimp only
  rw [if_pos meet]

theorem copyPacket_copies (type : pktType ws = 3)
    (apart_ : footprintsMeet (ws.getD 1 0).toNat 0 (ws.getD 2 0).toNat 0 1 (ws.getD 3 0).toNat = false) :
    let x := Xfer.move ⟨0, s.queuePart q, (s.subq q).ten, 140, none⟩ (ws.getD 1 0).toNat (ws.getD 2 0).toNat (ws.getD 3 0).toNat
      ⟨s.startPkt q ws, [], 0, 0⟩
    exec (.copyPacket q) s = .next (x.s.completePacket (q, (s.subq q).num) (if x.code ≠ 0 then errorStatus x.code else ws.getD 3 0)) := by
  have acts := s.queuePart_startPkt q ws
  have tenancy : ((s.startPkt q ws).subq q).ten = (s.subq q).ten := by rw [s.subq_startPkt]
  have size : word (ws.getD 3 0).toNat = ws.getD 3 0 := BitVec.ofNat_toNat .. |>.trans (BitVec.setWidth_eq _)
  have run : exec (.copyPacket q) s = execCopyPacket q s := rfl
  rw [run, execCopyPacket, packetEvent_starts start good (by simp [isType, type]), State.packetNow]
  dsimp only
  rw [if_neg (by simp only [apart_]; exact Bool.false_ne_true), acts, tenancy, size]

theorem agentstart_starts (type : pktType ws = 2) {n b : Nat} (free : s.freeAgent = some n) (frame : s.agentFrame (s.queuePart q) = some b) :
    exec (.agentstart q) s = .next (s.startAgent q n b ws) := by
  have run : exec (.agentstart q) s = execAgentstart q s := rfl
  rw [run, execAgentstart, packetEvent_starts start good (by simp [isType, type]), free, frame]

theorem agentstart_waits (type : pktType ws = 2) (full : s.freeAgent = none ∨ s.agentFrame (s.queuePart q) = none) :
    exec (.agentstart q) s = .next s := by
  have run : exec (.agentstart q) s = execAgentstart q s := rfl
  rw [run, execAgentstart, packetEvent_starts start good (by simp [isType, type])]
  rcases full with full | full <;> rw [full]
  cases s.freeAgent <;> rfl

theorem launchPacket_runs (type : pktType ws = 1) :
    exec (.launchPacket q) s = .next (s.launchFrom q (bits (ws.getD 2 0) 6 0) ws (ws.getD 1 0) []) := by
  have run : exec (.launchPacket q) s = execLaunchPacket q s := rfl
  rw [run, execLaunchPacket, packetEvent_starts start good (by simp [isType, type])]

theorem faultPacket_runs (type : pktType ws = 0x80) : exec (.faultPacket q) s = .next (s.launchFrom q (s.part (s.queuePart q)).glo ws
    (word (s.subq q).hnd) [ws.getD 1 0, ws.getD 2 0, ws.getD 3 0, ws.getD 4 0]) := by
  have run : exec (.faultPacket q) s = execFaultPacket q s := rfl
  rw [run, execFaultPacket, packetEvent_starts start good (by simp [isType, type])]

end Types

/-- Settles O57: a packet's event runs `packetEvent`, whose cases are the queue that may not start one, the malformed packet and the
good one of this or of another type. -/
theorem packetResults : Obligations.PacketResults := by
  unfold Obligations.PacketResults
  refine ⟨fun s q ws start good => ?_, fun s q i hi => ?_⟩
  · intro w fn p u pk
    refine ⟨fun type idle timeline => signalTimeline_raises start good type idle timeline,
      fun type idle event takes => signalEvent_delivers start good type idle event takes, fun _ busy => signal_waits start good busy,
      fun type reached => waittlPacket_completes start good type reached, fun _ below => waittlPacket_waits start good below,
      fun type => switchatPacket_writes start good type, fun type meet => copyPacket_overlaps start good type meet,
      fun type apart_ => copyPacket_copies start good type apart_, fun i g a seeds hi => ?_,
      fun type => ⟨fun n b free frame => agentstart_starts start good type free frame, fun full => agentstart_waits start good type full⟩⟩
    rcases hi with ⟨rfl, type, rfl, rfl, rfl⟩ | ⟨rfl, type, rfl, rfl, rfl⟩
    · exact launch_spec (launchPacket_runs start good type)
    · exact launch_spec (faultPacket_runs start good type)
  · obtain ⟨ok, f, run⟩ := packet_events hi s
    refine ⟨fun none_ => run.trans (packetEvent_idle none_), fun ws c start hc bad alone idle => ?_⟩
    subst hc
    obtain ⟨st, flight, head, held, hbm, pad⟩ := rejectPacket_alone (ws := ws) (s.malformed_le q ws) alone idle
    refine ⟨_, run.trans (packetEvent_rejects start bad), st, flight, head, held.trans ?_, hbm, pad⟩
    simp only [recordHead, packetId, malformedStatus, word, Nat.one_mul, Nat.zero_mul, Nat.zero_add]

end Sys2Proof.Machine
end

section
/-! PROOF. How the engines' requests complete: their errors, and the bytes of their copies and gathers (O31). -/

namespace Sys2Proof.Machine

/-! ### The end of a request (R183, R185) -/

theorem State.engTry_met {s : State} {k : Nat} {f : State → State} (met : (f s).xmiss = none) : s.engTry k f = (f s).dropAnswers k := by
  unfold State.engTry
  simp only [met]

theorem State.engCtx_modEngCtx (s : State) (k : Nat) (f : EngCtx → EngCtx) : (s.modEngCtx k f).engCtx k = f (s.engCtx k) :=
  Table.get_set_same ..

/-- From `s`, where request `r` stood alone at context `k`, it has completed with a status: its token and its timeline have it, the
context is empty, and no byte has moved. -/
structure Ended (s t : State) (k : Nat) (r : EngReq) (status : Word) : Prop where
  queue : (t.engCtx k).queue = []
  done : (t.engCtx k).done = r.num
  frozen : (t.engCtx k).frozen = ((s.engCtx k).frozen || freezes status)
  token : s.alive r.t = true → r.tok ≠ 0 → (t.thr r.t).getX r.tok = ⟨status, true, false, false⟩
  hbm : t.hbm = s.hbm
  pad : t.pad = s.pad
  hostMem : t.hostMem = s.hostMem

theorem Ended.dropAnswers {s t : State} {k : Nat} {r : EngReq} {status : Word} (h : Ended s t k r status) :
    Ended s (t.dropAnswers k) k r status := by
  rw [State.dropAnswers]
  split
  · exact h
  · have ctx := t.engCtx_modEngCtx k fun c => { c with answers := [] }
    exact ⟨by rw [ctx]; exact h.queue, by rw [ctx]; exact h.done, by rw [ctx]; exact h.frozen, h.token, h.hbm, h.pad, h.hostMem⟩

/-- What the token of a request receives leaves the contexts and the memories. -/
theorem State.landX_ctxs (s : State) (t r : Nat) (v : Word) (p : Bool) : (s.landX t r v p).ctxs = s.ctxs ∧
    (s.landX t r v p).hostMem = s.hostMem ∧ (s.landX t r v p).xmiss = s.xmiss := by
  unfold State.landX
  split <;> exact ⟨rfl, rfl, rfl⟩

/-- The last request of a context completes. -/
theorem State.endReq_last {s : State} {k : Nat} {r : EngReq} (last : (s.engCtx k).queue = [r]) (status : Word) :
    Ended s (s.endReq k status) k r status ∧ (s.endReq k status).xmiss = s.xmiss := by
  obtain ⟨ctxs, host, miss⟩ := s.landX_ctxs r.t r.tok status false
  have pad := s.landX_pad r.t r.tok status false
  have hbm := s.landX_hbm r.t r.tok status false
  have token : s.alive r.t = true → r.tok ≠ 0 → ((s.landX r.t r.tok status false).thr r.t).getX r.tok = ⟨status, true, false, false⟩ :=
    fun alive nz => State.thr_landX alive nz status
  have finish : s.finishReq k status = (if freezes status then (s.landX r.t r.tok status false).postBreach r.ten r.part k
      else s.landX r.t r.tok status false).modEngCtx k fun c =>
        { c with queue := [], done := r.num, frozen := c.frozen || freezes status } := by
    rw [State.finishReq, last]
  generalize s.landX r.t r.tok status false = u at *
  generalize hv : (if freezes status then u.postBreach r.ten r.part k else u) = v at finish
  have same : v.ctxs = u.ctxs ∧ v.hostMem = u.hostMem ∧ v.xmiss = u.xmiss ∧ v.pad = u.pad ∧ v.hbm = u.hbm ∧ v.threads = u.threads := by
    rw [← hv]
    split <;> exact ⟨rfl, rfl, rfl, rfl, rfl, rfl⟩
  obtain ⟨vctxs, vhost, vmiss, vpad, vhbm, vthr⟩ := same
  have ctx := v.engCtx_modEngCtx k fun c => { c with queue := [], done := r.num, frozen := c.frozen || freezes status }
  have run : s.endReq k status =
      v.modEngCtx k fun c => { c with queue := [], done := r.num, frozen := c.frozen || freezes status } := by
    rw [State.endReq, finish, State.startHead, ctx]
  have before : v.engCtx k = s.engCtx k := by rw [State.engCtx, State.engCtx, vctxs, ctxs]
  have thr : v.thr r.t = u.thr r.t := by rw [State.thr, State.thr, vthr]
  rw [run]
  refine ⟨⟨by rw [ctx], by rw [ctx], by rw [ctx, before], fun alive nz => ?_, vhbm.trans hbm, vpad.trans pad, vhost.trans host⟩,
    vmiss.trans miss⟩
  exact (congrArg (fun th => Thread.getX th r.tok) thr).trans (token alive nz)

theorem errorStatus_freezes {code : Nat} (h : code < 65536) : freezes (errorStatus code) = decide (code ∈ [3, 6, 8]) := by
  have top : bit (errorStatus code) 63 = true := by
    rw [bit, errorStatus, word, BitVec.toNat_ofNat]
    simp
    omega
  have low : bits (errorStatus code) 15 0 = code := by
    rw [bits, errorStatus, word, BitVec.toNat_ofNat]
    omega
  rw [freezes, top, low, Bool.true_and, List.contains_eq_mem]

theorem count_freezes {n : Nat} (h : n < 2 ^ 63) : freezes (word n) = false := by
  have top : bit (word n) 63 = false := by
    rw [bit, word, BitVec.toNat_ofNat]
    simp
    omega
  rw [freezes, top, Bool.false_and]

/-! ### The request alone at its context (R183, R331) -/

/-- Request `r` stands alone at context `k`, and its engine may go on with it. -/
structure Heads (s : State) (k : Nat) (r : EngReq) : Prop where
  queue : (s.engCtx k).queue = [r]
  runs : s.tenRuns r.part r.ten = true
  stall : (s.engCtx k).stall = none

section Complete
variable {s : State} {k : Nat} {r : EngReq} (h : Heads s k r)
include h

theorem Heads.engRuns : s.engRuns k r = true := by
  rw [State.engRuns, h.stall, h.runs]
  rfl

theorem Heads.works {u : State} (w : Works s.noMiss u) : (u.engCtx k).queue = [r] := by
  rw [State.engCtx, w.ctxs]
  exact h.queue

theorem copyComplete_runs {kind : Nat} (hk : r.kind = .copy kind) :
    exec (.copyComplete k) s = .next (s.noMiss.engTry k fun s => s.runCopy k kind copyMost r) := by
  have run : exec (.copyComplete k) s = execCopyComplete k s := rfl
  rw [run, execCopyComplete, h.queue]
  dsimp only
  rw [hk]
  dsimp only
  rw [if_pos h.engRuns]

theorem gatherComplete_runs {rows : Bool} (hk : r.kind = .gather rows) :
    exec (.gatherComplete k) s = .next (s.noMiss.engTry k fun s => s.runGather k copyMost rows r) := by
  have run : exec (.gatherComplete k) s = execGatherComplete k s := rfl
  rw [run, execGatherComplete, h.queue]
  dsimp only
  rw [hk]
  dsimp only
  rw [if_pos h.engRuns]

theorem collComplete_error {kind : Nat} (hk : r.kind = .coll kind) (bad : r.code ≠ 0) :
    exec (.collComplete k) s = .next (s.noMiss.engTry k fun s => s.endReq k (errorStatus r.code)) := by
  have ready : s.collReady k r = true := by
    rw [State.collReady, hk, h.engRuns]
    simp [bad]
  have run : exec (.collComplete k) s = execCollComplete k s := rfl
  rw [run, execCollComplete, h.queue]
  dsimp only
  rw [hk]
  dsimp only
  rw [if_pos ready]
  have ends : ∀ t : State, t.endColl k kind r = t.endReq k (errorStatus r.code) := fun t => by
    rw [State.endColl]
    exact if_pos bad
  simp only [ends]

/-- An operation that works for `r`, misses no translation and then ends it. -/
theorem ends_of_works {f : State → State} {u : State} {status : Word} (does : f s.noMiss = u.endReq k status) (w : Works s.noMiss u)
    (met : u.xmiss = none) : Ended u (s.noMiss.engTry k f) k r status := by
  obtain ⟨ended, miss⟩ := State.endReq_last (h.works w) status
  rw [State.engTry_met (by rw [does, miss, met]), does]
  exact ended.dropAnswers

omit h in
/-- The token of a thread that lived before an engine worked. -/
theorem Ended.token_of_works {t u : State} {status : Word} (e : Ended u t k r status) (w : Works s.noMiss u) (alive : s.alive r.t = true)
    (nz : r.tok ≠ 0) : (t.thr r.t).getX r.tok = ⟨status, true, false, false⟩ := e.token ((w.alive r.t).trans alive) nz

/-- A request whose acceptance found an error ends with it. -/
theorem request_error (unsent : ∀ c, r.kind = .copy c → r.sent = false) (bad : r.code ≠ 0) :
    ∃ t, exec (match r.kind with | .copy _ => Instr.copyComplete k | .gather _ => .gatherComplete k | .coll _ => .collComplete k) s = .next t ∧
      Ended s t k r (errorStatus r.code) := by
  have ends : ∀ f : State → State, f s.noMiss = s.noMiss.endReq k (errorStatus r.code) →
      Ended s (s.noMiss.engTry k f) k r (errorStatus r.code) := fun f does => by
    have e := ends_of_works h does (.refl _) rfl
    exact ⟨e.queue, e.done, e.frozen, e.token, e.hbm, e.pad, e.hostMem⟩
  cases hk : r.kind with
  | copy kind =>
    refine ⟨_, copyComplete_runs h hk, ends _ ?_⟩
    rw [State.runCopy, if_pos (by simp [bad, unsent kind hk])]
  | gather rows =>
    refine ⟨_, gatherComplete_runs h hk, ends _ ?_⟩
    rw [State.runGather, if_pos bad]
  | coll kind => exact ⟨_, collComplete_error h hk bad, ends _ rfl⟩

end Complete

/-! ### Copies and gathers from their start (R187, R192-R194) -/

/-- A request before its first byte. -/
structure Fresh (r : EngReq) : Prop where
  code : r.code = 0
  at_ : r.at_ = 0
  seen : r.seen = []
  view : r.view = none
  got : r.got = none
  bytes : r.bytes = 0

/-- No transfer has more bytes than `copyMost`. -/
theorem le_copyMost {n : Nat} (h : n < 2 ^ 63) : n ≤ copyMost := h.le.trans (by decide)

theorem State.copyOk_noMiss (s : State) (kind : Nat) (r : EngReq) : s.noMiss.copyOk kind r = s.copyOk kind r := by
  have place : s.noMiss.part (s.noMiss.cowPart r) = s.part (s.cowPart r) := rfl
  rw [State.copyOk, State.copyOk, place]

theorem Works.cowPart {s t : State} (h : Works s t) (r : EngReq) : t.cowPart r = s.cowPart r := by
  obtain ⟨_, _, _, _, _, _, _, _, _, _, _, _, _, _, _, _, _, e⟩ := h.eq
  rw [e]
  rfl

section FromStart
variable {s : State} {k lim : Nat} {r : EngReq}

theorem runCopy_local {kind : Nat} (code : r.code = 0) (ok : s.copyOk kind r = true) (near : bit (r.desc.getD 1 0) 63 = false) :
    s.runCopy k kind lim r = s.copyLocal k kind lim r := by
  rw [State.runCopy, if_neg (by simp [code]), if_neg (by simp [ok]), if_neg (by rw [near]; exact Bool.false_ne_true)]

theorem copyLocal_rows {kind : Nat} {x : Xfer} (at_ : r.at_ = 0) (win : kind ≠ 2) (apart_ : footprintsMeet (copyDesc kind r.desc).src (copyDesc kind r.desc).sstr
      (copyDesc kind r.desc).dst (copyDesc kind r.desc).dstr (copyDesc kind r.desc).rows (copyDesc kind r.desc).width = false)
    (few : (copyDesc kind r.desc).rows * (copyDesc kind r.desc).width ≤ lim)
    (hx : x = Xfer.rows (r.eng k) (copyDesc kind r.desc).src (copyDesc kind r.desc).dst (copyDesc kind r.desc).sstr
      (copyDesc kind r.desc).dstr (copyDesc kind r.desc).width
      (rowFuel (copyDesc kind r.desc).width ((copyDesc kind r.desc).rows * (copyDesc kind r.desc).width)) 0
      ((copyDesc kind r.desc).rows * (copyDesc kind r.desc).width) ⟨s, r.seen, 0, 0⟩) (good : x.code = 0) :
    s.copyLocal k kind lim r = if kind = 3 then (x.s.cowEntry k r).1.endReq k (x.s.cowEntry k r).2
      else x.s.endReq k (word ((copyDesc kind r.desc).rows * (copyDesc kind r.desc).width)) := by
  unfold State.copyLocal
  extract_lets d total n y
  have all : n = total := by
    simp only [n, at_]
    exact Nat.min_eq_right few
  have same : y = x := by
    rw [hx]
    show Xfer.rows _ _ _ _ _ _ (rowFuel _ n) r.at_ n ⟨s, r.seen, 0, 0⟩ = _
    rw [all, at_]
  have meet : footprintsMeet d.src d.sstr d.dst d.dstr d.rows d.width = false := apart_
  have size : (copyDesc kind r.desc).rows * (copyDesc kind r.desc).width = total := rfl
  rw [size]
  clear_value d total n y
  rw [if_neg (by rw [meet]; exact Bool.false_ne_true), if_neg win, same, if_neg (by simp [good])]
  rcases x.s.cowEntry k r with ⟨u, status⟩
  have over_ : ¬ r.at_ + n < total := by omega
  rw [if_neg over_]

variable (fresh : Fresh r)
include fresh

theorem copyLocal_win {u : State} (apart_ : footprintsMeet (bits (r.desc.getD 0 0) 47 0) 0 (bits (r.desc.getD 1 0) 47 0) 0 1
      (bits (r.desc.getD 2 0) 31 0) = false)
    (hu : Xfer.copyWin (r.eng k) (bits (r.desc.getD 0 0) 47 0) (bits (r.desc.getD 1 0) 47 0) (bits (r.desc.getD 2 0) 31 0) ⟨s, [], 0, 0⟩ =
      (u, word (bits (r.desc.getD 2 0) 31 0))) :
    s.copyLocal k 2 lim r = u.endReq k (word (bits (r.desc.getD 2 0) 31 0)) := by
  have meet : footprintsMeet (copyDesc 2 r.desc).src (copyDesc 2 r.desc).sstr (copyDesc 2 r.desc).dst (copyDesc 2 r.desc).dstr
      (copyDesc 2 r.desc).rows (copyDesc 2 r.desc).width = false := apart_
  have moves : Xfer.copyWin (r.eng k) (copyDesc 2 r.desc).src (copyDesc 2 r.desc).dst (copyDesc 2 r.desc).width ⟨s, r.seen, 0, 0⟩ =
      (u, word (bits (r.desc.getD 2 0) 31 0)) := by
    rw [fresh.seen]
    exact hu
  unfold State.copyLocal
  extract_lets d total n y
  clear_value n y
  rw [if_neg (by rw [meet]; exact Bool.false_ne_true), if_pos rfl, moves]

theorem runRows_ends {x : Xfer} (shape : bits (r.desc.getD 0 0) 63 48 = 0 ∧ bits (r.desc.getD 1 0) 63 48 = 0 ∧
      bits (r.desc.getD 2 0) 63 48 = 0 ∧ bits (r.desc.getD 4 0) 63 32 = 0 ∧ r.desc.getD 5 0 = 0 ∧ r.desc.getD 6 0 = 0 ∧
      r.desc.getD 7 0 = 0 ∧ bits (r.desc.getD 2 0) 47 0 % 4 = 0)
    (few : bits (r.desc.getD 4 0) 31 0 * bits (r.desc.getD 3 0) 31 0 ≤ lim)
    (hx : x = Xfer.gatherRows (r.eng k) (bits (r.desc.getD 0 0) 47 0) (bits (r.desc.getD 1 0) 47 0) (bits (r.desc.getD 2 0) 47 0)
      (bits (r.desc.getD 3 0) 63 32) (bits (r.desc.getD 3 0) 31 0)
      (rowFuel (bits (r.desc.getD 3 0) 31 0) (bits (r.desc.getD 4 0) 31 0 * bits (r.desc.getD 3 0) 31 0)) 0
      (bits (r.desc.getD 4 0) 31 0 * bits (r.desc.getD 3 0) 31 0) ⟨s, [], 0, 0⟩) (good : x.code = 0) :
    s.runGather k lim true r = x.s.endReq k (word (bits (r.desc.getD 4 0) 31 0 * bits (r.desc.getD 3 0) 31 0)) := by
  obtain ⟨a, b, c, d, e, f, g, i⟩ := shape
  rw [State.runGather, if_neg (by simp [fresh.code]), if_pos rfl, State.runRows]
  generalize bits (r.desc.getD 4 0) 31 0 * bits (r.desc.getD 3 0) 31 0 = total at *
  have all : min lim (total - 0) = total := Nat.min_eq_right few
  dsimp only
  rw [if_neg (by simp only [a, b, c, d, e, f, g, i]; decide), fresh.at_, fresh.seen, all, ← hx, if_neg (by simp [good]), if_neg (by omega)]

theorem runWalk_ends {v : View} {n : Nat} {g : Option (Nat × Nat)} {x : Xfer} (few : bits (r.desc.getD 4 0) 63 32 ≤ lim)
    (ok : walkOk (fun i => r.desc.getD i 0) = true)
    (hv : s.walkView r.part (bits (r.desc.getD 0 0) 17 0) (bit (r.desc.getD 0 0) 18) (bit (r.desc.getD 0 0) 19) = some v)
    (hx : Xfer.walk (r.eng k) v (bits (r.desc.getD 1 0) 47 0) (bits (r.desc.getD 2 0) 47 0) (bits (r.desc.getD 3 0) 63 32)
      (bits (r.desc.getD 3 0) 31 0) (bits (r.desc.getD 4 0) 31 0) (bits (r.desc.getD 5 0) 15 0) (bits (r.desc.getD 4 0) 63 32) 0 none 0
      ⟨s, [], 0, 0⟩ = (n, g, x)) (good : x.code = 0) :
    s.runGather k lim false r = x.s.endReq k (word n) := by
  rw [State.runGather, if_neg (by simp [fresh.code]), if_neg Bool.false_ne_true, State.runWalk]
  have all : min lim (bits (r.desc.getD 4 0) 63 32 - 0) = bits (r.desc.getD 4 0) 63 32 := Nat.min_eq_right few
  have mine : (r.eng k).part = r.part := rfl
  rw [fresh.view]
  dsimp only
  rw [mine, hv, Option.filter_some, if_pos ok]
  dsimp only
  rw [fresh.at_, fresh.seen, fresh.got, fresh.bytes, all, hx]
  dsimp only
  rw [if_neg (by simp [good]), if_neg (by omega)]

end FromStart

/-! ### A LIN copy between two places (R192) -/

theorem State.readAt_length (s : State) (p : Place) (n : Nat) : (s.readAt p n).length = n := by
  induction n generalizing p with
  | zero => rfl
  | succ n ih => rw [State.readAt, List.length_cons, ih]

/-- One run of bytes that carries no error is read whole. -/
theorem Xfer.readAll_run {e : Eng} {va n : Nat} {x : Xfer} {p : Place} (pos : 0 < n) (one : n ≤ runLength va)
    (place : x.s.engPlace e .read va = .ok (p, none)) (good : x.s.badAt p n = false) (clean : Clean x.s) :
    Xfer.readAll e va n x = (x.s.readAt p n, x) := by
  have whole : min n (runLength va) = n := Nat.min_eq_left one
  have sound : x.s.firstBad p n = none := by rw [State.firstBad, good, if_neg Bool.false_ne_true]
  obtain ⟨m, rfl⟩ : ∃ m, n = m + 1 := ⟨n - 1, by omega⟩
  rw [Xfer.readAll, Xfer.read, if_neg (Nat.succ_ne_zero m), place]
  dsimp only
  rw [whole, Xfer.count, sound]
  dsimp only
  rw [State.noteRead_clean _ _ _ _ clean, Nat.sub_self, Xfer.read, if_pos rfl, List.append_nil]

/-- One run of bytes is written at its place. -/
theorem Xfer.writeAll_run {e : Eng} {va : Nat} {bs : List Byte} {x : Xfer} {p : Place} (some_ : bs ≠ []) (one : bs.length ≤ runLength va)
    (place : x.s.engPlace e .write va = .ok (p, none)) :
    Xfer.writeAll e .write va bs x = { x with s := x.s.writeAt e.ctx p bs, done := x.done + bs.length } := by
  have whole : min bs.length (runLength va) = bs.length := Nat.min_eq_left one
  have full : bs.isEmpty = false := by cases bs with
    | nil => exact absurd rfl some_
    | cons b bs => rfl
  obtain ⟨m, hm⟩ : ∃ m, bs.length = m + 1 := ⟨bs.length - 1, by have := List.length_pos_iff.2 some_; omega⟩
  rw [Xfer.writeAll, Xfer.write, if_neg (by rw [full]; exact Bool.false_ne_true), place]
  dsimp only
  rw [whole, Xfer.count, List.take_length, List.drop_length, hm, Xfer.write]
  exact if_pos rfl

theorem Xfer.move_run {e : Eng} {src dst n : Nat} {x : Xfer} {p q : Place} (pos : 0 < n) (good : x.code = 0) (from_ : n ≤ runLength src)
    (to_ : n ≤ runLength dst) (clean : Clean x.s) (sound : x.s.badAt p n = false) (hp : x.s.engPlace e .read src = .ok (p, none))
    (hq : x.s.engPlace e .write dst = .ok (q, none)) :
    (Xfer.move e src dst n x).s = x.s.writeAt e.ctx q (x.s.readAt p n) ∧ (Xfer.move e src dst n x).code = 0 := by
  have size := x.s.readAt_length p n
  have some_ : x.s.readAt p n ≠ [] := List.length_pos_iff.1 (by omega)
  rw [Xfer.move, Xfer.readAll_run pos from_ hp sound clean]
  dsimp only
  rw [Xfer.writeAll_run (x := { x with code := 0 }) some_ (by omega) hq]
  dsimp only
  rw [if_neg (by simp), good]
  exact ⟨rfl, rfl⟩

/-- The descriptor of a LIN copy (R191). -/
def linDesc (src dst n : Nat) : List Word := [BitVec.ofNat 64 src, BitVec.ofNat 64 dst, BitVec.ofNat 64 (2 ^ 32 + n), 0]

theorem copyDesc_lin {src dst n : Nat} (hs : src < 2 ^ 48) (hd : dst < 2 ^ 48) (hn : n < 65536) :
    copyDesc 0 (linDesc src dst n) = ⟨src, dst, 0, 0, n, 1⟩ := by
  have a : bits (BitVec.ofNat 64 src) 47 0 = src := by rw [bits, BitVec.toNat_ofNat]; omega
  have b : bits (BitVec.ofNat 64 dst) 47 0 = dst := by rw [bits, BitVec.toNat_ofNat]; omega
  have c : bits (BitVec.ofNat 64 (2 ^ 32 + n)) 31 0 = n := by rw [bits, BitVec.toNat_ofNat]; omega
  simp only [copyDesc, linDesc, List.getD_cons_zero, List.getD_cons_succ, a, b, c]
  rfl

theorem copyOk_lin {s : State} {r : EngReq} {src dst n : Nat} (desc : r.desc = linDesc src dst n) (hs : src < 2 ^ 48) (hd : dst < 2 ^ 48)
    (hn : n < 65536) : s.copyOk 0 r = true ∧ bit (r.desc.getD 1 0) 63 = false := by
  have a : bits (BitVec.ofNat 64 src) 63 48 = 0 := by rw [bits, BitVec.toNat_ofNat]; omega
  have b : bit (BitVec.ofNat 64 dst) 62 = false := by rw [bit, BitVec.toNat_ofNat]; simp; omega
  have c : bit (BitVec.ofNat 64 dst) 63 = false := by rw [bit, BitVec.toNat_ofNat]; simp; omega
  have d : bits (BitVec.ofNat 64 dst) 61 48 = 0 := by rw [bits, BitVec.toNat_ofNat]; omega
  have e : bits (BitVec.ofNat 64 (2 ^ 32 + n)) 63 32 = 1 := by rw [bits, BitVec.toNat_ofNat]; omega
  rw [State.copyOk, desc]
  simp only [linDesc, List.getD_cons_zero, List.getD_cons_succ, a, b, c, d, e]
  exact ⟨rfl, trivial⟩

theorem footprints_apart {src dst n : Nat} (apart_ : src + n ≤ dst ∨ dst + n ≤ src) : footprintsMeet src 0 dst 0 1 n = false := by
  simp [footprintsMeet, List.range_succ]
  omega

/-- The bytes of one row move at once. -/
theorem Xfer.rows_once {e : Eng} {src dst n : Nat} {x : Xfer} (pos : 0 < n) (good : (x.move e src dst n).code = 0) :
    Xfer.rows e src dst 0 0 n (rowFuel n n) 0 n x = x.move e src dst n := by
  have fuel : rowFuel n n = 3 := by
    rw [rowFuel, Nat.max_eq_left pos, Nat.div_self pos]
  have piece : rowPiece n 0 n = (0, 0, n) := by
    rw [rowPiece, Nat.zero_div, Nat.zero_mod, Nat.sub_zero, Nat.min_self]
  rw [fuel, Xfer.rows, if_neg (by omega), piece]
  dsimp only
  simp only [Nat.zero_mul, Nat.add_zero]
  rw [if_neg (by simp [good]), Nat.sub_self, Xfer.rows, if_pos rfl]

theorem State.windowPlace_noMiss (s : State) (part ten sid : Nat) (u : Use) (va : Nat) :
    s.noMiss.windowPlace part ten sid u va = s.windowPlace part ten sid u va := by
  have admits : ∀ g, s.noMiss.admits part g = s.admits part g := fun _ => rfl
  have banks : ∀ b, s.noMiss.admitsBank part b = s.admitsBank part b := fun _ => rfl
  have pads : ∀ c b, s.noMiss.padOf part ten c b = s.padOf part ten c b := fun _ _ => rfl
  have held : ∀ b, s.noMiss.bankHeldBy part ten b = s.bankHeldBy part ten b := fun _ => rfl
  have slots : ∀ k, s.noMiss.admitsSlot part sid k = s.admitsSlot part sid k := fun _ => rfl
  have regs : ∀ k o, s.noMiss.regPlace part ten k o = s.regPlace part ten k o := fun _ _ => rfl
  simp only [State.windowPlace, admits, banks, pads, held, slots, regs]

theorem State.engPlace_noMiss (s : State) (e : Eng) (u : EngUse) (va : Nat) : s.noMiss.engPlace e u va = s.engPlace e u va := by
  have admits : s.noMiss.admits = s.admits := rfl
  have regs : s.noMiss.engReg = s.engReg := by
    have slots : s.noMiss.admitsSlot = s.admitsSlot := rfl
    have places : s.noMiss.regPlace = s.regPlace := rfl
    funext e o
    rw [State.engReg, State.engReg, slots, places]
  have leaf : s.noMiss.engLookup e va = s.engLookup e va := rfl
  rw [State.engPlace, State.engPlace, leaf, State.windowPlace_noMiss, admits, regs]

theorem State.readAt_noMiss (s : State) (p : Place) (n : Nat) : s.noMiss.readAt p n = s.readAt p n := by
  induction n generalizing p with
  | zero => rfl
  | succ n ih =>
    have byte : s.noMiss.readByte p = s.readByte p := rfl
    rw [State.readAt, State.readAt, ih, byte]

theorem writeAt_pad {s : State} (c : Ctx) (k o : Nat) (bs : List Byte) :
    (s.writeAt c (.pad k o) bs).pad = Memory.writeBytes s.pad (k * 262144 + o) bs ∧ (s.writeAt c (.pad k o) bs).hbm = s.hbm ∧
      (s.writeAt c (.pad k o) bs).hostMem = s.hostMem ∧ (s.writeAt c (.pad k o) bs).xmiss = s.xmiss := by
  have around := s.writePad_around c k o bs
  obtain ⟨hbm, -, host, pad⟩ := Around.memories around
  refine ⟨pad, hbm, host, ?_⟩
  obtain ⟨_, _, _, _, _, _, _, _, _, e⟩ := around
  exact (congrArg State.xmiss e :)

/-- Settles O31: a request at the head of its context ends by `endReq`; what its engine moves before keeps the contexts and the
threads that live (`Works`), and the bytes are those that the moves of the statement leave. -/
theorem enginesComplete : Obligations.EnginesComplete := by
  unfold Obligations.EnginesComplete
  refine ⟨fun s k r code queue runs stall unsent hc bad small => ?_, ?_, ?_⟩
  · intro i
    obtain ⟨t, run, e⟩ := request_error ⟨queue, runs, stall⟩ unsent (by rw [hc]; exact bad)
    rw [hc] at e
    exact ⟨t, run, e.queue, e.done, e.frozen.trans (by rw [errorStatus_freezes small]), e.token, e.hbm, e.pad⟩
  · intro s k r queue runs stall code at_ seen view got bytes w addr e start ends width
    have h : Heads s k r := ⟨queue, runs, stall⟩
    have fresh : Fresh r := ⟨code, at_, seen, view, got, bytes⟩
    have finishes : ∀ (i : Instr) (u : State) (n : Nat) (f : State → State), exec i s = .next (s.noMiss.engTry k f) →
        Works s.noMiss u → (n < 2 ^ 63 → f s.noMiss = u.endReq k (word n)) → ends i u n := by
      intro i u n f run works does few met
      have e := ends_of_works h (does few) works met
      exact ⟨_, run, e.queue, e.done, e.token_of_works works, e.hbm, e.pad, e.hostMem⟩
    refine ⟨fun rows x hk ok near hr apart_ hx good => ?_, fun u hk ok apart_ hu => ?_, fun x u hk ok near apart_ hx good inside hu => ?_,
      fun x hk a b c d e5 e6 e7 al => ?_, fun v n g x hk ok hv hx good => ?_⟩
    · subst hr
      refine finishes _ _ _ _ (copyComplete_runs h hk) (by rw [hx]; exact Xfer.rows_works _ _ _ _ _ _ _ _ _ _ (.refl _)) fun few => ?_
      exact (runCopy_local code ((s.copyOk_noMiss 1 r).trans ok) near).trans (copyLocal_rows at_ (by decide) apart_ (le_copyMost few) (by rw [seen]; exact hx) good)
    · have near : bit (r.desc.getD 1 0) 63 = false := by
        cases far : bit (r.desc.getD 1 0) 63 with
        | false => rfl
        | true => rw [State.copyOk, far] at ok; simp at ok
      refine finishes _ _ _ _ (copyComplete_runs h hk) ?_ fun few => ?_
      · have := Xfer.copyWin_works e (addr 0) (addr 1) width (s := s.noMiss) start (.refl _)
        rw [hu] at this
        exact this
      · exact (runCopy_local code ((s.copyOk_noMiss 2 r).trans ok) near).trans (copyLocal_win fresh apart_ hu)
    · have one : (copyDesc 3 r.desc).rows * (copyDesc 3 r.desc).width = width := Nat.one_mul _
      have moved : Works s.noMiss x.s := by rw [hx]; exact Xfer.rows_works _ _ _ _ _ _ _ _ _ _ (.refl _)
      have written : x.s.cowEntry k r = (u, word width) := by
        have place : State.inRegion x.s (x.s.cowPart r) (bits (r.desc.getD 3 0) 47 0) 4 = true := by
          have same : x.s.cowPart r = s.cowPart r := moved.cowPart r
          rw [same]
          exact inside
        rw [State.cowEntry, if_pos place, hu]
      refine finishes _ _ _ _ (copyComplete_runs h hk) (by rw [hu]; exact moved.trans (State.writeHbm_works ..)) fun few => ?_
      refine (runCopy_local code ((s.copyOk_noMiss 3 r).trans ok) near).trans ((copyLocal_rows (kind := 3) at_ (by decide) apart_
        (by rw [one]; exact le_copyMost few) (by rw [one, seen]; exact hx) good).trans ?_)
      rw [if_pos rfl, written]
    · intro rb total hx good
      refine finishes _ _ _ _ (gatherComplete_runs h hk) (by rw [hx]; exact Xfer.gatherRows_works _ _ _ _ _ _ _ _ _ _ (.refl _))
        fun few => ?_
      exact runRows_ends fresh ⟨a, b, c, d, e5, e6, e7, al⟩ (le_copyMost few) hx good
    · have moved := Xfer.walk_works e v (addr 1) (addr 2) (bits (w 3) 63 32) (bits (w 3) 31 0) (bits (w 4) 31 0) (bits (w 5) 15 0)
        (bits (w 4) 63 32) 0 none 0 (s := s.noMiss) start (.refl _)
      rw [hx] at moved
      have few : bits (r.desc.getD 4 0) 63 32 < 2 ^ 63 := (Nat.mod_lt _ (by decide)).trans (show 2 ^ (63 + 1 - 32) < 2 ^ 63 by decide)
      exact finishes _ _ _ _ (gatherComplete_runs h hk) moved fun _ => runWalk_ends fresh (le_copyMost few) ok hv hx good
  · intro s k r src dst n p queue runs stall hk code at_ desc pos small hs hd apart_ from_ to_ clean acc xreg vreg data hp c o hq
    have h : Heads s k r := ⟨queue, runs, stall⟩
    obtain ⟨ok, near⟩ := copyOk_lin (s := s) desc hs hd small
    have tidy : Clean s.noMiss := ⟨clean.hbm, clean.pad, clean.cache, clean.host⟩
    have moved := Xfer.move_run (e := r.eng k) (src := src) (dst := dst) (x := ⟨s.noMiss, r.seen, 0, 0⟩) pos rfl from_ to_ tidy
      (tidy.badAt_memory acc xreg vreg data n) ((s.engPlace_noMiss ..).trans hp) ((s.engPlace_noMiss ..).trans hq)
    have reads : s.noMiss.readAt p n = s.readAt p n := s.readAt_noMiss p n
    have rows : Xfer.rows (r.eng k) src dst 0 0 n (rowFuel n n) 0 n ⟨s.noMiss, r.seen, 0, 0⟩ =
        Xfer.move (r.eng k) src dst n ⟨s.noMiss, r.seen, 0, 0⟩ := Xfer.rows_once pos moved.2
    have fields := copyDesc_lin (src := src) (dst := dst) hs hd small
    have local_ : s.noMiss.copyLocal k 0 copyMost r =
        (Xfer.move (r.eng k) src dst n ⟨s.noMiss, r.seen, 0, 0⟩).s.endReq k (word n) := by
      have given := copyLocal_rows (s := s.noMiss) (k := k) (lim := copyMost) (kind := 0)
        (x := Xfer.move (r.eng k) src dst n ⟨s.noMiss, r.seen, 0, 0⟩) at_ (by decide)
      rw [show r.desc = linDesc src dst n from desc, fields] at given
      dsimp only at given
      rw [Nat.one_mul] at given
      exact given (footprints_apart apart_) (le_copyMost (by omega)) rows.symm moved.2
    have pads := writeAt_pad (s := s.noMiss) (r.eng k).ctx c o (s.noMiss.readAt p n)
    rw [moved.1] at local_
    have e := ends_of_works h (f := fun s => s.runCopy k 0 copyMost r) ((runCopy_local code ((s.copyOk_noMiss 0 r).trans ok) near).trans local_)
      (State.writeAt_works ..) pads.2.2.2
    exact ⟨_, copyComplete_runs h hk, e.pad.trans (pads.1.trans (by rw [reads]; rfl)), e.hbm.trans pads.2.1, e.hostMem.trans pads.2.2.1, e.queue, e.done,
      e.token_of_works (State.writeAt_works ..)⟩

end Sys2Proof.Machine
end

section
/-! PROOF. How engine requests, WAITTL, ATSUB and a pop of the dispatch port issue (O30). -/

namespace Sys2Proof.Machine

/-! ### Reading a descriptor leaves the scratchpads -/

theorem State.writeHbm_pad (s : State) (c : Ctx) (a : Nat) (bs : List Byte) : (s.writeHbm c a bs).pad = s.pad :=
  (Around.memories (s.writeHbm_around c a bs)).2.2.2

theorem State.noteRead_pad_kept (s : State) (c : Ctx) (p : Place) (n : Nat) : (s.noteRead c p n).pad = s.pad :=
  (Around.memories (s.noteRead_around c p n)).2.2.2

theorem State.noteMiss_pad (s : State) (va c : Nat) : (s.noteMiss va c).pad = s.pad := by
  rw [State.noteMiss]
  split <;> rfl

theorem State.countAccess_pad (s : State) (c : Ctx) (va : Nat) (l : Leaf) : (s.countAccess c va l).pad = s.pad := by
  unfold State.countAccess
  simp only [Bool.not_eq_true', Bool.and_eq_true, ne_eq]
  split
  · rfl
  split
  · exact State.writeHbm_pad ..
  split
  · split
    · exact (State.writeHbm_pad ..).trans (State.writeHbm_pad s ..)
    · exact State.writeHbm_pad ..
  · exact State.writeHbm_pad ..

theorem Xfer.count_pad (x : Xfer) (c : Ctx) (va : Nat) (l : Option Leaf) : (x.count c va l).s.pad = x.s.pad := by
  cases l with
  | none => rfl
  | some l =>
    simp only [Xfer.count]
    split
    · exact State.countAccess_pad ..
    · rfl

theorem Xfer.read_pad (e : Eng) (fuel va n : Nat) (x : Xfer) : (Xfer.read e fuel va n x).2.s.pad = x.s.pad := by
  induction fuel generalizing va n x with
  | zero => rfl
  | succ fuel ih =>
    unfold Xfer.read
    split
    · rfl
    · split
      · exact State.noteMiss_pad ..
      · dsimp only
        split
        · exact (State.noteRead_pad_kept ..).trans (Xfer.count_pad ..)
        · exact (ih ..).trans ((State.noteRead_pad_kept ..).trans (Xfer.count_pad ..))

theorem Xfer.words_pad (e : Eng) (va n : Nat) (x : Xfer) : (Xfer.words e va n x).2.s.pad = x.s.pad := by
  have reads := Xfer.read_pad e (8 * n + 1) va (8 * n) x
  rw [Xfer.words, Xfer.readAll]
  dsimp only
  split <;> exact reads

/-! ### Acceptance (R182, R183, R201) -/

/-- The state in which a descriptor has been read. -/
theorem State.acceptDesc_eq (s : State) (e : Eng) (kind : EngKind) (a : Word) :
    (s.acceptDesc e kind a).2.2.2 = (Xfer.words e a.toNat kind.words ⟨s, [], 0, 0⟩).2 := by
  unfold State.acceptDesc
  dsimp only
  split
  · rfl
  · cases kind <;> rfl

/-- The state in which a context has taken a request at the end of its queue, with its number in LASTTL. -/
def State.accepted (w : State) (k num : Nat) (r : EngReq) : State :=
  (State.modEngCtx { w with nextOp := w.nextOp + 1 } k fun c => { c with acc := num, queue := c.queue ++ [r] }).modThr w.cur
    fun th => { th with lastTl := word num }

theorem State.accept_spec (s : State) (k q tok : Nat) (kind : EngKind) (a : Word) : ∃ w r, Works s w ∧ w.pad = s.pad ∧
    s.accept k q tok kind a = w.accepted k ((s.engCtx k).acc + 1) r ∧ r.kind = kind ∧ ((s.engCtx k).frozen = true → r.code = 15) := by
  unfold State.accept
  by_cases frozen : (s.engCtx k).frozen = true
  · simp only [if_pos frozen]
    exact ⟨s, _, .refl s, rfl, rfl, rfl, fun _ => rfl⟩
  · simp only [if_neg frozen]
    generalize he : (⟨s.me.sid, s.me.part, s.me.ten, 128 + (if q < 4 then 8 + q else 12), some k⟩ : Eng) = e
    have same := s.acceptDesc_eq e kind a
    refine ⟨(s.acceptDesc e kind a).2.2.2.s, _, ?_, ?_, rfl, rfl, fun h => absurd h frozen⟩
    · rw [same]
      exact Xfer.words_works _ _ _ _ (.refl s)
    · rw [same]
      exact Xfer.words_pad ..

/-- A head that is no collective to start leaves its context as it is. -/
theorem State.startHead_idle {s : State} {k : Nat}
    (idle : ∀ r rest, (s.engCtx k).queue = r :: rest → ∀ c, r.kind = .coll c → r.code ≠ 0 ∨ r.sent = true) : s.startHead k = s := by
  unfold State.startHead
  split
  next r rest hq =>
    split
    next c hk => rw [if_pos (by rcases idle r rest hq c hk with h | h <;> simp [h])]
    · rfl
    · rfl
  · rfl

/-- A context that gives up its answers keeps its requests. -/
theorem State.dropAnswers_keeps (s : State) (k : Nat) : ∃ c, s.dropAnswers k = { s with ctxs := c } ∧
    ((s.dropAnswers k).engCtx k).queue = (s.engCtx k).queue ∧ ((s.dropAnswers k).engCtx k).acc = (s.engCtx k).acc := by
  rw [State.dropAnswers]
  split
  · exact ⟨_, rfl, rfl, rfl⟩
  · rw [State.engCtx_modEngCtx]
    exact ⟨_, rfl, rfl, rfl⟩

theorem State.accepted_ctx (w : State) (k num : Nat) (r : EngReq) :
    (w.accepted k num r).engCtx k = { w.engCtx k with acc := num, queue := (w.engCtx k).queue ++ [r] } := Table.get_set_same ..

theorem State.accepted_issued (w : State) (alive : w.alive w.cur = true) (k num : Nat) (r : EngReq) :
    let t := ((w.accepted k num r).dropAnswers k).advance.issued
    t.me = { ({ w.thr w.cur with lastTl := word num } : Thread).past w.insnLen with wait := none, answers := [] } ∧
      t.engCtx k = ((w.accepted k num r).dropAnswers k).engCtx k ∧ t.pad = w.pad := by
  obtain ⟨c, drops, -, -⟩ := (w.accepted k num r).dropAnswers_keeps k
  have shape : (w.accepted k num r).dropAnswers k =
      State.modThr { w with nextOp := w.nextOp + 1, ctxs := c } w.cur fun th => { th with lastTl := word num } := drops
  generalize hb : ({ w with nextOp := w.nextOp + 1, ctxs := c } : State) = base at shape
  have cur : base.cur = w.cur := by rw [← hb]
  have lives : (base.modThr w.cur fun th => { th with lastTl := word num }).alive w.cur = true := by
    have same : base.alive w.cur = true := by rw [← hb]; exact alive
    exact (State.alive_modThr _ _ _ _ same).trans same
  have issues : ((base.modThr w.cur fun th => { th with lastTl := word num }).advance).issued =
      base.modThr w.cur fun th => { ({ th with lastTl := word num } : Thread).past base.insnLen with wait := none, answers := [] } := by
    refine (State.issued_advance _ ?_).trans ?_
    · exact (congrArg (State.alive _) cur).trans lives
    · exact (congrArg (fun c => State.modThr _ c _) cur).trans (State.modThr_modThr ..)
  rw [shape, issues]
  refine ⟨?_, rfl, by rw [← hb]; rfl⟩
  have mine : (base.modThr w.cur fun th => { ({ th with lastTl := word num } : Thread).past base.insnLen with wait := none, answers := [] }).me =
      (base.modThr w.cur fun th => { ({ th with lastTl := word num } : Thread).past base.insnLen with wait := none, answers := [] }).thr w.cur :=
    congrArg (State.thr _) cur
  rw [mine, State.thr_modThr_same, ← hb]
  rfl

theorem close_accepting {k : Nat} {t s : State} (met : t.xmiss = none) :
    (accepting k t).close s = .next (((t.dropAnswers k).startHead k).advance).issued := by
  rw [accepting, met]
  rfl

theorem close_accepting_missing {k page : Nat} {t s : State} (miss : t.xmiss = some page) :
    (accepting k t).close s = .next ((s.engMiss k page).parkOn .other) := by
  rw [accepting, miss]
  rfl

theorem Needs.marks_ctxKeyOf (n : Needs) (th : Thread) (q : Nat) : (n.marks th).ctxKeyOf q = th.ctxKeyOf q := by
  rw [Thread.ctxKeyOf, Thread.ctxKeyOf, Needs.marks_part, Needs.marks_ten, Needs.marks_sid]

section Request
variable {s : State} {tok q : Nat} {b : Src} (kind : EngKind) (h : Ready s { src := [b], dx := [tok] }) (calm : s.performed s.cur = true)
  (aligned : (s.rx b).toNat % 8 = 0) (room : (s.engCtx (s.me.ctxKeyOf q)).queue.length < 16)

/-- The state in which a request of the current thread has been accepted. -/
def State.requested (s : State) (b : Src) (tok q : Nat) (kind : EngKind) : State :=
  ((s.take { src := [b], dx := [tok] }).noMiss.deferX tok).accept (s.me.ctxKeyOf q) q tok kind (s.rx b)

include calm aligned room in
theorem requestOf_accepts : requestOf q tok b kind (s.take { src := [b], dx := [tok] }) =
    accepting (s.me.ctxKeyOf q) (s.requested b tok q kind) := by
  have key : (s.take { src := [b], dx := [tok] }).me.ctxKeyOf q = s.me.ctxKeyOf q := by rw [State.me_take, Needs.marks_ctxKeyOf]
  have queue : (s.take { src := [b], dx := [tok] }).engCtx (s.me.ctxKeyOf q) = s.engCtx (s.me.ctxKeyOf q) := rfl
  rw [requestOf, State.rx_take, key, queue, if_neg (by simp [aligned]), afterHeld, State.performed_take, if_pos calm, if_neg (by omega)]
  rfl

include h in
/-- What a request that its engine can read has changed when it has issued. -/
theorem requested_spec
    (still : (∀ c, kind ≠ .coll c) ∨ (s.engCtx (s.me.ctxKeyOf q)).frozen = true ∨ (s.engCtx (s.me.ctxKeyOf q)).queue ≠ [])
    (started : ∀ r ∈ (s.engCtx (s.me.ctxKeyOf q)).queue, ∀ c, r.kind = .coll c → r.sent = true) :
    let k := s.me.ctxKeyOf q
    let t := ((((s.requested b tok q kind).dropAnswers k).startHead k).advance).issued
    (t.engCtx k).acc = (s.engCtx k).acc + 1 ∧ (t.engCtx k).queue.length = (s.engCtx k).queue.length + 1 ∧
      t.me.lastTl = word ((s.engCtx k).acc + 1) ∧ (tok ≠ 0 → (t.me.getX tok).full = false ∧ (t.me.getX tok).pend = true) ∧
      t.me.pc = s.me.pc + word s.insnLen ∧ t.pad = s.pad := by
  intro k t
  obtain ⟨w, r, works, pad, accepts, hk, hc⟩ := ((s.take { src := [b], dx := [tok] }).noMiss.deferX tok).accept_spec k q tok kind (s.rx b)
  have before : w.engCtx k = s.engCtx k := by rw [State.engCtx, works.ctxs]; rfl
  have number : (((s.take { src := [b], dx := [tok] }).noMiss.deferX tok).engCtx k).acc = (s.engCtx k).acc := rfl
  rw [number] at accepts
  change s.requested b tok q kind = _ at accepts
  have cur : w.cur = s.cur := works.cur
  have alive : w.alive w.cur = true := by
    have lives := State.alive_take h.alive { src := [b], dx := [tok] }
    rw [cur, works.alive]
    exact (State.alive_modThr (s.take { src := [b], dx := [tok] }) s.cur s.cur (fun th => th.deferX tok) lives).trans lives
  have ctx := w.accepted_ctx k ((s.engCtx k).acc + 1) r
  rw [before] at ctx
  obtain ⟨c, drops, queue, acc⟩ := (w.accepted k ((s.engCtx k).acc + 1) r).dropAnswers_keeps k
  rw [ctx] at queue acc
  have idle : ((s.requested b tok q kind).dropAnswers k).startHead k = (s.requested b tok q kind).dropAnswers k := by
    rw [accepts]
    refine State.startHead_idle fun r' rest hq c' hc' => ?_
    rw [queue] at hq
    rcases hs : (s.engCtx k).queue with _ | ⟨r0, l⟩
    · rw [hs] at hq
      obtain ⟨rfl, -⟩ := List.cons.inj hq
      rcases still with h | h | h
      · exact absurd (hk.symm.trans hc') (h c')
      · exact .inl (by rw [hc h]; decide)
      · exact absurd hs h
    · rw [hs] at hq
      obtain ⟨rfl, -⟩ := List.cons.inj hq
      exact .inr (started r0 (by rw [hs]; exact List.mem_cons_self ..) c' hc')
  obtain ⟨rs, thread⟩ := works.thr s.cur
  have mine : ((s.take { src := [b], dx := [tok] }).noMiss.deferX tok).thr s.cur =
      (Needs.marks { src := [b], dx := [tok] } s.me).deferX tok := s.me_take_deferX { src := [b], dx := [tok] } tok
  rw [mine] at thread
  have length : w.insnLen = s.insnLen := by
    obtain ⟨_, _, _, _, _, _, _, _, _, _, _, _, _, _, _, _, _, e⟩ := works.eq
    rw [e]
    rfl
  obtain ⟨me, there, pads⟩ := w.accepted_issued alive k ((s.engCtx k).acc + 1) r
  have issues : t = ((w.accepted k ((s.engCtx k).acc + 1) r).dropAnswers k).advance.issued := by
    simp only [t]
    rw [idle, accepts]
  rw [← issues] at me there pads
  rw [cur, thread, length] at me
  refine ⟨by rw [there, acc], ?_, by rw [me]; rfl, fun nz => ?_, ?_, pads.trans pad⟩
  · rw [there, queue, List.length_append]
    rfl
  · have reg : t.me.getX tok = { (Needs.marks { src := [b], dx := [tok] } s.me).getX tok with full := false, pend := true } := by
      rw [me]
      exact (Thread.getX_setX _ tok tok _).trans (if_pos ⟨rfl, nz⟩)
    rw [reg]
    exact ⟨rfl, rfl⟩
  · rw [me]
    exact congrArg (· + word s.insnLen) (Thread.deferX_keeps Thread.pc (fun _ _ => rfl) ..)

/-- An engine request issues, or waits for the translation of its descriptor. -/
def Accepts (s : State) (tok : Nat) (b : Src) (i : Instr) (q : Nat) (kind : EngKind) : Prop :=
  let k := s.me.ctxKeyOf q
  let v := s.requested b tok q kind
  (s.engCtx k).queue.length < 16 →
    (v.xmiss = none → exec i s = .next (((((v.dropAnswers k).startHead k).advance).issued))) ∧
    (∀ page, v.xmiss = some page → exec i s = .next ((s.engMiss k page).parkOn .other)) ∧
    (v.xmiss = none → ((∀ c, kind ≠ .coll c) ∨ (s.engCtx k).frozen = true ∨ (s.engCtx k).queue ≠ []) →
      (∀ r ∈ (s.engCtx k).queue, ∀ c, r.kind = .coll c → r.sent = true) →
      ∃ t, exec i s = .next t ∧ (t.engCtx k).acc = (s.engCtx k).acc + 1 ∧
        (t.engCtx k).queue.length = (s.engCtx k).queue.length + 1 ∧ t.me.lastTl = BitVec.ofNat 64 ((s.engCtx k).acc + 1) ∧
        (tok ≠ 0 → (t.me.getX tok).full = false ∧ (t.me.getX tok).pend = true) ∧
        t.me.pc = s.me.pc + BitVec.ofNat 64 s.insnLen ∧ t.pad = s.pad)

include h calm aligned in
theorem accepts_of_run {i : Instr} (run : exec i s = (requestOf q tok b kind (s.take { src := [b], dx := [tok] })).close s) :
    Accepts s tok b i q kind := by
  intro room
  rw [requestOf_accepts kind calm aligned room] at run
  refine ⟨fun met => run.trans (close_accepting met), fun page miss => run.trans (close_accepting_missing miss), fun met still started => ?_⟩
  exact ⟨_, run.trans (close_accepting met), requested_spec kind h still started⟩

end Request

/-! ### WAITTL (R190) -/

theorem waittl_ready {s : State} {q : Nat} {a : Src} (h : Ready s { src := [a] }) :
    ((s.rx a).toNat ≤ (s.engCtx (s.me.ctxKeyOf q)).done →
      exec (.waittl q a) s = .next (s.after { src := [a] } fun th => th.past s.insnLen)) ∧
    ((s.engCtx (s.me.ctxKeyOf q)).done < (s.rx a).toNat → exec (.waittl q a) s = .next (s.parkOn .other)) := by
  have run : exec (.waittl q a) s = execWaittl q a s := rfl
  have key : (s.take { src := [a] }).me.ctxKeyOf q = s.me.ctxKeyOf q := by rw [State.me_take, Needs.marks_ctxKeyOf]
  have ctx : (s.take { src := [a] }).engCtx (s.me.ctxKeyOf q) = s.engCtx (s.me.ctxKeyOf q) := rfl
  rw [run, execWaittl, issue_ready h, State.rx_take, key, ctx]
  refine ⟨fun reached => ?_, fun below => ?_⟩
  · rw [if_pos reached]
    exact congrArg Host.Outcome.next ((congrArg State.issued (State.advance_setThr s _)).trans (State.issued_setThr s _ h.alive))
  · rw [if_neg (Nat.not_le.2 below)]
    rfl

/-! ### ATSUB (R198, R199) -/

/-- What the Braid does with a graph that it has read. -/
def State.takesGraph (v : State) (tok : Nat) : Except Nat Graph → State
  | .error c => v.landX v.cur tok (errorStatus c) false
  | .ok g => { v with graphs := v.graphs ++ [g] }

section Atsub
variable {s : State} {tok : Nat} {b : Src} (h : Ready s { src := [b], dx := [tok] }) (calm : s.performed s.cur = true)
  (aligned : (s.rx b).toNat % 8 = 0) (room : (s.liveGraphs (s.me.sid / 8192) s.me.part s.me.ten).length < 64)
include h calm aligned room

theorem atsub_accepts {r : Except Nat Graph} {v : State} (reads : ((s.take { src := [b], dx := [tok] }).noMiss.deferX tok).readGraph
    ⟨s.me.sid, s.me.part, s.me.ten, 140, some (ctxKey s.me.part s.me.ten 12 (s.me.sid / 8192))⟩ s.cur tok (s.rx b).toNat = (r, v)) :
    exec (.atsub tok b) s = (accepting (ctxKey s.me.part s.me.ten 12 (s.me.sid / 8192)) (v.takesGraph tok r)).close s := by
  have run : exec (.atsub tok b) s = execAtsub tok b s := rfl
  rw [run, execAtsub, issue_ready h, State.rx_take, State.me_take]
  dsimp only
  rw [Needs.marks_sid, Needs.marks_part, Needs.marks_ten]
  have live : (s.take { src := [b], dx := [tok] }).liveGraphs (dieOf s.me.sid) s.me.part s.me.ten =
      s.liveGraphs (s.me.sid / 8192) s.me.part s.me.ten := rfl
  have place : dieOf s.me.sid = s.me.sid / 8192 := rfl
  rw [if_neg (by simp [aligned]), afterHeld, State.performed_take, if_pos calm, live, if_neg (by omega), place, State.take_cur, reads]
  cases r <;> rfl

theorem atsub_answers {r : Except Nat Graph} {v : State} (reads : ((s.take { src := [b], dx := [tok] }).noMiss.deferX tok).readGraph
    ⟨s.me.sid, s.me.part, s.me.ten, 140, some (ctxKey s.me.part s.me.ten 12 (s.me.sid / 8192))⟩ s.cur tok (s.rx b).toNat = (r, v))
    (met : v.xmiss = none) : exec (.atsub tok b) s = .next (((((v.takesGraph tok r).dropAnswers
      (ctxKey s.me.part s.me.ten 12 (s.me.sid / 8192))).startHead (ctxKey s.me.part s.me.ten 12 (s.me.sid / 8192))).advance).issued) := by
  rw [atsub_accepts h calm aligned room reads]
  refine close_accepting ?_
  cases r with
  | error c => exact (v.landX_ctxs ..).2.2.trans met
  | ok g => exact met

end Atsub

/-- A graph whose header is malformed. -/
theorem readGraph_malformed {s : State} {e : Eng} {t tok a : Nat} {hd : List Word} {x : Xfer}
    (reads : Xfer.words e a 4 ⟨s, [], 0, 0⟩ = (.ok hd, x))
    (bad : (hd.getD 0 0).toNat / 2 ^ 13 ≠ 0 ∨ (hd.getD 1 0).toNat / 2 ^ 48 ≠ 0 ∨ (hd.getD 2 0).toNat ≠ 0 ∨ (hd.getD 3 0).toNat ≠ 0 ∨
      (hd.getD 0 0).toNat = 0 ∨ 4096 < (hd.getD 0 0).toNat) : s.readGraph e t tok a = (.error 1, x.s) := by
  have top : bits (hd.getD 0 0) 63 13 = (hd.getD 0 0).toNat / 2 ^ 13 := Nat.mod_eq_of_lt (by have := (hd.getD 0 0).isLt; omega)
  have high : bits (hd.getD 1 0) 63 48 = (hd.getD 1 0).toNat / 2 ^ 48 := Nat.mod_eq_of_lt (by have := (hd.getD 1 0).isLt; omega)
  have low : bits (hd.getD 0 0) 12 0 = (hd.getD 0 0).toNat % 2 ^ 13 := bits_mod ..
  have zero : ∀ w : Word, w = 0 ↔ w.toNat = 0 := fun w => BitVec.toNat_inj (y := 0).symm
  have broken : (bits (hd.getD 0 0) 63 13 ≠ 0 || bits (hd.getD 1 0) 63 48 ≠ 0 || hd.getD 2 0 ≠ 0 || hd.getD 3 0 ≠ 0 ||
      bits (hd.getD 0 0) 12 0 = 0 || 4096 < bits (hd.getD 0 0) 12 0) = true := by
    simp only [Bool.or_eq_true, decide_eq_true_eq, top, high, low, ne_eq, zero]
    omega
  rw [State.readGraph, reads]
  dsimp only
  rw [if_pos broken]

/-! ### Pops of the dispatch port (R199) -/

/-- A task of a graph is ready. -/
def Graph.Ready (g : Graph) (n : Nat) : Prop := n < g.stage.length ∧ g.stage.getD n 1 = 0 ∧ g.count.getD n 1 = 0

theorem Graph.mem_ready {g : Graph} {n : Nat} : n ∈ g.ready ↔ g.Ready n := by
  simp [Graph.ready, Graph.Ready]

theorem Graph.ready_none {g : Graph} (h : ∀ n, ¬ g.Ready n) : g.ready.head? = none := by
  rw [List.head?_eq_none_iff, List.eq_nil_iff_forall_not_mem]
  exact fun n hn => h n (Graph.mem_ready.1 hn)

theorem Graph.ready_first {g : Graph} {n : Nat} (h : g.Ready n) (first : ∀ m, m < n → ¬ g.Ready m) : g.ready.head? = some n := by
  have sorted : g.ready.Pairwise (· < ·) := List.Pairwise.filter _ (List.pairwise_lt_range)
  rcases hr : g.ready with _ | ⟨m, l⟩
  · exact absurd (Graph.mem_ready.2 h) (by rw [hr]; exact List.not_mem_nil)
  · have hm : g.Ready m := Graph.mem_ready.1 (by rw [hr]; exact List.mem_cons_self ..)
    have hn : n ∈ m :: l := hr ▸ Graph.mem_ready.2 h
    rw [hr] at sorted
    rcases List.mem_cons.1 hn with rfl | there
    · rfl
    · exact absurd hm (first m ((List.pairwise_cons.1 sorted).1 n there))

theorem State.braidNext_none {s : State} {die part ten : Nat} (h : ∀ g ∈ s.liveGraphs die part ten, ∀ n, ¬ g.Ready n) :
    s.braidNext die part ten = none := by
  rw [State.braidNext, List.findSome?_eq_none_iff]
  intro g hg
  rw [Graph.ready_none (h g hg)]
  rfl

theorem State.braidNext_first {s : State} {die part ten : Nat} {pre post : List Graph} {g : Graph} {n : Nat}
    (live : s.liveGraphs die part ten = pre ++ g :: post) (earlier : ∀ p ∈ pre, ∀ m, ¬ p.Ready m) (h : g.Ready n)
    (first : ∀ m, m < n → ¬ g.Ready m) : s.braidNext die part ten = some (g, n) := by
  have none_ : pre.findSome? (fun g => g.ready.head?.map fun i => (g, i)) = none := by
    rw [List.findSome?_eq_none_iff]
    intro p hp
    rw [Graph.ready_none (earlier p hp)]
    rfl
  rw [State.braidNext, live, List.findSome?_append, none_, List.findSome?_cons, Graph.ready_first h first]
  rfl

theorem pop_braid {s : State} {q rd : Nat} (h : Ready s { dx := [rd] }) (hq : Table.find? s.me.q q = some (BitVec.ofNat 64 (2 ^ 61))) :
    (s.braidNext (s.me.sid / 8192) s.me.part s.me.ten = none → popInto q rd s = .next (s.parkOn .other)) ∧
    ∀ g n, s.braidNext (s.me.sid / 8192) s.me.part s.me.ten = some (g, n) → popInto q rd s = .next
      (State.after { s with graphs := replaceGraph g { g with stage := g.stage.set n 1 } s.graphs } {}
        fun th => (th.gets rd (word (g.addr + 32 + 16 * n))).past s.insnLen) := by
  rw [popInto, issue_ready h, withPort_bound hq (State.portOf_braid ..)]
  dsimp only [afterDesc]
  have next_ : (s.take { dx := [rd] }).braidNext (dieOf (s.take { dx := [rd] }).me.sid) (s.take { dx := [rd] }).me.part
      (s.take { dx := [rd] }).me.ten = s.braidNext (s.me.sid / 8192) s.me.part s.me.ten := by
    rw [State.me_take, Needs.marks_sid, Needs.marks_part, Needs.marks_ten]
    rfl
  rw [next_]
  refine ⟨fun none_ => by rw [none_]; rfl, fun g n some_ => ?_⟩
  rw [some_]
  exact close_wx (w := { s with graphs := replaceGraph g { g with stage := g.stage.set n 1 } s.graphs }) h.alive { dx := [rd] } rd _ s

/-- Settles O30: a request that has room is accepted in the state in which its descriptor has been read (`State.accept_spec`), and the
head of its context has nothing to start; a pop of the dispatch port takes the first ready task of the first graph that has one. -/
theorem engineRequestsIssue : Obligations.EngineRequestsIssue := by
  unfold Obligations.EngineRequestsIssue
  refine ⟨⟨?_, ?_, ?_⟩, ?_, ?_⟩
  · intro s tok b ch n h calm aligned
    have all : ∀ {i q kind}, exec i s = engineRequest q tok b kind s → Accepts s tok b i q kind := fun run =>
      accepts_of_run _ h calm aligned (run.trans (issue_ready h _))
    exact ⟨all rfl, all rfl, all rfl, fun root => accepts_of_run _ h calm aligned (issueRoot_ready root h _), all rfl, all rfl, all rfl,
      all rfl, all rfl, all rfl⟩
  · exact fun s tok b ch user => issueRoot_user user _ _
  · exact fun s q a h => waittl_ready h
  · intro s tok b h calm aligned room u k e
    have key : ctxKey s.me.part s.me.ten 12 (s.me.sid / 8192) = k := rfl
    have answers := @atsub_answers s tok b h calm aligned room
    rw [key] at answers
    clear_value k
    refine ⟨fun g v reads met => ?_, fun c v reads met => ?_, fun hd x reads met => ?_⟩
    · have issues := answers (r := .ok g) (v := v) reads met
      exact issues
    · have issues := answers (r := .error c) (v := v) reads met
      exact issues
    · intro w bad
      have issues := answers (r := .error 1) (v := x.s) (readGraph_malformed reads bad) met
      exact issues
  · intro s q rd i hi h hq live ready
    have run : exec i s = popInto q rd s := by
      simp only [List.mem_cons, List.not_mem_nil, or_false] at hi
      rcases hi with rfl | rfl <;> rfl
    rw [run]
    obtain ⟨waits, takes⟩ := pop_braid h hq
    exact ⟨fun idle => waits (State.braidNext_none idle), fun pre g post n hl earlier here first =>
      takes g n (State.braidNext_first hl earlier here first)⟩

end Sys2Proof.Machine
end

section
/-! SUPPORT. How a pass of the matrix array reads its operands and adds to its bank (R97, R135, R136, R154). -/

namespace Sys2Proof.Machine

/-! ### When a pass starts (R135) -/

/-- The conditions of R135 for the next pass of an MMUL of `m` rows and `kcn` passes at the head of an array. -/
def ArrayCmd.Starts (c : ArrayCmd) (a : ArrayState) (cycle m kcn : Nat) : Prop :=
  a.finishing = false ∧ c.stall = 0 ∧ c.abandoned = false ∧ m ≠ 0 ∧ c.passes < kcn ∧ a.busyTo < cycle ∧ c.acc + 9 ≤ cycle ∧
    ∀ q, a.passAt = some q → q + 20 ≤ cycle

theorem ArrayState.passReady_iff {a : ArrayState} {c : ArrayCmd} {rest : List ArrayCmd} {st : Bool} {h p k n nx nt kch0 kcn row0 m : Nat}
    {ra rb : List Word} (hq : a.queue = c :: rest) (op : c.op = .mmul st h p k n nx nt kch0 kcn row0 m ra rb) (cycle : Nat) :
    a.passReady cycle = true ↔ c.Starts a cycle m kcn := by
  have count : c.passCount = if m = 0 || c.abandoned then 0 else kcn := by rw [ArrayCmd.passCount, op]
  have since : ((a.passAt.map fun p => decide (p + 20 ≤ cycle)).getD true) = true ↔ ∀ q, a.passAt = some q → q + 20 ≤ cycle := by
    cases a.passAt <;> simp
  rw [ArrayState.passReady, hq]
  simp only [Bool.and_eq_true, since, count, ArrayCmd.Starts]
  rcases hab : c.abandoned with _ | _
  · by_cases hm : m = 0
    · simp [hm]
    · simp [hm]
      tauto
  · simp

/-! ### Bank elements -/

theorem State.setAcc_spec (s : State) (bank i v : Nat) : ∃ ac, s.setAcc bank i v = { s with acc := ac } ∧
    Table.get ac (bank * 131072 + i) 0 = BitVec.ofNat 32 v ∧ ∀ key, key ≠ bank * 131072 + i → Table.find? ac key = Table.find? s.acc key := by
  rw [State.setAcc]
  split
  next h =>
    refine ⟨_, rfl, ?_, fun key hk => ?_⟩
    · rw [Table.get, Table.find_erase, if_pos rfl, h]
      rfl
    · rw [Table.find_erase, if_neg hk]
  · exact ⟨_, rfl, Table.get_set_same .., fun key hk => Table.find_set_other _ _ hk⟩

/-- From `s` to `t` a bank's elements at `l` have received the values of `f`, and nothing else has changed. -/
structure Adds (s t : State) (bank : Nat) (l : List Nat) (f : Nat → Nat) : Prop where
  only : ∃ ac, t = { s with acc := ac }
  gets : ∀ i ∈ l, t.accAt bank i = BitVec.ofNat 32 (f i)
  keeps : ∀ key, (∀ i ∈ l, key ≠ bank * 131072 + i) → Table.find? t.acc key = Table.find? s.acc key

theorem Adds.nil (s : State) (bank : Nat) (f : Nat → Nat) : Adds s s bank [] f :=
  ⟨⟨_, rfl⟩, fun _ h => absurd h List.not_mem_nil, fun _ _ => rfl⟩

theorem Adds.accAt {s t : State} {bank : Nat} {l : List Nat} {f : Nat → Nat} (h : Adds s t bank l f) {i : Nat} (hi : i ∉ l) :
    t.accAt bank i = s.accAt bank i := by
  rw [State.accAt, State.accAt, Table.get, Table.get, h.keeps]
  exact fun j hj e => hi (by have : i = j := by omega
                             exact this ▸ hj)

theorem Adds.append {s t u : State} {bank : Nat} {l m : List Nat} {f g : Nat → Nat} (h : Adds s t bank l f) (k : Adds t u bank m g)
    (apart_ : ∀ i ∈ l, i ∉ m) (same : ∀ i ∈ m, g i = f i) : Adds s u bank (l ++ m) f := by
  refine ⟨?_, fun i hi => ?_, fun key hk => ?_⟩
  · obtain ⟨_, e⟩ := h.only
    obtain ⟨_, e'⟩ := k.only
    rw [e', e]
    exact ⟨_, rfl⟩
  · rcases List.mem_append.1 hi with hl | hm
    · exact (k.accAt (apart_ i hl)).trans (h.gets i hl)
    · exact (k.gets i hm).trans (by rw [same i hm])
  · exact (k.keeps key fun i hi => hk i (List.mem_append_right _ hi)).trans (h.keeps key fun i hi => hk i (List.mem_append_left _ hi))

theorem Adds.congr {s t : State} {bank : Nat} {l : List Nat} {f g : Nat → Nat} (h : Adds s t bank l f) (same : ∀ i ∈ l, f i = g i) :
    Adds s t bank l g := ⟨h.only, fun i hi => (h.gets i hi).trans (by rw [same i hi]), h.keeps⟩

/-- The place in its bank of the element of row `m` and column `c`. -/
def element (m c : Nat) : Nat := m * 512 + c

/-- What a pass makes of one element, from what it holds. -/
def passed (s : State) (p bank : Nat) (a b : Strip) (i : Nat) : Nat :=
  (elementPass p (a.bad || b.bad) (s.accAt bank i).toNat a.blocks b.blocks).1

theorem passed_congr {s t : State} {bank i : Nat} (h : t.accAt bank i = s.accAt bank i) (p : Nat) (a b : Strip) :
    passed t p bank a b i = passed s p bank a b i := by
  rw [passed, passed, h]

theorem State.rowPass_adds (s : State) (p bank m : Nat) (a : Strip) (c : Nat) (bs : List Strip) (n o : Bool) :
    Adds s (s.rowPass p bank m a c bs n o).1 bank ((List.range' c bs.length).map (element m))
      fun i => passed s p bank a (bs.getD (i - element m c) ⟨[], false⟩) i := by
  induction bs generalizing s c n o with
  | nil => exact .nil ..
  | cons b bs ih =>
    obtain ⟨ac, sets, value, others⟩ := s.setAcc_spec bank (element m c) (passed s p bank a b (element m c))
    have first : Adds s (s.setAcc bank (element m c) (passed s p bank a b (element m c))) bank [element m c]
        fun i => passed s p bank a ((b :: bs).getD (i - element m c) ⟨[], false⟩) i := by
      refine ⟨⟨ac, sets⟩, fun i hi => ?_, fun key hk => ?_⟩
      · rw [List.mem_singleton.1 hi, sets, Nat.sub_self]
        exact value
      · rw [sets]
        exact others key (hk _ (List.mem_singleton.2 rfl))
    have rest := ih (s.setAcc bank (element m c) (passed s p bank a b (element m c))) (c + 1)
      (n || (elementPass p (a.bad || b.bad) (s.accAt bank (element m c)).toNat a.blocks b.blocks).2.1)
      (o || (elementPass p (a.bad || b.bad) (s.accAt bank (element m c)).toNat a.blocks b.blocks).2.2)
    refine first.append rest (fun i hi hm => ?_) fun i hi => ?_
    · rw [List.mem_singleton.1 hi] at hm
      obtain ⟨j, hj, e⟩ := List.mem_map.1 hm
      have := (List.mem_range'_1.1 hj).1
      simp only [element] at e
      omega
    · obtain ⟨j, hj, rfl⟩ := List.mem_map.1 hi
      have later := (List.mem_range'_1.1 hj).1
      have away : element m j ∉ [element m c] := by
        rw [List.mem_singleton, element, element]
        omega
      have index : element m j - element m c = element m j - element m (c + 1) + 1 := by
        simp only [element]
        omega
      rw [index, List.getD_cons_succ]
      exact passed_congr (first.accAt away) ..

theorem State.rowPass_only (s : State) (p bank m : Nat) (a : Strip) (c : Nat) (bs : List Strip) (n o : Bool) :
    ∃ ac, (s.rowPass p bank m a c bs n o).1 = { s with acc := ac } := (s.rowPass_adds ..).only

/-- A pass changes its bank alone, however many columns it has. -/
theorem State.rowsPass_only (s : State) (p bank : Nat) (cols : List Strip) (m : Nat) (as : List Strip) (n o : Bool) :
    ∃ ac, (s.rowsPass p bank cols m as n o).1 = { s with acc := ac } := by
  induction as generalizing s m n o with
  | nil => exact ⟨_, rfl⟩
  | cons a as ih =>
    obtain ⟨_, e⟩ := s.rowPass_only p bank m a 0 cols n o
    obtain ⟨_, e'⟩ := ih (s.rowPass p bank m a 0 cols n o).1 (m + 1) (s.rowPass p bank m a 0 cols n o).2.1 (s.rowPass p bank m a 0 cols n o).2.2
    exact ⟨_, e'.trans (by rw [e])⟩

theorem State.rowsPass_adds (s : State) (p bank : Nat) (cols : List Strip) (narrow : cols.length ≤ 512) (m : Nat) (as : List Strip) (n o : Bool) :
    Adds s (s.rowsPass p bank cols m as n o).1 bank
      ((List.range' m as.length).flatMap fun r => (List.range' 0 cols.length).map (element r))
      fun i => passed s p bank (as.getD (i / 512 - m) ⟨[], false⟩) (cols.getD (i % 512) ⟨[], false⟩) i := by
  induction as generalizing s m n o with
  | nil => exact .nil ..
  | cons a as ih =>
    have row := s.rowPass_adds p bank m a 0 cols n o
    have rest := ih (s.rowPass p bank m a 0 cols n o).1 (m + 1) (s.rowPass p bank m a 0 cols n o).2.1 (s.rowPass p bank m a 0 cols n o).2.2
    have within : ∀ i ∈ (List.range' 0 cols.length).map (element m), i / 512 = m ∧ i - element m 0 = i % 512 := fun i hi => by
      obtain ⟨j, hj, rfl⟩ := List.mem_map.1 hi
      have := (List.mem_range'_1.1 hj).2
      simp only [element]
      omega
    have beyond : ∀ i ∈ (List.range' (m + 1) as.length).flatMap fun r => (List.range' 0 cols.length).map (element r), m + 1 ≤ i / 512 :=
      fun i hi => by
        obtain ⟨r, hr, there⟩ := List.mem_flatMap.1 hi
        obtain ⟨j, hj, rfl⟩ := List.mem_map.1 there
        have := (List.mem_range'_1.1 hj).2
        have := (List.mem_range'_1.1 hr).1
        simp only [element]
        omega
    have first := row.congr (g := fun i => passed s p bank ((a :: as).getD (i / 512 - m) ⟨[], false⟩) (cols.getD (i % 512) ⟨[], false⟩) i)
      fun i hi => by
        obtain ⟨hm, hc⟩ := within i hi
        rw [hm, hc, Nat.sub_self]
        rfl
    refine first.append rest (fun i hi hm => ?_) fun i hi => ?_
    · have := (within i hi).1
      have := beyond i hm
      omega
    · have later := beyond i hi
      have away : i ∉ (List.range' 0 cols.length).map (element m) := fun h => by
        have := (within i h).1
        omega
      have index : i / 512 - m = i / 512 - (m + 1) + 1 := by omega
      rw [index, List.getD_cons_succ]
      exact passed_congr (row.accAt away) ..

/-! ### Blocks in ascending K (R97) -/

theorem elementPass_foldl (p : Nat) (lost : Bool) (l : List Nat) (f g : Nat → List Nat × Nat) (e : Nat) :
    (elementPass p lost e (l.map f) (l.map g)).1 = l.foldl (fun e q => (blockStep p lost e (f q) (g q)).1) e := by
  induction l generalizing e with
  | nil => rfl
  | cons q l ih =>
    rw [List.map_cons, List.map_cons, List.foldl_cons, ← ih]
    rfl

/-! ### Operands (R136, R153) -/

theorem State.operandBytes_around (s : State) (c : Ctx) (part ten sid a n : Nat) : Around s (s.operandBytes c part ten sid a n).2.2 := by
  refine foldl_keepsProp (fun acc : List Nat × Bool × State => Around s acc.2.2) (fun acc i h => ?_) _ (.refl s)
  obtain ⟨bs, bad, u⟩ := acc
  refine iteInduction (motive := fun acc : List Nat × Bool × State => Around s acc.2.2) (fun _ => h) fun _ => ?_
  split
  · exact Around.trans h (Around.fold (fun s e => Around.log s _ _ _ _ _) _ _)
  · exact h

theorem State.readStrips_around (s : State) (c : ArrayCmd) (d : Tensor) (j0 nb : Nat) (l : List Nat) :
    Around s (s.readStrips c d j0 nb l).2 ∧ (s.readStrips c d j0 nb l).1.length = l.length := by
  induction l generalizing s with
  | nil => exact ⟨.refl s, rfl⟩
  | cons r l ih =>
    have first := s.operandBytes_around c.ctx c.part c.ten c.sid (d.row r + 48 * j0) (48 * nb)
    have second := State.operandBytes_around (s.operandBytes c.ctx c.part c.ten c.sid (d.row r + 48 * j0) (48 * nb)).2.2
      c.ctx c.part c.ten c.sid (d.scaleRow r + j0) nb
    obtain ⟨around, length⟩ := ih (State.operandBytes (s.operandBytes c.ctx c.part c.ten c.sid (d.row r + 48 * j0) (48 * nb)).2.2
      c.ctx c.part c.ten c.sid (d.scaleRow r + j0) nb).2.2
    exact ⟨first.trans (second.trans around), congrArg (· + 1) length⟩

/-- A fold over an initial segment whose later steps change nothing. -/
theorem foldl_first {β : Type} {F : β → Nat → β} {x r : β} {k : Nat} (first : F x 0 = r) (later : ∀ acc i, F acc (i + 1) = acc) :
    (List.range (k + 1)).foldl F x = r := by
  have rest : ∀ l : List Nat, (l.map Nat.succ).foldl F r = r := fun l => by
    induction l with
    | nil => rfl
    | cons i l ih => rw [List.map_cons, List.foldl_cons, later, ih]
  rw [List.range_succ_eq_map, List.foldl_cons, first, rest]

/-- Operand bytes that lie in one bank of a scratchpad without errors are read as they stand. -/
theorem State.operandBytes_run {s : State} {c : Ctx} {part ten sid a n w o : Nat} (clean : s.badPad = [])
    (place : s.windowPlace part ten sid .sync a = some (.pad w o)) (one : a % 16384 + n ≤ 16384) :
    s.operandBytes c part ten sid a n = ((s.readAt (.pad w o) n).map (·.toNat), false, s) := by
  have sound : s.badAt (.pad w o) n = false := by simp [State.badAt, clean]
  have errs : ∀ l : List Nat, errorsIn s.badPad l = [] := fun l => by rw [clean]; rfl
  refine foldl_first ?_ fun acc i => ?_
  rotate_left
  · obtain ⟨bs, bad, u⟩ := acc
    exact if_pos (by rw [if_neg (Nat.succ_ne_zero i)]; omega)
  rcases Nat.eq_zero_or_pos n with rfl | pos
  · exact if_pos (by rw [if_pos rfl]; omega)
  · have end_ : min (a + n) ((a / 16384 + 0 + 1) * 16384) = a + n := by omega
    refine (if_neg (by rw [if_pos rfl]; omega)).trans ?_
    rw [if_pos rfl, place, end_, Nat.add_sub_cancel_left]
    exact Prod.ext rfl (Prod.ext sound (congrArg (List.foldl (fun (s : State) (e : Nat × Nat) =>
      s.logError c (uncorrectable e.2) (injected e.2) 4 (padOffset w (e.1 % 32768 * 8))) s) (errs _)))

/-- The bytes `ws` and the scales `sc` of row `r` of a tensor, over the blocks of a pass, lie in one bank each. -/
def StripAt (s : State) (c : ArrayCmd) (d : Tensor) (j0 nb r : Nat) (ws sc : List Nat) : Prop := ∃ w1 o1 w2 o2,
  s.windowPlace c.part c.ten c.sid .sync (d.row r + 48 * j0) = some (.pad w1 o1) ∧ (d.row r + 48 * j0) % 16384 + 48 * nb ≤ 16384 ∧
  s.windowPlace c.part c.ten c.sid .sync (d.scaleRow r + j0) = some (.pad w2 o2) ∧ (d.scaleRow r + j0) % 16384 + nb ≤ 16384 ∧
  ws = (s.readAt (.pad w1 o1) (48 * nb)).map (·.toNat) ∧ sc = (s.readAt (.pad w2 o2) nb).map (·.toNat)

theorem State.readStrips_clean {s : State} {c : ArrayCmd} {d : Tensor} {j0 nb : Nat} {l : List Nat} {row : Nat → Nat}
    {ws sc : Nat → List Nat} (clean : s.badPad = []) (at_ : ∀ i ∈ l, StripAt s c d j0 nb (row i) (ws i) (sc i)) :
    s.readStrips c d j0 nb (l.map row) = (l.map fun i => stripOf (ws i) (sc i) nb false, s) := by
  induction l with
  | nil => rfl
  | cons i l ih =>
    obtain ⟨w1, o1, w2, o2, place, one, scales, few, hw, hs⟩ := at_ i (List.mem_cons_self ..)
    rw [List.map_cons, List.map_cons, State.readStrips, State.operandBytes_run clean place one, ← hw]
    dsimp only
    rw [State.operandBytes_run clean scales few, ← hs]
    dsimp only
    rw [ih fun j hj => at_ j (List.mem_cons_of_mem _ hj)]
    rfl

/-! ### A pass (R154) -/

/-- The columns of a pass: those of a tensor that is streamed, or of a residency. -/
def State.passColumns (s : State) (c : ArrayCmd) (st : Bool) (h : Nat) (rb : List Word) (j0 nb : Nat) (cols : List Nat) : List Strip × State :=
  if st then s.readStrips c (tensorOf rb) j0 nb cols
  else
    match s.residency c.part h with
    | some r => (r.strips j0 nb cols, if r.bad = 0 then s else s.logError c.ctx (uncorrectable r.bad) (injected r.bad) 2 r.badByte)
    | none => (cols.map fun _ => stripOf [] [] nb true, s)

theorem State.passColumns_around (s : State) (c : ArrayCmd) (st : Bool) (h : Nat) (rb : List Word) (j0 nb : Nat) (cols : List Nat) :
    Around s (s.passColumns c st h rb j0 nb cols).2 ∧ (s.passColumns c st h rb j0 nb cols).1.length = cols.length := by
  unfold State.passColumns
  split
  · exact s.readStrips_around ..
  · split
    next r hr =>
      refine ⟨?_, List.length_map ..⟩
      dsimp only
      split
      · exact .refl s
      · exact Around.log ..
    · exact ⟨.refl s, List.length_map ..⟩

/-- The bank's fault flag takes cause 1 when an operand was lost (R136). -/
def State.faultIf (s : State) (g b : Nat) (lost : Bool) : State :=
  if lost then s.modArr g fun a => { a with fault := Table.set a.fault b 1 } else s

section Pass
variable {s : State} {g : Nat} {c : ArrayCmd} {st : Bool} {h p k n nx nt kch0 kcn row0 m : Nat} {ra rb : List Word}
  (op : c.op = .mmul st h p k n nx nt kch0 kcn row0 m ra rb)

/-- The first block of the command's next pass, and the number of its blocks. -/
def passBlocks (c : ArrayCmd) (k kch0 : Nat) : Nat × Nat := (4 * (kch0 + c.passes), min 4 (k / 48 - 4 * (kch0 + c.passes)))

/-- The columns that a command's pass works on. -/
def passCols (n nx nt : Nat) : List Nat := (List.range (min nx (n - nt * nx))).map (nt * nx + ·)

/-- The rows of the next pass, and the state in which they have been read. -/
def State.passRows (s : State) (c : ArrayCmd) (k kch0 row0 m : Nat) (ra : List Word) : List Strip × State :=
  s.readStrips c (tensorOf ra) (passBlocks c k kch0).1 (passBlocks c k kch0).2 ((List.range m).map (row0 + ·))

/-- The columns of the next pass, and the state in which they have been read. -/
def State.passOperands (s : State) (c : ArrayCmd) (st : Bool) (h k n nx nt kch0 row0 m : Nat) (ra rb : List Word) : List Strip × State :=
  (s.passRows c k kch0 row0 m ra).2.passColumns c st h rb (passBlocks c k kch0).1 (passBlocks c k kch0).2 (passCols n nx nt)

include op in
theorem State.doPass_mmul : s.doPass g c =
    ((s.passOperands c st h k n nx nt kch0 row0 m ra rb).2.faultIf g c.lease ((s.passRows c k kch0 row0 m ra).1.any (·.bad) ||
      (s.passOperands c st h k n nx nt kch0 row0 m ra rb).1.any (·.bad))).rowsPass (if st then 8 else p) (g * 4 + c.lease)
        (s.passOperands c st h k n nx nt kch0 row0 m ra rb).1 0 (s.passRows c k kch0 row0 m ra).1 false false := by
  simp only [State.doPass, op, State.passOperands, State.passRows, passBlocks, passCols]
  rcases s.readStrips c (tensorOf ra) (4 * (kch0 + c.passes)) (min 4 (k / 48 - 4 * (kch0 + c.passes))) ((List.range m).map (row0 + ·)) with ⟨as, u⟩
  cases st with
  | true => rfl
  | false =>
    simp only [State.passColumns, if_neg Bool.false_ne_true]
    cases u.residency c.part h <;> rfl

/-- The state in which the operands of the next pass have been read. -/
def State.passRead (s : State) (g : Nat) (c : ArrayCmd) (st : Bool) (h k n nx nt kch0 row0 m : Nat) (ra rb : List Word) : State :=
  (s.passOperands c st h k n nx nt kch0 row0 m ra rb).2.faultIf g c.lease ((s.passRows c k kch0 row0 m ra).1.any (·.bad) ||
    (s.passOperands c st h k n nx nt kch0 row0 m ra rb).1.any (·.bad))

theorem State.passOperands_around (s : State) (c : ArrayCmd) (st : Bool) (h k n nx nt kch0 row0 m : Nat) (ra rb : List Word) :
    Around s (s.passOperands c st h k n nx nt kch0 row0 m ra rb).2 ∧
      (s.passOperands c st h k n nx nt kch0 row0 m ra rb).1.length = min nx (n - nt * nx) ∧ (s.passRows c k kch0 row0 m ra).1.length = m := by
  obtain ⟨rows, height⟩ := s.readStrips_around c (tensorOf ra) (passBlocks c k kch0).1 (passBlocks c k kch0).2 ((List.range m).map (row0 + ·))
  obtain ⟨cols, width⟩ := (s.passRows c k kch0 row0 m ra).2.passColumns_around c st h rb (passBlocks c k kch0).1 (passBlocks c k kch0).2
    (passCols n nx nt)
  exact ⟨rows.trans cols, width.trans (by simp [passCols]), height.trans (by simp)⟩

/-- Reading the operands changes no bank, no thread and no byte, and leaves the commands of the array. -/
theorem State.passRead_keeps (s : State) (g : Nat) (c : ArrayCmd) (st : Bool) (h k n nx nt kch0 row0 m : Nat) (ra rb : List Word) :
    let v := s.passRead g c st h k n nx nt kch0 row0 m ra rb
    v.acc = s.acc ∧ v.threads = s.threads ∧ v.hbm = s.hbm ∧ v.pad = s.pad ∧ v.cycle = s.cycle ∧ (v.arr g).queue = (s.arr g).queue := by
  intro v
  obtain ⟨⟨_, _, _, _, _, _, _, _, _, e⟩, -⟩ := s.passOperands_around c st h k n nx nt kch0 row0 m ra rb
  have shape : v = (s.passOperands c st h k n nx nt kch0 row0 m ra rb).2.faultIf g c.lease ((s.passRows c k kch0 row0 m ra).1.any (·.bad) ||
    (s.passOperands c st h k n nx nt kch0 row0 m ra rb).1.any (·.bad)) := rfl
  rw [e] at shape
  rw [shape, State.faultIf]
  split
  · refine ⟨rfl, rfl, rfl, rfl, rfl, ?_⟩
    rw [State.arr_modArr]
    rfl
  · exact ⟨rfl, rfl, rfl, rfl, rfl, rfl⟩

/-- The elements of a pass, row by row. -/
def passElements (m width : Nat) : List Nat := (List.range' 0 m).flatMap fun r => (List.range' 0 width).map (element r)

theorem mem_passElements {m width i : Nat} (narrow : width ≤ 512) : i ∈ passElements m width ↔ i / 512 < m ∧ i % 512 < width := by
  simp only [passElements, List.mem_flatMap, List.mem_map, List.mem_range'_1, element]
  constructor
  · rintro ⟨r, hr, j, hj, rfl⟩
    omega
  · rintro ⟨hr, hj⟩
    exact ⟨i / 512, by omega, i % 512, by omega, by omega⟩

/-- A pass adds to the elements of its rows and columns. -/
theorem State.doPass_adds {s : State} {g : Nat} {c : ArrayCmd} {st : Bool} {h p k n nx nt kch0 kcn row0 m : Nat} {ra rb : List Word}
    (op : c.op = .mmul st h p k n nx nt kch0 kcn row0 m ra rb) (narrow : min nx (n - nt * nx) ≤ 512) :
    Adds (s.passRead g c st h k n nx nt kch0 row0 m ra rb) (s.doPass g c).1 (g * 4 + c.lease) (passElements m (min nx (n - nt * nx)))
      fun i => passed (s.passRead g c st h k n nx nt kch0 row0 m ra rb) (if st then 8 else p) (g * 4 + c.lease)
        ((s.passRows c k kch0 row0 m ra).1.getD (i / 512) ⟨[], false⟩)
        ((s.passOperands c st h k n nx nt kch0 row0 m ra rb).1.getD (i % 512) ⟨[], false⟩) i := by
  obtain ⟨-, width, height⟩ := s.passOperands_around c st h k n nx nt kch0 row0 m ra rb
  have adds := (s.passRead g c st h k n nx nt kch0 row0 m ra rb).rowsPass_adds (if st then 8 else p) (g * 4 + c.lease)
    (s.passOperands c st h k n nx nt kch0 row0 m ra rb).1 (by rw [width]; exact narrow) 0 (s.passRows c k kch0 row0 m ra).1 false false
  rw [width, height] at adds
  rw [State.doPass_mmul op]
  exact adds

/-- With no error in the scratchpads, a pass reads the strips that its operands hold. -/
theorem State.passOperands_clean {s : State} {c : ArrayCmd} {st : Bool} {h k n nx nt kch0 row0 m : Nat} {ra rb : List Word}
    {aw as bw bs : Nat → List Nat} (clean : s.badPad = [])
    (rows : ∀ i, i < m → StripAt s c (tensorOf ra) (passBlocks c k kch0).1 (passBlocks c k kch0).2 (row0 + i) (aw i) (as i))
    (streamed : st = true → ∀ j, j < min nx (n - nt * nx) →
      StripAt s c (tensorOf rb) (passBlocks c k kch0).1 (passBlocks c k kch0).2 (nt * nx + j) (bw j) (bs j))
    (resident : st = false → ∃ r, s.residency c.part h = some r ∧ r.bad = 0 ∧ ∀ j, j < min nx (n - nt * nx) →
      bw j = ((r.wts.getD (nt * nx + j) []).drop (48 * (passBlocks c k kch0).1)).take (48 * (passBlocks c k kch0).2) ∧
      bs j = (r.scl.getD (nt * nx + j) []).drop (passBlocks c k kch0).1) :
    s.passRows c k kch0 row0 m ra = ((List.range m).map fun i => stripOf (aw i) (as i) (passBlocks c k kch0).2 false, s) ∧
    s.passOperands c st h k n nx nt kch0 row0 m ra rb =
      ((List.range (min nx (n - nt * nx))).map fun j => stripOf (bw j) (bs j) (passBlocks c k kch0).2 false, s) := by
  have first : s.passRows c k kch0 row0 m ra = ((List.range m).map fun i => stripOf (aw i) (as i) (passBlocks c k kch0).2 false, s) :=
    State.readStrips_clean clean fun i hi => rows i (List.mem_range.1 hi)
  refine ⟨first, ?_⟩
  rw [State.passOperands, first, State.passColumns]
  cases st with
  | true =>
    rw [if_pos rfl]
    exact State.readStrips_clean clean fun j hj => streamed rfl j (List.mem_range.1 hj)
  | false =>
    obtain ⟨r, named, sound, holds⟩ := resident rfl
    rw [if_neg Bool.false_ne_true, named]
    dsimp only
    rw [if_pos sound, Residency.strips, passCols, List.map_map, sound]
    refine Prod.ext (List.map_congr_left fun j hj => ?_) rfl
    obtain ⟨hw, hs⟩ := holds j (List.mem_range.1 hj)
    rw [hw, hs]
    rfl

/-- What a pass that may start makes of an element whose strips are clean. -/
theorem State.doPass_clean {s : State} {g : Nat} {c : ArrayCmd} {st : Bool} {h p k n nx nt kch0 kcn row0 m : Nat} {ra rb : List Word}
    {aw as bw bs : Nat → List Nat} (op : c.op = .mmul st h p k n nx nt kch0 kcn row0 m ra rb) (narrow : min nx (n - nt * nx) ≤ 512)
    (reads : s.passRows c k kch0 row0 m ra = ((List.range m).map fun i => stripOf (aw i) (as i) (passBlocks c k kch0).2 false, s) ∧
      s.passOperands c st h k n nx nt kch0 row0 m ra rb =
        ((List.range (min nx (n - nt * nx))).map fun j => stripOf (bw j) (bs j) (passBlocks c k kch0).2 false, s)) :
    s.passRead g c st h k n nx nt kch0 row0 m ra rb = s ∧ ∀ i j, i < m → j < min nx (n - nt * nx) →
      (s.doPass g c).1.accAt (g * 4 + c.lease) (i * 512 + j) = BitVec.ofNat 32 ((List.range (passBlocks c k kch0).2).foldl (fun e q =>
        (blockStep (if st then 8 else p) false e (((aw i).drop (48 * q)).take 48, (as i).getD q 255)
          (((bw j).drop (48 * q)).take 48, (bs j).getD q 255)).1) (s.accAt (g * 4 + c.lease) (i * 512 + j)).toNat) := by
  obtain ⟨rows, cols⟩ := reads
  have sound : ∀ (l : List Nat) (f h : Nat → List Nat) nb, (l.map fun i => stripOf (f i) (h i) nb false).any (·.bad) = false :=
    fun l f h nb => by simp [List.any_map, Function.comp_def, stripOf]
  have same : s.passRead g c st h k n nx nt kch0 row0 m ra rb = s := by
    rw [State.passRead, rows, cols, State.faultIf, sound, sound]
    rfl
  refine ⟨same, fun i j hi hj => ?_⟩
  have value := (s.doPass_adds (g := g) op narrow).gets (i * 512 + j) ((mem_passElements narrow).2 (by omega))
  have row : (i * 512 + j) / 512 = i := by omega
  have col : (i * 512 + j) % 512 = j := by omega
  have pick : ∀ (f : Nat → Strip) (n x : Nat), x < n → ((List.range n).map f).getD x ⟨[], false⟩ = f x := fun f n x hx => by
    simp [List.getD_eq_getElem?_getD, hx]
  rw [same, rows, cols, row, col, pick _ _ _ hi, pick _ _ _ hj] at value
  refine value.trans (congrArg (BitVec.ofNat 32) ?_)
  exact elementPass_foldl _ _ _ _ _ _

include op in
theorem arrayPassStart_starts {rest : List ArrayCmd} (hq : (s.arr g).queue = c :: rest) (starts : c.Starts (s.arr g) s.cycle m kcn) :
    ∃ n1 o1, exec (.arrayPassStart g) s = .next ((s.doPass g c).1.modArr g fun a => { a with
      queue := { c with passes := c.passes + 1, nanp := n1, ovfl := o1 } :: rest
      busyTo := s.cycle + (if st then 4 * (m + 12) else m + 12) - 1, passAt := some s.cycle
      finishing := decide (kcn ≤ c.passes + 1) }) := by
  have run : exec (.arrayPassStart g) s = execArrayPassStart g s := rfl
  obtain ⟨-, -, ab, hm, -⟩ := id starts
  have count : c.passCount = kcn := by
    rw [ArrayCmd.passCount, op]
    simp [hm, ab]
  have cycles : c.passCycles = if st then 4 * (m + 12) else m + 12 := by rw [ArrayCmd.passCycles, op]
  obtain ⟨-, -, -, -, cycle, queue⟩ := s.passRead_keeps g c st h k n nx nt kch0 row0 m ra rb
  have same : (s.doPass g c).1.cycle = s.cycle ∧ ((s.doPass g c).1.arr g).queue = c :: rest := by
    have adds : ∃ ac, (s.doPass g c).1 = { s.passRead g c st h k n nx nt kch0 row0 m ra rb with acc := ac } := by
      rw [State.doPass_mmul op]
      exact State.rowsPass_only ..
    obtain ⟨ac, e⟩ := adds
    rw [e]
    exact ⟨cycle, queue.trans hq⟩
  refine ⟨c.nanp || (s.doPass g c).2.1, c.ovfl || (s.doPass g c).2.2, ?_⟩
  rw [run, execArrayPassStart, hq]
  dsimp only
  rw [if_neg (by simp [(ArrayState.passReady_iff hq op s.cycle).2 starts]), count, cycles]
  refine congrArg Host.Outcome.next ?_
  rw [State.modArr, State.modArr, same.1, ArrayState.modHead, same.2]

end Pass

end Sys2Proof.Machine
end

section
/-! PROOF. Passes and completion of array commands (O43). -/

namespace Sys2Proof.Machine

/-! ### Passes (R97, R135, R154) -/

theorem key_of_element {bank key m width : Nat} (rows : m ≤ 256) (narrow : width ≤ 512) (other : key / 131072 ≠ bank) :
    ∀ i ∈ passElements m width, key ≠ bank * 131072 + i := fun i hi e => by
  have within := (mem_passElements narrow).1 hi
  omega

section PassStart
variable {s : State} {g : Nat} {c : ArrayCmd} {rest : List ArrayCmd} {st : Bool} {h p k n nx nt kch0 kcn row0 m : Nat} {ra rb : List Word}
  (hq : (s.arr g).queue = c :: rest) (op : c.op = .mmul st h p k n nx nt kch0 kcn row0 m ra rb)
include hq op

theorem arrayPassStart_waits (not_ : ¬ c.Starts (s.arr g) s.cycle m kcn) : exec (.arrayPassStart g) s = .next s := by
  have run : exec (.arrayPassStart g) s = execArrayPassStart g s := rfl
  have waits : (s.arr g).passReady s.cycle = false := by
    rw [← Bool.not_eq_true, ArrayState.passReady_iff hq op]
    exact not_
  rw [run, execArrayPassStart, hq]
  dsimp only
  rw [if_pos (by simp [waits])]

end PassStart

/-! ### One block (R97) -/

theorem blockSum_eq (p : Nat) (as bs : List Nat) (same : as.length = bs.length) :
    blockSum p as bs = ((List.range as.length).map fun i => sgn 8 (as.getD i 0) * planesVal p (bs.getD i 0)).sum := by
  induction as generalizing bs with
  | nil => rfl
  | cons a as ih =>
    cases bs with
    | nil => cases same
    | cons b bs =>
      rw [blockSum, ih bs (Nat.succ.inj same), List.length_cons, List.range_succ_eq_map, List.map_cons, List.map_map, List.sum_cons]
      rfl

theorem blockStep_nan (p e : Nat) (as bs : List Nat) {ea eb : Nat} (nan : ea = 255 ∨ eb = 255) :
    (blockStep p false e (as, ea) (bs, eb)).1 = (fmtF32.add e fmtF32.cnan).bits ∧ (blockStep p false e (as, ea) (bs, eb)).2.1 = true := by
  simp only [blockStep, if_neg Bool.false_ne_true, if_pos nan, Bool.true_or, and_self]

theorem blockStep_sum (p e : Nat) (as bs : List Nat) {ea eb : Nat} (ha : ea ≠ 255) (hb : eb ≠ 255) :
    (blockStep p false e (as, ea) (bs, eb)).1 = (fmtF32.add e (if blockSum p as bs = 0 then 0 else
      (fmtF32.roundRes 24 (blockSum p as bs < 0) (blockSum p as bs).natAbs 1 ((ea : Int) + eb - 254)).bits)).bits := by
  have fine : ¬ (ea = 255 ∨ eb = 255) := by simp [ha, hb]
  simp only [blockStep, if_neg Bool.false_ne_true, if_neg fine]
  split <;> rfl

/-! ### Completion (R135, R140) -/

/-- The only command of an array, at the end of its occupation. -/
structure Ends (s : State) (g : Nat) (c : ArrayCmd) : Prop where
  queue : (s.arr g).queue = [c]
  finishing : (s.arr g).finishing = true
  busy : (s.arr g).busyTo ≤ s.cycle
  saving : (s.arr g).saving = []
  stall : (s.engCtx (ctxKey c.part c.ten (8 + c.lease) g)).stall = none

/-- The array has given the command up, and its timeline has reached the command's number. -/
def State.commandEnded (s : State) (g : Nat) (c : ArrayCmd) : State :=
  (s.modArr g fun a => { a with queue := [], finishing := false }).modEngCtx (ctxKey c.part c.ten (8 + c.lease) g)
    fun k => { k with done := c.num }

theorem State.commandEnded_arr (s : State) (g : Nat) (c : ArrayCmd) :
    (s.commandEnded g c).arr g = { s.arr g with queue := [], finishing := false } :=
  s.arr_modArr g fun a => { a with queue := [], finishing := false }

theorem State.saveBanks_idle {s : State} {g : Nat} (h : (s.arr g).saving = []) : s.saveBanks g = s := by
  rw [State.saveBanks, h]
  rfl

theorem State.startCommand_empty {s : State} {g : Nat} (h : (s.arr g).queue = []) : s.startCommand g = s := by
  rw [State.startCommand]
  cases found : s.array g with
  | none => rfl
  | some a =>
    have same : s.arr g = a := by rw [State.arr, found]; rfl
    dsimp only
    rw [← same, h]

/-- The last command of an array completes: its effect, and then its timeline. -/
theorem arrayCommandComplete_last {s u : State} {g : Nat} {c : ArrayCmd} (e : Ends s g c) (effect : s.noMiss.endCommand g c = u)
    (saving : (u.arr g).saving = []) (met : u.xmiss = none)
    (idle : ∀ h, c.handle = some h → ∀ r, u.residency c.part h = some r → r.reqs = []) :
    exec (.arrayCommandComplete g) s = .next ((u.commandEnded g c).dropAnswers (ctxKey c.part c.ten (8 + c.lease) g)) := by
  have run : exec (.arrayCommandComplete g) s = execArrayCommandComplete g s := rfl
  have ends : s.commandEnds g = true := by
    rw [State.commandEnds, e.finishing, e.queue, decide_eq_true e.busy]
    dsimp only
    rw [e.stall]
    rfl
  have arr := u.commandEnded_arr g c
  have rests : ((u.commandEnded g c).saveBanks g).startCommand g = u.commandEnded g c := by
    rw [State.saveBanks_idle (by rw [arr]; exact saving), State.startCommand_empty (by rw [arr])]
  rw [run, execArrayCommandComplete, e.queue]
  dsimp only
  rw [if_neg (by simp [ends])]
  refine congrArg Host.Outcome.next ?_
  subst effect
  have pumped : ∀ h, c.handle = some h → ((s.noMiss.endCommand g c).commandEnded g c).pump c.part h =
      (s.noMiss.endCommand g c).commandEnded g c := fun h hh => State.pump_idle fun r hr => idle h hh r hr
  cases hh : c.handle with
  | none =>
    rw [State.engTry_met]
    · exact congrArg (State.dropAnswers · _) rests
    · exact (congrArg State.xmiss rests).trans met
  | some h =>
    have does : State.startCommand (State.saveBanks (((s.noMiss.endCommand g c).commandEnded g c).pump c.part h) g) g =
        (s.noMiss.endCommand g c).commandEnded g c := by rw [pumped h hh, rests]
    rw [State.engTry_met]
    · exact congrArg (State.dropAnswers · _) does
    · exact (congrArg State.xmiss does).trans met

/-- What has changed since the effect of a command when it has completed. -/
theorem State.commandEnded_facts (u : State) (g : Nat) (c : ArrayCmd) :
    let t := (u.commandEnded g c).dropAnswers (ctxKey c.part c.ten (8 + c.lease) g)
    (∃ cx ar, t = { u with ctxs := cx, arrays := ar }) ∧ t.arr g = { u.arr g with queue := [], finishing := false } ∧
      (t.engCtx (ctxKey c.part c.ten (8 + c.lease) g)).done = c.num := by
  intro t
  have ctx : ((u.commandEnded g c).engCtx (ctxKey c.part c.ten (8 + c.lease) g)).done = c.num :=
    congrArg EngCtx.done (State.engCtx_modEngCtx (u.modArr g fun a => { a with queue := [], finishing := false }) _ fun k => { k with done := c.num })
  simp only [t, State.dropAnswers]
  split
  · exact ⟨⟨_, _, rfl⟩, u.commandEnded_arr g c, ctx⟩
  · exact ⟨⟨_, _, rfl⟩, u.commandEnded_arr g c, (congrArg EngCtx.done (State.engCtx_modEngCtx ..)).trans ctx⟩

section Complete
variable {s : State} {g : Nat} {c : ArrayCmd} (e : Ends s g c)
include e

/-- What every completion leaves. -/
def Completes (s u : State) (g : Nat) (c : ArrayCmd) : Prop :=
  exec (.arrayCommandComplete g) s = .next u ∧ (u.arr g).queue = [] ∧
    (u.engCtx (ctxKey c.part c.ten (8 + c.lease) g)).done = c.num ∧ u.hbm = s.hbm

theorem mzero_completes (op : c.op = .mzero) : ∃ u, Completes s u g c ∧ u.threads = s.threads ∧ u.pad = s.pad ∧
    Table.find? (u.arr g).fault c.lease = none ∧
    (∀ i, i < 131072 → Table.get u.acc ((g * 4 + c.lease) * 131072 + i) 0 = 0) ∧
    (∀ k, k / 131072 ≠ g * 4 + c.lease → Table.find? u.acc k = Table.find? s.acc k) := by
  have effect : s.noMiss.endCommand g c =
      (s.noMiss.clearBank g c.lease).modArr g fun a => { a with fault := Table.erase a.fault c.lease } := by
    rw [State.endCommand, op]
  have arr := (s.noMiss.clearBank g c.lease).arr_modArr g fun a => { a with fault := Table.erase a.fault c.lease }
  have run := arrayCommandComplete_last e effect (by rw [arr]; exact e.saving) rfl fun h hh => by
    rw [ArrayCmd.handle, op] at hh
    exact absurd hh (by simp)
  generalize hu : ((s.noMiss.clearBank g c.lease).modArr g fun a => { a with fault := Table.erase a.fault c.lease }) = u at *
  obtain ⟨⟨cx, ar, same⟩, arr', done⟩ := u.commandEnded_facts g c
  have acc : u.acc = s.acc.filter fun e => e.1 / 131072 ≠ g * 4 + c.lease := by rw [← hu]; rfl
  refine ⟨_, ⟨run, by rw [arr'], done, ?_⟩, ?_, ?_, ?_, fun i hi => ?_, fun k hk => ?_⟩
  · rw [same, ← hu]; rfl
  · rw [same, ← hu]; rfl
  · rw [same, ← hu]; rfl
  · rw [arr', arr]
    exact (Table.find_erase ..).trans (if_pos rfl)
  · have key : ((g * 4 + c.lease) * 131072 + i) / 131072 = g * 4 + c.lease := by omega
    rw [same, acc, Table.get]
    exact congrArg (Option.getD · 0) ((Table.find_filter_key s.acc (fun k => decide (k / 131072 ≠ g * 4 + c.lease)) _).trans
      (if_neg (by simp [key])))
  · rw [same, acc]
    exact (Table.find_filter_key s.acc (fun k => decide (k / 131072 ≠ g * 4 + c.lease)) k).trans (if_pos (by simp [hk]))

theorem mmul_completes {st : Bool} {h p k n nx nt kch0 kcn row0 m : Nat} {ra rb : List Word}
    (op : c.op = .mmul st h p k n nx nt kch0 kcn row0 m ra rb)
    (idle : st = false → ∀ r, s.residency c.part h = some r → r.reqs = []) :
    ∃ u, Completes s u g c ∧ u.acc = s.acc ∧ u.pad = s.pad ∧ u.threads = s.threads ∧
      (c.abandoned = true → Table.get (u.arr g).fault c.lease 0 = 2 ∧ u.cores = s.cores) ∧
      (c.abandoned = false → (u.arr g).fault = (s.arr g).fault ∧
        u.cores = ((s.countIf c.nanp (c.sid / 16) 0).countIf c.ovfl (c.sid / 16) 1).cores) := by
  have handle : ∀ h', c.handle = some h' → st = false ∧ h' = h := fun h' hh => by
    rw [ArrayCmd.handle, op] at hh
    cases st with
    | true => exact absurd hh (by simp)
    | false => exact ⟨rfl, (Option.some.inj hh).symm⟩
  rcases ab : c.abandoned with _ | _
  · have effect : s.noMiss.endCommand g c = (s.noMiss.countIf c.nanp (coreOf c.sid) 0).countIf c.ovfl (coreOf c.sid) 1 := by
      rw [State.endCommand, op]
      exact if_neg (by simp [ab])
    obtain ⟨cs, counts, hcs⟩ : ∃ cs, (s.noMiss.countIf c.nanp (coreOf c.sid) 0).countIf c.ovfl (coreOf c.sid) 1 = { s.noMiss with cores := cs } ∧
        cs = ((s.countIf c.nanp (c.sid / 16) 0).countIf c.ovfl (c.sid / 16) 1).cores := by
      cases c.nanp <;> cases c.ovfl <;> exact ⟨_, rfl, rfl⟩
    have run := arrayCommandComplete_last e (effect.trans counts) e.saving rfl fun h' hh => by
      obtain ⟨hst, rfl⟩ := handle h' hh
      exact idle hst
    obtain ⟨⟨cx, ar, same⟩, arr, done⟩ := State.commandEnded_facts { s.noMiss with cores := cs } g c
    refine ⟨_, ⟨run, by rw [arr], done, by rw [same]; rfl⟩, by rw [same]; rfl, by rw [same]; rfl, by rw [same]; rfl,
      fun h => absurd h Bool.false_ne_true, fun _ => ⟨by rw [arr]; rfl, by rw [same]; exact hcs⟩⟩
  · have effect : s.noMiss.endCommand g c = s.noMiss.modArr g fun a => { a with fault := Table.set a.fault c.lease 2 } := by
      rw [State.endCommand, op]
      exact if_pos ab
    have arr' := s.noMiss.arr_modArr g fun a => { a with fault := Table.set a.fault c.lease 2 }
    have run := arrayCommandComplete_last e effect (by rw [arr']; exact e.saving) rfl fun h' hh => by
      obtain ⟨hst, rfl⟩ := handle h' hh
      exact idle hst
    obtain ⟨⟨cx, ar, same⟩, arr, done⟩ := State.commandEnded_facts (s.noMiss.modArr g fun a => { a with fault := Table.set a.fault c.lease 2 }) g c
    refine ⟨_, ⟨run, by rw [arr], done, by rw [same]; rfl⟩, by rw [same]; rfl, by rw [same]; rfl, by rw [same]; rfl,
      fun _ => ⟨?_, by rw [same]; rfl⟩, fun h => absurd h.symm Bool.false_ne_true⟩
    rw [arr, arr']
    exact Table.get_set_same ..

end Complete

/-! ### MDRAIN (R156) -/

/-- A write to a scratchpad leaves what the translation service cores hold. -/
theorem State.writePad_tlb (s : State) (c : Ctx) (core off : Nat) (bs : List Byte) (k : Nat) :
    ((s.writePad c core off bs).cluster k).tlb = (s.cluster k).tlb := by
  unfold State.writePad
  split
  · rfl
  extract_lets n a g u v
  have logs : (u.cluster k).tlb = (s.cluster k).tlb :=
    foldl_keeps (fun s : State => (s.cluster k).tlb) _ (fun s _ => congrArg Prod.fst (s.logError_service ..)) _ s
  split
  next x hx =>
    have einj : ((v.modCluster g fun cl => { cl with einj := Machine.disarm cl.einj }).cluster k).tlb = (v.cluster k).tlb := by
      rw [State.cluster_modCluster]
      split
      next h => rw [h]
      · rfl
    exact einj.trans logs
  · exact logs

/-- The places that an engine reaches do not depend on what a write to a scratchpad keeps up to date. -/
theorem State.engPlace_of_pad {s t : State} {e : Eng} {key : Nat} (hk : e.key = some key) {pad : List Host.Cell}
    (around : Around { s with pad := pad } t) (tlb : ∀ k, (t.cluster k).tlb = (s.cluster k).tlb) (u : EngUse) (va : Nat) :
    t.engPlace e u va = s.engPlace e u va := by
  have leaf : t.engLookup e va = s.engLookup e va := by
    rw [State.engLookup, State.engLookup, hk]
    dsimp only
    rw [tlb]
    obtain ⟨_, _, _, _, _, _, _, _, _, rfl⟩ := around
    rfl
  obtain ⟨_, _, _, _, _, _, _, _, _, same⟩ := around
  have admits : t.admits = s.admits := by rw [same]; rfl
  have slots : t.admitsSlot = s.admitsSlot := by rw [same]; rfl
  have places : t.regPlace = s.regPlace := by rw [same]; rfl
  have banks : t.admitsBank = s.admitsBank := by rw [same]; rfl
  have pads : t.padOf = s.padOf := by rw [same]; rfl
  have held : t.bankHeldBy = s.bankHeldBy := by rw [same]; rfl
  have regs : t.engReg = s.engReg := by
    funext e o
    rw [State.engReg, State.engReg, slots, places]
  have window : t.windowPlace = s.windowPlace := by
    funext part ten sid use va
    rw [State.windowPlace, State.windowPlace, admits, slots, places, banks, pads, held]
  rw [State.engPlace, State.engPlace, leaf, admits, regs, window]

/-- An MDRAIN as it moves: its engine, its format, the bytes of an element, its bank, its rows, and the places of its first `count`
elements, behind which an address may fail. -/
structure Drain where
  e : Eng
  f : Fmt
  n : Nat
  bank : Nat
  d : Tensor
  row0 : Nat
  count : Nat
  w : Nat → Nat
  o : Nat → Nat

/-- The address of element `q` in row-major order. -/
def Drain.addr (D : Drain) (q : Nat) : Nat := D.d.row (D.row0 + q / D.d.dim0) + q % D.d.dim0 * D.n

/-- The bits of element `q` in the format of the tensor. -/
def Drain.value (D : Drain) (s : State) (q : Nat) : Nat :=
  (D.f.convert .rne .inf (fmtF32.value (s.accAt D.bank (q / D.d.dim0 * 512 + q % D.d.dim0)).toNat)).res.bits

/-- The scratchpads after the first `q` elements. -/
def Drain.padAt (D : Drain) (s : State) (q : Nat) : List Host.Cell := (List.range q).foldl (fun mem q =>
  Memory.writeBytes mem (D.w q * 262144 + D.o q) (leBytes D.n (D.value s q))) s.pad

/-- The places of the elements: the first `count` lie in scratchpads, and the address of the next one fails. -/
structure Drain.Reaches (D : Drain) (s : State) (total : Nat) : Prop where
  key : ∃ k, D.e.key = some k
  size : 0 < D.n
  width : 0 < D.d.dim0 ∧ D.d.dim0 ≤ 512
  place : ∀ q, q < D.count → D.n ≤ runLength (D.addr q) ∧
    ∀ x, x < D.n → s.engPlace D.e .write (D.addr q + x) = .ok (.pad (D.w q) (D.o q + x), none)
  stop : D.count = total ∨ D.count < total ∧ ∃ c, (c = 2 ∨ c = 3) ∧ s.engPlace D.e .write (D.addr D.count) = .error c

/-- From `s` a drain has moved its first `q` elements. -/
structure Drain.At (D : Drain) (s : State) (x : Xfer) (q code : Nat) : Prop where
  works : Works s x.s
  pad : x.s.pad = D.padAt s q
  hbm : x.s.hbm = s.hbm
  miss : x.s.xmiss = s.xmiss
  place : ∀ va, x.s.engPlace D.e .write va = s.engPlace D.e .write va
  code : x.code = code

section Moves
variable {D : Drain} {s : State} {total : Nat} (r : D.Reaches s total)
include r

/-- One element moves. -/
theorem Drain.At.element {x : Xfer} {q : Nat} (h : D.At s x q 0) (hq : q < D.count) :
    x.s.drainBad D.e (D.addr q) D.n = (0, D.addr q) ∧
      D.At s (Xfer.writeAll D.e .write (D.addr q) (leBytes D.n (D.value x.s q)) x) (q + 1) 0 := by
  obtain ⟨k, hk⟩ := r.key
  obtain ⟨one, place⟩ := r.place q hq
  have size := r.size
  have first : x.s.engPlace D.e .write (D.addr q) = .ok (.pad (D.w q) (D.o q), none) := (h.place _).trans (place 0 size)
  have last : x.s.engPlace D.e .write (D.addr q + D.n - 1) = .ok (.pad (D.w q) (D.o q + (D.n - 1)), none) := by
    rw [h.place, show D.addr q + D.n - 1 = D.addr q + (D.n - 1) by omega]
    exact place (D.n - 1) (by omega)
  have some_ : leBytes D.n (D.value x.s q) ≠ [] := List.length_pos_iff.1 (by rw [leBytes_length]; exact size)
  have value : D.value x.s q = D.value s q := by rw [Drain.value, Drain.value, State.accAt, State.accAt, h.works.acc]
  refine ⟨by rw [State.drainBad, first, last], ?_⟩
  rw [Xfer.writeAll_run some_ (by rw [leBytes_length]; exact one) first, value]
  obtain ⟨pad, hbm, -, miss⟩ := writeAt_pad (s := x.s) D.e.ctx (D.w q) (D.o q) (leBytes D.n (D.value s q))
  refine ⟨h.works.trans (x.s.writeAt_works D.e.ctx (.pad (D.w q) (D.o q)) (leBytes D.n (D.value s q))), ?_, hbm.trans h.hbm, miss.trans h.miss, fun va => ?_, h.code⟩
  · refine pad.trans ?_
    rw [h.pad, Drain.padAt, Drain.padAt, List.range_succ, List.foldl_append]
    rfl
  · exact (State.engPlace_of_pad hk (x.s.writePad_around ..) (fun k => x.s.writePad_tlb _ _ _ _ k) .write va).trans (h.place va)

/-- An element whose address fails ends the drain. -/
theorem Drain.At.fails {x : Xfer} (h : D.At s x D.count 0) (more : D.count < total) : ∃ c, c ≠ 0 ∧
    x.s.drainBad D.e (D.addr D.count) D.n = (c, D.addr D.count) ∧
      D.At s { x with code := 3, s := x.s.noteMiss (D.addr D.count) c } D.count 3 := by
  rcases r.stop with all | ⟨-, c, hc, fails⟩
  · omega
  · have place : x.s.engPlace D.e .write (D.addr D.count) = .error c := (h.place _).trans fails
    have quiet : ∀ va, x.s.noteMiss va c = x.s := fun va => by
      rw [State.noteMiss, if_neg (by rcases hc with rfl | rfl <;> decide)]
    refine ⟨c, by rcases hc with rfl | rfl <;> decide, by rw [State.drainBad, place], ?_⟩
    rw [quiet]
    exact ⟨h.works, h.pad, h.hbm, h.miss, h.place, rfl⟩

/-- The elements of a row from column `c` on move. -/
theorem Drain.At.row {x : Xfer} {m c fuel : Nat} (cols : c + fuel = D.d.dim0) (below : m * D.d.dim0 + D.d.dim0 ≤ total)
    (reached : m * D.d.dim0 + c ≤ D.count) (h : D.At s x (m * D.d.dim0 + c) 0) :
    D.At s (Xfer.drainRow D.e D.f D.bank m (D.d.row (D.row0 + m)) D.n fuel c x) (min D.count (m * D.d.dim0 + D.d.dim0))
      (if D.count < m * D.d.dim0 + D.d.dim0 then 3 else 0) := by
  induction fuel generalizing c x with
  | zero =>
    have here : m * D.d.dim0 + c = m * D.d.dim0 + D.d.dim0 := by omega
    rw [Nat.min_eq_right (by omega), if_neg (by omega), ← here]
    exact h
  | succ fuel ih =>
    have row : (m * D.d.dim0 + c) / D.d.dim0 = m := by
      rw [Nat.mul_comm, Nat.mul_add_div r.width.1, Nat.div_eq_of_lt (by omega), Nat.add_zero]
    have col : (m * D.d.dim0 + c) % D.d.dim0 = c := by
      rw [Nat.mul_comm, Nat.mul_add_mod, Nat.mod_eq_of_lt (by omega)]
    have addr : D.addr (m * D.d.dim0 + c) = D.d.row (D.row0 + m) + c * D.n := by rw [Drain.addr, row, col]
    have value : D.value x.s (m * D.d.dim0 + c) =
        (D.f.convert .rne .inf (fmtF32.value (x.s.accAt D.bank (m * 512 + c)).toNat)).res.bits := by rw [Drain.value, row, col]
    rw [Xfer.drainRow]
    by_cases more : m * D.d.dim0 + c < D.count
    · obtain ⟨good, next_⟩ := h.element r more
      rw [addr] at good
      rw [addr, value] at next_
      rw [good]
      dsimp only
      rw [if_neg (by simp)]
      exact ih (by omega) (by omega) next_
    · have end_ : m * D.d.dim0 + c = D.count := by omega
      rw [end_] at h addr
      obtain ⟨k, hk, bad, stop⟩ := h.fails r (by omega)
      rw [addr] at bad stop
      rw [bad]
      dsimp only
      rw [if_pos hk, Nat.min_eq_left (by omega), if_pos (by omega)]
      exact stop

/-- The rows of a drain from row `m` on move. -/
theorem Drain.At.rows {x : Xfer} {m fuel : Nat} (below : (m + fuel) * D.d.dim0 ≤ total) (reached : m * D.d.dim0 ≤ D.count)
    (h : D.At s x (m * D.d.dim0) 0) :
    D.At s (Xfer.drain D.e D.f D.bank D.d D.row0 D.n fuel m x) (min D.count ((m + fuel) * D.d.dim0))
      (if D.count < (m + fuel) * D.d.dim0 then 3 else 0) := by
  induction fuel generalizing m x with
  | zero =>
    rw [Nat.add_zero, Nat.min_eq_right reached, if_neg (by omega)]
    exact h
  | succ fuel ih =>
    have step : (m + (fuel + 1)) * D.d.dim0 = (m + 1 + fuel) * D.d.dim0 := by congr 1; omega
    have next_ : (m + 1) * D.d.dim0 = m * D.d.dim0 + D.d.dim0 := Nat.succ_mul ..
    have grows : (m + 1) * D.d.dim0 ≤ (m + 1 + fuel) * D.d.dim0 := Nat.mul_le_mul_right _ (by omega)
    have row := h.row r (Nat.zero_add _) (by omega) (by omega)
    rw [Xfer.drain]
    by_cases more : D.count < m * D.d.dim0 + D.d.dim0
    · rw [if_pos more, Nat.min_eq_left (by omega)] at row
      rw [if_pos (by rw [row.code]; decide), Nat.min_eq_left (by omega), if_pos (by omega)]
      exact row
    · rw [if_neg more, Nat.min_eq_right (by omega), ← next_] at row
      rw [if_neg (by rw [row.code]; decide), step]
      exact ih (by omega) (by omega) row

end Moves

/-- The drain of a command. -/
def ArrayCmd.drain (c : ArrayCmd) (g row0 : Nat) (d : Tensor) (count : Nat) (w o : Nat → Nat) : Drain where
  e := c.eng
  f := if d.fmt = 0 then fmtF32 else if d.fmt = 1 then fmtBF16 else fmtF16
  n := if d.fmt = 0 then 4 else 2
  bank := g * 4 + c.lease
  d := d
  row0 := row0
  count := count
  w := w
  o := o

theorem mdrain_completes {s : State} {g : Nat} {c : ArrayCmd} (e : Ends s g c) {tok row0 m count : Nat} {r : List Word} {w o : Nat → Nat}
    (op : c.op = .mdrain tok row0 m r) (reaches : (c.drain g row0 (tensorOf r) count w o).Reaches s (m * (tensorOf r).dim0)) :
    ∃ u, Completes s u g c ∧ u.acc = s.acc ∧ (u.arr g).fault = (s.arr g).fault ∧
      u.pad = (c.drain g row0 (tensorOf r) count w o).padAt s count ∧
      (s.alive c.t = true → tok ≠ 0 → (u.thr c.t).getX tok = ⟨if count < m * (tensorOf r).dim0 then errorStatus 3
        else if Table.get (s.arr g).fault c.lease 0 ≠ 0 then errorStatus (Table.get (s.arr g).fault c.lease 0)
        else word (m * (tensorOf r).dim0 * if (tensorOf r).fmt = 0 then 4 else 2), true, false, false⟩) := by
  have quiet : (c.drain g row0 (tensorOf r) count w o).Reaches s.noMiss (m * (tensorOf r).dim0) := by
    obtain ⟨key, size, width, place, stop⟩ := reaches
    exact ⟨key, size, width, fun q hq => ⟨(place q hq).1, fun x hx => (s.engPlace_noMiss ..).trans ((place q hq).2 x hx)⟩,
      stop.imp id fun ⟨less, k, hk, fails⟩ => ⟨less, k, hk, (s.engPlace_noMiss ..).trans fails⟩⟩
  generalize hD : c.drain g row0 (tensorOf r) count w o = D at *
  have start : D.At s.noMiss ⟨s.noMiss, [], 0, 0⟩ (0 * D.d.dim0) 0 :=
    ⟨.refl _, by rw [Nat.zero_mul]; rfl, rfl, rfl, fun _ => rfl, rfl⟩
  have dim : D.d.dim0 = (tensorOf r).dim0 := by rw [← hD]; rfl
  have cnt : D.count = count := by rw [← hD]; rfl
  have moved := start.rows quiet (m := 0) (fuel := m) (by rw [Nat.zero_add, dim]) (by omega)
  rw [Nat.zero_add, dim, cnt] at moved
  have within : count ≤ m * (tensorOf r).dim0 := by
    rcases quiet.stop with all | ⟨less, -⟩
    · omega
    · omega
  rw [Nat.min_eq_left within] at moved
  generalize hx : Xfer.drain D.e D.f D.bank D.d D.row0 D.n m 0 ⟨s.noMiss, [], 0, 0⟩ = x at moved
  have drains : s.noMiss.runDrain g c row0 m r = (x.s, if count < m * (tensorOf r).dim0 then errorStatus 3
      else if Table.get (s.arr g).fault c.lease 0 ≠ 0 then errorStatus (Table.get (s.arr g).fault c.lease 0)
      else word (m * (tensorOf r).dim0 * if (tensorOf r).fmt = 0 then 4 else 2)) := by
    have result : s.noMiss.runDrain g c row0 m r = (x.s, if x.code ≠ 0 then errorStatus 3
        else if Table.get (s.arr g).fault c.lease 0 ≠ 0 then errorStatus (Table.get (s.arr g).fault c.lease 0)
        else word (m * (tensorOf r).dim0 * if (tensorOf r).fmt = 0 then 4 else 2)) := by
      rw [← hx, ← hD]
      rfl
    rw [result, moved.code]
    by_cases less : count < m * (tensorOf r).dim0
    · simp [less]
    · simp [less]
  generalize (if count < m * (tensorOf r).dim0 then errorStatus 3
      else if Table.get (s.arr g).fault c.lease 0 ≠ 0 then errorStatus (Table.get (s.arr g).fault c.lease 0)
      else word (m * (tensorOf r).dim0 * if (tensorOf r).fmt = 0 then 4 else 2)) = status at *
  have effect : s.noMiss.endCommand g c = x.s.landX c.t tok status false := by
    rw [State.endCommand, op]
    dsimp only
    rw [drains]
  have arr : (x.s.landX c.t tok status false).arr g = s.arr g := by
    rw [State.arr, State.array, State.landX_arrays, moved.works.arrays]
    rfl
  have run := arrayCommandComplete_last e effect (by rw [arr]; exact e.saving) ((x.s.landX_ctxs ..).2.2.trans moved.miss) fun h hh => by
    rw [ArrayCmd.handle, op] at hh
    exact absurd hh (by simp)
  obtain ⟨⟨cx, ar, same⟩, arr', done⟩ := (x.s.landX c.t tok status false).commandEnded_facts g c
  refine ⟨_, ⟨run, by rw [arr'], done, ?_⟩, ?_, by rw [arr', arr], ?_, fun alive nz => ?_⟩
  · rw [same]
    exact (x.s.landX_hbm ..).trans moved.hbm
  · rw [same]
    exact (x.s.landX_acc ..).trans moved.works.acc
  · rw [same]
    exact (x.s.landX_pad ..).trans moved.pad
  · rw [same]
    exact State.thr_landX ((moved.works.alive c.t).trans alive) nz status

/-- Settles O43: a pass reads strips that it leaves as they are and adds them element by element (`State.doPass_adds`); the last
command of an array ends with the effect of its kind (`arrayCommandComplete_last`), an MDRAIN's being the elements that it moves in
row-major order (`Drain.At`). -/
theorem arrayWorks : Obligations.ArrayWorks := by
  unfold Obligations.ArrayWorks
  refine ⟨?_, ?_, ?_⟩
  · intro s g c rest st h p k n nx nt kch0 kcn row0 m ra rb hq op bank starts
    refine ⟨fun not_ => arrayPassStart_waits hq op not_, fun go => ?_⟩
    obtain ⟨n1, o1, run⟩ := arrayPassStart_starts op hq go
    obtain ⟨acc, threads, hbm, pad, -, -⟩ := s.passRead_keeps g c st h k n nx nt kch0 row0 m ra rb
    obtain ⟨ac, only⟩ : ∃ ac, (s.doPass g c).1 = { s.passRead g c st h k n nx nt kch0 row0 m ra rb with acc := ac } := by
      rw [State.doPass_mmul op]
      exact State.rowsPass_only ..
    refine ⟨_, n1, o1, run, by rw [State.arr_modArr], by rw [State.arr_modArr], by rw [State.arr_modArr], by rw [State.arr_modArr],
      ?_, ?_, ?_, ?_⟩
    · rw [only]; exact threads
    · rw [only]; exact hbm
    · rw [only]; exact pad
    intro j0 nb width strip rows narrow
    have small : width ≤ 512 := (Nat.min_le_left ..).trans narrow
    have adds := State.doPass_adds (g := g) (s := s) op small
    refine ⟨fun key other => ?_, fun i hi out => ?_, fun aw as bw bs clean hrows streamed resident => ?_⟩
    · exact (adds.keeps key (key_of_element rows small other)).trans (by rw [acc])
    · refine (adds.accAt fun h => ?_).trans (by rw [State.accAt, acc]; rfl)
      have := (mem_passElements small).1 h
      omega
    · have reads := State.passOperands_clean (k := k) (n := n) (nx := nx) (nt := nt) (kch0 := kch0) (c := c) clean hrows streamed resident
      obtain ⟨same, values⟩ := State.doPass_clean (g := g) op small reads
      refine ⟨?_, values⟩
      rw [State.arr_modArr, only, same]
      rfl
  · intro p e as bs ea eb ha hb _ _ weight q
    have sum : blockSum p as bs = q := by
      have planes : ∀ w, planesVal p w = weight w := fun w => by
        simp only [planesVal, weight]
        split <;> rfl
      simp only [blockSum_eq p as bs (by rw [ha, hb]), ha, planes]
      rfl
    refine ⟨blockStep_nan p e as bs, fun na nb => ?_⟩
    rw [blockStep_sum p e as bs na nb, sum]
  · intro s g c queue finishing busy saving stall completes
    have e : Ends s g c := ⟨queue, finishing, busy, saving, stall⟩
    refine ⟨fun op => mzero_completes e op, fun st h p k n nx nt kch0 kcn row0 m ra rb op idle => mmul_completes e op idle, ?_⟩
    intro tok row0 m r op d n f addr value fault count w o pos narrow place stop
    have size : 0 < n := by
      simp only [n]
      split <;> decide
    obtain ⟨u, done, acc, flag, pad, token⟩ := mdrain_completes (count := count) (w := w) (o := o) e op ⟨⟨_, rfl⟩, size, ⟨pos, narrow⟩, place, stop⟩
    refine ⟨u, done, acc, flag, pad, fun alive nz => (token alive nz).trans ?_⟩
    refine congrArg (fun v => (⟨v, true, false, false⟩ : Reg Word)) ?_
    split
    · rfl
    · split <;> rfl

end Sys2Proof.Machine
end

section
/-! SUPPORT AND PROOF. Acknowledgements, the flits that come to a port, and the chunks of a collective (R178-R180, R196, R197, R323). -/

namespace Sys2Proof.Machine

/-! ### Flits at a port (R180, R323) -/

/-- `f` is the first flit that comes to a port, and no parked flit waits to be re-injected. -/
structure Comes (s : State) (f : Flit) (rest : List Flit) : Prop where
  first : s.linkIn = f :: rest
  parked : s.unparked = []

section Arrival
variable {s : State} {f : Flit} {rest : List Flit}

/-- A port without parked flits takes the first one that comes to it, unless its park buffer withholds credit. -/
theorem Comes.flitReady (h : Comes s f rest) (credit : f.key ≠ (s.part f.part).fabkey ∨ s.parks f = false ∨ s.parkFull f.port = false) :
    s.flitReady f.port = some f := by
  have port : s.portNext f.port = some f := by
    rw [State.portNext, portFirst, h.first, h.parked]
    simp
  rw [State.flitReady, port]
  rcases credit with wrong | stays | room
  · simp [wrong]
  · simp [stays]
  · simp [room]

theorem Comes.arrives (h : Comes s f rest) (credit : f.key ≠ (s.part f.part).fabkey ∨ s.parks f = false ∨ s.parkFull f.port = false) :
    exec (.lanyardFlitArrival f.port) s =
      if f.key ≠ (s.part f.part).fabkey then .next (State.refuseKey { s with linkIn := rest } f)
      else if s.parks f = true then .next { s with linkIn := rest, parked := s.parked ++ [f] }
      else .next (State.deliver { s with linkIn := rest } f) := by
  have run : exec (.lanyardFlitArrival f.port) s = execLanyardFlitArrival f.port s := rfl
  have none_ : s.parkedNext f.port = none := by
    rw [State.parkedNext, portFirst, h.parked]
    rfl
  have taken : s.linkIn.erase f = rest := by
    rw [h.first, List.erase_cons_head]
  rw [run, execLanyardFlitArrival, none_, h.flitReady credit]
  dsimp only
  rw [taken]
  by_cases wrong : f.key = (s.part f.part).fabkey
  · refine (if_neg (not_not.2 wrong)).trans (Eq.trans ?_ (if_neg (not_not.2 wrong)).symm)
    by_cases parks : s.parks f = true
    · exact (if_pos parks).trans (if_pos parks).symm
    · exact (if_neg parks).trans (if_neg parks).symm
  · exact (if_pos wrong).trans (if_pos wrong).symm

/-- A flit of the running tenancy under its partition's key is delivered. -/
theorem Comes.delivers (h : Comes s f rest) (key : f.key = (s.part f.part).fabkey) (runs : (s.part f.part).cur = f.ten) :
    exec (.lanyardFlitArrival f.port) s = .next (State.deliver { s with linkIn := rest } f) := by
  have stays : s.parks f = false := by simp [State.parks, runs]
  rw [h.arrives (.inr (.inl stays)), if_neg (not_not.2 key), if_neg (by rw [stays]; decide)]

theorem Comes.isParked (h : Comes s f rest) (key : f.key = (s.part f.part).fabkey) (other : (s.part f.part).cur ≠ f.ten)
    (calm : (s.part f.part).switching = false) (room : (s.parked.filter fun q => q.port = f.port).length < 4096) :
    exec (.lanyardFlitArrival f.port) s = .next { s with linkIn := rest, parked := s.parked ++ [f] } := by
  have parks : s.parks f = true := by simp [State.parks, other, calm]
  have credit : s.parkFull f.port = false := decide_eq_false (Nat.not_le.2 room)
  rw [h.arrives (.inr (.inr credit)), if_neg (not_not.2 key), if_pos parks]

end Arrival

/-- What `u` keeps of `s` when only the links, the failed writes and the groups of remote writes may differ. -/
structure OnlyLinks (s u : State) : Prop where
  hbm : u.hbm = s.hbm
  pad : u.pad = s.pad
  chunksIn : u.chunksIn = s.chunksIn
  parked : u.parked = s.parked
  acks : u.acks = s.acks
  batchIn : u.batchIn = s.batchIn
  reportIn : u.reportIn = s.reportIn

theorem OnlyLinks.send {s u : State} (h : OnlyLinks s u) (f : Flit) : OnlyLinks s (u.send f) := by
  rw [State.send]
  split <;> exact ⟨h.hbm, h.pad, h.chunksIn, h.parked, h.acks, h.batchIn, h.reportIn⟩

/-- A refused key tells the sender and touches nothing else (R180). -/
theorem OnlyLinks.refuseKey {s u : State} (h : OnlyLinks s u) (f : Flit) : OnlyLinks s (u.refuseKey f) := by
  have failed : ∀ op, OnlyLinks s (u.failWrite f op 8) := fun _ => ⟨h.hbm, h.pad, h.chunksIn, h.parked, h.acks, h.batchIn, h.reportIn⟩
  have forgot : ∀ op, OnlyLinks s (u.forgetWrites f op) := fun _ => ⟨h.hbm, h.pad, h.chunksIn, h.parked, h.acks, h.batchIn, h.reportIn⟩
  rw [State.refuseKey]
  cases f.body with
  | last op => exact (forgot op).send _
  | chunk => exact h.send _
  | write op a bs =>
    dsimp only
    split
    · exact h
    · exact failed op
  | ack | batch | report => exact h

/-- The first flit of a chunk goes behind the whole ones. -/
theorem addChunk_whole {qs : List Flit} (whole : ∀ q ∈ qs, q.body.isWhole = true) (f : Flit) (op st ch : Nat) (w : Bool) (bs : List Byte) :
    addChunk f op st ch w bs qs = qs ++ [f] := by
  induction qs with
  | nil => rfl
  | cons q qs ih =>
    have here : q.body.isWhole = true := whole q (List.mem_cons_self ..)
    have later := ih fun p hp => whole p (List.mem_cons_of_mem _ hp)
    rw [addChunk]
    split
    · next heq =>
      rw [heq] at here
      cases here
    · rw [later]
      rfl

/-- A parked report of the running tenancy is kept, without a new check of its key. -/
theorem parkedReport_kept {s : State} {f : Flit} (only : s.parked = [f]) (runs : (s.part f.part).cur = f.ten) {g it m c : Nat}
    (body : f.body = .report g it m c) :
    exec (.lanyardFlitArrival f.port) s = .next { s with parked := [], reportIn := s.reportIn ++ [f] } := by
  have stays : s.parks f = false := by simp [State.parks, runs]
  have run : exec (.lanyardFlitArrival f.port) s = execLanyardFlitArrival f.port s := rfl
  have some_ : s.parkedNext f.port = some f := by
    rw [State.parkedNext, State.unparked, portFirst, only]
    simp [stays]
  have taken : s.parked.erase f = [] := by
    rw [only, List.erase_cons_head]
  rw [run, execLanyardFlitArrival, some_]
  dsimp only
  rw [State.deliver, body, taken]

/-- An acknowledgement that has arrived reaches the requests of its operation (R179). -/
theorem remoteWriteAck_reaches {s : State} {op code : Nat} (found : s.acks.find? (fun a => a.1 = op) = some (op, code)) :
    ∃ t, exec (.remoteWriteAck op) s = .next t ∧ (∀ a ∈ t.acks, a.1 ≠ op) ∧ t.hbm = s.hbm ∧
      ∀ k c, (k, c) ∈ t.ctxs → ∀ r ∈ c.queue, r.op = op → r.acked = some code ∧ (code = 8 ∨ code = 9 → r.code = code) := by
  have run : exec (.remoteWriteAck op) s = execRemoteWriteAck op s := rfl
  rw [run, execRemoteWriteAck, found]
  refine ⟨_, rfl, fun a ha => of_decide_eq_true (List.mem_filter.1 ha).2, rfl, fun k c hc r hr same => ?_⟩
  obtain ⟨e, -, he⟩ := List.mem_map.1 hc
  cases he
  obtain ⟨q, -, hq⟩ := List.mem_map.1 hr
  by_cases mine : q.op = op
  · rw [if_pos mine] at hq
    rw [← hq]
    exact ⟨rfl, fun bad => if_pos bad⟩
  · rw [if_neg mine] at hq
    rw [← hq] at same
    exact absurd same mine

/-! ### The chunks of a collective (R196, R197) -/

theorem State.modHead_queue {s : State} {k : Nat} {r : EngReq} (last : (s.engCtx k).queue = [r]) (f : EngReq → EngReq) :
    ((s.modHead k f).engCtx k).queue = [f r] := by
  rw [State.modHead, s.engCtx_modEngCtx, last]

theorem State.modHead_modHead {s : State} (k : Nat) (f g : EngReq → EngReq) :
    (s.modHead k f).modHead k g = s.modHead k fun r => g (f r) := by
  rw [State.modHead, State.modHead, State.modHead, State.modEngCtx, State.modEngCtx, State.modEngCtx, State.engCtx, State.engCtx,
    Table.get_set_same]
  rw [Table.set_set]
  cases (Table.get s.ctxs k freshEngCtx).queue <;> rfl

theorem State.modHead_congr {s : State} {k : Nat} {r : EngReq} (last : (s.engCtx k).queue = [r]) {f g : EngReq → EngReq} (same : f r = g r) :
    s.modHead k f = s.modHead k g := by
  rw [State.modHead, State.modHead, State.modEngCtx, State.modEngCtx, last]
  dsimp only
  rw [same]

section Taking
variable {s : State} {k : Nat} {r : EngReq} {kind : Nat} {f : Flit}

/-- A collective under way takes the whole chunk that waits for its context. -/
theorem collChunkReceive_takes (h : Heads s k r) (hk : r.kind = .coll kind) (ok : r.code = 0) (sent : r.sent = true)
    (step : r.step < collSteps kind (collOf r.desc).nr) (waits : s.chunkFor k r = some f) :
    exec (.collChunkReceive k) s = .next (s.noMiss.engTry k fun s => s.takeChunk k kind r f) := by
  have run : exec (.collChunkReceive k) s = execCollChunkReceive k s := rfl
  have taking : s.collTaking k kind r = true := by
    rw [State.collTaking, h.engRuns, sent]
    simp [ok, step]
  rw [run, execCollChunkReceive, h.queue]
  dsimp only
  rw [hk]
  dsimp only
  rw [if_pos taking, waits]

/-- The state in which a chunk has been taken from its port. -/
def State.tookChunk (s : State) (f : Flit) : State := { s.noMiss with chunksIn := s.chunksIn.erase f }

variable {op tag kd st ch : Nat} {w : Bool} {bs : List Byte} (body : f.body = .chunk op tag kd st ch w bs)
include body

theorem State.takeChunk_mismatch (bad : tag ≠ (collOf r.desc).tag ∨ kd ≠ kind ∨ st ≠ r.step ∨ ch ≠ r.chunk) :
    s.noMiss.takeChunk k kind r f = ((s.tookChunk f).sendAck f op 9).modHead k fun r => { r with code := 9 } := by
  rw [State.takeChunk, body]
  dsimp only
  have fits : (tag ≠ (collOf r.desc).tag || kd ≠ kind || st ≠ r.step || ch ≠ r.chunk || bs.length ≠
      min (collOf r.desc).chunk ((collTakes kind (collOf r.desc) r.step).2.1 - r.chunk * (collOf r.desc).chunk)) = true := by
    rcases bad with b | b | b | b <;> simp [b]
  exact if_pos fits

/-- A chunk that does not match ends the collective with code 9, and its sender is told (R197). -/
theorem collChunkReceive_mismatch (h : Heads s k r) (hk : r.kind = .coll kind) (ok : r.code = 0) (sent : r.sent = true)
    (step : r.step < collSteps kind (collOf r.desc).nr) (waits : s.chunkFor k r = some f)
    (bad : tag ≠ (collOf r.desc).tag ∨ kd ≠ kind ∨ st ≠ r.step ∨ ch ≠ r.chunk) :
    let g : Flit := { f with source := s.moduleNum, module := f.source, sender := f.part, part := f.sender, vc := 7, body := .ack op 9 }
    ∃ t, exec (.collChunkReceive k) s = .next t ∧ (t.engCtx k).queue = [{ r with code := 9 }] ∧
      (f.source = s.moduleNum → t.linkIn = s.linkIn ++ [g]) ∧ (f.source ≠ s.moduleNum → t.linkOut = s.linkOut ++ [g]) ∧
      t.chunksIn = s.chunksIn.erase f ∧ t.hbm = s.hbm ∧ t.pad = s.pad := by
  intro g
  have told : (s.tookChunk f).sendAck f op 9 = (s.tookChunk f).send g := rfl
  have sends : ((s.tookChunk f).send g).ctxs = s.ctxs ∧ ((s.tookChunk f).send g).xmiss = none ∧
      (f.source = s.moduleNum → ((s.tookChunk f).send g).linkIn = s.linkIn ++ [g]) ∧
      (f.source ≠ s.moduleNum → ((s.tookChunk f).send g).linkOut = s.linkOut ++ [g]) ∧
      ((s.tookChunk f).send g).chunksIn = s.chunksIn.erase f ∧ ((s.tookChunk f).send g).hbm = s.hbm ∧ ((s.tookChunk f).send g).pad = s.pad := by
    rw [State.send]
    by_cases own : f.source = s.moduleNum
    · rw [if_pos (show g.module = (s.tookChunk f).moduleNum from own)]
      exact ⟨rfl, rfl, fun _ => rfl, fun n => absurd own n, rfl, rfl, rfl⟩
    · rw [if_neg (show g.module ≠ (s.tookChunk f).moduleNum from own)]
      exact ⟨rfl, rfl, fun y => absurd y own, fun _ => rfl, rfl, rfl, rfl⟩
  have does := State.takeChunk_mismatch (s := s) (k := k) body bad
  rw [told] at does
  generalize (s.tookChunk f).send g = u at sends does
  obtain ⟨ctxs, met, there, away, chunks, hbm, pad⟩ := sends
  have queue : (u.engCtx k).queue = [r] := by
    rw [State.engCtx, ctxs]
    exact h.queue
  have ended := State.modHead_queue queue fun r => { r with code := 9 }
  obtain ⟨c, drops, kept, -⟩ := (u.modHead k fun r => { r with code := 9 }).dropAnswers_keeps k
  refine ⟨(u.modHead k fun r => { r with code := 9 }).dropAnswers k, ?_, kept.trans ended, ?_⟩
  · rw [collChunkReceive_takes h hk ok sent step waits, State.engTry_met (by rw [does]; exact met), does]
  · rw [drops]
    exact ⟨there, away, chunks, hbm, pad⟩

end Taking

/-- What a collective does once the bytes of a chunk are placed, of a step that receives `l` bytes. -/
def Xfer.chunkPlaced (y : Xfer) (k kind : Nat) (r : EngReq) (l : Nat) : State :=
  let d := collOf r.desc
  let s := y.s.modHead k fun r => { r with code := y.code, seen := y.seen }
  if y.code ≠ 0 then s
  else if (r.chunk + 1) * d.chunk < l then s.modHead k fun r => { r with chunk := r.chunk + 1 }
  else (s.modHead k fun r => { r with step := r.step + 1, chunk := 0, sent := false }).collStart k kind (collSteps kind d.nr + 1)

/-- With its steps over, a collective starts none. -/
theorem State.collStart_over {s : State} {k kind : Nat} {r : EngReq} (last : (s.engCtx k).queue = [r])
    (past : collSteps kind (collOf r.desc).nr ≤ r.step) (fuel : Nat) : s.collStart k kind fuel = s := by
  cases fuel with
  | zero => rfl
  | succ fuel =>
    rw [State.collStart, last]
    exact if_pos (by simp [past])

/-- A collective writes what it has made of a chunk, of a step that receives `l` bytes at `a`. -/
def Xfer.placeChunk (x : Xfer) (k kind : Nat) (r : EngReq) (a l : Nat) (out : List Byte) : State :=
  let d := collOf r.desc
  let y := Xfer.writeAll (r.eng k) .write (a + r.chunk * d.chunk) (if x.code ≠ 0 then [] else out) { x with code := 0 }
  let code := if x.code ≠ 0 then x.code else y.code
  let s := y.s.modHead k fun r => { r with code := code, seen := y.seen }
  if code ≠ 0 then s
  else if (r.chunk + 1) * d.chunk < l then s.modHead k fun r => { r with chunk := r.chunk + 1 }
  else (s.modHead k fun r => { r with step := r.step + 1, chunk := 0, sent := false }).collStart k kind (collSteps kind d.nr + 1)

theorem Xfer.placeChunk_ok {x : Xfer} (code : x.code = 0) (k kind : Nat) (r : EngReq) (a l : Nat) (out : List Byte) :
    x.placeChunk k kind r a l out =
      (Xfer.writeAll (r.eng k) .write (a + r.chunk * (collOf r.desc).chunk) out x).chunkPlaced k kind r l := by
  obtain ⟨s, seen, c, done⟩ := x
  obtain rfl : c = 0 := code
  rfl

/-- A collective at its next step, with nothing sent for it. -/
def EngReq.pastStep (code : Nat) (seen : List Nat) (r : EngReq) : EngReq :=
  { r with code := code, seen := seen, step := r.step + 1, chunk := 0, sent := false }

section Placed
variable {s : State} {k : Nat} {r : EngReq} {kind : Nat} {y : Xfer} (last : (y.s.engCtx k).queue = [r]) (ok : r.code = 0) (code : y.code = 0)
include last ok code

theorem Xfer.chunkPlaced_chunk {l : Nat} (more : (r.chunk + 1) * (collOf r.desc).chunk < l) :
    y.chunkPlaced k kind r l = y.s.modHead k fun r => { r with chunk := r.chunk + 1, seen := y.seen } := by
  rw [Xfer.chunkPlaced, if_neg (not_not.2 code), if_pos more, State.modHead_modHead]
  exact State.modHead_congr last (by rw [code, ok])

theorem Xfer.chunkPlaced_step {l : Nat} (whole : l ≤ (r.chunk + 1) * (collOf r.desc).chunk)
    (ends : collSteps kind (collOf r.desc).nr ≤ r.step + 1) :
    y.chunkPlaced k kind r l = y.s.modHead k fun r => { r with step := r.step + 1, chunk := 0, sent := false, seen := y.seen } := by
  have done : ¬ (r.chunk + 1) * (collOf r.desc).chunk < l := Nat.not_lt.2 whole
  have code_ : ¬ y.code ≠ 0 := not_not.2 code
  have queue := State.modHead_queue last (EngReq.pastStep y.code y.seen)
  have past : collSteps kind (collOf (r.pastStep y.code y.seen).desc).nr ≤ (r.pastStep y.code y.seen).step := ends
  have steps : y.chunkPlaced k kind r l = (y.s.modHead k (EngReq.pastStep y.code y.seen)).collStart k kind
      (collSteps kind (collOf r.desc).nr + 1) := by
    rw [Xfer.chunkPlaced, if_neg code_, if_neg done, State.modHead_modHead]
    rfl
  refine steps.trans ((State.collStart_over queue past _).trans (State.modHead_congr last ?_))
  rw [EngReq.pastStep, code, ok]

end Placed

section Fits
variable {s : State} {k : Nat} {r : EngReq} {kind : Nat} {f : Flit} {op : Nat} {w : Bool} {bs : List Byte} {a l : Nat} {own : Option Nat}
  (body : f.body = .chunk op (collOf r.desc).tag kind r.step r.chunk w bs) (takes : collTakes kind (collOf r.desc) r.step = (a, l, own))
  (size : bs.length = min (collOf r.desc).chunk (l - r.chunk * (collOf r.desc).chunk))
include body takes size

theorem State.takeChunk_fits : s.noMiss.takeChunk k kind r f = match own with
    | some o =>
      let (mine, x) := Xfer.readAll (r.eng k) (o + r.chunk * (collOf r.desc).chunk) bs.length ⟨s.tookChunk f, r.seen, 0, 0⟩
      x.placeChunk k kind r a l (reduceBytes (collOf r.desc).ty (collOf r.desc).rop (bs.length / elSize (collOf r.desc).ty) bs mine)
    | none => Xfer.placeChunk ⟨s.tookChunk f, r.seen, 0, 0⟩ k kind r a l bs := by
  cases own with
  | none =>
    rw [State.takeChunk, body]
    dsimp only
    rw [takes]
    dsimp only
    rw [if_neg (by simp [size])]
    rfl
  | some o =>
    rw [State.takeChunk, body, size]
    dsimp only
    rw [takes]
    dsimp only
    rw [if_neg (by simp [size])]
    rfl

end Fits

/-- What a collective goes on to once `y` has written the bytes of a chunk of a step that receives `l` bytes. -/
theorem collChunkReceive_placed {s : State} {k : Nat} {r : EngReq} {kind : Nat} {f : Flit} (h : Heads s k r) (hk : r.kind = .coll kind)
    (ok : r.code = 0) (sent : r.sent = true) (step : r.step < collSteps kind (collOf r.desc).nr) (waits : s.chunkFor k r = some f)
    {y : Xfer} {l : Nat} (does : s.noMiss.takeChunk k kind r f = y.chunkPlaced k kind r l) (w : Works (s.tookChunk f) y.s)
    (code : y.code = 0) (met : y.s.xmiss = none) :
    ((r.chunk + 1) * (collOf r.desc).chunk < l → exec (.collChunkReceive k) s =
      .next ((y.s.modHead k fun r => { r with chunk := r.chunk + 1, seen := y.seen }).dropAnswers k)) ∧
    (l ≤ (r.chunk + 1) * (collOf r.desc).chunk → collSteps kind (collOf r.desc).nr ≤ r.step + 1 → exec (.collChunkReceive k) s =
      .next ((y.s.modHead k fun r => { r with step := r.step + 1, chunk := 0, sent := false, seen := y.seen }).dropAnswers k)) := by
  have last : (y.s.engCtx k).queue = [r] := by
    rw [State.engCtx, w.ctxs]
    exact h.queue
  have goes : ∀ g : EngReq → EngReq, y.chunkPlaced k kind r l = y.s.modHead k g →
      exec (.collChunkReceive k) s = .next ((y.s.modHead k g).dropAnswers k) := fun g eq => by
    rw [collChunkReceive_takes h hk ok sent step waits, State.engTry_met (by rw [does, eq]; exact met), does, eq]
  exact ⟨fun more => goes _ (Xfer.chunkPlaced_chunk last ok code more), fun whole ends => goes _ (Xfer.chunkPlaced_step last ok code whole ends)⟩

/-- A collective with its steps done, or an error, completes (R196, R197). -/
theorem collComplete_ends {s : State} {k : Nat} {r : EngReq} {kind : Nat} (h : Heads s k r) (hk : r.kind = .coll kind)
    (over_ : r.code ≠ 0 ∨ collSteps kind (collOf r.desc).nr ≤ r.step) (met : (s.noMiss.endColl k kind r).xmiss = none) :
    ∃ t, exec (.collComplete k) s = .next t ∧ (t.engCtx k).queue = [] ∧ (t.engCtx k).done = r.num := by
  have ready : s.collReady k r = true := by
    rw [State.collReady, hk, h.engRuns]
    simpa using over_
  have run : exec (.collComplete k) s = .next ((s.noMiss.endColl k kind r).dropAnswers k) := by
    have run : exec (.collComplete k) s = execCollComplete k s := rfl
    rw [run, execCollComplete, h.queue]
    dsimp only
    rw [hk]
    dsimp only
    have tried : s.noMiss.engTry k (fun s => s.endColl k kind r) = (s.noMiss.endColl k kind r).dropAnswers k := State.engTry_met met
    rw [if_pos ready, tried]
  have ends : ∃ (u : State) (status : Word), s.noMiss.endColl k kind r = u.endReq k status ∧ Works s.noMiss u := by
    rw [State.endColl]
    dsimp only
    split
    · exact ⟨_, _, rfl, .refl _⟩
    · have moved : Works s.noMiss (if (collOf r.desc).nr = 1 && decide ((collOf r.desc).src ≠ (collOf r.desc).dst) then
          Xfer.move (r.eng k) (collOf r.desc).src (collOf r.desc).dst (collSpans kind (collOf r.desc)).2 ⟨s.noMiss, r.seen, 0, 0⟩
          else ⟨s.noMiss, r.seen, 0, 0⟩ : Xfer).s := by
        split
        · exact Xfer.move_works _ _ _ _ _ (.refl _)
        · exact .refl _
      generalize (if (collOf r.desc).nr = 1 && decide ((collOf r.desc).src ≠ (collOf r.desc).dst) then
          Xfer.move (r.eng k) (collOf r.desc).src (collOf r.desc).dst (collSpans kind (collOf r.desc)).2 ⟨s.noMiss, r.seen, 0, 0⟩
          else ⟨s.noMiss, r.seen, 0, 0⟩ : Xfer) = x at moved ⊢
      split
      · exact ⟨_, _, rfl, moved⟩
      · exact ⟨_, _, rfl, Xfer.writeAll_works _ _ _ _ _ moved⟩
  obtain ⟨u, status, does, w⟩ := ends
  have ended := (State.endReq_last (h.works w) status).1.dropAnswers
  rw [← does] at ended
  exact ⟨_, run, ended.queue, ended.done⟩

/-! ### The statement -/

/-- Settles O32: how the port treats each flit is `Comes.arrives`; a collective's chunk is taken by `State.takeChunk`, whose last writes
leave the request at the head of its context. -/
theorem remoteTraffic : Obligations.RemoteTraffic := by
  unfold Obligations.RemoteTraffic
  refine ⟨⟨fun s op code found => remoteWriteAck_reaches found, fun s f rest first none_ wrong => ?_,
      fun s f rest first none_ key other calm room => Comes.isParked ⟨first, none_⟩ key other calm room,
      fun s f g it m c only runs body => parkedReport_kept only runs body, fun s f rest first none_ key runs => ?_⟩,
    fun s k r kind f op tag kd st ch w bs queue hk ok sent stall runs step waits body bad =>
      collChunkReceive_mismatch body ⟨queue, runs, stall⟩ hk ok sent step waits bad,
    fun s k r kind f op w bs a l own queue hk ok sent stall runs step waits body takes size => ⟨fun plain code met => ?_,
      fun o mine x reduced reads xcode code met => ?_⟩,
    fun s k r kind queue hk stall runs over_ met => collComplete_ends ⟨queue, runs, stall⟩ hk over_ met⟩
  · have kept := OnlyLinks.refuseKey (s := s) (u := { s with linkIn := rest }) ⟨rfl, rfl, rfl, rfl, rfl, rfl, rfl⟩ f
    refine ⟨_, (Comes.arrives ⟨first, none_⟩ (.inl wrong)).trans (if_pos wrong), ?_⟩
    exact ⟨kept.hbm, kept.pad, kept.chunksIn, kept.parked, kept.acks, kept.batchIn, kept.reportIn⟩
  · have does := Comes.delivers ⟨first, none_⟩ key runs
    refine ⟨fun op tag kind st ch w bs body whole => ?_, fun g it m c body => ?_, fun op a bs x body good hx code => ?_,
      fun op body bad seen => ?_, fun op c body => ?_, fun g it body => ?_⟩
    · rw [does, State.deliver, body]
      dsimp only
      rw [addChunk_whole whole]
    · rw [does, State.deliver, body]
    · rw [does, State.deliver, body]
      have good_ : ¬ State.writeFailed { s with linkIn := rest } f op = true := (Bool.eq_false_iff.1 good)
      subst hx
      exact congrArg Host.Outcome.next ((if_neg good_).trans (if_neg (not_not.2 code)))
    · rw [does, State.deliver, body]
      have forgot : State.forgetWrites { s with linkIn := rest } f op = { s with linkIn := rest, remoteSeen := [] } := by
        rw [State.forgetWrites, bad, seen]
        rfl
      dsimp only
      rw [forgot, bad]
      rfl
    · rw [does, State.deliver, body]
    · rw [does, State.deliver, body]
  · subst plain
    have does := State.takeChunk_fits (s := s) (k := k) body takes size
    exact collChunkReceive_placed ⟨queue, runs, stall⟩ hk ok sent step waits
      (does.trans (Xfer.placeChunk_ok rfl k kind r a l bs)) (Xfer.writeAll_works _ _ _ _ _ (.refl _)) code met
  · subst reduced
    have does := State.takeChunk_fits (s := s) (k := k) body takes size
    have reads' : Xfer.readAll (r.eng k) (o + r.chunk * (collOf r.desc).chunk) bs.length ⟨s.tookChunk f, r.seen, 0, 0⟩ = (mine, x) := reads
    have readWorks := Xfer.readAll_works (r.eng k) (o + r.chunk * (collOf r.desc).chunk) bs.length ⟨s.tookChunk f, r.seen, 0, 0⟩ (.refl _)
    dsimp only at does
    rw [reads'] at does readWorks
    exact collChunkReceive_placed ⟨queue, runs, stall⟩ hk ok sent step waits
      (does.trans (Xfer.placeChunk_ok xcode k kind r a l _)) (Xfer.writeAll_works _ _ _ _ _ readWorks) code met

end Sys2Proof.Machine
end

section
/-! PROOF. The commit of a batch's step where the agent's number is listed twice (O50). -/

namespace Sys2Proof.Machine

/-- An agent of partition 1 without registers but for the string registers named. -/
def plainAgent (strings : Table Word) (st : Nat) (flight : List LongInst) : Agent where
  die := 0
  part := 1
  ten := 0
  cls := 0
  code := []
  a := []
  k := []
  s := strings
  f := []
  base := 0
  torn := false
  apc := 0
  st := st
  arrived := 0
  activated := 0
  flight := flight
  replay := []
  events := []
  fault := none
  halt := 0
  looked := false
  deficit := 0
  packet := none

/-- An APPEND of the empty string s0 to the context in k0, with its progress in a1. -/
def emptyAppend : LongInst := ⟨.append 0 0 1, 0, none, false, none, [], none, [], 0⟩

/-- The active agent that issued it, and the one that waits under the same number with another s0. -/
def activeTwin : Agent := plainAgent [] 1 [emptyAppend]
def waitingTwin : Agent := plainAgent [(0, 1)] 0 []

/-- A model without residencies, and a context of it without positions. -/
def bareModel : Model := ⟨2, 1, 64, 16, 0, 1, 1, 0, [], 0, 0⟩
def emptyContext : Context := ⟨1, 0, 0, 0, 0, 0, 0, 0, 0, 0, 0, 0, false, 0, false, 1, 0, [], []⟩

/-- The step of the APPEND, which has nothing to match and nothing to compute, and its batch. -/
def emptyStep : Step := ⟨0, 0, 0, 0, 0, 0, 0, false, [], [], none, false⟩
def emptyBatch : Batch := ⟨0, [emptyStep], 0, [], []⟩

/-- Partition 1 runs the batch, and admits two agents; its table of agents lists number 0 twice. -/
def State.twins : State :=
  { State.reset with
    agents := [(0, activeTwin), (0, waitingTwin)]
    contexts := [(0, emptyContext)]
    models := [(modelKey 1 0 0, bareModel)]
    iters := [(1, { freshIter with running := true, batches := [emptyBatch] })]
    parts := [(1, { State.reset.part 1 with cur := 0, swState := 0, gState := 0, agcfg := 2 })] }

/-- At the token boundary behind the commit the waiting twin becomes active, and stands for agent 0 from there on. -/
theorem twins_commit : ∃ u, exec (.iterationCommit 1) State.twins = .next u ∧ (u.agent 0).map (·.s) = some [(0, 1)] :=
  ⟨_, rfl, by decide⟩

/-- Refutes O50: the statement quantifies over every state, and with agent 0 listed twice in the table of agents the boundary behind the
commit puts the second entry, which waits for activation, in place of the first, whose s registers it does not have. -/
theorem not_agentSnapshotEffects : ¬ Obligations.AgentSnapshotEffects := by
  unfold Obligations.AgentSnapshotEffects
  intro h
  obtain ⟨-, commits⟩ := h
  have batch : State.twins.nextBatch 1 = some emptyBatch := by decide
  have inst : State.twins.stepInst emptyStep = some (activeTwin, emptyAppend) := by decide
  have append := (commits State.twins 1 emptyBatch emptyStep activeTwin emptyAppend emptyContext ⟨bareModel, [], emptyContext⟩ 0 0 0 1
    batch rfl rfl inst rfl rfl rfl rfl (by decide)).1 rfl
  obtain ⟨u, _, g', run, -, found, -, -, strings, -⟩ := append
  obtain ⟨v, run', other⟩ := twins_commit
  cases run.symm.trans run'
  have listed : u.agent 0 = some g' := found
  rw [listed] at other
  have kept : g'.s = [] := strings
  rw [Option.map_some, kept] at other
  exact absurd other (by decide)

end Sys2Proof.Machine
end

section
/-! SUPPORT AND PROOF. What the sequencers and the iteration engine leave as it is, and the iterations of a partition (R12, R240, R268,
R277-R279). -/

namespace Sys2Proof.Machine

/-! ### What the sequencers leave -/

/-- The iterations, models, partitions and threads. -/
def State.surround (s : State) : Table Iter × Table Model × Table Part × Table Thread := (s.iters, s.models, s.parts, s.threads)

/-- The same, and the contexts. -/
def State.agency (s : State) := (s.surround, s.contexts)

theorem State.surround_of_agency {s t : State} (h : t.agency = s.agency) : t.surround = s.surround := congrArg Prod.fst h

theorem agency_ite {c : Prop} [Decidable c] {s u : State} {f : State → State} (hf : u.agency = s.agency → (f u).agency = s.agency)
    (hu : u.agency = s.agency) : (if c then f u else u).agency = s.agency := by
  split
  · exact hf hu
  · exact hu

section Blocks
variable (s : State) (part it : Nat)

theorem Around.agency {s t : State} (h : Around s t) : t.agency = s.agency := by
  obtain ⟨_, _, _, _, _, _, _, _, _, rfl⟩ := h
  rfl

@[simp] theorem State.writeHbm_agency (c : Ctx) (a : Nat) (bs : List Byte) : (s.writeHbm c a bs).agency = s.agency :=
  (s.writeHbm_around c a bs).agency

@[simp] theorem State.modBlock_agency (b : Nat) (f : Block → Block) : (s.modBlock b f).agency = s.agency := rfl

@[simp] theorem State.lowerBlock_agency (b : Nat) : (s.lowerBlock part it b).agency = s.agency := rfl

@[simp] theorem State.raiseBlock_agency (b : Nat) : (s.raiseBlock b).agency = s.agency := rfl

@[simp] theorem State.iterWrite_agency (ten a : Nat) (bs : List Byte) : (s.iterWrite part ten a bs).agency = s.agency := by
  rw [State.iterWrite]
  split
  · exact s.writeHbm_agency _ _ _
  · rfl

@[simp] theorem State.setEntry_agency (c : Context) (j pbn : Nat) : (s.setEntry it c j pbn).agency = s.agency := by
  unfold State.setEntry
  exact agency_ite (f := fun u => u.lowerBlock c.part it (s.entry c j)) (fun h => (State.lowerBlock_agency ..).trans h)
    (agency_ite (f := fun u => u.raiseBlock pbn) (fun h => (State.raiseBlock_agency ..).trans h) (State.iterWrite_agency ..))

@[simp] theorem State.clearFrom_agency (c : Context) (j : Nat) : (s.clearFrom it c j).agency = s.agency := by
  rw [State.clearFrom]
  exact foldl_keeps State.agency _ (fun s i => s.setEntry_agency it c i noBlock) _ s

@[simp] theorem State.dropScratch_agency (l : List Nat) : (s.dropScratch part l).agency = s.agency :=
  foldl_keeps State.agency _ (fun s b => s.lowerBlock_agency part (s.iter part).num b) l s

@[simp] theorem State.dropNodes_agency (f : Node → Bool) : (s.dropNodes it f).agency = s.agency := by
  refine foldl_keeps State.agency _ (fun s n => ?_) _ _
  split <;> rfl

theorem State.evictNode_agency {u : State} {ten model keep : Nat} (h : s.evictNode part ten model it keep = some u) : u.agency = s.agency := by
  rw [State.evictNode, Option.map_eq_some_iff] at h
  obtain ⟨n, -, rfl⟩ := h
  exact s.dropNodes_agency it _

@[simp] theorem State.shrinkTree_agency (ten model keep cap fuel : Nat) :
    (s.shrinkTree part ten model it keep cap fuel).agency = s.agency := by
  induction fuel generalizing s with
  | zero => rfl
  | succ fuel ih =>
    rw [State.shrinkTree]
    split
    · rfl
    · split
      next u evicted => exact (ih u).trans (s.evictNode_agency part it evicted)
      next => rfl

@[simp] theorem State.insertNode_agency (c : Context) (j : Nat) : (s.insertNode c j it).agency = s.agency := by
  unfold State.insertNode
  extract_lets toks pbn tree
  split
  · rfl
  · split
    · rfl
    · have shrunk := s.shrinkTree_agency c.part it c.ten c.model
      extract_lets u
      split
      · exact shrunk _ _ _
      · exact shrunk _ _ _

@[simp] theorem State.insertBlocks_agency (d before : Nat) : (s.insertBlocks it d before).agency = s.agency := by
  rw [State.insertBlocks]
  split
  · exact foldl_keeps State.agency _ (fun s j => s.insertNode_agency it _ j) _ s
  · rfl

end Blocks

section Agents
variable (s : State) (p n it : Nat)

@[simp] theorem State.setAgent_agency (g : Agent) : (s.setAgent n g).agency = s.agency := rfl

@[simp] theorem State.modAgent_agency (f : Agent → Agent) : (s.modAgent n f).agency = s.agency := by
  rw [State.modAgent]
  split <;> rfl

@[simp] theorem State.dropPlans_agency : (s.dropPlans n).agency = s.agency := rfl

@[simp] theorem State.postTo_agency (r : List Word) : (s.postTo n r).agency = s.agency := rfl

@[simp] theorem State.store_agency (g : Agent) (ws : List (Nat × List Byte)) : (s.store g ws).agency = s.agency :=
  foldl_keeps State.agency (fun s (w : Nat × List Byte) => s.writeHbm g.ctx (g.base + w.1) w.2)
    (fun s w => s.writeHbm_agency g.ctx (g.base + w.1) w.2) ws s

@[simp] theorem State.stopAgent_agency (st : Nat) : (s.stopAgent n st).agency = s.agency := by
  rw [State.stopAgent]
  split
  · rfl
  · simp

@[simp] theorem State.drainPackets_agency (q fuel : Nat) : (s.drainPackets q fuel).agency = s.agency := by
  induction fuel generalizing s with
  | zero => rfl
  | succ fuel ih =>
    rw [State.drainPackets]
    split
    · split
      · refine (ih _).trans ?_
        split <;> rfl
      · rfl
    · rfl

@[simp] theorem State.completeIf_agency (pk : Option (Nat × Nat)) (st : Word) : (s.completeIf pk st).agency = s.agency := by
  cases pk with
  | none => rfl
  | some pk => exact State.drainPackets_agency _ _ _

@[simp] theorem State.activate_agency (b : Bool) (fuel : Nat) : (s.activate p b fuel).agency = s.agency := by
  induction fuel generalizing s with
  | zero => rfl
  | succ fuel ih =>
    rw [State.activate]
    split
    · rfl
    · extract_lets go
      have goes : ∀ u : State, (go u).agency = u.agency := fun u => State.completeIf_agency _ _ _
      split
      · exact (ih _).trans (goes s)
      · split
        · split
          · exact (ih _).trans ((goes _).trans (s.stopAgent_agency _ _))
          · rfl
        · rfl

@[simp] theorem State.wakeAgents_agency : (s.wakeAgents p).agency = s.agency := s.activate_agency _ _ _

@[simp] theorem State.takeFault_agency : (s.takeFault n).agency = s.agency := by
  rw [State.takeFault]
  split
  · split
    · simp
    · rfl
  · rfl

/-- A token boundary leaves the iterations and the contexts. -/
@[simp] theorem State.boundary_agency : (s.boundary p).agency = s.agency :=
  (State.wakeAgents_agency _ _).trans (foldl_keeps State.agency _ (fun s n => s.takeFault_agency n) _ s)

@[simp] theorem State.modEntry_agency (f : BatchEntry → BatchEntry) : (s.modEntry n f).agency = s.agency := by
  rw [State.modEntry]
  split <;> rfl

@[simp] theorem State.finishLong_agency (seq : Nat) : (s.finishLong n seq).agency = s.agency := by
  rw [State.finishLong]
  split
  · rfl
  · dsimp only
    split <;> rfl

end Agents

section Steps
variable (s : State) (p it : Nat) (t : Step)

@[simp] theorem State.modInst_agency (f : LongInst → LongInst) : (s.modInst t f).agency = s.agency := s.modAgent_agency _ _

@[simp] theorem State.pendFault_agency (n code apc : Nat) : (s.pendFault n code apc).agency = s.agency := s.modAgent_agency _ _

@[simp] theorem State.stepOk_agency : (s.stepOk t).agency = s.agency := s.modEntry_agency _ _

@[simp] theorem State.discard_agency : (s.discard it t).agency = s.agency := by
  rw [State.discard]
  split
  · dsimp only
    split <;> simp
  · rfl

/-- A step that fails commits nothing. -/
@[simp] theorem State.failStep_agency : (s.failStep p it t).agency = s.agency := by
  unfold State.failStep
  extract_lets u
  have kept : u.agency = s.agency := s.discard_agency it t
  split
  · exact kept
  · split
    · exact (State.modEntry_agency _ _ _).trans kept
    · exact (State.modEntry_agency _ _ _).trans kept

@[simp] theorem State.faultStep_agency (code : Nat) : (s.faultStep it t code).agency = s.agency := by
  rw [State.faultStep]
  split
  · simp
  · rfl

@[simp] theorem State.completeStep_agency : (s.completeStep p t).agency = s.agency := by
  rw [State.completeStep]
  split
  · simp
  · rfl

@[simp] theorem State.countIf_agency (c : Bool) (core idx : Nat) : (s.countIf c core idx).agency = s.agency := by
  rw [State.countIf]
  split <;> rfl

@[simp] theorem State.countDraw_agency (rs : List FRes) : (s.countDraw p rs).agency = s.agency := by
  rw [State.countDraw]
  exact foldl_keeps State.agency _ (fun s r => by simp) rs _

end Steps

/-! ### What a commit leaves -/

section Commits
variable (s : State) (p it : Nat) (t : Step)

theorem State.setCtx_surround (d : Nat) (c : Context) : (s.setCtx d c).surround = s.surround := rfl

theorem State.modCtx_surround (d : Nat) (f : Context → Context) : (s.modCtx d f).surround = s.surround := by
  rw [State.modCtx]
  split <;> rfl

theorem State.commitAppend_surround (g : Agent) (c : Context) (sb k : Nat) : (s.commitAppend p it t g c sb k).surround = s.surround := by
  unfold State.commitAppend
  extract_lets i n ts u v w x
  have ctx : v.surround = s.surround := (u.setCtx_surround _ _).trans (State.surround_of_agency (s.stepOk_agency t))
  have placed : x.surround = s.surround :=
    (State.surround_of_agency ((w.insertBlocks_agency it _ _).trans (v.modAgent_agency _ _))).trans ctx
  split
  · exact (State.surround_of_agency (x.completeStep_agency p t)).trans placed
  · exact placed

theorem State.commitScore_agency (g : Agent) (i : LongInst) (kn : Kernel) (fa sc k : Nat) :
    (s.commitScore p t g i kn fa sc k).agency = s.agency := by
  unfold State.commitScore
  extract_lets c cand pos lam
  split
  extract_lets u v
  have kept : v.agency = s.agency :=
    (u.modInst_agency t _).trans (((s.stepOk t).modAgent_agency _ _).trans (s.stepOk_agency t))
  split
  · exact (v.completeStep_agency p t).trans kept
  · exact kept

theorem State.commitTokens_surround (g : Agent) (c : Context) (late : Bool) (sb k : Nat) (ts : List Nat) (tok : Nat) :
    (s.commitTokens p it t g c late sb k ts tok).surround = s.surround := by
  unfold State.commitTokens
  extract_lets r w n ts' c' stopped left done u v x
  split
  · exact State.surround_of_agency (s.faultStep_agency it t _)
  · have ctx : u.surround = s.surround := (State.setCtx_surround _ _ _).trans
      (State.surround_of_agency (((s.stepOk t).dropScratch_agency p _).trans (s.stepOk_agency t)))
    have stored : v.surround = s.surround :=
      (State.surround_of_agency ((State.modAgent_agency _ _ _).trans (u.store_agency g _))).trans ctx
    have placed : x.surround = s.surround :=
      (State.surround_of_agency ((State.clearFrom_agency _ it c' _).trans (v.insertBlocks_agency it _ _))).trans stored
    split
    · exact (State.surround_of_agency (x.completeStep_agency p t)).trans placed
    · exact (State.surround_of_agency (x.modInst_agency t _)).trans placed

theorem State.commitGen_surround (g : Agent) (i : LongInst) (kn : Kernel) (sb k : Nat) :
    (s.commitGen p it t g i kn sb k).surround = s.surround := by
  unfold State.commitGen
  extract_lets c pol mask late
  split
  · exact State.surround_of_agency ((State.discard_agency _ it t).trans (s.stepOk_agency t))
  · split
    · exact State.surround_of_agency (s.faultStep_agency it t _)
    · split
      · split
        extract_lets u
        have drawn : u.surround = s.surround := State.surround_of_agency ((State.countDraw_agency _ p _).trans (s.stepOk_agency t))
        exact (State.surround_of_agency (State.modInst_agency _ t _)).trans ((u.modCtx_surround _ _).trans drawn)
      · split
        · split
          exact (State.commitTokens_surround _ p it t ..).trans (State.surround_of_agency (s.countDraw_agency p _))
        · split
          exact (State.commitTokens_surround _ p it t ..).trans (State.surround_of_agency (s.countDraw_agency p _))

/-- A step's commit leaves the iterations of every partition. -/
theorem State.commitStep_surround : (s.commitStep p it t).surround = s.surround := by
  unfold State.commitStep
  split
  · split
    · exact State.surround_of_agency (s.faultStep_agency it t _)
    · split
      · exact State.surround_of_agency (s.failStep_agency p it t)
      · split
        · exact s.commitAppend_surround p it t _ _ _ _
        · exact State.surround_of_agency (s.commitScore_agency p t _ _ _ _ _ _)
        · exact s.commitGen_surround p it t _ _ _ _ _
        · rfl
  · rfl

end Commits

/-! ### What accesses that are performed leave -/

/-- What the switch machines of a partition follow. -/
def Part.course (q : Part) : Nat × Nat × Nat × Nat := (q.swState, q.cur, q.incoming, q.gState)

/-- The iterations, and the switch machines of every partition. -/
def State.courses (s : State) : Table Iter × (Nat → Nat × Nat × Nat × Nat) := (s.iters, fun p => (s.part p).course)

section Courses
variable (s : State)

theorem Works.courses {s t : State} (h : Works s t) : t.courses = s.courses := by
  have iters : t.iters = s.iters := by
    obtain ⟨_, _, _, _, _, _, _, _, _, _, _, _, _, _, _, _, _, e⟩ := h.eq
    rw [e]
  refine Prod.ext iters (funext fun p => ?_)
  obtain ⟨n, o, e⟩ := h.part p
  have course : (t.part p).course = (s.part p).course := by
    rw [e]
    rfl
  exact course

theorem State.courses_of_surround {s t : State} (h : t.surround = s.surround) : t.courses = s.courses := by
  have iters : t.iters = s.iters := congrArg Prod.fst h
  have parts : t.parts = s.parts := congrArg (fun x => x.2.2.1) h
  rw [State.courses, State.courses, iters]
  simp only [State.part, parts]

theorem courses_ite {c : Prop} [Decidable c] {s u v : State} (hu : u.courses = s.courses) (hv : v.courses = s.courses) :
    (if c then u else v).courses = s.courses := by
  split
  · exact hu
  · exact hv

theorem State.readParts_courses (c : Ctx) (l : List (Place × Nat)) : (s.readParts c l).2.2.courses = s.courses := by
  induction l generalizing s with
  | nil => rfl
  | cons e l ih => exact (ih _).trans (s.noteRead_works c e.1 e.2).courses

theorem State.writeParts_courses (c : Ctx) (l : List (Place × Nat)) (bs : List Byte) : (s.writeParts c l bs).courses = s.courses := by
  induction l generalizing s bs with
  | nil => rfl
  | cons e l ih => exact (ih _ _).trans (s.writeAt_works c e.1 _).courses

theorem State.readEls_courses (c : Ctx) (w : Nat) (l : List (Nat × Place)) (v : VWord) : (s.readEls c w l v).2.2.courses = s.courses := by
  induction l generalizing s v with
  | nil => rfl
  | cons e l ih => exact (ih _ _).trans (s.noteRead_works c e.2 (w / 8)).courses

theorem State.landX_courses (t r : Nat) (v : Word) (poison : Bool) : (s.landX t r v poison).courses = s.courses := by
  rw [State.landX]
  exact courses_ite rfl rfl

theorem State.answerToken_courses (t r : Nat) (v : Word) : (s.answerToken t r v).courses = s.courses := by
  unfold State.answerToken
  exact courses_ite (s.landX_courses _ _ _ _) (courses_ite rfl rfl)

theorem State.braidPush_courses (die part ten : Nat) (w : Word) : (s.braidPush die part ten w).courses = s.courses := by
  unfold State.braidPush
  extract_lets names
  split
  · rfl
  · dsimp only
    exact courses_ite ((State.answerToken_courses _ _ _ _).trans rfl) rfl

theorem State.addReturn_courses (t : Nat) (r : Return) : (s.addReturn t r).courses = s.courses := rfl

/-- An access that is performed moves no iteration and no switch. -/
theorem State.perform_courses (t : Nat) (op : MemOp) : (s.perform t op).courses = s.courses := by
  cases op with
  | load rd n sx parts =>
    have read := s.readParts_courses (s.thr t).ctx parts
    exact (State.addReturn_courses _ _ _).trans (courses_ite read read)
  | store v parts => exact s.writeParts_courses _ _ _
  | sync k rd v core off lim => rfl
  | ldp rd core off =>
    have read := (s.noteRead_works (s.thr t).ctx (.pad core off) 8).courses
    exact (State.addReturn_courses _ _ _).trans (courses_ite read read)
  | few full core off => exact courses_ite rfl rfl
  | amo op o rd before v p =>
    have read := (s.noteRead_works (s.thr t).ctx p 8).courses
    exact courses_ite read ((State.writeAt_works _ _ _ _).courses.trans read)
  | vload vd w base els =>
    have read := s.readEls_courses (s.thr t).ctx w els base
    exact (State.addReturn_courses _ _ _).trans (courses_ite read read)
  | vstore w els =>
    exact foldl_keeps State.courses (fun u (e : Place × List Byte) => u.writeAt (s.thr t).ctx e.1 e.2)
      (fun u e => (u.writeAt_works (s.thr t).ctx e.1 e.2).courses) _ s
  | braid w => exact s.braidPush_courses _ _ _ _

theorem State.noteTaken_courses (t core off : Nat) : (s.noteTaken t core off).courses = s.courses := by
  unfold State.noteTaken
  exact courses_ite rfl rfl

theorem State.serve_courses (r : BankReq) : (s.serve r).courses = s.courses := by
  unfold State.serve
  extract_lets c bad v u w x
  have read : u.courses = s.courses := (s.noteRead_works c _ 8).courses
  have added : x.courses = s.courses := (State.addReturn_courses _ _ _).trans (courses_ite read read)
  split
  · exact (s.writePad_works c _ _ _).courses
  all_goals exact courses_ite ((State.noteTaken_courses _ _ _ _).trans added) added

theorem State.serveOne_courses {t : State} {l : List (Nat × List BankReq)} (e : s.serveOne l = some t) : t.courses = s.courses := by
  induction l with
  | nil => cases e
  | cons b l ih =>
    unfold State.serveOne at e
    split at e
    · cases e
      exact State.serve_courses _ _
    · exact ih e

theorem State.releaseOne_courses {t : State} {l : List (Nat × Thread)} (e : s.releaseOne l = some t) : t.courses = s.courses := by
  induction l with
  | nil => cases e
  | cons b l ih =>
    unfold State.releaseOne at e
    split at e
    · cases e
      exact State.perform_courses _ _ _
    · exact ih e

theorem State.settleFor_courses (n : Nat) : (State.settleFor n s).courses = s.courses := by
  induction n generalizing s with
  | zero => rfl
  | succ n ih =>
    unfold State.settleFor
    split
    next s' hs => exact (ih s').trans (s.serveOne_courses hs)
    next =>
      split
      next s' hs => exact (ih s').trans (s.releaseOne_courses hs)
      next => rfl

/-- Nor does what the banks serve. -/
theorem State.settle_courses : s.settle.courses = s.courses := s.settleFor_courses _

theorem State.rootStf_courses (root core off : Nat) (v : Word) : (s.rootStf root core off v).courses = s.courses :=
  (State.settle_courses _).trans (s.perform_courses _ _)

end Courses

/-! ### How a batch ends -/

/-- The iteration of a partition once a batch of it has ended. -/
def Iter.ended (i : Iter) (b : Batch) (cycle : Nat) : Iter :=
  let rest := i.batches.filter (·.group ≠ b.group)
  { i with running := !rest.isEmpty, batches := rest, cycle := if rest.isEmpty then cycle else i.cycle }

theorem State.endBatch_agency (s : State) (p : Nat) (b : Batch) :
    (s.endBatch p b).agency = (s.modIter p fun i => i.ended b s.cycle).agency := by
  unfold State.endBatch
  extract_lets rest u
  have same : u.agency = (s.modIter p fun i => i.ended b s.cycle).agency := rfl
  split
  · exact (u.boundary_agency p).trans same
  · exact same

theorem State.iter_modIter (s : State) (p : Nat) (f : Iter → Iter) : (s.modIter p f).iter p = f (s.iter p) := Table.get_set_same ..

theorem State.iter_of_courses {s t : State} (h : t.courses = s.courses) (p : Nat) : t.iter p = s.iter p := by
  have iters : t.iters = s.iters := congrArg Prod.fst h
  rw [State.iter, State.iter, iters]

section Ends
variable {s u : State} (p : Nat) (b : Batch)

/-- A batch that ends in a state with the iterations of `s`. -/
theorem State.endBatch_iter (h : u.surround = s.surround) :
    ((u.endBatch p b).iter p).batches = (s.iter p).batches.filter (fun x => decide (x.group ≠ b.group)) ∧
      ((u.endBatch p b).iter p).running = !((u.endBatch p b).iter p).batches.isEmpty ∧
      ((u.endBatch p b).iter p).num = (s.iter p).num := by
  have ended : (u.endBatch p b).iter p = (s.iter p).ended b u.cycle := by
    have agency := State.courses_of_surround (State.surround_of_agency (u.endBatch_agency p b))
    rw [State.iter_of_courses agency, State.iter_modIter, State.iter_of_courses (State.courses_of_surround h)]
  rw [ended]
  exact ⟨rfl, rfl, rfl⟩

theorem State.endBatch_keeps (h : u.agency = s.agency) : (u.endBatch p b).contexts = s.contexts ∧ (u.endBatch p b).models = s.models := by
  have agency := u.endBatch_agency p b
  have contexts : (u.endBatch p b).contexts = u.contexts := congrArg Prod.snd agency
  have models : (u.endBatch p b).models = u.models := congrArg (fun x => x.1.2.1) agency
  exact ⟨contexts.trans (congrArg Prod.snd h), models.trans (congrArg (fun x => x.1.2.1) h)⟩

theorem State.failSteps_agency (s : State) : (b.steps.foldl (fun s t => s.failStep p (s.iter p).num t) s).agency = s.agency :=
  foldl_keeps State.agency _ (fun s t => s.failStep_agency p _ t) _ s

theorem State.commitSteps_surround (s : State) : (b.steps.foldl (fun s t => s.commitStep p (s.iter p).num t) s).surround = s.surround :=
  foldl_keeps State.surround _ (fun s t => s.commitStep_surround p _ t) _ s

/-- A batch whose work failed ends with the contexts as they were (R279). -/
theorem State.failBatch_keeps (s : State) : (s.failBatch p b).contexts = s.contexts ∧ (s.failBatch p b).models = s.models :=
  State.endBatch_keeps p b (s.failSteps_agency p b)

end Ends

/-! ### The snapshot -/

theorem State.send_courses (s : State) (f : Flit) : (s.send f).courses = s.courses := by
  rw [State.send]
  exact courses_ite rfl rfl

theorem State.setPadFull_courses (s : State) (core off : Nat) (full : Bool) (holder : Option Nat) :
    (s.setPadFull core off full holder).courses = s.courses := rfl

/-- As in `State.askMask_memOk`, the definition is unfolded as a function. -/
theorem State.askMask_courses (s : State) (d : Nat) (c : Context) (p : Nat) : (s.askMask d c p).courses = s.courses := by
  suffices key : ∀ f, f = State.askMask → (f s d c p).courses = s.courses from key _ rfl
  intro f hf
  delta State.askMask at hf
  rw [congrFun (congrFun (congrFun (congrFun hf s) d) c) p]
  split
  · rw [State.rootStf_courses, State.settle_courses, State.setPadFull_courses]
  · rfl

theorem State.launchStep_courses (s : State) (t : Step) : (s.launchStep t).courses = s.courses := by
  unfold State.launchStep
  split
  · split
    · exact s.askMask_courses _ _ _
    · rfl
  · rfl

theorem State.multicast_courses (s : State) (part it : Nat) (bs : List Batch) : (s.multicast part it bs).courses = s.courses :=
  foldl_keeps State.courses _ (fun s _ => s.send_courses _) _ s

/-- The build launches the iteration. -/
theorem State.build_iter (s : State) (p it : Nat) :
    ((s.build p it).iter p).running = true ∧ ((s.build p it).iter p).num = it ∧ ((s.build p it).iter p).rest = false := by
  have launched : ∀ (u : State) (f : Iter → Iter) (steps : List Step) (bs : List Batch),
      ((steps.foldl State.launchStep (u.modIter p f)).multicast p it bs).iter p = f (u.iter p) := fun u f steps bs => by
    have kept := (State.multicast_courses (steps.foldl State.launchStep (u.modIter p f)) p it bs).trans
      (foldl_keeps State.courses _ State.launchStep_courses steps _)
    rw [State.iter_of_courses kept, State.iter_modIter]
  unfold State.build
  split
  extract_lets heldOf gs gs' keys s1 s2 s3
  split
  split
  extract_lets s6
  split
  extract_lets steps batches s8
  rw [launched]
  exact ⟨rfl, rfl, rfl⟩

theorem State.engTry_missed {s : State} {k page : Nat} {f : State → State} (misses : (f s).xmiss = some page) :
    s.engTry k f = s.engMiss k page := by
  rw [State.engTry, misses]

/-- The plan holds of node `n` lapse that have lasted 4 iterations (R268). -/
theorem State.modNodes_expire (s : State) (n : Nat) (i : Iter) :
    (s.modNodes [n] fun y => { y with holds := y.holds.map i.expire }) = { s with
      nodes := s.nodes.map fun y => if y.id = n then { y with holds := y.holds.map fun h =>
        if h.2 ≠ 0 ∧ (h.2 < i.num ∨ (h.2 = i.num ∧ i.running = false)) then (h.1, 0) else h } else y } := by
  have expire : i.expire = fun h => if h.2 ≠ 0 ∧ (h.2 < i.num ∨ (h.2 = i.num ∧ i.running = false)) then (h.1, 0) else h := by
    funext h
    rw [Iter.expire, Iter.lapsed]
    simp
  rw [State.modNodes, expire]
  simp

section Runs
variable {s : State} {p : Nat} {b : Batch}

theorem iterationSnapshot_tries (may : s.mayIterate p = true) :
    exec (.iterationSnapshot p) s = .next (s.noMiss.engTry (s.iterKey p) fun s => s.snapshot p ((s.iter p).num + 1)) := by
  have run : exec (.iterationSnapshot p) s = execIterationSnapshot p s := rfl
  rw [run, execIterationSnapshot, if_pos may]

theorem iterationCommit_ends (found : s.nextBatch p = some b) : exec (.iterationCommit p) s = .next (if b.erred then s.failBatch p b
    else (b.steps.foldl (fun s t => s.commitStep p (s.iter p).num t) s).endBatch p b) := by
  have run : exec (.iterationCommit p) s = execIterationCommit p s := rfl
  rw [run, execIterationCommit, found]

theorem modelGroupTimeout_fails (late : s.lateBatch p = some b) : exec (.modelGroupTimeout p) s = .next (s.failBatch p b) := by
  have run : exec (.modelGroupTimeout p) s = execModelGroupTimeout p s := rfl
  rw [run, execModelGroupTimeout, late]

end Runs

/-- On the lead, a report of the running iteration is kept (R279). -/
theorem shardReport_arrives {s : State} {p g it member code : Nat} {f : Flit}
    (none_ : (s.iter p).jobs.find? (fun j => s.tenRuns p j.ten) = none) (waits : s.reportIn.find? (fun f => f.part = p) = some f)
    (body : f.body = .report g it member code) :
    exec (.shardReport p) s = .next (
      let u : State := { s with reportIn := s.reportIn.erase f }
      if (s.iter p).running = true ∧ (s.iter p).num = it then u.modIter p fun i => { i with
        batches := i.batches.map fun b => if b.group = g then { b with reports := b.reports ++ [(member, code)] } else b }
      else u) := by
  have run : exec (.shardReport p) s = execShardReport p s := rfl
  have no : s.nextJob p = none := none_
  rw [run, execShardReport, no]
  dsimp only
  rw [waits]
  dsimp only
  rw [body]
  refine congrArg Host.Outcome.next ?_
  by_cases running : (s.iter p).running = true ∧ (s.iter p).num = it
  · refine Eq.trans (if_pos ?_) (if_pos running).symm
    exact Bool.and_eq_true_iff.2 ⟨running.1, decide_eq_true running.2⟩
  · refine Eq.trans (if_neg fun both => running ?_) (if_neg running).symm
    obtain ⟨runs, same⟩ := Bool.and_eq_true_iff.1 both
    exact ⟨runs, of_decide_eq_true same⟩

/-! ### The statement -/

/-- Settles O51: a batch ends through `State.endBatch`, and neither the commits nor the boundary behind it move an iteration. -/
theorem iterations : Obligations.Iterations := by
  unfold Obligations.Iterations
  refine ⟨fun s p => ?_, fun s p g it f waits body => ?_, fun s p j waits => ?_, fun s p g it member code f none_ waits body => ?_⟩
  · intro it u ends keeps
    refine ⟨fun may => ⟨fun met => ⟨?_, State.build_iter _ p it⟩, fun page misses => ?_⟩, fun not_ => ?_, fun b found => ⟨?_, fun erred t run => ?_⟩,
      fun none_ => ?_, fun b late => ⟨?_, fun t run => ?_⟩, fun none_ => ?_, fun due => ?_, fun not_ => ?_, ?_, fun n x found => ?_,
      fun n g found active fresh starts => ?_⟩
    · rw [iterationSnapshot_tries may]
      exact congrArg Host.Outcome.next (State.engTry_met met)
    · rw [iterationSnapshot_tries may]
      exact congrArg Host.Outcome.next (State.engTry_missed misses)
    · have run : exec (.iterationSnapshot p) s = execIterationSnapshot p s := rfl
      rw [run, execIterationSnapshot, not_]
      rfl
    · refine ⟨_, iterationCommit_ends found, ?_⟩
      split
      · exact State.endBatch_iter p b (State.surround_of_agency (s.failSteps_agency p b))
      · exact State.endBatch_iter p b (s.commitSteps_surround p b)
    · rw [iterationCommit_ends found, if_pos erred] at run
      cases run
      exact s.failBatch_keeps p b
    · have run : exec (.iterationCommit p) s = execIterationCommit p s := rfl
      rw [run, execIterationCommit, none_]
    · exact ⟨_, modelGroupTimeout_fails late, State.endBatch_iter p b (State.surround_of_agency (s.failSteps_agency p b))⟩
    · rw [modelGroupTimeout_fails late] at run
      cases run
      exact s.failBatch_keeps p b
    · have run : exec (.modelGroupTimeout p) s = execModelGroupTimeout p s := rfl
      rw [run, execModelGroupTimeout, none_]
    · exact if_pos due
    · exact if_neg (by rw [not_]; decide)
    · rfl
    · have run : exec (.planHoldExpiry n) s = execPlanHoldExpiry n s := rfl
      rw [run, execPlanHoldExpiry, found]
      exact congrArg Host.Outcome.next (State.modNodes_expire s n _)
    · have run : exec (.lookaheadDecode n) s = execLookaheadDecode n s := rfl
      rw [run, execLookaheadDecode, found]
      exact if_neg (by simp [active, fresh, starts])
  · have run : exec (.batchMulticast p) s = execBatchMulticast p s := rfl
    rw [run, execBatchMulticast, waits]
    dsimp only
    rw [body]
  · have run : exec (.shardReport p) s = execShardReport p s := rfl
    have next_ : s.nextJob p = some j := waits
    rw [run, execShardReport, next_]
    rfl
  · exact shardReport_arrives none_ waits body

end Sys2Proof.Machine
end

section
/-! SUPPORT AND PROOF. How a switch goes on (R317-R321, R326). -/

namespace Sys2Proof.Machine

/-! ### What the steps of a switch leave to the switch machines -/

/-- The switch machines of every partition. -/
def State.machines (s : State) : Nat → Nat × Nat × Nat × Nat := fun p => (s.part p).course

section Machines
variable (s : State)

theorem State.machines_of_courses {s t : State} (h : t.courses = s.courses) : t.machines = s.machines := congrArg Prod.snd h

theorem State.machines_of_agency {s t : State} (h : t.agency = s.agency) : t.machines = s.machines :=
  State.machines_of_courses (State.courses_of_surround (State.surround_of_agency h))

theorem machines_ite {c : Prop} [Decidable c] {s u v : State} (hu : u.machines = s.machines) (hv : v.machines = s.machines) :
    (if c then u else v).machines = s.machines := by
  split
  · exact hu
  · exact hv

theorem State.part_machines {s t : State} (h : t.machines = s.machines) (p : Nat) : (t.part p).swState = (s.part p).swState ∧
    (t.part p).cur = (s.part p).cur ∧ (t.part p).incoming = (s.part p).incoming ∧ (t.part p).gState = (s.part p).gState := by
  have course : (t.part p).course = (s.part p).course := congrFun h p
  have sw := congrArg Prod.fst course
  have cur := congrArg (fun x => x.2.1) course
  have inc := congrArg (fun x => x.2.2.1) course
  have g := congrArg (fun x => x.2.2.2) course
  exact ⟨sw, cur, inc, g⟩

/-! ### Slots that change hands (R319, R320) -/

theorem State.endRunOf_machines (t : Nat) : (s.endRunOf t).machines = s.machines := by
  unfold State.endRunOf
  dsimp only
  split
  · split
    · exact machines_ite rfl rfl
    · rfl
  · rfl

theorem State.saveBanks_machines (g : Nat) : (s.saveBanks g).machines = s.machines := by
  unfold State.saveBanks
  refine foldl_keeps State.machines _ (fun u e => ?_) _ s
  have given : (if (u.clearBank g e.1).alive e.2 then (u.clearBank g e.1).modThr e.2 fun th =>
      { th with savedBank := some (e.1, u.bankContents g e.1, Table.get (u.arr g).fault e.1 0) } else u.clearBank g e.1).machines =
        u.machines := machines_ite rfl rfl
  exact given

theorem State.saveThread_machines (t : Nat) : (s.saveThread t).machines = s.machines := by
  unfold State.saveThread
  extract_lets th g reqs sfu s1 toks s2 s3 s4 s5
  have h1 : s1.machines = s.machines := s.endRunOf_machines t
  have h2 : s2.machines = s.machines := h1
  have h3 : s3.machines = s.machines := machines_ite h2 h2
  have h4 : s4.machines = s.machines := by
    unfold s4
    split
    · exact h3
    · exact h3
  have h5 : s5.machines = s.machines := h4
  split
  · exact (s5.saveBanks_machines g).trans h5
  · exact h5

theorem State.restoreThread_machines (t : Nat) : (s.restoreThread t).machines = s.machines := by
  unfold State.restoreThread
  extract_lets th g core s1 s2 s3 s4 s5 back s6
  have h2 : s2.machines = s.machines := rfl
  have h3 : s3.machines = s.machines := by
    unfold s3
    split
    · exact h2
    · exact h2
  have h4 : s4.machines = s.machines := (foldl_keeps State.machines State.reenter (fun _ _ => rfl) _ s3).trans h3
  have h5 : s5.machines = s.machines := machines_ite h4 h4
  have h6 : s6.machines = s.machines := machines_ite h5 h5
  exact (State.machines_of_courses s6.settle_courses).trans h6

/-! ### Engines and agents of the tenancies (R197, R321, R324) -/

theorem Works.machines {s t : State} (h : Works s t) : t.machines = s.machines := State.machines_of_courses h.courses

theorem State.engTry_machines {k : Nat} {f : State → State} (h : (f s).machines = s.machines) : (s.engTry k f).machines = s.machines := by
  unfold State.engTry
  dsimp only
  split
  · rfl
  · rw [State.dropAnswers]
    exact machines_ite h h

theorem State.collSend_machines (k : Nat) (r : EngReq) (kind : Nat) : (s.collSend k r kind).s.machines = s.machines := by
  have sends : ∀ u : State, ∀ entry vc kind step i bs, (u.sendChunk r entry vc kind step i bs).machines = u.machines :=
    fun u _ _ _ _ _ _ => foldl_keeps State.machines _ (fun u _ => State.machines_of_courses (u.send_courses _)) _ u
  have read := fun a l => (Xfer.readAll_works (r.eng k) a l ⟨s, r.seen, 0, 0⟩ (.refl s)).machines
  unfold State.collSend
  dsimp only
  split
  · exact read _ _
  · refine (foldl_keeps State.machines _ (fun u i => ?_) _ _).trans (read _ _)
    exact machines_ite rfl (sends _ _ _ _ _ _ _)

theorem State.modHead_machines (k : Nat) (f : EngReq → EngReq) : (s.modHead k f).machines = s.machines := rfl

theorem State.collStart_machines (k kind fuel : Nat) : (s.collStart k kind fuel).machines = s.machines := by
  induction fuel generalizing s with
  | zero => rfl
  | succ fuel ih =>
    unfold State.collStart
    split
    next r rest heq =>
      extract_lets d x u
      have sent : u.machines = s.machines := s.collSend_machines k r kind
      split
      · rfl
      · split
        · exact sent
        · split
          split
          · exact (ih _).trans sent
          · exact sent
    next => rfl

theorem State.collLocal_machines (k : Nat) (r : EngReq) (kind : Nat) : (s.collLocal k r kind).s.machines = s.machines := by
  have moved := fun src dst n => (Xfer.move_works (r.eng k) src dst n ⟨s, r.seen, 0, 0⟩ (.refl s)).machines
  unfold State.collLocal
  dsimp only
  split
  · rfl
  · split
    · exact moved _ _ _
    · split
      · exact moved _ _ _
      · rfl

theorem State.startHead_machines (k : Nat) : (s.startHead k).machines = s.machines := by
  unfold State.startHead
  split
  next r rest _ =>
    split
    next kind _ =>
      split
      · rfl
      · refine s.engTry_machines ?_
        extract_lets x u
        have hu : u.machines = s.machines := s.collLocal_machines k r kind
        split
        · exact hu
        · exact (u.collStart_machines _ _ _).trans hu
    all_goals rfl
  next => rfl

theorem State.pauseColl_machines (k : Nat) : (s.pauseColl k).machines = s.machines := by
  unfold State.pauseColl
  split
  · split
    · split
      · rfl
      · exact (Xfer.writeAll_works _ _ _ _ ⟨s, [], 0, 0⟩ (.refl s)).machines
    all_goals rfl
  · rfl

theorem State.writeSave_machines (p : Nat) : (s.writeSave p).machines = s.machines := by
  unfold State.writeSave
  extract_lets q a
  split
  · exact State.machines_of_agency (State.writeHbm_agency _ _ _ _)
  · rfl

end Machines

/-- A guest that is not in RESTART does not run PREPARE again. -/
theorem State.guestResume_calm {s : State} {p : Nat} (calm : (s.part p).gState ≠ 5) : s.guestResume p = s := by
  rw [State.guestResume, State.guestRetry, if_neg calm]
  exact ite_self s

/-! ### The preload (R318) -/

theorem State.losePad_keeps (s : State) (q : Part) (ten core : Nat) :
    ((s.losePad q ten core).parts, (s.losePad q ten core).hbm) = (s.parts, s.hbm) := by
  rw [State.losePad]
  refine foldl_keeps (fun u : State => (u.parts, u.hbm)) _ (fun _ _ => ?_) _ s
  rfl

/-- A preload leaves the partitions and the bytes of HBM; one from an area that holds what the save wrote changes nothing. -/
theorem State.preload_keeps (s : State) (p ten : Nat) : (s.preload p ten).parts = s.parts ∧ (s.preload p ten).hbm = s.hbm := by
  have lost : ((s.loseTenancy p ten).parts, (s.loseTenancy p ten).hbm) = (s.parts, s.hbm) := by
    unfold State.loseTenancy
    extract_lets q n u
    have kept : (u.parts, u.hbm) = (s.parts, s.hbm) :=
      foldl_keeps (fun u : State => (u.parts, u.hbm)) _ (fun u _ => u.losePad_keeps q ten _) _ _
    exact kept
  rw [State.preload]
  split
  · exact ⟨rfl, rfl⟩
  · exact ⟨congrArg Prod.fst lost, congrArg Prod.snd lost⟩

theorem State.preload_held {s : State} {p ten : Nat} (held : 4 ≤ ten ∨ s.areaHolds p ten = true) : s.preload p ten = s := by
  rw [State.preload]
  exact if_pos (by simpa using held)

section Preload
variable {s : State} {p ten : Nat} (f : Part → Part) (run : exec (.preloadComplete p) s = .next ((s.preload p ten).modPart p f))
include run

/-- PRELOAD_COMPLETE for a tenancy whose part of the partition it changes by `f`. -/
theorem preloadComplete_moves : ∃ t, exec (.preloadComplete p) s = .next t ∧ t.part p = f (s.part p) ∧ t.hbm = s.hbm ∧
    (4 ≤ ten ∨ s.areaHolds p ten = true → t = s.modPart p f) := by
  obtain ⟨parts, hbm⟩ := s.preload_keeps p ten
  refine ⟨_, run, ?_, hbm, fun held => ?_⟩
  · rw [State.part_modPart, State.part, State.part, parts]
  · rw [State.preload_held held]

end Preload

/-! ### The switch begins (R317, R324) -/

theorem State.abortIteration_keeps (s : State) (p : Nat) :
    ((s.abortIteration p).parts, (s.abortIteration p).threads) = (s.parts, s.threads) := by
  have steps : ∀ (u : State) (n : Nat) (b : Batch), ((b.steps.foldl (fun s t => (s.discard n t).modEntry t.entry fun e => { e with st := 1 }) u).dropViews
      b).agency = u.agency := fun u n b => foldl_keeps State.agency _ (fun u t => by simp) _ u
  have all : ∀ (u : State) (n : Nat) (bs : List Batch), (bs.foldl (fun s b =>
      (b.steps.foldl (fun s t => (s.discard n t).modEntry t.entry fun e => { e with st := 1 }) s).dropViews b) u).agency = u.agency :=
    fun u n bs => foldl_keeps State.agency _ (fun u b => steps u n b) bs u
  unfold State.abortIteration
  extract_lets i u
  split
  · rfl
  · have kept : u.agency = s.agency := all s i.num i.batches
    have parts : u.parts = s.parts := congrArg (fun x => x.1.2.2.1) kept
    have threads : u.threads = s.threads := congrArg (fun x => x.1.2.2.2) kept
    exact Prod.ext parts threads

theorem State.beginSwitch_spec (s : State) (p tgt : Nat) :
    (s.beginSwitch p tgt).part p = { s.part p with incoming := tgt, handed := [] } ∧ (s.beginSwitch p tgt).threads = s.threads := by
  unfold State.beginSwitch
  extract_lets out u live v
  have aborted : (u.parts, u.threads) = (s.parts, s.threads) := s.abortIteration_keeps p
  have stopped : v.agency = u.agency := foldl_keeps State.agency _ (fun w n => w.stopAgent_agency n 0) live u
  have parts : v.parts = s.parts := Eq.trans (congrArg (fun x => x.1.2.2.1) stopped) (congrArg Prod.fst aborted)
  have threads : v.threads = s.threads := Eq.trans (congrArg (fun x => x.1.2.2.2) stopped) (congrArg Prod.snd aborted)
  have same : v.part p = s.part p := congrArg (fun t => Table.get t p freshPart) parts
  exact ⟨by rw [State.part_modPart, same], threads⟩

/-- At T an armed switch to another tenancy starts the handover. -/
theorem switchTimeReached_starts {s : State} {p : Nat} (armed : (s.part p).swState = 1) (due : (s.part p).switchat.toNat ≤ s.ftime)
    (other : (s.part p).swTgt ≠ (s.part p).cur) (g3 : (s.part p).gState ≠ 3) (g4 : (s.part p).gState ≠ 4) :
    ∃ t, exec (.switchTimeReached p) s = .next t ∧ (t.part p).swState = 2 ∧ (t.part p).incoming = (s.part p).swTgt ∧
      (t.part p).handed = [] ∧ (t.part p).cur = (s.part p).cur ∧ t.threads = s.threads := by
  have one : s.switchDue p = 1 := if_pos (by simp [armed, due])
  obtain ⟨part, threads⟩ := s.beginSwitch_spec p (s.part p).swTgt
  have run : exec (.switchTimeReached p) s = .next (s.startHandover p) := by
    have run : exec (.switchTimeReached p) s = execSwitchTimeReached p s := rfl
    rw [run, execSwitchTimeReached, one]
    exact (if_neg other).trans ((if_neg g3).trans (if_neg g4))
  have begun : (s.startHandover p).part p = { s.part p with incoming := (s.part p).swTgt, handed := [], swState := 2 } := by
    rw [State.startHandover, State.part_modPart, part]
  refine ⟨_, run, ?_, ?_, ?_, ?_, threads⟩ <;> rw [begun]

/-- One to the tenancy that runs ends at once. -/
theorem switchTimeReached_ends {s : State} {p : Nat} (armed : (s.part p).swState = 1) (due : (s.part p).switchat.toNat ≤ s.ftime)
    (same : (s.part p).swTgt = (s.part p).cur) (calm : (s.part p).gState ≠ 5) :
    exec (.switchTimeReached p) s = .next (s.modPart p fun q => { q with swState := 0, loaded := false }) := by
  have one : s.switchDue p = 1 := if_pos (by simp [armed, due])
  have run : exec (.switchTimeReached p) s = execSwitchTimeReached p s := rfl
  rw [run, execSwitchTimeReached, one]
  refine (if_pos same).trans (congrArg Host.Outcome.next ?_)
  exact State.guestResume_calm (by rw [State.part_modPart]; exact calm)

/-! ### The handover (R319) -/

/-- With the slot of this cycle every slot of the partition is handed over. -/
theorem handed_all (m : Nat) (l : List Nat) :
    ((maskList m 16).all l.contains = true) ↔ ∀ i, i < 16 → m.testBit i = true → i ∈ l := by
  simp only [maskList, List.all_eq_true, List.mem_filter, List.mem_range, maskBit_testBit, List.contains_iff_mem, and_imp]

theorem slotHandover_hands {s : State} {p : Nat} (hands : s.handsOver p = true) :
    ∃ t, exec (.slotHandover p) s = .next t ∧ (t.part p).handed = (s.part p).handed ++ [s.cycle % 16] ∧
      ((s.part p).swState = 2 → (t.part p).swState =
        if ∀ i, i < 16 → (s.part p).pslots.testBit i = true → i ∈ (s.part p).handed ++ [s.cycle % 16] then 3 else 2) := by
  have run : exec (.slotHandover p) s = execSlotHandover p s := rfl
  have go : ¬ (!s.handsOver p) = true := by rw [hands]; decide
  rw [run]
  unfold execSlotHandover
  rw [if_neg go]
  extract_lets slot q out u inn v handed every
  have saved : u.machines = s.machines := foldl_keeps State.machines _ (fun w t => w.saveThread_machines t) out s
  have restored : v.machines = s.machines := Eq.trans (foldl_keeps State.machines _ (fun w t => w.restoreThread_machines t) inn u) saved
  refine ⟨_, rfl, by rw [State.part_modPart], fun two => ?_⟩
  rw [State.part_modPart]
  obtain ⟨sw, -, -, -⟩ := State.part_machines restored p
  have still : (v.part p).swState = 2 := sw.trans two
  by_cases all : ∀ i, i < 16 → (s.part p).pslots.testBit i = true → i ∈ (s.part p).handed ++ [s.cycle % 16]
  · have yes : every = true := (handed_all _ _).2 all
    rw [if_pos all]
    exact if_pos (by rw [yes, still]; rfl)
  · rw [if_neg all]
    exact (if_neg fun both => all ((handed_all _ _).1 (Bool.and_eq_true_iff.1 both).1)).trans still

/-! ### The switch completes (R321-R324, R326) -/

section Completes
variable (s : State) (p : Nat)

/-- Once CUR has changed, the switch machines are as they were but for CUR. -/
theorem State.finishSwitch_part : ((s.finishSwitch p).part p).cur = (s.part p).incoming ∧
    ((s.finishSwitch p).part p).gState = (s.part p).gState := by
  unfold State.finishSwitch
  extract_lets q u v w
  have saved : u.machines = s.machines :=
    (State.writeSave_machines _ p).trans (foldl_keeps State.machines _ (fun x k => x.pauseColl_machines k) _ s)
  have marked : v.machines = s.machines := saved
  have cleared : w.machines = s.machines := machines_ite marked marked
  obtain ⟨-, -, incoming, guest⟩ := State.part_machines cleared p
  rw [State.part_modPart]
  exact ⟨incoming, guest⟩

theorem State.resume_machines : (s.resume p).machines = s.machines := by
  rw [State.resume]
  have started : ((s.ctxsOf p (s.part p).cur).foldl State.startHead s).machines = s.machines :=
    foldl_keeps State.machines _ State.startHead_machines _ s
  exact (State.machines_of_agency (State.wakeAgents_agency _ p)).trans started

variable {s p}

/-- The hypervisor's switch completes. -/
theorem switchComplete_host (last : (s.part p).swState = 3) (loaded : (s.part p).loaded = true) (drained : s.drainDone p = true)
    (calm : (s.part p).gState ≠ 5) :
    ∃ t, exec (.switchComplete p) s = .next t ∧ (t.part p).swState = 0 ∧ (t.part p).cur = (s.part p).incoming := by
  have one : s.switchEnds p = 1 := if_pos (by simp [last, loaded, drained])
  have run : exec (.switchComplete p) s = execSwitchComplete p s := rfl
  obtain ⟨cur, guest⟩ := s.finishSwitch_part p
  rw [run, execSwitchComplete, one]
  dsimp only
  generalize s.finishSwitch p = u at cur guest
  obtain ⟨sw, cur', -, guest'⟩ := State.part_machines ((u.modPart p fun q => { q with swState := 0, loaded := false }).resume_machines p) p
  rw [State.part_modPart] at sw cur' guest'
  have idle : (((u.modPart p fun q => { q with swState := 0, loaded := false }).resume p).part p).gState ≠ 5 := by
    rw [guest']
    exact guest ▸ calm
  rw [State.guestResume_calm idle]
  exact ⟨_, rfl, sw, cur'.trans cur⟩

/-- The guest's switch completes. -/
theorem switchComplete_guest (other : (s.part p).swState ≠ 3) (last : (s.part p).gState = 4) (drained : s.drainDone p = true) :
    ∃ t, exec (.switchComplete p) s = .next t ∧ (t.part p).gState = 0 ∧ (t.part p).cur = (s.part p).incoming := by
  have two : s.switchEnds p = 2 := (if_neg (by simp [other])).trans (if_pos (by simp [last, drained]))
  have run : exec (.switchComplete p) s = execSwitchComplete p s := rfl
  obtain ⟨cur, -⟩ := s.finishSwitch_part p
  rw [run, execSwitchComplete, two]
  dsimp only
  generalize s.finishSwitch p = u at cur
  obtain ⟨-, cur', -, guest'⟩ := State.part_machines ((u.modPart p fun q => { q with gState := 0 }).resume_machines p) p
  rw [State.part_modPart] at cur' guest'
  exact ⟨_, rfl, guest', cur'.trans cur⟩

end Completes

/-! ### The statement -/

/-- Settles O54: the threads that a handover saves and restores, the accesses that they make then, and the engines and agents that go on
leave `State.machines`, so that the switch machines move by the writes of the switch itself. -/
theorem switchProgress : Obligations.SwitchProgress := by
  unfold Obligations.SwitchProgress
  intro s p q
  refine ⟨fun guest => ?_, fun calm armed fresh => ?_, switchTimeReached_ends, switchTimeReached_starts, slotHandover_hands,
    fun not_ => if_pos (by rw [not_]; rfl), switchComplete_host, switchComplete_guest⟩
  · have run : exec (.preloadComplete p) s = .next ((s.preload p q.gFor).modPart p fun q => { q with gState := 2 }) := if_pos guest
    obtain ⟨t, goes, part, hbm, held⟩ := preloadComplete_moves _ run
    exact ⟨t, goes, part, hbm, fun area => held (.inr area)⟩
  · have loads : (s.part p).preloading = true := by
      rw [Part.preloading]
      simp [show (s.part p).loaded = false from fresh, show (s.part p).swState = 1 from armed]
    have run : exec (.preloadComplete p) s = .next ((s.preload p q.swTgt).modPart p fun q => { q with loaded := true }) :=
      (if_neg calm).trans (if_pos loads)
    exact preloadComplete_moves _ run

end Sys2Proof.Machine
end
